-- ==== Sys2Proof/Word.lean ====
section
/-!
DEFINITION. The word and byte types of the part. Multi-byte fields of host-visible structures are little-endian (R7);
bit 0 is the least significant bit (R6).
-/
namespace Sys2Proof

/-- One byte. -/
abbrev Byte := BitVec 8

/-- A string of bytes, byte 0 first. -/
abbrev Bytes := List (BitVec 8)

end Sys2Proof
end

