-- ==== Sys2Proof/Syntax.lean ====
section
/-!
DEFINITION. The commands of the part: one constructor for each row of spec/opcode_table.json, with its operands. An operand is
what stands outside the state: an address, a value, the bytes that a DMA read returned, a sensor reading, a card's answer.
-/
namespace Sys2Proof

/-- An error logged in a function's AER capability (R71, R83). -/
inductive AerErr
  | completionTimeout | unsupportedCompletion | completerAbort | poisoned | unsupportedRequest
  | malformed | ecrc | receiverOverflow | receiver | badTlp | badDllp | replay
deriving DecidableEq, Repr

/-- What a failed DMA read answered (R83, R127). -/
inductive ReadError | unsupported | abort | poisoned
deriving DecidableEq, Repr

/-- The read of an operation that failed (R127). -/
inductive OpRead | srcList | dstList | params | source
deriving DecidableEq, Repr

/-- A DMA read: of descriptors of a queue, or of an operation. -/
inductive DmaRead
  | descriptors (fn : BitVec 8) (queue : BitVec 12)
  | ofOp (op : Nat) (what : OpRead)
deriving DecidableEq, Repr

/-- The register space an access falls in: a function's BAR0 (0 the PF), the PF's BAR2 or a VF's (MSI-X table of the PF),
and the Nolur 3 window in BAR4 (R65, R67). -/
inductive Page
  | bar0 (fn : BitVec 8)
  | msix (fn : BitVec 8)
  | bar4
deriving DecidableEq, Repr

/-- What a register write carries (R71, R539): 1, 2 or 4 bytes, or 8 as the words for the lower and the upper address. -/
inductive RegValue
  | one (v : BitVec 8)
  | two (v : BitVec 16)
  | four (v : BitVec 32)
  | eight (low high : BitVec 32)
deriving DecidableEq, Repr

/-- A context register of a queue other than the vector and the control register (R91, R94). -/
inductive CtxReg | sqLo | sqHi | cqLo | cqHi | depth | coal
deriving DecidableEq, Repr

/-- The fault kinds that a cell reports (R22). -/
inductive CellFault | illegal | memU | check | memC
deriving DecidableEq, Repr

/-- The schedulers that dispatch operations (R20, R117): Cipher, Plan and Number regions, and Bellows' round robin. -/
inductive Region | cipher | plan | number | random
deriving DecidableEq, Repr

/-- What the DMA reads of an operation returned: the scatter lists, the parameter block and the source bytes (R123, R127).
Lists and blocks that the descriptor does not name are empty. -/
structure Dma where
  /-- source scatter list -/
  srcList : List (BitVec 128) := []
  /-- destination scatter list -/
  dstList : List (BitVec 128) := []
  /-- parameter block -/
  params : Bytes := []
  /-- source bytes, additional data first (R115) -/
  src : Bytes := []
deriving DecidableEq, Repr

/-- One piece of a burst of a world's copy engine: at most 64 bytes, read inside one 64-byte line and written inside one (R415). -/
structure CopyPiece where
  /-- the Bench's engine, else the Hearth's -/
  bench : Bool
  /-- source address, colour in bits 63:60 -/
  src : BitVec 64
  /-- destination address, colour in bits 63:60 -/
  dst : BitVec 64
  /-- bytes moved -/
  len : Fin 65
  /-- offset of the piece in its burst -/
  offset : BitVec 32
deriving DecidableEq, Repr

/-- An access of the debug master (R415, R420): an address, the value of a write, and the access size in bytes. -/
structure DebugReq where
  addr : BitVec 64
  write : Option (BitVec 64)
  size : BitVec 8
deriving DecidableEq, Repr

/-- An access that waits for a held protection unit (R417). -/
inductive UnitReq | copy (piece : CopyPiece) | debug (req : DebugReq)
deriving DecidableEq, Repr

/-- An operand specifier of the word machine (R394): mode, register number, and the extension, of which the mode takes the low
bytes. -/
structure Spec where
  mode : BitVec 4
  reg : BitVec 4
  ext : BitVec 64 := 0
deriving DecidableEq, Repr

/-- What start-up finds outside the state (R476): the LEGACY_MODE ball, the noise cells that pass step 3 of R340, the cells that pass the retest where fewer than 8 passed
(R341), whether the known-answer tests of step 4 pass, and the voltage that the AVS controller reads back (R469). -/
structure StartSeen where
  legacyBall : Bool
  testBall : Bool
  cellsOk : BitVec 32
  retestOk : BitVec 32
  katOk : Bool := true
  mv : BitVec 10
deriving DecidableEq, Repr

/-- What initialisation of the SD card finds (R500, R506): the cause of a failure, else the mode (1 SDR12 to 4 SDR104), the sample
phase, the capacity in blocks, VOLUME where the volume header is valid, and what the walk ends with. -/
structure SdCard where
  cause : Option (BitVec 8) := none
  mode : Fin 5 := 1
  phase : BitVec 5 := 0
  capacity : BitVec 32 := 0
  volume : Option (BitVec 64) := none
  lastSeq : BitVec 32 := 0
  nextLba : BitVec 32 := 64
deriving DecidableEq, Repr

/-- How the transfers of a backup-port operation end (R500, R501, R507), where the card stays in the port: done, or with a cause of
R495. -/
inductive SdEnd | done | failed (cause : BitVec 8)
deriving DecidableEq, Repr

/-- The read of the archive that a RESTORE commit makes (R222, R506): the blocks of the archive from its header to its commit
(empty where the walk finds none of that sequence), a removal, or a protocol failure. -/
inductive SdRead | blocks (bytes : Bytes) | removed (busy : Bool) | failed (cause : BitVec 8)
deriving DecidableEq, Repr

/-- What a RESTORE commit finds in the backup port: the card, and the read of its archive. -/
structure ArchiveSeen where
  card : SdCard := {}
  read : SdRead := .blocks []
deriving DecidableEq, Repr

/-- The read of a route list (R286): the entries, 16 bytes each with byte 0 lowest, or the error of the read (R83). -/
inductive BuildRead | entries (list : List (BitVec 128)) | failed (err : AerErr)
deriving DecidableEq, Repr

/-- One command. The docstring of each constructor names its row and its rule. -/
inductive Instr where
  /-- PERST_N_ASSERT (R84): Fundamental reset on PERST_N assertion performs a chip reset, carried out after any running Quench. -/
  | perstNAssert
  /-- POWER_ON (R466): VCORE and VIO rise above the switchover levels, causing a power-on reset of every domain except PD0. -/
  | powerOn
  /-- SUPPLY_LOSS (R466): VCORE or VIO falls below its switchover level; the Crucible runs from VBAT and the chip is held in reset. -/
  | supplyLoss
  /-- START_UP (R476): Release of reset starts the start-up sequence: OTP read, pending wipe, Crucible check, settings load, Bellows start, image checks, Hearth and Bench start, and bundle compilation. -/
  | startUp (seen : StartSeen)
  /-- START_UP_END (R477): Start-up ends: the queue engine is enabled, CRS ends and CHIP.STATE takes READY, LOCKED, QUENCHED or RECOVERY. -/
  | startUpEnd (micros : BitVec 20)
  /-- HOT_RESET (R84): A hot reset, secondary bus reset or link down without PERST_N resets every function as under FLR, while chip state is kept. -/
  | hotReset
  /-- LINK_DOWN (R84): The PCIe link goes down without PERST_N and acts as a hot reset. -/
  | linkDown
  /-- LINK_UP (R53): The link trains at the highest common speed and width, and HOSTIF.LINK is updated. -/
  | linkUp (speed width : Fin 5)
  /-- ASPM_L1_EXIT (R58): A doorbell or register access makes the link leave L1; the access completes after the exit latency. -/
  | aspmL1Exit
  /-- FLR (R85): A function-level reset of the PF or of a VF stops the function's fetching and aborts its work without completions. -/
  | flr (fn : BitVec 8)
  /-- FLR_COMPLETE (R85): The function reset completes within T_FLR and HOSTIF.FLR_BUSY clears. -/
  | flrComplete (fn : BitVec 8)
  /-- PM_STATE_CHANGE (R63): A write of the PF power state moves it between D0 and D3hot, which stops or resumes descriptor fetching. -/
  | pmStateChange (d3hot : Bool)
  /-- VF_ENABLE (R81): Setting VF Enable creates VFs 1 to NumVFs, which are ready within 1 ms. -/
  | vfEnable (numVfs : BitVec 16) (mse : Bool)
  /-- CONFIG_REQUEST (R75): A configuration request is answered with CRS until start-up ends, and normally afterwards. -/
  | configRequest (fn : BitVec 8) (write : Option (BitVec 32)) (dword : BitVec 10)
  /-- UNSUPPORTED_REQUEST (R71): A BAR access that is not naturally aligned or not of an accepted size is answered with Unsupported Request, or dropped and logged. -/
  | unsupportedRequest (fn : BitVec 8) (write : Bool)
  /-- TLP_RECEIVE_ERROR (R83): A received TLP or link error is logged in AER with its severity. -/
  | tlpReceiveError (fn : BitVec 8) (err : AerErr)
  /-- DMA_COMPLETION_TIMEOUT (R83): A DMA read passes its Completion Timeout; the operation completes with ST_HOST_MEMORY_ERROR. -/
  | dmaCompletionTimeout (read : DmaRead)
  /-- DMA_READ_ERROR (R127): A DMA read returns UR, CA or poisoned data; the operation completes with ST_HOST_MEMORY_ERROR and the DETAIL of the failed read. -/
  | dmaReadError (read : DmaRead) (err : ReadError)
  /-- VECTOR_UNMASK (R79): Unmasking an MSI-X vector, or its function, sends the pending message. -/
  | vectorUnmask (fn : BitVec 8) (vector : Option (BitVec 11))
  /-- REGISTER_WRITE (R8): A write to a register that has no row of its own updates the field under its access code. -/
  | registerWrite (page : Page) (addr : BitVec 16) (value : RegValue)
  /-- SQ_DOORBELL (R99): A submission doorbell write sets the new tail after the checks of R104, or is dropped. -/
  | sqDoorbell (fn : BitVec 8) (queue : BitVec 12) (value : BitVec 16) (head : Option (BitVec 16))
  /-- CQ_DOORBELL (R101): A completion doorbell write releases completion entries after the checks of R104, or breaks the queue. -/
  | cqDoorbell (fn : BitVec 8) (queue : BitVec 12) (value : BitVec 16)
  /-- DESCRIPTOR_FETCH (R100): The queue engine issues a read of adjacent descriptors while the credit rule allows it. -/
  | descriptorFetch (fn : BitVec 8) (queue : BitVec 12)
  /-- DESCRIPTOR_ARRIVAL (R35): Fetched descriptors arrive and pass checks 1 to 5 in order before being steered to their engine. -/
  | descriptorArrival (fn : BitVec 8) (queue : BitVec 12) (descs : List (BitVec 512))
  /-- STEERING_READ_DONE (R302): The parameter block read for an AES-family PLAN_RUN arrives, and a CRC-32C of the search key picks the pipeline. -/
  | steeringReadDone (op : Nat) (params : Bytes)
  /-- REGION_DISPATCH (R20): A region scheduler grants a waiting operation to a block, and the Rack makes its indivisible key access. -/
  | regionDispatch (region : Region)
  /-- OPERATION_COMPLETION (R106): An operation finishes; its completion entry is written under the ordering and credit rules, and an interrupt becomes pending. -/
  | operationCompletion (op : Nat)
  /-- COALESCE_TIMER (R132): TIME µs pass after the first pending interrupt, and the queue sends one MSI-X message. -/
  | coalesceTimer (fn : BitVec 8) (queue : BitVec 12)
  /-- SCHEDULING_EPOCH (R20): A 1 µs epoch boundary takes new weights and pending sets and carries dispatch credits forward. -/
  | schedulingEpoch
  /-- RATE_WINDOW (R33): At the end of each 1 ms window, all rate registers update together and RATE_SEQ increments. -/
  | rateWindow (cycles : Vector (BitVec 16) 8)
  /-- CELL_FAULT (R24): A cell reports ILLEGAL, MEM_U, CHECK or MEM_C; the block aborts or counts, and the fault level rises. -/
  | cellFault (block : BitVec 8) (kind : CellFault) (op : Option Nat)
  /-- FAULT_LEVEL_DECAY (R26): Ten seconds after the latest change, a block's fault level falls by 1. -/
  | faultLevelDecay (block : BitVec 8)
  /-- BUS_INTEGRITY_ERROR (R426): A beat fails its bus integrity code at a target; it is discarded, its operation faults and BUS_CODE is raised. -/
  | busIntegrityError (block : BitVec 8) (op : Option Nat)
  /-- REGION_WATCHDOG_EXPIRY (R44): A region stalled for REGION_WATCHDOG logs event 0x0103 and resets the chip. -/
  | regionWatchdogExpiry (region : Fin 6)
  /-- QUEUE_ENABLE (R97): Writing 1 to ENABLE on a disabled, drained queue resets its indices and starts fetching. -/
  | queueEnable (page : BitVec 8)
  /-- QUEUE_DISABLE (R98): Writing 0 to ENABLE stops fetching; DRAINED rises once every entry written is released. -/
  | queueDisable (page : BitVec 8)
  /-- QUEUE_CONTEXT_WRITE (R94): A write of a queue's base, depth or coalescing values is accepted only while the queue is disabled and drained. -/
  | queueContextWrite (page : BitVec 8) (reg : CtxReg) (value : BitVec 32)
  /-- Q_VECTOR_WRITE (R95): A write to Q_VECTOR is accepted only for a completion vector of the function, or with VEC_EN 0. -/
  | qVectorWrite (page : BitVec 8) (value : BitVec 32)
  /-- QSEL_WRITE (R93): A queue selector write sets RANGE when it names a queue that the function does not hold. -/
  | qselWrite (page : BitVec 8) (value : BitVec 32)
  /-- FUNC_QUEUES_WRITE (R96): A write of QMGR.FUNC_QUEUES changes a function's queue count, or is refused. -/
  | funcQueuesWrite (value : BitVec 32)
  /-- NOP (R119): The queue engine completes the descriptor with ST_OK as soon as its flags allow. -/
  | nop (op : Nat)
  /-- FENCE (R119): The queue engine completes once all earlier descriptors of the queue have completed, and holds later ones. -/
  | fence (op : Nat)
  /-- SLOT_QUOTA_WRITE (R137): A write to a tenant's SLOT_QUOTA is accepted or refused against usage, sums and state. -/
  | slotQuotaWrite (value : BitVec 32)
  /-- STORE_QUOTA_WRITE (R137): A write to a tenant's STORE_QUOTA is accepted or refused against usage, sums and state. -/
  | storeQuotaWrite (value : BitVec 32)
  /-- QUOTA_PERSIST (R137): The Hearth makes an accepted quota write persistent within 10 ms. -/
  | quotaPersist
  /-- ALLOW_COMMIT (R140): The staging allowed-tenant list is checked and replaces the active list, or the commit is refused. -/
  | allowCommit
  /-- DRBG_COUNT_WRITE (R144): A write of HOSTIF.DRBG_COUNT changes a function's DRBG instance count, or is refused. -/
  | drbgCountWrite (value : BitVec 32)
  /-- SHARE_WRITE (R147): A write to ENGINE.SHARE is dropped when any weight is 0; otherwise it applies from the next epoch. -/
  | shareWrite (value : BitVec 32)
  /-- MBX_TO_PF_DOORBELL (R149): A VF posts its mailbox message to the PF and the PF is signalled on vector 1 + n. -/
  | mbxToPfDoorbell (vf : BitVec 8)
  /-- MBX_TO_PF_ACK (R149): The PF acknowledges, which clears DOORBELL, sets ACKED and signals the VF. -/
  | mbxToPfAck (vf : BitVec 8)
  /-- MBX_FROM_PF_DOORBELL (R149): The PF posts a message to a VF and the VF is signalled on vector 0. -/
  | mbxFromPfDoorbell (vf : BitVec 8)
  /-- MBX_FROM_PF_ACK (R149): The VF acknowledges, which clears DOORBELL, sets ACKED and signals the PF. -/
  | mbxFromPfAck (vf : BitVec 8)
  /-- KEY_GENERATE (R163): Fills a target slot with fresh material and the template's attributes. -/
  | keyGenerate (op : Nat)
  /-- KEY_UNLOAD (R163): Erases a slot, invalidates its cached copies and reduces SLOTS_USED. -/
  | keyUnload (op : Nat)
  /-- KEY_MOVE (R163): Moves a key to a target slot and empties the source. -/
  | keyMove (op : Nat)
  /-- KEY_ATTR_READ (R163): Writes the slot's 16-byte attribute word to DST. -/
  | keyAttrRead (op : Nat) (dma : Dma)
  /-- KEY_IMPORT (R188): Imports an X9.143 key block under a protection key into a slot. -/
  | keyImport (op : Nat) (dma : Dma)
  /-- KEY_EXPORT (R192): Writes an X9.143 key block of a key under a protection key. -/
  | keyExport (op : Nat) (dma : Dma)
  /-- KEY_SAVE (R173): Writes a sealed blob of KIND 1 holding the slot's key. -/
  | keySave (op : Nat) (dma : Dma)
  /-- KEY_RESTORE (R174): Places the key of a KIND 1 sealed blob into a target slot. -/
  | keyRestore (op : Nat) (dma : Dma)
  /-- BLOB_REWRAP (R176): Rewraps a sealed blob under the tenant's current epoch inside one lane. -/
  | blobRewrap (op : Nat) (dma : Dma)
  /-- ATTEST_SIGN (R225): Writes the state report with its ECDSA P-384 and ML-DSA-65 signatures. -/
  | attestSign (op : Nat) (dma : Dma)
  /-- CERT_READ (R225): Writes a DER attestation certificate of the chosen chain and level. -/
  | certRead (op : Nat) (dma : Dma)
  /-- TEMPER_PASS_START (R185): The period elapses and a Temper pass starts. -/
  | temperPassStart
  /-- TEMPER_SLOT_REWRITE (R183): One slot, and the matching terminal cache entries, are rewritten with a fresh mask in one indivisible access. -/
  | temperSlotRewrite
  /-- TEMPER_TEMP_READ (R185): Every 100 ms the Rack reads Tj and may change the adaptive period band. -/
  | temperTempRead (tj : Int)
  /-- AES_ECB_ENC (R232): AES-ECB encryption with optional padding. -/
  | aesEcbEnc (op : Nat) (dma : Dma)
  /-- AES_ECB_DEC (R232): AES-ECB decryption with a padding report. -/
  | aesEcbDec (op : Nat) (dma : Dma)
  /-- AES_CBC_ENC (R232): AES-CBC encryption. -/
  | aesCbcEnc (op : Nat) (dma : Dma)
  /-- AES_CBC_DEC (R232): AES-CBC decryption. -/
  | aesCbcDec (op : Nat) (dma : Dma)
  /-- AES_CFB_ENC (R232): AES-CFB128 encryption. -/
  | aesCfbEnc (op : Nat) (dma : Dma)
  /-- AES_CFB_DEC (R232): AES-CFB128 decryption. -/
  | aesCfbDec (op : Nat) (dma : Dma)
  /-- AES_CTR_ENC (R232): AES-CTR encryption. -/
  | aesCtrEnc (op : Nat) (dma : Dma)
  /-- AES_CTR_DEC (R232): AES-CTR decryption. -/
  | aesCtrDec (op : Nat) (dma : Dma)
  /-- AES_GCM_ENC (R232): AES-GCM encryption with a tag. -/
  | aesGcmEnc (op : Nat) (dma : Dma)
  /-- AES_GCM_DEC (R244): AES-GCM decryption with tag verification and held or streamed output. -/
  | aesGcmDec (op : Nat) (dma : Dma)
  /-- AES_CCM_ENC (R232): AES-CCM encryption with a tag. -/
  | aesCcmEnc (op : Nat) (dma : Dma)
  /-- AES_CCM_DEC (R244): AES-CCM decryption with tag verification. -/
  | aesCcmDec (op : Nat) (dma : Dma)
  /-- AES_XTS_ENC (R238): XTS-AES encryption over data units, with ciphertext stealing. -/
  | aesXtsEnc (op : Nat) (dma : Dma)
  /-- AES_XTS_DEC (R238): XTS-AES decryption over data units. -/
  | aesXtsDec (op : Nat) (dma : Dma)
  /-- AES_KW_WRAP (R232): AES key wrap of host data. -/
  | aesKwWrap (op : Nat) (dma : Dma)
  /-- AES_KW_UNWRAP (R243): AES key unwrap with an integrity check. -/
  | aesKwUnwrap (op : Nat) (dma : Dma)
  /-- AES_KWP_WRAP (R232): AES key wrap with padding. -/
  | aesKwpWrap (op : Nat) (dma : Dma)
  /-- AES_KWP_UNWRAP (R243): AES key unwrap with padding, reporting the recovered length. -/
  | aesKwpUnwrap (op : Nat) (dma : Dma)
  /-- TDES_ECB_ENC (R232): TDES-ECB encryption. -/
  | tdesEcbEnc (op : Nat) (dma : Dma)
  /-- TDES_ECB_DEC (R232): TDES-ECB decryption. -/
  | tdesEcbDec (op : Nat) (dma : Dma)
  /-- TDES_CBC_ENC (R232): TDES-CBC encryption. -/
  | tdesCbcEnc (op : Nat) (dma : Dma)
  /-- TDES_CBC_DEC (R232): TDES-CBC decryption. -/
  | tdesCbcDec (op : Nat) (dma : Dma)
  /-- SEAL (R246): Seals host data with AES-256-GCM under the derived tenant storage key. -/
  | seal (op : Nat) (dma : Dma)
  /-- UNSEAL (R248): Checks a sealed header and decrypts under the derived storage key. -/
  | unseal (op : Nat) (dma : Dma)
  /-- HASH (R233): Computes a SHA-2, SHA-3 or SHAKE digest. -/
  | hash (op : Nat) (dma : Dma)
  /-- HMAC_GEN (R233): Generates an HMAC tag. -/
  | hmacGen (op : Nat) (dma : Dma)
  /-- HMAC_VER (R243): Verifies an HMAC tag in constant time. -/
  | hmacVer (op : Nat) (dma : Dma)
  /-- AES_CMAC_GEN (R233): Generates an AES CMAC. -/
  | aesCmacGen (op : Nat) (dma : Dma)
  /-- AES_CMAC_VER (R243): Verifies an AES CMAC. -/
  | aesCmacVer (op : Nat) (dma : Dma)
  /-- AES_GMAC_GEN (R233): Generates an AES GMAC. -/
  | aesGmacGen (op : Nat) (dma : Dma)
  /-- AES_GMAC_VER (R243): Verifies an AES GMAC. -/
  | aesGmacVer (op : Nat) (dma : Dma)
  /-- TDES_MAC_GEN (R233): Generates an ISO 9797-1 TDES MAC. -/
  | tdesMacGen (op : Nat) (dma : Dma)
  /-- TDES_MAC_VER (R243): Verifies an ISO 9797-1 TDES MAC. -/
  | tdesMacVer (op : Nat) (dma : Dma)
  /-- TDES_CMAC_GEN (R233): Generates a TDES CMAC. -/
  | tdesCmacGen (op : Nat) (dma : Dma)
  /-- TDES_CMAC_VER (R243): Verifies a TDES CMAC. -/
  | tdesCmacVer (op : Nat) (dma : Dma)
  /-- MASK_RESEED (R251): Every 1 ms, each lane's mask generator is reseeded from Bellows. -/
  | maskReseed
  /-- PLAN_RUN (R262): The front stage prepares a transaction: parameters, route lookup, key roles, terminal probe and random draw. -/
  | planRun (op : Nat) (dma : Dma)
  /-- PLAN_CONTEXT_START (R262): A free context takes the prepared transaction and starts it at slot 0. -/
  | planContextStart (op : Nat)
  /-- SWAGE_SLOT (R257): The sequencer runs one swage slot of a context: one ALU micro-operation and unit issues. -/
  | swageSlot (pipe : Fin 8) (ctx : Fin 8)
  /-- PLAN_LOAD (R275): The Bench verifies and compiles a customer recipe and installs its swage in all pipelines. -/
  | planLoad (op : Nat) (dma : Dma)
  /-- PLAN_UNLOAD (R275): Removes a plan's swage from all pipelines in one step. -/
  | planUnload (op : Nat)
  /-- ROUTE_LOOKUP (R281): A granted lookup walks the twelve trie stages to the longest matching route and counts the hit. -/
  | routeLookup
  /-- TERMINAL_INSERT (R294): After deriving an initial key on a miss, the pipeline tries to insert it and may post a rehash request. -/
  | terminalInsert (op : Nat)
  /-- BUILD_GO (R286): A write of GO starts a route build, which reads and checks the list or refuses it. -/
  | buildGo (read : BuildRead)
  /-- ROUTE_FLIP (R287): The built trie replaces the tenant-family's stage-1 entry in one write; TRIE_GEN increments and DONE is set. -/
  | routeFlip
  /-- TRIE_RECLAIM (R287): Once earlier lookups have passed stage 11, the old trie's entries and records are freed. -/
  | trieReclaim
  /-- TERMINAL_SWEEP (R296): Each sweep period, the sweeper ages live-bank entries and removes stale ones. -/
  | terminalSweep (pipe : Fin 8)
  /-- REHASH_START (R299): The Bench serves a qualifying rehash request; the Hearth draws a seed and the copy walk starts. -/
  | rehashStart (pipe : Fin 8)
  /-- REHASH_FLIP (R300): The copy walk ends; the spare bank becomes live and the old bank is erased. -/
  | rehashFlip (pipe : Fin 8)
  /-- FLUSH (R304): ROUTE.TERM_CTRL.FLUSH erases a pipeline's live bank, or both banks during a rehash. -/
  | flush (pipe : Fin 8)
  /-- REHASH (R304): ROUTE.TERM_CTRL.REHASH requests a rehash under R299. -/
  | rehash (pipe : Fin 8)
  /-- TERM_FLUSH_GO (R304): Starts removal of every entry of a tenant from every pipeline. -/
  | termFlushGo (tenant : BitVec 12)
  /-- TERM_FLUSH_DONE (R301): The tenant removal ends and BUSY clears. -/
  | termFlushDone
  /-- RSA_PRIVATE (R311): Raw RSA private operation with a sealed key. -/
  | rsaPrivate (op : Nat) (dma : Dma)
  /-- RSA_PUBLIC (R311): Raw RSA public operation. -/
  | rsaPublic (op : Nat) (dma : Dma)
  /-- RSA_SIGN (R311): RSA PSS or v1.5 signature. -/
  | rsaSign (op : Nat) (dma : Dma)
  /-- RSA_VERIFY (R311): RSA signature verification. -/
  | rsaVerify (op : Nat) (dma : Dma)
  /-- RSA_OAEP_ENCRYPT (R311): RSA-OAEP encryption. -/
  | rsaOaepEncrypt (op : Nat) (dma : Dma)
  /-- RSA_OAEP_DECRYPT (R322): RSA-OAEP decryption with indistinguishable failures. -/
  | rsaOaepDecrypt (op : Nat) (dma : Dma)
  /-- RSA_KEYGEN (R318): Generates an RSA key and returns a sealed blob and the public key. -/
  | rsaKeygen (op : Nat) (dma : Dma)
  /-- ECDSA_SIGN (R311): ECDSA signature with a slot key. -/
  | ecdsaSign (op : Nat) (dma : Dma)
  /-- ECDSA_VERIFY (R311): ECDSA signature verification. -/
  | ecdsaVerify (op : Nat) (dma : Dma)
  /-- ECDH (R311): ECDH shared secret with a slot key. -/
  | ecdh (op : Nat) (dma : Dma)
  /-- EC_PUBLIC (R311): Returns the public key of a slot scalar. -/
  | ecPublic (op : Nat) (dma : Dma)
  /-- EDDSA_SIGN (R311): Ed25519 or Ed448 signature. -/
  | eddsaSign (op : Nat) (dma : Dma)
  /-- EDDSA_VERIFY (R311): EdDSA signature verification. -/
  | eddsaVerify (op : Nat) (dma : Dma)
  /-- XDH (R322): X25519 or X448 agreement; an all-zero secret is refused. -/
  | xdh (op : Nat) (dma : Dma)
  /-- MLKEM_KEYGEN (R318): Generates an ML-KEM key pair. -/
  | mlkemKeygen (op : Nat) (dma : Dma)
  /-- MLKEM_ENCAPS (R311): ML-KEM encapsulation. -/
  | mlkemEncaps (op : Nat) (dma : Dma)
  /-- MLKEM_DECAPS (R322): ML-KEM decapsulation with implicit rejection. -/
  | mlkemDecaps (op : Nat) (dma : Dma)
  /-- MLDSA_KEYGEN (R318): Generates an ML-DSA key pair. -/
  | mldsaKeygen (op : Nat) (dma : Dma)
  /-- MLDSA_SIGN (R311): ML-DSA signature, hedged or deterministic. -/
  | mldsaSign (op : Nat) (dma : Dma)
  /-- MLDSA_VERIFY (R311): ML-DSA signature verification. -/
  | mldsaVerify (op : Nat) (dma : Dma)
  /-- YIELD_POINT (R329): A marked job reaches a yield point and stops, and the preempting job starts in the upper 6 KiB. -/
  | yieldPoint (unit : Fin 4)
  /-- PREEMPTED_RESUME (R329): After the preempting job completes and its memory is cleared, the preempted job resumes. -/
  | preemptedResume (unit : Fin 4)
  /-- HAMMER_ABORT (R332): ENGINE.HAMMER_ABORT GO aborts host jobs on a unit with ST_ABORTED and clears its memory. -/
  | hammerAbort (value : BitVec 32)
  /-- DRBG_INSTANTIATE (R346): Seeds an uninstantiated instance from the seed queue. -/
  | drbgInstantiate (op : Nat) (dma : Dma)
  /-- DRBG_GENERATE (R346): Generates random bytes, reseeding first when due or when PREDICT is set. -/
  | drbgGenerate (op : Nat) (dma : Dma)
  /-- DRBG_RESEED (R346): Reseeds an instantiated instance. -/
  | drbgReseed (op : Nat) (dma : Dma)
  /-- DRBG_UNINSTANTIATE (R346): Zeroes an instance's state. -/
  | drbgUninstantiate (op : Nat)
  /-- NOISE_CELL_FAILURE (R338): A cell fails a health test, goes out of service, and Bellows may enter RETEST. -/
  | noiseCellFailure (cell : Fin 32) (proportion : Bool)
  /-- RETEST (R341): RAND.CTRL.RETEST starts a 10 ms retest of the cells out of service. -/
  | retest
  /-- RETEST_END (R341): The retest ends; Bellows enters OK or FAILED and held requests complete. -/
  | retestEnd (passed : BitVec 32)
  /-- ENTROPY_RETRY (R341): ENTROPY_RETRY seconds in FAILED pass and a retest starts. -/
  | entropyRetry
  /-- SEED_DELIVERY (R344): The seed queue hands full-entropy blocks to the highest-priority waiting request. -/
  | seedDelivery
  /-- STRETCH_WINDOW (R349): At the end of a 10 ms window, S is raised or lowered from the seed-queue depth. -/
  | stretchWindow
  /-- INTERNAL_RESEED (R345): After 2^16 requests, the internal blinding instance reseeds at level 1. -/
  | internalReseed
  /-- SEED_QUEUE_PEAK_READ (R352): A read of RAND.SEED_QUEUE returns PEAK and clears it. -/
  | seedQueuePeakRead
  /-- SERVICE_ENTRY (R361): The Hearth starts the next pending service at its entry vector with registers set under R365. -/
  | serviceEntry
  /-- VAULTMBX_GO (R376): Setting GO copies the VAULTMBX request to the Hearth. -/
  | vaultmbxGo
  /-- RING_DOORBELL (R368): A world writes a new ring tail, interrupting the reader with a message. -/
  | ringDoorbell (bench : Bool) (filled : Fin 17)
  /-- HBI_HELLO (R372): The Bench offers its interface range to the Hearth. -/
  | hbiHello
  /-- HBI_ACK (R372): The Hearth replies with its range and CHOSEN, which both worlds then use. -/
  | hbiAck
  /-- HBI_HELLO_RETRY (R372): With no HBI_ACK within 100 ms, the Bench resends HBI_HELLO. -/
  | hbiHelloRetry
  /-- WDOG_KICK (R379): A write of 0x0000_4B49 restarts a world's watchdog; other values are logged. -/
  | wdogKick (core : Fin 5) (value : BitVec 32)
  /-- HEARTH_WATCHDOG_EXPIRY (R380): The Hearth is held in reset, its pending work fails cleanly and its SRAM is scrubbed. -/
  | hearthWatchdogExpiry
  /-- HEARTH_RESTART (R380): The ROM verifies and restarts the Hearth image, quotas are persisted and VAULT_UP returns. -/
  | hearthRestart
  /-- BENCH_WATCHDOG_EXPIRY (R382): All four Bench cores are reset together and its operations in progress end. -/
  | benchWatchdogExpiry (core : Fin 4)
  /-- BENCH_RESTART (R382): The Bench restarts from its verified image and repeats the handshake. -/
  | benchRestart
  /-- INTERRUPT_ENTRY (R404): A core takes a pending interrupt: it pushes FL and PC and jumps to the line's vector. -/
  | interruptEntry (core : Fin 5) (line : BitVec 7)
  /-- ZWM_NOP (R397): No operation. -/
  | zwmNop (core : Fin 5) (sz : BitVec 8)
  /-- MOV (R397): Copies a source to a destination with its tag. -/
  | mov (core : Fin 5) (sz : BitVec 8) (d a : Spec)
  /-- LEA (R397): Loads an effective address as ADDR. -/
  | lea (core : Fin 5) (sz : BitVec 8) (d m : Spec)
  /-- PUSH (R397): Pushes a value through A15. -/
  | push (core : Fin 5) (sz : BitVec 8) (a : Spec)
  /-- POP (R397): Pops a value through A15. -/
  | pop (core : Fin 5) (sz : BitVec 8) (d : Spec)
  /-- LEAC (R397): Loads a code address as CODE. -/
  | leac (core : Fin 5) (sz : BitVec 8) (d m : Spec)
  /-- KILL (R397): Sets a destination to 0 tagged POISON. -/
  | kill (core : Fin 5) (sz : BitVec 8) (d : Spec)
  /-- ADD (R397): Adds with flags. -/
  | add (core : Fin 5) (sz : BitVec 8) (d a b : Spec)
  /-- SUB (R397): Subtracts with flags. -/
  | sub (core : Fin 5) (sz : BitVec 8) (d a b : Spec)
  /-- ADC (R397): Adds with carry. -/
  | adc (core : Fin 5) (sz : BitVec 8) (d a b : Spec)
  /-- SBB (R397): Subtracts with borrow. -/
  | sbb (core : Fin 5) (sz : BitVec 8) (d a b : Spec)
  /-- MUL (R397): Low half of a product. -/
  | mul (core : Fin 5) (sz : BitVec 8) (d a b : Spec)
  /-- MULHU (R397): High half of an unsigned product. -/
  | mulhu (core : Fin 5) (sz : BitVec 8) (d a b : Spec)
  /-- DIVU (R397): Unsigned division in a fixed number of steps. -/
  | divu (core : Fin 5) (sz : BitVec 8) (d a b : Spec)
  /-- REMU (R397): Unsigned remainder. -/
  | remu (core : Fin 5) (sz : BitVec 8) (d a b : Spec)
  /-- AND (R397): Bitwise AND. -/
  | zwmAnd (core : Fin 5) (sz : BitVec 8) (d a b : Spec)
  /-- OR (R397): Bitwise OR. -/
  | zwmOr (core : Fin 5) (sz : BitVec 8) (d a b : Spec)
  /-- XOR (R397): Bitwise XOR. -/
  | xor (core : Fin 5) (sz : BitVec 8) (d a b : Spec)
  /-- NOT (R397): Bitwise complement. -/
  | zwmNot (core : Fin 5) (sz : BitVec 8) (d a : Spec)
  /-- SHL (R397): Shift left. -/
  | shl (core : Fin 5) (sz : BitVec 8) (d a b : Spec)
  /-- SHR (R397): Logical shift right. -/
  | shr (core : Fin 5) (sz : BitVec 8) (d a b : Spec)
  /-- SAR (R397): Arithmetic shift right. -/
  | sar (core : Fin 5) (sz : BitVec 8) (d a b : Spec)
  /-- ROL (R397): Rotate left. -/
  | rol (core : Fin 5) (sz : BitVec 8) (d a b : Spec)
  /-- CMP (R397): Sets flags from a subtraction. -/
  | cmp (core : Fin 5) (sz : BitVec 8) (a b : Spec)
  /-- TEST (R397): Sets flags from an AND. -/
  | test (core : Fin 5) (sz : BitVec 8) (a b : Spec)
  /-- SEL_CC (R397): Selects a or b by a condition. -/
  | selCc (core : Fin 5) (sz : BitVec 8) (d a b : Spec)
  /-- JMP (R397): Jumps to a CODE target. -/
  | jmp (core : Fin 5) (sz : BitVec 8) (a : Spec)
  /-- B_CC (R397): PC-relative conditional branch. -/
  | bCc (core : Fin 5) (sz : BitVec 8) (m : Spec)
  /-- CALL (R397): Pushes the return address and jumps. -/
  | call (core : Fin 5) (sz : BitVec 8) (a : Spec)
  /-- RET (R397): Returns to a popped CODE word. -/
  | ret (core : Fin 5) (sz : BitVec 8)
  /-- RETS (R366): Ends a Hearth service, releases the response and scrubs the registers and scratch window. -/
  | rets (core : Fin 5) (sz : BitVec 8) (scrub : Fin 501)
  /-- IRET (R397): Returns from an interrupt, restoring PC and FL. -/
  | iret (core : Fin 5) (sz : BitVec 8)
  /-- MACD (R399): Multiply-accumulates two private-memory words into ACC. -/
  | macd (core : Fin 5) (sz : BitVec 8) (a b : Spec)
  /-- ACCZ (R397): Clears ACC. -/
  | accz (core : Fin 5) (sz : BitVec 8)
  /-- ACCADD (R397): Adds a value to ACC. -/
  | accadd (core : Fin 5) (sz : BitVec 8) (a : Spec)
  /-- ACCST (R397): Stores the low word of ACC and shifts it. -/
  | accst (core : Fin 5) (sz : BitVec 8) (d : Spec)
  /-- REP (R401): Repeats the next instruction n times without interruption. -/
  | zwmRep (core : Fin 5) (n : BitVec 8)
  /-- REPI (R402): Repeats the next instruction A14 times, interruptibly. -/
  | repi (core : Fin 5) (sz : BitVec 8)
  /-- TAGOF (R397): Reads the tag of any word. -/
  | tagof (core : Fin 5) (sz : BitVec 8) (d a : Spec)
  /-- CLS (R397): Classifies a value as SECRET. -/
  | cls (core : Fin 5) (sz : BitVec 8) (d a : Spec)
  /-- DCLS (R397): Declassifies a SECRET value to INT on the Hearth. -/
  | dcls (core : Fin 5) (sz : BitVec 8) (d a : Spec)
  /-- RDCTL (R400): Reads a core control register. -/
  | rdctl (core : Fin 5) (sz : BitVec 8) (d a : Spec)
  /-- EI (R397): Enables interrupts. -/
  | ei (core : Fin 5) (sz : BitVec 8)
  /-- DI (R397): Disables interrupts. -/
  | di (core : Fin 5) (sz : BitVec 8)
  /-- WFI (R397): Waits until an interrupt is pending. -/
  | wfi (core : Fin 5) (sz : BitVec 8)
  /-- FEND (R397): Clears FL.FH to end a Bench fault handler. -/
  | fend (core : Fin 5) (sz : BitVec 8)
  /-- HOLD (R417): Setting MPU_CTRL.HOLD stops the protection unit deciding new accesses. -/
  | hold (core : Fin 5)
  /-- HOLD_ACK (R417): Accesses decided before the hold have completed and HOLD_ACK rises. -/
  | holdAck (bench : Bool)
  /-- HOLD_CLEAR (R417): Clearing HOLD lets the waiting accesses be decided under the new rules. -/
  | holdClear (bench : Bool)
  /-- LINE_SET (R416): GO colours LINE_COUNT lines from LINE_BASE, or the write is dropped. -/
  | lineSet (bench : Bool) (value : BitVec 32)
  /-- LINE_SET_DONE (R416): The colouring run ends and BUSY falls. -/
  | lineSetDone (bench : Bool)
  /-- MPU_RULE_WRITE (R417): An edit of colours, MPU_SECRET, MPU_DEBUG or SLOT_RULE is applied only while held, and not to fixed entries. -/
  | mpuRuleWrite (bench : Bool) (offset : BitVec 16) (value : BitVec 32)
  /-- DEBUG_ACCESS (R421): A debug master access is passed or, for a locked region, refused and counted as DEBUG_PROBE. -/
  | debugAccess (req : DebugReq)
  /-- SHIELD (R424): A shield line mismatches in both samples of a period and SHIELD trips. -/
  | shield (sector : Fin 8) (lines : BitVec 64)
  /-- ENVELOPE_MISMATCH (R425): An envelope loop mismatches and ENV_A or ENV_B trips. -/
  | envelopeMismatch (loopB mismatch : Bool)
  /-- LID (R423): LID_N stays high and LID trips. -/
  | lid
  /-- ZEROIZE (R423): ZEROIZE_N is low for at least 20 ns and a Quench starts. -/
  | zeroize
  /-- TEMP_READING (R423): Every 1 ms the sensor is read; four consecutive out-of-range readings trip TEMP_LOW or TEMP_HIGH. -/
  | tempReading (tj : Int)
  /-- VBAT_READING (R423): Every 1 s VBAT is read; two readings below 2.4 V trip BATTERY_LOW. -/
  | vbatReading (mv : BitVec 12)
  /-- QUENCH_COMPLETE (R434): The erasures end, operations in flight complete, the response record is written and the Hearth restarts. -/
  | quenchComplete
  /-- GROUP_CLOSE (R431): A group closes once its response has been carried out and at least 1 µs has passed. -/
  | groupClose
  /-- CLASS_SET (R430): Sets the class in force of each source, no lower than its minimum. -/
  | classSet
  /-- CLASS_PERSIST (R430): The Hearth makes new classes persistent within 10 ms. -/
  | classPersist
  /-- FUSE_DISABLE (R430): Blows the fuses that disable the chosen tamper sources. -/
  | fuseDisable
  /-- CER_OPEN (R201): Opens a ceremony of a kind and returns its ID and its signed ceremony public key. -/
  | cerOpen
  /-- CER_STEP (R204): Runs one card step: activate, identify, authenticate, verify the sealed PIN and carry out the role's action. -/
  | cerStep
  /-- CER_COMMIT (R209): Commits a QUORATE ceremony or reports ST_QUORUM_MISSING. -/
  | cerCommit (sd : ArchiveSeen)
  /-- CER_ABORT (R200): Ends the open ceremony and erases its state. -/
  | cerAbort
  /-- CER_STATUS (R198): Returns the open ceremony's state, counts and time left. -/
  | cerStatus
  /-- SET_READ (R198): Returns a custodian set record. -/
  | setRead
  /-- ATTEST_MAC (R224): Returns the state report with its HMAC under the attestation key. -/
  | attestMac
  /-- CEREMONY_WINDOW_EXPIRY (R200): The CEREMONY_WINDOW expires and the ceremony ends. -/
  | ceremonyWindowExpiry
  /-- CEREMONY_IDLE_LIMIT (R200): A ceremony still OPEN 5 min after CER_OPEN ends. -/
  | ceremonyIdleLimit
  /-- CARD_INSERTED (R487): A DET ball stays low for 10 ms and the card counts as inserted. -/
  | cardInserted (port : Fin 5)
  /-- CARD_REMOVED (R487): A DET ball is high for 5 µs; the port deactivates and any operation ends with a removal status. -/
  | cardRemoved (port : Fin 5) (busy : Option Bool)
  /-- ATR_RECEIVED (R490): The ATR arrives and its class indicator decides whether the class is kept or changed. -/
  | atrReceived (port : Fin 4) (atr : Bytes)
  /-- ATR_TIMEOUT (R490): No ATR arrives in time at a class, and the port deactivates and tries the next class. -/
  | atrTimeout (port : Fin 4)
  /-- PPS_RESPONSE (R491): The PPS response arrives; the clock is set, or activation is retried once. -/
  | ppsResponse (port : Fin 4) (bytes : Bytes)
  /-- T1_BLOCK_RECEIVED (R492): A T=1 block arrives from the card and is handled, chained or answered with an R-block. -/
  | t1BlockReceived (port : Fin 4) (block : Bytes) (parity : Bool)
  /-- T1_TIMEOUT (R493): A BWT or CWT timeout leads to an R-block, a resynchronisation or deactivation. -/
  | t1Timeout (port : Fin 4)
  /-- APDU_TIMEOUT (R493): T_APDU_MAX passes and the port deactivates with cause 0x07. -/
  | apduTimeout (port : Fin 4)
  /-- CARD_CLOCK_STOP (R494): 1,860 cycles after a response the port stops the card clock, if the card allows it. -/
  | cardClockStop (port : Fin 4)
  /-- ARCHIVE_WRITE (R507): Writes a KIND 1 tenant archive and its commit block to the SD card. -/
  | archiveWrite (op : Nat) (card : SdCard) (how : SdEnd)
  /-- ARCHIVE_RECORDER (R508): Writes a KIND 2 archive of every record. -/
  | archiveRecorder (op : Nat) (card : SdCard) (how : SdEnd)
  /-- ARCHIVE_STATUS (R506): Initialises and walks the card if needed and reports sequence, next LBA and free space. -/
  | archiveStatus (op : Nat) (card : SdCard) (how : SdEnd)
  /-- ARCHIVE_FORMAT (R508): Writes a new volume header, making every earlier archive absent. -/
  | archiveFormat (op : Nat) (card : SdCard) (how : SdEnd)
  /-- CARD_IDENTIFY (R508): Activates a custodian card, reads and checks its identity, and deactivates it. -/
  | cardIdentify (op : Nat)
  /-- SD_CRC_ERROR (R501): A CRC error stops the transfer, retunes and retries, or lowers the mode. -/
  | sdCrcError
  /-- SD_BUSY_TIMEOUT (R501): DAT0 stays busy beyond T_SD_BUSY and the operation fails with cause 0x26. -/
  | sdBusyTimeout
  /-- LC_STATUS (R460): Returns life-cycle, state, tokens, scope and booted images, by VAULTMBX or JTAG. -/
  | lcStatus (jtag : Bool)
  /-- LC_ADVANCE (R448): Requests a life-cycle transition, by VAULTMBX or JTAG. -/
  | lcAdvance (jtag : Option (BitVec 8))
  /-- TOKEN (R452): A JTAG test token is compared; a match unlocks TEST_UNLOCKED. -/
  | token (t : BitVec 8) (value : BitVec 256)
  /-- AUTH_NONCE (R454): Draws and returns a fresh authorisation nonce for a scope. -/
  | authNonce (jtag : Option (BitVec 32))
  /-- AUTH_RESPONSE (R454): Compares the HMAC response and grants the scope on a match. -/
  | authResponse (jtag : Option (BitVec 384))
  /-- NONCE_EXPIRY (R455): An outstanding nonce expires after 60 s. -/
  | nonceExpiry
  /-- OWNER_KEY_FUSE (R459): Blows the owner key hash once. -/
  | ownerKeyFuse
  /-- IMAGE_BEGIN (R460): Starts an image transfer into the slot not booted. -/
  | imageBegin
  /-- IMAGE_DATA (R460): Writes a chunk of the image at the expected offset. -/
  | imageData
  /-- IMAGE_COMMIT (R460): Checks the written image under R458 and makes it preferred. -/
  | imageCommit
  /-- DEVICE_RESTART (R460): Resets the chip after the response. -/
  | deviceRestart
  /-- IDCODE (R461): JTAG returns the IDCODE. -/
  | idcode
  /-- SAMPLE (R461): JTAG boundary-scan sample. -/
  | sample (levels : BitVec 147)
  /-- EXTEST (R461): JTAG boundary-scan external test. -/
  | extest (levels : BitVec 147)
  /-- BYPASS (R461): JTAG bypass; also taken for unknown instructions. -/
  | bypass
  /-- AVS_WINDOW (R469): At the end of each 100 µs window, the adaptive controller raises, lowers or holds the VCORE target. -/
  | avsWindow (use : Vector (Fin 101) 4)
  /-- AVS_READBACK (R471): Every 1 ms VOUT is read back and deviations are flagged. -/
  | avsReadback (mv : Option (BitVec 10))
  /-- AVS_ALERT (R471): AVS_ALERT_N is asserted and the controller reads the rail status. -/
  | avsAlert (status : Option (BitVec 16))
  /-- AVS_SETTINGS_WRITE (R484): A write to AVS_CTRL or AVS_LIMITS is accepted or dropped with REFUSED. -/
  | avsSettingsWrite (limits : Bool) (value : BitVec 32)
  /-- REFERENCE_LOST (R473): The 25 MHz reference shows no edge for 1 µs; the chip is held in reset with tamper watching kept. -/
  | referenceLost
  /-- REFERENCE_RESTORED (R473): The reference runs again for 1 ms and the chip starts with RESET_CAUSE 4. -/
  | referenceRestored
  /-- RTC_FAIL (R474): The RTC stops for 1 ms and the Crucible falls back to its internal oscillator. -/
  | rtcFail
  /-- POWER_DOWN_REQUEST (R478): An idle domain is powered down by the Bench, or deferred by a Hearth claim. -/
  | powerDownRequest (pd : Fin 30) (idleUs : BitVec 16)
  /-- POWER_DOWN_DONE (R479): The domain's memories are erased and its power removed. -/
  | powerDownDone (pd : Fin 30)
  /-- POWER_UP (R479): A powered-down domain is powered up for arriving work or a claim. -/
  | powerUp (pd : Fin 30)
  /-- HCLAIM_SET (R480): The Hearth claims a domain, keeping it on or powering it up. -/
  | hclaimSet (pd : Fin 30)
  /-- HCLAIM_RELEASE (R480): The Hearth releases a claim; a deferred domain is tested again. -/
  | hclaimRelease (pd : Fin 30) (idleUs : BitVec 16)
  /-- RECORD_APPEND (R516): A record enters the store's event queue, or is dropped and counted when the queue is full. -/
  | recordAppend (hearth : Bool) (code : BitVec 16) (source : BitVec 8) (param : BitVec 96)
  /-- RECORD_COMMIT (R517): The store commits the next queued record, or updates REPEAT in place. -/
  | recordCommit (mramOk : Bool)
  /-- OPSEC_COMMIT (R520): Every 60 s, operating seconds and write counters are committed. -/
  | opsecCommit
  /-- CURSOR (R522): A write of EVLOG.CURSOR latches the named record into the window. -/
  | cursor (hearth : Bool) (seq : BitVec 32)
  /-- WINDOW_ADVANCE (R522): A read of WINDOW[7] advances the cursor and latches the next record held. -/
  | windowAdvance (hearth : Bool)
  /-- SETTINGS_VALUE_WRITE (R525): A settings shadow write is accepted, setting DIRTY, or dropped with REFUSED. -/
  | settingsValueWrite (value : BitVec 32)
  /-- STORE (R526): A write of 0x5354_4F52 snapshots the shadow and starts writing the inactive copy. -/
  | store (key : BitVec 32)
  /-- STORE_END (R526): The copy is written and verified and becomes active; event 0x1502 is logged. -/
  | storeEnd
  /-- CANARY_MEASURE (R530): Each operating hour, the Bench measures the delay canaries and updates the drift. -/
  | canaryMeasure (periods : Vector (Vector (BitVec 32) 2) 6)
  /-- WEAR_ACCUMULATE (R531): Every 24 operating hours, the wear sums are updated and the end-of-life prediction is recomputed. -/
  | wearAccumulate
  /-- BATTERY_MEASURE (R532): Every 10 s on battery, the draw is integrated into the charge counter. -/
  | batteryMeasure (draw : BitVec 32)
  /-- BAT_RESET (R532): A write of 0x4345_4C4C to POWER.BAT_RESET clears the charge counter and the hours on battery. -/
  | batReset (key : BitVec 32)
  /-- LEGACY_GO (R540): Setting GO sends a legacy frame to the Hearth through the descriptor channel. -/
  | legacyGo
  /-- LEGACY_RESPONSE_RELEASE (R550): T_LEGACY after the service starts, the response is released and DONE is set. -/
  | legacyResponseRelease
  /-- LMK_BIND (R543): GO binds the slot as LMK and stores it in tenant 0's persistent area, or refuses it. -/
  | lmkBind (slot : BitVec 16)
  /-- SS (R546): Legacy status command. -/
  | legSs
  /-- SV (R546): Legacy image versions command. -/
  | legSv
  /-- SN (R546): Legacy serial number command. -/
  | legSn
  /-- SE (R546): Legacy echo command. -/
  | legSe
  /-- SL (R546): Legacy LMK check value command. -/
  | legSl
  /-- SC (R546): Legacy response counter command. -/
  | legSc
  /-- SD (R546): Legacy operating seconds command. -/
  | legSd
  /-- SA (R546): Legacy self-test command. -/
  | legSa
  /-- RN (R546): Legacy random bytes command. -/
  | legRn
  /-- KG (R546): Legacy generate key command. -/
  | legKg
  /-- KX (R546): Legacy generate and export key command. -/
  | legKx
  /-- KI (R546): Legacy import key command. -/
  | legKi
  /-- KE (R546): Legacy export key command. -/
  | legKe
  /-- KC (R546): Legacy key check value command. -/
  | legKc
  /-- KQ (R546): Legacy check value compare command. -/
  | legKq
  /-- PT (R546): Legacy PIN translation, ZPK to ZPK. -/
  | legPt
  /-- PA (R546): Legacy PIN translation, TPK to ZPK. -/
  | legPa
  /-- PD (R547): Legacy PIN translation, DUKPT to ZPK, through the TDES routes. -/
  | legPd
  /-- PV (R546): Legacy PIN offset verification under a ZPK. -/
  | legPv
  /-- PW (R546): Legacy PIN offset verification under a TPK. -/
  | legPw
  /-- PX (R546): Legacy PVV verification under a ZPK. -/
  | legPx
  /-- PY (R546): Legacy PVV verification under a TPK. -/
  | legPy
  /-- VG (R546): Legacy CVV generation. -/
  | legVg
  /-- VV (R546): Legacy CVV verification. -/
  | legVv
  /-- VH (R546): Legacy CVV2 generation. -/
  | legVh
  /-- VJ (R546): Legacy CVV2 verification. -/
  | legVj
  /-- VK (R546): Legacy iCVV generation. -/
  | legVk
  /-- VL (R546): Legacy iCVV verification. -/
  | legVl
  /-- QV (R546): Legacy ARQC verification with a session key. -/
  | legQv
  /-- QA (R546): Legacy ARQC verification and ARPC method 1. -/
  | legQa
  /-- QB (R546): Legacy ARQC verification and ARPC method 2. -/
  | legQb
  /-- QW (R546): Legacy ARQC verification with the card master key used directly. -/
  | legQw
  /-- QX (R546): Legacy QA with the card master key used directly. -/
  | legQx
  /-- QY (R546): Legacy QB with the card master key used directly. -/
  | legQy
  /-- MG (R546): Legacy retail MAC generation. -/
  | legMg
  /-- MV (R546): Legacy retail MAC verification. -/
  | legMv
  /-- DE (R546): Legacy TDES-CBC encryption. -/
  | legDe
  /-- DD (R546): Legacy TDES-CBC decryption. -/
  | legDd
  /-- EE (R546): Legacy TDES-ECB encryption. -/
  | legEe
  /-- ED (R546): Legacy TDES-ECB decryption. -/
  | legEd
  /-- KZ (R548): Recognised legacy key-from-components command, answered N01. -/
  | legKz
  /-- KL (R548): Recognised legacy load-LMK command, answered N01. -/
  | legKl
  /-- KY (R548): Recognised legacy change-key-type command, answered N01. -/
  | legKy
  /-- XA (R548): Recognised legacy enter-authorised-state command, answered N01. -/
  | legXa
  /-- XD (R548): Recognised legacy leave-authorised-state command, answered N01. -/
  | legXd
  /-- XP (R548): Recognised legacy print-components command, answered N01. -/
  | legXp
  /-- PN (R548): Recognised legacy generate-PIN command, answered N01. -/
  | legPn
  /-- PR (R548): Recognised legacy reveal-PIN command, answered N01. -/
  | legPr
  /-- PO (R548): Recognised legacy generate-offset command, answered N01. -/
  | legPo
  /-- PG (R548): Recognised legacy generate-PVV command, answered N01. -/
  | legPg
  /-- POWER_UP_DONE (R479): A powering-up domain completes its power-up within T_PD_UP, goes ON and its blocks become dispatchable. -/
  | powerUpDone (pd : Fin 30)
  /-- ASPM_L1_ENTRY (R58): The link enters ASPM L1 or its L1.1 and L1.2 substates, using CLKREQ_N for L1.2. -/
  | aspmL1Entry (sub : Fin 3)
  /-- VBAT_CONNECT (R464): VBAT is connected, powering the Crucible and starting the RTC seconds count. -/
  | vbatConnect
  /-- VBAT_LOSS (R441): VBAT is removed; if main power is also absent the BBRAM loses its contents and the next start ends QUENCHED. -/
  | vbatLoss
  /-- LID_CLOSE (R423): LID_N is driven low again and the LID condition stops persisting. -/
  | lidClose
  /-- ZEROIZE_RELEASE (R423): ZEROIZE_N returns high and the ZEROIZE condition stops persisting. -/
  | zeroizeRelease
  /-- WINDOW_READ (R522): A read of an EVLOG window word while EMPTY is 1 re-checks the cursor's record and latches it once committed, clearing EMPTY. -/
  | windowRead (hearth : Bool) (word : Fin 8)
  /-- RING_HEAD_WRITE (R368): A reader writes the new head of a Bench ring, freeing slots so that a waiting writer may continue. -/
  | ringHeadWrite (bench : Bool) (freed : Fin 17)
  /-- COPY_ENGINE_PIECE (R415): A world's copy engine moves one 64-byte piece of a burst, decided separately by the protection unit. -/
  | copyEnginePiece (piece : CopyPiece)
deriving DecidableEq, Repr

end Sys2Proof
end

