-- ==== Sys2Proof/Decode.lean ====
section
/-!
DEFINITION. The decoder of command words. The table of commands gives no row any bits: a command reaches the part as an event at its
balls or as a bus access, not as a word. No word spells a command (assumption log 2).
-/
namespace Sys2Proof

/-- The command that a word of the command table spells: none, since no row of the table has bits. -/
def decodeTableWord (_nbits _w : Nat) : Option Instr := none

end Sys2Proof
end

