-- ==== Sys2Proof/Machine/Bytes.lean ====
section
/-!
DEFINITION. Byte strings, bit fields and byte order, used by every chapter (R5 to R8).
-/
namespace Sys2Proof.Machine

/-- Bits `hi:lo` of a word as a number (R6). -/
def bits {w : Nat} (x : BitVec w) (hi lo : Nat) : Nat := (x.toNat / 2 ^ lo) % 2 ^ (hi + 1 - lo)

/-- Bit `i` of a number. -/
def bitN (n i : Nat) : Bool := n.testBit i

/-- Byte `i` of a string, 0 beyond its end. -/
def byteAt (s : Bytes) (i : Nat) : Byte := s.getD i 0

/-- `n` bytes of a string from offset `o`, padded with zeros. -/
def slice (s : Bytes) (o n : Nat) : Bytes := ((s.drop o).take n) ++ List.replicate (n - (s.length - o)) 0

/-- A string cut or zero-padded to `n` bytes. -/
def fit (n : Nat) (s : Bytes) : Bytes := (s.take n) ++ List.replicate (n - s.length) 0

/-- Little-endian value of a string (R7). -/
def leNat : Bytes → Nat
  | [] => 0
  | b :: t => b.toNat + 256 * leNat t

/-- Big-endian value of a string. -/
def beNat (s : Bytes) : Nat := leNat s.reverse

/-- The `n` little-endian bytes of a number (R7). -/
def leBytes : Nat → Nat → Bytes
  | 0, _ => []
  | n + 1, v => BitVec.ofNat 8 v :: leBytes n (v / 256)

/-- The `n` big-endian bytes of a number. -/
def beBytes (n v : Nat) : Bytes := (leBytes n v).reverse

/-- The little-endian field of `n` bytes at offset `o`. -/
def leAt (s : Bytes) (o n : Nat) : Nat := leNat (slice s o n)

/-- The big-endian field of `n` bytes at offset `o`. -/
def beAt (s : Bytes) (o n : Nat) : Nat := beNat (slice s o n)

/-- Replace bytes of `s` from offset `o` by `x`, extending `s` with zeros where it is too short. -/
def patch (s : Bytes) (o : Nat) (x : Bytes) : Bytes := fit o s ++ x ++ s.drop (o + x.length)

/-- Bytewise exclusive or; the result has the length of the first string. -/
def xorB : Bytes → Bytes → Bytes
  | [], _ => []
  | a :: s, [] => a :: s
  | a :: s, b :: t => (a ^^^ b) :: xorB s t

/-- A string cut into pieces of `n` bytes, the last possibly short; `fuel` bounds the number of pieces. -/
def chunksFuel (n : Nat) : Nat → Bytes → List Bytes
  | 0, _ => []
  | _, [] => []
  | f + 1, s => s.take n :: chunksFuel n f (s.drop n)

/-- A string cut into pieces of `n` bytes, the last possibly short. -/
def chunks (n : Nat) (s : Bytes) : List Bytes := chunksFuel n s.length s

/-- Least offset at which `p` holds. -/
def firstOff (p : Byte → Bool) : Bytes → Nat → Option Nat
  | [], _ => none
  | b :: t, i => if p b then some i else firstOff p t (i + 1)

/-- The lesser of two optional offsets. -/
def minOff : Option Nat → Option Nat → Option Nat
  | none, b => b
  | a, none => a
  | some a, some b => some (min a b)

/-- The least offset at which `s` holds a bit outside the mask `m` (R10). -/
def firstReserved : Bytes → Bytes → Nat → Option Nat
  | [], _, _ => none
  | b :: s, m, i => if b &&& ~~~ (m.headD 0) = 0 then firstReserved s m.tail (i + 1) else some i

/-- Saturating increment. -/
def satInc (limit n : Nat) : Nat := if n < limit then n + 1 else n

/-- CRC-32C, one byte more (reflected polynomial 0x82F63B78). -/
def crc32cByte (c : Nat) (b : Byte) : Nat :=
  (List.range 8).foldl (fun c _ => if c % 2 = 1 then (c / 2) ^^^ 0x82F63B78 else c / 2) (c ^^^ b.toNat)

/-- CRC-32C of a string. -/
def crc32c (s : Bytes) : Nat := s.foldl crc32cByte 0xFFFFFFFF ^^^ 0xFFFFFFFF

/-- Number to a word of `w` bits, saturating. -/
def satNat (w n : Nat) : Nat := if n < 2 ^ w then n else 2 ^ w - 1

/-- ASCII text as bytes. -/
def ascii (s : String) : Bytes := s.toList.map fun c => BitVec.ofNat 8 c.toNat

/-- One hexadecimal digit, upper case. -/
def hexDigit (n : Nat) : Byte := BitVec.ofNat 8 (if n < 10 then 48 + n else 55 + n)

/-- A string of bytes as upper-case hexadecimal text. -/
def hexText : Bytes → Bytes
  | [] => []
  | b :: t => hexDigit (b.toNat / 16) :: hexDigit (b.toNat % 16) :: hexText t

/-- Value of a hexadecimal digit. -/
def unhex (b : Byte) : Option Nat :=
  let n := b.toNat
  if 48 ≤ n ∧ n ≤ 57 then some (n - 48)
  else if 65 ≤ n ∧ n ≤ 70 then some (n - 55)
  else if 97 ≤ n ∧ n ≤ 102 then some (n - 87)
  else none

/-- Bytes of a hexadecimal text. -/
def unhexText : Bytes → Option Bytes
  | [] => some []
  | [_] => none
  | a :: b :: t =>
    match unhex a, unhex b, unhexText t with
    | some x, some y, some r => some (BitVec.ofNat 8 (16 * x + y) :: r)
    | _, _, _ => none

/-- Decimal digits of a number, `n` of them. -/
def decText (n v : Nat) : Bytes :=
  ((List.range n).map fun i => BitVec.ofNat 8 (48 + v / 10 ^ i % 10)).reverse

/-- Value of a decimal text. -/
def undec (s : Bytes) : Option Nat :=
  s.foldl (fun acc b =>
    match acc with
    | none => none
    | some v => if 48 ≤ b.toNat ∧ b.toNat ≤ 57 then some (10 * v + (b.toNat - 48)) else none) (some 0)

end Sys2Proof.Machine
end

