-- ==== Sys2Proof/Machine/Aes.lean ====
section
/-!
DEFINITION. AES (FIPS 197), named by R4 and written from that standard (PRESUMED, log 8). Byte strings keep the standard's
order (R7).
-/
namespace Sys2Proof.Machine.Aes

/-- Multiplication by x in GF(2^8). -/
def xtime (b : Byte) : Byte := (b <<< 1) ^^^ (if b.getLsbD 7 then 0x1B else 0)

/-- Multiplication in GF(2^8), from the top bit of `b`. -/
def gmul (a b : Byte) : Byte :=
  (List.range 8).foldr (fun i acc => xtime acc ^^^ (if b.getLsbD i then a else 0)) 0

/-- The inverse in GF(2^8), 0 for 0: the 254th power. -/
def ginv (a : Byte) : Byte :=
  let a2 := gmul a a
  let a3 := gmul a2 a
  let a12 := let a6 := gmul a3 a3; gmul a6 a6
  let a15 := gmul a12 a3
  let a240 := let a30 := gmul a15 a15; let a60 := gmul a30 a30; let a120 := gmul a60 a60; gmul a120 a120
  gmul (gmul a240 a12) a2

/-- The S-box, row by row of the upper four bits. -/
def sBox : List (List Byte) :=
  [ [0x63, 0x7C, 0x77, 0x7B, 0xF2, 0x6B, 0x6F, 0xC5, 0x30, 0x01, 0x67, 0x2B, 0xFE, 0xD7, 0xAB, 0x76],
    [0xCA, 0x82, 0xC9, 0x7D, 0xFA, 0x59, 0x47, 0xF0, 0xAD, 0xD4, 0xA2, 0xAF, 0x9C, 0xA4, 0x72, 0xC0],
    [0xB7, 0xFD, 0x93, 0x26, 0x36, 0x3F, 0xF7, 0xCC, 0x34, 0xA5, 0xE5, 0xF1, 0x71, 0xD8, 0x31, 0x15],
    [0x04, 0xC7, 0x23, 0xC3, 0x18, 0x96, 0x05, 0x9A, 0x07, 0x12, 0x80, 0xE2, 0xEB, 0x27, 0xB2, 0x75],
    [0x09, 0x83, 0x2C, 0x1A, 0x1B, 0x6E, 0x5A, 0xA0, 0x52, 0x3B, 0xD6, 0xB3, 0x29, 0xE3, 0x2F, 0x84],
    [0x53, 0xD1, 0x00, 0xED, 0x20, 0xFC, 0xB1, 0x5B, 0x6A, 0xCB, 0xBE, 0x39, 0x4A, 0x4C, 0x58, 0xCF],
    [0xD0, 0xEF, 0xAA, 0xFB, 0x43, 0x4D, 0x33, 0x85, 0x45, 0xF9, 0x02, 0x7F, 0x50, 0x3C, 0x9F, 0xA8],
    [0x51, 0xA3, 0x40, 0x8F, 0x92, 0x9D, 0x38, 0xF5, 0xBC, 0xB6, 0xDA, 0x21, 0x10, 0xFF, 0xF3, 0xD2] ] ++
  [ [0xCD, 0x0C, 0x13, 0xEC, 0x5F, 0x97, 0x44, 0x17, 0xC4, 0xA7, 0x7E, 0x3D, 0x64, 0x5D, 0x19, 0x73],
    [0x60, 0x81, 0x4F, 0xDC, 0x22, 0x2A, 0x90, 0x88, 0x46, 0xEE, 0xB8, 0x14, 0xDE, 0x5E, 0x0B, 0xDB],
    [0xE0, 0x32, 0x3A, 0x0A, 0x49, 0x06, 0x24, 0x5C, 0xC2, 0xD3, 0xAC, 0x62, 0x91, 0x95, 0xE4, 0x79],
    [0xE7, 0xC8, 0x37, 0x6D, 0x8D, 0xD5, 0x4E, 0xA9, 0x6C, 0x56, 0xF4, 0xEA, 0x65, 0x7A, 0xAE, 0x08],
    [0xBA, 0x78, 0x25, 0x2E, 0x1C, 0xA6, 0xB4, 0xC6, 0xE8, 0xDD, 0x74, 0x1F, 0x4B, 0xBD, 0x8B, 0x8A],
    [0x70, 0x3E, 0xB5, 0x66, 0x48, 0x03, 0xF6, 0x0E, 0x61, 0x35, 0x57, 0xB9, 0x86, 0xC1, 0x1D, 0x9E],
    [0xE1, 0xF8, 0x98, 0x11, 0x69, 0xD9, 0x8E, 0x94, 0x9B, 0x1E, 0x87, 0xE9, 0xCE, 0x55, 0x28, 0xDF],
    [0x8C, 0xA1, 0x89, 0x0D, 0xBF, 0xE6, 0x42, 0x68, 0x41, 0x99, 0x2D, 0x0F, 0xB0, 0x54, 0xBB, 0x16] ]

/-- SubBytes on a byte. -/
def sub (b : Byte) : Byte := (sBox.getD (b.toNat / 16) []).getD (b.toNat % 16) 0

/-- The inverse S-box, row by row of the upper four bits. -/
def invSBox : List (List Byte) :=
  [ [0x52, 0x09, 0x6A, 0xD5, 0x30, 0x36, 0xA5, 0x38, 0xBF, 0x40, 0xA3, 0x9E, 0x81, 0xF3, 0xD7, 0xFB],
    [0x7C, 0xE3, 0x39, 0x82, 0x9B, 0x2F, 0xFF, 0x87, 0x34, 0x8E, 0x43, 0x44, 0xC4, 0xDE, 0xE9, 0xCB],
    [0x54, 0x7B, 0x94, 0x32, 0xA6, 0xC2, 0x23, 0x3D, 0xEE, 0x4C, 0x95, 0x0B, 0x42, 0xFA, 0xC3, 0x4E],
    [0x08, 0x2E, 0xA1, 0x66, 0x28, 0xD9, 0x24, 0xB2, 0x76, 0x5B, 0xA2, 0x49, 0x6D, 0x8B, 0xD1, 0x25],
    [0x72, 0xF8, 0xF6, 0x64, 0x86, 0x68, 0x98, 0x16, 0xD4, 0xA4, 0x5C, 0xCC, 0x5D, 0x65, 0xB6, 0x92],
    [0x6C, 0x70, 0x48, 0x50, 0xFD, 0xED, 0xB9, 0xDA, 0x5E, 0x15, 0x46, 0x57, 0xA7, 0x8D, 0x9D, 0x84],
    [0x90, 0xD8, 0xAB, 0x00, 0x8C, 0xBC, 0xD3, 0x0A, 0xF7, 0xE4, 0x58, 0x05, 0xB8, 0xB3, 0x45, 0x06],
    [0xD0, 0x2C, 0x1E, 0x8F, 0xCA, 0x3F, 0x0F, 0x02, 0xC1, 0xAF, 0xBD, 0x03, 0x01, 0x13, 0x8A, 0x6B] ] ++
  [ [0x3A, 0x91, 0x11, 0x41, 0x4F, 0x67, 0xDC, 0xEA, 0x97, 0xF2, 0xCF, 0xCE, 0xF0, 0xB4, 0xE6, 0x73],
    [0x96, 0xAC, 0x74, 0x22, 0xE7, 0xAD, 0x35, 0x85, 0xE2, 0xF9, 0x37, 0xE8, 0x1C, 0x75, 0xDF, 0x6E],
    [0x47, 0xF1, 0x1A, 0x71, 0x1D, 0x29, 0xC5, 0x89, 0x6F, 0xB7, 0x62, 0x0E, 0xAA, 0x18, 0xBE, 0x1B],
    [0xFC, 0x56, 0x3E, 0x4B, 0xC6, 0xD2, 0x79, 0x20, 0x9A, 0xDB, 0xC0, 0xFE, 0x78, 0xCD, 0x5A, 0xF4],
    [0x1F, 0xDD, 0xA8, 0x33, 0x88, 0x07, 0xC7, 0x31, 0xB1, 0x12, 0x10, 0x59, 0x27, 0x80, 0xEC, 0x5F],
    [0x60, 0x51, 0x7F, 0xA9, 0x19, 0xB5, 0x4A, 0x0D, 0x2D, 0xE5, 0x7A, 0x9F, 0x93, 0xC9, 0x9C, 0xEF],
    [0xA0, 0xE0, 0x3B, 0x4D, 0xAE, 0x2A, 0xF5, 0xB0, 0xC8, 0xEB, 0xBB, 0x3C, 0x83, 0x53, 0x99, 0x61],
    [0x17, 0x2B, 0x04, 0x7E, 0xBA, 0x77, 0xD6, 0x26, 0xE1, 0x69, 0x14, 0x63, 0x55, 0x21, 0x0C, 0x7D] ]

/-- InvSubBytes on a byte. -/
def invSub (b : Byte) : Byte := (invSBox.getD (b.toNat / 16) []).getD (b.toNat % 16) 0

/-- ShiftRows on the 16 bytes of a state, column by column. -/
def shiftRows (s : Bytes) : Bytes := (List.range 16).map fun i => byteAt s ((i + 4 * (i % 4)) % 16)

/-- The inverse of ShiftRows. -/
def invShiftRows (s : Bytes) : Bytes := (List.range 16).map fun i => byteAt s ((i + 12 * (i % 4)) % 16)

/-- One output byte of a column under a circulant matrix with first row `m`. -/
def mixByte (m col : Bytes) (r : Nat) : Byte :=
  (List.range 4).foldl (fun acc k => acc ^^^ gmul (byteAt m ((k + 4 - r) % 4)) (byteAt col k)) 0

/-- A circulant matrix applied to every column. -/
def mix (m s : Bytes) : Bytes :=
  (List.range 4).flatMap fun c => (List.range 4).map fun r => mixByte m (slice s (4 * c) 4) r

/-- Rounds of a key of `n` bytes: 10, 12 or 14. -/
def rounds (n : Nat) : Nat := n / 4 + 6

/-- The next word of the key schedule, at index `i` with `nk` key words, from the last word and the one `nk` before. -/
def nextWord (nk i : Nat) (rcon : Byte) (last back : Bytes) : Bytes :=
  let t := if i % nk = 0 then xorB ((last.rotateLeft 1).map sub) [rcon]
    else if 6 < nk ∧ i % nk = 4 then last.map sub else last
  xorB back t

/-- The key schedule: `n` further words after those in `ws`, which stand newest first. -/
def expand (nk : Nat) : Nat → Nat → Byte → List Bytes → List Bytes
  | 0, _, _, ws => ws
  | n + 1, i, rcon, ws =>
    let w := nextWord nk i rcon (ws.headD []) (ws.getD (nk - 1) [])
    expand nk n (i + 1) (if i % nk = 0 then xtime rcon else rcon) (w :: ws)

/-- The round keys of 16 bytes each. -/
def roundKeys (key : Bytes) : List Bytes :=
  let nk := key.length / 4
  chunks 16 ((expand nk (4 * (rounds key.length + 1) - nk) nk 1 (chunks 4 key).reverse).reverse.flatten)

/-- The inner rounds of encryption and the last one. -/
def encRounds : List Bytes → Bytes → Bytes
  | [], s => s
  | [k], s => xorB (shiftRows (s.map sub)) k
  | k :: ks, s => encRounds ks (xorB (mix [2, 3, 1, 1] (shiftRows (s.map sub))) k)

/-- Encryption of one block under expanded keys. -/
def encWith (ks : List Bytes) (b : Bytes) : Bytes := encRounds ks.tail (xorB (fit 16 b) (ks.headD []))

/-- Rounds of decryption, the round keys in reverse order. -/
def decRounds : List Bytes → Bytes → Bytes
  | [], s => s
  | [k], s => xorB ((invShiftRows s).map invSub) k
  | k :: ks, s => decRounds ks (mix [14, 11, 13, 9] (xorB ((invShiftRows s).map invSub) k))

/-- Decryption of one block under expanded keys. -/
def decWith (ks : List Bytes) (b : Bytes) : Bytes := decRounds ks.reverse.tail (xorB (fit 16 b) (ks.reverse.headD []))

/-- AES encryption of one block. -/
def enc (key b : Bytes) : Bytes := encWith (roundKeys key) b

/-- AES decryption of one block. -/
def dec (key b : Bytes) : Bytes := decWith (roundKeys key) b

end Sys2Proof.Machine.Aes
end

