-- ==== Sys2Proof/Machine/Drbg.lean ====
section
/-!
DEFINITION. CTR_DRBG with AES-256 and no derivation function (NIST SP 800-90A), named by R345 and written from that standard
(PRESUMED, log 8). A state is the key and V.
-/
namespace Sys2Proof.Machine.Drbg

/-- `n` output blocks under a key, and V after them. -/
def blocks (ks : List Bytes) : Nat → BitVec 128 → Bytes
  | 0, _ => []
  | n + 1, v => Aes.encWith ks (beBytes 16 (v + 1).toNat) ++ blocks ks n (v + 1)

/-- The update function with 48 bytes of provided data. -/
def update (key : BitVec 256) (v : BitVec 128) (data : Bytes) : BitVec 256 × BitVec 128 :=
  let t := xorB (blocks (Aes.roundKeys (beBytes 32 key.toNat)) 3 v) data
  (BitVec.ofNat 256 (beNat (t.take 32)), BitVec.ofNat 128 (beNat (t.drop 32)))

/-- Instantiate from 48 bytes of entropy and a personalisation string. -/
def instantiate (entropy pers : Bytes) : BitVec 256 × BitVec 128 := update 0 0 (xorB (fit 48 entropy) (fit 48 pers))

/-- Reseed. -/
def reseed (st : BitVec 256 × BitVec 128) (entropy add : Bytes) : BitVec 256 × BitVec 128 :=
  update st.1 st.2 (xorB (fit 48 entropy) (fit 48 add))

/-- Generate `n` bytes with additional input, none where it is empty. -/
def generate (st : BitVec 256 × BitVec 128) (n : Nat) (add : Bytes) : Bytes × (BitVec 256 × BitVec 128) :=
  let st := if add = [] then st else update st.1 st.2 (fit 48 add)
  let k := (n + 15) / 16
  let out := (blocks (Aes.roundKeys (beBytes 32 st.1.toNat)) k st.2).take n
  (out, update st.1 (st.2 + BitVec.ofNat 128 k) (if add = [] then List.replicate 48 0 else fit 48 add))

end Sys2Proof.Machine.Drbg
end

