-- ==== Sys2Proof/Config.lean ====
section
/-!
DEFINITION. What is fixed for the part and what the spec leaves open. A free value is an opaque constant with no body: no
proof can see it, so a statement holds whatever it is. State.free counts the free values drawn so far.
-/
namespace Sys2Proof.Config

/-- The `n`-th byte that the part draws from its noise source, or that the spec leaves open (assumption log 3). -/
opaque freeByte : Nat → BitVec 8

/-- The 16 bits that a noise cell gives as the conditioner's unit of this number (R337; assumption log 3). -/
opaque noiseUnit : Nat → Nat → BitVec 16

/-- The `n`-th open value of a word machine register (assumption log 3). -/
opaque freeWord : Nat → BitVec 64

/-- The MRAM words that a sealed store of a partition takes for that many bytes of content (R533; assumption log 55). -/
opaque sealedWords : Nat → Nat → Nat

/-- Low byte of the CODE of an event that the spec has logged without a code; the number names the rule and the event (log 6). -/
opaque eventCode : Nat → BitVec 8

/-- A parameter byte that the spec does not give of such an event (log 6). -/
opaque eventByte : Nat → Nat → BitVec 8

/-- The CHECK code of a slot: 64 bits over its attribute word, material, slot number and pass value, under the Rack
integrity key (R157). The spec names no algorithm (assumption log 4). -/
opaque slotCheck : BitVec 256 → Nat → BitVec 128 → BitVec 576 → BitVec 64

/-- The mask of a number of bytes that a mask generator makes from its seed, by the number of the use (R251). The spec names no generator
(assumption log 4). -/
opaque laneMask : BitVec 128 → Nat → Nat → List (BitVec 8)

/-- What a field of the trims partition holds when it is unwrapped under the key in OTP (R226). The spec names no algorithm (assumption
log 4). -/
opaque unwrapTrim : BitVec 256 → List (BitVec 8) → List (BitVec 8)

/-- The bus integrity code of a beat (R426): a fixed linear code of minimum distance 4 that the spec does not write out
(assumption log 4). -/
opaque busCode : BitVec 128 → BitVec 32 → BitVec 4 → BitVec 16

/-- One advance of a shield sector's 128-bit LFSR by 64 steps (R424). The spec does not name the primitive polynomial
(assumption log 4). -/
opaque lfsrStep64 : BitVec 128 → BitVec 128

/-- The rate of a Hammer job, by opcode and PLAN, for which R333 and R334 give none (assumption log 25). -/
opaque openRate : Nat → Nat → Nat

/-- The random fill digit at a position of a PIN field, from the plan's random bytes (R270 does not say how it is taken; log 33). -/
opaque fillDigit : List (BitVec 8) → Nat → Nat

/-- Which digits of a longer PIN an offset check compares: the leading ones, or the last ones (R269 does not say; log 33). -/
opaque offsetLeading : Bool

/-- Does predicate `c` of a CHECK step hold of a variable (R272 gives no predicate codes; log 34). -/
opaque predicate : BitVec 8 → BitVec 128 → Bool

/-- The key of derivation `imm` of a KDF_TDES step, from a key and a variable (R272 gives no codes; log 34). -/
opaque kdfTdes : BitVec 16 → List (BitVec 8) → BitVec 128 → BitVec 128

/-- The result of a HASH step: SHA-256 compresses 64 bytes on 32, and the step names three variables of 16 (R272; log 34). -/
opaque hashStep : BitVec 128 → BitVec 128 → BitVec 128 → BitVec 128

/-- The digit that the self-test of the Nolur 3 window answers (R546 gives no meaning to "0" and "1"; log 35). -/
opaque selfTest : Nat → Bool

/-- The host interface version that a Bench image names (R72 does not say where; log 29). -/
opaque hifVersion : List (BitVec 8) → BitVec 16

/-- What an offset of the Rack control port reaches (R160): the choice of a slot, or byte `i` of that slot's MATERIAL or ATTR. -/
inductive RackField | select | material (i : Nat) | attr (i : Nat)
deriving DecidableEq, Repr

/-- The layout of the Rack control port, for which the spec gives no offsets; none for an offset that reaches none of these (log 30). -/
opaque rackField : Nat → Option RackField

/-- Which way a SHIFT step shifts (R272; log 34). -/
opaque shiftLeft : Bool

/-- Remaining hours on battery of a charge, in pAh, under a mean draw of 0, for which R532 states no quotient (log 54). -/
opaque noDrawHours : Nat → Nat

/-- One settings item: its ID, its default and the test of its legal values. -/
structure Item where
  /-- item ID of R524 -/
  id : Nat
  /-- default -/
  dflt : Nat
  /-- least value of its range -/
  lo : Nat
  /-- greatest value of its range -/
  hi : Nat
  /-- a further legal value outside the range -/
  also : Option Nat := none
deriving DecidableEq, Repr

/-- The settings items of R524, each with the range and default of the rule named there. -/
def items : List Item :=
  [ ⟨0x01, 4, 1, 15, none⟩,                 -- BLOCK_FAULT_LIMIT R26
    ⟨0x02, 50, 10, 1000, none⟩,             -- REGION_WATCHDOG R44
    ⟨0x03, 0x1F3C, 0, 0xFFFF, none⟩,        -- SUBSYS_VID R59
    ⟨0x04, 0, 0, 0xFFFF, none⟩,             -- SUBSYS_ID R59
    ⟨0x05, 0, 0, 1, none⟩,                  -- TEMPER_MODE R186
    ⟨0x06, 1000, 100, 60000, none⟩,         -- TEMPER_FIXED R186
    ⟨0x07, 15, 1, 60, none⟩,               -- CEREMONY_WINDOW R200
    ⟨0x08, 0, 0, 0xFFFFFFFF, none⟩,         -- NOISE_VN R336
    ⟨0x09, 60, 1, 3600, some 0⟩,            -- ENTROPY_RETRY R341
    ⟨0x0A, 16, 0, 16, none⟩,                -- DRBG_STRETCH_MAX R349
    ⟨0x0B, 131072, 1024, 131072, none⟩,     -- TERM_TENANT_CAP R295
    ⟨0x0C, 60, 1, 65535, none⟩,             -- TERM_SWEEP_PERIOD R296
    ⟨0x0D, 98304, 0, 131072, none⟩,         -- TERM_REHASH_LIMIT R299
    ⟨0x0E, 1000, 100, 10000, none⟩,         -- BENCH_WATCHDOG R379
    ⟨0x0F, 0, 0, 2, none⟩,                  -- AVS_MODE R468
    ⟨0x10, 600, 600, 900, none⟩,            -- AVS_MIN_MV R468
    ⟨0x11, 900, 600, 900, none⟩,            -- AVS_MAX_MV R468
    ⟨0x12, 800, 600, 900, none⟩ ] ++        -- AVS_FIXED_MV R468
  [ ⟨0x13, 0, 0, 15, none⟩,                 -- AVS_RAIL R468
    ⟨0x14, 0x3FFFFFFF, 0, 0x3FFFFFFF, none⟩, -- POWER_ALLOW R478
    ⟨0x15, 1000, 100, 65535, none⟩,         -- POWER_IDLE_US R478
    ⟨0x16, 7, 0, 7, none⟩,                  -- CARD_CLASSES R486
    ⟨0x17, 0, 0, 1, none⟩,                  -- LEGACY_DEFAULT R535
    ⟨0x18, 200000, 1000, 10000000, none⟩ ]  -- BATTERY_UAH R532

/-- The item of an ID. -/
def item? (id : Nat) : Option Item := items.find? fun i => i.id == id

/-- Legal values of an item (R524). -/
def Item.legal (i : Item) (v : Nat) : Bool := (decide (i.lo ≤ v) && decide (v ≤ i.hi)) || i.also == some v

/-- Default of an item, 0 for an unused ID. -/
def itemDefault (id : Nat) : Nat := match item? id with | some i => i.dflt | none => 0

/-- Nanoseconds of one period of the 25 MHz reference (R472). -/
def refPeriodNs : Nat := 40

end Sys2Proof.Config
end

