-- ==== Sys2Proof/Machine/State.lean ====
section
/-!
DEFINITION. The state of the ZY4840: plain data, every register, buffer, queue, counter, mode and pin that the spec gives
the part. The default of each field is its value right after reset (power-on reset just released, start-up not yet run);
INVENTORY.md lists each with its rule and says which of these values the spec gives and which the model chose.
An indexed store is a sparse table of (key, value) pairs in canonical form (Machine/Table.lean).
-/
namespace Sys2Proof.Machine

/-- CHIP.STATE (R72, R475). -/
inductive ChipState | start | ready | locked | quenched | recovery
deriving DecidableEq, Repr

/-- The ASPM state of the link (R58). -/
inductive Aspm | l0 | l1 | l11 | l12
deriving DecidableEq, Repr

/-- The read-tag mode that the host enabled (R56). -/
inductive TagMode | basic | ext | tenBit
deriving DecidableEq, Repr

/-- Where an operation is on its path (R35). `check` waits for check 4 while PD28 is off (R48), `region` waits in a region scheduler, `steering` for the parameter block of a
PLAN_RUN (R302), `channel` in the descriptor channel of the Hearth or the Bench (R117), `block` runs in a block,
`context` runs in a context of a plan pipeline, `yielded` is a preempted Hammer job (R328), `qengine` is a NOP or FENCE (R119), `done` has
finished and waits for its completion entry (R106). -/
inductive Stage | check | region | steering | channel | block | context | yielded | qengine | done
deriving DecidableEq, Repr

/-- A key as the Rack sent it to an engine over the private key bus (R36). -/
structure KeyCopy where
  /-- key slot -/
  slot : Nat := 0
  /-- attribute word -/
  attr : BitVec 128 := 0
  /-- 72 bytes of material -/
  material : Bytes := []
deriving DecidableEq, Repr

/-- State of Bellows (R340, R341). -/
inductive BState | start | ok | retest | failed
deriving DecidableEq, Repr

/-- Who asks Bellows for full-entropy bytes (R342, R344): an operation, the internal instance, the Hearth for the service that it runs, the mask
generator of a block, the Hearth for the rehash of a pipeline. -/
inductive Asker | op (id : Nat) | internal | hearth | mask (block : Nat) | rehash (pipe : Nat)
deriving DecidableEq, Repr

/-- A request to Bellows, held (R342) or waiting in the seed queue (R344): `blocks` the number of 128-bit blocks it wants, 0 for a generate request
that needs no seed, `level` its priority. -/
structure SeedReq where
  /-- who asks -/
  who : Asker := .internal
  /-- priority level of R344 -/
  level : Nat := 0
  /-- 16-byte blocks wanted -/
  blocks : Nat := 1
deriving DecidableEq, Repr

/-- A word of the Zhelys word machine with its tag (R386). -/
structure TWord where
  /-- value -/
  val : BitVec 64 := 0
  /-- tag -/
  tag : BitVec 4 := 0xF
deriving DecidableEq, Repr

/-- A memory word: value, tag, the tag's stored complement, and the errors that its SECDED code shows (R385). -/
structure MWord where
  /-- value -/
  val : BitVec 64 := 0
  /-- tag -/
  tag : BitVec 4 := 0
  /-- stored complement of the tag -/
  ctag : BitVec 4 := 0xF
  /-- stored bits of the word and its SECDED code that differ from what was written: 1 is corrected, 2 is not (R385) -/
  flips : Nat := 0
deriving DecidableEq, Repr

/-- A repeat prefix in progress (R401, R402). -/
structure Rep where
  /-- repeats left -/
  left : BitVec 64 := 0
  /-- true for REPI, which is interruptible -/
  interruptible : Bool := false
deriving DecidableEq, Repr

/-- A service that waits for the Hearth (R361, R364): a VAULTMBX request, a descriptor of the channel, a legacy frame, the Bench
ring message with a number (its slot is that number modulo 16), or the Bench reset notice. -/
inductive Service | mbx | chan (op : Nat) | legacy | ring (n : Nat) | benchNotice
deriving DecidableEq, Repr

/-- Operational state of a power domain (R484). -/
inductive PdState | on | off | poweringUp | poweringDown | deferred
deriving DecidableEq, Repr

/-- Protocol phase of a custodian port (R489 to R494). -/
inductive PortPhase | off | waitAtr | waitPps | idle | waitBlock
deriving DecidableEq, Repr

/-- Action of a card conversation that waits for the card (R204). -/
inductive SesPhase | activate | select | identity | auth | pin | action
deriving DecidableEq, Repr

/-- What the device drives outwards, as an observer at its balls sees it. -/
inductive Sent
  /-- a completion entry written to the completion ring at its address (R89, R128) -/
  | completion (fn queue : Nat) (addr : BitVec 64) (entry : Bytes)
  /-- a data write of an operation (R57, R111) -/
  | data (op fn : Nat) (addr : BitVec 64) (bytes : Bytes) (relaxed : Bool)
  /-- an operation that streamed its output was stopped: any part of that output, up to its maximum, may have been written, and the bytes
  of its destination are free values from then on (R126) -/
  | partOutput (op fn : Nat) (dst : BitVec 64)
  /-- a memory read request (R56) -/
  | read (fn : Nat) (addr : BitVec 64) (len : Nat)
  /-- an MSI-X message (R78) -/
  | msix (fn vector : Nat)
  /-- the MSI message of legacy mode (R541) -/
  | msi
  /-- the INTx line of legacy mode asserted or deasserted (R541) -/
  | intx (high : Bool)
  /-- a register read's answer (R76) -/
  | value (v : BitVec 32)
  /-- a configuration read's answer (R75) -/
  | config (v : BitVec 32)
  /-- Configuration Request Retry Status (R75) -/
  | crs
  /-- Unsupported Request (R71) -/
  | unsupported
  /-- an error message of a function: 0 correctable, 1 non-fatal, 2 fatal (R83) -/
  | errMsg (fn cls : Nat)
  /-- a PME message (R63) -/
  | pme
  /-- an AVSBus write of a target voltage (R471) -/
  | avsWrite (rail mv : Nat)
  /-- an AVSBus status read (R471) -/
  | avsStatus (rail : Nat)
  /-- bytes sent to a custodian card (R492) -/
  | card (port : Nat) (bytes : Bytes)
  /-- an SD command with its argument (R500) -/
  | sdCmd (index : Nat) (arg : BitVec 32)
  /-- a write of blocks to the SD card (R503) -/
  | sdWrite (lba : Nat) (bytes : Bytes)
  /-- a JTAG response (R461) -/
  | jtag (bytes : Bytes)
  /-- an answer of the debug port (R421) -/
  | debug (error : Bool) (v : BitVec 64)
deriving DecidableEq, Repr

/-- Balls the spec names as inputs or outputs of the part. -/
structure Pins where
  /-- PERST_N level; reset state is taken right after deassertion (1 bit; R464) -/
  perstN : Bool := true
  /-- VCORE and VIO above the switchover levels (1 bit; R466) -/
  mainPower : Bool := true
  /-- VBAT connected (1 bit; R464) -/
  vbat : Bool := true
  /-- LEGACY_MODE strap (pulled down, R564) (1 bit; R535) -/
  legacyMode : Bool := false
  /-- TEST_EN ball (must be tied to VSS) (1 bit; R566) -/
  testEn : Bool := false
  /-- ZEROIZE_N (pulled up) (1 bit; R423) -/
  zeroizeN : Bool := true
  /-- LID_N, low while the lid is closed (1 bit; R423) -/
  lidN : Bool := false
  /-- ALERT_N driven low (1 bit; R567) -/
  alertLow : Bool := false
  /-- WAKE_N driven low (1 bit; R63) -/
  wakeLow : Bool := false
  /-- CLKREQ_N driven low (reset column of R568) (1 bit; R568) -/
  clkreqLow : Bool := true
  /-- 25 MHz reference running (1 bit; R473) -/
  refClock : Bool := true
  /-- domains held in scan test mode (1 bit; R566) -/
  scanMode : Bool := false
  /-- boundary-scan register (one cell per signal ball) (147 bits; R461) -/
  bscan : Nat := 0
  /-- JTAG instruction register; BYPASS (8 bits; R461) -/
  jtagIr : BitVec 8 := 0xFF
  /-- levels of GPIO0-7 that Bench firmware has set; none: inputs (8 bits; R568) -/
  gpio : Option (BitVec 8) := none
deriving DecidableEq, Repr

/-- Chip-level state of PD1 and the CHIP block. -/
structure Chip where
  /-- CHIP.STATE (3 bits; R72) -/
  state : ChipState := .start
  /-- state in which start-up will end (fixed at step 4) (3 bits; R476) -/
  endState : ChipState := .quenched
  /-- chip held in reset (no main power, no reference, PERST_N low) (1 bit; R466) -/
  held : Bool := false
  /-- start-up sequence has run (steps 1 to 11) (1 bit; R476) -/
  started : Bool := false
  /-- configuration requests answered with CRS (1 bit; R75) -/
  crs : Bool := true
  /-- queue engine enabled (1 bit; R476) -/
  engineOn : Bool := false
  /-- CHIP.STATUS.LEGACY (strap) (1 bit; R72) -/
  legacy : Bool := false
  /-- CHIP.HIF_VERSION bits 15:0 (from the Bench image) (16 bits; R72) -/
  hif : BitVec 16 := 0
  /-- POWER.RESET_CAUSE; 2 power-on (4 bits; R483) -/
  resetCause : Nat := 2
  /-- POWER.START_TIME (20 bits; R484) -/
  startUs : Nat := 0
  /-- private key bus enabled (1 bit; R434) -/
  keyBus : Bool := true
  /-- a chip reset that waits for a running Quench (its CAUSE) (4 bits; R87) -/
  resetPending : Option Nat := none
deriving DecidableEq, Repr

/-- PCI Express link, PF configuration bits and legacy interrupt state. -/
structure Link where
  /-- HOSTIF.LINK.SPEED (3 bits; R74) -/
  speed : Nat := 0
  /-- HOSTIF.LINK.WIDTH (5 bits; R74) -/
  width : Nat := 0
  /-- HOSTIF.LINK.DOWN_COUNT (16 bits; R74) -/
  downCount : Nat := 0
  /-- ASPM link state (2 bits; R58) -/
  aspm : Aspm := .l0
  /-- PF power state is D3hot (1 bit; R63) -/
  d3hot : Bool := false
  /-- PME_Status (1 bit; R63) -/
  pmeStatus : Bool := false
  /-- PME_En (1 bit; R63) -/
  pmeEn : Bool := false
  /-- Command register, without Interrupt Disable (16 bits; R60) -/
  command : BitVec 16 := 0
  /-- Cache Line Size (8 bits; R60) -/
  cacheLine : BitVec 8 := 0
  /-- Interrupt Line (8 bits; R60) -/
  intLine : BitVec 8 := 0
  /-- BAR0 address (64 bits; R65) -/
  bar0 : BitVec 64 := 0
  /-- BAR2 address (64 bits; R65) -/
  bar2 : BitVec 64 := 0
  /-- BAR4 address (64 bits; R65) -/
  bar4 : BitVec 64 := 0
  /-- VF BAR0 address (64 bits; R67) -/
  vfBar0 : BitVec 64 := 0
  /-- VF BAR2 address (64 bits; R67) -/
  vfBar2 : BitVec 64 := 0
  /-- ARI Capable Hierarchy (1 bit; R80) -/
  ari : Bool := false
  /-- NumVFs (16 bits; R81) -/
  numVfs : Nat := 0
  /-- VF Enable (1 bit; R81) -/
  vfEnable : Bool := false
  /-- VF Memory Space Enable (1 bit; R81) -/
  vfMse : Bool := false
  /-- System Page Size (PCIe reset value: 4 KiB) (32 bits; R80) -/
  pageSize : Nat := 1
  /-- Extended Tag Field Enable (1 bit; R56) -/
  extTag : Bool := false
  /-- 10-Bit Tag Requester Enable (1 bit; R56) -/
  tenBit : Bool := false
  /-- DMA reads outstanding (10 bits; R56) -/
  readsOut : Nat := 0
  /-- Max_Read_Request_Size (PCIe reset value) (13 bits; R56) -/
  maxRead : Nat := 512
  /-- Max_Payload_Size (PCIe reset value) (13 bits; R55) -/
  maxPayload : Nat := 128
  /-- MSI enabled (legacy mode) (1 bit; R541) -/
  msiEn : Bool := false
  /-- MSI Message Address (64 bits; R60) -/
  msiAddr : BitVec 64 := 0
  /-- MSI Message Data (16 bits; R60) -/
  msiData : BitVec 16 := 0
  /-- Interrupt Disable bit (1 bit; R541) -/
  intDisable : Bool := false
  /-- ECRC generation enabled (1 bit; R83) -/
  ecrcGen : Bool := false
  /-- ECRC checking enabled (1 bit; R83) -/
  ecrcChk : Bool := false
  /-- Completion Timeout Value and Disable (5 bits; R83) -/
  toCtl : BitVec 5 := 0
  /-- Link Control (ASPM Control in bits 1:0) (16 bits; R58) -/
  linkCtl : BitVec 16 := 0
  /-- Link Control 2 (Target Link Speed in bits 3:0) (16 bits; R53) -/
  linkCtl2 : BitVec 16 := 5
  /-- L1 PM Substates Control 1 (32 bits; R58) -/
  l1ss : BitVec 32 := 0
  /-- ACS Control (16 bits; R62) -/
  acs : BitVec 16 := 0
deriving DecidableEq, Repr

/-- What the device keeps for one function (0 the PF, n VFn). -/
structure Fn where
  /-- HOSTIF.FLR_BUSY bit (1 bit; R74) -/
  flr : Bool := false
  /-- Enable Relaxed Ordering (PCIe reset value 1) (1 bit; R57) -/
  relaxed : Bool := true
  /-- MSI-X Enable (1 bit; R79) -/
  msixEn : Bool := false
  /-- MSI-X Function Mask (1 bit; R79) -/
  funcMask : Bool := false
  /-- vectors unmasked (PCIe reset: masked) (2048 × 1 bit; R79) -/
  vecOpen : List (Nat × Bool) := []
  /-- pending-bit array (2048 × 1 bit; R79) -/
  vecPend : List (Nat × Bool) := []
  /-- MSI-X table address (95:32) and data (31:0) (2048 × 96 bits; R78) -/
  vecEntry : List (Nat × BitVec 96) := []
  /-- AER Uncorrectable Error Status (32 bits; R83) -/
  uncSt : BitVec 32 := 0
  /-- AER Uncorrectable Error Mask (32 bits; R83) -/
  uncMask : BitVec 32 := 0x00400000
  /-- AER Uncorrectable Error Severity (fatal as R83 has it) (32 bits; R83) -/
  uncSev : BitVec 32 := 0x004E2030
  /-- AER Correctable Error Status (32 bits; R83) -/
  corSt : BitVec 32 := 0
  /-- AER Correctable Error Mask (32 bits; R83) -/
  corMask : BitVec 32 := 0x0000E000
  /-- AER First Error Pointer (5 bits; R83) -/
  firstErr : BitVec 5 := 0
  /-- error reporting enables of Device Control (4 bits; R83) -/
  errEn : BitVec 4 := 0
  /-- error bits of Device Status (4 bits; R83) -/
  devSta : BitVec 4 := 0
  /-- Bus Master Enable of a VF (1 bit; R61) -/
  busMaster : Bool := false
  /-- queue pairs held (13 bits; R91) -/
  queues : Nat := 0
  /-- VFREG.QSEL (for the PF: QMGR.QSEL stands in Qmgr) (12 bits; R92) -/
  qsel : Nat := 0
  /-- VFREG.Q_ERROR (7 bits; R92) -/
  qerr : BitVec 7 := 0
  /-- HOSTIF.DRBG_COUNT (13 bits; R146) -/
  drbgCount : Nat := 0
  /-- HOSTIF.RES_CTRL.PRIORITY (1 bit; R146) -/
  priority : Bool := false
  /-- HOSTIF.ALLOW staging entries (bit 15 VALID) (16 × 16 bits; R146) -/
  staging : List (Nat × BitVec 16) := []
  /-- active allowed-tenant list (16 × 16 bits; R139) -/
  active : List (Nat × BitVec 16) := []
  /-- HOSTIF.ALLOW_GEN (32 bits; R146) -/
  allowGen : BitVec 32 := 0
  /-- ENGINE.SHARE (32 bits; R147) -/
  share : BitVec 32 := 0x10101010
  /-- weights in force since the last epoch boundary (32 bits; R147) -/
  shareNow : BitVec 32 := 0x10101010
  /-- MBX.TO_PF.MSG (224 bits; R148) -/
  toMsg : BitVec 224 := 0
  /-- MBX.TO_PF_CTRL.DOORBELL (1 bit; R148) -/
  toDoor : Bool := false
  /-- MBX.TO_PF_CTRL.ACKED (1 bit; R148) -/
  toAcked : Bool := false
  /-- MBX.TO_PF_CTRL.OVERRUN (1 bit; R148) -/
  toOver : Bool := false
  /-- MBX.FROM_PF.MSG (224 bits; R148) -/
  fromMsg : BitVec 224 := 0
  /-- MBX.FROM_PF_CTRL.DOORBELL (1 bit; R148) -/
  fromDoor : Bool := false
  /-- MBX.FROM_PF_CTRL.ACKED (1 bit; R148) -/
  fromAcked : Bool := false
  /-- MBX.FROM_PF_CTRL.OVERRUN (1 bit; R148) -/
  fromOver : Bool := false
deriving DecidableEq, Repr

/-- Context of one queue pair. -/
structure Queue where
  /-- Q_SQ_BASE (64 bits; R91) -/
  sqBase : BitVec 64 := 0
  /-- Q_CQ_BASE (64 bits; R91) -/
  cqBase : BitVec 64 := 0
  /-- Q_DEPTH (17 bits; R91) -/
  depth : Nat := 0
  /-- Q_VECTOR.VECTOR (11 bits; R91) -/
  vector : Nat := 0
  /-- Q_VECTOR.VEC_EN (1 bit; R91) -/
  vecEn : Bool := false
  /-- Q_COAL.COUNT (8 bits; R91) -/
  coalCount : Nat := 0
  /-- Q_COAL.TIME (10 bits; R91) -/
  coalTime : Nat := 0
  /-- Q_CTRL.ENABLE (1 bit; R91) -/
  enable : Bool := false
  /-- Q_STATUS.BROKEN (1 bit; R91) -/
  broken : Bool := false
  /-- Q_STATUS.CAUSE (4 bits; R91) -/
  cause : Nat := 0
  /-- Q_STATUS.PHASE (1 bit; R91) -/
  phase : Bool := true
  /-- Q_PTRS.SQ_HEAD (16 bits; R91) -/
  sqHead : Nat := 0
  /-- Q_PTRS.CQ_TAIL (16 bits; R91) -/
  cqTail : Nat := 0
  /-- Q_DOORS.SQ_TAIL (16 bits; R91) -/
  sqTail : Nat := 0
  /-- Q_DOORS.CQ_HEAD (16 bits; R91) -/
  cqHead : Nat := 0
  /-- descriptors fetched and not yet completed (16 bits; R107) -/
  inFlight : Nat := 0
  /-- completion entries written and not released (16 bits; R107) -/
  unreleased : Nat := 0
  /-- descriptor reads issued: first entry, number of descriptors, oldest first (-; R100) -/
  reads : List (Nat × Nat) := []
  /-- ring-order number of the next descriptor to be fetched (-; R108) -/
  nextSeq : Nat := 0
  /-- pending interrupts of the queue (16 bits; R131) -/
  pendIrq : Nat := 0
  /-- coalescing timer running (1 bit; R132) -/
  timer : Bool := false
deriving DecidableEq, Repr

/-- QMGR and HOSTIF selector and error registers of the PF. -/
structure Qmgr where
  /-- QMGR.FUNC_SEL (8 bits; R91) -/
  funcSel : Nat := 0
  /-- QMGR.QSEL.QUEUE (12 bits; R91) -/
  qselQ : Nat := 0
  /-- QMGR.QSEL.FUNC (8 bits; R91) -/
  qselF : Nat := 0
  /-- QMGR.POOL.FREE (15 bits; R91) -/
  poolFree : Nat := 16384
  /-- QMGR.ERROR (7 bits; R91) -/
  error : BitVec 7 := 0
  /-- HOSTIF.TEN_SEL (12 bits; R136) -/
  tenSel : Nat := 0
  /-- HOSTIF.RES_FUNC (8 bits; R146) -/
  resFunc : Nat := 0
  /-- HOSTIF.DRBG_POOL.FREE (13 bits; R146) -/
  drbgFree : Nat := 4096
  /-- HOSTIF.RES_ERROR.DRBG_REFUSED (1 bit; R146) -/
  drbgRefused : Bool := false
  /-- HOSTIF.RES_ERROR.LIST_REFUSED (1 bit; R146) -/
  listRefused : Bool := false
  /-- HOSTIF.RES_ERROR.QUOTA_REFUSED (1 bit; R146) -/
  quotaRefused : Bool := false
  /-- HOSTIF.RES_ERROR.LIST_CAUSE (4 bits; R146) -/
  listCause : Nat := 0
  /-- HOSTIF.RES_ERROR.LIST_ENTRY (4 bits; R146) -/
  listEntry : Nat := 0
  /-- ENGINE.SHARE_SEL (8 bits; R147) -/
  shareSel : Nat := 0
  /-- ENGINE.SHARE_ERROR.WEIGHT_BAD (1 bit; R147) -/
  weightBad : Bool := false
deriving DecidableEq, Repr

/-- One swage slot: a phase A step and the phase B issues. -/
structure SlotWord where
  /-- step carried out in phase A (64 bits; R257) -/
  alu : Option (BitVec 64) := none
  /-- steps issued in phase B (-; R257) -/
  units : List (BitVec 64) := []
deriving DecidableEq, Repr

/-- One compiled plan. -/
structure Swage where
  /-- recipe version (32 bits; R271) -/
  version : BitVec 32 := 0
  /-- recipe header (48 bytes; R271) -/
  header : BitVec 384 := 0
  /-- role entries (4 × 8 bytes; R271) -/
  roles : List (BitVec 64) := []
  /-- slots before FINAL (256 slots; R258) -/
  slots : List SlotWord := []
deriving DecidableEq, Repr

/-- One fetched descriptor on its way to its completion. -/
structure Op where
  /-- name of the operation in this model (-; R106) -/
  id : Nat := 0
  /-- issuing function (8 bits; R106) -/
  fn : Nat := 0
  /-- local queue (12 bits; R106) -/
  queue : Nat := 0
  /-- ring-order number within its queue (-; R108) -/
  seq : Nat := 0
  /-- the descriptor as fetched (512 bits; R112) -/
  desc : BitVec 512 := 0
  /-- allowed-list generation it was checked under (32 bits; R141) -/
  gen : BitVec 32 := 0
  /-- where the operation is (-; R35) -/
  stage : Stage := .region
  /-- block index it was dispatched to (8 bits; R31) -/
  block : Nat := 0
  /-- a block has taken it (1 bit; R35) -/
  ran : Bool := false
  /-- reads that have been issued: 1 its lists and parameters, 2 its data too (2 bits; R127) -/
  fetched : Nat := 0
  /-- entry of the steering table that its search key picked (6 bits; R302) -/
  pipe : Option Nat := none
  /-- parameter block read for steering (-; R302) -/
  pblk : Option (List (BitVec 8)) := none
  /-- keys the Rack sent over the private key bus (-; R36) -/
  keys : List KeyCopy := []
  /-- STATUS of its completion once done (16 bits; R128) -/
  status : BitVec 16 := 0
  /-- DETAIL (32 bits; R128) -/
  detail : BitVec 32 := 0
  /-- OUT_LEN (32 bits; R128) -/
  outLen : Nat := 0
  /-- RESULT bytes (96 bits; R128) -/
  result : List (BitVec 8) := []
  /-- PRIORITY of its function when it was fetched (1 bit; R143) -/
  prio : Bool := false
  /-- swage a PLAN_RUN was checked against (-; R276) -/
  recip : Option Swage := none
  /-- error word of a plan (32 bits; R266) -/
  errWord : BitVec 32 := 0
  /-- a key slot of its tenant is reserved for it (1 bit; R166) -/
  reserved : Bool := false
  /-- full-entropy bytes that the seed queue has delivered to the operation (-; R344) -/
  seed : Option (List (BitVec 8)) := none
deriving DecidableEq, Repr

/-- One block's fault state. -/
structure Block where
  /-- LEVEL (4 bits; R32) -/
  level : Nat := 0
  /-- ABORTS (8 bits; R32) -/
  aborts : Nat := 0
  /-- CORRECTED (8 bits; R32) -/
  corrected : Nat := 0
  /-- out of service (STATE 2) (1 bit; R32) -/
  out : Bool := false
deriving DecidableEq, Repr

/-- One rate class. -/
structure Rate where
  /-- RATE_OPS (32 bits; R33) -/
  ops : Nat := 0
  /-- RATE_DATA (32 bits; R33) -/
  kbytes : Nat := 0
  /-- RATE_CYCLE (16 bits; R33) -/
  cycle : Nat := 0
  /-- operations completed in the running window (-; R33) -/
  curOps : Nat := 0
  /-- bytes processed in the running window (-; R33) -/
  curBytes : Nat := 0
deriving DecidableEq, Repr

/-- Scheduler, rates and block status of the ENGINE block. -/
structure Engine where
  /-- ENGINE.EPOCH (32 bits; R147) -/
  epoch : BitVec 32 := 0
  /-- credits of the weighted fair schedulers, key region × 256 + function (-; R20) -/
  credit : List (Nat × Rat) := []
  /-- functions that had work pending at the epoch boundary, key region × 256 + function (-; R20) -/
  pendSet : List (Nat × Bool) := []
  /-- last requester granted by each round-robin arbiter (-; R20) -/
  rrLast : List (Nat × Nat) := []
  /-- ENGINE.BLOCK_STATUS and fault levels (128 × 32 bits; R32) -/
  blocks : List (Nat × Block) := []
  /-- ENGINE.RATE_SEQ (32 bits; R33) -/
  rateSeq : BitVec 32 := 0
  /-- rate registers and the window being measured (8 × 3 × 32 bits; R33) -/
  rates : List (Nat × Rate) := []
  /-- operations in flight, oldest first (-; R106) -/
  tasks : List Op := []
  /-- name of the next operation (-; R106) -/
  nextId : Nat := 1
deriving DecidableEq, Repr

/-- One tenant table entry. -/
structure Tenant where
  /-- STATE is ACTIVE (2 bits; R134) -/
  live : Bool := false
  /-- CSET (12 bits; R134) -/
  cset : Nat := 0
  /-- EPOCH (16 bits; R134) -/
  epoch : BitVec 16 := 0
  /-- SLOT_QUOTA (17 bits; R134) -/
  slotQuota : Nat := 0
  /-- SLOTS_USED (17 bits; R134) -/
  slotsUsed : Nat := 0
  /-- STORE_QUOTA (13 bits; R134) -/
  storeQuota : Nat := 0
  /-- STORE_USED (13 bits; R134) -/
  storeUsed : Nat := 0
  /-- BIND (256 bits; R134) -/
  bind : BitVec 256 := 0
deriving DecidableEq, Repr

/-- One key slot of the Rack, before masking. -/
structure Slot where
  /-- MATERIAL, byte 0 in bits 7:0 (72 bytes; R153) -/
  material : BitVec 576 := 0
  /-- ATTR (128 bits; R154) -/
  attr : BitVec 128 := 0
  /-- CHECK (64 bits; R157) -/
  check : BitVec 64 := 0
deriving DecidableEq, Repr

/-- A rewrap buffer of an Anvil lane. -/
structure Rewrap where
  /-- BLOB_REWRAP that holds it (-; R244) -/
  op : Nat := 0
  /-- the unwrapped blob: 32 header bytes and the material (6176 bytes; R244) -/
  data : List (BitVec 8) := []
deriving DecidableEq, Repr

/-- One key-cache entry. -/
structure CacheEnt where
  /-- key slot (16 bits; R229) -/
  slot : Nat := 0
  /-- member of a packed set (2 bits; R229) -/
  member : Nat := 0
  /-- expanded round keys (three times DES for the TDES lane) (-; R229) -/
  rounds : List (List (BitVec 8)) := []
  /-- H^1 to H^16 of GCM and GMAC (16 × 128 bits; R229) -/
  hPow : List (BitVec 128) := []
  /-- HMAC: inner and outer chaining states after the key blocks, masked (-; R229) -/
  chain : List (BitVec 8) := []
  /-- the mask of the chaining states (-; R229) -/
  mask : List (BitVec 8) := []
deriving DecidableEq, Repr

/-- The key register file and the Temper pass. -/
structure KeyRack where
  /-- slots that are not all zero (65536 × 96 bytes; R152) -/
  slots : List (Nat × Slot) := []
  /-- mask key MK (256 bits; R182) -/
  maskKey : BitVec 256 := 0
  /-- Rack integrity key (256 bits; R182) -/
  rik : BitVec 256 := 0
  /-- number of the current pass (64 bits; R183) -/
  pass : Nat := 0
  /-- a Temper pass is under way (1 bit; R184) -/
  running : Bool := false
  /-- slots the running pass has rewritten (17 bits; R183) -/
  reached : Nat := 0
  /-- ENGINE.TEMPER_PERIOD.PERIOD_MS (16 bits; R187) -/
  periodMs : Nat := 1000
  /-- ENGINE.TEMPER_PERIOD.FIXED (1 bit; R187) -/
  fixedMode : Bool := false
  /-- ENGINE.TEMPER_PASSES (32 bits; R187) -/
  passes : BitVec 32 := 0
  /-- time at which the running pass started (-; R187) -/
  passAt : Nat := 0
  /-- ENGINE.TEMPER_LAST (16 bits; R187) -/
  lastUs : Nat := 0
  /-- temperature band in force, none until the first reading (4 bits; R185) -/
  band : Option Nat := none
  /-- key caches of blocks 0x00 to 0x06, most recently used first (7 × 64 entries; R229) -/
  caches : List (Nat × List CacheEnt) := []
  /-- mask-generator seeds of the lanes and the pipelines (15 × 128 bits; R251) -/
  maskSeeds : List (Nat × BitVec 128) := []
  /-- rewrap buffers of the Anvil lanes that hold a blob (4 × 6216 bytes; R244) -/
  rewraps : List (Nat × Rewrap) := []
  /-- slot that the Hearth's control port has chosen (16 bits; R160) -/
  portSel : Nat := 0
  /-- mask generators run on because Bellows is FAILED (logged once) (1 bit; R251) -/
  maskStale : Bool := false
deriving DecidableEq, Repr

/-- One record of the battery-time event buffer. -/
structure BatRec where
  /-- source (8 bits; R442) -/
  source : Nat := 0
  /-- shield sector bitmap (8 bits; R442) -/
  detail : BitVec 8 := 0
  /-- byte 3 (8 bits; R442) -/
  flags : BitVec 8 := 0
  /-- RTC seconds (32 bits; R442) -/
  secs : BitVec 32 := 0
  /-- GROUP (32 bits; R442) -/
  group : BitVec 32 := 0
  /-- RTC ticks (15 bits; R442) -/
  ticks : Nat := 0
deriving DecidableEq, Repr

/-- Battery-backed domain. -/
structure Crucible where
  /-- Device Root Key (32 bytes; R177) -/
  drk : BitVec 256 := 0
  /-- mask seed (32 bytes; R177) -/
  maskSeed : BitVec 256 := 0
  /-- DRK check (16 bytes; R177) -/
  drkCheck : BitVec 128 := 0
  /-- tamper latch SOURCES (12 bits; R440) -/
  latchSrc : BitVec 12 := 0
  /-- tamper latch CLASS (8 bits; R440) -/
  latchCls : Nat := 0
  /-- tamper latch GROUP (32 bits; R440) -/
  latchGroup : BitVec 32 := 0
  /-- tamper latch FIRST (32 bits; R440) -/
  latchFirst : BitVec 32 := 0
  /-- tamper latch LAST (32 bits; R440) -/
  latchLast : BitVec 32 := 0
  /-- root generation (32 bits; R177) -/
  rootGen : BitVec 32 := 0
  /-- battery-time event buffer (64 × 16 bytes; R442) -/
  batRecs : List BatRec := []
  /-- RTC seconds (32 bits; R440) -/
  rtc : BitVec 32 := 0
  /-- RTC ticks within the second (15 bits; R442) -/
  rtcTicks : Nat := 0
  /-- patterns and seconds run from the internal oscillator (1 bit; R474) -/
  rtcInternal : Bool := false
  /-- a source has tripped since the Crucible began to run from VBAT (1 bit; R442) -/
  tripped : Bool := false
  /-- charge counter, in pAh so that 10 s samples add up exactly (32 bits; R532) -/
  batUsedUah : Nat := 0
  /-- seconds on battery since the last cell reset (-; R532) -/
  batSec : Nat := 0
deriving DecidableEq, Repr

/-- One custodian set record. -/
structure CustSet where
  /-- members (8 bits; R194) -/
  n : Nat := 0
  /-- quorum (8 bits; R194) -/
  m : Nat := 0
  /-- CARD and CERT_HASH of each member (16 × 44 bytes; R194) -/
  cards : List (BitVec 96 × BitVec 256) := []
deriving DecidableEq, Repr

/-- The open ceremony. -/
structure Ceremony where
  /-- CER_ID (32 bits; R199) -/
  id : BitVec 32 := 0
  /-- KIND 1 to 7 (8 bits; R201) -/
  kind : Nat := 0
  /-- TENANT (12 bits; R201) -/
  tenant : Nat := 0
  /-- open parameters, from body byte 4 (236 bytes; R210) -/
  params : List (BitVec 8) := []
  /-- CSTATE 1 OPEN, 2 COLLECTING, 3 QUORATE (2 bits; R200) -/
  cstate : Nat := 1
  /-- count needed for each role of the kind (-; R209) -/
  need : List (Nat × Nat) := []
  /-- role and card ID of each accepted step, newest first (-; R205) -/
  got : List (Nat × BitVec 96) := []
  /-- cards enrolled so far, with certificate hash (-; R210) -/
  hashes : List (BitVec 96 × BitVec 256) := []
  /-- next step number (32 bits; R203) -/
  nextStep : BitVec 32 := 1
  /-- the window has started (1 bit; R200) -/
  windowOn : Bool := false
  /-- ceremony private key (256 bits; R201) -/
  privKey : BitVec 256 := 0
  /-- components read or written, newest first (-; R212) -/
  parts : List (List (BitVec 8)) := []
  /-- BTK shares read: index, threshold, check value, share (-; R222) -/
  shares : List (Nat × Nat × BitVec 64 × BitVec 256) := []
  /-- BTK being made by NEW_ROOT with BTK_MODE 1 (256 bits; R219) -/
  btk : Option (BitVec 256) := none
  /-- coefficients of the BTK sharing polynomial (-; R220) -/
  coeffs : List (BitVec 256) := []
  /-- time at which the window ends (-; R200) -/
  windowEnd : Nat := 0
deriving DecidableEq, Repr

/-- Ceremonies, persistent region and attestation. -/
structure Vault where
  /-- the open ceremony (-; R199) -/
  cer : Option Ceremony := none
  /-- next CER_ID (32 bits; R199) -/
  nextCer : BitVec 32 := 1
  /-- custodian sets (4096 records; R194) -/
  sets : List (Nat × CustSet) := []
  /-- device copy of the Backup Transport Key (256 bits; R219) -/
  btk : Option (BitVec 256) := none
  /-- tenant table of PD28 (4096 entries; R134) -/
  tenants : List (Nat × Tenant) := []
  /-- tenant entries last made persistent (4096 entries; R137) -/
  kept : List (Nat × Tenant) := []
  /-- accepted quota writes not yet persistent (4096 × 1 bit; R137) -/
  quotaDirty : List (Nat × Bool) := []
  /-- tenant persistent areas, before sealing (4 MiB; R510) -/
  areas : List (Nat × List (BitVec 8)) := []
  /-- key under which the Hearth persistent region is sealed (256 bits; R179) -/
  regionKey : BitVec 256 := 0
  /-- key under which each tenant persistent area is sealed (4096 × 256 bits; R179) -/
  areaKeys : List (Nat × BitVec 256) := []
  /-- committed LIFECYCLE target that waits for AUTH (4 bits; R215) -/
  lcTarget : Option Nat := none
  /-- highest class latched since the last NEW_ROOT or UNLOCK (2 bits; R224) -/
  highCls : Nat := 0
  /-- parameters of event 0x0613 for a ceremony that a restart ended, not yet logged (12 bytes; R217) -/
  cerLost : Option (BitVec 96) := none
deriving DecidableEq, Repr

/-- Trims and identity partition. -/
structure Trims where
  /-- device identity (64 bits; R64) -/
  identity : BitVec 64 := 0
  /-- device attestation key, wrapped (-; R226) -/
  attestKey : List (BitVec 8) := []
  /-- debug authorisation key (48 bytes; R455) -/
  debugKey : BitVec 384 := 0
  /-- ECDSA P-384 attestation signing key, wrapped (-; R226) -/
  signEc : List (BitVec 8) := []
  /-- ML-DSA-65 attestation signing key as its seed, wrapped (-; R226) -/
  signMl : List (BitVec 8) := []
  /-- DER certificates, key chain × 2 + level (4 certificates; R225) -/
  certs : List (Nat × List (BitVec 8)) := []
  /-- custodian card CA key that the Hearth image holds (97 bytes; R495) -/
  cardCa : List (BitVec 8) := []
  /-- Golandien's ECDSA P-384 public key in the ROM (97 bytes; R457) -/
  romEc : List (BitVec 8) := []
  /-- Golandien's ML-DSA-87 public key in the ROM (2592 bytes; R457) -/
  romMl : List (BitVec 8) := []
  /-- wipe-pending mark: life-cycle code of the new stage (4 bits; R449) -/
  wipePending : Option Nat := none
deriving DecidableEq, Repr

/-- One transaction context of a pipeline. -/
structure Ctx where
  /-- operation it runs (-; R256) -/
  op : Nat := 0
  /-- plan ID (10 bits; R256) -/
  plan : Nat := 0
  /-- swage the transaction runs under (-; R276) -/
  swage : Swage := {}
  /-- next slot (8 bits; R256) -/
  slot : Nat := 0
  /-- variables v0 to v31 (32 × 128 bits; R258) -/
  vars : List (Nat × BitVec 128) := []
  /-- SECRET tag of each variable (32 × 1 bit; R272) -/
  secret : List (Nat × Bool) := []
  /-- flags f0 to f15 (16 bits; R258) -/
  flags : BitVec 16 := 0
  /-- error word (32 bits; R266) -/
  err : BitVec 32 := 0
  /-- key registers k0 to k7 (8 registers; R258) -/
  keys : List (Nat × KeyCopy) := []
  /-- parameter block (4096 bytes; R262) -/
  params : List (BitVec 8) := []
  /-- transaction data (4096 bytes; R262) -/
  data : List (BitVec 8) := []
  /-- random bytes drawn (64 bytes; R262) -/
  random : List (BitVec 8) := []
  /-- staged output (256 bytes; R272) -/
  outStage : List (BitVec 8) := []
  /-- staged RESULT bytes 4 to 11 (8 bytes; R272) -/
  resStage : List (BitVec 8) := []
  /-- insertion note (16 bits; R294) -/
  note : Nat := 0
  /-- aborted: spends its remaining periods idle (1 bit; R265) -/
  faulted : Bool := false
  /-- source scatter list as read (-; R122) -/
  srcList : List (BitVec 128) := []
  /-- destination scatter list as read (-; R122) -/
  dstList : List (BitVec 128) := []
deriving DecidableEq, Repr

/-- Plan pipelines. -/
structure Plan where
  /-- swages installed in every pipeline (1024 plans; R259) -/
  swages : List (Nat × Swage) := []
  /-- contexts in use, key pipeline × 8 + context (64 contexts; R256) -/
  ctxs : List (Nat × Ctx) := []
  /-- transactions prepared and waiting for a context, oldest first (-; R262) -/
  ready : List Ctx := []
  /-- recipes of the booted plan bundle (960 KiB; R277) -/
  bundle : List (List (BitVec 8)) := []
  /-- context that each sequencer visits next (8 × 3 bits; R256) -/
  turn : List (Nat × Nat) := []
deriving DecidableEq, Repr

/-- One route of a trie. -/
structure Route where
  /-- PLEN (7 bits; R285) -/
  plen : Nat := 0
  /-- PREFIX, byte 0 in bits 63:56 (64 bits; R285) -/
  pfx : BitVec 64 := 0
  /-- KEY_SLOT (16 bits; R285) -/
  slot : Nat := 0
  /-- hit counter (32 bits; R290) -/
  hits : Nat := 0
deriving DecidableEq, Repr

/-- One learned terminal entry. -/
structure TermEnt where
  /-- bucket (15 bits; R291) -/
  bucket : Nat := 0
  /-- way (2 bits; R291) -/
  way : Nat := 0
  /-- TAG (16 bits; R291) -/
  tag : BitVec 16 := 0
  /-- IDENT (64 bits; R291) -/
  ident : BitVec 64 := 0
  /-- BDK key slot (16 bits; R291) -/
  slot : Nat := 0
  /-- initial key (stored masked under R298) (32 bytes; R291) -/
  key : List (BitVec 8) := []
  /-- HIT (1 bit; R291) -/
  hit : Bool := false
  /-- AGED (1 bit; R291) -/
  aged : Bool := false
deriving DecidableEq, Repr

/-- Terminal cache of one pipeline. -/
structure Term where
  /-- live bank (1 bit; R304) -/
  bank : Nat := 0
  /-- VALID entries of the live bank (131072 entries; R291) -/
  live : List TermEnt := []
  /-- VALID entries of the spare bank (131072 entries; R300) -/
  spare : List TermEnt := []
  /-- hash seed of the live bank (128 bits; R292) -/
  seed : BitVec 128 := 0
  /-- seed of a running rehash (128 bits; R300) -/
  newSeed : BitVec 128 := 0
  /-- TERM_HITS (32 bits; R304) -/
  hits : BitVec 32 := 0
  /-- TERM_MISSES (32 bits; R304) -/
  misses : BitVec 32 := 0
  /-- TERM_NOTES.FAIL (16 bits; R304) -/
  fail : Nat := 0
  /-- TERM_NOTES.SKIP (16 bits; R304) -/
  skip : Nat := 0
  /-- TERM_REHASH.COUNT (16 bits; R304) -/
  rehashes : BitVec 16 := 0
  /-- TERM_REHASH.BUSY (1 bit; R304) -/
  rehashing : Bool := false
  /-- a rehash request is pending (1 bit; R299) -/
  request : Bool := false
  /-- time at which the last rehash ended (-; R299) -/
  lastEnd : Option Nat := none
  /-- TERM_SWEEPS (32 bits; R304) -/
  sweeps : BitVec 32 := 0
  /-- TERM_REMOVED (18 bits; R304) -/
  removed : Nat := 0
  /-- key of the pipeline's mask generator for the live bank (128 bits; R298) -/
  maskKey : BitVec 128 := 0
  /-- the same for a running rehash (128 bits; R298) -/
  newMask : BitVec 128 := 0
  /-- bytes that the Hearth has drawn for a rehash (-; R300) -/
  drawn : Option (List (BitVec 8)) := none
  /-- masking pass of the live bank (-; R298) -/
  maskPass : Nat := 0
  /-- derived initial keys of transactions waiting for TERMINAL_INSERT, by operation (-; R294) -/
  pending : List (Nat × TermEnt) := []
deriving DecidableEq, Repr

/-- The routing block, tries, caches and ROUTE registers. -/
structure Routing where
  /-- trie of each tenant-family: routes in list order, key family × 4096 + tenant (2^18 entries, 65536 records; R280) -/
  tries : List (Nat × List Route) := []
  /-- replaced tries not yet freed (-; R287) -/
  old : List (List Route) := []
  /-- trie built and waiting for its flip (-; R287) -/
  built : Option (Nat × List Route) := none
  /-- ROUTE.BUILD_ADDR (64 bits; R290) -/
  buildAddr : BitVec 64 := 0
  /-- ROUTE.BUILD_CTRL.TENANT (12 bits; R290) -/
  buildTen : Nat := 0
  /-- ROUTE.BUILD_CTRL.FAMILY (1 bit; R290) -/
  buildFam : Nat := 0
  /-- ROUTE.BUILD_COUNT (17 bits; R290) -/
  buildCount : Nat := 0
  /-- ROUTE.BUILD_STATUS.BUSY (1 bit; R290) -/
  busy : Bool := false
  /-- ROUTE.BUILD_STATUS.DONE (1 bit; R290) -/
  done : Bool := false
  /-- ROUTE.BUILD_STATUS.REFUSED (1 bit; R290) -/
  refused : Bool := false
  /-- ROUTE.BUILD_STATUS.CAUSE (4 bits; R290) -/
  cause : Nat := 0
  /-- ROUTE.BUILD_STATUS.ENTRY (16 bits; R290) -/
  entry : Nat := 0
  /-- ROUTE.TRIE_GEN (32 bits; R290) -/
  trieGen : BitVec 32 := 0
  /-- ROUTE.ROOT_SEL (13 bits; R290) -/
  rootSel : Nat := 0
  /-- ROUTE.HIT_SEL (17 bits; R290) -/
  hitSel : Nat := 0
  /-- terminal caches (8 caches; R291) -/
  terms : List (Nat × Term) := []
  /-- ROUTE.TERM_FLUSH.TENANT (12 bits; R304) -/
  flushTen : Nat := 0
  /-- ROUTE.TERM_FLUSH.BUSY (1 bit; R304) -/
  flushBusy : Bool := false
  /-- tenant being removed (12 bits; R304) -/
  flushing : Nat := 0
  /-- steering entries that differ from i mod 8 (64 × 3 bits; R302) -/
  steer : List (Nat × Nat) := []
  /-- lookup results handed to front stages: operation, route slot (-; R281) -/
  lookups : List (Nat × Option Nat) := []
deriving DecidableEq, Repr

/-- One Hammer unit. -/
structure HUnit where
  /-- operation it holds, 0 for a job of the Hearth (-; R332) -/
  job : Option Nat := none
  /-- preempted operation it holds (-; R328) -/
  held : Option Nat := none
  /-- operation for which the job is marked to yield (-; R328) -/
  marked : Option Nat := none
  /-- operand memory of the job, lower 10 KiB: its key material (10 KiB; R306) -/
  lower : List (BitVec 8) := []
  /-- operand memory of a preempting job, upper 6 KiB (6 KiB; R328) -/
  upper : List (BitVec 8) := []
deriving DecidableEq, Repr

/-- Number region. -/
structure Hammer where
  /-- units holding a job (64 units; R305) -/
  units : List (Nat × HUnit) := []
  /-- ENGINE.HAMMER_ABORT.UNIT (6 bits; R332) -/
  abortUnit : Nat := 0
  /-- ENGINE.HAMMER_YIELD.COUNT (16 bits; R332) -/
  yields : Nat := 0
deriving DecidableEq, Repr

/-- One noise cell. -/
structure Cell where
  /-- FAILS (8 bits; R352) -/
  fails : Nat := 0
  /-- OUT (1 bit; R352) -/
  out : Bool := false
  /-- LAST (1 bit; R352) -/
  last : Nat := 0
  /-- VN (1 bit; R352) -/
  vn : Bool := false
deriving DecidableEq, Repr

/-- One DRBG instance. -/
structure Inst where
  /-- instantiated (1 bit; R346) -/
  up : Bool := false
  /-- CTR_DRBG Key (256 bits; R345) -/
  key : BitVec 256 := 0
  /-- CTR_DRBG V (128 bits; R345) -/
  v : BitVec 128 := 0
  /-- generate requests since the last seeding (33 bits; R348) -/
  count : Nat := 0
  /-- interval exponent (6 bits; R348) -/
  exp : Nat := 0
deriving DecidableEq, Repr

/-- Entropy source and DRBG block. -/
structure Bellows where
  /-- RAND.STATUS.STATE (2 bits; R352) -/
  state : BState := .start
  /-- noise cells (32 cells; R352) -/
  cells : List (Nat × Cell) := []
  /-- a retest runs (1 bit; R341) -/
  retest : Bool := false
  /-- S (5 bits; R352) -/
  stretch : Nat := 0
  /-- requests waiting in the seed queue, oldest first (16-bit depth; R344) -/
  seedQ : List SeedReq := []
  /-- RAND.SEED_QUEUE.PEAK (16 bits; R352) -/
  peak : Nat := 0
  /-- deepest queue in the running window (-; R349) -/
  winPeak : Nat := 0
  /-- consecutive windows at or below 8 (7 bits; R349) -/
  lowWins : Nat := 0
  /-- RAND.SEEDS (32 bits; R352) -/
  seeds : BitVec 32 := 0
  /-- requests held, in order of arrival (16 bits; R352) -/
  held : List SeedReq := []
  /-- full-entropy bytes that the seed queue has delivered to the Hearth (-; R344) -/
  given : Option (List (BitVec 8)) := none
  /-- operations whose request Bellows has received, in order (-; R347) -/
  asked : List Nat := []
  /-- operation on each generator core (not listed: free) (8 cores; R347) -/
  cores : List (Nat × Nat) := []
  /-- noise cell that gives the conditioner its next unit (5 bits; R337) -/
  turn : Nat := 0
  /-- chaining value of the conditioner (128 bits; R337) -/
  cond : BitVec 128 := 0
  /-- cells that failed a test in the running retest (32 bits; R341) -/
  retestFail : BitVec 32 := 0
  /-- RAND.HELD.FAILED (16 bits; R352) -/
  failedCount : Nat := 0
  /-- function instances, key function × 4096 + index (4096 instances; R345) -/
  insts : List (Nat × Inst) := []
  /-- internal instance (-; R345) -/
  internal : Inst := {}
  /-- RAND.INST_SEL.FUNC (8 bits; R352) -/
  instSelF : Nat := 0
  /-- RAND.INST_SEL.INDEX (12 bits; R352) -/
  instSelI : Nat := 0
deriving DecidableEq, Repr

/-- One direction of the Bench ring. -/
structure Ring where
  /-- reader's head (counted without wrap) (4 bits; R368) -/
  head : Nat := 0
  /-- writer's tail (counted without wrap) (4 bits; R368) -/
  tail : Nat := 0
deriving DecidableEq, Repr

/-- One processor world's supervision state. -/
structure World where
  /-- WORLDS field: 0 starting, 1 serving, 2 restarting, 3 halted (2 bits; R374) -/
  status : Nat := 0
  /-- RESTARTS field (16 bits; R374) -/
  restarts : Nat := 0
  /-- times of the restarts of the last 600 s, newest first (-; R383) -/
  restartAt : List Nat := []
  /-- cause or core of the restart under way (8 bits; R384) -/
  cause : Nat := 0
  /-- lowest interface version of the image (16 bits; R371) -/
  hbiMin : BitVec 16 := 0
  /-- highest interface version of the image (16 bits; R371) -/
  hbiMax : BitVec 16 := 0
  /-- interrupt lines pending (128 lines; R404) -/
  irqs : List Nat := []
deriving DecidableEq, Repr

/-- Hearth, Bench, their inputs and VAULTMBX. -/
structure Worlds where
  /-- the Hearth (-; R374) -/
  hearth : World := {}
  /-- the Bench (-; R374) -/
  bench : World := {}
  /-- CHIP.STATUS.VAULT_UP (1 bit; R72) -/
  vaultUp : Bool := false
  /-- WORLDS.HBI (CHOSEN) (16 bits; R374) -/
  hbi : BitVec 16 := 0
  /-- an HBI_HELLO awaits its HBI_ACK (1 bit; R372) -/
  helloOut : Bool := false
  /-- services waiting, in order of arrival (-; R361) -/
  pendingSvc : List Service := []
  /-- service being run (-; R361) -/
  running : Option Service := none
  /-- operations in the descriptor channel (64 descriptors; R362) -/
  channel : List Nat := []
  /-- descriptors that wait in the queue engine while the channel is full, in fetch order (-; R362) -/
  chanWait : List Nat := []
  /-- response area of VAULTMBX and of the Bench ring (bytes not listed are 0) (240 bytes; R365) -/
  mbxArea : List (BitVec 8) := []
  /-- response area of the descriptor channel (bytes not listed are 0) (64 bytes; R365) -/
  chanArea : List (BitVec 8) := []
  /-- ring written by the Hearth (-; R368) -/
  toBench : Ring := {}
  /-- ring written by the Bench (-; R368) -/
  toHearth : Ring := {}
  /-- VAULTMBX.REQ (bytes not listed are 0) (256 bytes; R374) -/
  req : List (BitVec 8) := []
  /-- request copied to the Hearth at GO (256 bytes; R376) -/
  snap : List (BitVec 8) := []
  /-- VAULTMBX.RSP (256 bytes; R374) -/
  rsp : List (BitVec 8) := []
  /-- VAULTMBX.CTRL.GO (1 bit; R374) -/
  go : Bool := false
  /-- VAULTMBX.CTRL.DONE (1 bit; R374) -/
  done : Bool := false
  /-- VAULTMBX.CTRL.OVERRUN (1 bit; R374) -/
  overrun : Bool := false
  /-- the response under way is discarded after a PF reset (1 bit; R86) -/
  discard : Bool := false
  /-- owning world of slots (key s) and lines (key 64 + i); true is the Bench (64 + 128 bits; R357) -/
  assign : List (Nat × Bool) := []
  /-- ASSIGN_LOCK (1 bit; R359) -/
  assignLock : Bool := false
deriving DecidableEq, Repr

/-- One ZWM core (0 the Hearth, 1 to 4 the Bench). -/
structure Core where
  /-- A0 to A15; not listed: 0 tagged POISON (16 × 68 bits; R391) -/
  regs : List (Nat × TWord) := []
  /-- PC (64 bits; R391) -/
  pc : BitVec 64 := 0
  /-- FL (16 bits; R392) -/
  fl : BitVec 16 := 0
  /-- ACC (192 bits; R391) -/
  acc : BitVec 192 := 0
  /-- tag of ACC (4 bits; R391) -/
  accTag : BitVec 4 := 0xF
  /-- FCAUSE (13 bits; R400) -/
  fcause : BitVec 13 := 0
  /-- FPC (64 bits; R400) -/
  fpc : BitVec 64 := 0
  /-- FADDR (64 bits; R400) -/
  faddr : BitVec 64 := 0
  /-- FREP (64 bits; R400) -/
  frep : BitVec 64 := 0
  /-- time of the last watchdog kick (-; R379) -/
  kickAt : Nat := 0
  /-- waiting in WFI (1 bit; R397) -/
  wfi : Bool := false
  /-- repeat prefix under way (-; R401) -/
  rep : Option (Rep) := none
deriving DecidableEq, Repr

/-- Rule of one peripheral slot. -/
structure SlotRule where
  /-- COLOURS (16 bits; R413) -/
  colours : BitVec 16 := 1
  /-- R (1 bit; R413) -/
  r : Bool := true
  /-- W (1 bit; R413) -/
  w : Bool := true
  /-- X (1 bit; R413) -/
  x : Bool := false
deriving DecidableEq, Repr

/-- Protection unit of one world. -/
structure Mpu where
  /-- MPU_CTRL.HOLD (1 bit; R416) -/
  hold : Bool := false
  /-- MPU_CTRL.HOLD_ACK (1 bit; R416) -/
  holdAck : Bool := false
  /-- MPU_CTRL.BUSY (1 bit; R416) -/
  busy : Bool := false
  /-- MPU_CTRL.HOLDER (2 bits; R416) -/
  holder : Nat := 0
  /-- HOLD clear written while BUSY (1 bit; R417) -/
  clearWait : Bool := false
  /-- MPU_ERROR.NOT_HELD (1 bit; R416) -/
  notHeld : Bool := false
  /-- MPU_ERROR.FIXED (1 bit; R416) -/
  fixed : Bool := false
  /-- MPU_ERROR.RANGE (1 bit; R416) -/
  range : Bool := false
  /-- MPU_SECRET (Hearth 0x7FFF; Bench 0) (16 bits; R416) -/
  secret : BitVec 16 := 0x7FFF
  /-- MPU_DEBUG (16 bits; R416) -/
  debug : BitVec 16 := 0
  /-- LINE_BASE (16 bits; R416) -/
  lineBase : Nat := 0
  /-- LINE_COUNT (17 bits; R416) -/
  lineCount : Nat := 0
  /-- LINE_SET.COLOUR (4 bits; R416) -/
  lineColour : BitVec 4 := 0
  /-- colouring run: first line, lines, colour (-; R416) -/
  run : Option (Nat × Nat × BitVec 4) := none
  /-- line colours of the world's SRAM (8192 or 65536 × 4 bits; R408) -/
  colours : List (Nat × BitVec 4) := []
  /-- slot rules that differ from their reset value (64 rules; R413) -/
  rules : List (Nat × SlotRule) := []
  /-- accesses that wait while the unit is held, in arrival order (-; R417) -/
  waiting : List UnitReq := []
deriving DecidableEq, Repr

/-- Cores, memories and protection units of both worlds. -/
structure Zwm where
  /-- the cores: the Bench's with PC at the image entry; one not listed is as at reset, PC 0 (5 cores; R391) -/
  cores : List (Nat × Core) := [(1, { pc := 0x400000 }), (2, { pc := 0x400000 }), (3, { pc := 0x400000 }), (4, { pc := 0x400000 })]
  /-- Hearth SRAM words, key location / 8 (512 KiB; R354) -/
  hmem : List (Nat × MWord) := []
  /-- Hearth ROM words (128 KiB; R354) -/
  rom : List (Nat × MWord) := []
  /-- Bench SRAM words (4 MiB; R354) -/
  bmem : List (Nat × MWord) := []
  /-- message memory words (8 KiB; R368) -/
  msg : List (Nat × MWord) := []
  /-- Hearth protection unit (-; R416) -/
  hearthMpu : Mpu := {}
  /-- Bench protection unit (-; R416) -/
  benchMpu : Mpu := { secret := 0 }
  /-- errors corrected in the private memory of each world (1 the Bench) (-; R385) -/
  memC : List (Nat × Nat) := []
  /-- copy engine refusals: world and offset of the refused piece (-; R415) -/
  copyErr : List (Nat × Nat) := []
  /-- debug port error bit (1 bit; R422) -/
  dbgErr : Bool := false
  /-- HCLAIM, and CLAIM of R484 (30 bits; R480) -/
  hclaim : BitVec 30 := 0
deriving DecidableEq, Repr

/-- The open tamper group. -/
structure Group where
  /-- group sequence number (32 bits; R431) -/
  no : BitVec 32 := 0
  /-- alarms in the group so far (16 bits; R431) -/
  alarms : Nat := 0
  /-- highest class among its alarms (2 bits; R432) -/
  cls : Nat := 0
  /-- highest class carried out (2 bits; R432) -/
  carried : Nat := 0
  /-- time the group opened (-; R431) -/
  start : Nat := 0
deriving DecidableEq, Repr

/-- Aggregator in PD1 and the TAMPER mirror. -/
structure Tamper where
  /-- TAMPER.ACTIVE (12 bits; R444) -/
  active : BitVec 12 := 0
  /-- OTP fuse disables (16 bits; R427) -/
  fused : BitVec 16 := 0
  /-- classes raised above the fused minimum (12 × 2 bits; R444) -/
  classes : List (Nat × Nat) := []
  /-- classes kept in the Hearth persistent region (12 × 2 bits; R429) -/
  keptClasses : List (Nat × Nat) := []
  /-- classes in force are not yet persistent (1 bit; R430) -/
  classDirty : Bool := false
  /-- the open group (-; R431) -/
  group : Option Group := none
  /-- a Quench is running (1 bit; R434) -/
  quench : Bool := false
  /-- time the Quench started (-; R434) -/
  quenchAt : Nat := 0
  /-- times of the DEBUG_PROBE accesses of the last 1 s, newest first (16 entries; R444) -/
  probes : List Nat := []
  /-- TAMPER.SHIELD.SECTORS (8 bits; R444) -/
  sectors : BitVec 8 := 0
  /-- sectors of which a line mismatched in its latest pattern period (8 bits; R423) -/
  shieldNow : BitVec 8 := 0
  /-- TAMPER.SHIELD.ENV_A (1 bit; R444) -/
  envA : Bool := false
  /-- TAMPER.SHIELD.ENV_B (1 bit; R444) -/
  envB : Bool := false
  /-- TAMPER.SENSE.VBAT_MV (12 bits; R444) -/
  vbatMv : Nat := 0
  /-- TAMPER.SENSE.TJ, in 0.125 °C (16 bits; R444) -/
  tj : Int := 0
  /-- consecutive readings below −45 °C (3 bits; R423) -/
  lowRuns : Nat := 0
  /-- consecutive readings above 125 °C (3 bits; R423) -/
  highRuns : Nat := 0
  /-- consecutive VBAT readings below 2.4 V (2 bits; R423) -/
  vbatRuns : Nat := 0
  /-- TAMPER.BATTERY.RECORDS (7 bits; R444) -/
  batRecords : Nat := 0
  /-- TAMPER.BATTERY.OVERFLOW (1 bit; R444) -/
  batOverflow : Bool := false
  /-- TAMPER.COUNT (12 × 16 bits; R444) -/
  counts : List (Nat × Nat) := []
  /-- shield pattern LFSRs (8 × 128 bits; R424) -/
  lfsr : List (Nat × BitVec 128) := []
deriving DecidableEq, Repr

/-- Life-cycle controller, debug authorisation and images. -/
structure Life where
  /-- OTP STAGE (5 bits; R447) -/
  stage : BitVec 5 := 0
  /-- OTP TOKEN_USED (8 bits; R447) -/
  tokenUsed : BitVec 8 := 0
  /-- OTP RELOCK (8 bits; R447) -/
  relock : BitVec 8 := 0
  /-- key in OTP that wraps the attestation keys (256 bits; R226) -/
  wrapKey : BitVec 256 := 0
  /-- conditioner key constant in OTP (256 bits; R337) -/
  condKey : BitVec 256 := 0
  /-- owner key hash (48 bytes; R459) -/
  ownerHash : Option (BitVec 384) := none
  /-- owner public key, kept where its hash is fused (97 bytes; R459) -/
  ownerKey : List (BitVec 8) := []
  /-- fused token hashes (8 × 32 bytes; R451) -/
  tokenHashes : List (Nat × BitVec 256) := []
  /-- TOKEN refusals since chip reset (3 bits; R452) -/
  refusals : Nat := 0
  /-- LIFECYCLE.SCOPE (32 bits; R462) -/
  scope : BitVec 32 := 0
  /-- outstanding nonce and its scope map (288 bits; R455) -/
  nonce : Option (BitVec 256 × BitVec 32) := none
  /-- LIFECYCLE.AUTH.FAILS (4 bits; R462) -/
  authFails : Nat := 0
  /-- UNSIGNED flag in PD1 (1 bit; R458) -/
  unsignedArm : Bool := false
  /-- LIFECYCLE.AUTH.UNSIGNED (1 bit; R462) -/
  unsignedUsed : Bool := false
  /-- slot booted per kind (not listed: 3, none) (3 × 2 bits; R462) -/
  boot : List (Nat × Nat) := []
  /-- VERSION of the booted images (3 × 32 bits; R460) -/
  versions : List (Nat × BitVec 32) := []
  /-- boot record (3 bytes; R457) -/
  prefer : List (Nat × Nat) := []
  /-- image slots, key kind × 2 + slot (6 slots; R457) -/
  flash : List (Nat × List (BitVec 8)) := []
  /-- image transfer: kind, slot, total length, next offset (-; R460) -/
  transfer : Option (Nat × Nat × Nat × Nat) := none
deriving DecidableEq, Repr

/-- One power domain. -/
structure Domain where
  /-- STATE (3 bits; R484) -/
  st : PdState := .on
  /-- ALLOW of a domain marked yes (POWER_ALLOW default) (1 bit; R484) -/
  allow : Bool := true
  /-- WAKES (8 bits; R484) -/
  wakes : Nat := 0
  /-- a claim or work arrived during POWERING_DOWN (1 bit; R480) -/
  upAgain : Bool := false
deriving DecidableEq, Repr

/-- POWER block and AVS controller. -/
structure Power where
  /-- AVS_CTRL.MODE (2 bits; R484) -/
  avsMode : Nat := 0
  /-- AVS_CTRL.FIXED_MV (10 bits; R484) -/
  fixedMv : Nat := 800
  /-- AVS_LIMITS.MIN_MV (10 bits; R484) -/
  minMv : Nat := 600
  /-- AVS_LIMITS.MAX_MV (10 bits; R484) -/
  maxMv : Nat := 900
  /-- AVS_STATUS.TARGET_MV (read back from the regulator) (10 bits; R484) -/
  target : Nat := 0
  /-- AVS_STATUS.VOUT_MV (10 bits; R484) -/
  vout : Nat := 0
  /-- the Bench has set up the AVS controller since chip reset (1 bit; R464) -/
  avsOn : Bool := false
  /-- AVS_STATUS.FAIL (1 bit; R484) -/
  avsFail : Bool := false
  /-- AVS_STATUS.DEV (1 bit; R484) -/
  dev : Bool := false
  /-- consecutive read-backs that deviated (-; R471) -/
  devRuns : Nat := 0
  /-- AVS_STATUS.REFUSED (1 bit; R484) -/
  refused : Bool := false
  /-- AVS_STEPS (32 bits; R484) -/
  steps : BitVec 32 := 0
  /-- rail status last read over AVSBus (16 bits; R471) -/
  railStatus : BitVec 16 := 0
  /-- CLOCKS.RTC_FAIL (1 bit; R484) -/
  rtcFail : Bool := false
  /-- domains that differ from their reset value (30 domains; R484) -/
  domains : List (Nat × Domain) := []
  /-- POWER.IDLE (16 bits; R484) -/
  idleUs : Nat := 1000
  /-- CANARY drift, in 0.01 % (6 × 16 bits; R534) -/
  canary : List (Nat × Int) := []
  /-- EOL_HOURS (not listed: 0xFFFF_FFFF) (6 × 32 bits; R534) -/
  eol : List (Nat × Nat) := []
  /-- Σ D × t^0.25 per region (scaled) (6 sums; R530) -/
  wearDt : List (Nat × Int) := []
  /-- Σ t^0.5 per region (scaled) (6 sums; R530) -/
  wearTt : List (Nat × Int) := []
  /-- wear thresholds already logged per region (-; R531) -/
  warned : List (Nat × Nat) := []
  /-- BAT_HOURS (32 bits; R534) -/
  batHours : Nat := 0
  /-- event 0x1505 logged (1 bit; R532) -/
  batWarned : Bool := false
  /-- factory canary baselines, key canary × 12 + voltage × 3 + temperature (-; R530) -/
  baselines : List (Nat × Nat) := []
deriving DecidableEq, Repr

/-- One custodian port. -/
structure Port where
  /-- PRESENT (from DET) (1 bit; R509) -/
  present : Bool := false
  /-- ACTIVE (1 bit; R509) -/
  active : Bool := false
  /-- CLASS (2 bits; R509) -/
  cls : Nat := 0
  /-- CLK_STOP (1 bit; R509) -/
  clkStop : Bool := false
  /-- FI (4 bits; R509) -/
  fi : Nat := 0
  /-- DI (4 bits; R509) -/
  di : Nat := 0
  /-- CLK_DIV (5 bits; R509) -/
  div : Nat := 0
  /-- CAUSE (8 bits; R509) -/
  cause : Nat := 0
  /-- ACTIVATIONS (16 bits; R509) -/
  activations : Nat := 0
  /-- RETRIES (16 bits; R509) -/
  retries : Nat := 0
  /-- INSERTIONS (16 bits; R509) -/
  insertions : Nat := 0
  /-- REMOVALS (16 bits; R509) -/
  removals : Nat := 0
  /-- protocol phase (-; R489) -/
  phase : PortPhase := .off
  /-- ATR received (33 bytes; R489) -/
  atr : List (BitVec 8) := []
  /-- failed PPS exchanges at this class (2 bits; R491) -/
  ppsTried : Nat := 0
  /-- PPS request sent (-; R491) -/
  ppsReq : List (BitVec 8) := []
  /-- IFSC (8 bits; R492) -/
  ifsc : Nat := 32
  /-- IFSD in force (8 bits; R492) -/
  ifsd : Nat := 32
  /-- CWI (4 bits; R492) -/
  cwi : Nat := 13
  /-- BWI (4 bits; R492) -/
  bwi : Nat := 4
  /-- EDC is CRC (1 bit; R492) -/
  crc : Bool := false
  /-- send sequence N(S) (1 bit; R492) -/
  ns : Bool := false
  /-- receive sequence (1 bit; R492) -/
  nr : Bool := false
  /-- retransmissions of the block under way (2 bits; R493) -/
  resent : Nat := 0
  /-- S(RESYNCH request) outstanding (1 bit; R493) -/
  resync : Bool := false
  /-- BWT multiplier granted (8 bits; R493) -/
  wtx : Nat := 1
  /-- clock stop indicator (2 bits; R494) -/
  stopMode : Nat := 0
  /-- command bytes still to be sent (-; R492) -/
  txChain : List (BitVec 8) := []
  /-- response bytes received so far (-; R492) -/
  rxChain : List (BitVec 8) := []
  /-- command under way, whole (-; R492) -/
  apdu : List (BitVec 8) := []
  /-- block sent last (-; R493) -/
  lastBlock : List (BitVec 8) := []
deriving DecidableEq, Repr

/-- A conversation of the Hearth with a custodian card. -/
structure Session where
  /-- custodian port (2 bits; R204) -/
  port : Nat := 0
  /-- CARD_IDENTIFY operation, none for a ceremony step (-; R508) -/
  op : Option Nat := none
  /-- ROLE (8 bits; R203) -/
  role : Nat := 0
  /-- STEP (32 bits; R203) -/
  stepNo : BitVec 32 := 0
  /-- sealed PIN block (64 bytes; R208) -/
  sealedPin : List (BitVec 8) := []
  /-- action under way (-; R204) -/
  phase : SesPhase := .activate
  /-- card ID (96 bits; R496) -/
  card : BitVec 96 := 0
  /-- card certificate (1024 bytes; R496) -/
  cert : List (BitVec 8) := []
  /-- ephemeral private key (384 bits; R497) -/
  eh : BitVec 384 := 0
  /-- challenge (128 bits; R496) -/
  chal : BitVec 128 := 0
  /-- fresh bytes for a component (72 bytes; R213) -/
  comp : List (BitVec 8) := []
  /-- S_ENC and S_MAC (384 bits; R497) -/
  key : BitVec 384 := 0
  /-- secure messaging counter (32 bits; R497) -/
  ctr : Nat := 0
  /-- PIN tries left (8 bits; R205) -/
  tries : Nat := 255
deriving DecidableEq, Repr

/-- The backup port. -/
structure Sd where
  /-- PRESENT (from DET) (1 bit; R509) -/
  present : Bool := false
  /-- STATE (3 bits; R509) -/
  state : Nat := 0
  /-- V18 (1 bit; R509) -/
  v18 : Bool := false
  /-- MODE (3 bits; R509) -/
  mode : Nat := 0
  /-- FORMATTED (1 bit; R509) -/
  formatted : Bool := false
  /-- WALKED (1 bit; R509) -/
  walked : Bool := false
  /-- PHASE (5 bits; R509) -/
  phase : Nat := 0
  /-- CAUSE (8 bits; R509) -/
  cause : Nat := 0
  /-- SD_CAPACITY (32 bits; R509) -/
  capacity : Nat := 0
  /-- SD_LAST_SEQ (32 bits; R509) -/
  lastSeq : Nat := 0
  /-- SD_NEXT_LBA (32 bits; R509) -/
  nextLba : Nat := 0
  /-- SD_ERRORS.CRC (16 bits; R509) -/
  crcErrors : Nat := 0
  /-- SD_ERRORS.RETUNES (16 bits; R509) -/
  retunes : Nat := 0
  /-- VOLUME of the card in the port (64 bits; R504) -/
  volume : BitVec 64 := 0
  /-- operations waiting for the card, in order of arrival (-; R502) -/
  waiting : List Nat := []
  /-- CRC errors of the command under way (2 bits; R501) -/
  errTry : Nat := 0
deriving DecidableEq, Repr

/-- Card ports. -/
structure Cards where
  /-- card conversation under way (-; R204) -/
  session : Option Session := none
  /-- custodian ports that differ from reset (4 ports; R509) -/
  ports : List (Nat × Port) := []
  /-- backup port (-; R509) -/
  sd : Sd := {}
deriving DecidableEq, Repr

/-- One record of the recorder. -/
structure Record where
  /-- OPSEC (32 bits; R513) -/
  opsec : BitVec 32 := 0
  /-- CYCLES (24 bits; R513) -/
  cycles : Nat := 0
  /-- CODE (16 bits; R513) -/
  code : BitVec 16 := 0
  /-- SOURCE (8 bits; R513) -/
  source : BitVec 8 := 0
  /-- REPEAT (16 bits; R513) -/
  rpt : Nat := 0
  /-- PARAM, byte 0 in bits 7:0 (12 bytes; R513) -/
  param : BitVec 96 := 0
deriving DecidableEq, Repr

/-- One reading cursor and its window. -/
structure Window where
  /-- CURSOR.SEQ (32 bits; R523) -/
  cursor : Nat := 1
  /-- record latched, with its SEQ (32 bytes; R522) -/
  latch : Option (Nat × Record) := none
  /-- STATUS.EMPTY (1 bit; R523) -/
  empty : Bool := false
  /-- STATUS.SKIPPED (1 bit; R523) -/
  skipped : Bool := false
deriving DecidableEq, Repr

/-- One stored settings copy. -/
structure SetCopy where
  /-- VALID is 0xA5, magic and CRC correct (8 bits; R527) -/
  valid : Bool := false
  /-- GEN (32 bits; R527) -/
  gen : BitVec 32 := 0
  /-- values that differ from the defaults (24 × 32 bits; R527) -/
  values : List (Nat × BitVec 32) := []
deriving DecidableEq, Repr

/-- MRAM, recorder and settings. -/
structure Store where
  /-- records held, key SEQ (544 KiB; R512) -/
  records : List (Nat × Record) := []
  /-- SEQ of the newest record (32 bits; R523) -/
  newest : Nat := 0
  /-- event queue, oldest first (256 records; R516) -/
  queue : List Record := []
  /-- EVLOG.LOST (16 bits; R523) -/
  lost : Nat := 0
  /-- records dropped since the last event 0x1503 (32 bits; R516) -/
  dropped : Nat := 0
  /-- STATUS.REPAIRED (1 bit; R523) -/
  repaired : Bool := false
  /-- the CHECK of the newest record fails: a power loss cut short its update in place (1 bit; R519) -/
  torn : Bool := false
  /-- operating seconds now (32 bits; R523) -/
  opsec : BitVec 32 := 0
  /-- operating seconds committed (32 bits; R520) -/
  opsecKept : BitVec 32 := 0
  /-- power-cycle count (24 bits; R523) -/
  cycles : Nat := 0
  /-- EVLOG cursor and window (-; R522) -/
  pf : Window := {}
  /-- the Hearth's cursor and window (-; R522) -/
  hearth : Window := {}
  /-- SETTINGS.SEL (8 bits; R529) -/
  sel : Nat := 0
  /-- shadow values that differ from the defaults (24 × 32 bits; R524) -/
  shadow : List (Nat × BitVec 32) := []
  /-- settings A (64 KiB; R527) -/
  copyA : SetCopy := {}
  /-- settings B (64 KiB; R527) -/
  copyB : SetCopy := {}
  /-- SETTINGS.STATUS.REFUSED (1 bit; R529) -/
  refused : Bool := false
  /-- SETTINGS.STATUS.DIRTY (1 bit; R529) -/
  dirty : Bool := false
  /-- SETTINGS.STATUS.BUSY (1 bit; R529) -/
  busy : Bool := false
  /-- SETTINGS.STATUS.STORE_FAIL (1 bit; R529) -/
  storeFail : Bool := false
  /-- SETTINGS.STATUS.COPY (1 bit; R529) -/
  activeB : Bool := false
  /-- SETTINGS.STATUS.DEFAULTS (1 bit; R529) -/
  defaults : Bool := false
  /-- snapshot being stored (-; R526) -/
  snap : List (Nat × BitVec 32) := []
  /-- pending mark: copy (true B) and GEN (-; R526) -/
  pendMark : Option (Bool × BitVec 32) := none
  /-- write counters per partition (6 × 64 bits; R533) -/
  writes : List (Nat × Nat) := []
  /-- write counters as committed (6 × 64 bits; R533) -/
  writesKept : List (Nat × Nat) := []
deriving DecidableEq, Repr

/-- Nolur 3 compatibility window. -/
structure Legacy where
  /-- CTRL.IRQ_EN (1 bit; R538) -/
  irqEn : Bool := false
  /-- STATUS.BUSY and CTRL.GO (1 bit; R538) -/
  busy : Bool := false
  /-- STATUS.DONE (1 bit; R538) -/
  done : Bool := false
  /-- STATUS.OVERRUN (1 bit; R538) -/
  overrun : Bool := false
  /-- STATUS.EVENT (1 bit; R538) -/
  event : Bool := false
  /-- STATUS.VAULT (1 bit; R538) -/
  vault : Bool := false
  /-- REQ_LEN (11 bits; R538) -/
  reqLen : Nat := 0
  /-- RSP_LEN (11 bits; R538) -/
  rspLen : Nat := 0
  /-- COUNT (32 bits; R538) -/
  count : BitVec 32 := 0
  /-- LMK_BIND.SLOT (16 bits; R538) -/
  bindSlot : Nat := 0
  /-- LMK_STATUS.BOUND (1 bit; R538) -/
  bound : Bool := false
  /-- LMK_STATUS.REFUSED (1 bit; R538) -/
  refused : Bool := false
  /-- LMK_STATUS.CAUSE (4 bits; R538) -/
  cause : Nat := 0
  /-- LMK_STATUS.KCV, byte 0 in bits 23:16 (24 bits; R538) -/
  kcv : BitVec 24 := 0
  /-- bound LMK in tenant 0's persistent area (24 bytes; R543) -/
  lmk : List (BitVec 8) := []
  /-- persistent-area key under which the LMK is stored (256 bits; R543) -/
  lmkSeal : BitVec 256 := 0
  /-- attribute word of the bound LMK (128 bits; R543) -/
  lmkAttr : BitVec 128 := 0
  /-- key slot in which the LMK is placed (16 bits; R544) -/
  lmkSlot : Option Nat := none
  /-- scratch key slots held (3 bits; R544) -/
  scratch : Nat := 0
  /-- REQ buffer (bytes not listed are 0) (1536 bytes; R538) -/
  req : List (BitVec 8) := []
  /-- request copied at GO (1536 bytes; R540) -/
  snap : List (BitVec 8) := []
  /-- RSP buffer (1536 bytes; R538) -/
  rsp : List (BitVec 8) := []
  /-- response formed and waiting for its release (1536 bytes; R550) -/
  answer : Option (List (BitVec 8)) := none
  /-- the response under way is discarded (1 bit; R551) -/
  discard : Bool := false
deriving DecidableEq, Repr

/-- The state of the part: everything the spec gives it, and the queue of the commands that wait. -/
structure State where
  /-- commands waiting, first in, first out (the model's own) -/
  pending : List Sys2Proof.Instr := []
  /-- time base: nanoseconds of the 25 MHz reference since reset (R472) -/
  now : Nat := 0
  /-- number of free values drawn so far (the model's own) -/
  free : Nat := 0
  /-- what the device has driven outwards, newest first (the model's own) -/
  sent : List Sent := []
  /-- balls (R554) -/
  pins : Pins := {}
  /-- chip level (R72) -/
  chip : Chip := {}
  /-- host link (R53) -/
  link : Link := {}
  /-- functions that differ from reset (R134) -/
  fns : List (Nat × Fn) := []
  /-- queue contexts, key function × 4096 + queue (R88) -/
  queues : List (Nat × Queue) := []
  /-- selectors, pools and error registers (R91) -/
  qmgr : Qmgr := {}
  /-- schedulers, operations, rates, block status (R32) -/
  engine : Engine := {}
  /-- key register file (R152) -/
  rack : KeyRack := {}
  /-- battery-backed domain (R177) -/
  crucible : Crucible := {}
  /-- tenants, sets, ceremony (R194) -/
  vault : Vault := {}
  /-- trims and identity partition (R226) -/
  trims : Trims := {}
  /-- plan pipelines (R255) -/
  plan : Plan := {}
  /-- routing block and terminal caches (R280) -/
  routing : Routing := {}
  /-- Hammer units (R305) -/
  hammer : Hammer := {}
  /-- entropy and DRBG (R335) -/
  bellows : Bellows := {}
  /-- processor worlds (R354) -/
  worlds : Worlds := {}
  /-- cores, memories, protection units (R391) -/
  zwm : Zwm := {}
  /-- tamper aggregator (R423) -/
  tamper : Tamper := {}
  /-- life cycle and images (R446) -/
  life : Life := {}
  /-- power and AVS (R484) -/
  power : Power := {}
  /-- card ports (R509) -/
  cards : Cards := {}
  /-- MRAM, recorder, settings (R510) -/
  store : Store := {}
  /-- compatibility window (R538) -/
  legacy : Legacy := {}
deriving DecidableEq, Repr

/-- The reasons a command can stop the machine with a fault. No command of this part does: the spec gives every command an
effect. The constructor is kept for the host's interface; nothing raises it (safe). -/
inductive Fault
  /-- raised by nothing (safe) -/
  | none
deriving DecidableEq, Repr

/-- The reasons for which a command has no meaning. -/
inductive Refusal
  /-- the command has no meaning in this model yet; raised by an arm of the dispatch only (safe) -/
  | notModelled (mnemonic : String)
deriving DecidableEq, Repr

/-- The machine right after reset: a power-on reset has just been released, nothing has run, no command waits. Every field
holds its default; the non-volatile memories of this part hold nothing (assumption log 12). -/
def State.reset : State := {}

end Sys2Proof.Machine
end

