-- ==== Sys2Proof/Machine/Table.lean ====
section
/-!
DEFINITION. Sparse tables: the canonical form in which State holds every indexed store (queue contexts, key slots,
memories, registers of many instances). A table lists the entries that differ from what an unlisted key reads as, with
strictly rising keys, so that equal stores are equal lists.
-/
namespace Sys2Proof.Machine

/-- The entry of key `k`, or `d` where the table lists none. -/
def tget {α : Type} (d : α) : List (Nat × α) → Nat → α
  | [], _ => d
  | (j, x) :: t, k => if j = k then x else tget d t k

/-- Write `v` at key `k`. An entry equal to the default `d` is removed, and keys stay strictly rising. -/
def tset {α : Type} [DecidableEq α] (d : α) (k : Nat) (v : α) : List (Nat × α) → List (Nat × α)
  | [] => if v = d then [] else [(k, v)]
  | (j, x) :: t =>
    if k < j then (if v = d then (j, x) :: t else (k, v) :: (j, x) :: t)
    else if k = j then (if v = d then t else (k, v) :: t)
    else (j, x) :: tset d k v t

/-- Apply `f` to the entry of key `k`. -/
def tmod {α : Type} [DecidableEq α] (d : α) (k : Nat) (f : α → α) (t : List (Nat × α)) : List (Nat × α) :=
  tset d k (f (tget d t k)) t

/-- Apply `f` to every listed entry, dropping those that become the default. -/
def tmap {α : Type} [DecidableEq α] (d : α) (f : Nat → α → α) : List (Nat × α) → List (Nat × α)
  | [] => []
  | (j, x) :: t => if f j x = d then tmap d f t else (j, f j x) :: tmap d f t

/-- Every key of the table is above `b`, keys rise strictly, and no entry equals the default. -/
def tabove {α : Type} [DecidableEq α] (d : α) : Nat → List (Nat × α) → Bool
  | _, [] => true
  | b, (j, x) :: t => decide (b < j) && decide (x ≠ d) && tabove d j t

/-- The canonical form of a table. -/
def twf {α : Type} [DecidableEq α] (d : α) : List (Nat × α) → Bool
  | [] => true
  | (j, x) :: t => decide (x ≠ d) && tabove d j t

/-- Keys and entries of the half-open range `[lo, hi)`. -/
def trange {α : Type} (lo hi : Nat) (t : List (Nat × α)) : List (Nat × α) :=
  t.filter fun e => decide (lo ≤ e.1) && decide (e.1 < hi)

/-- Remove every entry whose key lies in `[lo, hi)`. -/
def tclear {α : Type} (lo hi : Nat) (t : List (Nat × α)) : List (Nat × α) :=
  t.filter fun e => !(decide (lo ≤ e.1) && decide (e.1 < hi))

end Sys2Proof.Machine
end

