-- ==== Sys2Proof/Machine/Ops.lean ====
section
/-!
DEFINITION. Named operations over the state that several commands share: settings, functions and queues, messages, the
recorder's event queue, fault levels, tamper alarms with LOCK and Quench, and operations in flight.
-/
namespace Sys2Proof.Machine

/-- The outcome of a command. -/
abbrev Out := Host.Outcome State Fault Refusal

/-- Drive something outwards. -/
def State.emit (x : Sent) (s : State) : State := { s with sent := x :: s.sent }

/-- Numeric code of CHIP.STATE (R72). -/
def ChipState.code : ChipState → Nat
  | .start => 1
  | .ready => 2
  | .locked => 3
  | .quenched => 4
  | .recovery => 5

/-- Running value of a settings item (R524). -/
def State.setting (s : State) (id : Nat) : Nat :=
  (tget (BitVec.ofNat 32 (Config.itemDefault id)) s.store.shadow id).toNat

/-! ### Free values -/

/-- The next `n` bytes that the spec leaves open. -/
def State.openBytes (s : State) (n : Nat) : Bytes := (List.range n).map fun i => Config.freeByte (s.free + i)

/-- `n` free values are used up. -/
def State.spend (n : Nat) (s : State) : State := { s with free := s.free + n }

/-! ### The conditioner of Bellows (R337) -/

/-- The cells in service in the order in which they give their next units: ascending, from the cell whose turn it is. -/
def State.cellRing (s : State) : List Nat :=
  let l := (List.range 32).filter fun c => !(tget {} s.bellows.cells c).out
  (l.filter fun c => decide (s.bellows.turn ≤ c)) ++ l.filter fun c => decide (c < s.bellows.turn)

/-- The cell that gives unit `i` of the inputs that follow. -/
def State.unitCell (s : State) (i : Nat) : Nat := s.cellRing.getD (i % s.cellRing.length) 0

/-- Input `j` of those that follow: 512 bits, 32 units of 16 bits. -/
def State.condInput (s : State) (j : Nat) : Bytes :=
  (List.range 32).flatMap fun i => beBytes 2 (Config.noiseUnit (s.unitCell (32 * j + i)) (32 * (s.free + 16 * j) + i)).toNat

/-- CBC-MAC over whole blocks of 16 bytes. -/
def cbcMac (ks : List Bytes) (b : Bytes) : Bytes := (chunks 16 b).foldl (fun c x => Aes.encWith ks (xorB c x)) (List.replicate 16 0)

/-- Full-entropy block `j` of those that follow: the AES-256-CBC-MAC of its input under the device constant. -/
def State.condBlock (s : State) (j : Nat) : Bytes := cbcMac (Aes.roundKeys (beBytes 32 s.life.condKey.toNat)) (s.condInput j)

/-- The next `n` bytes of full entropy, from whole blocks (R337). -/
def State.noise (s : State) (n : Nat) : Bytes := ((List.range ((n + 15) / 16)).flatMap s.condBlock).take n

/-- `n` bytes of full entropy have been taken: the next unit comes from the next cell in turn, and the conditioner holds the last block. -/
def State.drawn (n : Nat) (s : State) : State :=
  let k := (n + 15) / 16
  { s with free := s.free + 16 * k
           bellows := { s.bellows with turn := s.unitCell (32 * k)
                                       cond := if k = 0 then s.bellows.cond else BitVec.ofNat 128 (beNat (s.condBlock (k - 1))) } }

/-! ### Functions and queues -/

/-- The resources of function `f`. -/
def State.fnOf (s : State) (f : Nat) : Fn := tget {} s.fns f

/-- Change the resources of function `f`. -/
def State.modFn (f : Nat) (g : Fn → Fn) (s : State) : State := { s with fns := tmod {} f g s.fns }

/-- How AER logs an error (R83): its bit of the Uncorrectable Error Status, or of the Correctable one. The bits are those of PCI Express
(PRESUMED, log 21). -/
def aerBit : AerErr → Nat × Bool
  | .completionTimeout => (14, true)
  | .unsupportedCompletion => (20, true)
  | .completerAbort => (15, true)
  | .poisoned => (12, true)
  | .unsupportedRequest => (20, true)
  | .malformed => (18, true)
  | .ecrc => (19, true)
  | .receiverOverflow => (17, true)
  | .receiver => (0, false)
  | .badTlp => (6, false)
  | .badDllp => (7, false)
  | .replay => (12, false)

/-- An Unsupported Request or Completer Abort completion is an advisory non-fatal error (R83). -/
def aerAdvisory (e : AerErr) : Bool := e == .unsupportedCompletion || e == .completerAbort

/-- The class of an error in a function (R83): 0 correctable or advisory, 1 non-fatal, 2 fatal. -/
def Fn.errClass (n : Fn) (e : AerErr) : Nat :=
  if !(aerBit e).2 || aerAdvisory e then 0 else if n.uncSev.getLsbD (aerBit e).1 then 2 else 1

/-- The function after an error is logged: its status bits, with the advisory bit of an advisory one, and the First Error Pointer (R83). -/
def Fn.logErr (e : AerErr) (n : Fn) : Fn :=
  let b := aerBit e
  { n with
    uncSt := if b.2 then n.uncSt ||| BitVec.ofNat 32 (2 ^ b.1) else n.uncSt
    firstErr := if b.2 && n.uncSt == 0 then BitVec.ofNat 5 b.1 else n.firstErr
    corSt := if !b.2 then n.corSt ||| BitVec.ofNat 32 (2 ^ b.1) else if aerAdvisory e then n.corSt ||| 0x2000 else n.corSt
    devSta := n.devSta ||| BitVec.ofNat 4 (2 ^ n.errClass e) ||| (if e = .unsupportedRequest then 8 else 0) }

/-- An error message leaves: its class is enabled in Device Control and the error is not masked (R83). -/
def Fn.reports (n : Fn) (e : AerErr) : Bool :=
  let b := aerBit e
  n.errEn.getLsbD (n.errClass e) &&
    !(if b.2 then n.uncMask.getLsbD b.1 || (aerAdvisory e && n.corMask.getLsbD 13) else n.corMask.getLsbD b.1)

/-- Log an error in a function's AER capability, and send its message where it is enabled (R83). -/
def State.logAer (f : Nat) (e : AerErr) (s : State) : State :=
  let t := s.modFn f (Fn.logErr e)
  if (s.fnOf f).reports e then t.emit (.errMsg f ((s.fnOf f).errClass e)) else t

/-- Key of queue `q` of function `f` in the table of contexts. -/
def queueKey (f q : Nat) : Nat := f * 4096 + q

/-- Context of queue `q` of function `f`. -/
def State.queueOf (s : State) (f q : Nat) : Queue := tget {} s.queues (queueKey f q)

/-- Change the context of queue `q` of function `f`. -/
def State.modQueue (f q : Nat) (g : Queue → Queue) (s : State) : State :=
  { s with queues := tmod {} (queueKey f q) g s.queues }

/-- The tag mode that the host enabled (R56). -/
def Link.tagMode (l : Link) : TagMode := if l.tenBit then .tenBit else if l.extTag then .ext else .basic

/-- A doorbell or register access makes the link leave L1 (R58). -/
def State.leaveL1 (s : State) : State :=
  if s.link.aspm = .l0 then s
  else { s with link := { s.link with aspm := .l0 }, pins := { s.pins with clkreqLow := true } }

/-- A write to PF BAR0 reaches the registers: configuration requests are answered and the PF is not under reset (R75, R85). -/
def State.pfOpen (s : State) : Bool := !s.chip.crs && !(s.fnOf 0).flr

/-- A write of a register of the PF: nothing happens where it does not reach the registers. -/
def State.onBar (act : State → State) (s : State) : State := if s.pfOpen then act s else s

/-- A read of a register of the PF: Unsupported Request where it does not reach the registers (R85). -/
def State.onRead (act : State → State) (s : State) : State := if s.pfOpen then act s else s.emit .unsupported

/-- A function exists: the PF always, a VF while VF Enable is 1 and its number is at most NumVFs (R81). -/
def State.exists? (s : State) (f : Nat) : Bool :=
  f == 0 || (s.link.vfEnable && decide (f ≤ s.link.numVfs) && decide (f < 256))

/-! ### Messages (R78, R79, R541) -/

/-- Level of INTA in legacy mode (R541). -/
def State.inta (s : State) : Bool :=
  s.chip.legacy && s.legacy.irqEn && !s.link.msiEn && !s.link.intDisable &&
    (s.legacy.done || s.legacy.event || s.legacy.vault)

/-- Drive INTA where its level has changed from `before` (R541). -/
def State.driveInta (before : Bool) (s : State) : State :=
  if s.inta = before then s else s.emit (.intx s.inta)

/-- A status bit of the legacy window rose: one MSI message with MSI enabled (R541). -/
def State.legacyRise (s : State) : State :=
  if s.legacy.irqEn && s.link.msiEn then s.emit .msi else s

/-- A device event in legacy mode sets LEGACY.STATUS.EVENT (R538, R541). -/
def State.legacyEvent (s : State) : State :=
  if s.legacy.event then s
  else (State.driveInta s.inta { s with legacy := { s.legacy with event := true } }).legacyRise

/-- A VAULTMBX response in legacy mode sets LEGACY.STATUS.VAULT (R538, R541). -/
def State.legacyVault (s : State) : State :=
  if s.legacy.vault then s
  else (State.driveInta s.inta { s with legacy := { s.legacy with vault := true } }).legacyRise

/-- May a message leave on vector `v` of function `f` now: MSI-X enabled, function and vector not masked (R79). -/
def State.vectorOpen (s : State) (f v : Nat) : Bool :=
  (s.fnOf f).msixEn && !(s.fnOf f).funcMask && tget false (s.fnOf f).vecOpen v

/-- Signal vector `v` of function `f`: send the message, or set the pending bit of a masked vector (R79). In legacy mode the
PF's events reach the legacy window instead (R541). -/
def State.signal (f v : Nat) (s : State) : State :=
  if s.chip.legacy then
    (if f = 0 ∧ v = 0 then s.legacyEvent else if f = 0 ∧ v = 1 then s.legacyVault else s)
  else if s.vectorOpen f v then s.emit (.msix f v)
  else s.modFn f fun n => { n with vecPend := tset false v true n.vecPend }

/-- A device event on PF vector 0 (R78). -/
def State.deviceEvent (s : State) : State := s.signal 0 0

/-- ALERT_N is driven low in LOCKED, QUENCHED and RECOVERY (R567). -/
def ChipState.alerts (c : ChipState) : Bool := decide (3 ≤ c.code)

/-- Set CHIP.STATE; each change sends a message on PF vector 0 (R475), and ALERT_N follows (R567). -/
def State.setChip (c : ChipState) (s : State) : State :=
  if s.chip.state = c then s
  else State.deviceEvent { s with chip := { s.chip with state := c }, pins := { s.pins with alertLow := c.alerts } }

/-- Set PME_Status; where PME_En is set, a PME message is sent in D3hot, and WAKE_N is asserted with the link held in reset and VIO
present (R63; PME_En as PCI power management has it, PRESUMED, log 21). -/
def State.pme (s : State) : State :=
  let s := { s with link := { s.link with pmeStatus := true } }
  if !s.link.pmeEn then s
  else if !s.pins.perstN && s.pins.mainPower then { s with pins := { s.pins with wakeLow := true } }
  else if s.link.d3hot then s.emit .pme else s

/-! ### The recorder's event queue (R516) -/

/-- Twelve parameter bytes as a word, byte 0 in bits 7:0 (R513). -/
def params (b : Bytes) : BitVec 96 := BitVec.ofNat 96 (leNat (fit 12 b))

/-- A new record of now (R513). -/
def State.newRecord (s : State) (code : Nat) (source : Nat) (param : BitVec 96) : Record :=
  { opsec := s.store.opsec, cycles := s.store.cycles, code := BitVec.ofNat 16 code, source := BitVec.ofNat 8 source,
    rpt := 1, param := param }

/-- A record with another code. -/
def Record.withCode (c : BitVec 16) (r : Record) : Record := { r with code := c }

/-- A record that the tamper and fault aggregator writes: its own, and those that it copies from the Crucible's buffer (R443, R514). -/
def Record.ofAggregator (r : Record) : Bool := r.source == 0xF0 || r.code == 0x0F03

/-- One record more has been dropped (R516). -/
def State.dropRecord (s : State) : State :=
  { s with store := { s.store with lost := satInc 65535 s.store.lost, dropped := s.store.dropped + 1 } }

/-- Replace the newest record of the queue that is not the aggregator's by `r`; none where all are the aggregator's. -/
def replaceNewest (r : Record) (q : List Record) : Option (List Record) :=
  match q.reverse.span Record.ofAggregator with
  | (_, []) => none
  | (tail, _ :: rest) => some (rest.reverse ++ tail.reverse ++ [r])

/-- A record enters the event queue of 256 records. Where the queue is full, a Bench or Hearth record is dropped and
counted, and an aggregator record takes the place of the newest one that is not the aggregator's (R516). -/
def State.appendRecord (r : Record) (s : State) : State :=
  if s.store.queue.length < 256 then { s with store := { s.store with queue := s.store.queue ++ [r] } }
  else if r.ofAggregator then
    match replaceNewest r s.store.queue with
    | some q => State.dropRecord { s with store := { s.store with queue := q } }
    | none => s.dropRecord
  else s.dropRecord

/-- Log an event. -/
def State.log (code source : Nat) (param : Bytes) (s : State) : State :=
  s.appendRecord (s.newRecord code source (params param))

/-- Log an event for which the spec gives no code: the high byte of CODE names the area (R515), the low byte and the parameters that the spec
does not give are open, the same at each such event (log 6). `what` is ten times the number of the rule that has it logged, plus which event
of the rule it is; `known` are the parameters that the rule gives. -/
def State.logOpen (area source what : Nat) (known : Bytes) (s : State) : State :=
  s.appendRecord ((s.newRecord 0 source (params (known ++ (List.range (12 - known.length)).map (Config.eventByte what)))).withCode
    (BitVec.ofNat 8 area ++ Config.eventCode what))

/-! ### Writes of the MRAM (R533) -/

/-- Count 8-byte word writes of an MRAM partition (R533). -/
def State.countWrites (partition n : Nat) (s : State) : State :=
  { s with store := { s.store with writes := tmod 0 partition (fun c => (c + n) % 2 ^ 64) s.store.writes } }

/-- The Hearth writes `n` bytes of content into its persistent region. The spec gives the sealed form no layout, so the number of words is
open (log 55). -/
def State.wroteRegion (n : Nat) (s : State) : State := s.countWrites 4 (Config.sealedWords 4 n)

/-- The Hearth writes `n` bytes of content into a tenant's persistent area. -/
def State.wroteArea (n : Nat) (s : State) : State := s.countWrites 3 (Config.sealedWords 3 n)

/-! ### Tamper alarms (R431 to R445) -/

/-- The fused minimum class of a source: 0 for a disabled source (R428). -/
def State.minClass (s : State) (n : Nat) : Nat :=
  if s.tamper.fused.toNat.testBit n then 0
  else if n ≤ 3 ∨ n = 9 then 3
  else if n = 8 ∨ n = 10 then 1
  else 2

/-- The class in force of a source (R429). -/
def State.classOf (s : State) (n : Nat) : Nat :=
  if s.tamper.fused.toNat.testBit n then 0 else max (s.minClass n) (tget 0 s.tamper.classes n)

/-- A Quench is running: no reset of any kind stops it (R87, R432). -/
def State.quenching (s : State) : Bool := s.tamper.quench

/-- Erase everything that the memories of a DRBG instance hold (R351). -/
def zeroInst (i : Inst) : Inst := { i with up := false, key := 0, v := 0, count := 0 }

/-- Steps 3 to 7 of a Quench: the erasures that start together (R434). A running Temper pass ends (R184). Tries, route records and swages
stay; so does the MRAM, whose sealed stores no key opens any more (R181, R435). -/
def State.quenchErase (s : State) : State :=
  { s with
    crucible := { s.crucible with drk := 0, maskSeed := 0, drkCheck := 0 }
    hammer := { s.hammer with units := [] }
    bellows := { s.bellows with
      insts := tmap {} (fun _ i => { i with up := false, key := 0, v := 0, count := 0, exp := 0 }) s.bellows.insts
      internal := {}
      seedQ := [], held := [], given := none, asked := [], cores := [], cond := 0 }
    plan := { s.plan with ctxs := [], ready := [] }
    routing := { s.routing with
      terms := tmap {} (fun _ t => { t with live := [], spare := [], pending := [], drawn := none }) s.routing.terms }
    rack := { s.rack with slots := [], caches := [], rewraps := [], maskKey := 0, rik := 0, running := false, reached := 0 }
    vault := { s.vault with tenants := tmap {} (fun _ t => { t with slotsUsed := 0 }) s.vault.tenants }
    engine := { s.engine with tasks := s.engine.tasks.map fun o => { o with keys := [], seed := none } } }

/-- The class carried out, kept in the tamper latch as the highest since the last clear (R440). -/
def State.latchClass (c : Nat) (s : State) : State :=
  { s with crucible := { s.crucible with latchCls := max s.crucible.latchCls c }
           vault := { s.vault with highCls := max s.vault.highCls c } }

/-- A start that ends QUENCHED holds no tenant, and BOUND of the LMK reads 0 (R134, R435, R543). -/
def State.dropTenants (s : State) : State :=
  { s with vault := { s.vault with tenants := [] }, legacy := { s.legacy with bound := false, kcv := 0, lmkSlot := none, scratch := 0 } }

/-- A Quench starts: the state becomes QUENCHED (in RECOVERY it stays, in START the end state takes it), the key bus is
disabled and every erasure begins (R434 steps 1 to 7, R441). -/
def State.startQuench (s : State) : State :=
  let e : ChipState := if s.chip.endState = .recovery then .recovery else .quenched
  let s := { s with tamper := { s.tamper with quench := true, quenchAt := s.now }
                    chip := { s.chip with keyBus := false, endState := e } }
  let s := if s.chip.state = .recovery then s else if s.chip.state = .start then s.dropTenants else s.setChip .quenched
  s.quenchErase.latchClass 3

/-! ### Tenants (R134) -/

/-- The tenant table entry of `t`. -/
def State.tenantOf (s : State) (t : Nat) : Tenant := tget {} s.vault.tenants t

/-- Change the tenant table entry of `t`. -/
def State.modTenant (t : Nat) (g : Tenant → Tenant) (s : State) : State :=
  { s with vault := { s.vault with tenants := tmod {} t g s.vault.tenants } }

/-- Bind bit of function `f` in the entry of tenant `t`. -/
def State.bound (s : State) (t f : Nat) : Bool := (s.tenantOf t).bind.getLsbD f

/-! ### Operations in flight (R106) -/

/-- The operation named `id`. -/
def State.opOf (s : State) (id : Nat) : Option Op := s.engine.tasks.find? fun o => o.id == id

/-- Change the operation named `id`. -/
def State.modOp (id : Nat) (g : Op → Op) (s : State) : State :=
  { s with engine := { s.engine with tasks := s.engine.tasks.map fun o => if o.id == id then g o else o } }

/-- An operation has ended with a status (R128). -/
def Op.end_ (status : Nat) (detail : Nat) (outLen : Nat) (result : Bytes) (o : Op) : Op :=
  { o with stage := .done, status := BitVec.ofNat 16 status, detail := BitVec.ofNat 32 detail,
           outLen := if status / 256 = 0 then outLen else 0,
           result := if status / 256 = 0 then result else [], keys := [], seed := none }

/-- The unit after operation `id` has ended: it holds that job no more, and the part of its operand memory that the job had is cleared, the
upper 6 KiB for a job that preempted another (R307, R329, R331). -/
def HUnit.without (id : Nat) (u : HUnit) : HUnit :=
  let ends := u.job = some id
  let held := if u.held = some id then none else u.held
  { job := if ends then none else u.job
    held := held
    marked := if u.marked = some id then none else u.marked
    lower := if (ends ∧ held = none) ∨ u.held = some id then [] else u.lower
    upper := if ends then [] else u.upper }

/-- A Hammer unit whose job ends is free again, its operand memory cleared (R307, R332). -/
def freeUnits (id : Nat) (t : List (Nat × HUnit)) : List (Nat × HUnit) := tmap {} (fun _ u => u.without id) t

/-- Bellows drops what it holds of operation `id`: its requests, its place among those of its instance, its generator core (R342, R347). -/
def Bellows.forget (id : Nat) (b : Bellows) : Bellows :=
  { b with seedQ := b.seedQ.filter fun r => r.who != .op id
           held := b.held.filter fun r => r.who != .op id
           asked := b.asked.filter fun n => n != id
           cores := tmap 0 (fun _ n => if n = id then 0 else n) b.cores }

/-- A context whose transaction has been aborted: it holds nothing more and spends its remaining periods idle (R258, R265). -/
def Ctx.idled (c : Ctx) : Ctx := { plan := c.plan, swage := c.swage, slot := c.slot, faulted := true }

/-- Descriptors that the descriptor channel holds (R362). -/
def channelSize : Nat := 64

/-- Descriptors that waited in the queue engine enter the channel as far as it has room, in the order in which they were fetched (R362). -/
def Worlds.refill (w : Worlds) : Worlds :=
  let room := channelSize - w.channel.length
  { w with channel := w.channel ++ w.chanWait.take room
           pendingSvc := w.pendingSvc ++ (w.chanWait.take room).map Service.chan
           chanWait := w.chanWait.drop room }

/-- A descriptor for the channel: it enters, or waits behind those that wait already (R362). -/
def Worlds.join (id : Nat) (w : Worlds) : Worlds := Worlds.refill { w with chanWait := w.chanWait ++ [id] }

/-- Operation `id` leaves the channel, or its place before it, and the next one that waits comes in (R362). -/
def Worlds.leave (id : Nat) (w : Worlds) : Worlds :=
  Worlds.refill { w with channel := w.channel.filter (fun h => h != id)
                         chanWait := w.chanWait.filter (fun h => h != id)
                         pendingSvc := w.pendingSvc.filter (fun v => v != .chan id)
                         running := if w.running = some (.chan id) then none else w.running }

/-- Release what an operation holds in the blocks: a Hammer unit, a context, a lookup, a channel place. -/
def State.releaseOp (id : Nat) (s : State) : State :=
  { s with
    hammer := { s.hammer with units := freeUnits id s.hammer.units }
    plan := { s.plan with ctxs := s.plan.ctxs.map (fun c => if c.2.op = id then (c.1, c.2.idled) else c)
                          ready := s.plan.ready.filter (fun c => c.op != id) }
    routing := { s.routing with lookups := s.routing.lookups.filter (fun e => e.1 != id) }
    bellows := s.bellows.forget id
    rack := { s.rack with rewraps := tmap {} (fun _ r => if r.op = id then {} else r) s.rack.rewraps }
    worlds := s.worlds.leave id
    cards := { s.cards with sd := { s.cards.sd with
      errTry := if s.cards.sd.waiting.head? = some id then 0 else s.cards.sd.errTry
      waiting := s.cards.sd.waiting.filter (fun h => h != id) } } }

/-- A reservation of a key slot that an operation holds is given back (R166, R363). -/
def State.unreserve (id : Nat) (s : State) : State :=
  match s.opOf id with
  | some o =>
    if o.reserved then
      (s.modOp id fun o => { o with reserved := false }).modTenant (bits o.desc 59 48) fun t => { t with slotsUsed := t.slotsUsed - 1 }
    else s
  | none => s

/-- A service of the Hearth ends as by RETS (R366): A0 holds the status and DETAIL, A1 the response length; A2 to A15, ACC and
FL are overwritten and the scratch window is cleared. -/
def State.serviceRegs (status detail len : Nat) (s : State) : State :=
  { s with zwm := { s.zwm with
      cores := tmod {} 0 (fun c => { c with
        regs := [(0, { val := BitVec.ofNat 64 (status + 65536 * detail), tag := 0 }), (1, { val := BitVec.ofNat 64 len, tag := 0 })]
        acc := 0, accTag := 0xF, fl := 0 }) s.zwm.cores
      hmem := tclear (0x17FC00 / 8) (0x180000 / 8) s.zwm.hmem } }

/-- Operation `id` ends with a status, a detail, an output length and result bytes; it now waits for its completion entry. A
reservation it still holds is released, and where the Hearth served it, the service ends. -/
def State.finish (id status detail outLen : Nat) (result : Bytes) (s : State) : State :=
  let served := s.worlds.running == some (.chan id)
  let s := (((s.unreserve id).modOp id (Op.end_ status detail outLen result)).releaseOp id)
  if served then s.serviceRegs status detail outLen else s

/-- Operation `id` ends with a status that carries no output. -/
def State.fail (id status detail : Nat) (s : State) : State := s.finish id status detail 0 []

/-- An operation streams its output: a cipher opcode of a lane, but not an unwrap that is held until its check (R244), and DRBG_GENERATE
(R126, R347). -/
def Op.streams (o : Op) : Bool :=
  let c := bits o.desc 15 0
  (o.stage == .block || o.stage == .yielded) && ((c / 256 == 1 && c != 0x0111 && c != 0x0113) || c == 0x0502)

/-- Operation `id` is stopped in its block and ends with a status: what it had streamed by then stands (R126). -/
def State.stopOp (id status detail : Nat) (s : State) : State :=
  match s.opOf id with
  | some o => if o.streams then (s.emit (.partOutput id o.fn (o.desc.extractLsb' 192 64))).fail id status detail else s.fail id status detail
  | none => s.fail id status detail

/-- Every operation in flight that satisfies `p` and has not ended ends with a status (R126). -/
def State.failAll (p : Op → Bool) (status detail : Nat) (s : State) : State :=
  ((s.engine.tasks.filter fun o => o.stage != .done && p o).map Op.id).foldl (fun s id => s.stopOp id status detail) s

/-! ### The answer of VAULTMBX (R375, R376) -/

/-- SERVICE of the request copied to the Hearth (R375). -/
def State.mbxCode (s : State) : Nat := (byteAt s.worlds.snap 0).toNat

/-- LEN of the request body. -/
def State.mbxLen (s : State) : Nat := leAt s.worlds.snap 4 2

/-- The request body, cut to LEN and zero beyond it (DEDUCED, log 22). -/
def State.mbxBody (s : State) : Bytes := fit 240 ((s.worlds.snap.drop 16).take (min 240 s.mbxLen))

/-- The 256 bytes of a response (R375). -/
def mbxResponse (code seq status detail : Nat) (body : Bytes) : Bytes :=
  fit 256 (leBytes 1 code ++ [0] ++ leBytes 2 seq ++ leBytes 2 status ++ leBytes 2 body.length ++ leBytes 4 detail ++
    [0, 0, 0, 0] ++ body)

/-- The response is released at once: DONE is set, GO clears, vector 1 is signalled (R376). A response under way when the PF
was reset is discarded (R86). -/
def State.mbxRelease (rsp : Bytes) (s : State) : State :=
  if s.worlds.discard then
    { s with worlds := { s.worlds with discard := false, go := false, snap := [] } }
  else
    State.signal 0 1 { s with worlds := { s.worlds with rsp := rsp, go := false, done := true, snap := [] } }

/-- The Hearth answers the request it serves and its service ends. -/
def State.mbxAnswer (status detail : Nat) (body : Bytes) (s : State) : State :=
  let rsp := mbxResponse s.mbxCode (leAt s.worlds.snap 2 2) status detail body
  let s := if s.worlds.running = some .mbx then
    State.serviceRegs status detail body.length { s with worlds := { s.worlds with running := none } } else s
  s.mbxRelease rsp

/-- ST_STATE_CONFLICT with CHIP.STATE (R130, R377). -/
def State.mbxConflict (s : State) : State := s.mbxAnswer 0x0301 s.chip.state.code []

/-- The mailbox answers a request that the Hearth does not serve (R378). -/
def State.mbxUnavailable (s : State) : State := s.mbxAnswer 0x0302 0xFF []

/-- The Hearth serves the VAULTMBX request with this code now. -/
def State.serves (s : State) (code : Nat) : Bool := s.worlds.running == some .mbx && s.mbxCode == code

/-! ### The response of the Nolur 3 window (R540 to R542, R551) -/

/-- A response frame: the TAG and the code of the request are echoed (R542). -/
def legacyFrame (snap status : Bytes) (fields : List Bytes) : Bytes :=
  [0x3C] ++ slice snap 1 6 ++ [0x3D] ++ status ++ (fields.flatMap fun f => 0x7C :: f) ++ [0x3E]

/-- The response is released as a whole (R540): RSP, RSP_LEN, COUNT, BUSY, GO, DONE. A response under way when the PF was reset is
discarded (R551). -/
def State.legacyRelease (rsp : Bytes) (s : State) : State :=
  let l := s.legacy
  if l.discard then { s with legacy := { l with discard := false, busy := false, snap := [], answer := none } }
  else
    let s' := State.driveInta s.inta { s with legacy := { l with
      rsp := rsp, rspLen := rsp.length, count := l.count + 1, busy := false, done := true, snap := [], answer := none } }
    if l.done then s' else s'.legacyRise

/-- A response with a status and no field is released at once, and the command's service ends. -/
def State.legacyNow (status : String) (s : State) : State :=
  let rsp := legacyFrame s.legacy.snap (ascii status) []
  State.legacyRelease rsp { s with worlds := { s.worlds with
    running := if s.worlds.running = some .legacy then none else s.worlds.running
    pendingSvc := s.worlds.pendingSvc.filter fun v => v != .legacy } }

/-- An event ends the command in progress with a status (R551). -/
def State.legacyAbort (status : String) (s : State) : State := if s.legacy.busy then s.legacyNow status else s

/-! ### Card conversations and the end of a ceremony (R200, R202, R217) -/

/-- A custodian port after deactivation: presence, the last cause and the counters stay (R487, R509). -/
def Port.off (p : Port) : Port :=
  { present := p.present, cause := p.cause, activations := p.activations, retries := p.retries, insertions := p.insertions,
    removals := p.removals }

/-- Custodian port `n`. -/
def State.portOf (s : State) (n : Nat) : Port := tget {} s.cards.ports n

/-- Change custodian port `n`. -/
def State.modPort (n : Nat) (g : Port → Port) (s : State) : State :=
  { s with cards := { s.cards with ports := tmod {} n g s.cards.ports } }

/-- The card conversation ends: the port deactivates and the session keys are erased (R204, R497). -/
def State.endSession (s : State) : State :=
  match s.cards.session with
  | some x => State.modPort x.port Port.off { s with cards := { s.cards with session := none } }
  | none => s

/-- Parameters of the ceremony events (R202). -/
def Ceremony.event (c : Ceremony) (port step result role : Nat) : Bytes :=
  leBytes 4 c.id.toNat ++ leBytes 1 c.kind ++ leBytes 1 port ++ leBytes 4 step ++ leBytes 1 result ++ leBytes 1 role

/-- A ceremony ends without commit, for a reason of R202: the APDU in progress ends and its card is deactivated, every state of
the ceremony is erased (R200, R217). A card step under way is answered ST_STATE_CONFLICT (DESIGN CHOICE, log 27). -/
def State.endCeremony (reason : Nat) (s : State) : State :=
  match s.vault.cer with
  | none => s
  | some c =>
    let s := State.log 0x0613 0xF1 (c.event 0xFF 0 reason 0) { s with vault := { s.vault with cer := none } }
    match s.cards.session with
    | some x => if x.op = none then (if s.serves 0x41 then s.endSession.mbxConflict else s.endSession) else s
    | none => s

/-! ### LOCK (R438) -/

/-- The operations that a LOCK leaves: NOP and FENCE of the queue engine. -/
def Op.inEngine (o : Op) : Bool := o.stage != .qengine

/-- A LOCK takes hold: state LOCKED, key bus off, every operation in a block ends with ST_DEVICE_LOCKED, ceremonies other
than UNLOCK (kind 4) end (R438, R217). In START and RECOVERY only the latch and the end state change (R441). -/
def State.takeLock (s : State) : State :=
  let s := s.latchClass 2
  if s.chip.state = .start then
    { s with chip := { s.chip with
        endState := if s.chip.endState = .quenched ∨ s.chip.endState = .recovery then s.chip.endState else .locked } }
  else if s.chip.state = .ready then
    let s := s.setChip .locked
    let s := { s with chip := { s.chip with keyBus := false } }
    let s := match s.vault.cer with
      | some c => if c.kind = 4 then s else s.endCeremony 4
      | none => s
    (s.failAll Op.inEngine 0x0303 0).legacyAbort "S01"
  else s

/-- Event 0x0F02, a response carried out (R445). -/
def State.logResponse (cls : Nat) (g : Group) (micros : Nat) (s : State) : State :=
  s.log 0x0F02 0xF0 ([BitVec.ofNat 8 cls, 0] ++ leBytes 4 g.no.toNat ++ leBytes 2 g.alarms ++ leBytes 4 micros)

/-- The alarm of a source opens or joins a group. A NOTE opens none (DEDUCED, log 20: R445 says that a repeated NOTE repeats
its parameters, the group among them). -/
def State.joinGroup (cls : Nat) (s : State) : State :=
  match s.tamper.group with
  | some g => { s with tamper := { s.tamper with
      group := some { g with alarms := satInc 65535 g.alarms, cls := max g.cls cls } } }
  | none =>
    if cls ≤ 1 then s
    else
      { s with
        crucible := { s.crucible with latchGroup := s.crucible.latchGroup + 1 }
        tamper := { s.tamper with group := some { no := s.crucible.latchGroup + 1, alarms := 1, cls := cls, carried := 0,
                                                  start := s.now } } }

/-- The alarm is latched in the BBRAM (R440) and counted (R444). -/
def State.latchAlarm (n : Nat) (s : State) : State :=
  { s with
    crucible := { s.crucible with
      latchSrc := s.crucible.latchSrc ||| BitVec.ofNat 12 (2 ^ n)
      latchFirst := if s.crucible.latchSrc = 0 then s.crucible.rtc else s.crucible.latchFirst
      latchLast := s.crucible.rtc }
    tamper := { s.tamper with counts := tmod 0 n (satInc 65535) s.tamper.counts } }

/-- The response of the group is carried out: a Quench is started where none runs and the state is not QUENCHED, a LOCK takes
hold in READY (and in START and RECOVERY in the latch), a NOTE changes no state; an alarm that only joins a response has no other effect
(R432, R433). A response of any class sets PME_Status and sends a message on PF vector 0, where none tells of the change of CHIP.STATE already;
a Quench does so at its end (R63, R78, R434, R438). -/
def State.respond (cls : Nat) (s : State) : State :=
  let carried := match s.tamper.group with
    | some g => g.carried
    | none => 0
  if s.quenching ∨ s.chip.state = .quenched then s
  else if cls = 3 then
    (match s.tamper.group with
      | some g => { s with tamper := { s.tamper with group := some { g with carried := 3 } } }
      | none => s).startQuench
  else if cls = 2 then
    if s.chip.state = .locked ∨ (s.chip.state ≠ .ready ∧ 2 ≤ carried) then s
    else
      let t := match s.tamper.group with
        | some g => (State.takeLock { s with tamper := { s.tamper with group := some { g with carried := 2 } } }).logResponse 2 g 0
        | none => s.takeLock
      (if s.chip.state = .ready then t else t.deviceEvent).pme
  else if 1 < carried then s
  else (s.latchClass cls).deviceEvent.pme

/-- The times of the probes of the last 1 s (R422, R444). -/
def State.recentProbes (s : State) : List Nat := s.tamper.probes.filter fun t => decide (s.now < t + 1000000000)

/-- The sources whose condition persists (R423): a level of LID_N or ZEROIZE_N does before the source has tripped, too, and a probe for 1 s. -/
def State.activeNow (s : State) : BitVec 12 :=
  s.tamper.active ||| (if s.pins.lidN ∧ ¬ s.tamper.fused.getLsbD 3 then 0x008 else 0) ||| (if s.pins.zeroizeN then 0 else 0x200) |||
    (if s.recentProbes.isEmpty then 0 else 0x100)

/-- An alarm of source `n` with a class and a detail reaches the aggregator: it is latched, counted, grouped, logged as event
0x0F01 and answered (R431 to R433, R445). A disabled source does nothing (R427). -/
def State.alarmAs (n cls detail : Nat) (s : State) : State :=
  if cls = 0 then s
  else
    let s := (s.latchAlarm n).joinGroup cls
    let s := s.log 0x0F01 0xF0 ([BitVec.ofNat 8 n, BitVec.ofNat 8 cls] ++ leBytes 4 s.crucible.latchGroup.toNat ++
      leBytes 2 detail)
    s.respond cls

/-- An alarm of source `n` in its class in force. -/
def State.alarm (n detail : Nat) (s : State) : State := s.alarmAs n (s.classOf n) detail

/-! ### Blocks (R19 to R32) -/

/-- Status of block `b`. -/
def State.blockOf (s : State) (b : Nat) : Block := tget {} s.engine.blocks b

/-- Change the status of block `b`. -/
def State.modBlock (b : Nat) (g : Block → Block) (s : State) : State :=
  { s with engine := { s.engine with blocks := tmod {} b g s.engine.blocks } }

/-- Is `b` an index of R31. -/
def blockUsed (b : Nat) : Bool :=
  decide (b ≤ 6) || (decide (8 ≤ b) && decide (b ≤ 0x15)) || (decide (0x40 ≤ b) && decide (b ≤ 0x7F))

/-- The power domain of a block (R19, R47). -/
def blockDomain (b : Nat) : Nat :=
  if b ≤ 3 then 5 + b
  else if b = 4 then 9
  else if b ≤ 6 then 5 + b
  else if b ≤ 0x0F then 12 + (b - 8)
  else if b = 0x10 then 26
  else if b = 0x11 then 28
  else if b = 0x12 then 24
  else if b = 0x13 then 25
  else if b = 0x14 then 27
  else if b = 0x15 then 29
  else 20 + (b - 0x40) / 16

/-- The region of a block, numbered as in R44 (R19). -/
def blockRegion (b : Nat) : Nat :=
  if b ≤ 6 then 1
  else if b ≤ 0x0F then 2
  else if b = 0x10 then 0
  else if b = 0x11 then 2
  else if b = 0x12 ∨ b = 0x13 then 4
  else if b = 0x14 ∨ b = 0x15 then 5
  else 3

/-- State of power domain `d`. -/
def State.domainOf (s : State) (d : Nat) : Domain := tget {} s.power.domains d

/-- Change the state of power domain `d`. -/
def State.modDomain (d : Nat) (g : Domain → Domain) (s : State) : State :=
  { s with power := { s.power with domains := tmod {} d g s.power.domains } }

/-- Domain `d` has its power: ON, or DEFERRED, which keeps it (R480, R484). -/
def State.powered (s : State) (d : Nat) : Bool :=
  (s.domainOf d).st == .on || (s.domainOf d).st == .deferred

/-- STATE of block `b` in ENGINE.BLOCK_STATUS (R32). -/
def State.blockState (s : State) (b : Nat) : Nat :=
  if !blockUsed b then 3
  else if (s.blockOf b).out then 2
  else if s.powered (blockDomain b) then 0 else 1

/-- The reporter code of block `b`'s region, which records the block's reports (R30, R514, R573). -/
def regionSource (b : Nat) : Nat := 0x80 + blockRegion b

/-- The life-cycle code of R446, from the OTP fields of R447. -/
def State.lifeCode (s : State) : Nat :=
  let g := s.life.stage
  let ones (b : BitVec 8) : Nat := ((List.range 8).filter fun i => b.getLsbD i).length
  if g.getLsbD 4 then 6
  else if g.getLsbD 3 then 5
  else if g.getLsbD 2 then 4
  else if g.getLsbD 1 then 3
  else if g.getLsbD 0 then (if ones s.life.relock < ones s.life.tokenUsed then 2 else 1)
  else 0

/-- The reserved slots of R411. -/
def slotReserved (s : Nat) : Bool := (decide (21 ≤ s) && decide (s ≤ 31)) || decide (48 ≤ s)

end Sys2Proof.Machine
end

