-- ==== Sys2Proof/Machine/Operands.lean ====
section
/-!
DEFINITION. The fields of a descriptor (R112), of a scatter entry (R122) and of a completion entry (R128).
-/
namespace Sys2Proof.Machine

/-- OPCODE, bytes 0–1. -/
def dOpcode (d : BitVec 512) : Nat := bits d 15 0
/-- FLAGS, byte 2. -/
def dFlags (d : BitVec 512) : Nat := bits d 23 16
/-- ORDERED. -/
def dOrdered (d : BitVec 512) : Bool := d.getLsbD 16
/-- FENCE. -/
def dFence (d : BitVec 512) : Bool := d.getLsbD 17
/-- INLINE_PARAM. -/
def dInline (d : BitVec 512) : Bool := d.getLsbD 18
/-- SRC_LIST. -/
def dSrcList (d : BitVec 512) : Bool := d.getLsbD 19
/-- DST_LIST. -/
def dDstList (d : BitVec 512) : Bool := d.getLsbD 20
/-- IRQ. -/
def dIrq (d : BitVec 512) : Bool := d.getLsbD 21
/-- TAG, bytes 4–5. -/
def dTag (d : BitVec 512) : Nat := bits d 47 32
/-- TENANT, bytes 6–7, bits 11:0. -/
def dTenant (d : BitVec 512) : Nat := bits d 59 48
/-- KEY_SLOT, bytes 8–9. -/
def dKeySlot (d : BitVec 512) : Nat := bits d 79 64
/-- PLAN, bytes 10–11. -/
def dPlan (d : BitVec 512) : Nat := bits d 95 80
/-- DLEN, bytes 12–15. -/
def dDlen (d : BitVec 512) : Nat := bits d 127 96
/-- SRC, bytes 16–23. -/
def dSrc (d : BitVec 512) : Nat := bits d 191 128
/-- DST, bytes 24–31. -/
def dDst (d : BitVec 512) : Nat := bits d 255 192
/-- PARAM, bytes 32–47, as a string. -/
def dParam (d : BitVec 512) : Bytes := leBytes 16 (bits d 383 256)
/-- The parameter pointer, bytes 32–39. -/
def dParamPtr (d : BitVec 512) : Nat := bits d 319 256
/-- PARAM_LEN, bytes 40–43. -/
def dParamLen (d : BitVec 512) : Nat := bits d 351 320
/-- AAD_LEN, bytes 48–49. -/
def dAadLen (d : BitVec 512) : Nat := bits d 399 384
/-- SRC_COUNT, bytes 50–51. -/
def dSrcCount (d : BitVec 512) : Nat := bits d 415 400
/-- DST_COUNT, bytes 52–53. -/
def dDstCount (d : BitVec 512) : Nat := bits d 431 416
/-- DRBG_INST, bytes 54–55. -/
def dDrbg (d : BitVec 512) : Nat := bits d 447 432
/-- AUX, bytes 56–63. -/
def dAux (d : BitVec 512) : Nat := bits d 511 448
/-- The 64 bytes of a descriptor. -/
def dBytes (d : BitVec 512) : Bytes := leBytes 64 d.toNat

/-- Opcode of an operation. -/
def Op.opcode (o : Op) : Nat := dOpcode o.desc
/-- Tenant of an operation. -/
def Op.tenant (o : Op) : Nat := dTenant o.desc
/-- The lanes run in raw mode (R240): while CHIP.STATE is START or RECOVERY, and in the test life-cycle states. -/
def State.rawLanes (s : State) : Bool :=
  s.chip.state == .start || s.chip.state == .recovery || s.lifeCode == 1 || s.lifeCode == 2

/-- Key slot of an operation. -/
def Op.keySlot (o : Op) : Nat := dKeySlot o.desc

/-- ADDR of a scatter entry. -/
def eAddr (e : BitVec 128) : Nat := bits e 63 0
/-- LEN of a scatter entry. -/
def eLen (e : BitVec 128) : Nat := bits e 95 64
/-- FLAGS of a scatter entry. -/
def eFlags (e : BitVec 128) : Nat := bits e 127 96

/-- DETAIL of ST_BAD_FIELD: byte offset, structure and list entry (R130). -/
def badField (off structure_ entry : Nat) : Nat := off % 256 + 256 * structure_ + 4096 * (entry % 4096)

/-- The first fault of a scatter list (R123): overflow of ADDR + LEN before nonzero FLAGS, entry by entry. -/
def listFault (structure_ : Nat) : Nat → List (BitVec 128) → Option Nat
  | _, [] => none
  | i, e :: t =>
    if 2 ^ 64 < eAddr e + eLen e then some (badField 8 structure_ i)
    else if eFlags e ≠ 0 then some (badField 12 structure_ i)
    else listFault structure_ (i + 1) t

/-- Capacity of a scatter list. -/
def listCap (l : List (BitVec 128)) : Nat := (l.map eLen).sum

/-- The source list of an operation: SRC_COUNT entries of what was read (R121); none without SRC_LIST. -/
def srcListOf (d : BitVec 512) (dma : Dma) : List (BitVec 128) := if dSrcList d then dma.srcList.take (dSrcCount d) else []

/-- The destination list of an operation: DST_COUNT entries of what was read (R121); none without DST_LIST. -/
def dstListOf (d : BitVec 512) (dma : Dma) : List (BitVec 128) := if dDstList d then dma.dstList.take (dDstCount d) else []

/-- Check 7 of R35 (R123): the lists are sound, the source holds `need` bytes and the destination the maximum output. A flat
buffer holds exactly what the operation reads or writes (R120). -/
def check7 (d : BitVec 512) (dma : Dma) (need maxOut : Nat) : Option (Nat × Nat) :=
  let src := srcListOf d dma
  let dst := dstListOf d dma
  match listFault 1 0 src with
  | some f => some (0x0102, f)
  | none =>
    match listFault 2 0 dst with
    | some f => some (0x0102, f)
    | none =>
      if dSrcList d ∧ listCap src < need then some (0x0104, 0)
      else if dDstList d ∧ listCap dst < maxOut then some (0x0104, 1)
      else none

/-- The data writes that put `out` into a scatter list, in list order (R122). -/
def scatterWrites (op fn : Nat) (relaxed : Bool) : List (BitVec 128) → Bytes → List Sent
  | [], _ => []
  | e :: t, out =>
    if out = [] then []
    else if eLen e = 0 then scatterWrites op fn relaxed t out
    else Sent.data op fn (BitVec.ofNat 64 (eAddr e)) (out.take (eLen e)) relaxed :: scatterWrites op fn relaxed t (out.drop (eLen e))

/-- Do two address ranges meet. -/
def rangesMeet (a b : Nat × Nat) : Bool := decide (a.1 < b.1 + b.2) && decide (b.1 < a.1 + a.2)

/-- The address ranges that the first `n` bytes of a list's stream take. -/
def clipRanges : Nat → List (BitVec 128) → List (Nat × Nat)
  | _, [] => []
  | n, e :: t => (eAddr e, min n (eLen e)) :: clipRanges (n - eLen e) t

/-- The address ranges of the first `len` bytes of a buffer: flat, or a list. -/
def ranges (isList : Bool) (addr len : Nat) (l : List (BitVec 128)) : List (Nat × Nat) :=
  (if isList then clipRanges len l else [(addr, len)]).filter fun r => r.2 != 0

/-- An opcode reads DLEN bytes at SRC: all but DRBG_GENERATE, whose DLEN is the length of its output (R346). -/
def readsSource (d : BitVec 512) : Bool := dOpcode d != 0x0502

/-- The output overlaps the source other than in place: what is written is undefined (R125). -/
def overlapOpen (d : BitVec 512) (dma : Dma) (outLen : Nat) : Bool :=
  let same := dSrc d == dDst d && dSrcList d == dDstList d && dSrcCount d == dDstCount d
  let rs := if readsSource d then ranges (dSrcList d) (dSrc d) (dAadLen d + dDlen d) (srcListOf d dma) else []
  let ws := ranges (dDstList d) (dDst d) outLen (dstListOf d dma)
  !same && rs.any fun r => ws.any fun w => rangesMeet r w

/-- Write the output of an operation to its destination, flat or by its list (R57, R111, R120 to R122). Where it overlaps the
source other than in place, the bytes written are free values (R125, log 5). -/
def State.writeOut (o : Op) (dma : Dma) (out : Bytes) (s : State) : State :=
  let lost := overlapOpen o.desc dma out.length
  let out := if lost then s.openBytes out.length else out
  let s := if lost then s.spend out.length else s
  let relaxed := (s.fnOf o.fn).relaxed
  let ws := if dDstList o.desc then scatterWrites o.id o.fn relaxed (dstListOf o.desc dma) out
    else if out = [] then [] else [Sent.data o.id o.fn (BitVec.ofNat 64 (dDst o.desc)) out relaxed]
  { s with sent := ws.reverse ++ s.sent }

/-! ### The reads of an operation (R56, R127) -/

/-- The read requests of at most `step` bytes that fetch a buffer (R56). -/
def readPieces (fn step : Nat) (r : Nat × Nat) : List Sent :=
  (List.range ((r.2 + step - 1) / step)).map fun i =>
    Sent.read fn (BitVec.ofNat 64 (r.1 + i * step)) (min step (r.2 - i * step))

/-- Read buffers of host memory, each request of at most 512 bytes and Max_Read_Request_Size (R56). The requests of an operation are answered
inside the row that carries what they read, one at a time: the tag that DESCRIPTOR_FETCH leaves is enough for them (log 10). -/
def State.readHost (fn : Nat) (rs : List (Nat × Nat)) (s : State) : State :=
  { s with sent := ((rs.filter fun r => r.2 != 0).flatMap (readPieces fn (min 512 s.link.maxRead))).reverse ++ s.sent }

/-- The operation reads its source list, its destination list and its parameter block, once and in this order; a block read for steering is
not read again (R127, R262, R302). -/
def State.readLists (o : Op) (s : State) : State :=
  if o.fetched ≠ 0 then s
  else
    let d := o.desc
    ((s.readHost o.fn ((if dSrcList d then [(dSrc d, 16 * dSrcCount d)] else []) ++ (if dDstList d then [(dDst d, 16 * dDstCount d)] else []) ++
      (if dInline d ∨ o.pblk.isSome then [] else [(dParamPtr d, dParamLen d)])))).modOp o.id fun x => { x with fetched := 1 }

/-- The operation reads its additional data and its payload, once (R115, R127). -/
def State.readData (o : Op) (dma : Dma) (s : State) : State :=
  if 1 < o.fetched then s
  else
    let d := o.desc
    (s.readHost o.fn (if readsSource d then ranges (dSrcList d) (dSrc d) (dAadLen d + dDlen d) (srcListOf d dma) else [])).modOp o.id
      fun x => { x with fetched := 2 }

/-- Check 7 on the lists as read, then the data and the operation (R35, R123). -/
def State.checkLists (o : Op) (dma : Dma) (need maxOut : Nat) (k : State → State) (s : State) : State :=
  match check7 o.desc dma need maxOut with
  | some (st, d) => s.fail o.id st d
  | none => k (s.readData o dma)

/-- The reads of an operation, check 7, then the operation (R35, R123). -/
def State.checked (o : Op) (dma : Dma) (need maxOut : Nat) (k : State → State) (s : State) : State :=
  (s.readLists o).checkLists o dma need maxOut k

/-- The parameters of an operation: inline PARAM, or the parameter block cut to PARAM_LEN (R114). -/
def opParams (o : Op) (dma : Dma) : Bytes :=
  if dInline o.desc then dParam o.desc
  else match o.pblk with
    | some p => fit (dParamLen o.desc) p
    | none => fit (dParamLen o.desc) dma.params

/-- The additional data and the payload of an operation (R115); bytes that the command does not carry read as 0. -/
def opAad (o : Op) (dma : Dma) : Bytes := slice dma.src 0 (dAadLen o.desc)

/-- The DLEN payload bytes of an operation, after its additional data (R115). -/
def opData (o : Op) (dma : Dma) : Bytes := slice dma.src (dAadLen o.desc) (dDlen o.desc)

/-- The 32 bytes of a completion entry (R128). -/
def completionEntry (o : Op) (sqHead : Nat) (phase : Bool) : Bytes :=
  leBytes 2 (dTag o.desc) ++ leBytes 2 o.status.toNat ++ leBytes 4 o.outLen ++ leBytes 2 sqHead ++ leBytes 2 o.queue ++
    leBytes 4 o.detail.toNat ++ fit 12 o.result ++ [0, 0, 0, if phase then 1 else 0]

/-- Count work of a rate class in the running window (R33). -/
def State.countRate (c ops bytes : Nat) (s : State) : State :=
  { s with engine := { s.engine with rates := tmod {} c (fun r => { r with curOps := r.curOps + ops,
                                                                           curBytes := r.curBytes + bytes }) s.engine.rates } }

/-! ### Ordering (R106 to R110, R119) -/

/-- The descriptors of the same queue that stand before `o` in ring order and have no completion entry yet. -/
def State.earlier (s : State) (o : Op) : List Op :=
  s.engine.tasks.filter fun p => p.fn == o.fn && p.queue == o.queue && decide (p.seq < o.seq)

/-- A FENCE opcode that passed its checks: a barrier until its own completion entry (R119). -/
def Op.barrier (o : Op) : Bool := o.opcode == 0x0801 && (o.stage == .qengine || (o.stage == .done && o.status == 0))

/-- May the operation start: no barrier before it, and with FENCE nothing before it (R109, R119). -/
def State.mayStart (s : State) (o : Op) : Bool :=
  !(s.earlier o).any Op.barrier && (!dFence o.desc || (s.earlier o).isEmpty)

/-- May its completion entry be written (R108, R109). A descriptor with FENCE that failed a check at its arrival waits for the earlier
entries too, as R119 has it for NOP and FENCE (DEDUCED, log 55). -/
def State.mayComplete (s : State) (o : Op) : Bool :=
  o.stage == .done && ((!dOrdered o.desc && !dFence o.desc) || (s.earlier o).isEmpty)

/-- A service may start: a descriptor of the channel not before its flags allow it (R109, R119). -/
def State.svcMayStart (s : State) : Service → Bool
  | .chan id => ((s.opOf id).map s.mayStart).getD true
  | _ => true

end Sys2Proof.Machine
end

