-- ==== Sys2Proof/Machine/Bellows.lean ====
section
/-!
DEFINITION. Bellows: noise cells, states, the seed queue and the DRBG instances (R335 to R353). The values of the noise source
are free (log 3).
-/
namespace Sys2Proof.Machine

/-! ### Operations in a block -/

/-- Carry out an opcode on the operation `id`, where it is one of this opcode at this stage. -/
def State.onOp (id opcode : Nat) (stage : Stage) (act : Op → State → State) (s : State) : State :=
  match s.opOf id with
  | some o => if o.opcode = opcode ∧ o.stage = stage then act o s else s
  | none => s

/-! ### Cells and states (R336 to R342) -/

/-- Code of RAND.STATUS.STATE (R339). -/
def BState.code : BState → Nat
  | .start => 0
  | .ok => 1
  | .retest => 2
  | .failed => 3

/-- Cell `c`. -/
def State.cellOf (s : State) (c : Nat) : Cell := tget {} s.bellows.cells c

/-- Change cell `c`. -/
def State.modCell (c : Nat) (g : Cell → Cell) (s : State) : State :=
  { s with bellows := { s.bellows with cells := tmod {} c g s.bellows.cells } }

/-- Cells in service (R339). -/
def State.inService (s : State) : Nat := ((List.range 32).filter fun c => !(s.cellOf c).out).length

/-- RAND.STATUS.HEALTHY. R352 gives it the reset value 0, and R351 says that all cells are in service after a chip reset: it reads 0 while
Bellows is in START, where no cell has been tested yet, and counts the cells in service from then on (DESIGN CHOICE, log 56). -/
def State.healthy (s : State) : Nat := if s.bellows.state = .start then 0 else s.inService

/-- RAND.HELD.HELD: requests held now, and outside OK those of functions and the Hearth in the seed queue as well (R342, R352). -/
def State.heldCount (s : State) : Nat :=
  let counts (r : SeedReq) : Bool := match r.who with
    | .op _ => true
    | .hearth => true
    | _ => false
  s.bellows.held.length + (if s.bellows.state = .ok then 0 else (s.bellows.seedQ.filter counts).length)

/-- Bellows enters a state; a change is event 0x0502 (R353). -/
def State.setBellows (b : BState) (s : State) : State :=
  if s.bellows.state = b then s
  else
    State.log 0x0502 0x13 ([BitVec.ofNat 8 s.bellows.state.code, BitVec.ofNat 8 b.code, BitVec.ofNat 8 s.healthy] ++
      leBytes 4 s.heldCount) { s with bellows := { s.bellows with state := b } }

/-- A retest starts (R341): from FAILED Bellows moves to RETEST; from OK it stays in OK. -/
def State.startRetest (s : State) : State :=
  let s := if s.bellows.state = .failed then s.setBellows .retest else s
  { s with bellows := { s.bellows with retest := true, retestFail := 0 } }

/-- Test of the last failure: 0 repetition count, 1 adaptive proportion (R352). -/
def testCode (proportion : Bool) : Nat := if proportion then 1 else 0

/-- A cell fails a test (R338, R353): FAILS and LAST record it, it is out of service, and event 0x0501 is logged. A failure in a running retest
is remembered: the cell does not return at its end (R341). -/
def State.cellFails (c : Nat) (proportion : Bool) (s : State) : State :=
  let s := s.modCell c fun x => { x with fails := satInc 255 x.fails, out := true, last := testCode proportion }
  let s := if s.bellows.retest then
    { s with bellows := { s.bellows with retestFail := s.bellows.retestFail ||| BitVec.ofNat 32 (2 ^ c) } } else s
  s.log 0x0501 0x13 [BitVec.ofNat 8 c, BitVec.ofNat 8 (testCode proportion), BitVec.ofNat 8 (s.cellOf c).fails]

/-- NOISE_CELL_FAILURE (R338, R339): the cell leaves service; with fewer than 8 cells Bellows enters RETEST. A cell out of service samples in a
retest only (R341), and its failure there is recorded. No block that holds bits of the failing window leaves the conditioner: a block is formed,
from windows that have passed, when it is delivered (DESIGN CHOICE, log 56). -/
def execNoiseCellFailure (cell : Fin 32) (proportion : Bool) (s : State) : Out :=
  .next (
    let c := cell.val
    if (s.cellOf c).out ∧ ¬ s.bellows.retest then s
    else
      let s := s.cellFails c proportion
      if s.bellows.state = .ok ∧ s.inService < 8 then
        (let s := s.setBellows .retest; if s.bellows.retest then s else s.startRetest)
      else s)

/-- RETEST (R341, R352): dropped in START, in RETEST or while a retest runs. -/
def execRetest (s : State) : Out :=
  .next (s.onBar fun s => if s.bellows.state = .start ∨ s.bellows.state = .retest ∨ s.bellows.retest then s else s.startRetest)

/-- ENTROPY_RETRY (R341): that many seconds have passed in FAILED; the value 0 disables the retry. -/
def execEntropyRetry (s : State) : Out :=
  .next (if s.bellows.state = .failed ∧ ¬ s.bellows.retest ∧ s.setting 0x09 ≠ 0 then s.startRetest else s)

/-- DETAIL of ST_ENTROPY_FAILED (R326, R342): the descriptor's DRBG_INST, which check 3 leaves 0 for opcodes that use none. -/
def entropyDetail (o : Op) : Nat := dDrbg o.desc % 4096

/-- An operation ends with ST_ENTROPY_FAILED, which RAND.HELD.FAILED counts (R342, R352). -/
def State.failEntropy (o : Op) (s : State) : State :=
  State.fail o.id 0x0402 (entropyDetail o)
    { s with bellows := { s.bellows with failedCount := satInc 65535 s.bellows.failedCount } }

/-- The Hearth's draw fails: what it serves ends with ST_ENTROPY_FAILED (R342). A CER_STEP consumes its number (R203); the Nolur 3 window
answers S03 (R549). -/
def State.failHearth (s : State) : State :=
  match s.worlds.running with
  | some .mbx =>
    let s := if s.mbxCode = 0x41 then
      { s with vault := { s.vault with cer := s.vault.cer.map fun c => { c with nextStep := c.nextStep + 1 } } } else s
    s.mbxAnswer 0x0402 0 []
  | some (.chan id) =>
    match s.opOf id with
    | some o => s.failEntropy o
    | none => s
  | some .legacy => s.legacyNow "S03"
  | _ => s

/-- A request that waits for Bellows fails (R342); the mask generators and the internal instance have no answer to give. -/
def State.failRequest (s : State) (r : SeedReq) : State :=
  match r.who with
  | .op id =>
    match s.opOf id with
    | some o => s.failEntropy o
    | none => s
  | .hearth => s.failHearth
  | _ => s

/-- Every request that waits for Bellows fails (R342). A reseed of the internal instance goes on waiting. -/
def State.failHeld (s : State) : State :=
  let l := s.bellows.held ++ s.bellows.seedQ
  l.foldl State.failRequest { s with bellows := { s.bellows with held := [], seedQ := s.bellows.seedQ.filter fun r => r.who == .internal } }

/-! ### The seed queue (R344, R349, R352) -/

/-- A request enters the seed queue; the peaks follow its depth. -/
def State.enqueueSeed (r : SeedReq) (s : State) : State :=
  let q := s.bellows.seedQ ++ [r]
  { s with bellows := { s.bellows with seedQ := q, peak := max s.bellows.peak (min 65535 q.length),
                                       winPeak := max s.bellows.winPeak q.length } }

/-- Whoever asks waits for Bellows already. -/
def State.waitsSeed (s : State) (who : Asker) : Bool :=
  (s.bellows.held ++ s.bellows.seedQ).any fun r => r.who == who

/-- Hold a request until the running retest ends (R342). -/
def State.hold (r : SeedReq) (s : State) : State :=
  if s.waitsSeed r.who then s else { s with bellows := { s.bellows with held := s.bellows.held ++ [r] } }

/-- The held requests are released in order of arrival: those that want a seed enter the queue, the others run at their next turn (R342,
R344). -/
def State.release (s : State) : State :=
  let l := s.bellows.held
  (l.filter fun r => r.blocks != 0).foldl (fun s r => s.enqueueSeed r) { s with bellows := { s.bellows with held := [] } }

/-- A request to Bellows (R342, R344): `got` are the bytes that the queue has delivered for it, with which `k` runs. Without them it waits in
the queue in OK, is held in RETEST and START, and fails in FAILED; a request for no block needs no delivery. -/
def State.request (r : SeedReq) (got : Option Bytes) (k : Bytes → State → State) (no : State → State) (s : State) : State :=
  match got with
  | some b => k b s
  | none =>
    match s.bellows.state with
    | .failed => if s.bellows.retest then s.hold r else no s
    | .start => s.hold r
    | .retest => s.hold r
    | .ok => if s.waitsSeed r.who then s else if r.blocks ≠ 0 then s.enqueueSeed r else k [] s

/-- A request for randomness of an operation: `k` goes on with `blocks` blocks of full entropy. -/
def State.gated (o : Op) (level blocks : Nat) (k : Bytes → State → State) (s : State) : State :=
  s.request { who := .op o.id, level := level, blocks := blocks } o.seed
    (fun b s => k b (s.modOp o.id fun x => { x with seed := none })) (fun s => s.failEntropy o)

/-- A draw of the Hearth for the service that it runs, at level 2 (R342, R344): `k` goes on with `n` bytes; in FAILED `no` answers. -/
def State.hearthDraw (n : Nat) (k : Bytes → State → State) (no : State → State) (s : State) : State :=
  s.request { who := .hearth, level := 2, blocks := (n + 15) / 16 } s.bellows.given
    (fun b s => k (b.take n) { s with bellows := { s.bellows with given := none } }) no

/-- A cell returns to service (R341, R353). -/
def State.returnCell (c : Nat) (s : State) : State :=
  (s.modCell c fun x => { x with out := false }).log 0x0504 0x13 [BitVec.ofNat 8 c]

/-- RETEST_END (R341): the cells whose every window passed return; Bellows enters OK with at least 8 cells in service, else
FAILED. Held requests are released to run, or fail. -/
def execRetestEnd (passed : BitVec 32) (s : State) : Out :=
  .next (
    if ¬ s.bellows.retest then s
    else
      let back := (List.range 32).filter fun c => (s.cellOf c).out && passed.getLsbD c && !s.bellows.retestFail.getLsbD c
      let s : State := back.foldl (fun s c => s.returnCell c) s
      let s : State := { s with bellows := { s.bellows with retest := false, retestFail := 0 } }
      if 8 ≤ s.inService then (s.setBellows .ok).release else (s.setBellows .failed).failHeld)

/-! ### Deliveries of the seed queue (R344) -/

/-- The waiting request that the queue serves next: the lowest level, in order of arrival (R344). -/
def nextSeed : List SeedReq → Option SeedReq
  | [] => none
  | r :: t =>
    match nextSeed t with
    | none => some r
    | some x => if x.level < r.level then some x else some r

/-- Seed the internal instance with 48 bytes (R345). -/
def State.reseedInternal (e : Bytes) (s : State) : State :=
  let i := s.bellows.internal
  let st := if i.up then Drbg.reseed (i.key, i.v) e [] else Drbg.instantiate e []
  { s with bellows := { s.bellows with internal := { up := true, key := st.1, v := st.2, count := 0, exp := 16 } } }

/-- A mask generator takes a new seed (R251). -/
def State.reseedMask (b : Nat) (e : Bytes) (s : State) : State :=
  { s with rack := { s.rack with maskSeeds := tset 0 b (BitVec.ofNat 128 (leNat e)) s.rack.maskSeeds, maskStale := false } }

/-- Give `n` bytes of full entropy from the conditioner, counted in RAND.SEEDS (R344, R352). -/
def State.deliver (n : Nat) (k : Bytes → State → State) (s : State) : State :=
  k (s.noise n) (State.drawn n { s with bellows := { s.bellows with seeds := s.bellows.seeds + 1 } })

/-- SEED_DELIVERY (R344): in OK the queue hands blocks to the highest-priority request. An operation and the Hearth go on with them at
their next turn; the internal instance and a mask generator are reseeded. -/
def execSeedDelivery (s : State) : Out :=
  .next (
    if s.bellows.state ≠ .ok then s
    else
      match nextSeed s.bellows.seedQ with
      | none => s
      | some r =>
        State.deliver (16 * r.blocks) (fun b s =>
          match r.who with
          | .op id => s.modOp id fun x => { x with seed := some b }
          | .hearth => { s with bellows := { s.bellows with given := some b } }
          | .rehash p => { s with routing := { s.routing with terms := tmod {} p (fun t => { t with drawn := some b }) s.routing.terms } }
          | .internal => s.reseedInternal b
          | .mask n => s.reseedMask n b) { s with bellows := { s.bellows with seedQ := s.bellows.seedQ.erase r } })

/-- STRETCH_WINDOW (R349): at the end of a 10 ms window S rises by 1 when the depth exceeded 64, and falls by 1 after 100
consecutive windows at or below 8; the settings cap it. -/
def execStretchWindow (s : State) : Out :=
  .next (
    let b := s.bellows
    let cap := s.setting 0x0A
    let low := if b.winPeak ≤ 8 then b.lowWins + 1 else 0
    let up := if 64 < b.winPeak then b.stretch + 1 else if low = 100 then b.stretch - 1 else b.stretch
    let new := min up (min cap 16)
    let s' := { s with bellows := { b with stretch := new, lowWins := if low = 100 then 0 else low,
                                           winPeak := b.seedQ.length } }
    if new = b.stretch then s'
    else s'.log 0x0503 0x13 ([BitVec.ofNat 8 b.stretch, BitVec.ofNat 8 new] ++ leBytes 2 b.winPeak))

/-- INTERNAL_RESEED (R345): after 2^16 requests the internal instance asks for a reseed at level 1. -/
def execInternalReseed (s : State) : Out :=
  .next (
    if s.bellows.internal.up ∧ 65536 ≤ s.bellows.internal.count ∧ ¬ s.waitsSeed .internal then
      s.enqueueSeed { who := .internal, level := 1, blocks := 3 }
    else s)

/-- A register read of RAND.SEED_QUEUE: DEPTH and PEAK; PEAK is cleared (R352). -/
def execSeedQueuePeakRead (s : State) : Out :=
  .next (s.onRead fun s => State.emit (.value (BitVec.ofNat 32 (min 65535 s.bellows.seedQ.length + 65536 * s.bellows.peak)))
    { s with bellows := { s.bellows with peak := 0 } })

/-! ### Instances (R345 to R349) -/

/-- Instance `i` of function `f`. -/
def State.instOf (s : State) (f i : Nat) : Inst := tget {} s.bellows.insts (f * 4096 + i)

/-- Replace instance `i` of function `f`. -/
def State.setInst (f i : Nat) (x : Inst) (s : State) : State :=
  { s with bellows := { s.bellows with insts := tset {} (f * 4096 + i) x s.bellows.insts } }

/-- COUNT has reached the interval that the last seeding fixed: the instance is stalled (R348). -/
def Inst.stalled (x : Inst) : Bool := x.up && decide (2 ^ x.exp ≤ x.count)

/-- Seed an instance with 48 bytes from the noise source (R345, R348); the interval follows the stretch in force. -/
def State.seedInst (f i : Nat) (e add : Bytes) (s : State) : State :=
  let x := s.instOf f i
  let st := if x.up then Drbg.reseed (x.key, x.v) e add else Drbg.instantiate e add
  s.setInst f i { up := true, key := st.1, v := st.2, count := 0, exp := 16 + s.bellows.stretch }

/-- One generate request of `n` bytes: the bytes, and the instance after it (R348). -/
def genInst (x : Inst) (n : Nat) (add : Bytes) : Bytes × Inst :=
  let r := Drbg.generate (x.key, x.v) n add
  (r.1, { x with key := r.2.1, v := r.2.2, count := x.count + 1 })

/-- Two operations name the same instance. -/
def sameInst (a b : Op) : Bool := a.fn == b.fn && dDrbg a.desc == dDrbg b.desc

/-- Operations whose request for the instance of `o` Bellows received before that of `o` (R347). -/
def State.askedBefore (s : State) (o : Op) : List Nat :=
  (s.bellows.asked.takeWhile fun id => id != o.id).filter fun id => ((s.opOf id).map (sameInst o)).getD false

/-- Bellows receives a request for an instance. -/
def State.askInst (id : Nat) (s : State) : State :=
  if s.bellows.asked.contains id then s else { s with bellows := { s.bellows with asked := s.bellows.asked ++ [id] } }

/-- Requests for one instance are served one at a time, in order of receipt (R347): `k` runs when the turn of this one comes. -/
def State.inTurn (o : Op) (k : State → State) (s : State) : State :=
  let s := s.askInst o.id
  if s.askedBefore o = [] then k s else s

/-- The generator core on which a generate request runs whole: the one it holds, else the lowest-numbered free one of eight (R347). -/
def State.coreFor (s : State) (id : Nat) : Option Nat :=
  match (List.range 8).find? fun c => tget 0 s.bellows.cores c == id with
  | some c => some c
  | none => (List.range 8).find? fun c => tget 0 s.bellows.cores c == 0

/-- Generator core `c` serves operation `id`. -/
def State.takeCore (c id : Nat) (s : State) : State := { s with bellows := { s.bellows with cores := tset 0 c id s.bellows.cores } }

/-- Operation `id` gives its generator core back. -/
def State.freeCore (id : Nat) (s : State) : State :=
  { s with bellows := { s.bellows with cores := tmap 0 (fun _ n => if n = id then 0 else n) s.bellows.cores } }

/-- Operation `id` has made its generate request and holds no core and no place among the requests any more. -/
def State.served (id : Nat) (s : State) : State :=
  { s.freeCore id with bellows := { (s.freeCore id).bellows with asked := s.bellows.asked.filter fun n => n != id } }

/-- An operation's draw of `n` bytes from its local instance, as one generate request in its turn (R342, R346 to R348): `k` continues with the
bytes and with whether this request reseeded the instance first. A request that waits for a seed holds no core. -/
def State.drawLocal (o : Op) (n : Nat) (predict : Bool) (add : Bytes) (k : Bytes → Bool → State → State) (s : State) :
    State :=
  let f := o.fn
  let i := dDrbg o.desc
  s.inTurn o fun s =>
    if ¬ (s.instOf f i).up then s.fail o.id 0x0401 i
    else
      let need := predict || (s.instOf f i).stalled
      let waits := o.seed.isNone && (need || s.bellows.state != .ok)
      if ¬ waits ∧ s.coreFor o.id = none then s
      else
        (if waits then s.freeCore o.id else s).gated o 3 (if need then 3 else 0) fun e s =>
          let s := if need then s.seedInst f i e add else s
          let r := genInst (s.instOf f i) n (if need then [] else add)
          k r.1 need (((s.setInst f i r.2).served o.id).countRate 5 0 n)

/-- Carry out an opcode of the random family on an operation in block 0x13, in its turn. -/
def State.onRandom (id opcode : Nat) (act : Op → State → State) (s : State) : State :=
  s.onOp id opcode .block fun o s => s.inTurn o (act o)

/-- The string of a random opcode: PARAM by pointer, none inline (R346). -/
def drbgString (o : Op) (dma : Dma) : Bytes := if dInline o.desc then [] else opParams o dma

/-- DRBG_INSTANTIATE (R346). -/
def execDrbgInstantiate (op : Nat) (dma : Dma) (s : State) : Out :=
  .next (s.onRandom op 0x0501 fun o s =>
    let s := s.readLists o
    if (s.instOf o.fn (dDrbg o.desc)).up then s.fail op 0x0301 s.chip.state.code
    else s.gated o 3 3 fun e s => (s.seedInst o.fn (dDrbg o.desc) e (drbgString o dma)).finish op 0 0 0 [])

/-- DRBG_GENERATE (R346, R348): RESULT gives COUNT after the request and whether it reseeded first. -/
def execDrbgGenerate (op : Nat) (dma : Dma) (s : State) : Out :=
  .next (s.onRandom op 0x0502 fun o s =>
    s.checked o dma 0 (dDlen o.desc) fun s =>
      s.drawLocal o (dDlen o.desc) ((dAux o.desc).testBit 0) (drbgString o dma) fun out reseeded s =>
        let n := (s.instOf o.fn (dDrbg o.desc)).count
        (s.writeOut o dma out).finish op 0 0 (dDlen o.desc) (leBytes 4 n ++ [if reseeded then 1 else 0]))

/-- DRBG_RESEED (R346). -/
def execDrbgReseed (op : Nat) (dma : Dma) (s : State) : Out :=
  .next (s.onRandom op 0x0503 fun o s =>
    let s := s.readLists o
    if ¬ (s.instOf o.fn (dDrbg o.desc)).up then s.fail op 0x0401 (dDrbg o.desc)
    else s.gated o 3 3 fun e s => (s.seedInst o.fn (dDrbg o.desc) e (drbgString o dma)).finish op 0 0 0 [])

/-- DRBG_UNINSTANTIATE (R346): the state is zeroed. -/
def execDrbgUninstantiate (op : Nat) (s : State) : Out :=
  .next (s.onRandom op 0x0504 fun o s => (s.setInst o.fn (dDrbg o.desc) {}).finish op 0 0 0 [])

/-! ### Mask generators (R251, R344) -/

/-- Blocks with a mask generator: Cipher region blocks and plan pipelines (R251). -/
def maskBlocks : List Nat := (List.range 7) ++ (List.range 8).map (· + 8)

/-- MASK_RESEED (R251): every generator asks for a new seed at level 1, where its last request has been served. While Bellows is
FAILED the generators run on from their last seeds, which is logged once; in RETEST they run on too (R342). -/
def execMaskReseed (s : State) : Out :=
  .next (
    match s.bellows.state with
    | .ok => maskBlocks.foldl (fun s b => if s.waitsSeed (.mask b) then s else s.enqueueSeed { who := .mask b, level := 1, blocks := 1 }) s
    | .failed =>
      if s.rack.maskStale then s else State.logOpen 0x05 0x13 2510 [] { s with rack := { s.rack with maskStale := true } }
    | _ => s)

end Sys2Proof.Machine
end

