-- ==== Sys2Proof/Machine/Sha.lean ====
section
/-!
DEFINITION. SHA-2 (FIPS 180-4), SHA-3 and SHAKE (FIPS 202), HMAC (FIPS 198-1), CRC-32C: named by R4 and R302, written from those
standards (PRESUMED, log 8).
-/
namespace Sys2Proof.Machine.Sha

/-- The first 80 primes. -/
def primes : List Nat :=
  [2, 3, 5, 7, 11, 13, 17, 19, 23, 29, 31, 37, 41, 43, 47, 53, 59, 61, 67, 71, 73, 79, 83, 89, 97, 101, 103, 107, 109, 113] ++
  [127, 131, 137, 139, 149, 151, 157, 163, 167, 173, 179, 181, 191, 193, 197, 199, 211, 223, 227, 229, 233, 239, 241] ++
  [251, 257, 263, 269, 271, 277, 281, 283, 293, 307, 311, 313, 317, 331, 337, 347, 349, 353, 359, 367, 373, 379, 383] ++
  [389, 397, 401, 409]

/-- The greatest `r` below 2^bits × 2 with r^k ≤ n, by bisection. -/
def rootBits (k : Nat) : Nat → Nat → Nat → Nat
  | 0, n, r => if (r + 1) ^ k ≤ n then r + 1 else r
  | b + 1, n, r => rootBits k b n (if (r + 2 ^ (b + 1)) ^ k ≤ n then r + 2 ^ (b + 1) else r)

/-- The first `w` bits of the fractional part of the k-th root of `p`. -/
def fracRoot (k w p : Nat) : Nat := rootBits k (w + 5) (p * 2 ^ (k * w)) 0 % 2 ^ w

/-- A SHA-2 variant over words of `w` bits: 32 or 64. -/
structure Rots where
  /-- rotations of Σ0, Σ1 and rotations and shift of σ0, σ1 -/
  s0 : Nat × Nat × Nat
  s1 : Nat × Nat × Nat
  g0 : Nat × Nat × Nat
  g1 : Nat × Nat × Nat
  /-- rounds -/
  rounds : Nat

/-- The rotations of the two word sizes. -/
def rots (w : Nat) : Rots :=
  if w = 32 then ⟨(2, 13, 22), (6, 11, 25), (7, 18, 3), (17, 19, 10), 64⟩
  else ⟨(28, 34, 39), (14, 18, 41), (1, 8, 7), (19, 61, 6), 80⟩

/-- Σ functions. -/
def big {w : Nat} (t : Nat × Nat × Nat) (x : BitVec w) : BitVec w :=
  x.rotateRight t.1 ^^^ x.rotateRight t.2.1 ^^^ x.rotateRight t.2.2

/-- σ functions. -/
def small {w : Nat} (t : Nat × Nat × Nat) (x : BitVec w) : BitVec w :=
  x.rotateRight t.1 ^^^ x.rotateRight t.2.1 ^^^ (x >>> t.2.2)

/-- The message schedule: `n` further words, newest first. -/
def scheduleW {w : Nat} (r : Rots) : Nat → List (BitVec w) → List (BitVec w)
  | 0, ws => ws
  | n + 1, ws =>
    scheduleW r n ((small r.g1 (ws.getD 1 0) + ws.getD 6 0 + small r.g0 (ws.getD 14 0) + ws.getD 15 0) :: ws)

/-- The working variables a to h. -/
structure Vars (w : Nat) where
  a : BitVec w
  b : BitVec w
  c : BitVec w
  d : BitVec w
  e : BitVec w
  f : BitVec w
  g : BitVec w
  h : BitVec w

/-- One round. -/
def round {w : Nat} (r : Rots) (v : Vars w) (kw : BitVec w) : Vars w :=
  let t1 := v.h + big r.s1 v.e + ((v.e &&& v.f) ^^^ (~~~ v.e &&& v.g)) + kw
  let t2 := big r.s0 v.a + ((v.a &&& v.b) ^^^ (v.a &&& v.c) ^^^ (v.b &&& v.c))
  ⟨t1 + t2, v.a, v.b, v.c, v.d + t1, v.e, v.f, v.g⟩

/-- Compression of one block into the chaining value. -/
def compress (w : Nat) (ks : List (BitVec w)) (hs : List (BitVec w)) (block : Bytes) : List (BitVec w) :=
  let r := rots w
  let ws := ((chunks (w / 8) block).map fun b => BitVec.ofNat w (beNat b))
  let sched := (scheduleW r (r.rounds - 16) ws.reverse).reverse
  let v0 : Vars w := ⟨hs.getD 0 0, hs.getD 1 0, hs.getD 2 0, hs.getD 3 0, hs.getD 4 0, hs.getD 5 0, hs.getD 6 0, hs.getD 7 0⟩
  let v := (List.zipWith (· + ·) ks sched).foldl (round r) v0
  [v0.a + v.a, v0.b + v.b, v0.c + v.c, v0.d + v.d, v0.e + v.e, v0.f + v.f, v0.g + v.g, v0.h + v.h]

/-- The round constants. -/
def consts (w : Nat) : List (BitVec w) := (primes.take (rots w).rounds).map fun p => BitVec.ofNat w (fracRoot 3 w p)

/-- The padded message: a one bit, zeros and the length in bits. -/
def pad (w : Nat) (m : Bytes) : Bytes :=
  let blk := 2 * w
  let lenB := w / 4
  let z := (2 * blk - (m.length + 1 + lenB) % blk) % blk
  m ++ [0x80] ++ List.replicate z 0 ++ beBytes lenB (8 * m.length)

/-- Initial value of SHA-256 and SHA-512: square roots of the first 8 primes. -/
def init (w : Nat) : List (BitVec w) := (primes.take 8).map fun p => BitVec.ofNat w (fracRoot 2 w p)

/-- Initial value of SHA-384: square roots of the 9th to 16th primes. -/
def init384 : List (BitVec 64) := ((primes.drop 8).take 8).map fun p => BitVec.ofNat 64 (fracRoot 2 64 p)

/-- Initial value of SHA-224: the second 32 bits of the same fractions. -/
def init224 : List (BitVec 32) := ((primes.drop 8).take 8).map fun p => BitVec.ofNat 32 (fracRoot 2 64 p)

/-- SHA-2 with word size `w` and an initial value, cut to `n` bytes. -/
def sha2 (w : Nat) (iv : List (BitVec w)) (n : Nat) (m : Bytes) : Bytes :=
  let ks := consts w
  let hs := (chunks (2 * w) (pad w m)).foldl (compress w ks) iv
  (hs.flatMap fun x => beBytes (w / 8) x.toNat).take n

/-- SHA-224. -/
def sha224 (m : Bytes) : Bytes := sha2 32 init224 28 m
/-- SHA-256. -/
def sha256 (m : Bytes) : Bytes := sha2 32 (init 32) 32 m
/-- SHA-384. -/
def sha384 (m : Bytes) : Bytes := sha2 64 init384 48 m
/-- SHA-512. -/
def sha512 (m : Bytes) : Bytes := sha2 64 (init 64) 64 m

/-! ### Keccak -/

/-- Lane (x, y) of a state of 25 lanes. -/
def lane (s : List (BitVec 64)) (x y : Nat) : BitVec 64 := s.getD (x % 5 + 5 * (y % 5)) 0

/-- One step of the LFSR of ι. -/
def rcStep (r : BitVec 8) : BitVec 8 := (r <<< 1) ^^^ (if r.getLsbD 7 then 0x71 else 0)

/-- The LFSR after `n` steps. -/
def rcAt : Nat → BitVec 8
  | 0 => 1
  | n + 1 => rcStep (rcAt n)

/-- Round constant of round `i`: bit 2^j − 1 is the LFSR's output bit 7i + j. -/
def rc (i : Nat) : BitVec 64 :=
  (List.range 7).foldl (fun a j => if (rcAt (7 * i + j)).getLsbD 0 then a ||| (1 <<< (2 ^ j - 1)) else a) 0

/-- The walk of ρ and π from (1, 0): each lane with its rotation. -/
def rhoPi (s : List (BitVec 64)) : Nat → Nat → Nat → Nat → List (Nat × BitVec 64)
  | 0, _, _, _ => []
  | n + 1, t, x, y =>
    let y' := (2 * x + 3 * y) % 5
    (y + 5 * y', (lane s x y).rotateLeft (((t + 1) * (t + 2) / 2) % 64)) :: rhoPi s n (t + 1) y y'

/-- One round of Keccak-f[1600]. -/
def keccakRound (s : List (BitVec 64)) (c : BitVec 64) : List (BitVec 64) :=
  let col (x : Nat) : BitVec 64 := (List.range 5).foldl (fun a y => a ^^^ lane s x y) 0
  let cols := (List.range 5).map col
  let d (x : Nat) : BitVec 64 := cols.getD ((x + 4) % 5) 0 ^^^ (cols.getD ((x + 1) % 5) 0).rotateLeft 1
  let ds := (List.range 5).map d
  let s1 := (List.range 25).map fun i => s.getD i 0 ^^^ ds.getD (i % 5) 0
  let moved := rhoPi s1 24 0 1 0
  let s2 := (List.range 25).map fun i => if i = 0 then s1.getD 0 0 else
    match moved.find? (fun e => e.1 == i) with | some e => e.2 | none => 0
  let s3 := (List.range 25).map fun i =>
    s2.getD i 0 ^^^ (~~~ lane s2 (i % 5 + 1) (i / 5) &&& lane s2 (i % 5 + 2) (i / 5))
  match s3 with
  | a :: t => (a ^^^ c) :: t
  | [] => []

/-- Keccak-f[1600]. -/
def keccakF (s : List (BitVec 64)) : List (BitVec 64) := ((List.range 24).map rc).foldl keccakRound s

/-- Absorb one block of `rate` bytes. -/
def absorb (s : List (BitVec 64)) (b : Bytes) : List (BitVec 64) :=
  let ws := (chunks 8 b).map fun x => BitVec.ofNat 64 (leNat x)
  keccakF ((List.range 25).map fun i => s.getD i 0 ^^^ ws.getD i 0)

/-- Squeeze `n` blocks of `rate` bytes. -/
def squeeze (rate : Nat) : Nat → List (BitVec 64) → Bytes
  | 0, _ => []
  | n + 1, s => (s.flatMap fun x => leBytes 8 x.toNat).take rate ++ squeeze rate n (keccakF s)

/-- The sponge: rate in bytes, domain byte, output length. -/
def sponge (rate : Nat) (dom : Byte) (n : Nat) (m : Bytes) : Bytes :=
  let z := rate - 1 - m.length % rate
  let p := if z = 0 then m ++ [dom ||| 0x80] else m ++ [dom] ++ List.replicate (z - 1) 0 ++ [0x80]
  let s := (chunks rate p).foldl absorb (List.replicate 25 0)
  (squeeze rate (n / rate + 1) s).take n

/-- SHA3 with an output of `n` bytes. -/
def sha3 (n : Nat) (m : Bytes) : Bytes := sponge (200 - 2 * n) 0x06 n m
/-- SHAKE128. -/
def shake128 (n : Nat) (m : Bytes) : Bytes := sponge 168 0x1F n m
/-- SHAKE256. -/
def shake256 (n : Nat) (m : Bytes) : Bytes := sponge 136 0x1F n m

/-! ### Hash IDs (R233) -/

/-- Digest length of hash ID 1 to 8. -/
def hashLen (id : Nat) : Nat :=
  if id = 1 ∨ id = 5 then 28 else if id = 2 ∨ id = 6 then 32 else if id = 3 ∨ id = 7 then 48 else 64

/-- Block length of hash ID 1 to 8. -/
def hashBlk (id : Nat) : Nat := if id ≤ 2 then 64 else if id ≤ 4 then 128 else 200 - 2 * hashLen id

/-- Digest of hash ID 1 to 8. -/
def hashId (id : Nat) (m : Bytes) : Bytes :=
  if id = 1 then sha224 m else if id = 2 then sha256 m else if id = 3 then sha384 m else if id = 4 then sha512 m
  else sha3 (hashLen id) m

/-! ### HMAC and CRC-32C -/

/-- The chaining state of a hash ID after one block: the chaining value of SHA-2, the sponge of SHA-3. -/
def chainState (id : Nat) (block : Bytes) : Bytes :=
  let words (w : Nat) (iv : List (BitVec w)) : Bytes := (compress w (consts w) iv block).flatMap fun x => beBytes (w / 8) x.toNat
  if id = 1 then words 32 init224 else if id = 2 then words 32 (init 32) else if id = 3 then words 64 init384
  else if id = 4 then words 64 (init 64) else (absorb (List.replicate 25 0) block).flatMap fun x => leBytes 8 x.toNat

/-- The inner and outer chaining states of HMAC after the key blocks. -/
def hmacStates (id : Nat) (key : Bytes) : Bytes :=
  let k := fit (hashBlk id) (if hashBlk id < key.length then hashId id key else key)
  chainState id (k.map (· ^^^ 0x36)) ++ chainState id (k.map (· ^^^ 0x5C))

/-- HMAC over a hash with a block of `blk` bytes. -/
def hmac (h : Bytes → Bytes) (blk : Nat) (key m : Bytes) : Bytes :=
  let k := fit blk (if blk < key.length then h key else key)
  h (k.map (· ^^^ 0x5C) ++ h (k.map (· ^^^ 0x36) ++ m))

/-- HMAC with a hash ID. -/
def hmacId (id : Nat) (key m : Bytes) : Bytes := hmac (hashId id) (hashBlk id) key m

/-- CRC-32C, one byte more (reflected, polynomial 0x82F63B78). -/
def crc32cByte (c : BitVec 32) (b : Byte) : BitVec 32 :=
  (List.range 8).foldl (fun c _ => if c.getLsbD 0 then (c >>> 1) ^^^ 0x82F63B78 else c >>> 1) (c ^^^ b.setWidth 32)

/-- CRC-32C. -/
def crc32c (m : Bytes) : BitVec 32 := ~~~ (m.foldl crc32cByte 0xFFFFFFFF)

end Sys2Proof.Machine.Sha
end

