-- ==== Sys2Proof/Machine/Ecc.lean ====
section
/-!
DEFINITION. Elliptic, Edwards and Montgomery curves (SP 800-186, FIPS 186-5, RFC 7748, RFC 8032), named by R4 and written from
those standards (PRESUMED, log 8). Field elements are natural numbers.
-/
namespace Sys2Proof.Machine.Ecc

/-- The bits of a number below 2^n, most significant first. -/
def bitsOf : Nat → Nat → List Bool
  | 0, _ => []
  | n + 1, k => k.testBit n :: bitsOf n k

/-- `b` to the power `e` modulo `m`, by squaring. -/
def powMod (m b e : Nat) : Nat :=
  (bitsOf (Nat.log2 e + 1) e).foldl (fun acc d => let q := acc * acc % m; if d then q * b % m else q) (1 % m)

/-- Inverse modulo a prime. -/
def invMod (p a : Nat) : Nat := powMod p (a % p) (p - 2)

/-- Subtraction modulo `p` of reduced elements. -/
def subM (p a b : Nat) : Nat := (a + (p - b % p)) % p

/-! ### Weierstrass curves -/

/-- A curve y² = x³ − 3x + b over a prime field, with a base point of prime order `n`; `len` is the coordinate length p of
R312. -/
structure Curve where
  p : Nat
  b : Nat
  gx : Nat
  gy : Nat
  n : Nat
  len : Nat

/-- P-224. -/
def p224 : Curve :=
  { p := 2 ^ 224 - 2 ^ 96 + 1
    b := 0xb4050a850c04b3abf54132565044b0b7d7bfd8ba270b39432355ffb4
    gx := 0xb70e0cbd6bb4bf7f321390b94a03c1d356c21122343280d6115c1d21
    gy := 0xbd376388b5f723fb4c22dfe6cd4375a05a07476444d5819985007e34
    n := 0xffffffffffffffffffffffffffff16a2e0b8f03e13dd29455c5c2a3d
    len := 28 }

/-- P-256. -/
def p256 : Curve :=
  { p := 2 ^ 256 - 2 ^ 224 + 2 ^ 192 + 2 ^ 96 - 1
    b := 0x5ac635d8aa3a93e7b3ebbd55769886bc651d06b0cc53b0f63bce3c3e27d2604b
    gx := 0x6b17d1f2e12c4247f8bce6e563a440f277037d812deb33a0f4a13945d898c296
    gy := 0x4fe342e2fe1a7f9b8ee7eb4a7c0f9e162bce33576b315ececbb6406837bf51f5
    n := 0xffffffff00000000ffffffffffffffffbce6faada7179e84f3b9cac2fc632551
    len := 32 }

/-- P-384. -/
def p384 : Curve :=
  { p := 2 ^ 384 - 2 ^ 128 - 2 ^ 96 + 2 ^ 32 - 1
    b := 0xb3312fa7e23ee7e4988e056be3f82d19181d9c6efe8141120314088f5013875ac656398d8a2ed19d2a85c8edd3ec2aef
    gx := 0xaa87ca22be8b05378eb1c71ef320ad746e1d3b628ba79b9859f741e082542a385502f25dbf55296c3a545e3872760ab7
    gy := 0x3617de4a96262c6f5d9e98bf9292dc29f8f41dbd289a147ce9da3113b5f0b8c00a60b1ce1d7e819d7a431d7c90ea0e5f
    n := 0xffffffffffffffffffffffffffffffffffffffffffffffffc7634d81f4372ddf581a0db248b0a77aecec196accc52973
    len := 48 }

/-- P-521. -/
def p521 : Curve :=
  { p := 2 ^ 521 - 1
    b := 0x0051953eb9618e1c9a1f929a21a0b68540eea2da725b99b315f3b8b489918ef109e156193951ec7e937b1652c0bd3bb1bf073573df883d2c34f1ef451fd46b503f00
    gx := 0x00c6858e06b70404e9cd9e3ecb662395b4429c648139053fb521f828af606b4d3dbaa14b5e77efe75928fe1dc127a2ffa8de3348b3c1856a429bf97e7e31c2e5bd66
    gy := 0x011839296a789a3bc0045c8a5fb42c7d1bd998f54449579b446817afbd17273e662c97ee72995ef42640c550b9013fad0761353c7086a272c24088be94769fd16650
    n := 2 ^ 521 - 2 ^ 264 + 0xfa51868783bf2f966b7fcc0148f709a5d03bb5c9b8899c47aebb6fb71e91386409
    len := 66 }

/-- The Weierstrass curve of a curve code of R156. -/
def curve (sub : Nat) : Curve :=
  if sub = 1 then p224 else if sub = 2 then p256 else if sub = 3 then p384 else p521

/-- A point, none at infinity. -/
abbrev Pt := Option (Nat × Nat)

/-- The point satisfies the curve's equation with reduced coordinates. -/
def Curve.on (c : Curve) (x y : Nat) : Bool :=
  decide (x < c.p) && decide (y < c.p) && y * y % c.p == (x * x * x + (c.p - 3) * x + c.b) % c.p

/-- Sum of two points. -/
def Curve.add (c : Curve) : Pt → Pt → Pt
  | none, q => q
  | p, none => p
  | some (x1, y1), some (x2, y2) =>
    if x1 = x2 ∧ (y1 + y2) % c.p = 0 then none
    else
      let l := if x1 = x2 then (3 * x1 * x1 + (c.p - 3)) * invMod c.p (2 * y1) % c.p
        else subM c.p y2 y1 * invMod c.p (subM c.p x2 x1) % c.p
      let x3 := subM c.p (l * l % c.p) (x1 + x2)
      some (x3, subM c.p (l * subM c.p x1 x3 % c.p) y1)

/-- Scalar multiple of a point. -/
def Curve.mul (c : Curve) (k : Nat) (g : Pt) : Pt :=
  (bitsOf (Nat.log2 k + 1) k).foldl (fun acc d => let q := c.add acc acc; if d then c.add q g else q) none

/-- Base point. -/
def Curve.g (c : Curve) : Pt := some (c.gx, c.gy)

/-- Uncompressed encoding of a point (R312). -/
def Curve.encode (c : Curve) : Pt → Bytes
  | none => []
  | some (x, y) => [0x04] ++ beBytes c.len x ++ beBytes c.len y

/-- Decoding with the checks of R320: the form, reduced coordinates, on the curve. -/
def Curve.decode (c : Curve) (b : Bytes) : Option (Nat × Nat) :=
  let x := beAt b 1 c.len
  let y := beAt b (1 + c.len) c.len
  if b.length = 1 + 2 * c.len ∧ byteAt b 0 = 0x04 ∧ c.on x y then some (x, y) else none

/-- The integer that ECDSA takes from a digest: its leading bits, as many as the order has. -/
def Curve.hashInt (c : Curve) (d : Bytes) : Nat :=
  let nb := Nat.log2 c.n + 1
  let v := beNat d
  if nb < 8 * d.length then v / 2 ^ (8 * d.length - nb) else v

/-- ECDSA signature (r, s) with nonce `k`; none where r or s is 0. -/
def Curve.sign (c : Curve) (d k : Nat) (digest : Bytes) : Option (Nat × Nat) :=
  match c.mul k c.g with
  | none => none
  | some (x, _) =>
    let r := x % c.n
    let s := invMod c.n k * (c.hashInt digest + r * d) % c.n
    if r = 0 ∨ s = 0 then none else some (r, s)

/-- ECDSA verification. -/
def Curve.verify (c : Curve) (q : Nat × Nat) (digest : Bytes) (r s : Nat) : Bool :=
  if r = 0 ∨ s = 0 ∨ c.n ≤ r ∨ c.n ≤ s then false
  else
    let w := invMod c.n s
    match c.add (c.mul (c.hashInt digest * w % c.n) c.g) (c.mul (r * w % c.n) (some q)) with
    | none => false
    | some (x, _) => x % c.n == r

/-! ### Montgomery ladders (RFC 7748) -/

/-- Registers of the ladder. -/
structure Ladder where
  x2 : Nat
  z2 : Nat
  x3 : Nat
  z3 : Nat

/-- One step of the ladder for a scalar bit. -/
def ladderStep (p a24 x1 : Nat) (l : Ladder) (d : Bool) : Ladder :=
  let l : Ladder := if d then ⟨l.x3, l.z3, l.x2, l.z2⟩ else l
  let a := (l.x2 + l.z2) % p
  let b := subM p l.x2 l.z2
  let c := (l.x3 + l.z3) % p
  let e := subM p l.x3 l.z3
  let da := e * a % p
  let cb := c * b % p
  let aa := a * a % p
  let bb := b * b % p
  let f := subM p aa bb
  let s := (da + cb) % p
  let t := subM p da cb
  let r : Ladder := ⟨aa * bb % p, f * ((aa + a24 * f) % p) % p, s * s % p, x1 * (t * t % p) % p⟩
  if d then ⟨r.x3, r.z3, r.x2, r.z2⟩ else r

/-- Scalar multiplication on the u coordinate, over `n` scalar bits. -/
def ladder (p a24 n k u : Nat) : Nat :=
  let r := (bitsOf n k).foldl (ladderStep p a24 (u % p)) ⟨1, 0, u % p, 1⟩
  r.x2 * invMod p r.z2 % p

/-- The prime of Curve25519. -/
def q25519 : Nat := 2 ^ 255 - 19

/-- The prime of Curve448. -/
def q448 : Nat := 2 ^ 448 - 2 ^ 224 - 1

/-- X25519 on 32-byte strings. -/
def x25519 (k u : Bytes) : Bytes :=
  let v := leNat k
  let s := (v % 2 ^ 254) / 8 * 8 + 2 ^ 254
  leBytes 32 (ladder q25519 121665 255 s (leNat u % 2 ^ 255))

/-- X448 on 56-byte strings. -/
def x448 (k u : Bytes) : Bytes :=
  let s := (leNat k % 2 ^ 447) / 4 * 4 + 2 ^ 447
  leBytes 56 (ladder q448 39081 448 s (leNat u))

/-! ### Edwards curves (RFC 8032) -/

/-- A curve a x² + y² = 1 + d x² y². -/
structure Edw where
  p : Nat
  a : Nat
  d : Nat
  bx : Nat
  by' : Nat
  l : Nat
  /-- encoding length E -/
  len : Nat
  /-- log2 of the cofactor -/
  c : Nat

/-- Edwards25519. -/
def ed25519 : Edw :=
  { p := q25519, a := q25519 - 1, d := (q25519 - 121665) * invMod q25519 121666 % q25519
    bx := 15112221349535400772501151409588531511454012693041857206046113283949847762202
    by' := 4 * invMod q25519 5 % q25519
    l := 2 ^ 252 + 27742317777372353535851937790883648493, len := 32, c := 3 }

/-- Edwards448. -/
def ed448 : Edw :=
  { p := q448, a := 1, d := q448 - 39081
    bx := 224580040295924300187604334099896036246789641632564134246125461686950415467406032909029192869357953282578032075146446173674602635247710
    by' := 298819210078481492676017930443930673437544040154080242095928241372331506189835876003536878655418784733982303233503462500531545062832660
    l := 2 ^ 446 - 13818066809895115352007386748515426880336692474882178609894547503885, len := 57, c := 2 }

/-- A point in projective coordinates. -/
structure EPt where
  x : Nat
  y : Nat
  z : Nat

/-- Sum of two points. -/
def Edw.add (e : Edw) (s t : EPt) : EPt :=
  let p := e.p
  let a := s.z * t.z % p
  let b := a * a % p
  let c := s.x * t.x % p
  let d := s.y * t.y % p
  let k := e.d * (c * d % p) % p
  let f := subM p b k
  let g := (b + k) % p
  let m := subM p ((s.x + s.y) * (t.x + t.y) % p) (c + d)
  ⟨a * f % p * m % p, a * g % p * subM p d (e.a * c % p) % p, f * g % p⟩

/-- Scalar multiple. -/
def Edw.mul (e : Edw) (k : Nat) (s : EPt) : EPt :=
  (bitsOf (Nat.log2 k + 1) k).foldl (fun acc d => let q := e.add acc acc; if d then e.add q s else q) ⟨0, 1, 1⟩

/-- Base point. -/
def Edw.base (e : Edw) : EPt := ⟨e.bx, e.by', 1⟩

/-- Encoding: y little-endian, the sign of x in the top bit. -/
def Edw.encode (e : Edw) (s : EPt) : Bytes :=
  let zi := invMod e.p s.z
  let x := s.x * zi % e.p
  let y := s.y * zi % e.p
  leBytes e.len (y + (x % 2) * 2 ^ (8 * e.len - 1))

/-- A square root modulo p, where one exists. -/
def Edw.sqrt (e : Edw) (v : Nat) : Option Nat :=
  let p := e.p
  let r := if p % 4 = 3 then powMod p v ((p + 1) / 4) else powMod p v ((p + 3) / 8)
  if r * r % p = v % p then some r
  else
    let r2 := r * powMod p 2 ((p - 1) / 4) % p
    if r2 * r2 % p = v % p then some r2 else none

/-- Decoding; none where the string is no point. -/
def Edw.decode (e : Edw) (b : Bytes) : Option EPt :=
  let v := leNat (fit e.len b)
  let y := v % 2 ^ (8 * e.len - 1)
  let sign := v / 2 ^ (8 * e.len - 1)
  if b.length ≠ e.len ∨ e.p ≤ y then none
  else
    let u := subM e.p (y * y % e.p) 1
    let w := subM e.p (e.d * (y * y % e.p) % e.p) e.a
    match e.sqrt (u * invMod e.p w % e.p) with
    | none => none
    | some x =>
      if x = 0 ∧ sign = 1 then none
      else some ⟨if x % 2 = sign then x else e.p - x, y, 1⟩

/-- Equality of projective points. -/
def Edw.eq (e : Edw) (s t : EPt) : Bool :=
  s.x * t.z % e.p == t.x * s.z % e.p && s.y * t.z % e.p == t.y * s.z % e.p

/-- The hash of the scheme: SHA-512, or SHAKE256 with the prefix of the context. -/
def Edw.hash (e : Edw) (ctx m : Bytes) : Bytes :=
  if e.len = 32 then Sha.sha512 m
  else Sha.shake256 114 (ascii "SigEd448" ++ [0, BitVec.ofNat 8 ctx.length] ++ ctx ++ m)

/-- The hash of a private key, without a prefix. -/
def Edw.keyHash (e : Edw) (k : Bytes) : Bytes := if e.len = 32 then Sha.sha512 k else Sha.shake256 114 k

/-- The secret scalar of a private key. -/
def Edw.scalar (e : Edw) (k : Bytes) : Nat :=
  let h := leNat ((e.keyHash k).take e.len)
  if e.len = 32 then (h % 2 ^ 254) / 8 * 8 + 2 ^ 254 else (h % 2 ^ 447) / 4 * 4 + 2 ^ 447

/-- The public key. -/
def Edw.pub (e : Edw) (k : Bytes) : Bytes := e.encode (e.mul (e.scalar k) e.base)

/-- Signature. -/
def Edw.sign (e : Edw) (k ctx m : Bytes) : Bytes :=
  let a := e.pub k
  let r := leNat (e.hash ctx ((e.keyHash k).drop e.len ++ m)) % e.l
  let rp := e.encode (e.mul r e.base)
  let h := leNat (e.hash ctx (rp ++ a ++ m)) % e.l
  rp ++ leBytes e.len ((r + h * e.scalar k) % e.l)

/-- Verification, multiplied by the cofactor. -/
def Edw.verify (e : Edw) (a : EPt) (pub ctx m sig : Bytes) : Bool :=
  let s := leNat (slice sig e.len e.len)
  match e.decode (sig.take e.len) with
  | none => false
  | some r =>
    if e.l ≤ s then false
    else
      let h := leNat (e.hash ctx (sig.take e.len ++ pub ++ m)) % e.l
      e.eq (e.mul (2 ^ e.c * s) e.base) (e.mul (2 ^ e.c) (e.add r (e.mul h a)))

/-- The public key of a private key of a curve code of R156, in the encoding of R312. -/
def publicKey (sub : Nat) (k : Bytes) : Bytes :=
  if sub ≤ 4 then (curve sub).encode ((curve sub).mul (beNat k) (curve sub).g)
  else if sub = 5 then ed25519.pub k
  else if sub = 6 then ed448.pub k
  else if sub = 7 then x25519 k (leBytes 32 9)
  else x448 k (leBytes 56 5)

/-- Length of a private key of a curve code (R156). -/
def keyLen (sub : Nat) : Nat :=
  if sub = 1 then 28 else if sub = 2 then 32 else if sub = 3 then 48 else if sub = 4 then 66
  else if sub = 5 then 32 else if sub = 6 then 57 else if sub = 7 then 32 else 56

end Sys2Proof.Machine.Ecc
end

