-- ==== Sys2Proof/Machine/Queues.lean ====
section
/-!
DEFINITION. Queue pairs: set-up registers, doorbells, descriptor fetch, completion entries and interrupt coalescing
(R88 to R111, R128 to R133).
-/
namespace Sys2Proof.Machine

/-! ### Selection and set-up (R91 to R98) -/

/-- DRAINED: no descriptor in flight and every entry written released (R91). -/
def Queue.drained (q : Queue) : Bool := q.inFlight == 0 && q.unreleased == 0

/-- The function and the queue that a page's selector names: page 0 is the PF's QMGR, page n VFn's VFREG (R91, R92). -/
def State.selected (s : State) (page : Nat) : Nat × Nat :=
  if page = 0 then (s.qmgr.qselF, s.qmgr.qselQ) else (page, (s.fnOf page).qsel)

/-- Function `f` holds its local queue `q` (R88). -/
def State.holdsQueue (s : State) (f q : Nat) : Bool := decide (q < (s.fnOf f).queues)

/-- Set a bit of the error register of a page (R91, R92). -/
def State.queueError (page bit : Nat) (s : State) : State :=
  if page = 0 then { s with qmgr := { s.qmgr with error := s.qmgr.error ||| BitVec.ofNat 7 (2 ^ bit) } }
  else s.modFn page fun n => { n with qerr := n.qerr ||| BitVec.ofNat 7 (2 ^ bit) }

/-- A register page answers: the PF's always outside legacy mode, a VF's while the VF exists and is not under reset
(R81, R85, R90). -/
def State.pageOpen (s : State) (page : Nat) : Bool :=
  !s.chip.legacy && s.exists? page && !(s.fnOf page).flr

/-- A write to a context register of the selected queue: dropped with RANGE where the function does not hold it (R93), else
`act` is applied. -/
def State.onSelected (page : Nat) (act : Nat → Nat → State → State) (s : State) : State :=
  if ¬ s.pageOpen page then s
  else
    let (f, q) := s.selected page
    if s.holdsQueue f q then act f q s else s.queueError page 5

/-- The context registers are writable only while ENABLE is 0 and DRAINED is 1; otherwise the write is dropped with CTX_BUSY
(R94). -/
def State.onIdle (page : Nat) (act : Nat → Nat → State → State) (s : State) : State :=
  s.onSelected page fun f q s =>
    if (s.queueOf f q).enable ∨ ¬ (s.queueOf f q).drained then s.queueError page 4 else act f q s

/-- A legal DEPTH: a power of two from 2 to 65,536 (R89). -/
def depthOk (n : Nat) : Bool := (List.range 16).any fun i => n == 2 ^ (i + 1)

/-- The new value of a context register (R91, R94); a refused value sets its error bit. -/
def State.putContext (page : Nat) (reg : CtxReg) (v : BitVec 32) (f q : Nat) (s : State) : State :=
  let lo (b : BitVec 64) : BitVec 64 := b.extractLsb' 32 32 ++ v
  let hi (b : BitVec 64) : BitVec 64 := v ++ b.extractLsb' 0 32
  match reg with
  | .sqLo => if bits v 5 0 ≠ 0 then s.queueError page 2 else s.modQueue f q fun c => { c with sqBase := lo c.sqBase }
  | .sqHi => s.modQueue f q fun c => { c with sqBase := hi c.sqBase }
  | .cqLo => if bits v 5 0 ≠ 0 then s.queueError page 2 else s.modQueue f q fun c => { c with cqBase := lo c.cqBase }
  | .cqHi => s.modQueue f q fun c => { c with cqBase := hi c.cqBase }
  | .depth =>
    if depthOk (bits v 16 0) then s.modQueue f q fun c => { c with depth := bits v 16 0 } else s.queueError page 1
  | .coal => s.modQueue f q fun c => { c with coalCount := bits v 7 0, coalTime := bits v 25 16 }

/-- QUEUE_CONTEXT_WRITE (R93, R94). The read-only registers Q_STATUS, Q_PTRS and Q_DOORS are none of these: a write to them changes nothing,
and through a selector out of range it sets no RANGE (DESIGN CHOICE, log 55). -/
def execQueueContextWrite (page : BitVec 8) (reg : CtxReg) (value : BitVec 32) (s : State) : Out :=
  .next (s.onIdle page.toNat (State.putContext page.toNat reg value))

/-- Completion vectors of a function (R78, R95). -/
def vectorOk (f v : Nat) : Bool := if f = 0 then decide (257 ≤ v) && decide (v ≤ 2047) else decide (1 ≤ v) && decide (v ≤ 63)

/-- Q_VECTOR_WRITE (R95). -/
def execQVectorWrite (page : BitVec 8) (value : BitVec 32) (s : State) : Out :=
  .next (s.onIdle page.toNat fun f q s =>
    let en := value.getLsbD 31
    let v := bits value 10 0
    if en ∧ ¬ vectorOk f v then s.queueError page.toNat 3
    else s.modQueue f q fun c => { c with vector := v, vecEn := en })

/-- QUEUE_ENABLE (R97): a disabled, drained queue with a DEPTH starts with fresh indices; enabling an enabled queue does
nothing. -/
def execQueueEnable (page : BitVec 8) (s : State) : Out :=
  .next (s.onSelected page.toNat fun f q s =>
    let c := s.queueOf f q
    if c.enable then s
    else if ¬ c.drained then s.queueError page.toNat 4
    else if c.depth = 0 then s.queueError page.toNat 6
    else s.modQueue f q fun c => { c with
      enable := true, sqHead := 0, cqTail := 0, sqTail := 0, cqHead := 0, phase := true, broken := false, cause := 0,
      inFlight := 0, unreleased := 0, reads := [], nextSeq := 0, pendIrq := 0, timer := false })

/-- The descriptor reads under way for a queue are given up: nothing they return counts as fetched (R98, R100, R104). The spec does not say
what becomes of a read issued before the queue stopped (DESIGN CHOICE, log 55). -/
def State.dropReads (f q : Nat) (s : State) : State :=
  let n := (s.queueOf f q).reads.length
  State.modQueue f q (fun c => { c with reads := [] }) { s with link := { s.link with readsOut := s.link.readsOut - n } }

/-- QUEUE_DISABLE (R98): fetching stops at once; descriptors fetched run on. -/
def execQueueDisable (page : BitVec 8) (s : State) : Out :=
  .next (s.onSelected page.toNat fun f q s => (s.dropReads f q).modQueue f q fun c => { c with enable := false })

/-- QSEL_WRITE (R93): the selector takes the value; naming a queue that the function does not hold sets RANGE. -/
def execQselWrite (page : BitVec 8) (value : BitVec 32) (s : State) : Out :=
  .next (
    let p := page.toNat
    if ¬ s.pageOpen p then s
    else
      let s := if p = 0 then { s with qmgr := { s.qmgr with qselQ := bits value 11 0, qselF := bits value 23 16 } }
        else s.modFn p fun n => { n with qsel := bits value 11 0 }
      let (f, q) := s.selected p
      if s.holdsQueue f q then s else s.queueError p 5)

/-- The queues of `f` from `lo` up to `hi` are disabled and drained. -/
def State.idleQueues (s : State) (f lo hi : Nat) : Bool :=
  (trange (queueKey f lo) (queueKey f hi) s.queues).all fun e => !e.2.enable && e.2.drained

/-- FUNC_QUEUES_WRITE (R96): a new count for the selected function, or ALLOC_REFUSED. -/
def execFuncQueuesWrite (value : BitVec 32) (s : State) : Out :=
  .next (s.onBar fun s =>
    if s.chip.legacy then s
    else
      let f := s.qmgr.funcSel
      let old := (s.fnOf f).queues
      let n := bits value 12 0
      if 4096 < n ∨ s.qmgr.poolFree + old < n ∨ ¬ s.idleQueues f n old then s.queueError 0 0
      else
        let s := s.modFn f fun x => { x with queues := n }
        { s with qmgr := { s.qmgr with poolFree := s.qmgr.poolFree + old - n }
                 queues := tclear (queueKey f n) (queueKey f old) s.queues })

/-! ### Doorbells (R68 to R70, R99 to R105) -/

/-- A dropped doorbell write is logged (R69, R515). -/
def State.dropDoorbell (f q : Nat) (s : State) : State := s.log 0x0003 0x10 ([BitVec.ofNat 8 f] ++ leBytes 2 q)

/-- A queue breaks: it stops fetching, sets BROKEN and CAUSE, signals vector 0 and logs the event (R104). -/
def State.breakQueue (f q cause : Nat) (s : State) : State :=
  (((s.dropReads f q).modQueue f q fun c => { c with broken := true, cause := cause }).signal f 0).log 0x0004 0x10
    ([BitVec.ofNat 8 f] ++ leBytes 2 q ++ [BitVec.ofNat 8 cause])

/-- Doorbell writes reach the queue engine: BAR2 is there, which legacy mode has not, the function exists and is not under reset (R65, R82,
R85). -/
def State.doorbellOpen (s : State) (f : Nat) : Bool := !s.chip.legacy && s.exists? f && !(s.fnOf f).flr

/-- One submission half (R69, R99, R104). -/
def State.sqHalf (f q v : Nat) (s : State) : State :=
  let c := s.queueOf f q
  if ¬ s.holdsQueue f q ∨ ¬ c.enable ∨ c.broken then s.dropDoorbell f q
  else if c.depth ≤ v then s.breakQueue f q 1
  else if (v + c.depth - c.sqHead) % c.depth < (c.sqTail + c.depth - c.sqHead) % c.depth then s.breakQueue f q 5
  else s.modQueue f q fun c => { c with sqTail := v }

/-- Send the queue's message and clear its pending interrupts (R132). -/
def State.queueMessage (f q : Nat) (s : State) : State :=
  (s.modQueue f q fun c => { c with pendIrq := 0, timer := false }).signal f (s.queueOf f q).vector

/-- An invalid completion value: a broken queue drops and logs it, a disabled one drops, logs and breaks, an enabled one
breaks (R98, R104, R105). -/
def State.badHead (f q cause : Nat) (s : State) : State :=
  let c := s.queueOf f q
  if c.broken then s.dropDoorbell f q
  else if c.enable then s.breakQueue f q cause
  else (s.dropDoorbell f q).breakQueue f q cause

/-- One completion half (R98, R101, R104, R105); releasing every entry written sends a pending message (R133). -/
def State.cqHalf (f q v : Nat) (s : State) : State :=
  let c := s.queueOf f q
  if ¬ s.holdsQueue f q ∨ ((¬ c.enable ∨ c.broken) ∧ c.drained) then s.dropDoorbell f q
  else if c.depth ≤ v then s.badHead f q 2
  else
    let n := (v + c.depth - c.cqHead) % c.depth
    if c.unreleased < n then s.badHead f q 3
    else
      let s := s.modQueue f q fun c => { c with cqHead := v, unreleased := c.unreleased - n }
      if c.unreleased = n ∧ c.pendIrq ≠ 0 then s.queueMessage f q else s

/-- CQ_DOORBELL (R58, R101, R104). -/
def execCqDoorbell (fn : BitVec 8) (queue : BitVec 12) (value : BitVec 16) (s : State) : Out :=
  .next (
    let s := s.leaveL1
    if s.doorbellOpen fn.toNat then s.cqHalf fn.toNat queue.toNat value.toNat else s)

/-- SQ_DOORBELL (R58, R99, R70): an 8-byte write brings a completion half, which is applied first; where it breaks the queue the
submission half is discarded with it. -/
def execSqDoorbell (fn : BitVec 8) (queue : BitVec 12) (value : BitVec 16) (head : Option (BitVec 16)) (s : State) : Out :=
  .next (
    let f := fn.toNat
    let q := queue.toNat
    let s := s.leaveL1
    if ¬ s.doorbellOpen f then s
    else
      match head with
      | none => s.sqHalf f q value.toNat
      | some h =>
        let t := s.cqHalf f q h.toNat
        if ¬ (s.queueOf f q).broken ∧ (t.queueOf f q).broken then t else t.sqHalf f q value.toNat)

/-! ### Fetch (R100, R107) -/

/-- Descriptors whose read is under way. -/
def Queue.coming (c : Queue) : Nat := (c.reads.map (·.2)).sum

/-- The largest number of reads outstanding in the tag mode (R56). -/
def TagMode.limit : TagMode → Nat
  | .basic => 32
  | .ext => 256
  | .tenBit => 512

/-- The queue engine fetches at all: it is in service, start-up has ended, no Quench runs, the PF is in D0, not legacy mode (R27, R63,
R90, R434, R475). -/
def State.fetches (s : State) : Bool :=
  s.chip.engineOn && !s.quenching && !s.link.d3hot && !s.chip.legacy && s.pins.mainPower && !(s.blockOf 0x10).out

/-- How many descriptors the next read of a queue carries: the most that R100 allows (DESIGN CHOICE, log 55), at most 8 (512 bytes) and Max_Read_Request_Size, up to the tail and
the end of the ring, and within the credit of R107. -/
def State.fetchCount (s : State) (c : Queue) : Nat :=
  let next := (c.sqHead + c.coming) % c.depth
  let avail := (c.sqTail + c.depth - next) % c.depth
  min (min (min 8 (s.link.maxRead / 64)) (min avail (c.depth - next)))
    (c.depth - 1 - (c.inFlight + c.unreleased + c.coming))

/-! ### Completion (R102, R106, R128 to R133) -/

/-- Statuses that the recorder counts (R130). -/
def counted (status : Nat) : Bool := status != 0 && status != 1 && status != 0x0501

/-- The record of a counted completion (R130, R515): event 0x0002 for PLAN_RUN, with the plan ID and the error word (R267). -/
def State.recordStatus (o : Op) (s : State) : State :=
  if ¬ counted o.status.toNat then s
  else if o.opcode = 0x0300 then s.log 0x0002 0x10 (leBytes 2 (dPlan o.desc) ++ leBytes 4 o.errWord.toNat)
  else s.log 0x0001 0x10 (leBytes 2 o.status.toNat ++ leBytes 2 o.opcode ++ [BitVec.ofNat 8 o.fn] ++ leBytes 4 o.detail.toNat)

/-- Rate class of an operation that a block completed (R33, R278), none for the classes that are counted elsewhere. -/
def rateClass (o : Op) : Option Nat :=
  if 2 < o.opcode / 256 ∧ o.opcode ≠ 0x0300 ∧ o.opcode / 256 ≠ 4 then none
  else if o.opcode = 0x0300 then some 3
  else if o.opcode / 256 = 4 then some 4
  else if o.block ≤ 3 then some 0
  else if o.block = 4 then some 1
  else if o.block = 5 ∨ o.block = 6 then some 2
  else none

/-- An interrupt of the queue becomes pending; at COUNT the message leaves, else the timer runs (R131, R132). -/
def State.raiseIrq (f q : Nat) (s : State) : State :=
  let c := s.queueOf f q
  let n := c.pendIrq + 1
  if c.coalCount ≤ n then (s.modQueue f q fun c => { c with pendIrq := n }).queueMessage f q
  else s.modQueue f q fun c => { c with pendIrq := n, timer := c.timer || decide (c.coalTime ≠ 0) }

/-- An operation that completed with ST_OK or ST_OK_NOTE. -/
def Op.succeeded (o : Op) : Bool := o.status == 0 || o.status == 1

/-- Count a completed operation in its rate class and in that of host DMA (R33). The spec does not say which bytes count: the model takes
the DLEN of the operations that completed with ST_OK or ST_OK_NOTE, and DLEN and OUT_LEN for host DMA (DESIGN CHOICE, log 55). The bytes of
class 5 are those that generate requests give (R350), counted there. -/
def State.rateOp (o : Op) (s : State) : State :=
  if ¬ o.succeeded then s
  else
    let s := match rateClass o with
      | some k => s.countRate k 1 (if k = 5 then 0 else dDlen o.desc)
      | none => s
    let n := dDlen o.desc + o.outLen
    if n = 0 then s else s.countRate 7 1 n

/-- Write the completion entry of a finished operation at entry CQ_TAIL of its completion ring (R89, R102, R103, R106, R107). -/
def State.writeCompletion (o : Op) (s : State) : State :=
  let c := s.queueOf o.fn o.queue
  let s := s.emit (.completion o.fn o.queue (c.cqBase + BitVec.ofNat 64 (32 * c.cqTail)) (completionEntry o c.sqHead c.phase))
  let wrap := decide (c.depth ≤ c.cqTail + 1)
  let s := s.modQueue o.fn o.queue fun c => { c with
    cqTail := if wrap then 0 else c.cqTail + 1, phase := if wrap then !c.phase else c.phase,
    inFlight := c.inFlight - 1, unreleased := c.unreleased + 1 }
  let s := { s with engine := { s.engine with tasks := s.engine.tasks.filter fun p => p.id != o.id } }
  let s := (s.recordStatus o).rateOp o
  if dIrq o.desc ∧ c.vecEn then s.raiseIrq o.fn o.queue else s

/-- OPERATION_COMPLETION (R106): the entry of a finished operation is written when its flags allow. -/
def execOperationCompletion (op : Nat) (s : State) : Out :=
  .next (
    match s.opOf op with
    | some o => if s.mayComplete o then s.writeCompletion o else s
    | none => s)

/-- COALESCE_TIMER (R132): TIME µs have passed since the first pending interrupt. -/
def execCoalesceTimer (fn : BitVec 8) (queue : BitVec 12) (s : State) : Out :=
  .next (
    let c := s.queueOf fn.toNat queue.toNat
    if c.timer ∧ c.pendIrq ≠ 0 then s.queueMessage fn.toNat queue.toNat else s)

/-- NOP (R119): completes with ST_OK as soon as its flags and earlier barriers allow. -/
def execNop (op : Nat) (s : State) : Out :=
  .next (
    match s.opOf op with
    | some o => if o.opcode = 0x0800 ∧ o.stage = .qengine ∧ s.mayStart o then s.finish op 0 0 0 [] else s
    | none => s)

/-- FENCE (R119): completes with ST_OK once all earlier descriptors of its queue have their completion entries. -/
def execFence (op : Nat) (s : State) : Out :=
  .next (
    match s.opOf op with
    | some o => if o.opcode = 0x0801 ∧ o.stage = .qengine ∧ (s.earlier o).isEmpty then s.finish op 0 0 0 [] else s
    | none => s)

/-! ### Failed reads (R83, R100, R104, R127) -/

/-- DETAIL[3:0] of a failed read of an operation (R127). -/
def opReadCode : OpRead → Nat
  | .source => 1
  | .srcList => 2
  | .dstList => 3
  | .params => 4

/-- The order in which the device issues the reads of an operation (R127). -/
def opReadOrder (code : Nat) : Nat := if code = 1 then 5 else code

/-- Another read of an operation failed that a first failed read has ended: DETAIL gives the first of them in the order of R127, until the
completion entry is written. Only reads that were issued fail: those of an operation that a block has taken. -/
def State.alsoFailed (o : Op) (code : Nat) (s : State) : State :=
  if o.ran ∧ o.status = 0x0801 ∧ opReadOrder code < opReadOrder o.detail.toNat then
    s.modOp o.id fun o => { o with detail := BitVec.ofNat 32 code }
  else s

/-- A DMA read failed: a descriptor read breaks its queue with CAUSE 4, a read of an operation ends it with ST_HOST_MEMORY_ERROR, after
source data with what it had streamed (R100, R126, R127). -/
def State.readFailed (read : DmaRead) (err : AerErr) (s : State) : State :=
  match read with
  | .descriptors fn queue =>
    let f := fn.toNat
    let q := queue.toNat
    if (s.queueOf f q).reads = [] then s else (s.logAer f err).breakQueue f q 4
  | .ofOp op what =>
    match s.opOf op with
    | some o =>
      if o.stage = .qengine then s
      else if o.stage = .done then (s.logAer o.fn err).alsoFailed o (opReadCode what)
      else if what = .source then (s.logAer o.fn err).stopOp op 0x0801 1
      else (s.logAer o.fn err).fail op 0x0801 (opReadCode what)
    | none => s

/-- DMA_COMPLETION_TIMEOUT (R83). -/
def execDmaCompletionTimeout (read : DmaRead) (s : State) : Out := .next (s.readFailed read .completionTimeout)

/-- The AER error of a failed read (R83). -/
def readErr : ReadError → AerErr
  | .unsupported => .unsupportedCompletion
  | .abort => .completerAbort
  | .poisoned => .poisoned

/-- DMA_READ_ERROR (R83, R127). -/
def execDmaReadError (read : DmaRead) (err : ReadError) (s : State) : Out := .next (s.readFailed read (readErr err))

end Sys2Proof.Machine
end

