-- ==== Sys2Proof/Machine/Recorder.lean ====
section
/-!
DEFINITION. The recorder: the event queue's commits, operating seconds, the reading cursors (R510 to R523).
-/
namespace Sys2Proof.Machine

/-- The key of the running record that SEQ `q` replaces, above the origin area (R517). -/
def replaced (q : Nat) : Option Nat := if 1024 + 16384 < q then some (q - 16384) else none

/-- The newest record held. -/
def State.newestRecord (s : State) : Record := tget {} s.store.records s.store.newest

/-- CODE, SOURCE and PARAM of two records are equal (R518). -/
def Record.same (a b : Record) : Bool := a.code == b.code && a.source == b.source && a.param == b.param

/-- Commit one record: REPEAT of an equal newest record is counted in place while it is below 65,535, otherwise the record
takes the next SEQ (R517, R518). The words written are counted (R533): three in place, six for a new record. -/
def State.commitRecord (r : Record) (s : State) : State :=
  let n := s.newestRecord
  if s.store.newest ≠ 0 ∧ n.same r ∧ n.rpt < 65535 then
    State.countWrites 2 3 { s with store := { s.store with
      records := tset {} s.store.newest { n with rpt := n.rpt + 1 } s.store.records } }
  else
    let q := s.store.newest + 1
    let kept := match replaced q with
      | some o => tset {} o {} s.store.records
      | none => s.store.records
    State.countWrites 2 6 { s with store := { s.store with newest := q, records := tset {} q r kept } }

/-- Take the oldest record of the event queue and commit it. -/
def State.commitNext (s : State) : State :=
  match s.store.queue with
  | [] => s
  | r :: rest => State.commitRecord r { s with store := { s.store with queue := rest } }

/-- Once the queue has room again, event 0x1503 reports the records dropped (R516). -/
def State.reportDropped (s : State) : State :=
  if s.store.dropped = 0 ∨ 256 ≤ s.store.queue.length then s
  else
    let n := s.store.dropped
    State.log 0x1503 0xF3 (leBytes 4 n) { s with store := { s.store with dropped := 0 } }

/-- Operating seconds and write counters are committed to the control area (R520, R533): one word of seconds and the six
counters. -/
def State.commitSeconds (s : State) : State :=
  let s := s.countWrites 2 7
  { s with store := { s.store with opsecKept := s.store.opsec, writesKept := s.store.writes } }

/-- Commit every record that waits in the event queue, in order; `n` bounds their number. -/
def State.flushRecords : Nat → State → State
  | 0, s => s
  | n + 1, s =>
    match s.store.queue with
    | [] => s.reportDropped
    | _ :: _ => State.flushRecords n (s.commitNext)

/-- Before a chip reset other than a power-on reset the store commits the waiting records and the seconds (R520). -/
def State.flushStore (s : State) : State := (s.flushRecords (s.store.queue.length + 1)).commitSeconds

/-- Is a record of this SEQ held. -/
def State.holds (s : State) (q : Nat) : Bool := (tget {} s.store.records q : Record).rpt != 0

/-- The least SEQ from `q` on that is held: the records listed have rising keys. -/
def firstFrom (q : Nat) : List (Nat × Record) → Option (Nat × Record)
  | [] => none
  | (k, r) :: t => if q ≤ k then some (k, r) else firstFrom q t

/-- Oldest running record: SEQ of the oldest record above the origin area that is held, 0 when none (R523). -/
def State.oldestRunning (s : State) : Nat :=
  match firstFrom 1025 s.store.records with
  | some (q, _) => q
  | none => 0

/-- A loss of main power may cut short the commit that the store makes of its oldest waiting record; whether it does is open (R517 to R519,
log 7). An update in place then has its REPEAT and not its CHECK; a new record is absent, and the one it replaces is gone. -/
def State.cutRecord (s : State) : State :=
  match s.store.queue with
  | [] => s
  | r :: _ =>
    let s' := s.spend 1
    let n := s.newestRecord
    if !(Config.freeByte s.free).getLsbD 0 then s'
    else if s.store.newest ≠ 0 ∧ n.same r ∧ n.rpt < 65535 then
      { s' with store := { s'.store with records := tset {} s.store.newest { n with rpt := n.rpt + 1 } s.store.records, torn := true } }
    else
      match replaced (s.store.newest + 1) with
      | some o => { s' with store := { s'.store with records := tset {} o {} s.store.records } }
      | none => s'

/-- Latch the record that a cursor names: EMPTY beyond the newest, SKIPPED where records are no longer held (R522). -/
def Window.latchAt (records : List (Nat × Record)) (newest q : Nat) (w : Window) : Window :=
  if newest < q then { w with cursor := q, latch := none, empty := true }
  else
    match firstFrom q records with
    | some (k, r) => { w with cursor := k, latch := some (k, r), empty := false, skipped := w.skipped || decide (k ≠ q) }
    | none => { w with cursor := q, latch := none, empty := true }

/-- The reading window of the PF or of the Hearth. -/
def State.window (s : State) (hearth : Bool) : Window := if hearth then s.store.hearth else s.store.pf

/-- Replace a reading window. -/
def State.setWindow (hearth : Bool) (w : Window) (s : State) : State :=
  if hearth then { s with store := { s.store with hearth := w } } else { s with store := { s.store with pf := w } }

/-- Write a cursor: latch the record it names (R522). -/
def State.cursorTo (hearth : Bool) (q : Nat) (s : State) : State :=
  s.setWindow hearth ((s.window hearth).latchAt s.store.records s.store.newest q)

/-- CRC-16 with polynomial 0x1021, one byte more (R513). -/
def crc16Byte (crc : BitVec 16) (b : Byte) : BitVec 16 :=
  (List.range 8).foldl (fun c _ => if c.getLsbD 15 then (c <<< 1) ^^^ 0x1021 else c <<< 1) (crc ^^^ (b.setWidth 16 <<< 8))

/-- CRC-16 with initial value 0xFFFF (R513). -/
def crc16 (s : Bytes) : BitVec 16 := s.foldl crc16Byte 0xFFFF

/-- The 32 bytes of a record in the MRAM (R513). -/
def Record.image (seq : Nat) (r : Record) : Bytes :=
  let body := leBytes 4 seq ++ leBytes 4 r.opsec.toNat ++ leBytes 3 r.cycles ++ leBytes 2 r.code.toNat ++
    leBytes 1 r.source.toNat ++ leBytes 2 r.rpt ++ leBytes 12 r.param.toNat
  [0x5A] ++ body ++ leBytes 2 (crc16 body).toNat ++ [0]

/-- Word `k` of a window: the latched record's bytes 4k to 4k + 3, 0 while EMPTY (R522, R523). -/
def Window.word (w : Window) (k : Nat) : BitVec 32 :=
  match w.latch with
  | some (q, r) => BitVec.ofNat 32 (leAt (r.image q) (4 * k) 4)
  | none => 0

/-- Latch the next SEQ held after the one in the window (R522). -/
def State.advance (hearth : Bool) (s : State) : State :=
  let w := s.window hearth
  match w.latch with
  | some (q, _) => s.cursorTo hearth (q + 1)
  | none => s

/-- While EMPTY is 1 a read of a window word looks again at the record that the cursor names (R522). -/
def State.relook (hearth : Bool) (s : State) : State :=
  if (s.window hearth).empty then s.cursorTo hearth (s.window hearth).cursor else s

/-- A read of a window word by the Hearth, or by the host where the read reaches the registers (R85, R522). -/
def State.readWindow (hearth : Bool) (word : Nat) (s : State) : State :=
  let act (s : State) : State :=
    let s := s.relook hearth
    let s := s.emit (.value ((s.window hearth).word word))
    if word = 7 then s.advance hearth else s
  if hearth then act s else s.onRead act

/-- RECORD_APPEND (R516): a record of the Hearth or the Bench enters the event queue, or is dropped and counted. -/
def execRecordAppend (hearth : Bool) (code : BitVec 16) (source : BitVec 8) (param : BitVec 96) (s : State) : Out :=
  .next (s.appendRecord (s.newRecord code.toNat (if hearth then 0xF1 else source.toNat) param))

/-- RECORD_COMMIT (R517, R518): the oldest record of the queue is committed; event 0x1503 follows once there is room. An
uncorrectable read of the MRAM raises source 11 (R511). -/
def execRecordCommit (mramOk : Bool) (s : State) : Out :=
  .next (let s := s.commitNext.reportDropped
    if mramOk then s else s.alarm 11 0)

/-- OPSEC_COMMIT (R520): sixty seconds more have been counted, by the store and by the RTC (R440; DESIGN CHOICE, log 7);
seconds and write counters are committed. -/
def execOpsecCommit (s : State) : Out :=
  .next (State.commitSeconds { s with store := { s.store with opsec := s.store.opsec + 60 }
                                      crucible := { s.crucible with rtc := s.crucible.rtc + 60 } })

/-- CURSOR (R522). -/
def execCursor (hearth : Bool) (seq : BitVec 32) (s : State) : Out :=
  .next (if hearth then s.cursorTo true seq.toNat else s.onBar (State.cursorTo false seq.toNat))

/-- WINDOW_ADVANCE (R522): a read of word 7 returns the latched word and advances; while EMPTY it first looks again. -/
def execWindowAdvance (hearth : Bool) (s : State) : Out := .next (s.readWindow hearth 7)

/-- WINDOW_READ (R522): a read of a window word, which first looks again while EMPTY; word 7 then also advances. -/
def execWindowRead (hearth : Bool) (word : Fin 8) (s : State) : Out := .next (s.readWindow hearth word.val)

end Sys2Proof.Machine
end

