-- ==== Sys2Proof/Machine/Reset.lean ====
section
/-!
DEFINITION. Chip reset, function reset and what each leaves (R45, R84 to R87, R151, R466, R473, R483).
-/
namespace Sys2Proof.Machine

/-- What stays of a custodian port: the card in it (DET is sampled in PD1, R481). -/
def Port.afterReset (p : Port) : Port := { present := p.present }

/-- The state after a chip reset with a cause (R45): the Rack and every volatile store are erased; the Crucible, OTP, MRAM,
flash, the balls, the PME context and the time base stay. The store's counted seconds stay; a power-on reset falls back to the committed ones
(R520). Where the reference is lost the chip stays in reset, and a reset for that keeps PD1 and with it the aggregator (R473). -/
def State.chipResetTo (cause : Nat) (s : State) : State :=
  { pending := s.pending
    now := s.now
    free := s.free
    sent := s.sent
    pins := { s.pins with alertLow := false, wakeLow := false, clkreqLow := true, gpio := none, scanMode := false }
    chip := { resetCause := cause, held := s.chip.held || !s.pins.refClock }
    link := if cause = 2 then {} else { pmeStatus := s.link.pmeStatus, pmeEn := s.link.pmeEn }
    crucible := s.crucible
    vault := { regionKey := s.vault.regionKey, sets := s.vault.sets, btk := s.vault.btk, kept := s.vault.kept, areas := s.vault.areas,
               areaKeys := s.vault.areaKeys,
               highCls := s.vault.highCls, nextCer := s.vault.nextCer, cerLost := s.vault.cerLost }
    trims := s.trims
    plan := { bundle := s.plan.bundle }
    zwm := { rom := s.zwm.rom }
    worlds := { hearth := { hbiMin := s.worlds.hearth.hbiMin, hbiMax := s.worlds.hearth.hbiMax }
                bench := { hbiMin := s.worlds.bench.hbiMin, hbiMax := s.worlds.bench.hbiMax } }
    tamper := if cause = 4 then s.tamper
      else { fused := s.tamper.fused, keptClasses := s.tamper.keptClasses, lfsr := s.tamper.lfsr }
    life := { stage := s.life.stage, wrapKey := s.life.wrapKey, condKey := s.life.condKey, tokenUsed := s.life.tokenUsed, relock := s.life.relock,
              ownerHash := s.life.ownerHash, ownerKey := s.life.ownerKey, tokenHashes := s.life.tokenHashes, unsignedArm := s.life.unsignedArm,
              prefer := s.life.prefer, flash := s.life.flash }
    power := { target := s.power.target, baselines := s.power.baselines, wearDt := s.power.wearDt,
               wearTt := s.power.wearTt, warned := s.power.warned, batHours := s.power.batHours,
               batWarned := s.power.batWarned }
    cards := { ports := tmap {} (fun _ p => p.afterReset) s.cards.ports, sd := { present := s.cards.sd.present } }
    store := { records := s.store.records, newest := s.store.newest, opsec := s.store.opsec,
               torn := s.store.torn, opsecKept := s.store.opsecKept, cycles := s.store.cycles, copyA := s.store.copyA, copyB := s.store.copyB,
               activeB := s.store.activeB, defaults := s.store.defaults, pendMark := s.store.pendMark,
               writes := s.store.writes, writesKept := s.store.writesKept }
    legacy := { lmk := s.legacy.lmk, lmkSeal := s.legacy.lmkSeal, lmkAttr := s.legacy.lmkAttr, bound := s.legacy.bound, kcv := s.legacy.kcv } }

/-- A ceremony that a restart ends: its end is logged at the restart with reason 6 (R217). -/
def State.loseCeremony (s : State) : State :=
  match s.vault.cer with
  | some c => State.endSession { s with vault := { s.vault with cer := none, cerLost := some (params (c.event 0xFF 0 6 0)) } }
  | none => s

/-- Log the end of a ceremony that a restart ended (R217). -/
def State.logLost (s : State) : State :=
  match s.vault.cerLost with
  | some p => State.appendRecord (s.newRecord 0x0613 0xF1 p) { s with vault := { s.vault with cerLost := none } }
  | none => s

/-- A chip reset with a cause other than power-on (R45, R483): while a Quench runs it waits for the Quench's end (R87); else
the store commits its queue and the seconds first (R520). -/
def State.chipReset (cause : Nat) (s : State) : State :=
  if s.quenching then { s with chip := { s.chip with resetPending := some cause } }
  else s.loseCeremony.flushStore.chipResetTo cause

/-- A power-on reset: records and seconds not yet committed are lost (R466, R520); an open ceremony ends (R217). -/
def State.powerOnReset (s : State) : State :=
  let s := s.loseCeremony
  State.chipResetTo 2 { s with
    chip := { s.chip with held := false }
    store := { s.store with opsec := s.store.opsecKept, writes := s.store.writesKept }
    life := { s.life with unsignedArm := false } }

/-- Operations of function `f` are aborted without completion or data (R85): they leave the tasks, and the blocks that hold
them are freed. -/
def State.abortFn (f : Nat) (s : State) : State :=
  let ids := (s.engine.tasks.filter fun o => o.fn == f).map Op.id
  let s : State := ids.foldl (fun s id => (s.unreserve id).releaseOp id) s
  { s with engine := { s.engine with tasks := s.engine.tasks.filter fun o => o.fn != f } }

/-- Every queue context of function `f` is as just allocated (R151). -/
def State.clearQueues (f : Nat) (s : State) : State :=
  let n := ((trange (queueKey f 0) (queueKey (f + 1) 0) s.queues).map fun e => e.2.reads.length).sum
  { s with queues := tclear (queueKey f 0) (queueKey (f + 1) 0) s.queues
           link := { s.link with readsOut := s.link.readsOut - n } }

/-- The DRBG instances of function `f` are uninstantiated and zeroed (R151). -/
def State.clearInsts (f : Nat) (s : State) : State :=
  { s with bellows := { s.bellows with insts := tclear (f * 4096) ((f + 1) * 4096) s.bellows.insts } }

/-- What the reset of a function leaves of its resources: the counts, both lists, PRIORITY and the weights (R151). Its
configuration, vectors and mailbox take their reset values (R84). -/
def Fn.afterFlr (n : Fn) : Fn :=
  { flr := true, queues := n.queues, drbgCount := n.drbgCount, priority := n.priority, staging := n.staging,
    active := n.active, allowGen := n.allowGen, share := n.share, shareNow := n.shareNow }

/-- Function-level reset of one function (R84, R85, R151): fetching stops, work is aborted, contexts, vectors, mailbox,
configuration and instances are reset. FLR_BUSY reads 1 until the reset completes. -/
def State.flrOne (f : Nat) (s : State) : State :=
  ((s.abortFn f).clearQueues f).clearInsts f |>.modFn f Fn.afterFlr

/-- Every function that a reset of the PF resets: those that exist, and those that hold anything. -/
def State.fnKeys (s : State) : List Nat :=
  ((List.range 256).filter s.exists? ++ (s.fns.map (·.1) ++ s.engine.tasks.map Op.fn)).dedup

/-- The PF's selectors and error registers take their reset values (R151). -/
def State.resetSelectors (s : State) : State :=
  { s with
    qmgr := { poolFree := s.qmgr.poolFree, drbgFree := s.qmgr.drbgFree }
    bellows := { s.bellows with instSelF := 0, instSelI := 0 }
    routing := { s.routing with rootSel := 0, hitSel := 0 } }

/-- The legacy window after an FLR of the PF or a hot reset: its registers take their reset values except the LMK fields, and
a command in progress runs on with its response discarded (R551). -/
def Legacy.afterFlr (l : Legacy) : Legacy :=
  { bound := l.bound, kcv := l.kcv, refused := l.refused, cause := l.cause, lmk := l.lmk, lmkSeal := l.lmkSeal, lmkAttr := l.lmkAttr, lmkSlot := l.lmkSlot,
    scratch := l.scratch, snap := l.snap, answer := l.answer, discard := l.busy || l.discard }

/-- FLR of the PF or hot reset: every function is reset, VF Enable is cleared, chip state is kept (R84); a VAULTMBX request in
progress runs to its end and its response is discarded (R86). -/
def State.flrAll (s : State) : State :=
  let s := s.fnKeys.foldl (fun s f => s.flrOne f) s
  let s := s.resetSelectors
  { s with
    queues := []
    link := { speed := s.link.speed, width := s.link.width, downCount := s.link.downCount, aspm := s.link.aspm
              pmeStatus := s.link.pmeStatus, pmeEn := s.link.pmeEn }
    worlds := { s.worlds with discard := s.worlds.discard || s.worlds.go }
    legacy := s.legacy.afterFlr }

/-- The reset of function `f` completes within T_FLR (R85). -/
def State.flrDone (f : Nat) (s : State) : State := s.modFn f fun n => { n with flr := false }

/-- The link retrains: it is down until LINK_UP (R74, R84). -/
def State.retrain (s : State) : State :=
  { s with link := { s.link with speed := 0, width := 0, aspm := .l0 }, pins := { s.pins with clkreqLow := true } }

/-- The link goes down without PERST_N: it acts as a hot reset, and DOWN_COUNT rises (R74, R84). -/
def State.linkDown (s : State) : State :=
  let s := s.flrAll.retrain
  { s with link := { s.link with downCount := satInc 65535 s.link.downCount } }

end Sys2Proof.Machine
end

