-- ==== Sys2Proof/Machine/Power.lean ====
section
/-!
DEFINITION. Core voltage, references and power domains (R466 to R484).
-/
namespace Sys2Proof.Machine

/-- Region number of the scheduler that serves an opcode family (R19, R117), none for the families without one. -/
def familyRegion (family : Nat) : Option Nat :=
  if family = 1 ∨ family = 2 then some 1 else if family = 3 then some 2 else if family = 4 then some 3 else none

/-- Descriptors that wait in a region's scheduler (R469): operations not yet dispatched, and for the Host region the entries
written and not yet fetched. -/
def State.waitingIn (s : State) (region : Nat) : Nat :=
  if region = 0 then
    (s.queues.map fun e => if e.2.enable && !e.2.broken then (e.2.sqTail + e.2.depth - e.2.sqHead) % e.2.depth else 0).sum
  else (s.engine.tasks.filter fun o => o.stage == .region && familyRegion (o.opcode / 256) == some region).length

/-- The controller writes a voltage of the rail AVS_RAIL and then reads the rail's status, until that reports the transition done (R471). -/
def State.writeRail (mv : Nat) (s : State) : State :=
  (s.emit (.avsWrite (s.setting 0x13) mv)).emit (.avsStatus (s.setting 0x13))

/-- Change the target voltage (R471): the controller writes it and the steps are counted (R484). -/
def State.setTarget (mv : Nat) (s : State) : State :=
  if s.power.target = mv then s
  else
    State.writeRail mv
      { s with power := { s.power with target := mv, steps := s.power.steps + 1 } }

/-- The next target of the adaptive mode (R469): one step of 5 mV, clamped to the limits, and never outside 0.60 V to 0.90 V (R39). -/
def nextTarget (busy idle : Bool) (target lo hi : Nat) : Nat :=
  let want := if busy then target + 5 else if idle then target - 5 else target
  let aim := max lo (min hi want)
  let next := if target + 5 < aim then target + 5 else if aim + 5 < target then target - 5 else aim
  max 600 (min 900 next)

/-- AVS_WINDOW (R468, R469): the percentages for which the Host, Cipher, Plan and Number regions were busy in the window. In
mode 1 the fixed voltage is written after a change; in mode 2, before the Bench's start (R464), or once AVSBus is abandoned, nothing is
sent. -/
def execAvsWindow (use : Vector (Fin 101) 4) (s : State) : Out :=
  .next (
    let p := s.power
    if ¬ p.avsOn ∨ p.avsFail ∨ s.chip.held then s
    else if p.avsMode = 0 then
      let busy := (List.finRange 4).any fun r => decide (90 ≤ (use[r]).val) && s.waitingIn r.val != 0
      let idle := (List.finRange 4).all fun r => decide ((use[r]).val ≤ 60)
      s.setTarget (nextTarget busy idle p.target p.minMv p.maxMv)
    else if p.avsMode = 1 then s.setTarget p.fixedMv
    else s)

/-- An AVSBus transaction failed three times: FAIL is set, the event is logged and nothing further is sent (R471). -/
def State.avsAbandon (s : State) : State :=
  State.logOpen 0x11 0xF2 4710 [] { s with power := { s.power with avsFail := true } }

/-- AVS_READBACK (R471): in modes 0 and 1 the output voltage read, or none after the third failed try. A deviation of more than
25 mV for 1 ms, two readings, sets DEV and is logged. -/
def execAvsReadback (mv : Option (BitVec 10)) (s : State) : Out :=
  .next (
    if ¬ s.power.avsOn ∨ s.power.avsMode = 2 ∨ s.power.avsFail then s
    else
      match mv with
      | none => s.avsAbandon
      | some v =>
        let off := decide (s.power.target + 25 < v.toNat) || decide (v.toNat + 25 < s.power.target)
        let runs := if off then s.power.devRuns + 1 else 0
        let s := { s with power := { s.power with vout := v.toNat, devRuns := runs } }
        if runs = 2 then State.logOpen 0x11 0xF2 4711 [] { s with power := { s.power with dev := true } } else s)

/-- AVS_ALERT (R471): the controller reads the rail's status, or gets no answer three times. -/
def execAvsAlert (status : Option (BitVec 16)) (s : State) : Out :=
  .next (
    if ¬ s.power.avsOn ∨ s.power.avsMode = 2 ∨ s.power.avsFail then s
    else
      let s := s.emit (.avsStatus (s.setting 0x13))
      match status with
      | none => s.avsAbandon
      | some v => { s with power := { s.power with railStatus := v } })

/-- A legal voltage (R484). -/
def mvOk (v : Nat) : Bool := decide (600 ≤ v) && decide (v ≤ 900)

/-- AVS_SETTINGS_WRITE (R484): AVS_CTRL, or AVS_LIMITS with `limits`; a value out of range is dropped with REFUSED. MODE 3 is no
mode of R468 and is dropped likewise (DEDUCED, log 23). -/
def execAvsSettingsWrite (limits : Bool) (value : BitVec 32) (s : State) : Out :=
  .next (s.onBar fun s =>
    let a := bits value 9 0
    let b := bits value 25 16
    let refuse : State := { s with power := { s.power with refused := true } }
    if limits then
      if mvOk a ∧ mvOk b ∧ a ≤ b then { s with power := { s.power with minMv := a, maxMv := b } } else refuse
    else
      let m := bits value 1 0
      if m ≤ 2 ∧ mvOk b then { s with power := { s.power with avsMode := m, fixedMv := b } } else refuse)

/-- REFERENCE_LOST (R473): the chip is held in reset as for a chip reset, after a running Quench; PD1 and PD0 are kept. -/
def execReferenceLost (s : State) : Out := .next (State.chipReset 4 { s with pins := { s.pins with refClock := false } })

/-- REFERENCE_RESTORED (R473): the reference runs again for 1 ms; the chip may start, RESET_CAUSE 4. -/
def execReferenceRestored (s : State) : Out :=
  .next { s with pins := { s.pins with refClock := true }, chip := { s.chip with held := !s.pins.mainPower } }

/-- RTC_FAIL (R474): the Crucible falls back to its internal oscillator; the event is logged and CLOCKS.RTC_FAIL is set at the
next start. -/
def execRtcFail (s : State) : Out :=
  .next (State.logOpen 0x11 0xF4 4740 [] { s with crucible := { s.crucible with rtcInternal := true } })

/-! ### Power domains (R47 to R49, R478 to R481) -/

/-- Domains that the Bench may power down: "yes" in R47. -/
def domainYes (d : Nat) : Bool := (decide (5 ≤ d) && decide (d ≤ 23)) || d == 27 || d == 28

/-- Blocks of a power domain (R31, R47). -/
def domainBlocks (d : Nat) : List Nat := (List.range 128).filter fun b => blockUsed b && blockDomain b == d

/-- An operation in a block of the domain, or a job of its Hammer group (R478, R481). -/
def State.domainBusy (s : State) (d : Nat) : Bool :=
  (s.engine.tasks.any fun o => (o.stage == .block || o.stage == .context || o.stage == .yielded) &&
    (domainBlocks d).contains o.block) ||
  (d == 27 && (!s.cards.sd.waiting.isEmpty || s.cards.ports.any fun p => p.2.active)) ||
  (d == 28 && s.routing.busy)

/-- A domain is claimed: by the Hearth, PD27 by an open ceremony or an active custodian port, a Hammer group by a job of the Hearth that one of its
units holds or will take (R480, R481, R488). -/
def State.claimed (s : State) (d : Nat) : Bool :=
  let hearth (u : HUnit) : Bool := u.job == some 0 || u.held == some 0 || u.marked == some 0
  s.zwm.hclaim.getLsbD d || (d == 27 && (s.vault.cer.isSome || s.cards.ports.any fun p => p.2.active)) ||
    s.hammer.units.any fun u => hearth u.2 && blockDomain (0x40 + u.1) == d

/-- The conditions of R478 hold but for the claim. -/
def State.mayPowerDown (s : State) (d idleUs : Nat) : Bool :=
  domainYes d && (s.domainOf d).allow && !s.domainBusy d && decide (s.power.idleUs ≤ idleUs)

/-- POWER_DOWN_REQUEST (R478, R480): the Bench asks for a domain idle for `idleUs`; a claimed domain is deferred. -/
def execPowerDownRequest (pd : Fin 30) (idleUs : BitVec 16) (s : State) : Out :=
  .next (
    let d := pd.val
    if (s.domainOf d).st ≠ .on ∨ ¬ s.mayPowerDown d idleUs.toNat ∨ s.worlds.bench.status ≠ 1 then s
    else if s.claimed d then s.modDomain d fun x => { x with st := .deferred }
    else s.modDomain d fun x => { x with st := .poweringDown })

/-- What a domain loses with its power: everything but the retention memories (R49, R436, R479); the card ports deactivate (R488). -/
def State.eraseDomain (d : Nat) (s : State) : State :=
  let blocks := domainBlocks d
  let pipes := blocks.filter fun b => decide (8 ≤ b) && decide (b ≤ 0x0F)
  let dead (c : Nat) : Bool := pipes.any fun b => c / 8 == b - 8
  { s with
    rack := { s.rack with caches := s.rack.caches.filter fun c => !blocks.contains c.1 }
    plan := { s.plan with ctxs := s.plan.ctxs.filter fun c => !dead c.1 }
    routing := { s.routing with
      terms := tmap {} (fun p t => if pipes.contains (8 + p) then { t with live := [], spare := [], pending := [] } else t)
        s.routing.terms }
    hammer := { s.hammer with units := s.hammer.units.filter fun u => !blocks.contains (0x40 + u.1) }
    cards := if d = 27 then { s.cards with
        ports := tmap {} (fun _ p => p.off) s.cards.ports
        sd := { s.cards.sd with state := if s.cards.sd.present then 5 else 0, v18 := false, mode := 0, phase := 0, walked := false } }
      else s.cards }

/-- A domain starts to power up (R479, R484). -/
def State.powerUp (d : Nat) (s : State) : State :=
  s.modDomain d fun x => { x with st := .poweringUp, upAgain := false, wakes := satInc 255 x.wakes }

/-- POWER_DOWN_DONE (R479, R436): memories erased, power removed. A domain claimed or needed meanwhile powers up again (R480). -/
def execPowerDownDone (pd : Fin 30) (s : State) : Out :=
  .next (
    let d := pd.val
    if (s.domainOf d).st ≠ .poweringDown then s
    else
      let s := s.eraseDomain d
      if (s.domainOf d).upAgain ∨ s.claimed d then s.powerUp d
      else s.modDomain d fun x => { x with st := .off })

/-- POWER_UP (R48, R479): work has arrived, or a claim. A domain that is powering down powers up after it. -/
def execPowerUp (pd : Fin 30) (s : State) : Out :=
  .next (
    let d := pd.val
    match (s.domainOf d).st with
    | .off => s.powerUp d
    | .poweringDown => s.modDomain d fun x => { x with upAgain := true }
    | _ => s)

/-- Set the Hearth's claim on a domain (R480). -/
def State.claim (d : Nat) (s : State) : State :=
  let s := { s with zwm := { s.zwm with hclaim := s.zwm.hclaim ||| BitVec.ofNat 30 (2 ^ d) } }
  match (s.domainOf d).st with
  | .off => s.powerUp d
  | .poweringDown => s.modDomain d fun x => { x with upAgain := true }
  | _ => s

/-- HCLAIM_SET (R480). -/
def execHclaimSet (pd : Fin 30) (s : State) : Out := .next (s.claim pd.val)

/-- Release the Hearth's claim: a deferred domain that nothing of the Hearth claims any more is tested again (R480, R481). -/
def State.unclaim (d idleUs : Nat) (s : State) : State :=
  let s := { s with zwm := { s.zwm with hclaim := s.zwm.hclaim &&& ~~~ BitVec.ofNat 30 (2 ^ d) } }
  if (s.domainOf d).st = .deferred ∧ ¬ s.claimed d then
    s.modDomain d fun x => { x with st := if s.mayPowerDown d idleUs then .poweringDown else .on }
  else s

/-- The Hearth's claims are released, as at its restart (R380, R480). A domain that is deferred counts as idle still where no work is in it
(DEDUCED, log 57). -/
def State.unclaimAll (s : State) : State :=
  ((List.range 30).filter fun d => s.zwm.hclaim.getLsbD d || (s.domainOf d).st == .deferred).foldl (fun s d => s.unclaim d 65535) s

/-- HCLAIM_RELEASE (R480). -/
def execHclaimRelease (pd : Fin 30) (idleUs : BitVec 16) (s : State) : Out := .next (s.unclaim pd.val idleUs.toNat)

end Sys2Proof.Machine
end

