-- ==== Sys2Proof/Machine/Regions.lean ====
section
/-!
DEFINITION. Regions and blocks: the weighted fair schedulers, the live rates, cell faults, fault levels, bus integrity errors
and the region watchdog (R19 to R45).
-/
namespace Sys2Proof.Machine

/-! ### The weighted fair schedulers (R20, R147) -/

/-- Key of a region and a function in the schedulers' tables. -/
def schedKey (region f : Nat) : Nat := region * 256 + f

/-- The weight in force of function `f` in a region: FETCH for the Host, CIPHER, PLAN, HAMMER (R147). -/
def State.weight (s : State) (region f : Nat) : Nat :=
  let w := (s.fnOf f).shareNow
  if region = 0 then bits w 31 24 else if region = 1 then bits w 7 0 else if region = 2 then bits w 15 8 else bits w 23 16

/-- Functions that had work pending for a region at the last epoch boundary (R20). -/
def State.pendingFns (s : State) (region : Nat) : List Nat :=
  (trange (schedKey region 0) (schedKey (region + 1) 0) s.engine.pendSet).map fun e => e.1 - schedKey region 0

/-- The sum of the weights of those functions. -/
def State.weightSum (s : State) (region : Nat) : Nat := ((s.pendingFns region).map fun f => s.weight region f).sum

/-- What function `f` is owed at the next dispatch of a region: its credit and its share of this dispatch (R20). -/
def State.owed (s : State) (region f : Nat) : Rat :=
  tget 0 s.engine.credit (schedKey region f) + (s.weight region f : Rat) / (s.weightSum region : Rat)

/-- The function owed most among those listed in rising order, the lowest number among equals (R20). -/
def mostOwed (owed : Nat → Rat) : List Nat → Option Nat
  | [] => none
  | f :: t =>
    match mostOwed owed t with
    | none => some f
    | some g => if owed f < owed g then some g else some f

/-- The function to which a region's scheduler grants, among those pending at the epoch that `ready` finds with work now. -/
def State.granted (s : State) (region : Nat) (ready : Nat → Bool) : Option Nat :=
  mostOwed (s.owed region) ((s.pendingFns region).filter ready)

/-- A dispatch is charged: each pending function gains its share, the granted one gives up one dispatch (R20). -/
def State.charge (region f : Nat) (s : State) : State :=
  let c := (s.pendingFns region).foldl (fun c g =>
    tset 0 (schedKey region g) (s.owed region g - if g = f then 1 else 0) c) s.engine.credit
  { s with engine := { s.engine with credit := c } }

/-- A queue has entries that the queue engine could fetch now (R100, R107). -/
def State.fetchable (s : State) (c : Queue) : Bool := c.enable && !c.broken && decide (0 < s.fetchCount c)

/-- Function `f` has work pending for a region. -/
def State.hasWork (s : State) (region f : Nat) : Bool :=
  if region = 0 then (trange (queueKey f 0) (queueKey (f + 1) 0) s.queues).any fun e => s.fetchable e.2
  else s.engine.tasks.any fun o => o.fn == f && o.stage == .region && familyRegion (o.opcode / 256) == some region

/-- SCHEDULING_EPOCH (R20, R147): new weights and pending sets are taken; a function that has fallen idle loses its credit. -/
def execSchedulingEpoch (s : State) : Out :=
  .next (
    let fns := tmap {} (fun _ n => { n with shareNow := n.share }) s.fns
    let live := (List.range 4).flatMap fun r => ((0 :: s.fns.map (·.1)).dedup.filter fun f => s.hasWork r f).map fun f => schedKey r f
    let pend := live.foldl (fun t k => tset false k true t) []
    { s with
      fns := fns
      engine := { s.engine with
        epoch := s.engine.epoch + 1
        pendSet := pend
        credit := s.engine.credit.filter fun c => live.contains c.1 } })

/-! ### Live rates (R33) -/

/-- RATE_WINDOW (R33): the rate registers take the window's counts and the measured median cycles together, and RATE_SEQ
rises. -/
def execRateWindow (cycles : Vector (BitVec 16) 8) (s : State) : Out :=
  .next (
    let rates := (List.finRange 8).foldl (fun t c =>
      tmod {} c.val (fun r => { ops := satNat 32 r.curOps, kbytes := satNat 32 (r.curBytes / 1000)
                                cycle := if r.curOps = 0 ∧ r.curBytes = 0 then 0 else (cycles[c]).toNat
                                curOps := 0, curBytes := 0 }) t) s.engine.rates
    { s with engine := { s.engine with rates := rates, rateSeq := s.engine.rateSeq + 1 } })

/-! ### Faults (R22 to R30) -/

/-- Fault code of a kind (R22). -/
def faultCode : CellFault → Nat
  | .illegal => 1
  | .memU => 2
  | .check => 3
  | .memC => 4

/-- Event 0x0101, a block report (R573). -/
def State.report (b code : Nat) (s : State) : State :=
  s.log 0x0101 (regionSource b) [BitVec.ofNat 8 b, BitVec.ofNat 8 code]

/-- Pipelines in service, ascending. -/
def State.pipesIn (s : State) : List Nat := (List.range 8).filter fun p => !(s.blockOf (8 + p)).out

/-- Pipeline that entry `i` of the steering table names (R302). -/
def State.steerOf (s : State) (i : Nat) : Nat := tget (i % 8) s.routing.steer i

/-- Give the entries of a pipeline that leaves service to the others, ascending from the lowest, one each in turn (R303). -/
def reassign (p : Nat) (pipes : List Nat) (of : Nat → Nat) : Nat → Nat → List (Nat × Nat) → List (Nat × Nat)
  | 0, _, t => t
  | n + 1, turn, t =>
    let i := 63 - n
    if of i = p ∧ pipes ≠ [] then
      reassign p pipes of n (turn + 1) (tset (i % 8) i (pipes.getD (turn % pipes.length) 0) t)
    else reassign p pipes of n turn t

/-- A block leaves service until chip reset (R27, R29): the event, the message, the steering table and the terminal cache of a
pipeline (R301, R303). Operations queued in the region stay there for the other blocks of the class; one already steered
follows the new table. -/
def State.leaveService (b : Nat) (s : State) : State :=
  let k := s.blockOf b
  let s := s.modBlock b fun x => { x with out := true }
  let s := s.log 0x0102 (regionSource b) [BitVec.ofNat 8 b, BitVec.ofNat 8 k.level, BitVec.ofNat 8 k.aborts]
  let s := s.deviceEvent
  if 8 ≤ b ∧ b ≤ 0x0F then
    let p := b - 8
    let steer := reassign p s.pipesIn s.steerOf 64 0 s.routing.steer
    let terms := tmod {} p (fun t => { t with live := [], spare := [], pending := [] }) s.routing.terms
    { s with routing := { s.routing with steer := steer, terms := terms } }
  else s

/-- An aborting fault raises the level, and at BLOCK_FAULT_LIMIT the block leaves service (R24, R26). -/
def State.raiseLevel (b : Nat) (s : State) : State :=
  let s := s.modBlock b fun x => { x with level := satInc 15 x.level, aborts := satInc 255 x.aborts }
  if s.setting 0x01 ≤ (s.blockOf b).level ∧ ¬ (s.blockOf b).out then s.leaveService b else s

/-- The fault aborts the operation that it touched; what it had streamed stands (R24, R126). -/
def State.abortOp (op : Option Nat) (detail : Nat) (s : State) : State :=
  match op with
  | none => s
  | some id =>
    match s.opOf id with
    | some o => if o.stage = .done then s else s.stopOp id 0x0502 detail
    | none => s

/-- CELL_FAULT (R22 to R27): a corrected error is counted; any other fault aborts the operation it touched and raises the
block's level; ILLEGAL also raises RAIL_CODE (R23). A preempted Hammer job is not running and goes on (R331). -/
def execCellFault (block : BitVec 8) (kind : CellFault) (op : Option Nat) (s : State) : Out :=
  .next (
    let b := block.toNat
    if ¬ blockUsed b then s
    else
      let s := s.report b (faultCode kind)
      if kind = .memC then s.modBlock b fun x => { x with corrected := satInc 255 x.corrected }
      else
        let runs := op.filter fun id => ((s.opOf id).map fun o => o.stage != .yielded).getD false
        let s := (s.abortOp runs (b + 256 * faultCode kind)).raiseLevel b
        if kind = .illegal then s.alarm 6 0 else s)

/-- FAULT_LEVEL_DECAY (R26): ten seconds have passed since the latest change of the level. -/
def execFaultLevelDecay (block : BitVec 8) (s : State) : Out :=
  .next (s.modBlock block.toNat fun x => { x with level := x.level - 1 })

/-- BUS_INTEGRITY_ERROR (R24, R426): the beat is discarded, its operation ends with ST_FAULT_DETECTED, DETAIL[11:8] 5, and
BUS_CODE is raised; no block's level rises. -/
def execBusIntegrityError (block : BitVec 8) (op : Option Nat) (s : State) : Out :=
  .next (
    let b := block.toNat
    ((s.report b 5).abortOp op (b + 256 * 5)).alarm 7 0)

/-- An operation in flight that one of the blocks from `lo` to `hi` has taken. -/
def State.workIn (s : State) (lo hi : Nat) : Bool :=
  s.engine.tasks.any fun o => (o.stage == .block || o.stage == .context) && decide (lo ≤ o.block) && decide (o.block ≤ hi)

/-- A region holds dispatched work (R43), numbered as in R44: completion entries and opcodes of the queue engine that may go on; operations
in lanes; transactions in a pipeline; jobs on Hammer units; a Temper pass, seed requests or a retest of Bellows, a service of the Hearth whose
core runs; a Bench core that runs, or a commit of the store. -/
def State.holdsWork (s : State) (region : Nat) : Bool :=
  let runs (c : Nat) : Bool := !(tget {} s.zwm.cores c).wfi
  if region = 0 then s.engine.tasks.any fun o => s.mayComplete o || (o.stage == .qengine && s.mayStart o)
  else if region = 1 then s.workIn 0 6
  else if region = 2 then s.workIn 8 0x0F
  else if region = 3 then s.hammer.units.any fun u => u.2.job.isSome
  else if region = 4 then
    s.rack.running || !s.bellows.seedQ.isEmpty || s.bellows.retest || (s.worlds.running.isSome && s.worlds.hearth.status == 1 && runs 0)
  else (s.worlds.bench.status == 1 && [1, 2, 3, 4].any runs) || !s.store.queue.isEmpty || s.store.busy

/-- REGION_WATCHDOG_EXPIRY (R43, R44): a region that holds dispatched work has stalled for its period; event 0x0103 is committed and the chip
resets. An idle region is never stalled. -/
def execRegionWatchdogExpiry (region : Fin 6) (s : State) : Out :=
  .next (
    if s.holdsWork region.val then (s.log 0x0103 (0x80 + region.val) [BitVec.ofNat 8 region.val]).chipReset 3 else s)

end Sys2Proof.Machine
end

