-- ==== Sys2Proof/Machine/Des.lean ====
section
/-!
DEFINITION. DES and TDES (NIST SP 800-67), named by R4 and written from that standard (PRESUMED, log 8). Bits are numbered from
1, the most significant first, as the standard's tables have them.
-/
namespace Sys2Proof.Machine.Des

/-- The bits of a string, most significant first. -/
def toBits (s : Bytes) : List Bool := s.flatMap fun b => (List.range 8).map fun i => b.getLsbD (7 - i)

/-- Value of bits, most significant first. -/
def bitsNat (l : List Bool) : Nat := l.foldl (fun a b => 2 * a + (if b then 1 else 0)) 0

/-- A string of bits as bytes, by fuel. -/
def ofBitsFuel : Nat → List Bool → Bytes
  | 0, _ => []
  | _, [] => []
  | n + 1, l => BitVec.ofNat 8 (bitsNat (l.take 8)) :: ofBitsFuel n (l.drop 8)

/-- A string of bits as bytes. -/
def ofBits (l : List Bool) : Bytes := ofBitsFuel l.length l

/-- A bit selection table. -/
def perm (t : List Nat) (l : List Bool) : List Bool := t.map fun i => l.getD (i - 1) false

/-- Exclusive or of bit strings. -/
def xorBits (a b : List Bool) : List Bool := List.zipWith xor a b

/-- Initial permutation: rows start at 58, 60, 62, 64, 57, 59, 61, 63 and fall by 8. -/
def ip : List Nat := [58, 60, 62, 64, 57, 59, 61, 63].flatMap fun a => (List.range 8).map fun k => a - 8 * k

/-- The inverse of the initial permutation. -/
def fp : List Nat := (List.range 64).map fun i => (ip.findIdx (· == i + 1)) + 1

/-- Expansion: 32 bits to 48. -/
def eTable : List Nat := (List.range 8).flatMap fun r => (List.range 6).map fun c => (4 * r + c + 31) % 32 + 1

/-- Permutation P. -/
def pTable : List Nat :=
  [16, 7, 20, 21, 29, 12, 28, 17, 1, 15, 23, 26, 5, 18, 31, 10] ++
  [2, 8, 24, 14, 32, 27, 3, 9, 19, 13, 30, 6, 22, 11, 4, 25]

/-- Permuted choice 1. -/
def pc1 : List Nat :=
  [57, 49, 41, 33, 25, 17, 9, 1, 58, 50, 42, 34, 26, 18, 10, 2, 59, 51, 43, 35, 27, 19, 11, 3, 60, 52, 44, 36] ++
  [63, 55, 47, 39, 31, 23, 15, 7, 62, 54, 46, 38, 30, 22, 14, 6, 61, 53, 45, 37, 29, 21, 13, 5, 28, 20, 12, 4]

/-- Permuted choice 2. -/
def pc2 : List Nat :=
  [14, 17, 11, 24, 1, 5, 3, 28, 15, 6, 21, 10, 23, 19, 12, 4, 26, 8, 16, 7, 27, 20, 13, 2] ++
  [41, 52, 31, 37, 47, 55, 30, 40, 51, 45, 33, 48, 44, 49, 39, 56, 34, 53, 46, 42, 50, 36, 29, 32]

/-- Left shifts of the key schedule. -/
def shifts : List Nat := [1, 1, 2, 2, 2, 2, 2, 2, 1, 2, 2, 2, 2, 2, 2, 1]

/-- The S-boxes, each 64 values row by row. -/
def sBoxes : List (List Nat) :=
  [ [14, 4, 13, 1, 2, 15, 11, 8, 3, 10, 6, 12, 5, 9, 0, 7, 0, 15, 7, 4, 14, 2, 13, 1, 10, 6, 12, 11, 9, 5, 3, 8,
     4, 1, 14, 8, 13, 6, 2, 11, 15, 12, 9, 7, 3, 10, 5, 0, 15, 12, 8, 2, 4, 9, 1, 7, 5, 11, 3, 14, 10, 0, 6, 13],
    [15, 1, 8, 14, 6, 11, 3, 4, 9, 7, 2, 13, 12, 0, 5, 10, 3, 13, 4, 7, 15, 2, 8, 14, 12, 0, 1, 10, 6, 9, 11, 5,
     0, 14, 7, 11, 10, 4, 13, 1, 5, 8, 12, 6, 9, 3, 2, 15, 13, 8, 10, 1, 3, 15, 4, 2, 11, 6, 7, 12, 0, 5, 14, 9] ] ++
  [ [10, 0, 9, 14, 6, 3, 15, 5, 1, 13, 12, 7, 11, 4, 2, 8, 13, 7, 0, 9, 3, 4, 6, 10, 2, 8, 5, 14, 12, 11, 15, 1,
     13, 6, 4, 9, 8, 15, 3, 0, 11, 1, 2, 12, 5, 10, 14, 7, 1, 10, 13, 0, 6, 9, 8, 7, 4, 15, 14, 3, 11, 5, 2, 12],
    [7, 13, 14, 3, 0, 6, 9, 10, 1, 2, 8, 5, 11, 12, 4, 15, 13, 8, 11, 5, 6, 15, 0, 3, 4, 7, 2, 12, 1, 10, 14, 9,
     10, 6, 9, 0, 12, 11, 7, 13, 15, 1, 3, 14, 5, 2, 8, 4, 3, 15, 0, 6, 10, 1, 13, 8, 9, 4, 5, 11, 12, 7, 2, 14] ] ++
  [ [2, 12, 4, 1, 7, 10, 11, 6, 8, 5, 3, 15, 13, 0, 14, 9, 14, 11, 2, 12, 4, 7, 13, 1, 5, 0, 15, 10, 3, 9, 8, 6,
     4, 2, 1, 11, 10, 13, 7, 8, 15, 9, 12, 5, 6, 3, 0, 14, 11, 8, 12, 7, 1, 14, 2, 13, 6, 15, 0, 9, 10, 4, 5, 3],
    [12, 1, 10, 15, 9, 2, 6, 8, 0, 13, 3, 4, 14, 7, 5, 11, 10, 15, 4, 2, 7, 12, 9, 5, 6, 1, 13, 14, 0, 11, 3, 8,
     9, 14, 15, 5, 2, 8, 12, 3, 7, 0, 4, 10, 1, 13, 11, 6, 4, 3, 2, 12, 9, 5, 15, 10, 11, 14, 1, 7, 6, 0, 8, 13] ] ++
  [ [4, 11, 2, 14, 15, 0, 8, 13, 3, 12, 9, 7, 5, 10, 6, 1, 13, 0, 11, 7, 4, 9, 1, 10, 14, 3, 5, 12, 2, 15, 8, 6,
     1, 4, 11, 13, 12, 3, 7, 14, 10, 15, 6, 8, 0, 5, 9, 2, 6, 11, 13, 8, 1, 4, 10, 7, 9, 5, 0, 15, 14, 2, 3, 12],
    [13, 2, 8, 4, 6, 15, 11, 1, 10, 9, 3, 14, 5, 0, 12, 7, 1, 15, 13, 8, 10, 3, 7, 4, 12, 5, 6, 11, 0, 14, 9, 2,
     7, 11, 4, 1, 9, 12, 14, 2, 0, 6, 10, 13, 15, 3, 5, 8, 2, 1, 14, 7, 4, 10, 8, 13, 15, 12, 9, 0, 3, 5, 6, 11] ]

/-- One S-box on 6 bits: the outer bits name the row, the inner four the column. -/
def sBox (n : Nat) (l : List Bool) : List Bool :=
  let v := bitsNat l
  let row := 2 * (v / 32) + v % 2
  let o := (sBoxes.getD n []).getD (16 * row + v / 2 % 16) 0
  (List.range 4).map fun i => o.testBit (3 - i)

/-- The round function. -/
def f (r k : List Bool) : List Bool :=
  let x := xorBits (perm eTable r) k
  perm pTable ((List.range 8).flatMap fun n => sBox n ((x.drop (6 * n)).take 6))

/-- The 16 round keys. -/
def schedule : List Nat → List Bool → List Bool → List (List Bool)
  | [], _, _ => []
  | n :: t, c, d =>
    let c := c.rotateLeft n
    let d := d.rotateLeft n
    perm pc2 (c ++ d) :: schedule t c d

/-- The round keys of an 8-byte key. -/
def roundKeys (key : Bytes) : List (List Bool) :=
  let k := perm pc1 (toBits key)
  schedule shifts (k.take 28) (k.drop 28)

/-- The rounds, ending with the halves exchanged. -/
def feistel : List (List Bool) → List Bool → List Bool → List Bool
  | [], l, r => r ++ l
  | k :: t, l, r => feistel t r (xorBits l (f r k))

/-- DES on one block of 8 bytes under given round keys. -/
def run (ks : List (List Bool)) (b : Bytes) : Bytes :=
  let x := perm ip (toBits (fit 8 b))
  ofBits (perm fp (feistel ks (x.take 32) (x.drop 32)))

/-- Single DES encryption. -/
def enc1 (key b : Bytes) : Bytes := run (roundKeys key) b

/-- Single DES decryption. -/
def dec1 (key b : Bytes) : Bytes := run (roundKeys key).reverse b

/-- The three parts of a bundle; a two-key bundle repeats its first part. -/
def part (key : Bytes) (i : Nat) : Bytes :=
  if key.length ≤ 16 ∧ i = 2 then slice key 0 8 else slice key (8 * i) 8

/-- TDES encryption of one block. -/
def enc (key b : Bytes) : Bytes := enc1 (part key 2) (dec1 (part key 1) (enc1 (part key 0) b))

/-- TDES decryption of one block. -/
def dec (key b : Bytes) : Bytes := dec1 (part key 0) (enc1 (part key 1) (dec1 (part key 2) b))

/-- A byte with odd parity in its low bit. -/
def oddParity (b : Byte) : Byte :=
  let ones := ((List.range 7).filter fun i => b.getLsbD (i + 1)).length
  (b &&& 0xFE) ||| (if ones % 2 = 0 then 1 else 0)

end Sys2Proof.Machine.Des
end

