-- ==== Sys2Proof/Machine/Modes.lean ====
section
/-!
DEFINITION. Modes of block ciphers (NIST SP 800-38A to 38F, IEEE 1619, ISO/IEC 9797-1) and the key derivation of R170, named by
R4 and written from those standards (PRESUMED, log 8). A cipher is its block function and its block length.
-/
namespace Sys2Proof.Machine.Modes

/-- A block function. -/
abbrev Blk := Bytes → Bytes

/-- ECB. -/
def ecb (f : Blk) (n : Nat) (m : Bytes) : Bytes := (chunks n m).flatMap f

/-- CBC encryption of a list of blocks. -/
def cbcEncL (f : Blk) : Bytes → List Bytes → Bytes
  | _, [] => []
  | iv, b :: t => let c := f (xorB b iv); c ++ cbcEncL f c t

/-- CBC encryption. -/
def cbcEnc (f : Blk) (n : Nat) (iv m : Bytes) : Bytes := cbcEncL f iv (chunks n m)

/-- CBC decryption of a list of blocks. -/
def cbcDecL (f : Blk) : Bytes → List Bytes → Bytes
  | _, [] => []
  | iv, b :: t => xorB (f b) iv ++ cbcDecL f b t

/-- CBC decryption; `f` deciphers. -/
def cbcDec (f : Blk) (n : Nat) (iv m : Bytes) : Bytes := cbcDecL f iv (chunks n m)

/-- CFB with full-block feedback, encryption. -/
def cfbEncL (f : Blk) : Bytes → List Bytes → Bytes
  | _, [] => []
  | iv, b :: t => let c := xorB b (f iv); c ++ cfbEncL f c t

/-- CFB, decryption. -/
def cfbDecL (f : Blk) : Bytes → List Bytes → Bytes
  | _, [] => []
  | iv, b :: t => xorB b (f iv) ++ cfbDecL f b t

/-- A 16-byte counter block plus `k`, big-endian, modulo 2^128 (R238). -/
def ctrAdd (c : Bytes) (k : Nat) : Bytes := beBytes 16 ((beNat c + k) % 2 ^ 128)

/-- A 16-byte counter block whose last 4 bytes rise by `k`, modulo 2^32. -/
def ctrAdd32 (c : Bytes) (k : Nat) : Bytes := c.take 12 ++ beBytes 4 ((beAt c 12 4 + k) % 2 ^ 32)

/-- A counter mode over blocks of 16 bytes, with the counter of block `i` given by `ctr i`. -/
def ctrL (f : Blk) (ctr : Nat → Bytes) : Nat → List Bytes → Bytes
  | _, [] => []
  | i, b :: t => xorB b (f (ctr i)) ++ ctrL f ctr (i + 1) t

/-- CTR with the whole block as the counter (R238). -/
def ctr (f : Blk) (c m : Bytes) : Bytes := ctrL f (ctrAdd c) 0 (chunks 16 m)

/-! ### GCM -/

/-- Multiplication in the field of GCM, numbers big-endian with bit 127 the coefficient of 1. -/
def gmulFuel : Nat → Nat → Nat → Nat → Nat
  | 0, _, _, z => z
  | n + 1, x, v, z =>
    gmulFuel n x (if v % 2 = 1 then (v / 2) ^^^ (0xE1 * 2 ^ 120) else v / 2) (if x.testBit n then z ^^^ v else z)

/-- Product of two field elements. -/
def gmul (x y : Nat) : Nat := gmulFuel 128 x y 0

/-- GHASH over whole blocks. -/
def ghash (h : Nat) (m : Bytes) : Bytes := beBytes 16 ((chunks 16 m).foldl (fun y b => gmul (y ^^^ beNat (fit 16 b)) h) 0)

/-- Zero bytes up to a multiple of 16. -/
def pad16 (m : Bytes) : Bytes := m ++ List.replicate ((16 - m.length % 16) % 16) 0

/-- The first counter block of GCM. -/
def gcmJ0 (h : Nat) (iv : Bytes) : Bytes :=
  if iv.length = 12 then iv ++ [0, 0, 0, 1]
  else ghash h (pad16 iv ++ beBytes 16 (8 * iv.length))

/-- The GCM keystream applied to a message. -/
def gcmCrypt (f : Blk) (iv m : Bytes) : Bytes :=
  let j0 := gcmJ0 (beNat (f (List.replicate 16 0))) iv
  ctrL f (fun i => ctrAdd32 j0 (i + 1)) 0 (chunks 16 m)

/-- The powers H^1 to H^n of the hash key. -/
def hPowers (h : Nat) : Nat → List Nat
  | 0 => []
  | 1 => [h]
  | n + 2 => let l := hPowers h (n + 1); l ++ [gmul (l.getLastD 0) h]

/-- The full tag of GCM over the additional data and a ciphertext. -/
def gcmTag (f : Blk) (iv aad c : Bytes) : Bytes :=
  let h := beNat (f (List.replicate 16 0))
  xorB (ghash h (pad16 aad ++ pad16 c ++ beBytes 8 (8 * aad.length) ++ beBytes 8 (8 * c.length))) (f (gcmJ0 h iv))

/-! ### CCM -/

/-- Length encoding of the additional data. -/
def ccmAad (aad : Bytes) : Bytes :=
  if aad = [] then []
  else if aad.length < 65280 then pad16 (beBytes 2 aad.length ++ aad)
  else pad16 ([0xFF, 0xFE] ++ beBytes 4 aad.length ++ aad)

/-- A counter block of CCM. -/
def ccmCtr (nonce : Bytes) (i : Nat) : Bytes :=
  let q := 15 - nonce.length
  [BitVec.ofNat 8 (q - 1)] ++ nonce ++ beBytes q i

/-- The tag of CCM over the plaintext, `t` bytes. -/
def ccmTag (f : Blk) (nonce aad p : Bytes) (t : Nat) : Bytes :=
  let q := 15 - nonce.length
  let b0 := [BitVec.ofNat 8 ((if aad = [] then 0 else 64) + 8 * ((t - 2) / 2) + (q - 1))] ++ nonce ++ beBytes q p.length
  let mac := (chunks 16 (b0 ++ ccmAad aad ++ pad16 p)).foldl (fun y b => f (xorB b y)) (List.replicate 16 0)
  (xorB mac (f (ccmCtr nonce 0))).take t

/-- The CCM keystream applied to a message. -/
def ccmCrypt (f : Blk) (nonce m : Bytes) : Bytes := ctrL f (fun i => ccmCtr nonce (i + 1)) 0 (chunks 16 m)

/-! ### XTS -/

/-- A tweak times α. -/
def xtsNext (t : Bytes) : Bytes :=
  let v := 2 * leNat t
  leBytes 16 (if 2 ^ 128 ≤ v then (v % 2 ^ 128) ^^^ 0x87 else v)

/-- One block under a tweak. -/
def xtsBlk (f : Blk) (t b : Bytes) : Bytes := xorB (f (xorB b t)) t

/-- The blocks of a data unit, ending with ciphertext stealing; `dec` exchanges the last two tweaks. -/
def xtsL (f : Blk) (dec : Bool) : Nat → Bytes → Bytes → Bytes
  | 0, _, _ => []
  | n + 1, t, m =>
    if m.length < 16 then []
    else if m.length = 16 ∨ 32 ≤ m.length then xtsBlk f t (m.take 16) ++ xtsL f dec n (xtsNext t) (m.drop 16)
    else
      let t2 := xtsNext t
      let cc := xtsBlk f (if dec then t2 else t) (m.take 16)
      let tail := m.drop 16
      xtsBlk f (if dec then t else t2) (tail ++ cc.drop tail.length) ++ cc.take tail.length

/-- One data unit with its number. -/
def xtsUnit (f tw : Blk) (dec : Bool) (num : Nat) (m : Bytes) : Bytes :=
  xtsL f dec (m.length / 16 + 1) (tw (leBytes 16 (num % 2 ^ 128))) m

/-- XTS over data units of `du` bytes (0: one unit), numbered from `num` (R238). -/
def xts (f tw : Blk) (dec : Bool) (num du : Nat) (m : Bytes) : Bytes :=
  let us := if du = 0 then [m] else chunks du m
  ((List.range us.length).flatMap fun k => xtsUnit f tw dec (num + k) (us.getD k []))

/-! ### Key wrap -/

/-- One wrapping step on A and the register R at `i`. -/
def kwStep (f : Blk) (n : Nat) (st : Bytes × List Bytes) (t : Nat) : Bytes × List Bytes :=
  let i := (t - 1) % n
  let b := f (st.1 ++ st.2.getD i [])
  (xorB (b.take 8) (beBytes 8 t), st.2.set i (b.drop 8))

/-- One unwrapping step. -/
def kwUnstep (f : Blk) (n : Nat) (st : Bytes × List Bytes) (t : Nat) : Bytes × List Bytes :=
  let i := (t - 1) % n
  let b := f (xorB st.1 (beBytes 8 t) ++ st.2.getD i [])
  (b.take 8, st.2.set i (b.drop 8))

/-- The wrapping function of SP 800-38F on A and the semiblocks. -/
def kwCore (f : Blk) (a m : Bytes) : Bytes :=
  let rs := chunks 8 m
  let r := ((List.range (6 * rs.length)).map (· + 1)).foldl (kwStep f rs.length) (a, rs)
  r.1 ++ r.2.flatten

/-- The unwrapping function. -/
def kwUncore (g : Blk) (c : Bytes) : Bytes × Bytes :=
  let rs := (chunks 8 c).tail
  let r := ((List.range (6 * rs.length)).map (· + 1)).reverse.foldl (kwUnstep g rs.length) (c.take 8, rs)
  (r.1, r.2.flatten)

/-- KW. -/
def kwWrap (f : Blk) (m : Bytes) : Bytes := kwCore f (List.replicate 8 0xA6) m

/-- KW, inverse: the data where the check passes. -/
def kwUnwrap (g : Blk) (c : Bytes) : Option Bytes :=
  let r := kwUncore g c
  if r.1 = List.replicate 8 0xA6 then some r.2 else none

/-- KWP. -/
def kwpWrap (f : Blk) (m : Bytes) : Bytes :=
  let a := [0xA6, 0x59, 0x59, 0xA6] ++ beBytes 4 m.length
  let p := m ++ List.replicate ((8 - m.length % 8) % 8) 0
  if p.length = 8 then f (a ++ p) else kwCore f a p

/-- KWP, inverse. -/
def kwpUnwrap (g : Blk) (c : Bytes) : Option Bytes :=
  let r := if c.length = 16 then (let b := g c; (b.take 8, b.drop 8)) else kwUncore g c
  let len := beAt r.1 4 4
  if r.1.take 4 = [0xA6, 0x59, 0x59, 0xA6] ∧ len ≤ r.2.length ∧ r.2.length < len + 8 ∧ (r.2.drop len).all (· == 0) then
    some (r.2.take len)
  else none

/-! ### MACs -/

/-- Doubling in the field of CMAC, for blocks of 8 or 16 bytes. -/
def dbl (b : Bytes) : Bytes :=
  let w := 8 * b.length
  let v := 2 * beNat b
  beBytes b.length (if 2 ^ w ≤ v then (v % 2 ^ w) ^^^ (if b.length = 16 then 0x87 else 0x1B) else v)

/-- CMAC with a block of `n` bytes. -/
def cmac (f : Blk) (n : Nat) (m : Bytes) : Bytes :=
  let k1 := dbl (f (List.replicate n 0))
  let bs := chunks n m
  let last := bs.getLastD []
  let lastX := if last.length = n then xorB last k1 else xorB (fit n (last ++ [0x80])) (dbl k1)
  f (xorB lastX (bs.dropLast.foldl (fun y b => f (xorB b y)) (List.replicate n 0)))

/-- Padding of R236 with blocks of `n` bytes: 0 method 2, 1 PKCS #7, 2 none, 3 method 1. -/
def pad (mode n : Nat) (m : Bytes) : Bytes :=
  let r := n - m.length % n
  if mode = 0 then m ++ [0x80] ++ List.replicate (r - 1) 0
  else if mode = 1 then m ++ List.replicate r (BitVec.ofNat 8 r)
  else if mode = 2 then m
  else if m = [] then List.replicate n 0
  else m ++ List.replicate (r % n) 0

/-- The padding report of R237: MSG_LEN and PAD_OK. -/
def padReport (mode n : Nat) (m : Bytes) : Nat × Bool :=
  let r := m.reverse
  if mode = 0 then
    let z := (r.takeWhile (· == 0)).length
    if z < n ∧ byteAt r z = 0x80 ∧ z < r.length then (m.length - z - 1, true) else (m.length, false)
  else
    let p := (byteAt r 0).toNat
    if 1 ≤ p ∧ p ≤ n ∧ p ≤ m.length ∧ (r.take p).all (fun b => b.toNat == p) then (m.length - p, true) else (m.length, false)

/-- CBC-MAC. -/
def cbcMac (f : Blk) (n : Nat) (m : Bytes) : Bytes :=
  (chunks n m).foldl (fun y b => f (xorB b y)) (List.replicate n 0)

/-- ISO/IEC 9797-1 MAC algorithm 1 with TDES, over a padded message. -/
def mac1 (key m : Bytes) : Bytes := cbcMac (Des.enc key) 8 m

/-- ISO/IEC 9797-1 MAC algorithm 3, over a padded message. -/
def mac3 (key m : Bytes) : Bytes :=
  Des.enc1 (slice key 0 8) (Des.dec1 (slice key 8 8) (cbcMac (Des.enc1 (slice key 0 8)) 8 m))

/-! ### Shorthands over AES with a key -/

/-- AES-CMAC. -/
def aesCmac (key m : Bytes) : Bytes := let ks := Aes.roundKeys key; cmac (Aes.encWith ks) 16 m

/-- TDES-CMAC. -/
def tdesCmac (key m : Bytes) : Bytes := cmac (Des.enc key) 8 m

/-- AES-CTR. -/
def aesCtr (key c m : Bytes) : Bytes := let ks := Aes.roundKeys key; ctr (Aes.encWith ks) c m

/-- AES-KWP wrap and unwrap. -/
def aesKwp (key m : Bytes) : Bytes := let ks := Aes.roundKeys key; kwpWrap (Aes.encWith ks) m

/-- Inverse of AES-KWP. -/
def aesUnkwp (key m : Bytes) : Option Bytes := let ks := Aes.roundKeys key; kwpUnwrap (Aes.decWith ks) m

/-- The derivation of R170: counter mode of SP 800-108 with AES-256-CMAC, an 8-bit counter and L 256. -/
def kdf (key label context : Bytes) : Bytes :=
  let k (i : Byte) : Bytes := aesCmac key ([i] ++ label ++ [0] ++ context ++ [1, 0])
  k 1 ++ k 2

end Sys2Proof.Machine.Modes
end

