-- ==== Sys2Proof/Machine/Root.lean ====
section
/-!
DEFINITION. Keys derived from the Device Root Key, and the two persistent stores that are sealed under them (R170 to R174, R178, R179,
R181, R435). A store is held as its content beside the key under which it is sealed: it reads as that content under the same key, and as
nothing under any other (log 55).
-/
namespace Sys2Proof.Machine

/-! ### Keys from the root (R170, R179) -/

/-- The Device Root Key as bytes; the Crucible's fields hold byte 0 in the top bits. -/
def State.drkBytes (s : State) : Bytes := beBytes 32 s.crucible.drk.toNat

/-- A key derived from the root with a label and a context of two halfwords (R170, R179). -/
def State.rootKey (s : State) (label : String) (a b : Nat) : Bytes :=
  Modes.kdf s.drkBytes (ascii label) (beBytes 2 a ++ beBytes 2 b)

/-- The storage key of a tenant at an epoch (R170). -/
def State.storageKey (s : State) (t e : Nat) : Bytes := s.rootKey "ZY-TSK" t e

/-- The persistent-area key of a tenant at an epoch (R179). -/
def State.tpaKey (s : State) (t e : Nat) : BitVec 256 := BitVec.ofNat 256 (beNat (s.rootKey "ZY-TPA" t e))

/-- The key of the Hearth persistent region (R179). -/
def State.hprKey (s : State) : BitVec 256 := BitVec.ofNat 256 (beNat (s.rootKey "ZY-HPR" 0 0))

/-- A root is held (R178). -/
def State.rooted (s : State) : Bool := s.crucible.drk != 0

/-- The epoch of a tenant. -/
def State.epochOf (s : State) (t : Nat) : Nat := (s.tenantOf t).epoch.toNat

/-- An epoch that still unseals: the current one or the one before (R174). -/
def State.epochOk (s : State) (t e : Nat) : Bool := e == s.epochOf t || (e + 1) % 65536 == s.epochOf t

/-! ### The Hearth persistent region (R181, R194, R219, R435) -/

/-- The region is sealed under the present root. -/
def State.regionOpen (s : State) : Bool := s.rooted && s.vault.regionKey == s.hprKey

/-- Custodian set `n`: none where the region cannot be read. -/
def State.setOf (s : State) (n : Nat) : CustSet := if s.regionOpen then tget {} s.vault.sets n else {}

/-- The device's copy of the Backup Transport Key (R219). -/
def State.heldBtk (s : State) : Option (BitVec 256) := if s.regionOpen then s.vault.btk else none

/-- Seal the region under the present root. -/
def State.sealRegion (s : State) : State := { s with vault := { s.vault with regionKey := s.hprKey } }

/-! ### Tenant persistent areas (R134, R181, R435) -/

/-- The persistent area of tenant `t`, whose epoch is `e`. -/
def State.tenantArea (s : State) (t e : Nat) : Bytes :=
  let b := tget [] s.vault.areas t
  if b ≠ [] ∧ s.rooted ∧ tget 0 s.vault.areaKeys t = s.tpaKey t e then b else []

/-- Write the persistent area of tenant `t`, sealed at epoch `e`. -/
def State.putArea (t e : Nat) (b : Bytes) (s : State) : State :=
  State.wroteArea b.length { s with vault := { s.vault with
      areas := tset [] t b s.vault.areas
      areaKeys := tset 0 t (if b = [] then 0 else s.tpaKey t e) s.vault.areaKeys } }

/-- The stored copy of the LMK can be read (R543). -/
def State.lmkReadable (s : State) (e : Nat) : Bool := s.legacy.bound && s.rooted && s.legacy.lmkSeal == s.tpaKey 0 e

/-- The areas of tenant `t` are sealed anew as its epoch goes from `e` to `e'`, its part of the LMK among them (R174, R179, R543). -/
def State.resealArea (t e e' : Nat) (s : State) : State :=
  let lmk := t == 0 && s.lmkReadable e
  let s := s.putArea t e' (s.tenantArea t e)
  if lmk then State.wroteArea s.legacy.lmk.length { s with legacy := { s.legacy with lmkSeal := s.tpaKey 0 e' } } else s

end Sys2Proof.Machine
end

