-- ==== Sys2Proof/Machine/Rack.lean ====
section
/-!
DEFINITION. The key register file: slots and their attribute words, admission, placing and erasing keys, sealed
blobs, and the Temper pass (R152 to R187, R572).
-/
namespace Sys2Proof.Machine

/-! ### Slots (R152 to R159) -/

/-- Slot `n` of the Rack. -/
def State.slotOf (s : State) (n : Nat) : Slot := tget {} s.rack.slots n

/-- TENANT of an attribute word (R154). -/
def aTenant (a : BitVec 128) : Nat := bits a 11 0
/-- CLASS. -/
def aClass (a : BitVec 128) : Nat := bits a 15 12
/-- USAGE_1 and USAGE_2 as two characters, the first in the high byte. -/
def aUsage (a : BitVec 128) : Nat := 256 * bits a 23 16 + bits a 31 24
/-- ALG, a character. -/
def aAlg (a : BitVec 128) : Nat := bits a 39 32
/-- MODE, a character. -/
def aMode (a : BitVec 128) : Nat := bits a 47 40
/-- EXPORT, a character. -/
def aExport (a : BitVec 128) : Nat := bits a 55 48
/-- CONTEXT, a character. -/
def aContext (a : BitVec 128) : Nat := bits a 79 72
/-- KLEN. -/
def aKlen (a : BitVec 128) : Nat := bits a 87 80
/-- SUB. -/
def aSub (a : BitVec 128) : Nat := bits a 91 88
/-- KCV, its first byte lowest. -/
def aKcv (a : BitVec 128) : Nat := bits a 119 96
/-- VALID. -/
def aValid (a : BitVec 128) : Bool := a.getLsbD 127

/-- The code of a character. -/
def ch (c : Char) : Nat := c.toNat

/-- A usage code of two characters. -/
def use2 (a b : Char) : Nat := 256 * a.toNat + b.toNat

/-- The sixteen bytes of an attribute word. -/
def attrBytes (a : BitVec 128) : Bytes := leBytes 16 a.toNat

/-- The attribute word of sixteen bytes. -/
def attrOf (b : Bytes) : BitVec 128 := BitVec.ofNat 128 (leNat (fit 16 b))

/-- KLEN bytes of material. -/
def Slot.key (x : Slot) : Bytes := (leBytes 72 x.material.toNat).take (aKlen x.attr)

/-- The material field of a key. -/
def materialOf (k : Bytes) : BitVec 576 := BitVec.ofNat 576 (leNat (fit 72 k))

/-- Member `m` of a packed AES set; the whole key for other algorithms (R156). -/
def member (a : BitVec 128) (k : Bytes) (m : Nat) : Bytes :=
  if aAlg a = ch 'A' then (let l := aKlen a / max 1 (aSub a); slice k (m * l) l) else k

/-- The CHECK code of a slot (R157). -/
def State.checkOf (s : State) (n : Nat) (x : Slot) : BitVec 64 := Config.slotCheck s.rack.rik n x.attr x.material

/-- The key check value of a key (R158). -/
def kcvOf (alg sub : Nat) (k : Bytes) : Bytes :=
  (if alg = ch 'A' then Modes.aesCmac (k.take (k.length / max 1 sub)) (List.replicate 16 0)
   else if alg = ch 'T' then Des.enc k (List.replicate 8 0)
   else if alg = ch 'H' then Sha.hmacId sub k []
   else Sha.sha256 (Ecc.publicKey sub k)).take 3

/-- Number of slots with VALID 1 (R187). -/
def State.rackUsed (s : State) : Nat := (s.rack.slots.filter fun e => aValid e.2.attr).length

/-- The lowest-numbered empty slot below `n`, given the listed slots (R165). -/
def State.lowestEmpty (s : State) : Option Nat :=
  (List.range (s.rack.slots.length + 1)).find? fun n => decide (n < 65536) && !aValid (s.slotOf n).attr

/-- Cached copies taken from a slot are invalidated in every engine, and learned terminal entries derived from it removed
(R162, R297). An initial key derived from it and not yet inserted is dropped with the note of a slot under revocation. -/
def State.forgetKey (n : Nat) (s : State) : State :=
  let lost := s.routing.terms.flatMap fun e => (e.2.pending.filter fun p => p.2.slot == n).map (·.1)
  let mark (c : Ctx) : Ctx := if lost.contains c.op then { c with note := 2 } else c
  { s with
    rack := { s.rack with caches := tmap [] (fun _ l => l.filter fun e => e.slot != n) s.rack.caches }
    plan := { s.plan with ctxs := s.plan.ctxs.map (fun e => (e.1, mark e.2)), ready := s.plan.ready.map mark }
    routing := { s.routing with terms := tmap {} (fun _ t => { t with
      live := t.live.filter fun e => e.slot != n
      spare := t.spare.filter fun e => e.slot != n
      pending := t.pending.filter fun e => e.2.slot != n
      skip := min 65535 (t.skip + (t.pending.filter fun e => e.2.slot == n).length) }) s.routing.terms } }

/-- Erase a slot: it becomes empty (R159), its cached copies go. -/
def State.eraseSlot (n : Nat) (s : State) : State :=
  let s := s.forgetKey n
  { s with rack := { s.rack with slots := tset {} n {} s.rack.slots } }

/-- Place a key in a slot with its attribute word; CHECK is computed (R157). -/
def State.placeSlot (n : Nat) (attr : BitVec 128) (material : BitVec 576) (s : State) : State :=
  let x : Slot := { material := material, attr := attr }
  { s with rack := { s.rack with slots := tset {} n { x with check := s.checkOf n x } s.rack.slots } }

/-- A CHECK mismatch (R157): a CHECK fault of block 0x12, the slot erased, its tenant's SLOTS_USED lowered, event 0x1201. -/
def State.slotFault (n access : Nat) (s : State) : State :=
  let t := aTenant (s.slotOf n).attr
  let s := (s.report 0x12 3).raiseLevel 0x12
  let s := s.eraseSlot n
  let s := s.modTenant t fun x => { x with slotsUsed := x.slotsUsed - 1 }
  s.log 0x1201 0x12 (leBytes 2 n ++ leBytes 2 t ++ [BitVec.ofNat 8 access])

/-- An access of an operation to a slot (R157, R159, R161): empty, a CHECK mismatch, another tenant's, or the key, with which
`k` goes on. `access` is 0 for an engine, 1 for the Hearth's control port. -/
def State.withSlot (o : Op) (n access : Nat) (k : Slot → State → State) (s : State) : State :=
  let x := s.slotOf n
  if ¬ aValid x.attr then s.fail o.id 0x0201 n
  else if x.check ≠ s.checkOf n x then (s.slotFault n access).fail o.id 0x0502 (0x12 + 256 * 3)
  else if aTenant x.attr ≠ o.tenant then s.fail o.id 0x0203 (o.tenant + 2 ^ 31)
  else k x s

/-- An access of an engine to the Rack for an operation: the Rack in service, then check 6 (R28, R35, R157, R161). -/
def State.rackAccess (o : Op) (n : Nat) (k : Slot → State → State) (s : State) : State :=
  if (s.blockOf 0x12).out then s.fail o.id 0x0302 0x12 else s.withSlot o n 0 k

/-- An access of the Hearth through the control port: check 6, which waits while PD28 has no power (R48, R160). -/
def State.portAccess (o : Op) (n : Nat) (k : Slot → State → State) (s : State) : State :=
  if ¬ s.powered 28 then s else s.withSlot o n 1 k

/-- ST_USAGE_DENIED with the slot (R130). -/
def State.denyUsage (o : Op) (n : Nat) (s : State) : State := s.fail o.id 0x0202 n

/-! ### Combinations of attributes (R155, R156, R167, R572) -/

/-- A row of R572: class, usage codes, algorithms, modes. -/
structure KeyRow where
  cls : Nat
  uses : List Nat
  algs : List Nat
  modes : List Nat

/-- The rows of R572. -/
def keyRows : List KeyRow :=
  let at_ := [ch 'A', ch 'T']
  let bde := [ch 'B', ch 'D', ch 'E']
  [ ⟨1, [use2 'B' '0'], at_, [ch 'X', ch 'N']⟩,
    ⟨2, [use2 'P' '0'], at_, bde⟩,
    ⟨3, [use2 'P' '0'], at_, bde⟩,
    ⟨4, [use2 'M' '0', use2 'M' '1', use2 'M' '3', use2 'M' '5', use2 'M' '6', use2 'V' '1', use2 'V' '2', use2 'C' '0'], at_,
      [ch 'C', ch 'G', ch 'V']⟩,
    ⟨4, [use2 'M' '7'], [ch 'H'], [ch 'C', ch 'G', ch 'V']⟩,
    ⟨4, [use2 'E' '0', use2 'E' '1', use2 'E' '2'], at_, [ch 'C', ch 'G', ch 'V', ch 'X']⟩ ] ++
  [ ⟨5, [use2 'D' '0'], at_, bde⟩,
    ⟨6, [use2 'K' '1'], at_, bde⟩,
    ⟨7, [use2 'K' '0'], at_, bde⟩,
    ⟨8, [0], [ch 'A'], bde⟩,
    ⟨9, [0], [ch 'E'], [ch 'S']⟩,
    ⟨10, [0], [ch 'E'], [ch 'X']⟩ ]

/-- KLEN that some SUB of an algorithm admits (R156). -/
def klenOk (alg klen : Nat) : Bool :=
  if alg = ch 'A' then [16, 24, 32, 48, 64, 72].contains klen
  else if alg = ch 'T' then klen == 16 || klen == 24
  else if alg = ch 'H' then decide (1 ≤ klen) && decide (klen ≤ 72)
  else [28, 32, 48, 66, 57, 56].contains klen

/-- SUB that fits class, algorithm and KLEN (R156, R572). -/
def subOk (cls alg klen sub : Nat) : Bool :=
  if alg = ch 'A' then
    decide (1 ≤ sub) && decide (sub ≤ 4) && (klen == 16 * sub || klen == 24 * sub || klen == 32 * sub)
  else if alg = ch 'T' then klen == 8 * sub && (sub == 2 || sub == 3)
  else if alg = ch 'H' then decide (1 ≤ sub) && decide (sub ≤ 8)
  else
    klen == Ecc.keyLen sub && (if cls = 9 then decide (1 ≤ sub) && decide (sub ≤ 6)
      else [1, 2, 3, 4, 7, 8].contains sub)

/-- A digit or letter, as key version characters are (R167). -/
def alnum (c : Nat) : Bool :=
  (decide (0x30 ≤ c) && decide (c ≤ 0x39)) || (decide (0x41 ≤ c) && decide (c ≤ 0x5A)) || (decide (0x61 ≤ c) && decide (c ≤ 0x7A))

/-- The first byte at which a template fails, judged in ascending order, each byte against those before it (R167). -/
def templateFault (t : Bytes) (tenant : Nat) : Option Nat :=
  let a := attrOf t
  let b (i : Nat) : Nat := (byteAt t i).toNat
  let rows0 := keyRows.filter fun r => r.cls == aClass a
  let rows1 := rows0.filter fun r => r.uses.any fun u => u / 256 == b 2
  let rows2 := rows1.filter fun r => r.uses.contains (aUsage a)
  let rows3 := rows2.filter fun r => r.algs.contains (aAlg a)
  let rows4 := rows3.filter fun r => r.modes.contains (aMode a)
  if b 0 ≠ tenant % 256 then some 0
  else if b 1 % 16 ≠ tenant / 256 ∨ rows0.isEmpty then some 1
  else if rows1.isEmpty then some 2
  else if rows2.isEmpty then some 3
  else if rows3.isEmpty then some 4
  else if rows4.isEmpty then some 5
  else if ¬ [ch 'E', ch 'S', ch 'N'].contains (aExport a) then some 6
  else if ¬ alnum (b 7) ∨ b 7 = 0x63 then some 7
  else if ¬ alnum (b 8) then some 8
  else if ¬ [ch '0', ch '1', ch '2'].contains (aContext a) then some 9
  else if ¬ klenOk (aAlg a) (aKlen a) then some 10
  else if ¬ subOk (aClass a) (aAlg a) (aKlen a) (aSub a) ∨ b 11 / 16 ≠ 0 then some 11
  else firstOff (fun x => x != 0) (t.drop 12 |>.take 4) 12

/-- The stored attribute word: a template with ORIGIN, the KCV and VALID set (R154). -/
def finalAttr (t : BitVec 128) (origin : Nat) (kcv : Bytes) : BitVec 128 :=
  attrOf ((attrBytes t).take 11 ++ [BitVec.ofNat 8 (aSub t + 16 * origin)] ++ fit 3 kcv ++ [0x80])

/-- Material of a new key from drawn bytes (R166): parity set odd for TDES; for a Weierstrass curve a scalar by rejection sampling over the
order, none where this candidate is rejected. -/
def shapeKey (alg sub : Nat) (b : Bytes) : Option Bytes :=
  if alg = ch 'T' then some (b.map Des.oddParity)
  else if alg = ch 'E' ∧ sub ≤ 4 then
    let n := (Ecc.curve sub).n
    let k := beNat b % 2 ^ (Nat.log2 n + 1)
    if k = 0 ∨ n ≤ k then none else some (beBytes b.length k)
  else some b

/-! ### Admission of a key to a use (R161, R230, R313) -/

/-- CLASS and MODE fit a use. -/
def admits (a : BitVec 128) (cls : Nat) (modes : List Char) : Bool :=
  aClass a == cls && modes.any fun m => ch m == aMode a

/-! ### Sealed blobs (R173 to R176) -/

/-- The 32 header bytes of a sealed blob. -/
def blobHeader (kind tenant epoch params wlen : Nat) (attr : Bytes) : Bytes :=
  [0x5A, 0x59, 0x53, 0x42, 0x01] ++ leBytes 1 kind ++ leBytes 2 tenant ++ leBytes 2 epoch ++ leBytes 2 params ++
    leBytes 4 wlen ++ fit 16 attr

/-- The length of the wrapped part for `m` bytes of material (R318). -/
def wrappedLen (m : Nat) : Nat := 8 * ((32 + m + 7) / 8) + 8

/-- A sealed blob under the storage key of the tenant's current epoch. -/
def State.sealBlob (s : State) (kind tenant params : Nat) (attr material : Bytes) : Bytes :=
  let e := s.epochOf tenant
  let h := blobHeader kind tenant e params (wrappedLen material.length) attr
  h ++ Modes.aesKwp (s.storageKey tenant e) (h ++ material)

/-- The first failing header field of a blob under R174, by its offset; `kinds` are the kinds accepted. -/
def State.blobFault (s : State) (b : Bytes) (tenant : Nat) (kinds : List Nat) : Option Nat :=
  if b.take 4 ≠ [0x5A, 0x59, 0x53, 0x42] then some 0
  else if byteAt b 4 ≠ 1 then some 4
  else if ¬ kinds.contains (byteAt b 5).toNat then some 5
  else if leAt b 6 2 ≠ tenant ∨ ¬ (s.tenantOf tenant).live then some 6
  else if ¬ s.epochOk tenant (leAt b 8 2) then some 8
  else if leAt b 12 4 + 32 ≠ b.length then some 12
  else none

/-- The material of a blob whose header has passed: none where the KWP check fails or the inner header differs (R174). -/
def State.openBlob (s : State) (b : Bytes) (tenant : Nat) : Option Bytes :=
  let w := b.drop 32
  if w.length % 8 ≠ 0 ∨ w.length < 16 then none
  else
    match Modes.aesUnkwp (s.storageKey tenant (leAt b 8 2)) w with
    | none => none
    | some m => if m.take 32 = b.take 32 then some (m.drop 32) else none

/-! ### The Temper pass (R182 to R187) -/

/-- The mask of slot `n` on pass `p` (R183). -/
def slotMask (mk : BitVec 256) (n p : Nat) : BitVec 768 :=
  BitVec.ofNat 768 (beNat (Modes.aesCtr (beBytes 32 mk.toNat) (beBytes 4 n ++ beBytes 8 p ++ [0, 0, 0, 0]) (List.replicate 96 0)))

/-- The pass whose mask slot `n` stands under (R183). -/
def State.maskPassOf (s : State) (n : Nat) : Nat := if s.rack.running ∧ s.rack.reached ≤ n then s.rack.pass - 1 else s.rack.pass

/-- The content of a slot, byte 0 in the top bits. -/
def Slot.content (x : Slot) : BitVec 768 :=
  BitVec.ofNat 768 (beNat (leBytes 72 x.material.toNat ++ attrBytes x.attr ++ leBytes 8 x.check.toNat))

/-- What the cells of slot `n` store (R183): the content under its mask, complemented on odd passes. -/
def State.storedSlot (s : State) (n : Nat) : BitVec 768 :=
  let p := s.maskPassOf n
  let v := (s.slotOf n).content ^^^ slotMask s.rack.maskKey n p
  if p % 2 = 0 then v else ~~~ v

/-- Upper edges of the temperature bands, in 0.125 °C (R185). -/
def bandEdges : List Int := [40, 120, 200, 280, 360, 440, 600, 680, 760]

/-- Period of a band in ms (R185). -/
def bandPeriod (b : Nat) : Nat := [60000, 32000, 16000, 8000, 4000, 2000, 1000, 500, 250, 100].getD b 100

/-- The band after a reading: a band changes only where the reading has passed its edge by 2 °C (R185). -/
def nextBand (band : Option Nat) (tj : Int) : Nat :=
  let count (off : Int) : Nat := (bandEdges.filter fun e => decide (e + off ≤ tj)).length
  match band with
  | none => count 0
  | some b => if b < count 16 then count 16 else if count (-15) < b then count (-15) else b

/-- TEMPER_TEMP_READ (R185): the junction temperature read, in 0.125 °C. -/
def execTemperTempRead (tj : Int) (s : State) : Out :=
  .next { s with rack := { s.rack with band := some (nextBand s.rack.band tj) } }

/-- Period of the next pass (R185, R186). -/
def State.temperPeriod (s : State) : Nat :=
  if s.setting 0x05 = 1 then s.setting 0x06
  else match s.rack.band with
    | some b => bandPeriod b
    | none => 1000

/-- TEMPER_PASS_START (R185 to R187): in READY, LOCKED and RECOVERY, once the running pass has finished. -/
def execTemperPassStart (s : State) : Out :=
  .next (
    let ok := s.chip.state == .ready || s.chip.state == .locked || s.chip.state == .recovery
    if ¬ ok ∨ s.rack.running ∨ s.quenching then s
    else { s with rack := { s.rack with
      running := true, reached := 0, pass := s.rack.pass + 1, passAt := s.now, periodMs := s.temperPeriod,
      fixedMode := s.setting 0x05 == 1 } })

/-- The pass ends with the last slot (R184, R187); the terminal caches follow it (R298). -/
def State.endPass (s : State) : State :=
  if s.rack.reached < 65536 then s
  else
    { s with
      rack := { s.rack with running := false, passes := s.rack.passes + 1,
                            lastUs := min 65535 ((s.now - s.rack.passAt) / 1000) }
      routing := { s.routing with terms := tmap {} (fun _ t => { t with maskPass := s.rack.pass }) s.routing.terms } }

/-- TEMPER_SLOT_REWRITE (R157, R183, R184): the next slot in ascending order is rewritten under the pass's mask; a CHECK mismatch
found by it erases the slot and the pass goes on. -/
def execTemperSlotRewrite (s : State) : Out :=
  .next (
    if ¬ s.rack.running ∨ s.quenching then s
    else
      let n := s.rack.reached
      let x := s.slotOf n
      let s := if aValid x.attr ∧ x.check ≠ s.checkOf n x then s.slotFault n 2 else s
      State.endPass { s with rack := { s.rack with reached := n + 1 } })

end Sys2Proof.Machine
end

