-- ==== Sys2Proof/Machine/KeyBlocks.lean ====
section
/-!
DEFINITION. X9.143 key blocks of versions 'B' and 'D' (R188 to R193); what R188 to R193 leave to the standard is written from it
(PRESUMED, log 8).
-/
namespace Sys2Proof.Machine

/-- One of the two keys derived from a protection key: `mac` for the MAC key, else the encryption key. -/
def kbpkDerive (versionD : Bool) (key : Bytes) (mac : Bool) : Bytes :=
  let blk := if versionD then 16 else 8
  let code := if versionD then (if key.length = 16 then 2 else if key.length = 24 then 3 else 4) else (if key.length = 16 then 0 else 1)
  let one (i : Nat) : Bytes :=
    let m : Bytes := [BitVec.ofNat 8 i, 0, if mac then 1 else 0, 0] ++ beBytes 2 code ++ beBytes 2 (8 * key.length)
    if versionD then Modes.aesCmac key m else Modes.tdesCmac key m
  ((List.range ((key.length + blk - 1) / blk)).flatMap fun i => one (i + 1)).take key.length

/-- The MAC of a block over its header and its clear key data: 16 bytes, or 8 in version 'B'. -/
def kbMac (versionD : Bool) (key m : Bytes) : Bytes :=
  let k := kbpkDerive versionD key true
  if versionD then Modes.aesCmac k m else Modes.tdesCmac k m

/-- The clear key data of a block from its encrypted part, the MAC the initial vector. -/
def kbDecrypt (versionD : Bool) (key iv c : Bytes) : Bytes :=
  let k := kbpkDerive versionD key false
  if versionD then Modes.cbcDec (Aes.dec k) 16 iv c else Modes.cbcDec (Des.dec k) 8 iv c

/-- Encryption of the clear key data. -/
def kbEncrypt (versionD : Bool) (key iv m : Bytes) : Bytes :=
  let k := kbpkDerive versionD key false
  if versionD then Modes.cbcEnc (Aes.enc k) 16 iv m else Modes.cbcEnc (Des.enc k) 8 iv m

/-- Printable ASCII. -/
def printable (b : Byte) : Bool := decide (0x20 ≤ b.toNat) && decide (b.toNat ≤ 0x7E)

/-- Hash of an HM block as a SUB of R156. -/
def hmSub (d : Bytes) : Option Nat :=
  let codes := ["20", "21", "22", "23", "30", "31", "32", "33"].map ascii
  if codes.contains d then some (codes.findIdx (· == d) + 1) else none

/-- An HMAC key's SUB stands in an HM block; the count of optional blocks is where its want shows (R191, R193). -/
def wantsHm (kb : Bytes) : Bool := byteAt kb 7 == 0x48

/-- The optional blocks from offset `o`: where they end and the SUB of an HM block, or the offset that fails (R191); of a count that passes the
end of the block, offset 12 (DEDUCED, log 8). -/
def optBlocks (kb : Bytes) : Nat → Nat → Option Nat → Except Nat (Nat × Option Nat)
  | 0, o, sub => .ok (o, sub)
  | n + 1, o, sub =>
    let id := slice kb o 2
    if kb.length < o + 4 then .error 12
    else if ¬ [ascii "HM", ascii "KS", ascii "KV", ascii "PB"].contains id then .error o
    else
      match unhexText (slice kb (o + 2) 2) with
      | none => .error (o + 2)
      | some l =>
        let len := beNat l
        if len < 4 ∨ kb.length < o + len then .error (o + 2)
        else
          let d := slice kb (o + 4) (len - 4)
          if id = ascii "HM" then
            match hmSub d with
            | some v => optBlocks kb n (o + len) (some v)
            | none => .error (o + 4)
          else
            match firstOff (fun b => !printable b) d (o + 4) with
            | some f => .error f
            | none => optBlocks kb n (o + len) sub

/-- CLASS of a usage code with the choice of PLAN[3:0] (R190). -/
def classOfUsage (u plan : Nat) : Option Nat :=
  if u = use2 'P' '0' then (if plan = 2 ∨ plan = 3 then some plan else none)
  else if plan ≠ 0 then none
  else
    match keyRows.find? fun r => r.uses.contains u && u != 0 with
    | some r => some r.cls
    | none => none

/-- What the header of a block says: attribute template without KLEN, end of the optional blocks. -/
structure KbHead where
  attr : BitVec 128
  stop : Nat
  versionD : Bool

/-- The header of an imported block, judged in header order (R188 to R191, R572): the template it makes, or the failing byte. -/
def kbHeader (kb : Bytes) (plan tenant alg sub : Nat) : Except Nat KbHead :=
  let b (i : Nat) : Nat := (byteAt kb i).toNat
  let isD := b 0 == ch 'D' && alg == ch 'A'
  let isB := b 0 == ch 'B' && alg == ch 'T' && (sub == 2 || sub == 3)
  let u := 256 * b 5 + b 6
  let rows1 := keyRows.filter fun r => r.uses.any fun x => x / 256 == b 5 && x != 0
  if ¬ isD ∧ ¬ isB then .error 0
  else if undec (slice kb 1 4) ≠ some kb.length then .error 1
  else if rows1.isEmpty then .error 5
  else if ¬ rows1.any (fun r => r.uses.contains u) then .error 6
  else
    match classOfUsage u plan with
    | none => .error 5
    | some cls =>
      let rows2 := keyRows.filter fun r => r.cls == cls && r.uses.contains u
      let rows3 := rows2.filter fun r => r.algs.contains (b 7)
      if rows3.isEmpty then .error 7
      else if ¬ rows3.any (fun r => r.modes.contains (b 8)) then .error 8
      else if ¬ alnum (b 9) ∨ b 9 = 0x63 then .error 9
      else if ¬ alnum (b 10) then .error 10
      else if ¬ [ch 'E', ch 'S', ch 'N'].contains (b 11) then .error 11
      else
        match undec (slice kb 12 2) with
        | none => .error 12
        | some n =>
          let opts := optBlocks kb n 16 none
          let short : Bool := match opts with
            | .error f => f == 12
            | .ok (_, hm) => wantsHm kb && hm.isNone
          if short then .error 12
          else if ¬ [ch '0', ch '1', ch '2'].contains (b 14) then .error 14
          else if b 15 ≠ ch '0' then .error 15
          else
            match opts with
            | .error f => .error f
            | .ok (stop, hm) =>
            .ok { attr := attrOf (leBytes 2 (tenant + 4096 * cls) ++ slice kb 5 4 ++ slice kb 11 1 ++ slice kb 9 2 ++
                    slice kb 14 1 ++ [0, BitVec.ofNat 8 (if b 7 = ch 'H' then hm.getD 0 else 0)])
                  stop := stop, versionD := isD }

/-- SUB that a length gives for 'A' and 'T' (R189): an AES key is one member. -/
def subOfLen (alg klen sub : Nat) : Nat := if alg = ch 'A' then 1 else if alg = ch 'T' then klen / 8 else sub

/-- The key in a block whose header has passed; none where decryption or the MAC check fails or the key does not fit (R193). -/
def kbOpen (kb : Bytes) (h : KbHead) (key : Bytes) : Option Bytes :=
  let macLen := if h.versionD then 32 else 16
  let bl := if h.versionD then 16 else 8
  if kb.length < h.stop + macLen then none
  else
    match unhexText (slice kb h.stop (kb.length - macLen - h.stop)), unhexText (kb.drop (kb.length - macLen)) with
    | some c, some mac =>
      if c.length % bl ≠ 0 ∨ c = [] then none
      else
        let m := kbDecrypt h.versionD key mac c
        let klen := beAt m 0 2 / 8
        let alg := aAlg h.attr
        if kbMac h.versionD key (kb.take h.stop ++ m) ≠ mac then none
        else if beAt m 0 2 % 8 ≠ 0 ∨ m.length < 2 + klen then none
        else if ¬ klenOk alg klen ∨ ¬ subOk (aClass h.attr) alg klen (subOfLen alg klen (aSub h.attr)) then none
        else some (slice m 2 klen)
    | _, _ => none

/-- The attribute template completed with KLEN and SUB. -/
def kbAttr (h : KbHead) (klen : Nat) : BitVec 128 :=
  attrOf ((attrBytes h.attr).take 10 ++ [BitVec.ofNat 8 klen, BitVec.ofNat 8 (subOfLen (aAlg h.attr) klen (aSub h.attr))])

/-- Optional blocks of an exported block: HM for an HMAC key, and a PB block where the header needs padding (R192); `pad` gives
the padding characters. -/
def exportOpts (versionD : Bool) (a : BitVec 128) (pad : Bytes) : Nat × Bytes :=
  let bl := if versionD then 16 else 8
  let hm := if aAlg a = ch 'H' then
      ascii "HM06" ++ ascii (["20", "21", "22", "23", "30", "31", "32", "33"].getD (aSub a - 1) "") else []
  let short := (bl - (16 + hm.length) % bl) % bl
  let l := if short = 0 then 0 else if short < 4 then short + bl else short
  if l = 0 then (if hm = [] then 0 else 1, hm)
  else (if hm = [] then 1 else 2,
    hm ++ ascii "PB" ++ hexText [BitVec.ofNat 8 l] ++ (pad.take (l - 4)).map fun b => hexDigit (b.toNat % 16))

/-- An X9.143 block of a key under a protection key (R192); `rnd` supplies 64 free bytes for padding. -/
def kbWrite (versionD : Bool) (a : BitVec 128) (key prot rnd : Bytes) : Bytes :=
  let bl := if versionD then 16 else 8
  let macLen := if versionD then 32 else 16
  let (n, opts) := exportOpts versionD a (rnd.take 32)
  let dataLen := ((2 + key.length + bl - 1) / bl) * bl
  let m := beBytes 2 (8 * key.length) ++ key ++ (rnd.drop 32).take (dataLen - 2 - key.length)
  let total := 16 + opts.length + 2 * dataLen + macLen
  let head := [if versionD then 0x44 else 0x42] ++ decText 4 total ++ slice (attrBytes a) 2 4 ++ slice (attrBytes a) 7 2 ++
    slice (attrBytes a) 6 1 ++ decText 2 n ++ slice (attrBytes a) 9 1 ++ ascii "0" ++ opts
  let mac := kbMac versionD prot (head ++ m)
  head ++ hexText (kbEncrypt versionD prot mac m) ++ hexText mac

/-- A key that may leave the device in a block (R192): `ceremony` also lets a sensitive key leave (R213). -/
def mayLeave (a : BitVec 128) (ceremony : Bool) : Bool :=
  (aExport a == ch 'E' || (ceremony && aExport a == ch 'S')) && aContext a != ch '1' && aUsage a != 0

/-- The protection key fits the version of a block (R188). -/
def protFits (versionD : Bool) (a : BitVec 128) : Bool :=
  if versionD then aAlg a == ch 'A' else aAlg a == ch 'T'

end Sys2Proof.Machine
end

