-- ==== Sys2Proof/Machine/Tenants.lean ====
section
/-!
DEFINITION. Tenant quotas, allowed-tenant lists, shares and VF mailboxes (R134 to R151).
-/
namespace Sys2Proof.Machine

/-- Sum of SLOT_QUOTA over all tenants (R136). -/
def State.slotQuotaSum (s : State) : Nat := (s.vault.tenants.map fun t => t.2.slotQuota).sum

/-- Sum of STORE_QUOTA over all tenants (R137). -/
def State.storeQuotaSum (s : State) : Nat := (s.vault.tenants.map fun t => t.2.storeQuota).sum

/-- A quota write is refused (R137). -/
def State.refuseQuota (s : State) : State := { s with qmgr := { s.qmgr with quotaRefused := true } }

/-- An accepted quota write takes effect at once and waits to be made persistent (R137). -/
def State.acceptQuota (t : Nat) (g : Tenant → Tenant) (s : State) : State :=
  let s := s.modTenant t g
  { s with vault := { s.vault with quotaDirty := tset false t true s.vault.quotaDirty } }

/-- SLOT_QUOTA_WRITE (R137). -/
def execSlotQuotaWrite (value : BitVec 32) (s : State) : Out :=
  .next (s.onBar fun s =>
    let t := s.qmgr.tenSel
    let e := s.tenantOf t
    let q := bits value 16 0
    if ¬ e.live ∨ q < e.slotsUsed ∨ 65536 < s.slotQuotaSum - e.slotQuota + q ∨ s.worlds.hearth.status = 3 then s.refuseQuota
    else s.acceptQuota t fun x => { x with slotQuota := q })

/-- STORE_QUOTA_WRITE (R137). -/
def execStoreQuotaWrite (value : BitVec 32) (s : State) : Out :=
  .next (s.onBar fun s =>
    let t := s.qmgr.tenSel
    let e := s.tenantOf t
    let q := bits value 12 0
    if ¬ e.live ∨ q < e.storeUsed ∨ 4096 < s.storeQuotaSum - e.storeQuota + q ∨ s.worlds.hearth.status = 3 then s.refuseQuota
    else s.acceptQuota t fun x => { x with storeQuota := q })

/-- The Hearth writes the quotas of the live table to its persistent region, which it can under the root it was sealed with (R137, R380 step 7,
R435). -/
def State.persistQuotas (s : State) : State :=
  if ¬ s.regionOpen ∨ s.vault.quotaDirty = [] then s else
  let kept := s.vault.quotaDirty.foldl (fun t d =>
    let e := s.tenantOf d.1
    tmod {} d.1 (fun x => { x with slotQuota := e.slotQuota, storeQuota := e.storeQuota }) t) s.vault.kept
  State.wroteRegion (6 * s.vault.quotaDirty.length) { s with vault := { s.vault with kept := kept, quotaDirty := [] } }

/-- QUOTA_PERSIST (R137): while the Hearth serves. -/
def execQuotaPersist (s : State) : Out := .next (if s.worlds.hearth.status = 1 then s.persistQuotas else s)

/-- Reserve `n` key slots of a tenant by one indivisible update against its quota (R138). -/
def State.reserveSlots (t n : Nat) (s : State) : Option State :=
  let e := s.tenantOf t
  if e.slotsUsed + n ≤ e.slotQuota then some (s.modTenant t fun x => { x with slotsUsed := e.slotsUsed + n }) else none

/-- Release `n` key slots of a tenant. -/
def State.releaseSlots (t n : Nat) (s : State) : State := s.modTenant t fun x => { x with slotsUsed := x.slotsUsed - n }

/-- Reserve `n` KiB of a tenant's persistent area (R138). -/
def State.reserveStore (t n : Nat) (s : State) : Option State :=
  let e := s.tenantOf t
  if e.storeUsed + n ≤ e.storeQuota then some (s.modTenant t fun x => { x with storeUsed := e.storeUsed + n }) else none

/-- A valid entry of an allowed-tenant list: bit 15, tenant in bits 11:0 (R146). -/
def entryTenant (e : BitVec 16) : Option Nat := if e.getLsbD 15 then some (bits e 11 0) else none

/-- The tenants of a list, by index. -/
def listTenants (l : List (Nat × BitVec 16)) : List Nat := l.filterMap fun e => entryTenant e.2

/-- The cause for which staging entry `i` of function `f` fails (R140): 1 FREE, 2 BIND clear, 3 duplicate of a lower entry. -/
def State.entryFault (s : State) (f i : Nat) : Option Nat :=
  let l := (s.fnOf f).staging
  match entryTenant (tget 0 l i) with
  | none => none
  | some t =>
    if ¬ (s.tenantOf t).live then some 1
    else if ¬ s.bound t f then some 2
    else if (listTenants (l.filter fun e => decide (e.1 < i))).contains t then some 3
    else none

/-- The first failing staging entry, with its cause. -/
def State.listFault (s : State) (f : Nat) : Option (Nat × Nat) :=
  ((List.range 16).filterMap fun i => (s.entryFault f i).map fun c => (i, c)).head?

/-- ALLOW_COMMIT (R140): the staging copy replaces the active list in one step, or the commit is refused. -/
def execAllowCommit (s : State) : Out :=
  .next (s.onBar fun s =>
    let f := s.qmgr.resFunc
    match s.listFault f with
    | some (i, c) => { s with qmgr := { s.qmgr with listRefused := true, listCause := c, listEntry := i } }
    | none => s.modFn f fun n => { n with active := n.staging, allowGen := n.allowGen + 1 })

/-- Remove a tenant from a list. -/
def dropTenant (t : Nat) (l : List (Nat × BitVec 16)) : List (Nat × BitVec 16) := l.filter fun e => entryTenant e.2 != some t

/-- The Hearth clears a tenant's BIND bit for a function (R142): the tenant leaves both lists in the same step, GEN rises and
vector 0 of the function is signalled. -/
def State.unbind (t f : Nat) (s : State) : State :=
  let s := s.modTenant t fun x => { x with bind := x.bind &&& ~~~ BitVec.ofNat 256 (2 ^ f) }
  let n := s.fnOf f
  if (listTenants n.active).contains t ∨ (listTenants n.staging).contains t then
    (s.modFn f fun n => { n with active := dropTenant t n.active, staging := dropTenant t n.staging,
                                 allowGen := n.allowGen + 1 }).signal f 0
  else s

/-- ALLOW_DONE (R141, R146): no descriptor of the function of an older generation is in flight. -/
def State.allowDone (s : State) (f : Nat) : Bool :=
  s.engine.tasks.all fun o => o.fn != f || o.gen == (s.fnOf f).allowGen

/-- SHARE_WRITE (R147): dropped when any weight is 0; otherwise it applies from the next epoch. -/
def execShareWrite (value : BitVec 32) (s : State) : Out :=
  .next (s.onBar fun s =>
    if (List.range 4).any fun k => bits value (8 * k + 7) (8 * k) == 0 then
      { s with qmgr := { s.qmgr with weightBad := true } }
    else s.modFn s.qmgr.shareSel fun n => { n with share := value })

/-! ### Mailboxes (R148, R149) -/

/-- A VF's mailbox exists for the VF: it exists and is not under reset. -/
def State.vfOpen (s : State) (n : Nat) : Bool := n != 0 && s.exists? n && !(s.fnOf n).flr

/-- Signal a VF's vector 0 where the VF exists. -/
def State.signalVf (n : Nat) (s : State) : State := if s.exists? n then s.signal n 0 else s

/-- MBX_TO_PF_DOORBELL (R149): the VF posts its message; while DOORBELL is 1 the write is dropped with OVERRUN. -/
def execMbxToPfDoorbell (vf : BitVec 8) (s : State) : Out :=
  .next (
    let n := vf.toNat
    if ¬ s.vfOpen n then s
    else if (s.fnOf n).toDoor then s.modFn n fun x => { x with toOver := true }
    else (s.modFn n fun x => { x with toDoor := true }).signal 0 (1 + n))

/-- MBX_TO_PF_ACK (R149): the PF acknowledges. -/
def execMbxToPfAck (vf : BitVec 8) (s : State) : Out :=
  .next (s.onBar fun s =>
    let n := vf.toNat
    if n = 0 then s else (s.modFn n fun x => { x with toDoor := false, toAcked := true }).signalVf n)

/-- MBX_FROM_PF_DOORBELL (R149): the PF posts a message. -/
def execMbxFromPfDoorbell (vf : BitVec 8) (s : State) : Out :=
  .next (s.onBar fun s =>
    let n := vf.toNat
    if n = 0 then s
    else if (s.fnOf n).fromDoor then s.modFn n fun x => { x with fromOver := true }
    else (s.modFn n fun x => { x with fromDoor := true }).signalVf n)

/-- MBX_FROM_PF_ACK (R149): the VF acknowledges. -/
def execMbxFromPfAck (vf : BitVec 8) (s : State) : Out :=
  .next (
    let n := vf.toNat
    if ¬ s.vfOpen n then s
    else (s.modFn n fun x => { x with fromDoor := false, fromAcked := true }).signal 0 (1 + n))

end Sys2Proof.Machine
end

