-- ==== Sys2Proof/Machine/KeyMgmt.lean ====
section
/-!
DEFINITION. The key management opcodes that the Hearth serves from its descriptor channel (R163 to R176, R188 to R193).
-/
namespace Sys2Proof.Machine

/-- Carry out a 0x06xx opcode on the operation whose service the Hearth runs (R361, R362). With the Rack out of service its
class has no block left (R28). -/
def State.onService (id opcode : Nat) (act : Op → State → State) (s : State) : State :=
  s.onOp id opcode .channel fun o s =>
    if s.worlds.running ≠ some (.chan id) then s
    else if (s.blockOf 0x12).out then s.fail id 0x0302 0x12
    else act o s

/-- AUX[16] of an opcode that places a key (R163). -/
def anyFlag (o : Op) : Bool := (dAux o.desc).testBit 16

/-- AUX[15:0], a target or a key. -/
def auxSlot (o : Op) : Nat := dAux o.desc % 65536

/-- The target of an opcode that places a key (R165): `named` the target field at descriptor offset `off`. -/
def State.withTarget (o : Op) (named off : Nat) (k : Nat → State → State) (s : State) : State :=
  if anyFlag o then
    if named ≠ 0 then s.fail o.id 0x0102 off
    else
      match s.lowestEmpty with
      | none => s.fail o.id 0x0204 (o.tenant + 4096)
      | some n => k n s
  else if aValid (s.slotOf named).attr then s.fail o.id 0x0301 s.chip.state.code
  else k named s

/-- Reserve a slot of the operation's tenant, once (R138, R166). -/
def State.withReservation (o : Op) (k : State → State) (s : State) : State :=
  if o.reserved then k s
  else
    match s.reserveSlots o.tenant 1 with
    | none => s.fail o.id 0x0204 (o.tenant + 4096)
    | some s => k (s.modOp o.id fun x => { x with reserved := true })

/-- RESULT of an opcode that places a key (R164). -/
def placedResult (n : Nat) (kcv : Bytes) : Bytes := leBytes 2 n ++ fit 3 kcv

/-- Place a key under the operation's reservation, which it uses up, and complete (R164, R166, R168). -/
def State.placeKey (o : Op) (n : Nat) (attr : BitVec 128) (origin : Nat) (key : Bytes) (s : State) : State :=
  let kcv := kcvOf (aAlg attr) (aSub attr) key
  let s := s.placeSlot n (finalAttr attr origin kcv) (materialOf key)
  let s := s.modOp o.id fun x => { x with reserved := false }
  s.finish o.id 0 0 0 (placedResult n kcv)

/-- KEY_GENERATE (R163 to R167): the template, the target, the reservation, then the material from Bellows. A scalar that
is rejected is drawn again at the next turn. -/
def execKeyGenerate (op : Nat) (s : State) : Out :=
  .next (s.onService op 0x0601 fun o s =>
    let t := dParam o.desc
    let a := attrOf t
    match templateFault t o.tenant with
    | some n => s.fail op 0x0102 (32 + n)
    | none =>
      s.withTarget o o.keySlot 8 fun n s =>
        s.withReservation o fun s =>
          s.gated o 2 ((aKlen a + 15) / 16) fun b s =>
            match shapeKey (aAlg a) (aSub a) (b.take (aKlen a)) with
            | some key => s.placeKey o n a 0 key
            | none => s)

/-- KEY_UNLOAD (R162, R163): the slot is erased and SLOTS_USED falls by 1. -/
def execKeyUnload (op : Nat) (s : State) : Out :=
  .next (s.onService op 0x0602 fun o s =>
    s.portAccess o o.keySlot fun _ s => ((s.eraseSlot o.keySlot).releaseSlots o.tenant 1).finish op 0 0 0 [])

/-- KEY_MOVE (R163, R165, R166): the key moves in one Rack access; SLOTS_USED and KCV are unchanged. -/
def execKeyMove (op : Nat) (s : State) : Out :=
  .next (s.onService op 0x0603 fun o s =>
    if anyFlag o ∧ auxSlot o ≠ 0 then s.fail op 0x0102 56
    else
      s.portAccess o o.keySlot fun x s =>
        s.withTarget o (auxSlot o) 56 fun n s =>
          ((s.eraseSlot o.keySlot).placeSlot n x.attr x.material).finish op 0 0 0
            (placedResult n (leBytes 3 (aKcv x.attr))))

/-- Write the output of a service after check 7, and complete. -/
def State.serviceOut (o : Op) (dma : Dma) (maxOut : Nat) (out : Bytes) (s : State) : State :=
  s.checked o dma 0 maxOut fun s => (s.writeOut o dma out).finish o.id 0 0 out.length []

/-- KEY_ATTR_READ (R163). -/
def execKeyAttrRead (op : Nat) (dma : Dma) (s : State) : Out :=
  .next (s.onService op 0x0604 fun o s =>
    s.portAccess o o.keySlot fun x s => s.serviceOut o dma 16 (attrBytes x.attr))

/-- KEY_IMPORT (R163, R188 to R191, R193): the header, the target, the reservation, then decryption and the MAC. -/
def execKeyImport (op : Nat) (dma : Dma) (s : State) : Out :=
  .next (s.onService op 0x0605 fun o s =>
    s.portAccess o o.keySlot fun x s =>
      if ¬ admits x.attr 6 ['D', 'B'] then s.denyUsage o o.keySlot
      else
        let kb := opParams o dma
        let s := s.readLists o
        match kbHeader kb (dPlan o.desc % 16) o.tenant (aAlg x.attr) (aSub x.attr) with
        | .error f => s.fail op 0x0102 (badField f 3 0)
        | .ok h =>
          s.withTarget o (auxSlot o) 56 fun n s =>
            s.withReservation o fun s =>
              match kbOpen kb h (member x.attr x.key 0) with
              | none => s.fail op 0x0102 (badField h.stop 3 0)
              | some key => s.placeKey o n (kbAttr h key.length) 1 key)

/-- KEY_EXPORT (R163, R192); the padding is a draw of the Hearth. -/
def execKeyExport (op : Nat) (dma : Dma) (s : State) : Out :=
  .next (s.onService op 0x0606 fun o s =>
    s.portAccess o o.keySlot fun p s =>
      let isD := dPlan o.desc % 256 == 0x44
      if ¬ admits p.attr 6 ['E', 'B'] ∨ ¬ protFits isD p.attr then s.denyUsage o o.keySlot
      else
        s.portAccess o (auxSlot o) fun x s =>
          if ¬ mayLeave x.attr false then s.denyUsage o (auxSlot o)
          else
            s.checked o dma 0 240 fun s =>
              s.gated o 2 4 fun r s =>
                let kb := kbWrite isD x.attr x.key (member p.attr p.key 0) r
                (s.writeOut o dma kb).finish op 0 0 kb.length [])

/-- KEY_SAVE (R163, R173): a sealed blob of KIND 1. -/
def execKeySave (op : Nat) (dma : Dma) (s : State) : Out :=
  .next (s.onService op 0x0607 fun o s =>
    s.portAccess o o.keySlot fun x s =>
      s.serviceOut o dma 144 (s.sealBlob 1 o.tenant 0 (attrBytes x.attr) (leBytes 72 x.material.toNat)))

/-- KEY_RESTORE (R163, R174, R175): the blob's key enters the target with ORIGIN 3. -/
def execKeyRestore (op : Nat) (dma : Dma) (s : State) : Out :=
  .next (s.onService op 0x0608 fun o s =>
    let b := opParams o dma
    let s := s.readLists o
    match s.blobFault b o.tenant [1] with
    | some f => s.fail op 0x0102 (badField f 3 0)
    | none =>
      s.withTarget o (auxSlot o) 56 fun n s =>
        s.withReservation o fun s =>
          match s.openBlob b o.tenant with
          | none => s.fail op 0x0102 (badField 32 3 0)
          | some m =>
            let a := attrOf (slice b 16 16)
            s.placeKey o n a 3 (m.take (aKlen a)))

/-- The Anvil lane whose rewrap buffer holds the blob of an operation (R244). -/
def State.rewrapOf (s : State) (id : Nat) : Option Rewrap := ((List.range 4).map fun l => tget {} s.rack.rewraps l).find? fun r => r.op == id

/-- The lowest-numbered Anvil lane in service with power whose rewrap buffer is free (R244). -/
def State.rewrapLane (s : State) : Option Nat :=
  (List.range 4).find? fun l => s.blockState l == 0 && tget {} s.rack.rewraps l == {}

/-- The unwrapped blob goes into the rewrap buffer of an Anvil lane; without a free one it waits (R28, R244). -/
def State.loadRewrap (id : Nat) (data : Bytes) (s : State) : State :=
  if (List.range 4).all fun l => (s.blockOf l).out then s.fail id 0x0302 0
  else
    match s.rewrapLane with
    | none => s
    | some l => { s with rack := { s.rack with rewraps := tset {} l { op := id, data := data } s.rack.rewraps } }

/-- BLOB_REWRAP (R163, R175, R176, R244): the blob is unwrapped into the rewrap buffer of a lane; at its next turn the lane rewraps it under the
current epoch, writes it, and the buffer is cleared. -/
def execBlobRewrap (op : Nat) (dma : Dma) (s : State) : Out :=
  .next (s.onService op 0x0609 fun o s =>
    s.checked o dma (dDlen o.desc) (dDlen o.desc) fun s =>
      match s.rewrapOf op with
      | some r =>
        let out := s.sealBlob (byteAt r.data 5).toNat o.tenant (leAt r.data 10 2) (slice r.data 16 16) (r.data.drop 32)
        (s.writeOut o dma out).finish op 0 0 (dDlen o.desc) []
      | none =>
        let b := opData o dma
        match s.blobFault b o.tenant [1, 2, 3, 4] with
        | some _ => s.fail op 0x0102 16
        | none =>
          match s.openBlob b o.tenant with
          | none => s.fail op 0x0102 16
          | some m => s.loadRewrap op (b.take 32 ++ m))

end Sys2Proof.Machine
end

