-- ==== Sys2Proof/Machine/Mailbox.lean ====
section
/-!
DEFINITION. The host service mailbox VAULTMBX: request, response and their framing (R374 to R378).
-/
namespace Sys2Proof.Machine

/-- The first failing offset of a request header: a nonzero reserved byte, or LEN above 240 (R377). -/
def mbxHeaderFault (req : Bytes) : Option Nat :=
  if byteAt req 1 ≠ 0 then some 1
  else if 240 < leAt req 4 2 then some 4
  else firstOff (fun b => b != 0) ((req.drop 6).take 10) 6

/-- Carry out a VAULTMBX service: nothing happens unless the Hearth serves a request of this code. -/
def State.service (code : Nat) (act : State → State) (s : State) : State := if s.serves code then act s else s

end Sys2Proof.Machine
end

