-- ==== Sys2Proof/Machine/Ports.lean ====
section
/-!
DEFINITION. The custodian ports: activation and class, ATR, PPS, clock, and T=1 blocks (R485 to R494). What R489 to R493 leave
to ISO/IEC 7816-3 is written from it (PRESUMED, log 8).
-/
namespace Sys2Proof.Machine

/-! ### Activation and class (R489, R490) -/

/-- CARD_CLASSES holds the class: 1 C, 2 B, 3 A (R486). -/
def State.classAllowed (s : State) (c : Nat) : Bool := (s.setting 0x16).testBit (c - 1)

/-- The lowest class from `lo` on that the board and `card` admit, in the order C, B, A (R490). -/
def State.nextClass (s : State) (lo : Nat) (card : Nat → Bool) : Option Nat :=
  [1, 2, 3].find? fun c => decide (lo ≤ c) && s.classAllowed c && card c

/-- A port activates its card at a class and waits for the ATR (R489, R509). -/
def State.activate (n cls : Nat) (s : State) : State :=
  s.modPort n fun p => { p.off with
    active := true, cls := cls, fi := 1, di := 1, div := 7, phase := .waitAtr, ppsTried := p.ppsTried, apdu := p.apdu,
    activations := satInc 65535 p.activations }

/-! ### The ATR (R489 to R492, R494) -/

/-- What an ATR says. -/
structure Atr where
  ta1 : Option Nat := none
  ta2 : Option Nat := none
  t1 : Bool := false
  ta3 : Option Nat := none
  tb3 : Option Nat := none
  tc3 : Option Nat := none
  ta15 : Option Nat := none
  ok : Bool := false
deriving DecidableEq, Repr

/-- Take one interface character where its bit of Y is set. -/
def takeChar (y b : Nat) (l : Bytes) : Option Nat × Bytes :=
  if y.testBit b then ((l.head?).map (·.toNat), l.tail) else (none, l)

/-- Interface groups from group `i`, whose characters belong to protocol `t`, and what remains after them. -/
def atrGroups : Nat → Nat → Nat → Nat → Bytes → Atr → Atr × Bytes
  | 0, _, _, _, l, a => (a, l)
  | n + 1, i, t, y, l, a =>
    let (ta, l) := takeChar y 0 l
    let (tb, l) := takeChar y 1 l
    let (tc, l) := takeChar y 2 l
    let (td, l) := takeChar y 3 l
    let a := if i = 1 then { a with ta1 := ta } else if i = 2 then { a with ta2 := ta }
      else if i = 3 ∧ t = 1 then { a with ta3 := ta, tb3 := tb, tc3 := tc } else a
    let a := if 3 ≤ i ∧ t = 15 ∧ a.ta15 = none then { a with ta15 := ta } else a
    match td with
    | none => (a, l)
    | some d => atrGroups n (i + 1) (d % 16) (d / 16) l { a with t1 := a.t1 || d % 16 == 1 }

/-- Read an ATR. It is well formed when TS is a convention, its characters are as many as T0 and the TDs say, and TCK closes
the sum (R489). -/
def readAtr (b : Bytes) : Atr :=
  let t0 := (byteAt b 1).toNat
  let (a, rest) := atrGroups 8 1 0 (t0 / 16) (b.drop 2) {}
  let sum := (b.drop 1).foldl (fun x y => x ^^^ y) (0 : Byte)
  { a with ok := (byteAt b 0 == 0x3B || byteAt b 0 == 0x3F) && decide (2 ≤ b.length) && rest.length == t0 % 16 + 1 && sum == 0 }

/-- A class that the card's indicator admits: bit 3 C, bit 2 B, bit 1 A; without it class A only (R490). -/
def Atr.admits (a : Atr) (c : Nat) : Bool :=
  match a.ta15 with
  | some v => v.testBit (3 - c)
  | none => c == 3

/-- Clock stop: 0 not supported, 1 stop L (also for no preference), 2 stop H (R494). -/
def Atr.clockStop (a : Atr) : Nat :=
  match a.ta15 with
  | some v => if v / 64 = 0 then 0 else if v / 64 = 2 then 2 else 1
  | none => 0

/-- The greatest frequency of an Fi index in units of 0.1 MHz, for the Fi that the port supports (R491). -/
def fmax (fi : Nat) : Option Nat :=
  ([(0, 40), (1, 50), (2, 60), (3, 80), (4, 120), (5, 160), (6, 200), (9, 50), (10, 75), (11, 100), (12, 150), (13, 200)].find?
    fun e => e.1 == fi).map (·.2)

/-- A TA1 whose Fi and Di the port supports. -/
def ta1Ok (v : Nat) : Bool := (fmax (v / 16)).isSome && decide (1 ≤ v % 16) && decide (v % 16 ≤ 6)

/-- The divider m: the smallest of at least 3 at which 25/m MHz is at or below fmax (R491). -/
def clockDiv (fi : Nat) : Nat := max 3 ((250 + (fmax fi).getD 50 - 1) / (fmax fi).getD 50)

/-! ### T=1 blocks (R492, R493) -/

/-- The 16-bit cyclic redundancy check of ISO/IEC 13239, one byte more. -/
def fcsByte (c : Nat) (b : Byte) : Nat :=
  (List.range 8).foldl (fun c _ => if c % 2 = 1 then (c / 2) ^^^ 0x8408 else c / 2) (c ^^^ b.toNat)

/-- The epilogue of a block: LRC or CRC. -/
def epilogue (crc : Bool) (b : Bytes) : Bytes :=
  if crc then beBytes 2 ((b.foldl fcsByte 0xFFFF) ^^^ 0xFFFF) else [b.foldl (fun x y => x ^^^ y) (0 : Byte)]

/-- A block: NAD 0, PCB, LEN, INF and the epilogue. -/
def t1Block (crc : Bool) (pcb : Nat) (inf : Bytes) : Bytes :=
  let b := [0, BitVec.ofNat 8 pcb, BitVec.ofNat 8 inf.length] ++ inf
  b ++ epilogue crc b

/-- PCB and INF of a received block; none where NAD, LEN or the epilogue is wrong. -/
def readBlock (crc : Bool) (b : Bytes) : Option (Nat × Bytes) :=
  let n := (byteAt b 2).toNat
  let e := if crc then 2 else 1
  if b.length = 3 + n + e ∧ byteAt b 0 = 0 ∧ epilogue crc (b.take (3 + n)) = b.drop (3 + n) then
    some ((byteAt b 1).toNat, (b.drop 3).take n)
  else none

/-- Send bytes to a card; a stopped clock restarts first (R494). -/
def State.sendCard (n : Nat) (b : Bytes) (s : State) : State :=
  (s.modPort n fun p => { p with phase := .waitBlock, clkStop := false }).emit (.card n b)

/-- Send an I- or S-block, which stays at hand for a retransmission. -/
def State.sendBlock (n pcb : Nat) (inf : Bytes) (s : State) : State :=
  let b := t1Block (s.portOf n).crc pcb inf
  (s.modPort n fun p => { p with lastBlock := b }).sendCard n b

/-- Send the next piece of the command, chained with the M bit while more follows (R492). -/
def State.sendPiece (n : Nat) (s : State) : State :=
  let p := s.portOf n
  let more := decide (p.ifsc < p.txChain.length)
  s.sendBlock n ((if p.ns then 0x40 else 0) + (if more then 0x20 else 0)) (p.txChain.take p.ifsc)

/-- Begin a command: the whole of it is kept for a resynchronisation. -/
def State.sendApdu (n : Nat) (apdu : Bytes) (s : State) : State :=
  (s.modPort n fun p => { p with apdu := apdu, txChain := apdu, rxChain := [], resent := 0, resync := false, wtx := 1 }).sendPiece n

/-- S(IFS request) with IFSD 254 (R492). -/
def State.sendIfs (n : Nat) (s : State) : State := s.sendBlock n 0xC1 [0xFE]

/-- An R-block is sent and counted (R493, R509). -/
def State.sendR (n err : Nat) (s : State) : State :=
  let p := s.portOf n
  (s.modPort n fun p => { p with retries := satInc 65535 p.retries }).sendCard n
    (t1Block p.crc (0x80 + (if p.nr then 0x10 else 0) + err) [])

/-- A block failed: an R-block or a retransmission at most twice, then one S(RESYNCH request) (R493). `again` is what is sent.
None where the resynchronisation has failed as well. -/
def State.recover (n : Nat) (again : State → State) (s : State) : Option State :=
  let p := s.portOf n
  if p.resync then none
  else if p.resent < 2 then some (again (s.modPort n fun p => { p with resent := p.resent + 1 }))
  else
    some ((s.modPort n fun p => { p with resync := true, resent := 0, retries := satInc 65535 p.retries }).sendCard n
      (t1Block p.crc 0xC0 []))

/-- What a received block leads to. -/
inductive T1
  /-- the exchange goes on -/
  | more (s : State)
  /-- S(IFS response) came: the card is ready for commands -/
  | ready (s : State)
  /-- a response is complete -/
  | response (bytes : Bytes) (s : State)
  /-- recovery is exhausted -/
  | failed

/-- Outcome of a recovery. -/
def T1.ofRecover : Option State → T1
  | some s => .more s
  | none => .failed

/-- An I-block from the card (R492). -/
def State.takeI (n pcb : Nat) (inf : Bytes) (s : State) : T1 :=
  let p := s.portOf n
  if pcb.testBit 6 ≠ p.nr ∨ p.ifsc < p.txChain.length then .ofRecover (s.recover n (State.sendR n 2))
  else
    let s := s.modPort n fun p => { p with
      nr := !p.nr, ns := if p.txChain = [] then p.ns else !p.ns, txChain := [], rxChain := p.rxChain ++ inf, resent := 0, wtx := 1 }
    if pcb.testBit 5 then
      let p := s.portOf n
      .more (s.sendCard n (t1Block p.crc (0x80 + (if p.nr then 0x10 else 0)) []))
    else
      .response (s.portOf n).rxChain (s.modPort n fun p => { p with phase := .idle, rxChain := [] })

/-- Send the outstanding I- or S-block again. -/
def State.sendLast (n : Nat) (s : State) : State := s.sendCard n (s.portOf n).lastBlock

/-- An R-block from the card: it acknowledges a piece of a chain, or asks for the block again. -/
def State.takeR (n pcb : Nat) (s : State) : T1 :=
  let p := s.portOf n
  if pcb.testBit 4 ≠ p.ns ∧ p.ifsc < p.txChain.length then
    .more ((s.modPort n fun p => { p with ns := !p.ns, txChain := p.txChain.drop p.ifsc, resent := 0 }).sendPiece n)
  else .ofRecover (s.recover n (State.sendLast n))

/-- An S-block from the card (R492, R493). -/
def State.takeS (n pcb : Nat) (inf : Bytes) (s : State) : T1 :=
  let p := s.portOf n
  let v := (byteAt inf 0).toNat
  if pcb = 0xC1 ∧ inf.length = 1 ∧ 16 ≤ v ∧ v ≤ 254 then
    .more ((s.modPort n fun p => { p with ifsc := v }).sendCard n (t1Block p.crc 0xE1 inf))
  else if pcb = 0xC3 ∧ inf.length = 1 then
    .more ((s.modPort n fun p => { p with wtx := v }).sendCard n (t1Block p.crc 0xE3 inf))
  else if pcb = 0xE1 ∧ inf = [0xFE] ∧ byteAt p.lastBlock 1 = 0xC1 then
    .ready (s.modPort n fun p => { p with ifsd := 254, phase := .idle, resent := 0, lastBlock := [] })
  else if pcb = 0xE0 ∧ p.resync then
    let s := s.modPort n fun p => { p with ns := false, nr := false, resync := false, resent := 0, ifsc := p.ifsc }
    if p.ifsd = 254 then .more (s.sendApdu n p.apdu) else .more (s.sendIfs n)
  else .ofRecover (s.recover n (State.sendR n 2))

/-- A block received while one is awaited; a parity or EDC error is answered with an R-block (R493). -/
def State.takeBlock (n : Nat) (b : Bytes) (parity : Bool) (s : State) : T1 :=
  match (if parity then none else readBlock (s.portOf n).crc b) with
  | none => .ofRecover (s.recover n (State.sendR n 1))
  | some (pcb, inf) =>
    if pcb < 0x80 then s.takeI n pcb inf
    else if pcb < 0xC0 then s.takeR n pcb
    else s.takeS n pcb inf

end Sys2Proof.Machine
end

