-- ==== Sys2Proof/Machine/Custody.lean ====
section
/-!
DEFINITION. Custodian cards: certificates, the applet's commands under secure messaging, card steps of a ceremony, and the
secret sharing of the Backup Transport Key (R195, R203 to R208, R220, R222, R495 to R499). DER and X.509 are named standards,
and the lengths of a command's Lc and Le fields are taken from ISO/IEC 7816-4 (PRESUMED, log 8).
-/
namespace Sys2Proof.Machine

/-! ### Certificates (R195, R495) -/

/-- One DER element: its tag, its contents, its whole bytes and what follows. -/
structure Der where
  tag : Nat
  body : Bytes
  whole : Bytes
  rest : Bytes

/-- The first element of a string. -/
def derNext (b : Bytes) : Option Der :=
  let l := (byteAt b 1).toNat
  let (h, n) := if l < 128 then (2, l) else if l = 0x81 then (3, (byteAt b 2).toNat) else (4, beAt b 2 2)
  if b.length < h + n ∨ 0x82 < l ∨ l = 128 then none
  else some ⟨(byteAt b 0).toNat, (b.drop h).take n, b.take (h + n), b.drop (h + n)⟩

/-- The elements of a string, as many as `fuel`. -/
def derList : Nat → Bytes → List Der
  | 0, _ => []
  | n + 1, b => match derNext b with | some d => d :: derList n d.rest | none => []

/-- Element `i` of a string. -/
def derAt (b : Bytes) (i : Nat) : Bytes := match (derList (i + 1) b)[i]? with | some d => d.body | none => []

/-- The ECDSA P-384 public key of a certificate. -/
def certKey (cert : Bytes) : Option (Nat × Nat) :=
  let tbs := derAt (derAt cert 0) 0
  let skip := if (byteAt tbs 0) = 0xA0 then 1 else 0
  Ecc.p384.decode ((derAt (derAt tbs (5 + skip)) 1).drop 1)

/-- The certificate's signature verifies under a CA key. -/
def certSigned (ca cert : Bytes) : Bool :=
  match Ecc.p384.decode ca, derNext (derAt cert 0) with
  | some q, some tbs =>
    let sig := derAt ((derAt (derAt cert 0) 2).drop 1) 0
    Ecc.p384.verify q (Sha.sha384 tbs.whole) (beNat (derAt sig 0)) (beNat (derAt sig 1))
  | _, _ => false

/-- An ECDSA P-384 signature of 96 bytes over the SHA-384 of a message. -/
def p384Verify (q : Nat × Nat) (m sig : Bytes) : Bool := Ecc.p384.verify q (Sha.sha384 m) (beAt sig 0 48) (beAt sig 48 48)

/-- A signature r ∥ s over the SHA-384 of a message, its nonce made from 48 free bytes (any value below the order). -/
def p384Sign (d : Nat) (nonce m : Bytes) : Bytes :=
  let c := Ecc.p384
  let r := (c.sign d (beNat nonce % (c.n - 1) + 1) (Sha.sha384 m)).getD (0, 0)
  beBytes 48 r.1 ++ beBytes 48 r.2

/-! ### Secret sharing (R220, R222) -/

/-- The share at index `x` of the secret and the coefficients, byte by byte. -/
def shareAt (secret : Bytes) (coeffs : List Bytes) (x : Byte) : Bytes :=
  let horner := coeffs.reverse.foldl (fun acc c => xorB c (acc.map (Aes.gmul x))) (List.replicate secret.length 0)
  xorB secret (horner.map (Aes.gmul x))

/-- The Lagrange coefficient at 0 of the share with index `x` among `xs`. -/
def lagrange (xs : List Byte) (x : Byte) : Byte :=
  (xs.filter (· != x)).foldl (fun acc y => Aes.gmul acc (Aes.gmul y (Aes.ginv (x ^^^ y)))) 1

/-- The secret of a list of shares with distinct indices. -/
def combine (l : List (Byte × Bytes)) : Bytes :=
  l.foldl (fun acc e => xorB acc (e.2.map (Aes.gmul (lagrange (l.map (·.1)) e.1)))) (List.replicate 32 0)

/-- Check value of a Backup Transport Key (R219). -/
def btkCheck (k : Bytes) : Bytes := (Modes.aesCmac k (List.replicate 16 0)).take 8

/-! ### The open ceremony (R199 to R210) -/

/-- The parameter field of `n` bytes at a body offset from 4 on (R210). -/
def Ceremony.at_ (c : Ceremony) (off n : Nat) : Nat := leAt c.params (off - 4) n

/-- Accepted steps in a role. -/
def Ceremony.count (c : Ceremony) (role : Nat) : Nat := (c.got.filter fun g => g.1 == role).length

/-- Steps needed in a role; 0 where the kind does not use it. -/
def Ceremony.needed (c : Ceremony) (role : Nat) : Nat := ((c.need.find? fun e => e.1 == role).map (·.2)).getD 0

/-- The first role short of its count. -/
def Ceremony.short (c : Ceremony) : Option (Nat × Nat) := c.need.find? fun e => decide (c.count e.1 < e.2)

/-- The set whose members a role names (R204, R209): the owner set, or the set that the tenant names. Shares come from the
owner set's cards (DEDUCED, log 27). -/
def State.roleSet (s : State) (c : Ceremony) (role : Nat) : CustSet :=
  if role = 0 ∨ role = 4 then s.setOf 0 else s.setOf (s.tenantOf c.tenant).cset

/-- Replace the open ceremony. -/
def State.setCer (c : Ceremony) (s : State) : State := { s with vault := { s.vault with cer := some c } }

/-- The ceremony transport key (R207). -/
def Ceremony.ctk (c : Ceremony) (b : Bytes) : Bytes :=
  (Sha.sha384 (Ecc.x25519 (beBytes 32 c.privKey.toNat) b ++ leBytes 4 c.id.toNat ++ ascii "ZY-CTK")).take 32

/-- The PIN field of a sealed PIN block; none where the block does not open (R208). -/
def Ceremony.openPin (c : Ceremony) (step : BitVec 32) (port : Nat) (blk : Bytes) : Option Bytes :=
  let f := Aes.encWith (Aes.roundKeys (c.ctk (blk.take 32)))
  let iv := leBytes 4 c.id.toNat ++ leBytes 4 step.toNat ++ [BitVec.ofNat 8 port, 0, 0, 0]
  if Modes.gcmTag f iv [] (slice blk 32 16) = slice blk 48 16 then some (Modes.gcmCrypt f iv (slice blk 32 16)) else none

/-- The digest of SIGN_STEP's message (R206). -/
def Ceremony.stepMessage (c : Ceremony) (step : BitVec 32) (card : BitVec 96) : Bytes :=
  leBytes 4 c.id.toNat ++ leBytes 1 c.kind ++ leBytes 2 c.tenant ++ c.params ++ leBytes 4 step.toNat ++ leBytes 12 card.toNat

/-! ### Secure messaging (R497) -/

/-- Protect a command of class 0x84. -/
def Session.protect (x : Session) (ins p1 : Byte) (data : Bytes) : Bytes :=
  let k := beBytes 48 x.key.toNat
  let c := Modes.aesCtr (k.take 32) ([1] ++ List.replicate 11 0 ++ beBytes 4 x.ctr) data
  let hdr : Bytes := [0x84, ins, p1, 0]
  let m := (Modes.aesCmac (k.drop 32) (beBytes 4 x.ctr ++ hdr ++ c)).take 8
  hdr ++ leBytes 1 (c.length + 8) ++ c ++ m ++ [0]

/-- The plain data of a protected response; none for a bad M. -/
def Session.unprotect (x : Session) (data sw : Bytes) : Option Bytes :=
  let k := beBytes 48 x.key.toNat
  let c := data.take (data.length - 8)
  if data.length < 8 ∨ (Modes.aesCmac (k.drop 32) (beBytes 4 x.ctr ++ sw ++ c)).take 8 ≠ data.drop (data.length - 8) then none
  else some (Modes.aesCtr (k.take 32) ([2] ++ List.replicate 11 0 ++ beBytes 4 x.ctr) c)

/-- Replace the conversation. -/
def State.setSession (x : Session) (s : State) : State := { s with cards := { s.cards with session := some x } }

/-- Send a protected command and wait in a phase; the counter then stands for the response. -/
def State.sendSecure (x : Session) (phase : SesPhase) (ins p1 : Byte) (data : Bytes) (s : State) : State :=
  (s.setSession { x with phase := phase, ctr := x.ctr + 1 }).sendApdu x.port (x.protect ins p1 data)

/-! ### The end of a conversation (R202, R204, R205, R495, R499, R508) -/

/-- A conversation ends with a card status (R205): CARD_IDENTIFY completes with it, a card step is logged and answered with it. The status
class in the record is the high byte of the status (R11, R202; DEDUCED, log 27). -/
def State.cardStatus (x : Session) (status detail : Nat) (s : State) : State :=
  let s := s.endSession
  match x.op with
  | some id => s.fail id status detail
  | none =>
    let s := match s.vault.cer with
      | some c => s.log 0x0611 0xF1 (c.event x.port x.stepNo.toNat (0x80 + status / 256) x.role)
      | none => s
    if s.serves 0x41 then s.mbxAnswer status detail [] else s

/-- ST_CARD_PROTOCOL with a cause and a status word (R495, R509). -/
def State.cardProtocol (x : Session) (cause sw : Nat) (s : State) : State :=
  (s.modPort x.port fun p => { p with cause := cause }).cardStatus x 0x0704 (x.port + 256 * cause + 65536 * sw)

/-- A card step ends with a STEP_RESULT (R205): logged, answered, the card deactivated. -/
def State.stepResult (x : Session) (result : Nat) (s : State) : State :=
  let s := s.endSession
  match s.vault.cer with
  | none => s
  | some c =>
    let s := s.log 0x0611 0xF1 (c.event x.port x.stepNo.toNat result x.role)
    if s.serves 0x41 then
      s.mbxAnswer 0 0 (leBytes 1 result ++ leBytes 1 x.tries ++ leBytes 1 (c.count x.role) ++ leBytes 1 (c.needed x.role) ++
        leBytes 4 c.nextStep.toNat ++ leBytes 12 x.card.toNat)
    else s

/-- A step is accepted: it adds to the count of its role, and the ceremony becomes QUORATE where every count is met. -/
def State.acceptStep (x : Session) (c : Ceremony) (s : State) : State :=
  let c := { c with got := (x.role, x.card) :: c.got }
  (s.setCer (if c.short.isNone then { c with cstate := 3 } else c)).stepResult x 0

/-! ### The conversation (R204, R496, R498) -/

/-- The applet's AID. -/
def custodianAid : Bytes := [0xF0, 0x5A, 0x59, 0x57, 0x54, 0x52, 0x45, 0x01]

/-- The card is ready for commands: SELECT. -/
def State.cardReady (x : Session) (s : State) : State :=
  (s.setSession { x with phase := .select }).sendApdu x.port ([0x00, 0xA4, 0x04, 0x00, 0x08] ++ custodianAid ++ [0x00])

/-- The result that the membership checks of step 2 give, none when they pass (R195, R204, R205). -/
def State.memberResult (x : Session) (c : Ceremony) (s : State) : Option Nat :=
  let h := BitVec.ofNat 256 (beNat (Sha.sha256 x.cert))
  if ¬ certSigned s.trims.cardCa x.cert then some 2
  else if x.role = 2 then (if c.hashes.any fun e => e.1 == x.card then some 3 else none)
  else if ¬ (s.roleSet c x.role).cards.contains (x.card, h) then some 2
  else if c.got.contains (x.role, x.card) then some 3
  else none

/-- GET_IDENTITY answered: the card is checked, then AUTHENTICATE, or the end of CARD_IDENTIFY (R508). -/
def State.cardIdentity (x : Session) (data : Bytes) (s : State) : State :=
  let x := { x with card := BitVec.ofNat 96 (leAt data 0 12), cert := data.drop 12 }
  match x.op with
  | some id =>
    if certSigned s.trims.cardCa x.cert then s.endSession.finish id 0 0 0 (data.take 12) else s.cardProtocol x 8 0
  | none =>
    match s.vault.cer with
    | none => s.endSession
    | some c =>
      match s.memberResult x c with
      | some r => s.stepResult x r
      | none =>
        let q := Ecc.p384.encode (Ecc.p384.mul x.eh.toNat Ecc.p384.g)
        (s.setSession { x with phase := .auth }).sendApdu x.port
          ([0x80, 0x88, 0x00, 0x00, 0x71] ++ q ++ beBytes 16 x.chal.toNat ++ [0x00])

/-- The session keys that AUTHENTICATE's answer gives; none where the card does not prove itself (R496, R497). -/
def Session.authenticate (x : Session) (data : Bytes) : Option (BitVec 384) :=
  let c := Ecc.p384
  let qh := c.encode (c.mul x.eh.toNat c.g)
  let ch := beBytes 16 x.chal.toNat
  let id := leBytes 12 x.card.toNat
  match c.decode (data.take 97), certKey x.cert with
  | some q, some k =>
    if data.length = 193 ∧ p384Verify k (qh ++ data.take 97 ++ ch ++ id) (data.drop 97) then
      match c.mul x.eh.toNat (some q) with
      | some (z, _) => some (BitVec.ofNat 384 (beNat (Sha.sha384 (beBytes 48 z ++ ch ++ id ++ ascii "ZY-CSM"))))
      | none => none
    else none
  | _, _ => none

/-- AUTHENTICATE answered: the PIN is opened and goes to the card (R204 steps 4 and 5). -/
def State.cardAuth (x : Session) (c : Ceremony) (data : Bytes) (s : State) : State :=
  match x.authenticate data with
  | none => s.stepResult x 5
  | some k =>
    match c.openPin x.stepNo x.port x.sealedPin with
    | none => s.stepResult x 6
    | some pin => s.sendSecure { x with key := k, ctr := 1 } .pin 0x20 0 pin

/-- The status that a slot of a KEY_EXPORT gives, with its DETAIL, and the slot whose CHECK does not match (R157, R213, R161, R192). -/
def State.exportFault (s : State) (b : Bytes) (t : Nat) : Option (Nat × Nat × Option Nat) :=
  let n := leAt b 6 2
  let k := leAt b 8 2
  let x := s.slotOf n
  let p := s.slotOf k
  let isD := byteAt b 10 == 0x44
  if ¬ aValid x.attr then some (0x0201, n, none)
  else if x.check ≠ s.checkOf n x then some (0x0502, 0x12 + 256 * 3, some n)
  else if aTenant x.attr ≠ t then some (0x0203, t + 2 ^ 31, none)
  else if ¬ mayLeave x.attr true then some (0x0202, n, none)
  else if byteAt b 4 = 1 then none
  else if ¬ aValid p.attr then some (0x0201, k, none)
  else if p.check ≠ s.checkOf k p then some (0x0502, 0x12 + 256 * 3, some k)
  else if aTenant p.attr ≠ t then some (0x0203, t + 2 ^ 31, none)
  else if ¬ admits p.attr 6 ['E', 'B'] ∨ ¬ protFits isD p.attr then some (0x0202, k, none)
  else none

/-- Answer a KEY_EXPORT whose slots cannot be read: a CHECK mismatch also erases its slot (R157). -/
def State.refuseExport (f : Nat × Nat × Option Nat) (s : State) : State :=
  let s := match f.2.2 with
    | some n => s.slotFault n 1
    | none => s
  s.mbxAnswer f.1 f.2.1 []

/-- The open parameters at their offsets of the CER_OPEN body. -/
def Ceremony.body (c : Ceremony) : Bytes := [0, 0, 0, 0] ++ c.params


/-- The key that a KEY_EXPORT ceremony exports (R210). -/
def State.exportSlot (s : State) (c : Ceremony) : Slot := s.slotOf (c.at_ 6 2)

/-- The next component of a KEY_EXPORT in form 1: fresh, or the last one, which is computed (R213). -/
def State.nextPart (x : Session) (c : Ceremony) (s : State) : Bytes :=
  let k := (s.exportSlot c).key
  if c.parts.length + 1 < c.at_ 5 1 then x.comp.take k.length else c.parts.foldl xorB k

/-- The record that a step writes to the card (R220): a component of an export, or a BTK share; none where it writes nothing. -/
def State.stepRecord (x : Session) (c : Ceremony) (s : State) : Option Bytes :=
  if c.kind = 3 ∧ x.role = 3 then
    let e := s.exportSlot c
    some ([0x01, BitVec.ofNat 8 (c.parts.length + 1), BitVec.ofNat 8 (aKlen e.attr), 0] ++ leBytes 3 (aKcv e.attr) ++ [0] ++
      s.nextPart x c)
  else if c.kind = 6 ∧ x.role = 2 then
    match c.btk with
    | some k =>
      let i := c.hashes.length + 1
      let kb := beBytes 32 k.toNat
      some ([0x02, BitVec.ofNat 8 i, BitVec.ofNat 8 (c.at_ 7 1), BitVec.ofNat 8 (c.at_ 4 1)] ++ btkCheck kb ++
        shareAt kb (c.coeffs.map fun v => beBytes 32 v.toNat) (BitVec.ofNat 8 i))
    | none => none
  else none

/-- A step's card is enrolled (R210). -/
def Ceremony.enrol (c : Ceremony) (x : Session) : Ceremony :=
  { c with hashes := c.hashes ++ [(x.card, BitVec.ofNat 256 (beNat (Sha.sha256 x.cert)))] }

/-- The PIN has been accepted: the role's action (R204 step 6, R210). A component of an export reads its key through the control port, which
checks it (R157); a key that can no longer be read ends the conversation with that status (DESIGN CHOICE, log 27). -/
def State.cardAction (x : Session) (c : Ceremony) (s : State) : State :=
  if x.role ≤ 1 then s.sendSecure x .action 0x2A 0 (Sha.sha384 (c.stepMessage x.stepNo x.card))
  else
    match (if c.kind = 3 ∧ x.role = 3 then s.exportFault c.body c.tenant else none) with
    | some f => s.endSession.refuseExport f
    | none =>
      match s.stepRecord x c with
      | some r => s.sendSecure x .action 0xD2 (byteAt r 0) r
      | none =>
        if x.role = 2 then s.acceptStep x (c.enrol x)
        else s.sendSecure x .action 0xB2 (if x.role = 3 then 1 else 2) []

/-- The action's answer: a signature, a record read, or a record written (R206, R210, R220). A record of another form ends the
step with result 5 (DESIGN CHOICE, log 27). -/
def State.cardDone (x : Session) (c : Ceremony) (data : Bytes) (s : State) : State :=
  if x.role ≤ 1 then
    match certKey x.cert with
    | some k => if p384Verify k (c.stepMessage x.stepNo x.card) data then s.acceptStep x c else s.stepResult x 5
    | none => s.stepResult x 5
  else if x.role = 2 then s.acceptStep x (c.enrol x)
  else if x.role = 3 ∧ c.kind = 3 then s.acceptStep x { c with parts := s.nextPart x c :: c.parts }
  else if x.role = 3 then
    let n := (byteAt data 2).toNat
    if byteAt data 0 = 1 ∧ data.length = 8 + n ∧ n = c.at_ 22 1 then s.acceptStep x { c with parts := data.drop 8 :: c.parts }
    else s.stepResult x 5
  else if byteAt data 0 = 2 ∧ data.length = 44 then
    s.acceptStep x { c with shares := ((byteAt data 1).toNat, (byteAt data 2).toNat, BitVec.ofNat 64 (beAt data 4 8),
      BitVec.ofNat 256 (beAt data 12 32)) :: c.shares }
  else s.stepResult x 5

/-- A protected response (R498). -/
def State.cardSecure (x : Session) (c : Ceremony) (data sw : Bytes) (s : State) : State :=
  let w := beNat sw
  match x.unprotect data sw with
  | none => s.stepResult x 5
  | some d =>
    let x := { x with ctr := x.ctr + 1 }
    if x.phase = .pin then
      if w = 0x9000 then s.cardAction x c
      else if w / 16 = 0x63C then s.stepResult { x with tries := w % 16 } 1
      else if w = 0x6983 then s.stepResult { x with tries := 0 } 4
      else s.cardProtocol x 8 w
    else if w = 0x9000 then s.cardDone x c d
    else s.stepResult x 5

/-- A complete response to the conversation's command (R204, R498). -/
def State.cardResponse (x : Session) (rsp : Bytes) (s : State) : State :=
  let data := rsp.take (rsp.length - 2)
  let sw := rsp.drop (rsp.length - 2)
  let w := beNat sw
  match x.phase with
  | .activate => s
  | .select =>
    if w = 0x9000 then (s.setSession { x with phase := .identity }).sendApdu x.port [0x80, 0xCA, 0x00, 0x00, 0x00, 0x00, 0x00]
    else s.cardProtocol x 8 w
  | .identity => if w = 0x9000 then s.cardIdentity x data else s.cardProtocol x 8 w
  | .auth =>
    match s.vault.cer with
    | some c => if w = 0x9000 then s.cardAuth x c data else s.stepResult x 5
    | none => s.endSession
  | .pin | .action =>
    match s.vault.cer with
    | some c => s.cardSecure x c data sw
    | none => s.endSession

/-- A conversation begins on a port (R204 step 1, R489, R490): with no card it ends at once. -/
def State.startSession (x : Session) (s : State) : State :=
  if ¬ (s.portOf x.port).present then s.cardStatus x 0x0701 x.port
  else
    match s.nextClass 1 (fun _ => true) with
    | none => s.cardProtocol x 1 0
    | some cls => ((s.setSession x).modPort x.port fun p => { p with ppsTried := 0 }).activate x.port cls

end Sys2Proof.Machine
end

