-- ==== Sys2Proof/Machine/Archive.lean ====
section
/-!
DEFINITION. Archives on the backup card: their blocks and sections, and what a restore reads from them (R221 to R223, R504 to
R507).
-/
namespace Sys2Proof.Machine

/-! ### Blocks (R504) -/

/-- A block of 512 bytes that ends with its CRC-32C. -/
def crcBlock (b : Bytes) : Bytes := let x := fit 508 b; x ++ leBytes 4 (crc32c x)

/-- The CRC of a header or commit block is right. -/
def crcOk (b : Bytes) : Bool := leAt b 508 4 == crc32c (fit 508 b)

/-- The volume header. -/
def volumeHeader (volume identity : BitVec 64) (capacity : Nat) : Bytes :=
  crcBlock (ascii "ZYAV" ++ [1, 0, 0, 0] ++ leBytes 8 volume.toNat ++ leBytes 8 identity.toNat ++ leBytes 4 capacity)

/-- What an archive header says. -/
structure ArcHead where
  kind : Nat
  seq : Nat
  b : Nat
  volume : BitVec 64
  identity : BitVec 64
  rootGen : BitVec 32
  scope : Nat := 0
  tenant : Nat := 0
  check : Bytes := List.replicate 8 0
  wrapped : Bytes := List.replicate 40 0
  iv : Bytes := List.replicate 12 0
  len : Nat

/-- Bytes 0 to 103 of an archive header. -/
def ArcHead.bytes (h : ArcHead) : Bytes :=
  ascii "ZYAH" ++ [1, BitVec.ofNat 8 h.kind, 0, 0] ++ leBytes 4 h.seq ++ leBytes 4 h.b ++ leBytes 8 h.volume.toNat ++
    leBytes 8 h.identity.toNat ++ leBytes 4 h.rootGen.toNat ++ [BitVec.ofNat 8 h.scope, 0] ++ leBytes 2 h.tenant ++ fit 8 h.check ++
    fit 40 h.wrapped ++ fit 12 h.iv ++ leBytes 4 h.len

/-- The header and payload blocks of an archive. -/
def ArcHead.blocks (h : ArcHead) (payload : Bytes) : Bytes := crcBlock h.bytes ++ fit (512 * (h.b - 1)) payload

/-- The commit block of an archive that starts at LBA `lba`. -/
def ArcHead.commit (h : ArcHead) (lba : Nat) (tag : Bytes) (blocks : Bytes) : Bytes :=
  crcBlock (ascii "ZYAC" ++ [1, BitVec.ofNat 8 h.kind, 0, 0] ++ leBytes 4 h.seq ++ leBytes 4 lba ++ leBytes 4 h.b ++
    leBytes 8 h.volume.toNat ++ fit 16 tag ++ Sha.sha384 blocks)

/-- Header and payload blocks of a payload of `n` bytes. -/
def arcBlocks (n : Nat) : Nat := 1 + (n + 511) / 512

/-! ### Sections (R194, R505) -/

/-- One section: type, two zero bytes, length, content, padding to 8. -/
def arcSection (type : Nat) (b : Bytes) : Bytes :=
  leBytes 2 type ++ [0, 0] ++ leBytes 4 b.length ++ b ++ List.replicate ((8 - b.length % 8) % 8) 0

/-- A tenant entry in an archive: tenant, STATE, CSET, EPOCH, the quotas and BIND. R505 gives the fields and no byte layout
(DESIGN CHOICE, log 28). -/
def tenantBytes (n : Nat) (t : Tenant) : Bytes :=
  leBytes 2 n ++ [if t.live then 1 else 0, 0] ++ leBytes 2 t.cset ++ leBytes 2 t.epoch.toNat ++ leBytes 4 t.slotQuota ++
    leBytes 2 t.storeQuota ++ [0, 0] ++ leBytes 32 t.bind.toNat

/-- The tenant entry of such bytes; its quotas' uses are 0. -/
def tenantOfBytes (b : Bytes) : Nat × Tenant :=
  (leAt b 0 2, { live := byteAt b 2 == 1, cset := leAt b 4 2, epoch := BitVec.ofNat 16 (leAt b 6 2), slotQuota := leAt b 8 4,
                 storeQuota := leAt b 12 2, bind := BitVec.ofNat 256 (leAt b 16 32) })

/-- A set record (R194). -/
def setBytes (n : Nat) (x : CustSet) : Bytes :=
  leBytes 2 n ++ leBytes 1 x.n ++ leBytes 1 x.m ++ fit 192 (x.cards.flatMap fun c => leBytes 12 c.1.toNat) ++
    fit 512 (x.cards.flatMap fun c => beBytes 32 c.2.toNat)

/-- The set record of such bytes. -/
def setOfBytes (b : Bytes) : Nat × CustSet :=
  let n := (byteAt b 2).toNat
  (leAt b 0 2, { n := n, m := (byteAt b 3).toNat, cards := (List.range n).map fun i =>
    (BitVec.ofNat 96 (leAt b (4 + 12 * i) 12), BitVec.ofNat 256 (beAt b (196 + 32 * i) 32)) })

/-- The keys of the tenants that `pick` names, in slot order. -/
def State.pickedSlots (s : State) (pick : Nat → Bool) : List (Nat × Slot) :=
  s.rack.slots.filter fun e => aValid e.2.attr && pick (aTenant e.2.attr)

/-- The first of those keys whose CHECK does not match as the control port reads it (R157). -/
def State.pickedFault (s : State) (pick : Nat → Bool) : Option Nat :=
  ((s.pickedSlots pick).find? fun e => e.2.check != s.checkOf e.1 e.2).map (·.1)

/-- The plaintext of a KIND 1 archive over the tenants that `pick` names (R505). -/
def State.arcPlain (s : State) (pick : Nat → Bool) : Bytes :=
  let ts := s.vault.tenants.filter fun e => e.2.live && pick e.1
  (ts.flatMap fun e => arcSection 1 (tenantBytes e.1 e.2)) ++
  ((ts.map (·.2.cset)).dedup.flatMap fun n => arcSection 2 (setBytes n (s.setOf n))) ++
  ((s.pickedSlots pick).flatMap fun e =>
    arcSection 3 (leBytes 2 e.1 ++ leBytes 72 e.2.material.toNat ++ attrBytes e.2.attr)) ++
  ((s.vault.areas.filter fun e => pick e.1).flatMap fun e =>
    let b := s.tenantArea e.1 (s.epochOf e.1)
    if b = [] then [] else arcSection 4 (leBytes 2 e.1 ++ b)) ++ arcSection 0 []

/-- KiB of a persistent area, rounded up (R134). -/
def areaSize (b : Bytes) : Nat := (b.length + 1023) / 1024

/-- The sections of a plaintext, up to the end section. -/
def arcSections : Nat → Bytes → List (Nat × Bytes)
  | 0, _ => []
  | n + 1, b =>
    let t := leAt b 0 2
    let l := leAt b 4 4
    if t = 0 ∨ b.length < 8 then [] else (t, (b.drop 8).take l) :: arcSections n (b.drop (8 + 8 * ((l + 7) / 8)))

/-! ### Restore (R222, R223, R506) -/

/-- The shares of a RESTORE agree: equal check values, equal mB, distinct indices; then the key they make, checked (R222). -/
def Ceremony.sharedKey (c : Ceremony) : Option (Bytes × BitVec 64) :=
  match c.shares with
  | [] => none
  | (x, mB, chk, v) :: t =>
    let all := (x, mB, chk, v) :: t
    let ok := all.all (fun e => e.2.1 == c.at_ 5 1 && e.2.2.1 == chk) && (all.map (·.1)).dedup.length == all.length
    let k := combine (all.map fun e => (BitVec.ofNat 8 e.1, beBytes 32 e.2.2.2.toNat))
    if ok ∧ beNat (btkCheck k) = chk.toNat then some (k, chk) else none

/-- An archive read whole is present on a volume (R506): both its ends pass their CRC and carry the sequence and the volume, and the commit
block repeats B. The walk compares the place of it. -/
def arcPresent (raw fin : Bytes) (seq volume : Nat) : Bool :=
  crcOk (raw.take 512) && crcOk fin && raw.take 4 == ascii "ZYAH" && fin.take 4 == ascii "ZYAC" && byteAt raw 4 == 1 && byteAt fin 4 == 1 &&
    byteAt raw 5 == 1 && byteAt fin 5 == 1 && leAt raw 8 4 == seq && leAt fin 8 4 == seq && leAt raw 16 8 == volume && leAt fin 20 8 == volume &&
    leAt fin 16 4 == leAt raw 12 4

/-- The plaintext of an archive read whole, opened under a BTK; none where it is unusable (OUTCOME 3 of R222, R506). -/
def arcOpen (raw btk : Bytes) (chk : BitVec 64) (seq volume : Nat) : Option Bytes :=
  let b := leAt raw 12 4
  let body := raw.take (512 * b)
  let fin := slice raw (512 * b) 512
  let n := leAt raw 100 4
  if raw.length < 512 * (b + 1) ∨ b = 0 ∨ ¬ arcPresent raw fin seq volume then none
  else if slice fin 44 48 ≠ Sha.sha384 body ∨ beAt raw 40 8 ≠ chk.toNat then none
  else
    match Modes.aesUnkwp btk (slice raw 48 40) with
    | none => none
    | some key =>
      let f := Aes.encWith (Aes.roundKeys key)
      let c := slice body 512 n
      if n ≤ 512 * (b - 1) ∧ Modes.gcmTag f (slice raw 88 12) (raw.take 104) c = slice fin 28 16 then
        some (Modes.gcmCrypt f (slice raw 88 12) c)
      else none

/-- The functions whose BIND bit a new value clears (R142). -/
def unbound (old new : BitVec 256) : List Nat := (List.range 256).filter fun f => old.getLsbD f && !new.getLsbD f

/-- The BIND bits of a tenant that a new value clears are cleared by the Hearth, each as R142 has it. -/
def State.unbindTo (t : Nat) (new : BitVec 256) (s : State) : State :=
  (unbound (s.tenantOf t).bind new).foldl (fun s f => s.unbind t f) s

/-- The Hearth writes a set record (R194, R197). -/
def State.writeSet (n : Nat) (x : CustSet) (s : State) : State :=
  State.wroteRegion 708 { s with vault := { s.vault with sets := tset {} n x s.vault.sets } }

/-- Sets that no tenant names are freed, the owner set apart (R197). -/
def State.freeSets (s : State) : State :=
  let kept := s.vault.sets.filter fun x => x.1 == 0 || s.vault.tenants.any fun t => t.2.live && t.2.cset == x.1
  if kept = s.vault.sets then s
  else State.wroteRegion (708 * (s.vault.sets.length - kept.length)) { s with vault := { s.vault with sets := kept } }

/-- Place one section of a restore (R223): `pick` names the tenants restored, `same` tells that the archive is of this device and
its root. The tenant entries of an archive stand before what they hold. -/
def State.placeSection (pick : Nat → Bool) (same : Bool) (sec : Nat × Bytes) (s : State) : State :=
  let b := sec.2
  if sec.1 = 1 then
    let (n, t) := tenantOfBytes b
    if pick n then
      let t := { t with epoch := if same then t.epoch else t.epoch + 2 }
      let s := s.unbindTo n t.bind
      State.wroteRegion 48 { s with vault := { s.vault with
          tenants := tset {} n { t with slotsUsed := (s.tenantOf n).slotsUsed, storeUsed := (s.tenantOf n).storeUsed } s.vault.tenants
          kept := tset {} n t s.vault.kept } }
    else s
  else if sec.1 = 2 then
    let (n, x) := setOfBytes b
    s.writeSet n x
  else if sec.1 = 3 then
    let a := attrOf (slice b 74 16)
    if pick (aTenant a) then
      (s.placeSlot (leAt b 0 2) a (BitVec.ofNat 576 (leAt b 2 72))).modTenant (aTenant a) fun t => { t with slotsUsed := t.slotsUsed + 1 }
    else s
  else if sec.1 = 4 ∧ pick (leAt b 0 2) then
    State.modTenant (leAt b 0 2) (fun t => { t with storeUsed := t.storeUsed + areaSize (b.drop 2) })
      (s.putArea (leAt b 0 2) (s.epochOf (leAt b 0 2)) (b.drop 2))
  else s

/-- The reservations of a restored tenant pass its quotas (R138): its keys and its persistent area, beside what it holds. -/
def State.passesQuota (s : State) (secs : List (Nat × Bytes)) (e : Nat × Tenant) : Bool :=
  let keys := (secs.filter fun x => x.1 == 3 && aTenant (attrOf (slice x.2 74 16)) == e.1).length
  let kib := ((secs.filter fun x => x.1 == 4 && leAt x.2 0 2 == e.1).map fun x => areaSize (x.2.drop 2)).sum
  decide (e.2.slotQuota < (s.tenantOf e.1).slotsUsed + keys) || decide (e.2.storeQuota < (s.tenantOf e.1).storeUsed + kib)

/-- What a restore would clash with (R138, R223, OUTCOME 2): a tenant that is not FREE, a slot in use, a set of another content under the
same number (DEDUCED, log 28), a quota of a tenant, or a quota sum of R137. -/
def State.restoreClash (s : State) (scope0 : Bool) (pick : Nat → Bool) (secs : List (Nat × Bytes)) : Bool :=
  let ts := (secs.filter fun e => e.1 == 1).map (fun e => tenantOfBytes e.2) |>.filter fun e => pick e.1
  (ts.any fun e => e.1 != 0 && (s.tenantOf e.1).live) || ts.any (s.passesQuota secs) ||
  (scope0 && s.vault.tenants.any fun e => e.1 != 0 && e.2.live) ||
  (secs.any fun e => e.1 == 3 && pick (aTenant (attrOf (slice e.2 74 16))) && aValid (s.slotOf (leAt e.2 0 2)).attr) ||
  (secs.any fun e => e.1 == 2 && leAt e.2 0 2 != 0 && (s.setOf (leAt e.2 0 2)).n != 0 &&
    s.setOf (leAt e.2 0 2) != (setOfBytes e.2).2) ||
  decide (65536 < (ts.map (·.2.slotQuota)).sum + ((s.vault.tenants.filter fun e => !(ts.map (·.1)).contains e.1).map (·.2.slotQuota)).sum) ||
  decide (4096 < (ts.map (·.2.storeQuota)).sum + ((s.vault.tenants.filter fun e => !(ts.map (·.1)).contains e.1).map (·.2.storeQuota)).sum)

/-- The sections that a restore takes: under SCOPE 1 the owner set stays, and of the other sets only those that a restored tenant names
are placed (R197, R223). -/
def restoreSections (scope0 : Bool) (pick : Nat → Bool) (l : List (Nat × Bytes)) : List (Nat × Bytes) :=
  let named := ((l.filter fun e => e.1 == 1).map fun e => tenantOfBytes e.2).filterMap fun e => if pick e.1 then some e.2.cset else none
  l.filter fun e => e.1 != 2 || (if scope0 then leAt e.2 0 2 == 0 || named.contains (leAt e.2 0 2)
    else leAt e.2 0 2 != 0 && named.contains (leAt e.2 0 2))

/-- A restore of an opened archive: the tenants restored and the new state, or the OUTCOME (R222, R223). A device that holds no BTK keeps
the reconstructed one. -/
def State.restore (c : Ceremony) (raw : Bytes) (s : State) : Except Nat (Nat × State) :=
  match c.sharedKey with
  | none => .error 4
  | some (btk, chk) =>
    match arcOpen raw btk chk (c.at_ 8 4) s.cards.sd.volume.toNat with
    | none => .error 3
    | some p =>
      let scope0 := c.at_ 4 1 == 0
      let pick (t : Nat) : Bool := scope0 || t == c.tenant
      let secs := restoreSections scope0 pick (arcSections p.length p)
      if s.restoreClash scope0 pick secs then .error 2
      else
        let same := leAt raw 24 8 == s.trims.identity.toNat && leAt raw 32 4 == s.crucible.rootGen.toNat
        let s : State := secs.foldl (fun s e => s.placeSection pick same e) s
        let s := s.freeSets
        let s := if s.heldBtk.isSome then s
          else State.wroteRegion 32 { s with vault := { s.vault with btk := some (BitVec.ofNat 256 (beNat btk)) } }
        .ok ((secs.filter fun e => e.1 == 1 && pick (leAt e.2 0 2)).length, s)

end Sys2Proof.Machine
end

