-- ==== Sys2Proof/Machine/Cards.lean ====
section
/-!
DEFINITION. The card ports: insertion, removal, what a custodian card sends, and the 0x07xx family of the backup card (R487 to
R508).
-/
namespace Sys2Proof.Machine

/-! ### Insertion and removal (R485, R487, R499, R503, R509) -/

/-- CARD_INSERTED (R487): ports 0 to 3, and 4 for the backup port. Insertion never activates a card. -/
def execCardInserted (port : Fin 5) (s : State) : Out :=
  .next (
    if port.val = 4 then
      let d := s.cards.sd
      if d.present then s
      else { s with cards := { s.cards with sd := { d with present := true, state := if s.powered 27 then 1 else 5 } } }
    else if (s.portOf port).present then s
    else (s.modPort port fun p => { p with present := true, insertions := satInc 65535 p.insertions }).pme)

/-- The backup card leaves: the port deactivates, WALKED, SD_LAST_SEQ and SD_NEXT_LBA are cleared (R487, R509). -/
def Sd.removed (d : Sd) : Sd :=
  { waiting := d.waiting, cause := d.cause, crcErrors := d.crcErrors, retunes := d.retunes }

/-- CARD_REMOVED (R487, R499, R503): `busy` says for the backup port whether an operation is under way and whether its card was
in a busy phase. -/
def execCardRemoved (port : Fin 5) (busy : Option Bool) (s : State) : Out :=
  .next (
    if port.val = 4 then
      let d := s.cards.sd
      if ¬ d.present then s
      else
        let s := { s with cards := { s.cards with sd := d.removed } }
        match busy, d.waiting with
        | some b, id :: _ => s.fail id (if b then 0x0703 else 0x0702) 0
        | _, _ => s
    else if ¬ (s.portOf port).present then s
    else
      let s := match s.cards.session with
        | some x => if x.port = port.val then s.cardStatus x 0x0702 port.val else s
        | none => s
      (s.modPort port fun p => { p.off with present := false, removals := satInc 65535 p.removals }).pme)

/-! ### What a custodian card sends (R489 to R494) -/

/-- Act for the conversation on a port that is in a phase; nothing happens where none is. -/
def State.onPort (n : Nat) (phase : PortPhase) (act : Session → State → State) (s : State) : State :=
  match s.cards.session with
  | some x => if x.port = n ∧ (s.portOf n).phase = phase ∧ (s.portOf n).active then act x s else s
  | none => s

/-- A PPS request: PPS0 with T=1, and PPS1 where it is named (R491). -/
def ppsRequest (pps1 : Option Nat) : Bytes :=
  let b : Bytes := match pps1 with
    | some v => [0xFF, 0x11, BitVec.ofNat 8 v]
    | none => [0xFF, 0x01]
  b ++ [b.foldl (fun x y => x ^^^ y) (0 : Byte)]

/-- The clock and the rate take effect, and S(IFS request) is sent (R491, R492). -/
def State.setRate (n ta1 : Nat) (s : State) : State :=
  (s.modPort n fun p => { p with fi := ta1 / 16, di := ta1 % 16, div := clockDiv (ta1 / 16) }).sendIfs n

/-- An ATR of a class that is kept: its parameters, then PPS, or specific mode without PPS (R491, R492, R494). -/
def State.takeAtr (x : Session) (n : Nat) (b : Bytes) (a : Atr) (s : State) : State :=
  let ifsc := a.ta3.getD 32
  let tb := a.tb3.getD 0x4D
  let s := s.modPort n fun p => { p with
    atr := b, ifsc := if 1 ≤ ifsc ∧ ifsc ≤ 254 then ifsc else 32, cwi := tb % 16, bwi := tb / 16, crc := (a.tc3.getD 0).testBit 0
    stopMode := a.clockStop }
  match a.ta2 with
  | some v =>
    if v % 16 = 1 ∧ ¬ v.testBit 4 ∧ ta1Ok (a.ta1.getD 0x11) then s.setRate n (a.ta1.getD 0x11) else s.cardProtocol x 5 0
  | none =>
    let req := ppsRequest (if (s.portOf n).ppsTried = 0 then a.ta1.filter ta1Ok else none)
    (s.modPort n fun p => { p with ppsReq := req, phase := .waitPps }).emit (.card n req)

/-- ATR_RECEIVED (R489 to R491). -/
def execAtrReceived (port : Fin 4) (atr : Bytes) (s : State) : Out :=
  .next (s.onPort port .waitAtr fun x s =>
    let a := readAtr atr
    let cls := (s.portOf port).cls
    if ¬ a.ok then s.cardProtocol x 2 0
    else if ¬ a.t1 then s.cardProtocol x 3 0
    else if a.admits cls then s.takeAtr x port atr a
    else
      match s.nextClass (cls + 1) a.admits with
      | some c => s.activate port c
      | none => s.cardProtocol x 4 0)

/-- ATR_TIMEOUT (R489, R490): the next class is tried. -/
def execAtrTimeout (port : Fin 4) (s : State) : Out :=
  .next (s.onPort port .waitAtr fun x s =>
    match s.nextClass ((s.portOf port).cls + 1) (fun _ => true) with
    | some c => s.activate port c
    | none => s.cardProtocol x 1 0)

/-- PPS_RESPONSE (R491): an echo is accepted; else one further activation at the same class with PPS0 alone, then cause 5. -/
def execPpsResponse (port : Fin 4) (bytes : Bytes) (s : State) : Out :=
  .next (s.onPort port .waitPps fun x s =>
    let p := s.portOf port
    if bytes = p.ppsReq then s.setRate port (if p.ppsReq.length = 4 then (byteAt p.ppsReq 2).toNat else 0x11)
    else if p.ppsTried = 0 then (s.modPort port fun p => { p with ppsTried := 1 }).activate port p.cls
    else s.cardProtocol x 5 0)

/-- Carry on with what a block has led to (R492, R493). -/
def State.carryOn (x : Session) (s : State) : T1 → State
  | .more s => s
  | .ready s => s.cardReady x
  | .response b s => s.cardResponse x b
  | .failed => s.cardProtocol x 6 0

/-- T1_BLOCK_RECEIVED (R492, R493). -/
def execT1BlockReceived (port : Fin 4) (block : Bytes) (parity : Bool) (s : State) : Out :=
  .next (s.onPort port .waitBlock fun x s => s.carryOn x (s.takeBlock port block parity))

/-- T1_TIMEOUT (R493): a BWT or CWT timeout. -/
def execT1Timeout (port : Fin 4) (s : State) : Out :=
  .next (s.onPort port .waitBlock fun x s => s.carryOn x (.ofRecover (s.recover port (State.sendR port 2))))

/-- APDU_TIMEOUT (R493): T_APDU_MAX has passed. -/
def execApduTimeout (port : Fin 4) (s : State) : Out := .next (s.onPort port .waitBlock fun x s => s.cardProtocol x 7 0)

/-- CARD_CLOCK_STOP (R494): 1,860 clock cycles after a response's last character. -/
def execCardClockStop (port : Fin 4) (s : State) : Out :=
  .next (
    let p := s.portOf port
    if p.active ∧ p.phase = .idle ∧ p.stopMode ≠ 0 then s.modPort port fun p => { p with clkStop := true } else s)

/-! ### CARD_IDENTIFY (R508) -/

/-- CARD_IDENTIFY (R28, R508): the Hearth's service begins a conversation, which the card's answers complete. -/
def execCardIdentify (op : Nat) (s : State) : Out :=
  .next (s.onOp op 0x0710 .channel fun o s =>
    if s.worlds.running ≠ some (.chan op) ∨ s.cards.session.isSome ∨ ¬ s.powered 27 then s
    else if (s.blockOf 0x14).out then s.fail op 0x0302 0x14
    else s.startSession { port := dPlan o.desc % 4, op := some op })

/-! ### The backup port (R500 to R507) -/

/-- Change the backup port. -/
def State.modSd (g : Sd → Sd) (s : State) : State := { s with cards := { s.cards with sd := g s.cards.sd } }

/-- ST_CARD_PROTOCOL of the backup port with a cause and the STATE that follows: 4 refused, or 1 where the card initialises again
(R495, R500, R509). -/
def State.sdProtocol (id cause state : Nat) (s : State) : State :=
  (s.modSd fun d => { d with cause := cause, state := state }).fail id 0x0704 (4 + 256 * cause)

/-- Initialise the card where it is not ready (R500): `k` goes on, or the card is refused with a cause. A format needs no volume header
(DEDUCED, log 28). -/
def State.sdReady (refuse : Nat → State → State) (format : Bool) (card : SdCard) (k : State → State) (s : State) : State :=
  let d := s.cards.sd
  if d.state = 4 then refuse d.cause s
  else if d.state = 2 then k s
  else
    match card.cause with
    | some c => refuse c.toNat s
    | none =>
      let s := s.modSd fun d => { d with v18 := true, mode := card.mode, phase := card.phase.toNat, capacity := card.capacity.toNat }
      match card.volume with
      | some v => k (s.modSd fun d => { d with
          state := 2, formatted := true, walked := true, volume := v, lastSeq := card.lastSeq.toNat, nextLba := card.nextLba.toNat })
      | none => if format then k (s.modSd fun d => { d with state := 2, formatted := false }) else refuse 0x28 s

/-- Run an operation of the backup port: it is the oldest one waiting, PD27 has its power, block 0x14 is in service and the Bench serves;
then the card is made ready (R28, R118, R382, R500, R502, R503). -/
def State.onSd (id opcode : Nat) (hearth format : Bool) (card : SdCard) (early : Op → State → Option (Nat × Nat))
    (k : Op → State → State) (s : State) : State :=
  s.onOp id opcode .channel fun o s =>
    if s.cards.sd.waiting.find? (fun w => s.svcMayStart (.chan w)) ≠ some id ∨ ¬ s.powered 27 then s
    else if (s.blockOf 0x14).out ∨ s.worlds.bench.status = 3 then s.fail id 0x0302 0x14
    else if s.worlds.bench.status ≠ 1 then s
    else if hearth ∧ ¬ s.worlds.vaultUp then s.fail id 0x0302 0xFF
    else
      match early o s with
      | some (st, d) => s.fail id st d
      | none => if ¬ s.cards.sd.present then s.fail id 0x0701 0 else s.sdReady (fun c s => s.sdProtocol id c 4) format card (k o)

/-- The transfers of an operation end as the command says: `k` follows success (R501, R507). -/
def State.sdEnd (id : Nat) (how : SdEnd) (k : State → State) (s : State) : State :=
  match how with
  | .done => k s
  | .failed c => s.sdProtocol id c.toNat 1

/-- Send an SD command with its argument. -/
def State.sdCmd (i arg : Nat) (s : State) : State := s.emit (.sdCmd i (BitVec.ofNat 32 arg))

/-- DETAIL of an archive that does not fit (R138, R507): the archive's tenant, kind 3, and the free blocks in units of 1,024. -/
def State.noRoom (s : State) (h : ArcHead) : Nat :=
  h.tenant + 3 * 4096 + 65536 * min 65535 ((s.cards.sd.capacity - s.cards.sd.nextLba) / 1024)

/-- Write an archive at SD_NEXT_LBA (R506, R507): header and payload with CMD23 and CMD25, the commit block with CMD24, its
read-back with CMD17. -/
def State.writeArchive (id : Nat) (h : ArcHead) (payload tag : Bytes) (how : SdEnd) (s : State) : State :=
  let at_ := s.cards.sd.nextLba
  if s.cards.sd.capacity < at_ + h.b + 1 then s.fail id 0x0204 (s.noRoom h)
  else
    let blocks := h.blocks payload
    let s := ((s.sdCmd 23 h.b).sdCmd 25 at_).emit (.sdWrite at_ blocks)
    let s := ((s.sdCmd 24 (at_ + h.b)).emit (.sdWrite (at_ + h.b) (h.commit at_ tag blocks))).sdCmd 17 (at_ + h.b)
    s.sdEnd id how fun s =>
      (s.modSd fun d => { d with lastSeq := h.seq, nextLba := at_ + h.b + 1 }).finish id 0 0 0
        (leBytes 4 h.seq ++ leBytes 4 at_ ++ leBytes 4 h.b)

/-- The header of the next archive. -/
def State.nextHead (s : State) (kind len : Nat) : ArcHead :=
  { kind := kind, seq := s.cards.sd.lastSeq + 1, b := arcBlocks len, volume := s.cards.sd.volume, identity := s.trims.identity
    rootGen := s.crucible.rootGen, len := len }

/-- A tenant archive with 32 bytes of a fresh archive key and 12 of an IV (R221, R504, R505). The control port checks each key it reads
(R157). -/
def State.tenantArchive (o : Op) (btk : BitVec 256) (how : SdEnd) (r : Bytes) (s : State) : State :=
  let scope := dPlan o.desc % 2
  let pick (t : Nat) : Bool := scope == 0 || t == o.tenant
  let plain := s.arcPlain pick
  let kb := beBytes 32 btk.toNat
  let h := { s.nextHead 1 plain.length with
    scope := scope, tenant := if scope = 1 then o.tenant else 0, check := btkCheck kb, wrapped := Modes.aesKwp kb (r.take 32)
    iv := slice r 32 12 }
  let f := Aes.encWith (Aes.roundKeys (r.take 32))
  let c := Modes.gcmCrypt f h.iv plain
  match s.pickedFault pick with
  | some n => (s.slotFault n 1).fail o.id 0x0502 (0x12 + 256 * 3)
  | none => s.writeArchive o.id h c (Modes.gcmTag f h.iv (h.bytes.take 104) c) how

/-- ARCHIVE_WRITE (R221, R508). -/
def execArchiveWrite (op : Nat) (card : SdCard) (how : SdEnd) (s : State) : Out :=
  .next (s.onSd op 0x0701 true false card
    (fun o s =>
      if s.heldBtk.isNone then some (0x0301, s.chip.state.code)
      else if (dPlan o.desc).testBit 0 ∧ ¬ (s.tenantOf o.tenant).live then some (0x0102, badField 6 0 0)
      else none)
    fun o s =>
      match s.heldBtk with
      | some k => s.gated o 2 3 fun r s => s.tenantArchive o k how r
      | none => s)

/-- ARCHIVE_RECORDER (R508): every record, in sequence order. -/
def execArchiveRecorder (op : Nat) (card : SdCard) (how : SdEnd) (s : State) : Out :=
  .next (s.onSd op 0x0702 true false card (fun _ _ => none) fun _ s =>
    let body := s.store.records.flatMap fun e => e.2.image e.1
    s.writeArchive op (s.nextHead 2 body.length) body [] how)

/-- ARCHIVE_STATUS (R508). -/
def execArchiveStatus (op : Nat) (card : SdCard) (how : SdEnd) (s : State) : Out :=
  .next (s.onSd op 0x0703 false false card (fun _ _ => none) fun _ s =>
    s.sdEnd op how fun s =>
      let d := s.cards.sd
      s.finish op 0 0 0 (leBytes 4 d.lastSeq ++ leBytes 4 d.nextLba ++ leBytes 4 (d.capacity - d.nextLba)))

/-- ARCHIVE_FORMAT (R504, R508): a new volume header; every earlier archive is then absent. -/
def execArchiveFormat (op : Nat) (card : SdCard) (how : SdEnd) (s : State) : Out :=
  .next (s.onSd op 0x0704 true true card
    (fun o _ => if dAux o.desc % 2 ^ 32 = 0x464D5441 then none else some (0x0102, badField 56 0 0))
    fun o s => s.gated o 2 1 fun r s =>
        let v := BitVec.ofNat 64 (leNat (r.take 8))
        let s := (s.sdCmd 24 0).emit (.sdWrite 0 (volumeHeader v s.trims.identity s.cards.sd.capacity))
        s.sdEnd op how fun s =>
          (s.modSd fun d => { d with formatted := true, walked := true, volume := v, lastSeq := 0, nextLba := 64 }).finish
            op 0 0 0 (leBytes 8 v.toNat))

/-- The tuning of a mode: SDR104 and SDR50 are tuned again (R501). -/
def Sd.retune (d : Sd) : Sd := if 3 ≤ d.mode then { d with retunes := satInc 65535 d.retunes } else d

/-- SD_CRC_ERROR (R501): the first error of a command leads to a new tuning and a retry, the second to the next lower mode; at
SDR12 it ends the operation with cause 0x25. -/
def execSdCrcError (s : State) : Out :=
  .next (
    let d := s.cards.sd
    match d.waiting with
    | [] => s
    | id :: _ =>
      if ¬ d.present ∨ d.mode = 0 then s
      else
        let s := s.modSd fun d => { d with crcErrors := satInc 65535 d.crcErrors }
        if d.errTry = 0 then s.modSd fun d => { d.retune with errTry := 1 }
        else if d.mode ≤ 1 then s.sdProtocol id 0x25 1
        else s.modSd fun d => { Sd.retune { d with mode := d.mode - 1 } with errTry := 0 })

/-- SD_BUSY_TIMEOUT (R501): a block held DAT0 busy beyond T_SD_BUSY. -/
def execSdBusyTimeout (s : State) : Out :=
  .next (
    match s.cards.sd.waiting with
    | [] => s
    | id :: _ => if s.cards.sd.present then s.sdProtocol id 0x26 1 else s)

end Sys2Proof.Machine
end

