-- ==== Sys2Proof/Machine/Lanes.lean ====
section
/-!
DEFINITION. Anvil lanes, TDES lane and hash lanes: the opcodes of the families 0x01xx and 0x02xx (R227 to R251). Each acts on
an operation that a lane holds, with the key that the Rack sent at its dispatch.
-/
namespace Sys2Proof.Machine

/-! ### Fields (R231, R234) -/

/-- MEMBER, PLAN[1:0]. -/
def pMember (o : Op) : Nat := dPlan o.desc % 4
/-- PAD, PLAN[3:2]. -/
def pPad (o : Op) : Nat := dPlan o.desc / 4 % 4
/-- MACALG, PLAN[5:4]. -/
def pMacAlg (o : Op) : Nat := dPlan o.desc / 16 % 4
/-- T, PLAN[15:8]. -/
def pT (o : Op) : Nat := dPlan o.desc / 256

/-- The key that the Rack sent for an operation. -/
def Op.keyCopy (o : Op) : KeyCopy := o.keys.headD {}

/-- Its material, KLEN bytes. -/
def KeyCopy.bytes (k : KeyCopy) : Bytes := k.material.take (aKlen k.attr)

/-- Member `m` of the operation's AES key. -/
def Op.aesKey (o : Op) (m : Nat) : Bytes := member o.keyCopy.attr o.keyCopy.bytes m

/-- AES encryption under the operation's member. -/
def Op.aesEnc (o : Op) : Modes.Blk := let ks := Aes.roundKeys (o.aesKey (pMember o)); Aes.encWith ks

/-- AES decryption under the operation's member. -/
def Op.aesDec (o : Op) : Modes.Blk := let ks := Aes.roundKeys (o.aesKey (pMember o)); Aes.decWith ks

/-- TDES under the operation's key. -/
def Op.tdesEnc (o : Op) : Modes.Blk := Des.enc o.keyCopy.bytes
/-- TDES decryption. -/
def Op.tdesDec (o : Op) : Modes.Blk := Des.dec o.keyCopy.bytes

/-! ### Running an operation in a lane -/

/-- Complete with an output. -/
def State.laneDone (o : Op) (dma : Dma) (out result : Bytes) (s : State) : State :=
  (s.writeOut o dma out).finish o.id 0 0 out.length result

/-- An operation that maps its DLEN payload bytes to an output of a known length. -/
def State.laneMap (id opcode : Nat) (dma : Dma) (maxOut : Op → Nat) (f : Op → Bytes → Bytes) (s : State) : State :=
  s.onOp id opcode .block fun o s =>
    s.checked o dma (dDlen o.desc) (maxOut o) fun s => s.laneDone o dma (f o (opData o dma)) []

/-- Maximum output of a padded block encryption (R232). -/
def padOut (n : Nat) (o : Op) : Nat := if pPad o = 2 then dDlen o.desc else n * (dDlen o.desc / n) + n

/-- RESULT of a block decryption (R237). -/
def padResult (n : Nat) (o : Op) (m : Bytes) : Bytes :=
  if pPad o = 2 then []
  else
    let r := Modes.padReport (pPad o) n m
    leBytes 4 r.1 ++ [if r.2 then 1 else 0]

/-- A block decryption with its padding report. -/
def State.laneDec (id opcode : Nat) (dma : Dma) (n : Nat) (f : Op → Bytes → Bytes) (s : State) : State :=
  s.onOp id opcode .block fun o s =>
    s.checked o dma (dDlen o.desc) (dDlen o.desc) fun s =>
      let m := f o (opData o dma)
      s.laneDone o dma m (padResult n o m)

/-- AES_ECB_ENC (R232, R236). -/
def execAesEcbEnc (op : Nat) (dma : Dma) (s : State) : Out :=
  .next (s.laneMap op 0x0101 dma (padOut 16) fun o m => Modes.ecb o.aesEnc 16 (Modes.pad (pPad o) 16 m))

/-- AES_ECB_DEC (R232, R237). -/
def execAesEcbDec (op : Nat) (dma : Dma) (s : State) : Out :=
  .next (s.laneDec op 0x0102 dma 16 fun o m => Modes.ecb o.aesDec 16 m)

/-- AES_CBC_ENC (R232). -/
def execAesCbcEnc (op : Nat) (dma : Dma) (s : State) : Out :=
  .next (s.laneMap op 0x0103 dma (padOut 16) fun o m =>
    Modes.cbcEnc o.aesEnc 16 (opParams o dma) (Modes.pad (pPad o) 16 m))

/-- AES_CBC_DEC (R232). -/
def execAesCbcDec (op : Nat) (dma : Dma) (s : State) : Out :=
  .next (s.laneDec op 0x0104 dma 16 fun o m => Modes.cbcDec o.aesDec 16 (opParams o dma) m)

/-- AES_CFB_ENC (R232). -/
def execAesCfbEnc (op : Nat) (dma : Dma) (s : State) : Out :=
  .next (s.laneMap op 0x0105 dma (fun o => dDlen o.desc) fun o m => Modes.cfbEncL o.aesEnc (opParams o dma) (chunks 16 m))

/-- AES_CFB_DEC (R232). -/
def execAesCfbDec (op : Nat) (dma : Dma) (s : State) : Out :=
  .next (s.laneMap op 0x0106 dma (fun o => dDlen o.desc) fun o m => Modes.cfbDecL o.aesEnc (opParams o dma) (chunks 16 m))

/-- AES_CTR_ENC (R232, R238). -/
def execAesCtrEnc (op : Nat) (dma : Dma) (s : State) : Out :=
  .next (s.laneMap op 0x0107 dma (fun o => dDlen o.desc) fun o m => Modes.ctr o.aesEnc (opParams o dma) m)

/-- AES_CTR_DEC (R232, R238). -/
def execAesCtrDec (op : Nat) (dma : Dma) (s : State) : Out :=
  .next (s.laneMap op 0x0108 dma (fun o => dDlen o.desc) fun o m => Modes.ctr o.aesEnc (opParams o dma) m)

/-! ### GCM, CCM and GMAC (R234, R238, R243, R244) -/

/-- The first byte of an AEAD block that must be 0 and is not, or its NLEN out of range (R234); `tag` is how many leading bytes
may hold an expected tag. -/
def aeadFault (p : Bytes) (tag lo hi : Nat) : Option Nat :=
  let z (o n : Nat) : Option Nat := firstOff (fun b => b != 0) (slice p o n) o
  match z tag (16 - tag) with
  | some f => some f
  | none =>
    if leAt p 16 2 < lo ∨ hi < leAt p 16 2 then some 16 else z 18 6

/-- The nonce of an operation: inline (`inlineN` its length, none for the CCM form with NLEN in byte 0), or in its AEAD block
after the checks of R234. -/
def State.withNonce (o : Op) (dma : Dma) (inlineN : Option Nat) (tag lo hi : Nat) (k : Bytes → State → State) (s : State) :
    State :=
  let p := opParams o dma
  if dInline o.desc then
    match inlineN with
    | some n => k (p.take n) s
    | none => k (slice p 1 (byteAt p 0).toNat) s
  else
    match aeadFault p tag lo hi with
    | some f => s.fail o.id 0x0102 (badField f 3 0)
    | none =>
      if 24 + leAt p 16 2 ≠ dParamLen o.desc then s.fail o.id 0x0103 40
      else k (slice p 24 (leAt p 16 2)) s

/-- The outcome of a checked decryption (R243, R244): a payload above 4,096 bytes is written as it is produced. -/
def State.releaseChecked (o : Op) (dma : Dma) (ok : Bool) (out : Bytes) (s : State) : State :=
  if ok then s.laneDone o dma out []
  else (if 4096 < dDlen o.desc then s.writeOut o dma out else s).fail o.id 0x0501 0

/-- AES_GCM_ENC (R232). -/
def execAesGcmEnc (op : Nat) (dma : Dma) (s : State) : Out :=
  .next (s.onOp op 0x0109 .block fun o s =>
    s.checked o dma (dAadLen o.desc + dDlen o.desc) (dDlen o.desc + pT o) fun s =>
      s.withNonce o dma (some 12) 0 1 128 fun iv s =>
        let c := Modes.gcmCrypt o.aesEnc iv (opData o dma)
        s.laneDone o dma (c ++ (Modes.gcmTag o.aesEnc iv (opAad o dma) c).take (pT o)) [])

/-- AES_GCM_DEC (R243, R244). -/
def execAesGcmDec (op : Nat) (dma : Dma) (s : State) : Out :=
  .next (s.onOp op 0x010A .block fun o s =>
    s.checked o dma (dAadLen o.desc + dDlen o.desc) (dDlen o.desc) fun s =>
      s.withNonce o dma none (pT o) 1 128 fun iv s =>
        let c := opData o dma
        let ok := (Modes.gcmTag o.aesEnc iv (opAad o dma) c).take (pT o) == (opParams o dma).take (pT o)
        s.releaseChecked o dma ok (Modes.gcmCrypt o.aesEnc iv c))

/-- The CCM limit on DLEN that NLEN sets (R232, R239), then the operation. -/
def State.ccmLimit (o : Op) (nonce : Bytes) (k : State → State) (s : State) : State :=
  if 2 ^ (8 * (15 - nonce.length)) ≤ dDlen o.desc then s.fail o.id 0x0103 12 else k s

/-- AES_CCM_ENC (R232). -/
def execAesCcmEnc (op : Nat) (dma : Dma) (s : State) : Out :=
  .next (s.onOp op 0x010B .block fun o s =>
    s.checked o dma (dAadLen o.desc + dDlen o.desc) (dDlen o.desc + pT o) fun s =>
      s.withNonce o dma none 0 7 13 fun n s =>
        s.ccmLimit o n fun s =>
          let p := opData o dma
          s.laneDone o dma (Modes.ccmCrypt o.aesEnc n p ++ Modes.ccmTag o.aesEnc n (opAad o dma) p (pT o)) [])

/-- AES_CCM_DEC (R243, R244). -/
def execAesCcmDec (op : Nat) (dma : Dma) (s : State) : Out :=
  .next (s.onOp op 0x010C .block fun o s =>
    s.checked o dma (dAadLen o.desc + dDlen o.desc) (dDlen o.desc) fun s =>
      s.withNonce o dma none (pT o) 7 13 fun n s =>
        s.ccmLimit o n fun s =>
          let p := Modes.ccmCrypt o.aesEnc n (opData o dma)
          let ok := Modes.ccmTag o.aesEnc n (opAad o dma) p (pT o) == (opParams o dma).take (pT o)
          s.releaseChecked o dma ok p)

/-- XTS over the operation's data and tweak members (R231, R238). -/
def Op.xts (o : Op) (dma : Dma) (dec : Bool) (m : Bytes) : Bytes :=
  let kd := Aes.roundKeys (o.aesKey (pMember o))
  let kt := Aes.roundKeys (o.aesKey (pMember o + 1))
  Modes.xts (if dec then Aes.decWith kd else Aes.encWith kd) (Aes.encWith kt) dec (leNat (opParams o dma)) (dAux o.desc % 2 ^ 32) m

/-- AES_XTS_ENC (R238). -/
def execAesXtsEnc (op : Nat) (dma : Dma) (s : State) : Out :=
  .next (s.laneMap op 0x010D dma (fun o => dDlen o.desc) fun o m => o.xts dma false m)

/-- AES_XTS_DEC (R238). -/
def execAesXtsDec (op : Nat) (dma : Dma) (s : State) : Out :=
  .next (s.laneMap op 0x010E dma (fun o => dDlen o.desc) fun o m => o.xts dma true m)

/-! ### Key wrap of host data (R232, R243) -/

/-- AES_KW_WRAP. -/
def execAesKwWrap (op : Nat) (dma : Dma) (s : State) : Out :=
  .next (s.laneMap op 0x0110 dma (fun o => dDlen o.desc + 8) fun o m => Modes.kwWrap o.aesEnc m)

/-- An unwrap whose failed integrity check is a failed verification (R243, R244). -/
def State.laneUnwrap (id opcode : Nat) (dma : Dma) (f : Op → Bytes → Option Bytes) (s : State) : State :=
  s.onOp id opcode .block fun o s =>
    s.checked o dma (dDlen o.desc) (dDlen o.desc - 8) fun s =>
      match f o (opData o dma) with
      | some m => s.laneDone o dma m []
      | none => s.fail o.id 0x0501 0

/-- AES_KW_UNWRAP (R243). -/
def execAesKwUnwrap (op : Nat) (dma : Dma) (s : State) : Out :=
  .next (s.laneUnwrap op 0x0111 dma fun o m => Modes.kwUnwrap o.aesDec m)

/-- AES_KWP_WRAP (R232). -/
def execAesKwpWrap (op : Nat) (dma : Dma) (s : State) : Out :=
  .next (s.laneMap op 0x0112 dma (fun o => 8 * ((dDlen o.desc + 7) / 8) + 8) fun o m => Modes.kwpWrap o.aesEnc m)

/-- AES_KWP_UNWRAP (R243): OUT_LEN is the recovered length. -/
def execAesKwpUnwrap (op : Nat) (dma : Dma) (s : State) : Out :=
  .next (s.laneUnwrap op 0x0113 dma fun o m => Modes.kwpUnwrap o.aesDec m)

/-! ### TDES lane (R232) -/

/-- TDES_ECB_ENC. -/
def execTdesEcbEnc (op : Nat) (dma : Dma) (s : State) : Out :=
  .next (s.laneMap op 0x0120 dma (padOut 8) fun o m => Modes.ecb o.tdesEnc 8 (Modes.pad (pPad o) 8 m))

/-- TDES_ECB_DEC. -/
def execTdesEcbDec (op : Nat) (dma : Dma) (s : State) : Out :=
  .next (s.laneDec op 0x0121 dma 8 fun o m => Modes.ecb o.tdesDec 8 m)

/-- TDES_CBC_ENC. -/
def execTdesCbcEnc (op : Nat) (dma : Dma) (s : State) : Out :=
  .next (s.laneMap op 0x0122 dma (padOut 8) fun o m =>
    Modes.cbcEnc o.tdesEnc 8 ((opParams o dma).take 8) (Modes.pad (pPad o) 8 m))

/-- TDES_CBC_DEC. -/
def execTdesCbcDec (op : Nat) (dma : Dma) (s : State) : Out :=
  .next (s.laneDec op 0x0123 dma 8 fun o m => Modes.cbcDec o.tdesDec 8 ((opParams o dma).take 8) m)

/-! ### Seal and unseal (R246 to R248) -/

/-- The 32 header bytes of sealed data (R246). -/
def sealHeader (tenant epoch plen : Nat) (iv : Bytes) : Bytes :=
  [0x5A, 0x59, 0x53, 0x44, 0x01, 0x00] ++ leBytes 2 tenant ++ leBytes 2 epoch ++ [0, 0] ++ leBytes 4 plen ++ fit 12 iv ++
    [0, 0, 0, 0]

/-- SEAL (R246, R247): the IV is one generate request of 12 bytes from the operation's instance. -/
def execSeal (op : Nat) (dma : Dma) (s : State) : Out :=
  .next (s.onOp op 0x0130 .block fun o s =>
    s.checked o dma (dAadLen o.desc + dDlen o.desc) (dDlen o.desc + 48) fun s =>
      s.drawLocal o 12 false [] fun iv _ s =>
        let e := s.epochOf o.tenant
        let h := sealHeader o.tenant e (dDlen o.desc) iv
        let ks := Aes.roundKeys (s.storageKey o.tenant e)
        let c := Modes.gcmCrypt (Aes.encWith ks) iv (opData o dma)
        s.laneDone o dma (h ++ c ++ Modes.gcmTag (Aes.encWith ks) iv (h ++ opAad o dma) c) [])

/-- The header of sealed data passes (R248). -/
def State.sealOk (s : State) (h : Bytes) (tenant dlen : Nat) : Bool :=
  h.take 6 == [0x5A, 0x59, 0x53, 0x44, 0x01, 0x00] && slice h 10 2 == [0, 0] && slice h 28 4 == [0, 0, 0, 0] &&
    leAt h 6 2 == tenant && (s.tenantOf tenant).live && s.epochOk tenant (leAt h 8 2) && leAt h 12 4 + 48 == dlen

/-- UNSEAL (R243, R244, R248). -/
def execUnseal (op : Nat) (dma : Dma) (s : State) : Out :=
  .next (s.onOp op 0x0131 .block fun o s =>
    s.checked o dma (dAadLen o.desc + dDlen o.desc) (dDlen o.desc - 48) fun s =>
      let d := opData o dma
      let h := d.take 32
      if ¬ s.sealOk h o.tenant (dDlen o.desc) then s.fail op 0x0102 16
      else
        let n := dDlen o.desc - 48
        let ks := Aes.roundKeys (s.storageKey o.tenant (leAt h 8 2))
        let iv := slice h 16 12
        let c := slice d 32 n
        let ok := Modes.gcmTag (Aes.encWith ks) iv (h ++ opAad o dma) c == slice d (32 + n) 16
        s.releaseChecked o dma ok (Modes.gcmCrypt (Aes.encWith ks) iv c))

/-! ### Hash and MAC (R233, R243) -/

/-- HASH (R233): a digest, or the output of a SHAKE. -/
def execHash (op : Nat) (dma : Dma) (s : State) : Out :=
  .next (s.onOp op 0x0201 .block fun o s =>
    let id := dPlan o.desc % 16
    let n := if id ≤ 8 then Sha.hashLen id else dAux o.desc % 2 ^ 32
    s.checked o dma (dDlen o.desc) n fun s =>
      let m := opData o dma
      let out := if id ≤ 8 then Sha.hashId id m else if id = 9 then Sha.shake128 n m else Sha.shake256 n m
      s.laneDone o dma out (out.take 12))

/-- A MAC generation: the tag to DST, its first bytes to RESULT (R233). -/
def State.macGen (o : Op) (dma : Dma) (tag : Bytes) (s : State) : State :=
  let t := tag.take (pT o)
  s.laneDone o dma t (t.take 12)

/-- A MAC verification (R243). -/
def State.macVer (o : Op) (dma : Dma) (tag : Bytes) (s : State) : State :=
  if tag.take (pT o) = (opParams o dma).take (pT o) then s.finish o.id 0 0 0 [] else s.fail o.id 0x0501 0

/-- A MAC opcode over the payload. -/
def State.macOp (id opcode : Nat) (gen : Bool) (dma : Dma) (f : Op → Bytes → Bytes) (s : State) : State :=
  s.onOp id opcode .block fun o s =>
    s.checked o dma (dDlen o.desc) (if gen then pT o else 0) fun s =>
      let tag := f o (opData o dma)
      if gen then s.macGen o dma tag else s.macVer o dma tag

/-- HMAC under the key's hash; a T above its digest length fails before any output (R235). -/
def State.hmacOp (id opcode : Nat) (gen : Bool) (dma : Dma) (s : State) : State :=
  s.onOp id opcode .block fun o s =>
    let sub := aSub o.keyCopy.attr
    if Sha.hashLen sub < pT o then s.fail id 0x0102 11
    else
      s.checked o dma (dDlen o.desc) (if gen then pT o else 0) fun s =>
        let tag := Sha.hmacId sub o.keyCopy.bytes (opData o dma)
        if gen then s.macGen o dma tag else s.macVer o dma tag

/-- HMAC_GEN (R233). -/
def execHmacGen (op : Nat) (dma : Dma) (s : State) : Out := .next (s.hmacOp op 0x0202 true dma)

/-- HMAC_VER (R243). -/
def execHmacVer (op : Nat) (dma : Dma) (s : State) : Out := .next (s.hmacOp op 0x0203 false dma)

/-- AES_CMAC_GEN (R233). -/
def execAesCmacGen (op : Nat) (dma : Dma) (s : State) : Out :=
  .next (s.macOp op 0x0210 true dma fun o m => Modes.cmac o.aesEnc 16 m)

/-- AES_CMAC_VER (R243). -/
def execAesCmacVer (op : Nat) (dma : Dma) (s : State) : Out :=
  .next (s.macOp op 0x0211 false dma fun o m => Modes.cmac o.aesEnc 16 m)

/-- AES_GMAC_GEN (R233, R234): the message is the payload, authenticated as additional data. -/
def execAesGmacGen (op : Nat) (dma : Dma) (s : State) : Out :=
  .next (s.onOp op 0x0212 .block fun o s =>
    s.checked o dma (dDlen o.desc) (pT o) fun s =>
      s.withNonce o dma (some 12) 0 1 128 fun iv s => s.macGen o dma (Modes.gcmTag o.aesEnc iv (opData o dma) []))

/-- AES_GMAC_VER (R243). -/
def execAesGmacVer (op : Nat) (dma : Dma) (s : State) : Out :=
  .next (s.onOp op 0x0213 .block fun o s =>
    s.checked o dma (dDlen o.desc) 0 fun s =>
      s.withNonce o dma none (pT o) 1 128 fun iv s => s.macVer o dma (Modes.gcmTag o.aesEnc iv (opData o dma) []))

/-- ISO 9797-1 with TDES: MAC algorithm 1 or 3 over the padded message (R231, R236). -/
def Op.tdesMac (o : Op) (m : Bytes) : Bytes :=
  let p := Modes.pad (pPad o) 8 m
  if pMacAlg o = 1 then Modes.mac3 o.keyCopy.bytes p else Modes.mac1 o.keyCopy.bytes p

/-- TDES_MAC_GEN (R233). -/
def execTdesMacGen (op : Nat) (dma : Dma) (s : State) : Out := .next (s.macOp op 0x0220 true dma Op.tdesMac)

/-- TDES_MAC_VER (R243). -/
def execTdesMacVer (op : Nat) (dma : Dma) (s : State) : Out := .next (s.macOp op 0x0221 false dma Op.tdesMac)

/-- TDES_CMAC_GEN (R233). -/
def execTdesCmacGen (op : Nat) (dma : Dma) (s : State) : Out :=
  .next (s.macOp op 0x0222 true dma fun o m => Modes.cmac o.tdesEnc 8 m)

/-- TDES_CMAC_VER (R243). -/
def execTdesCmacVer (op : Nat) (dma : Dma) (s : State) : Out :=
  .next (s.macOp op 0x0223 false dma fun o m => Modes.cmac o.tdesEnc 8 m)

end Sys2Proof.Machine
end

