-- ==== Sys2Proof/Machine/Mlkem.lean ====
section
/-!
DEFINITION. ML-KEM (FIPS 203), named by R4 and written from that standard (PRESUMED, log 8). Polynomials are lists of 256
coefficients.
-/
namespace Sys2Proof.Machine.Mlkem

/-- The modulus. -/
def q : Nat := 3329

/-- A polynomial. -/
abbrev Poly := List Nat

/-- Parameters of a set. -/
structure Par where
  k : Nat
  eta1 : Nat
  du : Nat
  dv : Nat

/-- The parameter sets 512, 768 and 1024. -/
def par (set : Nat) : Par :=
  if set = 512 then ⟨2, 3, 10, 4⟩ else if set = 768 then ⟨3, 2, 10, 4⟩ else ⟨4, 2, 11, 5⟩

/-- Reversal of the low `n` bits. -/
def bitRev (n k : Nat) : Nat := ((List.range n).map fun i => if k.testBit i then 2 ^ (n - 1 - i) else 0).sum

/-- Power modulo `m`. -/
def pw (m b : Nat) : Nat → Nat
  | 0 => 1
  | n + 1 => b * pw m b n % m

/-- Root of the k-th butterfly. -/
def zeta (k : Nat) : Nat := pw q 17 (bitRev 7 k)

/-- Coefficientwise operations. -/
def add (a b : Poly) : Poly := List.zipWith (fun x y => (x + y) % q) a b
/-- Difference. -/
def sub (a b : Poly) : Poly := List.zipWith (fun x y => (x + q - y) % q) a b
/-- Product with a constant. -/
def smul (c : Nat) (a : Poly) : Poly := a.map fun x => c * x % q

/-- NTT over `n` layers from butterfly `k`. -/
def ntt : Nat → Nat → Poly → Poly
  | 0, _, f => f
  | n + 1, k, f =>
    let lo := f.take (f.length / 2)
    let t := smul (zeta k) (f.drop (f.length / 2))
    ntt n (2 * k) (add lo t) ++ ntt n (2 * k + 1) (sub lo t)

/-- Inverse NTT without the final factor. -/
def nttInvL : Nat → Nat → Poly → Poly
  | 0, _, f => f
  | n + 1, k, f =>
    let lo := nttInvL n (2 * k) (f.take (f.length / 2))
    let hi := nttInvL n (2 * k + 1) (f.drop (f.length / 2))
    add lo hi ++ smul (pw q (zeta k) (q - 2)) (sub lo hi)

/-- NTT. -/
def fwd (f : Poly) : Poly := ntt 7 1 f
/-- Inverse NTT. -/
def bwd (f : Poly) : Poly := smul 3303 (nttInvL 7 1 f)

/-- Product of two transforms, pair by pair. -/
def mulPairs : Nat → Poly → Poly → Poly
  | i, a0 :: a1 :: a, b0 :: b1 :: b =>
    let g := pw q 17 (2 * bitRev 7 i + 1)
    (a0 * b0 + a1 * b1 % q * g) % q :: (a0 * b1 + a1 * b0) % q :: mulPairs (i + 1) a b
  | _, _, _ => []

/-- Product of two transforms. -/
def mul (a b : Poly) : Poly := mulPairs 0 a b

/-- Zero polynomial. -/
def zero : Poly := List.replicate 256 0

/-- Inner product of two vectors of transforms. -/
def dot (a b : List Poly) : Poly := (List.zipWith mul a b).foldl add zero

/-- Coefficients as strings of `d` bits, least significant first. -/
def encode (d : Nat) (f : Poly) : Bytes :=
  leBytes (32 * d) ((f.reverse).foldl (fun acc x => acc * 2 ^ d + x) 0)

/-- `n` digits of `d` bits of a number. -/
def digits (d : Nat) : Nat → Nat → List Nat
  | 0, _ => []
  | n + 1, v => v % 2 ^ d :: digits d n (v / 2 ^ d)

/-- Inverse of `encode`; for 12 bits the values are reduced. -/
def decode (d : Nat) (b : Bytes) : Poly :=
  (digits d 256 (leNat (fit (32 * d) b))).map fun x => if d = 12 then x % q else x

/-- Compression to `d` bits. -/
def compress (d : Nat) (f : Poly) : Poly := f.map fun x => ((x * 2 ^ (d + 1) + q) / (2 * q)) % 2 ^ d
/-- Decompression. -/
def decompress (d : Nat) (f : Poly) : Poly := f.map fun y => (2 * q * y + 2 ^ d) / 2 ^ (d + 1)

/-- Rejection sampling of coefficients from a stream. -/
def reject : Bytes → List Nat
  | a :: b :: c :: t =>
    let d1 := a.toNat + 256 * (b.toNat % 16)
    let d2 := b.toNat / 16 + 16 * c.toNat
    (if d1 < q then [d1] else []) ++ (if d2 < q then [d2] else []) ++ reject t
  | _ => []

/-- A uniform transform from a seed and two indices; eight blocks of the stream hold more than enough candidates. -/
def sampleNtt (rho : Bytes) (j i : Nat) : Poly :=
  (reject (Sha.shake128 1344 (rho ++ [BitVec.ofNat 8 j, BitVec.ofNat 8 i]))).take 256

/-- A polynomial of the centred binomial distribution. -/
def cbd (eta : Nat) (b : Bytes) : Poly :=
  let v := leNat b
  (List.range 256).map fun i =>
    let ones (o : Nat) : Nat := ((List.range eta).filter fun j => v.testBit (2 * i * eta + o + j)).length
    (ones 0 + q - ones eta) % q

/-- The pseudorandom function. -/
def prf (eta : Nat) (s : Bytes) (n : Nat) : Bytes := Sha.shake256 (64 * eta) (s ++ [BitVec.ofNat 8 n])

/-- The matrix, or its transpose. -/
def matrix (p : Par) (rho : Bytes) (tr : Bool) : List (List Poly) :=
  (List.range p.k).map fun i => (List.range p.k).map fun j => if tr then sampleNtt rho i j else sampleNtt rho j i

/-- A vector of small polynomials, numbered from `n0`. -/
def small (p : Par) (eta : Nat) (s : Bytes) (n0 : Nat) : List Poly :=
  (List.range p.k).map fun i => cbd eta (prf eta s (n0 + i))

/-- Encapsulation and decapsulation key from d and z. -/
def keygen (set : Nat) (d z : Bytes) : Bytes × Bytes :=
  let p := par set
  let g := Sha.sha3 64 (d ++ [BitVec.ofNat 8 p.k])
  let rho := g.take 32
  let sigma := g.drop 32
  let s := (small p p.eta1 sigma 0).map fwd
  let e := (small p p.eta1 sigma p.k).map fwd
  let t := List.zipWith (fun row ei => add (dot row s) ei) (matrix p rho false) e
  let ek := t.flatMap (encode 12) ++ rho
  (ek, s.flatMap (encode 12) ++ ek ++ Sha.sha3 32 ek ++ z)

/-- Polynomials of 384 bytes each. -/
def vec12 (k : Nat) (b : Bytes) : List Poly := (List.range k).map fun i => decode 12 (slice b (384 * i) 384)

/-- Encryption. -/
def encrypt (p : Par) (ek m r : Bytes) : Bytes :=
  let t := vec12 p.k ek
  let rho := slice ek (384 * p.k) 32
  let y := (small p p.eta1 r 0).map fwd
  let e1 := small p 2 r p.k
  let e2 := cbd 2 (prf 2 r (2 * p.k))
  let u := List.zipWith (fun row e => add (bwd (dot row y)) e) (matrix p rho true) e1
  let v := add (add (bwd (dot t y)) e2) (decompress 1 (decode 1 m))
  u.flatMap (fun f => encode p.du (compress p.du f)) ++ encode p.dv (compress p.dv v)

/-- Ciphertext and shared secret. -/
def encaps (set : Nat) (ek m : Bytes) : Bytes × Bytes :=
  let g := Sha.sha3 64 (m ++ Sha.sha3 32 ek)
  (encrypt (par set) ek m (g.drop 32), g.take 32)

/-- Decapsulation with implicit rejection (R322). -/
def decaps (set : Nat) (dk c : Bytes) : Bytes :=
  let p := par set
  let ek := slice dk (384 * p.k) (384 * p.k + 32)
  let h := slice dk (768 * p.k + 32) 32
  let z := slice dk (768 * p.k + 64) 32
  let u := (List.range p.k).map fun i => decompress p.du (decode p.du (slice c (32 * p.du * i) (32 * p.du)))
  let v := decompress p.dv (decode p.dv (slice c (32 * p.du * p.k) (32 * p.dv)))
  let w := sub v (bwd (dot (vec12 p.k dk) (u.map fwd)))
  let m := encode 1 (compress 1 w)
  let g := Sha.sha3 64 (m ++ h)
  if c = encrypt p ek m (g.drop 32) then g.take 32 else Sha.shake256 32 (z ++ c)

/-- The modulus check of an encapsulation key (R320). -/
def ekOk (set : Nat) (ek : Bytes) : Bool :=
  let k := (par set).k
  (vec12 k ek).flatMap (encode 12) == ek.take (384 * k)

/-- Lengths of the encapsulation key, the ciphertext and the decapsulation key (R312, R315). -/
def ekLen (set : Nat) : Nat := 384 * (par set).k + 32
/-- Length of a ciphertext. -/
def ctLen (set : Nat) : Nat := 32 * ((par set).du * (par set).k + (par set).dv)
/-- Length of a decapsulation key. -/
def dkLen (set : Nat) : Nat := 768 * (par set).k + 96

end Sys2Proof.Machine.Mlkem
end

