-- ==== Sys2Proof/Machine/Mldsa.lean ====
section
/-!
DEFINITION. ML-DSA (FIPS 204), named by R4 and written from that standard (PRESUMED, log 8). Polynomials are lists of 256
coefficients from 0 to q − 1.
-/
namespace Sys2Proof.Machine.Mldsa

/-- The modulus. -/
def q : Nat := 8380417

/-- A polynomial. -/
abbrev Poly := List Nat

/-- Parameters of a set. -/
structure Par where
  tau : Nat
  lambda : Nat
  gamma1 : Nat
  gamma2 : Nat
  k : Nat
  l : Nat
  eta : Nat
  omega : Nat

/-- The parameter sets 44, 65 and 87. -/
def par (set : Nat) : Par :=
  if set = 44 then ⟨39, 128, 2 ^ 17, (q - 1) / 88, 4, 4, 2, 80⟩
  else if set = 65 then ⟨49, 192, 2 ^ 19, (q - 1) / 32, 6, 5, 4, 55⟩
  else ⟨60, 256, 2 ^ 19, (q - 1) / 32, 8, 7, 2, 75⟩

/-- Bound β of a set. -/
def Par.beta (p : Par) : Nat := p.tau * p.eta

/-- Root of the k-th butterfly. -/
def zeta (k : Nat) : Nat := Mlkem.pw q 1753 (Mlkem.bitRev 8 k)

/-- Sum. -/
def add (a b : Poly) : Poly := List.zipWith (fun x y => (x + y) % q) a b
/-- Difference. -/
def sub (a b : Poly) : Poly := List.zipWith (fun x y => (x + q - y) % q) a b
/-- Product with a constant. -/
def smul (c : Nat) (a : Poly) : Poly := a.map fun x => c * x % q
/-- Product of two transforms. -/
def mul (a b : Poly) : Poly := List.zipWith (fun x y => x * y % q) a b
/-- Zero polynomial. -/
def zero : Poly := List.replicate 256 0

/-- NTT over `n` layers from butterfly `k`. -/
def ntt : Nat → Nat → Poly → Poly
  | 0, _, f => f
  | n + 1, k, f =>
    let lo := f.take (f.length / 2)
    let t := smul (zeta k) (f.drop (f.length / 2))
    ntt n (2 * k) (add lo t) ++ ntt n (2 * k + 1) (sub lo t)

/-- Power by squaring over `n` bits of the exponent. -/
def pow : Nat → Nat → Nat → Nat
  | 0, _, _ => 1
  | n + 1, b, e => let h := pow n (b * b % q) (e / 2); if e % 2 = 1 then h * b % q else h

/-- Inverse NTT without the final factor. -/
def nttInvL : Nat → Nat → Poly → Poly
  | 0, _, f => f
  | n + 1, k, f =>
    let lo := nttInvL n (2 * k) (f.take (f.length / 2))
    let hi := nttInvL n (2 * k + 1) (f.drop (f.length / 2))
    add lo hi ++ smul (pow 24 (zeta k) (q - 2)) (sub lo hi)

/-- NTT. -/
def fwd (f : Poly) : Poly := ntt 8 1 f
/-- Inverse NTT. -/
def bwd (f : Poly) : Poly := smul 8347681 (nttInvL 8 1 f)

/-- Inner product of vectors of transforms. -/
def dot (a b : List Poly) : Poly := (List.zipWith mul a b).foldl add zero

/-- The representative of a coefficient around 0. -/
def cent (x : Nat) : Int := if (q - 1) / 2 < x then (x : Int) - q else x

/-- A signed value as a coefficient. -/
def ofInt (x : Int) : Nat := (x % (q : Int)).toNat

/-- Largest absolute value of the coefficients. -/
def norm (f : Poly) : Nat := f.foldl (fun a x => max a (cent x).natAbs) 0

/-- Values as strings of `d` bits. -/
def pack (d : Nat) (f : List Nat) : Bytes := leBytes (32 * d) ((f.reverse).foldl (fun acc x => acc * 2 ^ d + x) 0)

/-- Inverse of `pack`. -/
def unpack (d : Nat) (b : Bytes) : List Nat := Mlkem.digits d 256 (leNat (fit (32 * d) b))

/-- Bits of a number. -/
def bitLen (n : Nat) : Nat := if n = 0 then 0 else Nat.log2 n + 1

/-- BitPack of coefficients between −a and b. -/
def bitPack (a b : Nat) (f : Poly) : Bytes := pack (bitLen (a + b)) (f.map fun x => ((b : Int) - cent x).toNat)

/-- BitUnpack. -/
def bitUnpack (a b : Nat) (s : Bytes) : Poly := (unpack (bitLen (a + b)) s).map fun x => ofInt ((b : Int) - x)

/-- Value modulo `m` in the range from −m/2, excluded, to m/2. -/
def modPm (x m : Nat) : Int := let r := x % m; if m / 2 < r then (r : Int) - m else r

/-- High and low part by 2^13. -/
def power2Round (x : Nat) : Nat × Int :=
  let r0 := modPm x (2 ^ 13)
  ((((x : Int) - r0) / 2 ^ 13).toNat, r0)

/-- High and low part by 2 γ2. -/
def decompose (g2 x : Nat) : Nat × Int :=
  let r0 := modPm x (2 * g2)
  if (x : Int) - r0 = q - 1 then (0, r0 - 1) else ((((x : Int) - r0) / (2 * g2)).toNat, r0)

/-- High bits. -/
def highBits (g2 x : Nat) : Nat := (decompose g2 x).1

/-- The high bits that a hint gives. -/
def useHint (g2 : Nat) (h : Bool) (x : Nat) : Nat :=
  let m := (q - 1) / (2 * g2)
  let d := decompose g2 x
  if h then (if 0 < d.2 then (d.1 + 1) % m else (d.1 + m - 1) % m) else d.1

/-- Rejection sampling of coefficients from a stream. -/
def reject3 : Bytes → List Nat
  | a :: b :: c :: t =>
    let z := a.toNat + 256 * b.toNat + 65536 * (c.toNat % 128)
    (if z < q then [z] else []) ++ reject3 t
  | _ => []

/-- A uniform transform from a seed; eight blocks of the stream hold more than enough candidates. -/
def rejNtt (seed : Bytes) : Poly := (reject3 (Sha.shake128 1344 seed)).take 256

/-- The small coefficient that half a byte gives. -/
def halfByte (eta z : Nat) : List Nat :=
  if eta = 2 then (if z < 15 then [ofInt (2 - (z % 5 : Nat))] else []) else if z < 9 then [ofInt (4 - (z : Int))] else []

/-- A small polynomial from a seed. -/
def rejBounded (eta : Nat) (seed : Bytes) : Poly :=
  ((Sha.shake256 680 seed).flatMap fun b => halfByte eta (b.toNat % 16) ++ halfByte eta (b.toNat / 16)).take 256

/-- Positions and signs of the challenge: `i` counts from 256 − τ. -/
def ballFuel (h : Nat) (tau : Nat) : Nat → Nat → Bytes → Poly → Poly
  | 0, _, _, c => c
  | n + 1, i, s, c =>
    match s.dropWhile (fun b => decide (i < b.toNat)) with
    | [] => c
    | j :: t =>
      let c := c.set i (c.getD j.toNat 0)
      ballFuel h tau n (i + 1) t (c.set j.toNat (if h.testBit (i + tau - 256) then q - 1 else 1))

/-- The challenge polynomial of a hash. -/
def sampleInBall (tau : Nat) (rho : Bytes) : Poly :=
  let s := Sha.shake256 816 rho
  ballFuel (leNat (s.take 8)) tau tau (256 - tau) (s.drop 8) zero

/-- The matrix. -/
def expandA (p : Par) (rho : Bytes) : List (List Poly) :=
  (List.range p.k).map fun r => (List.range p.l).map fun c => rejNtt (rho ++ [BitVec.ofNat 8 c, BitVec.ofNat 8 r])

/-- `n` small polynomials, numbered from `i0`. -/
def expandS (p : Par) (rho : Bytes) (i0 n : Nat) : List Poly :=
  (List.range n).map fun r => rejBounded p.eta (rho ++ leBytes 2 (i0 + r))

/-- The mask of a signing attempt. -/
def expandMask (p : Par) (rho : Bytes) (kappa : Nat) : List Poly :=
  (List.range p.l).map fun r =>
    bitUnpack (p.gamma1 - 1) p.gamma1 (Sha.shake256 (32 * (1 + bitLen (p.gamma1 - 1))) (rho ++ leBytes 2 (kappa + r)))

/-- Public and private key from a 32-byte seed. -/
def keygen (set : Nat) (xi : Bytes) : Bytes × Bytes :=
  let p := par set
  let g := Sha.shake256 128 (xi ++ [BitVec.ofNat 8 p.k, BitVec.ofNat 8 p.l])
  let rho := g.take 32
  let s1 := expandS p (slice g 32 64) 0 p.l
  let s2 := expandS p (slice g 32 64) p.l p.k
  let s1h := s1.map fwd
  let t := List.zipWith (fun row e => add (bwd (dot row s1h)) e) (expandA p rho) s2
  let pk := rho ++ t.flatMap fun f => pack 10 (f.map fun x => (power2Round x).1)
  let t0 := t.map fun f => f.map fun x => ofInt (power2Round x).2
  (pk, rho ++ slice g 96 32 ++ Sha.shake256 64 pk ++ s1.flatMap (bitPack p.eta p.eta) ++ s2.flatMap (bitPack p.eta p.eta) ++
    t0.flatMap (bitPack (2 ^ 12 - 1) (2 ^ 12)))

/-- The packed hint. -/
def hintPack (p : Par) (h : List (List Bool)) : Bytes :=
  let idx (f : List Bool) : Bytes := ((List.range 256).filter fun i => f.getD i false).map (BitVec.ofNat 8)
  let ends := (List.range p.k).map fun i => BitVec.ofNat 8 (((h.take (i + 1)).flatMap idx).length)
  fit p.omega (h.flatMap idx) ++ ends

/-- Is a list of positions strictly rising. -/
def rising : List Byte → Bool
  | a :: b :: t => decide (a.toNat < b.toNat) && rising (b :: t)
  | _ => true

/-- The hint in a string; none where it is malformed. -/
def hintUnpackL (p : Par) (y : Bytes) : Nat → Nat → List (List Bool) → Option (List (List Bool))
  | 0, at_, acc => if (slice y at_ (p.omega - at_)).all (· == 0) then some acc.reverse else none
  | n + 1, at_, acc =>
    let e := (byteAt y (p.omega + (p.k - (n + 1)))).toNat
    if e < at_ ∨ p.omega < e then none
    else
      let pos := slice y at_ (e - at_)
      if rising pos then hintUnpackL p y n e (((List.range 256).map fun i => pos.contains (BitVec.ofNat 8 i)) :: acc) else none

/-- Encoding of the high bits. -/
def w1Encode (p : Par) (w : List (List Nat)) : Bytes := w.flatMap (pack (bitLen ((q - 1) / (2 * p.gamma2) - 1)))

/-- A private key, unpacked. -/
structure Sk where
  a : List (List Poly)
  k : Bytes
  tr : Bytes
  s1 : List Poly
  s2 : List Poly
  t0 : List Poly

/-- Vectors of `n` packed polynomials of `len` bytes. -/
def vecAt (b : Bytes) (off len n : Nat) (f : Bytes → Poly) : List Poly :=
  (List.range n).map fun i => f (slice b (off + len * i) len)

/-- Unpack a private key; the vectors as transforms. -/
def skOf (p : Par) (sk : Bytes) : Sk :=
  let e := 32 * bitLen (2 * p.eta)
  { a := expandA p (sk.take 32), k := slice sk 32 32, tr := slice sk 64 64
    s1 := vecAt sk 128 e p.l (fun b => fwd (bitUnpack p.eta p.eta b))
    s2 := vecAt sk (128 + e * p.l) e p.k (fun b => fwd (bitUnpack p.eta p.eta b))
    t0 := vecAt sk (128 + e * (p.l + p.k)) 416 p.k (fun b => fwd (bitUnpack (2 ^ 12 - 1) (2 ^ 12) b)) }

/-- The public key of a private key. -/
def pkOf (set : Nat) (sk : Bytes) : Bytes :=
  let p := par set
  let x := skOf p sk
  let t := List.zipWith (fun row e => add (bwd (dot row x.s1)) (bwd e)) x.a x.s2
  sk.take 32 ++ t.flatMap fun f => pack 10 (f.map fun x => (power2Round x).1)

/-- One signing attempt. -/
def attempt (p : Par) (sk : Sk) (mu rho : Bytes) (kappa : Nat) : Option Bytes :=
  let y := expandMask p rho kappa
  let yh := y.map fwd
  let w := sk.a.map fun row => bwd (dot row yh)
  let ct := Sha.shake256 (p.lambda / 4) (mu ++ w1Encode p (w.map fun f => f.map (highBits p.gamma2)))
  let c := fwd (sampleInBall p.tau ct)
  let z := List.zipWith (fun yi s => add yi (bwd (mul c s))) y sk.s1
  let r := List.zipWith (fun wi s => sub wi (bwd (mul c s))) w sk.s2
  let ct0 := sk.t0.map fun t => bwd (mul c t)
  let low := r.map fun f => f.foldl (fun a x => max a (decompose p.gamma2 x).2.natAbs) 0
  let h := List.zipWith (fun ri ti => List.zipWith (fun x y =>
    highBits p.gamma2 x != highBits p.gamma2 ((x + y) % q)) ri ti) r ct0
  let ones := (h.map fun f => (f.filter id).length).sum
  if z.any (fun f => decide (p.gamma1 - p.beta ≤ norm f)) ∨ low.any (fun x => decide (p.gamma2 - p.beta ≤ x)) then none
  else if ct0.any (fun f => decide (p.gamma2 ≤ norm f)) ∨ p.omega < ones then none
  else some (ct ++ z.flatMap (bitPack (p.gamma1 - 1) p.gamma1) ++ hintPack p h)

/-- The rejection loop. -/
def signLoop (p : Par) (sk : Sk) (mu rho : Bytes) : Nat → Nat → Bytes
  | 0, _ => []
  | n + 1, kappa =>
    match attempt p sk mu rho kappa with
    | some s => s
    | none => signLoop p sk mu rho n (kappa + p.l)

/-- The message with its context, pure scheme. -/
def framed (ctx m : Bytes) : Bytes := [0, BitVec.ofNat 8 ctx.length] ++ ctx ++ m

/-- Signature; the loop is bounded at a thousand attempts. -/
def sign (set : Nat) (sk ctx m rnd : Bytes) : Bytes :=
  let p := par set
  let x := skOf p sk
  let mu := Sha.shake256 64 (x.tr ++ framed ctx m)
  signLoop p x mu (Sha.shake256 64 (x.k ++ rnd ++ mu)) 1000 0

/-- Verification. -/
def verify (set : Nat) (pk ctx m sig : Bytes) : Bool :=
  let p := par set
  let cl := p.lambda / 4
  let zl := 32 * (1 + bitLen (p.gamma1 - 1))
  let ct := sig.take cl
  let z := vecAt sig cl zl p.l (bitUnpack (p.gamma1 - 1) p.gamma1)
  match hintUnpackL p (sig.drop (cl + zl * p.l)) p.k 0 [] with
  | none => false
  | some h =>
    let t1 := vecAt pk 32 320 p.k (fun b => fwd ((unpack 10 b).map fun x => x * 2 ^ 13 % q))
    let mu := Sha.shake256 64 (Sha.shake256 64 pk ++ framed ctx m)
    let c := fwd (sampleInBall p.tau ct)
    let zh := z.map fwd
    let w := List.zipWith (fun row t => bwd (sub (dot row zh) (mul c t))) (expandA p (pk.take 32)) t1
    let w1 := List.zipWith (fun hi wi => List.zipWith (useHint p.gamma2) hi wi) h w
    z.all (fun f => decide (norm f < p.gamma1 - p.beta)) && ct == Sha.shake256 cl (mu ++ w1Encode p w1)

/-- Length of a public key (R312). -/
def pkLen (set : Nat) : Nat := 32 + 320 * (par set).k
/-- Length of a signature (R312). -/
def sigLen (set : Nat) : Nat :=
  let p := par set
  p.lambda / 4 + 32 * (1 + bitLen (p.gamma1 - 1)) * p.l + p.omega + p.k
/-- Length of a private key (R315). -/
def skLen (set : Nat) : Nat :=
  let p := par set
  128 + 32 * bitLen (2 * p.eta) * (p.l + p.k) + 416 * p.k

end Sys2Proof.Machine.Mldsa
end

