-- ==== Sys2Proof/Machine/Rsa.lean ====
section
/-!
DEFINITION. RSA with its encodings (PKCS #1 v2.2), named by R4 and written from that standard (PRESUMED, log 8).
-/
namespace Sys2Proof.Machine.Rsa

/-- MGF1 with a hash ID. -/
def mgf1 (id : Nat) (seed : Bytes) (n : Nat) : Bytes :=
  ((List.range (n / Sha.hashLen id + 1)).flatMap fun i => Sha.hashId id (seed ++ beBytes 4 i)).take n

/-- Last byte of the object identifier of a hash ID. -/
def oid (id : Nat) : Byte := if id = 1 then 4 else if id ≤ 4 then BitVec.ofNat 8 (id - 1) else BitVec.ofNat 8 (id + 2)

/-- EMSA-PKCS1-v1_5 over a digest, `k` bytes. -/
def pkcs1 (id k : Nat) (digest : Bytes) : Bytes :=
  let h := Sha.hashLen id
  let t : Bytes := [0x30, BitVec.ofNat 8 (17 + h), 0x30, 0x0D, 0x06, 0x09, 0x60, 0x86, 0x48, 0x01, 0x65, 0x03, 0x04, 0x02, oid id,
    0x05, 0x00, 0x04, BitVec.ofNat 8 h] ++ digest
  [0, 1] ++ List.replicate (k - 3 - t.length) 0xFF ++ [0] ++ t

/-- EMSA-PSS over a digest with a salt; the modulus has 8k bits. -/
def pssEncode (id k : Nat) (digest salt : Bytes) : Bytes :=
  let h := Sha.hashId id (List.replicate 8 0 ++ digest ++ salt)
  let db := List.replicate (k - salt.length - h.length - 2) 0 ++ [0x01] ++ salt
  let m := xorB db (mgf1 id h db.length)
  ((byteAt m 0 &&& 0x7F) :: m.tail) ++ h ++ [0xBC]

/-- EMSA-PSS verification; `slen` none accepts any salt length. -/
def pssVerify (id k : Nat) (digest em : Bytes) (slen : Option Nat) : Bool :=
  let hl := Sha.hashLen id
  if k < hl + 2 ∨ byteAt em (k - 1) ≠ 0xBC then false
  else
    let masked := em.take (k - hl - 1)
    let h := slice em (k - hl - 1) hl
    if byteAt masked 0 &&& 0x80 ≠ 0 then false
    else
      let d := xorB masked (mgf1 id h masked.length)
      let db := (byteAt d 0 &&& 0x7F) :: d.tail
      let rest := db.dropWhile (· == 0)
      match rest with
      | 0x01 :: salt =>
        (slen == none || slen == some salt.length) &&
          h == Sha.hashId id (List.replicate 8 0 ++ digest ++ salt)
      | _ => false

/-- EME-OAEP with an empty label. -/
def oaepEncode (id k : Nat) (seed m : Bytes) : Bytes :=
  let hl := Sha.hashLen id
  let db := Sha.hashId id [] ++ List.replicate (k - m.length - 2 * hl - 2) 0 ++ [0x01] ++ m
  let mdb := xorB db (mgf1 id seed db.length)
  [0] ++ xorB seed (mgf1 id mdb hl) ++ mdb

/-- EME-OAEP decoding; none where any check fails. -/
def oaepDecode (id k : Nat) (em : Bytes) : Option Bytes :=
  let hl := Sha.hashLen id
  let mdb := em.drop (1 + hl)
  let seed := xorB (slice em 1 hl) (mgf1 id mdb hl)
  let db := xorB mdb (mgf1 id seed mdb.length)
  if byteAt em 0 ≠ 0 ∨ k < 2 * hl + 2 ∨ db.take hl ≠ Sha.hashId id [] then none
  else
    match (db.drop hl).dropWhile (· == 0) with
    | 0x01 :: m => some m
    | _ => none

/-- An RSA private key as R315 lays it out. -/
structure Key where
  e : Nat
  n : Nat
  p : Nat
  q : Nat
  dp : Nat
  dq : Nat
  qinv : Nat

/-- The key in the material of KIND 2 after its header, with a modulus of `k` bytes (R315). -/
def Key.ofBytes (k : Nat) (m : Bytes) : Key :=
  let h := k / 2
  { e := beAt m 0 4, n := beAt m 4 k, p := beAt m (4 + k) h, q := beAt m (4 + k + h) h, dp := beAt m (4 + k + 2 * h) h,
    dq := beAt m (4 + k + 3 * h) h, qinv := beAt m (4 + k + 4 * h) h }

/-- The encoding of a key (R315). -/
def Key.toBytes (k : Nat) (x : Key) : Bytes :=
  let h := k / 2
  beBytes 4 x.e ++ beBytes k x.n ++ beBytes h x.p ++ beBytes h x.q ++ beBytes h x.dp ++ beBytes h x.dq ++ beBytes h x.qinv

/-- The two halves of a result, recombined (R315). -/
def Key.combine (x : Key) (a b : Nat) : Nat := (b + x.q * (Ecc.subM x.p a b * x.qinv % x.p)) % x.n

/-- Inverse of `a` modulo `m` by the extended algorithm: remainders and coefficients. -/
def egcd : Nat → Int → Int → Int → Int → Int
  | 0, _, _, x0, _ => x0
  | n + 1, a, b, x0, x1 => if b = 0 then x0 else egcd n b (a % b) x1 (x0 - a / b * x1)

/-- Inverse of `a` modulo `m`, for coprime values. -/
def inv (m a : Nat) : Nat := (egcd (2 * Nat.log2 m + 4) a m 1 0 % (m : Int)).toNat

/-- The private operation with the blinding of R323 and the check of R327: the exponents of the halves carry random multiples of their
moduli's orders, the base a random factor that the result loses again. None where the check of the blinded result fails. -/
def Key.priv (x : Key) (rp rq r m : Nat) : Option Nat :=
  let c := m * Ecc.powMod x.n r x.e % x.n
  let a := Ecc.powMod x.p (c % x.p) (x.dp + rp * (x.p - 1))
  let b := Ecc.powMod x.q (c % x.q) (x.dq + rq * (x.q - 1))
  let y := x.combine a b
  if Ecc.powMod x.n y x.e = c ∧ y % x.p = a % x.p ∧ y % x.q = b % x.q then some (y * inv x.n r % x.n) else none

/-- A blinding factor below `n` that has an inverse, the first from a drawn value on. -/
def blindFactor (n : Nat) : Nat → Nat → Nat
  | 0, r => r
  | k + 1, r => if Nat.gcd r n = 1 then r else blindFactor n k ((r + 1) % n)

/-- The private operation with 16 + k drawn bytes: rp, rq and r (R323). -/
def Key.privWith (x : Key) (draw : Bytes) (m : Nat) : Option Nat :=
  x.priv (beAt draw 0 8) (beAt draw 8 8) (blindFactor x.n 64 (beNat (draw.drop 16) % x.n)) m

/-- A number is prime. -/
def prime (n : Nat) : Bool := decide (2 ≤ n) && (List.range n).all fun d => decide (d < 2) || n % d != 0

/-- A prime that FIPS 186-5 admits for a modulus of `16 * h` bits with exponent `e`: exactly 8h bits, at least √2 · 2^(8h−1), and
p − 1 prime to e (R318). -/
def primeOk (h e p : Nat) : Bool :=
  decide (2 ^ (8 * h - 1) ≤ p) && decide (p < 2 ^ (8 * h)) && decide (2 ^ (16 * h - 1) ≤ p * p) && Nat.gcd e (p - 1) == 1 && prime p

/-- The primes of a pair are far enough apart, and its private exponent is large enough (R318, FIPS 186-5). -/
def pairOk (h e p q : Nat) : Bool :=
  decide (2 ^ (8 * h - 100) < (p - q) + (q - p)) && decide (2 ^ (8 * h) < inv (Nat.lcm (p - 1) (q - 1)) e)

/-- The first value from `x` on that is admitted, in turn through `lo` to `hi - 1`. -/
def search (ok : Nat → Bool) (lo hi : Nat) : Nat → Nat → Nat
  | 0, x => x
  | n + 1, x => if ok x then x else search ok lo hi n (if x + 1 < hi then x + 1 else lo)

/-- The pair of primes that a draw of 2h bytes leads to: each the first that is admitted from its half of the draw on (R318; log 9). -/
def primePair (h e : Nat) (draw : Bytes) : Nat × Nat :=
  let lo := 2 ^ (8 * h - 1)
  let hi := 2 ^ (8 * h)
  let p := search (primeOk h e) lo hi lo (lo + beNat (draw.take h) % lo)
  let q := search (fun q => primeOk h e q && pairOk h e p q) lo hi lo (lo + beNat (draw.drop h) % lo)
  (p, q)

/-- The key of two primes and an exponent. -/
def Key.ofPrimes (p q e : Nat) : Key :=
  { e := e, n := p * q, p := p, q := q, dp := inv (p - 1) (e % (p - 1)), dq := inv (q - 1) (e % (q - 1)), qinv := inv p (q % p) }

/-- The checks of R327 on a new key: its relations, and one raw private operation on a fresh value. -/
def Key.sound (x : Key) (draw : Bytes) : Bool :=
  x.n == x.p * x.q && x.e * x.dp % (x.p - 1) == 1 && x.e * x.dq % (x.q - 1) == 1 && x.q * x.qinv % x.p == 1 &&
    (x.privWith draw (beNat (draw.drop 16) % x.n)).isSome

end Sys2Proof.Machine.Rsa
end

