-- ==== Sys2Proof/Machine/Hammer.lean ====
section
/-!
DEFINITION. The Hammer units: the opcodes of the family 0x04xx, yielding units and aborts (R305 to R334).
-/
namespace Sys2Proof.Machine

/-! ### Operands (R309 to R312) -/

/-- KEYLEN. -/
def pKeyLen (o : Op) : Nat := leAt (dParam o.desc) 0 4
/-- ARG0. -/
def pArg0 (o : Op) : Nat := (byteAt (dParam o.desc) 4).toNat
/-- ARG1. -/
def pArg1 (o : Op) : Nat := (byteAt (dParam o.desc) 5).toNat
/-- ARG2. -/
def pArg2 (o : Op) : Nat := (byteAt (dParam o.desc) 6).toNat
/-- ARG3. -/
def pArg3 (o : Op) : Nat := leAt (dParam o.desc) 8 4

/-- Bytes of the modulus that PLAN selects. -/
def modLen (o : Op) : Nat := dPlan o.desc / 8

/-- The key part of the source. -/
def keyPart (o : Op) (dma : Dma) : Bytes := (opData o dma).take (pKeyLen o)

/-- The input after the key part. -/
def inputPart (o : Op) (dma : Dma) : Bytes := (opData o dma).drop (pKeyLen o)

/-- ST_BAD_FIELD, structure 0, offset 16 (R317, R320, R322). -/
def State.badInput (o : Op) (s : State) : State := s.fail o.id 0x0102 16

/-! ### Rates and preemption (R328, R333, R334) -/

/-- The curve of an elliptic-curve job: PLAN for a public key, SUB of the key slot otherwise. -/
def Op.curveCode (o : Op) : Nat :=
  if o.opcode = 0x0411 ∨ o.opcode = 0x0415 then dPlan o.desc else aSub o.keyCopy.attr

/-- Floor rate per second and "may preempt" of a job (R333, R334). Where the tables give no rate it is open, and the job may not preempt
(log 25). R328 takes the rate in R333, which for a public operation is that of e = 65537 whatever e is. -/
def jobRate (opcode plan sub : Nat) : Nat × Bool :=
  let pick (k : Nat) (t : List (Nat × Nat × Bool)) : Nat × Bool :=
    match t.find? fun e => e.1 == k with
    | some e => e.2
    | none => (Config.openRate opcode plan, false)
  if opcode = 0x0401 ∨ opcode = 0x0403 ∨ opcode = 0x0406 then
    pick plan [(1024, 220000, true), (2048, 34000, true), (3072, 10600, false), (4096, 4700, false), (8192, 600, false)]
  else if opcode = 0x0402 ∨ opcode = 0x0404 ∨ opcode = 0x0405 then
    pick plan [(2048, 700000, true), (4096, 190000, true), (8192, 48000, false)]
  else if opcode = 0x0410 ∨ opcode = 0x0412 ∨ opcode = 0x0413 ∨ opcode = 0x0414 ∨ opcode = 0x0416 then
    pick sub [(1, 330000, true), (2, 280000, true), (3, 104000, true), (4, 46000, true), (5, 375000, true),
      (6, 120000, true), (7, 470000, true), (8, 150000, true)]
  else if opcode = 0x0411 ∨ opcode = 0x0415 then
    pick sub [(1, 165000, true), (2, 140000, true), (3, 52000, true), (4, 23000, true), (5, 160000, true), (6, 50000, true)]
  else if opcode = 0x0420 ∨ opcode = 0x0421 then pick plan [(512, 1000000, true), (768, 700000, true), (1024, 480000, false)]
  else if opcode = 0x0422 then pick plan [(512, 700000, true), (768, 500000, true), (1024, 340000, false)]
  else if opcode = 0x0430 then pick plan [(44, 237500, false), (65, 155000, false), (87, 100000, false)]
  else if opcode = 0x0431 then pick plan [(44, 95000, false), (65, 62000, false), (87, 40000, false)]
  else if opcode = 0x0432 then pick plan [(44, 340000, false), (65, 235000, false), (87, 150000, false)]
  else pick plan []

/-- The rate of an operation. -/
def Op.rate (o : Op) : Nat × Bool := jobRate o.opcode (dPlan o.desc) o.curveCode

/-- Unit `u`. -/
def State.unitOf (s : State) (u : Nat) : HUnit := tget {} s.hammer.units u

/-- Change unit `u`. -/
def State.modUnit (u : Nat) (g : HUnit → HUnit) (s : State) : State :=
  { s with hammer := { s.hammer with units := tmod {} u g s.hammer.units } }

/-- A unit that takes new jobs: it holds none, is in service and its group has power (R29, R308). -/
def State.unitIdle (s : State) (u : Nat) : Bool := s.unitOf u == {} && s.blockState (0x40 + u) == 0

/-- The lowest-numbered idle unit from `lo` below `hi`. -/
def State.idleUnit (s : State) (lo hi : Nat) : Option Nat :=
  (List.range 64).find? fun u => decide (lo ≤ u) && decide (u < hi) && s.unitIdle u

/-- The unit that a request goes to: by PRIORITY, units 60 to 63 first (R308). -/
def State.chooseUnit (s : State) (priority : Bool) : Option Nat :=
  if priority then (match s.idleUnit 60 64 with | some u => some u | none => s.idleUnit 0 60) else s.idleUnit 0 60

/-- The rate of the job of unit `u` where a request of rate `r` qualifies against it (R328): T_EST at most one eighth, the job
neither preempting nor preempted. -/
def State.preemptable (s : State) (u r : Nat) : Option Nat :=
  let x := s.unitOf u
  if x.held ≠ none ∨ x.marked ≠ none ∨ s.blockState (0x40 + u) ≠ 0 then none
  else
    match x.job with
    | none => none
    | some id =>
      match s.opOf id with
      | some o => if 8 * o.rate.1 ≤ r then some o.rate.1 else none
      | none => none

/-- The yielding unit whose job a request preempts: the largest T_EST, the lowest number among equals (R328). -/
def State.victim (s : State) (r : Nat) : Option Nat :=
  let c := [60, 61, 62, 63].filterMap fun u => (s.preemptable u r).map fun q => (u, q)
  match c with
  | [] => none
  | x :: t => some (t.foldl (fun b e => if e.2 < b.2 then e else b) x).1

/-- The key material that a job brings into operand memory: the keys that the Rack sent for it (R306, R328). -/
def State.jobKeys (s : State) (id : Nat) : Bytes :=
  match s.opOf id with
  | some o => o.keys.flatMap KeyCopy.material
  | none => []

/-! ### Running a job -/

/-- Carry out an opcode on the job that a unit runs now. -/
def State.onJob (id opcode : Nat) (act : Op → State → State) (s : State) : State :=
  s.onOp id opcode .block fun o s => if (s.unitOf (o.block - 0x40)).job = some id then act o s else s

/-- One generate request of `n` bytes to the internal instance (R323, R325): blinding values, a projective Z, or the seed of shares and
rotations. A Z, shares and rotations cancel in the result, whatever they are. -/
def State.blind (n : Nat) (k : Bytes → State → State) (s : State) : State :=
  let r := genInst s.bellows.internal n []
  k r.1 (State.countRate 5 0 n { s with bellows := { s.bellows with internal := r.2 } })

/-- A job that draws blinding values and nothing else (R325, R326). -/
def State.blinded (o : Op) (n : Nat) (k : Bytes → State → State) (s : State) : State := s.gated o 3 0 fun _ s => s.blind n k

/-- Bytes that a job draws for its shares and rotations, as one seed (R323 gives no size; DESIGN CHOICE, log 26). -/
def shareBytes : Nat := 32

/-- A check at the end of a job fails (R327): a CHECK fault of its unit, ST_FAULT_DETECTED, no output. -/
def State.checkFault (o : Op) (s : State) : State :=
  ((s.report o.block 3).fail o.id 0x0502 (o.block + 256 * 3)).raiseLevel o.block

/-- Release a job's output (R314, R327). -/
def State.jobDone (o : Op) (dma : Dma) (out : Bytes) (s : State) : State := s.laneDone o dma out []

/-- Release a job's output where its checks pass (R327). -/
def State.jobEnd (o : Op) (dma : Dma) (ok : Bool) (out : Bytes) (s : State) : State :=
  if ok then s.jobDone o dma out else s.checkFault o

/-- The outcome of a verify opcode (R311, R321). -/
def State.verdict (o : Op) (ok : Bool) (s : State) : State := if ok then s.finish o.id 0 0 0 [] else s.fail o.id 0x0501 0

/-- The checks of a blob (R317): the material after its 8-byte key header reaches `k`. -/
def State.withBlob (o : Op) (dma : Dma) (kind useBit : Nat) (k : Bytes → State → State) (s : State) : State :=
  let b := keyPart o dma
  if pKeyLen o ≠ 32 + leAt b 12 4 ∨ dDlen o.desc < pKeyLen o then s.fail o.id 0x0103 32
  else if (s.blobFault b o.tenant [1, 2, 3, 4]).isSome then s.badInput o
  else
    match s.openBlob b o.tenant with
    | none => s.badInput o
    | some m =>
      if (byteAt b 5).toNat ≠ kind ∨ leAt b 10 2 ≠ dPlan o.desc then s.badInput o
      else if ¬ (byteAt m 0).toNat.testBit useBit ∨ leAt m 1 7 ≠ 0 then s.fail o.id 0x0202 0
      else k (m.drop 8) s

/-- The modulus and exponent of a public key part, with the rules of R320; `least` is the least exponent. -/
def State.withRsaPub (o : Op) (dma : Dma) (least : Nat) (k : Nat → Nat → State → State) (s : State) : State :=
  let b := keyPart o dma
  let e := beAt b 0 4
  let n := beAt b 4 (modLen o)
  if n % 2 = 0 ∨ n < 2 ^ (dPlan o.desc - 1) ∨ e % 2 = 0 ∨ e < least then s.badInput o else k n e s

/-! ### RSA (R311, R315 to R322) -/

/-- RSA_PRIVATE (0x0401). -/
def execRsaPrivate (op : Nat) (dma : Dma) (s : State) : Out :=
  .next (s.onJob op 0x0401 fun o s =>
    s.checked o dma (dDlen o.desc) (modLen o) fun s =>
      s.withBlob o dma 2 2 fun m s =>
        let key := Rsa.Key.ofBytes (modLen o) m
        let x := beNat (inputPart o dma)
        if key.n ≤ x then s.badInput o
        else
          s.blinded o (16 + modLen o) fun r s =>
            let y := key.privWith r x
            s.jobEnd o dma y.isSome (beBytes (modLen o) (y.getD 0)))

/-- RSA_PUBLIC (0x0402). -/
def execRsaPublic (op : Nat) (dma : Dma) (s : State) : Out :=
  .next (s.onJob op 0x0402 fun o s =>
    s.checked o dma (dDlen o.desc) (modLen o) fun s =>
      s.withRsaPub o dma 3 fun n e s =>
        let x := beNat (inputPart o dma)
        if n ≤ x then s.badInput o else s.jobDone o dma (beBytes (modLen o) (Ecc.powMod n x e)))

/-- RSA_SIGN (0x0403). A PSS salt too long for the modulus leaves the signature open (free bytes, log 26). -/
def execRsaSign (op : Nat) (dma : Dma) (s : State) : Out :=
  .next (s.onJob op 0x0403 fun o s =>
    s.checked o dma (dDlen o.desc) (modLen o) fun s =>
      s.withBlob o dma 2 0 fun m s =>
        let k := modLen o
        let key := Rsa.Key.ofBytes k m
        let d := inputPart o dma
        let sign (em r : Bytes) (s : State) : State :=
          let y := key.privWith r (beNat em)
          s.jobEnd o dma y.isSome (beBytes k (y.getD 0))
        if pArg0 o = 1 then s.blinded o (16 + k) fun r s => sign (Rsa.pkcs1 (pArg1 o) k d) r s
        else
          s.drawLocal o (pArg2 o) false [] fun salt _ s =>
            s.blind (16 + k) fun r s =>
              if k < Sha.hashLen (pArg1 o) + pArg2 o + 2 then (s.spend k).jobDone o dma (s.openBytes k)
              else sign (Rsa.pssEncode (pArg1 o) k d salt) r s)

/-- RSA_VERIFY (0x0404). -/
def execRsaVerify (op : Nat) (dma : Dma) (s : State) : Out :=
  .next (s.onJob op 0x0404 fun o s =>
    s.checked o dma (dDlen o.desc) 0 fun s =>
      s.withRsaPub o dma 3 fun n e s =>
        let k := modLen o
        let hl := Sha.hashLen (pArg1 o)
        let d := (inputPart o dma).take hl
        let x := beNat ((inputPart o dma).drop hl)
        let em := beBytes k (Ecc.powMod n x e)
        let ok := if pArg0 o = 1 then em == Rsa.pkcs1 (pArg1 o) k d
          else Rsa.pssVerify (pArg1 o) k d em (if pArg2 o = 0xFF then none else some (pArg2 o))
        s.verdict o (decide (x < n) && ok))

/-- RSA_OAEP_ENCRYPT (0x0405). -/
def execRsaOaepEncrypt (op : Nat) (dma : Dma) (s : State) : Out :=
  .next (s.onJob op 0x0405 fun o s =>
    s.checked o dma (dDlen o.desc) (modLen o) fun s =>
      s.withRsaPub o dma 65537 fun n e s =>
        s.drawLocal o (Sha.hashLen (pArg1 o)) false [] fun seed _ s =>
          let em := Rsa.oaepEncode (pArg1 o) (modLen o) seed (inputPart o dma)
          s.jobDone o dma (beBytes (modLen o) (Ecc.powMod n (beNat em) e)))

/-- RSA_OAEP_DECRYPT (0x0406); every decoding failure is one outcome (R322). -/
def execRsaOaepDecrypt (op : Nat) (dma : Dma) (s : State) : Out :=
  .next (s.onJob op 0x0406 fun o s =>
    s.checked o dma (dDlen o.desc) (modLen o - 2 * Sha.hashLen (pArg1 o) - 2) fun s =>
      s.withBlob o dma 2 1 fun m s =>
        let key := Rsa.Key.ofBytes (modLen o) m
        let c := beNat (inputPart o dma)
        s.blinded o (16 + modLen o) fun r s =>
          if key.n ≤ c then s.fail op 0x0501 0
          else
            match key.privWith r c with
            | none => s.checkFault o
            | some y =>
              match Rsa.oaepDecode (pArg1 o) (modLen o) (beBytes (modLen o) y) with
              | some x => s.jobDone o dma x
              | none => s.fail op 0x0501 0)

/-- Bytes of a key generation's output (R318): the blob of `m` bytes of material, then the public key. -/
def keygenLen (m pub : Nat) : Nat := 32 + wrappedLen m + pub

/-- The output of a key generation whose checks pass: a blob of the tenant's current epoch, then the public key (R318). -/
def State.newPair (o : Op) (dma : Dma) (kind : Nat) (ok : Bool) (material pub : Bytes) (s : State) : State :=
  s.jobEnd o dma ok (s.sealBlob kind o.tenant (dPlan o.desc) [] material ++ pub)

/-- RSA_KEYGEN (0x0407). -/
def execRsaKeygen (op : Nat) (dma : Dma) (s : State) : Out :=
  .next (s.onJob op 0x0407 fun o s =>
    let k := modLen o
    let h := k / 2
    s.checked o dma 0 (keygenLen (12 + k + 5 * h) (4 + k)) fun s =>
      s.gated o 2 ((k + 15) / 16) fun b s =>
        let e := pArg3 o
        let pq := Rsa.primePair h e b
        let key := Rsa.Key.ofPrimes pq.1 pq.2 e
        s.blind (16 + k) fun r s =>
          s.newPair o dma 2 (key.sound r) ([BitVec.ofNat 8 (pArg0 o)] ++ List.replicate 7 0 ++ key.toBytes k)
            (beBytes 4 e ++ beBytes k key.n))

/-! ### Elliptic curves (R311 to R313, R320 to R322) -/

/-- A nonce by rejection sampling over the order, one generate request a candidate (log 26), and the signature with it. No nonce where the
instance stalls first, or none of `n` candidates will do: the job then goes on at its next turn (R348). -/
def nonceLoop (c : Ecc.Curve) (d : Nat) (digest : Bytes) : Nat → Bytes → Inst → Option (Nat × Nat × Nat) × Inst
  | 0, _, x => (none, x)
  | n + 1, b, x =>
    let k := beNat b % 2 ^ (Nat.log2 c.n + 1)
    match (if k = 0 ∨ c.n ≤ k then none else c.sign d k digest) with
    | some r => (some (k, r), x)
    | none => if x.stalled then (none, x) else let g := genInst x c.len []; nonceLoop c d digest n g.1 g.2

/-- The checks of R327 on a signature: kG is on the curve, and s × k ≡ e + r × d modulo the order. -/
def nonceOk (c : Ecc.Curve) (d : Nat) (digest : Bytes) (k r s : Nat) : Bool :=
  (match c.mul k c.g with
    | some (x, y) => c.on x y
    | none => false) && s * k % c.n == (c.hashInt digest + r * d) % c.n

/-- ECDSA_SIGN (0x0410). -/
def execEcdsaSign (op : Nat) (dma : Dma) (s : State) : Out :=
  .next (s.onJob op 0x0410 fun o s =>
    let c := Ecc.curve o.curveCode
    s.checked o dma (dDlen o.desc) (2 * c.len) fun s =>
      s.drawLocal o c.len false [] fun b _ s =>
        s.blind c.len fun _ s =>
          let d := beNat o.keyCopy.bytes
          let x := s.instOf o.fn (dDrbg o.desc)
          let r := nonceLoop c d (inputPart o dma) 64 b x
          let s := (s.setInst o.fn (dDrbg o.desc) r.2).countRate 5 0 (c.len * (r.2.count - x.count))
          match r.1 with
          | none => s.askInst op
          | some (k, r, t) => s.jobEnd o dma (nonceOk c d (inputPart o dma) k r t) (beBytes c.len r ++ beBytes c.len t))

/-- ECDSA_VERIFY (0x0411). -/
def execEcdsaVerify (op : Nat) (dma : Dma) (s : State) : Out :=
  .next (s.onJob op 0x0411 fun o s =>
    let c := Ecc.curve o.curveCode
    s.checked o dma (dDlen o.desc) 0 fun s =>
      match c.decode (keyPart o dma) with
      | none => s.badInput o
      | some q =>
        let x := inputPart o dma
        let n := x.length - 2 * c.len
        s.verdict o (c.verify q (x.take n) (beAt x n c.len) (beAt x (n + c.len) c.len)))

/-- ECDH (0x0412): a result that is no point of the curve, or the point at infinity, fails the check of R327. -/
def execEcdh (op : Nat) (dma : Dma) (s : State) : Out :=
  .next (s.onJob op 0x0412 fun o s =>
    let c := Ecc.curve o.curveCode
    s.checked o dma (dDlen o.desc) c.len fun s =>
      match c.decode (inputPart o dma) with
      | none => s.badInput o
      | some q =>
        s.blinded o c.len fun _ s =>
          match c.mul (beNat o.keyCopy.bytes) (some q) with
          | some (x, y) => s.jobEnd o dma (c.on x y) (beBytes c.len x)
          | none => s.checkFault o)

/-- The check of R327 on a public key of a curve code: a point of a Weierstrass curve is on it and not at infinity. -/
def pubOk (sub : Nat) (pub : Bytes) : Bool := decide (4 < sub) || ((Ecc.curve sub).decode pub).isSome

/-- Bytes of a public key of a curve code (R312). -/
def pubLen (sub : Nat) : Nat := if sub ≤ 4 then 1 + 2 * (Ecc.curve sub).len else Ecc.keyLen sub

/-- EC_PUBLIC (0x0413). -/
def execEcPublic (op : Nat) (dma : Dma) (s : State) : Out :=
  .next (s.onJob op 0x0413 fun o s =>
    s.checked o dma 0 (pubLen o.curveCode) fun s =>
      s.blinded o (Ecc.keyLen o.curveCode) fun _ s =>
        let pub := Ecc.publicKey o.curveCode o.keyCopy.bytes
        s.jobEnd o dma (pubOk o.curveCode pub) pub)

/-- The Edwards curve of a curve code. -/
def edwards (sub : Nat) : Ecc.Edw := if sub = 5 then Ecc.ed25519 else Ecc.ed448

/-- EDDSA_SIGN (0x0414). -/
def execEddsaSign (op : Nat) (dma : Dma) (s : State) : Out :=
  .next (s.onJob op 0x0414 fun o s =>
    let e := edwards o.curveCode
    s.checked o dma (dDlen o.desc) (2 * e.len) fun s =>
      let x := inputPart o dma
      let ctx := x.take (pArg0 o)
      let m := x.drop (pArg0 o)
      s.blinded o e.len fun _ s =>
        let sig := e.sign o.keyCopy.bytes ctx m
        let pub := e.pub o.keyCopy.bytes
        let ok := match e.decode pub with
          | some a => e.verify a pub ctx m sig
          | none => false
        s.jobEnd o dma ok sig)

/-- EDDSA_VERIFY (0x0415). -/
def execEddsaVerify (op : Nat) (dma : Dma) (s : State) : Out :=
  .next (s.onJob op 0x0415 fun o s =>
    let e := edwards o.curveCode
    s.checked o dma (dDlen o.desc) 0 fun s =>
      match e.decode (keyPart o dma) with
      | none => s.badInput o
      | some a =>
        let x := inputPart o dma
        let n := x.length - 2 * e.len
        s.verdict o (e.verify a (keyPart o dma) (x.take (pArg0 o)) ((x.take n).drop (pArg0 o)) (x.drop n)))

/-- XDH (0x0416). -/
def execXdh (op : Nat) (dma : Dma) (s : State) : Out :=
  .next (s.onJob op 0x0416 fun o s =>
    let u := Ecc.keyLen o.curveCode
    s.checked o dma (dDlen o.desc) u fun s =>
      s.blinded o u fun _ s =>
        let f := if o.curveCode = 7 then Ecc.x25519 else Ecc.x448
        let out := f o.keyCopy.bytes (inputPart o dma)
        if out.all (· == 0) then s.badInput o else s.jobDone o dma out)

/-! ### ML-KEM and ML-DSA (R311, R315, R318, R320, R322) -/

/-- MLKEM_KEYGEN (0x0420): fresh d and z. -/
def execMlkemKeygen (op : Nat) (dma : Dma) (s : State) : Out :=
  .next (s.onJob op 0x0420 fun o s =>
    let set := dPlan o.desc
    s.checked o dma 0 (keygenLen (8 + Mlkem.dkLen set) (Mlkem.ekLen set)) fun s =>
      s.gated o 2 4 fun b s =>
        let kp := Mlkem.keygen set (b.take 32) (b.drop 32)
        s.blind shareBytes fun r s =>
          let c := Mlkem.encaps set kp.1 (r.take 32)
          s.newPair o dma 3 (Mlkem.decaps set kp.2 c.1 == c.2) ([0x02, 0, 0, 0, 0, 0, 0, 0] ++ kp.2) kp.1)

/-- MLKEM_ENCAPS (0x0421). -/
def execMlkemEncaps (op : Nat) (dma : Dma) (s : State) : Out :=
  .next (s.onJob op 0x0421 fun o s =>
    let set := dPlan o.desc
    s.checked o dma (dDlen o.desc) (Mlkem.ctLen set + 32) fun s =>
      if ¬ Mlkem.ekOk set (keyPart o dma) then s.badInput o
      else
        s.drawLocal o 32 false [] fun m _ s =>
          let r := Mlkem.encaps set (keyPart o dma) m
          s.blind shareBytes fun _ s => s.jobDone o dma (r.1 ++ r.2))

/-- MLKEM_DECAPS (0x0422). -/
def execMlkemDecaps (op : Nat) (dma : Dma) (s : State) : Out :=
  .next (s.onJob op 0x0422 fun o s =>
    s.checked o dma (dDlen o.desc) 32 fun s =>
      s.withBlob o dma 3 1 fun dk s =>
        s.blinded o shareBytes fun _ s => s.jobDone o dma (Mlkem.decaps (dPlan o.desc) dk (inputPart o dma)))

/-- MLDSA_KEYGEN (0x0430): a fresh seed. -/
def execMldsaKeygen (op : Nat) (dma : Dma) (s : State) : Out :=
  .next (s.onJob op 0x0430 fun o s =>
    let set := dPlan o.desc
    s.checked o dma 0 (keygenLen (8 + Mldsa.skLen set) (Mldsa.pkLen set)) fun s =>
      s.gated o 2 2 fun b s =>
        let kp := Mldsa.keygen set b
        s.blind shareBytes fun r s =>
          let ok := Mldsa.verify set kp.1 [] r (Mldsa.sign set kp.2 [] r (List.replicate 32 0))
          s.newPair o dma 4 ok ([0x01, 0, 0, 0, 0, 0, 0, 0] ++ kp.2) kp.1)

/-- MLDSA_SIGN (0x0431): hedged with a draw from the local instance, or deterministic (R325). -/
def execMldsaSign (op : Nat) (dma : Dma) (s : State) : Out :=
  .next (s.onJob op 0x0431 fun o s =>
    let set := dPlan o.desc
    s.checked o dma (dDlen o.desc) (Mldsa.sigLen set) fun s =>
      s.withBlob o dma 4 0 fun sk s =>
        let x := inputPart o dma
        let ctx := x.take (pArg0 o)
        let m := x.drop (pArg0 o)
        let sign (rnd : Bytes) (s : State) : State :=
          let sig := Mldsa.sign set sk ctx m rnd
          s.jobEnd o dma (Mldsa.verify set (Mldsa.pkOf set sk) ctx m sig) sig
        if pArg1 o = 1 then s.blinded o shareBytes fun _ s => sign (List.replicate 32 0) s
        else s.drawLocal o 32 false [] fun rnd _ s => s.blind shareBytes fun _ s => sign rnd s)

/-- MLDSA_VERIFY (0x0432). -/
def execMldsaVerify (op : Nat) (dma : Dma) (s : State) : Out :=
  .next (s.onJob op 0x0432 fun o s =>
    let set := dPlan o.desc
    s.checked o dma (dDlen o.desc) 0 fun s =>
      let x := inputPart o dma
      let n := x.length - Mldsa.sigLen set
      s.verdict o (Mldsa.verify set (keyPart o dma) (x.take (pArg0 o)) ((x.take n).drop (pArg0 o)) (x.drop n)))

/-! ### Jobs of the Hearth, yielding units and aborts (R145, R328 to R332) -/

/-- Rate per second and "may preempt" of a P-384 operation of the Hearth (R333). -/
def rateP384 : Nat × Bool := (104000, true)

/-- A job of the Hearth leaves its unit, whose operand memory is cleared (R307, R380). -/
def State.dropHearthJob (s : State) : State := { s with hammer := { s.hammer with units := freeUnits 0 s.hammer.units } }

/-- A job of the Hearth (R145, R305, R308, R328): it has the priority class. With a unit that it may use idle it runs there, and `k` goes on; else
it preempts a job where R328 lets it, and runs when that unit has come to it; else it waits. Group 3 is claimed for it, which powers it up where
it is off (R481). -/
def State.hearthJob (rate : Nat × Bool) (k : State → State) (s : State) : State :=
  let us := s.hammer.units
  if us.any fun u => u.2.job == some 0 then s.dropHearthJob.blind shareBytes fun _ s => k s
  else if us.any fun u => u.2.marked == some 0 then s
  else if (s.chooseUnit true).isSome then s.blind shareBytes fun _ s => k s
  else if (s.domainOf 23).st = .off then s.powerUp 23
  else if rate.2 then
    match s.victim rate.1 with
    | some u => s.modUnit u fun x => { x with marked := some 0 }
    | none => s
  else s

/-- A draw of the Hearth of `n` bytes, and then the job for which it is (R344, R308). -/
def State.hearthDrawJob (n : Nat) (rate : Nat × Bool) (k : Bytes → State → State) (no : State → State) (s : State) : State :=
  if s.bellows.given.isSome then s.hearthJob rate fun s => s.hearthDraw n k no else s.hearthDraw n (fun _ s => s) no

/-- Set the stage of an operation. -/
def State.setStage (id : Nat) (g : Stage) (s : State) : State := s.modOp id fun o => { o with stage := g }

/-- YIELD_POINT (R329): the job of a marked unit reaches a yield point and stops; the waiting job starts in the upper 6 KiB. Where the job has
ended before, the waiting one starts on the free unit. -/
def execYieldPoint (unit : Fin 4) (s : State) : Out :=
  .next (
    let u := 60 + unit.val
    let x := s.unitOf u
    match x.marked, x.job with
    | some r, some id =>
      let s := (s.modUnit u fun x => { x with job := some r, held := some id, marked := none, upper := s.jobKeys r }).setStage id .yielded
      { s with hammer := { s.hammer with yields := satInc 65535 s.hammer.yields } }
    | some r, none => s.modUnit u fun x => { x with job := some r, marked := none, lower := s.jobKeys r }
    | none, _ => s)

/-- PREEMPTED_RESUME (R329): the preempting job has ended; the preempted one runs on. -/
def execPreemptedResume (unit : Fin 4) (s : State) : Out :=
  .next (
    let u := 60 + unit.val
    match (s.unitOf u).job, (s.unitOf u).held with
    | none, some id => (s.modUnit u fun x => { x with job := some id, held := none }).setStage id .block
    | _, _ => s)

/-- HAMMER_ABORT (R332): a write of ENGINE.HAMMER_ABORT; with GO every host job on UNIT ends with ST_ABORTED; a job of the Hearth is not
aborted. -/
def execHammerAbort (value : BitVec 32) (s : State) : Out :=
  .next (s.onBar fun s =>
    let u := bits value 5 0
    let s := { s with hammer := { s.hammer with abortUnit := u } }
    if value.getLsbD 8 then
      let x := s.unitOf u
      ((x.job.toList ++ x.held.toList).filter fun id => id != 0).foldl (fun s id => s.fail id 0x0601 (0x40 + u)) s
    else s)

end Sys2Proof.Machine
end

