-- ==== Sys2Proof/Machine/Routing.lean ====
section
/-!
DEFINITION. The routing block: search keys, tries and their builds; the learned terminals of the plan pipelines with ageing,
flush and rehash; and the steering table (R279 to R304).
-/
namespace Sys2Proof.Machine

/-! ### Search keys (R279) -/

/-- TAG of a search key: the family (0 AES, 1 TDES) and the tenant. -/
def searchTag (family tenant : Nat) : BitVec 16 := BitVec.ofNat 16 (4096 * family + tenant)

/-- IDENT of a search key, from KEY_ID of the parameter block; the low five bits are 0 for TDES. -/
def searchIdent (family : Nat) (params : Bytes) : BitVec 64 :=
  let n := beAt params 0 8
  BitVec.ofNat 64 (if family = 1 then 32 * (n / 32) else n)

/-- The ten bytes of a search key. -/
def searchKey (tag : BitVec 16) (ident : BitVec 64) : Bytes := beBytes 2 tag.toNat ++ beBytes 8 ident.toNat

/-! ### Tries (R280 to R288) -/

/-- Key of a tenant-family in the table of tries. -/
def trieKey (family tenant : Nat) : Nat := 4096 * family + tenant

/-- Trie of a tenant-family, its routes in list order. -/
def State.trieOf (s : State) (family tenant : Nat) : List Route := tget [] s.routing.tries (trieKey family tenant)

/-- A route covers an identifier: its prefix is the identifier's first PLEN bits. -/
def Route.covers (r : Route) (ident : BitVec 64) : Bool := ident >>> (64 - r.plen) == r.pfx >>> (64 - r.plen)

/-- The longest matching route, with its list index (R281). -/
def longest (ident : BitVec 64) : Nat → List Route → Option (Nat × Route)
  | _, [] => none
  | i, r :: t =>
    match longest ident (i + 1) t with
    | none => if r.covers ident then some (i, r) else none
    | some x => if r.covers ident ∧ x.2.plen < r.plen then some (i, r) else some x

/-- The positions of a node that a route of this depth occupies, or the one position of a route that goes deeper (R282). -/
def positions (depth : Nat) (r : Route) : List Nat :=
  let lo := r.pfx.toNat / 2 ^ (56 - 8 * depth) % 256
  if r.plen ≤ 8 * (depth + 1) then (List.range (2 ^ (8 * (depth + 1) - r.plen))).map fun i => lo + i else [lo]

/-- Entries that a trie uses at a depth (stage 2 + depth): for each node its occupied positions and four for the map (R288). -/
def stageEntries (routes : List Route) (depth : Nat) : Nat :=
  let deep := routes.filter fun r => decide (8 * depth < r.plen)
  let node (r : Route) : Nat := r.pfx.toNat / 2 ^ (64 - 8 * depth)
  let nodes := (deep.map node).dedup
  (nodes.map fun n => (((deep.filter fun r => node r == n).flatMap (positions depth)).dedup).length + 4).sum

/-- Every trie that holds entries: the ones in use and the replaced ones not yet freed. -/
def State.triesHeld (s : State) : List (List Route) := s.routing.tries.map (·.2) ++ s.routing.old

/-- ROUTE.STAGE_USED of a depth (R288, R290). -/
def State.stageUsed (s : State) (depth : Nat) : Nat := (s.triesHeld.map fun t => stageEntries t depth).sum

/-- ROUTE.ROUTES_USED (R288, R290). -/
def State.routesUsed (s : State) : Nat := (s.triesHeld.map List.length).sum

/-- Count a hit of a route (R280, R290). -/
def hitRoute (i : Nat) (l : List Route) : List Route :=
  l.mapIdx fun j r => if j = i then { r with hits := satInc 0xFFFFFFFF r.hits } else r

/-- A lookup for an operation walks the trie of its tenant-family: the slot of the longest matching route, or a miss
(R281, R283); the hit is counted in the route and in rate class 6 (R284). -/
def State.lookup (op family tenant : Nat) (ident : BitVec 64) (s : State) : State :=
  let s := s.countRate 6 1 0
  match longest ident 0 (s.trieOf family tenant) with
  | none => { s with routing := { s.routing with lookups := s.routing.lookups ++ [(op, none)] } }
  | some (i, r) =>
    { s with routing := { s.routing with
      lookups := s.routing.lookups ++ [(op, some r.slot)]
      tries := tmod [] (trieKey family tenant) (hitRoute i) s.routing.tries } }

/-! ### Builds (R285 to R287) -/

/-- A route from an entry of a route list. -/
def entryRoute (e : BitVec 128) : Route :=
  { plen := bits e 71 64, pfx := BitVec.ofNat 64 (beNat (leBytes 8 (bits e 63 0))), slot := bits e 95 80 }

/-- An entry follows R285. -/
def entryLegal (family : Nat) (e : BitVec 128) : Bool :=
  let r := entryRoute e
  decide (r.plen ≤ (if family = 1 then 59 else 64)) && bits e 79 72 == 0 && bits e 127 96 == 0 &&
    r.pfx.toNat % 2 ^ (64 - r.plen) == 0

/-- The list index of the first entry that equals an earlier one in PLEN and PREFIX. -/
def repeated : List Route → Nat → List Route → Option Nat
  | _, _, [] => none
  | seen, i, r :: t =>
    if seen.any fun x => x.plen == r.plen && x.pfx == r.pfx then some i else repeated (r :: seen) (i + 1) t

/-- The slot of a route may serve its family (check 6 of R286). -/
def State.routeSlotOk (s : State) (family tenant : Nat) (r : Route) : Bool :=
  let a := (s.slotOf r.slot).attr
  aValid a && aTenant a == tenant && aClass a == 1 && aAlg a == (if family = 1 then ch 'T' else ch 'A')

/-- The first stage, 2 to 9, whose free entries the new trie exceeds (check 7 of R286). -/
def State.stageFull (s : State) (routes : List Route) : Option Nat :=
  ((List.range 8).find? fun d => decide (32768 < s.stageUsed d + stageEntries routes d)).map (· + 2)

/-- The cause and entry of a refusal, in the order of R286, for the checks that read the list. -/
def State.buildFault (s : State) (family tenant : Nat) (list : List (BitVec 128)) : Option (Nat × Nat) :=
  let routes := list.map entryRoute
  match list.findIdx? fun e => !entryLegal family e with
  | some i => some (4, i)
  | none =>
    match repeated [] 0 routes with
    | some i => some (5, i)
    | none =>
      match routes.findIdx? fun r => !s.routeSlotOk family tenant r with
      | some i => some (6, i)
      | none =>
        match s.stageFull routes with
        | some k => some (7, k)
        | none => if 65536 < s.routesUsed + routes.length then some (8, 0) else none

/-- A build is refused; BUSY is left to the caller. -/
def State.refuseBuild (cause entry : Nat) (s : State) : State :=
  { s with routing := { s.routing with refused := true, cause := cause, entry := entry } }

/-- BUILD_GO (R286): a write of GO, and the list that the Bench then reads by DMA. A build asked for while the Bench is being reset is BUSY until
that ends, and then ends with CAUSE 9; a Bench that is halted or has not started builds none, which CAUSE 9 reports at once (R290, R383; the
spec gives no cause for it, DESIGN CHOICE, log 57). -/
def execBuildGo (read : Sys2Proof.BuildRead) (s : State) : Out :=
  .next (s.onBar fun s =>
    let r := s.routing
    if r.busy then s.refuseBuild 1 0
    else if s.worlds.bench.status = 2 then { s with routing := { r with busy := true, built := none } }
    else if s.worlds.bench.status ≠ 1 then s.refuseBuild 9 0
    else if ¬ (s.tenantOf r.buildTen).live then s.refuseBuild 2 0
    else
      match read with
      | .failed err => (s.logAer 0 err).refuseBuild 3 0
      | .entries l =>
        let list := (List.range r.buildCount).map fun i => l.getD i 0
        match s.buildFault r.buildFam r.buildTen list with
        | some (c, e) => s.refuseBuild c e
        | none => { s with routing := { r with
            busy := true, built := some (trieKey r.buildFam r.buildTen, list.map entryRoute) } })

/-- A build that was interrupted by a reset of the Bench ends with CAUSE 9 (R286, R290). -/
def State.endBuild (s : State) : State :=
  let r := s.routing
  if r.busy then { s with routing := { r with busy := false, built := none, refused := true, cause := 9, entry := 0 } } else s

/-- Both tries of a tenant are removed, with their route records (R289). -/
def State.dropTries (t : Nat) (s : State) : State :=
  { s with routing := { s.routing with tries := tset [] (trieKey 0 t) [] (tset [] (trieKey 1 t) [] s.routing.tries) } }

/-- ROUTE_FLIP (R287): the Bench, which serves builds, replaces the trie in one write; lookups made before it have taken their routes from the
old one. A build for a tenant that has been retired meanwhile is refused (CAUSE 2; DEDUCED from R289, log 57). -/
def execRouteFlip (s : State) : Out :=
  .next (
    let r := s.routing
    match r.built with
    | none => s
    | some (k, new) =>
      if s.worlds.bench.status ≠ 1 then s
      else if ¬ (s.tenantOf (k % 4096)).live then
        State.refuseBuild 2 0 { s with routing := { r with busy := false, built := none } }
      else
      let last := tget [] r.tries k
      { s with routing := { r with
        tries := tset [] k new r.tries, old := if last = [] then r.old else r.old ++ [last]
        built := none, busy := false, done := true, trieGen := r.trieGen + 1 } })

/-- TRIE_RECLAIM (R287): every lookup made before the flip has passed stage 11. -/
def execTrieReclaim (s : State) : Out := .next { s with routing := { s.routing with old := [] } }

/-! ### SipHash-2-4 (R292) -/

/-- One round on the four words. -/
def sipRound (v : BitVec 64 × BitVec 64 × BitVec 64 × BitVec 64) : BitVec 64 × BitVec 64 × BitVec 64 × BitVec 64 :=
  let (a, b, c, d) := v
  let a := a + b
  let b := b.rotateLeft 13 ^^^ a
  let a := a.rotateLeft 32
  let c := c + d
  let d := d.rotateLeft 16 ^^^ c
  let a := a + d
  let d := d.rotateLeft 21 ^^^ a
  let c := c + b
  let b := b.rotateLeft 17 ^^^ c
  (a, b, c.rotateLeft 32, d)

/-- The words of a message: eight bytes each, the last with the length in its top byte. -/
def sipWords (m : Bytes) : List (BitVec 64) :=
  let k := m.length / 8
  (List.range k).map (fun i => BitVec.ofNat 64 (leAt m (8 * i) 8)) ++
    [BitVec.ofNat 64 (leNat (m.drop (8 * k)) + 2 ^ 56 * (m.length % 256))]

/-- SipHash-2-4 under a 128-bit key. -/
def sipHash (key : BitVec 128) (m : Bytes) : BitVec 64 :=
  let k0 := key.extractLsb' 0 64
  let k1 := key.extractLsb' 64 64
  let v := (sipWords m).foldl (fun v w =>
    let (a, b, c, d) := sipRound (sipRound (v.1, v.2.1, v.2.2.1, v.2.2.2 ^^^ w))
    (a ^^^ w, b, c, d))
    (k0 ^^^ 0x736F6D6570736575, k1 ^^^ 0x646F72616E646F6D, k0 ^^^ 0x6C7967656E657261, k1 ^^^ 0x7465646279746573)
  let (a, b, c, d) := sipRound (sipRound (sipRound (sipRound (v.1, v.2.1, v.2.2.1 ^^^ 0xFF, v.2.2.2))))
  a ^^^ b ^^^ c ^^^ d

/-- The bucket of a search key under a seed (R292). -/
def bucketOf (seed : BitVec 128) (tag : BitVec 16) (ident : BitVec 64) : Nat := (sipHash seed (searchKey tag ident)).toNat % 32768

/-! ### Terminal caches (R291 to R301) -/

/-- Terminal cache of a pipeline. -/
def State.termOf (s : State) (p : Nat) : Term := tget {} s.routing.terms p

/-- Change the terminal cache of a pipeline. -/
def State.modTerm (p : Nat) (g : Term → Term) (s : State) : State :=
  { s with routing := { s.routing with terms := tmod {} p g s.routing.terms } }

/-- An entry belongs to a terminal and the BDK slot of a transaction. -/
def TermEnt.serves (e : TermEnt) (bucket : Nat) (tag : BitVec 16) (ident : BitVec 64) (slot : Nat) : Bool :=
  e.bucket == bucket && e.tag == tag && e.ident == ident && e.slot == slot

/-- A probe (R293): a hit sets HIT, clears AGED and gives the initial key. A revocation (R297) is one step here, State.forgetKey. -/
def State.probe (p : Nat) (tag : BitVec 16) (ident : BitVec 64) (slot : Nat) (s : State) : Option Bytes × State :=
  let t := s.termOf p
  let b := bucketOf t.seed tag ident
  match t.live.find? fun e => e.serves b tag ident slot with
  | some e =>
    (some e.key, s.modTerm p fun t => { t with
      hits := t.hits + 1
      live := t.live.map fun x => if x.serves b tag ident slot then { x with hit := true, aged := false } else x })
  | none => (none, s.modTerm p fun t => { t with misses := t.misses + 1 })

/-- The lowest free way of a bucket. -/
def freeWay (l : List TermEnt) (bucket : Nat) : Option Nat :=
  (List.range 4).find? fun w => !(l.any fun e => e.bucket == bucket && e.way == w)

/-- Entries of a tenant in a bank; TAG carries the tenant in its low 12 bits. -/
def ofTenant (t : Nat) (e : TermEnt) : Bool := e.tag.toNat % 4096 == t

/-- A note of R294 is counted: INSERT_FAIL, or INSERT_SKIPPED and TENANT_CAP (R304). -/
def Term.counted (note : Nat) (t : Term) : Term :=
  if note = 1 then { t with fail := satInc 65535 t.fail }
  else if note = 2 ∨ note = 3 then { t with skip := satInc 65535 t.skip } else t

/-- What an insertion does to a cache: the cache and the note, in the order of R294. -/
def Term.insert (t : Term) (cap : Nat) (e : TermEnt) : Term × Nat :=
  let b := bucketOf t.seed e.tag e.ident
  let same (x : TermEnt) : Bool := x.bucket == b && x.tag == e.tag && x.ident == e.ident
  if t.rehashing then (t, 2)
  else if cap ≤ (t.live.filter (ofTenant (e.tag.toNat % 4096))).length then (t, 3)
  else if t.live.any fun x => same x && x.slot != e.slot then
    ({ t with live := t.live.map fun x => if same x then { e with bucket := b, way := x.way, hit := true, aged := false } else x }, 0)
  else if t.live.any same then (t, 0)
  else
    match freeWay t.live b with
    | some w => ({ t with live := t.live ++ [{ e with bucket := b, way := w, hit := true, aged := false }] }, 0)
    | none => ({ t with request := true }, 1)

/-- A transaction carries the note of its insertion. -/
def State.noteOp (op note : Nat) (s : State) : State :=
  let mark (c : Ctx) : Ctx := if c.op = op then { c with note := note } else c
  { s with plan := { s.plan with ctxs := s.plan.ctxs.map (fun e => (e.1, mark e.2)), ready := s.plan.ready.map mark } }

/-- The pipeline in which the derived key of an operation waits for its insertion. -/
def State.insertAt (s : State) (op : Nat) : Option Nat :=
  (List.range 8).find? fun p => (s.termOf p).pending.any fun e => e.1 == op

/-- TERMINAL_INSERT (R294): the key that an operation derived on a miss. -/
def execTerminalInsert (op : Nat) (s : State) : Out :=
  .next (
    match s.insertAt op with
    | none => s
    | some p =>
      match (s.termOf p).pending.find? fun e => e.1 == op with
      | none => s
      | some (_, e) =>
        let r := (s.termOf p).insert (s.setting 0x0B) e
        let t := { r.1.counted r.2 with pending := r.1.pending.filter fun x => x.1 != op }
        (s.modTerm p fun _ => t).noteOp op r.2)

/-- Ageing of an entry by a sweep: none where it is removed (R296). -/
def TermEnt.sweep (e : TermEnt) : Option TermEnt :=
  if e.hit then some { e with hit := false, aged := false } else if e.aged then none else some { e with aged := true }

/-- TERMINAL_SWEEP (R296): suspended while the pipeline rehashes. -/
def execTerminalSweep (pipe : Fin 8) (s : State) : Out :=
  .next (s.modTerm pipe.val fun t =>
    if t.rehashing then t
    else
      let live := t.live.filterMap TermEnt.sweep
      { t with live := live, removed := t.live.length - live.length, sweeps := t.sweeps + 1 })

/-- One entry copied by a rehash: to the lowest free way of its bucket under the new seed; none is left for a dropped one. -/
def rehashStep (seed : BitVec 128) (l : List TermEnt) (e : TermEnt) : List TermEnt :=
  let b := bucketOf seed e.tag e.ident
  match freeWay l b with
  | some w => l ++ [{ e with bucket := b, way := w }]
  | none => l

/-- A rehash request of a pipeline may be served (R299). -/
def State.rehashAdmitted (s : State) (t : Term) : Bool :=
  (match t.lastEnd with
    | some e => decide (e + 1000000000 ≤ s.now)
    | none => true) && decide (t.live.length < s.setting 0x0D) && s.bellows.state != .failed

/-- The live bank in the order of the walk: by bucket and way. -/
def walkOrder (l : List TermEnt) : List TermEnt := l.mergeSort fun a b => decide (4 * a.bucket + a.way ≤ 4 * b.bucket + b.way)

/-- What the cells of a cache store of an entry's initial key (R298): the key under a mask of the pipeline's generator, complemented on odd
passes of the Temper. -/
def Term.storedKey (t : Term) (e : TermEnt) : Bytes :=
  let m := xorB e.key (fit e.key.length (Config.laneMask t.maskKey (131072 * t.maskPass + 4 * e.bucket + e.way) e.key.length))
  if t.maskPass % 2 = 0 then m else m.map (~~~ ·)

/-- Steps 1 to 3 of a rehash (R298, R300): the new seed, the new key of the mask generator and the copy; the entries dropped are logged. -/
def State.beginRehash (p : Nat) (s : State) : State :=
  s.request { who := .rehash p, level := 2, blocks := 2 } (s.termOf p).drawn (fun b s =>
    let seed := BitVec.ofNat 128 (leAt b 0 16)
    let t := s.termOf p
    let copy := (walkOrder t.live).foldl (rehashStep seed) []
    let s := s.modTerm p fun t => { t with
      rehashing := true, request := false, newSeed := seed, newMask := BitVec.ofNat 128 (leAt b 16 16), spare := copy, drawn := none }
    if copy.length < t.live.length then s.logOpen 0x09 0xF2 3000 (leBytes 4 (t.live.length - copy.length)) else s) id

/-- REHASH_START (R299, R300, R381): the Bench serves a pending request, once VAULT_UP is 1; a request that does not qualify is
logged and dropped. -/
def execRehashStart (pipe : Fin 8) (s : State) : Out :=
  .next (
    let p := pipe.val
    let t := s.termOf p
    if ¬ t.request ∨ t.rehashing ∨ s.worlds.bench.status ≠ 1 ∨ ¬ s.worlds.vaultUp then s
    else if s.rehashAdmitted t then s.beginRehash p
    else State.logOpen 0x09 0xF2 2990 [BitVec.ofNat 8 p] (s.modTerm p fun t => { t with request := false }))

/-- REHASH_FLIP (R300): steps 4 and 5. -/
def execRehashFlip (pipe : Fin 8) (s : State) : Out :=
  .next (s.modTerm pipe.val fun t =>
    if ¬ t.rehashing then t
    else { t with
      bank := 1 - t.bank, live := t.spare, spare := [], seed := t.newSeed, newSeed := 0, maskKey := t.newMask, newMask := 0, rehashing := false, request := false
      rehashes := t.rehashes + 1, lastEnd := some s.now })

/-- FLUSH (R301, R304): the live bank is erased; during a rehash both banks are, and it ends without a flip. -/
def State.flushTerm (p : Nat) (s : State) : State :=
  s.modTerm p fun t =>
    if t.rehashing then { t with live := [], spare := [], newSeed := 0, newMask := 0, rehashing := false, lastEnd := some s.now }
    else { t with live := [] }

/-- FLUSH: a write of 1 to ROUTE.TERM_CTRL.FLUSH of a pipeline. -/
def execFlush (pipe : Fin 8) (s : State) : Out := .next (s.onBar fun s => s.flushTerm pipe.val)

/-- A rehash request is posted; one that is pending or running takes it in (R299). -/
def State.requestRehash (p : Nat) (s : State) : State :=
  s.modTerm p fun t => if t.rehashing then t else { t with request := true }

/-- REHASH: a write of 1 to ROUTE.TERM_CTRL.REHASH of a pipeline. -/
def execRehash (pipe : Fin 8) (s : State) : Out := .next (s.onBar fun s => s.requestRehash pipe.val)

/-- A tenant removal starts; GO is dropped while one runs (R304). -/
def State.flushTenant (t : Nat) (s : State) : State :=
  if s.routing.flushBusy then { s with routing := { s.routing with flushTen := t } }
  else { s with routing := { s.routing with flushTen := t, flushing := t, flushBusy := true } }

/-- TERM_FLUSH_GO: a write of TENANT with GO 1. -/
def execTermFlushGo (tenant : BitVec 12) (s : State) : Out := .next (s.onBar fun s => s.flushTenant tenant.toNat)

/-- TERM_FLUSH_DONE (R301): every entry of the tenant has left every pipeline. -/
def execTermFlushDone (s : State) : Out :=
  .next (
    if ¬ s.routing.flushBusy then s
    else
      let keep (l : List TermEnt) : List TermEnt := l.filter fun e => !ofTenant s.routing.flushing e
      { s with routing := { s.routing with
        flushBusy := false
        terms := tmap {} (fun _ t => { t with live := keep t.live, spare := keep t.spare }) s.routing.terms } })

end Sys2Proof.Machine
end

