-- ==== Sys2Proof/Machine/Wipe.lean ====
section
/-!
DEFINITION. Life-cycle transitions and the wipes they make (R440, R447 to R450).
-/
namespace Sys2Proof.Machine

/-- Clear the tamper latch; GROUP stays (R440). -/
def State.clearLatch (s : State) : State :=
  { s with
    crucible := { s.crucible with latchSrc := 0, latchCls := 0, latchFirst := 0, latchLast := 0 }
    vault := { s.vault with highCls := 0 } }

/-- The stored copy of the LMK is gone (R543): tenant 0's persistent area is erased or no longer readable. -/
def State.forgetLmk (s : State) : State :=
  { s with legacy := { s.legacy with lmk := [], lmkSeal := 0, lmkAttr := 0, bound := false, kcv := 0 } }

/-- Number of set bits of an OTP byte. -/
def onesB (b : BitVec 8) : Nat := ((List.range 8).filter fun i => b.getLsbD i).length

/-- The lowest clear bit of an OTP byte. -/
def freeBit (b : BitVec 8) : Option Nat := (List.range 8).find? fun i => !b.getLsbD i

/-- Words of the settings copies, the tenant area and the Hearth persistent region, which a wipe writes (R450, R510, R533). -/
def wipeWords : List (Nat × Nat) := [(0, 8192), (1, 8192), (3, 524288), (4, 131072)]

/-- The user wipe of R450. Both settings copies then hold the defaults (DESIGN CHOICE of their GEN, log 29). The stores that a
chip reset erases are left to it. -/
def State.userWipe (s : State) : State :=
  let s : State := wipeWords.foldl (fun s w => s.countWrites w.1 w.2) s
  State.clearLatch { s.forgetLmk with
    crucible := { s.crucible with drk := 0, maskSeed := 0, drkCheck := 0 }
    vault := { s.vault with sets := [], btk := none, regionKey := 0, kept := [], tenants := [], quotaDirty := [], areas := []
                            areaKeys := []
                            lcTarget := none }
    tamper := { s.tamper with keptClasses := [] }
    store := { s.store with copyA := { valid := true }, copyB := { valid := true }, activeB := false, pendMark := none
                            busy := false, snap := [] } }

/-- The full wipe of R450: the user wipe's stores, and the latch, the root generation, the event buffer, the recorder with its counters, trims,
identity and keys. -/
def State.fullWipe (s : State) : State :=
  let s := s.userWipe
  { s with
    crucible := { s.crucible with latchGroup := 0, rootGen := 0, batRecs := [] }
    rack := { s.rack with slots := [], caches := [], maskKey := 0, rik := 0 }
    hammer := { s.hammer with units := [] }
    routing := { s.routing with terms := [] }
    zwm := { s.zwm with hmem := [] }
    power := { s.power with baselines := [], wearDt := [], wearTt := [] }
    store := { s.store with copyA := {}, copyB := {}, records := [], newest := 0, queue := [], dropped := 0, lost := 0
                            opsec := 0, opsecKept := 0, cycles := 0, writes := [], writesKept := [], torn := false }
    trims := { s.trims with identity := 0, attestKey := [], debugKey := 0, signEc := [], signMl := [], certs := [] } }

/-- The wipe that entering a stage needs (R448): none, user, or full for SCRAP. -/
def State.wipeFor (target : Nat) (s : State) : State :=
  if target = 6 then s.fullWipe else if 3 ≤ target then s.userWipe else s

/-- Step 1 of a transition: the bits are blown (R447, R449). -/
def Life.blow (l : Life) (unlocked : Bool) (target bit : Nat) : Life :=
  let one : BitVec 8 := BitVec.ofNat 8 (2 ^ bit)
  if target = 2 then { l with tokenUsed := l.tokenUsed ||| one }
  else if target = 1 ∧ unlocked then { l with relock := l.relock ||| one }
  else if target = 1 then { l with stage := l.stage ||| 1 }
  else { l with stage := l.stage ||| BitVec.ofNat 5 (2 ^ (target - 2)) }

/-- Steps 2 to 4: the mark is written, its wipe is carried out, and the mark is cleared (R449). -/
def State.markedWipe (target : Nat) (s : State) : State :=
  let s := State.wipeFor target (State.countWrites 5 1 { s with trims := { s.trims with wipePending := some target } })
  State.countWrites 5 1 { s with trims := { s.trims with wipePending := none } }

/-- A transition (R449): the bits are blown, the wipe is carried out and the chip is reset. Its steps are one here, so that the mark of step 2
stands only inside it. -/
def State.transition (target : Nat) (bit : Nat) (s : State) : State :=
  (State.markedWipe target { s with life := s.life.blow (s.lifeCode = 2) target bit }).chipReset 5

end Sys2Proof.Machine
end

