-- ==== Sys2Proof/Machine/Ceremony.lean ====
section
/-!
DEFINITION. Ceremonies and attestation: the VAULTMBX services 0x40 to 0x48 and the opcodes 0x0610 and 0x0611 (R194 to R226).
-/
namespace Sys2Proof.Machine

/-! ### Opening (R199 to R201, R209 to R211, R213) -/

/-- ST_BAD_FIELD of a ceremony body (R210). -/
def State.cerBadField (off : Nat) (s : State) : State := s.mbxAnswer 0x0102 (badField off 3 0) []

/-- A request that R199 refuses: no side effect, logged. -/
def State.cerRefuse (s : State) : State := (s.logOpen 0x06 0xF1 1990 []).mbxConflict

/-- The device state admits a kind (R209); `target` is the LIFECYCLE target. -/
def State.cerState (s : State) (kind target : Nat) : Bool :=
  let c := s.chip.state
  if kind = 4 then c == .locked
  else if kind = 6 then c == .quenched
  else if kind = 7 then (c == .ready || c == .locked) && (target != 5 || s.lifeCode == 4)
  else c == .ready

/-- The first nonzero byte of a body from `lo` below `hi`. -/
def zeroFault (b : Bytes) (lo hi : Nat) : Option Nat := firstOff (fun x => x != 0) (slice b lo (hi - lo)) lo

/-- The first offset of several tests, in order. -/
def firstFault : List (Bool × Nat) → Option Nat
  | [] => none
  | (bad, off) :: t => if bad then some off else firstFault t

/-- Parameters of TENANT_CREATE (R210, R211). -/
def State.tenantParams (s : State) (b : Bytes) (t : Nat) : Option Nat :=
  let mode := (byteAt b 4).toNat
  let fl := (byteAt b 5).toNat
  let new := fl.testBit 0
  let cset := leAt b 6 2
  let n := (byteAt b 8).toNat
  let m := (byteAt b 9).toNat
  let e := s.tenantOf t
  let early := firstFault [
    (if mode = 0 then e.live || t == 0 else if mode = 1 then !e.live else !e.live || t == 0, 2),
    (decide (2 < mode), 4),
    (decide (3 < fl) || (mode != 1 && fl.testBit 1) || (new && (mode == 2 || t == 0)), 5)]
  match early with
  | some f => some f
  | none =>
    if mode = 2 then zeroFault b 6 240
    else
      match (if new then zeroFault b 6 8 else if (s.setOf cset).n = 0 ∨ (t = 0 ∧ cset ≠ 0) then some 6 else none) with
      | some f => some f
      | none =>
        match (if new then firstFault [(decide (n < 2 ∨ 16 < n), 8), (decide (m < 2 ∨ n < m), 9)] else zeroFault b 8 10) with
        | some f => some f
        | none => if t = 0 ∧ ¬ (byteAt b 10).getLsbD 0 then some 10 else zeroFault b 42 240

/-- The open parameters of a kind, judged in body order; `t` is TENANT (R210, R211). -/
def State.cerParams (s : State) (b : Bytes) (kind t : Nat) : Option Nat :=
  let v (i : Nat) : Nat := (byteAt b i).toNat
  let dead := !(s.tenantOf t).live
  let mt := (s.setOf (s.tenantOf t).cset).m
  if kind = 1 then s.tenantParams b t
  else if kind = 2 then
    match firstFault [(dead, 2), (decide (v 4 < 2 ∨ 16 < v 4 ∨ v 4 < mt), 4), (decide (1 < v 5), 5),
      (v 5 == 1 && v 6 != 0, 6), (v 5 == 1 && v 7 != 0, 7), (v 11 != 0, 11)] with
    | some f => some f
    | none =>
      match templateFault (slice b 12 16) t with
      | some f => some (12 + f)
      | none => zeroFault b 28 240
  else if kind = 3 then
    match firstFault [(dead, 2), (decide (1 < v 4), 4),
      (if v 4 = 0 then v 5 != 0 else decide (v 5 < 2 ∨ 16 < v 5), 5)] with
    | some f => some f
    | none =>
      if v 4 = 1 then zeroFault b 8 240
      else if v 10 ≠ 0x42 ∧ v 10 ≠ 0x44 then some 10 else zeroFault b 11 240
  else if kind = 4 then zeroFault b 4 240
  else if kind = 5 then
    match firstFault [(v 4 == 1 && t == 0, 2), (decide (1 < v 4), 4), (decide (v 5 < 2 ∨ 16 < v 5), 5), (v 6 != 0, 6), (v 7 != 0, 7)] with
    | some f => some f
    | none => zeroFault b 12 240
  else if kind = 6 then
    match firstFault [(decide (v 4 < 2 ∨ 16 < v 4), 4), (decide (v 5 < 2 ∨ v 4 < v 5), 5), (decide (1 < v 6), 6),
      (if v 6 = 0 then v 7 != 0 else decide (v 7 < 2 ∨ v 4 < v 7), 7)] with
    | some f => some f
    | none => zeroFault b 8 240
  else if v 4 ≠ 5 ∧ v 4 ≠ 6 then some 4 else zeroFault b 5 240

/-- The counts that a kind needs (R209), in the order of its row. -/
def State.cerNeed (s : State) (b : Bytes) (kind t : Nat) : List (Nat × Nat) :=
  let v (i : Nat) : Nat := (byteAt b i).toNat
  let m0 := (s.setOf 0).m
  let mt := (s.setOf (s.tenantOf t).cset).m
  if kind = 1 then
    let new := (v 5).testBit 0
    [(0, m0)] ++ (if new then [(2, v 8)] else []) ++
      (if v 4 = 1 ∧ (new ∨ leAt b 6 2 ≠ (s.tenantOf t).cset) then [(1, mt)] else [])
  else if kind = 2 then [(3, v 4)]
  else if kind = 3 then [(1, mt)] ++ (if v 4 = 1 then [(3, v 5)] else [])
  else if kind = 5 then [(4, v 5), (0, m0)]
  else if kind = 6 then [(2, v 4)]
  else [(0, m0)]

/-- A key of the trims partition, unwrapped under the key in OTP (R226). -/
def State.unwrapped (s : State) (field : Bytes) : Bytes := Config.unwrapTrim s.life.wrapKey field

/-- The ECDSA P-384 attestation signing key. -/
def State.signKeyEc (s : State) : Nat := beNat (fit 48 (s.unwrapped s.trims.signEc))

/-- Accept CER_OPEN with `r` fresh bytes: 32 of the key pair, 48 of the signature's nonce, 32 of a BTK and its coefficients
(R201, R207, R219, R220). -/
def State.openCeremony (b : Bytes) (kind t : Nat) (r : Bytes) (s : State) : State :=
  let id := s.vault.nextCer
  let priv := r.take 32
  let btk := kind == 6 && byteAt b 6 == 1
  let mB := (byteAt b 7).toNat
  let a := Ecc.x25519 priv (leBytes 32 9)
  let c : Ceremony := {
    id := id, kind := kind, tenant := t, params := (s.mbxBody.take (min 240 s.mbxLen)).drop 4, need := s.cerNeed b kind t
    privKey := BitVec.ofNat 256 (beNat priv)
    btk := if btk then some (BitVec.ofNat 256 (beAt r 80 32)) else none
    coeffs := if btk then (List.range (mB - 1)).map fun i => BitVec.ofNat 256 (beAt r (112 + 32 * i) 32) else [] }
  let s := { s with vault := { s.vault with cer := some c, nextCer := if id + 1 = 0 then 1 else id + 1 } }
  let s := s.log 0x0610 0xF1 (c.event 0xFF 0 0 0)
  let m := leBytes 4 id.toNat ++ a ++ leBytes 1 kind ++ leBytes 2 t
  s.mbxAnswer 0 0 (leBytes 4 id.toNat ++ a ++ p384Sign s.signKeyEc (slice r 32 48) m)

/-- CER_OPEN (R199, R201, R209, R210). -/
def execCerOpen (s : State) : Out :=
  .next (s.service 0x40 fun s =>
    let b := s.mbxBody
    let kind := (byteAt b 0).toNat
    let t := leAt b 2 2
    if s.vault.cer.isSome then s.cerRefuse
    else if kind = 0 ∨ 7 < kind then s.cerBadField 0
    else if ¬ s.cerState kind (byteAt b 4).toNat then s.cerRefuse
    else if byteAt b 1 ≠ 0 then s.cerBadField 1
    else if 4096 ≤ t then s.cerBadField 2
    else
      match s.cerParams b kind t with
      | some f => s.cerBadField f
      | none =>
        match (if kind = 3 then s.exportFault b t else none) with
        | some f => s.refuseExport f
        | none => s.hearthDrawJob 624 rateP384 (fun r s => s.openCeremony b kind t r) fun s => s.mbxAnswer 0x0402 0 [])

/-! ### Steps, status, abort and the time limits (R198, R200, R203 to R205, R217) -/

/-- The open ceremony that a body names by its CER_ID. -/
def State.namedCer (s : State) : Option Ceremony := s.vault.cer.filter fun c => c.id.toNat == leAt s.mbxBody 0 4

/-- The first failing byte of a CER_STEP body (R203). -/
def stepFault (b : Bytes) : Option Nat :=
  firstFault [(decide (3 < (byteAt b 4).toNat), 4), (decide (4 < (byteAt b 5).toNat), 5), (byteAt b 6 != 0, 6), (byteAt b 7 != 0, 7)]

/-- The window starts with the first card that is activated (R200). -/
def State.openWindow (s : State) : State :=
  match s.vault.cer with
  | some c =>
    if c.windowOn then s
    else s.setCer { c with windowOn := true, cstate := max c.cstate 2, windowEnd := s.now + s.setting 0x07 * 60000000000 }
  | none => s

/-- A step begins: the Hearth has drawn its ephemeral key, its challenge and the bytes of a component (R204, R213, R497). -/
def State.beginStep (b : Bytes) (c : Ceremony) (r : Bytes) (s : State) : State :=
  let n := Ecc.p384.n
  let x : Session := {
    port := (byteAt b 4).toNat, role := (byteAt b 5).toNat, stepNo := c.nextStep, sealedPin := slice b 12 64
    eh := BitVec.ofNat 384 (beNat (r.take 48) % (n - 1) + 1), chal := BitVec.ofNat 128 (beAt r 48 16), comp := slice r 64 72 }
  let s := s.setCer { c with nextStep := c.nextStep + 1 }
  if c.count x.role ≥ c.needed x.role then s.stepResult x 7
  else
    let s := s.startSession x
    if s.cards.session.isSome then s.openWindow else s

/-- CER_STEP (R199, R203, R204): the number is checked, and consumed whatever follows; the card conversation then runs through the
port's own events. -/
def execCerStep (s : State) : Out :=
  .next (s.service 0x41 fun s =>
    let b := s.mbxBody
    match s.namedCer with
    | none => s.cerRefuse
    | some c =>
      if s.cards.session.isSome then s
      else if ¬ s.cerState c.kind (c.at_ 4 1) then s.cerRefuse
      else if leAt b 8 4 ≠ c.nextStep.toNat then s.mbxConflict
      else
        match stepFault b with
        | some f => (s.setCer { c with nextStep := c.nextStep + 1 }).cerBadField f
        | none =>
          s.hearthDrawJob 136 rateP384 (fun r s => s.beginStep b c r) fun s => (s.setCer { c with nextStep := c.nextStep + 1 }).mbxAnswer 0x0402 0 [])

/-- CER_ABORT (R199, R200). -/
def execCerAbort (s : State) : Out :=
  .next (s.service 0x43 fun s =>
    match s.namedCer with
    | none => s.cerRefuse
    | some c => if s.cerState c.kind (c.at_ 4 1) then (s.endCeremony 1).mbxAnswer 0 0 [] else s.cerRefuse)

/-- CER_STATUS (R198); accepted and needed are those of the first role short, else of the last role (DEDUCED, log 27). -/
def execCerStatus (s : State) : Out :=
  .next (s.service 0x44 fun s =>
    match s.vault.cer with
    | none => s.mbxAnswer 0 0 (List.replicate 16 0)
    | some c =>
      let e := (c.short.or c.need.getLast?).getD (0, 0)
      let left := if c.windowOn then (c.windowEnd - s.now) / 1000000000 else s.setting 0x07 * 60
      s.mbxAnswer 0 0 (leBytes 4 c.id.toNat ++ leBytes 1 c.kind ++ leBytes 1 c.cstate ++ leBytes 1 (c.count e.1) ++ leBytes 1 e.2 ++
        leBytes 4 c.nextStep.toNat ++ leBytes 4 left))

/-- SET_READ (R198): not in QUENCHED (R437). The rule gives no status for a SET above 4,095: ST_BAD_FIELD with DETAIL 0, as R377 has it for a
request's header (DESIGN CHOICE, log 55). -/
def execSetRead (s : State) : Out :=
  .next (s.service 0x45 fun s =>
    let n := leAt s.mbxBody 0 2
    if s.chip.state = .quenched then s.mbxConflict
    else if 4096 ≤ n then s.mbxAnswer 0x0102 0 []
    else s.mbxAnswer 0 0 ((setBytes n (s.setOf n)).take 196))

/-- CEREMONY_WINDOW_EXPIRY (R200, R217). -/
def execCeremonyWindowExpiry (s : State) : Out :=
  .next (
    match s.vault.cer with
    | some c => if c.windowOn then s.endCeremony 2 else s
    | none => s)

/-- CEREMONY_IDLE_LIMIT (R200): five minutes after CER_OPEN the ceremony is still OPEN. -/
def execCeremonyIdleLimit (s : State) : Out :=
  .next (
    match s.vault.cer with
    | some c => if c.cstate = 1 then s.endCeremony 3 else s
    | none => s)

/-! ### Commit (R209, R211 to R216, R223) -/

/-- A commit ends the ceremony with an OUTCOME (R202, R216). -/
def State.cerDone (c : Ceremony) (outcome : Nat) (body : Bytes) (s : State) : State :=
  let s := State.log 0x0612 0xF1 (c.event 0xFF 0 outcome 0) { s with vault := { s.vault with cer := none } }
  s.mbxAnswer 0 0 ([BitVec.ofNat 8 outcome, 0] ++ body)

/-- The Hearth writes a tenant entry into the table and its persistent region (R134, R135). -/
def State.writeTenant (t : Nat) (e : Tenant) (s : State) : State :=
  State.wroteRegion 48 { s with vault := { s.vault with
      tenants := tset {} t e s.vault.tenants
      kept := tset {} t { e with slotsUsed := 0 } s.vault.kept } }

/-- The lowest free set number (R197). -/
def State.freeSet (s : State) : Option Nat :=
  (List.range (s.vault.sets.length + 2)).find? fun n => decide (1 ≤ n) && decide (n < 4096) && (s.setOf n).n == 0

/-- The keys and the persistent area of a tenant are erased (R211). -/
def State.eraseTenant (t : Nat) (s : State) : State :=
  let ns := (s.rack.slots.filter fun e => aValid e.2.attr && aTenant e.2.attr == t).map (·.1)
  let s : State := ns.foldl (fun s n => s.eraseSlot n) s
  s.putArea t 0 []

/-- TENANT_CREATE commit: create, amend or retire (R211). -/
def State.commitTenant (c : Ceremony) (s : State) : State :=
  let t := c.tenant
  let mode := c.at_ 4 1
  let new := (c.at_ 5 1).testBit 0
  let bind := BitVec.ofNat 256 (c.at_ 10 32)
  let e := s.tenantOf t
  if mode = 2 then
    let s := ((s.eraseTenant t).dropTries t).unbindTo t 0
    ((s.writeTenant t {}).freeSets).cerDone c 0 (leBytes 2 t ++ [0, 0])
  else
    match (if new then s.freeSet else some (c.at_ 6 2)) with
    | none => s.cerDone c 2 [0, 0, 0, 0]
    | some cset =>
      let s := if new then s.writeSet cset { n := c.at_ 8 1, m := c.at_ 9 1, cards := c.hashes } else s
      let s : State := if mode = 0 then s.writeTenant t { live := true, cset := cset, bind := bind }
        else
          let epoch := if (c.at_ 5 1).testBit 1 then e.epoch + 1 else e.epoch
          ((s.unbindTo t bind).resealArea t e.epoch.toNat epoch.toNat).writeTenant t { e with cset := cset, bind := bind, epoch := epoch }
      s.freeSets.cerDone c 0 (leBytes 2 t ++ leBytes 2 cset)

/-- COMPONENT_LOAD commit (R212). -/
def State.commitComponents (c : Ceremony) (s : State) : State :=
  let a := attrOf (slice c.params 8 16)
  let key := c.parts.foldl xorB (List.replicate (aKlen a) 0)
  let kcv := kcvOf (aAlg a) (aSub a) key
  let none_ : Bytes := [0, 0, 0, 0, 0]
  if c.at_ 8 3 ≠ 0 ∧ slice c.params 4 3 ≠ fit 3 kcv then s.cerDone c 1 none_
  else
    match (if c.at_ 5 1 = 1 then s.lowestEmpty else if aValid (s.slotOf (c.at_ 6 2)).attr then none else some (c.at_ 6 2)) with
    | none => s.cerDone c 2 none_
    | some n =>
      match s.reserveSlots c.tenant 1 with
      | none => s.cerDone c 2 none_
      | some s => (s.placeSlot n (finalAttr a 2 kcv) (materialOf key)).cerDone c 0 (leBytes 2 n ++ fit 3 kcv)

/-- KEY_EXPORT commit (R213, R216): a slot emptied or changed since CER_OPEN is refused as there, and the ceremony stays open
(DESIGN CHOICE, log 27). -/
def State.commitExport (c : Ceremony) (rnd : Bytes) (s : State) : State :=
  match s.exportFault c.body c.tenant with
  | some f => s.refuseExport f
  | none =>
    let x := s.exportSlot c
    if c.at_ 4 1 = 1 then s.cerDone c 0 ([0, 0] ++ leBytes 3 (aKcv x.attr))
    else
      let p := s.slotOf (c.at_ 8 2)
      let kb := kbWrite (c.at_ 10 1 == 0x44) x.attr x.key (member p.attr p.key 0) rnd
      s.cerDone c 0 (leBytes 2 kb.length ++ kb)

/-- A source latched since the last clear whose class in force is `cls` still has its condition (R214, R215, R423). -/
def State.persists (s : State) (cls : Nat) (latched : Bool) : Bool :=
  (List.range 12).any fun n => s.activeNow.getLsbD n && s.classOf n == cls && (!latched || s.crucible.latchSrc.getLsbD n)

/-- READY with the key bus on (R214, R215). -/
def State.enterReady (s : State) : State :=
  (State.setChip .ready { s with chip := { s.chip with keyBus := true, endState := .ready } })

/-- UNLOCK commit (R214). -/
def State.commitUnlock (c : Ceremony) (s : State) : State :=
  if s.persists 2 true then s.mbxConflict else s.clearLatch.enterReady.cerDone c 0 []

/-- The derivation unit computes MK and the Rack integrity key from the mask seed and a boot value (R182). -/
def State.bootMask (boot : Bytes) (s : State) : State :=
  let k (label : String) : BitVec 256 :=
    BitVec.ofNat 256 (beNat (Modes.kdf (beBytes 32 s.crucible.maskSeed.toNat) (ascii label) (boot.take 4)))
  { s with rack := { s.rack with maskKey := k "ZY-MSK", rik := k "ZY-RIK" } }

/-- The DRK check of a DRK (R177). -/
def drkCheckOf (drk : Bytes) : Bytes := Modes.aesCmac drk (ascii "ZY-CHK")

/-- NEW_ROOT commit (R215), with 96 fresh bytes: DRK, mask seed, boot value. The three fields are written only where they read as 0 (R178); else
the commit is refused as for a condition that persists (DESIGN CHOICE, log 27). The entries of the old root leave the functions' lists
(R142), and the region is formatted under the new root. The CER_IDs of the new root count from 1 (R199); the Rack's mask keys follow the
new mask seed (R476). -/
def State.commitRoot (c : Ceremony) (r : Bytes) (s : State) : State :=
  if s.persists 3 false ∨ s.crucible.drk ≠ 0 ∨ s.crucible.maskSeed ≠ 0 ∨ s.crucible.drkCheck ≠ 0 then s.mbxConflict
  else
    let drk := r.take 32
    let s := s.vault.tenants.foldl (fun s e => s.unbindTo e.1 (if e.1 = 0 then 1 else 0)) s
    let s := { s with
      crucible := { s.crucible with
        drk := BitVec.ofNat 256 (beNat drk), maskSeed := BitVec.ofNat 256 (beAt r 32 32)
        drkCheck := BitVec.ofNat 128 (beNat (drkCheckOf drk)), rootGen := s.crucible.rootGen + 1 }
      vault := { s.vault with
        sets := []
        btk := c.btk, tenants := [], kept := [], quotaDirty := [], areas := [], areaKeys := [], nextCer := 1, lcTarget := none }
      tamper := { s.tamper with keptClasses := [] } }
    let s := (if c.btk.isSome then s.wroteRegion 32 else s).sealRegion
    let s := (s.writeSet 0 { n := c.at_ 4 1, m := c.at_ 5 1, cards := c.hashes }).writeTenant 0 { live := true, bind := 1 }
    (s.clearLatch.forgetLmk.bootMask (slice r 64 32)).enterReady.cerDone c 0 []

/-- ST_CARD_PROTOCOL of the archive read of a RESTORE commit (R506). -/
def State.archiveFault (cause state : Nat) (s : State) : State :=
  (s.modSd fun d => { d with cause := cause, state := state }).mbxAnswer 0x0704 (4 + 256 * cause) []

/-- The archive read of a RESTORE commit, an operation of the backup port (R500, R502, R506): after those that wait there, with PD27 powered
and the Bench serving, on a card made ready. A read that meets no card, a removal or a protocol failure answers with that status. -/
def State.onArchive (card : SdCard) (sd : SdRead) (k : Bytes → State → State) (s : State) : State :=
  if s.cards.sd.waiting ≠ [] ∨ ¬ s.powered 27 then s
  else if (s.blockOf 0x14).out ∨ s.worlds.bench.status = 3 then s.mbxAnswer 0x0302 0x14 []
  else if s.worlds.bench.status ≠ 1 then s
  else if ¬ s.cards.sd.present then s.mbxAnswer 0x0701 0 []
  else
    s.sdReady (fun c s => s.archiveFault c 4) false card fun s =>
      match sd with
      | .removed busy => (s.modSd Sd.removed).mbxAnswer (if busy then 0x0703 else 0x0702) 0 []
      | .failed cause => s.archiveFault cause.toNat 1
      | .blocks raw => k raw s

/-- CER_COMMIT (R199, R209, R216): accepted in QUORATE only. A RESTORE reads the archive from the backup card, and a card status
leaves the ceremony as it was (R506); the LIFECYCLE target goes to the controller (R215, R448),
which waits for AUTH for RMA and proceeds at once for SCRAP. -/
def State.commit (c : Ceremony) (card : SdCard) (sd : SdRead) (s : State) : State :=
  if c.kind = 1 then s.commitTenant c
  else if c.kind = 2 then s.commitComponents c
  else if c.kind = 3 then s.hearthDraw 64 (fun r s => s.commitExport c r) fun s => s.mbxAnswer 0x0402 0 []
  else if c.kind = 4 then s.commitUnlock c
  else if c.kind = 6 then s.hearthDraw 96 (fun r s => s.commitRoot c r) fun s => s.mbxAnswer 0x0402 0 []
  else if c.kind = 7 then
    if s.lifeCode ≠ 4 then s.mbxConflict
    else if c.at_ 4 1 = 6 then (s.cerDone c 0 []).transition 6 0
    else State.cerDone c 0 [] { s with vault := { s.vault with lcTarget := some 5 } }
  else
    s.onArchive card sd fun raw s =>
      match s.restore c raw with
      | .error o => s.cerDone c o (leBytes 2 0 ++ leBytes 4 s.cards.sd.lastSeq)
      | .ok (n, s) => s.cerDone c 0 (leBytes 2 n ++ leBytes 4 s.cards.sd.lastSeq)

/-- CER_COMMIT (R199, R209). -/
def execCerCommit (sd : ArchiveSeen) (s : State) : Out :=
  .next (s.service 0x42 fun s =>
    match s.namedCer with
    | none => s.cerRefuse
    | some c =>
      if ¬ s.cerState c.kind (c.at_ 4 1) then s.cerRefuse
      else
        match c.short with
        | some (role, n) => s.mbxAnswer 0x0304 (c.count role + 256 * n) []
        | none => s.commit c sd.card sd.read)

/-! ### Attestation (R224 to R226) -/

/-- The state report (R224). -/
def State.report96 (s : State) (challenge : Bytes) : Bytes :=
  let v (k : Nat) : Bytes := leBytes 4 (tget 0 s.life.versions k).toNat
  let b (x : Bool) (i : Nat) : Nat := if x then 2 ^ i else 0
  ascii "ZYAR" ++ [0x01, 0x10, BitVec.ofNat 8 s.lifeCode, BitVec.ofNat 8 s.chip.state.code] ++
    leBytes 8 s.trims.identity.toNat ++ leBytes 4 s.crucible.rootGen.toNat ++ v 0 ++ v 1 ++ v 2 ++
    leBytes 2 s.chip.hif.toNat ++
    leBytes 1 (b s.life.ownerHash.isSome 0 + b s.chip.legacy 1 + b s.worlds.vaultUp 2 + b s.heldBtk.isSome 3 +
      b (s.engine.blocks.any fun x => x.2.out) 4) ++
    leBytes 1 s.vault.highCls ++ leBytes 4 s.store.opsec.toNat ++ leBytes 3 s.store.cycles ++ [0] ++
    leBytes 2 (s.vault.tenants.filter fun t => t.2.live).length ++ [0, 0] ++ leBytes 4 s.store.newest ++
    List.replicate 12 0 ++ fit 32 challenge

/-- ATTEST_MAC (R224). -/
def execAttestMac (s : State) : Out :=
  .next (s.service 0x48 fun s =>
    if ¬ (s.chip.state = .ready ∨ s.chip.state = .locked ∨ s.chip.state = .quenched) then s.mbxConflict
    else
      let r := s.report96 (s.mbxBody.take 32)
      s.mbxAnswer 0 0 (r ++ Sha.hmacId 3 (fit 48 (s.unwrapped s.trims.attestKey)) r))

/-- The signed report (R225), with 80 drawn bytes. -/
def State.signReport (o : Op) (dma : Dma) (n : Bytes) (s : State) : State :=
  let r := s.report96 (opParams o dma)
  let ml := (Mldsa.keygen 65 (fit 32 (s.unwrapped s.trims.signMl))).2
  let out := r ++ p384Sign s.signKeyEc (n.take 48) r ++ Mldsa.sign 65 ml [] r (n.drop 48)
  (s.writeOut o dma out).finish o.id 0 0 out.length []

/-- ATTEST_SIGN (R225): the report, its ECDSA P-384 signature and its ML-DSA-65 signature; the ML-DSA signature is hedged
(DEDUCED, log 27). -/
def execAttestSign (op : Nat) (dma : Dma) (s : State) : Out :=
  .next (s.onService op 0x0610 fun o s =>
    s.checked o dma 0 3501 fun s =>
      let sign := State.gated o 2 5 (fun n s => s.signReport o dma n)
      if o.seed.isSome then s.hearthJob rateP384 fun s => s.hearthJob (62000, false) sign else sign s)

/-- CERT_READ (R225): PLAN[0] names the chain, PLAN[1] the device or the intermediate certificate. -/
def execCertRead (op : Nat) (dma : Dma) (s : State) : Out :=
  .next (s.onService op 0x0611 fun o s =>
    let p := dPlan o.desc
    s.serviceOut o dma 8192 (tget [] s.trims.certs (2 * (p % 2) + p / 2 % 4)))

end Sys2Proof.Machine
end

