-- ==== Sys2Proof/Machine/Life.lean ====
section
/-!
DEFINITION. The life cycle: transitions and wipes, test tokens, debug authorisation, images and the JTAG instructions (R446 to
R462). The form of a JTAG answer is log 29: the body of the service of the same name, or the two bytes of a status.
-/
namespace Sys2Proof.Machine

/-! ### Transitions (R448) -/

/-- The fuse that LC_ADVANCE blows for a target: the lowest free RELOCK bit; none where R448 does not admit the pair. -/
def State.lcAdmits (s : State) (jtag : Bool) (target : Nat) : Option Nat :=
  let c := s.lifeCode
  let scrapOk := s.life.scope.getLsbD 5
  if target = 1 then (if c = 0 ∧ jtag then some 0 else if c = 2 then freeBit s.life.relock else none)
  else if target = 3 then (if ¬ jtag ∧ (c = 1 ∨ c = 2) then some 0 else none)
  else if target = 4 then (if ¬ jtag ∧ (c = 1 ∨ c = 2 ∨ c = 3) then some 0 else none)
  else if target = 6 then
    (if c ≤ 3 ∨ (¬ jtag ∧ scrapOk ∧ (c = 5 ∨ (c = 4 ∧ s.chip.state = .quenched))) then some 0 else none)
  else none

/-- Load the JTAG instruction register (R461). -/
def State.setIr (ir : BitVec 8) (s : State) : State := { s with pins := { s.pins with jtagIr := ir } }

/-- The answer of a JTAG instruction (R461). -/
def State.jtag (ir : BitVec 8) (b : Bytes) (s : State) : State := (s.setIr ir).emit (.jtag b)

/-- A service of this chapter: in SCRAP every one but LC_STATUS is refused (R460). -/
def State.lcService (code : Nat) (act : State → State) (s : State) : State :=
  s.service code fun s => if s.lifeCode = 6 then s.mbxConflict else act s

/-- ST_BAD_FIELD of a service body, with the body as structure 3, as R210 has it (DEDUCED, log 29). -/
def State.lcBadField (off : Nat) (s : State) : State := s.mbxAnswer 0x0102 (badField off 3 0) []

/-- LC_ADVANCE (R448, R460, R461), from VAULTMBX or with a target over JTAG: the chip resets after the response. -/
def execLcAdvance (jtag : Option (BitVec 8)) (s : State) : Out :=
  .next (
    match jtag with
    | some t =>
      (match s.lcAdmits true t.toNat with
        | some bit => (s.jtag 0x03 []).transition t.toNat bit
        | none => s.jtag 0x03 (leBytes 2 0x0301))
    | none => s.lcService 0x11 fun s =>
      let t := (byteAt s.mbxBody 0).toNat
      match s.lcAdmits false t with
      | some bit => (s.mbxAnswer 0 0 []).transition t bit
      | none => s.mbxConflict)

/-- The LC_STATUS body (R460). -/
def State.lcBody (s : State) : Bytes :=
  let l := s.life
  leBytes 1 s.lifeCode ++ leBytes 1 s.chip.state.code ++ leBytes 1 (onesB l.tokenUsed) ++ leBytes 1 (onesB l.relock) ++
    leBytes 1 ((if l.ownerHash.isSome then 1 else 0) + (if s.trims.wipePending.isSome then 2 else 0)) ++ leBytes 4 l.scope.toNat ++
    ((List.range 3).flatMap fun k => leBytes 1 (if tget 3 l.boot k = 3 then 0xFF else tget 3 l.boot k)) ++
    ((List.range 3).flatMap fun k => leBytes 4 (tget 0 l.versions k).toNat)

/-- LC_STATUS (R460, R461). -/
def execLcStatus (jtag : Bool) (s : State) : Out :=
  .next (if jtag then s.jtag 0x02 s.lcBody else s.service 0x10 fun s => s.mbxAnswer 0 0 s.lcBody)

/-! ### Test tokens (R451, R452) -/

/-- TOKEN (R452): the value matches the fused hash of an unconsumed token in TEST_LOCKED, with fewer than 4 refusals so far. -/
def State.tokenOk (s : State) (t : Nat) (value : Bytes) : Bool :=
  s.lifeCode == 1 && decide (t < 8) && !s.life.tokenUsed.getLsbD t && decide (s.life.refusals < 4) &&
    (tget 0 s.life.tokenHashes t == BitVec.ofNat 256 (beNat (Sha.sha256 (value ++ leBytes 8 s.trims.identity.toNat))))

/-- TOKEN (R452, R461), over JTAG: a match blows TOKEN_USED and makes the transition; a refusal is counted. -/
def execToken (t : BitVec 8) (value : BitVec 256) (s : State) : Out :=
  .next (
    if s.tokenOk t.toNat (beBytes 32 value.toNat) then (s.jtag 0x04 []).transition 2 t.toNat
    else State.jtag 0x04 (leBytes 2 0x0301) { s with life := { s.life with refusals := satInc 4 s.life.refusals } })

/-! ### Debug authorisation (R453 to R456) -/

/-- The scope bits that the state admits (R453). -/
def State.scopeAdmitted (s : State) : BitVec 32 :=
  let c := s.lifeCode
  if c = 3 then 0xF
  else if c = 5 then 0x2F
  else if c = 4 then
    (if s.vault.lcTarget = some 5 then 0x10 else 0) ||| (if s.chip.state = .quenched then 0x20 else 0)
  else 0

/-- The HMAC that answers a nonce for a scope map (R454). -/
def State.authCode (s : State) (nonce : BitVec 256) (scope : BitVec 32) : Bytes :=
  Sha.hmacId 3 (beBytes 48 s.trims.debugKey.toNat)
    (beBytes 32 nonce.toNat ++ leBytes 8 s.trims.identity.toNat ++ leBytes 4 scope.toNat)

/-- AUTH_NONCE for a scope map, with its two answers (R453 to R455): refused in another state, after 8 mismatches, or for a bit
that the state does not admit. -/
def State.authNonce (scope : BitVec 32) (answer : Bytes → State → State) (refuse : Nat → State → State) (s : State) : State :=
  if s.lifeCode < 3 ∨ s.lifeCode = 6 ∨ 8 ≤ s.life.authFails ∨ scope &&& ~~~ s.scopeAdmitted ≠ 0 then refuse 0x0301 s
  else s.hearthDraw 32
    (fun r s => answer (r ++ leBytes 8 s.trims.identity.toNat ++ leBytes 1 s.lifeCode)
      { s with life := { s.life with nonce := some (BitVec.ofNat 256 (beNat r), scope) } })
    (refuse 0x0402)

/-- AUTH_NONCE (R454, R460, R461), from VAULTMBX or with a scope map over JTAG. -/
def execAuthNonce (jtag : Option (BitVec 32)) (s : State) : Out :=
  .next (
    match jtag with
    | some m => s.authNonce m (fun b s => s.jtag 0x05 b) fun st s => s.jtag 0x05 (leBytes 2 st)
    | none => s.lcService 0x12 fun s =>
      s.authNonce (BitVec.ofNat 32 (leAt s.mbxBody 0 4)) (fun b s => s.mbxAnswer 0 0 b)
        fun st s => if st = 0x0301 then s.mbxConflict else s.mbxAnswer st 0 [])

/-- AUTH_RESPONSE with its two answers (R454, R455): the nonce is spent whatever the result. A match grants the scope; scope
UNSIGNED arms the flag of R458, scope RMA completes the transition of a committed ceremony. A mismatch is counted and logged,
with parameter bytes that the spec does not give (log 6). -/
def State.authResponse (code : Bytes) (answer : Bytes → State → State) (refuse : Nat → State → State) (s : State) : State :=
  match s.life.nonce with
  | none => refuse 0x0301 s
  | some (n, m) =>
    let s := { s with life := { s.life with nonce := none } }
    if fit 48 code = s.authCode n m then
      let l := s.life
      let s := { s with life := { l with scope := l.scope ||| m, unsignedArm := l.unsignedArm || m.getLsbD 3 } }
      let s := answer (leBytes 4 s.life.scope.toNat) s
      if m.getLsbD 4 ∧ s.vault.lcTarget = some 5 ∧ s.lifeCode = 4 then s.transition 5 0 else s
    else
      refuse 0x0501 (State.log 0x1001 0xF1 ((List.range 12).map (Config.eventByte 4550))
        { s with life := { s.life with authFails := satInc 8 s.life.authFails } })

/-- AUTH_RESPONSE (R454, R460, R461), from VAULTMBX or with 48 bytes over JTAG. -/
def execAuthResponse (jtag : Option (BitVec 384)) (s : State) : Out :=
  .next (
    match jtag with
    | some v => s.authResponse (beBytes 48 v.toNat) (fun b s => s.jtag 0x06 b) fun st s => s.jtag 0x06 (leBytes 2 st)
    | none => s.lcService 0x13 fun s =>
      s.authResponse (s.mbxBody.take 48) (fun b s => s.mbxAnswer 0 0 b)
        fun st s => if st = 0x0301 then s.mbxConflict else s.mbxAnswer st 0 [])

/-- NONCE_EXPIRY (R455): 60 s after its draw the nonce is no longer valid. -/
def execNonceExpiry (s : State) : Out := .next { s with life := { s.life with nonce := none } }

/-- OWNER_KEY_FUSE (R459): blows the hash once; a body that is no point of P-384 is refused (DESIGN CHOICE, log 29). -/
def execOwnerKeyFuse (s : State) : Out :=
  .next (s.lcService 0x14 fun s =>
    let key := s.mbxBody.take 97
    let c := s.lifeCode
    if s.life.ownerHash.isSome ∨ ¬ (c = 3 ∨ (c = 4 ∧ s.crucible.rootGen = 0)) then s.mbxConflict
    else if (Ecc.p384.decode key).isNone then s.lcBadField 0
    else
      let h := Sha.sha384 key
      State.mbxAnswer 0 0 h { s with life := { s.life with ownerHash := some (BitVec.ofNat 384 (beNat h)), ownerKey := key } })

/-! ### Images (R357, R358, R457, R458, R460). Kinds count from 0: Hearth image, Bench image, plan bundle. -/

/-- Slot size of a kind. -/
def slotSize (k : Nat) : Nat := if k = 0 then 0x80000 else if k = 1 then 0x400000 else 0x100000

/-- BODY_LEN limit of a kind. -/
def bodyLimit (k : Nat) : Nat := if k = 0 then 393216 else if k = 1 then 3145728 else 983040

/-- BODY_LEN of an image. -/
def imgBodyLen (img : Bytes) : Nat := leAt img 20 4

/-- Body of an image. -/
def imgBody (img : Bytes) : Bytes := slice img 128 (imgBodyLen img)

/-- The assignment table: the last 208 bytes of a Hearth image's body (DESIGN CHOICE, log 29). -/
def imgTable (img : Bytes) : Bytes := slice img (128 + imgBodyLen img - 208) 208

/-- Slots of R411 that must go to the Hearth, and those that must go to the Bench. -/
def fixedWorld (s : Nat) : Option Bool := if s ≤ 20 then some false else if 44 ≤ s ∧ s ≤ 47 then some true else none

/-- The table passes R358, with R411 and R412. -/
def tableOk (t : Bytes) : Bool :=
  let w (i : Nat) : Byte := byteAt t i
  t.take 4 == ascii "ZYAT" && w 4 == 1 && (slice t 5 11).all (· == 0) && (slice t 16 192).all (fun b => b &&& 0xFE == 0) &&
    (List.range 64).all fun s =>
      (match fixedWorld s with | some b => w (16 + s) == (if b then 1 else 0) | none => true) &&
        (slotReserved s || (w (80 + 2 * s) == w (16 + s) && w (81 + 2 * s) == w (16 + s)))

/-- Reserved header fields are 0 (R457). -/
def headerZero (k : Nat) (img : Bytes) : Bool :=
  leAt img 6 2 == 0 && (k != 2 || leAt img 14 4 == 0) && (k == 0 || leAt img 18 2 == 0) && decide (leAt img 24 4 ≤ 1) &&
    leAt img 28 4 == 0 && (slice img 80 48).all (· == 0)

/-- An ECDSA P-384 signature verifies under an encoded public key. -/
def p384Check (key m sig : Bytes) : Bool :=
  match Ecc.p384.decode key with
  | some q => p384Verify q m sig
  | none => false

/-- The first failing step of R458 for an image of a kind, 0 for none. `free` skips steps 4 and 5. -/
def State.imageFault (s : State) (k : Nat) (free : Bool) (img : Bytes) : Nat :=
  let h := fit 128 img
  let block := slice img (128 + imgBodyLen img) 4723
  if h.take 4 ≠ ascii "ZYIM" ∨ byteAt h 4 ≠ 1 ∨ (byteAt h 5).toNat ≠ k + 1 ∨ ¬ headerZero k h ∨ bodyLimit k < imgBodyLen img then 1
  else if 0x10 < (byteAt h 12).toNat ∨ (byteAt h 13).toNat < 0x10 then 2
  else if Sha.sha384 (imgBody img) ≠ slice h 32 48 then 3
  else if ¬ free ∧ ¬ (Mldsa.verify 87 s.trims.romMl [] h (block.take 4627) ∧ p384Check s.trims.romEc h (block.drop 4627)) then 4
  else if ¬ free ∧ s.life.ownerHash.isSome ∧ ¬ (leAt h 24 4 = 1 ∧
      p384Check s.life.ownerKey (h ++ block) (slice img (128 + imgBodyLen img + 4723) 96)) then 5
  else if k = 0 ∧ ¬ tableOk (imgTable img) then 6
  else 0

/-- A rejection, event 0x1002: kind, slot, step in its first three bytes (DEDUCED, log 29). -/
def State.logImage (k slot step : Nat) (s : State) : State :=
  s.log 0x1002 0xF1 [BitVec.ofNat 8 (k + 1), BitVec.ofNat 8 slot, BitVec.ofNat 8 step]

/-- The image in a slot. -/
def State.imageAt (s : State) (k slot : Nat) : Bytes := tget [] s.life.flash (2 * k + slot)

/-- The images that a start accepts unsigned (R458): TEST_UNLOCKED, or a start that consumes an UNSIGNED grant. -/
def State.unsignedOk (s : State) : Bool := s.lifeCode == 2 || s.life.unsignedUsed

/-- Boot one kind: the preferred slot, then the other (R458). -/
def State.bootKind (k : Nat) (s : State) : State :=
  let p := tget 0 s.life.prefer k
  let take (slot : Nat) (s : State) : State :=
    { s with life := { s.life with
        boot := tset 3 k slot s.life.boot
        versions := tset 0 k (BitVec.ofNat 32 (leAt (s.imageAt k slot) 8 4)) s.life.versions } }
  let try_ (slot : Nat) (s : State) (no : State → State) : State :=
    match s.imageFault k s.unsignedOk (s.imageAt k slot) with
    | 0 => take slot s
    | e => no (s.logImage k slot e)
  try_ p s fun s => try_ (1 - p) s fun s => { s with life := { s.life with boot := tset 3 k 3 s.life.boot } }

/-- The states that admit IMAGE_BEGIN and DEVICE_RESTART (R460). -/
def ChipState.admitsImages (c : ChipState) : Bool := c != .start

/-- The slot that a transfer writes: the one not booted, A where none is (R460). -/
def State.spareSlot (s : State) (k : Nat) : Nat := if tget 3 s.life.boot k = 0 then 1 else 0

/-- IMAGE_BEGIN (R460). -/
def execImageBegin (s : State) : Out :=
  .next (s.lcService 0x18 fun s =>
    let b := s.mbxBody
    let k := (byteAt b 0).toNat - 1
    let len := leAt b 4 4
    if ¬ s.chip.state.admitsImages then s.mbxConflict
    else
      match firstFault [(s.life.transfer.isSome || decide ((byteAt b 0).toNat = 0 ∨ 3 < (byteAt b 0).toNat), 0),
          (byteAt b 1 != 0, 1), (byteAt b 2 != 0, 2), (byteAt b 3 != 0, 3), (decide (slotSize k < len), 4)] with
      | some f => s.lcBadField f
      | none =>
        let slot := s.spareSlot k
        State.mbxAnswer 0 0 (leBytes 1 slot)
          { s with life := { s.life with transfer := some (k, slot, len, 0), flash := tset [] (2 * k + slot) [] s.life.flash } })

/-- IMAGE_DATA (R460): the bytes at the next offset. -/
def execImageData (s : State) : Out :=
  .next (s.lcService 0x19 fun s =>
    match s.life.transfer with
    | none => s.mbxConflict
    | some (k, slot, len, next) =>
      let n := min 240 s.mbxLen - 4
      if leAt s.mbxBody 0 4 ≠ next then s.lcBadField 0
      else if 224 < n ∨ len < next + n then s.lcBadField 4
      else
        State.mbxAnswer 0 0 [] { s with life := { s.life with
          transfer := some (k, slot, len, next + n)
          flash := tset [] (2 * k + slot) (s.imageAt k slot ++ slice s.mbxBody 4 n) s.life.flash } })

/-- IMAGE_COMMIT (R460): the written image is checked under R458; an accepted one becomes preferred. -/
def execImageCommit (s : State) : Out :=
  .next (s.lcService 0x1A fun s =>
    match s.life.transfer with
    | none => s.mbxConflict
    | some (k, slot, len, next) =>
      if next < len then s.mbxConflict
      else
        s.hearthJob (40000 * 5 / 2, false) fun s =>
          let s := { s with life := { s.life with transfer := none } }
          match s.imageFault k (s.lifeCode == 2) (s.imageAt k slot) with
          | 0 => State.mbxAnswer 0 0 [0] { s with life := { s.life with prefer := tset 0 k slot s.life.prefer } }
          | e => (s.logImage k slot e).mbxAnswer 0 0 (leBytes 1 e))

/-- DEVICE_RESTART (R460, R483). -/
def execDeviceRestart (s : State) : Out :=
  .next (s.lcService 0x1B fun s =>
    if ¬ s.chip.state.admitsImages then s.mbxConflict else (s.mbxAnswer 0 0 []).chipReset 6)

/-! ### JTAG (R461) -/

/-- IDCODE (R461). -/
def execIdcode (s : State) : Out := .next (s.jtag 0x01 (leBytes 4 0x148406BF))

/-- BYPASS (R461). -/
def execBypass (s : State) : Out := .next (s.setIr 0xFF)

/-- Boundary scan is available: TEST_*, or DEV and RMA with scope SCAN (R453, R461). -/
def State.scanOk (s : State) : Bool :=
  let c := s.lifeCode
  c == 1 || c == 2 || ((c == 3 || c == 5) && s.life.scope.getLsbD 2)

/-- SAMPLE (R461): the boundary-scan cells take the levels of their balls. Where it is not available it acts as BYPASS. -/
def execSample (levels : BitVec 147) (s : State) : Out :=
  .next (
    if s.scanOk then
      State.jtag 0x20 (leBytes 19 levels.toNat) { s with pins := { s.pins with bscan := levels.toNat } }
    else s.setIr 0xFF)

/-- EXTEST (R461): the boundary-scan cells hold the levels that the balls are driven to; no tamper source is suspended. Where it
is not available it acts as BYPASS. -/
def execExtest (levels : BitVec 147) (s : State) : Out :=
  .next (
    if s.scanOk then
      let s := s.setIr 0x21
      { s with pins := { s.pins with bscan := levels.toNat } }
    else s.setIr 0xFF)

end Sys2Proof.Machine
end

