-- ==== Sys2Proof/Machine/Payment.lean ====
section
/-!
DEFINITION. What the plans of the standard bundle compute (R264 to R270): PIN blocks, DUKPT keys, card and PIN verification
values, EMV cryptograms and MACs, each with its error word, its output and its result. The named schemes are those of ISO 9564-1,
ANSI X9.24-1 and X9.24-3, the IBM 3624 offset, the Visa PVV, the CVV and EMV (PRESUMED, log 8).
-/
namespace Sys2Proof.Machine.Payment

/-! ### Digits -/

/-- The nibbles of a string, the high one first. -/
def nibs (b : Bytes) : List Nat := b.flatMap fun x => [x.toNat / 16, x.toNat % 16]

/-- The string of a list of nibbles, filled with a zero nibble where their number is odd. -/
def ofNibs : List Nat → Bytes
  | [] => []
  | [a] => [BitVec.ofNat 8 (16 * (a % 16))]
  | a :: b :: t => BitVec.ofNat 8 (16 * (a % 16) + b % 16) :: ofNibs t

/-- Every nibble is a decimal digit. -/
def decimal (l : List Nat) : Bool := l.all fun d => decide (d ≤ 9)

/-- `n` digits, then unused nibbles 0xF (R269). -/
def padded (l : List Nat) (n : Nat) : Bool := decimal (l.take n) && (l.drop n).all fun d => d == 15

/-- `n` nibbles from a list, filled at the end. -/
def fill (n d : Nat) (l : List Nat) : List Nat := l.take n ++ List.replicate (n - l.length) d

/-! ### The parameter block (R264) -/

/-- PAN_LEN. -/
def panLen (p : Bytes) : Nat := (byteAt p 14).toNat

/-- The PAN digits. -/
def pan (p : Bytes) : List Nat := (nibs (slice p 32 10)).take (panLen p)

/-- The PAN obeys error bit 3. -/
def panOk (p : Bytes) : Bool := decide (12 ≤ panLen p) && decide (panLen p ≤ 19) && padded (nibs (slice p 32 10)) (panLen p)

/-- The rightmost `n` PAN digits without the check digit, zeros before them where there are fewer. -/
def panTail (p : Bytes) (n : Nat) : List Nat := (fill n 0 (pan p).dropLast.reverse).reverse

/-! ### PIN blocks (R270) -/

/-- The PAN field of a format. -/
def panField (fmt : Nat) (p : Bytes) : Bytes :=
  if fmt = 4 then ofNibs (fill 32 0 ((panLen p - 12) :: pan p))
  else if fmt = 1 then List.replicate 8 0
  else ofNibs ([0, 0, 0, 0] ++ panTail p 12)

/-- A PIN field taken apart: control nibble, length, digits and fill. -/
structure Pin where
  control : Nat
  len : Nat
  digits : List Nat
  fill : List Nat

/-- The parts of a PIN field; its first eight bytes hold them in every format. -/
def pinOf (field : Bytes) : Pin :=
  let l := nibs (fit 8 field)
  { control := l.getD 0 0, len := l.getD 1 0, digits := (l.drop 2).take (l.getD 1 0), fill := (l.drop 2).drop (l.getD 1 0) }

/-- The error bits 5 to 8 that a PIN field sets for a format (R266). -/
def pinFaults (fmt : Nat) (x : Pin) : List (Nat × Bool) :=
  [(5, x.control != fmt), (6, !(decide (4 ≤ x.len) && decide (x.len ≤ 12))), (7, !decimal x.digits),
   (8, !(if fmt = 0 then x.fill.all (· == 15) else if fmt = 3 then x.fill.all (fun d => decide (10 ≤ d))
     else if fmt = 4 then x.fill.all (· == 10) else true))]

/-- A PIN field of a format from digits and the plan's random bytes. -/
def pinField (fmt : Nat) (digits : List Nat) (rnd : Bytes) : Bytes :=
  let head := [fmt, digits.length] ++ digits
  let n := 16 - head.length
  if fmt = 4 then ofNibs (fill 16 10 head) ++ fit 8 rnd
  else if fmt = 1 then ofNibs (head ++ (List.range n).map fun i => Config.fillDigit rnd i % 16)
  else if fmt = 3 then ofNibs (head ++ (List.range n).map fun i => 10 + Config.fillDigit rnd i % 6)
  else ofNibs (fill 16 15 head)

/-- A PIN field from an encrypted block: double encipherment for format 4. -/
def openPin (fmt : Nat) (key block p : Bytes) : Bytes :=
  if fmt = 4 then Aes.dec key (xorB (Aes.dec key (fit 16 block)) (panField 4 p))
  else xorB (Des.dec key (fit 8 block)) (panField fmt p)

/-- An encrypted block from a PIN field. -/
def closePin (fmt : Nat) (key field p : Bytes) : Bytes :=
  if fmt = 4 then Aes.enc key (xorB (Aes.enc key field) (panField 4 p)) else Des.enc key (xorB field (panField fmt p))

/-! ### DUKPT -/

/-- The algorithm indicator of an AES key length (X9.24-3). -/
def aesCode (len : Nat) : Nat := if len = 16 then 2 else if len = 24 then 3 else 4

/-- Derivation data of X9.24-3: usage, algorithm and length of the derived key, and its last eight bytes. -/
def derivationData (usage len : Nat) (tail : Bytes) : Bytes :=
  [1, 1] ++ beBytes 2 usage ++ beBytes 2 (aesCode len) ++ beBytes 2 (8 * len) ++ tail

/-- A derived key of `len` bytes: one block for each value of the key block counter. -/
def derive (key data : Bytes) (len : Nat) : Bytes :=
  ((List.range ((len + 15) / 16)).flatMap fun i => Aes.enc key (patch data 1 [BitVec.ofNat 8 (i + 1)])).take len

/-- The initial key of a terminal (X9.24-3): KEY_ID bytes 0 to 7 under the BDK. -/
def initialKey (bdk keyId : Bytes) : Bytes := derive bdk (derivationData 0x8001 bdk.length (slice keyId 0 8)) bdk.length

/-- The working counters of a transaction counter of `w` bits, from its highest one bit down. -/
def workCounters (w ctr : Nat) : List Nat :=
  let ones := (List.range w).reverse.filter fun i => ctr.testBit i
  (List.range ones.length).map fun k => ((ones.take (k + 1)).map fun i => 2 ^ i).sum

/-- The derivation key of a transaction. -/
def aesTxKey (ik keyId : Bytes) : Bytes :=
  (workCounters 32 (beAt keyId 8 4)).foldl (fun k c =>
    derive k (derivationData 0x8000 ik.length (slice keyId 4 4 ++ beBytes 4 c)) ik.length) ik

/-- A working key of a transaction: its usage and length. -/
def aesWorkKey (ik keyId : Bytes) (usage len : Nat) : Bytes :=
  derive (aesTxKey ik keyId) (derivationData usage len (slice keyId 4 4 ++ slice keyId 8 4)) len

/-- The mask of X9.24-1 that makes the second key of each step. -/
def c0Mask : Bytes := [0xC0, 0xC0, 0xC0, 0xC0, 0, 0, 0, 0]

/-- The initial key of a TDES terminal: the KSN's first eight bytes with the counter cleared, under the BDK. -/
def ipek (bdk ksn : Bytes) : Bytes :=
  let m := fit 7 ksn ++ [byteAt ksn 7 &&& 0xE0]
  Des.enc bdk m ++ Des.enc (xorB (fit 16 bdk) (c0Mask ++ c0Mask)) m

/-- One step of the non-reversible key generation of X9.24-1. -/
def tdesStep (key r : Bytes) : Bytes :=
  let half (k : Bytes) : Bytes := let x := xorB r (slice k 8 8); xorB (Des.enc1 (slice k 0 8) x) (slice k 8 8)
  half (xorB key (c0Mask ++ c0Mask)) ++ half key

/-- The PIN key of a TDES DUKPT transaction, from the 10-byte KSN. -/
def tdesPinKey (bdk ksn : Bytes) : Bytes :=
  let ctr := beAt ksn 7 3 % 2 ^ 21
  let base := beAt ksn 2 8 / 2 ^ 21 * 2 ^ 21
  let k := (workCounters 21 ctr).foldl (fun k c => tdesStep k (beBytes 8 (base + c))) (ipek bdk ksn)
  xorB k [0, 0, 0, 0, 0, 0, 0, 0xFF, 0, 0, 0, 0, 0, 0, 0, 0xFF]

/-! ### Verification values -/

/-- The nibbles of a cipher block that are decimal, then the others less 10 (CVV and PVV). -/
def decimalFirst (b : Bytes) : List Nat :=
  let l := nibs b
  l.filter (fun d => decide (d ≤ 9)) ++ (l.filter fun d => decide (10 ≤ d)).map fun d => d - 10

/-- The four digits of a PVV. -/
def pvv (key p : Bytes) (pvki : Nat) (pin : List Nat) : List Nat :=
  (decimalFirst (Des.enc key (ofNibs (panTail p 11 ++ [pvki] ++ fill 4 0 pin)))).take 4

/-- The natural PIN digits of an IBM 3624 check: validation data under the key, decimalised by a table of 16 digits. -/
def naturalPin (key data : Bytes) (table : List Nat) : List Nat := (nibs (Des.enc key data)).map fun d => table.getD d 0

/-- The CVV digits of a card: PAN, expiry and service code under a two-key bundle. -/
def cvv (key p : Bytes) (expiry service : List Nat) : List Nat :=
  let m := ofNibs (fill 32 0 (pan p ++ expiry ++ service))
  decimalFirst (Des.enc key (xorB (Des.enc1 (slice key 0 8) (slice m 0 8)) (slice m 8 8)))

/-- The EMV card master key: the last 16 digits of PAN and PSN under the issuer master key (option A). -/
def cardKey (imk p : Bytes) : Bytes :=
  let y := ofNibs ((fill 16 0 (pan p ++ nibs (slice p 15 1)).reverse).reverse)
  (Des.enc imk y ++ Des.enc imk (xorB y (List.replicate 8 0xFF))).map Des.oddParity

/-- The EMV common session key of an ATC. -/
def sessionKey (mk atc : Bytes) : Bytes :=
  (Des.enc mk (atc ++ [0xF0, 0, 0, 0, 0, 0]) ++ Des.enc mk (atc ++ [0x0F, 0, 0, 0, 0, 0])).map Des.oddParity

/-! ### Plans (R268) -/

/-- A transaction as its plan sees it: parameter block, data, random bytes, the keys of roles 0 and 1 and the route key (for AES
DUKPT the terminal's initial key). -/
structure Txn where
  p : Bytes
  data : Bytes := []
  rnd : Bytes := []
  k0 : KeyCopy := {}
  k1 : KeyCopy := {}
  kr : KeyCopy := {}

/-- What a plan ends with: the error word, the slot of error bit 2, the offset of error bit 10, the output and RESULT bytes 4 to
11. -/
structure End where
  err : BitVec 32 := 0
  slot : Nat := 0
  off : Nat := 0
  out : Bytes := []
  result : Bytes := []

/-- The word with the bits of a list that are set. -/
def errOf (l : List (Nat × Bool)) : BitVec 32 := l.foldl (fun w e => if e.2 then w ||| BitVec.ofNat 32 (2 ^ e.1) else w) 0

/-- Key bytes of a copy: KLEN bytes of material. -/
def keyOf (k : KeyCopy) : Bytes := k.material.take (aKlen k.attr)

/-- A key suits a TDES or an AES path: for AES a single key, not a packed set (DEDUCED, log 33). -/
def suits (alg : Char) (k : KeyCopy) : Bool := aAlg k.attr == ch alg && (alg != 'A' || aSub k.attr == 1)

/-- The algorithm that a format needs. -/
def fmtAlg (fmt : Nat) : Char := if fmt = 4 then 'A' else 'T'

/-- The first key of a list that does not suit: error bit 2 with its slot. -/
def keyFault (l : List (KeyCopy × Bool)) : Bool × Nat :=
  match l.find? fun e => !e.2 with
  | some e => (true, e.1.slot)
  | none => (false, 0)

/-- The first nonzero byte that a plan does not use: `used` lists the ranges it uses. -/
def unusedByte (used : List (Nat × Nat)) (p : Bytes) : Option Nat :=
  (List.range 80).find? fun i => byteAt p i != 0 && !used.any fun u => decide (u.1 ≤ i) && decide (i < u.1 + u.2)

/-- The end of a plan from its checks, its keys' fitness and its used bytes. -/
def ending (p : Bytes) (used : List (Nat × Nat)) (keys : List (KeyCopy × Bool)) (faults : List (Nat × Bool))
    (out result : Bytes) : End :=
  let u := unusedByte used p
  let k := keyFault keys
  { err := errOf (faults ++ [(2, k.1), (10, u.isSome)]), slot := k.2, off := u.getD 0, out := out, result := fit 8 result }

/-- The verdict byte: 0 for a match, 1 for a mismatch (R268). -/
def verdictByte (ok : Bool) : Bytes := [if ok then 0 else 1]

/-- FMT_IN, FMT_OUT. -/
def fmtIn (p : Bytes) : Nat := (byteAt p 12).toNat
/-- FMT_OUT. -/
def fmtOut (p : Bytes) : Nat := (byteAt p 13).toNat

/-- Bytes of PIN_BLOCK that a format uses (R264). -/
def pinUse (fmt : Nat) : Nat × Nat := (16, if fmt = 4 then 16 else 8)

/-- A translation is barred: a format that binds the PAN to format 1 (R270). -/
def barred (i o : Nat) : Bool := o == 1 && i != 1

/-- A PIN translation: accepted formats, extra faults and used bytes, the key of the input block. -/
def translate (t : Txn) (ins outs : List Nat) (ksn : List (Nat × Nat)) (faults : List (Nat × Bool)) (keys : List (KeyCopy × Bool))
    (inKey : Bytes) (kOut : KeyCopy) : End :=
  let p := t.p
  let i := fmtIn p
  let o := fmtOut p
  let x := pinOf (openPin i inKey (slice p 16 16) p)
  ending p (ksn ++ [(12, 3), pinUse i, (32, 10)]) keys
    ([(0, !ins.contains i), (1, !outs.contains o || barred i o), (3, !panOk p)] ++ faults ++ pinFaults i x)
    (closePin o (keyOf kOut) (pinField o x.digits t.rnd) p) []

/-- The AES counter breaks error bit 4: 0, or more than 16 one bits. -/
def aesCounterBad (p : Bytes) : Bool :=
  let c := beAt p 8 4
  c == 0 || decide (16 < (workCounters 32 c).length)

/-- The TDES counter breaks error bit 4: more than 10 one bits. -/
def tdesCounterBad (p : Bytes) : Bool := decide (10 < (workCounters 21 (beAt p 7 3 % 2 ^ 21)).length)

/-- 0x0010: zone key to zone key. -/
def xlateZone (t : Txn) : End :=
  translate t [0, 1, 3, 4] [0, 1, 3, 4] [] []
    [(t.k0, suits (fmtAlg (fmtIn t.p)) t.k0), (t.k1, suits (fmtAlg (fmtOut t.p)) t.k1)] (keyOf t.k0) t.k1

/-- 0x0011 and 0x0012: AES DUKPT to a zone key of ALG 'A' or 'T'. -/
def xlateAes (t : Txn) (outs : List Nat) : End :=
  let ik := keyOf t.kr
  translate t [4] outs [(0, 12)] [(4, aesCounterBad t.p)]
    [(t.k0, suits (fmtAlg (outs.headD 4)) t.k0), (t.kr, suits 'A' t.kr)] (aesWorkKey ik t.p 0x1000 ik.length) t.k0

/-- 0x0013: TDES DUKPT to a zone key. -/
def xlateTdes (t : Txn) : End :=
  translate t [0, 1, 3] [0, 1, 3, 4] [(0, 10)] [(4, tdesCounterBad t.p)]
    [(t.k0, suits (fmtAlg (fmtOut t.p)) t.k0), (t.kr, suits 'T' t.kr && aSub t.kr.attr == 2)] (tdesPinKey (keyOf t.kr) t.p) t.k0

/-- 0x0020: IBM 3624 offset. -/
def verifyOffset (t : Txn) : End :=
  let p := t.p
  let i := fmtIn p
  let x := pinOf (openPin i (keyOf t.k0) (slice p 16 16) p)
  let table := nibs (slice p 56 8)
  let off := nibs (slice p 64 6)
  let n := (byteAt p 70).toNat
  let nat := naturalPin (keyOf t.k1) (slice p 48 8) table
  let want := (List.range n).map fun k => (nat.getD k 0 + off.getD k 0) % 10
  let got := if x.digits.length = n ∨ Config.offsetLeading then x.digits.take n else x.digits.drop (x.digits.length - n)
  ending p [(12, 1), (14, 1), pinUse i, (32, 10), (48, 23)]
    [(t.k0, suits (fmtAlg i) t.k0), (t.k1, suits 'T' t.k1)]
    ([(0, !(decide (i ∈ [0, 1, 3, 4]))), (3, !panOk p),
      (9, !(decimal table && padded off n && decide (4 ≤ n) && decide (n ≤ 12) && decide (n ≤ x.len)))] ++ pinFaults i x)
    [] (verdictByte (want == got))

/-- 0x0021: Visa PVV. -/
def verifyPvv (t : Txn) : End :=
  let p := t.p
  let i := fmtIn p
  let x := pinOf (openPin i (keyOf t.k0) (slice p 16 16) p)
  let pvki := (byteAt p 48).toNat
  let want := nibs (slice p 49 2)
  ending p [(12, 1), (14, 1), pinUse i, (32, 10), (48, 3)]
    [(t.k0, suits (fmtAlg i) t.k0), (t.k1, suits 'T' t.k1)]
    ([(0, !(decide (i ∈ [0, 1, 3, 4]))), (3, !panOk p), (9, !(decide (pvki ≤ 6) && decimal want))] ++ pinFaults i x)
    [] (verdictByte (pvv (keyOf t.k1) p pvki x.digits == want))

/-- 0x0030 and 0x0031: the CVV. -/
def cvvPlan (t : Txn) (verify : Bool) : End :=
  let p := t.p
  let expiry := nibs (slice p 48 2)
  let service := nibs (slice p 50 2)
  let n := (byteAt p 52).toNat
  let value := (cvv (keyOf t.k0) p expiry (service.take 3)).take n
  let want := nibs (slice p 53 3)
  ending p ([(14, 1), (32, 10), (48, 5)] ++ (if verify then [(53, 3)] else []))
    [(t.k0, suits 'T' t.k0 && aSub t.k0.attr == 2)]
    [(3, !panOk p), (9, !(decimal expiry && padded service 3 && decide (3 ≤ n) && decide (n ≤ 5) && (!verify || padded want n)))]
    [] (if verify then verdictByte (value == want.take n) else value.map fun d => BitVec.ofNat 8 (48 + d))

/-- 0x0040 and 0x0041: the ARQC, and the ARPC where `arpc`. -/
def arqcPlan (t : Txn) (arpc : Bool) : End :=
  let p := t.p
  let arqc := slice p 48 8
  let method := (byteAt p 62).toNat
  let how := (byteAt p 63).toNat
  let mk := cardKey (keyOf t.k0) p
  let sk := if how = 0 then sessionKey mk (slice p 64 2) else mk
  let out := if method = 1 then Des.enc sk (xorB arqc (slice p 56 2 ++ [0, 0, 0, 0, 0, 0]))
    else (Modes.mac3 sk (Modes.pad 0 8 (arqc ++ slice p 58 4))).take 4
  ending p ([(14, 2), (32, 10), (48, 8), (62, 4)] ++ (if arpc then [(56, 6)] else []))
    [(t.k0, suits 'T' t.k0 && aSub t.k0.attr == 2)]
    [(3, !panOk p), (9, !(decide (how ≤ 1) && (if arpc then method == 1 || method == 2 else method == 0)))]
    (if arpc then out else []) (verdictByte (Modes.mac3 sk (Modes.pad 0 8 t.data) == arqc))

/-- 0x0050 to 0x0053: retail MAC or CMAC of the data, generated or verified. -/
def macPlan (t : Txn) (aes verify : Bool) : End :=
  let p := t.p
  let n := (byteAt p 48).toNat
  let padding := (byteAt p 49).toNat
  let mac := if aes then Modes.aesCmac (keyOf t.k0) t.data else Modes.mac3 (keyOf t.k0) (Modes.pad padding 8 t.data)
  ending p ([(48, if aes then 1 else 2)] ++ (if verify then [(56, 8)] else []))
    [(t.k0, suits (if aes then 'A' else 'T') t.k0 && (aes || aSub t.k0.attr == 2))]
    [(9, !(decide (4 ≤ n) && decide (n ≤ 8) && (aes || padding == 0 || padding == 3)))]
    [] (if verify then verdictByte (mac.take n == (slice p 56 8).take n) else mac.take n)

/-- Every byte has odd parity. -/
def parityOk (k : Bytes) : Bool := k.all fun b => Des.oddParity b == b

/-- 0x0060: a TDES key from one key-encryption key to another. -/
def keyXlate (t : Txn) : End :=
  let p := t.p
  let n := (byteAt p 72).toNat
  let key := Modes.ecb (Des.dec (keyOf t.k0)) 8 (slice p 48 n)
  ending p [(48, 25)] [(t.k0, suits 'T' t.k0), (t.k1, suits 'T' t.k1)]
    [(9, !(n == 16 || n == 24)), (11, !(parityOk key && (n == 16 || n == 24)))]
    (Modes.ecb (Des.enc (keyOf t.k1)) 8 key) (kcvOf (ch 'T') (n / 8) key)

/-- 0x0070: an AES DUKPT working key, wrapped. -/
def dukptDerive (t : Txn) : End :=
  let p := t.p
  let usage := beAt p 48 2
  let alg := beAt p 50 2
  let key := aesWorkKey (keyOf t.kr) p usage (if alg = 2 then 16 else 32)
  ending p [(0, 12), (48, 4)] [(t.k0, suits 'A' t.k0), (t.kr, suits 'A' t.kr)]
    [(4, aesCounterBad p),
     (9, !([0x2000, 0x2001, 0x2002, 0x3000, 0x3001, 0x3002].contains usage && (alg == 2 || alg == 4)))]
    (Modes.kwWrap (Aes.enc (keyOf t.k0)) key) (kcvOf (ch 'A') 1 key)

/-- The end of a standard plan; none for an ID that the bundle leaves unused (R268). -/
def run (plan : Nat) (t : Txn) : Option End :=
  if plan = 0x10 then some (xlateZone t)
  else if plan = 0x11 then some (xlateAes t [4])
  else if plan = 0x12 then some (xlateAes t [0, 3])
  else if plan = 0x13 then some (xlateTdes t)
  else if plan = 0x20 then some (verifyOffset t)
  else if plan = 0x21 then some (verifyPvv t)
  else if plan = 0x30 then some (cvvPlan t false)
  else if plan = 0x31 then some (cvvPlan t true)
  else if plan = 0x40 then some (arqcPlan t false)
  else if plan = 0x41 then some (arqcPlan t true)
  else if plan = 0x50 then some (macPlan t false false)
  else if plan = 0x51 then some (macPlan t false true)
  else if plan = 0x52 then some (macPlan t true false)
  else if plan = 0x53 then some (macPlan t true true)
  else if plan = 0x60 then some (keyXlate t)
  else if plan = 0x70 then some (dukptDerive t)
  else none

/-! ### The standard bundle's table (R268) -/

/-- What a key role admits: classes, usages (empty for any), algorithms, and the modes for generation or encryption and for
verification or decryption, 0 where it has none (R271). -/
structure Role where
  classes : List Nat
  uses : List Nat
  algs : List Nat
  enc : Nat
  dec : Nat

/-- A key's attributes fit a role; a mode of 'B' or 'C' also passes (R271). -/
def Role.fits (r : Role) (a : BitVec 128) : Bool :=
  r.classes.contains (aClass a) && (r.uses.isEmpty || r.uses.contains (aUsage a)) && r.algs.contains (aAlg a) &&
    (aMode a == ch 'B' || aMode a == ch 'C' ||
      ((r.enc == 0 || r.enc == aMode a) && (r.dec == 0 || r.dec == aMode a) && (r.enc != 0 || r.dec != 0)))

/-- How a plan is run: parameter length, data maximum, maximum output, random bytes, route (0 none, 1 AES, 2 TDES), key roles and
slots. -/
structure Info where
  paramLen : Nat := 80
  dlenMax : Nat := 0
  outMax : Nat := 0
  rnd : Nat := 0
  route : Nat := 0
  roles : List Role := []
  slots : Nat := 1

/-- A role for a MAC-class key of one usage. -/
def macRole (use : Nat) (algs : List Nat) (gen ver : Char) : Role :=
  { classes := [4], uses := [use], algs := algs, enc := if gen = ' ' then 0 else ch gen, dec := if ver = ' ' then 0 else ch ver }

/-- Both cipher algorithms. -/
def both : List Nat := [ch 'A', ch 'T']

/-- A zone PIN key that encrypts. -/
def zpkOut (algs : List Nat) : Role := { classes := [3], uses := [use2 'P' '0'], algs := algs, enc := ch 'E', dec := 0 }

/-- A PIN key that decrypts. -/
def pinIn : Role := { classes := [2, 3], uses := [use2 'P' '0'], algs := both, enc := 0, dec := ch 'D' }

/-- A key-encryption key. -/
def kekRole (classes : List Nat) (algs : List Nat) (enc dec : Nat) : Role :=
  { classes := classes, uses := classes.map fun c => if c = 7 then use2 'K' '0' else use2 'K' '1', algs := algs, enc := enc, dec := dec }

/-- The rows of R268. -/
def info (plan : Nat) : Option Info :=
  let t := [ch 'T']
  let a := [ch 'A']
  if plan = 0x10 then some { outMax := 16, rnd := 8, roles := [pinIn, zpkOut both], slots := 16 }
  else if plan = 0x11 then some { outMax := 16, rnd := 8, route := 1, roles := [zpkOut a], slots := 40 }
  else if plan = 0x12 then some { outMax := 8, rnd := 8, route := 1, roles := [zpkOut t], slots := 40 }
  else if plan = 0x13 then some { outMax := 16, rnd := 8, route := 2, roles := [zpkOut both], slots := 28 }
  else if plan = 0x20 then some { roles := [pinIn, macRole (use2 'V' '1') both ' ' 'V'], slots := 12 }
  else if plan = 0x21 then some { roles := [pinIn, macRole (use2 'V' '2') both ' ' 'V'], slots := 12 }
  else if plan = 0x30 then some { roles := [macRole (use2 'C' '0') t 'G' ' '], slots := 8 }
  else if plan = 0x31 then some { roles := [macRole (use2 'C' '0') t ' ' 'V'], slots := 8 }
  else if plan = 0x40 then some { dlenMax := 256, roles := [macRole (use2 'E' '0') both 'X' ' '], slots := 40 }
  else if plan = 0x41 then some { dlenMax := 256, outMax := 8, rnd := 8, roles := [macRole (use2 'E' '0') both 'X' ' '], slots := 42 }
  else if plan = 0x50 then some { dlenMax := 512, roles := [macRole (use2 'M' '3') t 'G' ' '], slots := 68 }
  else if plan = 0x51 then some { dlenMax := 512, roles := [macRole (use2 'M' '3') t ' ' 'V'], slots := 68 }
  else if plan = 0x52 then some { dlenMax := 512, roles := [macRole (use2 'M' '6') a 'G' ' '], slots := 36 }
  else if plan = 0x53 then some { dlenMax := 512, roles := [macRole (use2 'M' '6') a ' ' 'V'], slots := 36 }
  else if plan = 0x60 then some { outMax := 24, roles := [kekRole [7] both 0 (ch 'D'), kekRole [7, 6] both (ch 'E') 0], slots := 6 }
  else if plan = 0x70 then some { outMax := 40, rnd := 8, route := 1, roles := [kekRole [6] a (ch 'E') 0], slots := 52 }
  else none

end Sys2Proof.Machine.Payment
end

