-- ==== Sys2Proof/Machine/Plans.lean ====
section
/-!
DEFINITION. Transaction plans: recipes and their compilation into swages, the front stage of PLAN_RUN, the slots of a context,
FINAL, and the loading and removal of customer plans (R255 to R278).
-/
namespace Sys2Proof.Machine

open Payment (End Info Role Txn)

/-! ### Steps (R271, R272) -/

/-- A step entry. -/
structure Step where
  op : Nat
  dst : Nat
  a : Nat
  b : Nat
  c : Nat
  k : Nat
  imm : Nat

/-- The step of an eight-byte entry. -/
def stepOf (w : BitVec 64) : Step :=
  { op := bits w 7 0, dst := bits w 15 8, a := bits w 23 16, b := bits w 31 24, c := bits w 39 32, k := bits w 47 40,
    imm := bits w 63 48 }

/-- What a step reads or writes: a variable, a flag, a key register, the staged output, the staged result. -/
inductive Loc | v (n : Nat) | f (n : Nat) | k (n : Nat) | out | res
deriving DecidableEq

/-- The operations of R272. -/
def stepOps : List Nat :=
  [0x01, 0x02, 0x03, 0x04, 0x10, 0x11, 0x12, 0x13, 0x14, 0x15, 0x16, 0x17, 0x20, 0x21, 0x22, 0x23, 0x24, 0x25, 0x28, 0x29,
   0x2A, 0x2B, 0x2C, 0x2D, 0x30, 0x31, 0x38, 0x39, 0x3A, 0x3B]

/-- What a step reads. -/
def Step.reads (x : Step) : List Loc :=
  let o := x.op
  if 0x10 ≤ o ∧ o ≤ 0x16 then [.v x.a, .k x.k]
  else if o = 0x17 then [.v x.a, .v x.b, .v x.c]
  else if o = 0x20 ∨ o = 0x21 ∨ o = 0x22 ∨ o = 0x2A ∨ o = 0x2C ∨ o = 0x2D ∨ o = 0x31 then [.v x.a, .v x.b]
  else if o = 0x24 then [.v x.a, .v x.b, .f x.k]
  else if o = 0x25 then [.k x.a, .k x.b, .f x.k]
  else if o = 0x23 ∨ o = 0x29 ∨ o = 0x30 ∨ o = 0x38 ∨ o = 0x39 then [.v x.a]
  else if o = 0x3A then [.f x.k]
  else if o = 0x3B then [.k x.k]
  else []

/-- What a step writes. -/
def Step.writes (x : Step) : List Loc :=
  let o := x.op
  if o = 0x02 ∨ o = 0x2B then [.v x.dst, .f x.k]
  else if o = 0x15 ∨ o = 0x16 ∨ o = 0x25 then [.k x.dst]
  else if o = 0x30 then []
  else if o = 0x31 then [.f x.k]
  else if o = 0x38 then [.out]
  else if o = 0x39 ∨ o = 0x3A then [.res]
  else [.v x.dst]

/-- A variable, flag or key register exists (R258). -/
def Loc.exists? : Loc → Bool
  | .v n => decide (n < 32)
  | .f n => decide (n < 16)
  | .k n => decide (n < 8)
  | .out => true
  | .res => true

/-- The units a step takes: AES cores, TDES cores, hash core; none for an ALU step. A check value may need either cipher
(DEDUCED, log 34). -/
def Step.units (x : Step) : Nat × Nat × Nat :=
  let o := x.op
  if o = 0x10 ∨ o = 0x11 then (1, 0, 0)
  else if o = 0x15 then ((x.imm + 15) / 16, 0, 0)
  else if o = 0x12 ∨ o = 0x13 ∨ o = 0x14 ∨ o = 0x16 then (0, 1, 0)
  else if o = 0x17 then (0, 0, 1)
  else if o = 0x3B then (1, 1, 0)
  else (0, 0, 0)

/-- A step of the ALU, carried out in phase A (R257). -/
def Step.alu (x : Step) : Bool := x.units == (0, 0, 0)

/-! ### Refusals of a recipe (R271, R273) -/

/-- The role entries of a recipe as R271 lays them out. -/
def roleOf (w : BitVec 64) : Role :=
  { classes := (List.range 16).filter fun c => w.getLsbD c
    uses := if bits w 47 32 = 0 then [] else [256 * bits w 39 32 + bits w 47 40]
    algs := (if w.getLsbD 16 then [ch 'A'] else []) ++ (if w.getLsbD 17 then [ch 'T'] else []) ++ (if w.getLsbD 18 then [ch 'H'] else [])
    enc := bits w 55 48
    dec := bits w 63 56 }

/-- A key role serves MAC or derivation keys only: such a key enciphers and deciphers inside its own function whichever of the two it does,
generation or verification (R155, R273; DEDUCED, log 34). -/
def roleFree (r : Role) : Bool := r.classes.all fun c => c == 1 || c == 4

/-- A step may use the key of a role as it does (R273): the role admits the algorithm, and a mode for the direction. -/
def roleAdmits (x : Step) (w : BitVec 64) : Bool :=
  let o := x.op
  let r := roleOf w
  r.algs.contains (if o = 0x10 ∨ o = 0x11 ∨ o = 0x15 then ch 'A' else ch 'T') &&
    (if roleFree r then r.enc != 0 || r.dec != 0 else if o = 0x11 ∨ o = 0x13 then r.dec != 0 else r.enc != 0)

/-- A step uses its key register as every role admits whose key may stand there (R273). -/
def roleUse (roles : List (BitVec 64)) (origin : List (Nat × List Nat)) (x : Step) : Bool :=
  if x.op < 0x10 ∨ 0x16 < x.op then true
  else (tget [] origin x.k).all fun i => roleAdmits x (roles.getD i 0)

/-- The roles whose keys may stand in each key register after a step: KSELECT copies, a derivation makes a new key (R272). -/
def Step.origin (x : Step) (t : List (Nat × List Nat)) : List (Nat × List Nat) :=
  if x.op = 0x25 then tset [] x.dst (tget [] t x.a ++ tget [] t x.b) t
  else if x.op = 0x15 ∨ x.op = 0x16 then tset [] x.dst [] t
  else t

/-- A CHECK step declares a bit it may set, with its offset (R272, R273). -/
def checkOk (x : Step) : Bool :=
  x.op != 0x30 || (x.imm / 32 % 8 == 0 && (if x.imm % 32 < 12 then x.imm / 256 == 0 else decide (16 ≤ x.imm % 32)))

/-- A CHECK step declares for its bit the offset that every other CHECK step of that bit declares (R273). -/
def checkAgrees (seen : List Step) (x : Step) : Bool :=
  x.op != 0x30 || seen.all fun y => y.op != 0x30 || x.imm % 32 != y.imm % 32 || x.imm / 256 == y.imm / 256

/-- The SECRET tag that a step gives its result, from the variables that are SECRET (R272). -/
def Step.secret (x : Step) (tags : List Nat) : Bool :=
  let o := x.op
  let t (n : Nat) : Bool := tags.contains n
  if o = 0x03 ∨ o = 0x11 ∨ o = 0x13 ∨ o = 0x29 ∨ o = 0x2A then true
  else if o = 0x17 then t x.a || t x.b || t x.c
  else if o = 0x20 ∨ o = 0x21 ∨ o = 0x22 ∨ o = 0x24 ∨ o = 0x2C ∨ o = 0x2D then t x.a || t x.b
  else if o = 0x23 then t x.a
  else false

/-- Why a recipe is refused (R273, R275). -/
inductive Refused
  /-- a field breaks R271 -/
  | field
  /-- an operation is reserved, or names what does not exist -/
  | operation
  /-- a key role is used in a way that its entry does not admit -/
  | role
  /-- a step reads what no earlier step has written -/
  | unwritten
  /-- an OUT or RESULT source could be SECRET -/
  | secret
  /-- CHECK steps of one bit declare different offsets -/
  | check
  /-- the schedule needs more than 256 slots -/
  | slots
  /-- the signature is bad -/
  | signature
  /-- the plan ID is one of the standard bundle -/
  | planId
deriving DecidableEq, Repr

/-- The number of a reason in the record (DESIGN CHOICE, log 6). -/
def Refused.code : Refused → Nat
  | .field => 1
  | .operation => 2
  | .role => 3
  | .unwritten => 4
  | .secret => 5
  | .check => 6
  | .slots => 7
  | .signature => 8
  | .planId => 9

/-- What the compiler knows before a step: what has been written, the SECRET variables, the roles behind each key register, the steps
before. -/
structure Known where
  /-- written by the front stage or an earlier step -/
  locs : List Loc
  /-- SECRET variables -/
  tags : List Nat
  /-- roles whose keys may stand in a key register -/
  origin : List (Nat × List Nat)
  /-- earlier steps -/
  seen : List Step

/-- Why a step is refused (R271 to R273). -/
def microFault (roles : List (BitVec 64)) (w : Known) (x : Step) : Option Refused :=
  if ¬ stepOps.contains x.op ∨ ¬ (x.reads ++ x.writes).all Loc.exists? ∨ ¬ checkOk x ∨
      (x.op = 0x15 ∧ x.imm ≠ 16 ∧ x.imm ≠ 24 ∧ x.imm ≠ 32) then some .operation
  else if ¬ x.reads.all (fun l => w.locs.contains l) then some .unwritten
  else if ¬ roleUse roles w.origin x then some .role
  else if (x.op = 0x38 ∨ x.op = 0x39) ∧ w.tags.contains x.a then some .secret
  else if ¬ checkAgrees w.seen x then some .check
  else none

/-- What the compiler knows after a step. -/
def Known.after (w : Known) (x : Step) : Known :=
  { locs := x.writes ++ w.locs
    tags := if x.writes.contains (.v x.dst) then
        (if x.secret w.tags then x.dst :: w.tags else w.tags.filter fun n => n != x.dst) else w.tags
    origin := x.origin w.origin
    seen := x :: w.seen }

/-- The first step that is refused: its number and the reason. -/
def flowFault (roles : List (BitVec 64)) : Nat → List Step → Known → Option (Nat × Refused)
  | _, [], _ => none
  | i, x :: t, w =>
    match microFault roles w x with
    | some f => some (i, f)
    | none => flowFault roles (i + 1) t (w.after x)

/-- The first field of a recipe that breaks R271, by its offset. -/
def fieldFault (r : Bytes) : Option Nat :=
  let roles := (byteAt r 5).toNat
  let steps := leAt r 12 2
  let rnd := (byteAt r 23).toNat
  let tests : List (Nat × Bool) :=
    [(0, r.take 4 != ascii "ZYRC"), (4, byteAt r 4 != 1), (5, decide (4 < roles)), (6, decide (1023 < leAt r 6 2)),
      (12, steps == 0 || decide (1024 < steps)), (14, decide (leAt r 14 2 < 8) || decide (4096 < leAt r 14 2) || leAt r 14 2 % 8 != 0),
      (16, decide (4096 < leAt r 16 4)), (20, decide (256 < leAt r 20 2)), (22, decide (8 ≤ (byteAt r 22).toNat)),
      (23, decide (64 < rnd) || (!(byteAt r 22).getLsbD 0 && rnd != 0)),
      (24, leAt r 24 4 != r.length || r.length != 48 + 8 * roles + 8 * steps + 96)] ++
    ((List.range 20).map fun i => (28 + i, byteAt r (28 + i) != 0)) ++
    ((List.range roles).map fun i => (48 + 8 * i + 3, byteAt r (48 + 8 * i + 3) != 0))
  (tests.find? fun e => e.2).map (·.1)

/-- Key registers that the front stage fills: the roles, and k4 of a routed plan (R258). -/
def keysGiven (roles : Nat) (routed : Bool) : List Loc :=
  (List.range roles).map Loc.k ++ (if routed then [.k 4] else [])

/-! ### The schedule (R257, R274) -/

/-- The earliest slot that a step placed in slot `j` leaves to a later step: results of phase A reach phase B of the same slot,
results of phase B the next slot; what a step reads is not overwritten before. -/
def after (x : Step) (j : Nat) (y : Step) : Nat :=
  let needs := x.writes.any fun l => y.reads.contains l || y.writes.contains l
  let spoils := x.reads.any fun l => y.writes.contains l
  max (if needs then (if x.alu && !y.alu then j else j + 1) else 0) (if spoils then (if y.alu then j + 1 else j) else 0)

/-- The steps of slot `n` leave a unit for `y` (R255, R257). -/
def roomFor (placed : List (Step × Nat)) (y : Step) (n : Nat) : Bool :=
  let here := (placed.filter fun e => e.2 == n).map (·.1)
  let u := here.map Step.units
  if y.alu then !here.any Step.alu
  else
    let need := y.units
    decide ((u.map (·.1)).sum + need.1 ≤ 4) && decide ((u.map (·.2.1)).sum + need.2.1 ≤ 2) &&
      decide ((u.map (·.2.2)).sum + need.2.2 ≤ 1)

/-- The slot of the next step: the earliest that R257 and the units admit. -/
def slotFor (placed : List (Step × Nat)) (y : Step) : Option Nat :=
  let lo := (placed.map fun e => after e.1 e.2 y).foldl max 0
  (List.range 256).find? fun n => decide (lo ≤ n) && roomFor placed y n

/-- Place every step in order; the number of the step that 256 slots do not hold with FINAL (R273). -/
def schedule : List (BitVec 64) → List (Step × Nat) → List (BitVec 64 × Nat) → Except Nat (List (BitVec 64 × Nat))
  | [], _, out => .ok out.reverse
  | w :: t, placed, out =>
    match slotFor placed (stepOf w) with
    | some n => if n < 255 then schedule t (placed ++ [(stepOf w, n)]) ((w, n) :: out) else .error out.length
    | none => .error out.length

/-- The slots before FINAL. -/
def slotWords (l : List (BitVec 64 × Nat)) : List SlotWord :=
  (List.range ((l.map (·.2 + 1)).foldl max 0)).map fun n =>
    let here := (l.filter fun e => e.2 == n).map (·.1)
    { alu := here.find? fun w => (stepOf w).alu, units := here.filter fun w => !(stepOf w).alu }

/-- The words of eight bytes from an offset. -/
def wordsAt (r : Bytes) (o n : Nat) : List (BitVec 64) := (List.range n).map fun i => BitVec.ofNat 64 (leAt r (o + 8 * i) 8)

/-- The swage of a recipe, or the offset and the reason for which R273 refuses it. -/
def compile (r : Bytes) : Except (Nat × Refused) Swage :=
  match fieldFault r with
  | some o => .error (o, .field)
  | none =>
    let n := (byteAt r 5).toNat
    let roles := wordsAt r 48 n
    let words := wordsAt r (48 + 8 * n) (leAt r 12 2)
    let at_ (i : Nat) : Nat := 48 + 8 * n + 8 * i
    let routed := (byteAt r 22).getLsbD 1 || (byteAt r 22).getLsbD 2
    let start : Known :=
      { locs := keysGiven n routed, tags := [], origin := (List.range n).map fun i => (i, [i]), seen := [] }
    match flowFault roles 0 (words.map stepOf) start with
    | some (i, f) => .error (at_ i, f)
    | none =>
      match schedule words [] [] with
      | .error i => .error (at_ i, .slots)
      | .ok l =>
        .ok { version := BitVec.ofNat 32 (leAt r 8 4), header := BitVec.ofNat 384 (leAt r 0 48), roles := roles, slots := slotWords l }

/-- The record of a refused recipe: the recipe byte offset and the reason (R275; the event's code and the places of the two are open,
log 6). -/
def State.logRefusal (what off : Nat) (f : Refused) (s : State) : State :=
  s.logOpen 0x03 0xF2 what (leBytes 2 off ++ [BitVec.ofNat 8 f.code])

/-! ### Swages (R259, R268, R276) -/

/-- PLAN_ID of a swage's recipe. -/
def Swage.plan (w : Swage) : Nat := bits w.header 63 48

/-- How a plan is run: the table of R268 for a standard plan, the recipe's header otherwise. -/
def Swage.info (w : Swage) : Info :=
  match Payment.info w.plan with
  | some i => i
  | none =>
    { paramLen := bits w.header 127 112, dlenMax := bits w.header 159 128, outMax := bits w.header 175 160
      rnd := bits w.header 191 184, route := if w.header.getLsbD 177 then 1 else if w.header.getLsbD 178 then 2 else 0
      roles := w.roles.map roleOf, slots := w.slots.length + 1 }

/-- The swage installed under a plan ID. -/
def State.swageOf (s : State) (id : Nat) : Option Swage := (s.plan.swages.find? fun e => e.1 == id).map (·.2)

/-- Swages that are no longer installed and that a transaction still runs under, or will (R276). -/
def State.oldSwages (s : State) : List Swage :=
  (((s.engine.tasks.filter fun o => o.stage != .done).filterMap Op.recip ++ s.plan.ctxs.map (·.2.swage)).filter fun w => s.swageOf w.plan != some w).dedup

/-- Free slot words of the swage memory of each pipeline (R255, R276). -/
def State.swageFree (s : State) : Nat :=
  65536 - ((s.plan.swages.map fun e => e.2.info.slots).sum + (s.oldSwages.map fun w => w.info.slots).sum)

/-- Install a swage in every pipeline in one step (R276). -/
def State.install (w : Swage) (s : State) : State :=
  { s with plan := { s.plan with swages := tset {} w.plan w s.plan.swages } }

/-- Remove a swage from every pipeline in one step (R276). -/
def State.uninstall (id : Nat) (s : State) : State :=
  { s with plan := { s.plan with swages := tset {} id {} s.plan.swages } }

/-! ### The front stage (R262, R263) -/

/-- The pipeline of an operation. -/
def Op.pipeline (o : Op) : Nat := o.block - 8

/-- A key as the Rack sends it. -/
def copyOf (n : Nat) (x : Slot) : KeyCopy := { slot := n, attr := x.attr, material := leBytes 72 x.material.toNat }

/-- The roles of a plan with the slots that the descriptor names for them (R260). -/
def roleSlots (o : Op) (roles : List Role) : List (Role × Nat) :=
  roles.zip [o.keySlot, dAux o.desc % 65536, dAux o.desc / 2 ^ 16 % 65536, dAux o.desc / 2 ^ 32 % 65536]

/-- Check 6 for each role in order, each an access of its own (R262 step 3). -/
def State.loadRoles (o : Op) (k : List KeyCopy → State → State) : List (Role × Nat) → List KeyCopy → State → State
  | [], keys, s => k keys s
  | (r, n) :: t, keys, s =>
    s.rackAccess o n fun x s => if r.fits x.attr then State.loadRoles o k t (keys ++ [copyOf n x]) s else s.denyUsage o n

/-- The route key: CLASS BDK with the family's algorithm (R283). -/
def State.loadRoute (o : Op) (route : Nat) (slot : Option Nat) (k : Option KeyCopy → State → State) (s : State) : State :=
  match slot with
  | none => k none s
  | some n =>
    s.rackAccess o n fun x s =>
      if aClass x.attr = 1 ∧ aAlg x.attr = (if route = 2 then ch 'T' else ch 'A') then k (some (copyOf n x)) s else s.denyUsage o n

/-- A key register's content with other material of the same attributes. -/
def KeyCopy.withKey (k : KeyCopy) (key : Bytes) : KeyCopy := { k with material := fit 72 key }

/-- Step 4 of R262: the terminal cache gives the initial key, or it is derived and waits for its insertion (R293, R294). -/
def State.terminalKey (o : Op) (route : Nat) (params : Bytes) (bdk : Option KeyCopy) (k : Option KeyCopy → State → State)
    (s : State) : State :=
  match bdk with
  | none => k none s
  | some b =>
    if route ≠ 1 then k (some b) s
    else
      let tag := searchTag 0 o.tenant
      let ident := searchIdent 0 params
      match s.probe o.pipeline tag ident b.slot with
      | (some key, s) => k (some (b.withKey key)) s
      | (none, s) =>
        let key := Payment.initialKey (Payment.keyOf b) params
        let e : TermEnt := { tag := tag, ident := ident, slot := b.slot, key := key }
        k (some (b.withKey key)) (s.modTerm o.pipeline fun t => { t with pending := t.pending ++ [(o.id, e)] })

/-- Key registers from the keys of the roles and the route key (R258). -/
def keyRegs (roles : List KeyCopy) (route : Option KeyCopy) : List (Nat × KeyCopy) :=
  let t := roles.foldl (fun (acc : Nat × List (Nat × KeyCopy)) k => (acc.1 + 1, tset {} acc.1 k acc.2)) (0, [])
  match route with
  | some k => tset {} 4 k t.2
  | none => t.2

/-- The transaction of an operation that waits for its random bytes or for a context. -/
def State.prepared (s : State) (op : Nat) : Option Ctx := s.plan.ready.find? fun c => c.op == op

/-- Change the prepared transaction of an operation. -/
def State.modReady (op : Nat) (g : Ctx → Ctx) (s : State) : State :=
  { s with plan := { s.plan with ready := s.plan.ready.map fun c => if c.op = op then g c else c } }

/-- Step 5 of R262: the plan's random bytes, its full length whatever the outcome (R263); then the transaction waits for a
context. -/
def State.planDraw (o : Op) (n : Nat) (s : State) : State :=
  if n = 0 then s.modOp o.id fun x => { x with stage := .context }
  else s.drawLocal o n false [] fun b _ s => (s.modReady o.id fun c => { c with random := b }).modOp o.id fun x => { x with stage := .context }

/-- Steps 3 to 5 of R262, with the parameters, the data and the route at hand. Check 7 of R35 follows check 6, before anything is derived
or drawn (R35; DEDUCED, log 34). -/
def State.planKeys (o : Op) (w : Swage) (dma : Dma) (params : Bytes) (slot : Option Nat) (s : State) : State :=
  let i := w.info
  State.loadRoles o (fun keys s =>
    s.loadRoute o i.route slot fun bdk s =>
      s.checkLists o dma (dDlen o.desc) i.outMax fun s =>
        s.terminalKey o i.route params bdk fun route s =>
          let c : Ctx := { op := o.id, plan := w.plan, swage := w, keys := keyRegs keys route, params := params, data := opData o dma
                           srcList := dma.srcList, dstList := dma.dstList }
          State.planDraw o i.rnd { s with plan := { s.plan with ready := s.plan.ready ++ [c] } })
    (roleSlots o i.roles) [] s

/-- PLAN_RUN (R262): the front stage. A routed plan waits here for its lookup, and a draw may wait for Bellows; the command is then
repeated. While PD28 has no power, check 6 waits (R48). -/
def execPlanRun (op : Nat) (dma : Dma) (s : State) : Out :=
  .next (s.onOp op 0x0300 .block fun o s =>
    match o.recip with
    | none => s
    | some w =>
      let i := w.info
      if (s.prepared op).isSome then s.planDraw o i.rnd
      else if ¬ s.powered 28 then s
      else
        let params := opParams o dma
        let s := (s.readLists o).modOp op fun x => { x with pblk := some params }
        if i.route = 0 then s.planKeys o w dma params none
        else
          match s.routing.lookups.find? fun e => e.1 == op with
          | none => s
          | some (_, none) => s.fail op 0x0901 0
          | some (_, some n) => s.planKeys o w dma params (some n))

/-- A front stage waits at its lookup port. -/
def State.wantsLookup (s : State) (o : Op) : Bool :=
  o.opcode == 0x0300 && o.stage == .block && o.pblk.isSome && !(s.routing.lookups.any fun e => e.1 == o.id) &&
    (s.prepared o.id).isNone && (match o.recip with
      | some w => w.info.route != 0
      | none => false)

/-- The next requester after the last one granted, of `n` (R20). -/
def roundRobin (n last : Nat) (want : Nat → Bool) : Option Nat :=
  ((List.range n).map fun i => (last + 1 + i) % n).find? want

/-- ROUTE_LOOKUP (R281, R284): the port granted next is served; lookups wait while PD28 is not powered (R48), and with the routing
block out of service the operation ends (R28). -/
def execRouteLookup (s : State) : Out :=
  .next (
    let ops := s.engine.tasks.filter s.wantsLookup
    match roundRobin 8 (tget 7 s.engine.rrLast 0x11) fun p => ops.any fun o => o.pipeline == p with
    | none => s
    | some p =>
      match ops.find? fun o => o.pipeline == p with
      | none => s
      | some o =>
        if (s.blockOf 0x11).out then s.fail o.id 0x0302 0x11
        else if ¬ s.powered 28 then s
        else
          let family := match o.recip with
            | some w => w.info.route - 1
            | none => 0
          let s := { s with engine := { s.engine with rrLast := tset 7 0x11 p s.engine.rrLast } }
          s.lookup o.id family o.tenant (searchIdent family (o.pblk.getD [])))

/-- The lowest free context of a pipeline (R256). -/
def State.freeCtx (s : State) (p : Nat) : Option Nat :=
  (List.range 8).find? fun c => !(s.plan.ctxs.any fun e => e.1 == 8 * p + c)

/-- The transaction is the oldest of its function that waits for a context of its pipeline. -/
def State.behind (s : State) (o : Op) : Bool :=
  let before := (s.plan.ready.takeWhile fun c => c.op != o.id).map Ctx.op
  s.engine.tasks.any fun p => before.contains p.id && p.block == o.block && p.stage == .context && p.fn == o.fn

/-- A prepared transaction could start: its draw is over, and its initial key has been inserted or not (R262). -/
def State.startable (s : State) (o : Op) : Bool :=
  o.opcode == 0x0300 && o.stage == .context && (s.prepared o.id).isSome && (s.insertAt o.id).isNone

/-- The dispatch queue that a pipeline's arbiter grants next: each function's transactions are one queue (R20; DESIGN CHOICE, log 53). -/
def State.queueTurn (s : State) (block : Nat) : Option Nat :=
  roundRobin 256 (tget 255 s.engine.rrLast block) fun f => s.engine.tasks.any fun o => o.fn == f && o.block == block && s.startable o

/-- PLAN_CONTEXT_START (R20, R262 step 6): the oldest prepared transaction of the function whose turn it is takes a free context of the
pipeline and starts at slot 0. -/
def execPlanContextStart (op : Nat) (s : State) : Out :=
  .next (s.onOp op 0x0300 .context fun o s =>
    match s.prepared op, s.freeCtx o.pipeline with
    | some c, some n =>
      if s.behind o ∨ (s.insertAt op).isSome ∨ s.queueTurn o.block ≠ some o.fn then s
      else
        { s with
          engine := { s.engine with rrLast := tset 255 o.block o.fn s.engine.rrLast }
          plan := { s.plan with ready := s.plan.ready.filter fun c => c.op != op
                                ctxs := tset {} (8 * o.pipeline + n) c s.plan.ctxs } }
    | _, _ => s)

/-! ### The slots of a context (R257, R272) -/

/-- Byte `i` of a variable is bits 8i+7 to 8i (DEDUCED from a[63:0] of an 8-byte block, log 34). -/
def varBytes (v : BitVec 128) : Bytes := leBytes 16 v.toNat

/-- The variable of a string. -/
def ofBytes (b : Bytes) : BitVec 128 := BitVec.ofNat 128 (leNat (fit 16 b))

/-- Variable `n`. -/
def Ctx.var (c : Ctx) (n : Nat) : BitVec 128 := tget 0 c.vars n

/-- Key register `n` as key bytes. -/
def Ctx.key (c : Ctx) (n : Nat) : Bytes := let k := tget {} c.keys n; member k.attr (Payment.keyOf k) 0

/-- Write a variable with its tag. -/
def Ctx.setVar (n : Nat) (v : BitVec 128) (secret : Bool) (c : Ctx) : Ctx :=
  { c with vars := tset 0 n v c.vars, secret := tset false n secret c.secret }

/-- Write a flag. -/
def Ctx.setFlag (n : Nat) (v : Bool) (c : Ctx) : Ctx :=
  { c with flags := if v then c.flags ||| BitVec.ofNat 16 (2 ^ n) else c.flags &&& ~~~ BitVec.ofNat 16 (2 ^ n) }

/-- Set error bits. -/
def Ctx.setErr (l : List (Nat × Bool)) (c : Ctx) : Ctx := { c with err := c.err ||| Payment.errOf l }

/-- A derived key in a register. -/
def derivedKey (alg : Char) (key : Bytes) : KeyCopy :=
  { attr := BitVec.ofNat 128 (ch alg * 2 ^ 32 + key.length * 2 ^ 80 + 2 ^ 88 * (if alg = 'A' then 1 else key.length / 8))
    material := fit 72 key }

/-- Key register `n` written. -/
def Ctx.setKey (n : Nat) (k : KeyCopy) (c : Ctx) : Ctx := { c with keys := tset {} n k c.keys }

/-- The working counter of X9.24-3 step `n`, the whole counter once no one bit remains, and whether one remained (R272). -/
def dukptStep (ctr n : Nat) : Nat × Bool :=
  let l := Payment.workCounters 32 ctr
  (l.getD n ctr, decide (n < l.length))

/-- DUKPT_DD of step `n`: steps 0 to 15 give the derivation data of the transaction key, a later one that of the PIN encryption key
(DEDUCED from the example, log 34). -/
def dukptData (c : Ctx) (n : Nat) : BitVec 128 × Bool :=
  let len := (Payment.keyOf (tget {} c.keys 4)).length
  let d := dukptStep (beAt c.params 8 4) n
  (ofBytes (Payment.derivationData (if n < 16 then 0x8000 else 0x1000) len (slice c.params 4 4 ++ beBytes 4 d.1)), d.2)

/-- A step on the ALU, phase A. -/
def aluStep (x : Step) (c : Ctx) : Ctx :=
  let a := c.var x.a
  let b := c.var x.b
  let tags := (c.secret.filter (·.2)).map (·.1)
  let put (v : BitVec 128) : Ctx := c.setVar x.dst v (x.secret tags)
  let flag := c.flags.getLsbD x.k
  let digits (f : Nat → Nat → Nat) : BitVec 128 :=
    ofBytes (Payment.ofNibs (List.zipWith f (Payment.nibs (varBytes a)) (Payment.nibs (varBytes b))))
  match x.op with
  | 0x01 => put (ofBytes (slice c.params x.imm 16))
  | 0x02 => (put (ofBytes (slice c.data (16 * x.imm) 16))).setFlag x.k (decide (16 * x.imm + 16 ≤ c.data.length))
  | 0x03 => put (ofBytes (slice c.random x.imm 16))
  | 0x04 => put (BitVec.ofNat 128 x.imm)
  | 0x20 => put (a ^^^ b)
  | 0x21 => put (a &&& b)
  | 0x22 => put (a ||| b)
  | 0x23 => put (if Config.shiftLeft then a <<< x.imm else a >>> x.imm)
  | 0x24 => put (if flag then a else b)
  | 0x25 => c.setKey x.dst (tget {} c.keys (if flag then x.a else x.b))
  | 0x28 => put (ofBytes (Payment.panField x.imm c.params))
  | 0x29 =>
    let p := Payment.pinOf (varBytes a)
    (put (ofBytes (Payment.ofNibs (Payment.fill 32 15 p.digits)))).setErr (Payment.pinFaults x.imm p)
  | 0x2A => put (ofBytes (Payment.pinField x.imm ((Payment.nibs (varBytes a)).takeWhile fun d => d != 15) (varBytes b)))
  | 0x2B =>
    let d := dukptData c x.imm
    let c' := (put d.1).setFlag x.k d.2
    if x.imm = 0 then c'.setErr [(4, Payment.aesCounterBad c.params)] else c'
  | 0x2C => put (ofBytes (Payment.ofNibs ((Payment.nibs (varBytes a)).map fun d => (Payment.nibs (varBytes b)).getD d 0)))
  | 0x2D => put (digits fun p q => (p + q) % 10)
  | 0x30 => c.setErr [(x.imm % 32, Config.predicate (BitVec.ofNat 8 x.c) a)]
  | 0x31 => c.setFlag x.k ((varBytes a).take x.imm == (varBytes b).take x.imm)
  | 0x38 => { c with outStage := patch c.outStage x.imm (varBytes a) }
  | 0x39 => { c with resStage := fit 8 (patch c.resStage x.imm (varBytes a)) }
  | 0x3A => { c with resStage := patch c.resStage 0 [if flag then 0 else 1] }
  | _ => c

/-- AES of a block under a key, as many blocks as the derived key needs, the block counter of byte 1 rising (X9.24-3). -/
def kdfAes (key data : Bytes) (len : Nat) : Bytes :=
  ((List.range ((len + 15) / 16)).flatMap fun i => Aes.enc key (patch data 1 [byteAt data 1 + BitVec.ofNat 8 i])).take len

/-- A step on a unit, phase B: it reads from the context as phase A left it, and its result is written at the slot's end. -/
def unitStep (seen : Ctx) (x : Step) (c : Ctx) : Ctx :=
  let a := seen.var x.a
  let key := seen.key x.k
  let tags := (seen.secret.filter (·.2)).map (·.1)
  let put (b : Bytes) : Ctx := c.setVar x.dst (ofBytes b) (x.secret tags)
  let blk := varBytes a
  let reg := tget {} seen.keys x.k
  match x.op with
  | 0x10 => put (Aes.enc key blk)
  | 0x11 => put (Aes.dec key blk)
  | 0x12 => put (Des.enc key (blk.take 8))
  | 0x13 => put (Des.dec key (blk.take 8))
  | 0x14 => put (Des.enc1 (slice key (8 * x.imm) 8) (blk.take 8))
  | 0x15 => c.setKey x.dst (derivedKey 'A' (kdfAes key blk x.imm))
  | 0x16 => c.setKey x.dst (derivedKey 'T' (varBytes (Config.kdfTdes (BitVec.ofNat 16 x.imm) key a)))
  | 0x17 => c.setVar x.dst (Config.hashStep a (seen.var x.b) (seen.var x.c)) (x.secret tags)
  | 0x3B => put (kcvOf (aAlg reg.attr) (aSub reg.attr) (Payment.keyOf reg))
  | _ => c

/-- One slot: phase A, then phase B (R257). -/
def runSlot (w : SlotWord) (c : Ctx) : Ctx :=
  let c := match w.alu with
    | some x => aluStep (stepOf x) c
    | none => c
  w.units.foldl (fun acc x => unitStep c (stepOf x) acc) c

/-! ### FINAL (R265 to R267) -/

/-- The status and DETAIL that the lowest set bit of an error word selects: `slot` for bit 2, `off` for bit 10, `declared` for bits
16 to 31. -/
def errStatus (err : BitVec 32) (slot off : Nat) (declared : Nat → Nat) : Option (Nat × Nat) :=
  match (List.range 32).find? fun b => err.getLsbD b with
  | none => none
  | some b =>
    let at_ := if b = 0 then 12 else if b = 1 then 13 else if b = 3 then 14 else if b = 4 then 8 else if b ≤ 8 then 16
      else if b = 9 ∨ b = 11 then 48 else if b = 10 then off else declared b
    some (if b = 2 then (0x0202, slot + 2 ^ 24 * 2) else (0x0102, badField at_ 3 0 + 2 ^ 24 * b))

/-- The steps of a swage. -/
def Swage.steps (w : Swage) : List Step :=
  w.slots.flatMap fun x => (x.alu.toList ++ x.units).map stepOf

/-- The offset that the CHECK steps of a bit declare (R273). -/
def Swage.declared (w : Swage) (b : Nat) : Nat :=
  match w.steps.find? fun x => x.op == 0x30 && x.imm % 32 == b with
  | some x => x.imm / 256
  | none => 0

/-- The first nonzero byte of a parameter block that no PARAM step reads (error bit 10 of a customer plan). -/
def Swage.unusedByte (w : Swage) (p : Bytes) : Nat :=
  let used := (w.steps.filter fun x => x.op == 0x01).map Step.imm
  ((List.range p.length).find? fun i => byteAt p i != 0 && !used.any fun o => decide (o ≤ i) && decide (i < o + 16)).getD 0

/-- The end of a customer plan, from what its slots have staged. Which slot error bit 2 names is open (free, log 34). -/
def customerEnd (c : Ctx) (free : Nat) : End :=
  { err := c.err, slot := (Config.freeByte free).toNat + 256 * (Config.freeByte (free + 1)).toNat, off := c.swage.unusedByte c.params
    out := fit c.swage.info.outMax c.outStage, result := fit 8 c.resStage }

/-- The end of a context's plan: a standard plan by R264 to R270, a customer plan by its slots. -/
def ctxEnd (c : Ctx) (free : Nat) : End :=
  let k (n : Nat) : KeyCopy := tget {} c.keys n
  match Payment.run c.plan { p := c.params, data := c.data, rnd := c.random, k0 := k 0, k1 := k 1, kr := k 4 } with
  | some e => e
  | none => customerEnd c free

/-- FINAL (R265 to R267). -/
def State.final (c : Ctx) (s : State) : State :=
  match s.opOf c.op with
  | none => s
  | some o =>
    let e := ctxEnd c s.free
    let s := s.spend 2
    let s := s.modOp c.op fun x => { x with errWord := e.err }
    match errStatus e.err e.slot e.off c.swage.declared with
    | some (st, d) => s.fail c.op st d
    | none =>
      let result := leBytes 2 c.plan ++ leBytes 2 c.swage.version.toNat ++ e.result
      let s := s.writeOut o { srcList := c.srcList, dstList := c.dstList } e.out
      s.finish c.op (if c.note = 0 then 0 else 1) c.note e.out.length result

/-- The context that the sequencer of a pipeline visits next in its fixed rotation (R256). -/
def State.turnOf (s : State) (pipe : Nat) : Nat := tget 0 s.plan.turn pipe

/-- The sequencer comes to context `c`: it is the next one, or every one before it holds no transaction and spends its period idle (R256). -/
def State.visits (s : State) (pipe c : Nat) : Bool :=
  (List.range ((c + 8 - s.turnOf pipe) % 8)).all fun i => !(s.plan.ctxs.any fun e => e.1 == 8 * pipe + (s.turnOf pipe + i) % 8)

/-- One slot of a context: the next slot of its swage, or FINAL in the last; an aborted context idles to its end (R257, R265). -/
def State.slotStep (k : Nat) (c : Ctx) (s : State) : State :=
  if c.slot + 1 < c.swage.info.slots then
    let c' := if c.faulted then c else runSlot (c.swage.slots.getD c.slot {}) c
    { s with plan := { s.plan with ctxs := tset {} k { c' with slot := c.slot + 1 } s.plan.ctxs } }
  else
    let s := { s with plan := { s.plan with ctxs := s.plan.ctxs.filter fun e => e.1 != k } }
    if c.faulted then s else s.final c

/-- SWAGE_SLOT (R256, R257): the sequencer comes to a context in its rotation and runs one slot of it; a context that holds no transaction
spends the period idle. -/
def execSwageSlot (pipe : Fin 8) (ctx : Fin 8) (s : State) : Out :=
  .next (
    let k := 8 * pipe.val + ctx.val
    if ¬ s.visits pipe.val ctx.val then s
    else
      let s := { s with plan := { s.plan with turn := tset 0 pipe.val ((ctx.val + 1) % 8) s.plan.turn } }
      match (s.plan.ctxs.find? fun e => e.1 == k).map (·.2) with
      | none => s
      | some c => s.slotStep k c)

/-! ### Customer plans (R275, R276) -/

/-- The signature of a customer recipe verifies under the owner key (R275). -/
def State.recipeSigned (s : State) (r : Bytes) : Bool :=
  p384Check s.life.ownerKey (r.take (r.length - 96)) (r.drop (r.length - 96))

/-- The Bench serves plan opcodes. -/
def State.benchServes (s : State) : Bool := s.worlds.bench.status == 1 && s.chip.state == .ready

/-- Why a customer recipe is refused before it is compiled: its signature, or its plan ID (R275). -/
def State.recipeFault (s : State) (r : Bytes) : Option (Nat × Refused) :=
  if ¬ s.recipeSigned r then some (r.length - 96, .signature) else if leAt r 6 2 < 512 then some (6, .planId) else none

/-- PLAN_LOAD ends with ST_BAD_FIELD, the offset and the reason recorded (R275). -/
def State.refuseRecipe (op : Nat) (f : Nat × Refused) (s : State) : State := (s.logRefusal 2750 f.1 f.2).fail op 0x0102 16

/-- PLAN_LOAD (R275). -/
def execPlanLoad (op : Nat) (dma : Dma) (s : State) : Out :=
  .next (s.onOp op 0x0301 .channel fun o s =>
    if ¬ s.benchServes ∨ ¬ s.mayStart o then s
    else
      s.checked o dma (dDlen o.desc) 0 fun s =>
        let r := opData o dma
        if s.life.ownerHash.isNone then s.fail op 0x0301 s.chip.state.code
        else
          match s.recipeFault r with
          | some f => s.refuseRecipe op f
          | none =>
            match compile r with
            | .error f => s.refuseRecipe op f
            | .ok w =>
              if s.swageFree < w.info.slots then s.fail op 0x0204 (s.swageFree % 65536)
              else (s.install w).finish op 0 0 0 (leBytes 2 w.plan ++ leBytes 2 w.version.toNat ++ leBytes 2 w.info.slots))

/-- PLAN_UNLOAD (R275): a customer plan's swage is removed. R275 gives no status for a plan ID of the standard bundle or one with no swage: it
ends as R261 has it for PLAN_RUN, with ST_BAD_FIELD, offset 10 (DEDUCED, log 34). -/
def execPlanUnload (op : Nat) (s : State) : Out :=
  .next (s.onOp op 0x0302 .channel fun o s =>
    let id := dPlan o.desc
    if ¬ s.benchServes ∨ ¬ s.mayStart o then s
    else if id < 512 ∨ (s.swageOf id).isNone then s.fail op 0x0102 10
    else (s.uninstall id).finish op 0 0 0 (leBytes 2 id))

end Sys2Proof.Machine
end

