-- ==== Sys2Proof/Machine/Descriptors.lean ====
section
/-!
DEFINITION. Descriptors: their fetch, the checks 1 to 5 of R35 for every opcode, and where a checked descriptor goes (R35, R100,
R112 to R124, R302, R574). The fields that an opcode uses stand in its form; every other field is reserved (R113).
-/
namespace Sys2Proof.Machine

/-! ### The form of an opcode (R113, R114, R120) -/

/-- Which fields an opcode uses, and its rules on them. `bad` lists the field rules of check 3 that fail, by descriptor offset; `lens`
lists the length rules of check 5 in their order. -/
structure Form where
  /-- TENANT is used -/
  tenant : Bool := true
  /-- KEY_SLOT is used -/
  keySlot : Bool := false
  /-- bits of PLAN that are used -/
  plan : Nat := 0
  /-- DLEN is used -/
  dlen : Bool := false
  /-- SRC, its list flag and its count are used -/
  src : Bool := false
  /-- DST, its list flag and its count are used -/
  dst : Bool := false
  /-- AAD_LEN is used -/
  aad : Bool := false
  /-- DRBG_INST is used -/
  drbg : Bool := false
  /-- bits of AUX that are used -/
  aux : Nat := 0
  /-- the bits of inline PARAM that are used; none where the pointer form is required -/
  inl : Option Bytes := none
  /-- PARAM_LEN of the pointer form, from and to; none where the inline form is required -/
  blk : Option (Nat × Nat) := none
  /-- field rules of check 3: offset, and whether the rule fails -/
  bad : List (Nat × Bool) := []
  /-- length rules of check 5: offset, and whether the rule fails -/
  lens : List (Nat × Bool) := []

/-- A mask over `n` bytes, all set or all clear. -/
def fill (used : Bool) (n : Nat) : Bytes := List.replicate n (if used then 0xFF else 0)

/-- A mask over PARAM whose first `n` bytes are used. -/
def inl (n : Nat) : Option Bytes := some (fill true n ++ fill false (16 - n))

/-- The bits of a descriptor that its opcode uses (R113, R114). -/
def Form.mask (f : Form) (d : BitVec 512) : Bytes :=
  let flags := 0x23 + (if f.inl.isSome then 4 else 0) + (if f.src then 8 else 0) + (if f.dst then 0x10 else 0)
  fill true 2 ++ leBytes 1 flags ++ fill false 1 ++ fill true 2 ++ leBytes 2 (if f.tenant then 0x0FFF else 0) ++ fill f.keySlot 2 ++
    leBytes 2 f.plan ++ fill f.dlen 4 ++ fill f.src 8 ++ fill f.dst 8 ++
    (if dInline d then f.inl.getD (fill true 16) else fill true 12 ++ fill false 4) ++ fill f.aad 2 ++ fill true 4 ++ fill f.drbg 2 ++
    leBytes 8 f.aux

/-- The least offset of the rules that fail. -/
def leastBad : List (Nat × Bool) → Option Nat
  | [] => none
  | (o, b) :: t => if b then minOff (some o) (leastBad t) else leastBad t

/-- Check 3 of R35: the first field or byte that fails, by its descriptor offset (R10, R113, R114, R130, R346, R574). `count` is the number
of DRBG instances of the function. -/
def Form.check3 (f : Form) (d : BitVec 512) (count : Nat) : Option Nat :=
  minOff (firstReserved (dBytes d) (f.mask d) 0)
    (leastBad ([(2, !dInline d && f.blk.isNone), (50, !dSrcList d && dSrcCount d != 0), (52, !dDstList d && dDstCount d != 0),
      (54, f.drbg && decide (count ≤ dDrbg d))] ++ f.bad))

/-- The tests of a scatter list's address and count (R121). -/
def listTest (on : Bool) (addr count addrOff side : Nat) : Option (Nat × Nat) :=
  if ¬ on then none
  else if addr % 16 ≠ 0 then some (0x0105, addrOff)
  else if count = 0 then some (0x0102, 50 + 2 * side)
  else if 4096 < count then some (0x0106, side)
  else none

/-- Check 5 of R35 in the order of R574: status and DETAIL. -/
def Form.check5 (f : Form) (d : BitVec 512) : Option (Nat × Nat) :=
  let blk : Bool := match f.blk with
    | some (lo, hi) => !dInline d && (decide (dParamLen d < lo) || decide (hi < dParamLen d))
    | none => false
  let rules : List (Nat × Bool) := f.lens ++ [(40, blk)]
  match rules.find? fun e => e.2 with
  | some (o, _) => some (0x0103, o)
  | none =>
    if ¬ dInline d ∧ dParamPtr d % 8 ≠ 0 then some (0x0105, 32)
    else
      match listTest (dSrcList d) (dSrc d) (dSrcCount d) 16 0 with
      | some e => some e
      | none => listTest (dDstList d) (dDst d) (dDstCount d) 24 1

/-! ### Cipher, hash and MAC opcodes (R231 to R242) -/

/-- DLEN above 0xFFFF_FFF0 (R124). -/
def dlenOver (d : BitVec 512) : Bool := decide (0xFFFFFFF0 < dDlen d)

/-- The length rules of an Anvil or TDES opcode in the order of R239, with those of raw mode (R241); `bad12` and `bad56` are the opcode's
own rules on DLEN and AUX. -/
def laneLens (raw : Bool) (d : BitVec 512) (bad12 bad56 : Bool) : List (Nat × Bool) :=
  [(12, dlenOver d || bad12 || (raw && (dDlen d % 16 != 0 || decide (65536 < dDlen d)))), (48, raw && dAadLen d % 16 != 0), (56, bad56)]

/-- The common fields of a lane opcode keyed by a key slot. -/
def lane : Form := { keySlot := true, dlen := true, src := true, dst := true }

/-- ECB and CBC: block length `b`, the PLAN bits used, the IV length (R231, R232, R241). -/
def blockForm (raw : Bool) (o : Op) (b plan iv : Nat) (dec : Bool) : Form :=
  let n := dDlen o.desc
  let pad := pPad o
  { lane with
    plan := plan
    inl := inl iv
    blk := if iv = 0 then none else some (iv, iv)
    bad := [(10, pad == 3 || (raw && pad != 2))]
    lens := laneLens raw o.desc (((dec || pad == 2) && n % b != 0) || (dec && pad != 2 && decide (n < b))) false }

/-- The tag lengths of GCM and GMAC (R235). -/
def gcmT (t : Nat) : Bool := !(decide (t ∈ [4, 8, 12, 13, 14, 15, 16]))

/-- GCM (R232, R234, R235). -/
def gcmForm (raw : Bool) (o : Op) (inline : Bool) : Form :=
  { lane with
    plan := 0xFF03, aad := true, inl := if inline then inl 12 else none, blk := some (25, 152), bad := [(11, gcmT (pT o))]
    lens := laneLens raw o.desc false false }

/-- CCM; an inline nonce has its length in byte 0 (R232, R234, R235). -/
def ccmForm (raw : Bool) (o : Op) (inline : Bool) : Form :=
  let n := (byteAt (dParam o.desc) 0).toNat
  { lane with
    plan := 0xFF03, aad := true, inl := if inline then inl (1 + min n 13) else none, blk := some (31, 37)
    bad := [(11, !(decide (pT o ∈ [4, 6, 8, 10, 12, 14, 16]))), (32, inline && dInline o.desc && (decide (n < 7) || decide (13 < n)))]
    lens := laneLens raw o.desc false false }

/-- XTS (R232, R238, R241). -/
def xtsForm (raw : Bool) (o : Op) : Form :=
  let n := dDlen o.desc
  let du := dAux o.desc % 2 ^ 32
  { lane with
    plan := 3, aux := 0xFFFFFFFF, inl := inl 16, blk := some (16, 16)
    lens := laneLens raw o.desc (decide (n < 16) || (du == 0 && decide (16777216 < n)) || (du != 0 && n % du != 0))
      ((du != 0 && (decide (du < 16) || decide (16777216 < du))) || (raw && du % 16 != 0)) }

/-- Key wrap of host data: DLEN from `lo` to `hi` in steps of `m` (R232). -/
def wrapForm (raw : Bool) (o : Op) (lo hi m : Nat) : Form :=
  let n := dDlen o.desc
  { lane with plan := 3, inl := inl 0, lens := laneLens raw o.desc (decide (n < lo) || decide (hi < n) || n % m != 0) false }

/-- The cipher family (R232). -/
def cipherForm (raw : Bool) (o : Op) : Option Form :=
  let c := o.opcode
  let aes16 : Form := { lane with plan := 3, inl := inl 16, blk := some (16, 16), lens := laneLens raw o.desc false false }
  if c = 0x0101 then some (blockForm raw o 16 0x0F 0 false)
  else if c = 0x0102 then some (blockForm raw o 16 0x0F 0 true)
  else if c = 0x0103 then some (blockForm raw o 16 0x0F 16 false)
  else if c = 0x0104 then some (blockForm raw o 16 0x0F 16 true)
  else if 0x0105 ≤ c ∧ c ≤ 0x0108 then some aes16
  else if c = 0x0109 then some (gcmForm raw o true)
  else if c = 0x010A then some (gcmForm raw o false)
  else if c = 0x010B then some (ccmForm raw o true)
  else if c = 0x010C then some (ccmForm raw o false)
  else if c = 0x010D ∨ c = 0x010E then some (xtsForm raw o)
  else if c = 0x0110 then some (wrapForm raw o 16 4096 8)
  else if c = 0x0111 then some (wrapForm raw o 24 4104 8)
  else if c = 0x0112 then some (wrapForm raw o 1 4096 1)
  else if c = 0x0113 then some (wrapForm raw o 16 4104 8)
  else if c = 0x0120 then some (blockForm raw o 8 0x0C 0 false)
  else if c = 0x0121 then some (blockForm raw o 8 0x0C 0 true)
  else if c = 0x0122 then some (blockForm raw o 8 0x0C 8 false)
  else if c = 0x0123 then some (blockForm raw o 8 0x0C 8 true)
  else if c = 0x0130 then
    some { lane with keySlot := false, aad := true, drbg := true, inl := inl 0
                     lens := laneLens raw o.desc (decide (0xFFFFFFC0 < dDlen o.desc)) false }
  else if c = 0x0131 then
    some { lane with keySlot := false, aad := true, inl := inl 0, lens := laneLens raw o.desc (decide (dDlen o.desc < 48)) false }
  else none

/-- Parameters of a MAC opcode: none for GEN; the expected tag for VER, inline up to 16 bytes (R233, R234). -/
def macForm (o : Op) (ver : Bool) : Form :=
  let t := pT o
  if ver then { lane with dst := false, inl := if t ≤ 16 then inl t else none, blk := some (t, t) } else { lane with inl := inl 0 }

/-- T outside `lo` to `hi` (R235). -/
def tOut (o : Op) (lo hi : Nat) : Bool := decide (pT o < lo) || decide (hi < pT o)

/-- The hash and MAC family (R233 to R235, R241, R242). Odd opcodes of a pair verify. -/
def hashForm (raw : Bool) (o : Op) : Option Form :=
  let c := o.opcode
  let d := o.desc
  let n := dDlen d
  let ver := c % 2 = 1
  let hashLens : List (Nat × Bool) := [(12, dlenOver d || (raw && decide (65536 < n)))]
  let short := raw && decide (n < 16)
  if c = 0x0201 then
    let id := dPlan d % 16
    let shake := id = 9 ∨ id = 10
    let x := dAux d % 2 ^ 32
    some { lane with
      keySlot := false, plan := 0x000F, aux := if shake then 0xFFFFFFFF else 0, inl := inl 0, bad := [(10, id == 0 || decide (10 < id))]
      lens := hashLens ++ [(56, decide shake && (x == 0 || decide (65536 < x)))] }
  else if c = 0x0202 ∨ c = 0x0203 then
    some { macForm o (c = 0x0203) with plan := 0xFF00, bad := [(11, tOut o 4 64)], lens := hashLens }
  else if c = 0x0210 ∨ c = 0x0211 then
    some { macForm o ver with plan := 0xFF03, bad := [(11, tOut o 4 16)], lens := laneLens raw d short false }
  else if c = 0x0212 then some { lane with plan := 0xFF03, inl := inl 12, blk := some (25, 152), bad := [(11, gcmT (pT o))], lens := laneLens raw d false false }
  else if c = 0x0213 then
    some { lane with dst := false, plan := 0xFF03, blk := some (25, 152), bad := [(11, gcmT (pT o))], lens := laneLens raw d false false }
  else if c = 0x0220 ∨ c = 0x0221 then
    some { macForm o ver with
      plan := 0xFF3C, lens := laneLens raw d short false
      bad := [(10, pPad o == 1 || pPad o == 2 || decide (2 ≤ pMacAlg o) || (raw && pPad o != 3)), (11, tOut o 4 8)] }
  else if c = 0x0222 ∨ c = 0x0223 then
    some { macForm o ver with plan := 0xFF00, bad := [(11, tOut o 4 8)], lens := laneLens raw d short false }
  else none

/-! ### Plan execution (R260, R261, R275) -/

/-- PLAN_RUN of an installed swage (R260, R261). -/
def planForm (o : Op) (i : Payment.Info) : Form :=
  let d := o.desc
  let role (n k : Nat) : Nat := if n < i.roles.length then 0xFFFF * 2 ^ (16 * k) else 0
  { keySlot := !i.roles.isEmpty, plan := 0x03FF, dlen := i.dlenMax != 0, src := i.dlenMax != 0, dst := i.outMax != 0, drbg := i.rnd != 0
    aux := role 1 0 + role 2 1 + role 3 2, blk := some (1, 4096)
    lens := [(40, dParamLen d != i.paramLen), (12, decide (i.dlenMax < dDlen d))] }

/-- The plan family; PLAN_LOAD and PLAN_UNLOAD are the PF's alone (R261, R275). -/
def planFamily (s : State) (o : Op) : Option Form :=
  if o.opcode = 0x0300 then
    match s.swageOf (dPlan o.desc % 1024) with
    | some w => some (planForm o w.info)
    | none => some { keySlot := true, plan := 0x03FF, dlen := true, src := true, dst := true, aux := 2 ^ 64 - 1, blk := some (1, 4096), bad := [(10, true)] }
  else if o.fn ≠ 0 then none
  else if o.opcode = 0x0301 then
    some { tenant := false, dlen := true, src := true, inl := inl 0, lens := [(12, decide (dDlen o.desc < 80) || decide (16384 < dDlen o.desc))] }
  else if o.opcode = 0x0302 then some { tenant := false, plan := 0xFFFF, inl := inl 0 }
  else none

/-! ### Number engine (R309 to R312, R318 to R320, R325) -/

/-- Legal modulus lengths (R311). -/
def rsaBits (p : Nat) : Bool := decide (1024 ≤ p) && decide (p ≤ 8192) && p % 64 == 0

/-- PARAM bytes used: KEYLEN, ARG0, ARG1, ARG2, ARG3 (R309). -/
def args (key a0 a1 a2 a3 : Bool) : Option Bytes :=
  some (fill key 4 ++ fill a0 1 ++ fill a1 1 ++ fill a2 1 ++ fill false 1 ++ fill a3 4 ++ fill false 4)

/-- A hash ID of R311 is out of range. -/
def hashOut (h : Nat) : Bool := h == 0 || decide (8 < h)

/-- DLEN must be KEYLEN and `input` bytes, KEYLEN must be `key` (R319). -/
def exactLens (o : Op) (key input : Nat) : List (Nat × Bool) :=
  [(12, dDlen o.desc != pKeyLen o + input), (32, pKeyLen o != key)]

/-- DLEN must be KEYLEN and `lo` to `hi` bytes of input. -/
def rangeLens (o : Op) (key lo hi : Nat) : List (Nat × Bool) :=
  [(12, decide (dDlen o.desc < pKeyLen o + lo) || decide (pKeyLen o + hi < dDlen o.desc)), (32, pKeyLen o != key)]

/-- Length of an RSA private key blob (R315, R318). -/
def rsaBlob (k : Nat) : Nat := 32 + wrappedLen (12 + k + 5 * (k / 2))

/-- A job with a key part and an output. -/
def job : Form := { plan := 0xFFFF, dlen := true, src := true, dst := true, inl := args true false false false false }

/-- A job keyed by a key slot (R311, R313). -/
def slotJob : Form := { keySlot := true, dlen := true, src := true, dst := true, inl := args false false false false false }

/-- A key generation (R311, R318). -/
def genJob : Form := { plan := 0xFFFF, dst := true, inl := args false false false false false }

/-- RSA opcodes (R311, R319, R320, R325). -/
def rsaForm (o : Op) : Option Form :=
  let c := o.opcode
  let k := modLen o
  let plan : Nat × Bool := (10, !rsaBits (dPlan o.desc))
  let hash : Nat × Bool := (37, hashOut (pArg1 o))
  let hl := Sha.hashLen (pArg1 o)
  let pss := pArg0 o = 0
  let salt (ver : Bool) : Nat × Bool :=
    (38, if pss then decide (64 < pArg2 o) && !(ver && pArg2 o == 0xFF) else pArg2 o != 0)
  if c = 0x0401 then some { job with bad := [plan], lens := exactLens o (rsaBlob k) k }
  else if c = 0x0402 then some { job with bad := [plan], lens := exactLens o (4 + k) k }
  else if c = 0x0403 then
    some { job with inl := args true true true true false, drbg := pss, bad := [plan, (36, decide (1 < pArg0 o)), hash, salt false]
                    lens := exactLens o (rsaBlob k) hl }
  else if c = 0x0404 then
    some { job with dst := false, inl := args true true true true false, bad := [plan, (36, decide (1 < pArg0 o)), hash, salt true]
                    lens := exactLens o (4 + k) (hl + k) }
  else if c = 0x0405 then
    some { job with inl := args true false true false false, drbg := true, bad := [plan, hash]
                    lens := (12, decide (k < 2 * hl + 2)) :: rangeLens o (4 + k) 0 (k - 2 * hl - 2) }
  else if c = 0x0406 then some { job with inl := args true false true false false, bad := [plan, hash], lens := exactLens o (rsaBlob k) k }
  else if c = 0x0407 then
    let p := dPlan o.desc
    let e := pArg3 o
    some { genJob with
      inl := args false true false false true
      bad := [(10, decide (p < 2048) || decide (8192 < p) || p % 256 != 0), (36, pArg0 o == 0 || decide (8 ≤ pArg0 o)),
        (40, e % 2 == 0 || decide (e < 65537))] }
  else none

/-- Elliptic-curve opcodes (R311, R312, R319, R325). Where the curve comes from the key slot, check 5 admits every length that one of the
opcode's curves has; the curve's own length is tested after check 6 (DEDUCED as R235 does for HMAC, log 16). -/
def ecForm (o : Op) : Option Form :=
  let c := o.opcode
  let n := dDlen o.desc
  let plan := dPlan o.desc
  if c = 0x0410 then some { slotJob with drbg := true, lens := [(12, n == 0 || decide (64 < n))] }
  else if c = 0x0411 then
    let p := (Ecc.curve plan).len
    some { job with dst := false, bad := [(10, plan == 0 || decide (4 < plan))], lens := rangeLens o (1 + 2 * p) (1 + 2 * p) (64 + 2 * p) }
  else if c = 0x0412 then some { slotJob with lens := [(12, !(decide (n ∈ [57, 65, 97, 133])))] }
  else if c = 0x0413 then some { slotJob with dlen := false, src := false }
  else if c = 0x0414 then
    some { slotJob with inl := args false true false false false, lens := [(12, decide (n < pArg0 o) || decide (pArg0 o + 65536 < n))] }
  else if c = 0x0415 then
    let e := Ecc.keyLen plan
    some { job with
      dst := false, inl := args true true false false false, bad := [(10, plan != 5 && plan != 6), (36, plan == 5 && pArg0 o != 0)]
      lens := rangeLens o e (pArg0 o + 2 * e) (pArg0 o + 65536 + 2 * e) }
  else if c = 0x0416 then some { slotJob with lens := [(12, n != 32 && n != 56)] }
  else none

/-- ML-KEM and ML-DSA opcodes (R311, R312, R319, R325). -/
def latticeForm (o : Op) : Option Form :=
  let c := o.opcode
  let p := dPlan o.desc
  let kem : Nat × Bool := (10, !(decide (p ∈ [512, 768, 1024])))
  let dsa : Nat × Bool := (10, !(decide (p ∈ [44, 65, 87])))
  let sig := Mldsa.sigLen p
  if c = 0x0420 then some { genJob with bad := [kem] }
  else if c = 0x0421 then some { job with drbg := true, bad := [kem], lens := exactLens o (Mlkem.ekLen p) 0 }
  else if c = 0x0422 then some { job with bad := [kem], lens := exactLens o (32 + wrappedLen (8 + Mlkem.dkLen p)) (Mlkem.ctLen p) }
  else if c = 0x0430 then some { genJob with bad := [dsa] }
  else if c = 0x0431 then
    some { job with inl := args true true true false false, drbg := pArg1 o = 0, bad := [dsa, (37, decide (1 < pArg1 o))]
                    lens := rangeLens o (32 + wrappedLen (8 + Mldsa.skLen p)) (pArg0 o) (pArg0 o + 65536) }
  else if c = 0x0432 then
    some { job with dst := false, inl := args true true false false false, bad := [dsa]
                    lens := rangeLens o (Mldsa.pkLen p) (pArg0 o + sig) (pArg0 o + 65536 + sig) }
  else none

/-! ### Random, key management, archive, queue administration (R119, R163, R225, R346, R508) -/

/-- The random family (R346). -/
def randomForm (o : Op) : Option Form :=
  let f : Form := { drbg := true, inl := inl 0, blk := some (1, 48) }
  let n := dDlen o.desc
  if o.opcode = 0x0502 then some { f with dlen := true, dst := true, aux := 1, lens := [(12, n == 0 || decide (65536 < n))] }
  else if o.opcode = 0x0501 ∨ o.opcode = 0x0503 ∨ o.opcode = 0x0504 then some f
  else none

/-- The key management family (R163, R225). -/
def keyForm (o : Op) : Option Form :=
  let c := o.opcode
  let n := dDlen o.desc
  let p := dPlan o.desc
  let none16 := inl 0
  if c = 0x0601 then some { keySlot := true, inl := inl 16, aux := 0x10000 }
  else if c = 0x0602 then some { keySlot := true, inl := none16 }
  else if c = 0x0603 then some { keySlot := true, inl := none16, aux := 0x1FFFF }
  else if c = 0x0604 then some { keySlot := true, inl := none16, dst := true }
  else if c = 0x0605 then some { keySlot := true, plan := 0x000F, blk := some (16, 240), aux := 0x1FFFF }
  else if c = 0x0606 then
    some { keySlot := true, plan := 0x00FF, inl := none16, dst := true, aux := 0xFFFF, bad := [(10, p % 256 != 0x42 && p % 256 != 0x44)] }
  else if c = 0x0607 then some { keySlot := true, inl := none16, dst := true }
  else if c = 0x0608 then some { blk := some (144, 144), aux := 0x1FFFF }
  else if c = 0x0609 then
    some { dlen := true, src := true, dst := true, inl := none16, lens := [(12, decide (n < 48) || decide (6216 < n))] }
  else if c = 0x0610 then some { blk := some (32, 32), dst := true }
  else if c = 0x0611 then some { plan := 0x0007, inl := none16, dst := true, bad := [(10, decide (2 ≤ p / 2 % 4))] }
  else none

/-- The archive and card family, the PF's alone (R508). -/
def archiveForm (o : Op) : Option Form :=
  let c := o.opcode
  let f : Form := { tenant := false, inl := inl 0 }
  if o.fn ≠ 0 then none
  else if c = 0x0701 then some { f with tenant := dPlan o.desc % 2 = 1, plan := 1 }
  else if c = 0x0702 ∨ c = 0x0703 then some f
  else if c = 0x0704 then some { f with aux := 0xFFFFFFFF, bad := [(56, dAux o.desc % 2 ^ 32 != 0x464D5441)] }
  else if c = 0x0710 then some { f with plan := 3 }
  else none

/-- NOP and FENCE (R119). -/
def queueForm (o : Op) : Option Form :=
  if o.opcode = 0x0800 ∨ o.opcode = 0x0801 then some { tenant := false, inl := inl 0 } else none

/-- The form of an operation's opcode; none where it is unknown or not implemented for its function (check 2 of R35). In the test life-cycle
states the lanes run in raw mode (R240). -/
def formOf (s : State) (o : Op) : Option Form :=
  let raw := s.rawLanes
  match o.opcode / 256 with
  | 1 => cipherForm raw o
  | 2 => hashForm raw o
  | 3 => planFamily s o
  | 4 => match rsaForm o with
    | some f => some f
    | none => match ecForm o with
      | some f => some f
      | none => latticeForm o
  | 5 => randomForm o
  | 6 => keyForm o
  | 7 => archiveForm o
  | 8 => queueForm o
  | _ => none

/-! ### Checks 1 to 5 (R35) -/

/-- The opcode needs the Hearth (R118, R508). -/
def needsHearth (c : Nat) : Bool := c / 256 == 6 || (c / 256 == 7 && c != 0x0703)

/-- NOP and FENCE: no check of the tenant (R116). -/
def Op.queueOp (o : Op) : Bool := o.opcode / 256 == 8

/-- The first of checks 1 to 3 that fails: status and DETAIL (R35, R130). In QUENCHED, check 1 admits HASH too (R437). -/
def State.fault123 (s : State) (o : Op) : Option (Nat × Nat) :=
  let c := o.opcode
  let queueOp := o.queueOp
  if ¬ queueOp ∧ s.chip.state = .locked then some (0x0303, 0)
  else if ¬ queueOp ∧ s.chip.state ≠ .ready ∧ ¬ (s.chip.state = .quenched ∧ c = 0x0201) then some (0x0301, s.chip.state.code)
  else
    match formOf s o with
    | none => some (0x0101, c)
    | some f => (f.check3 o.desc (s.fnOf o.fn).drbgCount).map fun off => (0x0102, off)

/-- The first of checks 4 and 5 that fails, after the Hearth's absence where the opcode needs it (R35, R37, R116, R118, R130). -/
def State.fault45 (s : State) (o : Op) : Option (Nat × Nat) :=
  if ¬ o.queueOp ∧ ¬ (listTenants (s.fnOf o.fn).active).contains o.tenant then some (0x0203, o.tenant)
  else
    match (formOf s o).bind fun f => f.check5 o.desc with
    | some e => some e
    | none => if needsHearth o.opcode ∧ ¬ s.worlds.vaultUp then some (0x0302, 0xFF) else none

/-- The first of checks 1 to 5 that fails: status and DETAIL (R35). -/
def State.descFault (s : State) (o : Op) : Option (Nat × Nat) := (s.fault123 o).or (s.fault45 o)

/-- Where a descriptor goes after check 5 (R117, R302, R362). -/
def placeOf (o : Op) : Stage :=
  let c := o.opcode
  if c / 256 = 8 then .qengine
  else if c = 0x0300 then
    (match o.recip with
      | some w => if w.info.route = 1 then .steering else .region
      | none => .region)
  else if c / 256 = 3 ∨ c / 256 = 6 ∨ c / 256 = 7 then .channel
  else .region

/-- An operation takes its place: the Hearth's descriptor channel, or the wait before it, for 0x06xx and CARD_IDENTIFY, the Bench's order
for the card (R361, R362, R502). -/
def State.placeOp (o : Op) (s : State) : State :=
  let o := { o with recip := if o.opcode = 0x0300 then s.swageOf (dPlan o.desc % 1024) else none }
  let o := { o with stage := placeOf o }
  let s := { s with engine := { s.engine with tasks := s.engine.tasks ++ [o] } }
  if o.opcode / 256 = 6 ∨ o.opcode = 0x0710 then
    { s with worlds := s.worlds.join o.id }
  else if o.opcode / 256 = 7 then
    { s with cards := { s.cards with sd := { s.cards.sd with waiting := s.cards.sd.waiting ++ [o.id] } } }
  else s

/-- One descriptor counts as fetched: it becomes an operation in flight and passes its checks, or ends with the status of the first that
fails (R35, R100, R106, R141, R143). While PD28 has no power, check 4 waits, and with it whatever passed checks 1 to 3 and has a tenant to
be checked (R48, R116). -/
def State.arrive (f q : Nat) (s : State) (d : BitVec 512) : State :=
  let c := s.queueOf f q
  let o : Op := { id := s.engine.nextId, fn := f, queue := q, seq := c.nextSeq, desc := d, gen := (s.fnOf f).allowGen
                  prio := (s.fnOf f).priority }
  let s := s.modQueue f q fun c => { c with sqHead := (c.sqHead + 1) % c.depth, inFlight := c.inFlight + 1, nextSeq := c.nextSeq + 1 }
  let s := { s with engine := { s.engine with nextId := s.engine.nextId + 1 } }
  if ¬ s.powered 28 ∧ ¬ o.queueOp ∧ (s.fault123 o).isNone then
    { s with engine := { s.engine with tasks := s.engine.tasks ++ [{ o with stage := .check }] } }
  else
    match s.descFault o with
    | none => s.placeOp o
    | some (st, detail) => State.fail o.id st detail { s with engine := { s.engine with tasks := s.engine.tasks ++ [o] } }

/-- A descriptor that waited for check 4 passes checks 4 and 5, under the list in force now, or ends with the status of the first that
fails (R48). -/
def State.resumeCheck (s : State) (o : Op) : State :=
  let s := { s with engine := { s.engine with tasks := s.engine.tasks.filter fun p => p.id != o.id } }
  let o := { o with gen := (s.fnOf o.fn).allowGen, stage := .region }
  match s.fault45 o with
  | none => s.placeOp o
  | some (st, detail) => State.fail o.id st detail { s with engine := { s.engine with tasks := s.engine.tasks ++ [o] } }

/-- PD28 has its power again: the descriptors that waited for check 4 go on, oldest first (R48). -/
def State.resumeChecks (s : State) : State := (s.engine.tasks.filter fun o => o.stage == .check).foldl State.resumeCheck s

/-- DESCRIPTOR_FETCH (R20, R56, R100, R107; one tag stays for the reads of operations, log 10): the Host region's scheduler grants one read of adjacent descriptors to the function owed most;
`queue` is the queue of that function that the engine serves. -/
def execDescriptorFetch (fn : BitVec 8) (queue : BitVec 12) (s : State) : Out :=
  .next (
    let f := fn.toNat
    let q := queue.toNat
    let c := s.queueOf f q
    if ¬ s.fetches ∨ ¬ s.doorbellOpen f ∨ ¬ s.holdsQueue f q ∨ ¬ c.enable ∨ c.broken ∨ s.link.tagMode.limit ≤ s.link.readsOut + 1 ∨
      s.granted 0 (s.hasWork 0) ≠ some f
    then s
    else
      let n := s.fetchCount c
      if n = 0 then s
      else
        let next := (c.sqHead + c.coming) % c.depth
        let s := (s.charge 0 f).modQueue f q fun c => { c with reads := c.reads ++ [(next, n)] }
        State.emit (.read f (c.sqBase + BitVec.ofNat 64 (64 * next)) (64 * n))
          { s with link := { s.link with readsOut := s.link.readsOut + 1 } })

/-- DESCRIPTOR_ARRIVAL (R35, R100): the oldest read of the queue has succeeded, and its descriptors pass checks 1 to 5 in ring order. A
descriptor that the command does not carry reads as zeros. -/
def execDescriptorArrival (fn : BitVec 8) (queue : BitVec 12) (descs : List (BitVec 512)) (s : State) : Out :=
  .next (
    let f := fn.toNat
    let q := queue.toNat
    match (s.queueOf f q).reads with
    | [] => s
    | (_, n) :: rest =>
      let s := State.modQueue f q (fun c => { c with reads := rest }) { s with link := { s.link with readsOut := s.link.readsOut - 1 } }
      ((List.range n).map fun i => descs.getD i 0).foldl (fun s d => s.arrive f q d) s)

/-- STEERING_READ_DONE (R109, R119, R302): the operation may start, and the parameter block of an AES-family PLAN_RUN arrives, and the CRC-32C of its search key picks the
entry of the steering table. -/
def execSteeringReadDone (op : Nat) (params : Sys2Proof.Bytes) (s : State) : Out :=
  .next (s.onOp op 0x0300 .steering fun o s =>
    let p := fit (dParamLen o.desc) params
    let i := crc32c (searchKey (searchTag 0 o.tenant) (searchIdent 0 p)) % 64
    if s.mayStart o then
      (s.readHost o.fn [(dParamPtr o.desc, dParamLen o.desc)]).modOp op fun o => { o with pblk := some p, pipe := some i, stage := .region }
    else s)

/-! ### DRBG instance counts (R144) -/

/-- An operation in flight names a local instance of its function from `lo` up to `hi` (R144, R346). -/
def Op.namesInst (lo hi : Nat) (s : State) (o : Op) : Bool :=
  let uses := if o.opcode = 0x0300 then (match o.recip with
      | some w => w.info.rnd != 0
      | none => false)
    else (match formOf s o with
      | some f => f.drbg
      | none => false)
  uses && decide (lo ≤ dDrbg o.desc) && decide (dDrbg o.desc < hi)

/-- DRBG_COUNT_WRITE (R144): a new count for the function that RES_FUNC selects, or DRBG_REFUSED. -/
def execDrbgCountWrite (value : BitVec 32) (s : State) : Out :=
  .next (s.onBar fun s =>
    let f := s.qmgr.resFunc
    let old := (s.fnOf f).drbgCount
    let n := bits value 12 0
    if 4096 < n ∨ s.qmgr.drbgFree + old < n ∨ s.engine.tasks.any fun o => o.fn == f && o.namesInst n old s then
      { s with qmgr := { s.qmgr with drbgRefused := true } }
    else
      let s := s.modFn f fun x => { x with drbgCount := n }
      { s with qmgr := { s.qmgr with drbgFree := s.qmgr.drbgFree + old - n }
               bellows := { s.bellows with insts := tclear (f * 4096 + n) (f * 4096 + old) s.bellows.insts } })

end Sys2Proof.Machine
end

