-- ==== Sys2Proof/Machine/Dispatching.lean ====
section
/-!
DEFINITION. The dispatch of waiting operations to blocks: the lane, the pipeline or the Hammer unit that takes an operation, check 6 of
R35 with the Rack's indivisible access, and the classes that have no block left (R20, R28, R36, R48, R161, R228 to R230, R302, R308,
R313, R326, R328, R347).
-/
namespace Sys2Proof.Machine

/-- Operation `id` starts in block `b` with the keys that the Rack sent (R36). -/
def State.takeOp (id b : Nat) (keys : List KeyCopy) (s : State) : State :=
  s.modOp id fun o => { o with block := b, stage := .block, keys := keys, ran := true }

/-- Operations that run in block `b`. -/
def State.running (s : State) (b : Nat) : List Op := s.engine.tasks.filter fun o => o.stage == .block && o.block == b

/-- No block of a class is in service (R28). -/
def State.classOut (s : State) (l : List Nat) : Bool := l.all fun b => (s.blockOf b).out

/-- POWER_UP_DONE (R479): the domain is ON and its blocks take work; with PD28 the descriptors that waited for check 4 go on (R48). During
a Quench its memories take no data before step 7 has completed (R436): here the erasures are over when the Quench has started. -/
def execPowerUpDone (pd : Fin 30) (s : State) : Out :=
  .next (
    let d := pd.val
    if (s.domainOf d).st = .poweringUp then
      let s := s.modDomain d fun x => { x with st := .on }
      if d = 28 then s.resumeChecks else s
    else s)

/-! ### Lanes (R161, R228 to R230) -/

/-- The lanes of an opcode's class (R227, R233). -/
def lanesOf (c : Nat) : List Nat :=
  if c = 0x0201 ∨ c = 0x0202 ∨ c = 0x0203 then [5, 6]
  else if (0x0120 ≤ c ∧ c ≤ 0x0123) ∨ (0x0220 ≤ c ∧ c ≤ 0x0223) then [4]
  else [0, 1, 2, 3]

/-- A lane opcode takes a key from its slot: all but HASH, SEAL and UNSEAL (R232, R233). -/
def laneKeyed (c : Nat) : Bool := !(c == 0x0201 || c == 0x0130 || c == 0x0131)

/-- CLASS and MODE that check 6 asks of a lane opcode's key (R161). -/
def laneUse (c : Nat) : Nat × List Char :=
  if c / 256 = 2 then (if c % 2 = 0 then (4, ['G', 'C']) else (4, ['V', 'C']))
  else if c = 0x0110 ∨ c = 0x0112 then (8, ['E', 'B'])
  else if c = 0x0111 ∨ c = 0x0113 then (8, ['D', 'B'])
  else if 0x0120 ≤ c then (if c % 2 = 0 then (5, ['E', 'B']) else (5, ['D', 'B']))
  else if c % 2 = 1 then (5, ['E', 'B'])
  else (5, ['D', 'B'])

/-- The key fits the opcode's algorithm and members (R230). -/
def laneAlgOk (o : Op) (x : Slot) : Bool :=
  let c := o.opcode
  let a := x.attr
  let m := pMember o
  if lanesOf c = [5, 6] then aAlg a == ch 'H'
  else if lanesOf c = [4] then
    aAlg a == ch 'T' && (if c ≤ 0x0123 then aSub a == 3 else if (c = 0x0220 ∨ c = 0x0221) ∧ pMacAlg o = 1 then aSub a == 2 else true)
  else
    aAlg a == ch 'A' && decide (m < aSub a) &&
      (if c = 0x010D ∨ c = 0x010E then
        decide (m + 1 < aSub a) && (aKlen a / aSub a == 16 || aKlen a / aSub a == 32) && member a x.key m != member a x.key (m + 1)
      else true)

/-- Check 6 of a lane opcode on a sound slot: status and DETAIL where it fails (R161, R230, R235). -/
def laneFault (o : Op) (x : Slot) : Option (Nat × Nat) :=
  let u := laneUse o.opcode
  if ¬ admits x.attr u.1 u.2 ∨ ¬ laneAlgOk o x then some (0x0202, o.keySlot)
  else if lanesOf o.opcode = [5, 6] ∧ Sha.hashLen (aSub x.attr) < pT o then some (0x0102, 11)
  else none

/-- The key cache entries that an operation needs: slot and member (R228, R229). -/
def cacheNeeds (o : Op) : List (Nat × Nat) :=
  if ¬ laneKeyed o.opcode then []
  else if o.opcode = 0x010D ∨ o.opcode = 0x010E then [(o.keySlot, pMember o), (o.keySlot, pMember o + 1)]
  else if lanesOf o.opcode = [0, 1, 2, 3] then [(o.keySlot, pMember o)]
  else [(o.keySlot, 0)]

/-- The key cache of a lane, most recently used first. -/
def State.cacheOf (s : State) (lane : Nat) : List CacheEnt := tget [] s.rack.caches lane

/-- Name of a cache entry. -/
def CacheEnt.name (e : CacheEnt) : Nat × Nat := (e.slot, e.member)

/-- Entries that no active stream of the lane uses and that the operation does not need. -/
def State.replaceable (s : State) (lane : Nat) (o : Op) : List CacheEnt :=
  let used := (s.running lane).flatMap cacheNeeds
  (s.cacheOf lane).filter fun e => !used.contains e.name && !(cacheNeeds o).contains e.name

/-- The needed entries that a lane does not hold. -/
def State.missing (s : State) (lane : Nat) (o : Op) : List (Nat × Nat) :=
  (cacheNeeds o).filter fun n => !(s.cacheOf lane).any fun e => e.name == n

/-- A lane qualifies: in service with power, a free stream of its 64, and room for every key in its 64 entries (R227, R228). -/
def State.qualifies (s : State) (o : Op) (lane : Nat) : Bool :=
  s.blockState lane == 0 && decide ((s.running lane).length < 64) &&
    decide ((s.cacheOf lane).length + (s.missing lane o).length ≤ 64 + (s.replaceable lane o).length)

/-- The better of two lanes: the keys cached, then the fewest active streams, then the lowest number (R228). -/
def State.betterLane (s : State) (o : Op) (a b : Nat) : Nat :=
  let ca := (s.missing a o).isEmpty
  let cb := (s.missing b o).isEmpty
  if ca ∧ ¬ cb then a
  else if cb ∧ ¬ ca then b
  else if (s.running b).length < (s.running a).length then b
  else a

/-- The lane that takes an operation (R228). -/
def State.laneFor (s : State) (o : Op) : Option Nat :=
  match (lanesOf o.opcode).filter (s.qualifies o) with
  | [] => none
  | a :: t => some (t.foldl (s.betterLane o) a)

/-- Drop the entry used least recently among those that may go. -/
def dropOldest (may : List CacheEnt) (l : List CacheEnt) : List CacheEnt :=
  match l.reverse.find? fun e => may.contains e with
  | some e => l.erase e
  | none => l

/-- GCM and GMAC use the powers of the hash key (R229). -/
def usesGhash (c : Nat) : Bool := c == 0x0109 || c == 0x010A || c == 0x0212 || c == 0x0213

/-- The entry that a lane makes of a key for an operation (R229): round keys, with the powers of H where the operation uses them or the entry had
them; for HMAC the chaining states, masked. -/
def State.cacheEntry (s : State) (lane : Nat) (o : Op) (x : Slot) (n : Nat × Nat) : CacheEnt :=
  let e : CacheEnt := { slot := n.1, member := n.2 }
  if 5 ≤ lane then
    let st := Sha.hmacStates (aSub x.attr) x.key
    let m := fit st.length (Config.laneMask (tget 0 s.rack.maskSeeds lane) s.free st.length)
    { e with chain := xorB st m, mask := m }
  else if lane = 4 then { e with rounds := (List.range 3).flatMap fun i => (Des.roundKeys (Des.part x.key i)).map Des.ofBits }
  else
    let ks := Aes.roundKeys (member x.attr x.key n.2)
    let had := (s.cacheOf lane).any fun c => c.name == n && c.hPow != []
    { e with
      rounds := ks
      hPow := if usesGhash o.opcode ∨ had then (Modes.hPowers (beNat (Aes.encWith ks (List.replicate 16 0))) 16).map (BitVec.ofNat 128) else [] }

/-- The lane's cache after it has taken the operation's keys: the needed entries first, replacing the least recently used (R229). -/
def State.fillCache (lane : Nat) (o : Op) (x : Slot) (s : State) : State :=
  let l := s.cacheOf lane
  let keep := l.filter fun e => !(cacheNeeds o).contains e.name
  let need := (cacheNeeds o).map (s.cacheEntry lane o x)
  let room := (List.range (need.length + keep.length - 64)).foldl (fun l _ => dropOldest (s.replaceable lane o) l) keep
  State.spend 1 { s with rack := { s.rack with caches := tset [] lane (need ++ room) s.rack.caches } }

/-- Dispatch an operation of the Cipher region; none while it waits (R28, R36, R48, R228). -/
def State.tryLane (s : State) (o : Op) : Option State :=
  let lanes := lanesOf o.opcode
  if s.classOut lanes then some (s.fail o.id 0x0302 (lanes.headD 0))
  else if laneKeyed o.opcode ∧ ¬ s.powered 28 then none
  else
    match s.laneFor o with
    | none => none
    | some b =>
      if laneKeyed o.opcode then
        some (s.rackAccess o o.keySlot fun x s =>
          match laneFault o x with
          | some (st, d) => s.fail o.id st d
          | none => (s.fillCache b o x).takeOp o.id b [copyOf o.keySlot x])
      else some (s.takeOp o.id b [])

/-! ### Plan pipelines (R28, R302) -/

/-- Pipelines by transactions under way: the fewest, the lowest number among equals (DESIGN CHOICE, log 34). -/
def State.pipeFor (s : State) : Option Nat :=
  let load (p : Nat) : Nat := (s.engine.tasks.filter fun o => o.block == 8 + p && (o.stage == .block || o.stage == .context)).length
  match (List.range 8).filter fun p => s.blockState (8 + p) == 0 with
  | [] => none
  | a :: t => some (t.foldl (fun a b => if load b < load a then b else a) a)

/-- Dispatch a PLAN_RUN to its pipeline (R28, R302, R303). -/
def State.tryPipe (s : State) (o : Op) : Option State :=
  if s.classOut ((List.range 8).map (· + 8)) then some (s.fail o.id 0x0302 8)
  else
    match o.pipe with
    | some i => if s.blockState (8 + s.steerOf i) = 0 then some (s.takeOp o.id (8 + s.steerOf i) []) else none
    | none => s.pipeFor.map fun p => s.takeOp o.id (8 + p) []

/-! ### Hammer units (R308, R313, R326, R328) -/

/-- A Hammer opcode takes a key slot (R311). -/
def jobKeyed (c : Nat) : Bool := c == 0x0410 || c == 0x0412 || c == 0x0413 || c == 0x0414 || c == 0x0416

/-- Check 6 of a Hammer opcode on a sound slot, with the rules that need the key's curve (R161, R311, R313, R319, R320). -/
def jobFault (o : Op) (x : Slot) : Option (Nat × Nat) :=
  let c := o.opcode
  let a := x.attr
  let sub := aSub a
  let n := dDlen o.desc
  let signing := admits a 9 ['S']
  let agreement := admits a 10 ['X']
  let use := if c = 0x0413 then signing || agreement else if c = 0x0412 ∨ c = 0x0416 then agreement else signing
  let lo := if c = 0x0414 then 5 else if c = 0x0416 then 7 else 1
  let hi := if c = 0x0410 ∨ c = 0x0412 then 4 else if c = 0x0414 then 6 else 8
  if ¬ use ∨ aAlg a ≠ ch 'E' ∨ sub < lo ∨ hi < sub then some (0x0202, o.keySlot)
  else if c = 0x0412 ∧ n ≠ 1 + 2 * (Ecc.curve sub).len then some (0x0103, 12)
  else if c = 0x0416 ∧ n ≠ Ecc.keyLen sub then some (0x0103, 12)
  else if c = 0x0414 ∧ sub = 5 ∧ pArg0 o ≠ 0 then some (0x0102, 36)
  else none

/-- The units that a request may use (R28, R308). -/
def unitsFor (prio : Bool) : List Nat := (List.range (if prio then 64 else 60)).map (· + 0x40)

/-- A job draws from its local instance (R325). -/
def drawsLocal (s : State) (o : Op) : Bool :=
  match formOf s o with
  | some f => f.drbg
  | none => false

/-- The unit that takes a job, and whether it preempts the unit's job (R308, R328). -/
def State.unitFor (s : State) (o : Op) : Option (Nat × Bool) :=
  match s.chooseUnit o.prio with
  | some u => some (u, false)
  | none =>
    if ¬ o.prio then none
    else if o.rate.2 then (s.victim o.rate.1).map fun u => (u, true)
    else none

/-- A job takes its unit, or marks the unit's job to yield; an uninstantiated instance ends it before (R308, R326, R328). -/
def State.takeUnit (o : Op) (u : Nat) (preempts : Bool) (s : State) : State :=
  if drawsLocal s o ∧ ¬ (s.instOf o.fn (dDrbg o.desc)).up then s.fail o.id 0x0401 (dDrbg o.desc)
  else
    (s.takeOp o.id (0x40 + u) o.keys).modUnit u fun x =>
      if preempts then { x with marked := some o.id } else { x with job := some o.id, lower := o.keys.flatMap KeyCopy.material }

/-- Dispatch a job of the Number region; none while it waits (R28, R36, R48, R308). -/
def State.tryUnit (s : State) (o : Op) : Option State :=
  let keyed := jobKeyed o.opcode
  if s.classOut (unitsFor o.prio) then some (s.fail o.id 0x0302 0x40)
  else if keyed ∧ ¬ s.powered 28 then none
  else
    let o := if keyed then { o with keys := [copyOf o.keySlot (s.slotOf o.keySlot)] } else o
    match s.unitFor o with
    | none => none
    | some (u, preempts) =>
      if keyed then
        some (s.rackAccess o o.keySlot fun x s =>
          match jobFault o x with
          | some (st, d) => s.fail o.id st d
          | none => s.takeUnit o u preempts)
      else some (s.takeUnit o u preempts)

/-! ### Bellows (R28, R347) -/

/-- Dispatch an operation of the random family to the DRBG block. A generate request takes the lowest-numbered free generator core when the
requests for its instance that came before it have been served (R347). -/
def State.tryRandom (s : State) (o : Op) : Option State :=
  if (s.blockOf 0x13).out then some (s.fail o.id 0x0302 0x13)
  else if s.blockState 0x13 ≠ 0 then none
  else if o.opcode ≠ 0x0502 then some ((s.takeOp o.id 0x13 []).askInst o.id)
  else
    match s.coreFor o.id with
    | some c => if s.askedBefore o = [] then some (((s.takeOp o.id 0x13 []).askInst o.id).takeCore c o.id) else none
    | none => none

/-! ### The schedulers (R20) -/

/-- Number of a region, and how it dispatches an operation. -/
def State.tryIn (s : State) (o : Op) : Region → Option State
  | .cipher => s.tryLane o
  | .plan => s.tryPipe o
  | .number => s.tryUnit o
  | .random => s.tryRandom o

/-- The families of a region (R117). -/
def regionServes : Region → Nat → Bool
  | .cipher, c => c / 256 == 1 || c / 256 == 2
  | .plan, c => c == 0x0300
  | .number, c => c / 256 == 4
  | .random, c => c / 256 == 5

/-- The oldest operation of function `f` that the region can dispatch now, and the state after (R20, R109). -/
def State.nextOf (s : State) (r : Region) (f : Nat) : Option State :=
  (s.engine.tasks.filter fun o => o.fn == f && o.stage == .region && regionServes r o.opcode && s.mayStart o).findSome? fun o => s.tryIn o r

/-- REGION_DISPATCH (R20, R36): the region's scheduler grants one dispatch to the function owed most; Bellows serves the functions in turn
(R347). -/
def execRegionDispatch (region : Region) (s : State) : Out :=
  .next (
    match region with
    | .random =>
      match roundRobin 256 (tget 255 s.engine.rrLast 0x13) fun f => (s.nextOf .random f).isSome with
      | none => s
      | some f => (s.nextOf .random f).getD s |> fun t => { t with engine := { t.engine with rrLast := tset 255 0x13 f t.engine.rrLast } }
    | r =>
      let n := match r with
        | .cipher => 1
        | .plan => 2
        | _ => 3
      match s.granted n fun f => (s.nextOf r f).isSome with
      | none => s
      | some f => ((s.charge n f).nextOf r f).getD s)

end Sys2Proof.Machine
end

