-- ==== Sys2Proof/Machine/Legacy.lean ====
section
/-!
DEFINITION. The Nolur 3 compatibility window: framing, the legacy master key, the commands and their error codes (R535 to R551).
-/
namespace Sys2Proof.Machine

open Payment (End Txn)

/-! ### Frames and fields (R542, R546) -/

/-- The kinds of request fields. -/
inductive LField
  /-- a key under LMK or under a ZMK: '2' and 32 hex, or '3' and 48 hex -/
  | key
  /-- a type of R545 -/
  | ty
  /-- a scheme digit, '2' or '3' -/
  | scheme
  /-- hex digits -/
  | hex (n : Nat)
  /-- decimal digits -/
  | dec (n : Nat)
  /-- twelve digits, filled with 'F' -/
  | offset
  /-- a two-digit length, then the PAN -/
  | af
  /-- byte count and data: at most so many bytes, a multiple of -/
  | data (most multiple : Nat)
  /-- a count of random bytes -/
  | count
  /-- a card verification value -/
  | value
  /-- a MAC, hex -/
  | mac
deriving DecidableEq, Repr

/-- Every character is a decimal digit. -/
def allDec (b : Bytes) : Bool := b.all fun c => decide (0x30 ≤ c.toNat) && decide (c.toNat ≤ 0x39)

/-- An upper-case hex digit. -/
def isHex (c : Byte) : Bool := (decide (0x30 ≤ c.toNat) && decide (c.toNat ≤ 0x39)) || (decide (0x41 ≤ c.toNat) && decide (c.toNat ≤ 0x46))

/-- Every character is an upper-case hex digit. -/
def allHex (b : Bytes) : Bool := b.all isHex

/-- Value of a decimal field, 0 where it is none. -/
def decOf (b : Bytes) : Nat := (undec b).getD 0

/-- Bytes of a hex field. -/
def hexOf (b : Bytes) : Bytes := (unhexText b).getD []

/-- Nibbles of a field of hex or decimal characters. -/
def digitsOf (b : Bytes) : List Nat := b.map fun c => (unhex c).getD 15

/-- The types of R545: letters, V, class, usages. -/
def legTypes : List (String × Nat × Nat × List Nat) :=
  [("ZM", 0x00, 7, [use2 'K' '0']), ("ZP", 0x1E, 3, [use2 'P' '0']), ("TP", 0x2D, 2, [use2 'P' '0']),
   ("PV", 0x3C, 4, [use2 'V' '1', use2 'V' '2']), ("CV", 0x4B, 4, [use2 'C' '0']), ("MA", 0x5A, 4, [use2 'M' '3']),
   ("BD", 0x69, 1, [use2 'B' '0']), ("DK", 0x78, 5, [use2 'D' '0']), ("EM", 0x87, 4, [use2 'E' '0'])]

/-- V of a type. -/
def legV (ty : Bytes) : Option Nat := (legTypes.find? fun t => ascii t.1 == ty).map (·.2.1)

/-- The fault of one field: F01, or K03 for a key field (R549). -/
def LField.fault (k : LField) (b : Bytes) : Option String :=
  let f (ok : Bool) : Option String := if ok then none else some "F01"
  match k with
  | .key =>
    if allHex (b.drop 1) && ((byteAt b 0 == 0x32 && b.length == 33) || (byteAt b 0 == 0x33 && b.length == 49)) then none else some "K03"
  | .ty => f (legV b).isSome
  | .scheme => f (b == [0x32] || b == [0x33])
  | .hex n => f (b.length == n && allHex b)
  | .dec n => f (b.length == n && allDec b)
  | .offset => f (b.length == 12 && b.all fun c => allDec [c] || c == 0x46)
  | .af => f (allDec b && decide (2 ≤ b.length) && b.length == 2 + decOf (b.take 2))
  | .data most m =>
    let n := decOf (b.take 4)
    f (decide (4 ≤ b.length) && allDec (b.take 4) && allHex (b.drop 4) && b.length == 4 + 2 * n && decide (n ≤ most) && n % m == 0)
  | .count => f (b.length == 3 && allDec b && decide (1 ≤ decOf b) && decide (decOf b ≤ 256))
  | .value => f (decide (3 ≤ b.length) && decide (b.length ≤ 5) && allDec b)
  | .mac => f (allHex b && b.length % 2 == 0 && decide (8 ≤ b.length) && decide (b.length ≤ 16))

/-- Fields of a PIN command after its two keys or key: PB, FI, FO, AN. -/
def pinFields : List LField := [.hex 16, .dec 2, .dec 2, .dec 12]

/-- Fields of an ARQC command. -/
def arqcFields : List LField := [.key, .af, .dec 2, .hex 4, .hex 16, .data 256 1]

/-- The commands of R546 with their request fields. -/
def legGrammar : List (String × List LField) :=
  [("SS", []), ("SV", []), ("SN", []), ("SE", [.data 512 1]), ("SL", []), ("SC", []), ("SD", []), ("SA", []), ("RN", [.count]),
   ("KG", [.ty, .scheme]), ("KX", [.ty, .scheme, .key]), ("KI", [.ty, .key, .key]), ("KE", [.ty, .key, .key]), ("KC", [.ty, .key]),
   ("KQ", [.ty, .key, .hex 6])] ++
  [("PT", [.key, .key] ++ pinFields), ("PA", [.key, .key] ++ pinFields), ("PD", [.key, .key, .hex 20] ++ pinFields),
   ("PV", [.key, .key, .hex 16, .dec 2, .dec 12, .hex 16, .dec 16, .offset, .dec 2]),
   ("PW", [.key, .key, .hex 16, .dec 2, .dec 12, .hex 16, .dec 16, .offset, .dec 2]),
   ("PX", [.key, .key, .hex 16, .dec 2, .dec 12, .dec 1, .dec 4]), ("PY", [.key, .key, .hex 16, .dec 2, .dec 12, .dec 1, .dec 4])] ++
  [("VG", [.key, .af, .dec 4, .dec 3, .dec 1]), ("VV", [.key, .af, .dec 4, .dec 3, .dec 1, .value]),
   ("VH", [.key, .af, .dec 4, .dec 1]), ("VJ", [.key, .af, .dec 4, .dec 1, .value]),
   ("VK", [.key, .af, .dec 4, .dec 1]), ("VL", [.key, .af, .dec 4, .dec 1, .value])] ++
  [("QV", arqcFields), ("QA", arqcFields ++ [.hex 4]), ("QB", arqcFields ++ [.hex 8]),
   ("QW", arqcFields), ("QX", arqcFields ++ [.hex 4]), ("QY", arqcFields ++ [.hex 8]),
   ("MG", [.key, .dec 1, .dec 1, .data 512 1]), ("MV", [.key, .dec 1, .dec 1, .data 512 1, .mac]),
   ("DE", [.key, .hex 16, .data 512 8]), ("DD", [.key, .hex 16, .data 512 8]), ("EE", [.key, .data 512 8]), ("ED", [.key, .data 512 8])]

/-- The commands of R548, answered N01. -/
def legBarred : List String := ["KZ", "KL", "KY", "XA", "XD", "XP", "PN", "PR", "PO", "PG"]

/-- A string split at every '|'. -/
def splitBar : Bytes → List Bytes
  | [] => [[]]
  | b :: t =>
    match splitBar t with
    | [] => [[b]]
    | x :: r => if b = 0x7C then [] :: x :: r else (b :: x) :: r

/-- The command code of a frame. -/
def legCode (frame : Bytes) : Bytes := slice frame 5 2

/-- The fields of a frame. -/
def legFields (frame : Bytes) : List Bytes :=
  let body := (frame.drop 7).dropLast
  if body = [] then [] else splitBar (body.drop 1)

/-- An upper-case letter. -/
def isUpper (c : Byte) : Bool := decide (0x41 ≤ c.toNat) && decide (c.toNat ≤ 0x5A)

/-- The frame obeys R542, but for the number of its fields. -/
def frameOk (len : Nat) (frame : Bytes) : Bool :=
  let body := (frame.drop 7).dropLast
  decide (8 ≤ len) && decide (len ≤ 1536) && byteAt frame 0 == 0x3C && allHex (slice frame 1 4) && (legCode frame).all isUpper &&
    byteAt frame (len - 1) == 0x3E && frame.all (fun c => decide (0x20 ≤ c.toNat) && decide (c.toNat ≤ 0x7E)) &&
    body.all (fun c => c != 0x3C && c != 0x3E) && (body == [] || byteAt body 0 == 0x7C)

/-- The first faulty field. -/
def fieldsFault : List LField → List Bytes → Option String
  | k :: t, b :: r => match k.fault b with
    | some e => some e
    | none => fieldsFault t r
  | _, _ => none

/-- The MAC of MV has two characters for each byte of its length (R546). -/
def macFits (f : List Bytes) : Bool := (f.getD 4 []).length == 2 * decOf (f.getD 1 [])

/-- LEGACY.STATUS.READY (R544): the slot that holds the LMK is one of its conditions. -/
def State.legacyReady (s : State) : Bool :=
  (s.legacy.lmkSlot.any fun n => aValid (s.slotOf n).attr) && s.legacy.scratch == 4 && s.chip.state == .ready && s.worlds.vaultUp

/-- The status with which a request is answered at once; none where the Hearth serves it, or a row of R548 answers it. Where several
apply, the order is the model's (DESIGN CHOICE, log 35). -/
def State.legacyAtOnce (s : State) (len : Nat) (frame : Bytes) : Option String :=
  let code := legCode frame
  if s.chip.state = .locked then some "S01"
  else if s.chip.state ≠ .ready then some "S05"
  else if ¬ s.worlds.vaultUp then some "S02"
  else if ¬ frameOk len frame then some "F02"
  else if legBarred.any fun c => ascii c == code then none
  else
    match legGrammar.find? fun g => ascii g.1 == code with
    | none => some "N02"
    | some g =>
      if ¬ s.legacy.bound then some "K04"
      else if ¬ s.legacyReady then some "K05"
      else if (legFields frame).length ≠ g.2.length then some "F02"
      else
        match fieldsFault g.2 (legFields frame) with
        | some e => some e
        | none => if code = ascii "MV" ∧ ¬ macFits (legFields frame) then some "F01" else none

/-- A write of GO (R540, R549 to R551): REQ_LEN bytes of REQ go to the Hearth and BUSY is set; while BUSY is 1 the write sets OVERRUN
and changes nothing. -/
def State.legacyGo (s : State) : State :=
  if ¬ s.chip.legacy then s
  else if s.legacy.busy then { s with legacy := { s.legacy with overrun := true } }
  else
    let frame := slice s.legacy.req 0 (min 1536 s.legacy.reqLen)
    let s := { s with legacy := { s.legacy with busy := true, snap := frame } }
    match s.legacyAtOnce s.legacy.reqLen frame with
    | some st => s.legacyNow st
    | none => { s with worlds := { s.worlds with pendingSvc := s.worlds.pendingSvc ++ [.legacy] } }

/-- LEGACY_GO. -/
def execLegacyGo (s : State) : Out := .next (s.onBar fun s => s.legacyGo)

/-- LEGACY_RESPONSE_RELEASE (R540, R550): the response that the Hearth formed is released. -/
def execLegacyResponseRelease (s : State) : Out :=
  .next (
    match s.legacy.answer with
    | some rsp => s.legacyRelease rsp
    | none => s)

/-! ### The legacy master key (R543 to R545) -/

/-- The slot may be bound: cause 1 and 2 of LMK_STATUS. -/
def lmkFault (x : Slot) : Option Nat :=
  let a := x.attr
  if ¬ aValid a ∨ aTenant a ≠ 0 then some 1
  else if aClass a = 7 ∧ aUsage a = use2 'K' '0' ∧ aAlg a = ch 'T' ∧ aSub a = 3 ∧ aKlen a = 24 ∧ aMode a = ch 'B' ∧
      aExport a = ch 'N' ∧ bits a 95 92 = 2 then none
  else some 2

/-- A binding is refused; an earlier one stays (R543). -/
def State.refuseLmk (cause : Nat) (s : State) : State := { s with legacy := { s.legacy with refused := true, cause := cause } }

/-- A write of GO to LEGACY.LMK_BIND (R157, R543): the slot, the state, the quota, then the stored copy under the persistent-area key of
R179. A slot whose CHECK does not match is erased, and so not VALID. -/
def State.bindLmk (n : Nat) (s : State) : State :=
  if ¬ s.chip.legacy then s
  else
    let s := { s with legacy := { s.legacy with bindSlot := n } }
    let x := s.slotOf n
    match (if aValid x.attr ∧ x.check ≠ s.checkOf n x then none else some (lmkFault x)) with
    | none => (s.slotFault n 1).refuseLmk 1
    | some (some c) => s.refuseLmk c
    | some none =>
      if s.chip.state ≠ .ready ∨ ¬ s.worlds.vaultUp then s.refuseLmk 4
      else
        match (if s.legacy.bound then some s else s.reserveStore 0 1) with
        | none => s.refuseLmk 3
        | some s =>
          let k := leBytes 3 (aKcv x.attr)
          State.wroteArea x.key.length { s with legacy := { s.legacy with
              lmk := x.key, lmkSeal := s.tpaKey 0 (s.epochOf 0), lmkAttr := x.attr, bound := true, kcv := BitVec.ofNat 24 (beNat k) } }

/-- LMK_BIND (R543). -/
def execLmkBind (slot : BitVec 16) (s : State) : Out := .next (s.onBar fun s => s.bindLmk slot.toNat)

/-- The LMK in its slot. -/
def State.lmkKey (s : State) : Bytes :=
  match s.legacy.lmkSlot with
  | some n => (s.slotOf n).key
  | none => []

/-- The type key of V: the last byte of each part of the LMK with V (R545). -/
def typeKey (lmk : Bytes) (v : Nat) : Bytes :=
  let p : Bytes := [0, 0, 0, 0, 0, 0, 0, BitVec.ofNat 8 v]
  xorB lmk (p ++ p ++ p)

/-- A key as a scratch slot receives it (R545): ALG 'T', SUB and KLEN of its parts. -/
def scratchKey (key : Bytes) : KeyCopy := derivedKey 'T' key

/-- The key of a field under the LMK; none where a byte has even parity. -/
def State.openKey (s : State) (v : Nat) (field : Bytes) : Option Bytes :=
  let key := Modes.ecb (Des.dec (typeKey s.lmkKey v)) 8 (hexOf (field.drop 1))
  if Payment.parityOk key then some key else none

/-- A key field in hex, with the scheme digit of its length. -/
def keyText (b : Bytes) : Bytes := (if b.length = 16 then [0x32] else [0x33]) ++ hexText b

/-- A key under the LMK, as a response field. -/
def State.underLmk (s : State) (v : Nat) (key : Bytes) : Bytes := keyText (Modes.ecb (Des.enc (typeKey s.lmkKey v)) 8 key)

/-- The KCV of a TDES key, in hex. -/
def kcvText (key : Bytes) : Bytes := hexText (kcvOf (ch 'T') (key.length / 8) key)

/-- The LMK's KCV, in hex. -/
def State.lmkKcv (s : State) : Bytes := hexText (beBytes 3 s.legacy.kcv.toNat)

/-! ### Serving a command (R546, R549, R550) -/

/-- The Hearth forms the response: its service ends, and the response waits for its release. -/
def State.legAnswer (status : String) (fields : List Bytes) (s : State) : State :=
  let rsp := legacyFrame s.legacy.snap (ascii status) fields
  State.serviceRegs 0 0 rsp.length { s with
    legacy := { s.legacy with answer := some rsp }, worlds := { s.worlds with running := none } }

/-- A command reads the LMK through the control port, which checks its slot (R157): where the CHECK does not match, the LMK is gone and K05
is answered (DESIGN CHOICE, log 35). -/
def State.withLmk (k : State → State) (s : State) : State :=
  match s.legacy.lmkSlot.filter fun n => (s.slotOf n).check != s.checkOf n (s.slotOf n) with
  | some n => (s.slotFault n 1).legAnswer "K05" []
  | none => k s

/-- Serve a command where it is the one that the Hearth runs. -/
def State.onLegacy (code : String) (act : List Bytes → State → State) (s : State) : State :=
  if s.worlds.running = some .legacy ∧ legCode s.legacy.snap = ascii code ∧ s.legacy.answer.isNone then
    act (legFields s.legacy.snap) s
  else s

/-- Field `i`. -/
def fld (f : List Bytes) (i : Nat) : Bytes := f.getD i []

/-- A key field of a type reaches `k`, or K01 (R545). -/
def State.withKey (v : Nat) (field : Bytes) (k : Bytes → State → State) (s : State) : State :=
  s.withLmk fun s =>
    match s.openKey v field with
    | some key => k key s
    | none => s.legAnswer "K01" []

/-- The status of a plan's end (R549). -/
def planStatus (err : BitVec 32) : Option String :=
  match (List.range 32).find? fun b => err.getLsbD b with
  | none => none
  | some b =>
    some (if b ≤ 1 then "P02" else if b = 2 then "K02" else if b = 3 then "P03" else if b = 4 then "D01" else if b ≤ 8 then "P01"
      else if b ≤ 10 then "P04" else "K01")

/-- No plan pipeline is in service (R28). -/
def State.noPipe (s : State) : Bool := (List.range 8).all fun p => (s.blockOf (8 + p)).out

/-- A plan of the standard bundle runs for a command (R550) and reaches `k` with its end, where no error bit is set; else the status of
the lowest bit is answered and the completion recorded (R267, R549). With no pipeline in service the answer is S02 (R28). -/
def State.legRun (plan : Nat) (t : Txn) (k : End → State → State) (s : State) : State :=
  match (if s.noPipe then none else Payment.run plan t) with
  | none => s.legAnswer "S02" []
  | some e =>
    match planStatus e.err with
    | some st => ((s.countRate 3 0 t.data.length).log 0x0002 0x10 (leBytes 2 plan ++ leBytes 4 e.err.toNat)).legAnswer st []
    | none => k e (s.countRate 3 1 t.data.length)

/-- Run a plan for a command: its outcome by R549, with the fields of an A00 response. -/
def State.legPlan (plan : Nat) (t : Txn) (fields : End → List Bytes) (s : State) : State :=
  s.legRun plan t fun e s => s.legAnswer "A00" (fields e)

/-- A verify plan: verdict 1 answers V01. -/
def State.legVerify (plan : Nat) (t : Txn) (fields : End → List Bytes) (s : State) : State :=
  s.legRun plan t fun e s => if byteAt e.result 0 = 0 then s.legAnswer "A00" (fields e) else s.legAnswer "V01" []

/-- The parameter block of R264 from parts, each at its offset. -/
def paramBlock (parts : List (Nat × Bytes)) : Bytes := parts.foldl (fun p x => patch p x.1 x.2) (List.replicate 80 0)

/-- The PAN fields of a parameter block from digits. -/
def panParts (digits : List Nat) : List (Nat × Bytes) :=
  [(14, [BitVec.ofNat 8 digits.length]), (32, Payment.ofNibs (Payment.fill 20 15 digits))]

/-- The PAN of AN: its digits and a check digit 0 (R546). -/
def anParts (an : Bytes) : List (Nat × Bytes) := panParts (digitsOf an ++ [0])

/-- The data of an L field. -/
def dataOf (l : Bytes) : Bytes := hexOf (l.drop 4)

/-- An L field. -/
def dataText (b : Bytes) : Bytes := decText 4 b.length ++ hexText b

/-- The Hearth's draw for a plan or a key; S03 where the source has failed (R549). -/
def State.legDraw (n : Nat) (k : Bytes → State → State) (s : State) : State := s.hearthDraw n k fun s => s.legAnswer "S03" []

/-! ### S and R commands -/

/-- SS: status. -/
def execLegSs (s : State) : Out :=
  .next (s.onLegacy "SS" fun _ s =>
    s.legAnswer "A00" [decText 1 s.chip.state.code, hexText [0x10], hexText (beBytes 4 (tget 0 s.life.versions 0).toNat), s.lmkKcv])

/-- SV: image versions. -/
def execLegSv (s : State) : Out :=
  .next (s.onLegacy "SV" fun _ s =>
    s.legAnswer "A00" ([0, 1, 2].map fun k => hexText (beBytes 4 (tget 0 s.life.versions k).toNat)))

/-- SN: serial. -/
def execLegSn (s : State) : Out :=
  .next (s.onLegacy "SN" fun _ s => s.legAnswer "A00" [hexText (beBytes 8 s.trims.identity.toNat)])

/-- SE: echo. -/
def execLegSe (s : State) : Out := .next (s.onLegacy "SE" fun f s => s.legAnswer "A00" [fld f 0])

/-- SL: LMK check. -/
def execLegSl (s : State) : Out := .next (s.onLegacy "SL" fun _ s => s.legAnswer "A00" [s.lmkKcv])

/-- SC: LEGACY.COUNT. -/
def execLegSc (s : State) : Out := .next (s.onLegacy "SC" fun _ s => s.legAnswer "A00" [decText 10 s.legacy.count.toNat])

/-- SD: operating seconds. -/
def execLegSd (s : State) : Out := .next (s.onLegacy "SD" fun _ s => s.legAnswer "A00" [decText 10 s.store.opsec.toNat])

/-- SA: self-test. Which digit stands for what is open. -/
def execLegSa (s : State) : Out :=
  .next (s.onLegacy "SA" fun _ s => (s.spend 1).legAnswer "A00" [if Config.selfTest s.free then [0x31] else [0x30]])

/-- RN: random bytes. -/
def execLegRn (s : State) : Out :=
  .next (s.onLegacy "RN" fun f s => s.legDraw (decOf (fld f 0)) fun b s => s.legAnswer "A00" [hexText b])

/-! ### K commands -/

/-- Bytes of a key of a scheme. -/
def schemeLen (f : Bytes) : Nat := if f = [0x32] then 16 else 24

/-- KG: generate a key. -/
def execLegKg (s : State) : Out :=
  .next (s.onLegacy "KG" fun f s =>
    s.withLmk fun s =>
      s.legDraw (schemeLen (fld f 1)) fun b s =>
        let key := b.map Des.oddParity
        s.legAnswer "A00" [s.underLmk ((legV (fld f 0)).getD 0) key, kcvText key])

/-- Plan 0x0060 for a command: the ciphertext of a key from one key-encryption key to another. -/
def xlateTxn (k0 k1 cipher : Bytes) : Txn :=
  { p := paramBlock [(48, cipher), (72, [BitVec.ofNat 8 cipher.length])], k0 := scratchKey k0, k1 := scratchKey k1 }

/-- The KCV of a plan's result, in hex. -/
def endKcv (e : End) : Bytes := hexText (e.result.take 3)

/-- KX: generate a key and export it under a ZMK. -/
def execLegKx (s : State) : Out :=
  .next (s.onLegacy "KX" fun f s =>
    s.withKey 0 (fld f 2) fun zmk s =>
      s.legDraw (schemeLen (fld f 1)) fun b s =>
        let key := b.map Des.oddParity
        let v := (legV (fld f 0)).getD 0
        let variant := typeKey s.lmkKey v
        s.legPlan 0x60 (xlateTxn variant zmk (Modes.ecb (Des.enc variant) 8 key)) fun e =>
          [s.underLmk v key, keyText e.out, endKcv e])

/-- KI: import a key from under a ZMK. -/
def execLegKi (s : State) : Out :=
  .next (s.onLegacy "KI" fun f s =>
    s.withKey 0 (fld f 1) fun zmk s =>
      s.legPlan 0x60 (xlateTxn zmk (typeKey s.lmkKey ((legV (fld f 0)).getD 0)) (hexOf ((fld f 2).drop 1))) fun e =>
        [keyText e.out, endKcv e])

/-- KE: export a key under a ZMK; a zone master key or a BDK is refused. -/
def execLegKe (s : State) : Out :=
  .next (s.onLegacy "KE" fun f s =>
    if fld f 0 = ascii "ZM" ∨ fld f 0 = ascii "BD" then s.legAnswer "K02" []
    else
      s.withKey 0 (fld f 1) fun zmk s =>
        s.legPlan 0x60 (xlateTxn (typeKey s.lmkKey ((legV (fld f 0)).getD 0)) zmk (hexOf ((fld f 2).drop 1))) fun e =>
          [keyText e.out, endKcv e])

/-- KC: check value. -/
def execLegKc (s : State) : Out :=
  .next (s.onLegacy "KC" fun f s =>
    s.withKey ((legV (fld f 0)).getD 0) (fld f 1) fun key s => s.legAnswer "A00" [kcvText key])

/-- KQ: compare a check value. -/
def execLegKq (s : State) : Out :=
  .next (s.onLegacy "KQ" fun f s =>
    s.withKey ((legV (fld f 0)).getD 0) (fld f 1) fun key s =>
      s.legAnswer (if kcvText key = fld f 2 then "A00" else "V01") [])

/-! ### P commands -/

/-- V of the types that the commands name. -/
def vZP : Nat := 0x1E
/-- Terminal PIN key. -/
def vTP : Nat := 0x2D
/-- PIN verification key. -/
def vPV : Nat := 0x3C
/-- Card verification key. -/
def vCV : Nat := 0x4B
/-- MAC key. -/
def vMA : Nat := 0x5A
/-- Base derivation key. -/
def vBD : Nat := 0x69
/-- Data key. -/
def vDK : Nat := 0x78
/-- EMV issuer master key. -/
def vEM : Nat := 0x87

/-- Format fields as parameter bytes; format "04" is refused with P02 (R549). -/
def fmtByte (f : Bytes) : Bytes := [BitVec.ofNat 8 (decOf f)]

/-- A PIN translation between two keys under LMK: 0x0010. -/
def State.legXlate (vIn : Nat) (f : List Bytes) (s : State) : State :=
  if decOf (fld f 3) = 4 ∨ decOf (fld f 4) = 4 then s.legAnswer "P02" []
  else
    s.withKey vIn (fld f 0) fun k0 s =>
      s.withKey vZP (fld f 1) fun k1 s =>
        s.legDraw 8 fun rnd s =>
          let p := paramBlock ([(12, fmtByte (fld f 3)), (13, fmtByte (fld f 4)), (16, hexOf (fld f 2))] ++ anParts (fld f 5))
          s.legPlan 0x10 { p := p, rnd := rnd, k0 := scratchKey k0, k1 := scratchKey k1 } fun e => [hexText e.out]

/-- PT: zone to zone. -/
def execLegPt (s : State) : Out := .next (s.onLegacy "PT" fun f s => s.legXlate vZP f)

/-- PA: terminal to zone. -/
def execLegPa (s : State) : Out := .next (s.onLegacy "PA" fun f s => s.legXlate vTP f)

/-- PD (R547): TDES DUKPT to zone, by the TDES routes of tenant 0. -/
def execLegPd (s : State) : Out :=
  .next (s.onLegacy "PD" fun f s =>
    if decOf (fld f 4) = 4 ∨ decOf (fld f 5) = 4 then s.legAnswer "P02" []
    else
      s.withKey vBD (fld f 0) fun bdk s =>
        s.withKey vZP (fld f 1) fun k0 s =>
          let ksn := hexOf (fld f 2)
          let ident := searchIdent 1 ksn
          match longest ident 0 (s.trieOf 1 0) with
          | none => s.legAnswer "D01" []
          | some (i, r) =>
            let s := State.countRate 6 1 0 { s with routing := { s.routing with
              tries := tmod [] (trieKey 1 0) (hitRoute i) s.routing.tries } }
            let x := s.slotOf r.slot
            if ¬ s.routeSlotOk 1 0 r ∨ leBytes 3 (aKcv x.attr) ≠ kcvOf (ch 'T') (bdk.length / 8) bdk then s.legAnswer "K02" []
            else
              s.legDraw 8 fun rnd s =>
                let p := paramBlock ([(0, ksn), (12, fmtByte (fld f 4)), (13, fmtByte (fld f 5)), (16, hexOf (fld f 3))] ++
                  anParts (fld f 6))
                s.legPlan 0x13 { p := p, rnd := rnd, k0 := scratchKey k0, kr := copyOf r.slot x } fun e => [hexText e.out])

/-- A PIN verification by offset: 0x0020. -/
def State.legOffset (vIn : Nat) (f : List Bytes) (s : State) : State :=
  if decOf (fld f 3) = 4 then s.legAnswer "P02" []
  else
    s.withKey vIn (fld f 0) fun k0 s =>
      s.withKey vPV (fld f 1) fun k1 s =>
        let p := paramBlock ([(12, fmtByte (fld f 3)), (16, hexOf (fld f 2)), (48, hexOf (fld f 5)), (56, hexOf (fld f 6)),
          (64, hexOf (fld f 7)), (70, [BitVec.ofNat 8 (decOf (fld f 8))])] ++ anParts (fld f 4))
        s.legVerify 0x20 { p := p, k0 := scratchKey k0, k1 := scratchKey k1 } fun _ => []

/-- PV: verify an offset, zone key. -/
def execLegPv (s : State) : Out := .next (s.onLegacy "PV" fun f s => s.legOffset vZP f)

/-- PW: verify an offset, terminal key. -/
def execLegPw (s : State) : Out := .next (s.onLegacy "PW" fun f s => s.legOffset vTP f)

/-- A PIN verification by PVV: 0x0021. -/
def State.legPvv (vIn : Nat) (f : List Bytes) (s : State) : State :=
  if decOf (fld f 3) = 4 then s.legAnswer "P02" []
  else
    s.withKey vIn (fld f 0) fun k0 s =>
      s.withKey vPV (fld f 1) fun k1 s =>
        let p := paramBlock ([(12, fmtByte (fld f 3)), (16, hexOf (fld f 2)), (48, fmtByte (fld f 5)), (49, hexOf (fld f 6))] ++
          anParts (fld f 4))
        s.legVerify 0x21 { p := p, k0 := scratchKey k0, k1 := scratchKey k1 } fun _ => []

/-- PX: verify a PVV, zone key. -/
def execLegPx (s : State) : Out := .next (s.onLegacy "PX" fun f s => s.legPvv vZP f)

/-- PY: verify a PVV, terminal key. -/
def execLegPy (s : State) : Out := .next (s.onLegacy "PY" fun f s => s.legPvv vTP f)

/-! ### V commands -/

/-- The PAN fields of AF. -/
def afParts (af : Bytes) : List (Nat × Bytes) :=
  let d := digitsOf (af.drop 2)
  [(14, [BitVec.ofNat 8 d.length]), (32, Payment.ofNibs (Payment.fill 20 15 d))]

/-- A card verification value: 0x0030 or 0x0031, with the key, PAN, expiry, service code, length and value. -/
def State.legCvv (key af expiry service len : Bytes) (value : Option Bytes) (s : State) : State :=
  s.withKey vCV key fun k s =>
    let p := paramBlock (afParts af ++ [(48, hexOf expiry), (50, Payment.ofNibs (digitsOf service ++ [15])), (52, fmtByte len)] ++
      (match value with
        | some v => [(53, Payment.ofNibs (Payment.fill 6 15 (digitsOf v)))]
        | none => []))
    match value with
    | some _ => s.legVerify 0x31 { p := p, k0 := scratchKey k } fun _ => []
    | none => s.legPlan 0x30 { p := p, k0 := scratchKey k } fun e => [e.result.take (decOf len)]

/-- VG: generate a CVV. -/
def execLegVg (s : State) : Out :=
  .next (s.onLegacy "VG" fun f s => s.legCvv (fld f 0) (fld f 1) (fld f 2) (fld f 3) (fld f 4) none)

/-- VV: verify a CVV. -/
def execLegVv (s : State) : Out :=
  .next (s.onLegacy "VV" fun f s => s.legCvv (fld f 0) (fld f 1) (fld f 2) (fld f 3) (fld f 4) (some (fld f 5)))

/-- VH: generate a CVV2, service code 000. -/
def execLegVh (s : State) : Out :=
  .next (s.onLegacy "VH" fun f s => s.legCvv (fld f 0) (fld f 1) (fld f 2) (ascii "000") (fld f 3) none)

/-- VJ: verify a CVV2. -/
def execLegVj (s : State) : Out :=
  .next (s.onLegacy "VJ" fun f s => s.legCvv (fld f 0) (fld f 1) (fld f 2) (ascii "000") (fld f 3) (some (fld f 4)))

/-- VK: generate an iCVV, service code 999. -/
def execLegVk (s : State) : Out :=
  .next (s.onLegacy "VK" fun f s => s.legCvv (fld f 0) (fld f 1) (fld f 2) (ascii "999") (fld f 3) none)

/-- VL: verify an iCVV. -/
def execLegVl (s : State) : Out :=
  .next (s.onLegacy "VL" fun f s => s.legCvv (fld f 0) (fld f 1) (fld f 2) (ascii "999") (fld f 3) (some (fld f 4)))

/-! ### Q commands -/

/-- An ARQC verification: 0x0040, or 0x0041 with an ARPC method; `session` 0 the common session key, 1 the card master key. -/
def State.legArqc (f : List Bytes) (method session : Nat) (s : State) : State :=
  s.withKey vEM (fld f 0) fun k s =>
    let p := paramBlock (afParts (fld f 1) ++ [(15, hexOf (fld f 2)), (64, hexOf (fld f 3)), (48, hexOf (fld f 4)),
      (62, [BitVec.ofNat 8 method, BitVec.ofNat 8 session])] ++
      (if method = 1 then [(56, hexOf (fld f 6))] else if method = 2 then [(58, hexOf (fld f 6))] else []))
    let t : Txn := { p := p, data := dataOf (fld f 5), k0 := scratchKey k }
    if method = 0 then s.legVerify 0x40 t fun _ => []
    else s.legDraw 8 fun rnd s => s.legVerify 0x41 { t with rnd := rnd } fun e => [hexText e.out]

/-- QV: verify an ARQC. -/
def execLegQv (s : State) : Out := .next (s.onLegacy "QV" fun f s => s.legArqc f 0 0)

/-- QA: with ARPC method 1. -/
def execLegQa (s : State) : Out := .next (s.onLegacy "QA" fun f s => s.legArqc f 1 0)

/-- QB: with ARPC method 2. -/
def execLegQb (s : State) : Out := .next (s.onLegacy "QB" fun f s => s.legArqc f 2 0)

/-- QW: verify an ARQC under the card master key. -/
def execLegQw (s : State) : Out := .next (s.onLegacy "QW" fun f s => s.legArqc f 0 1)

/-- QX: with ARPC method 1. -/
def execLegQx (s : State) : Out := .next (s.onLegacy "QX" fun f s => s.legArqc f 1 1)

/-- QY: with ARPC method 2. -/
def execLegQy (s : State) : Out := .next (s.onLegacy "QY" fun f s => s.legArqc f 2 1)

/-! ### M, D and E commands -/

/-- The padding byte of R269 from the padding digit: 1 is method 1, 2 is method 2. -/
def padByte (f : Bytes) : Byte := if f = [0x31] then 3 else if f = [0x32] then 0 else 0xFF

/-- Parameter block of a retail MAC. -/
def macParts (f : List Bytes) : List (Nat × Bytes) := [(48, [BitVec.ofNat 8 (decOf (fld f 1)), padByte (fld f 2)])]

/-- MG: generate a retail MAC. -/
def execLegMg (s : State) : Out :=
  .next (s.onLegacy "MG" fun f s =>
    s.withKey vMA (fld f 0) fun k s =>
      s.legPlan 0x50 { p := paramBlock (macParts f), data := dataOf (fld f 3), k0 := scratchKey k } fun e =>
        [hexText (e.result.take (decOf (fld f 1)))])

/-- MV: verify a retail MAC; one of another length is a field fault, found before. -/
def execLegMv (s : State) : Out :=
  .next (s.onLegacy "MV" fun f s =>
    s.withKey vMA (fld f 0) fun k s =>
      s.legVerify 0x51 { p := paramBlock (macParts f ++ [(56, hexOf (fld f 4))]), data := dataOf (fld f 3), k0 := scratchKey k } fun _ => [])

/-- A command of the Hearth's cipher port: the data field `i` under a data key. -/
def State.legCipher (f : List Bytes) (i : Nat) (g : Bytes → Bytes → Bytes) (s : State) : State :=
  s.withKey vDK (fld f 0) fun k s => s.legAnswer "A00" [dataText (g k (dataOf (fld f i)))]

/-- DE: TDES-CBC encryption. -/
def execLegDe (s : State) : Out :=
  .next (s.onLegacy "DE" fun f s => s.legCipher f 2 fun k m => Modes.cbcEnc (Des.enc k) 8 (hexOf (fld f 1)) m)

/-- DD: TDES-CBC decryption. -/
def execLegDd (s : State) : Out :=
  .next (s.onLegacy "DD" fun f s => s.legCipher f 2 fun k m => Modes.cbcDec (Des.dec k) 8 (hexOf (fld f 1)) m)

/-- EE: TDES-ECB encryption. -/
def execLegEe (s : State) : Out := .next (s.onLegacy "EE" fun f s => s.legCipher f 1 fun k m => Modes.ecb (Des.enc k) 8 m)

/-- ED: TDES-ECB decryption. -/
def execLegEd (s : State) : Out := .next (s.onLegacy "ED" fun f s => s.legCipher f 1 fun k m => Modes.ecb (Des.dec k) 8 m)

/-! ### Commands that are not supported (R548) -/

/-- A command of R548 is answered N01 at once. -/
def State.legN01 (code : String) (s : State) : State :=
  if s.legacy.busy ∧ legCode s.legacy.snap = ascii code ∧ s.legacy.answer.isNone then s.legacyNow "N01" else s

/-- KZ: form a key from components. -/
def execLegKz (s : State) : Out := .next (s.legN01 "KZ")
/-- KL: load LMK. -/
def execLegKl (s : State) : Out := .next (s.legN01 "KL")
/-- KY: change a key's type. -/
def execLegKy (s : State) : Out := .next (s.legN01 "KY")
/-- XA: enter the authorised state. -/
def execLegXa (s : State) : Out := .next (s.legN01 "XA")
/-- XD: leave the authorised state. -/
def execLegXd (s : State) : Out := .next (s.legN01 "XD")
/-- XP: print components. -/
def execLegXp (s : State) : Out := .next (s.legN01 "XP")
/-- PN: generate a PIN under LMK. -/
def execLegPn (s : State) : Out := .next (s.legN01 "PN")
/-- PR: reveal a PIN. -/
def execLegPr (s : State) : Out := .next (s.legN01 "PR")
/-- PO: generate an offset. -/
def execLegPo (s : State) : Out := .next (s.legN01 "PO")
/-- PG: generate a PVV. -/
def execLegPg (s : State) : Out := .next (s.legN01 "PG")

end Sys2Proof.Machine
end

