-- ==== Sys2Proof/Machine/Link.lean ====
section
/-!
DEFINITION. The host link: resets, link and power state, configuration space, errors and interrupt vectors (R53 to R87).
-/
namespace Sys2Proof.Machine

/-- PERST_N_ASSERT (R84, R87): a chip reset, carried out after a running Quench. -/
def execPerstNAssert (s : State) : Out :=
  .next (State.chipReset 1 { s with pins := { s.pins with perstN := false } })

/-- POWER_ON (R466): VCORE and VIO rise above the switchover levels; every domain except PD0 is reset. -/
def execPowerOn (s : State) : Out :=
  .next (if s.pins.mainPower then s else State.powerOnReset { s with pins := { s.pins with mainPower := true } })

/-- The BBRAM loses its contents, as when VBAT and main power are both absent (R441). -/
def State.loseBbram (s : State) : State := { s with crucible := {} }

/-- SUPPLY_LOSS (R466, R467): the chip is held in reset and everything volatile is lost, a running Quench's erasures
included (R436); the Crucible runs from VBAT, or loses its contents without it. -/
def execSupplyLoss (s : State) : Out :=
  .next (
    if ¬ s.pins.mainPower then s
    else
      let s := s.loseCeremony.cutRecord
      let s := State.chipResetTo 2 { s with
        pins := { s.pins with mainPower := false }
        chip := { s.chip with held := true }
        crucible := { s.crucible with tripped := false }
        store := { s.store with opsec := s.store.opsecKept, writes := s.store.writesKept } }
      let s := { s with life := { s.life with unsignedArm := false } }
      if s.pins.vbat then s else s.loseBbram)

/-- VBAT_CONNECT (R464, R440): VBAT is connected; the RTC counts from its first connection. -/
def execVbatConnect (s : State) : Out :=
  .next (
    if s.pins.vbat then s
    else
      let s := { s with pins := { s.pins with vbat := true } }
      if s.pins.mainPower then s else s.loseBbram)

/-- VBAT_LOSS (R441): VBAT is removed; without main power the BBRAM loses its contents. -/
def execVbatLoss (s : State) : Out :=
  .next (
    let s := { s with pins := { s.pins with vbat := false } }
    if s.pins.mainPower then s else s.loseBbram)

/-- HOT_RESET (R84): every function is reset as under FLR, VF Enable is cleared, chip state is kept, and the link retrains: it is down
until LINK_UP. -/
def execHotReset (s : State) : Out := .next s.flrAll.retrain

/-- LINK_DOWN (R84, R74). -/
def execLinkDown (s : State) : Out := .next s.linkDown

/-- LINK_UP (R53, R74): the highest speed and the widest width that the partner also supports. -/
def execLinkUp (speed width : Fin 5) (s : State) : Out :=
  .next { s with link := { s.link with speed := speed.val + 1, width := 2 ^ width.val } }

/-- ASPM_L1_EXIT (R58): a doorbell or register access makes the link leave L1. -/
def execAspmL1Exit (s : State) : Out :=
  .next { s with link := { s.link with aspm := .l0 }, pins := { s.pins with clkreqLow := true } }

/-- ASPM_L1_ENTRY (R58): L1, L1.1 or L1.2; in L1.2 CLKREQ_N is released. -/
def execAspmL1Entry (sub : Fin 3) (s : State) : Out :=
  .next (
    if sub.val = 0 then { s with link := { s.link with aspm := .l1 } }
    else if sub.val = 1 then { s with link := { s.link with aspm := .l11 } }
    else { s with link := { s.link with aspm := .l12 }, pins := { s.pins with clkreqLow := false } })

/-- FLR (R84, R85): of a VF, that function alone; of the PF, every function. -/
def execFlr (fn : BitVec 8) (s : State) : Out :=
  .next (if fn = 0 then s.flrAll else if s.exists? fn.toNat then s.flrOne fn.toNat else s)

/-- FLR_COMPLETE (R85): FLR_BUSY clears. -/
def execFlrComplete (fn : BitVec 8) (s : State) : Out := .next (s.flrDone fn.toNat)

/-- The PF's power state (R63). -/
def State.setPower (d3 : Bool) (s : State) : State := { s with link := { s.link with d3hot := d3 } }

/-- PM_STATE_CHANGE (R63): D0 and D3hot; in D3hot no descriptor is fetched. -/
def execPmStateChange (d3hot : Bool) (s : State) : Out := .next (s.setPower d3hot)

/-- NumVFs may be written only while VF Enable is 0 (R81). -/
def State.setNumVfs (n : Nat) (s : State) : State :=
  if s.link.vfEnable then s else { s with link := { s.link with numVfs := n } }

/-- VF Enable (R81). -/
def State.setVfEnable (on mse : Bool) (s : State) : State :=
  { s with link := { s.link with vfEnable := on, vfMse := mse } }

/-- VF_ENABLE (R81): NumVFs is written while VF Enable is 0, then VF Enable and VF Memory Space Enable. In legacy mode there
is no SR-IOV (R60). -/
def execVfEnable (numVfs : BitVec 16) (mse : Bool) (s : State) : Out :=
  .next (if s.chip.legacy then s else (s.setNumVfs numVfs.toNat).setVfEnable true mse)

/-! ### Configuration space (R59 to R64, R80). The offsets inside a capability are those of the PCI Express standard
(PRESUMED, log 21). -/

/-- The PF's capabilities: offset, ID, next (R60). -/
def pfCaps (legacy : Bool) : List (Nat × Nat × Nat) :=
  [ (0x40, 0x01, if legacy then 0x50 else 0x70), (0x70, 0x10, if legacy then 0 else 0xB0) ] ++
  (if legacy then [(0x50, 0x05, 0x70)] else [(0xB0, 0x11, 0)])

/-- The PF's extended capabilities: offset, ID, next (R60). -/
def pfExtCaps (legacy : Bool) : List (Nat × Nat × Nat) :=
  [ (0x100, 0x0001, 0x148), (0x148, 0x0003, 0x158), (0x158, 0x000E, 0x160), (0x160, 0x0019, 0x1B0),
    (0x1B0, 0x000D, 0x1C0), (0x1C0, 0x001E, 0x1D0), (0x1D0, 0x0025, 0x1E0), (0x1E0, 0x0026, 0x210),
    (0x210, 0x0027, 0x260), (0x260, 0x002A, if legacy then 0 else 0x290) ] ++
  (if legacy then [] else [(0x290, 0x0010, 0)])

/-- A VF's capabilities (R61). -/
def vfCaps : List (Nat × Nat × Nat) := [(0x70, 0x10, 0xB0), (0xB0, 0x11, 0)]

/-- A VF's extended capabilities (R61). -/
def vfExtCaps : List (Nat × Nat × Nat) := [(0x100, 0x0001, 0x148), (0x148, 0x000E, 0)]

/-- First dword of a capability, 0 where none starts. -/
def capHead (caps ext : List (Nat × Nat × Nat)) (off : Nat) : Nat :=
  match caps.find? (fun c => c.1 == off) with
  | some (_, id, next) => id + 256 * next
  | none =>
    match ext.find? (fun c => c.1 == off) with
    | some (_, id, next) => id + 65536 + 2 ^ 20 * next
    | none => 0

/-- A Boolean as a bit of a register. -/
def flag (b : Bool) (i : Nat) : Nat := if b then 2 ^ i else 0

/-- log2 of a power of two from 128 on, as Max_Payload_Size and Max_Read_Request_Size encode it. -/
def sizeCode (n : Nat) : Nat := if n < 256 then 0 else if n < 512 then 1 else if n < 1024 then 2 else if n < 2048 then 3
  else if n < 4096 then 4 else 5

/-- The MSI-X message control of a function: enable, function mask, table size (R78, R79). -/
def msixControl (n : Fn) (last : Nat) : Nat := flag n.msixEn 31 + flag n.funcMask 30 + 65536 * last

/-- Dword `k` of a 64-bit, non-prefetchable BAR of `size` bytes: the address bits above the size, and the type (R65). -/
def barDword (k size : Nat) (addr : BitVec 64) : Nat :=
  let a := addr.toNat / size * size
  if k = 0 then a % 2 ^ 32 + 4 else a / 2 ^ 32

/-- Sizes of the PF's BARs; 0 where the mode has none (R65). -/
def pfBarSize (legacy : Bool) (bar : Nat) : Nat :=
  if bar = 0 then 0x10000 else if bar = 2 then (if legacy then 0 else 0x20000) else if legacy then 0x1000 else 0

/-- Size of VF BAR0: 4 KiB, or one system page if larger (R67). -/
def vfBar0Size (l : Link) : Nat := 4096 * max 1 l.pageSize

/-- A BAR as it reads: 0 where the mode has none. -/
def barRead (k size : Nat) (addr : BitVec 64) : Nat := if size = 0 then 0 else barDword k size addr

/-- Device Capabilities: payloads up to 512 bytes (PRESUMED, log 21), extended tags, role-based error reporting, FLR. -/
def deviceCaps : Nat := 0x2 + 0x20 + 0x8000 + 0x10000000

/-- Link Capabilities: 32.0 GT/s, x16, ASPM L1 with an exit latency of 8 µs, and no L0s (R53, R58). -/
def linkCaps : Nat := 5 + 16 * 16 + 0x800 + 4 * 2 ^ 15

/-- Link Status and Link Control (R53, R58, R74). -/
def Link.statusControl (l : Link) : Nat := l.linkCtl.toNat + 65536 * (l.speed + 16 * l.width)

/-- The registers of the AER capability at 0x100, the same in every function (R83). -/
def State.cfgAer (s : State) (n : Fn) (off : Nat) : Option Nat :=
  if off = 0x104 then some n.uncSt.toNat
  else if off = 0x108 then some n.uncMask.toNat
  else if off = 0x10C then some n.uncSev.toNat
  else if off = 0x110 then some n.corSt.toNat
  else if off = 0x114 then some n.corMask.toNat
  else if off = 0x118 then some (n.firstErr.toNat + 0x20 + 0x80 + flag s.link.ecrcGen 6 + flag s.link.ecrcChk 8)
  else none

/-- Device Control and Device Status of a function (R55 to R57, R83). -/
def Fn.devControl (n : Fn) : Nat := n.errEn.toNat + flag n.relaxed 4 + 65536 * n.devSta.toNat

/-- The header and the BARs of the PF (R59, R65). -/
def State.cfgPfHead (s : State) (off : Nat) : Option Nat :=
  let l := s.link
  let leg := s.chip.legacy
  if off = 0x00 then some 0x48401F3C
  else if off = 0x04 then some (0x00100000 + l.command.toNat + flag l.intDisable 10 + flag s.inta 19)
  else if off = 0x08 then some 0x10800010
  else if off = 0x0C then some l.cacheLine.toNat
  else if off = 0x10 ∨ off = 0x14 then some (barRead (off / 4 % 2) (pfBarSize leg 0) l.bar0)
  else if off = 0x18 ∨ off = 0x1C then some (barRead (off / 4 % 2) (pfBarSize leg 2) l.bar2)
  else if off = 0x20 ∨ off = 0x24 then some (barRead (off / 4 % 2) (pfBarSize leg 4) l.bar4)
  else if off = 0x2C then some (s.setting 0x03 + 65536 * s.setting 0x04)
  else if off = 0x34 then some 0x40
  else if off = 0x3C then some (l.intLine.toNat + flag leg 8)
  else none

/-- The capabilities of the PF below 0x100: power management, MSI, PCI Express, MSI-X (R60). -/
def State.cfgPfCap (s : State) (off : Nat) : Option Nat :=
  let l := s.link
  let n := s.fnOf 0
  let leg := s.chip.legacy
  let msi (v : Nat) : Option Nat := some (if leg then v else 0)
  let msix (v : Nat) : Option Nat := some (if leg then 0 else v)
  if off = 0x40 then some (capHead (pfCaps leg) [] 0x40 + 65536 * 0xC003)
  else if off = 0x44 then some ((if l.d3hot then 3 else 0) + 8 + flag l.pmeEn 8 + flag l.pmeStatus 15)
  else if off = 0x50 then msi (capHead (pfCaps leg) [] 0x50 + 65536 * (0x80 + flag l.msiEn 0))
  else if off = 0x54 then msi (l.msiAddr.toNat % 2 ^ 32)
  else if off = 0x58 then msi (l.msiAddr.toNat / 2 ^ 32)
  else if off = 0x5C then msi l.msiData.toNat
  else if off = 0x70 then some (capHead (pfCaps leg) [] 0x70 + 65536 * 0x0002)
  else if off = 0x74 then some deviceCaps
  else if off = 0x78 then some (n.devControl + 32 * sizeCode l.maxPayload + flag l.extTag 8 + 4096 * sizeCode l.maxRead)
  else if off = 0x7C then some linkCaps
  else if off = 0x80 then some l.statusControl
  else if off = 0x94 then some 0x30013
  else if off = 0x98 then some (l.toCtl.toNat + flag l.tenBit 12)
  else if off = 0x9C then some 0x3E
  else if off = 0xA0 then some l.linkCtl2.toNat
  else if off = 0xB0 then msix (capHead (pfCaps leg) [] 0xB0 + msixControl n 2047)
  else if off = 0xB4 then msix 0x8002
  else if off = 0xB8 then msix 0x10002
  else none

/-- The extended capabilities of the PF with registers of their own: serial number, ACS, L1 PM substates (R58, R60, R62, R64). -/
def State.cfgPfExt (s : State) (off : Nat) : Option Nat :=
  let l := s.link
  if off = 0x14C then some (s.trims.identity.toNat % 2 ^ 32)
  else if off = 0x150 then some (s.trims.identity.toNat / 2 ^ 32)
  else if off = 0x1B4 then some (0x1C + 65536 * l.acs.toNat)
  else if off = 0x1C4 then some 0x1F
  else if off = 0x1C8 then some l.l1ss.toNat
  else none

/-- The SR-IOV capability, present in queue mode (R67, R80, R81). -/
def State.cfgSriov (s : State) (off : Nat) : Option Nat :=
  let l := s.link
  if off = 0x298 then some (flag l.vfEnable 0 + flag l.vfMse 3 + flag l.ari 4)
  else if off = 0x29C then some (255 + 65536 * 255)
  else if off = 0x2A0 then some l.numVfs
  else if off = 0x2A4 then some ((if l.ari then 1 else 256) + 65536)
  else if off = 0x2A8 then some (65536 * 0x4841)
  else if off = 0x2AC then some 0x17
  else if off = 0x2B0 then some l.pageSize
  else if off = 0x2B4 ∨ off = 0x2B8 then some (barDword ((off - 0x2B4) / 4) (vfBar0Size l) l.vfBar0)
  else if off = 0x2BC ∨ off = 0x2C0 then some (barDword ((off - 0x2BC) / 4) 0x8000 l.vfBar2)
  else none

/-- A configuration dword of the PF. -/
def State.cfgPf (s : State) (off : Nat) : Nat :=
  let leg := s.chip.legacy
  (((((s.cfgPfHead off).or (s.cfgPfCap off)).or (s.cfgAer (s.fnOf 0) off)).or (s.cfgPfExt off)).or
    (if leg then none else s.cfgSriov off)).getD (capHead [] (pfExtCaps leg) off)

/-- A configuration dword of VF `f`. It shows Device ID 0x4841 as the table of R59 has it (DEDUCED, log 21). -/
def State.cfgVf (s : State) (f off : Nat) : Nat :=
  let n := s.fnOf f
  if off = 0x00 then 0x4841FFFF
  else if off = 0x04 then 0x00100000 + flag n.busMaster 2
  else if off = 0x08 then 0x10800010
  else if off = 0x2C then s.setting 0x03 + 65536 * s.setting 0x04
  else if off = 0x34 then 0x70
  else if off = 0x70 then capHead vfCaps [] 0x70 + 65536 * 0x0002
  else if off = 0x74 then deviceCaps
  else if off = 0x78 then n.devControl
  else if off = 0x7C then linkCaps
  else if off = 0x94 then 0x30013
  else if off = 0x9C then 0x3E
  else if off = 0xB0 then capHead vfCaps [] 0xB0 + msixControl n 63
  else if off = 0xB4 then 0x800
  else if off = 0xB8 then 0xC00
  else (s.cfgAer n off).getD (capHead [] vfExtCaps off)

/-- Send every pending message of function `f` that may leave now (R79). -/
def State.sendPending (f : Nat) (s : State) : State :=
  ((s.fnOf f).vecPend.map (·.1)).foldl (fun s v =>
    if s.vectorOpen f v then (s.modFn f fun n => { n with vecPend := tset false v false n.vecPend }).emit (.msix f v) else s) s

/-- MSI-X Enable and Function Mask of a function are written; clearing the mask sends what is pending (R79). -/
def State.setMsix (f : Nat) (en mask : Bool) (s : State) : State :=
  (s.modFn f fun n => { n with msixEn := en, funcMask := mask }).sendPending f

/-- Page sizes of R80: 4, 8, 16 and 64 KiB. -/
def pageSizeOk (v : Nat) : Bool := v == 1 || v == 2 || v == 4 || v == 16

/-- Device Control and Device Status: error reporting, relaxed ordering, payload and read sizes, extended tags, and the FLR bit (R55 to
R57, R83, R85). -/
def State.devControl (f v : Nat) (s : State) : State :=
  let b := BitVec.ofNat 32 v
  let s := s.modFn f fun n => { n with
    relaxed := v.testBit 4, errEn := b.extractLsb' 0 4, devSta := n.devSta &&& ~~~ b.extractLsb' 16 4 }
  let s := if f ≠ 0 then s else
    { s with link := { s.link with
      maxPayload := 128 * 2 ^ min 5 (v / 32 % 8), maxRead := 128 * 2 ^ min 5 (v / 4096 % 8), extTag := v.testBit 8 } }
  if v.testBit 15 then (if f = 0 then s.flrAll else s.flrOne f) else s

/-- A write of the AER capability: status bits clear where 1 is written, masks and severities take the value (R83). -/
def State.cfgWriteAer (f off : Nat) (v : BitVec 32) (s : State) : State :=
  if off = 0x104 then s.modFn f fun n => { n with uncSt := n.uncSt &&& ~~~ v }
  else if off = 0x108 then s.modFn f fun n => { n with uncMask := v }
  else if off = 0x10C then s.modFn f fun n => { n with uncSev := v }
  else if off = 0x110 then s.modFn f fun n => { n with corSt := n.corSt &&& ~~~ v }
  else if off = 0x114 then s.modFn f fun n => { n with corMask := v }
  else if off = 0x118 ∧ f = 0 then { s with link := { s.link with ecrcGen := v.getLsbD 6, ecrcChk := v.getLsbD 8 } }
  else s

/-- Replace dword `k` of a 64-bit register. -/
def setHalf (k : Nat) (v : BitVec 32) (x : BitVec 64) : BitVec 64 :=
  if k = 0 then x.extractLsb' 32 32 ++ v else v ++ x.extractLsb' 0 32

/-- A write of the header of the PF: the Command register, Cache Line Size, the BARs, Interrupt Line (R59, R65). -/
def State.cfgWriteHead (off : Nat) (v : BitVec 32) (s : State) : State :=
  let l := s.link
  let k := off / 4 % 2
  if off = 0x04 then
    State.driveInta s.inta { s with link := { l with intDisable := v.getLsbD 10, command := v.extractLsb' 0 16 &&& 0x0146 } }
  else if off = 0x0C then { s with link := { l with cacheLine := v.extractLsb' 0 8 } }
  else if off = 0x10 ∨ off = 0x14 then { s with link := { l with bar0 := setHalf k v l.bar0 } }
  else if off = 0x18 ∨ off = 0x1C then (if s.chip.legacy then s else { s with link := { l with bar2 := setHalf k v l.bar2 } })
  else if off = 0x20 ∨ off = 0x24 then (if s.chip.legacy then { s with link := { l with bar4 := setHalf k v l.bar4 } } else s)
  else if off = 0x3C then { s with link := { l with intLine := v.extractLsb' 0 8 } }
  else s

/-- A write of PMCSR: the power state, PME_En, and PME_Status, whose clearing releases WAKE_N (R63). -/
def State.cfgWritePm (v : BitVec 32) (s : State) : State :=
  let s := if v.extractLsb' 0 2 = 0 then s.setPower false else if v.extractLsb' 0 2 = 3 then s.setPower true else s
  let s := { s with link := { s.link with pmeEn := v.getLsbD 8 } }
  if v.getLsbD 15 then { s with link := { s.link with pmeStatus := false }, pins := { s.pins with wakeLow := false } } else s

/-- A write of the MSI capability in legacy mode (R60, R541). -/
def State.cfgWriteMsi (off : Nat) (v : BitVec 32) (s : State) : State :=
  let l := s.link
  if ¬ s.chip.legacy then s
  else if off = 0x50 then State.driveInta s.inta { s with link := { l with msiEn := v.getLsbD 16 } }
  else if off = 0x54 then { s with link := { l with msiAddr := setHalf 0 (v &&& 0xFFFFFFFC) l.msiAddr } }
  else if off = 0x58 then { s with link := { l with msiAddr := setHalf 1 v l.msiAddr } }
  else if off = 0x5C then { s with link := { l with msiData := v.extractLsb' 0 16 } }
  else s

/-- A write of the SR-IOV capability, present in queue mode (R67, R80, R81). -/
def State.cfgWriteSriov (off : Nat) (v : BitVec 32) (s : State) : State :=
  let l := s.link
  if s.chip.legacy then s
  else if off = 0x298 then
    State.setVfEnable (v.getLsbD 0) (v.getLsbD 3) { s with link := { l with ari := if l.vfEnable then l.ari else v.getLsbD 4 } }
  else if off = 0x2A0 then s.setNumVfs (bits v 15 0)
  else if off = 0x2B0 then (if l.vfEnable ∨ ¬ pageSizeOk v.toNat then s else { s with link := { l with pageSize := v.toNat } })
  else if off = 0x2B4 ∨ off = 0x2B8 then { s with link := { l with vfBar0 := setHalf ((off - 0x2B4) / 4) v l.vfBar0 } }
  else if off = 0x2BC ∨ off = 0x2C0 then { s with link := { l with vfBar2 := setHalf ((off - 0x2BC) / 4) v l.vfBar2 } }
  else s

/-- A configuration write of the PF. Link Control and the ACS control bits are held and change nothing else (R62). -/
def State.cfgWritePf (off : Nat) (v : BitVec 32) (s : State) : State :=
  let l := s.link
  if off < 0x40 then s.cfgWriteHead off v
  else if off = 0x44 then s.cfgWritePm v
  else if 0x50 ≤ off ∧ off < 0x60 then s.cfgWriteMsi off v
  else if off = 0x78 then s.devControl 0 v.toNat
  else if off = 0x80 then { s with link := { l with linkCtl := v.extractLsb' 0 16 &&& 0x01CB } }
  else if off = 0x98 then { s with link := { l with toCtl := v.extractLsb' 0 5, tenBit := v.getLsbD 12 } }
  else if off = 0xA0 then { s with link := { l with linkCtl2 := v.extractLsb' 0 16 } }
  else if off = 0xB0 then (if s.chip.legacy then s else s.setMsix 0 (v.getLsbD 31) (v.getLsbD 30))
  else if off < 0x120 then s.cfgWriteAer 0 off v
  else if off = 0x1B4 then { s with link := { l with acs := v.extractLsb' 16 16 &&& 0x1C } }
  else if off = 0x1C8 then { s with link := { l with l1ss := v } }
  else s.cfgWriteSriov off v

/-- A configuration write of VF `f`. -/
def State.cfgWriteVf (f off : Nat) (v : BitVec 32) (s : State) : State :=
  if off = 0x04 then s.modFn f fun n => { n with busMaster := v.getLsbD 2 }
  else if off = 0x78 then s.devControl f v.toNat
  else if off = 0xB0 then s.setMsix f (v.getLsbD 31) (v.getLsbD 30)
  else s.cfgWriteAer f off v

/-- CONFIG_REQUEST (R75, R85): retry status until start-up ends and while the function is under reset; then a read is
answered and a write takes effect. -/
def execConfigRequest (fn : BitVec 8) (write : Option (BitVec 32)) (dword : BitVec 10) (s : State) : Out :=
  .next (
    let f := fn.toNat
    let off := 4 * dword.toNat
    if s.chip.crs ∨ (s.fnOf f).flr then s.emit .crs
    else if ¬ s.exists? f then s.emit .unsupported
    else
      match write with
      | none => s.emit (.config (BitVec.ofNat 32 (if f = 0 then s.cfgPf off else s.cfgVf f off)))
      | some v => if f = 0 then s.cfgWritePf off v else s.cfgWriteVf f off v)

/-! ### Errors (R71, R83) -/

/-- UNSUPPORTED_REQUEST (R71): a read is answered with Unsupported Request, a write is dropped and logged. -/
def execUnsupportedRequest (fn : BitVec 8) (write : Bool) (s : State) : Out :=
  .next (if write then s.logAer fn.toNat .unsupportedRequest else s.emit .unsupported)

/-- TLP_RECEIVE_ERROR (R83): the error is logged; the host resets the link after a fatal one. An ECRC error is found only where the host
enables ECRC checking. -/
def execTlpReceiveError (fn : BitVec 8) (err : AerErr) (s : State) : Out :=
  .next (if err = .ecrc ∧ ¬ s.link.ecrcChk then s else s.logAer fn.toNat err)

/-- VECTOR_UNMASK (R79): unmasking a vector, or clearing the Function Mask, sends what is pending. -/
def execVectorUnmask (fn : BitVec 8) (vector : Option (BitVec 11)) (s : State) : Out :=
  .next (
    match vector with
    | some v => (s.modFn fn.toNat fun n => { n with vecOpen := tset false v.toNat true n.vecOpen }).sendPending fn.toNat
    | none => (s.modFn fn.toNat fun n => { n with funcMask := false }).sendPending fn.toNat)

end Sys2Proof.Machine
end

