-- ==== Sys2Proof/Machine/Wear.lean ====
section
/-!
DEFINITION. Delay canaries, wear sums and the battery prediction (R530 to R534).
-/
namespace Sys2Proof.Machine

/-! Fixed-point arithmetic: the wear sums are kept in units of 2^-32 (DESIGN CHOICE, log 19). -/

/-- Integer square root by bisection: the greatest `r` with r² ≤ n, for n below 2^(2 × bits). -/
def isqrtBits : Nat → Nat → Nat → Nat
  | 0, _, r => r
  | b + 1, n, r => let r' := r + 2 ^ b; isqrtBits b n (if r' * r' ≤ n then r' else r)

/-- Integer square root of a number below 2^128. -/
def isqrt (n : Nat) : Nat := isqrtBits 64 n 0

/-- t^0.5 in units of 2^-32. -/
def rootHalf (t : Nat) : Nat := isqrt (t * 2 ^ 64)

/-- t^0.25 in units of 2^-32. -/
def rootQuarter (t : Nat) : Nat := isqrt (rootHalf t * 2 ^ 32)

/-- Operating hours (R534). -/
def State.opHours (s : State) : Nat := s.store.opsec.toNat / 3600

/-- Linear interpolation of a whole value between (x0, y0) and (x1, y1). -/
def lerp (x0 x1 : Int) (y0 y1 x : Int) : Int := y0 + (y1 - y0) * (x - x0) / (x1 - x0)

/-- Factory baseline of a canary at voltage point `v` (0.60, 0.70, 0.80, 0.90 V) and temperature point `t` (25, 65, 105 °C). -/
def State.baseline (s : State) (canary v t : Nat) : Int := (tget 0 s.power.baselines (canary * 12 + v * 3 + t) : Nat)

/-- The interval of three or four points in which a reading lies, the outer ones extended (DEDUCED, log 19). -/
def State.baselineAt (s : State) (canary : Nat) (mv tj : Int) : Int :=
  let v : Nat := if mv < 700 then 0 else if mv < 800 then 1 else 2
  let t : Nat := if tj < 65 * 8 then 0 else 1
  let at' (v : Nat) : Int := lerp (25 * 8 + 40 * 8 * t) (65 * 8 + 40 * 8 * t) (s.baseline canary v t) (s.baseline canary v (t + 1)) tj
  lerp (600 + 100 * v) (700 + 100 * v) (at' v) (at' (v + 1)) mv

/-- Drift of one canary in units of 0.01 %: (measured − baseline) / baseline (R530, R534). -/
def State.drift (s : State) (canary : Nat) (period : BitVec 32) : Int :=
  let b := s.baselineAt canary s.power.target s.tamper.tj
  if b = 0 then 0 else ((period.toNat : Int) - b) * 10000 / b

/-- A signed 16-bit register value. -/
def clip16 (d : Int) : Int := max (-32768) (min 32767 d)

/-- CANARY_MEASURE (R530): the two periods of each region give its drift, the larger of the two. A halted Bench stops the
predictions (R531). -/
def execCanaryMeasure (periods : Vector (Vector (BitVec 32) 2) 6) (s : State) : Out :=
  .next (
    if s.worlds.bench.status ≠ 1 then s
    else
      let ds := (List.finRange 6).foldl (fun t r =>
        let p := periods[r]
        tset 0 r.val (clip16 (max (s.drift (2 * r.val) p[0]) (s.drift (2 * r.val + 1) p[1]))) t) s.power.canary
      { s with power := { s.power with canary := ds } })

/-- Remaining operating hours of a region from its sums (R531): t_EOL = (0.12 / a)^4 with a = ΣDt / Σt, D in 0.01 %. -/
def remaining (dt tt : Int) (hours : Nat) : Nat :=
  if hours < 500 ∨ dt ≤ 0 then 0xFFFFFFFF
  else
    let eol := (1200 * tt.toNat) ^ 4 / dt.toNat ^ 4
    if eol ≤ hours then 0 else satNat 32 (eol - hours)

/-- Event 0x1504 when a remaining figure first falls below 43,800 h and again below 8,760 h; the thresholds logged are kept
(R531). -/
def State.warnWear (r left : Nat) (s : State) : State :=
  let w := tget 0 s.power.warned r
  let lvl := if left < 8760 then 2 else if left < 43800 then 1 else 0
  if w < lvl then
    State.log 0x1504 0xF2 ([BitVec.ofNat 8 r] ++ leBytes 4 left)
      { s with power := { s.power with warned := tset 0 r lvl s.power.warned } }
  else s

/-- One region's sums and prediction (R530, R531). -/
def State.accumulate (r : Nat) (s : State) : State :=
  let t := s.opHours
  let d := tget 0 s.power.canary r
  let dt := tget 0 s.power.wearDt r + d * rootQuarter t
  let tt := tget 0 s.power.wearTt r + rootHalf t
  let left := remaining dt tt t
  State.warnWear r left { s with power := { s.power with
    wearDt := tset 0 r dt s.power.wearDt, wearTt := tset 0 r tt s.power.wearTt
    eol := tset 0xFFFFFFFF r left s.power.eol } }

/-- WEAR_ACCUMULATE (R530, R531): every 24 operating hours the sums are updated and the predictions recomputed; the sums stand
in the control area (two words for each region, R533). A halted Bench stops the predictions. -/
def execWearAccumulate (s : State) : Out :=
  .next (
    if s.worlds.bench.status ≠ 1 then s
    else ((List.range 6).foldl (fun s r => s.accumulate r) s).countWrites 2 12)

/-- Charge used, in µAh (R534): the counter holds pAh. -/
def State.chargeUah (s : State) : Nat := satNat 32 (s.crucible.batUsedUah / 1000000)

/-- Whole hours on battery (R534). -/
def State.batteryHours (s : State) : Nat := satNat 32 (s.crucible.batSec / 3600)

/-- Remaining hours on battery (R532): (BATTERY_UAH − charge used) / mean draw, the mean 5 µA before the first hour; open for
a mean of 0 (log 54). -/
def State.batteryLeft (s : State) : Nat :=
  let cap := s.setting 0x18 * 1000000
  let left := cap - s.crucible.batUsedUah
  if s.crucible.batSec < 3600 then satNat 32 (left / 5000000)
  else if s.crucible.batUsedUah = 0 then satNat 32 (Config.noDrawHours left)
  else satNat 32 (left * s.crucible.batSec / (s.crucible.batUsedUah * 3600))

/-- The Bench derives the battery prediction and warns once below 8,760 h (R532): at its start, when BATTERY_UAH changes and after a
BAT_RESET (DESIGN CHOICE, log 54). A halted Bench leaves the last value. -/
def State.predictBattery (s : State) : State :=
  if s.worlds.bench.status ≠ 1 then s
  else
    let left := s.batteryLeft
    let s := { s with power := { s.power with batHours := left } }
    if left < 8760 ∧ ¬ s.power.batWarned then
      State.log 0x1505 0xF2 (leBytes 4 left) { s with power := { s.power with batWarned := true } }
    else s

/-- BATTERY_MEASURE (R532): on battery, a draw in pA over 10 s is integrated (pAh = pA × 10 / 3600), and ten seconds count on
battery and in the RTC. Under main power nothing is measured. -/
def execBatteryMeasure (draw : BitVec 32) (s : State) : Out :=
  .next (
    if s.pins.mainPower ∨ ¬ s.pins.vbat then s
    else
      { s with crucible := { s.crucible with
          batUsedUah := s.crucible.batUsedUah + draw.toNat * 10 / 3600
          batSec := s.crucible.batSec + 10
          rtc := s.crucible.rtc + 10 } })

/-- BAT_RESET (R532): the key clears the charge counter and the hours on battery. -/
def execBatReset (key : BitVec 32) (s : State) : Out :=
  .next (s.onBar fun s =>
    if key = 0x43454C4C then
      State.predictBattery { s with crucible := { s.crucible with batUsedUah := 0, batSec := 0 }
                                    power := { s.power with batWarned := false } }
    else s)

end Sys2Proof.Machine
end

