-- ==== Sys2Proof/Machine/Settings.lean ====
section
/-!
DEFINITION. The settings: shadow writes, STORE and the load at start (R524 to R529).
-/
namespace Sys2Proof.Machine

/-- The value of an item in a stored or running table of values. -/
def itemValue (t : List (Nat × BitVec 32)) (id : Nat) : BitVec 32 := tget (BitVec.ofNat 32 (Config.itemDefault id)) t id

/-- Put a value into a table of settings, which lists the values that differ from the defaults. -/
def setItem (id : Nat) (v : BitVec 32) (t : List (Nat × BitVec 32)) : List (Nat × BitVec 32) :=
  tset (BitVec.ofNat 32 (Config.itemDefault id)) id v t

/-- Is a shadow write refused: an illegal value, an unused ID, or AVS_MIN_MV above AVS_MAX_MV (R525). -/
def State.refusesSetting (s : State) (id v : Nat) : Bool :=
  match Config.item? id with
  | none => true
  | some i => !i.legal v || (id == 0x10 && decide (s.setting 0x11 < v)) || (id == 0x11 && decide (v < s.setting 0x10))

/-- The settings items that a register mirrors take the written value at once (R524): the POWER registers of R468 and R478.
BATTERY_UAH enters the battery prediction (R532). Other items are read from the shadow where their rule uses them. -/
def State.mirrorSetting (id v : Nat) (s : State) : State :=
  let p := s.power
  if id = 0x0F then { s with power := { p with avsMode := v } }
  else if id = 0x10 then { s with power := { p with minMv := v } }
  else if id = 0x11 then { s with power := { p with maxMv := v } }
  else if id = 0x12 then { s with power := { p with fixedMv := v } }
  else if id = 0x15 then { s with power := { p with idleUs := v } }
  else if id = 0x14 then
    let ds := (List.range 30).foldl (fun t d => tmod {} d (fun x => { x with allow := v.testBit d }) t) p.domains
    { s with power := { p with domains := ds } }
  else if id = 0x18 then s.predictBattery
  else s

/-- SETTINGS_VALUE_WRITE (R524, R525): a write to the shadow value of the selected item. A change sets DIRTY. -/
def execSettingsValueWrite (value : BitVec 32) (s : State) : Out :=
  .next (s.onBar fun s =>
    if s.refusesSetting s.store.sel value.toNat then { s with store := { s.store with refused := true } }
    else if itemValue s.store.shadow s.store.sel = value then s
    else State.mirrorSetting s.store.sel value.toNat
      { s with store := { s.store with shadow := setItem s.store.sel value s.store.shadow, dirty := true } })

/-- The active settings copy (R528). -/
def Store.active (t : Store) : SetCopy := if t.activeB then t.copyB else t.copyA

/-- GEN of the active copy, 0 after a load that found no usable copy (R528, R529). -/
def Store.gen (t : Store) : BitVec 32 := if t.active.valid then t.active.gen else 0

/-- Is a STORE admitted: READY, LOCKED or QUENCHED, the Bench serving, none running (R526). -/
def State.admitsStore (s : State) : Bool :=
  (s.chip.state == .ready || s.chip.state == .locked || s.chip.state == .quenched) && s.worlds.bench.status == 1 &&
    !s.store.busy

/-- STORE (R526): the key starts writing the copy that is not active from a snapshot of the shadow, after a pending mark. -/
def execStore (key : BitVec 32) (s : State) : Out :=
  .next (s.onBar fun s =>
    if key ≠ 0x53544F52 then s
    else if s.admitsStore then
      let toB := !s.store.activeB
      let copy : SetCopy := { (if toB then s.store.copyB else s.store.copyA) with valid := false }
      let s := s.countWrites 2 1
      { s with store := { s.store with
          busy := true, dirty := false, snap := s.store.shadow
          pendMark := some (toB, s.store.gen + 1)
          copyA := if toB then s.store.copyA else copy
          copyB := if toB then copy else s.store.copyB } }
    else { s with store := { s.store with storeFail := true } })

/-- The parameter bytes of event 0x1502 (R515). -/
def storeEvent (result : Nat) (copyB : Bool) (gen : BitVec 32) : Bytes :=
  [BitVec.ofNat 8 result, if copyB then 1 else 0] ++ leBytes 4 gen.toNat

/-- STORE_END (R526): the copy is complete and becomes active, the mark is cleared, event 0x1502 is logged. Writing a copy
writes VALID twice and its 64 KiB of 8,192 words, the mark one word each time (R533; DESIGN CHOICE, log 55). -/
def execStoreEnd (s : State) : Out :=
  .next (
    match s.store.busy, s.store.pendMark with
    | true, some (toB, gen) =>
      let copy : SetCopy := { valid := true, gen := gen, values := s.store.snap }
      let s := { s with store := { s.store with
          busy := false, snap := [], pendMark := none, activeB := toB
          copyA := if toB then s.store.copyA else copy
          copyB := if toB then copy else s.store.copyB } }
      ((s.countWrites (if toB then 1 else 0) 8194).countWrites 2 1).log 0x1502 0xF3 (storeEvent 0 toB gen)
    | _, _ => s)

/-- A Bench reset abandons a STORE in progress: STORE_FAIL is set and event 0x1502 is logged with result 1 (R526). -/
def State.abandonStore (s : State) : State :=
  match s.store.busy, s.store.pendMark with
  | true, some (toB, gen) =>
    State.log 0x1502 0xF3 (storeEvent 1 toB gen)
      { s with store := { s.store with busy := false, snap := [], pendMark := none, storeFail := true } }
  | _, _ => s

/-- The newer of two usable copies: B where its GEN exceeds A's by 1 to 2^31 − 1 modulo 2^32 (R528). -/
def newerB (a b : BitVec 32) : Bool := decide (1 ≤ (b - a).toNat) && decide ((b - a).toNat ≤ 2 ^ 31 - 1)

/-- The copy that loads: none, A (false) or B (true) (R528). -/
def Store.loads (t : Store) : Option Bool :=
  if t.copyA.valid && t.copyB.valid then some (newerB t.copyA.gen t.copyB.gen)
  else if t.copyA.valid then some false
  else if t.copyB.valid then some true
  else none

/-- The values of a stored copy, an illegal one replaced by its default, with the number replaced (R528). -/
def legalValues (t : List (Nat × BitVec 32)) : List (Nat × BitVec 32) × Nat :=
  let good := t.filter fun e => match Config.item? e.1 with | some i => i.legal e.2.toNat | none => false
  (good, (t.filter fun e => (Config.item? e.1).isSome).length - good.length)

/-- Step 5 of R476: the store loads the settings. A pending mark found at the load means an abandoned STORE (R526, R528). -/
def State.loadSettings (s : State) : State :=
  let s := match s.store.pendMark with
    | some (toB, gen) => State.log 0x1502 0xF3 (storeEvent 1 toB gen)
        (State.countWrites 2 1 { s with store := { s.store with storeFail := true, pendMark := none } })
    | none => s
  match s.store.loads with
  | none =>
    State.log 0x1501 0xF3 ([2] ++ leBytes 4 0 ++ leBytes 2 0)
      { s with store := { s.store with shadow := [], defaults := true, activeB := false, dirty := false } }
  | some b =>
    let c := if b then s.store.copyB else s.store.copyA
    let (vals, bad) := legalValues c.values
    State.log 0x1501 0xF3 ([if b then 1 else 0] ++ leBytes 4 c.gen.toNat ++ leBytes 2 bad)
      { s with store := { s.store with shadow := vals, defaults := false, activeB := b, dirty := false } }

/-- After the load the registers that mirror settings items take their values (R468, R478). -/
def State.mirrorAll (s : State) : State :=
  [0x0F, 0x10, 0x11, 0x12, 0x15, 0x14].foldl (fun s id => s.mirrorSetting id (s.setting id)) s

end Sys2Proof.Machine
end

