-- ==== Sys2Proof/Machine/ZwmOps.lean ====
section
/-!
DEFINITION. Memories, tags, colours, peripheral slots and protection units of both worlds (R385 to R389, R407 to R422). Behind a
peripheral slot the spec gives the protection unit's registers, the BBRAM (R177) and what the Rack control port shows (R160); of what it does
not give, a read returns a free value, and a write has no effect that a rule names (log 30).
-/
namespace Sys2Proof.Machine

/-! ### Cores and units -/

/-- Core `c`: 0 the Hearth, 1 to 4 the Bench. -/
def State.coreOf (s : State) (c : Nat) : Core := tget {} s.zwm.cores c

/-- Change core `c`. -/
def State.modCore (c : Nat) (g : Core → Core) (s : State) : State := { s with zwm := { s.zwm with cores := tmod {} c g s.zwm.cores } }

/-- The world of a core: true the Bench. -/
def isBench (c : Nat) : Bool := c != 0

/-- The number of a core within its world (R400). -/
def coreNum (c : Nat) : Nat := if c = 0 then 0 else c - 1

/-- The protection unit of a world. -/
def State.mpuOf (s : State) (bench : Bool) : Mpu := if bench then s.zwm.benchMpu else s.zwm.hearthMpu

/-- Change the protection unit of a world. -/
def State.modMpu (bench : Bool) (g : Mpu → Mpu) (s : State) : State :=
  if bench then { s with zwm := { s.zwm with benchMpu := g s.zwm.benchMpu } }
  else { s with zwm := { s.zwm with hearthMpu := g s.zwm.hearthMpu } }

/-- The slot of a world's own protection unit (R416). -/
def unitSlot (bench : Bool) : Nat := if bench then 44 else 17

/-- Lines of a world's SRAM (R407). -/
def lineTotal (bench : Bool) : Nat := if bench then 65536 else 8192

/-! ### Tags (R386) -/

/-- INT. -/
def tInt : BitVec 4 := 0
/-- ADDR. -/
def tAddr : BitVec 4 := 1
/-- CODE. -/
def tCode : BitVec 4 := 2
/-- SECRET. -/
def tSecret : BitVec 4 := 3
/-- SLOTREF. -/
def tSlotref : BitVec 4 := 4
/-- SEALED. -/
def tSealed : BitVec 4 := 5
/-- POISON. -/
def tPoison : BitVec 4 := 0xF

/-- Why an access or an instruction does not complete: a fault code of R405 with the address at fault, or a wait for a held
protection unit (R418). -/
inductive Stop | fault (code : Nat) (addr : BitVec 64) | wait
deriving DecidableEq, Repr

/-! ### The address map (R407) -/

/-- What an address reaches. -/
inductive Area | rom | sram | msg | bsram | slot (n : Nat)
deriving DecidableEq, Repr

/-- The region of a location for a world. -/
def areaOf (bench : Bool) (loc : Nat) : Option Area :=
  if ¬ bench ∧ loc < 0x20000 then some .rom
  else if ¬ bench ∧ 0x100000 ≤ loc ∧ loc < 0x180000 then some .sram
  else if 0x200000 ≤ loc ∧ loc < 0x202000 then some .msg
  else if bench ∧ 0x400000 ≤ loc ∧ loc < 0x800000 then some .bsram
  else if 0x80000000 ≤ loc ∧ loc < 0x80400000 then some (.slot ((loc - 0x80000000) / 0x10000))
  else none

/-- Location of an address. -/
def locOf (a : BitVec 64) : Nat := bits a 31 0

/-- Access colour of an address. -/
def colourOf (a : BitVec 64) : Nat := bits a 63 60

/-- The colour of the line at a memory location (R407). -/
def State.lineColour (s : State) (a : Area) (loc : Nat) : Nat :=
  match a with
  | .rom => 0
  | .msg => 15
  | .sram => if 0x17FC00 ≤ loc then 0 else (tget 0 s.zwm.hearthMpu.colours ((loc - 0x100000) / 64) : BitVec 4).toNat
  | .bsram => (tget 0 s.zwm.benchMpu.colours ((loc - 0x400000) / 64) : BitVec 4).toNat
  | .slot _ => 0

/-- The word at a memory location. -/
def State.wordAt (s : State) (a : Area) (loc : Nat) : MWord :=
  match a with
  | .rom => tget {} s.zwm.rom (loc / 8)
  | .sram => tget {} s.zwm.hmem (loc / 8)
  | .msg => tget {} s.zwm.msg (loc / 8)
  | .bsram => tget {} s.zwm.bmem (loc / 8)
  | .slot _ => {}

/-- Put a word into a memory. A store to the ROM has no effect (DESIGN CHOICE, log 30). -/
def State.putWord (a : Area) (loc : Nat) (w : MWord) (s : State) : State :=
  let k := loc / 8
  match a with
  | .rom | .slot _ => s
  | .sram => { s with zwm := { s.zwm with hmem := tset {} k w s.zwm.hmem } }
  | .msg => { s with zwm := { s.zwm with msg := tset {} k w s.zwm.msg } }
  | .bsram => { s with zwm := { s.zwm with bmem := tset {} k w s.zwm.bmem } }

/-- A word with a tag and its stored complement (R385). -/
def mword (v : BitVec 64) (t : BitVec 4) : MWord := { val := v, tag := t, ctag := ~~~ t }

/-! ### Peripheral slots (R410 to R413) -/

/-- The Bench owns slot `n` (R357). -/
def State.benchOwns (s : State) (n : Nat) : Bool := tget false s.worlds.assign n

/-- A world owns slot `n`; no world owns a reserved slot. -/
def State.owns (s : State) (bench : Bool) (n : Nat) : Bool := !slotReserved n && s.benchOwns n == bench

/-- Slots marked as secret sources (R411). -/
def secretSource (n : Nat) : Bool := n == 5 || (decide (6 ≤ n) && decide (n ≤ 9)) || n == 11

/-- Slots marked as secret sinks (R411). -/
def secretSink (n : Nat) : Bool :=
  n == 0 || n == 2 || (decide (6 ≤ n) && decide (n ≤ 9)) || n == 11 || (decide (14 ≤ n) && decide (n ≤ 16))

/-- The rule of slot `n` in a world's unit: its own unit's slot is always open (R413). -/
def State.slotRule (s : State) (bench : Bool) (n : Nat) : SlotRule :=
  if n = unitSlot bench then { colours := 0xFFFF } else tget {} (s.mpuOf bench).rules n

/-- Secret permission of a colour (R409). -/
def State.secretOk (s : State) (bench : Bool) (colour : Nat) : Bool := (s.mpuOf bench).secret.getLsbD colour

/-- Check an access to slot `n` (R410). -/
def State.checkSlot (s : State) (bench : Bool) (n : Nat) (a : BitVec 64) (write secret : Bool) : Except Stop Unit :=
  let r := s.slotRule bench n
  if ¬ s.owns bench n ∨ ¬ r.colours.getLsbD (colourOf a) ∨ ¬ (if write then r.w else r.r) then .error (.fault 0x0F a)
  else if write ∧ secret ∧ ¬ secretSink n then .error (.fault 0x06 a)
  else .ok ()

/-- An access under a held unit (R418): the holder reaches only the unit's own slot, everyone else waits. `who` is the core, none
for the copy engine. -/
def State.checkHold (s : State) (bench : Bool) (who : Option Nat) (area : Area) (a : BitVec 64) : Except Stop Unit :=
  if ¬ (s.mpuOf bench).hold then .ok ()
  else
    match who with
    | some c =>
      if coreNum c = (s.mpuOf bench).holder then
        (if area = .slot (unitSlot bench) then .ok () else .error (.fault 0x0F a))
      else .error .wait
    | none => .error .wait

/-- The protection unit's decision on a data access, in the order of R395 (R407 to R410, R418). -/
def State.decideAccess (s : State) (bench : Bool) (who : Option Nat) (a : BitVec 64) (size : Nat) (write secret : Bool) :
    Except Stop Area :=
  let loc := locOf a
  if bits a 59 32 ≠ 0 then .error (.fault 0x0E a)
  else if loc % size ≠ 0 then .error (.fault 0x0A a)
  else
    match areaOf bench loc with
    | none => .error (.fault 0x0E a)
    | some area =>
      match s.checkHold bench who area a with
      | .error e => .error e
      | .ok () =>
        match area with
        | .slot n => (s.checkSlot bench n a write secret).map fun _ => area
        | _ =>
          let col := s.lineColour area loc
          if colourOf a ≠ col then .error (.fault 0x09 a)
          else if write ∧ secret ∧ ¬ s.secretOk bench col then .error (.fault 0x06 a)
          else .ok area

/-! ### Protection unit registers (R416, R417) -/

/-- A rule as SLOT_RULE shows it. -/
def SlotRule.word (r : SlotRule) : Nat :=
  r.colours.toNat + (if r.r then 2 ^ 16 else 0) + (if r.w then 2 ^ 17 else 0) + (if r.x then 2 ^ 18 else 0)

/-- A read of a protection unit register (R416). -/
def State.mpuRead (s : State) (bench : Bool) (off : Nat) : Nat :=
  let m := s.mpuOf bench
  let b (x : Bool) (i : Nat) : Nat := if x then 2 ^ i else 0
  if off = 0 then b m.hold 0 + b m.holdAck 1 + b m.busy 2 + 16 * m.holder
  else if off = 4 then b m.notHeld 0 + b m.fixed 1 + b m.range 2
  else if off = 8 then m.secret.toNat
  else if off = 0xC then BitVec.toNat m.debug
  else if off = 0x10 then m.lineBase
  else if off = 0x14 then m.lineCount
  else if off = 0x18 then m.lineColour.toNat
  else if off = 0x1C then
    s.lineColour (if bench then .bsram else .sram) ((if bench then 0x400000 else 0x100000) + 64 * m.lineBase)
  else if 0x100 ≤ off ∧ off < 0x200 then
    let n := (off - 0x100) / 4
    if s.owns bench n then (s.slotRule bench n).word + 2 ^ 24 + b (secretSource n) 25 + b (secretSink n) 26 else 0
  else 0

/-- An edit of a rule: dropped while HOLD_ACK is 0, which sets NOT_HELD (R417). -/
def State.heldEdit (bench : Bool) (g : Mpu → Mpu) (s : State) : State :=
  s.modMpu bench fun m => if m.holdAck then g m else { m with notHeld := true }

/-- A write of MPU_SECRET (R409, R416): fixed bits stay, and an attempt to change one sets FIXED. -/
def Mpu.writeSecret (bench : Bool) (v : BitVec 16) (m : Mpu) : Mpu :=
  let new : BitVec 16 := if bench then 0 else (v ||| 1) &&& 0x7FFF
  { m with secret := new, fixed := m.fixed || new != v }

/-- A write of LINE_SET (R416): COLOUR is kept; GO starts the run, or the write is dropped with RANGE. Lines that are fixed keep
their colour, and FIXED is set. A GO during a run does nothing (DESIGN CHOICE, log 30). -/
def Mpu.writeLineSet (bench : Bool) (v : BitVec 32) (m : Mpu) : Mpu :=
  let m := { m with lineColour := v.truncate 4 }
  if ¬ v.getLsbD 8 then m
  else if ¬ m.holdAck then { m with notHeld := true }
  else if m.busy then m
  else if lineTotal bench < m.lineBase + m.lineCount ∨ m.lineCount = 0 then { m with range := true }
  else { m with busy := true, run := some (m.lineBase, m.lineCount, m.lineColour)
                fixed := m.fixed || (!bench && decide (8176 < m.lineBase + m.lineCount)) }

/-- A write of SLOT_RULE[n] (R413, R416): `open_` tells that the world owns the slot and may write its rule. -/
def Mpu.writeRule (n : Nat) (open_ : Bool) (v : BitVec 32) (m : Mpu) : Mpu :=
  if ¬ open_ then { m with fixed := true }
  else
    let r : SlotRule := { colours := v.truncate 16, r := v.getLsbD 16, w := v.getLsbD 17, x := v.getLsbD 18 && n == 10 }
    { m with rules := tset {} n r m.rules, fixed := m.fixed || (v.getLsbD 18 && n != 10) }

/-- A write of a protection unit register other than MPU_CTRL (R416, R417). -/
def State.mpuEdit (bench : Bool) (off : Nat) (v : BitVec 32) (s : State) : State :=
  if off = 4 then s.modMpu bench fun m => { m with
    notHeld := m.notHeld && !v.getLsbD 0, fixed := m.fixed && !v.getLsbD 1, range := m.range && !v.getLsbD 2 }
  else if off = 8 then s.heldEdit bench (Mpu.writeSecret bench (v.truncate 16))
  else if off = 0xC then s.heldEdit bench fun m => { m with debug := v.truncate 16 }
  else if off = 0x10 then s.modMpu bench fun m => { m with lineBase := bits v 15 0 }
  else if off = 0x14 then s.modMpu bench fun m => { m with lineCount := bits v 16 0 }
  else if off = 0x18 then s.modMpu bench (Mpu.writeLineSet bench v)
  else if 0x100 ≤ off ∧ off < 0x200 then
    let n := (off - 0x100) / 4
    s.heldEdit bench (Mpu.writeRule n (s.owns bench n && n != unitSlot bench) v)
  else s

/-! ### Reads and writes of data (R386, R389, R410) -/

/-- The low `n` bytes of a word. -/
def lowBytes (v : BitVec 64) (n : Nat) : BitVec 64 := BitVec.ofNat 64 (v.toNat % 2 ^ (8 * n))

/-- Bytes `o` to `o + n - 1` of a word. -/
def subWord (v : BitVec 64) (o n : Nat) : BitVec 64 := lowBytes (v >>> (8 * o)) n

/-- A word with its bytes `o` to `o + n - 1` replaced. -/
def putSub (old v : BitVec 64) (o n : Nat) : BitVec 64 :=
  let m := lowBytes (BitVec.allOnes 64) n <<< (8 * o)
  (old &&& ~~~ m) ||| ((lowBytes v n <<< (8 * o)) &&& m)

/-- A tag is reserved (R386). -/
def tagReserved (t : BitVec 4) : Bool := decide (6 ≤ t.toNat) && decide (t.toNat ≤ 14)

/-- The tag of an operand of `n` bytes read from a word (R389). -/
def readTag (t : BitVec 4) (n : Nat) : BitVec 4 :=
  if n = 8 ∨ t = tSecret ∨ t = tPoison ∨ tagReserved t then t else tInt

/-- The tag of what slot `n` returns (R386, R410); of the Rack's control port and the wrap unit every whole word counts as a slot
reference or a wrap result (DESIGN CHOICE, log 30). -/
def State.slotTag (s : State) (bench : Bool) (n size : Nat) : BitVec 4 :=
  if secretSource n then tSecret
  else if size ≠ 8 then tInt
  else if n = 2 then tSlotref
  else if n = 14 then tSealed
  else if n = 10 ∧ (s.slotRule bench 10).x then tCode
  else tInt

/-- Read the protection unit's registers at an offset. -/
def State.unitRead (s : State) (bench : Bool) (off n : Nat) : BitVec 64 :=
  let b := off / 4 * 4
  subWord (BitVec.ofNat 64 (s.mpuRead bench b + (if n = 8 then 2 ^ 32 * s.mpuRead bench (b + 4) else 0))) (off % 4) n

/-- The sixteen bytes of the tamper latch (R440). -/
def Crucible.latch (c : Crucible) : Bytes :=
  leBytes 2 c.latchSrc.toNat ++ leBytes 1 c.latchCls ++ [0] ++ leBytes 4 c.latchGroup.toNat ++ leBytes 4 c.latchFirst.toNat ++
    leBytes 4 c.latchLast.toNat

/-- A record of the battery-time event buffer (R442). -/
def BatRec.bytes (r : BatRec) : Bytes :=
  [0xA5] ++ leBytes 1 r.source ++ [r.detail, r.flags] ++ leBytes 4 r.secs.toNat ++ leBytes 4 r.group.toNat ++ leBytes 2 r.ticks ++ [0, 0]

/-- Byte `i` of the BBRAM as a processor reads it: the layout of R177, its first 64 bytes reading 0 (R178). -/
def Crucible.byte (c : Crucible) (i : Nat) : Byte :=
  if i < 0x40 then 0
  else if i < 0x50 then byteAt (beBytes 16 c.drkCheck.toNat) (i - 0x40)
  else if i < 0x60 then byteAt c.latch (i - 0x50)
  else if i < 0x64 then byteAt (beBytes 4 c.rootGen.toNat) (i - 0x60)
  else if i < 0x400 then 0
  else byteAt ((c.batRecs[(i - 0x400) / 16]?).elim [] BatRec.bytes) (i % 16)

/-- A word of `n` bytes, the first lowest. -/
def wordOf (b : Bytes) : BitVec 64 := BitVec.ofNat 64 (leNat b)

/-! ### The windows of the mailbox and of the descriptor channel (R365, R415)

The spec names the request and the response area of a service and gives them no address; the layout is the model's (DESIGN CHOICE, log 57). -/

/-- Offset of the response area in slot 13, behind the snapshot of 256 bytes. -/
def mbxAreaOff : Nat := 0x100

/-- Offset of the response area in slot 12, behind the entry. -/
def chanAreaOff : Nat := 0x1000

/-- The entry of the descriptor channel that the Hearth serves: the descriptor as fetched, or the legacy frame (R550). -/
def State.chanEntry (s : State) : Option Bytes :=
  match s.worlds.running with
  | some (.chan id) => (s.opOf id).map fun o => leBytes 64 o.desc.toNat
  | some .legacy => some (fit chanAreaOff s.legacy.snap)
  | _ => none

/-- `n` bytes at an offset of a list that stands at offset `lo` of a slot. -/
def windowBytes (lo : Nat) (b : Bytes) (off n : Nat) : Option (BitVec 64) :=
  if lo ≤ off ∧ off + n ≤ lo + b.length then some (wordOf (slice b (off - lo) n)) else none

/-- What a read of `n` bytes at an offset of slot `k` returns (R160, R177, R178, R365, R480); none where the spec does not say. The BBRAM stands at
the base of its slot (DESIGN CHOICE, log 30). -/
def State.slotValue (s : State) (k off n : Nat) : Option (BitVec 64) :=
  if k = 0 ∧ off + n ≤ 0x800 then some (wordOf ((List.range n).map fun i => s.crucible.byte (off + i)))
  else if k = 2 then
    match Config.rackField off with
    | some .select => some (BitVec.ofNat 64 s.rack.portSel)
    | some (.material _) => some 0
    | some (.attr i) => some (wordOf (slice (attrBytes (s.slotOf s.rack.portSel).attr) i n))
    | none => none
  else if k = 12 then
    (windowBytes chanAreaOff (fit 64 s.worlds.chanArea) off n).or (s.chanEntry.bind fun b => windowBytes 0 b off n)
  else if k = 13 then
    (windowBytes 0 (fit 256 s.worlds.snap) off n).or (windowBytes mbxAreaOff (fit 240 s.worlds.mbxArea) off n)
  else if k = 18 then windowBytes 0x100 (leBytes 8 s.zwm.hclaim.toNat) off n
  else none

/-- A read of slot `k`: what the spec gives, or a free value. -/
def State.slotRead (k off n : Nat) (s : State) : BitVec 64 × State :=
  match s.slotValue k off n with
  | some v => (v, s)
  | none => (lowBytes (Config.freeWord s.free) n, s.spend 1)

/-- The Hearth changes a slot through the control port; the Rack computes its CHECK while it is VALID (R157, R160). -/
def State.editSlot (n : Nat) (attr : BitVec 128) (material : BitVec 576) (s : State) : State :=
  let s := s.forgetKey n
  if aValid attr then s.placeSlot n attr material
  else { s with rack := { s.rack with slots := tset {} n { attr := attr, material := material } s.rack.slots } }

/-- A write of the Rack's control port: MATERIAL and ATTR of the slot selected (R160). -/
def State.rackWrite (off n : Nat) (v : BitVec 64) (s : State) : State :=
  let sel := s.rack.portSel
  let x := s.slotOf sel
  match Config.rackField off with
  | some .select => { s with rack := { s.rack with portSel := v.toNat % 65536 } }
  | some (.material i) => s.editSlot sel x.attr (materialOf (patch (leBytes 72 x.material.toNat) i (leBytes n v.toNat)))
  | some (.attr i) => s.editSlot sel (attrOf (patch (attrBytes x.attr) i (leBytes n v.toNat))) x.material
  | none => s

/-- HCLAIM takes a value: claims are set and released (R480). A domain that is deferred counts as idle still where no work is in it (log 57). -/
def State.writeClaims (v : Nat) (s : State) : State :=
  (List.range 30).foldl (fun s d =>
    if v.testBit d = s.zwm.hclaim.getLsbD d then s else if v.testBit d then s.claim d else s.unclaim d 65535) s

/-- A write of slot `k`: the Rack's control port (R160), the response areas (R365) and HCLAIM (R480); a write of the request of a service has no
effect. -/
def State.slotWrite (k off n : Nat) (v : BitVec 64) (s : State) : State :=
  let put (lo len : Nat) (b : Bytes) : Bytes :=
    if lo ≤ off ∧ off + n ≤ lo + len then patch (fit len b) (off - lo) (leBytes n v.toNat) else b
  if k = 2 then s.rackWrite off n v
  else if k = 12 then { s with worlds := { s.worlds with chanArea := put chanAreaOff 64 s.worlds.chanArea } }
  else if k = 13 then { s with worlds := { s.worlds with mbxArea := put mbxAreaOff 240 s.worlds.mbxArea } }
  else if k = 42 then (State.spend 1) { s with pins := { s.pins with gpio := some (Config.freeByte s.free) } }
  else if k = 18 then s.writeClaims (leNat (put 0x100 8 (leBytes 8 s.zwm.hclaim.toNat)))
  else s

/-- An error that the SECDED code of a word corrects is counted (R385). -/
def State.countCorrected (bench : Bool) (w : MWord) (s : State) : State :=
  if w.flips = 1 then { s with zwm := { s.zwm with memC := tmod 0 (if bench then 1 else 0) (· + 1) s.zwm.memC } } else s

/-- A word that can be read: no uncorrectable error, and the tag bits match their complement (R385). -/
def MWord.sound (w : MWord) : Bool := decide (w.flips ≤ 1) && w.ctag == ~~~ w.tag

/-- Read `n` bytes: value and tag (R385, R389, R410). -/
def State.dataRead (bench : Bool) (who : Option Nat) (a : BitVec 64) (n : Nat) (s : State) : Except Stop (TWord × State) :=
  match s.decideAccess bench who a n false false with
  | .error e => .error e
  | .ok (.slot k) =>
    if k = unitSlot bench then .ok ({ val := s.unitRead bench (locOf a % 0x10000) n, tag := tInt }, s)
    else
      let r := s.slotRead k (locOf a % 0x10000) n
      .ok ({ val := r.1, tag := s.slotTag bench k n }, r.2)
  | .ok area =>
    let w := s.wordAt area (locOf a)
    if ¬ w.sound then .error (.fault 0x11 a)
    else .ok ({ val := subWord w.val (locOf a % 8) n, tag := readTag w.tag n }, s.countCorrected bench w)

/-- The word that a store of `n` bytes leaves (R369, R389); none where the old word's tag or code is bad. -/
def storedWord (area : Area) (old : MWord) (o n : Nat) (v : TWord) : Option MWord :=
  if n = 8 then some (mword v.val (if area = .msg then tInt else v.tag))
  else if ¬ old.sound ∨ tagReserved old.tag then none
  else
    let base := if old.tag = tPoison then 0 else old.val
    some (mword (putSub base v.val o n) (if v.tag = tSecret ∨ old.tag = tSecret then tSecret else tInt))

/-- Write `n` bytes with a tag (R369, R389, R409, R410). A sub-word carries INT or SECRET only. A store narrower than a register of the
protection unit leaves the register's other bytes as they read, and clears no bit of MPU_ERROR outside its own bytes (R8, R9; what the other
bytes take is open: DESIGN CHOICE, log 30). -/
def State.dataWrite (bench : Bool) (who : Option Nat) (a : BitVec 64) (n : Nat) (v : TWord) (s : State) : Except Stop State :=
  if n ≠ 8 ∧ v.tag ≠ tInt ∧ v.tag ≠ tSecret then .error (.fault 0x08 a)
  else
    match s.decideAccess bench who a n true (v.tag == tSecret) with
    | .error e => .error e
    | .ok (.slot k) =>
      if k ≠ unitSlot bench then .ok (s.slotWrite k (locOf a % 0x10000) n v.val)
      else
        let off := locOf a % 0x10000 / 4 * 4
        let old := if off = 4 then 0 else BitVec.ofNat 64 (s.mpuRead bench off)
        let new := if n = 8 then v.val else putSub old v.val (locOf a % 4) n
        let s := s.mpuEdit bench off (new.truncate 32)
        .ok (if n = 8 then s.mpuEdit bench (off + 4) ((new >>> 32).truncate 32) else s)
    | .ok area =>
      let old := s.wordAt area (locOf a)
      match storedWord area old (locOf a % 8) n v with
      | none => .error (.fault (if tagReserved old.tag ∧ old.sound then 0x01 else 0x11) a)
      | some w =>
        if w.tag = tSecret ∧ ¬ s.secretOk bench (s.lineColour area (locOf a)) then .error (.fault 0x06 a)
        else .ok ((if n = 8 then s else s.countCorrected bench old).putWord area (locOf a) w)

/-! ### The copy engines (R415) -/

/-- Move `k` units of `n` bytes from one address to another. -/
def State.copyUnits (bench : Bool) (n : Nat) : Nat → BitVec 64 → BitVec 64 → State → Except Stop State
  | 0, _, _, s => .ok s
  | k + 1, src, dst, s =>
    match s.dataRead bench none src n with
    | .error e => .error e
    | .ok (v, s) =>
      match s.dataWrite bench none dst n v with
      | .error e => .error e
      | .ok s => State.copyUnits bench n k (src + BitVec.ofNat 64 n) (dst + BitVec.ofNat 64 n) s

/-- A piece lies inside one line on both sides. -/
def pieceInLine (p : CopyPiece) : Bool :=
  decide (p.src.toNat % 64 + p.len.val ≤ 64) && decide (p.dst.toNat % 64 + p.len.val ≤ 64)

/-- The colour or slot decision of a whole piece, by its first byte (R414), then its read and its write. Whole words move with their
tags. -/
def State.copyMove (p : CopyPiece) (s : State) : Except Stop State :=
  match s.decideAccess p.bench none p.src 1 false false, s.decideAccess p.bench none p.dst 1 true false with
  | .error e, _ => .error e
  | _, .error e => .error e
  | .ok _, .ok _ =>
    if p.src.toNat % 8 = 0 ∧ p.dst.toNat % 8 = 0 ∧ p.len.val % 8 = 0 then s.copyUnits p.bench 8 (p.len.val / 8) p.src p.dst
    else s.copyUnits p.bench 1 p.len.val p.src p.dst

/-- Decide and carry out a piece: a refusal is kept with its world and offset, and its destination stays untouched; a slot refusal
is logged (R360, R415). -/
def State.copyStep (p : CopyPiece) (s : State) : State :=
  match s.copyMove p with
  | .ok s => s
  | .error (.fault code _) =>
    let s := { s with zwm := { s.zwm with copyErr := s.zwm.copyErr ++ [(if p.bench then 1 else 0, p.offset.toNat)] } }
    if code = 0x0F then s.logOpen 0x0D (if p.bench then 0xF2 else 0xF1) 4150 [] else s
  | .error .wait => s

/-! ### The debug master (R420 to R422) -/

/-- The world that owns a location of the debug master's map: true the Bench. The message memory counts as the Bench's (DESIGN CHOICE,
log 30). -/
def State.debugWorld (s : State) (loc : Nat) : Option (Bool × Area) :=
  match areaOf false loc, areaOf true loc with
  | some (.slot n), _ => if slotReserved n then none else some (s.benchOwns n, .slot n)
  | _, some a => some (true, a)
  | some a, none => some (false, a)
  | none, none => none

/-- The life-cycle state and the granted scope admit a world (R421, R453). -/
def State.debugAdmits (s : State) (bench : Bool) : Bool :=
  let c := s.lifeCode
  c == 2 || ((c == 3 || c == 5) && s.life.scope.getLsbD (if bench then 0 else 1))

/-- The target that a debug access passes to; none for a locked region (R421). -/
def State.debugTarget (s : State) (r : DebugReq) : Option (Bool × Area) :=
  if bits r.addr 63 32 ≠ 0 then none
  else
    match s.debugWorld (locOf r.addr) with
    | none => none
    | some (b, area) =>
      let open_ := (s.mpuOf b).debug
      let ok : Bool := match area with
        | .slot n =>
          let rule := s.slotRule b n
          rule.colours &&& open_ != 0 && (if r.write.isSome then rule.w else rule.r)
        | _ =>
          let t := (s.wordAt area (locOf r.addr)).tag
          open_.getLsbD (s.lineColour area (locOf r.addr)) &&
            (if r.write.isSome then t != tSecret else !(t == tSecret || t == tSlotref || t == tSealed))
      if s.debugAdmits b ∧ ok then some (b, area) else none

/-- A debug access that is refused: a read returns 0, the error bit is set; `probe` tells that it met a locked region, which is
logged as DEBUG_PROBE, and raises LOCK when 16 fall within 1 s (R422). -/
def State.debugRefuse (r : DebugReq) (probe : Bool) (s : State) : State :=
  let s := { s with zwm := { s.zwm with dbgErr := true } }
  let s := if r.write.isNone then s.emit (.debug true 0) else s
  if ¬ probe then s
  else
    let ps := (s.now :: s.recentProbes).take 16
    let s := { s with tamper := { s.tamper with probes := ps } }
    if ps.length = 16 then s.alarmAs 8 (if s.classOf 8 = 0 then 0 else max 2 (s.classOf 8)) 0 else s.alarm 8 0

/-- A debug access that passes: reads return the value, writes store INT words (R421). -/
def State.debugPass (r : DebugReq) (bench : Bool) (area : Area) (s : State) : State :=
  let loc := locOf r.addr
  let n := r.size.toNat
  match area, r.write with
  | .slot k, none =>
    if k = unitSlot bench then s.emit (.debug false (s.unitRead bench (loc % 0x10000) n))
    else
      let t := s.slotTag bench k n
      if t = tSecret ∨ t = tSlotref ∨ t = tSealed then s.debugRefuse r true
      else
        let v := s.slotRead k (loc % 0x10000) n
        v.2.emit (.debug false v.1)
  | .slot k, some v =>
    if k ≠ unitSlot bench then s.slotWrite k (loc % 0x10000) n v
    else
      let s := s.mpuEdit bench (loc % 0x10000) (v.truncate 32)
      if n = 8 then s.mpuEdit bench (loc % 0x10000 + 4) ((v >>> 32).truncate 32) else s
  | a, none => s.emit (.debug false (subWord (s.wordAt a loc).val (loc % 8) n))
  | a, some v =>
    let old := s.wordAt a loc
    let base := if old.tag = tPoison then 0 else old.val
    s.putWord a loc (mword (if n = 8 then v else putSub base v (loc % 8) n) tInt)

/-- Decide and carry out a debug access (R415, R420 to R422): sizes other than 4 and 8 bytes, or a misaligned address, are refused
without counting. -/
def State.debugStep (r : DebugReq) (s : State) : State :=
  let n := r.size.toNat
  if (n ≠ 4 ∧ n ≠ 8) ∨ locOf r.addr % n ≠ 0 then s.debugRefuse r false
  else
    match s.debugTarget r with
    | none => s.debugRefuse r true
    | some (b, area) => s.debugPass r b area

/-! ### Holding a unit (R417 to R419) -/

/-- Carry out an access that waited. -/
def State.unitStep (s : State) : UnitReq → State
  | .copy p => s.copyStep p
  | .debug r => s.debugStep r

/-- HOLD falls: the accesses that waited are decided under the rules now in force, in arrival order (R417). -/
def State.releaseUnit (bench : Bool) (s : State) : State :=
  let w := (s.mpuOf bench).waiting
  let s := s.modMpu bench fun m => { m with hold := false, holdAck := false, holder := 0, clearWait := false, waiting := [] }
  w.foldl State.unitStep s

/-- Set HOLD for a core (R417). -/
def State.setHold (c : Nat) (s : State) : State :=
  s.modMpu (isBench c) fun m => if m.hold then m else { m with hold := true, holder := coreNum c }

/-- Clear HOLD; while BUSY is 1 the clear waits (R417). -/
def State.clearHold (bench : Bool) (s : State) : State :=
  let m := s.mpuOf bench
  if ¬ m.hold then s
  else if m.busy then s.modMpu bench fun m => { m with clearWait := true }
  else s.releaseUnit bench

/-- Lines `lo` to `lo + n - 1` of a table of colours take a colour. -/
def setLines (lo n : Nat) (col : BitVec 4) (t : List (Nat × BitVec 4)) : List (Nat × BitVec 4) :=
  (t.filter fun e => decide (e.1 < lo)) ++ (if col = 0 then [] else (List.range n).map fun i => (lo + i, col)) ++
    (t.filter fun e => decide (lo + n ≤ e.1))

/-- A colouring run ends: its lines but the fixed ones have their colour, BUSY falls, and a clear that waited takes effect (R416,
R417). -/
def State.endRun (bench : Bool) (s : State) : State :=
  let m := s.mpuOf bench
  match m.run with
  | none => s
  | some (lo, n, col) =>
    let n := if bench then n else min n (8176 - lo)
    let s := s.modMpu bench fun m => { m with busy := false, run := none, colours := setLines lo n col m.colours }
    if m.clearWait then s.releaseUnit bench else s

/-- The rules of a world return to their reset values; accesses that waited are decided under them (R419). MPU_DEBUG resets to all
ones in TEST_UNLOCKED (R416). -/
def State.resetUnit (bench : Bool) (s : State) : State :=
  let w := (s.mpuOf bench).waiting
  let m : Mpu := { secret := if bench then 0 else 0x7FFF, debug := if s.lifeCode = 2 then 0xFFFF else 0 }
  w.foldl State.unitStep (s.modMpu bench fun _ => m)

/-! ### What a core reads and writes -/

/-- A write of MPU_CTRL by a core (R416, R417). -/
def State.mpuCtrl (c : Nat) (v : BitVec 32) (s : State) : State :=
  if v.getLsbD 0 then s.setHold c else s.clearHold (isBench c)

/-- A core's write: MPU_CTRL of its own unit, or any other data (R416). -/
def State.coreWrite (c : Nat) (a : BitVec 64) (n : Nat) (v : TWord) (s : State) : Except Stop State :=
  let b := isBench c
  match s.dataWrite b (some c) a n v with
  | .error e => .error e
  | .ok s' =>
    if areaOf b (locOf a) = some (.slot (unitSlot b)) ∧ locOf a % 0x10000 = 0 then .ok (s'.mpuCtrl c (v.val.truncate 32)) else .ok s'

/-- A core's read. -/
def State.coreRead (c : Nat) (a : BitVec 64) (n : Nat) (s : State) : Except Stop (TWord × State) := s.dataRead (isBench c) (some c) a n

end Sys2Proof.Machine
end

