-- ==== Sys2Proof/Machine/Worlds.lean ====
section
/-!
DEFINITION. The two worlds: services of the Hearth, VAULTMBX, the Bench ring and its handshake, watchdogs and restarts (R354 to
R384). Images stand at the base of their world's SRAM (DESIGN CHOICE, log 30).
-/
namespace Sys2Proof.Machine

/-- Base of the Hearth image. -/
def hearthBase : Nat := 0x100000

/-- Base of the Bench image. -/
def benchBase : Nat := 0x400000

/-- The words of a loaded image, tagged CODE (R386). -/
def imageWords (base : Nat) (body : Bytes) : List (Nat × MWord) :=
  (chunks 8 body).zipIdx.map fun e => (base / 8 + e.2, mword (BitVec.ofNat 64 (leNat e.1)) tCode)

/-! ### Service entry (R361, R364, R365) -/

/-- Entry offset of a service (R364); a legacy frame stands in the descriptor channel (R550). -/
def Service.entry : Service → Nat
  | .mbx => 0
  | .chan _ => 0x40
  | .legacy => 0x40
  | .ring _ => 0x80
  | .benchNotice => 0x100

/-- Base of a ring in the message memory: the Hearth writes the lower one (DESIGN CHOICE, log 57). `bench` is the reader. -/
def ringBase (bench : Bool) : Nat := if bench then 0x200000 else 0x201000

/-- Location of the slot of message `n` of a ring (R368). -/
def ringSlot (bench : Bool) (n : Nat) : Nat := ringBase bench + 256 * (n % 16)

/-- A0 at the entry of a service: the address of the request (R365). The snapshot stands in slot 13, the channel's entry in slot 12, both reached
with colour 0; a ring slot is reached with colour 15 (R407). For the Bench reset notice the spec gives none, a free value. -/
def State.entryA0 (s : State) : Service → BitVec 64
  | .mbx => 0x800D0000
  | .chan _ | .legacy => 0x800C0000
  | .ring n => 0xF000000000000000 + BitVec.ofNat 64 (ringSlot false n)
  | .benchNotice => Config.freeWord s.free

/-- A2 at the entry of a service: the address of the response area (R365); a ring message has that of VAULTMBX (DESIGN CHOICE, log 57). -/
def State.entryA2 (s : State) : Service → BitVec 64
  | .mbx | .ring _ => 0x800D0000 + BitVec.ofNat 64 mbxAreaOff
  | .chan _ | .legacy => 0x800C0000 + BitVec.ofNat 64 chanAreaOff
  | .benchNotice => Config.freeWord (s.free + 1)

/-- A1 at the entry of a service: route and function (R365); for the Bench reset notice the spec gives none, a free value. -/
def State.entryA1 (s : State) : Service → BitVec 64
  | .mbx => 0
  | .chan id => 1 + 256 * BitVec.ofNat 64 (((s.opOf id).map (·.fn)).getD 0)
  | .legacy => 1
  | .ring _ => 2
  | .benchNotice => Config.freeWord (s.free + 2)

/-- The registers at the entry of a service (R365). -/
def State.enterService (v : Service) (s : State) : State :=
  let regs : List (Nat × TWord) := [(0, { val := s.entryA0 v, tag := tAddr }), (1, { val := s.entryA1 v, tag := tInt }),
    (2, { val := s.entryA2 v, tag := tAddr }), (15, { val := 0x00180000, tag := tAddr })]
  State.spend (if v = .benchNotice then 3 else 0) ((s.modCore 0 fun c => { c with
    regs := regs, acc := 0, accTag := tPoison, fl := 0, pc := BitVec.ofNat 64 (hearthBase + v.entry), rep := none, wfi := false }))

/-- Services can start: the Hearth serves, or the ROM does in RECOVERY (R374, R460). -/
def State.canServe (s : State) : Bool := s.worlds.hearth.status == 1 || s.chip.state == .recovery

/-- SERVICE_ENTRY (R361, R365): the oldest pending service starts once the one before has ended. A descriptor that a FENCE holds is
passed over (R109, R119). -/
def execServiceEntry (s : State) : Out :=
  .next (
    match s.worlds.running, s.worlds.pendingSvc.find? s.svcMayStart with
    | none, some v =>
      if s.canServe then
        State.enterService v { s with worlds := { s.worlds with running := some v, pendingSvc := s.worlds.pendingSvc.erase v } }
      else s
    | _, _ => s)

/-! ### VAULTMBX (R374 to R378, R460) -/

/-- The service codes that the chapters of R377 define. -/
def mbxCodes : List Nat :=
  [0x10, 0x11, 0x12, 0x13, 0x14, 0x18, 0x19, 0x1A, 0x1B, 0x40, 0x41, 0x42, 0x43, 0x44, 0x45, 0x48, 0x50, 0x51]

/-- The image range of R373: the services of the life-cycle chapter. -/
def mbxImageCode (code : Nat) : Bool := decide (0x10 ≤ code) && decide (code ≤ 0x2F)

/-- A request enters the queue of services, or is answered at once (R373, R377, R378, R460). -/
def State.mbxSubmit (s : State) : State :=
  let code := s.mbxCode
  let rom := s.chip.state == .recovery
  if ¬ rom ∧ s.worlds.hearth.status ≠ 1 then s.mbxUnavailable
  else if rom ∧ s.lifeCode = 6 ∧ code ≠ 0x10 then s.mbxConflict
  else if (rom ∨ s.worlds.hbi = 0) ∧ ¬ mbxImageCode code then s.mbxUnavailable
  else
    match mbxHeaderFault s.worlds.snap with
    | some f => s.mbxAnswer 0x0102 f []
    | none =>
      if ¬ mbxCodes.contains code then s.mbxAnswer 0x0101 code []
      else { s with worlds := { s.worlds with pendingSvc := s.worlds.pendingSvc ++ [.mbx] } }

/-- VAULTMBX_GO (R374, R376): the request is copied; while GO is 1 the write is dropped and sets OVERRUN. -/
def State.mbxGo (s : State) : State :=
  if s.worlds.go then { s with worlds := { s.worlds with overrun := true } }
  else State.mbxSubmit { s with worlds := { s.worlds with go := true, snap := fit 256 s.worlds.req } }

/-- VAULTMBX_GO (R376). -/
def execVaultmbxGo (s : State) : Out := .next (s.onBar fun s => s.mbxGo)

/-! ### The Bench ring (R368 to R370) -/

/-- A ring is full. -/
def Ring.full (r : Ring) : Bool := decide (16 ≤ r.tail - r.head)

/-- The reader frees slots: it writes the new head. -/
def Ring.free (n : Nat) (r : Ring) : Ring := if n ≤ r.tail - r.head then { r with head := r.head + n } else r

/-- The ring that a world reads. -/
def State.ringOf (s : State) (bench : Bool) : Ring := if bench then s.worlds.toBench else s.worlds.toHearth

/-- Change the ring that a world reads. -/
def State.modRing (bench : Bool) (g : Ring → Ring) (s : State) : State :=
  if bench then { s with worlds := { s.worlds with toBench := g s.worlds.toBench } }
  else { s with worlds := { s.worlds with toHearth := g s.worlds.toHearth } }

/-- Byte `i` from a location of the message memory on. -/
def State.msgByte (s : State) (loc i : Nat) : Byte := byteAt (leBytes 8 (s.wordAt .msg (loc + i)).val.toNat) ((loc + i) % 8)

/-- The bytes of message `n` of the ring that a world reads (R368). -/
def State.ringMsg (s : State) (bench : Bool) (n : Nat) : Bytes := (List.range 256).map (s.msgByte (ringSlot bench n))

/-- Words are stored one after another from a location of the message memory on, each with tag INT (R369). -/
def State.storeMsg (loc : Nat) (b : Bytes) (s : State) : State :=
  (chunks 8 b).zipIdx.foldl (fun s e => s.putWord .msg (loc + 8 * e.2) (mword (wordOf e.1) tInt)) s

/-- An interrupt line of a world becomes pending: a core that waits in WFI goes on (R397, R404). -/
def State.raiseLine (bench : Bool) (line : Nat) (s : State) : State :=
  let add (w : World) : World := { w with irqs := (w.irqs.filter (· != line)) ++ [line] }
  let s := if bench then { s with worlds := { s.worlds with bench := add s.worlds.bench } }
    else { s with worlds := { s.worlds with hearth := add s.worlds.hearth } }
  { s with zwm := { s.zwm with cores := tmap {} (fun c x => if isBench c = bench then { x with wfi := false } else x) s.zwm.cores } }

/-- The first interrupt line of the slot with a world's ring doorbells, slot 20 or 47 (R411, R412; which of its two lines is open: DESIGN CHOICE,
log 30). -/
def ringLine (bench : Bool) : Nat := if bench then 94 else 40

/-- The tail that the world `bench` writes passes `k` filled slots: the reader is interrupted, and each message to the Hearth starts a service
(R361, R368). A tail that would pass the reader's head is not written: while a ring is full, the writer waits. -/
def State.ringTail (bench : Bool) (k : Nat) (s : State) : State :=
  let r := s.ringOf (!bench)
  if k = 0 ∨ 16 < r.tail + k - r.head then s
  else
    let s := State.raiseLine (!bench) (ringLine (!bench)) (s.modRing (!bench) fun r => { r with tail := r.tail + k })
    if bench then
      { s with worlds := { s.worlds with pendingSvc := s.worlds.pendingSvc ++ (List.range k).map fun i => .ring (r.tail + i) } }
    else s

/-- A message of a world: it fills the next slot and writes the tail (R368). While the ring is full, the writer waits. -/
def State.ringSend (bench : Bool) (msg : Bytes) (s : State) : State :=
  let r := s.ringOf (!bench)
  if r.full then s else (s.storeMsg (ringSlot (!bench) r.tail) (fit 256 msg)).ringTail bench 1

/-- RING_DOORBELL (R368): `bench` is the writer, which has filled that many slots of the message memory. -/
def execRingDoorbell (bench : Bool) (filled : Fin 17) (s : State) : Out := .next (s.ringTail bench filled)

/-- RING_HEAD_WRITE (R368): the reader `bench` frees that many slots of its ring. -/
def execRingHeadWrite (bench : Bool) (freed : Fin 17) (s : State) : Out := .next (s.modRing bench (Ring.free freed))

/-- A ring message (R370). -/
def ringMessage (code seq status : Nat) (body : Bytes) : Bytes :=
  leBytes 2 code ++ leBytes 2 seq ++ leBytes 2 body.length ++ leBytes 2 status ++ List.replicate 8 0 ++ body

/-! ### The handshake (R371 to R373) -/

/-- The highest version in both ranges, 0 where they do not overlap (R372). -/
def State.chosen (s : State) : BitVec 16 :=
  let h := s.worlds.hearth
  let b := s.worlds.bench
  let hi := min h.hbiMax.toNat b.hbiMax.toNat
  if max h.hbiMin.toNat b.hbiMin.toNat ≤ hi then BitVec.ofNat 16 hi else 0

/-- CHOSEN comes into use, VAULT_UP is 1 unless it is 0, and the handshake is logged (R372, R373, R384). -/
def State.useChosen (s : State) : State :=
  let c := s.chosen
  let h := s.worlds.hearth
  let b := s.worlds.bench
  State.log 0x0C03 0xF2 (leBytes 2 h.hbiMin.toNat ++ leBytes 2 h.hbiMax.toNat ++ leBytes 2 b.hbiMin.toNat ++
    leBytes 2 b.hbiMax.toNat ++ leBytes 2 c.toNat)
    { s with worlds := { s.worlds with hbi := c, helloOut := false, vaultUp := c != 0 } }

/-- The Bench sends HBI_HELLO (R372); with its ring full it waits, and nothing is sent. -/
def State.sendHello (s : State) : State :=
  let b := s.worlds.bench
  if s.worlds.toHearth.full then s
  else
    let s := s.ringSend true (ringMessage 1 0 0 (leBytes 2 b.hbiMin.toNat ++ leBytes 2 b.hbiMax.toNat))
    { s with worlds := { s.worlds with helloOut := true } }

/-- HBI_HELLO (R372): the Bench serves. -/
def execHbiHello (s : State) : Out := .next (if s.worlds.bench.status = 1 then s.sendHello else s)

/-- HBI_HELLO_RETRY (R372): 100 ms without an answer. -/
def execHbiHelloRetry (s : State) : Out :=
  .next (if s.worlds.bench.status = 1 ∧ s.worlds.helloOut then s.sendHello else s)

/-- Message `n` of the Bench has been served: its service ends, or is no longer pending, and its slot is free. -/
def State.ringServed (n : Nat) (s : State) : State :=
  let s := if s.worlds.running = some (.ring n) then State.serviceRegs 0 0 6 { s with worlds := { s.worlds with running := none } }
    else { s with worlds := { s.worlds with pendingSvc := s.worlds.pendingSvc.erase (.ring n) } }
  s.modRing false (Ring.free 1)

/-- The oldest message of the Bench that still holds its slot is an HBI_HELLO (R370, R372). -/
def State.helloWaits (s : State) : Bool :=
  let r := s.worlds.toHearth
  decide (r.head < r.tail) && leAt (s.ringMsg false r.head) 0 2 == 1

/-- The Hearth answers the HBI_HELLO at the head of its ring: the slot is free again, HBI_ACK with the hello's SEQ goes to the Bench, CHOSEN is in
use (R370, R372). While the ring to the Bench is full, it waits. -/
def State.answerHello (s : State) : State :=
  let n := s.worlds.toHearth.head
  if ¬ s.helloWaits ∨ s.worlds.toBench.full then s
  else
    let h := s.worlds.hearth
    let ack := ringMessage 2 (leAt (s.ringMsg false n) 2 2) 0 (leBytes 2 h.hbiMin.toNat ++ leBytes 2 h.hbiMax.toNat ++ leBytes 2 s.chosen.toNat)
    ((s.ringServed n).ringSend false ack).useChosen

/-- HBI_ACK (R372, R373): the Hearth answers the hello; with CHOSEN 0, VAULT_UP stays 0. -/
def execHbiAck (s : State) : Out := .next (if s.worlds.hearth.status = 1 then s.answerHello else s)

/-- The handshake after a start of either world: the Bench's HBI_HELLO and the Hearth's HBI_ACK pass through the rings, which are empty then
(R368, R372). -/
def State.handshake (s : State) : State := s.sendHello.answerHello

/-! ### Watchdogs (R379) -/

/-- WDOG_KICK (R379): the core's count restarts; another value is ignored and logged. -/
def execWdogKick (core : Fin 5) (value : BitVec 32) (s : State) : Out :=
  .next (if value = 0x4B49 then s.modCore core fun c => { c with kickAt := s.now }
    else s.logOpen 0x0C (if core.val = 0 then 0xF1 else 0xF2) 3790 [BitVec.ofNat 8 core.val])

/-- Restarts of a world within the last 600 s (R383). -/
def State.recentRestarts (s : State) (w : World) : List Nat := w.restartAt.filter fun t => decide (s.now < t + 600000000000)

/-- The world stops: it restarts, or is halted after four restarts within 600 s (R380, R382, R383). -/
def State.stopped (s : State) (w : World) (cause : Nat) : World :=
  { w with status := if 4 ≤ (s.recentRestarts w).length then 3 else 2, cause := cause, irqs := [] }

/-- Every operation that the channel holds ends with ST_SERVICE_UNAVAILABLE, and so does every one that waits before it, VAULT_UP being 0 (R118,
R363, R380). -/
def State.failChannel (s : State) : State :=
  (s.worlds.channel ++ s.worlds.chanWait).foldl (fun s id => s.fail id 0x0302 0xFF) s

/-- The mailbox answers a request that the Hearth was serving, or was to serve, when it stopped (R378). -/
def State.mbxStops (s : State) : State := if s.worlds.go then s.mbxUnavailable else s

/-- What a reset of the Hearth clears (R368, R380 steps 3 and 5, R419): its services, both rings, its Hammer job and the draw that it waits for,
its SRAM and registers, its claims and its protection unit's rules. An image transfer ends with the Hearth that ran it (DEDUCED, log 30). -/
def State.clearHearth (s : State) : State :=
  let s := s.dropHearthJob.unclaimAll
  State.resetUnit false { s with
    worlds := { s.worlds with
      pendingSvc := [], running := none, channel := [], chanWait := [], toBench := {}, toHearth := {}, helloOut := false }
    bellows := { s.bellows with
      seedQ := s.bellows.seedQ.filter (·.who != .hearth), held := s.bellows.held.filter (·.who != .hearth), given := none }
    zwm := { s.zwm with hmem := [], cores := s.zwm.cores.filter fun c => c.1 != 0 }
    life := { s.life with transfer := none } }

/-- The Hearth stops, by its watchdog (cause 0) or by a fault in the fault handler (cause 1): steps 1 to 5 of R380. -/
def State.stopHearth (cause : Nat) (s : State) : State :=
  if 2 ≤ s.worlds.hearth.status then s
  else
    let s := State.deviceEvent { s with worlds := { s.worlds with hearth := s.stopped s.worlds.hearth cause, vaultUp := false } }
    let s := ((s.endSession.failChannel.mbxStops).legacyAbort "S02").loseCeremony.clearHearth
    if s.worlds.hearth.status = 3 then s.log 0x0C04 0xF1 [0] else s

/-- HEARTH_WATCHDOG_EXPIRY (R380). -/
def execHearthWatchdogExpiry (s : State) : Out := .next (s.stopHearth 0)

/-- HEARTH_RESTART (R380 steps 6 to 8): the ROM verifies the image of the slot booted, without the table, and starts it; quotas are
persisted, the handshake is made where the Bench serves, VAULT_UP returns. A restart that follows a Quench is counted alike. The scratch slots of
the Nolur 3 window hold a key only within the step of a command, so that none is left to unload (R551). -/
def execHearthRestart (s : State) : Out :=
  .next (
    if s.worlds.hearth.status ≠ 2 then s
    else
      let img := s.imageAt 0 (tget 3 s.life.boot 0)
      let f := s.imageFault 0 s.unsignedOk img
      if f ≠ 0 ∧ f ≠ 6 then s
      else
        let s := { s with zwm := { s.zwm with hmem := imageWords hearthBase (imgBody img) } }
        let s := State.persistQuotas { s with worlds := { s.worlds with hbi := 0 } }
        let s := if s.worlds.bench.status = 1 then s.handshake else s
        let h := s.worlds.hearth
        let n := satInc 65535 h.restarts
        let s := { s with worlds := { s.worlds with
          hearth := { h with status := 1, restarts := n, restartAt := s.now :: s.recentRestarts h } } }
        (s.deviceEvent.log 0x0C01 0xF1 (leBytes 1 h.cause ++ leBytes 2 n)).logLost)

/-- A service for a Bench message. -/
def Service.ofRing : Service → Bool
  | .ring _ => true
  | _ => false

/-- The four Bench cores in reset: PC at the image entry, all else 0 or POISON (R391). -/
def benchCores : List (Nat × Core) := [1, 2, 3, 4].map fun c => (c, { pc := BitVec.ofNat 64 benchBase })

/-- The Bench stops, all four cores together (R382): its operations in progress end. -/
def State.stopBench (core : Nat) (s : State) : State :=
  if 2 ≤ s.worlds.bench.status then s
  else
    let s := State.deviceEvent { s with worlds := { s.worlds with
      bench := s.stopped s.worlds.bench core, toBench := {}, toHearth := {}, helloOut := false
      pendingSvc := (s.worlds.pendingSvc.filter fun v => !v.ofRing) ++ (if s.worlds.hearth.status = 1 then [.benchNotice] else []) } }
    let r := s.routing
    let s := { s with
      zwm := { s.zwm with cores := s.zwm.cores.filter (fun (c : Nat × Core) => c.1 == 0) ++ benchCores }
      routing := { r with
        built := none
        terms := tmap {} (fun _ t => { t with rehashing := false, spare := [], newSeed := 0, newMask := 0 }) r.terms } }
    let s := if s.worlds.bench.status = 3 then s.endBuild else s
    let s : State := s.cards.sd.waiting.foldl (fun s id => s.fail id 0x0302 0x14) s.abandonStore
    let s := s.resetUnit true
    if s.worlds.bench.status = 3 then s.log 0x0C04 0xF2 [1] else s

/-- BENCH_WATCHDOG_EXPIRY (R382). -/
def execBenchWatchdogExpiry (core : Fin 4) (s : State) : Out := .next (s.stopBench core)

/-- The four Bench cores start at the image entry (R391). -/
def State.startBench (s : State) : State :=
  { s with zwm := { s.zwm with cores := s.zwm.cores.filter (fun (c : Nat × Core) => c.1 == 0) ++ benchCores } }

/-- BENCH_RESTART (R382): the Bench starts again from its verified image, which is loaded anew, and offers its interface range. A build that the
reset interrupted ends with CAUSE 9 (R290). The image of the slot booted is verified as for the Hearth (DEDUCED, log 57). -/
def execBenchRestart (s : State) : Out :=
  .next (
    if s.worlds.bench.status ≠ 2 then s
    else
      let img := s.imageAt 1 (tget 3 s.life.boot 1)
      let f := s.imageFault 1 s.unsignedOk img
      if f ≠ 0 ∧ f ≠ 6 then s
      else
        let b := s.worlds.bench
        let n := satInc 65535 b.restarts
        let s := State.startBench { s.endBuild with
          worlds := { s.worlds with bench := { b with status := 1, restarts := n, restartAt := s.now :: s.recentRestarts b } }
          zwm := { s.zwm with bmem := imageWords benchBase (imgBody img) } }
        (s.log 0x0C02 0xF2 (leBytes 1 b.cause ++ leBytes 2 n)).sendHello)

end Sys2Proof.Machine
end

