-- ==== Sys2Proof/Machine/Quench.lean ====
section
/-!
DEFINITION. The end of a Quench (R434).
-/
namespace Sys2Proof.Machine

/-- A Quench ends (R434 steps 8 to 10): operations in flight end with ST_STATE_CONFLICT, the Hearth is held in reset and scrubbed, the open
ceremony ends, the response is recorded, a message is sent and PME_Status is set. The Hearth then restarts (R380). A chip reset that waited is
carried out (R87). -/
def State.endQuench (s : State) : State :=
  let s := s.failAll (fun _ => true) 0x0301 4
  let s := (s.endCeremony 5).mbxStops.legacyAbort "S05"
  let hearth := s.worlds.hearth
  let s := { s with worlds := { s.worlds with
    hearth := if hearth.status = 0 ∨ hearth.status = 3 then hearth else { hearth with status := 2, irqs := [] }, vaultUp := false } }
  let s := s.clearHearth
  let s := match s.tamper.group with
    | some g => s.logResponse 3 g ((s.now - s.tamper.quenchAt) / 1000)
    | none => s
  let s := State.pme (State.deviceEvent { s with tamper := { s.tamper with quench := false } })
  match s.chip.resetPending with
  | some c => State.chipResetTo c (State.flushStore (State.loseCeremony { s with chip := { s.chip with resetPending := none } }))
  | none => s

/-- QUENCH_COMPLETE (R434). -/
def execQuenchComplete (s : State) : Out := .next (if s.quenching then s.endQuench else s)

end Sys2Proof.Machine
end

