-- ==== Sys2Proof/Machine/Registers.lean ====
section
/-!
DEFINITION. A write to a register of a BAR (R8, R65 to R67, R71): each field takes the value under its access code. A register
whose write has a row of its own has that row's effect; bits and offsets not named here are reserved or read-only, and a write of them
changes nothing.
-/
namespace Sys2Proof.Machine

/-- The state after the effect of a row that always goes on. -/
def State.via (act : State → Out) (s : State) : State :=
  match act s with
  | .next t => t
  | _ => s

/-- Replace the dword `k` of a word. -/
def putDword {w : Nat} (k : Nat) (v : BitVec 32) (x : BitVec w) : BitVec w :=
  (x &&& ~~~ BitVec.ofNat w (0xFFFFFFFF * 2 ^ (32 * k))) ||| BitVec.ofNat w (v.toNat * 2 ^ (32 * k))

/-- A flag under W1C: bit `i` of the value written clears it. -/
def w1c (v : BitVec 32) (i : Nat) (b : Bool) : Bool := b && !v.getLsbD i

/-- Apply an effect where bit `i` of the value is 1 (W1S, WO). -/
def State.onBit (v : BitVec 32) (i : Nat) (act : State → State) (s : State) : State := if v.getLsbD i then act s else s

/-! ### Queue registers (R91, R92) -/

/-- The queue registers of a page, by their offset from QSEL − 0x10 of QMGR (0x20 is Q_SQ_BASE_LO). -/
def State.writeContext (page : Nat) (off : Nat) (v : BitVec 32) (s : State) : State :=
  let p := BitVec.ofNat 8 page
  let ctx (r : CtxReg) : State := s.via (execQueueContextWrite p r v)
  if off = 0x20 then ctx .sqLo
  else if off = 0x24 then ctx .sqHi
  else if off = 0x28 then ctx .cqLo
  else if off = 0x2C then ctx .cqHi
  else if off = 0x30 then ctx .depth
  else if off = 0x34 then s.via (execQVectorWrite p v)
  else if off = 0x38 then ctx .coal
  else if off = 0x3C then s.via (if v.getLsbD 0 then execQueueEnable p else execQueueDisable p)
  else s

/-- QMGR (R91); in legacy mode every write is dropped (R90). -/
def State.writeQmgr (a : Nat) (v : BitVec 32) (s : State) : State :=
  if s.chip.legacy then s
  else if a = 0x0800 then { s with qmgr := { s.qmgr with funcSel := bits v 7 0 } }
  else if a = 0x0804 then s.via (execFuncQueuesWrite v)
  else if a = 0x080C then { s with qmgr := { s.qmgr with error := s.qmgr.error &&& ~~~ (v.setWidth 7) } }
  else if a = 0x0810 then s.via (execQselWrite 0 v)
  else s.writeContext 0 (a - 0x0800) v

/-! ### Mailboxes (R148, R149) -/

/-- Offset `off` of the mailbox of VF `n`, written by the PF or by the VF. -/
def State.writeMbx (n off : Nat) (byPf : Bool) (v : BitVec 32) (s : State) : State :=
  let vf := BitVec.ofNat 8 n
  let k := off % 0x20 / 4
  if byPf then
    if off = 0x1C then s.onBit v 1 (State.via (execMbxToPfAck vf))
    else if off < 0x20 then s
    else if off = 0x3C then
      (s.modFn n fun x => { x with fromAcked := w1c v 2 x.fromAcked, fromOver := w1c v 3 x.fromOver }).onBit v 0
        (State.via (execMbxFromPfDoorbell vf))
    else s.modFn n fun x => if x.fromDoor then { x with fromOver := true } else { x with fromMsg := putDword k v x.fromMsg }
  else if off = 0x1C then
    (s.modFn n fun x => { x with toAcked := w1c v 2 x.toAcked, toOver := w1c v 3 x.toOver }).onBit v 0
      (State.via (execMbxToPfDoorbell vf))
  else if off < 0x1C then s.modFn n fun x => if x.toDoor then { x with toOver := true } else { x with toMsg := putDword k v x.toMsg }
  else if off = 0x3C then s.onBit v 1 (State.via (execMbxFromPfAck vf))
  else s

/-! ### The blocks of PF BAR0 (R66) -/

/-- HOSTIF (R136, R146). -/
def State.writeHostif (a : Nat) (v : BitVec 32) (s : State) : State :=
  let q := s.qmgr
  if a = 0x0480 then { s with qmgr := { q with resFunc := bits v 7 0 } }
  else if a = 0x0484 then s.modFn q.resFunc fun x => { x with priority := v.getLsbD 0 }
  else if a = 0x0488 then s.via (execDrbgCountWrite v)
  else if a = 0x0490 then
    { s with qmgr := { q with
        drbgRefused := w1c v 0 q.drbgRefused, listRefused := w1c v 1 q.listRefused, quotaRefused := w1c v 2 q.quotaRefused } }
  else if 0x04A0 ≤ a ∧ a ≤ 0x04BC then
    let k := (a - 0x04A0) / 4
    s.modFn q.resFunc fun x => { x with
      staging := tset 0 (2 * k + 1) (v.extractLsb' 16 16 &&& 0x8FFF) (tset 0 (2 * k) (v.extractLsb' 0 16 &&& 0x8FFF) x.staging) }
  else if a = 0x04C0 then s.onBit v 0 (State.via execAllowCommit)
  else if a = 0x0500 then { s with qmgr := { q with tenSel := bits v 11 0 } }
  else if a = 0x050C then s.via (execSlotQuotaWrite v)
  else if a = 0x0514 then s.via (execStoreQuotaWrite v)
  else s

/-- ENGINE (R147, R332). -/
def State.writeEngine (a : Nat) (v : BitVec 32) (s : State) : State :=
  if a = 0x1400 then { s with qmgr := { s.qmgr with shareSel := bits v 7 0 } }
  else if a = 0x1404 then s.via (execShareWrite v)
  else if a = 0x1408 then { s with qmgr := { s.qmgr with weightBad := w1c v 0 s.qmgr.weightBad } }
  else if a = 0x17D0 then s.via (execHammerAbort v)
  else s

/-- RAND (R352). -/
def State.writeRand (a : Nat) (v : BitVec 32) (s : State) : State :=
  if a = 0x1804 then s.onBit v 0 (State.via execRetest)
  else if a = 0x18A0 then { s with bellows := { s.bellows with instSelI := bits v 11 0, instSelF := bits v 23 16 } }
  else s

/-- EVLOG and SETTINGS (R523, R529). -/
def State.writeStore (a : Nat) (v : BitVec 32) (s : State) : State :=
  let t := s.store
  if a = 0x2000 then s.via (execCursor false v)
  else if a = 0x200C then { s with store := { t with pf := { t.pf with skipped := w1c v 1 t.pf.skipped } } }
  else if a = 0x2400 then { s with store := { t with sel := bits v 7 0 } }
  else if a = 0x2404 then s.via (execSettingsValueWrite v)
  else if a = 0x240C then { s with store := { t with refused := w1c v 0 t.refused, storeFail := w1c v 3 t.storeFail } }
  else if a = 0x2410 then s.via (execStore v)
  else s

/-- POWER (R484, R534). -/
def State.writePower (a : Nat) (v : BitVec 32) (s : State) : State :=
  let p := s.power
  if a = 0x2808 then s.via (execAvsSettingsWrite false v)
  else if a = 0x280C then s.via (execAvsSettingsWrite true v)
  else if a = 0x2810 then { s with power := { p with dev := w1c v 27 p.dev, refused := w1c v 28 p.refused } }
  else if 0x2820 ≤ a ∧ a ≤ 0x2894 then
    let d := (a - 0x2820) / 4
    if domainYes d then s.modDomain d fun x => { x with allow := v.getLsbD 16 } else s
  else if a = 0x28A0 then (if bits v 15 0 < 100 then s else { s with power := { p with idleUs := bits v 15 0 } })
  else if a = 0x2940 then s.via (execBatReset v)
  else s

/-- ROUTE (R290, R304). GO of BUILD_GO carries the list that the Bench reads and is the row BUILD_GO (DESIGN CHOICE, log 17). -/
def State.writeRoute (a : Nat) (v : BitVec 32) (s : State) : State :=
  let r := s.routing
  if a = 0x3000 then { s with routing := { r with buildAddr := putDword 0 v r.buildAddr } }
  else if a = 0x3004 then { s with routing := { r with buildAddr := putDword 1 v r.buildAddr } }
  else if a = 0x3008 then { s with routing := { r with buildTen := bits v 11 0, buildFam := bits v 12 12 } }
  else if a = 0x300C then { s with routing := { r with buildCount := bits v 16 0 } }
  else if a = 0x3014 then { s with routing := { r with done := w1c v 1 r.done, refused := w1c v 2 r.refused } }
  else if a = 0x3048 then { s with routing := { r with rootSel := bits v 12 0 } }
  else if a = 0x3054 then { s with routing := { r with hitSel := bits v 16 0 } }
  else if 0x3100 ≤ a ∧ a < 0x3200 ∧ a % 0x20 = 0x1C then
    let p := (a - 0x3100) / 0x20
    (s.onBit v 0 (State.flushTerm p)).onBit v 1 (State.requestRehash p)
  else if a = 0x3200 then
    if v.getLsbD 16 then s.flushTenant (bits v 11 0) else { s with routing := { r with flushTen := bits v 11 0 } }
  else s

/-- VAULTMBX (R374, R376): while GO is 1, writes of REQ and GO are dropped and set OVERRUN. -/
def State.writeVault (a : Nat) (v : BitVec 32) (s : State) : State :=
  let w := s.worlds
  if a < 0x3500 then
    if w.go then { s with worlds := { w with overrun := true } }
    else { s with worlds := { w with req := patch w.req (a - 0x3400) (leBytes 4 v.toNat) } }
  else if a = 0x3600 then
    State.onBit v 0 State.mbxGo { s with worlds := { w with done := w1c v 1 w.done, overrun := w1c v 2 w.overrun } }
  else s

/-- A write to PF BAR0, by its block (R66). -/
def State.writePf (a : Nat) (v : BitVec 32) (s : State) : State :=
  if a < 0x0400 then s
  else if a < 0x0800 then s.writeHostif a v
  else if a < 0x1400 then s.writeQmgr a v
  else if a < 0x1800 then s.writeEngine a v
  else if a < 0x1C00 then s.writeRand a v
  else if a < 0x2000 then s
  else if a < 0x2800 then s.writeStore a v
  else if a < 0x2C00 then s.writePower a v
  else if a < 0x3000 then s
  else if a < 0x3400 then s.writeRoute a v
  else if a < 0x3800 then s.writeVault a v
  else if a < 0x4040 then s
  else if a < 0x8000 then s.writeMbx ((a - 0x4000) / 64) (a % 64) true v
  else s

/-- A write to an MSI-X table: address, data, or the vector control, whose bit 0 masks the vector (R65, R67, R78, R79). -/
def State.writeMsix (f a : Nat) (v : BitVec 32) (s : State) : State :=
  let i := a / 16
  if s.chip.legacy ∨ ¬ s.pageOpen f ∨ (if f = 0 then 2048 else 64) ≤ i then s
  else if a % 16 = 12 then (s.modFn f fun n => { n with vecOpen := tset false i (!v.getLsbD 0) n.vecOpen }).sendPending f
  else
    let k := if a % 16 = 0 then 1 else if a % 16 = 4 then 2 else 0
    s.modFn f fun n => { n with vecEntry := tset 0 i (putDword k v (tget 0 n.vecEntry i)) n.vecEntry }

/-- A write to BAR0 of VF `n` (R67, R78, R92, R148). -/
def State.writeVf (n a : Nat) (v : BitVec 32) (s : State) : State :=
  if ¬ s.vfOpen n ∨ s.chip.legacy then s
  else if a = 0 then s.via (execQselWrite (BitVec.ofNat 8 n) v)
  else if a = 8 then s.modFn n fun x => { x with qerr := x.qerr &&& ~~~ (v.setWidth 7 &&& 0x7E) }
  else if a < 0x50 then s.writeContext n a v
  else if 0x100 ≤ a ∧ a < 0x140 then s.writeMbx n (a - 0x100) false v
  else if 0x800 ≤ a ∧ a < 0xC00 then s.writeMsix n (a - 0x800) v
  else s

/-- A write of 32 bits to the Nolur 3 window (R538 to R541, R551). -/
def State.writeLegacy (a : Nat) (v : BitVec 32) (s : State) : State :=
  let l := s.legacy
  let busyOr (new : Legacy) : State := { s with legacy := if l.busy then { l with overrun := true } else new }
  if ¬ s.chip.legacy then s
  else if a = 0x004 then
    State.onBit v 0 State.legacyGo (State.driveInta s.inta { s with legacy := { l with irqEn := v.getLsbD 1 } })
  else if a = 0x008 then
    State.driveInta s.inta { s with legacy := { l with
      done := w1c v 1 l.done, overrun := w1c v 2 l.overrun, event := w1c v 3 l.event, vault := w1c v 4 l.vault } }
  else if a = 0x00C then busyOr { l with reqLen := bits v 10 0 }
  else if a = 0x018 then
    if v.getLsbD 16 then s.bindLmk (bits v 15 0) else { s with legacy := { l with bindSlot := bits v 15 0 } }
  else if a = 0x01C then { s with legacy := { l with refused := w1c v 1 l.refused } }
  else if 0x400 ≤ a ∧ a < 0xA00 then busyOr { l with req := patch l.req (a - 0x400) (leBytes 4 v.toNat) }
  else s

/-- What a write to the Nolur 3 window leaves of a register's word in the bytes that it does not cover: the fields that hold what is written;
a field of another access code takes no 1 from there (R539; DEDUCED, log 35). -/
def Legacy.base (l : Legacy) (a : Nat) : Nat :=
  if a = 0x004 then (if l.irqEn then 2 else 0)
  else if a = 0x00C then l.reqLen
  else if a = 0x018 then l.bindSlot
  else if 0x400 ≤ a ∧ a < 0xA00 then leAt (fit 1536 l.req) (a - 0x400) 4
  else 0

/-- A write of `n` bytes, 1 or 2, to the Nolur 3 window (R539). -/
def State.writeNarrow (n a v : Nat) (s : State) : State :=
  let w := a / 4 * 4
  s.writeLegacy w (BitVec.ofNat 32 (leNat (patch (leBytes 4 (s.legacy.base w)) (a % 4) (leBytes n v))))

/-- The function whose BAR a page is. -/
def pageFn : Page → Nat
  | .bar0 fn => fn.toNat
  | .msix fn => fn.toNat
  | .bar4 => 0

/-- A write to a page reaches the function: its configuration requests are answered, it exists and is not under reset; while it is under
reset the write is dropped (R75, R81, R85). A command stands for an access that its BAR has claimed: the Memory Space Enable bits, VF Memory
Space Enable among them, gate nothing here (DESIGN CHOICE, log 55). -/
def State.barOpen (s : State) (page : Page) : Bool :=
  !s.chip.crs && s.exists? (pageFn page) && !(s.fnOf (pageFn page)).flr

/-- A write of 32 bits to offset `a` of a page. -/
def State.writePage (page : Page) (a : Nat) (v : BitVec 32) (s : State) : State :=
  match page with
  | .bar0 fn => if fn = 0 then s.writePf a v else s.writeVf fn.toNat a v
  | .msix fn => s.writeMsix fn.toNat a v
  | .bar4 => s.writeLegacy a v

/-- Bytes of an access. -/
def widthBytes : RegValue → Nat
  | .one _ => 1
  | .two _ => 2
  | .four _ => 4
  | .eight _ _ => 8

/-- A page accepts an access: naturally aligned, of 4 or 8 bytes, and in BAR4 of 1 or 2 as well (R71, R539). -/
def accepts (page : Page) (a : Nat) (w : RegValue) : Bool := a % widthBytes w == 0 && (decide (4 ≤ widthBytes w) || page == .bar4)

/-- REGISTER_WRITE (R8, R58, R71, R539): a write of 8 bytes acts as two writes, the lower address first. A write that the page does not accept
is dropped and logged as an AER Unsupported Request. The link leaves L1. -/
def execRegisterWrite (page : Page) (addr : BitVec 16) (value : RegValue) (s : State) : Out :=
  .next (
    let a := addr.toNat
    let s := s.leaveL1
    if ¬ s.barOpen page then s
    else if ¬ accepts page a value then s.logAer (pageFn page) .unsupportedRequest
    else
      match value with
      | .one v => s.writeNarrow 1 a v.toNat
      | .two v => s.writeNarrow 2 a v.toNat
      | .four v => s.writePage page a v
      | .eight v h =>
        let t := s.writePage page a v
        if t.barOpen page then t.writePage page (a + 4) h else t)

end Sys2Proof.Machine
end

