-- ==== Sys2Proof/Machine/Start.lean ====
section
/-!
DEFINITION. Start-up (R476, R477): steps 1 to 11 as START_UP, step 12 as START_UP_END. The steps take effect in the order of the
table, each as one update. An alarm between the two commands is answered by itself and changes the end state (R441).
-/
namespace Sys2Proof.Machine

/-! ### Steps 1 to 4 -/

/-- Step 3: the ROM repeats a wipe whose mark stands, and in SCRAP carries out the full wipe at every start (R449). -/
def State.startWipe (s : State) : State :=
  let s := match s.trims.wipePending with
    | some t => s.markedWipe t
    | none => s
  if s.lifeCode = 6 then s.fullWipe else s

/-- The DRK is held and passes its check (R178, R441). -/
def State.rootOk (s : State) : Bool :=
  s.crucible.drk != 0 && s.crucible.drkCheck == BitVec.ofNat 128 (beNat (drkCheckOf (beBytes 32 s.crucible.drk.toNat)))

/-- Step 4: the state in which start-up ends, where nothing else changes it (R441). -/
def State.fixEnd (s : State) : State :=
  { s with chip := { s.chip with
      endState := if !s.rootOk then .quenched else if s.crucible.latchCls = 2 then .locked else .ready } }

/-! ### Step 5 -/

/-- The battery-time records become events 0x0F03 in buffer order, and the buffer is cleared (R443, R445). -/
def State.copyBattery (s : State) : State :=
  let l := s.crucible.batRecs
  let event (s : State) (r : BatRec) : State :=
    s.log 0x0F03 0xF4 ([BitVec.ofNat 8 r.source, r.detail] ++ leBytes 4 r.secs.toNat ++ leBytes 4 r.group.toNat ++ [r.flags])
  let s : State := l.foldl event s
  { s with
    crucible := { s.crucible with batRecs := [] }
    tamper := { s.tamper with batRecords := l.length, batOverflow := l.any fun r => r.flags.getLsbD 7 } }

/-- The recorder opens (R519 to R522): the power-cycle count rises at a power-on reset, operating seconds resume from the larger of
the count and the newest record's stamp, a CHECK that fails is recomputed, both cursors name the oldest record. -/
def State.openRecorder (s : State) : State :=
  let t := s.store
  let s := { s with store := { t with
    cycles := if s.chip.resetCause = 2 then satInc 16777215 t.cycles else t.cycles
    repaired := t.torn, torn := false
    opsec := if t.opsec.toNat < s.newestRecord.opsec.toNat then s.newestRecord.opsec else t.opsec } }
  let s := if s.chip.resetCause = 2 then s.countWrites 2 1 else s
  ((if s.store.repaired then s.countWrites 2 1 else s).cursorTo false 1).cursorTo true 1

/-- Step 5: settings, recorder, battery-time records; legacy mode is the ball or LEGACY_DEFAULT (R535); RTC_FAIL (R474). -/
def State.startStore (s : State) : State :=
  let s := s.openRecorder.loadSettings.mirrorAll
  let legacy := s.pins.legacyMode || s.setting 0x17 == 1
  State.copyBattery { s with
    chip := { s.chip with legacy := legacy }
    power := { s.power with rtcFail := s.crucible.rtcInternal } }

/-! ### Step 6 -/

/-- The cells of a list fail a test (R338, R340), one failure each; which of the two tests is free here (log 29). -/
def State.failCells (l : List Nat) (s : State) : State :=
  l.foldl (fun s c => (s.cellFails c ((Config.freeByte s.free).getLsbD 0)).spend 1) s

/-- NOISE_VN chooses the way of each cell from this start on (R336). -/
def State.wayCells (s : State) : State :=
  (List.range 32).foldl (fun s c => s.modCell c fun x => { x with vn := (s.setting 0x08).testBit c }) s

/-- Step 3 of the start sequence: the cells outside `ok` fail. With fewer than 8 left the retest of R341 comes, in which those outside `again`
fail once more and the others return (R340). -/
def State.startCells (ok again : BitVec 32) (s : State) : State :=
  let s := s.wayCells.failCells ((List.range 32).filter fun c => !ok.getLsbD c)
  if 8 ≤ s.inService then s
  else
    let s : State := s.setBellows .retest
    let outs := (List.range 32).filter fun c => (s.cellOf c).out
    let s := s.failCells (outs.filter fun c => !again.getLsbD c)
    (outs.filter fun c => again.getLsbD c).foldl (fun s c => s.returnCell c) s

/-- Step 6: the start sequence of Bellows (R340). A failed known-answer test is a CHECK fault of block 0x13; Bellows then does not become OK
and ends in FAILED, which the rule does not say (DESIGN CHOICE, log 56). The internal instance is the first to be seeded. -/
def State.startBellows (ok again : BitVec 32) (kat : Bool) (s : State) : State :=
  let s := s.startCells ok again
  let s := if s.inService < 8 ∨ kat then s else (s.report 0x13 3).raiseLevel 0x13
  if 8 ≤ s.inService ∧ kat then (s.deliver 48 fun e s => s.reseedInternal e).setBellows .ok else s.setBellows .failed

/-! ### Step 8 -/

/-- The interface range of an image header (R371, R457). -/
def headerRange (img : Bytes) (w : World) : World :=
  { w with hbiMin := BitVec.ofNat 16 (leAt img 14 2), hbiMax := BitVec.ofNat 16 (leAt img 16 2) }

/-- The image booted for a kind, none where no slot is usable. -/
def State.booted (s : State) (k : Nat) : Option Bytes :=
  if tget 3 s.life.boot k = 3 then none else some (s.imageAt k (tget 3 s.life.boot k))

/-- The owning worlds of the 64 slots and the 128 lines (R357, R359). -/
def tableWorlds (t : Bytes) : List (Nat × Bool) :=
  ((List.range 192).filter fun i => (byteAt t (16 + i)).getLsbD 0).map fun i => (i, true)

/-- Step 8: the ROM checks the three kinds; with a Hearth image and a Bench image it writes the assignment table, sets ASSIGN_LOCK and
loads both (R359, R458). An UNSIGNED grant is consumed by this start. -/
def State.startImages (s : State) : State :=
  let s := { s with life := { s.life with unsignedUsed := s.life.unsignedArm, unsignedArm := false } }
  let s := ((s.bootKind 0).bootKind 1).bootKind 2
  match s.booted 0, s.booted 1 with
  | some h, some b =>
    { s with
      worlds := { s.worlds with
        assign := tableWorlds (imgTable h), assignLock := true
        hearth := headerRange h s.worlds.hearth, bench := headerRange b s.worlds.bench }
      zwm := { s.zwm with hmem := imageWords hearthBase (imgBody h), bmem := imageWords benchBase (imgBody b) } }
  | _, _ => s

/-- Start-up can end in the state of step 4 (R477). -/
def State.usable (s : State) : Bool :=
  (s.booted 0).isSome && (s.booted 1).isSome && s.bellows.state == .ok

/-! ### Steps 9 to 11 -/


/-- The shield LFSRs, the terminal-cache seeds and the keys of their mask generators are drawn (R292, R298, R424). -/
def State.reseedAll (s : State) : State :=
  let s : State := (List.range 8).foldl (fun s k => s.deliver 16 fun b s =>
    { s with tamper := { s.tamper with lfsr := tset 0 k (BitVec.ofNat 128 (beNat b)) s.tamper.lfsr } }) s
  (List.range 8).foldl (fun s p => s.deliver 32 fun b s => s.modTerm p fun t => { t with
    seed := BitVec.ofNat 128 (leAt b 0 16), maskKey := BitVec.ofNat 128 (leAt b 16 16) }) s

/-- KiB of a tenant's persistent area in use (R134); the LMK takes 1 KiB of tenant 0's (R543). -/
def State.areaKib (s : State) (t e : Nat) : Nat :=
  areaSize (s.tenantArea t e) + (if t = 0 ∧ s.legacy.bound then 1 else 0)

/-- The tenant table is rebuilt from the persistent region, with nothing in the Rack; under a lost root every entry is FREE and the LMK's
copy cannot be read (R134, R181, R435, R543). -/
def State.rebuildTenants (s : State) : State :=
  if s.chip.endState = .quenched ∨ ¬ s.regionOpen then s.dropTenants
  else
    { s with vault := { s.vault with
        tenants := tmap {} (fun t e => { e with slotsUsed := 0, storeUsed := s.areaKib t e.epoch.toNat }) s.vault.kept } }

/-- The bound LMK is placed and four scratch slots are reserved in legacy mode (R544): five slots of tenant 0, taken where its quota
has them. -/
def State.startLegacy (s : State) : State :=
  if ¬ s.chip.legacy ∨ ¬ s.lmkReadable (s.epochOf 0) then s
  else
    match s.lowestEmpty, s.reserveSlots 0 5 with
    | some n, some s =>
      let s := s.placeSlot n s.legacy.lmkAttr (materialOf s.legacy.lmk)
      { s with legacy := { s.legacy with lmkSlot := some n, scratch := 4 } }
    | _, _ => s

/-- The Hearth draws the boot value, and the derivation unit computes MK and the Rack integrity key (R182). -/
def State.startBoot (s : State) : State := s.deliver 32 fun b s => s.bootMask b

/-- Step 9: the Hearth writes the tamper classes, draws the boot value, MK and the Rack integrity key, reseeds, rebuilds the tenant
table. In QUENCHED the derivations are skipped, and the classes that it keeps cannot be read (R429, R435). -/
def State.startHearth (s : State) : State :=
  let lost := s.chip.endState == .quenched
  let s := { s with
    tamper := { s.tamper with classes := if lost then [] else s.tamper.keptClasses }
    worlds := { s.worlds with hearth := { s.worlds.hearth with status := 1 } } }
  let s := if lost then s else s.startBoot
  (s.reseedAll.rebuildTenants.startLegacy).logLost

/-- Step 10: the Bench starts, completes the handshake, applies the settings and derives the battery prediction (R372, R468, R532).
In modes 0 and 1 the target starts from the voltage read back; mode 1 then writes the fixed one once (R468, R469). -/
def State.startBoth (mv : Nat) (s : State) : State :=
  let hif := Config.hifVersion ((s.booted 1).getD [])
  let s := s.startBench
  let s := { s with
    worlds := { s.worlds with bench := { s.worlds.bench with status := 1 } }
    chip := { s.chip with hif := hif } }
  let s := s.handshake.predictBattery
  let s := { s with power := { s.power with avsOn := true, target := if s.power.avsMode = 2 then s.power.target else mv } }
  if s.power.avsMode ≠ 1 then s
  else if s.power.target = s.power.fixedMv then s.writeRail s.power.fixedMv
  else s.setTarget s.power.fixedMv

/-- The recipes of a plan bundle, one after another by their TOTAL (R277; DEDUCED, log 34). -/
def recipesOf : Nat → Bytes → List Bytes
  | 0, _ => []
  | n + 1, b =>
    let t := leAt b 24 4
    if b.length < 48 ∨ t < 48 then [] else b.take t :: recipesOf n (b.drop t)

/-- Step 11 for one recipe: a standard recipe that R273 refuses leaves its plan ID without a swage, and is logged (R277). -/
def State.startRecipe (r : Bytes) (s : State) : State :=
  match compile r with
  | .ok w => if w.plan < 512 ∧ (Payment.info w.plan).isSome then s.install w else s.logRefusal 2770 6 .planId
  | .error f => s.logRefusal 2770 f.1 f.2

/-- Step 11: the bundle is compiled into every pipeline (R277). -/
def State.startBundle (s : State) : State :=
  let l := match s.booted 2 with
    | some img => recipesOf 1024 (imgBody img)
    | none => []
  l.foldl (fun s r => s.startRecipe r) { s with plan := { s.plan with bundle := l } }

/-! ### The two commands -/

/-- Start-up ends in RECOVERY (R477): the ROM serves, no world starts. -/
def State.toRecovery (s : State) : State := { s with chip := { s.chip with endState := .recovery } }

/-- Start-up that ends in RECOVERY for want of a usable image, or of Bellows: where Bellows is seeded and the root is held, the boot value is drawn
all the same (R182, R476). -/
def State.bootToRecovery (s : State) : State :=
  (if s.bellows.state = .ok ∧ s.chip.endState ≠ .quenched then s.startBoot else s).toRecovery

/-- TEST_EN high at the release of PERST_N puts the part in scan test mode in RAW, TEST_LOCKED and TEST_UNLOCKED (R566). -/
def State.scanTest (ball : Bool) (s : State) : Bool := ball && decide (s.lifeCode ≤ 2)

/-- START_UP (R476 steps 1 to 11): once, after a release of reset. In RAW and SCRAP it ends at step 3, in RECOVERY. In scan test mode
nothing starts and CHIP.STATE stays 1 until the next chip reset (R566). -/
def execStartUp (seen : StartSeen) (s : State) : Out :=
  .next (
    if s.chip.held ∨ s.chip.started ∨ s.chip.state ≠ .start ∨ s.pins.scanMode then s
    else if s.scanTest seen.testBall then { s with pins := { s.pins with perstN := true, testEn := true, scanMode := true } }
    else
      let s := { s with chip := { s.chip with started := true }, pins := { s.pins with
        perstN := true, legacyMode := seen.legacyBall, testEn := seen.testBall } }
      let s := (s.resetUnit false).resetUnit true
      let s := s.startWipe
      if s.lifeCode = 0 ∨ s.lifeCode = 6 then s.toRecovery
      else
        let s := ((s.fixEnd.startStore).startBellows seen.cellsOk seen.retestOk seen.katOk).startImages
        if s.usable then (s.startHearth.startBoth seen.mv.toNat).startBundle else s.bootToRecovery)

/-- START_UP_END (R476 step 12): the queue engine is enabled, CRS ends, CHIP.STATE takes the end state and START_TIME is written. In
LOCKED and QUENCHED the key bus stays disabled (R434, R438). -/
def execStartUpEnd (micros : BitVec 20) (s : State) : Out :=
  .next (
    if ¬ s.chip.started ∨ s.chip.state ≠ .start then s
    else
      let e := s.chip.endState
      State.setChip e { s with chip := { s.chip with
        engineOn := true, crs := false, startUs := micros.toNat, keyBus := e == .ready } })

end Sys2Proof.Machine
end

