-- ==== Sys2Proof/Machine/Tamper.lean ====
section
/-!
DEFINITION. Tamper sources, on main power and on battery, the end of a response, and the two tamper services (R423 to R445).
-/
namespace Sys2Proof.Machine

/-- A source is watched: it is not fused off (R427). -/
def State.watched (s : State) (n : Nat) : Bool := !s.tamper.fused.getLsbD n

/-- Set or clear the ACTIVE bit of a source (R444). -/
def State.condition (n : Nat) (on : Bool) (s : State) : State :=
  let m := BitVec.ofNat 12 (2 ^ n)
  { s with tamper := { s.tamper with active := if on then s.tamper.active ||| m else s.tamper.active &&& ~~~ m } }

/-- The Crucible runs from VBAT (R442, R466). -/
def State.onBattery (s : State) : Bool := !s.pins.mainPower && s.pins.vbat

/-- Records fill the buffer in order; when all 64 are in use the last is rewritten with bit 7 of its byte 3 set (R442). -/
def addBatRec (r : BatRec) (l : List BatRec) : List BatRec :=
  if l.length < 64 then l ++ [r] else l.take 63 ++ [{ r with flags := r.flags ||| 0x80 }]

/-- A physical source trips on battery (R442): the first trip erases BBRAM 0x000 to 0x04F and writes the latch with CLASS 3 and
a new GROUP; every trip writes a record. -/
def State.batteryTrip (n : Nat) (detail : BitVec 8) (s : State) : State :=
  let c := s.crucible
  let first := !c.tripped
  let group := if first then c.latchGroup + 1 else c.latchGroup
  let r : BatRec := { source := n, detail := detail, flags := if first then 1 else 0, secs := c.rtc, group := group,
                      ticks := c.rtcTicks }
  { s with
    crucible := { c with
      drk := if first then 0 else c.drk
      maskSeed := if first then 0 else c.maskSeed
      drkCheck := if first then 0 else c.drkCheck
      latchSrc := c.latchSrc ||| BitVec.ofNat 12 (2 ^ n)
      latchCls := if first then 3 else c.latchCls
      latchGroup := group
      latchFirst := if c.latchSrc = 0 then c.rtc else c.latchFirst
      latchLast := c.rtc
      tripped := true
      batRecs := addBatRec r c.batRecs }
    vault := { s.vault with highCls := if first then 3 else s.vault.highCls } }

/-- A source that is watched on battery trips: an alarm under main power, a battery trip on VBAT. -/
def State.trip (n detail : Nat) (s : State) : State :=
  if s.pins.mainPower then s.alarm n detail
  else if s.onBattery ∧ s.watched n then s.batteryTrip n (if n = 0 then BitVec.ofNat 8 detail else 0)
  else s

/-- SHIELD (R424): the lines of a sector that mismatched in both samples of one pattern period. The sector's LFSR advances by
64 steps; the source trips when the condition begins (DEDUCED, log 20). -/
def execShield (sector : Fin 8) (lines : BitVec 64) (s : State) : Out :=
  .next (
    let k := sector.val
    let lf := tget 0 s.tamper.lfsr k
    let s := { s with tamper := { s.tamper with lfsr := tset 0 k (Config.lfsrStep64 lf) s.tamper.lfsr } }
    if ¬ s.watched 0 then s
    else
      let m := BitVec.ofNat 8 (2 ^ k)
      let before := s.tamper.shieldNow
      if lines = 0 then
        let s := { s with tamper := { s.tamper with shieldNow := before &&& ~~~ m } }
        s.condition 0 (s.tamper.shieldNow != 0)
      else
        let s := { s with tamper := { s.tamper with shieldNow := before ||| m, sectors := s.tamper.sectors ||| m } }
        let s := s.condition 0 true
        if before &&& m = 0 then s.trip 0 m.toNat else s)

/-- ENVELOPE_MISMATCH (R425): the outcome of a loop's period; a mismatch in both samples trips ENV_A or ENV_B. The detail is 0
for loop A, 1 for loop B (DEDUCED, log 20). -/
def execEnvelopeMismatch (loopB mismatch : Bool) (s : State) : Out :=
  .next (
    let n := if loopB then 2 else 1
    if ¬ s.watched n then s
    else if ¬ mismatch then s.condition n false
    else
      let was := s.tamper.active.getLsbD n
      let s := { s with tamper := { s.tamper with envA := s.tamper.envA || !loopB, envB := s.tamper.envB || loopB } }
      let s := s.condition n true
      if was then s else s.trip n (if loopB then 1 else 0))

/-- LID (R423): LID_N stays high for 100 µs, or at two samples on battery. -/
def execLid (s : State) : Out :=
  .next (
    let s := { s with pins := { s.pins with lidN := true } }
    if ¬ s.watched 3 then s
    else
      let was := s.tamper.active.getLsbD 3
      let s := s.condition 3 true
      if was then s else s.trip 3 0)

/-- LID_CLOSE (R423): LID_N is low again. -/
def execLidClose (s : State) : Out :=
  .next ((State.condition 3 false) { s with pins := { s.pins with lidN := false } })

/-- ZEROIZE (R423): ZEROIZE_N is low for 20 ns; on battery it is ignored. -/
def execZeroize (s : State) : Out :=
  .next (
    let s := { s with pins := { s.pins with zeroizeN := false } }
    if ¬ s.pins.mainPower then s
    else
      let was := s.tamper.active.getLsbD 9
      let s := s.condition 9 true
      if was then s else s.alarm 9 0)

/-- ZEROIZE_RELEASE (R423). -/
def execZeroizeRelease (s : State) : Out :=
  .next ((State.condition 9 false) { s with pins := { s.pins with zeroizeN := true } })

/-- TEMP_READING (R423): Tj in units of 0.125 °C; the fourth consecutive reading out of range trips. -/
def execTempReading (tj : Int) (s : State) : Out :=
  .next (
    let low := if tj < -360 then satInc 4 s.tamper.lowRuns else 0
    let high := if 1000 < tj then satInc 4 s.tamper.highRuns else 0
    let tripL := decide (low = 4) && decide (s.tamper.lowRuns < 4)
    let tripH := decide (high = 4) && decide (s.tamper.highRuns < 4)
    let s := { s with tamper := { s.tamper with tj := tj, lowRuns := low, highRuns := high } }
    let s := s.condition 4 (decide (tj < -320) && s.watched 4)
    let s := s.condition 5 (decide (960 < tj) && s.watched 5)
    let s := if tripL then s.alarm 4 (tj % 65536).toNat else s
    if tripH then s.alarm 5 (tj % 65536).toNat else s)

/-- VBAT_READING (R423): under main power; the second consecutive reading below 2.4 V trips. -/
def execVbatReading (mv : BitVec 12) (s : State) : Out :=
  .next (
    if ¬ s.pins.mainPower then s
    else
      let runs := if mv.toNat < 2400 then satInc 2 s.tamper.vbatRuns else 0
      let tripB := decide (runs = 2) && decide (s.tamper.vbatRuns < 2)
      let s := { s with tamper := { s.tamper with vbatMv := mv.toNat, vbatRuns := runs } }
      let s := s.condition 10 (decide (mv.toNat < 2500) && s.watched 10)
      if tripB then s.alarm 10 mv.toNat else s)

/-- GROUP_CLOSE (R431): the group closes once its response has been carried out and 1 µs has passed. -/
def execGroupClose (s : State) : Out :=
  .next (if s.quenching then s else { s with tamper := { s.tamper with group := none } })

/-! ### Services (R430) -/

/-- The first body byte that CLASS_SET refuses: a class below the source's minimum or above 3, or anything but 0 for a
disabled source. -/
def State.classFault (s : State) (body : Bytes) : Option Nat :=
  (List.range 12).find? fun n =>
    let v := (byteAt body n).toNat
    if s.watched n then decide (v < max 1 (s.minClass n)) || decide (3 < v) else v != 0

/-- The classes of sources 0 to 11, two bits each, as in TAMPER.CLASS (R444). -/
def State.classWord (s : State) : Nat := ((List.range 12).map fun n => s.classOf n * 4 ^ n).sum

/-- CLASS_SET (R430): the new classes apply at once. -/
def execClassSet (s : State) : Out :=
  .next (s.service 0x50 fun s =>
    if s.chip.state ≠ .ready then s.mbxConflict
    else
      match s.classFault s.mbxBody with
      | some n => s.mbxAnswer 0x0102 n []
      | none =>
        let old := s.classWord
        let cs := (List.range 12).foldl (fun t n => tset 0 n (byteAt s.mbxBody n).toNat t) s.tamper.classes
        let s := { s with tamper := { s.tamper with classes := cs, classDirty := true } }
        let s := s.log 0x0F04 0xF0 (leBytes 3 old ++ leBytes 3 s.classWord)
        s.mbxAnswer 0 0 [])

/-- CLASS_PERSIST (R430): the Hearth makes the new classes persistent. -/
def execClassPersist (s : State) : Out :=
  .next (
    if s.tamper.classDirty ∧ s.worlds.hearth.status = 1 then
      State.wroteRegion 3 { s with tamper := { s.tamper with keptClasses := s.tamper.classes, classDirty := false } }
    else s)

/-- The first body byte that FUSE_DISABLE refuses: a bit other than 0 to 5 and 10, or none at all. -/
def fuseFault (body : Bytes) : Option Nat :=
  if byteAt body 0 &&& 0xC0 ≠ 0 then some 0
  else if byteAt body 1 &&& 0xFB ≠ 0 then some 1
  else if byteAt body 0 = 0 ∧ byteAt body 1 = 0 then some 0
  else none

/-- FUSE_DISABLE (R430, R427): the fuses are blown and the sources are no longer watched. -/
def execFuseDisable (s : State) : Out :=
  .next (s.service 0x51 fun s =>
    let lc := s.lifeCode
    if s.chip.state ≠ .ready ∧ s.chip.state ≠ .quenched then s.mbxConflict
    else if ¬ (lc = 2 ∨ lc = 3 ∨ (lc = 4 ∧ s.crucible.rootGen = 0)) then s.mbxConflict
    else
      match fuseFault s.mbxBody with
      | some n => s.mbxAnswer 0x0102 n []
      | none =>
        let m := BitVec.ofNat 16 (leAt s.mbxBody 0 2)
        let s := { s with tamper := { s.tamper with
          fused := s.tamper.fused ||| m, active := s.tamper.active &&& ~~~ m.truncate 12 } }
        let s := s.log 0x0F05 0xF0 (leBytes 2 m.toNat)
        s.mbxAnswer 0 0 (leBytes 2 s.tamper.fused.toNat))

end Sys2Proof.Machine
end

