-- ==== Sys2Proof/Machine/Zwm.lean ====
section
/-!
DEFINITION. The Zhelys word machine: operands, faults, instructions, prefixes and interrupts of a core, and the commands of the
protection units, the debug master and the copy engines (R385 to R422). A command carries the instruction that its core has
fetched: its bytes, and the tags of the words that hold them, are those at PC (log 31).
-/
namespace Sys2Proof.Machine

/-! ### Encoding (R393, R394) -/

/-- Length of the extension of a mode. -/
def extLen (m : Nat) : Nat :=
  if m = 4 ∨ m = 6 ∨ m = 0xA then 1
  else if m = 5 ∨ m = 7 ∨ m = 8 ∨ m = 0xB then 4
  else if m = 9 ∨ m = 0xC then 8
  else 0

/-- Mode number of a specifier. -/
def opMode (p : Spec) : Nat := p.mode.toNat

/-- A specifier that R394 defines: no reserved mode, no nonzero reserved field, ACC word 0 to 2. -/
def opLegal (p : Spec) : Bool :=
  if opMode p = 6 then bits p.ext 7 4 == 0
  else if 8 ≤ opMode p ∧ opMode p ≤ 0xC then p.reg == 0
  else if opMode p = 0xD then decide (p.reg.toNat ≤ 2)
  else decide (opMode p ≤ 0xD)

/-- An immediate mode. -/
def opIsImm (p : Spec) : Bool := decide (0xA ≤ opMode p) && decide (opMode p ≤ 0xC)

/-- A memory mode. -/
def opIsMem (p : Spec) : Bool := decide (1 ≤ opMode p) && decide (opMode p ≤ 9)

/-- Bytes of an instruction with these specifiers. -/
def insnLen (ops : List Spec) : Nat := 2 + (ops.map fun p => 1 + extLen (opMode p)).sum

/-- Operand size in bytes. -/
def szBytes (sz : BitVec 8) : Nat := 2 ^ bits sz 1 0

/-- What the size byte of an instruction may hold: any size, size 3 alone, a size with a condition, size 3 with a condition, 0, or the
count of REP. -/
inductive SizeForm | any | word | cond | branch | zero | count
deriving DecidableEq, Repr

/-- The size byte is legal (R393, R396). -/
def SizeForm.ok (f : SizeForm) (sz : BitVec 8) : Bool :=
  match f with
  | .count => true
  | .zero => sz == 0
  | .any => sz &&& 0xFC == 0
  | .word => sz == 3
  | .cond => sz &&& 0x0C == 0 && bits sz 7 4 != 0xF
  | .branch => sz &&& 0x0F == 3 && bits sz 7 4 != 0xF

/-- The encoding is legal (R393 to R395): the first `dests` specifiers are destinations. -/
def encodingOk (f : SizeForm) (sz : BitVec 8) (dests : Nat) (ops : List Spec) : Bool :=
  f.ok sz && ops.all opLegal && !(ops.take dests).any opIsImm && decide (insnLen ops ≤ 20)

/-! ### Faults and operands -/

/-- A result, or why the instruction stops, with the operand at fault (0xF for none). -/
abbrev Z (α : Type) := Except (Stop × Nat) α

/-- Name the operand of a failure. -/
def ofOperand {α : Type} (k : Nat) : Except Stop α → Z α
  | .ok x => .ok x
  | .error e => .error (e, k)

/-- A fault of the instruction itself. -/
def own {α : Type} (code : Nat) : Z α := .error (.fault code 0, 0xF)

/-- Register `r` of core `c`; a register that is not listed holds 0 tagged POISON. -/
def State.reg (s : State) (c r : Nat) : TWord := tget {} (s.coreOf c).regs r

/-- Write register `r` of core `c`. -/
def State.setReg (c r : Nat) (v : TWord) (s : State) : State := s.modCore c fun x => { x with regs := tset {} r v x.regs }

/-- Where an operand is. -/
inductive Place | reg (n : Nat) | mem (a : BitVec 64) | imm (v : BitVec 64) | acc (p : Nat)
deriving DecidableEq, Repr

/-- The word of a source passes the check of R387. -/
def sourceCheck (v : TWord) : Except Stop Unit :=
  if tagReserved v.tag then .error (.fault 0x01 0)
  else if v.tag = tPoison then .error (.fault 0x02 0)
  else .ok ()

/-- A word that forms an address must be ADDR (R387, R390, R395). -/
def addrCheck (v : TWord) : Except Stop (BitVec 64) :=
  match sourceCheck v with
  | .error e => .error e
  | .ok _ =>
    if v.tag = tSecret then .error (.fault 0x05 0)
    else if v.tag ≠ tAddr then .error (.fault 0x03 0)
    else .ok v.val

/-- Address arithmetic keeps the colour (R395). -/
def addAddr (a d : BitVec 64) : Except Stop (BitVec 64) :=
  if colourOf (a + d) = colourOf a then .ok (a + d) else .error (.fault 0x0E (a + d))

/-- A formed address has bits 59:32 zero (R395). -/
def formed (a : BitVec 64) : Except Stop Place := if bits a 59 32 = 0 then .ok (.mem a) else .error (.fault 0x0E a)

/-- The extension of a specifier, sign-extended from its length. -/
def opDisp (p : Spec) : BitVec 64 :=
  if extLen (opMode p) = 1 then (p.ext.truncate 8).signExtend 64
  else if extLen (opMode p) = 4 then (p.ext.truncate 32).signExtend 64
  else p.ext

/-- The index of mode 6: an INT taken as signed (R394). -/
def State.index (s : State) (c : Nat) (p : Spec) (n : Nat) : Except Stop (BitVec 64) :=
  let x := s.reg c (bits p.ext 3 0)
  match sourceCheck x with
  | .error e => .error e
  | .ok _ =>
    if x.tag = tSecret then .error (.fault 0x05 0)
    else if x.tag ≠ tInt then .error (.fault 0x08 0)
    else .ok (BitVec.ofNat 64 n * x.val)

/-- Evaluate a specifier for an operand of `n` bytes: its place, and the registers that it changes (R394, R395). `pc0` is the address of
the instruction's first byte. -/
def State.place (c : Nat) (pc0 : BitVec 64) (n : Nat) (p : Spec) (s : State) : Except Stop (Place × State) := do
  let r := p.reg.toNat
  let base := addrCheck (s.reg c r)
  let step := BitVec.ofNat 64 n
  match opMode p with
  | 0 => .ok (.reg r, s)
  | 1 => let a ← base; let q ← formed a; .ok (q, s)
  | 2 =>
    let a ← base
    let new ← addAddr a step
    let q ← formed a
    .ok (q, s.setReg c r { val := new, tag := tAddr })
  | 3 =>
    let a ← base
    let new ← addAddr a (-step)
    let q ← formed new
    .ok (q, s.setReg c r { val := new, tag := tAddr })
  | 4 | 5 => let a ← base; let b ← addAddr a (opDisp p); let q ← formed b; .ok (q, s)
  | 6 => let a ← base; let x ← s.index c p n; let b ← addAddr a x; let q ← formed b; .ok (q, s)
  | 7 =>
    let a ← base
    let b ← addAddr a (opDisp p)
    let _ ← formed b
    let (w, s) ← s.coreRead c b 8
    let t ← addrCheck w
    let q ← formed t
    .ok (q, s)
  | 8 => let q ← formed (pc0 + (opDisp p)); .ok (q, s)
  | 9 => let q ← formed p.ext; .ok (q, s)
  | 0xD => .ok (.acc r, s)
  | _ => .ok (.imm (lowBytes (opDisp p) n), s)

/-- The word of the accumulator. -/
def Core.accWord (x : Core) (p : Nat) : BitVec 64 := BitVec.ofNat 64 (x.acc.toNat / 2 ^ (64 * p))

/-- Read an operand of `n` bytes, without the check of its tag (R389). -/
def State.readPlace (c n : Nat) (q : Place) (s : State) : Except Stop (TWord × State) :=
  match q with
  | .reg r => .ok ({ val := lowBytes (s.reg c r).val n, tag := readTag (s.reg c r).tag n }, s)
  | .mem a => s.coreRead c a n
  | .imm v => .ok ({ val := v, tag := tInt }, s)
  | .acc p => .ok ({ val := lowBytes ((s.coreOf c).accWord p) n, tag := readTag (s.coreOf c).accTag n }, s)

/-- A source operand: specifier, value, tag check (R387). -/
def State.src (c : Nat) (pc0 : BitVec 64) (n k : Nat) (p : Spec) (s : State) : Z (TWord × State) :=
  ofOperand k do
    let (q, s) ← s.place c pc0 n p
    let (v, s) ← s.readPlace c n q
    let _ ← sourceCheck v
    .ok (v, s)

/-- The place of a destination. -/
def State.dst (c : Nat) (pc0 : BitVec 64) (n k : Nat) (p : Spec) (s : State) : Z (Place × State) := ofOperand k (s.place c pc0 n p)

/-- A number: INT or SECRET. -/
def TWord.number (v : TWord) : Bool := v.tag == tInt || v.tag == tSecret

/-- Put a word of the accumulator. With a number its one tag becomes SECRET when the value or the old tag is SECRET, else INT; words of a POISON
accumulator that are not written become 0. With another tag, which a MOV of 8 bytes carries (R388), the accumulator takes that tag and its other
words become 0, so that no word gets a tag it was not given (DESIGN CHOICE by R389, log 30). -/
def Core.putAcc (x : Core) (p : Nat) (v : TWord) : Core :=
  if ¬ v.number then { x with acc := v.val.setWidth 192 <<< (64 * p), accTag := v.tag }
  else
    let old := if x.accTag = tPoison then 0 else x.acc
    let m : BitVec 192 := (BitVec.allOnes 64).setWidth 192 <<< (64 * p)
    { x with acc := (old &&& ~~~ m) ||| (v.val.setWidth 192 <<< (64 * p))
             accTag := if v.tag = tSecret ∨ x.accTag = tSecret then tSecret else tInt }

/-- Write an operand of `n` bytes (R389, R395). -/
def State.writePlace (c n : Nat) (q : Place) (v : TWord) (s : State) : Except Stop State :=
  let v := { v with val := lowBytes v.val n }
  match q with
  | .reg r => if n = 8 ∨ v.number then .ok (s.setReg c r v) else .error (.fault 0x08 0)
  | .mem a => s.coreWrite c a n v
  | .imm _ => .error (.fault 0x0B 0)
  | .acc p => if n = 8 ∨ v.number then .ok (s.modCore c fun x => x.putAcc p v) else .error (.fault 0x08 0)

/-- Write the destination, operand 0. -/
def State.put (c n : Nat) (q : Place) (v : TWord) (s : State) : Z State := ofOperand 0 (s.writePlace c n q v)

/-- Push a word through A15 (R391). -/
def State.push (c n : Nat) (v : TWord) (s : State) : Except Stop State := do
  let a ← addrCheck (s.reg c 15)
  let new ← addAddr a (-(BitVec.ofNat 64 n))
  let _ ← formed new
  let s ← s.coreWrite c new n { v with val := lowBytes v.val n }
  .ok (s.setReg c 15 { val := new, tag := tAddr })

/-- Read the word on top of the stack. -/
def State.top (c n : Nat) (s : State) : Except Stop (TWord × State) := do
  let a ← addrCheck (s.reg c 15)
  let _ ← formed a
  let (v, s) ← s.coreRead c a n
  let _ ← sourceCheck v
  .ok (v, s)

/-- A15 moves past the word on top of the stack. -/
def State.drop (c n : Nat) (s : State) : Except Stop State := do
  let a ← addrCheck (s.reg c 15)
  let new ← addAddr a (BitVec.ofNat 64 n)
  .ok (s.setReg c 15 { val := new, tag := tAddr })

/-- Pop a word through A15. -/
def State.pop (c n : Nat) (s : State) : Except Stop (TWord × State) := do
  let (v, s) ← s.top c n
  let s ← s.drop c n
  .ok (v, s)

/-! ### Flags (R392, R396) -/

/-- Flag `i` of core `c`. -/
def State.flag (s : State) (c i : Nat) : Bool := (s.coreOf c).fl.getLsbD i

/-- Write FL. -/
def State.setFl (c : Nat) (v : BitVec 16) (s : State) : State := s.modCore c fun x => { x with fl := v }

/-- What an instruction computes: its result and the flags C and V. -/
structure AluOut where
  r : Nat
  c : Bool := false
  v : Bool := false
deriving DecidableEq, Repr

/-- Set C, Z, N, V and S; IE and FH stay. -/
def State.setFlags (c n : Nat) (o : AluOut) (secret : Bool) (s : State) : State :=
  let b (x : Bool) (i : Nat) : Nat := if x then 2 ^ i else 0
  let low := b o.c 0 + b (o.r == 0) 1 + b (o.r.testBit (8 * n - 1)) 2 + b o.v 3 + b secret 4
  s.setFl c (((s.coreOf c).fl &&& 0x60) ||| BitVec.ofNat 16 low)

/-- A condition holds (R396). -/
def State.holdsCond (s : State) (c cc : Nat) : Bool :=
  let fc := s.flag c 0
  let z := s.flag c 1
  let n := s.flag c 2
  let v := s.flag c 3
  match cc with
  | 0 => z
  | 1 => !z
  | 2 => n != v
  | 3 => n == v
  | 4 => fc
  | 5 => !fc
  | 6 => z || n != v
  | 7 => !z && n == v
  | 8 => fc || z
  | 9 => !fc && !z
  | 10 => n
  | 11 => !n
  | 12 => v
  | 13 => !v
  | _ => true

/-! ### Result tags (R388) -/

/-- What an instruction may do with an ADDR. -/
inductive AddrUse | add | sub | none
deriving DecidableEq, Repr

/-- The result tag of two sources; `hidden` tells that C or a condition was read while FL.S is set. -/
def resultTag (u : AddrUse) (a b : TWord) (hidden : Bool) : Except Stop (BitVec 4) :=
  if (a.tag = tAddr ∧ b.tag = tSecret) ∨ (a.tag = tSecret ∧ b.tag = tAddr) then .error (.fault 0x05 0)
  else if a.number ∧ b.number then .ok (if a.tag = tSecret ∨ b.tag = tSecret ∨ hidden then tSecret else tInt)
  else if u = .add ∧ ((a.tag = tAddr ∧ b.tag = tInt) ∨ (a.tag = tInt ∧ b.tag = tAddr)) then .ok tAddr
  else if u = .sub ∧ a.tag = tAddr ∧ b.tag = tInt then .ok tAddr
  else if u = .sub ∧ a.tag = tAddr ∧ b.tag = tAddr ∧ colourOf a.val = colourOf b.val then .ok tInt
  else .error (.fault 0x08 0)

/-- The colour that an ADDR result must keep (R395). -/
def addrColour (a b : TWord) : Nat := if a.tag = tAddr then colourOf a.val else colourOf b.val

/-! ### Arithmetic (R397). A result is computed on numbers below 2^(8n). -/

/-- The value of a number of `n` bytes taken as signed. -/
def signed (n x : Nat) : Int := if x < 2 ^ (8 * n - 1) then x else (x : Int) - 2 ^ (8 * n)

/-- A signed result does not fit in `n` bytes. -/
def overflows (n : Nat) (t : Int) : Bool := decide (t < -(2 ^ (8 * n - 1))) || decide ((2 ^ (8 * n - 1) : Int) ≤ t)

/-- Sum with a carry in. -/
def aluAdd (n x y cin : Nat) : AluOut :=
  { r := (x + y + cin) % 2 ^ (8 * n), c := decide (2 ^ (8 * n) ≤ x + y + cin), v := overflows n (signed n x + signed n y + cin) }

/-- Difference with a borrow in. -/
def aluSub (n x y cin : Nat) : AluOut :=
  { r := (x + 2 ^ (8 * n) - y % 2 ^ (8 * n) + 2 ^ (8 * n) - cin) % 2 ^ (8 * n), c := decide (x < y + cin)
    v := overflows n (signed n x - signed n y - cin) }

/-- Shifts and the rotation: by `k` below 8n; `free` stands for V, which the spec gives no value (log 32). -/
def aluShift (kind n x k : Nat) (free : Bool) : AluOut :=
  let w := 8 * n
  let hi := k != 0 && x.testBit (w - k)
  let lo := k != 0 && x.testBit (k - 1)
  match kind with
  | 0 => { r := x * 2 ^ k % 2 ^ w, c := hi, v := free }
  | 1 => { r := x / 2 ^ k, c := lo, v := free }
  | 2 => { r := (signed n x / 2 ^ k % 2 ^ w).toNat, c := lo, v := free }
  | _ => { r := (x * 2 ^ k % 2 ^ w) + x / 2 ^ (w - k), c := hi, v := free }

/-! ### Entering a fault (R405) -/

/-- The image base of a core's world. -/
def imageBase (c : Nat) : Nat := if isBench c then benchBase else hearthBase

/-- The count left under a prefix (R400): A14 under REPI. -/
def State.repLeft (s : State) (c : Nat) : Nat :=
  match (s.coreOf c).rep with
  | none => 0
  | some r => if r.interruptible then (s.reg c 14).val.toNat else r.left.toNat

/-- Event 0x0D01 (R405). -/
def State.logFault (c code : Nat) (addr : BitVec 64) (s : State) : State :=
  s.log 0x0D01 (if isBench c then 0xF2 else 0xF1)
    ([if isBench c then 1 else 0, BitVec.ofNat 8 (coreNum c), BitVec.ofNat 8 code] ++ leBytes 4 (s.coreOf c).pc.toNat ++
      leBytes 4 addr.toNat)

/-- A fault: the registers stay as they are, the fault registers are written and the fault entry is taken; while FH is 1 the world is
reset (R367, R405). -/
def State.enterFault (c code opnd : Nat) (addr : BitVec 64) (s : State) : State :=
  let s := s.logFault c code addr
  if s.flag c 6 then (if isBench c then s.stopBench (coreNum c) else s.stopHearth 1)
  else
    let left := s.repLeft c
    s.modCore c fun x => { x with
      fcause := BitVec.ofNat 13 (code + 256 * opnd + (if x.rep.isSome then 4096 else 0)), fpc := x.pc, faddr := addr
      frep := BitVec.ofNat 64 left, fl := (x.fl ||| 0x40) &&& ~~~ 0x20, pc := BitVec.ofNat 64 (imageBase c + 0xC0), rep := none }

/-! ### Running an instruction (R393, R401 to R403) -/

/-- The byte at an address of code, and the tag of its word; the failure of a bad address or word (R393, R407). What a peripheral slot holds is
not given: no byte. -/
def State.codeByte (s : State) (c : Nat) (a : BitVec 64) : Except Stop (Option Byte × BitVec 4) :=
  let b := isBench c
  if bits a 59 32 ≠ 0 then .error (.fault 0x0E a)
  else
    match areaOf b (locOf a) with
    | none => .error (.fault 0x0E a)
    | some (.slot k) => .ok (none, if s.owns b k then s.slotTag b k 8 else tInt)
    | some area =>
      let w := s.wordAt area (locOf a)
      if w.sound then .ok (some (byteAt (leBytes 8 w.val.toNat) (locOf a % 8)), w.tag) else .error (.fault 0x11 a)

/-- An opcode of R397; every other is reserved. -/
def opcodeUsed (b : Byte) : Bool :=
  [(0x00, 7), (0x10, 19), (0x30, 6), (0x40, 4), (0x50, 2), (0x60, 3), (0x70, 5)].any fun e =>
    decide (e.1 ≤ b.toNat) && decide (b.toNat < e.1 + e.2)

/-- The bytes from an address on are those given, each in a word tagged CODE, else FETCH (R393). `start` tells that the first of them is an opcode:
a reserved one faults with ILLEGAL_INSN. Where another instruction stands there, the command is not what the core runs, and nothing happens. -/
def State.fetchCheck (s : State) (c : Nat) : Bool → BitVec 64 → Bytes → Except Stop Unit
  | _, _, [] => .ok ()
  | start, a, b :: l =>
    match s.codeByte c a with
    | .error e => .error e
    | .ok (x, t) =>
      if t ≠ tCode then .error (.fault 0x10 a)
      else if start ∧ x.any (fun v => !opcodeUsed v) then .error (.fault 0x0B 0)
      else if x.any fun v => v != b then .error .wait
      else State.fetchCheck s c false (a + 1) l

/-- What an instruction does: the new state, and the new PC where it sets one. -/
abbrev Body := BitVec 64 → State → Z (State × Option (BitVec 64))

/-- One instruction as the runner needs it: opcode, size form, size byte, number of destinations, specifiers, whether a prefix may repeat it,
and its body. -/
structure Insn where
  op : Nat
  form : SizeForm
  sz : BitVec 8
  dests : Nat := 0
  ops : List Spec := []
  repeats : Bool := true
  body : Body

/-- The bytes of a specifier and its extension (R394). -/
def specBytes (p : Spec) : Bytes := (p.mode ++ p.reg) :: leBytes (extLen (opMode p)) p.ext.toNat

/-- The bytes of an instruction (R393): opcode, size byte, specifiers. Of one that would exceed 20 bytes, the first 20. -/
def Insn.bytes (i : Insn) : Bytes := (BitVec.ofNat 8 i.op :: i.sz :: i.ops.flatMap specBytes).take 20

/-- Fetch, check and run one instruction whose first byte is at `a`. -/
def State.runOnce (c : Nat) (i : Insn) (a : BitVec 64) (s : State) : Z (State × Option (BitVec 64)) :=
  match s.fetchCheck c true a i.bytes with
  | .error e => .error (e, 0xF)
  | .ok _ => if encodingOk i.form i.sz i.dests i.ops then i.body a s else own 0x0B

/-- A failed iteration: a wait leaves the state, a fault is entered. -/
def State.stop (c : Nat) (e : Stop × Nat) (s : State) : State :=
  match e.1 with
  | .wait => s
  | .fault code addr => s.enterFault c code e.2 addr

/-- The repetition ends: PC is past the repeated instruction. -/
def State.endRep (c len : Nat) (s : State) : State := s.modCore c fun x => { x with rep := none, pc := x.pc + BitVec.ofNat 64 (2 + len) }

/-- One iteration has run: the count falls, and A14 under REPI (R401, R402). -/
def State.iterated (c : Nat) (r : Rep) (s : State) : State :=
  let s := s.modCore c fun x => { x with rep := some { r with left := r.left - 1 } }
  if r.interruptible then s.setReg c 14 { val := r.left - 1, tag := tInt } else s

/-- Iterations of a repeated instruction, at most `fuel`. -/
def State.iterate (c : Nat) (i : Insn) : Nat → State → State
  | 0, s => s
  | k + 1, s =>
    match (s.coreOf c).rep with
    | none => s
    | some r =>
      if r.left = 0 then s.endRep c (insnLen i.ops)
      else
        match s.runOnce c i ((s.coreOf c).pc + 2) with
        | .error e => s.stop c e
        | .ok (t, _) =>
          let t := t.iterated c r
          if r.left = 1 then t.endRep c (insnLen i.ops) else State.iterate c i k t

/-- The core runs: its world is not in reset, it does not wait for an interrupt, and no other core holds the protection unit (R380, R382,
R397, R418). -/
def State.coreRuns (s : State) (c : Nat) : Bool :=
  let w := if isBench c then s.worlds.bench else s.worlds.hearth
  let m := s.mpuOf (isBench c)
  decide (w.status < 2) && !(s.coreOf c).wfi && !(m.hold && m.holder != coreNum c)

/-- Run an instruction on a core. Under REP it runs all its iterations, under REPI one, so that an interrupt may come between; a count
of 0 skips it. An instruction that no prefix may repeat faults at the prefix (R403). -/
def State.run (c : Nat) (i : Insn) (s : State) : State :=
  if ¬ s.coreRuns c then s
  else
    match (s.coreOf c).rep with
    | some r =>
      match s.fetchCheck c true ((s.coreOf c).pc + 2) i.bytes with
      | .error e => s.stop c (e, 0xF)
      | .ok _ => if i.repeats then s.iterate c i (if r.interruptible then 1 else r.left.toNat) else s.enterFault c 0x0B 0xF 0
    | none =>
      let pc := (s.coreOf c).pc
      match s.runOnce c i pc with
      | .error e => s.stop c e
      | .ok (t, some new) => t.modCore c fun x => { x with pc := new }
      | .ok (t, none) => t.modCore c fun x => { x with pc := pc + BitVec.ofNat 64 (insnLen i.ops) }

/-- A body that sets no PC. -/
def plain (f : BitVec 64 → State → Z State) : Body := fun a s =>
  match f a s with
  | .ok t => .ok (t, none)
  | .error e => .error e

/-! ### Shapes of instructions -/

/-- d ← a, b with flags (R388, R392, R397). `f` gets the size, both numbers and the carry; it may fault or draw a free value. -/
def alu3 (op c : Nat) (sz : BitVec 8) (d a b : Spec) (u : AddrUse) (readsC : Bool)
    (f : Nat → Nat → Nat → Nat → State → Z (AluOut × State)) : Insn :=
  { op := op, form := .any, sz := sz, dests := 1, ops := [d, a, b], body := plain fun pc s => do
      let n := szBytes sz
      let (q, s) ← s.dst c pc n 0 d
      let (x, s) ← s.src c pc n 1 a
      let (y, s) ← s.src c pc n 2 b
      let t ← ofOperand 0xF (resultTag u x y (readsC && s.flag c 4))
      let (o, s) ← f n x.val.toNat y.val.toNat (if s.flag c 0 then 1 else 0) s
      let v : TWord := { val := BitVec.ofNat 64 o.r, tag := t }
      if t = tAddr ∧ colourOf v.val ≠ addrColour x y then .error (.fault 0x0E v.val, 0xF)
      else s.put c n q v >>= fun s => .ok (s.setFlags c n o (t == tSecret)) }

/-- A function of the two numbers as a result without carry and overflow. -/
def pureAlu (f : Nat → Nat → Nat → Nat) (n x y _ : Nat) (s : State) : Z (AluOut × State) := .ok ({ r := f n x y % 2 ^ (8 * n) }, s)

/-- A sum or a difference. -/
def sumAlu (f : Nat → Nat → Nat → Nat → AluOut) (useC : Bool) (n x y cin : Nat) (s : State) : Z (AluOut × State) :=
  .ok (f n x y (if useC then cin else 0), s)

/-- A division: divisor 0 faults. -/
def divAlu (f : Nat → Nat → Nat) (_ x y _ : Nat) (s : State) : Z (AluOut × State) :=
  if y = 0 then .error (.fault 0x0D 0, 2) else .ok ({ r := f x y }, s)

/-- A shift: V is a free value (log 32). -/
def shiftAlu (kind n x y _ : Nat) (s : State) : Z (AluOut × State) :=
  .ok (aluShift kind n x (y % (8 * n)) ((Config.freeByte s.free).getLsbD 0), s.spend 1)

/-- Flags of two sources without a result (R397). -/
def compare (op c : Nat) (sz : BitVec 8) (a b : Spec) (u : AddrUse) (f : Nat → Nat → Nat → AluOut) : Insn :=
  { op := op, form := .any, sz := sz, ops := [a, b], body := plain fun pc s => do
      let n := szBytes sz
      let (x, s) ← s.src c pc n 0 a
      let (y, s) ← s.src c pc n 1 b
      let t ← ofOperand 0xF (resultTag u x y false)
      if t = tAddr then own 0x08
      else .ok (s.setFlags c n (f n x.val.toNat y.val.toNat) (t == tSecret)) }

/-- d ← a value of one source. -/
def unary (op c : Nat) (sz : BitVec 8) (d a : Spec) (f : TWord → Z TWord) : Insn :=
  { op := op, form := .any, sz := sz, dests := 1, ops := [d, a], body := plain fun pc s => do
      let n := szBytes sz
      let (q, s) ← s.dst c pc n 0 d
      let (x, s) ← s.src c pc n 1 a
      let v ← f x
      s.put c n q v }

/-- An instruction without operands. -/
def nullary (op : Nat) (sz : BitVec 8) (repeats : Bool) (f : State → Z State) : Insn :=
  { op := op, form := .zero, sz := sz, repeats := repeats, body := plain fun _ s => f s }

/-! ### Moves (R397) -/

/-- NOP. -/
def execZwmNop (core : Fin 5) (sz : BitVec 8) (s : State) : Out := .next (s.run core (nullary 0x00 sz true fun s => .ok s))

/-- MOV. -/
def execMov (core : Fin 5) (sz : BitVec 8) (d a : Spec) (s : State) : Out := .next (s.run core (unary 0x01 core sz d a fun x => .ok x))

/-- The address of a memory operand into d with a tag; `fromCode` admits modes 0x8 and 0x9 alone. -/
def lea (op c : Nat) (sz : BitVec 8) (d m : Spec) (fromCode : Bool) (tag : BitVec 4) : Insn :=
  { op := op, form := .word, sz := sz, dests := 1, ops := [d, m], body := plain fun pc s => do
      if ¬ opIsMem m ∨ (fromCode ∧ opMode m < 8) then .error (.fault 0x0B 0, 1)
      else
        let (q, s) ← s.dst c pc 8 0 d
        let (p, s) ← s.dst c pc 8 1 m
        match p with
        | .mem a => s.put c 8 q { val := a, tag := tag }
        | _ => .error (.fault 0x0B 0, 1) }

/-- LEA. -/
def execLea (core : Fin 5) (sz : BitVec 8) (d m : Spec) (s : State) : Out := .next (s.run core (lea 0x02 core sz d m false tAddr))

/-- LEAC. -/
def execLeac (core : Fin 5) (sz : BitVec 8) (d m : Spec) (s : State) : Out := .next (s.run core (lea 0x05 core sz d m true tCode))

/-- PUSH. -/
def execPush (core : Fin 5) (sz : BitVec 8) (a : Spec) (s : State) : Out :=
  .next (s.run core { op := 0x03, form := .any, sz := sz, ops := [a], body := plain fun pc s => do
    let (x, s) ← s.src core pc (szBytes sz) 0 a
    ofOperand 0xF (s.push core (szBytes sz) x) })

/-- POP: d ← (A15), then A15 moves. -/
def execPop (core : Fin 5) (sz : BitVec 8) (d : Spec) (s : State) : Out :=
  .next (s.run core { op := 0x04, form := .any, sz := sz, dests := 1, ops := [d], body := plain fun pc s => do
    let n := szBytes sz
    let (q, s) ← s.dst core pc n 0 d
    let (v, s) ← ofOperand 0xF (s.top core n)
    let s ← s.put core n q v
    ofOperand 0xF (s.drop core n) })

/-- KILL. -/
def execKill (core : Fin 5) (sz : BitVec 8) (d : Spec) (s : State) : Out :=
  .next (s.run core { op := 0x06, form := .any, sz := sz, dests := 1, ops := [d], body := plain fun pc s => do
    let (q, s) ← s.dst core pc (szBytes sz) 0 d
    s.put core (szBytes sz) q { val := 0, tag := tPoison } })

/-! ### Arithmetic, logic and shifts (R397) -/

/-- ADD. -/
def execAdd (core : Fin 5) (sz : BitVec 8) (d a b : Spec) (s : State) : Out :=
  .next (s.run core (alu3 0x10 core sz d a b .add false (sumAlu aluAdd false)))

/-- SUB. -/
def execSub (core : Fin 5) (sz : BitVec 8) (d a b : Spec) (s : State) : Out :=
  .next (s.run core (alu3 0x11 core sz d a b .sub false (sumAlu aluSub false)))

/-- ADC. -/
def execAdc (core : Fin 5) (sz : BitVec 8) (d a b : Spec) (s : State) : Out :=
  .next (s.run core (alu3 0x12 core sz d a b .none true (sumAlu aluAdd true)))

/-- SBB. -/
def execSbb (core : Fin 5) (sz : BitVec 8) (d a b : Spec) (s : State) : Out :=
  .next (s.run core (alu3 0x13 core sz d a b .none true (sumAlu aluSub true)))

/-- MUL. -/
def execMul (core : Fin 5) (sz : BitVec 8) (d a b : Spec) (s : State) : Out :=
  .next (s.run core (alu3 0x14 core sz d a b .none false (pureAlu fun _ x y => x * y)))

/-- MULHU. -/
def execMulhu (core : Fin 5) (sz : BitVec 8) (d a b : Spec) (s : State) : Out :=
  .next (s.run core (alu3 0x15 core sz d a b .none false (pureAlu fun n x y => x * y / 2 ^ (8 * n))))

/-- DIVU. -/
def execDivu (core : Fin 5) (sz : BitVec 8) (d a b : Spec) (s : State) : Out :=
  .next (s.run core (alu3 0x16 core sz d a b .none false (divAlu fun x y => x / y)))

/-- REMU. -/
def execRemu (core : Fin 5) (sz : BitVec 8) (d a b : Spec) (s : State) : Out :=
  .next (s.run core (alu3 0x17 core sz d a b .none false (divAlu fun x y => x % y)))

/-- AND. -/
def execZwmAnd (core : Fin 5) (sz : BitVec 8) (d a b : Spec) (s : State) : Out :=
  .next (s.run core (alu3 0x18 core sz d a b .none false (pureAlu fun _ x y => x &&& y)))

/-- OR. -/
def execZwmOr (core : Fin 5) (sz : BitVec 8) (d a b : Spec) (s : State) : Out :=
  .next (s.run core (alu3 0x19 core sz d a b .none false (pureAlu fun _ x y => x ||| y)))

/-- XOR. -/
def execXor (core : Fin 5) (sz : BitVec 8) (d a b : Spec) (s : State) : Out :=
  .next (s.run core (alu3 0x1A core sz d a b .none false (pureAlu fun _ x y => x ^^^ y)))

/-- NOT: bitwise complement with flags. -/
def execZwmNot (core : Fin 5) (sz : BitVec 8) (d a : Spec) (s : State) : Out :=
  .next (s.run core { op := 0x1B, form := .any, sz := sz, dests := 1, ops := [d, a], body := plain fun pc s => do
    let n := szBytes sz
    let (q, s) ← s.dst core pc n 0 d
    let (x, s) ← s.src core pc n 1 a
    let t ← ofOperand 0xF (resultTag .none x { val := 0, tag := tInt } false)
    let o : AluOut := { r := 2 ^ (8 * n) - 1 - x.val.toNat }
    let s ← s.put core n q { val := BitVec.ofNat 64 o.r, tag := t }
    .ok (s.setFlags core n o (t == tSecret)) })

/-- SHL. -/
def execShl (core : Fin 5) (sz : BitVec 8) (d a b : Spec) (s : State) : Out :=
  .next (s.run core (alu3 0x1C core sz d a b .none false (shiftAlu 0)))

/-- SHR. -/
def execShr (core : Fin 5) (sz : BitVec 8) (d a b : Spec) (s : State) : Out :=
  .next (s.run core (alu3 0x1D core sz d a b .none false (shiftAlu 1)))

/-- SAR. -/
def execSar (core : Fin 5) (sz : BitVec 8) (d a b : Spec) (s : State) : Out :=
  .next (s.run core (alu3 0x1E core sz d a b .none false (shiftAlu 2)))

/-- ROL. -/
def execRol (core : Fin 5) (sz : BitVec 8) (d a b : Spec) (s : State) : Out :=
  .next (s.run core (alu3 0x1F core sz d a b .none false (shiftAlu 3)))

/-- CMP: flags of a − b. -/
def execCmp (core : Fin 5) (sz : BitVec 8) (a b : Spec) (s : State) : Out :=
  .next (s.run core (compare 0x20 core sz a b .sub fun n x y => aluSub n x y 0))

/-- TEST: flags of a AND b. -/
def execTest (core : Fin 5) (sz : BitVec 8) (a b : Spec) (s : State) : Out :=
  .next (s.run core (compare 0x21 core sz a b .none fun _ x y => { r := x &&& y }))

/-- The result tag of SEL (R388): two ADDR with FL.S clear give ADDR, whatever the condition; `hidden` tells that the condition reads flags while
FL.S is set. -/
def selTag (x y : TWord) (flS hidden : Bool) : Except Stop (BitVec 4) :=
  if x.tag = tAddr ∧ y.tag = tAddr ∧ ¬ flS then .ok tAddr else resultTag .none x y hidden

/-- SEL.cc (R388, R397); AL reads no flag (DEDUCED, log 30). -/
def execSelCc (core : Fin 5) (sz : BitVec 8) (d a b : Spec) (s : State) : Out :=
  .next (s.run core { op := 0x22, form := .cond, sz := sz, dests := 1, ops := [d, a, b], body := plain fun pc s => do
    let n := szBytes sz
    let cc := bits sz 7 4
    let (q, s) ← s.dst core pc n 0 d
    let (x, s) ← s.src core pc n 1 a
    let (y, s) ← s.src core pc n 2 b
    let t ← ofOperand 0xF (selTag x y (s.flag core 4) (s.flag core 4 && cc != 0xE))
    s.put core n q { val := if s.holdsCond core cc then x.val else y.val, tag := t } })

/-! ### Control flow (R390, R397) -/

/-- A control target: the address formed by modes 0x8 and 0x9, else a CODE value. -/
def State.target (c : Nat) (pc0 : BitVec 64) (p : Spec) (s : State) : Z (BitVec 64 × State) :=
  if opMode p = 8 ∨ opMode p = 9 then
    match s.dst c pc0 8 0 p with
    | .ok (.mem a, s) => .ok (a, s)
    | .ok _ => own 0x0B
    | .error e => .error e
  else
    match s.src c pc0 8 0 p with
    | .error e => .error e
    | .ok (v, s) =>
      if v.tag = tSecret then .error (.fault 0x04 0, 0)
      else if v.tag ≠ tCode then .error (.fault 0x08 0, 0)
      else .ok (v.val, s)

/-- A popped word that becomes the PC. -/
def popCode (c : Nat) (s : State) : Z (BitVec 64 × State) :=
  match s.pop c 8 with
  | .error e => .error (e, 0xF)
  | .ok (v, s) => if v.tag = tSecret then own 0x04 else if v.tag ≠ tCode then own 0x08 else .ok (v.val, s)

/-- JMP. -/
def execJmp (core : Fin 5) (sz : BitVec 8) (a : Spec) (s : State) : Out :=
  .next (s.run core { op := 0x30, form := .word, sz := sz, ops := [a], repeats := false, body := fun pc s => do
    let (t, s) ← s.target core pc a
    .ok (s, some t) })

/-- B.cc: mode 0x8 alone; a condition on flags of a SECRET source faults (R390). -/
def execBCc (core : Fin 5) (sz : BitVec 8) (m : Spec) (s : State) : Out :=
  .next (s.run core { op := 0x31, form := .branch, sz := sz, ops := [m], repeats := false, body := fun pc s => do
    let cc := bits sz 7 4
    if opMode m ≠ 8 then .error (.fault 0x0B 0, 0)
    else if s.flag core 4 ∧ cc ≠ 0xE then own 0x04
    else
      let (t, s) ← s.target core pc m
      .ok (s, if s.holdsCond core cc then some t else none) })

/-- CALL. -/
def execCall (core : Fin 5) (sz : BitVec 8) (a : Spec) (s : State) : Out :=
  .next (s.run core { op := 0x32, form := .word, sz := sz, ops := [a], repeats := false, body := fun pc s => do
    let (t, s) ← s.target core pc a
    let s ← ofOperand 0xF (s.push core 8 { val := pc + BitVec.ofNat 64 (insnLen [a]), tag := tCode })
    .ok (s, some t) })

/-- RET. -/
def execRet (core : Fin 5) (sz : BitVec 8) (s : State) : Out :=
  .next (s.run core { op := 0x33, form := .zero, sz := sz, repeats := false, body := fun _ s => do
    let (t, s) ← popCode core s
    .ok (s, some t) })

/-- IRET: PC from a CODE word, FL from an INT word. -/
def execIret (core : Fin 5) (sz : BitVec 8) (s : State) : Out :=
  .next (s.run core { op := 0x35, form := .zero, sz := sz, repeats := false, body := fun _ s => do
    let (t, s) ← popCode core s
    let (f, s) ← ofOperand 0xF (s.pop core 8)
    if f.tag ≠ tInt then own 0x08 else .ok (s.setFl core (f.val.truncate 16 &&& 0x7F), some t) })

/-! ### RETS (R366) -/

/-- The answer of a service that RETS ends, formed from the status, DETAIL and length of A0 and A1 and from the response area (R366). How a
completion takes OUT_LEN and RESULT from the area is not in the spec (DESIGN CHOICE, log 30). -/
def State.answerService (status detail len : Nat) (s : State) : State :=
  let body := slice s.worlds.mbxArea 0 (min 240 len)
  match s.worlds.running with
  | some .mbx => s.mbxAnswer status detail body
  | some (.chan id) => s.finish id status detail len (fit 12 s.worlds.chanArea)
  | some (.ring n) =>
    let req := s.ringMsg false n
    s.ringSend false (ringMessage (leAt req 0 2) (leAt req 2 2) status body)
  | some .legacy => { s with legacy := { s.legacy with answer := some (slice s.worlds.chanArea 0 (min 64 len)) } }
  | _ => s

/-- The reply to a Bench message waits while the ring to the Bench is full (R368). -/
def State.replyWaits (s : State) : Bool := (s.worlds.running.elim false Service.ofRing) && s.worlds.toBench.full

/-- RETS: A0 and A1 must be INT; the response is formed, the registers and the scratch window are cleared, which takes `scrub` nanoseconds, at
most 0.5 µs, and the response is released (R366). -/
def execRets (core : Fin 5) (sz : BitVec 8) (scrub : Fin 501) (s : State) : Out :=
  .next (if core.val = 0 ∧ s.replyWaits then s else s.run core { op := 0x34, form := .zero, sz := sz, repeats := false, body := plain fun _ s => do
    let a0 := s.reg core 0
    let a1 := s.reg core 1
    if isBench core then own 0x0C
    else if a0.tag ≠ tInt ∨ a1.tag ≠ tInt then own 0x08
    else
      let s := s.answerService (bits a0.val 15 0) (bits a0.val 47 16) (bits a1.val 15 0)
      let s := State.serviceRegs 0 0 0 { s with now := s.now + scrub, worlds := { s.worlds with running := none } }
      .ok (((s.modCore core fun x => { x with regs := [] }).setReg core 0 a0).setReg core 1 a1) })

/-! ### The accumulator (R397, R399) -/

/-- A source for the accumulator: a number, and the accumulator itself must be no POISON. -/
def accTagWith (x : Core) (l : List TWord) : Z (BitVec 4) :=
  if tagReserved x.accTag then own 0x01
  else if x.accTag = tPoison then own 0x02
  else if l.any fun v => !v.number then own (if l.any (·.tag == tAddr) ∧ (l.any (·.tag == tSecret) ∨ x.accTag = tSecret) then 0x05 else 0x08)
  else .ok (if x.accTag = tSecret ∨ l.any (·.tag == tSecret) then tSecret else tInt)

/-- The location of a memory operand lies in the world's private memory. -/
def privateMem (c : Nat) (q : Place) : Bool :=
  match q with
  | .mem a => match areaOf (isBench c) (locOf a) with | some .sram => true | some .bsram => true | _ => false
  | _ => false

/-- A source of MACD: a memory mode in private memory. -/
def State.macSrc (c : Nat) (pc : BitVec 64) (k : Nat) (p : Spec) (s : State) : Z (TWord × State) :=
  ofOperand k do
    let (q, s) ← s.place c pc 8 p
    if ¬ privateMem c q then .error (.fault 0x0B 0)
    else
      let (v, s) ← s.readPlace c 8 q
      let _ ← sourceCheck v
      .ok (v, s)

/-- MACD: ACC ← ACC + a × b. -/
def execMacd (core : Fin 5) (sz : BitVec 8) (a b : Spec) (s : State) : Out :=
  .next (s.run core { op := 0x40, form := .word, sz := sz, ops := [a, b], body := plain fun pc s => do
    let (x, s) ← s.macSrc core pc 0 a
    let (y, s) ← s.macSrc core pc 1 b
    let t ← accTagWith (s.coreOf core) [x, y]
    .ok (s.modCore core fun k => { k with acc := k.acc + BitVec.ofNat 192 (x.val.toNat * y.val.toNat), accTag := t }) })

/-- ACCZ. -/
def execAccz (core : Fin 5) (sz : BitVec 8) (s : State) : Out :=
  .next (s.run core (nullary 0x41 sz true fun s => .ok (s.modCore core fun x => { x with acc := 0, accTag := tInt })))

/-- ACCADD: ACC ← ACC + s, zero-extended. -/
def execAccadd (core : Fin 5) (sz : BitVec 8) (a : Spec) (s : State) : Out :=
  .next (s.run core { op := 0x42, form := .any, sz := sz, ops := [a], body := plain fun pc s => do
    let (x, s) ← s.src core pc (szBytes sz) 0 a
    let t ← accTagWith (s.coreOf core) [x]
    .ok (s.modCore core fun k => { k with acc := k.acc + BitVec.ofNat 192 x.val.toNat, accTag := t }) })

/-- ACCST: d ← ACC[63:0], then ACC moves right by 64. -/
def execAccst (core : Fin 5) (sz : BitVec 8) (d : Spec) (s : State) : Out :=
  .next (s.run core { op := 0x43, form := .word, sz := sz, dests := 1, ops := [d], body := plain fun pc s => do
    let (q, s) ← s.dst core pc 8 0 d
    let t ← accTagWith (s.coreOf core) []
    let s ← s.put core 8 q { val := (s.coreOf core).accWord 0, tag := t }
    .ok (s.modCore core fun k => { k with acc := k.acc >>> 64 }) })

/-! ### Prefixes (R401 to R403) -/

/-- A prefix: 2 bytes; PC stays on it until the repetition ends. -/
def State.prefix_ (c op : Nat) (f : SizeForm) (sz : BitVec 8) (rep : State → Z Rep) (s : State) : State :=
  let i : Insn := { op := op, form := f, sz := sz, repeats := false, body := fun _ s => do
    let r ← rep s
    .ok (s.modCore c fun x => { x with rep := some r }, none) }
  if ¬ s.coreRuns c ∨ (s.coreOf c).rep.isSome then s.run c i
  else
    match s.runOnce c i (s.coreOf c).pc with
    | .ok (t, _) => t
    | .error e => s.stop c e

/-- REP n. -/
def execZwmRep (core : Fin 5) (n : BitVec 8) (s : State) : Out :=
  .next (s.prefix_ core 0x50 .count n fun _ => .ok { left := BitVec.ofNat 64 (n.toNat + 1), interruptible := false })

/-- REPI: A14 must be INT; a SECRET count faults (R390, R402). -/
def execRepi (core : Fin 5) (sz : BitVec 8) (s : State) : Out :=
  .next (s.prefix_ core 0x51 .zero sz fun s =>
    let v := s.reg core 14
    match sourceCheck v with
    | .error e => .error (e, 0xF)
    | .ok _ => if v.tag = tSecret then own 0x07 else if v.tag ≠ tInt then own 0x08 else .ok { left := v.val, interruptible := true })

/-! ### Tags and control (R397, R400) -/

/-- TAGOF: reads any tag. -/
def execTagof (core : Fin 5) (sz : BitVec 8) (d a : Spec) (s : State) : Out :=
  .next (s.run core { op := 0x60, form := .any, sz := sz, dests := 1, ops := [d, a], body := plain fun pc s => do
    let n := szBytes sz
    let (q, s) ← s.dst core pc n 0 d
    let (p, s) ← s.dst core pc n 1 a
    let (x, s) ← ofOperand 1 (s.readPlace core n p)
    s.put core n q { val := x.tag.setWidth 64, tag := tInt } })

/-- CLS. -/
def execCls (core : Fin 5) (sz : BitVec 8) (d a : Spec) (s : State) : Out :=
  .next (s.run core (unary 0x61 core sz d a fun x => if x.number then .ok { x with tag := tSecret } else .error (.fault 0x08 0, 1)))

/-- DCLS: the Hearth alone, from SECRET alone. -/
def execDcls (core : Fin 5) (sz : BitVec 8) (d a : Spec) (s : State) : Out :=
  .next (s.run core (unary 0x62 core sz d a fun x =>
    if isBench core then own 0x0C else if x.tag = tSecret then .ok { x with tag := tInt } else .error (.fault 0x08 0, 1)))

/-- A control register (R400). -/
def State.control (s : State) (c i : Nat) : Option (BitVec 64) :=
  let x := s.coreOf c
  match i with
  | 0 => some (x.fcause.setWidth 64)
  | 1 => some x.fpc
  | 2 => some x.faddr
  | 3 => some x.frep
  | 4 => some (BitVec.ofNat 64 (coreNum c + (if isBench c then 256 else 0)))
  | _ => none

/-- RDCTL. -/
def execRdctl (core : Fin 5) (sz : BitVec 8) (d a : Spec) (s : State) : Out :=
  .next (s.run core { op := 0x70, form := .any, sz := sz, dests := 1, ops := [d, a], repeats := false, body := plain fun pc s => do
    let n := szBytes sz
    match (if opMode a = 0xA then s.control core (bits a.ext 7 0) else none) with
    | none => .error (.fault 0x0B 0, 1)
    | some v =>
      let (q, s) ← s.dst core pc n 0 d
      s.put core n q { val := v, tag := tInt } })

/-- EI. -/
def execEi (core : Fin 5) (sz : BitVec 8) (s : State) : Out :=
  .next (s.run core (nullary 0x71 sz false fun s => .ok (s.modCore core fun x => { x with fl := x.fl ||| 0x20 })))

/-- DI. -/
def execDi (core : Fin 5) (sz : BitVec 8) (s : State) : Out :=
  .next (s.run core (nullary 0x72 sz false fun s => .ok (s.modCore core fun x => { x with fl := x.fl &&& ~~~ 0x20 })))

/-- FEND. -/
def execFend (core : Fin 5) (sz : BitVec 8) (s : State) : Out :=
  .next (s.run core (nullary 0x74 sz false fun s => .ok (s.modCore core fun x => { x with fl := x.fl &&& ~~~ 0x40 })))

/-- WFI: the core waits unless an interrupt is pending already. -/
def execWfi (core : Fin 5) (sz : BitVec 8) (s : State) : Out :=
  .next (s.run core (nullary 0x73 sz false fun s =>
    let w := if isBench core then s.worlds.bench else s.worlds.hearth
    .ok (s.modCore core fun x => { x with wfi := w.irqs.isEmpty })))

/-! ### Interrupts (R404, R406) -/

/-- The interrupt is taken: FL and the resume address are pushed, IE falls, PC is the line's vector. A push that faults is a fault
whose FPC is the resume address (R406). -/
def State.takeIrq (c line : Nat) (s : State) : State :=
  let s := s.modCore c fun x => { x with rep := none, wfi := false }
  let x := s.coreOf c
  match (s.push c 8 { val := x.fl.setWidth 64, tag := tInt }).bind fun s => s.push c 8 { val := x.pc, tag := tCode } with
  | .error e => s.stop c (e, 0xF)
  | .ok s =>
    let done (w : World) : World := { w with irqs := w.irqs.filter (· != line) }
    let s := s.modCore c fun x => { x with fl := x.fl &&& ~~~ 0x20, pc := BitVec.ofNat 64 (imageBase c + 0x400 + 16 * line) }
    if isBench c then { s with worlds := { s.worlds with bench := done s.worlds.bench } }
    else { s with worlds := { s.worlds with hearth := done s.worlds.hearth } }

/-- INTERRUPT_ENTRY (R404): between instructions, between REPI iterations or in WFI, with IE 1 and FH 0, on a line of the core's own
world; the Hearth inside a service alone. Until it can be taken the line stays pending; a core that waits in WFI goes on. -/
def execInterruptEntry (core : Fin 5) (line : BitVec 7) (s : State) : Out :=
  .next (
    let c := core.val
    let x := s.coreOf c
    let w := if isBench c then s.worlds.bench else s.worlds.hearth
    let uninterruptible : Bool := match x.rep with | some r => !r.interruptible | none => false
    if 2 ≤ w.status ∨ tget false s.worlds.assign (64 + line.toNat) ≠ isBench c ∨ slotReserved (line.toNat / 2) then s
    else if uninterruptible ∨ (c = 0 ∧ s.worlds.running = none) ∨ ¬ s.flag c 5 ∨ s.flag c 6 then s.raiseLine (isBench c) line.toNat
    else s.takeIrq c line.toNat)

/-! ### Protection units, debug master, copy engines (R415 to R422) -/

/-- HOLD (R417). -/
def execHold (core : Fin 5) (s : State) : Out := .next (s.setHold core)

/-- HOLD_ACK (R417): the accesses decided before have completed. -/
def execHoldAck (bench : Bool) (s : State) : Out := .next (s.modMpu bench fun m => if m.hold then { m with holdAck := true } else m)

/-- HOLD_CLEAR (R417). -/
def execHoldClear (bench : Bool) (s : State) : Out := .next (s.clearHold bench)

/-- LINE_SET (R416): a write of that register. -/
def execLineSet (bench : Bool) (value : BitVec 32) (s : State) : Out := .next (s.mpuEdit bench 0x18 value)

/-- LINE_SET_DONE (R416). -/
def execLineSetDone (bench : Bool) (s : State) : Out := .next (s.endRun bench)

/-- MPU_RULE_WRITE (R416, R417): a write of another register of a protection unit. -/
def execMpuRuleWrite (bench : Bool) (offset : BitVec 16) (value : BitVec 32) (s : State) : Out :=
  .next (s.mpuEdit bench offset.toNat value)

/-- DEBUG_ACCESS (R420 to R422, R461): while the unit of the target's world is held, the access waits (R418). -/
def execDebugAccess (req : DebugReq) (s : State) : Out :=
  .next (
    let s := { s with pins := { s.pins with jtagIr := 0x10 } }
    match s.debugWorld (locOf req.addr) with
    | some (b, _) =>
      if (s.mpuOf b).hold then s.modMpu b fun m => { m with waiting := m.waiting ++ [.debug req] } else s.debugStep req
    | none => s.debugStep req)

/-- COPY_ENGINE_PIECE (R415, R417): while the unit is held the piece waits. -/
def execCopyEnginePiece (piece : CopyPiece) (s : State) : Out :=
  .next (
    if ¬ pieceInLine piece then s
    else if (s.mpuOf piece.bench).hold then s.modMpu piece.bench fun m => { m with waiting := m.waiting ++ [.copy piece] }
    else s.copyStep piece)

end Sys2Proof.Machine
end

