-- ==== Sys2Proof/Machine/Dispatch.lean ====
section
/-!
DEFINITION. The dispatch: one arm for each constructor of Instr, each one direct call of its meaning.
-/
namespace Sys2Proof.Machine

/-- The effect of a command on everything but the queue of waiting commands. -/
def exec (i : Instr) (s : State) : Host.Outcome State Fault Refusal :=
  match i with
  | .perstNAssert => Sys2Proof.Machine.execPerstNAssert s
  | .powerOn => Sys2Proof.Machine.execPowerOn s
  | .supplyLoss => Sys2Proof.Machine.execSupplyLoss s
  | .startUp seen => Sys2Proof.Machine.execStartUp seen s
  | .startUpEnd micros => Sys2Proof.Machine.execStartUpEnd micros s
  | .hotReset => Sys2Proof.Machine.execHotReset s
  | .linkDown => Sys2Proof.Machine.execLinkDown s
  | .linkUp speed width => Sys2Proof.Machine.execLinkUp speed width s
  | .aspmL1Exit => Sys2Proof.Machine.execAspmL1Exit s
  | .flr fn => Sys2Proof.Machine.execFlr fn s
  | .flrComplete fn => Sys2Proof.Machine.execFlrComplete fn s
  | .pmStateChange d3hot => Sys2Proof.Machine.execPmStateChange d3hot s
  | .vfEnable numVfs mse => Sys2Proof.Machine.execVfEnable numVfs mse s
  | .configRequest fn write dword => Sys2Proof.Machine.execConfigRequest fn write dword s
  | .unsupportedRequest fn write => Sys2Proof.Machine.execUnsupportedRequest fn write s
  | .tlpReceiveError fn err => Sys2Proof.Machine.execTlpReceiveError fn err s
  | .dmaCompletionTimeout read => Sys2Proof.Machine.execDmaCompletionTimeout read s
  | .dmaReadError read err => Sys2Proof.Machine.execDmaReadError read err s
  | .vectorUnmask fn vector => Sys2Proof.Machine.execVectorUnmask fn vector s
  | .registerWrite page addr value => Sys2Proof.Machine.execRegisterWrite page addr value s
  | .sqDoorbell fn queue value head => Sys2Proof.Machine.execSqDoorbell fn queue value head s
  | .cqDoorbell fn queue value => Sys2Proof.Machine.execCqDoorbell fn queue value s
  | .descriptorFetch fn queue => Sys2Proof.Machine.execDescriptorFetch fn queue s
  | .descriptorArrival fn queue descs => Sys2Proof.Machine.execDescriptorArrival fn queue descs s
  | .steeringReadDone op params => Sys2Proof.Machine.execSteeringReadDone op params s
  | .regionDispatch region => Sys2Proof.Machine.execRegionDispatch region s
  | .operationCompletion op => Sys2Proof.Machine.execOperationCompletion op s
  | .coalesceTimer fn queue => Sys2Proof.Machine.execCoalesceTimer fn queue s
  | .schedulingEpoch => Sys2Proof.Machine.execSchedulingEpoch s
  | .rateWindow cycles => Sys2Proof.Machine.execRateWindow cycles s
  | .cellFault block kind op => Sys2Proof.Machine.execCellFault block kind op s
  | .faultLevelDecay block => Sys2Proof.Machine.execFaultLevelDecay block s
  | .busIntegrityError block op => Sys2Proof.Machine.execBusIntegrityError block op s
  | .regionWatchdogExpiry region => Sys2Proof.Machine.execRegionWatchdogExpiry region s
  | .queueEnable page => Sys2Proof.Machine.execQueueEnable page s
  | .queueDisable page => Sys2Proof.Machine.execQueueDisable page s
  | .queueContextWrite page reg value => Sys2Proof.Machine.execQueueContextWrite page reg value s
  | .qVectorWrite page value => Sys2Proof.Machine.execQVectorWrite page value s
  | .qselWrite page value => Sys2Proof.Machine.execQselWrite page value s
  | .funcQueuesWrite value => Sys2Proof.Machine.execFuncQueuesWrite value s
  | .nop op => Sys2Proof.Machine.execNop op s
  | .fence op => Sys2Proof.Machine.execFence op s
  | .slotQuotaWrite value => Sys2Proof.Machine.execSlotQuotaWrite value s
  | .storeQuotaWrite value => Sys2Proof.Machine.execStoreQuotaWrite value s
  | .quotaPersist => Sys2Proof.Machine.execQuotaPersist s
  | .allowCommit => Sys2Proof.Machine.execAllowCommit s
  | .drbgCountWrite value => Sys2Proof.Machine.execDrbgCountWrite value s
  | .shareWrite value => Sys2Proof.Machine.execShareWrite value s
  | .mbxToPfDoorbell vf => Sys2Proof.Machine.execMbxToPfDoorbell vf s
  | .mbxToPfAck vf => Sys2Proof.Machine.execMbxToPfAck vf s
  | .mbxFromPfDoorbell vf => Sys2Proof.Machine.execMbxFromPfDoorbell vf s
  | .mbxFromPfAck vf => Sys2Proof.Machine.execMbxFromPfAck vf s
  | .keyGenerate op => Sys2Proof.Machine.execKeyGenerate op s
  | .keyUnload op => Sys2Proof.Machine.execKeyUnload op s
  | .keyMove op => Sys2Proof.Machine.execKeyMove op s
  | .keyAttrRead op dma => Sys2Proof.Machine.execKeyAttrRead op dma s
  | .keyImport op dma => Sys2Proof.Machine.execKeyImport op dma s
  | .keyExport op dma => Sys2Proof.Machine.execKeyExport op dma s
  | .keySave op dma => Sys2Proof.Machine.execKeySave op dma s
  | .keyRestore op dma => Sys2Proof.Machine.execKeyRestore op dma s
  | .blobRewrap op dma => Sys2Proof.Machine.execBlobRewrap op dma s
  | .attestSign op dma => Sys2Proof.Machine.execAttestSign op dma s
  | .certRead op dma => Sys2Proof.Machine.execCertRead op dma s
  | .temperPassStart => Sys2Proof.Machine.execTemperPassStart s
  | .temperSlotRewrite => Sys2Proof.Machine.execTemperSlotRewrite s
  | .temperTempRead tj => Sys2Proof.Machine.execTemperTempRead tj s
  | .aesEcbEnc op dma => Sys2Proof.Machine.execAesEcbEnc op dma s
  | .aesEcbDec op dma => Sys2Proof.Machine.execAesEcbDec op dma s
  | .aesCbcEnc op dma => Sys2Proof.Machine.execAesCbcEnc op dma s
  | .aesCbcDec op dma => Sys2Proof.Machine.execAesCbcDec op dma s
  | .aesCfbEnc op dma => Sys2Proof.Machine.execAesCfbEnc op dma s
  | .aesCfbDec op dma => Sys2Proof.Machine.execAesCfbDec op dma s
  | .aesCtrEnc op dma => Sys2Proof.Machine.execAesCtrEnc op dma s
  | .aesCtrDec op dma => Sys2Proof.Machine.execAesCtrDec op dma s
  | .aesGcmEnc op dma => Sys2Proof.Machine.execAesGcmEnc op dma s
  | .aesGcmDec op dma => Sys2Proof.Machine.execAesGcmDec op dma s
  | .aesCcmEnc op dma => Sys2Proof.Machine.execAesCcmEnc op dma s
  | .aesCcmDec op dma => Sys2Proof.Machine.execAesCcmDec op dma s
  | .aesXtsEnc op dma => Sys2Proof.Machine.execAesXtsEnc op dma s
  | .aesXtsDec op dma => Sys2Proof.Machine.execAesXtsDec op dma s
  | .aesKwWrap op dma => Sys2Proof.Machine.execAesKwWrap op dma s
  | .aesKwUnwrap op dma => Sys2Proof.Machine.execAesKwUnwrap op dma s
  | .aesKwpWrap op dma => Sys2Proof.Machine.execAesKwpWrap op dma s
  | .aesKwpUnwrap op dma => Sys2Proof.Machine.execAesKwpUnwrap op dma s
  | .tdesEcbEnc op dma => Sys2Proof.Machine.execTdesEcbEnc op dma s
  | .tdesEcbDec op dma => Sys2Proof.Machine.execTdesEcbDec op dma s
  | .tdesCbcEnc op dma => Sys2Proof.Machine.execTdesCbcEnc op dma s
  | .tdesCbcDec op dma => Sys2Proof.Machine.execTdesCbcDec op dma s
  | .seal op dma => Sys2Proof.Machine.execSeal op dma s
  | .unseal op dma => Sys2Proof.Machine.execUnseal op dma s
  | .hash op dma => Sys2Proof.Machine.execHash op dma s
  | .hmacGen op dma => Sys2Proof.Machine.execHmacGen op dma s
  | .hmacVer op dma => Sys2Proof.Machine.execHmacVer op dma s
  | .aesCmacGen op dma => Sys2Proof.Machine.execAesCmacGen op dma s
  | .aesCmacVer op dma => Sys2Proof.Machine.execAesCmacVer op dma s
  | .aesGmacGen op dma => Sys2Proof.Machine.execAesGmacGen op dma s
  | .aesGmacVer op dma => Sys2Proof.Machine.execAesGmacVer op dma s
  | .tdesMacGen op dma => Sys2Proof.Machine.execTdesMacGen op dma s
  | .tdesMacVer op dma => Sys2Proof.Machine.execTdesMacVer op dma s
  | .tdesCmacGen op dma => Sys2Proof.Machine.execTdesCmacGen op dma s
  | .tdesCmacVer op dma => Sys2Proof.Machine.execTdesCmacVer op dma s
  | .maskReseed => Sys2Proof.Machine.execMaskReseed s
  | .planRun op dma => Sys2Proof.Machine.execPlanRun op dma s
  | .planContextStart op => Sys2Proof.Machine.execPlanContextStart op s
  | .swageSlot pipe ctx => Sys2Proof.Machine.execSwageSlot pipe ctx s
  | .planLoad op dma => Sys2Proof.Machine.execPlanLoad op dma s
  | .planUnload op => Sys2Proof.Machine.execPlanUnload op s
  | .routeLookup => Sys2Proof.Machine.execRouteLookup s
  | .terminalInsert op => Sys2Proof.Machine.execTerminalInsert op s
  | .buildGo read => Sys2Proof.Machine.execBuildGo read s
  | .routeFlip => Sys2Proof.Machine.execRouteFlip s
  | .trieReclaim => Sys2Proof.Machine.execTrieReclaim s
  | .terminalSweep pipe => Sys2Proof.Machine.execTerminalSweep pipe s
  | .rehashStart pipe => Sys2Proof.Machine.execRehashStart pipe s
  | .rehashFlip pipe => Sys2Proof.Machine.execRehashFlip pipe s
  | .flush pipe => Sys2Proof.Machine.execFlush pipe s
  | .rehash pipe => Sys2Proof.Machine.execRehash pipe s
  | .termFlushGo tenant => Sys2Proof.Machine.execTermFlushGo tenant s
  | .termFlushDone => Sys2Proof.Machine.execTermFlushDone s
  | .rsaPrivate op dma => Sys2Proof.Machine.execRsaPrivate op dma s
  | .rsaPublic op dma => Sys2Proof.Machine.execRsaPublic op dma s
  | .rsaSign op dma => Sys2Proof.Machine.execRsaSign op dma s
  | .rsaVerify op dma => Sys2Proof.Machine.execRsaVerify op dma s
  | .rsaOaepEncrypt op dma => Sys2Proof.Machine.execRsaOaepEncrypt op dma s
  | .rsaOaepDecrypt op dma => Sys2Proof.Machine.execRsaOaepDecrypt op dma s
  | .rsaKeygen op dma => Sys2Proof.Machine.execRsaKeygen op dma s
  | .ecdsaSign op dma => Sys2Proof.Machine.execEcdsaSign op dma s
  | .ecdsaVerify op dma => Sys2Proof.Machine.execEcdsaVerify op dma s
  | .ecdh op dma => Sys2Proof.Machine.execEcdh op dma s
  | .ecPublic op dma => Sys2Proof.Machine.execEcPublic op dma s
  | .eddsaSign op dma => Sys2Proof.Machine.execEddsaSign op dma s
  | .eddsaVerify op dma => Sys2Proof.Machine.execEddsaVerify op dma s
  | .xdh op dma => Sys2Proof.Machine.execXdh op dma s
  | .mlkemKeygen op dma => Sys2Proof.Machine.execMlkemKeygen op dma s
  | .mlkemEncaps op dma => Sys2Proof.Machine.execMlkemEncaps op dma s
  | .mlkemDecaps op dma => Sys2Proof.Machine.execMlkemDecaps op dma s
  | .mldsaKeygen op dma => Sys2Proof.Machine.execMldsaKeygen op dma s
  | .mldsaSign op dma => Sys2Proof.Machine.execMldsaSign op dma s
  | .mldsaVerify op dma => Sys2Proof.Machine.execMldsaVerify op dma s
  | .yieldPoint unit => Sys2Proof.Machine.execYieldPoint unit s
  | .preemptedResume unit => Sys2Proof.Machine.execPreemptedResume unit s
  | .hammerAbort value => Sys2Proof.Machine.execHammerAbort value s
  | .drbgInstantiate op dma => Sys2Proof.Machine.execDrbgInstantiate op dma s
  | .drbgGenerate op dma => Sys2Proof.Machine.execDrbgGenerate op dma s
  | .drbgReseed op dma => Sys2Proof.Machine.execDrbgReseed op dma s
  | .drbgUninstantiate op => Sys2Proof.Machine.execDrbgUninstantiate op s
  | .noiseCellFailure cell proportion => Sys2Proof.Machine.execNoiseCellFailure cell proportion s
  | .retest => Sys2Proof.Machine.execRetest s
  | .retestEnd passed => Sys2Proof.Machine.execRetestEnd passed s
  | .entropyRetry => Sys2Proof.Machine.execEntropyRetry s
  | .seedDelivery => Sys2Proof.Machine.execSeedDelivery s
  | .stretchWindow => Sys2Proof.Machine.execStretchWindow s
  | .internalReseed => Sys2Proof.Machine.execInternalReseed s
  | .seedQueuePeakRead => Sys2Proof.Machine.execSeedQueuePeakRead s
  | .serviceEntry => Sys2Proof.Machine.execServiceEntry s
  | .vaultmbxGo => Sys2Proof.Machine.execVaultmbxGo s
  | .ringDoorbell bench filled => Sys2Proof.Machine.execRingDoorbell bench filled s
  | .hbiHello => Sys2Proof.Machine.execHbiHello s
  | .hbiAck => Sys2Proof.Machine.execHbiAck s
  | .hbiHelloRetry => Sys2Proof.Machine.execHbiHelloRetry s
  | .wdogKick core value => Sys2Proof.Machine.execWdogKick core value s
  | .hearthWatchdogExpiry => Sys2Proof.Machine.execHearthWatchdogExpiry s
  | .hearthRestart => Sys2Proof.Machine.execHearthRestart s
  | .benchWatchdogExpiry core => Sys2Proof.Machine.execBenchWatchdogExpiry core s
  | .benchRestart => Sys2Proof.Machine.execBenchRestart s
  | .interruptEntry core line => Sys2Proof.Machine.execInterruptEntry core line s
  | .zwmNop core sz => Sys2Proof.Machine.execZwmNop core sz s
  | .mov core sz d a => Sys2Proof.Machine.execMov core sz d a s
  | .lea core sz d m => Sys2Proof.Machine.execLea core sz d m s
  | .push core sz a => Sys2Proof.Machine.execPush core sz a s
  | .pop core sz d => Sys2Proof.Machine.execPop core sz d s
  | .leac core sz d m => Sys2Proof.Machine.execLeac core sz d m s
  | .kill core sz d => Sys2Proof.Machine.execKill core sz d s
  | .add core sz d a b => Sys2Proof.Machine.execAdd core sz d a b s
  | .sub core sz d a b => Sys2Proof.Machine.execSub core sz d a b s
  | .adc core sz d a b => Sys2Proof.Machine.execAdc core sz d a b s
  | .sbb core sz d a b => Sys2Proof.Machine.execSbb core sz d a b s
  | .mul core sz d a b => Sys2Proof.Machine.execMul core sz d a b s
  | .mulhu core sz d a b => Sys2Proof.Machine.execMulhu core sz d a b s
  | .divu core sz d a b => Sys2Proof.Machine.execDivu core sz d a b s
  | .remu core sz d a b => Sys2Proof.Machine.execRemu core sz d a b s
  | .zwmAnd core sz d a b => Sys2Proof.Machine.execZwmAnd core sz d a b s
  | .zwmOr core sz d a b => Sys2Proof.Machine.execZwmOr core sz d a b s
  | .xor core sz d a b => Sys2Proof.Machine.execXor core sz d a b s
  | .zwmNot core sz d a => Sys2Proof.Machine.execZwmNot core sz d a s
  | .shl core sz d a b => Sys2Proof.Machine.execShl core sz d a b s
  | .shr core sz d a b => Sys2Proof.Machine.execShr core sz d a b s
  | .sar core sz d a b => Sys2Proof.Machine.execSar core sz d a b s
  | .rol core sz d a b => Sys2Proof.Machine.execRol core sz d a b s
  | .cmp core sz a b => Sys2Proof.Machine.execCmp core sz a b s
  | .test core sz a b => Sys2Proof.Machine.execTest core sz a b s
  | .selCc core sz d a b => Sys2Proof.Machine.execSelCc core sz d a b s
  | .jmp core sz a => Sys2Proof.Machine.execJmp core sz a s
  | .bCc core sz m => Sys2Proof.Machine.execBCc core sz m s
  | .call core sz a => Sys2Proof.Machine.execCall core sz a s
  | .ret core sz => Sys2Proof.Machine.execRet core sz s
  | .rets core sz scrub => Sys2Proof.Machine.execRets core sz scrub s
  | .iret core sz => Sys2Proof.Machine.execIret core sz s
  | .macd core sz a b => Sys2Proof.Machine.execMacd core sz a b s
  | .accz core sz => Sys2Proof.Machine.execAccz core sz s
  | .accadd core sz a => Sys2Proof.Machine.execAccadd core sz a s
  | .accst core sz d => Sys2Proof.Machine.execAccst core sz d s
  | .zwmRep core n => Sys2Proof.Machine.execZwmRep core n s
  | .repi core sz => Sys2Proof.Machine.execRepi core sz s
  | .tagof core sz d a => Sys2Proof.Machine.execTagof core sz d a s
  | .cls core sz d a => Sys2Proof.Machine.execCls core sz d a s
  | .dcls core sz d a => Sys2Proof.Machine.execDcls core sz d a s
  | .rdctl core sz d a => Sys2Proof.Machine.execRdctl core sz d a s
  | .ei core sz => Sys2Proof.Machine.execEi core sz s
  | .di core sz => Sys2Proof.Machine.execDi core sz s
  | .wfi core sz => Sys2Proof.Machine.execWfi core sz s
  | .fend core sz => Sys2Proof.Machine.execFend core sz s
  | .hold core => Sys2Proof.Machine.execHold core s
  | .holdAck bench => Sys2Proof.Machine.execHoldAck bench s
  | .holdClear bench => Sys2Proof.Machine.execHoldClear bench s
  | .lineSet bench value => Sys2Proof.Machine.execLineSet bench value s
  | .lineSetDone bench => Sys2Proof.Machine.execLineSetDone bench s
  | .mpuRuleWrite bench offset value => Sys2Proof.Machine.execMpuRuleWrite bench offset value s
  | .debugAccess req => Sys2Proof.Machine.execDebugAccess req s
  | .shield sector lines => Sys2Proof.Machine.execShield sector lines s
  | .envelopeMismatch loopB mismatch => Sys2Proof.Machine.execEnvelopeMismatch loopB mismatch s
  | .lid => Sys2Proof.Machine.execLid s
  | .zeroize => Sys2Proof.Machine.execZeroize s
  | .tempReading tj => Sys2Proof.Machine.execTempReading tj s
  | .vbatReading mv => Sys2Proof.Machine.execVbatReading mv s
  | .quenchComplete => Sys2Proof.Machine.execQuenchComplete s
  | .groupClose => Sys2Proof.Machine.execGroupClose s
  | .classSet => Sys2Proof.Machine.execClassSet s
  | .classPersist => Sys2Proof.Machine.execClassPersist s
  | .fuseDisable => Sys2Proof.Machine.execFuseDisable s
  | .cerOpen => Sys2Proof.Machine.execCerOpen s
  | .cerStep => Sys2Proof.Machine.execCerStep s
  | .cerCommit sd => Sys2Proof.Machine.execCerCommit sd s
  | .cerAbort => Sys2Proof.Machine.execCerAbort s
  | .cerStatus => Sys2Proof.Machine.execCerStatus s
  | .setRead => Sys2Proof.Machine.execSetRead s
  | .attestMac => Sys2Proof.Machine.execAttestMac s
  | .ceremonyWindowExpiry => Sys2Proof.Machine.execCeremonyWindowExpiry s
  | .ceremonyIdleLimit => Sys2Proof.Machine.execCeremonyIdleLimit s
  | .cardInserted port => Sys2Proof.Machine.execCardInserted port s
  | .cardRemoved port busy => Sys2Proof.Machine.execCardRemoved port busy s
  | .atrReceived port atr => Sys2Proof.Machine.execAtrReceived port atr s
  | .atrTimeout port => Sys2Proof.Machine.execAtrTimeout port s
  | .ppsResponse port bytes => Sys2Proof.Machine.execPpsResponse port bytes s
  | .t1BlockReceived port block parity => Sys2Proof.Machine.execT1BlockReceived port block parity s
  | .t1Timeout port => Sys2Proof.Machine.execT1Timeout port s
  | .apduTimeout port => Sys2Proof.Machine.execApduTimeout port s
  | .cardClockStop port => Sys2Proof.Machine.execCardClockStop port s
  | .archiveWrite op card how => Sys2Proof.Machine.execArchiveWrite op card how s
  | .archiveRecorder op card how => Sys2Proof.Machine.execArchiveRecorder op card how s
  | .archiveStatus op card how => Sys2Proof.Machine.execArchiveStatus op card how s
  | .archiveFormat op card how => Sys2Proof.Machine.execArchiveFormat op card how s
  | .cardIdentify op => Sys2Proof.Machine.execCardIdentify op s
  | .sdCrcError => Sys2Proof.Machine.execSdCrcError s
  | .sdBusyTimeout => Sys2Proof.Machine.execSdBusyTimeout s
  | .lcStatus jtag => Sys2Proof.Machine.execLcStatus jtag s
  | .lcAdvance jtag => Sys2Proof.Machine.execLcAdvance jtag s
  | .token t value => Sys2Proof.Machine.execToken t value s
  | .authNonce jtag => Sys2Proof.Machine.execAuthNonce jtag s
  | .authResponse jtag => Sys2Proof.Machine.execAuthResponse jtag s
  | .nonceExpiry => Sys2Proof.Machine.execNonceExpiry s
  | .ownerKeyFuse => Sys2Proof.Machine.execOwnerKeyFuse s
  | .imageBegin => Sys2Proof.Machine.execImageBegin s
  | .imageData => Sys2Proof.Machine.execImageData s
  | .imageCommit => Sys2Proof.Machine.execImageCommit s
  | .deviceRestart => Sys2Proof.Machine.execDeviceRestart s
  | .idcode => Sys2Proof.Machine.execIdcode s
  | .sample levels => Sys2Proof.Machine.execSample levels s
  | .extest levels => Sys2Proof.Machine.execExtest levels s
  | .bypass => Sys2Proof.Machine.execBypass s
  | .avsWindow use => Sys2Proof.Machine.execAvsWindow use s
  | .avsReadback mv => Sys2Proof.Machine.execAvsReadback mv s
  | .avsAlert status => Sys2Proof.Machine.execAvsAlert status s
  | .avsSettingsWrite limits value => Sys2Proof.Machine.execAvsSettingsWrite limits value s
  | .referenceLost => Sys2Proof.Machine.execReferenceLost s
  | .referenceRestored => Sys2Proof.Machine.execReferenceRestored s
  | .rtcFail => Sys2Proof.Machine.execRtcFail s
  | .powerDownRequest pd idleUs => Sys2Proof.Machine.execPowerDownRequest pd idleUs s
  | .powerDownDone pd => Sys2Proof.Machine.execPowerDownDone pd s
  | .powerUp pd => Sys2Proof.Machine.execPowerUp pd s
  | .hclaimSet pd => Sys2Proof.Machine.execHclaimSet pd s
  | .hclaimRelease pd idleUs => Sys2Proof.Machine.execHclaimRelease pd idleUs s
  | .recordAppend hearth code source param => Sys2Proof.Machine.execRecordAppend hearth code source param s
  | .recordCommit mramOk => Sys2Proof.Machine.execRecordCommit mramOk s
  | .opsecCommit => Sys2Proof.Machine.execOpsecCommit s
  | .cursor hearth seq => Sys2Proof.Machine.execCursor hearth seq s
  | .windowAdvance hearth => Sys2Proof.Machine.execWindowAdvance hearth s
  | .settingsValueWrite value => Sys2Proof.Machine.execSettingsValueWrite value s
  | .store key => Sys2Proof.Machine.execStore key s
  | .storeEnd => Sys2Proof.Machine.execStoreEnd s
  | .canaryMeasure periods => Sys2Proof.Machine.execCanaryMeasure periods s
  | .wearAccumulate => Sys2Proof.Machine.execWearAccumulate s
  | .batteryMeasure draw => Sys2Proof.Machine.execBatteryMeasure draw s
  | .batReset key => Sys2Proof.Machine.execBatReset key s
  | .legacyGo => Sys2Proof.Machine.execLegacyGo s
  | .legacyResponseRelease => Sys2Proof.Machine.execLegacyResponseRelease s
  | .lmkBind slot => Sys2Proof.Machine.execLmkBind slot s
  | .legSs => Sys2Proof.Machine.execLegSs s
  | .legSv => Sys2Proof.Machine.execLegSv s
  | .legSn => Sys2Proof.Machine.execLegSn s
  | .legSe => Sys2Proof.Machine.execLegSe s
  | .legSl => Sys2Proof.Machine.execLegSl s
  | .legSc => Sys2Proof.Machine.execLegSc s
  | .legSd => Sys2Proof.Machine.execLegSd s
  | .legSa => Sys2Proof.Machine.execLegSa s
  | .legRn => Sys2Proof.Machine.execLegRn s
  | .legKg => Sys2Proof.Machine.execLegKg s
  | .legKx => Sys2Proof.Machine.execLegKx s
  | .legKi => Sys2Proof.Machine.execLegKi s
  | .legKe => Sys2Proof.Machine.execLegKe s
  | .legKc => Sys2Proof.Machine.execLegKc s
  | .legKq => Sys2Proof.Machine.execLegKq s
  | .legPt => Sys2Proof.Machine.execLegPt s
  | .legPa => Sys2Proof.Machine.execLegPa s
  | .legPd => Sys2Proof.Machine.execLegPd s
  | .legPv => Sys2Proof.Machine.execLegPv s
  | .legPw => Sys2Proof.Machine.execLegPw s
  | .legPx => Sys2Proof.Machine.execLegPx s
  | .legPy => Sys2Proof.Machine.execLegPy s
  | .legVg => Sys2Proof.Machine.execLegVg s
  | .legVv => Sys2Proof.Machine.execLegVv s
  | .legVh => Sys2Proof.Machine.execLegVh s
  | .legVj => Sys2Proof.Machine.execLegVj s
  | .legVk => Sys2Proof.Machine.execLegVk s
  | .legVl => Sys2Proof.Machine.execLegVl s
  | .legQv => Sys2Proof.Machine.execLegQv s
  | .legQa => Sys2Proof.Machine.execLegQa s
  | .legQb => Sys2Proof.Machine.execLegQb s
  | .legQw => Sys2Proof.Machine.execLegQw s
  | .legQx => Sys2Proof.Machine.execLegQx s
  | .legQy => Sys2Proof.Machine.execLegQy s
  | .legMg => Sys2Proof.Machine.execLegMg s
  | .legMv => Sys2Proof.Machine.execLegMv s
  | .legDe => Sys2Proof.Machine.execLegDe s
  | .legDd => Sys2Proof.Machine.execLegDd s
  | .legEe => Sys2Proof.Machine.execLegEe s
  | .legEd => Sys2Proof.Machine.execLegEd s
  | .legKz => Sys2Proof.Machine.execLegKz s
  | .legKl => Sys2Proof.Machine.execLegKl s
  | .legKy => Sys2Proof.Machine.execLegKy s
  | .legXa => Sys2Proof.Machine.execLegXa s
  | .legXd => Sys2Proof.Machine.execLegXd s
  | .legXp => Sys2Proof.Machine.execLegXp s
  | .legPn => Sys2Proof.Machine.execLegPn s
  | .legPr => Sys2Proof.Machine.execLegPr s
  | .legPo => Sys2Proof.Machine.execLegPo s
  | .legPg => Sys2Proof.Machine.execLegPg s
  | .powerUpDone pd => Sys2Proof.Machine.execPowerUpDone pd s
  | .aspmL1Entry sub => Sys2Proof.Machine.execAspmL1Entry sub s
  | .vbatConnect => Sys2Proof.Machine.execVbatConnect s
  | .vbatLoss => Sys2Proof.Machine.execVbatLoss s
  | .lidClose => Sys2Proof.Machine.execLidClose s
  | .zeroizeRelease => Sys2Proof.Machine.execZeroizeRelease s
  | .windowRead hearth word => Sys2Proof.Machine.execWindowRead hearth word s
  | .ringHeadWrite bench freed => Sys2Proof.Machine.execRingHeadWrite bench freed s
  | .copyEnginePiece piece => Sys2Proof.Machine.execCopyEnginePiece piece s

end Sys2Proof.Machine
end

