-- ==== Sys2Proof/Machine/Step.lean ====
section
/-!
DEFINITION. One step: the command at the front of the queue takes effect. The queue is the model's own; nothing
but a step changes it.
-/
namespace Sys2Proof.Machine

/-- The period of the 25 MHz reference in nanoseconds (R472). -/
def refPeriod : Nat := 40

/-- The block idles for one period of its reference: the time base advances, nothing else happens (DESIGN CHOICE, log 1). -/
def State.idle (s : State) : State := { s with now := s.now + refPeriod }

/-- One step: the oldest waiting command takes its effect; with none waiting the block idles. -/
def step (s : State) : Host.Outcome State Fault Refusal :=
  match s.pending with
  | [] => .next s.idle
  | c :: rest => exec c { s with pending := rest }

/-- The state with a command put at the front of its queue. -/
def State.withCommand (c : Instr) (s : State) : State := { s with pending := c :: s.pending }

/-- The state with the command that a word spells put at the front of its queue, unchanged where it spells none. -/
def State.withFetchWord (s : State) (nbits w : Nat) : State :=
  match decodeTableWord nbits w with
  | some c => s.withCommand c
  | none => s

end Sys2Proof.Machine
end

