-- ==== Sys2Proof/Machine/Reads.lean ====
section
/-!
DEFINITION. What a register of a BAR reads (R8, R65 to R67, R71). A read with an effect is a row of its own: an EVLOG window word (R522) and the
peak of the seed queue (R352). Offsets and bits not named here are reserved and read 0; so do write-only fields.
-/
namespace Sys2Proof.Machine

/-- A one-bit field at a bit position. -/
def flagAt (b : Bool) (i : Nat) : Nat := if b then 2 ^ i else 0

/-- The dword at index `k` of a number. -/
def dwordOf (v k : Nat) : Nat := v / 2 ^ (32 * k) % 2 ^ 32

/-- Bits `32 w` to `32 w + 31` of a set of numbers. -/
def maskWord (p : Nat → Bool) (w : Nat) : Nat := ((List.range 32).map fun i => flagAt (p (32 * w + i)) i).sum

/-! ### CHIP and HOSTIF (R72, R74, R84, R136, R146) -/

/-- CHIP.STATUS.BLOCK_OUT: some block shows STATE 2 (R72). -/
def State.blockOut (s : State) : Bool := (List.range 128).any fun b => s.blockState b == 2

/-- CHIP (R72). -/
def State.readChip (s : State) (a : Nat) : Nat :=
  if a = 0x0000 then 0x4840
  else if a = 0x0004 then 0x10
  else if a = 0x0008 then s.chip.hif.toNat
  else if a = 0x000C then s.chip.state.code
  else if a = 0x0010 then flagAt s.chip.legacy 0 + flagAt s.worlds.vaultUp 1 + flagAt s.blockOut 2
  else 0

/-- HOSTIF (R74, R84, R136, R146). -/
def State.readHostif (s : State) (a : Nat) : Nat :=
  let q := s.qmgr
  let n := s.fnOf q.resFunc
  let t := s.tenantOf q.tenSel
  if a = 0x0400 then s.link.speed + 8 * s.link.width + 65536 * s.link.downCount
  else if 0x0420 ≤ a ∧ a ≤ 0x043C then maskWord (fun f => (s.fnOf f).flr) ((a - 0x0420) / 4)
  else if a = 0x0480 then q.resFunc
  else if a = 0x0484 then flagAt n.priority 0
  else if a = 0x0488 then n.drbgCount
  else if a = 0x048C then q.drbgFree
  else if a = 0x0490 then
    flagAt q.drbgRefused 0 + flagAt q.listRefused 1 + flagAt q.quotaRefused 2 + 256 * q.listCause + 65536 * q.listEntry
  else if 0x04A0 ≤ a ∧ a ≤ 0x04BC then
    let k := (a - 0x04A0) / 4
    (tget 0 n.staging (2 * k)).toNat + 65536 * (tget 0 n.staging (2 * k + 1)).toNat
  else if a = 0x04C4 then n.allowGen.toNat
  else if a = 0x04C8 then flagAt (s.allowDone q.resFunc) 0
  else if a = 0x0500 then q.tenSel
  else if a = 0x0504 then flagAt t.live 0 + 65536 * t.cset
  else if a = 0x0508 then t.epoch.toNat
  else if a = 0x050C then t.slotQuota
  else if a = 0x0510 then t.slotsUsed
  else if a = 0x0514 then t.storeQuota
  else if a = 0x0518 then t.storeUsed
  else if a = 0x051C then s.slotQuotaSum
  else if 0x0520 ≤ a ∧ a ≤ 0x053C then maskWord (fun f => t.bind.getLsbD f) ((a - 0x0520) / 4)
  else 0

/-! ### Queue registers (R90 to R93) -/

/-- The context registers of queue `q` of function `f`; through a selector that names a queue the function does not hold they read 0 (R93). The offset
is that of the VFREG page, 0x20 for Q_SQ_BASE_LO. -/
def State.readContext (s : State) (f q off : Nat) : Nat :=
  let c := s.queueOf f q
  if (s.fnOf f).queues ≤ q then 0
  else if off = 0x20 then dwordOf c.sqBase.toNat 0
  else if off = 0x24 then dwordOf c.sqBase.toNat 1
  else if off = 0x28 then dwordOf c.cqBase.toNat 0
  else if off = 0x2C then dwordOf c.cqBase.toNat 1
  else if off = 0x30 then c.depth
  else if off = 0x34 then c.vector + flagAt c.vecEn 31
  else if off = 0x38 then c.coalCount + 65536 * c.coalTime
  else if off = 0x3C then flagAt c.enable 0
  else if off = 0x40 then
    flagAt (c.enable && !c.broken) 0 + flagAt c.drained 1 + flagAt c.broken 2 + flagAt c.phase 3 + 16 * c.cause
  else if off = 0x44 then c.sqHead + 65536 * c.cqTail
  else if off = 0x48 then c.sqTail + 65536 * c.cqHead
  else 0

/-- QMGR (R91); in legacy mode it reads 0 (R90). -/
def State.readQmgr (s : State) (a : Nat) : Nat :=
  let q := s.qmgr
  if s.chip.legacy then 0
  else if a = 0x0800 then q.funcSel
  else if a = 0x0804 then (s.fnOf q.funcSel).queues
  else if a = 0x0808 then q.poolFree
  else if a = 0x080C then q.error.toNat
  else if a = 0x0810 then q.qselQ + 65536 * q.qselF
  else s.readContext q.qselF q.qselQ (a - 0x0800)

/-! ### ENGINE (R31 to R33, R147, R187, R332) -/

/-- BLOCK_STATUS of a block (R32). -/
def State.readBlock (s : State) (b : Nat) : Nat :=
  let x := s.blockOf b
  s.blockState b + 16 * x.level + 256 * x.aborts + 65536 * x.corrected

/-- ENGINE. -/
def State.readEngine (s : State) (a : Nat) : Nat :=
  let unit (u : Nat) : HUnit := tget {} s.hammer.units u
  if a = 0x1400 then s.qmgr.shareSel
  else if a = 0x1404 then (s.fnOf s.qmgr.shareSel).share.toNat
  else if a = 0x1408 then flagAt s.qmgr.weightBad 0
  else if a = 0x140C then s.engine.epoch.toNat
  else if 0x1500 ≤ a ∧ a < 0x1700 then s.readBlock ((a - 0x1500) / 4)
  else if 0x1700 ≤ a ∧ a < 0x1780 then
    let r : Rate := tget {} s.engine.rates ((a - 0x1700) / 16)
    let k := a % 16
    if k = 0 then r.ops else if k = 4 then r.kbytes else if k = 8 then r.cycle else 0
  else if a = 0x1780 then s.engine.rateSeq.toNat
  else if a = 0x17C0 then s.rackUsed
  else if a = 0x17C4 then s.rack.periodMs + flagAt s.rack.fixedMode 16
  else if a = 0x17C8 then s.rack.passes.toNat
  else if a = 0x17CC then s.rack.lastUs
  else if a = 0x17D0 then s.hammer.abortUnit
  else if a = 0x17D4 then maskWord (fun u => (unit u).job.isSome) 0
  else if a = 0x17D8 then maskWord (fun u => (unit u).job.isSome) 1
  else if a = 0x17DC then ((List.range 4).map fun i => flagAt (unit (60 + i)).held.isSome i).sum + 65536 * s.hammer.yields
  else 0

/-! ### RAND (R352) -/

/-- State of an instance as RAND.INST_STATE shows it: 3 for an index that the function does not hold. -/
def State.instState (s : State) (f i : Nat) : Nat :=
  let x : Inst := tget {} s.bellows.insts (f * 4096 + i)
  if (s.fnOf f).drbgCount ≤ i then 3 else if x.stalled then 2 else if x.up then 1 else 0

/-- RAND. The PEAK that a read of SEED_QUEUE shows is cleared by it, which is the row SEED_QUEUE_PEAK_READ. -/
def State.readRand (s : State) (a : Nat) : Nat :=
  let b := s.bellows
  let i : Inst := tget {} b.insts (b.instSelF * 4096 + b.instSelI)
  let held := s.instState b.instSelF b.instSelI != 3
  if a = 0x1800 then b.state.code + 256 * s.healthy + 65536 * b.stretch
  else if a = 0x1808 then min 65535 b.seedQ.length + 65536 * b.peak
  else if a = 0x180C then b.seeds.toNat
  else if a = 0x1810 then min 65535 s.heldCount + 65536 * b.failedCount
  else if 0x1820 ≤ a ∧ a ≤ 0x189C then
    let c := s.cellOf ((a - 0x1820) / 4)
    c.fails + flagAt c.out 8 + flagAt (c.last == 1) 9 + flagAt c.vn 10
  else if a = 0x18A0 then b.instSelI + 65536 * b.instSelF
  else if a = 0x18A4 then s.instState b.instSelF b.instSelI + (if held then 256 * i.exp else 0)
  else if a = 0x18A8 then (if held then i.count % 2 ^ 32 else 0)
  else 0

/-! ### Output balls (R568) -/

/-- What an output ball shows: a level, high impedance, electrical idle, a pattern of R424, an input, or a level that its interface drives from
moment to moment. -/
inductive BallLevel | low | high | hiZ | idle | pattern | input | driven
deriving DecidableEq, Repr

/-- The output balls of R568. -/
inductive OutBall
  | peTx | clkreqN | wakeN | alertN
  | cardPwren (port : Fin 4) | cardVsel0 (port : Fin 4) | cardVsel1 (port : Fin 4) | cardLines (port : Fin 4)
  | sdPwren | sdVsel | sdLines
  | qspiCsN | qspiClk | qspiIo | avsClk | avsMdata | tdo | uartTx | gpio (n : Fin 8) | envOut (loopB : Bool)
deriving DecidableEq, Repr

/-- A level. -/
def levelOf (b : Bool) : BallLevel := if b then .high else .low

/-- The level of an output ball (R427, R485, R489, R500, R567, R568): without VIO every ball that follows it is high-impedance. TDO shifts only
inside a JTAG command, and the SD card is switched on by its initialisation. -/
def State.ball (s : State) : OutBall → BallLevel
  | .envOut loopB =>
    if s.tamper.fused.getLsbD (if loopB then 2 else 1) then .low else if s.pins.mainPower || s.pins.vbat then .pattern else .hiZ
  | b =>
    if !s.pins.mainPower then .hiZ
    else
      match b with
      | .peTx => if s.pins.perstN && !s.chip.held then .driven else .idle
      | .clkreqN => if s.pins.clkreqLow then .low else .hiZ
      | .wakeN => if s.pins.wakeLow then .low else .hiZ
      | .alertN => if s.pins.alertLow then .low else .hiZ
      | .cardPwren n => levelOf (s.portOf n).active
      | .cardVsel0 n => levelOf ((s.portOf n).active && (s.portOf n).cls == 2)
      | .cardVsel1 n => levelOf ((s.portOf n).active && (s.portOf n).cls == 3)
      | .cardLines n => if (s.portOf n).active then .driven else .low
      | .sdPwren => levelOf (s.cards.sd.mode != 0)
      | .sdVsel => levelOf s.cards.sd.v18
      | .sdLines => if s.cards.sd.mode = 0 then .low else .driven
      | .qspiCsN => if s.chip.started then .driven else .high
      | .qspiClk => if s.chip.started then .driven else .low
      | .qspiIo => if s.chip.started then .driven else .hiZ
      | .avsClk => if s.power.avsOn && s.power.avsMode != 2 then .driven else .low
      | .avsMdata => if s.power.avsOn && s.power.avsMode != 2 then .driven else .high
      | .tdo => .hiZ
      | .uartTx => if s.chip.started then .driven else .high
      | .gpio n => match s.pins.gpio with
        | none => .input
        | some v => levelOf (v.getLsbD n)
      | .envOut _ => .pattern

/-! ### TAMPER (R444) -/

/-- TAMPER. -/
def State.readTamper (s : State) (a : Nat) : Nat :=
  let t := s.tamper
  if a = 0x1C00 then s.activeNow.toNat
  else if a = 0x1C04 then s.crucible.latchSrc.toNat + 4096 * s.crucible.latchCls
  else if a = 0x1C08 then s.crucible.latchGroup.toNat
  else if a = 0x1C0C then s.classWord
  else if a = 0x1C10 then ((List.range 12).map fun n => s.minClass n * 4 ^ n).sum
  else if a = 0x1C14 then s.recentProbes.length
  else if a = 0x1C18 then t.sectors.toNat + flagAt t.envA 8 + flagAt t.envB 9
  else if a = 0x1C1C then t.vbatMv + 65536 * (t.tj % 65536).toNat
  else if a = 0x1C20 then t.batRecords + flagAt t.batOverflow 7
  else if 0x1C40 ≤ a ∧ a ≤ 0x1C6C then tget 0 t.counts ((a - 0x1C40) / 4)
  else 0

/-! ### EVLOG and SETTINGS (R523, R529) -/

/-- EVLOG and SETTINGS. A read of a window word is the row WINDOW_READ; this is the word before it. -/
def State.readStore (s : State) (a : Nat) : Nat :=
  let t := s.store
  if a = 0x2000 then t.pf.cursor
  else if a = 0x2004 then t.newest
  else if a = 0x2008 then s.oldestRunning
  else if a = 0x200C then flagAt t.pf.empty 0 + flagAt t.pf.skipped 1 + flagAt t.repaired 2
  else if a = 0x2010 then t.opsec.toNat
  else if a = 0x2014 then t.cycles
  else if a = 0x2018 then t.lost
  else if 0x2020 ≤ a ∧ a ≤ 0x203C then (t.pf.word ((a - 0x2020) / 4)).toNat
  else if a = 0x2400 then t.sel
  else if a = 0x2404 then s.setting t.sel
  else if a = 0x2408 then Config.itemDefault t.sel
  else if a = 0x240C then
    flagAt t.refused 0 + flagAt t.dirty 1 + flagAt t.busy 2 + flagAt t.storeFail 3 + flagAt t.activeB 4 + flagAt t.defaults 5
  else if a = 0x2414 then t.gen.toNat
  else 0

/-! ### POWER (R484, R534) -/

/-- STATE of a power domain as POWER.DOMAIN shows it (R484). -/
def PdState.code : PdState → Nat
  | .on => 0
  | .off => 1
  | .poweringUp => 2
  | .poweringDown => 3
  | .deferred => 4

/-- POWER.DOMAIN of a domain (R484); CLAIM is any claim of the Hearth (R480, R481). -/
def State.readDomain (s : State) (d : Nat) : Nat :=
  let x := s.domainOf d
  x.st.code + flagAt (s.claimed d) 8 + flagAt (x.allow && domainYes d) 16 + 2 ^ 24 * x.wakes

/-- POWER. -/
def State.readPower (s : State) (a : Nat) : Nat :=
  let p := s.power
  if a = 0x2800 then s.chip.resetCause
  else if a = 0x2804 then s.chip.startUs
  else if a = 0x2808 then p.avsMode + 65536 * p.fixedMv
  else if a = 0x280C then p.minMv + 65536 * p.maxMv
  else if a = 0x2810 then
    p.target + (if p.avsMode = 2 then 0 else 65536 * p.vout) + flagAt p.avsFail 26 + flagAt p.dev 27 + flagAt p.refused 28
  else if a = 0x2814 then p.steps.toNat
  else if a = 0x2818 then flagAt p.rtcFail 0
  else if 0x2820 ≤ a ∧ a ≤ 0x2894 then s.readDomain ((a - 0x2820) / 4)
  else if a = 0x28A0 then p.idleUs
  else if 0x2900 ≤ a ∧ a ≤ 0x2914 then (tget 0 p.canary ((a - 0x2900) / 4) % 65536).toNat
  else if 0x2918 ≤ a ∧ a ≤ 0x292C then tget 0xFFFFFFFF p.eol ((a - 0x2918) / 4)
  else if a = 0x2930 then s.opHours
  else if a = 0x2934 then s.chargeUah
  else if a = 0x2938 then s.batteryHours
  else if a = 0x293C then p.batHours
  else if 0x2950 ≤ a ∧ a ≤ 0x297C then dwordOf (tget 0 s.store.writes ((a - 0x2950) / 8)) (a / 4 % 2)
  else 0

/-! ### CARDS (R509) -/

/-- CARDS. -/
def State.readCards (s : State) (a : Nat) : Nat :=
  let d := s.cards.sd
  if a < 0x2C40 then
    let p := s.portOf ((a - 0x2C00) / 16)
    let k := a % 16
    if k = 0 then
      flagAt p.present 0 + flagAt p.active 1 + 4 * p.cls + flagAt p.clkStop 4 + 256 * p.fi + 4096 * p.di + 65536 * p.div + 2 ^ 24 * p.cause
    else if k = 4 then p.activations + 65536 * p.retries
    else if k = 8 then p.insertions + 65536 * p.removals
    else 0
  else if a = 0x2C40 then
    flagAt d.present 0 + 2 * d.state + flagAt d.v18 4 + 32 * d.mode + flagAt d.formatted 8 + flagAt d.walked 9 + 65536 * d.phase +
      2 ^ 24 * d.cause
  else if a = 0x2C44 then d.capacity
  else if a = 0x2C48 then d.lastSeq
  else if a = 0x2C4C then d.nextLba
  else if a = 0x2C50 then d.crcErrors + 65536 * d.retunes
  else 0

/-! ### ROUTE (R288, R290, R304) -/

/-- The trie that ROUTE.ROOT_SEL names. -/
def State.selTrie (s : State) : List Route := tget [] s.routing.tries s.routing.rootSel

/-- ROUTE.ROOT_ENTRIES: the entries of stages 2 to 9 that the selected trie uses (R288). -/
def State.rootEntries (s : State) : Nat := ((List.range 8).map (stageEntries s.selTrie)).sum

/-- The registers of a pipeline's terminal cache (R304). -/
def State.readTerm (s : State) (p k : Nat) : Nat :=
  let t := s.termOf p
  if k = 0x00 then t.live.length
  else if k = 0x04 then t.hits.toNat
  else if k = 0x08 then t.misses.toNat
  else if k = 0x0C then t.fail + 65536 * t.skip
  else if k = 0x10 then t.rehashes.toNat + flagAt t.rehashing 16 + flagAt (t.bank == 1) 17
  else if k = 0x14 then t.sweeps.toNat
  else if k = 0x18 then t.removed
  else 0

/-- ROUTE. -/
def State.readRoute (s : State) (a : Nat) : Nat :=
  let r := s.routing
  if a = 0x3000 then dwordOf r.buildAddr.toNat 0
  else if a = 0x3004 then dwordOf r.buildAddr.toNat 1
  else if a = 0x3008 then r.buildTen + 4096 * r.buildFam
  else if a = 0x300C then r.buildCount
  else if a = 0x3014 then flagAt r.busy 0 + flagAt r.done 1 + flagAt r.refused 2 + 16 * r.cause + 65536 * r.entry
  else if a = 0x3018 then r.trieGen.toNat
  else if 0x3020 ≤ a ∧ a ≤ 0x303C then s.stageUsed ((a - 0x3020) / 4)
  else if a = 0x3040 then s.routesUsed
  else if a = 0x3048 then r.rootSel
  else if a = 0x304C then s.selTrie.length
  else if a = 0x3050 then s.rootEntries
  else if a = 0x3054 then r.hitSel
  else if a = 0x3058 then (s.selTrie[r.hitSel]?).elim 0 (·.hits)
  else if 0x3100 ≤ a ∧ a < 0x3200 then s.readTerm ((a - 0x3100) / 32) (a % 32)
  else if a = 0x3200 then r.flushTen + flagAt r.flushBusy 17
  else if 0x3240 ≤ a ∧ a ≤ 0x325C then ((List.range 8).map fun i => s.steerOf (8 * ((a - 0x3240) / 4) + i) * 16 ^ i).sum
  else 0

/-! ### VAULTMBX, LIFECYCLE and mailboxes (R148, R374, R459) -/

/-- VAULTMBX (R374). -/
def State.readVault (s : State) (a : Nat) : Nat :=
  let w := s.worlds
  if a < 0x3500 then leAt (fit 256 w.req) (a - 0x3400) 4
  else if a < 0x3600 then leAt (fit 256 w.rsp) (a - 0x3500) 4
  else if a = 0x3600 then flagAt w.go 0 + flagAt w.done 1 + flagAt w.overrun 2
  else if a = 0x3604 then w.hearth.status + 4 * w.bench.status + 65536 * w.hbi.toNat
  else if a = 0x3608 then w.hearth.restarts + 65536 * w.bench.restarts
  else 0

/-- LIFECYCLE (R459). -/
def State.readLife (s : State) (a : Nat) : Nat :=
  let l := s.life
  if a = 0x3800 then
    s.lifeCode + 256 * onesB l.tokenUsed + 4096 * onesB l.relock + flagAt l.ownerHash.isSome 16 + flagAt s.trims.wipePending.isSome 17
  else if a = 0x3804 then l.scope.toNat
  else if a = 0x3808 then l.authFails + flagAt l.nonce.isSome 4 + flagAt l.unsignedUsed 5
  else if a = 0x380C then tget 3 l.boot 0 + 4 * tget 3 l.boot 1 + 16 * tget 3 l.boot 2
  else 0

/-- A mailbox page (R148). -/
def State.readMbx (s : State) (n off : Nat) : Nat :=
  let x := s.fnOf n
  if off < 0x1C then dwordOf x.toMsg.toNat (off / 4)
  else if off = 0x1C then flagAt x.toDoor 0 + flagAt x.toAcked 2 + flagAt x.toOver 3
  else if off < 0x3C then dwordOf x.fromMsg.toNat ((off - 0x20) / 4)
  else if off = 0x3C then flagAt x.fromDoor 0 + flagAt x.fromAcked 2 + flagAt x.fromOver 3
  else 0

/-! ### The pages -/

/-- A read of PF BAR0, by its block (R66). -/
def State.readPf (s : State) (a : Nat) : Nat :=
  if a < 0x0400 then s.readChip a
  else if a < 0x0800 then s.readHostif a
  else if a < 0x1400 then s.readQmgr a
  else if a < 0x1800 then s.readEngine a
  else if a < 0x1C00 then s.readRand a
  else if a < 0x2000 then s.readTamper a
  else if a < 0x2800 then s.readStore a
  else if a < 0x2C00 then s.readPower a
  else if a < 0x3000 then s.readCards a
  else if a < 0x3400 then s.readRoute a
  else if a < 0x3800 then s.readVault a
  else if a < 0x4000 then s.readLife a
  else if 0x4040 ≤ a ∧ a < 0x8000 then s.readMbx ((a - 0x4000) / 64) (a % 64)
  else 0

/-- A read of an MSI-X table and of the pending-bit array behind it (R65, R67, R78, R79): the array of the PF stands 0x8000 bytes after its
table, that of a VF 0x400 bytes. -/
def State.readMsix (s : State) (f a : Nat) : Nat :=
  let n := s.fnOf f
  let total := if f = 0 then 2048 else 64
  let pba := if f = 0 then 0x8000 else 0x400
  if s.chip.legacy then 0
  else if a < 16 * total then
    let e := tget 0 n.vecEntry (a / 16)
    let k := a % 16
    if k = 12 then flagAt (!tget false n.vecOpen (a / 16)) 0
    else dwordOf e.toNat (if k = 0 then 1 else if k = 4 then 2 else 0)
  else if pba ≤ a ∧ a < pba + total / 8 then maskWord (fun v => decide (v < total) && tget false n.vecPend v) ((a - pba) / 4)
  else 0

/-- A read of BAR0 of VF `n` (R67, R92, R148). -/
def State.readVf (s : State) (n a : Nat) : Nat :=
  let x := s.fnOf n
  if 0x100 ≤ a ∧ a < 0x140 then s.readMbx n (a - 0x100)
  else if 0x800 ≤ a ∧ a < 0xC08 then s.readMsix n (a - 0x800)
  else if s.chip.legacy then 0
  else if a = 0 then x.qsel
  else if a = 4 then x.queues
  else if a = 8 then x.qerr.toNat
  else if a < 0x50 then s.readContext n x.qsel a
  else 0

/-- A read of the Nolur 3 window (R538); it is present in legacy mode (R65). -/
def State.readLegacy (s : State) (a : Nat) : Nat :=
  let l := s.legacy
  if ¬ s.chip.legacy then 0
  else if a = 0x000 then 0x30334C4E
  else if a = 0x004 then flagAt l.busy 0 + flagAt l.irqEn 1
  else if a = 0x008 then
    flagAt l.busy 0 + flagAt l.done 1 + flagAt l.overrun 2 + flagAt l.event 3 + flagAt l.vault 4 + flagAt s.legacyReady 5
  else if a = 0x00C then l.reqLen
  else if a = 0x010 then l.rspLen
  else if a = 0x014 then l.count.toNat
  else if a = 0x018 then l.bindSlot
  else if a = 0x01C then flagAt l.bound 0 + flagAt l.refused 1 + 16 * l.cause + 256 * l.kcv.toNat
  else if 0x400 ≤ a ∧ a < 0xA00 then leAt (fit 1536 l.req) (a - 0x400) 4
  else if 0xA00 ≤ a ∧ a < 0x1000 then leAt (fit 1536 l.rsp) (a - 0xA00) 4
  else 0

/-- A read of 1 or 2 bytes of the Nolur 3 window gives those bytes of the word (R539). -/
def State.readNarrow (s : State) (n a : Nat) : Nat := leAt (leBytes 4 (s.readLegacy (a / 4 * 4))) (a % 4) n

/-- What the 32-bit register at offset `a` of a page reads; none for an Unsupported Request: the read is not aligned, or does not reach the
function (R71, R75, R81, R85). A read of 8 bytes is two reads, the lower address first. -/
def State.readReg (s : State) (page : Page) (a : Nat) : Option (BitVec 32) :=
  if ¬ s.barOpen page ∨ a % 4 ≠ 0 then none
  else some (BitVec.ofNat 32 (match page with
    | .bar0 fn => if fn = 0 then s.readPf a else s.readVf fn.toNat a
    | .msix fn => s.readMsix fn.toNat a
    | .bar4 => s.readLegacy a))

end Sys2Proof.Machine
end

