-- ==== Sys2Proof/WellFormed.lean ====
section
/-!
DEFINITION. Which commands are well-formed: the bounds that the spec sets on what stands outside the state and that the operand types
do not carry. A command that is not well-formed cannot reach the part; its meaning is total all the same.
-/
namespace Sys2Proof

/-- Scatter lists have at most 65,535 entries, the width of SRC_COUNT and DST_COUNT (R112). -/
def Dma.wf (d : Dma) : Bool := decide (d.srcList.length ≤ 65535) && decide (d.dstList.length ≤ 65535)

/-- A debug access is of 1, 2, 4 or 8 bytes (R420). -/
def DebugReq.wf (r : DebugReq) : Bool := [1, 2, 4, 8].contains r.size.toNat

/-- The bounds on the operands of a command. -/
def Instr.wf : Instr → Bool
  | .descriptorArrival _ _ descs => decide (1 ≤ descs.length) && decide (descs.length ≤ 8)
  | .vfEnable n _ => decide (n.toNat ≤ 255)
  | .atrReceived _ atr => decide (1 ≤ atr.length) && decide (atr.length ≤ 33)
  | .ppsResponse _ bytes => decide (bytes.length ≤ 6)
  | .t1BlockReceived _ block _ => decide (block.length ≤ 259)
  | .token t _ => decide (t.toNat < 8)
  | .tempReading tj => decide (-32768 ≤ tj) && decide (tj < 32768)
  | .debugAccess r => r.wf
  | .buildGo (.entries l) => decide (l.length ≤ 65536)
  | .buildGo (.failed _) => true
  | .cerCommit ⟨_, .blocks b⟩ => b.length % 512 == 0
  | .cerCommit ⟨_, .removed _⟩ | .cerCommit ⟨_, .failed _⟩ => true
  | .keyAttrRead _ d | .keyImport _ d | .keyExport _ d | .keySave _ d | .keyRestore _ d | .blobRewrap _ d | .attestSign _ d
  | .certRead _ d | .aesEcbEnc _ d | .aesEcbDec _ d | .aesCbcEnc _ d | .aesCbcDec _ d | .aesCfbEnc _ d | .aesCfbDec _ d
  | .aesCtrEnc _ d | .aesCtrDec _ d | .aesGcmEnc _ d | .aesGcmDec _ d | .aesCcmEnc _ d | .aesCcmDec _ d | .aesXtsEnc _ d
  | .aesXtsDec _ d | .aesKwWrap _ d | .aesKwUnwrap _ d | .aesKwpWrap _ d | .aesKwpUnwrap _ d | .tdesEcbEnc _ d
  | .tdesEcbDec _ d | .tdesCbcEnc _ d | .tdesCbcDec _ d | .seal _ d | .unseal _ d | .hash _ d | .hmacGen _ d | .hmacVer _ d
  | .aesCmacGen _ d | .aesCmacVer _ d | .aesGmacGen _ d | .aesGmacVer _ d | .tdesMacGen _ d | .tdesMacVer _ d
  | .tdesCmacGen _ d | .tdesCmacVer _ d | .planRun _ d | .planLoad _ d | .rsaPrivate _ d | .rsaPublic _ d | .rsaSign _ d
  | .rsaVerify _ d | .rsaOaepEncrypt _ d | .rsaOaepDecrypt _ d | .rsaKeygen _ d | .ecdsaSign _ d | .ecdsaVerify _ d
  | .ecdh _ d | .ecPublic _ d | .eddsaSign _ d | .eddsaVerify _ d | .xdh _ d | .mlkemKeygen _ d | .mlkemEncaps _ d
  | .mlkemDecaps _ d | .mldsaKeygen _ d | .mldsaSign _ d | .mldsaVerify _ d | .drbgInstantiate _ d | .drbgGenerate _ d
  | .drbgReseed _ d => d.wf
  | .perstNAssert .. | .powerOn .. | .supplyLoss .. | .startUp .. | .startUpEnd .. | .hotReset .. | .linkDown .. | .linkUp ..
  | .aspmL1Exit .. | .flr .. | .flrComplete .. | .pmStateChange .. | .configRequest .. | .unsupportedRequest ..
  | .tlpReceiveError .. | .dmaCompletionTimeout .. | .dmaReadError .. | .vectorUnmask .. | .registerWrite .. | .sqDoorbell ..
  | .cqDoorbell .. | .descriptorFetch .. | .steeringReadDone .. | .regionDispatch .. | .operationCompletion .. | .coalesceTimer ..
  | .schedulingEpoch .. | .rateWindow .. | .cellFault .. | .faultLevelDecay .. | .busIntegrityError .. | .regionWatchdogExpiry ..
  | .queueEnable .. | .queueDisable .. | .queueContextWrite .. | .qVectorWrite .. | .qselWrite .. | .funcQueuesWrite .. | .nop ..
  | .fence .. | .slotQuotaWrite .. | .storeQuotaWrite .. | .quotaPersist .. | .allowCommit .. | .drbgCountWrite .. | .shareWrite ..
  | .mbxToPfDoorbell .. | .mbxToPfAck .. | .mbxFromPfDoorbell .. | .mbxFromPfAck .. | .keyGenerate .. | .keyUnload .. | .keyMove ..
  | .temperPassStart .. | .temperSlotRewrite .. | .temperTempRead .. | .maskReseed .. | .planContextStart .. | .swageSlot ..
  | .planUnload .. | .routeLookup .. | .terminalInsert .. | .routeFlip .. | .trieReclaim .. | .terminalSweep .. | .rehashStart ..
  | .rehashFlip .. | .flush .. | .rehash .. | .termFlushGo .. | .termFlushDone .. | .yieldPoint .. | .preemptedResume ..
  | .hammerAbort .. | .drbgUninstantiate .. | .noiseCellFailure .. | .retest .. | .retestEnd .. | .entropyRetry ..
  | .seedDelivery .. | .stretchWindow .. | .internalReseed .. | .seedQueuePeakRead .. | .serviceEntry .. | .vaultmbxGo ..
  | .ringDoorbell .. | .hbiHello .. | .hbiAck .. | .hbiHelloRetry .. | .wdogKick .. | .hearthWatchdogExpiry .. | .hearthRestart ..
  | .benchWatchdogExpiry .. | .benchRestart .. | .interruptEntry .. | .zwmNop .. | .mov .. | .lea .. | .push .. | .pop ..
  | .leac .. | .kill .. | .add .. | .sub .. | .adc .. | .sbb .. | .mul .. | .mulhu .. | .divu .. | .remu .. | .zwmAnd ..
  | .zwmOr .. | .xor .. | .zwmNot .. | .shl .. | .shr .. | .sar .. | .rol .. | .cmp .. | .test .. | .selCc .. | .jmp .. | .bCc ..
  | .call .. | .ret .. | .rets .. | .iret .. | .macd .. | .accz .. | .accadd .. | .accst .. | .zwmRep .. | .repi .. | .tagof ..
  | .cls .. | .dcls .. | .rdctl .. | .ei .. | .di .. | .wfi .. | .fend .. | .hold .. | .holdAck .. | .holdClear .. | .lineSet ..
  | .lineSetDone .. | .mpuRuleWrite .. | .shield .. | .envelopeMismatch .. | .lid .. | .zeroize .. | .vbatReading ..
  | .quenchComplete .. | .groupClose .. | .classSet .. | .classPersist .. | .fuseDisable .. | .cerOpen .. | .cerStep ..
  | .cerAbort .. | .cerStatus .. | .setRead .. | .attestMac .. | .ceremonyWindowExpiry .. | .ceremonyIdleLimit ..
  | .cardInserted .. | .cardRemoved .. | .atrTimeout .. | .t1Timeout .. | .apduTimeout .. | .cardClockStop .. | .archiveWrite ..
  | .archiveRecorder .. | .archiveStatus .. | .archiveFormat .. | .cardIdentify .. | .sdCrcError .. | .sdBusyTimeout ..
  | .lcStatus .. | .lcAdvance .. | .authNonce .. | .authResponse .. | .nonceExpiry .. | .ownerKeyFuse .. | .imageBegin ..
  | .imageData .. | .imageCommit .. | .deviceRestart .. | .idcode .. | .sample .. | .extest .. | .bypass .. | .avsWindow ..
  | .avsReadback .. | .avsAlert .. | .avsSettingsWrite .. | .referenceLost .. | .referenceRestored .. | .rtcFail ..
  | .powerDownRequest .. | .powerDownDone .. | .powerUp .. | .hclaimSet .. | .hclaimRelease .. | .recordAppend ..
  | .recordCommit .. | .opsecCommit .. | .cursor .. | .windowAdvance .. | .settingsValueWrite .. | .store .. | .storeEnd ..
  | .canaryMeasure .. | .wearAccumulate .. | .batteryMeasure .. | .batReset .. | .legacyGo .. | .legacyResponseRelease ..
  | .lmkBind .. | .legSs .. | .legSv .. | .legSn .. | .legSe .. | .legSl .. | .legSc .. | .legSd .. | .legSa .. | .legRn ..
  | .legKg .. | .legKx .. | .legKi .. | .legKe .. | .legKc .. | .legKq .. | .legPt .. | .legPa .. | .legPd .. | .legPv ..
  | .legPw .. | .legPx .. | .legPy .. | .legVg .. | .legVv .. | .legVh .. | .legVj .. | .legVk .. | .legVl .. | .legQv ..
  | .legQa .. | .legQb .. | .legQw .. | .legQx .. | .legQy .. | .legMg .. | .legMv .. | .legDe .. | .legDd .. | .legEe ..
  | .legEd .. | .legKz .. | .legKl .. | .legKy .. | .legXa .. | .legXd .. | .legXp .. | .legPn .. | .legPr .. | .legPo ..
  | .legPg .. | .powerUpDone .. | .aspmL1Entry .. | .vbatConnect .. | .vbatLoss .. | .lidClose .. | .zeroizeRelease ..
  | .windowRead .. | .ringHeadWrite .. | .copyEnginePiece .. => true

end Sys2Proof
end

