-- ==== Sys2Proof/Safety.lean ====
section
/-!
DEFINITION. What counts as a safe run, and the predicates in which the statements speak of states.
-/
namespace Sys2Proof.Machine

/-- A run stays safe: every step answers a next state. -/
def State.Safe (s : State) : Prop := ∀ n, ∃ t, Host.Core.run Sys2Proof.core n s = .next t

/-- Operation `op` has ended and waits for its completion entry, with these fields (R106, R128). -/
def State.Ended (s : State) (op status detail outLen : Nat) (result : Bytes) : Prop :=
  ∃ o, s.opOf op = some o ∧ o.stage = .done ∧ o.status = BitVec.ofNat 16 status ∧ o.detail = BitVec.ofNat 32 detail ∧
    o.outLen = outLen ∧ o.result = result ∧ o.keys = []

/-- A block holds operation `op` with an opcode. -/
def State.InBlock (s : State) (op opcode : Nat) (o : Op) : Prop :=
  s.opOf op = some o ∧ o.opcode = opcode ∧ o.stage = .block

/-- The state after an operation has read what it needs of host memory: its lists, its parameter block, its additional data and its payload,
each once (R115, R127). -/
def State.hasRead (o : Op) (dma : Dma) (s : State) : State := (s.readLists o).readData o dma

/-- The state from which an operation goes on once Bellows has served it: it has taken the blocks. -/
def State.used (op : Nat) (s : State) : State := s.modOp op fun x => { x with seed := none }

/-- Bellows has what operation `o` asks for: the blocks `e` have been delivered to it; or it asks for none, Bellows is in OK and nothing of
it waits there (R342, R344). -/
def State.Fed (s : State) (o : Op) (blocks : Nat) (e : Bytes) : Prop :=
  o.seed = some e ∨ (blocks = 0 ∧ e = [] ∧ o.seed = none ∧ s.bellows.state = .ok ∧ s.waitsSeed (.op o.id) = false)

/-- It is the turn of operation `o` at its instance, and a generator core is free for it or holds it (R347). -/
def State.Turn (s : State) (o : Op) : Prop := (s.askInst o.id).askedBefore o = [] ∧ s.coreFor o.id ≠ none

/-- The local instance of `o` answers a generate request at once: it is instantiated, its interval is not over, Bellows is in OK, nothing
of the operation waits there, and its turn has come (R342, R346 to R348). -/
def State.DrawsNow (s : State) (o : Op) : Prop :=
  (s.instOf o.fn (dDrbg o.desc)).up = true ∧ (s.instOf o.fn (dDrbg o.desc)).stalled = false ∧ s.bellows.state = .ok ∧
    s.waitsSeed (.op o.id) = false ∧ o.seed = none ∧ s.Turn o

/-- The state after `o` has drawn `n` bytes from its local instance, which `x` becomes: the request is over and its bytes count in rate
class 5 (R33, R347, R348, R350). -/
def State.drew (o : Op) (n : Nat) (x : Inst) (s : State) : State :=
  State.countRate 5 0 n (State.served o.id (((s.askInst o.id).used o.id).setInst o.fn (dDrbg o.desc) x))

/-- The `n` bytes that one generate request to the internal instance of Bellows gives (R323, R325). -/
def State.blindBytes (n : Nat) (s : State) : Bytes := (genInst s.bellows.internal n []).1

/-- The state after a job has drawn `n` bytes from the internal instance, which count in rate class 5 (R323, R350). -/
def State.drewBlind (n : Nat) (s : State) : State :=
  State.countRate 5 0 n { s with bellows := { s.bellows with internal := (genInst s.bellows.internal n []).2 } }

/-- A unit is idle for a job of the Hearth, which has none waiting for a unit and none that a preemption has just put on one (R308, R328). -/
def State.HearthUnit (s : State) : Prop :=
  (s.chooseUnit true).isSome = true ∧ ∀ u ∈ s.hammer.units, u.2.job ≠ some 0 ∧ u.2.marked ≠ some 0

/-- The state after the Hearth has taken the bytes that Bellows drew for it (R344). -/
def State.tookDraw (s : State) : State := { s with bellows := { s.bellows with given := none } }

/-- The state in which a job of the Hearth goes on with the bytes drawn for it: it has drawn the seed of its shares (R323, R344). -/
def State.hearthRuns (s : State) : State := (s.drewBlind shareBytes).tookDraw

/-- A Hammer unit runs the job of operation `op` (R308). -/
def State.OnUnit (s : State) (op opcode : Nat) (o : Op) : Prop :=
  s.InBlock op opcode o ∧ (s.unitOf (o.block - 0x40)).job = some op

/-- A sound blob of a kind with a use bit stands in the key part of the operation's source, with this material (R315, R317). -/
def State.BlobOf (s : State) (o : Op) (dma : Dma) (kind useBit : Nat) (m : Bytes) : Prop :=
  let b := keyPart o dma
  pKeyLen o = 32 + leAt b 12 4 ∧ pKeyLen o ≤ dDlen o.desc ∧ s.blobFault b o.tenant [1, 2, 3, 4] = none ∧
    s.openBlob b o.tenant = some m ∧ (byteAt b 5).toNat = kind ∧ leAt b 10 2 = dPlan o.desc ∧
    (byteAt m 0).toNat.testBit useBit = true ∧ leAt m 1 7 = 0

/-- The Hearth runs the service of operation `op`, an opcode of the Rack, and the Rack is in service (R361, R362). -/
def State.Serving (s : State) (op opcode : Nat) (o : Op) : Prop :=
  s.opOf op = some o ∧ o.opcode = opcode ∧ o.stage = .channel ∧ s.worlds.running = some (.chan op) ∧ (s.blockOf 0x12).out = false

/-- Slot `n` holds a sound key of the operation's tenant (R157, R159, R161). -/
def State.Holds (s : State) (o : Op) (n : Nat) : Prop :=
  aValid (s.slotOf n).attr = true ∧ (s.slotOf n).check = s.checkOf n (s.slotOf n) ∧ aTenant (s.slotOf n).attr = o.tenant

/-- `n` is the target of an operation that places a key: the slot it names, empty, or the lowest-numbered empty one (R165). -/
def State.Target (s : State) (o : Op) (named n : Nat) : Prop :=
  (anyFlag o = false ∧ n = named ∧ aValid (s.slotOf n).attr = false) ∨ (anyFlag o = true ∧ named = 0 ∧ s.lowestEmpty = some n)

/-- What an operation of a block leaves alone: the commands waiting, the balls, the chip, the link, functions and queues, keys,
battery-backed contents, trims, tamper, life cycle, power, stores, the legacy window, and every other operation. -/
def State.OutsideSame (s t : State) (op : Nat) : Prop :=
  t.pending = s.pending ∧ t.now = s.now ∧ t.pins = s.pins ∧ t.chip = s.chip ∧ t.link = s.link ∧ t.fns = s.fns ∧
    t.queues = s.queues ∧ t.qmgr = s.qmgr ∧ t.rack.slots = s.rack.slots ∧ t.rack.caches = s.rack.caches ∧ t.crucible = s.crucible ∧ t.trims = s.trims ∧
    t.tamper = s.tamper ∧ t.life = s.life ∧ t.power = s.power ∧ t.store = s.store ∧ t.legacy = s.legacy ∧
    ∀ j, j ≠ op → t.opOf j = s.opOf j

/-! ### Instructions of the word machine -/

/-- The bytes of an instruction: opcode, size byte, specifiers with their extensions (R393). -/
def insnBytes (op : Nat) (sz : BitVec 8) (ops : List Spec) : Bytes := BitVec.ofNat 8 op :: sz :: ops.flatMap specBytes

/-- Core `c` is ready for the instruction with this opcode: it runs, no prefix is in force, the instruction's bytes stand at PC in words tagged
CODE, and its encoding is legal (R393, R397). -/
def State.Ready (s : State) (c op : Nat) (f : SizeForm) (sz : BitVec 8) (dests : Nat) (ops : List Spec) : Prop :=
  s.coreRuns c = true ∧ (s.coreOf c).rep = none ∧ s.fetchCheck c true (s.coreOf c).pc (insnBytes op sz ops) = .ok () ∧
    encodingOk f sz dests ops = true

/-- `t` with the PC of core `c` past an instruction that stood at `pc` (R393). -/
def State.past (c : Nat) (pc : BitVec 64) (ops : List Spec) (t : State) : State :=
  t.modCore c fun x => { x with pc := pc + BitVec.ofNat 64 (insnLen ops) }

/-- `t` with the PC of core `c` at `a`. -/
def State.jumped (c : Nat) (a : BitVec 64) (t : State) : State := t.modCore c fun x => { x with pc := a }

/-- Operands d, a, b of core `c` evaluate, from left to right, to the place `q` and the words `x` and `y`; `t` is the state after that,
in which post-increments and pre-decrements have taken effect (R387, R394). -/
def State.Takes3 (s : State) (c n : Nat) (d a b : Spec) (q : Place) (x y : TWord) (t : State) : Prop :=
  ∃ s₁ s₂, s.dst c (s.coreOf c).pc n 0 d = .ok (q, s₁) ∧ s₁.src c (s.coreOf c).pc n 1 a = .ok (x, s₂) ∧
    s₂.src c (s.coreOf c).pc n 2 b = .ok (y, t)

/-- Operands d and a of core `c` evaluate to the place `q` and the word `x`. -/
def State.Takes2 (s : State) (c n : Nat) (d a : Spec) (q : Place) (x : TWord) (t : State) : Prop :=
  ∃ s₁, s.dst c (s.coreOf c).pc n 0 d = .ok (q, s₁) ∧ s₁.src c (s.coreOf c).pc n 1 a = .ok (x, t)

/-- Sources a and b of core `c` evaluate to the words `x` and `y`. -/
def State.Reads2 (s : State) (c n : Nat) (a b : Spec) (x y : TWord) (t : State) : Prop :=
  ∃ s₁, s.src c (s.coreOf c).pc n 0 a = .ok (x, s₁) ∧ s₁.src c (s.coreOf c).pc n 1 b = .ok (y, t)

/-- Instruction `i` with the operands d, a, b completes: what `out` computes from the size, both numbers and the carry is written to d
with the result tag, the flags are set from it, and PC moves past the instruction (R388, R392, R397). `op` is its opcode, `pre` bounds the numbers. -/
def State.Computes (s : State) (i : Instr) (c : Fin 5) (op : Nat) (sz : BitVec 8) (d a b : Spec) (u : AddrUse) (readsC : Bool)
    (pre : Nat → Nat → Prop) (out : Nat → Nat → Nat → Nat → AluOut) : Prop :=
  ∀ q x y g s₁ s₂ o, s.Ready c op .any sz 1 [d, a, b] → s.Takes3 c (szBytes sz) d a b q x y s₁ →
    resultTag u x y (readsC && s₁.flag c 4) = .ok g → pre x.val.toNat y.val.toNat →
    o = out (szBytes sz) x.val.toNat y.val.toNat (if s₁.flag c 0 then 1 else 0) →
    (g = tAddr → colourOf (BitVec.ofNat 64 o.r) = addrColour x y) →
    s₁.put c (szBytes sz) q { val := BitVec.ofNat 64 o.r, tag := g } = .ok s₂ →
    exec i s = .next ((s₂.setFlags c (szBytes sz) o (g == tSecret)).past c (s.coreOf c).pc [d, a, b])

/-- A shift completes: as above with the low bits of b as the count, for some value of V, which the rules leave open (R392). -/
def State.Shifts (s : State) (i : Instr) (c : Fin 5) (op : Nat) (sz : BitVec 8) (d a b : Spec) (out : Nat → Nat → Nat → AluOut) : Prop :=
  ∀ q x y g s₁ s₂ o, s.Ready c op .any sz 1 [d, a, b] → s.Takes3 c (szBytes sz) d a b q x y s₁ →
    resultTag .none x y false = .ok g → o = out (8 * szBytes sz) x.val.toNat (y.val.toNat % (8 * szBytes sz)) →
    (s₁.drawn 1).put c (szBytes sz) q { val := BitVec.ofNat 64 o.r, tag := g } = .ok s₂ →
    ∃ v, exec i s = .next ((s₂.setFlags c (szBytes sz) { o with v := v } (g == tSecret)).past c (s.coreOf c).pc [d, a, b])

/-- An instruction that sets no flags completes: what `f` makes of the source word is written to d, and PC moves past the instruction. -/
def State.Moves (s : State) (i : Instr) (c : Fin 5) (op : Nat) (sz : BitVec 8) (d a : Spec) (f : TWord → Option TWord) : Prop :=
  ∀ q x v s₁ s₂, s.Ready c op .any sz 1 [d, a] → s.Takes2 c (szBytes sz) d a q x s₁ → f x = some v →
    s₁.put c (szBytes sz) q v = .ok s₂ → exec i s = .next (s₂.past c (s.coreOf c).pc [d, a])

/-- Everything of the machine but the cores, their memories and what an access draws is the same. -/
def State.CoresOnly (s t : State) : Prop := t = { s with zwm := t.zwm, free := t.free }

/-- Core `c` takes a fault: its registers, its accumulator and all memories are unchanged, the fault registers are written, FH is set,
IE is cleared, and PC is at the fault entry of its image (R405). -/
def State.Faults (s t : State) (c code opnd : Nat) (addr : BitVec 64) : Prop :=
  let x := s.coreOf c
  let y := t.coreOf c
  y.regs = x.regs ∧ y.acc = x.acc ∧ y.accTag = x.accTag ∧ y.fl = (x.fl ||| 0x40) &&& ~~~ 0x20 ∧
    y.fcause = BitVec.ofNat 13 (code + 256 * opnd + (if x.rep.isSome then 4096 else 0)) ∧ y.fpc = x.pc ∧ y.faddr = addr ∧
    y.frep = BitVec.ofNat 64 (s.repLeft c) ∧ y.rep = none ∧ y.pc = BitVec.ofNat 64 (imageBase c + 0xC0) ∧
    (∀ k, k ≠ c → t.coreOf k = s.coreOf k) ∧ t.zwm.hmem = s.zwm.hmem ∧ t.zwm.bmem = s.zwm.bmem ∧ t.zwm.msg = s.zwm.msg ∧
    t.pending = s.pending

/-! ### Commands of the legacy window -/

/-- The Hearth runs a legacy command of this code with these fields (R542, R550). -/
def State.Asked (s : State) (code : String) (f : List Bytes) : Prop :=
  s.worlds.running = some .legacy ∧ legCode s.legacy.snap = ascii code ∧ s.legacy.answer = none ∧ legFields s.legacy.snap = f

/-- The slot that holds the LMK, where one does, passes the check of the control port (R157). -/
def State.LmkSound (s : State) : Prop := ∀ n, s.legacy.lmkSlot = some n → (s.slotOf n).check = s.checkOf n (s.slotOf n)

/-- The command's response is formed: TAG and code echoed, the status, the fields. The service ends; keys, commands waiting, life cycle
and chip state are unchanged (R542, R550). -/
def State.Answered (s t : State) (status : String) (fields : List Bytes) : Prop :=
  t.legacy = { s.legacy with answer := some (legacyFrame s.legacy.snap (ascii status) fields) } ∧ t.worlds.running = none ∧
    t.rack = s.rack ∧ t.chip = s.chip ∧ t.life = s.life ∧ t.crucible = s.crucible ∧ t.vault = s.vault ∧ t.pending = s.pending

/-- Command `c` runs plan `plan` on `x`: a plan without an error bit answers A00 with `fields`, another the status of its lowest
error bit (R549); with no pipeline in service the answer is S02. -/
def State.RunsPlan (s : State) (c : Instr) (plan : Nat) (x : Payment.Txn) (fields : Payment.End → List Bytes) : Prop :=
  (s.noPipe = true → ∃ t, exec c s = .next t ∧ s.Answered t "S02" []) ∧
  ∀ e, s.noPipe = false → Payment.run plan x = some e → ∃ t, exec c s = .next t ∧
    (planStatus e.err = none → s.Answered t "A00" (fields e)) ∧ ∀ st, planStatus e.err = some st → s.Answered t st []

/-- Command `c` runs a verify plan: a verdict of 1 answers V01 (R546); with no pipeline in service the answer is S02. -/
def State.RunsVerify (s : State) (c : Instr) (plan : Nat) (x : Payment.Txn) (fields : Payment.End → List Bytes) : Prop :=
  (s.noPipe = true → ∃ t, exec c s = .next t ∧ s.Answered t "S02" []) ∧
  ∀ e, s.noPipe = false → Payment.run plan x = some e → ∃ t, exec c s = .next t ∧
    (planStatus e.err = none → byteAt e.result 0 = 0 → s.Answered t "A00" (fields e)) ∧
    (planStatus e.err = none → byteAt e.result 0 ≠ 0 → s.Answered t "V01" []) ∧ ∀ st, planStatus e.err = some st → s.Answered t st []

/-! ### Invariants -/

/-- The Rack's slots are in canonical form: slot numbers rise, and a slot that is listed differs from an erased one. -/
def State.RackSound (s : State) : Prop := twf {} s.rack.slots = true

/-- The memories of both worlds, the message memory and the ROM are in canonical form. -/
def State.MemSound (s : State) : Prop :=
  twf {} s.zwm.hmem = true ∧ twf {} s.zwm.bmem = true ∧ twf {} s.zwm.msg = true ∧ twf {} s.zwm.rom = true

/-- The event queue of the store and the battery-backed buffer hold at most 256 and 64 entries (R442, R516). -/
def State.QueuesBounded (s : State) : Prop := s.store.queue.length ≤ 256 ∧ s.crucible.batRecs.length ≤ 64

end Sys2Proof.Machine
end

