-- ==== Sys2Proof/Certificates/Slice0/Obligations.lean ====
section
/-!
DEFINITION. The statements for the provers. Each docstring names the rules of the spec that it states.
-/
open Sys2Proof Sys2Proof.Machine

/-! ### Reset, supplies and link (02, 17) -/

/-- R84, R466, R441: outside a Quench PERST_N resets the chip with cause 1 and power-on with cause 2; a loss of main power holds it in
reset. Each leaves state START, the Rack, the functions and the queues as after reset and no operation in flight; the life-cycle fuses
stay. The Crucible keeps its contents while VBAT or main power is there, and is empty without both. R87: a PERST_N asserted while a Quench
runs changes nothing but the ball and the chip reset that waits for the Quench's end. R84, R85, R151: a hot reset, an FLR of the PF and a
link that goes down put every function under reset, end every operation, empty every queue context, clear VF Enable and keep the chip, the
Rack, the Crucible and the store; the link is down after all but the FLR, and a link that went down is counted. An FLR of a VF resets that
function alone; FLR_COMPLETE takes a function out of reset. -/
def Obligations.Resets : Prop :=
  ((∀ s : State, s.tamper.quench = false → ∃ t, exec .perstNAssert s = .next t ∧ t.chip.state = .start ∧ t.chip.resetCause = 1 ∧
     t.pins.perstN = false ∧ t.rack = {} ∧ t.fns = [] ∧ t.queues = [] ∧ t.engine.tasks = [] ∧ t.crucible = s.crucible ∧
     t.life.stage = s.life.stage ∧ t.trims = s.trims ∧ t.pending = s.pending) ∧
   (∀ s : State, s.pins.mainPower = false → ∃ t, exec .powerOn s = .next t ∧ t.chip.state = .start ∧ t.chip.resetCause = 2 ∧
     t.chip.held = (!s.pins.refClock) ∧ t.pins.mainPower = true ∧ t.rack = {} ∧ t.fns = [] ∧ t.queues = [] ∧ t.engine.tasks = [] ∧
     t.crucible = s.crucible ∧ t.life.stage = s.life.stage ∧ t.trims = s.trims ∧ t.pending = s.pending) ∧
   (∀ s : State, s.pins.mainPower = true → ∃ t, exec .supplyLoss s = .next t ∧ t.chip.state = .start ∧ t.chip.held = true ∧
     t.pins.mainPower = false ∧ t.rack = {} ∧ t.fns = [] ∧ t.queues = [] ∧ t.engine.tasks = [] ∧ t.life.stage = s.life.stage ∧
     t.trims = s.trims ∧ t.pending = s.pending ∧ t.crucible = (if s.pins.vbat then { s.crucible with tripped := false } else {})) ∧
   (∀ s : State, exec .vbatLoss s =
     .next { s with pins := { s.pins with vbat := false }, crucible := if s.pins.mainPower then s.crucible else {} }) ∧
   (∀ s : State, s.pins.vbat = false → exec .vbatConnect s =
     .next { s with pins := { s.pins with vbat := true }, crucible := if s.pins.mainPower then s.crucible else {} })) ∧
  (∀ s : State, s.tamper.quench = true →
     exec .perstNAssert s = .next { s with pins := { s.pins with perstN := false }, chip := { s.chip with resetPending := some 1 } }) ∧
  ((∀ s : State, ∃ t, exec .hotReset s = .next t ∧ (∀ f, s.exists? f = true → (t.fnOf f).flr = true ∧ (t.fnOf f).msixEn = false ∧
       (t.fnOf f).queues = (s.fnOf f).queues) ∧ t.queues = [] ∧ t.engine.tasks = [] ∧ t.link.vfEnable = false ∧ t.link.speed = 0 ∧
     t.link.width = 0 ∧ t.chip = s.chip ∧ t.rack.slots = s.rack.slots ∧ t.crucible = s.crucible ∧ t.store = s.store) ∧
   (∀ s : State, ∃ t, exec (.flr 0) s = .next t ∧ (∀ f, s.exists? f = true → (t.fnOf f).flr = true ∧ (t.fnOf f).msixEn = false ∧
       (t.fnOf f).queues = (s.fnOf f).queues) ∧ t.queues = [] ∧ t.engine.tasks = [] ∧ t.link.vfEnable = false ∧
     t.link.speed = s.link.speed ∧ t.link.width = s.link.width ∧ t.chip = s.chip ∧ t.rack.slots = s.rack.slots ∧
     t.crucible = s.crucible ∧ t.store = s.store) ∧
   (∀ s : State, ∃ t, exec .linkDown s = .next t ∧ (∀ f, s.exists? f = true → (t.fnOf f).flr = true) ∧ t.queues = [] ∧
     t.engine.tasks = [] ∧ t.link.vfEnable = false ∧ t.link.speed = 0 ∧ t.link.width = 0 ∧
     t.link.downCount = (if s.link.downCount < 65535 then s.link.downCount + 1 else s.link.downCount) ∧ t.chip = s.chip ∧
     t.rack.slots = s.rack.slots ∧ t.crucible = s.crucible ∧ t.store = s.store) ∧
   (∀ (s : State) (f : BitVec 8), f ≠ 0 → s.exists? f.toNat = true → (s.engine.tasks.map Op.id).Nodup →
     ∃ t, exec (.flr f) s = .next t ∧ (t.fnOf f.toNat).flr = true ∧ (t.fnOf f.toNat).msixEn = false ∧
       (t.fnOf f.toNat).queues = (s.fnOf f.toNat).queues ∧ (∀ q, q < 4096 → t.queueOf f.toNat q = {}) ∧
       t.engine.tasks = (s.engine.tasks.filter fun o => o.fn != f.toNat) ∧ (∀ g, g ≠ f.toNat → t.fnOf g = s.fnOf g) ∧
       (∀ g q, g ≠ f.toNat → q < 4096 → t.queueOf g q = s.queueOf g q) ∧ t.chip = s.chip ∧ t.rack.slots = s.rack.slots ∧
       t.crucible = s.crucible ∧ t.store = s.store) ∧
   (∀ (s : State) (f : BitVec 8), twf {} s.fns = true → ∃ t, exec (.flrComplete f) s = .next t ∧
     t.fnOf f.toNat = { s.fnOf f.toNat with flr := false } ∧ (∀ g, g ≠ f.toNat → t.fnOf g = s.fnOf g) ∧ t = { s with fns := t.fns }))

/-- R53, R58, R63, R81: LINK_UP gives the link a speed and a width; ASPM_L1_ENTRY puts it into L1, L1.1 or L1.2, of which L1.2 releases
CLKREQ_N, and ASPM_L1_EXIT brings it back; PM_STATE_CHANGE changes the power state; VF_ENABLE sets VF Enable, VF Memory Space Enable and,
where VF Enable was 0, NumVFs. None changes anything else. In legacy mode VF_ENABLE changes nothing. R59, R71, R75, R79, R81, R83, R85: a
configuration request is answered with retry status before the end of start-up and while its function is under reset, and with Unsupported
Request for a function that does not exist; the first dword of the PF and of a VF reads its IDs, and a write of NumVFs takes effect while
VF Enable is 0. An unsupported read is answered with Unsupported Request; an unsupported write and an error of a received packet set the
error's status bit in the function's AER capability and change no other function, an ECRC error only where checking is on. Unmasking a
vector, or the function, opens it; a message that was pending on it leaves. -/
def Obligations.LinkCommands : Prop :=
  ((∀ (s : State) (v w : Fin 5), exec (.linkUp v w) s =
     .next { s with link := { s.link with speed := v.val + 1, width := 2 ^ w.val } }) ∧
   (∀ s : State, exec .aspmL1Exit s =
     .next { s with link := { s.link with aspm := .l0 }, pins := { s.pins with clkreqLow := true } }) ∧
   (∀ s : State, exec (.aspmL1Entry 0) s = .next { s with link := { s.link with aspm := .l1 } } ∧
     exec (.aspmL1Entry 1) s = .next { s with link := { s.link with aspm := .l11 } } ∧
     exec (.aspmL1Entry 2) s = .next { s with link := { s.link with aspm := .l12 }, pins := { s.pins with clkreqLow := false } }) ∧
   (∀ (s : State) (d : Bool), exec (.pmStateChange d) s = .next { s with link := { s.link with d3hot := d } }) ∧
   (∀ (s : State) (n : BitVec 16) (m : Bool), s.chip.legacy = false → exec (.vfEnable n m) s =
     .next { s with link := { s.link with numVfs := if s.link.vfEnable then s.link.numVfs else n.toNat, vfEnable := true, vfMse := m } }) ∧
   (∀ (s : State) (n : BitVec 16) (m : Bool), s.chip.legacy = true → exec (.vfEnable n m) s = .next s)) ∧
  ((∀ (s : State) (f : BitVec 8) (w : Option (BitVec 32)) (d : BitVec 10), s.chip.crs = true ∨ (s.fnOf f.toNat).flr = true →
     exec (.configRequest f w d) s = .next (s.emit .crs)) ∧
   (∀ (s : State) (f : BitVec 8) (w : Option (BitVec 32)) (d : BitVec 10), s.chip.crs = false → (s.fnOf f.toNat).flr = false →
     s.exists? f.toNat = false → exec (.configRequest f w d) s = .next (s.emit .unsupported)) ∧
   (∀ (s : State) (f : BitVec 8), s.chip.crs = false → (s.fnOf f.toNat).flr = false → s.exists? f.toNat = true →
     exec (.configRequest f none 0) s = .next (s.emit (.config (if f = 0 then 0x48401F3C else 0x4841FFFF)))) ∧
   (∀ (s : State) (v : BitVec 32), s.chip.crs = false → (s.fnOf 0).flr = false → s.chip.legacy = false → s.link.vfEnable = false →
     exec (.configRequest 0 (some v) 0xA8) s = .next { s with link := { s.link with numVfs := bits v 15 0 } }) ∧
   (∀ (s : State) (f : BitVec 8), exec (.unsupportedRequest f false) s = .next (s.emit .unsupported)) ∧
   (∀ (s : State) (f : BitVec 8), ∃ t, exec (.unsupportedRequest f true) s = .next t ∧ (t.fnOf f.toNat).uncSt.getLsbD 20 = true ∧
     (∀ g, g ≠ f.toNat → t.fnOf g = s.fnOf g) ∧ t = { s with fns := t.fns, sent := t.sent }) ∧
   (∀ (s : State) (f : BitVec 8) (e : AerErr) (b : Nat), (e, b) ∈ [(AerErr.poisoned, 12), (.unsupportedRequest, 20), (.malformed, 18),
       (.receiverOverflow, 17), (.ecrc, 19)] → e ≠ .ecrc ∨ s.link.ecrcChk = true → ∃ t, exec (.tlpReceiveError f e) s = .next t ∧
     (t.fnOf f.toNat).uncSt.getLsbD b = true ∧ (∀ g, g ≠ f.toNat → t.fnOf g = s.fnOf g) ∧ t = { s with fns := t.fns, sent := t.sent }) ∧
   (∀ (s : State) (f : BitVec 8) (e : AerErr) (b : Nat), (e, b) ∈ [(AerErr.receiver, 0), (.badTlp, 6), (.badDllp, 7), (.replay, 12)] →
     ∃ t, exec (.tlpReceiveError f e) s = .next t ∧ (t.fnOf f.toNat).corSt.getLsbD b = true ∧
       (∀ g, g ≠ f.toNat → t.fnOf g = s.fnOf g) ∧ t = { s with fns := t.fns, sent := t.sent }) ∧
   (∀ (s : State) (f : BitVec 8), s.link.ecrcChk = false → exec (.tlpReceiveError f .ecrc) s = .next s) ∧
   (∀ (s : State) (f : BitVec 8) (v : BitVec 11), (s.fnOf f.toNat).vecPend = [] → exec (.vectorUnmask f (some v)) s =
     .next (s.modFn f.toNat fun n => { n with vecOpen := tset false v.toNat true n.vecOpen })) ∧
   (∀ (s : State) (f : BitVec 8), (s.fnOf f.toNat).vecPend = [] → exec (.vectorUnmask f none) s =
     .next (s.modFn f.toNat fun n => { n with funcMask := false })) ∧
   (∀ (s : State) (f : BitVec 8) (v : BitVec 11), (s.fnOf f.toNat).vecPend = [(v.toNat, true)] → (s.fnOf f.toNat).msixEn = true →
     (s.fnOf f.toNat).funcMask = false → ∃ t, exec (.vectorUnmask f (some v)) s = .next t ∧ t.sent = .msix f.toNat v.toNat :: s.sent ∧
       (t.fnOf f.toNat).vecPend = [] ∧ tget false (t.fnOf f.toNat).vecOpen v.toNat = true ∧ (∀ g, g ≠ f.toNat → t.fnOf g = s.fnOf g) ∧
       t = { s with fns := t.fns, sent := t.sent }))

/-! ### Queues (03) -/

/-- R91, R93, R94, R95: a write to a context register of a disabled, drained queue that the selected function holds changes that register
alone; a ring base with low bits, a DEPTH that is no power of two from 2 to 65,536 and an enabled vector of another use change nothing but
their error bit. A write of a queue that is enabled or not drained sets CTX_BUSY, one of a queue that is not held RANGE, and neither
changes anything else. R93, R97, R98: the selector takes the value; a disabled, drained queue with a DEPTH is enabled with fresh indices
and phase 1, and keeps its DEPTH and bases; a disable gives up the reads under way and keeps what was fetched. Another queue does not
change. R88, R96: a new count for the selected function, whose queues are all disabled and drained, that the pool can serve moves queues
between the pool and the function, whose counts keep their sum; no other function changes. A count above 4,096 or beyond the pool sets
ALLOC_REFUSED and changes nothing else. -/
def Obligations.QueueRegisters : Prop :=
  ((∀ (s : State) (p : BitVec 8) (v : BitVec 32) (f q : Nat), s.pageOpen p.toNat = true → s.selected p.toNat = (f, q) →
     s.holdsQueue f q = true → (s.queueOf f q).enable = false → (s.queueOf f q).drained = true →
     (v.extractLsb' 0 6 = 0 → exec (.queueContextWrite p .sqLo v) s =
       .next (s.modQueue f q fun c => { c with sqBase := c.sqBase.extractLsb' 32 32 ++ v })) ∧
     exec (.queueContextWrite p .sqHi v) s = .next (s.modQueue f q fun c => { c with sqBase := v ++ c.sqBase.extractLsb' 0 32 }) ∧
     (v.extractLsb' 0 6 = 0 → exec (.queueContextWrite p .cqLo v) s =
       .next (s.modQueue f q fun c => { c with cqBase := c.cqBase.extractLsb' 32 32 ++ v })) ∧
     exec (.queueContextWrite p .cqHi v) s = .next (s.modQueue f q fun c => { c with cqBase := v ++ c.cqBase.extractLsb' 0 32 }) ∧
     (v.extractLsb' 0 6 ≠ 0 → exec (.queueContextWrite p .sqLo v) s = .next (s.queueError p.toNat 2) ∧
       exec (.queueContextWrite p .cqLo v) s = .next (s.queueError p.toNat 2)) ∧
     ((∃ k, 1 ≤ k ∧ k ≤ 16 ∧ (v.extractLsb' 0 17).toNat = 2 ^ k) → exec (.queueContextWrite p .depth v) s =
       .next (s.modQueue f q fun c => { c with depth := (v.extractLsb' 0 17).toNat })) ∧
     ((¬ ∃ k, 1 ≤ k ∧ k ≤ 16 ∧ (v.extractLsb' 0 17).toNat = 2 ^ k) → exec (.queueContextWrite p .depth v) s =
       .next (s.queueError p.toNat 1)) ∧
     exec (.queueContextWrite p .coal v) s =
       .next (s.modQueue f q fun c => { c with coalCount := (v.extractLsb' 0 8).toNat, coalTime := (v.extractLsb' 16 10).toNat }) ∧
     (vectorOk f (v.extractLsb' 0 11).toNat = true ∨ v.getLsbD 31 = false → exec (.qVectorWrite p v) s =
       .next (s.modQueue f q fun c => { c with vector := (v.extractLsb' 0 11).toNat, vecEn := v.getLsbD 31 })) ∧
     (vectorOk f (v.extractLsb' 0 11).toNat = false → v.getLsbD 31 = true →
       exec (.qVectorWrite p v) s = .next (s.queueError p.toNat 3))) ∧
   (∀ (s : State) (p : BitVec 8) (r : CtxReg) (v : BitVec 32) (f q : Nat), s.pageOpen p.toNat = true → s.selected p.toNat = (f, q) →
     s.holdsQueue f q = true → (s.queueOf f q).enable = true ∨ (s.queueOf f q).drained = false →
     exec (.queueContextWrite p r v) s = .next (s.queueError p.toNat 4) ∧ exec (.qVectorWrite p v) s = .next (s.queueError p.toNat 4)) ∧
   (∀ (s : State) (p : BitVec 8) (r : CtxReg) (v : BitVec 32) (f q : Nat), s.pageOpen p.toNat = true → s.selected p.toNat = (f, q) →
     s.holdsQueue f q = false →
     exec (.queueContextWrite p r v) s = .next (s.queueError p.toNat 5) ∧ exec (.qVectorWrite p v) s = .next (s.queueError p.toNat 5))) ∧
  (∀ (s : State) (p : BitVec 8) (f q : Nat), s.pageOpen p.toNat = true → s.selected p.toNat = (f, q) → s.holdsQueue f q = true →
     ((s.queueOf f q).enable = false → (s.queueOf f q).drained = true → (s.queueOf f q).depth ≠ 0 →
       ∃ t, exec (.queueEnable p) s = .next t ∧ (t.queueOf f q).enable = true ∧ (t.queueOf f q).sqHead = 0 ∧
         (t.queueOf f q).cqTail = 0 ∧ (t.queueOf f q).sqTail = 0 ∧ (t.queueOf f q).cqHead = 0 ∧ (t.queueOf f q).phase = true ∧
         (t.queueOf f q).broken = false ∧ (t.queueOf f q).depth = (s.queueOf f q).depth ∧
         (t.queueOf f q).sqBase = (s.queueOf f q).sqBase ∧ (t.queueOf f q).cqBase = (s.queueOf f q).cqBase ∧
         (∀ g k, queueKey g k ≠ queueKey f q → t.queueOf g k = s.queueOf g k) ∧ t = { s with queues := t.queues }) ∧
     (twf {} s.queues = true → ∃ t, exec (.queueDisable p) s = .next t ∧
       t.queueOf f q = { s.queueOf f q with enable := false, reads := [] } ∧
       (∀ g k, queueKey g k ≠ queueKey f q → t.queueOf g k = s.queueOf g k) ∧ t.engine = s.engine ∧ t.sent = s.sent) ∧
     (∀ v : BitVec 32, p = 0 → s.holdsQueue (v.extractLsb' 16 8).toNat (v.extractLsb' 0 12).toNat = true →
       exec (.qselWrite p v) s =
         .next { s with qmgr := { s.qmgr with qselQ := (v.extractLsb' 0 12).toNat, qselF := (v.extractLsb' 16 8).toNat } }) ∧
     (∀ v : BitVec 32, p ≠ 0 → s.holdsQueue p.toNat (v.extractLsb' 0 12).toNat = true →
       exec (.qselWrite p v) s = .next (s.modFn p.toNat fun n => { n with qsel := (v.extractLsb' 0 12).toNat }))) ∧
  ((∀ (s : State) (v : BitVec 32), s.pfOpen = true → s.chip.legacy = false → (v.extractLsb' 0 13).toNat ≤ 4096 →
     (v.extractLsb' 0 13).toNat ≤ s.qmgr.poolFree + (s.fnOf s.qmgr.funcSel).queues → twf {} s.fns = true →
     (s.fnOf s.qmgr.funcSel).queues ≤ 4096 → (∀ q, (s.queueOf s.qmgr.funcSel q).enable = false) →
     (∀ q, (s.queueOf s.qmgr.funcSel q).drained = true) → twf {} s.queues = true → ∃ t, exec (.funcQueuesWrite v) s = .next t ∧
       t.fnOf s.qmgr.funcSel = { s.fnOf s.qmgr.funcSel with queues := (v.extractLsb' 0 13).toNat } ∧
       t.qmgr.poolFree + (t.fnOf s.qmgr.funcSel).queues = s.qmgr.poolFree + (s.fnOf s.qmgr.funcSel).queues ∧
       (∀ g, g ≠ s.qmgr.funcSel → t.fnOf g = s.fnOf g) ∧ t.rack = s.rack ∧ t.engine = s.engine) ∧
   (∀ (s : State) (v : BitVec 32), s.pfOpen = true → s.chip.legacy = false →
     4096 < (v.extractLsb' 0 13).toNat ∨ s.qmgr.poolFree + (s.fnOf s.qmgr.funcSel).queues < (v.extractLsb' 0 13).toNat →
     exec (.funcQueuesWrite v) s = .next { s with qmgr := { s.qmgr with error := s.qmgr.error ||| 1 } }))

/-- R20, R56, R100, R107: the function that the Host region's scheduler owes most fetches adjacent descriptors in one read of 64 bytes
each, from the head of the ring, and the read counts among the reads under way. How many descriptors one read carries is the model's
choice (log 55). R58, R69, R70, R99, R101, R104: for an enabled queue, a valid submission doorbell moves SQ_TAIL alone; a value of DEPTH
or more breaks the queue with CAUSE 1, and one that moves the tail back with CAUSE 5; a valid completion doorbell releases the entries up
to it, a value of DEPTH or more breaks the queue with CAUSE 2, one that releases more than was written with CAUSE 3; an 8-byte write does
both, and moves no tail where its completion half breaks the queue. The link leaves L1. A doorbell of a queue that is not held, not
enabled or broken changes no queue. R35, R48, R100, R106, R117, R119: a descriptor that arrives advances SQ_HEAD, counts as in flight and
becomes an operation. Where a check fails it has ended with the status of the first failing check; where none does, it waits in its
region, in the queue engine, in the Hearth's channel or for the card; where PD28 has no power, one that passed checks 1 to 3 waits for
check 4, NOP and FENCE apart. -/
def Obligations.Submission : Prop :=
  (∀ (s : State) (f : BitVec 8) (q : BitVec 12), s.fetches = true → s.doorbellOpen f.toNat = true →
     s.holdsQueue f.toNat q.toNat = true → (s.queueOf f.toNat q.toNat).enable = true → (s.queueOf f.toNat q.toNat).broken = false →
     s.link.readsOut + 1 < s.link.tagMode.limit → s.granted 0 (s.hasWork 0) = some f.toNat →
     0 < s.fetchCount (s.queueOf f.toNat q.toNat) → (s.queueOf f.toNat q.toNat).reads = [] →
     (s.queueOf f.toNat q.toNat).sqHead < (s.queueOf f.toNat q.toNat).depth → ∃ t, exec (.descriptorFetch f q) s = .next t ∧
       t.sent = .read f.toNat ((s.queueOf f.toNat q.toNat).sqBase +
         BitVec.ofNat 64 (64 * (s.queueOf f.toNat q.toNat).sqHead)) (64 * s.fetchCount (s.queueOf f.toNat q.toNat)) :: s.sent ∧
       t.queueOf f.toNat q.toNat = { s.queueOf f.toNat q.toNat with
         reads := [((s.queueOf f.toNat q.toNat).sqHead, s.fetchCount (s.queueOf f.toNat q.toNat))] } ∧
       t.link = { s.link with readsOut := s.link.readsOut + 1 } ∧ t.engine.tasks = s.engine.tasks ∧ t.rack = s.rack) ∧
  ((∀ (s : State) (f : BitVec 8) (q : BitVec 12) (v h : BitVec 16), s.doorbellOpen f.toNat = true →
     s.holdsQueue f.toNat q.toNat = true → (s.queueOf f.toNat q.toNat).enable = true → (s.queueOf f.toNat q.toNat).broken = false →
     let c := s.queueOf f.toNat q.toNat
     (v.toNat < c.depth → (c.sqTail + c.depth - c.sqHead) % c.depth ≤ (v.toNat + c.depth - c.sqHead) % c.depth →
       exec (.sqDoorbell f q v none) s = .next (s.leaveL1.modQueue f.toNat q.toNat fun c => { c with sqTail := v.toNat })) ∧
     (c.depth ≤ v.toNat → ∃ t, exec (.sqDoorbell f q v none) s = .next t ∧ (t.queueOf f.toNat q.toNat).broken = true ∧
       (t.queueOf f.toNat q.toNat).cause = 1 ∧ t.engine = s.engine) ∧
     (v.toNat < c.depth → (v.toNat + c.depth - c.sqHead) % c.depth < (c.sqTail + c.depth - c.sqHead) % c.depth →
       ∃ t, exec (.sqDoorbell f q v none) s = .next t ∧ (t.queueOf f.toNat q.toNat).broken = true ∧
         (t.queueOf f.toNat q.toNat).cause = 5 ∧ t.engine = s.engine) ∧
     (v.toNat < c.depth → (v.toNat + c.depth - c.cqHead) % c.depth ≤ c.unreleased → c.pendIrq = 0 →
       exec (.cqDoorbell f q v) s = .next (s.leaveL1.modQueue f.toNat q.toNat fun c => { c with
         cqHead := v.toNat, unreleased := c.unreleased - (v.toNat + c.depth - c.cqHead) % c.depth })) ∧
     (c.depth ≤ v.toNat → ∃ t, exec (.cqDoorbell f q v) s = .next t ∧ (t.queueOf f.toNat q.toNat).broken = true ∧
       (t.queueOf f.toNat q.toNat).cause = 2 ∧ t.engine = s.engine) ∧
     (v.toNat < c.depth → c.unreleased < (v.toNat + c.depth - c.cqHead) % c.depth → ∃ t, exec (.cqDoorbell f q v) s = .next t ∧
       (t.queueOf f.toNat q.toNat).broken = true ∧ (t.queueOf f.toNat q.toNat).cause = 3 ∧ t.engine = s.engine) ∧
     (h.toNat < c.depth → (h.toNat + c.depth - c.cqHead) % c.depth ≤ c.unreleased → c.pendIrq = 0 → v.toNat < c.depth →
       (c.sqTail + c.depth - c.sqHead) % c.depth ≤ (v.toNat + c.depth - c.sqHead) % c.depth →
       exec (.sqDoorbell f q v (some h)) s = .next ((s.leaveL1.modQueue f.toNat q.toNat fun c => { c with
         cqHead := h.toNat, unreleased := c.unreleased - (h.toNat + c.depth - c.cqHead) % c.depth }).modQueue f.toNat q.toNat
           fun c => { c with sqTail := v.toNat })) ∧
     (c.depth ≤ h.toNat → ∃ t, exec (.sqDoorbell f q v (some h)) s = .next t ∧ (t.queueOf f.toNat q.toNat).broken = true ∧
       (t.queueOf f.toNat q.toNat).cause = 2 ∧ (t.queueOf f.toNat q.toNat).sqTail = c.sqTail ∧ t.engine = s.engine)) ∧
   (∀ (s : State) (f : BitVec 8) (q : BitVec 12) (v : BitVec 16), s.doorbellOpen f.toNat = true →
     s.holdsQueue f.toNat q.toNat = false ∨ (s.queueOf f.toNat q.toNat).enable = false ∨ (s.queueOf f.toNat q.toNat).broken = true →
     ∃ t, exec (.sqDoorbell f q v none) s = .next t ∧ t.queues = s.queues ∧ t.engine = s.engine)) ∧
  (∀ (s : State) (f : BitVec 8) (q : BitVec 12) (d : BitVec 512) (n : Nat) (o : Op),
     (s.queueOf f.toNat q.toNat).reads = [(n, 1)] → twf {} s.queues = true → (∀ id ≥ s.engine.nextId, s.opOf id = none) →
     o = { id := s.engine.nextId, fn := f.toNat, queue := q.toNat, seq := (s.queueOf f.toNat q.toNat).nextSeq, desc := d
           gen := (s.fnOf f.toNat).allowGen, prio := (s.fnOf f.toNat).priority } →
     ∃ t, exec (.descriptorArrival f q [d]) s = .next t ∧
       (t.queueOf f.toNat q.toNat).inFlight = (s.queueOf f.toNat q.toNat).inFlight + 1 ∧
       (t.queueOf f.toNat q.toNat).sqHead = ((s.queueOf f.toNat q.toNat).sqHead + 1) % (s.queueOf f.toNat q.toNat).depth ∧
       (t.queueOf f.toNat q.toNat).reads = [] ∧ t.rack.slots = s.rack.slots ∧ t.sent = s.sent ∧
       (∀ st detail, s.descFault o = some (st, detail) → s.powered 28 = true ∨ o.queueOp = true ∨ s.fault123 o ≠ none →
         t.Ended o.id st detail 0 []) ∧
       (s.powered 28 = false → o.queueOp = false → s.fault123 o = none → t.opOf o.id = some { o with stage := .check }) ∧
       (s.descFault o = none → s.powered 28 = true ∨ o.queueOp = true → ∃ p, t.opOf o.id = some p ∧ p.desc = d ∧ p.fn = f.toNat ∧
         p.queue = q.toNat ∧ p.seq = (s.queueOf f.toNat q.toNat).nextSeq ∧
         (o.opcode / 256 ∈ [1, 2, 4, 5] → p.stage = .region) ∧ (o.opcode / 256 = 8 → p.stage = .qengine) ∧
         (o.opcode / 256 = 6 → p.stage = .channel ∧ o.id ∈ t.worlds.channel ++ t.worlds.chanWait) ∧
         (o.opcode / 256 = 7 → o.opcode ≠ 0x0710 → p.stage = .channel ∧ o.id ∈ t.cards.sd.waiting)))

/-- R89, R102, R103, R106, R108, R128, R131, R132: an ended operation that may complete writes its entry, with TAG, STATUS, OUT_LEN,
SQ_HEAD, queue, DETAIL, RESULT and phase, at CQ_TAIL of the completion ring; CQ_TAIL moves on, at the end of the ring to 0 with the other
phase; the operation leaves the device and one entry more waits for its release. With IRQ the queue's message leaves once COUNT interrupts
are pending, and one more is pending until then; without IRQ nothing else is sent. R109, R119, R132: NOP ends with ST_OK when no barrier
stands before it, FENCE once nothing before it is left, and not before; the coalescing timer sends the queue's message and clears its
pending interrupts. R83, R100, R104, R127: a descriptor read that times out or fails breaks its queue with CAUSE 4, gives up the queue's
reads and leaves every operation as it is; a read of an operation that times out or fails ends it with ST_HOST_MEMORY_ERROR and the code
of what was read. Where the source has failed before, a failed list or parameter block replaces the code. -/
def Obligations.EngineOperations : Prop :=
  (∀ (s : State) (op : Nat) (o : Op) (c : Queue), s.opOf op = some o → o.stage = .done →
     (dOrdered o.desc = false ∧ dFence o.desc = false) ∨ s.earlier o = [] → c = s.queueOf o.fn o.queue → s.chip.legacy = false →
     ∃ t, exec (.operationCompletion op) s = .next t ∧ t.opOf op = none ∧
       (t.queueOf o.fn o.queue).cqTail = (if c.depth ≤ c.cqTail + 1 then 0 else c.cqTail + 1) ∧
       (t.queueOf o.fn o.queue).phase = (if c.depth ≤ c.cqTail + 1 then !c.phase else c.phase) ∧
       (t.queueOf o.fn o.queue).inFlight = c.inFlight - 1 ∧ (t.queueOf o.fn o.queue).unreleased = c.unreleased + 1 ∧
       t.rack = s.rack ∧ t.vault = s.vault ∧ t.crucible = s.crucible ∧
       (dIrq o.desc = false ∨ c.vecEn = false → (t.queueOf o.fn o.queue).pendIrq = c.pendIrq ∧
         t.sent = .completion o.fn o.queue (c.cqBase + BitVec.ofNat 64 (32 * c.cqTail)) (completionEntry o c.sqHead c.phase) :: s.sent) ∧
       (dIrq o.desc = true → c.vecEn = true → c.pendIrq + 1 < c.coalCount → (t.queueOf o.fn o.queue).pendIrq = c.pendIrq + 1 ∧
         t.sent = .completion o.fn o.queue (c.cqBase + BitVec.ofNat 64 (32 * c.cqTail)) (completionEntry o c.sqHead c.phase) :: s.sent) ∧
       (dIrq o.desc = true → c.vecEn = true → c.coalCount ≤ c.pendIrq + 1 → s.vectorOpen o.fn c.vector = true →
         (t.queueOf o.fn o.queue).pendIrq = 0 ∧ t.sent = .msix o.fn c.vector ::
           .completion o.fn o.queue (c.cqBase + BitVec.ofNat 64 (32 * c.cqTail)) (completionEntry o c.sqHead c.phase) :: s.sent)) ∧
  ((∀ (s : State) (op : Nat) (o : Op), s.opOf op = some o → o.opcode = 0x0800 → o.stage = .qengine → s.mayStart o = true →
     ∃ t, exec (.nop op) s = .next t ∧ t.Ended op 0 0 0 [] ∧ t.rack.slots = s.rack.slots ∧ t.sent = s.sent) ∧
   (∀ (s : State) (op : Nat) (o : Op), s.opOf op = some o → o.opcode = 0x0801 → o.stage = .qengine → s.earlier o = [] →
     ∃ t, exec (.fence op) s = .next t ∧ t.Ended op 0 0 0 [] ∧ t.rack.slots = s.rack.slots ∧ t.sent = s.sent) ∧
   (∀ (s : State) (op : Nat) (o p : Op), s.opOf op = some o → o.opcode = 0x0801 → p ∈ s.earlier o → exec (.fence op) s = .next s) ∧
   (∀ (s : State) (f : BitVec 8) (q : BitVec 12), (s.queueOf f.toNat q.toNat).timer = true →
     (s.queueOf f.toNat q.toNat).pendIrq ≠ 0 → s.chip.legacy = false → s.vectorOpen f.toNat (s.queueOf f.toNat q.toNat).vector = true →
     exec (.coalesceTimer f q) s = .next ((s.modQueue f.toNat q.toNat fun c => { c with pendIrq := 0, timer := false }).emit
       (.msix f.toNat (s.queueOf f.toNat q.toNat).vector)))) ∧
  ((∀ (s : State) (f : BitVec 8) (q : BitVec 12), (s.queueOf f.toNat q.toNat).reads ≠ [] →
     ∃ t, exec (.dmaCompletionTimeout (.descriptors f q)) s = .next t ∧ (t.queueOf f.toNat q.toNat).broken = true ∧
       (t.queueOf f.toNat q.toNat).cause = 4 ∧ (t.queueOf f.toNat q.toNat).reads = [] ∧ t.rack = s.rack ∧ t.chip = s.chip ∧
       t.engine.tasks = s.engine.tasks) ∧
   (∀ (s : State) (f : BitVec 8) (q : BitVec 12) (e : ReadError), (s.queueOf f.toNat q.toNat).reads ≠ [] →
     ∃ t, exec (.dmaReadError (.descriptors f q) e) s = .next t ∧ (t.queueOf f.toNat q.toNat).broken = true ∧
       (t.queueOf f.toNat q.toNat).cause = 4 ∧ (t.queueOf f.toNat q.toNat).reads = [] ∧ t.rack = s.rack ∧ t.chip = s.chip ∧
       t.engine.tasks = s.engine.tasks) ∧
   (∀ (s : State) (op : Nat) (o : Op) (w : OpRead), s.opOf op = some o → o.stage ≠ .done → o.stage ≠ .qengine →
     ∃ t, exec (.dmaCompletionTimeout (.ofOp op w)) s = .next t ∧
       t.Ended op 0x0801 (match w with | .source => 1 | .srcList => 2 | .dstList => 3 | .params => 4) 0 []) ∧
   (∀ (s : State) (op : Nat) (o : Op) (w : OpRead) (e : ReadError), s.opOf op = some o → o.stage ≠ .done → o.stage ≠ .qengine →
     ∃ t, exec (.dmaReadError (.ofOp op w) e) s = .next t ∧
       t.Ended op 0x0801 (match w with | .source => 1 | .srcList => 2 | .dstList => 3 | .params => 4) 0 []) ∧
   (∀ (s : State) (op : Nat) (o : Op) (w : OpRead) (e : ReadError), s.opOf op = some o → o.stage = .done → o.ran = true →
     o.status = 0x0801 → o.detail = 1 → w ≠ .source → ∃ t, exec (.dmaReadError (.ofOp op w) e) s = .next t ∧ t.opOf op = some { o with
       detail := match w with | .source => 1 | .srcList => 2 | .dstList => 3 | .params => 4 }))

/-! ### Lanes (08, 09) -/

/-- R56, R111, R115, R120 to R122, R126 to R129: an operation reads its lists, its parameters and its data in requests of at most 512
bytes and Max_Read_Request_Size of its own function, which change nothing but its mark that it has read. One that a block completes writes
its output to DST, or along its destination list, where the output overlaps no source but in place, and has ended with ST_OK, its output
length and result; one that fails has ended with its status, no output and no result. Slots, queues, functions, stores, the commands
waiting and every other operation stay as they were. -/
def Obligations.OperationEnds : Prop :=
  (∀ (s : State) (o : Op) (dma : Dma), s.opOf o.id = some o → o.fetched = 0 → ∃ (t : State) (l : List Sent), t = s.hasRead o dma ∧
    t = { s with sent := l ++ s.sent, engine := { s.engine with tasks := t.engine.tasks } } ∧
    (∀ x ∈ l, ∃ a n, x = .read o.fn a n ∧ n ≤ 512 ∧ n ≤ s.link.maxRead) ∧ t.opOf o.id = some { o with fetched := 2 } ∧
    ∀ j, j ≠ o.id → t.opOf j = s.opOf j) ∧
  (∀ (s : State) (o : Op) (dma : Dma) (out result : Bytes), (∃ p, s.opOf o.id = some p ∧ p.reserved = false) →
    s.worlds.running ≠ some (.chan o.id) → overlapOpen o.desc dma out.length = false →
    (s.laneDone o dma out result).Ended o.id 0 0 out.length result ∧ s.OutsideSame (s.laneDone o dma out result) o.id ∧
    (s.laneDone o dma out result).free = s.free ∧ (s.laneDone o dma out result).vault = s.vault ∧
    (s.laneDone o dma out result).zwm = s.zwm ∧
    (dDstList o.desc = false → out ≠ [] → (s.laneDone o dma out result).sent =
      .data o.id o.fn (BitVec.ofNat 64 (dDst o.desc)) out (s.fnOf o.fn).relaxed :: s.sent) ∧
    (dDstList o.desc = true → (s.laneDone o dma out result).sent =
      (scatterWrites o.id o.fn (s.fnOf o.fn).relaxed (dma.dstList.take (dDstCount o.desc)) out).reverse ++ s.sent) ∧
    (out = [] → (s.laneDone o dma out result).sent = s.sent)) ∧
  (∀ (s : State) (o : Op) (status detail : Nat), (∃ p, s.opOf o.id = some p ∧ p.reserved = false) →
    s.worlds.running ≠ some (.chan o.id) → 256 ≤ status →
    (s.fail o.id status detail).Ended o.id status detail 0 [] ∧ s.OutsideSame (s.fail o.id status detail) o.id ∧
    (s.fail o.id status detail).sent = s.sent ∧ (s.fail o.id status detail).free = s.free ∧
    (s.fail o.id status detail).vault = s.vault ∧ (s.fail o.id status detail).zwm = s.zwm)

/-- R227, R231, R232, R236 to R238: the AES block and stream modes of an operation that passes check 7 complete with the mode applied to
its payload under the member that PLAN names, XTS under that one and the next; a decryption in ECB or CBC reports its padding in RESULT.
R231, R232, R236, R237: TDES in ECB and CBC; a decryption reports its padding in RESULT. -/
def Obligations.CipherModes : Prop :=
  (∀ (s : State) (op : Nat) (o : Op) (dma : Dma), s.opOf op = some o → o.stage = .block →
     (o.opcode = 0x0101 → check7 o.desc dma (dDlen o.desc) (padOut 16 o) = none → exec (.aesEcbEnc op dma) s =
       .next ((s.hasRead o dma).laneDone o dma (Modes.ecb o.aesEnc 16 (Modes.pad (pPad o) 16 (opData o dma))) [])) ∧
     (o.opcode = 0x0103 → check7 o.desc dma (dDlen o.desc) (padOut 16 o) = none → exec (.aesCbcEnc op dma) s =
       .next ((s.hasRead o dma).laneDone o dma (Modes.cbcEnc o.aesEnc 16 (opParams o dma) (Modes.pad (pPad o) 16 (opData o dma))) [])) ∧
     (check7 o.desc dma (dDlen o.desc) (dDlen o.desc) = none →
       (o.opcode = 0x0102 → exec (.aesEcbDec op dma) s = .next ((s.hasRead o dma).laneDone o dma (Modes.ecb o.aesDec 16 (opData o dma))
         (padResult 16 o (Modes.ecb o.aesDec 16 (opData o dma))))) ∧
       (o.opcode = 0x0104 → exec (.aesCbcDec op dma) s =
         .next ((s.hasRead o dma).laneDone o dma (Modes.cbcDec o.aesDec 16 (opParams o dma) (opData o dma))
           (padResult 16 o (Modes.cbcDec o.aesDec 16 (opParams o dma) (opData o dma))))) ∧
       (o.opcode = 0x0105 → exec (.aesCfbEnc op dma) s =
         .next ((s.hasRead o dma).laneDone o dma (Modes.cfbEncL o.aesEnc (opParams o dma) (chunks 16 (opData o dma))) [])) ∧
       (o.opcode = 0x0106 → exec (.aesCfbDec op dma) s =
         .next ((s.hasRead o dma).laneDone o dma (Modes.cfbDecL o.aesEnc (opParams o dma) (chunks 16 (opData o dma))) [])) ∧
       (o.opcode = 0x0107 → exec (.aesCtrEnc op dma) s =
         .next ((s.hasRead o dma).laneDone o dma (Modes.ctr o.aesEnc (opParams o dma) (opData o dma)) [])) ∧
       (o.opcode = 0x0108 → exec (.aesCtrDec op dma) s =
         .next ((s.hasRead o dma).laneDone o dma (Modes.ctr o.aesEnc (opParams o dma) (opData o dma)) [])) ∧
       (o.opcode = 0x010D → exec (.aesXtsEnc op dma) s = .next ((s.hasRead o dma).laneDone o dma (o.xts dma false (opData o dma)) [])) ∧
       (o.opcode = 0x010E → exec (.aesXtsDec op dma) s = .next ((s.hasRead o dma).laneDone o dma (o.xts dma true (opData o dma)) [])))) ∧
  (∀ (s : State) (op : Nat) (o : Op) (dma : Dma), s.opOf op = some o → o.stage = .block →
     (check7 o.desc dma (dDlen o.desc) (padOut 8 o) = none →
       (o.opcode = 0x0120 → exec (.tdesEcbEnc op dma) s =
         .next ((s.hasRead o dma).laneDone o dma (Modes.ecb o.tdesEnc 8 (Modes.pad (pPad o) 8 (opData o dma))) [])) ∧
       (o.opcode = 0x0122 → exec (.tdesCbcEnc op dma) s =
         .next ((s.hasRead o dma).laneDone o dma (Modes.cbcEnc o.tdesEnc 8 ((opParams o dma).take 8) (Modes.pad (pPad o) 8 (opData o dma))) []))) ∧
     (check7 o.desc dma (dDlen o.desc) (dDlen o.desc) = none →
       (o.opcode = 0x0121 → exec (.tdesEcbDec op dma) s = .next ((s.hasRead o dma).laneDone o dma (Modes.ecb o.tdesDec 8 (opData o dma))
         (padResult 8 o (Modes.ecb o.tdesDec 8 (opData o dma))))) ∧
       (o.opcode = 0x0123 → exec (.tdesCbcDec op dma) s =
         .next ((s.hasRead o dma).laneDone o dma (Modes.cbcDec o.tdesDec 8 ((opParams o dma).take 8) (opData o dma))
           (padResult 8 o (Modes.cbcDec o.tdesDec 8 ((opParams o dma).take 8) (opData o dma)))))))

/-- R234, R238, R239, R243, R244: GCM and CCM, with an inline nonce or an AEAD block, encrypt the payload and append T bytes of tag; a
decryption whose tag agrees releases the plaintext, any other ends with ST_VERIFY_FAILED, having written what it produced of a payload
above 4,096 bytes. -/
def Obligations.AeadModes : Prop :=
  (∀ (s : State) (op : Nat) (o : Op) (dma : Dma), s.opOf op = some o → o.stage = .block → dInline o.desc = true →
    check7 o.desc dma (dAadLen o.desc + dDlen o.desc) (dDlen o.desc + pT o) = none →
    (o.opcode = 0x0109 → exec (.aesGcmEnc op dma) s =
      .next ((s.hasRead o dma).laneDone o dma (Modes.gcmCrypt o.aesEnc ((dParam o.desc).take 12) (opData o dma) ++
        (Modes.gcmTag o.aesEnc ((dParam o.desc).take 12) (opAad o dma)
          (Modes.gcmCrypt o.aesEnc ((dParam o.desc).take 12) (opData o dma))).take (pT o)) [])) ∧
    (∀ n, o.opcode = 0x010B → n = slice (dParam o.desc) 1 (byteAt (dParam o.desc) 0).toNat →
      dDlen o.desc < 2 ^ (8 * (15 - n.length)) → exec (.aesCcmEnc op dma) s =
        .next ((s.hasRead o dma).laneDone o dma (Modes.ccmCrypt o.aesEnc n (opData o dma) ++
          Modes.ccmTag o.aesEnc n (opAad o dma) (opData o dma) (pT o)) []))) ∧
  (∀ (s : State) (op : Nat) (o : Op) (dma : Dma) (p iv : Bytes), s.opOf op = some o → o.stage = .block →
    dInline o.desc = false → p = opParams o dma → 24 + leAt p 16 2 = dParamLen o.desc → iv = slice p 24 (leAt p 16 2) →
    check7 o.desc dma (dAadLen o.desc + dDlen o.desc) (dDlen o.desc + pT o) = none →
    (o.opcode = 0x0109 → aeadFault p 0 1 128 = none → exec (.aesGcmEnc op dma) s =
      .next ((s.hasRead o dma).laneDone o dma (Modes.gcmCrypt o.aesEnc iv (opData o dma) ++
        (Modes.gcmTag o.aesEnc iv (opAad o dma) (Modes.gcmCrypt o.aesEnc iv (opData o dma))).take (pT o)) [])) ∧
    (o.opcode = 0x010B → aeadFault p 0 7 13 = none → dDlen o.desc < 2 ^ (8 * (15 - iv.length)) →
      exec (.aesCcmEnc op dma) s = .next ((s.hasRead o dma).laneDone o dma (Modes.ccmCrypt o.aesEnc iv (opData o dma) ++
        Modes.ccmTag o.aesEnc iv (opAad o dma) (opData o dma) (pT o)) []))) ∧
  (∀ (s : State) (op : Nat) (o : Op) (dma : Dma) (p iv : Bytes), s.opOf op = some o → o.stage = .block →
    dInline o.desc = false → p = opParams o dma → 24 + leAt p 16 2 = dParamLen o.desc → iv = slice p 24 (leAt p 16 2) →
    check7 o.desc dma (dAadLen o.desc + dDlen o.desc) (dDlen o.desc) = none →
    (o.opcode = 0x010A → aeadFault p (pT o) 1 128 = none →
      ((Modes.gcmTag o.aesEnc iv (opAad o dma) (opData o dma)).take (pT o) = p.take (pT o) →
        exec (.aesGcmDec op dma) s = .next ((s.hasRead o dma).laneDone o dma (Modes.gcmCrypt o.aesEnc iv (opData o dma)) [])) ∧
      ((Modes.gcmTag o.aesEnc iv (opAad o dma) (opData o dma)).take (pT o) ≠ p.take (pT o) →
        dDlen o.desc ≤ 4096 → exec (.aesGcmDec op dma) s = .next ((s.hasRead o dma).fail op 0x0501 0)) ∧
      ((Modes.gcmTag o.aesEnc iv (opAad o dma) (opData o dma)).take (pT o) ≠ p.take (pT o) →
        4096 < dDlen o.desc → exec (.aesGcmDec op dma) s =
          .next (((s.hasRead o dma).writeOut o dma (Modes.gcmCrypt o.aesEnc iv (opData o dma))).fail op 0x0501 0))) ∧
    (o.opcode = 0x010C → aeadFault p (pT o) 7 13 = none → dDlen o.desc < 2 ^ (8 * (15 - iv.length)) →
      (Modes.ccmTag o.aesEnc iv (opAad o dma) (Modes.ccmCrypt o.aesEnc iv (opData o dma)) (pT o) = p.take (pT o) →
        exec (.aesCcmDec op dma) s = .next ((s.hasRead o dma).laneDone o dma (Modes.ccmCrypt o.aesEnc iv (opData o dma)) [])) ∧
      (Modes.ccmTag o.aesEnc iv (opAad o dma) (Modes.ccmCrypt o.aesEnc iv (opData o dma)) (pT o) ≠ p.take (pT o) →
        dDlen o.desc ≤ 4096 → exec (.aesCcmDec op dma) s = .next ((s.hasRead o dma).fail op 0x0501 0)) ∧
      (Modes.ccmTag o.aesEnc iv (opAad o dma) (Modes.ccmCrypt o.aesEnc iv (opData o dma)) (pT o) ≠ p.take (pT o) →
        4096 < dDlen o.desc → exec (.aesCcmDec op dma) s =
          .next (((s.hasRead o dma).writeOut o dma (Modes.ccmCrypt o.aesEnc iv (opData o dma))).fail op 0x0501 0))))

/-- R232, R243: a wrap completes with the wrapped payload; an unwrap that passes its integrity check completes with what it recovered and
one that does not ends with ST_VERIFY_FAILED and no output. R246 to R248: SEAL draws a 12-byte IV as one generate request and writes
header, ciphertext and tag under the tenant's storage key; UNSEAL of sealed data whose header and tag agree releases the plaintext; a
wrong header ends with ST_BAD_FIELD, a wrong tag with ST_VERIFY_FAILED. -/
def Obligations.KeyWrapsAndSealedData : Prop :=
  (∀ (s : State) (op : Nat) (o : Op) (dma : Dma), s.opOf op = some o → o.stage = .block →
     (o.opcode = 0x0110 → check7 o.desc dma (dDlen o.desc) (dDlen o.desc + 8) = none → exec (.aesKwWrap op dma) s =
       .next ((s.hasRead o dma).laneDone o dma (Modes.kwWrap o.aesEnc (opData o dma)) [])) ∧
     (o.opcode = 0x0112 → check7 o.desc dma (dDlen o.desc) (8 * ((dDlen o.desc + 7) / 8) + 8) = none →
       exec (.aesKwpWrap op dma) s = .next ((s.hasRead o dma).laneDone o dma (Modes.kwpWrap o.aesEnc (opData o dma)) [])) ∧
     (check7 o.desc dma (dDlen o.desc) (dDlen o.desc - 8) = none →
       (∀ m, o.opcode = 0x0111 → Modes.kwUnwrap o.aesDec (opData o dma) = some m →
         exec (.aesKwUnwrap op dma) s = .next ((s.hasRead o dma).laneDone o dma m [])) ∧
       (o.opcode = 0x0111 → Modes.kwUnwrap o.aesDec (opData o dma) = none →
         exec (.aesKwUnwrap op dma) s = .next ((s.hasRead o dma).fail op 0x0501 0)) ∧
       (∀ m, o.opcode = 0x0113 → Modes.kwpUnwrap o.aesDec (opData o dma) = some m →
         exec (.aesKwpUnwrap op dma) s = .next ((s.hasRead o dma).laneDone o dma m [])) ∧
       (o.opcode = 0x0113 → Modes.kwpUnwrap o.aesDec (opData o dma) = none →
         exec (.aesKwpUnwrap op dma) s = .next ((s.hasRead o dma).fail op 0x0501 0)))) ∧
  ((∀ (s : State) (op : Nat) (o : Op) (dma : Dma) (r : Bytes × Inst), s.opOf op = some o → o.stage = .block → o.opcode = 0x0130 →
     check7 o.desc dma (dAadLen o.desc + dDlen o.desc) (dDlen o.desc + 48) = none → (s.hasRead o dma).DrawsNow o →
     r = genInst (s.instOf o.fn (dDrbg o.desc)) 12 [] →
       let h := sealHeader o.tenant (s.epochOf o.tenant) (dDlen o.desc) r.1
       let k := Aes.encWith (Aes.roundKeys (s.storageKey o.tenant (s.epochOf o.tenant)))
       let c := Modes.gcmCrypt k r.1 (opData o dma)
       exec (.seal op dma) s = .next (((s.hasRead o dma).drew o 12 r.2).laneDone o dma (h ++ c ++ Modes.gcmTag k r.1 (h ++ opAad o dma) c) [])) ∧
   (∀ (s : State) (op : Nat) (o : Op) (dma : Dma), s.opOf op = some o → o.stage = .block → o.opcode = 0x0131 →
     check7 o.desc dma (dAadLen o.desc + dDlen o.desc) (dDlen o.desc - 48) = none →
     let d := opData o dma
     let k := Aes.encWith (Aes.roundKeys (s.storageKey o.tenant (leAt (d.take 32) 8 2)))
     let iv := slice (d.take 32) 16 12
     let c := slice d 32 (dDlen o.desc - 48)
     s.sealOk (d.take 32) o.tenant (dDlen o.desc) = true →
     (Modes.gcmTag k iv (d.take 32 ++ opAad o dma) c = slice d (32 + (dDlen o.desc - 48)) 16 →
       exec (.unseal op dma) s = .next ((s.hasRead o dma).laneDone o dma (Modes.gcmCrypt k iv c) [])) ∧
     (Modes.gcmTag k iv (d.take 32 ++ opAad o dma) c ≠ slice d (32 + (dDlen o.desc - 48)) 16 → dDlen o.desc ≤ 4096 →
       exec (.unseal op dma) s = .next ((s.hasRead o dma).fail op 0x0501 0)) ∧
     (Modes.gcmTag k iv (d.take 32 ++ opAad o dma) c ≠ slice d (32 + (dDlen o.desc - 48)) 16 → 4096 < dDlen o.desc →
       exec (.unseal op dma) s = .next (((s.hasRead o dma).writeOut o dma (Modes.gcmCrypt k iv c)).fail op 0x0501 0))) ∧
   (∀ (s : State) (op : Nat) (o : Op) (dma : Dma), s.opOf op = some o → o.stage = .block → o.opcode = 0x0131 →
     check7 o.desc dma (dAadLen o.desc + dDlen o.desc) (dDlen o.desc - 48) = none →
     s.sealOk ((opData o dma).take 32) o.tenant (dDlen o.desc) = false →
     exec (.unseal op dma) s = .next ((s.hasRead o dma).fail op 0x0102 16)))

/-- R233, R235, R243: HASH writes the digest and repeats its first bytes in RESULT; a MAC generation writes T bytes of the tag, a
verification ends with ST_OK where the T bytes agree and with ST_VERIFY_FAILED where they do not. -/
def Obligations.HashesAndMacs : Prop :=
  (∀ (s : State) (op : Nat) (o : Op) (dma : Dma), s.opOf op = some o → o.stage = .block → o.opcode = 0x0201 →
    (dPlan o.desc % 16 ≤ 8 → check7 o.desc dma (dDlen o.desc) (Sha.hashLen (dPlan o.desc % 16)) = none →
      exec (.hash op dma) s = .next ((s.hasRead o dma).laneDone o dma (Sha.hashId (dPlan o.desc % 16) (opData o dma))
        ((Sha.hashId (dPlan o.desc % 16) (opData o dma)).take 12))) ∧
    (dPlan o.desc % 16 = 9 → check7 o.desc dma (dDlen o.desc) (dAux o.desc % 2 ^ 32) = none →
      exec (.hash op dma) s = .next ((s.hasRead o dma).laneDone o dma (Sha.shake128 (dAux o.desc % 2 ^ 32) (opData o dma))
        ((Sha.shake128 (dAux o.desc % 2 ^ 32) (opData o dma)).take 12))) ∧
    (dPlan o.desc % 16 = 10 → check7 o.desc dma (dDlen o.desc) (dAux o.desc % 2 ^ 32) = none →
      exec (.hash op dma) s = .next ((s.hasRead o dma).laneDone o dma (Sha.shake256 (dAux o.desc % 2 ^ 32) (opData o dma))
        ((Sha.shake256 (dAux o.desc % 2 ^ 32) (opData o dma)).take 12)))) ∧
  (∀ (s : State) (op : Nat) (o : Op) (dma : Dma), s.opOf op = some o → o.stage = .block →
    check7 o.desc dma (dDlen o.desc) (pT o) = none →
    (o.opcode = 0x0202 → pT o ≤ Sha.hashLen (aSub o.keyCopy.attr) → exec (.hmacGen op dma) s =
      .next ((s.hasRead o dma).macGen o dma (Sha.hmacId (aSub o.keyCopy.attr) o.keyCopy.bytes (opData o dma)))) ∧
    (o.opcode = 0x0210 → exec (.aesCmacGen op dma) s = .next ((s.hasRead o dma).macGen o dma (Modes.cmac o.aesEnc 16 (opData o dma)))) ∧
    (o.opcode = 0x0212 → dInline o.desc = true → exec (.aesGmacGen op dma) s =
      .next ((s.hasRead o dma).macGen o dma (Modes.gcmTag o.aesEnc ((dParam o.desc).take 12) (opData o dma) []))) ∧
    (o.opcode = 0x0212 → dInline o.desc = false → aeadFault (opParams o dma) 0 1 128 = none →
      24 + leAt (opParams o dma) 16 2 = dParamLen o.desc → exec (.aesGmacGen op dma) s =
      .next ((s.hasRead o dma).macGen o dma
        (Modes.gcmTag o.aesEnc (slice (opParams o dma) 24 (leAt (opParams o dma) 16 2)) (opData o dma) []))) ∧
    (o.opcode = 0x0220 → exec (.tdesMacGen op dma) s = .next ((s.hasRead o dma).macGen o dma (o.tdesMac (opData o dma)))) ∧
    (o.opcode = 0x0222 → exec (.tdesCmacGen op dma) s = .next ((s.hasRead o dma).macGen o dma (Modes.cmac o.tdesEnc 8 (opData o dma))))) ∧
  (∀ (s : State) (op : Nat) (o : Op) (dma : Dma) (tag : Bytes), s.opOf op = some o → o.stage = .block →
    check7 o.desc dma (dDlen o.desc) 0 = none →
    (o.opcode = 0x0203 ∧ pT o ≤ Sha.hashLen (aSub o.keyCopy.attr) ∧
      tag = Sha.hmacId (aSub o.keyCopy.attr) o.keyCopy.bytes (opData o dma) → exec (.hmacVer op dma) s = .next ((s.hasRead o dma).macVer o dma tag)) ∧
    (o.opcode = 0x0211 ∧ tag = Modes.cmac o.aesEnc 16 (opData o dma) → exec (.aesCmacVer op dma) s = .next ((s.hasRead o dma).macVer o dma tag)) ∧
    (o.opcode = 0x0213 ∧ dInline o.desc = false ∧ aeadFault (opParams o dma) (pT o) 1 128 = none ∧
      24 + leAt (opParams o dma) 16 2 = dParamLen o.desc ∧
      tag = Modes.gcmTag o.aesEnc (slice (opParams o dma) 24 (leAt (opParams o dma) 16 2)) (opData o dma) [] →
      exec (.aesGmacVer op dma) s = .next ((s.hasRead o dma).macVer o dma tag)) ∧
    (o.opcode = 0x0221 ∧ tag = o.tdesMac (opData o dma) → exec (.tdesMacVer op dma) s = .next ((s.hasRead o dma).macVer o dma tag)) ∧
    (o.opcode = 0x0223 ∧ tag = Modes.cmac o.tdesEnc 8 (opData o dma) → exec (.tdesCmacVer op dma) s = .next ((s.hasRead o dma).macVer o dma tag))) ∧
  (∀ (s : State) (o : Op) (dma : Dma) (tag : Bytes),
    s.macGen o dma tag = s.laneDone o dma (tag.take (pT o)) ((tag.take (pT o)).take 12) ∧
    (tag.take (pT o) = (opParams o dma).take (pT o) → s.macVer o dma tag = s.finish o.id 0 0 0 []) ∧
    (tag.take (pT o) ≠ (opParams o dma).take (pT o) → s.macVer o dma tag = s.fail o.id 0x0501 0))

/-- R238, R243: GCM in both directions under one key, nonce and additional data: what the encryption wrote, its tag put in the AEAD block,
the decryption releases as the payload it came from; CTR applied twice gives the payload back. -/
def Obligations.StreamRoundTrip : Prop :=
  (∀ (ks : List Bytes) (iv m : Bytes), Modes.gcmCrypt (Aes.encWith ks) iv (Modes.gcmCrypt (Aes.encWith ks) iv m) = m ∧
    Modes.ctr (Aes.encWith ks) iv (Modes.ctr (Aes.encWith ks) iv m) = m) ∧
  (∀ (s : State) (op : Nat) (o : Op) (dma : Dma) (p : Bytes), s.opOf op = some o → o.stage = .block → o.opcode = 0x010A →
    dInline o.desc = false → check7 o.desc dma (dAadLen o.desc + dDlen o.desc) (dDlen o.desc) = none →
    aeadFault (opParams o dma) (pT o) 1 128 = none → 24 + leAt (opParams o dma) 16 2 = dParamLen o.desc →
    let iv := slice (opParams o dma) 24 (leAt (opParams o dma) 16 2)
    opData o dma = Modes.gcmCrypt o.aesEnc iv p →
    (opParams o dma).take (pT o) = (Modes.gcmTag o.aesEnc iv (opAad o dma) (Modes.gcmCrypt o.aesEnc iv p)).take (pT o) →
    exec (.aesGcmDec op dma) s = .next ((s.hasRead o dma).laneDone o dma p []))

/-! ### Bellows and DRBG (11) -/

/-- R338, R339, R341, R342, R352, R353: a cell in service that fails leaves service, with FAILS one higher and LAST the test; with fewer
than 8 cells left Bellows enters RETEST from OK. A cell out of service fails in a retest only, which remembers it. RETEST starts a retest
in OK and from FAILED, ENTROPY_RETRY from FAILED where its setting is not 0. At a retest's end the cells whose every window passed return,
but for those that failed in it; Bellows enters OK with at least 8 cells, and the held requests that want blocks enter the queue, else it
enters FAILED, and every operation that waits ends with ST_ENTROPY_FAILED. R251, R344, R345, R349, R352: the seed queue serves the lowest
level, in order of arrival within it. In OK a delivery gives the request its blocks of full entropy, and SEEDS counts it: an operation and
the Hearth hold them, the internal instance and a mask generator are reseeded with them. At the end of a window the stretch follows the
depth of the queue, within its limits; after 65,536 requests the internal instance asks for a reseed; a read of SEED_QUEUE gives its depth
and its peak and clears the peak; a mask reseed in OK asks for a block for every generator, and in FAILED the generators run on. R346,
R347, R348: in its turn, DRBG_INSTANTIATE of an instance that is not instantiated and DRBG_RESEED of one that is seed it with the three
blocks delivered and the opcode's string; DRBG_GENERATE writes what one generate request gives, with COUNT after it in RESULT, and with
prediction resistance or at the end of its interval seeds the instance first; DRBG_UNINSTANTIATE zeroes it. Seeding leaves COUNT 0 and the
interval of the stretch in force. An instance in the wrong state ends the operation with its status. -/
def Obligations.BellowsAndDrbg : Prop :=
  ((∀ (s : State) (c : Fin 32) (p : Bool), (s.cellOf c.val).out = false → ∃ t, exec (.noiseCellFailure c p) s = .next t ∧
     t.cellOf c.val = { out := true, fails := satInc 255 (s.cellOf c.val).fails, last := if p then 1 else 0 } ∧
     (∀ d, d ≠ c.val → t.cellOf d = s.cellOf d) ∧
     t.bellows.state = (if s.bellows.state = .ok ∧ t.inService < 8 then .retest else s.bellows.state) ∧
     t.bellows.retest = (s.bellows.retest || decide (s.bellows.state = .ok ∧ t.inService < 8)) ∧
     t.bellows.insts = s.bellows.insts ∧ t.bellows.seedQ = s.bellows.seedQ ∧ t = { s with bellows := t.bellows, store := t.store }) ∧
   (∀ (s : State) (c : Fin 32) (p : Bool), (s.cellOf c.val).out = true → s.bellows.retest = false →
     exec (.noiseCellFailure c p) s = .next s) ∧
   (∀ (s : State) (c : Fin 32) (p : Bool), s.bellows.retest = true → s.bellows.state ≠ .ok → ∃ t, exec (.noiseCellFailure c p) s = .next t ∧
     t.bellows.retestFail.getLsbD c.val = true ∧ (t.cellOf c.val).out = true ∧ (∀ d, d ≠ c.val → t.cellOf d = s.cellOf d) ∧
     t.bellows.state = s.bellows.state ∧ t = { s with bellows := t.bellows, store := t.store }) ∧
   (∀ s : State, s.bellows.retest = false →
     (s.pfOpen = true → s.bellows.state = .ok → exec .retest s = .next { s with bellows := { s.bellows with retest := true, retestFail := 0 } }) ∧
     (s.pfOpen = true → s.bellows.state = .failed → ∃ t, exec .retest s = .next t ∧ t.bellows.state = .retest ∧ t.bellows.retest = true ∧
       t.bellows.cells = s.bellows.cells ∧ t = { s with bellows := t.bellows, store := t.store }) ∧
     (s.bellows.state = .failed → s.setting 0x09 ≠ 0 → ∃ t, exec .entropyRetry s = .next t ∧ t.bellows.state = .retest ∧
       t.bellows.retest = true ∧ t.bellows.cells = s.bellows.cells ∧ t = { s with bellows := t.bellows, store := t.store }) ∧
     (s.setting 0x09 = 0 → exec .entropyRetry s = .next s)) ∧
   (∀ (s : State) (passed : BitVec 32), s.bellows.retest = true → twf {} s.bellows.cells = true →
     ∃ t, exec (.retestEnd passed) s = .next t ∧ t.bellows.retest = false ∧
       (∀ c, c < 32 → (t.cellOf c).out = ((s.cellOf c).out && !(passed.getLsbD c && !s.bellows.retestFail.getLsbD c))) ∧
       t.bellows.state = (if 8 ≤ t.inService then .ok else .failed) ∧ t.bellows.held = [] ∧
       (8 ≤ t.inService → t.bellows.seedQ = s.bellows.seedQ ++ s.bellows.held.filter (fun r => r.blocks != 0) ∧ t.engine = s.engine) ∧
       (t.inService < 8 → ∀ r ∈ s.bellows.held ++ s.bellows.seedQ, ∀ id o, r.who = .op id → s.opOf id = some o →
         t.Ended id 0x0402 (dDrbg o.desc % 4096) 0 []) ∧ t.rack.slots = s.rack.slots)) ∧
  ((∀ (q : List SeedReq) (r : SeedReq), nextSeed q = some r →
     ∃ a b, q = a ++ r :: b ∧ (∀ x ∈ a, r.level < x.level) ∧ ∀ x ∈ b, r.level ≤ x.level) ∧
   (∀ (s : State) (r : SeedReq), s.bellows.state = .ok → nextSeed s.bellows.seedQ = some r → ∃ t, exec .seedDelivery s = .next t ∧
     t.bellows.seedQ = s.bellows.seedQ.erase r ∧ t.bellows.seeds = s.bellows.seeds + 1 ∧ t.free = s.free + 16 * r.blocks ∧
     t.rack.slots = s.rack.slots ∧ t.bellows.insts = s.bellows.insts ∧
     (∀ id o, r.who = .op id → s.opOf id = some o → t.opOf id = some { o with seed := some (s.noise (16 * r.blocks)) }) ∧
     (r.who = .hearth → t.bellows.given = some (s.noise (16 * r.blocks))) ∧
     (r.who = .internal → t.bellows.internal.up = true ∧ t.bellows.internal.count = 0) ∧
     (∀ n, r.who = .mask n → twf 0 s.rack.maskSeeds = true →
       tget 0 t.rack.maskSeeds n = BitVec.ofNat 128 (leNat (s.noise (16 * r.blocks))))) ∧
   (∀ s : State, 64 < s.bellows.winPeak → ∃ t, exec .stretchWindow s = .next t ∧
     t.bellows.stretch = min (s.bellows.stretch + 1) (min (s.setting 0x0A) 16) ∧ t.bellows.winPeak = s.bellows.seedQ.length ∧
     t.bellows.lowWins = 0 ∧ t.bellows.insts = s.bellows.insts ∧ t = { s with bellows := t.bellows, store := t.store }) ∧
   (∀ s : State, s.bellows.winPeak ≤ 8 → ∃ t, exec .stretchWindow s = .next t ∧
     t.bellows.stretch = min (if s.bellows.lowWins = 99 then s.bellows.stretch - 1 else s.bellows.stretch)
       (min (s.setting 0x0A) 16) ∧
     t.bellows.lowWins = (if s.bellows.lowWins = 99 then 0 else s.bellows.lowWins + 1) ∧
     t = { s with bellows := t.bellows, store := t.store }) ∧
   (∀ s : State, 8 < s.bellows.winPeak → s.bellows.winPeak ≤ 64 → ∃ t, exec .stretchWindow s = .next t ∧
     t.bellows.stretch = min s.bellows.stretch (min (s.setting 0x0A) 16) ∧ t.bellows.lowWins = 0 ∧
     t = { s with bellows := t.bellows, store := t.store }) ∧
   (∀ s : State, s.bellows.internal.up = true → 65536 ≤ s.bellows.internal.count → s.waitsSeed .internal = false →
     ∃ t, exec .internalReseed s = .next t ∧ t.bellows.seedQ = s.bellows.seedQ ++ [{ who := .internal, level := 1, blocks := 3 }] ∧
       t.bellows.internal = s.bellows.internal ∧ t = { s with bellows := t.bellows }) ∧
   (∀ s : State, s.pfOpen = true → ∃ v, exec .seedQueuePeakRead s =
     .next (State.emit (.value v) { s with bellows := { s.bellows with peak := 0 } }) ∧
     bits v 15 0 = min 65535 s.bellows.seedQ.length ∧ (s.bellows.peak < 65536 → bits v 31 16 = s.bellows.peak)) ∧
   (∀ s : State, s.bellows.state = .ok → (∀ b, s.waitsSeed (.mask b) = false) → ∃ t, exec .maskReseed s = .next t ∧
     t.bellows.seedQ = s.bellows.seedQ ++
       ([0, 1, 2, 3, 4, 5, 6, 8, 9, 10, 11, 12, 13, 14, 15].map fun b => { who := .mask b, level := 1, blocks := 1 }) ∧
     t = { s with bellows := t.bellows }) ∧
   (∀ s : State, s.bellows.state = .failed → ∃ t, exec .maskReseed s = .next t ∧ t.rack.maskSeeds = s.rack.maskSeeds ∧
     t = { s with rack := t.rack, store := t.store })) ∧
  ((∀ (s u : State) (op : Nat) (o : Op) (dma : Dma) (f i : Nat) (x : Inst), s.opOf op = some o → o.stage = .block →
     u = s.askInst op → u.askedBefore o = [] → f = o.fn → i = dDrbg o.desc → x = s.instOf f i →
     (∀ e, o.opcode = 0x0501 → x.up = false → o.seed = some e → exec (.drbgInstantiate op dma) s =
       .next (((State.used op (u.readLists o)).seedInst f i e (drbgString o dma)).finish op 0 0 0 [])) ∧
     (o.opcode = 0x0501 → x.up = true → exec (.drbgInstantiate op dma) s = .next ((u.readLists o).fail op 0x0301 s.chip.state.code)) ∧
     (∀ e, o.opcode = 0x0503 → x.up = true → o.seed = some e → exec (.drbgReseed op dma) s =
       .next (((State.used op (u.readLists o)).seedInst f i e (drbgString o dma)).finish op 0 0 0 [])) ∧
     (o.opcode = 0x0503 → x.up = false → exec (.drbgReseed op dma) s = .next ((u.readLists o).fail op 0x0401 i)) ∧
     (∀ r, o.opcode = 0x0502 → (dAux o.desc).testBit 0 = false → (u.hasRead o dma).DrawsNow o →
       check7 o.desc dma 0 (dDlen o.desc) = none → r = genInst x (dDlen o.desc) (drbgString o dma) →
         exec (.drbgGenerate op dma) s = .next ((((u.hasRead o dma).drew o (dDlen o.desc) r.2).writeOut o dma r.1).finish op 0 0
           (dDlen o.desc) (leBytes 4 (x.count + 1) ++ [0]))) ∧
     (∀ e v r, o.opcode = 0x0502 → x.up = true → (dAux o.desc).testBit 0 = true ∨ x.stalled = true → o.seed = some e →
       check7 o.desc dma 0 (dDlen o.desc) = none → (u.hasRead o dma).Turn o →
       v = State.seedInst f i e (drbgString o dma) (State.used op (u.hasRead o dma)) → r = genInst (v.instOf f i) (dDlen o.desc) [] →
         exec (.drbgGenerate op dma) s = .next (((State.countRate 5 0 (dDlen o.desc)
           (State.served op (v.setInst f i r.2))).writeOut o dma r.1).finish op 0 0 (dDlen o.desc) (leBytes 4 1 ++ [1]))) ∧
     (o.opcode = 0x0502 → x.up = false → check7 o.desc dma 0 (dDlen o.desc) = none →
       exec (.drbgGenerate op dma) s = .next ((u.hasRead o dma).fail op 0x0401 i)) ∧
     (o.opcode = 0x0504 → exec (.drbgUninstantiate op) s = .next ((u.setInst f i {}).finish op 0 0 0 []))) ∧
   (∀ (s : State) (f i : Nat) (e add : Bytes), ((s.seedInst f i e add).instOf f i).up = true ∧
     ((s.seedInst f i e add).instOf f i).count = 0 ∧ ((s.seedInst f i e add).instOf f i).exp = 16 + s.bellows.stretch ∧
     (twf {} s.bellows.insts = true → (s.setInst f i {}).instOf f i = {})))

/-! ### Keys (05, 06) -/

/-- R137, R163 to R167, R344: KEY_GENERATE of a sound template reserves a slot of the tenant and asks for its blocks; with both it places
a key of the template made of the blocks. A bad template ends it with ST_BAD_FIELD and the byte. KEY_MOVE moves a key to its target,
KEY_UNLOAD erases one and lowers SLOTS_USED. R154, R157, R158, R164, R166, R168: placing a key puts its material, its attribute word with
VALID 1, and CHECK into the target slot alone; the operation ends with ST_OK, the slot's number and the KCV. -/
def Obligations.KeysMade : Prop :=
  ((∀ (s : State) (op : Nat) (o : Op) (n : Nat) (e key : Bytes), s.Serving op 0x0601 o → templateFault (dParam o.desc) o.tenant = none →
     s.Target o o.keySlot n → o.reserved = true → o.seed = some e →
     shapeKey (aAlg (attrOf (dParam o.desc))) (aSub (attrOf (dParam o.desc))) (e.take (aKlen (attrOf (dParam o.desc)))) = some key →
     exec (.keyGenerate op) s = .next ((State.used op s).placeKey o n (attrOf (dParam o.desc)) 0 key)) ∧
   (∀ (s : State) (op : Nat) (o : Op) (n : Nat), s.Serving op 0x0601 o → templateFault (dParam o.desc) o.tenant = none →
     s.Target o o.keySlot n → o.reserved = false → o.seed = none → s.bellows.state = .ok → s.waitsSeed (.op op) = false →
     (s.tenantOf o.tenant).slotsUsed < (s.tenantOf o.tenant).slotQuota → 0 < aKlen (attrOf (dParam o.desc)) →
     ∃ t, exec (.keyGenerate op) s = .next t ∧ (t.tenantOf o.tenant).slotsUsed = (s.tenantOf o.tenant).slotsUsed + 1 ∧
       t.opOf op = some { o with reserved := true } ∧ t.bellows.seedQ = s.bellows.seedQ ++
         [{ who := .op op, level := 2, blocks := (aKlen (attrOf (dParam o.desc)) + 15) / 16 }] ∧ t.rack = s.rack) ∧
   (∀ (s : State) (op : Nat) (o : Op) (k : Nat), s.Serving op 0x0601 o → templateFault (dParam o.desc) o.tenant = some k →
     exec (.keyGenerate op) s = .next (s.fail op 0x0102 (32 + k))) ∧
   (∀ (s : State) (op : Nat) (o : Op) (n : Nat), s.Serving op 0x0603 o → ¬ (anyFlag o = true ∧ auxSlot o ≠ 0) → s.powered 28 = true →
     s.Holds o o.keySlot → s.Target o (auxSlot o) n →
     exec (.keyMove op) s = .next (((s.eraseSlot o.keySlot).placeSlot n (s.slotOf o.keySlot).attr
       (s.slotOf o.keySlot).material).finish op 0 0 0 (placedResult n (leBytes 3 (aKcv (s.slotOf o.keySlot).attr))))) ∧
   (∀ (s : State) (op : Nat) (o : Op), s.Serving op 0x0602 o → s.powered 28 = true → s.Holds o o.keySlot → twf {} s.rack.slots = true →
     twf {} s.vault.tenants = true → o.reserved = false → ∃ t, exec (.keyUnload op) s = .next t ∧ t.slotOf o.keySlot = {} ∧
       (∀ m, m ≠ o.keySlot → t.slotOf m = s.slotOf m) ∧
       t.tenantOf o.tenant = { s.tenantOf o.tenant with slotsUsed := (s.tenantOf o.tenant).slotsUsed - 1 } ∧ t.Ended op 0 0 0 [] ∧
       t.crucible = s.crucible ∧ t.sent = s.sent)) ∧
  ((∀ (s : State) (o : Op) (n origin : Nat) (attr : BitVec 128) (key : Bytes) (p : Op), s.opOf o.id = some p →
     let t := s.placeKey o n attr origin key
     let kcv := kcvOf (aAlg attr) (aSub attr) key
     (t.slotOf n).material = materialOf key ∧ (t.slotOf n).attr = finalAttr attr origin kcv ∧
       (t.slotOf n).check = t.checkOf n (t.slotOf n) ∧ (∀ m, m ≠ n → t.slotOf m = s.slotOf m) ∧
       t.Ended o.id 0 0 0 (placedResult n kcv) ∧ t.crucible = s.crucible ∧ t.chip = s.chip ∧ t.store = s.store) ∧
   (∀ (a : BitVec 128) (origin : Nat) (kcv : Bytes), aValid (finalAttr a origin kcv) = true ∧
     aTenant (finalAttr a origin kcv) = aTenant a ∧ aClass (finalAttr a origin kcv) = aClass a))

/-- R163, R173 to R176, R188 to R193, R244: KEY_ATTR_READ writes the attribute word, KEY_SAVE a sealed blob of KIND 1, KEY_EXPORT a key
block padded with the blocks delivered; BLOB_REWRAP unwraps a sound blob into the rewrap buffer of a lane and, from there, writes it under
the current epoch; KEY_RESTORE and KEY_IMPORT place the key of a sound blob or key block. R183 to R187: a temperature reading sets the
band; a Temper pass starts, where none runs, with the next pass number at slot 0; a rewrite moves on to the next slot and leaves what the
slot holds, but erases a slot whose CHECK does not match; the pass ends after slot 65,535 and is counted. -/
def Obligations.KeysMovedAndTempered : Prop :=
  (∀ (s : State) (op : Nat) (o : Op) (dma : Dma), s.powered 28 = true →
     (s.Serving op 0x0604 o → s.Holds o o.keySlot → check7 o.desc dma 0 16 = none → exec (.keyAttrRead op dma) s =
       .next (((s.hasRead o dma).writeOut o dma (attrBytes (s.slotOf o.keySlot).attr)).finish op 0 0 16 [])) ∧
     (s.Serving op 0x0607 o → s.Holds o o.keySlot → check7 o.desc dma 0 144 = none →
       let b := s.sealBlob 1 o.tenant 0 (attrBytes (s.slotOf o.keySlot).attr) (leBytes 72 (s.slotOf o.keySlot).material.toNat)
       exec (.keySave op dma) s = .next (((s.hasRead o dma).writeOut o dma b).finish op 0 0 b.length [])) ∧
     (∀ r, s.Serving op 0x0606 o → s.Holds o o.keySlot → s.Holds o (auxSlot o) → check7 o.desc dma 0 240 = none →
       admits (s.slotOf o.keySlot).attr 6 ['E', 'B'] = true → protFits (dPlan o.desc % 256 == 0x44) (s.slotOf o.keySlot).attr = true →
       mayLeave (s.slotOf (auxSlot o)).attr false = true → o.seed = some r →
       let p := s.slotOf o.keySlot
       let x := s.slotOf (auxSlot o)
       let b := kbWrite (dPlan o.desc % 256 == 0x44) x.attr x.key (member p.attr p.key 0) r
       exec (.keyExport op dma) s = .next (((State.used op (s.hasRead o dma)).writeOut o dma b).finish op 0 0 b.length [])) ∧
     (∀ m l, s.Serving op 0x0609 o → check7 o.desc dma (dDlen o.desc) (dDlen o.desc) = none → s.rewrapOf op = none →
       s.blobFault (opData o dma) o.tenant [1, 2, 3, 4] = none → s.openBlob (opData o dma) o.tenant = some m → s.rewrapLane = some l →
       let u := s.hasRead o dma
       exec (.blobRewrap op dma) s = .next { u with rack := { u.rack with
         rewraps := tset {} l { op := op, data := (opData o dma).take 32 ++ m } u.rack.rewraps } }) ∧
     (∀ r, s.Serving op 0x0609 o → check7 o.desc dma (dDlen o.desc) (dDlen o.desc) = none → s.rewrapOf op = some r →
       exec (.blobRewrap op dma) s = .next (((s.hasRead o dma).writeOut o dma
         (s.sealBlob (byteAt r.data 5).toNat o.tenant (leAt r.data 10 2) (slice r.data 16 16) (r.data.drop 32))).finish op 0 0
           (dDlen o.desc) [])) ∧
     (∀ m n, s.Serving op 0x0608 o → s.blobFault (opParams o dma) o.tenant [1] = none → s.Target o (auxSlot o) n → o.reserved = true →
       s.openBlob (opParams o dma) o.tenant = some m →
       let a := attrOf (slice (opParams o dma) 16 16)
       exec (.keyRestore op dma) s = .next ((s.readLists o).placeKey o n a 3 (m.take (aKlen a)))) ∧
     (∀ h key n, s.Serving op 0x0605 o → s.Holds o o.keySlot → admits (s.slotOf o.keySlot).attr 6 ['D', 'B'] = true →
       (let x := s.slotOf o.keySlot
        kbHeader (opParams o dma) (dPlan o.desc % 16) o.tenant (aAlg x.attr) (aSub x.attr) = .ok h ∧
          kbOpen (opParams o dma) h (member x.attr x.key 0) = some key) →
       s.Target o (auxSlot o) n → o.reserved = true →
       exec (.keyImport op dma) s = .next ((s.readLists o).placeKey o n (kbAttr h key.length) 1 key))) ∧
  ((∀ (s : State) (tj : Int), exec (.temperTempRead tj) s =
     .next { s with rack := { s.rack with band := some (nextBand s.rack.band tj) } }) ∧
   (∀ s : State, s.chip.state = .ready ∨ s.chip.state = .locked ∨ s.chip.state = .recovery → s.rack.running = false →
     s.tamper.quench = false → ∃ t, exec .temperPassStart s = .next t ∧ t.rack.running = true ∧ t.rack.reached = 0 ∧
       t.rack.pass = s.rack.pass + 1 ∧ t.rack.periodMs = s.temperPeriod ∧ t.rack.slots = s.rack.slots ∧ t = { s with rack := t.rack }) ∧
   (∀ s : State, s.rack.running = true → s.tamper.quench = false → s.rack.reached < 65536 →
     (aValid (s.slotOf s.rack.reached).attr = false ∨
       (s.slotOf s.rack.reached).check = s.checkOf s.rack.reached (s.slotOf s.rack.reached)) →
     ∃ t, exec .temperSlotRewrite s = .next t ∧ t.rack.slots = s.rack.slots ∧ t.rack.reached = s.rack.reached + 1 ∧
       (s.rack.reached < 65535 → t = { s with rack := { s.rack with reached := s.rack.reached + 1 } }) ∧
       (s.rack.reached = 65535 → t.rack.running = false ∧ t.rack.passes = s.rack.passes + 1) ∧ t.vault = s.vault ∧
       t.engine = s.engine) ∧
   (∀ s : State, s.rack.running = true → s.tamper.quench = false → aValid (s.slotOf s.rack.reached).attr = true →
     (s.slotOf s.rack.reached).check ≠ s.checkOf s.rack.reached (s.slotOf s.rack.reached) → twf {} s.rack.slots = true →
     ∃ t, exec .temperSlotRewrite s = .next t ∧ t.slotOf s.rack.reached = {}))

/-! ### Regions and blocks (01) -/

/-- R20, R28, R36, R302, R308, R347: the Cipher, the Plan and the Number region grant a dispatch to the pending function owed most, the
lowest number among equals; each pending function gains its share and the granted one gives up one dispatch. Bellows serves the functions
in turn. A lane that qualifies, the pipeline that the steering table names, a Hammer unit and the DRBG block take the operation, a keyed
one with the key that the Rack sends once check 6 is passed; a generate request takes a free generator core when no request for its
instance came before it. With no block of the class in service the operation ends with ST_RESOURCE_OFFLINE and the class's lowest index.
R20, R147: at an epoch every function's new weights take effect, the functions with work become the pending ones, and a function without
work loses its credit. R311, R321, R327 to R329, R332: a verdict ends an operation with ST_OK or with ST_VERIFY_FAILED; a job marked to
yield stops at its yield point, where the waiting one starts, or the waiting one starts on the unit where the job has ended; the stopped
one runs on once the other has ended; an abort ends the host's job of the unit with ST_ABORTED and leaves one of the Hearth. -/
def Obligations.Dispatching : Prop :=
  ((∀ (owed : Nat → Rat) (l : List Nat) (f : Nat), mostOwed owed l = some f → f ∈ l ∧ (∀ g ∈ l, owed g ≤ owed f) ∧
     (l.Pairwise (· < ·) → ∀ g ∈ l, owed g = owed f → f ≤ g)) ∧
   (∀ (s : State) (r f g : Nat), twf 0 s.engine.credit = true → g ∈ s.pendingFns r →
     tget 0 (s.charge r f).engine.credit (schedKey r g) = s.owed r g - (if g = f then 1 else 0)) ∧
   (∀ (s t : State) (f : Nat), s.granted 1 (fun f => (s.nextOf .cipher f).isSome) = some f →
     (s.charge 1 f).nextOf .cipher f = some t → exec (.regionDispatch .cipher) s = .next t) ∧
   (∀ (s t : State) (f : Nat), s.granted 2 (fun f => (s.nextOf .plan f).isSome) = some f →
     (s.charge 2 f).nextOf .plan f = some t → exec (.regionDispatch .plan) s = .next t) ∧
   (∀ (s t : State) (f : Nat), s.granted 3 (fun f => (s.nextOf .number f).isSome) = some f →
     (s.charge 3 f).nextOf .number f = some t → exec (.regionDispatch .number) s = .next t) ∧
   (∀ (s t : State) (f : Nat), roundRobin 256 (tget 255 s.engine.rrLast 0x13) (fun f => (s.nextOf .random f).isSome) = some f →
     s.nextOf .random f = some t → exec (.regionDispatch .random) s =
       .next { t with engine := { t.engine with rrLast := tset 255 0x13 f t.engine.rrLast } }) ∧
   (∀ (s : State) (o : Op) (b : Nat), s.classOut (lanesOf o.opcode) = false → s.laneFor o = some b →
     (laneKeyed o.opcode = false → s.tryLane o = some (s.takeOp o.id b [])) ∧
     (laneKeyed o.opcode = true → s.powered 28 = true → (s.blockOf 0x12).out = false → s.Holds o o.keySlot →
       laneFault o (s.slotOf o.keySlot) = none →
       s.tryLane o = some ((s.fillCache b o (s.slotOf o.keySlot)).takeOp o.id b [copyOf o.keySlot (s.slotOf o.keySlot)]))) ∧
   (∀ (s : State) (o : Op) (i : Nat), o.pipe = some i → s.blockState (8 + s.steerOf i) = 0 → s.steerOf i < 8 →
     s.tryPipe o = some (s.takeOp o.id (8 + s.steerOf i) [])) ∧
   (∀ (s : State) (o : Op) (u : Nat) (p : Bool), jobKeyed o.opcode = false → s.classOut (unitsFor o.prio) = false →
     s.unitFor o = some (u, p) → s.tryUnit o = some (s.takeUnit o u p)) ∧
   (∀ (s : State) (o k : Op) (u : Nat) (p : Bool), jobKeyed o.opcode = true → s.classOut (unitsFor o.prio) = false →
     s.powered 28 = true → (s.blockOf 0x12).out = false → s.Holds o o.keySlot → jobFault o (s.slotOf o.keySlot) = none →
     k = { o with keys := [copyOf o.keySlot (s.slotOf o.keySlot)] } → s.unitFor k = some (u, p) → s.tryUnit o = some (s.takeUnit k u p)) ∧
   (∀ (s : State) (o : Op), s.blockState 0x13 = 0 → o.opcode ≠ 0x0502 → s.tryRandom o = some ((s.takeOp o.id 0x13 []).askInst o.id)) ∧
   (∀ (s : State) (o : Op) (c : Nat), s.blockState 0x13 = 0 → o.opcode = 0x0502 → s.coreFor o.id = some c → s.askedBefore o = [] →
     s.tryRandom o = some (((s.takeOp o.id 0x13 []).askInst o.id).takeCore c o.id)) ∧
   (∀ (s : State) (o : Op), (s.classOut (lanesOf o.opcode) = true → s.tryLane o = some (s.fail o.id 0x0302 ((lanesOf o.opcode).headD 0))) ∧
     (s.classOut ((List.range 8).map (· + 8)) = true → s.tryPipe o = some (s.fail o.id 0x0302 8)) ∧
     (s.classOut (unitsFor o.prio) = true → s.tryUnit o = some (s.fail o.id 0x0302 0x40)) ∧
     ((s.blockOf 0x13).out = true → s.tryRandom o = some (s.fail o.id 0x0302 0x13)))) ∧
  (∀ s : State, twf {} s.fns = true → (∀ e ∈ s.fns, e.1 < 256) → ∃ t, exec .schedulingEpoch s = .next t ∧
     t.engine.epoch = s.engine.epoch + 1 ∧ (∀ f, (t.fnOf f).shareNow = (s.fnOf f).share ∧ (t.fnOf f).share = (s.fnOf f).share ∧
       (t.fnOf f).queues = (s.fnOf f).queues) ∧
     (∀ r f, r < 4 → f ∈ 0 :: s.fns.map (·.1) → (f ∈ t.pendingFns r ↔ s.hasWork r f = true)) ∧
     (∀ r f, r < 4 → f ∈ 0 :: s.fns.map (·.1) → s.hasWork r f = false → tget 0 t.engine.credit (schedKey r f) = 0) ∧
     t.engine.tasks = s.engine.tasks ∧ t = { s with fns := t.fns, engine := t.engine }) ∧
  ((∀ (s : State) (o : Op), s.verdict o true = s.finish o.id 0 0 0 [] ∧ s.verdict o false = s.fail o.id 0x0501 0) ∧
   (∀ (s : State) (u : Fin 4) (r id : Nat), (s.unitOf (60 + u.val)).marked = some r → (s.unitOf (60 + u.val)).job = some id →
     ∃ t, exec (.yieldPoint u) s = .next t ∧
       t.unitOf (60 + u.val) = { s.unitOf (60 + u.val) with job := some r, held := some id, marked := none, upper := s.jobKeys r } ∧
       (∀ o, s.opOf id = some o → t.opOf id = some { o with stage := .yielded }) ∧ (∀ j, j ≠ id → t.opOf j = s.opOf j) ∧
       (∀ v, v ≠ 60 + u.val → t.unitOf v = s.unitOf v) ∧ t.hammer.yields = satInc 65535 s.hammer.yields ∧ t.rack = s.rack ∧
       t.sent = s.sent) ∧
   (∀ (s : State) (u : Fin 4) (r : Nat), (s.unitOf (60 + u.val)).marked = some r → (s.unitOf (60 + u.val)).job = none →
     exec (.yieldPoint u) s = .next (s.modUnit (60 + u.val) fun x => { x with job := some r, marked := none, lower := s.jobKeys r })) ∧
   (∀ (s : State) (u : Fin 4) (id : Nat), (s.unitOf (60 + u.val)).job = none → (s.unitOf (60 + u.val)).held = some id →
     ∃ t, exec (.preemptedResume u) s = .next t ∧ (t.unitOf (60 + u.val)).job = some id ∧ (t.unitOf (60 + u.val)).held = none ∧
       (∀ o, s.opOf id = some o → t.opOf id = some { o with stage := .block }) ∧ (∀ j, j ≠ id → t.opOf j = s.opOf j) ∧
       (∀ v, v ≠ 60 + u.val → t.unitOf v = s.unitOf v) ∧ t.rack = s.rack ∧ t.sent = s.sent) ∧
   (∀ (s : State) (v : BitVec 32) (id : Nat) (o : Op), s.pfOpen = true → v.getLsbD 8 = true → (s.unitOf (bits v 5 0)).job = some id →
     (s.unitOf (bits v 5 0)).held = none → id ≠ 0 → s.opOf id = some o → ∃ t, exec (.hammerAbort v) s = .next t ∧
       t.Ended id 0x0601 (0x40 + bits v 5 0) 0 [] ∧ t.hammer.abortUnit = bits v 5 0 ∧ t.rack.slots = s.rack.slots ∧ t.sent = s.sent) ∧
   (∀ (s : State) (v : BitVec 32), s.pfOpen = true → v.getLsbD 8 = false ∨ (s.unitOf (bits v 5 0)).job = some 0 ∧ (s.unitOf (bits v 5 0)).held = none →
     exec (.hammerAbort v) s = .next { s with hammer := { s.hammer with abortUnit := bits v 5 0 } }))

/-- R22 to R26, R30, R33, R43, R44, R426: a corrected error is counted and leaves level, service and operations alone; an uncorrectable
error and a failed check end the running operation they touched with ST_FAULT_DETECTED, block and code, raise the block's level and its
abort count, and at the limit take the block out of service; the level decays by one; in READY a bus integrity error of class LOCK locks
the chip, disables the key bus, ends its operation with code 5 and raises no level; the watchdog of a region that holds dispatched work
resets the chip with cause 3, and that of an idle region does nothing; a rate window's end moves its counts and the measured cycles into
the rate registers and starts the next window from 0. -/
def Obligations.BlockFaults : Prop :=
  (∀ (s : State) (b : BitVec 8) (op : Option Nat), blockUsed b.toNat = true → ∃ t, exec (.cellFault b .memC op) s = .next t ∧
    (t.blockOf b.toNat).corrected = satInc 255 (s.blockOf b.toNat).corrected ∧
    (t.blockOf b.toNat).level = (s.blockOf b.toNat).level ∧ (t.blockOf b.toNat).out = (s.blockOf b.toNat).out ∧
    t.engine.tasks = s.engine.tasks ∧ t.rack = s.rack ∧ t.chip = s.chip) ∧
  (∀ (s : State) (b : BitVec 8) (op : Nat) (o : Op) (k : CellFault), blockUsed b.toNat = true → k = .memU ∨ k = .check →
    s.opOf op = some o → o.stage ≠ .done → o.stage ≠ .yielded → ∃ t, exec (.cellFault b k (some op)) s = .next t ∧
      t.Ended op 0x0502 (b.toNat + 256 * faultCode k) 0 [] ∧
      (t.blockOf b.toNat).level = satInc 15 (s.blockOf b.toNat).level ∧
      (t.blockOf b.toNat).aborts = satInc 255 (s.blockOf b.toNat).aborts ∧
      (t.blockOf b.toNat).out = ((s.blockOf b.toNat).out ||
        decide (s.setting 0x01 ≤ satInc 15 (s.blockOf b.toNat).level)) ∧
      (∀ c, c ≠ b.toNat → t.blockOf c = s.blockOf c) ∧ t.rack.slots = s.rack.slots ∧ t.chip = s.chip ∧ t.crucible = s.crucible) ∧
  (∀ (s : State) (b : BitVec 8), twf {} s.engine.blocks = true → ∃ t, exec (.faultLevelDecay b) s = .next t ∧
    t.blockOf b.toNat = { s.blockOf b.toNat with level := (s.blockOf b.toNat).level - 1 } ∧
    (∀ c, c ≠ b.toNat → t.blockOf c = s.blockOf c) ∧ t = { s with engine := { s.engine with blocks := t.engine.blocks } }) ∧
  (∀ (s : State) (b : BitVec 8) (op : Nat) (o : Op), s.chip.state = .ready → s.tamper.quench = false → s.classOf 7 = 2 →
    s.opOf op = some o → o.stage ≠ .done → ∃ t, exec (.busIntegrityError b (some op)) s = .next t ∧ t.chip.state = .locked ∧
      t.chip.keyBus = false ∧ t.Ended op 0x0502 (b.toNat + 256 * 5) 0 [] ∧ t.engine.blocks = s.engine.blocks ∧
      t.rack.slots = s.rack.slots) ∧
  (∀ (s : State) (r : Fin 6), s.holdsWork r.val = false → exec (.regionWatchdogExpiry r) s = .next s) ∧
  (∀ (s : State) (r : Fin 6), s.holdsWork r.val = true → s.tamper.quench = false → ∃ t, exec (.regionWatchdogExpiry r) s = .next t ∧ t.chip.state = .start ∧
    t.chip.resetCause = 3 ∧ t.rack = {} ∧ t.queues = [] ∧ t.engine.tasks = [] ∧ t.crucible = s.crucible ∧
    t.life.stage = s.life.stage) ∧
  (∀ (s : State) (m : Vector (BitVec 16) 8), twf {} s.engine.rates = true → ∃ t, exec (.rateWindow m) s = .next t ∧
    t.engine.rateSeq = s.engine.rateSeq + 1 ∧ (∀ k : Fin 8, (tget {} t.engine.rates k.val).ops =
        satNat 32 (tget {} s.engine.rates k.val).curOps ∧
      (tget {} t.engine.rates k.val).kbytes = satNat 32 ((tget {} s.engine.rates k.val).curBytes / 1000) ∧
      (tget {} t.engine.rates k.val).cycle = (if (tget {} s.engine.rates k.val).curOps = 0 ∧ (tget {} s.engine.rates k.val).curBytes = 0
        then 0 else (m[k]).toNat) ∧ (tget {} t.engine.rates k.val).curOps = 0 ∧ (tget {} t.engine.rates k.val).curBytes = 0) ∧
    t.engine.tasks = s.engine.tasks ∧ t = { s with engine := t.engine })

/-! ### Tenants and functions (04) -/

/-- R109, R140, R144, R146, R147, R302: for a write to PF BAR0, a staging list without fault replaces the active one in one step and GEN
rises; a faulty one is refused with its cause and entry; a count of instances that the pool holds, and that no operation in flight stands
against, is taken; shares without a zero wait for the next epoch, and with one the write is dropped. The parameter block that a steering
read brings, once the operation may start, stays with it and the CRC-32C of its search key chooses the steering entry. R137, R380: a quota
write to PF BAR0 for a live tenant that keeps the tenant's use and the device's total, with the Hearth not halted, is accepted at once;
any other sets QUOTA_REFUSED and changes nothing else. While the Hearth serves and its region can be read, the accepted quotas become
persistent; with none to write, or with the region sealed under another root, nothing changes. R85, R148, R149: a message posted while
DOORBELL is 0 sets it and signals the other side; while DOORBELL is 1 the write is dropped with OVERRUN; an acknowledgement clears
DOORBELL, sets ACKED and signals. The VF's writes need the VF not under reset and are dropped while it is, the PF's need PF BAR0. -/
def Obligations.FunctionsAndTenants : Prop :=
  ((∀ s : State, s.pfOpen = true → (s.listFault s.qmgr.resFunc = none → exec .allowCommit s =
       .next (s.modFn s.qmgr.resFunc fun n => { n with active := n.staging, allowGen := n.allowGen + 1 })) ∧
     (∀ i c, s.listFault s.qmgr.resFunc = some (i, c) → exec .allowCommit s =
       .next { s with qmgr := { s.qmgr with listRefused := true, listCause := c, listEntry := i } })) ∧
   (∀ (s : State) (v : BitVec 32), s.pfOpen = true → bits v 12 0 ≤ 4096 →
     bits v 12 0 ≤ s.qmgr.drbgFree + (s.fnOf s.qmgr.resFunc).drbgCount →
     (∀ o ∈ s.engine.tasks, o.fn = s.qmgr.resFunc → o.namesInst (bits v 12 0) (s.fnOf s.qmgr.resFunc).drbgCount s = false) →
     twf {} s.fns = true → ∃ t, exec (.drbgCountWrite v) s = .next t ∧ (t.fnOf s.qmgr.resFunc).drbgCount = bits v 12 0 ∧
       t.qmgr.drbgFree + bits v 12 0 = s.qmgr.drbgFree + (s.fnOf s.qmgr.resFunc).drbgCount ∧
       (∀ f, f ≠ s.qmgr.resFunc → t.fnOf f = s.fnOf f) ∧ t.engine = s.engine ∧ t.rack = s.rack) ∧
   (∀ (s : State) (v : BitVec 32), s.pfOpen = true → 4096 < bits v 12 0 ∨ s.qmgr.drbgFree + (s.fnOf s.qmgr.resFunc).drbgCount < bits v 12 0 →
     exec (.drbgCountWrite v) s = .next { s with qmgr := { s.qmgr with drbgRefused := true } }) ∧
   (∀ (s : State) (v : BitVec 32), s.pfOpen = true → (∀ k < 4, bits v (8 * k + 7) (8 * k) ≠ 0) → exec (.shareWrite v) s =
     .next (s.modFn s.qmgr.shareSel fun n => { n with share := v })) ∧
   (∀ (s : State) (v : BitVec 32) (k : Nat), s.pfOpen = true → k < 4 → bits v (8 * k + 7) (8 * k) = 0 → exec (.shareWrite v) s =
     .next { s with qmgr := { s.qmgr with weightBad := true } }) ∧
   (∀ (s : State) (op : Nat) (o : Op) (b : Bytes), s.opOf op = some o → o.opcode = 0x0300 → o.stage = .steering → s.mayStart o = true →
     exec (.steeringReadDone op b) s =
       .next ((s.readHost o.fn [(dParamPtr o.desc, dParamLen o.desc)]).modOp op fun o' => { o' with
         pblk := some (fit (dParamLen o.desc) b), stage := .region
         pipe := some (crc32c (searchKey (searchTag 0 o.tenant) (searchIdent 0 (fit (dParamLen o.desc) b))) % 64) }))) ∧
  ((∀ (s : State) (v : BitVec 32), s.pfOpen = true →
     let e := s.tenantOf s.qmgr.tenSel
     (e.live = true → e.slotsUsed ≤ bits v 16 0 → s.slotQuotaSum - e.slotQuota + bits v 16 0 ≤ 65536 → s.worlds.hearth.status ≠ 3 →
       exec (.slotQuotaWrite v) s = .next (s.acceptQuota s.qmgr.tenSel fun x => { x with slotQuota := bits v 16 0 })) ∧
     (e.live = false ∨ bits v 16 0 < e.slotsUsed ∨ 65536 < s.slotQuotaSum - e.slotQuota + bits v 16 0 ∨ s.worlds.hearth.status = 3 →
       exec (.slotQuotaWrite v) s = .next { s with qmgr := { s.qmgr with quotaRefused := true } }) ∧
     (e.live = true → e.storeUsed ≤ bits v 12 0 → s.storeQuotaSum - e.storeQuota + bits v 12 0 ≤ 4096 → s.worlds.hearth.status ≠ 3 →
       exec (.storeQuotaWrite v) s = .next (s.acceptQuota s.qmgr.tenSel fun x => { x with storeQuota := bits v 12 0 })) ∧
     (e.live = false ∨ bits v 12 0 < e.storeUsed ∨ 4096 < s.storeQuotaSum - e.storeQuota + bits v 12 0 ∨ s.worlds.hearth.status = 3 →
       exec (.storeQuotaWrite v) s = .next { s with qmgr := { s.qmgr with quotaRefused := true } })) ∧
   (∀ s : State, s.worlds.hearth.status = 1 → s.regionOpen = true → s.vault.quotaDirty ≠ [] →
     ∃ t, exec .quotaPersist s = .next t ∧ t.vault.quotaDirty = [] ∧ t.vault.tenants = s.vault.tenants ∧
       (∀ d, (d, true) ∈ s.vault.quotaDirty → twf {} s.vault.kept = true →
         (tget {} t.vault.kept d).slotQuota = (s.tenantOf d).slotQuota ∧
         (tget {} t.vault.kept d).storeQuota = (s.tenantOf d).storeQuota) ∧ t = { s with vault := t.vault, store := t.store }) ∧
   (∀ s : State, s.regionOpen = false ∨ s.vault.quotaDirty = [] → exec .quotaPersist s = .next s)) ∧
  (∀ (s : State) (vf : BitVec 8), vf ≠ 0 → s.exists? vf.toNat = true →
     ((s.fnOf vf.toNat).flr = false → (s.fnOf vf.toNat).toDoor = false → exec (.mbxToPfDoorbell vf) s =
       .next ((s.modFn vf.toNat fun x => { x with toDoor := true }).signal 0 (1 + vf.toNat))) ∧
     ((s.fnOf vf.toNat).flr = false → (s.fnOf vf.toNat).toDoor = true → exec (.mbxToPfDoorbell vf) s =
       .next (s.modFn vf.toNat fun x => { x with toOver := true })) ∧
     ((s.fnOf vf.toNat).flr = false → exec (.mbxFromPfAck vf) s =
       .next ((s.modFn vf.toNat fun x => { x with fromDoor := false, fromAcked := true }).signal 0 (1 + vf.toNat))) ∧
     ((s.fnOf vf.toNat).flr = true → exec (.mbxToPfDoorbell vf) s = .next s ∧ exec (.mbxFromPfAck vf) s = .next s) ∧
     (s.pfOpen = true → exec (.mbxToPfAck vf) s =
       .next ((s.modFn vf.toNat fun x => { x with toDoor := false, toAcked := true }).signal vf.toNat 0)) ∧
     (s.pfOpen = true → (s.fnOf vf.toNat).fromDoor = false → exec (.mbxFromPfDoorbell vf) s =
       .next ((s.modFn vf.toNat fun x => { x with fromDoor := true }).signal vf.toNat 0)) ∧
     (s.pfOpen = true → (s.fnOf vf.toNat).fromDoor = true → exec (.mbxFromPfDoorbell vf) s =
       .next (s.modFn vf.toNat fun x => { x with fromOver := true })))

/-! ### Tamper (14) -/

/-- R423, R424, R434, R438, R444, R445: the balls LID_N and ZEROIZE_N clear their ACTIVE bits; a shield pattern without mismatch clears
its sector, and one more mismatch of a sector that is active trips nothing; a reading of Tj or VBAT in range clears its run and sets
ACTIVE by its own threshold; ZEROIZE_N starts a Quench under main power in READY and is ignored on battery; the fourth reading of Tj below
−45 °C trips: in class 2 with a LOCK that ends every operation outside the queue engine and erases no key; the second low VBAT reading
trips: in class 1 nothing but latch, log and messages changes R423, R424, R431, R432, R434, R440, R444: an open lid in READY under main
power, with no Quench running, trips its source in class 3 and starts a Quench: the state is QUENCHED, the key bus is off, the root, the
mask seed, the Rack with its caches and its mask key, every DRBG state, the contexts and the jobs of the Hammer are gone, and the latch
holds the source and class 3; the plan bundle, the fuses and the sealed custodian sets stay R423, R425, R427, R434, R444: a mismatch of a
loop in class 3 that is not active starts a Quench in READY and sets ACTIVE and the loop's bit; without a mismatch nothing but ACTIVE
changes, and from a source fused off nothing at all -/
def Obligations.TamperAlarms : Prop :=
  ((∀ s : State, exec .lidClose s = .next { s with pins := { s.pins with lidN := false }
                                                   tamper := { s.tamper with active := s.tamper.active &&& ~~~ BitVec.ofNat 12 (2 ^ 3) } }) ∧
   (∀ s : State, exec .zeroizeRelease s = .next { s with
     pins := { s.pins with zeroizeN := true }
     tamper := { s.tamper with active := s.tamper.active &&& ~~~ BitVec.ofNat 12 (2 ^ 9) } }) ∧
   (∀ s : State, s.pins.mainPower = false → exec .zeroize s = .next { s with pins := { s.pins with zeroizeN := false } }) ∧
   (∀ s : State, s.pins.mainPower = true → s.chip.state = .ready → s.chip.endState ≠ .recovery → s.tamper.quench = false → s.classOf 9 = 3 →
     s.tamper.active.getLsbD 9 = false → ∃ t, exec .zeroize s = .next t ∧ t.tamper.quench = true ∧ t.chip.state = .quenched ∧
       t.chip.keyBus = false ∧ t.crucible.drk = 0 ∧ t.rack.slots = [] ∧ t.pins.zeroizeN = false) ∧
   (∀ (s : State) (k : Fin 8), s.watched 0 = true → ∃ t, exec (.shield k 0) s = .next t ∧ t.tamper.shieldNow.getLsbD k.val = false ∧
     (∀ j : Fin 8, j ≠ k → t.tamper.shieldNow.getLsbD j.val = s.tamper.shieldNow.getLsbD j.val) ∧
     t.tamper.active.getLsbD 0 = (t.tamper.shieldNow != 0) ∧ t.tamper.sectors = s.tamper.sectors ∧ t.chip = s.chip ∧
     t = { s with tamper := t.tamper }) ∧
   (∀ (s : State) (k : Fin 8) (l : BitVec 64), l ≠ 0 → s.watched 0 = true → s.tamper.shieldNow.getLsbD k.val = true →
     ∃ t, exec (.shield k l) s = .next t ∧ t.tamper.active.getLsbD 0 = true ∧ t.tamper.shieldNow = s.tamper.shieldNow ∧
       t.tamper.sectors.getLsbD k.val = true ∧ t = { s with tamper := t.tamper }) ∧
   (∀ (s : State) (tj : Int), -360 ≤ tj → tj ≤ 1000 → ∃ t, exec (.tempReading tj) s = .next t ∧ t.tamper.tj = tj ∧
     t.tamper.lowRuns = 0 ∧ t.tamper.highRuns = 0 ∧ (s.watched 4 = true → t.tamper.active.getLsbD 4 = decide (tj < -320)) ∧
     (s.watched 5 = true → t.tamper.active.getLsbD 5 = decide (960 < tj)) ∧ t = { s with tamper := t.tamper }) ∧
   (∀ (s : State) (tj : Int), tj < -360 → s.tamper.lowRuns = 3 → s.chip.state = .ready → s.tamper.quench = false → s.classOf 4 = 2 →
     ∃ t, exec (.tempReading tj) s = .next t ∧ t.chip.state = .locked ∧ t.tamper.lowRuns = 4 ∧
       t.crucible.latchSrc = s.crucible.latchSrc ||| 16 ∧ t.rack.slots = s.rack.slots ∧ t.chip.keyBus = false ∧
       t.tamper.quench = false ∧ t.crucible.drk = s.crucible.drk ∧ (∀ o ∈ t.engine.tasks, o.inEngine = true → o.stage = .done) ∧
       t.crucible.latchCls = max s.crucible.latchCls 2) ∧
   (∀ (s : State) (mv : BitVec 12), s.pins.mainPower = true → 2400 ≤ mv.toNat → ∃ t, exec (.vbatReading mv) s = .next t ∧
     t.tamper.vbatMv = mv.toNat ∧ t.tamper.vbatRuns = 0 ∧
     (s.watched 10 = true → t.tamper.active.getLsbD 10 = decide (mv.toNat < 2500)) ∧ t = { s with tamper := t.tamper }) ∧
   (∀ (s : State) (mv : BitVec 12), s.pins.mainPower = true → mv.toNat < 2400 → s.tamper.vbatRuns = 1 → s.classOf 10 = 1 →
     ∃ t, exec (.vbatReading mv) s = .next t ∧ t.tamper.vbatRuns = 2 ∧ t.crucible.latchSrc = s.crucible.latchSrc ||| 1024 ∧
       t.crucible.latchCls = max s.crucible.latchCls (if s.tamper.quench = true ∨ s.chip.state = .quenched ∨
         1 < ((s.tamper.group.map (·.carried)).getD 0) then 0 else 1) ∧ t.chip = s.chip ∧ t.rack = s.rack ∧ t.engine = s.engine)) ∧
  (∀ s : State, s.chip.state = .ready → s.chip.endState ≠ .recovery → s.tamper.quench = false → s.pins.mainPower = true →
     s.watched 3 = true → s.classOf 3 = 3 → s.tamper.active.getLsbD 3 = false → ∃ t, exec .lid s = .next t ∧ t.pins.lidN = true ∧
       t.tamper.active.getLsbD 3 = true ∧ t.tamper.quench = true ∧ t.tamper.quenchAt = s.now ∧ t.chip.state = .quenched ∧
       t.chip.keyBus = false ∧ t.crucible.drk = 0 ∧ t.crucible.maskSeed = 0 ∧ t.rack.slots = [] ∧ t.rack.caches = [] ∧
       t.rack.maskKey = 0 ∧ t.bellows.internal = {} ∧ (∀ f i, (t.instOf f i).up = false ∧ (t.instOf f i).key = 0 ∧ (t.instOf f i).v = 0) ∧
       t.plan.ctxs = [] ∧ t.hammer.units = [] ∧ t.crucible.latchSrc = s.crucible.latchSrc ||| 8 ∧
       t.crucible.latchCls = max s.crucible.latchCls 3 ∧ t.plan.bundle = s.plan.bundle ∧ t.life = s.life ∧ t.vault.sets = s.vault.sets) ∧
  ((∀ (s : State) (b : Bool) (n : Nat), n = (if b then 2 else 1) → s.chip.state = .ready → s.chip.endState ≠ .recovery →
     s.tamper.quench = false → s.pins.mainPower = true → s.watched n = true → s.classOf n = 3 → s.tamper.active.getLsbD n = false →
     ∃ t, exec (.envelopeMismatch b true) s = .next t ∧ t.tamper.active.getLsbD n = true ∧ t.chip.state = .quenched ∧
       t.chip.keyBus = false ∧ t.tamper.quench = true ∧ t.rack.slots = [] ∧ t.crucible.drk = 0 ∧
       (if b then t.tamper.envB else t.tamper.envA) = true ∧ t.crucible.latchCls = max s.crucible.latchCls 3) ∧
   (∀ (s : State) (b : Bool) (n : Nat), n = (if b then 2 else 1) → s.watched n = true → exec (.envelopeMismatch b false) s =
     .next { s with tamper := { s.tamper with active := s.tamper.active &&& ~~~ BitVec.ofNat 12 (2 ^ n) } }) ∧
   (∀ (s : State) (b m : Bool) (n : Nat), n = (if b then 2 else 1) → s.watched n = false → exec (.envelopeMismatch b m) s = .next s))

/-- R430, R431, R434, R380: a Quench ends: no Quench runs, the operations in flight have ended, the Hearth's memory, claims and services
are cleared and it waits for its restart unless it is halted; a group closes once no Quench runs. CLASS_SET without a bad byte puts its
classes in force and answers ST_OK; the Hearth then makes them persistent, which counts words of its region; FUSE_DISABLE in READY in
TEST_UNLOCKED or DEV blows the fuses of the sources named and answers with all that are blown -/
def Obligations.TamperServices : Prop :=
  (∀ s : State, s.tamper.quench = true → s.chip.resetPending = none → ∃ t, exec .quenchComplete s = .next t ∧ t.tamper.quench = false ∧
    (∀ o ∈ t.engine.tasks, o.stage = .done) ∧ t.zwm.hmem = [] ∧ t.zwm.hclaim = 0 ∧ t.worlds.running = none ∧ t.worlds.pendingSvc = [] ∧
    t.vault.cer = none ∧ t.worlds.hearth.status =
      (if s.worlds.hearth.status = 0 ∨ s.worlds.hearth.status = 3 then s.worlds.hearth.status else 2)) ∧
  (∀ s : State, s.tamper.quench = false → exec .groupClose s = .next { s with tamper := { s.tamper with group := none } }) ∧
  (∀ s : State, s.serves 0x50 = true → s.chip.state = .ready → s.classFault s.mbxBody = none → s.worlds.discard = false →
    ∃ t, exec .classSet s = .next t ∧ (∀ n, n < 12 → s.watched n = true → t.classOf n = (byteAt s.mbxBody n).toNat) ∧
      t.tamper.classDirty = true ∧ t.worlds.rsp = mbxResponse 0x50 (leAt s.worlds.snap 2 2) 0 0 [] ∧ t.worlds.running = none ∧
      t.worlds.go = false ∧ t.worlds.done = true ∧ t.tamper.fused = s.tamper.fused ∧ t.crucible = s.crucible ∧ t.chip = s.chip) ∧
  (∀ s : State, s.tamper.classDirty = true → s.worlds.hearth.status = 1 → exec .classPersist s =
    .next (State.wroteRegion 3 { s with tamper := { s.tamper with keptClasses := s.tamper.classes, classDirty := false } })) ∧
  (∀ s : State, s.serves 0x51 = true → s.chip.state = .ready → s.lifeCode = 2 ∨ s.lifeCode = 3 → fuseFault s.mbxBody = none →
    s.worlds.discard = false → ∃ t, exec .fuseDisable s = .next t ∧
      t.tamper.fused = s.tamper.fused ||| BitVec.ofNat 16 (leAt s.mbxBody 0 2) ∧
      t.worlds.rsp = mbxResponse 0x51 (leAt s.worlds.snap 2 2) 0 0 (leBytes 2 t.tamper.fused.toNat) ∧ t.worlds.running = none ∧
      t.worlds.go = false ∧ t.worlds.done = true ∧ t.life = s.life ∧ t.crucible = s.crucible ∧ t.chip = s.chip)

/-! ### Power and clocks (17) -/

/-- R39, R464, R468, R469, R471, R484: once AVSBus is in use, in the adaptive mode a target inside limits from 600 to 900 mV stays inside
them and moves by at most 5 mV in a window, and each change is written to the controller, whose status is then read; in fixed mode the
fixed voltage is written after a change; before the Bench's start nothing is sent. A setting in range is taken and one out of range is
dropped with REFUSED; a readback within 25 mV is stored, a missing one abandons AVSBus; an alert reads the rail's status R442: on battery
a lid that opens with its source watched and not active is latched; the first trip erases the root, the mask seed and the check word and
sets the latch to class 3 under a new group, a later one does not; each writes a record with source, time and group, of which the buffer
never holds more than 64: with 64 the last one is replaced, with bit 7 set R473, R474: with no Quench running a lost reference resets the
chip with cause 4, holds it in reset and leaves the Crucible, the tamper block and the life-cycle stage alone; its return under main power
lets the chip start; a failed RTC crystal puts the Crucible on its internal oscillator and changes no ball, operation or key -/
def Obligations.SuppliesAndReferences : Prop :=
  ((∀ (s : State) (u : Vector (Fin 101) 4), s.power.avsOn = true → s.power.avsFail = false → s.chip.held = false → s.power.avsMode = 0 →
     600 ≤ s.power.minMv → s.power.maxMv ≤ 900 → s.power.minMv ≤ s.power.target → s.power.target ≤ s.power.maxMv → ∃ t, exec (.avsWindow u) s = .next t ∧
       s.power.minMv ≤ t.power.target ∧ t.power.target ≤ s.power.maxMv ∧ t.power.target ≤ s.power.target + 5 ∧
       s.power.target ≤ t.power.target + 5 ∧
       (t.power.target ≠ s.power.target → t.sent = .avsStatus (s.setting 0x13) :: .avsWrite (s.setting 0x13) t.power.target :: s.sent ∧
         t.power.steps = s.power.steps + 1) ∧
       (t.power.target = s.power.target → t = s) ∧ t = { s with power := t.power, sent := t.sent }) ∧
   (∀ (s : State) (u : Vector (Fin 101) 4), s.power.avsOn = true → s.power.avsFail = false → s.chip.held = false → s.power.avsMode = 1 →
     ∃ t, exec (.avsWindow u) s = .next t ∧ t.power.target = s.power.fixedMv ∧ t = { s with power := t.power, sent := t.sent }) ∧
   (∀ (s : State) (u : Vector (Fin 101) 4), s.power.avsOn = false → exec (.avsWindow u) s = .next s) ∧
   (∀ (s : State) (v : BitVec 32), s.pfOpen = true → bits v 1 0 ≤ 2 → mvOk (bits v 25 16) = true → exec (.avsSettingsWrite false v) s =
     .next { s with power := { s.power with avsMode := bits v 1 0, fixedMv := bits v 25 16 } }) ∧
   (∀ (s : State) (v : BitVec 32), s.pfOpen = true → mvOk (bits v 9 0) = true → mvOk (bits v 25 16) = true → bits v 9 0 ≤ bits v 25 16 →
     exec (.avsSettingsWrite true v) s =
       .next { s with power := { s.power with minMv := bits v 9 0, maxMv := bits v 25 16 } }) ∧
   (∀ (s : State) (v : BitVec 32) (l : Bool), s.pfOpen = true →
     mvOk (bits v 25 16) = false ∨ (l = true ∧ mvOk (bits v 9 0) = false) ∨ (l = true ∧ bits v 25 16 < bits v 9 0) →
     exec (.avsSettingsWrite l v) s =
     .next { s with power := { s.power with refused := true } }) ∧
   (∀ (s : State) (mv : BitVec 10), s.power.avsOn = true → s.power.avsMode ≠ 2 → s.power.avsFail = false → mv.toNat ≤ s.power.target + 25 →
     s.power.target ≤ mv.toNat + 25 → exec (.avsReadback (some mv)) s =
       .next { s with power := { s.power with vout := mv.toNat, devRuns := 0 } }) ∧
   (∀ (s : State), s.power.avsOn = true → s.power.avsMode ≠ 2 → s.power.avsFail = false → ∃ t, exec (.avsReadback none) s = .next t ∧
     t.power.avsFail = true ∧ t.power.target = s.power.target) ∧
   (∀ (s : State) (v : BitVec 16), s.power.avsOn = true → s.power.avsMode ≠ 2 → s.power.avsFail = false → exec (.avsAlert (some v)) s =
     .next (State.emit (.avsStatus (s.setting 0x13)) { s with power := { s.power with railStatus := v } }))) ∧
  ((∀ (s : State), s.pins.mainPower = false → s.pins.vbat = true → s.watched 3 = true → s.tamper.active.getLsbD 3 = false →
     ∃ t, exec .lid s = .next t ∧ t.crucible.tripped = true ∧ t.crucible.latchSrc = s.crucible.latchSrc ||| 8 ∧
       (s.crucible.tripped = false → t.crucible.drk = 0 ∧ t.crucible.maskSeed = 0 ∧ t.crucible.drkCheck = 0 ∧
         t.crucible.latchCls = 3 ∧ t.crucible.latchGroup = s.crucible.latchGroup + 1) ∧
       (s.crucible.tripped = true → t.crucible.drk = s.crucible.drk ∧ t.crucible.latchCls = s.crucible.latchCls ∧
         t.crucible.latchGroup = s.crucible.latchGroup) ∧
       (s.crucible.batRecs.length < 64 → ∃ r, t.crucible.batRecs = s.crucible.batRecs ++ [r] ∧ r.source = 3 ∧
         r.secs = s.crucible.rtc ∧ r.group = t.crucible.latchGroup) ∧
       t.life = s.life ∧ t.rack = s.rack ∧ t.store = s.store) ∧
   (∀ (r : BatRec) (l : List BatRec), l.length ≤ 64 → (addBatRec r l).length ≤ 64) ∧
   (∀ (r : BatRec) (l : List BatRec), l.length = 64 → (addBatRec r l).length = 64 ∧ (addBatRec r l).take 63 = l.take 63 ∧
     ∃ x, (addBatRec r l).getLast? = some x ∧ x.flags.getLsbD 7 = true ∧ x.source = r.source)) ∧
  ((∀ s : State, s.tamper.quench = false → ∃ t, exec .referenceLost s = .next t ∧ t.chip.held = true ∧ t.pins.refClock = false ∧
     t.chip.resetCause = 4 ∧ t.tamper = s.tamper ∧ t.crucible = s.crucible ∧ t.rack = {} ∧ t.engine.tasks = [] ∧
     t.life.stage = s.life.stage) ∧
   (∀ s : State, s.pins.mainPower = true → exec .referenceRestored s =
     .next { s with pins := { s.pins with refClock := true }, chip := { s.chip with held := false } }) ∧
   (∀ s : State, ∃ t, exec .rtcFail s = .next t ∧ t.crucible = { s.crucible with rtcInternal := true } ∧ t.chip = s.chip ∧
     t.rack = s.rack ∧ t.engine = s.engine ∧ t.pins = s.pins ∧ t.life = s.life))

/-- R47 to R49, R478 to R481, R484: a domain that is ON and may power down starts to, or is DEFERRED where it is claimed; once its
memories are erased it is OFF, its lanes' caches gone; work or a claim powers it up, which counts a wake; at the end it is ON, and with
PD28 the descriptors that waited for check 4 go on. The Hearth's claim is set and released; a DEFERRED domain whose last claim goes powers
down, or is ON where it may not. -/
def Obligations.PowerDomains : Prop :=
  ∀ (s : State) (pd : Fin 30), twf {} s.power.domains = true →
    (∀ us : BitVec 16, (s.domainOf pd.val).st = .on → s.mayPowerDown pd.val us.toNat = true → s.worlds.bench.status = 1 →
      exec (.powerDownRequest pd us) s = .next (s.modDomain pd.val fun x => { x with
        st := if s.claimed pd.val then .deferred else .poweringDown })) ∧
    ((s.domainOf pd.val).st = .poweringDown → (s.domainOf pd.val).upAgain = false → s.claimed pd.val = false →
      ∃ t, exec (.powerDownDone pd) s = .next t ∧ (t.domainOf pd.val).st = .off ∧
        (∀ d, d ≠ pd.val → t.domainOf d = s.domainOf d) ∧ (∀ b, blockDomain b = pd.val → blockUsed b = true → b < 7 → t.cacheOf b = []) ∧
        t.rack.slots = s.rack.slots ∧ t.engine = s.engine ∧ t.crucible = s.crucible) ∧
    ((s.domainOf pd.val).st = .off → exec (.powerUp pd) s = .next (s.powerUp pd.val)) ∧
    ((s.powerUp pd.val).domainOf pd.val).st = .poweringUp ∧
    ((s.powerUp pd.val).domainOf pd.val).wakes = satInc 255 (s.domainOf pd.val).wakes ∧
    ((s.domainOf pd.val).st = .poweringUp → pd.val ≠ 28 →
      exec (.powerUpDone pd) s = .next (s.modDomain pd.val fun x => { x with st := .on })) ∧
    ((s.domainOf pd.val).st = .poweringUp → pd.val = 28 →
      exec (.powerUpDone pd) s = .next (s.modDomain pd.val fun x => { x with st := .on }).resumeChecks) ∧
    (∃ t, exec (.hclaimSet pd) s = .next t ∧ t.zwm.hclaim.getLsbD pd.val = true ∧
      ((s.domainOf pd.val).st = .off → (t.domainOf pd.val).st = .poweringUp) ∧
      (∀ d, d ≠ pd.val → t.domainOf d = s.domainOf d) ∧ t.rack = s.rack ∧ t.engine = s.engine) ∧
    (∀ us : BitVec 16, (s.domainOf pd.val).st ≠ .deferred → ∃ t, exec (.hclaimRelease pd us) s = .next t ∧
      t.zwm.hclaim.getLsbD pd.val = false ∧ t.power = s.power ∧ t.rack = s.rack ∧ t.engine = s.engine) ∧
    (∀ (us : BitVec 16) (u : State), (s.domainOf pd.val).st = .deferred →
      u = { s with zwm := { s.zwm with hclaim := s.zwm.hclaim &&& ~~~ BitVec.ofNat 30 (2 ^ pd.val) } } → u.claimed pd.val = false →
      exec (.hclaimRelease pd us) s =
        .next (u.modDomain pd.val fun x => { x with st := if u.mayPowerDown pd.val us.toNat then .poweringDown else .on }))

/-! ### Recorder, settings and wear (19) -/

/-- R513, R514, R516 to R518, R520: a record enters the event queue at its end while it has room; where 256 wait, one of the Bench or the
Hearth is dropped and counted, and one of the aggregator takes the place of one that is not the aggregator's; the queue never grows beyond
256 records. The oldest one is committed: in place, one REPEAT higher, where the newest record equals it, else under the next SEQ. A
minute more of operating seconds is counted and committed R85, R513, R522, R523: a cursor of the Hearth, or of the host where PF BAR0
answers, beyond the newest record shows EMPTY and reads 0; one that names a held record latches it; a read returns a word of the latched
record, and a read of word 7 then latches the next one held. Where PF BAR0 does not answer, the host's read is an Unsupported Request -/
def Obligations.Records : Prop :=
  ((∀ (s : State) (h : Bool) (c : BitVec 16) (src : BitVec 8) (p : BitVec 96), s.store.queue.length < 256 → ∃ r : Record,
     exec (.recordAppend h c src p) s = .next { s with store := { s.store with queue := s.store.queue ++ [r] } } ∧ r.code = c ∧
     r.param = p ∧ r.rpt = 1 ∧ r.opsec = s.store.opsec ∧ r.source = (if h then 0xF1 else src)) ∧
   (∀ (s : State) (h : Bool) (c : BitVec 16) (src : BitVec 8) (p : BitVec 96), 256 ≤ s.store.queue.length → h = true ∨ src ≠ 0xF0 →
     c ≠ 0x0F03 → exec (.recordAppend h c src p) s = .next { s with store := { s.store with
       lost := satInc 65535 s.store.lost, dropped := s.store.dropped + 1 } }) ∧
   (∀ (s : State) (c : BitVec 16) (p : BitVec 96), 256 ≤ s.store.queue.length → (∃ x ∈ s.store.queue, x.ofAggregator = false) →
     ∃ t r, exec (.recordAppend false c 0xF0 p) s = .next t ∧ t.store.queue.length = s.store.queue.length ∧
       t.store.queue.getLast? = some r ∧ r.code = c ∧ r.source = 0xF0 ∧ r.param = p ∧
       (∀ x ∈ s.store.queue, x.ofAggregator = true → x ∈ t.store.queue) ∧ t.store.lost = satInc 65535 s.store.lost ∧
       t = { s with store := t.store }) ∧
   (∀ (s : State) (r : Record), s.store.queue.length ≤ 256 → (s.appendRecord r).store.queue.length ≤ 256) ∧
   (∀ (s : State) (r : Record) (rest : List Record), s.store.queue = r :: rest → s.store.dropped = 0 →
     s.newestRecord.same r = true → s.newestRecord.rpt < 65535 → s.store.newest ≠ 0 → ∃ t, exec (.recordCommit true) s = .next t ∧
       t.store.queue = rest ∧ t.store.newest = s.store.newest ∧
       tget {} t.store.records s.store.newest = { s.newestRecord with rpt := s.newestRecord.rpt + 1 } ∧
       (∀ q, q ≠ s.store.newest → tget {} t.store.records q = tget {} s.store.records q) ∧ t = { s with store := t.store }) ∧
   (∀ (s : State) (r : Record) (rest : List Record), s.store.queue = r :: rest → s.store.dropped = 0 → r.rpt = 1 →
     s.newestRecord.same r = false ∨ s.newestRecord.rpt = 65535 ∨ s.store.newest = 0 → twf {} s.store.records = true →
     ∃ t, exec (.recordCommit true) s = .next t ∧ t.store.queue = rest ∧ t.store.newest = s.store.newest + 1 ∧
       tget {} t.store.records t.store.newest = r ∧
       (∀ q, q ≠ t.store.newest → replaced t.store.newest ≠ some q → tget {} t.store.records q = tget {} s.store.records q) ∧
       t = { s with store := t.store }) ∧
   (∀ s : State, exec .opsecCommit s = .next (State.commitSeconds { s with
       store := { s.store with opsec := s.store.opsec + 60 }, crucible := { s.crucible with rtc := s.crucible.rtc + 60 } })) ∧
   (∀ s : State, s.commitSeconds.store.opsecKept = s.store.opsec ∧ s.commitSeconds.store.opsec = s.store.opsec ∧
     s.commitSeconds = { s with store := s.commitSeconds.store })) ∧
  ((∀ (s : State) (h : Bool) (q : BitVec 32), h = true ∨ s.pfOpen = true → s.store.newest < q.toNat → ∃ t, exec (.cursor h q) s = .next t ∧
     (t.window h).empty = true ∧ (t.window h).latch = none ∧ (t.window h).cursor = q.toNat ∧ (t.window (!h)) = s.window (!h) ∧
     (∀ k, (t.window h).word k = 0) ∧ t.store.records = s.store.records ∧ t = { s with store := t.store }) ∧
   (∀ (s : State) (h : Bool) (q : BitVec 32) (r : Record), h = true ∨ s.pfOpen = true → q.toNat ≤ s.store.newest → twf {} s.store.records = true →
     (q.toNat, r) ∈ s.store.records → ∃ t, exec (.cursor h q) s = .next t ∧ (t.window h).latch = some (q.toNat, r) ∧
       (t.window h).empty = false ∧ (t.window h).skipped = (s.window h).skipped ∧ t.store.records = s.store.records ∧
       t = { s with store := t.store }) ∧
   (∀ (s : State) (h : Bool) (w : Fin 8), h = true ∨ s.pfOpen = true → (s.window h).empty = false → w.val ≠ 7 → exec (.windowRead h w) s =
     .next (s.emit (.value ((s.window h).word w.val)))) ∧
   (∀ (s : State) (h : Bool) (q : Nat) (r : Record), h = true ∨ s.pfOpen = true → (s.window h).empty = false →
     (s.window h).latch = some (q, r) → exec (.windowAdvance h) s = .next (State.cursorTo h (q + 1) (s.emit (.value ((s.window h).word 7)))) ∧
     exec (.windowRead h 7) s = exec (.windowAdvance h) s) ∧
   (∀ (s : State) (w : Fin 8), s.pfOpen = false → exec (.windowRead false w) s = .next (s.emit .unsupported)))

/-- R524 to R526, R528: for writes to PF BAR0, a legal value changes the shadow of the selected item alone and sets DIRTY, and an illegal
one only sets REFUSED; a STORE with its key, where one is admitted, takes a snapshot, leaves a pending mark and invalidates the copy that
is not active; another sets STORE_FAIL; at its end that copy holds the snapshot, is valid and becomes active with the mark's GEN R530 to
R532: while the Bench serves, each region's drift is the larger of its two canaries'; the wear sums gain the drift weighted by the fourth
root of the operating hours and their square root; on battery the draw over ten seconds adds to the charge used; the key of BAT_RESET,
written to PF BAR0, clears the charge and the hours on battery, and the prediction is that of the first hour; another value does nothing
-/
def Obligations.SettingsAndWear : Prop :=
  ((∀ (s : State) (v : BitVec 32), s.pfOpen = true → s.refusesSetting s.store.sel v.toNat = false → s.setting s.store.sel ≠ v.toNat →
     s.store.shadow.Pairwise (fun a b => a.1 < b.1) → ∃ t, exec (.settingsValueWrite v) s = .next t ∧
       t.setting s.store.sel = v.toNat ∧ (∀ k, k ≠ s.store.sel → t.setting k = s.setting k) ∧ t.store.dirty = true ∧
       t.store.copyA = s.store.copyA ∧ t.store.copyB = s.store.copyB ∧ t = { s with store := t.store, power := t.power }) ∧
   (∀ (s : State) (v : BitVec 32), s.pfOpen = true → s.refusesSetting s.store.sel v.toNat = true → exec (.settingsValueWrite v) s =
     .next { s with store := { s.store with refused := true } }) ∧
   (∀ s : State, s.pfOpen = true → s.admitsStore = true → ∃ t, exec (.store 0x53544F52) s = .next t ∧ t.store.busy = true ∧ t.store.dirty = false ∧
     t.store.snap = s.store.shadow ∧ t.store.shadow = s.store.shadow ∧
     t.store.pendMark = some (!s.store.activeB, s.store.gen + 1) ∧
     (s.store.activeB = true → t.store.copyA.valid = false ∧ t.store.copyB = s.store.copyB) ∧
     (s.store.activeB = false → t.store.copyB.valid = false ∧ t.store.copyA = s.store.copyA) ∧ t = { s with store := t.store }) ∧
   (∀ s : State, s.pfOpen = true → s.admitsStore = false → exec (.store 0x53544F52) s = .next { s with store := { s.store with storeFail := true } }) ∧
   (∀ (s : State) (k : BitVec 32), k ≠ 0x53544F52 → exec (.store k) s = .next s) ∧
   (∀ (s : State) (b : Bool) (g : BitVec 32), s.store.busy = true → s.store.pendMark = some (b, g) → ∃ t,
     exec .storeEnd s = .next t ∧ t.store.busy = false ∧ t.store.pendMark = none ∧ t.store.activeB = b ∧
     t.store.active = { valid := true, gen := g, values := s.store.snap } ∧ t.store.gen = g ∧ t.store.shadow = s.store.shadow ∧
     t = { s with store := t.store })) ∧
  ((∀ (s : State) (p : Vector (Vector (BitVec 32) 2) 6), s.worlds.bench.status = 1 → twf 0 s.power.canary = true →
     ∃ t, exec (.canaryMeasure p) s = .next t ∧ (∀ r : Fin 6, tget 0 t.power.canary r.val =
       clip16 (max (s.drift (2 * r.val) (p[r])[0]) (s.drift (2 * r.val + 1) (p[r])[1]))) ∧
       t = { s with power := { s.power with canary := t.power.canary } }) ∧
   (∀ s : State, s.worlds.bench.status = 1 → twf 0 s.power.wearDt = true → twf 0 s.power.wearTt = true →
     ∃ t, exec .wearAccumulate s = .next t ∧ (∀ r, r < 6 →
       tget 0 t.power.wearDt r = tget 0 s.power.wearDt r + tget 0 s.power.canary r * rootQuarter s.opHours ∧
       tget 0 t.power.wearTt r = tget 0 s.power.wearTt r + rootHalf s.opHours) ∧ t.power.canary = s.power.canary ∧
       t.power.target = s.power.target ∧ t = { s with power := t.power, store := t.store }) ∧
   (∀ (s : State) (d : BitVec 32), s.pins.mainPower = false → s.pins.vbat = true → exec (.batteryMeasure d) s =
     .next { s with crucible := { s.crucible with batUsedUah := s.crucible.batUsedUah + d.toNat * 10 / 3600
                                                  batSec := s.crucible.batSec + 10, rtc := s.crucible.rtc + 10 } }) ∧
   (∀ s : State, s.pfOpen = true → ∃ t, exec (.batReset 0x43454C4C) s = .next t ∧ t.crucible.batUsedUah = 0 ∧ t.crucible.batSec = 0 ∧
     (s.worlds.bench.status = 1 → t.power.batHours = satNat 32 (s.setting 0x18 * 1000000 / 5000000)) ∧ t.crucible.drk = s.crucible.drk ∧
     t = { s with crucible := t.crucible, power := t.power, store := t.store }) ∧
   (∀ (s : State) (k : BitVec 32), k ≠ 0x43454C4C → exec (.batReset k) s = .next s))

/-! ### Start-up and registers (02, 17) -/

/-- R340, R441, R448, R476, R477, R566: START_UP takes steps 1 to 11 once after a release of reset: a RAW or SCRAP device ends it after
step 3 in RECOVERY; with usable images and Bellows in OK both worlds start; without, it ends in RECOVERY. Step 4 fixes the end state:
QUENCHED without a sound root, LOCKED under a latch of class LOCK, else READY. START_UP_END ends retry status, enables the queue engine
and enters the end state, with the key bus on in READY alone. A chip that is held, or has started, takes no START_UP. TEST_EN high in RAW,
TEST_LOCKED or TEST_UNLOCKED puts the part in scan test mode, where neither command does anything more. Taking the steps before the end as
one command is the model's choice (log 29). -/
def Obligations.StartUp : Prop :=
  (∀ (s u v : State) (seen : StartSeen), s.chip.held = false → s.chip.started = false → s.chip.state = .start → s.pins.scanMode = false →
    s.scanTest seen.testBall = false →
    u = (((State.resetUnit false { s with chip := { s.chip with started := true }
                                          pins := { s.pins with perstN := true, legacyMode := seen.legacyBall, testEn := seen.testBall } }).resetUnit true)).startWipe →
    v = (((u.fixEnd.startStore).startBellows seen.cellsOk seen.retestOk seen.katOk).startImages) →
    (u.lifeCode = 0 ∨ u.lifeCode = 6 → exec (.startUp seen) s = .next u.toRecovery) ∧
    (u.lifeCode ≠ 0 → u.lifeCode ≠ 6 → v.usable = true →
      exec (.startUp seen) s = .next ((v.startHearth.startBoth seen.mv.toNat).startBundle)) ∧
    (u.lifeCode ≠ 0 → u.lifeCode ≠ 6 → v.usable = false → exec (.startUp seen) s = .next v.bootToRecovery)) ∧
  (∀ s : State, (s.rootOk = false → s.fixEnd.chip.endState = .quenched) ∧
    (s.rootOk = true → s.crucible.latchCls = 2 → s.fixEnd.chip.endState = .locked) ∧
    (s.rootOk = true → s.crucible.latchCls ≠ 2 → s.fixEnd.chip.endState = .ready)) ∧
  (∀ s : State, s.startHearth.worlds.hearth.status = 1 ∧ (∀ mv, (s.startBoth mv).worlds.bench.status = 1) ∧
    s.toRecovery.chip.endState = .recovery ∧ s.bootToRecovery.chip.endState = .recovery) ∧
  (∀ (s : State) (us : BitVec 20), s.chip.started = true → s.chip.state = .start → ∃ t, exec (.startUpEnd us) s = .next t ∧
    t.chip.state = s.chip.endState ∧ t.chip.crs = false ∧ t.chip.engineOn = true ∧ t.chip.startUs = us.toNat ∧
    t.chip.keyBus = (s.chip.endState == .ready) ∧ t.rack = s.rack ∧ t.crucible = s.crucible ∧ t.queues = s.queues ∧
    t.engine = s.engine) ∧
  (∀ (s : State) (seen : StartSeen), s.chip.held = true ∨ s.chip.started = true → exec (.startUp seen) s = .next s) ∧
  (∀ (s : State) (seen : StartSeen), s.chip.held = false → s.chip.started = false → s.chip.state = .start →
    s.scanTest seen.testBall = true → ∃ t, exec (.startUp seen) s = .next t ∧ t.chip = s.chip ∧ t.rack = s.rack ∧ t.engine = s.engine ∧
      (∀ us : BitVec 20, exec (.startUpEnd us) t = .next t) ∧ exec (.startUp seen) t = .next t)

/-- R8, R58, R65 to R67, R71, R75, R85, R539: a register write takes the link out of L1; where configuration requests receive retry
status, or the function is under reset, it does nothing more, and one whose alignment or width the page does not accept is dropped and
logged as an AER Unsupported Request. A write of 8 bytes is two writes, the lower address first; one of 1 or 2 bytes writes that part of a
word of the Nolur 3 window. A write to a register of the list whose write has a row of its own has that row's effect; the selectors of the
list take the value; WEIGHT_BAD clears where a 1 is written; REQ takes its bytes, and with GO set OVERRUN is set; a reserved offset of PF
BAR0 or of the window changes nothing; the vector control of an MSI-X entry masks its vector. -/
def Obligations.RegisterWrites : Prop :=
  (∀ (s : State) (p : Page) (a : BitVec 16) (w : RegValue), exec (.registerWrite p a w) s =
    exec (.registerWrite p a w) s.leaveL1) ∧
  (∀ (s : State) (p : Page) (a : BitVec 16) (w : RegValue), s.chip.crs = true ∨ (s.fnOf (pageFn p)).flr = true →
    exec (.registerWrite p a w) s = .next s.leaveL1) ∧
  (∀ (s : State) (p : Page) (a : BitVec 16) (w : RegValue), s.barOpen p = true → accepts p a.toNat w = false →
    exec (.registerWrite p a w) s = .next (s.leaveL1.logAer (pageFn p) .unsupportedRequest)) ∧
  (∀ (s : State) (p : Page) (a : BitVec 16) (v h : BitVec 32), s.link.aspm = .l0 → s.barOpen p = true → a.toNat % 8 = 0 →
    (s.writePage p a.toNat v).barOpen p = true →
    exec (.registerWrite p a (.eight v h)) s = .next ((s.writePage p a.toNat v).writePage p (a.toNat + 4) h)) ∧
  (∀ (s : State) (a v : BitVec 16), s.link.aspm = .l0 → s.barOpen .bar4 = true →
    exec (.registerWrite .bar4 a (.one (v.truncate 8))) s = .next (s.writeNarrow 1 a.toNat (bits v 7 0)) ∧
    (a.toNat % 2 = 0 → exec (.registerWrite .bar4 a (.two v)) s = .next (s.writeNarrow 2 a.toNat v.toNat))) ∧
  (∀ (s : State) (v : BitVec 32), s.link.aspm = .l0 → s.chip.crs = false → (s.fnOf 0).flr = false →
    exec (.registerWrite (.bar0 0) 0x0488 (.four v)) s = exec (.drbgCountWrite v) s ∧
    exec (.registerWrite (.bar0 0) 0x050C (.four v)) s = exec (.slotQuotaWrite v) s ∧
    exec (.registerWrite (.bar0 0) 0x0514 (.four v)) s = exec (.storeQuotaWrite v) s ∧
    exec (.registerWrite (.bar0 0) 0x1404 (.four v)) s = exec (.shareWrite v) s ∧
    exec (.registerWrite (.bar0 0) 0x17D0 (.four v)) s = exec (.hammerAbort v) s ∧
    exec (.registerWrite (.bar0 0) 0x2000 (.four v)) s = exec (.cursor false v) s ∧
    exec (.registerWrite (.bar0 0) 0x2404 (.four v)) s = exec (.settingsValueWrite v) s ∧
    exec (.registerWrite (.bar0 0) 0x2410 (.four v)) s = exec (.store v) s ∧
    exec (.registerWrite (.bar0 0) 0x2808 (.four v)) s = exec (.avsSettingsWrite false v) s ∧
    exec (.registerWrite (.bar0 0) 0x280C (.four v)) s = exec (.avsSettingsWrite true v) s ∧
    exec (.registerWrite (.bar0 0) 0x2940 (.four v)) s = exec (.batReset v) s ∧
    (s.chip.legacy = false → exec (.registerWrite (.bar0 0) 0x0804 (.four v)) s = exec (.funcQueuesWrite v) s ∧
      exec (.registerWrite (.bar0 0) 0x0810 (.four v)) s = exec (.qselWrite 0 v) s ∧
      exec (.registerWrite (.bar0 0) 0x0820 (.four v)) s = exec (.queueContextWrite 0 .sqLo v) s ∧
      exec (.registerWrite (.bar0 0) 0x0834 (.four v)) s = exec (.qVectorWrite 0 v) s) ∧
    exec (.registerWrite (.bar0 0) 0x04C0 (.four 1)) s = exec .allowCommit s ∧
    exec (.registerWrite (.bar0 0) 0x1804 (.four 1)) s = exec .retest s) ∧
  (∀ (s : State) (v : BitVec 32), s.link.aspm = .l0 → s.chip.crs = false → (s.fnOf 0).flr = false →
    exec (.registerWrite (.bar0 0) 0x0480 (.four v)) s = .next { s with qmgr := { s.qmgr with resFunc := bits v 7 0 } } ∧
    exec (.registerWrite (.bar0 0) 0x0500 (.four v)) s = .next { s with qmgr := { s.qmgr with tenSel := bits v 11 0 } } ∧
    exec (.registerWrite (.bar0 0) 0x1400 (.four v)) s = .next { s with qmgr := { s.qmgr with shareSel := bits v 7 0 } } ∧
    exec (.registerWrite (.bar0 0) 0x1408 (.four v)) s =
      .next { s with qmgr := { s.qmgr with weightBad := s.qmgr.weightBad && !v.getLsbD 0 } } ∧
    exec (.registerWrite (.bar0 0) 0x2400 (.four v)) s = .next { s with store := { s.store with sel := bits v 7 0 } } ∧
    exec (.registerWrite (.bar0 0) 0x0000 (.four v)) s = .next s ∧ exec (.registerWrite (.bar0 0) 0x0014 (.four v)) s = .next s ∧
    (s.worlds.go = false → exec (.registerWrite (.bar0 0) 0x3400 (.four v)) s =
      .next { s with worlds := { s.worlds with req := patch s.worlds.req 0 (leBytes 4 v.toNat) } }) ∧
    (s.worlds.go = true → exec (.registerWrite (.bar0 0) 0x3400 (.four v)) s =
      .next { s with worlds := { s.worlds with overrun := true } }) ∧
    (s.chip.legacy = false → exec (.registerWrite (.bar0 0) 0x0800 (.four v)) s =
      .next { s with qmgr := { s.qmgr with funcSel := bits v 7 0 } }) ∧
    (s.chip.legacy = false → exec (.registerWrite .bar4 0x0008 (.four v)) s = .next s)) ∧
  (∀ (s : State) (f : BitVec 8) (i : BitVec 6) (v : BitVec 32), s.link.aspm = .l0 → s.chip.crs = false → s.chip.legacy = false →
    s.pageOpen f.toNat = true → exec (.registerWrite (.msix f) (BitVec.ofNat 16 (16 * i.toNat + 12)) (.four v)) s =
      .next ((s.modFn f.toNat fun n => { n with vecOpen := tset false i.toNat (!v.getLsbD 0) n.vecOpen }).sendPending f.toNat))

/-- R8, R65, R66, R71, R72, R90, R93, R288: a register reads its word, none where the read is misaligned or does not reach the function,
which is an Unsupported Request. CHIP shows the identity 0x4840, the version 0x10, the state and, in its status, legacy mode, VAULT_UP and
whether a block is out of service; the rest of its block reads 0. Selectors read back what is written; ROOT_ENTRIES is the number of
entries that the selected trie uses; the context of a queue that the function does not hold reads 0; QMGR reads 0 in legacy mode and the
Nolur 3 window outside it. -/
def Obligations.RegisterReads : Prop :=
  (∀ (s : State) (p : Page) (a : Nat), s.readReg p a = none ↔ s.barOpen p = false ∨ a % 4 ≠ 0) ∧
  (∀ s : State, s.pfOpen = true →
    s.readReg (.bar0 0) 0x0000 = some 0x4840 ∧ s.readReg (.bar0 0) 0x0004 = some 0x10 ∧
    s.readReg (.bar0 0) 0x000C = some (BitVec.ofNat 32 s.chip.state.code) ∧
    s.readReg (.bar0 0) 0x0010 = some (BitVec.ofNat 32 ((if s.chip.legacy then 1 else 0) + (if s.worlds.vaultUp then 2 else 0) +
      if (List.range 128).any fun b => s.blockState b == 2 then 4 else 0)) ∧
    (∀ a, 0x14 ≤ a → a < 0x400 → a % 4 = 0 → s.readReg (.bar0 0) a = some 0) ∧
    (∀ v : BitVec 32, s.link.aspm = .l0 → ∃ t, exec (.registerWrite (.bar0 0) 0x0480 (.four v)) s = .next t ∧
      t.readReg (.bar0 0) 0x0480 = some (v &&& 0xFF)) ∧
    s.readReg (.bar0 0) 0x3050 = some (BitVec.ofNat 32 s.rootEntries) ∧
    (s.chip.legacy = true → ∀ a, 0x800 ≤ a → a < 0x1400 → a % 4 = 0 → s.readReg (.bar0 0) a = some 0) ∧
    (s.chip.legacy = false → ∀ a, a % 4 = 0 → s.readReg .bar4 a = some 0) ∧
    ((s.fnOf s.qmgr.qselF).queues ≤ s.qmgr.qselQ → ∀ a, 0x820 ≤ a → a < 0x1400 → a % 4 = 0 → s.readReg (.bar0 0) a = some 0))

/-! ### Hammer units (10) -/

/-- R311, R315 to R318, R320 to R323, R327: the RSA opcodes on a unit. A private-key operation opens a sound blob, draws its blinding
values from the internal instance and releases the result, or ends as a check fault where the check of the blinded result fails; a
public-key one refuses an even or short modulus and an exponent that is even or too small; a number of the modulus or above is refused; a
decoding failure ends as ST_VERIFY_FAILED. PSS and OAEP draw salt and seed from the local instance; a PSS salt too long for the modulus
gives a signature of the modulus' length that the rules leave open. A key generation makes its key from the blocks delivered and releases
it if its checks pass. -/
def Obligations.RsaOpcodes : Prop :=
  ∀ (s u : State) (op : Nat) (o : Op) (dma : Dma) (k x : Nat), k = modLen o → u = s.hasRead o dma → x = beNat (inputPart o dma) →
    (∀ m e y, s.OnUnit op 0x0401 o → check7 o.desc dma (dDlen o.desc) k = none → u.BlobOf o dma 2 2 m →
      x < (Rsa.Key.ofBytes k (m.drop 8)).n → u.Fed o 0 e →
      y = (Rsa.Key.ofBytes k (m.drop 8)).privWith ((State.used op u).blindBytes (16 + k)) x → exec (.rsaPrivate op dma) s =
        .next (((State.used op u).drewBlind (16 + k)).jobEnd o dma y.isSome (beBytes k (y.getD 0)))) ∧
    (∀ m, s.OnUnit op 0x0401 o → check7 o.desc dma (dDlen o.desc) k = none → u.BlobOf o dma 2 2 m →
      (Rsa.Key.ofBytes k (m.drop 8)).n ≤ x → exec (.rsaPrivate op dma) s = .next (u.fail op 0x0102 16)) ∧
    (∀ n e, n = beAt (keyPart o dma) 4 k → e = beAt (keyPart o dma) 0 4 → n % 2 = 1 → 2 ^ (dPlan o.desc - 1) ≤ n → e % 2 = 1 → 3 ≤ e →
      (s.OnUnit op 0x0402 o → check7 o.desc dma (dDlen o.desc) k = none → x < n → exec (.rsaPublic op dma) s =
        .next (u.jobDone o dma (beBytes k (Ecc.powMod n x e)))) ∧
      (s.OnUnit op 0x0402 o → check7 o.desc dma (dDlen o.desc) k = none → n ≤ x → exec (.rsaPublic op dma) s =
        .next (u.fail op 0x0102 16)) ∧
      (∀ d y, s.OnUnit op 0x0404 o → check7 o.desc dma (dDlen o.desc) 0 = none →
        d = (inputPart o dma).take (Sha.hashLen (pArg1 o)) → y = beNat ((inputPart o dma).drop (Sha.hashLen (pArg1 o))) → pArg0 o = 1 →
        exec (.rsaVerify op dma) s = .next (u.verdict o (decide (y < n) &&
          beBytes k (Ecc.powMod n y e) == Rsa.pkcs1 (pArg1 o) k d))) ∧
      (∀ d y, s.OnUnit op 0x0404 o → check7 o.desc dma (dDlen o.desc) 0 = none →
        d = (inputPart o dma).take (Sha.hashLen (pArg1 o)) → y = beNat ((inputPart o dma).drop (Sha.hashLen (pArg1 o))) → pArg0 o ≠ 1 →
        exec (.rsaVerify op dma) s = .next (u.verdict o (decide (y < n) &&
          Rsa.pssVerify (pArg1 o) k d (beBytes k (Ecc.powMod n y e)) (if pArg2 o = 0xFF then none else some (pArg2 o))))) ∧
      (∀ r, s.OnUnit op 0x0405 o → check7 o.desc dma (dDlen o.desc) k = none → 65537 ≤ e → u.DrawsNow o →
        r = genInst (u.instOf o.fn (dDrbg o.desc)) (Sha.hashLen (pArg1 o)) [] → exec (.rsaOaepEncrypt op dma) s =
          .next ((u.drew o (Sha.hashLen (pArg1 o)) r.2).jobDone o dma
            (beBytes k (Ecc.powMod n (beNat (Rsa.oaepEncode (pArg1 o) k r.1 (inputPart o dma))) e))))) ∧
    (∀ n e, n = beAt (keyPart o dma) 4 k → e = beAt (keyPart o dma) 0 4 →
      n % 2 = 0 ∨ n < 2 ^ (dPlan o.desc - 1) ∨ e % 2 = 0 ∨ e < 3 →
      (s.OnUnit op 0x0402 o → check7 o.desc dma (dDlen o.desc) k = none → exec (.rsaPublic op dma) s = .next (u.fail op 0x0102 16)) ∧
      (s.OnUnit op 0x0404 o → check7 o.desc dma (dDlen o.desc) 0 = none → exec (.rsaVerify op dma) s = .next (u.fail op 0x0102 16)) ∧
      (s.OnUnit op 0x0405 o → check7 o.desc dma (dDlen o.desc) k = none →
        exec (.rsaOaepEncrypt op dma) s = .next (u.fail op 0x0102 16))) ∧
    (∀ m e y, s.OnUnit op 0x0403 o → check7 o.desc dma (dDlen o.desc) k = none → u.BlobOf o dma 2 0 m → pArg0 o = 1 → u.Fed o 0 e →
      y = (Rsa.Key.ofBytes k (m.drop 8)).privWith ((State.used op u).blindBytes (16 + k)) (beNat (Rsa.pkcs1 (pArg1 o) k (inputPart o dma))) →
      exec (.rsaSign op dma) s = .next (((State.used op u).drewBlind (16 + k)).jobEnd o dma y.isSome (beBytes k (y.getD 0)))) ∧
    (∀ m r v y, s.OnUnit op 0x0403 o → check7 o.desc dma (dDlen o.desc) k = none → u.BlobOf o dma 2 0 m → pArg0 o ≠ 1 → u.DrawsNow o →
      r = genInst (u.instOf o.fn (dDrbg o.desc)) (pArg2 o) [] → v = u.drew o (pArg2 o) r.2 →
      y = (Rsa.Key.ofBytes k (m.drop 8)).privWith (v.blindBytes (16 + k)) (beNat (Rsa.pssEncode (pArg1 o) k (inputPart o dma) r.1)) →
      (Sha.hashLen (pArg1 o) + pArg2 o + 2 ≤ k →
        exec (.rsaSign op dma) s = .next ((v.drewBlind (16 + k)).jobEnd o dma y.isSome (beBytes k (y.getD 0)))) ∧
      (k < Sha.hashLen (pArg1 o) + pArg2 o + 2 → ∃ sig : Bytes, sig.length = k ∧
        exec (.rsaSign op dma) s = .next (((v.drewBlind (16 + k)).spend k).jobDone o dma sig))) ∧
    (∀ m e y, s.OnUnit op 0x0406 o → check7 o.desc dma (dDlen o.desc) (k - 2 * Sha.hashLen (pArg1 o) - 2) = none → u.BlobOf o dma 2 1 m →
      x < (Rsa.Key.ofBytes k (m.drop 8)).n → u.Fed o 0 e →
      y = (Rsa.Key.ofBytes k (m.drop 8)).privWith ((State.used op u).blindBytes (16 + k)) x →
      exec (.rsaOaepDecrypt op dma) s = .next (match y with
        | none => ((State.used op u).drewBlind (16 + k)).checkFault o
        | some y => match Rsa.oaepDecode (pArg1 o) k (beBytes k y) with
          | some z => ((State.used op u).drewBlind (16 + k)).jobDone o dma z
          | none => ((State.used op u).drewBlind (16 + k)).fail op 0x0501 0)) ∧
    (∀ b key r, s.OnUnit op 0x0407 o → check7 o.desc dma 0 (keygenLen (12 + k + 5 * (k / 2)) (4 + k)) = none → u.Fed o ((k + 15) / 16) b →
      key = Rsa.Key.ofPrimes (Rsa.primePair (k / 2) (pArg3 o) b).1 (Rsa.primePair (k / 2) (pArg3 o) b).2 (pArg3 o) →
      r = (State.used op u).blindBytes (16 + k) →
      exec (.rsaKeygen op dma) s = .next (((State.used op u).drewBlind (16 + k)).newPair o dma 2 (key.sound r)
        ([BitVec.ofNat 8 (pArg0 o)] ++ List.replicate 7 0 ++ key.toBytes k) (beBytes 4 (pArg3 o) ++ beBytes k key.n)))

/-- R311 to R313, R320 to R323, R327: the elliptic-curve opcodes on a unit, under the key that the Rack sent: a shared secret, a public
key, a signature, a verdict; a result that fails its check ends as a check fault; a point that does not decode, and an all-zero XDH
result, are refused. ECDSA draws its nonce from the local instance, and every private-key job its blinding values from the internal one.
-/
def Obligations.CurveOpcodes : Prop :=
  ∀ (s u : State) (op : Nat) (o : Op) (dma : Dma) (c : Ecc.Curve) (e : Ecc.Edw), c = Ecc.curve o.curveCode → e = edwards o.curveCode →
    u = s.hasRead o dma →
    (∀ r v w g k a b, s.OnUnit op 0x0410 o → check7 o.desc dma (dDlen o.desc) (2 * c.len) = none → u.DrawsNow o →
      r = genInst (u.instOf o.fn (dDrbg o.desc)) c.len [] → v = (u.drew o c.len r.2).drewBlind c.len →
      w = v.instOf o.fn (dDrbg o.desc) → g = nonceLoop c (beNat o.keyCopy.bytes) (inputPart o dma) 64 r.1 w → g.1 = some (k, a, b) →
      exec (.ecdsaSign op dma) s = .next (((v.setInst o.fn (dDrbg o.desc) g.2).countRate 5 0 (c.len * (g.2.count - w.count))).jobEnd o dma
        (nonceOk c (beNat o.keyCopy.bytes) (inputPart o dma) k a b) (beBytes c.len a ++ beBytes c.len b))) ∧
    (∀ q x, s.OnUnit op 0x0411 o → check7 o.desc dma (dDlen o.desc) 0 = none → c.decode (keyPart o dma) = some q →
      x = inputPart o dma → exec (.ecdsaVerify op dma) s = .next (u.verdict o (c.verify q (x.take (x.length - 2 * c.len))
        (beAt x (x.length - 2 * c.len) c.len) (beAt x (x.length - 2 * c.len + c.len) c.len)))) ∧
    (s.OnUnit op 0x0411 o → check7 o.desc dma (dDlen o.desc) 0 = none → c.decode (keyPart o dma) = none →
      exec (.ecdsaVerify op dma) s = .next (u.fail op 0x0102 16)) ∧
    (∀ q b, s.OnUnit op 0x0412 o → check7 o.desc dma (dDlen o.desc) c.len = none → c.decode (inputPart o dma) = some q → u.Fed o 0 b →
      exec (.ecdh op dma) s = .next (match c.mul (beNat o.keyCopy.bytes) (some q) with
        | some (x, y) => ((State.used op u).drewBlind c.len).jobEnd o dma (c.on x y) (beBytes c.len x)
        | none => ((State.used op u).drewBlind c.len).checkFault o)) ∧
    (s.OnUnit op 0x0412 o → check7 o.desc dma (dDlen o.desc) c.len = none → c.decode (inputPart o dma) = none →
      exec (.ecdh op dma) s = .next (u.fail op 0x0102 16)) ∧
    (∀ b p, s.OnUnit op 0x0413 o → check7 o.desc dma 0 (pubLen o.curveCode) = none → u.Fed o 0 b →
      p = Ecc.publicKey o.curveCode o.keyCopy.bytes → exec (.ecPublic op dma) s =
        .next (((State.used op u).drewBlind (Ecc.keyLen o.curveCode)).jobEnd o dma (pubOk o.curveCode p) p)) ∧
    (∀ b x sg p, s.OnUnit op 0x0414 o → check7 o.desc dma (dDlen o.desc) (2 * e.len) = none → u.Fed o 0 b → x = inputPart o dma →
      sg = e.sign o.keyCopy.bytes (x.take (pArg0 o)) (x.drop (pArg0 o)) → p = e.pub o.keyCopy.bytes → exec (.eddsaSign op dma) s =
        .next (((State.used op u).drewBlind e.len).jobEnd o dma
          (match e.decode p with
            | some a => e.verify a p (x.take (pArg0 o)) (x.drop (pArg0 o)) sg
            | none => false) sg)) ∧
    (∀ a x, s.OnUnit op 0x0415 o → check7 o.desc dma (dDlen o.desc) 0 = none → e.decode (keyPart o dma) = some a →
      x = inputPart o dma → exec (.eddsaVerify op dma) s = .next (u.verdict o (e.verify a (keyPart o dma) (x.take (pArg0 o))
        ((x.take (x.length - 2 * e.len)).drop (pArg0 o)) (x.drop (x.length - 2 * e.len))))) ∧
    (s.OnUnit op 0x0415 o → check7 o.desc dma (dDlen o.desc) 0 = none → e.decode (keyPart o dma) = none →
      exec (.eddsaVerify op dma) s = .next (u.fail op 0x0102 16)) ∧
    (∀ out b, s.OnUnit op 0x0416 o → check7 o.desc dma (dDlen o.desc) (Ecc.keyLen o.curveCode) = none → u.Fed o 0 b →
      out = (if o.curveCode = 7 then Ecc.x25519 else Ecc.x448) o.keyCopy.bytes (inputPart o dma) →
      ((∃ b ∈ out, b ≠ 0) → exec (.xdh op dma) s =
        .next (((State.used op u).drewBlind (Ecc.keyLen o.curveCode)).jobDone o dma out)) ∧
      ((∀ b ∈ out, b = 0) → exec (.xdh op dma) s =
        .next (((State.used op u).drewBlind (Ecc.keyLen o.curveCode)).fail op 0x0102 16)))

/-- R311, R318, R320, R321, R323, R325, R327: the lattice opcodes on a unit: a fresh pair, made from the blocks delivered, goes out as a
blob and a public key where its check holds; encapsulation draws its message from the local instance; decapsulation and signing open a
sound blob; a signature goes out where it verifies; an encapsulation key that is not sound is refused. -/
def Obligations.LatticeOpcodes : Prop :=
  ∀ (s u : State) (op : Nat) (o : Op) (dma : Dma) (set : Nat), set = dPlan o.desc → u = s.hasRead o dma →
    (∀ b kp c, s.OnUnit op 0x0420 o → check7 o.desc dma 0 (keygenLen (8 + Mlkem.dkLen set) (Mlkem.ekLen set)) = none → u.Fed o 4 b →
      kp = Mlkem.keygen set (b.take 32) (b.drop 32) → c = Mlkem.encaps set kp.1 (((State.used op u).blindBytes 32).take 32) →
      exec (.mlkemKeygen op dma) s = .next (((State.used op u).drewBlind 32).newPair o dma 3 (Mlkem.decaps set kp.2 c.1 == c.2)
        ([0x02, 0, 0, 0, 0, 0, 0, 0] ++ kp.2) kp.1)) ∧
    (∀ r, s.OnUnit op 0x0421 o → check7 o.desc dma (dDlen o.desc) (Mlkem.ctLen set + 32) = none → Mlkem.ekOk set (keyPart o dma) = true →
      u.DrawsNow o → r = genInst (u.instOf o.fn (dDrbg o.desc)) 32 [] → exec (.mlkemEncaps op dma) s =
        .next (((u.drew o 32 r.2).drewBlind 32).jobDone o dma
          ((Mlkem.encaps set (keyPart o dma) r.1).1 ++ (Mlkem.encaps set (keyPart o dma) r.1).2))) ∧
    (s.OnUnit op 0x0421 o → check7 o.desc dma (dDlen o.desc) (Mlkem.ctLen set + 32) = none → Mlkem.ekOk set (keyPart o dma) = false →
      exec (.mlkemEncaps op dma) s = .next (u.fail op 0x0102 16)) ∧
    (∀ m b, s.OnUnit op 0x0422 o → check7 o.desc dma (dDlen o.desc) 32 = none → u.BlobOf o dma 3 1 m → u.Fed o 0 b →
      exec (.mlkemDecaps op dma) s =
        .next (((State.used op u).drewBlind 32).jobDone o dma (Mlkem.decaps set (m.drop 8) (inputPart o dma)))) ∧
    (∀ b kp r, s.OnUnit op 0x0430 o → check7 o.desc dma 0 (keygenLen (8 + Mldsa.skLen set) (Mldsa.pkLen set)) = none → u.Fed o 2 b →
      kp = Mldsa.keygen set b → r = (State.used op u).blindBytes 32 →
      exec (.mldsaKeygen op dma) s = .next (((State.used op u).drewBlind 32).newPair o dma 4
        (Mldsa.verify set kp.1 [] r (Mldsa.sign set kp.2 [] r (List.replicate 32 0))) ([0x01, 0, 0, 0, 0, 0, 0, 0] ++ kp.2) kp.1)) ∧
    (∀ m b x sg, s.OnUnit op 0x0431 o → check7 o.desc dma (dDlen o.desc) (Mldsa.sigLen set) = none → u.BlobOf o dma 4 0 m → pArg1 o = 1 →
      u.Fed o 0 b → x = inputPart o dma → sg = Mldsa.sign set (m.drop 8) (x.take (pArg0 o)) (x.drop (pArg0 o)) (List.replicate 32 0) →
      exec (.mldsaSign op dma) s = .next (((State.used op u).drewBlind 32).jobEnd o dma
        (Mldsa.verify set (Mldsa.pkOf set (m.drop 8)) (x.take (pArg0 o)) (x.drop (pArg0 o)) sg) sg)) ∧
    (∀ m r x sg, s.OnUnit op 0x0431 o → check7 o.desc dma (dDlen o.desc) (Mldsa.sigLen set) = none → u.BlobOf o dma 4 0 m → pArg1 o ≠ 1 →
      u.DrawsNow o → r = genInst (u.instOf o.fn (dDrbg o.desc)) 32 [] → x = inputPart o dma →
      sg = Mldsa.sign set (m.drop 8) (x.take (pArg0 o)) (x.drop (pArg0 o)) r.1 →
      exec (.mldsaSign op dma) s = .next (((u.drew o 32 r.2).drewBlind 32).jobEnd o dma
        (Mldsa.verify set (Mldsa.pkOf set (m.drop 8)) (x.take (pArg0 o)) (x.drop (pArg0 o)) sg) sg)) ∧
    (∀ x, s.OnUnit op 0x0432 o → check7 o.desc dma (dDlen o.desc) 0 = none → x = inputPart o dma → exec (.mldsaVerify op dma) s =
      .next (u.verdict o (Mldsa.verify set (keyPart o dma) (x.take (pArg0 o)) ((x.take (x.length - Mldsa.sigLen set)).drop (pArg0 o))
        (x.drop (x.length - Mldsa.sigLen set)))))

/-! ### Plans (12) -/

/-- R20, R256, R257, R260 to R267: the front stage of PLAN_RUN, where check 6 and check 7 are passed, loads the key of each role and
prepares the transaction, which waits for a context, or first for its random bytes from the local instance; a routed plan goes on with the
slot that its lookup found and ends with ST_ROUTE_MISS where it found none. The oldest prepared transaction of the function whose turn it
is takes the lowest free context at slot 0; the sequencer, where it comes to a context, runs its slot and the next one follows, an aborted
one idles, and a context without a transaction spends the period; FINAL ends the operation by the error word, or with its output and its
plan's result. R255, R275, R276: a signed customer recipe that compiles and fits is installed in every pipeline in one step, and
PLAN_UNLOAD removes it; an unsigned recipe, a standard plan's number and a recipe that the compiler refuses end with ST_BAD_FIELD and a
record of offset and reason, one too large with what is free, one on a device without an owner with ST_STATE_CONFLICT. Removing what is
not there ends with ST_BAD_FIELD (the model's reading, log 34). -/
def Obligations.Plans : Prop :=
  ((∀ (s : State) (op : Nat) (o : Op) (w : Swage) (dma : Dma) (ks : List KeyCopy), s.InBlock op 0x0300 o → o.recip = some w →
     s.prepared op = none → s.powered 28 = true → (s.blockOf 0x12).out = false → check7 o.desc dma (dDlen o.desc) w.info.outMax = none →
     w.info.route = 0 → w.info.rnd = 0 →
     (∀ e ∈ roleSlots o w.info.roles, s.Holds o e.2 ∧ e.1.fits (s.slotOf e.2).attr = true) →
     ks = (roleSlots o w.info.roles).map (fun e => copyOf e.2 (s.slotOf e.2)) →
     ∃ c t x, exec (.planRun op dma) s = .next t ∧ t.plan.ready = s.plan.ready ++ [c] ∧ c.op = op ∧ c.plan = w.plan ∧ c.swage = w ∧
       c.keys = keyRegs ks none ∧ c.params = opParams o dma ∧ c.data = opData o dma ∧ c.slot = 0 ∧ t.opOf op = some x ∧
       x.stage = .context ∧ (∀ j, j ≠ op → t.opOf j = s.opOf j) ∧ t.rack = s.rack ∧ t.plan.ctxs = s.plan.ctxs) ∧
   (∀ (s : State) (op : Nat) (o : Op) (w : Swage) (dma : Dma), s.InBlock op 0x0300 o → o.recip = some w → s.prepared op = none →
     s.powered 28 = true → w.info.route ≠ 0 →
     let u := (s.readLists o).modOp op fun x => { x with pblk := some (opParams o dma) }
     (∀ e n, s.routing.lookups.find? (fun e => e.1 == op) = some e → e.2 = some n →
       exec (.planRun op dma) s = .next (u.planKeys o w dma (opParams o dma) (some n))) ∧
     (∀ e, s.routing.lookups.find? (fun e => e.1 == op) = some e → e.2 = none →
       exec (.planRun op dma) s = .next (u.fail op 0x0901 0))) ∧
   (∀ (s : State) (op : Nat) (o : Op) (w : Swage) (dma : Dma) (r : Bytes × Inst), s.InBlock op 0x0300 o → o.recip = some w →
     s.prepared op ≠ none → w.info.rnd ≠ 0 → s.DrawsNow o → r = genInst (s.instOf o.fn (dDrbg o.desc)) w.info.rnd [] →
     exec (.planRun op dma) s = .next (((s.drew o w.info.rnd r.2).modReady op fun c => { c with random := r.1 }).modOp op fun x =>
       { x with stage := .context })) ∧
   (∀ (s : State) (op : Nat) (o : Op) (c : Ctx) (n : Nat), s.opOf op = some o → o.opcode = 0x0300 → o.stage = .context →
     s.prepared op = some c → s.freeCtx o.pipeline = some n → s.behind o = false → s.insertAt op = none → s.queueTurn o.block = some o.fn →
     exec (.planContextStart op) s = .next { s with
       engine := { s.engine with rrLast := tset 255 o.block o.fn s.engine.rrLast }
       plan := { s.plan with
         ready := s.plan.ready.filter fun c => c.op != op, ctxs := tset {} (8 * o.pipeline + n) c s.plan.ctxs } }) ∧
   (∀ (s v : State) (p k : Fin 8), s.visits p.val k.val = true →
     v = { s with plan := { s.plan with turn := tset 0 p.val ((k.val + 1) % 8) s.plan.turn } } →
     (s.plan.ctxs.find? (fun e => e.1 == 8 * p.val + k.val) = none → exec (.swageSlot p k) s = .next v) ∧
     (∀ c, s.plan.ctxs.find? (fun e => e.1 == 8 * p.val + k.val) = some (8 * p.val + k.val, c) →
       (c.slot + 1 < c.swage.info.slots → c.faulted = false → exec (.swageSlot p k) s = .next { v with plan := { v.plan with
         ctxs := tset {} (8 * p.val + k.val) { runSlot (c.swage.slots.getD c.slot {}) c with slot := c.slot + 1 } s.plan.ctxs } }) ∧
       (c.slot + 1 < c.swage.info.slots → c.faulted = true → exec (.swageSlot p k) s = .next { v with plan := { v.plan with
         ctxs := tset {} (8 * p.val + k.val) { c with slot := c.slot + 1 } s.plan.ctxs } }) ∧
       (c.swage.info.slots ≤ c.slot + 1 → c.faulted = false → exec (.swageSlot p k) s =
         .next (State.final c { v with plan := { v.plan with ctxs := s.plan.ctxs.filter fun e => e.1 != 8 * p.val + k.val } })))) ∧
   (∀ (s : State) (p k : Fin 8), s.visits p.val k.val = false → exec (.swageSlot p k) s = .next s) ∧
   (∀ (s : State) (c : Ctx) (o : Op), s.opOf c.op = some o →
     let e := ctxEnd c s.free
     let u := (s.spend 2).modOp c.op fun x => { x with errWord := e.err }
     (errStatus e.err e.slot e.off c.swage.declared = none → s.final c =
       (u.writeOut o { srcList := c.srcList, dstList := c.dstList } e.out).finish c.op (if c.note = 0 then 0 else 1) c.note e.out.length
         (leBytes 2 c.plan ++ leBytes 2 c.swage.version.toNat ++ e.result)) ∧
     (∀ st d, errStatus e.err e.slot e.off c.swage.declared = some (st, d) → s.final c = u.fail c.op st d))) ∧
  ((∀ (s u : State) (op : Nat) (o : Op) (dma : Dma), s.opOf op = some o → o.opcode = 0x0301 → o.stage = .channel →
     s.benchServes = true → s.mayStart o = true → check7 o.desc dma (dDlen o.desc) 0 = none → u = s.hasRead o dma →
     (∀ w, s.life.ownerHash ≠ none → s.recipeFault (opData o dma) = none → compile (opData o dma) = .ok w →
       (w.info.slots ≤ u.swageFree → exec (.planLoad op dma) s = .next ((u.install w).finish op 0 0 0
         (leBytes 2 w.plan ++ leBytes 2 w.version.toNat ++ leBytes 2 w.info.slots))) ∧
       (u.swageFree < w.info.slots → exec (.planLoad op dma) s = .next (u.fail op 0x0204 (u.swageFree % 65536)))) ∧
     (∀ f, s.life.ownerHash ≠ none → s.recipeFault (opData o dma) = some f →
       exec (.planLoad op dma) s = .next (u.refuseRecipe op f)) ∧
     (∀ f, s.life.ownerHash ≠ none → s.recipeFault (opData o dma) = none → compile (opData o dma) = .error f →
       exec (.planLoad op dma) s = .next (u.refuseRecipe op f)) ∧
     (s.life.ownerHash = none → exec (.planLoad op dma) s = .next (u.fail op 0x0301 s.chip.state.code))) ∧
   (∀ (s : State) (op : Nat) (o : Op) (f : Nat × Refused), s.opOf op = some o → (s.refuseRecipe op f).Ended op 0x0102 16 0 [] ∧
     (s.refuseRecipe op f).plan.swages = s.plan.swages) ∧
   (∀ (s : State) (w : Swage), w ≠ {} → (s.install w).swageOf w.plan = some w ∧
     (∀ id, id ≠ w.plan → (s.install w).swageOf id = s.swageOf id)) ∧
   (∀ (s : State) (op : Nat) (o : Op) (id : Nat), s.opOf op = some o → o.opcode = 0x0302 → o.stage = .channel → s.benchServes = true →
     s.mayStart o = true → id = dPlan o.desc →
     (512 ≤ id → s.swageOf id ≠ none → exec (.planUnload op) s = .next ((s.uninstall id).finish op 0 0 0 (leBytes 2 id))) ∧
     (id < 512 ∨ s.swageOf id = none → exec (.planUnload op) s = .next (s.fail op 0x0102 10))) ∧
   (∀ (s : State) (id : Nat), twf {} s.plan.swages = true → (s.uninstall id).swageOf id = none))

/-! ### Routing (13) -/

/-- R28, R281, R283 to R287, R290, R383: the port granted next is served with the longest route's slot, whose hits it counts; with the
routing block out of service its operation ends. A build of the list that the Bench reads, without fault, waits for its flip, which the
serving Bench makes in one step, keeping the old trie until its lookups are over; a build that finds one running, a FREE tenant, a failed
read or a fault in its list is refused with its cause, and the trie in use stays. A build asked for during a reset of the Bench is BUSY; a
halted Bench builds none, for which the model takes CAUSE 9 (log 57), and a flip for a tenant retired meanwhile is refused (log 57) R281:
a lookup takes the longest of the routes that cover the identifier, and misses where none does. -/
def Obligations.Tries : Prop :=
  ((∀ (s : State) (p : Nat) (o : Op), roundRobin 8 (tget 7 s.engine.rrLast 0x11)
       (fun p => (s.engine.tasks.filter s.wantsLookup).any fun o => o.pipeline == p) = some p →
     (s.engine.tasks.filter s.wantsLookup).find? (fun o => o.pipeline == p) = some o → (s.blockOf 0x11).out = false →
     s.powered 28 = true → ∃ w fam t, o.recip = some w ∧ fam = w.info.route - 1 ∧ exec .routeLookup s = .next t ∧
       t.routing.lookups = s.routing.lookups ++ [(o.id, (longest (searchIdent fam (o.pblk.getD [])) 0
         (s.trieOf fam o.tenant)).map fun x => x.2.slot)] ∧
       (∀ i r, longest (searchIdent fam (o.pblk.getD [])) 0 (s.trieOf fam o.tenant) = some (i, r) →
         t.trieOf fam o.tenant = hitRoute i (s.trieOf fam o.tenant)) ∧
       t.engine.tasks = s.engine.tasks ∧ t.rack = s.rack ∧ t.sent = s.sent) ∧
   (∀ (s : State) (p : Nat) (o : Op), roundRobin 8 (tget 7 s.engine.rrLast 0x11)
       (fun p => (s.engine.tasks.filter s.wantsLookup).any fun o => o.pipeline == p) = some p →
     (s.engine.tasks.filter s.wantsLookup).find? (fun o => o.pipeline == p) = some o → (s.blockOf 0x11).out = true →
     exec .routeLookup s = .next (s.fail o.id 0x0302 0x11)) ∧
   (∀ (s : State) (l : List (BitVec 128)), s.pfOpen = true → s.routing.busy = false → s.worlds.bench.status = 1 → (s.tenantOf s.routing.buildTen).live = true →
     let list := (List.range s.routing.buildCount).map fun i => l.getD i 0
     (s.buildFault s.routing.buildFam s.routing.buildTen list = none → exec (.buildGo (.entries l)) s =
       .next { s with routing := { s.routing with
         busy := true, built := some (trieKey s.routing.buildFam s.routing.buildTen, list.map entryRoute) } }) ∧
     (∀ c e, s.buildFault s.routing.buildFam s.routing.buildTen list = some (c, e) → exec (.buildGo (.entries l)) s =
       .next { s with routing := { s.routing with refused := true, cause := c, entry := e } })) ∧
   (∀ (s : State) (r : BuildRead), s.pfOpen = true →
     (s.routing.busy = true → exec (.buildGo r) s = .next { s with routing := { s.routing with refused := true, cause := 1, entry := 0 } }) ∧
     (s.routing.busy = false → s.worlds.bench.status = 2 → exec (.buildGo r) s =
       .next { s with routing := { s.routing with busy := true, built := none } }) ∧
     (s.routing.busy = false → s.worlds.bench.status = 3 → exec (.buildGo r) s =
       .next { s with routing := { s.routing with refused := true, cause := 9, entry := 0 } }) ∧
     (s.routing.busy = false → s.worlds.bench.status = 1 → (s.tenantOf s.routing.buildTen).live = false → exec (.buildGo r) s =
       .next { s with routing := { s.routing with refused := true, cause := 2, entry := 0 } })) ∧
   (∀ (s : State) (e : AerErr), s.pfOpen = true → s.routing.busy = false → s.worlds.bench.status = 1 →
     (s.tenantOf s.routing.buildTen).live = true → exec (.buildGo (.failed e)) s = .next ((s.logAer 0 e).refuseBuild 3 0)) ∧
   (∀ (s : State) (k : Nat) (new : List Route), s.routing.built = some (k, new) → s.worlds.bench.status = 1 →
     (s.tenantOf (k % 4096)).live = true → twf [] s.routing.tries = true → ∃ t, exec .routeFlip s = .next t ∧ tget [] t.routing.tries k = new ∧
       (∀ j, j ≠ k → tget [] t.routing.tries j = tget [] s.routing.tries j) ∧ t.routing.built = none ∧ t.routing.busy = false ∧
       t.routing.done = true ∧ t.routing.trieGen = s.routing.trieGen + 1 ∧
       (tget [] s.routing.tries k ≠ [] → t.routing.old = s.routing.old ++ [tget [] s.routing.tries k]) ∧ t.routing.terms = s.routing.terms ∧
       t = { s with routing := t.routing }) ∧
   (∀ (s : State) (k : Nat) (new : List Route), s.routing.built = some (k, new) → s.worlds.bench.status = 1 →
     (s.tenantOf (k % 4096)).live = false → exec .routeFlip s = .next { s with routing := { s.routing with
       busy := false, built := none, refused := true, cause := 2, entry := 0 } }) ∧
   (∀ s : State, exec .trieReclaim s = .next { s with routing := { s.routing with old := [] } })) ∧
  (∀ (ident : BitVec 64) (rs : List Route),
     (∀ i r, longest ident 0 rs = some (i, r) → rs[i]? = some r ∧ r.covers ident = true ∧
       ∀ x ∈ rs, x.covers ident = true → x.plen ≤ r.plen) ∧
     (longest ident 0 rs = none ↔ ∀ x ∈ rs, x.covers ident = false))

/-- R293, R294, R296, R299 to R301, R304, R344: a derived key that no entry of its terminal meets is inserted into the lowest free way of
its bucket, or not: with note 1 and a request for a rehash where no way is free, note 2 during a rehash, note 3 at the tenant's cap; a
sweep clears HIT, marks what it finds unused and removes what it finds marked; a rehash request that is admitted asks for two blocks and,
with them, copies the bank under a new seed, one that is not is logged and dropped; the flip makes the copy live under the new seed and
mask; a flush erases the live bank, and one of a tenant removes that tenant's entries from every bank. FLUSH, REHASH and TERM_FLUSH_GO are
writes to PF BAR0 -/
def Obligations.LearnedTerminals : Prop :=
  (∀ (s : State) (op p : Nat) (e : TermEnt) (x : Nat), s.insertAt op = some p →
    (s.termOf p).pending.find? (fun e => e.1 == op) = some (x, e) →
    let r := (s.termOf p).insert (s.setting 0x0B) e
    exec (.terminalInsert op) s = .next ((s.modTerm p fun _ => { r.1.counted r.2 with
      pending := r.1.pending.filter fun x => x.1 != op }).noteOp op r.2)) ∧
  (∀ (t : Term) (cap : Nat) (e : TermEnt) (w : Nat), t.rehashing = false →
    (t.live.filter (ofTenant (e.tag.toNat % 4096))).length < cap →
    (∀ x ∈ t.live, ¬ (x.bucket = bucketOf t.seed e.tag e.ident ∧ x.tag = e.tag ∧ x.ident = e.ident)) →
    (freeWay t.live (bucketOf t.seed e.tag e.ident) = some w → t.insert cap e = ({ t with live := t.live ++
      [{ e with bucket := bucketOf t.seed e.tag e.ident, way := w, hit := true, aged := false }] }, 0)) ∧
    (freeWay t.live (bucketOf t.seed e.tag e.ident) = none → t.insert cap e = ({ t with request := true }, 1))) ∧
  (∀ (t : Term) (cap : Nat) (e : TermEnt), (t.rehashing = true → t.insert cap e = (t, 2)) ∧ (t.rehashing = false →
    cap ≤ (t.live.filter (ofTenant (e.tag.toNat % 4096))).length → t.insert cap e = (t, 3))) ∧
  (∀ (s : State) (p : Fin 8), (s.termOf p.val).rehashing = false → ∃ t, exec (.terminalSweep p) s = .next t ∧
    (t.termOf p.val).live = (s.termOf p.val).live.filterMap TermEnt.sweep ∧ (t.termOf p.val).sweeps = (s.termOf p.val).sweeps + 1 ∧
    (∀ q, q ≠ p.val → t.termOf q = s.termOf q) ∧ t = { s with routing := { s.routing with terms := t.routing.terms } }) ∧
  (∀ e : TermEnt, (e.hit = true → e.sweep = some { e with hit := false, aged := false }) ∧
    (e.hit = false → e.aged = true → e.sweep = none) ∧ (e.hit = false → e.aged = false → e.sweep = some { e with aged := true })) ∧
  (∀ (s : State) (p : Fin 8), (s.termOf p.val).request = true → (s.termOf p.val).rehashing = false → s.worlds.bench.status = 1 →
    s.worlds.vaultUp = true → s.rehashAdmitted (s.termOf p.val) = true →
    ((s.termOf p.val).drawn = none → s.bellows.state = .ok → s.waitsSeed (.rehash p.val) = false →
      exec (.rehashStart p) s = .next (s.enqueueSeed { who := .rehash p.val, level := 2, blocks := 2 })) ∧
    (∀ b, (s.termOf p.val).drawn = some b → ∃ t, exec (.rehashStart p) s = .next t ∧ (t.termOf p.val).rehashing = true ∧
      (t.termOf p.val).request = false ∧ (t.termOf p.val).newSeed = BitVec.ofNat 128 (leAt b 0 16) ∧
      (t.termOf p.val).newMask = BitVec.ofNat 128 (leAt b 16 16) ∧ (t.termOf p.val).live = (s.termOf p.val).live ∧
      (t.termOf p.val).spare = (walkOrder (s.termOf p.val).live).foldl (rehashStep (BitVec.ofNat 128 (leAt b 0 16))) [] ∧
      (∀ q, q ≠ p.val → t.termOf q = s.termOf q) ∧ t = { s with routing := t.routing, store := t.store })) ∧
  (∀ (s : State) (p : Fin 8), (s.termOf p.val).request = true → (s.termOf p.val).rehashing = false → s.worlds.bench.status = 1 →
    s.worlds.vaultUp = true → s.rehashAdmitted (s.termOf p.val) = false → twf {} s.routing.terms = true → ∃ t,
      exec (.rehashStart p) s = .next t ∧ t.termOf p.val = { s.termOf p.val with request := false } ∧
      (∀ q, q ≠ p.val → t.termOf q = s.termOf q) ∧ t = { s with routing := t.routing, store := t.store }) ∧
  (∀ (s : State) (p : Fin 8), (s.termOf p.val).rehashing = true → ∃ t, exec (.rehashFlip p) s = .next t ∧
    (t.termOf p.val).live = (s.termOf p.val).spare ∧ (t.termOf p.val).seed = (s.termOf p.val).newSeed ∧
    (t.termOf p.val).maskKey = (s.termOf p.val).newMask ∧
    (t.termOf p.val).rehashing = false ∧ (t.termOf p.val).lastEnd = some s.now ∧ (∀ q, q ≠ p.val → t.termOf q = s.termOf q) ∧
    t = { s with routing := { s.routing with terms := t.routing.terms } }) ∧
  (∀ (s : State) (p : Fin 8), s.pfOpen = true → twf {} s.routing.terms = true → ∃ t, exec (.flush p) s = .next t ∧ (t.termOf p.val).live = [] ∧
    (t.termOf p.val).rehashing = false ∧ (∀ q, q ≠ p.val → t.termOf q = s.termOf q) ∧
    t = { s with routing := { s.routing with terms := t.routing.terms } }) ∧
  (∀ (s : State) (p : Fin 8), s.pfOpen = true → (s.termOf p.val).rehashing = false → ∃ t, exec (.rehash p) s = .next t ∧
    (t.termOf p.val).request = true ∧ (t.termOf p.val).live = (s.termOf p.val).live ∧ (∀ q, q ≠ p.val → t.termOf q = s.termOf q) ∧
    t = { s with routing := { s.routing with terms := t.routing.terms } }) ∧
  (∀ (s : State) (n : BitVec 12), s.pfOpen = true → s.routing.flushBusy = false → exec (.termFlushGo n) s = .next { s with
    routing := { s.routing with flushTen := n.toNat, flushing := n.toNat, flushBusy := true } }) ∧
  (∀ s : State, s.routing.flushBusy = true → twf {} s.routing.terms = true → ∃ t, exec .termFlushDone s = .next t ∧
    t.routing.flushBusy = false ∧ (∀ p e, e ∈ (t.termOf p).live ↔ e ∈ (s.termOf p).live ∧ ofTenant s.routing.flushing e = false) ∧
    (∀ p, (t.termOf p).seed = (s.termOf p).seed) ∧ t = { s with routing := t.routing })

/-! ### Ceremonies and attestation (07) -/

/-- R199, R201, R203, R209, R210: with no ceremony open and every check passed, CER_OPEN asks Bellows for its draw, and with the draw and
an idle Hammer unit opens one under the next number, with the counts that its kind needs and no step accepted; with one open it is refused
without a change to a ceremony. CER_STEP likewise draws and begins its step, which consumes its number; a wrong number is refused, and a
body with a bad byte is refused with the number consumed R200, R202, R217: an abort in a state that admits the kind, the end of the window
and the idle limit end the ceremony without commit: it is gone, its number is not used again, and no key, tenant, set or root changes
R197, R198, R437: CER_STATUS without a ceremony answers sixteen zero bytes, and with one sixteen bytes that begin with its number and
kind; SET_READ answers the record of a custodian set, in QUENCHED a conflict, and above 4,095 the model's status (log 55); neither changes
anything but the mailbox -/
def Obligations.CeremonySteps : Prop :=
  ((∀ (s : State) (b : Bytes) (kind n : Nat), s.serves 0x40 = true → b = s.mbxBody → kind = (byteAt b 0).toNat → n = leAt b 2 2 →
     s.vault.cer = none → 1 ≤ kind → kind ≤ 7 → s.cerState kind (byteAt b 4).toNat = true → byteAt b 1 = 0 → n < 4096 →
     s.cerParams b kind n = none → (kind = 3 → s.exportFault b n = none) →
     (s.bellows.given = none → s.bellows.state = .ok → s.waitsSeed .hearth = false →
       exec .cerOpen s = .next (s.enqueueSeed { who := .hearth, level := 2, blocks := 39 })) ∧
     (∀ r, s.bellows.given = some r → s.HearthUnit → ∃ t c, exec .cerOpen s = .next t ∧ t.vault.cer = some c ∧
       c.id = s.vault.nextCer ∧ c.kind = kind ∧ c.tenant = n ∧
       c.need = s.cerNeed b kind n ∧ c.got = [] ∧ c.windowOn = false ∧
       t.vault.nextCer = (if s.vault.nextCer + 1 = 0 then 1 else s.vault.nextCer + 1) ∧
       t.rack = s.rack ∧ t.vault.tenants = s.vault.tenants ∧ t.crucible = s.crucible ∧ t.chip = s.chip ∧
       t.worlds.running = none)) ∧
   (∀ s : State, s.serves 0x40 = true → s.vault.cer.isSome = true → ∃ t, exec .cerOpen s = .next t ∧ t.vault = s.vault ∧
     t.rack = s.rack ∧ t.worlds.running = none) ∧
   (∀ (s : State) (c : Ceremony) (b : Bytes), s.serves 0x41 = true → b = s.mbxBody → s.namedCer = some c → s.cards.session = none →
     s.cerState c.kind (c.at_ 4 1) = true →
     (leAt b 8 4 = c.nextStep.toNat → stepFault b = none → s.bellows.given = none → s.bellows.state = .ok → s.waitsSeed .hearth = false →
       exec .cerStep s = .next (s.enqueueSeed { who := .hearth, level := 2, blocks := 9 })) ∧
     (∀ r, leAt b 8 4 = c.nextStep.toNat → stepFault b = none → s.bellows.given = some r → s.HearthUnit →
       exec .cerStep s = .next (s.hearthRuns.beginStep b c (r.take 136))) ∧
     (∀ f, leAt b 8 4 = c.nextStep.toNat → stepFault b = some f →
       exec .cerStep s = .next ((s.setCer { c with nextStep := c.nextStep + 1 }).cerBadField f)) ∧
     (leAt b 8 4 ≠ c.nextStep.toNat → exec .cerStep s = .next s.mbxConflict)) ∧
   (∀ (s : State) (c : Ceremony) (b r : Bytes), ∃ x, (s.beginStep b c r).vault.cer = some x ∧ x.nextStep = c.nextStep + 1 ∧ x.got = c.got)) ∧
  ((∀ (s : State) (c : Ceremony), s.serves 0x43 = true → s.namedCer = some c → s.cerState c.kind (c.at_ 4 1) = true →
     exec .cerAbort s = .next ((s.endCeremony 1).mbxAnswer 0 0 [])) ∧
   (∀ (s : State) (c : Ceremony), s.vault.cer = some c → (c.windowOn = true → exec .ceremonyWindowExpiry s = .next (s.endCeremony 2)) ∧
     (c.windowOn = false → exec .ceremonyWindowExpiry s = .next s) ∧ (c.cstate = 1 → exec .ceremonyIdleLimit s = .next (s.endCeremony 3)) ∧
     (c.cstate ≠ 1 → exec .ceremonyIdleLimit s = .next s)) ∧
   (∀ (s : State) (r : Nat), (s.endCeremony r).vault.cer = none ∧ (s.endCeremony r).vault.nextCer = s.vault.nextCer ∧
     (s.endCeremony r).rack = s.rack ∧ (s.endCeremony r).vault.tenants = s.vault.tenants ∧ (s.endCeremony r).vault.sets = s.vault.sets ∧
     (s.endCeremony r).crucible = s.crucible ∧ (s.endCeremony r).chip = s.chip ∧ (s.endCeremony r).engine = s.engine)) ∧
  ((∀ s : State, s.serves 0x44 = true → s.vault.cer = none → exec .cerStatus s = .next (s.mbxAnswer 0 0 (List.replicate 16 0))) ∧
   (∀ (s : State) (c : Ceremony), s.serves 0x44 = true → s.vault.cer = some c → ∃ b, exec .cerStatus s = .next (s.mbxAnswer 0 0 b) ∧
     b.length = 16 ∧ b.take 4 = leBytes 4 c.id.toNat ∧ slice b 4 1 = leBytes 1 c.kind ∧ slice b 8 4 = leBytes 4 c.nextStep.toNat) ∧
   (∀ s : State, s.serves 0x45 = true → s.chip.state ≠ .quenched → leAt s.mbxBody 0 2 < 4096 → exec .setRead s =
     .next (s.mbxAnswer 0 0 ((setBytes (leAt s.mbxBody 0 2) (s.setOf (leAt s.mbxBody 0 2))).take 196))) ∧
   (∀ s : State, s.serves 0x45 = true → s.chip.state ≠ .quenched → 4096 ≤ leAt s.mbxBody 0 2 → exec .setRead s =
     .next (s.mbxAnswer 0x0102 0 [])) ∧
   (∀ s : State, s.serves 0x45 = true → s.chip.state = .quenched → exec .setRead s = .next s.mbxConflict))

/-- R199, R209, R214, R215, R178: a commit before the ceremony is quorate answers ST_NOT_QUORATE with the count and changes nothing but
the mailbox; a quorate one has its kind's effect: an UNLOCK with no latched condition left clears the latch and enters READY with the key
bus on, keeping keys, root and tenants; a NEW_ROOT with its draw, where the root's fields read 0 and no class 3 condition is left, makes a
fresh root, one generation on, with one tenant and one custodian set, and clears the latch; where a field does not read 0 it is refused
(the model's reading, log 27) R224, R225: in READY, LOCKED or QUENCHED ATTEST_MAC answers the report of 96 bytes and its HMAC; with its
five blocks and an idle Hammer unit ATTEST_SIGN writes the report with an ECDSA and an ML-DSA signature; CERT_READ writes the certificate
that PLAN names -/
def Obligations.CeremonyCommitsAndAttestation : Prop :=
  ((∀ (s : State) (c : Ceremony) (card : SdCard) (sd : SdRead) (role n : Nat), s.serves 0x42 = true → s.namedCer = some c →
     s.cerState c.kind (c.at_ 4 1) = true → c.short = some (role, n) → exec (.cerCommit ⟨card, sd⟩) s =
       .next (s.mbxAnswer 0x0304 (c.count role + 256 * n) [])) ∧
   (∀ (s : State) (c : Ceremony) (card : SdCard) (sd : SdRead), s.serves 0x42 = true → s.namedCer = some c →
     s.cerState c.kind (c.at_ 4 1) = true → c.short = none → exec (.cerCommit ⟨card, sd⟩) s = .next (s.commit c card sd)) ∧
   (∀ (s : State) (c : Ceremony) (card : SdCard) (sd : SdRead), c.kind = 4 → s.persists 2 true = false →
     (s.commit c card sd).chip.state = .ready ∧ (s.commit c card sd).chip.keyBus = true ∧ (s.commit c card sd).vault.cer = none ∧
     (s.commit c card sd).crucible.latchSrc = 0 ∧ (s.commit c card sd).crucible.latchCls = 0 ∧ (s.commit c card sd).rack = s.rack ∧
     (s.commit c card sd).crucible.drk = s.crucible.drk ∧ (s.commit c card sd).vault.tenants = s.vault.tenants) ∧
   (∀ (s : State) (c : Ceremony) (card : SdCard) (sd : SdRead) (g r : Bytes), c.kind = 6 → s.persists 3 false = false →
     s.bellows.given = some g → r = g.take 96 → s.crucible.drk = 0 → s.crucible.maskSeed = 0 → s.crucible.drkCheck = 0 →
     (s.commit c card sd).chip.state = .ready ∧ (s.commit c card sd).vault.cer = none ∧
     (s.commit c card sd).crucible.drk = BitVec.ofNat 256 (beNat (r.take 32)) ∧
     (s.commit c card sd).crucible.maskSeed = BitVec.ofNat 256 (beAt r 32 32) ∧
     (s.commit c card sd).crucible.rootGen = s.crucible.rootGen + 1 ∧ (s.commit c card sd).vault.nextCer = 1 ∧
     (s.commit c card sd).vault.btk = c.btk ∧ (s.commit c card sd).crucible.latchSrc = 0 ∧ ((s.commit c card sd).tenantOf 0).live = true ∧
     (∀ n, n ≠ 0 → ((s.commit c card sd).tenantOf n).live = false) ∧
     tget {} (s.commit c card sd).vault.sets 0 = { n := c.at_ 4 1, m := c.at_ 5 1, cards := c.hashes } ∧
     ∀ n, n ≠ 0 → tget {} (s.commit c card sd).vault.sets n = {}) ∧
   (∀ (s : State) (c : Ceremony) (card : SdCard) (sd : SdRead) (r : Bytes), c.kind = 6 → s.bellows.given = some r →
     (s.crucible.drk ≠ 0 ∨ s.crucible.maskSeed ≠ 0 ∨ s.crucible.drkCheck ≠ 0) → s.commit c card sd = s.tookDraw.mbxConflict)) ∧
  ((∀ (s : State) (r : Bytes), s.serves 0x48 = true → s.chip.state = .ready ∨ s.chip.state = .locked ∨ s.chip.state = .quenched →
     r = s.report96 (s.mbxBody.take 32) → exec .attestMac s =
       .next (s.mbxAnswer 0 0 (r ++ Sha.hmacId 3 (fit 48 (s.unwrapped s.trims.attestKey)) r))) ∧
   (∀ (s v : State) (op : Nat) (o : Op) (dma : Dma) (n r out : Bytes), s.Serving op 0x0610 o → check7 o.desc dma 0 3501 = none →
     o.seed = some n → s.HearthUnit → v = State.used op (((s.hasRead o dma).drewBlind shareBytes).drewBlind shareBytes) →
     r = s.report96 (opParams o dma) → out = r ++ p384Sign s.signKeyEc (n.take 48) r ++
       Mldsa.sign 65 (Mldsa.keygen 65 (fit 32 (s.unwrapped s.trims.signMl))).2 [] r (n.drop 48) →
     exec (.attestSign op dma) s = .next ((v.writeOut o dma out).finish op 0 0 out.length [])) ∧
   (∀ (s : State) (op : Nat) (o : Op) (dma : Dma) (c : Bytes), s.Serving op 0x0611 o → check7 o.desc dma 0 8192 = none →
     c = tget [] s.trims.certs (2 * (dPlan o.desc % 2) + dPlan o.desc / 2 % 4) → exec (.certRead op dma) s =
       .next (((s.hasRead o dma).writeOut o dma c).finish op 0 0 c.length [])) ∧
   (∀ (s : State) (ch : Bytes), (s.report96 ch).length = 96 ∧ (s.report96 ch).take 6 = ascii "ZYAR" ++ [0x01, 0x10] ∧
     (s.report96 ch).drop 64 = fit 32 ch))

/-! ### Life cycle (15) -/

/-- R448, R449, R452: a target that R448 admits over JTAG or VAULTMBX, and a token that matches, make a transition; a refusal of either
changes no OTP bit, and a refused token is counted. With no Quench running a transition to DEV, PROD, RMA or SCRAP sets the target's bit,
erases the root and the custodian data, and resets the chip with cause 5, one to SCRAP erases identity, records and the root generation as
well; a transition by token blows the token's bit and erases no root R453, R461: IDCODE shifts out the device's code, BYPASS selects one
bit; SAMPLE takes the levels of the balls and EXTEST drives them in TEST_LOCKED, TEST_UNLOCKED, and in DEV and RMA with scope SCAN; each
acts as BYPASS elsewhere R453 to R455, R460, R461: for a scope that is admitted a nonce is drawn, once Bellows has served the Hearth, and
stands until it is used or expires; one that is not admitted is refused. The answer that matches grants the scope, over JTAG and over
VAULTMBX, and with scope RMA completes the transition of a committed ceremony; any other is counted and spends the nonce; LC_STATUS
answers the life-cycle body, 24 bytes that begin with the stage's code -/
def Obligations.LifeCycleAndDebug : Prop :=
  ((∀ (s : State) (n : BitVec 8) (bit : Nat), s.lcAdmits true n.toNat = some bit → exec (.lcAdvance (some n)) s =
     .next ((s.jtag 0x03 []).transition n.toNat bit)) ∧
   (∀ (s : State) (n : BitVec 8), s.lcAdmits true n.toNat = none → exec (.lcAdvance (some n)) s = .next (s.jtag 0x03 (leBytes 2 0x0301))) ∧
   (∀ (s : State) (bit : Nat), s.serves 0x11 = true → s.lifeCode ≠ 6 → s.lcAdmits false (byteAt s.mbxBody 0).toNat = some bit →
     exec (.lcAdvance none) s = .next ((s.mbxAnswer 0 0 []).transition (byteAt s.mbxBody 0).toNat bit)) ∧
   (∀ s : State, s.serves 0x11 = true → s.lifeCode ≠ 6 → s.lcAdmits false (byteAt s.mbxBody 0).toNat = none →
     exec (.lcAdvance none) s = .next s.mbxConflict) ∧
   (∀ (s : State) (n : BitVec 8) (v : BitVec 256), s.tokenOk n.toNat (beBytes 32 v.toNat) = true → exec (.token n v) s =
     .next ((s.jtag 0x04 []).transition 2 n.toNat)) ∧
   (∀ (s : State) (n : BitVec 8) (v : BitVec 256), s.tokenOk n.toNat (beBytes 32 v.toNat) = false → exec (.token n v) s =
     .next (State.jtag 0x04 (leBytes 2 0x0301) { s with life := { s.life with refusals := satInc 4 s.life.refusals } })) ∧
   (∀ (s : State) (n b : Nat), 3 ≤ n → n ≤ 6 → s.tamper.quench = false →
     (s.transition n b).life.stage = s.life.stage ||| BitVec.ofNat 5 (2 ^ (n - 2)) ∧ (s.transition n b).crucible.drk = 0 ∧
     (s.transition n b).vault.sets = [] ∧ (s.transition n b).vault.btk = none ∧ (s.transition n b).rack = {} ∧
     (s.transition n b).chip.state = .start ∧ (s.transition n b).chip.resetCause = 5 ∧
     (n = 6 → (s.transition n b).trims.identity = 0 ∧ (s.transition n b).store.records = [] ∧
       (s.transition n b).crucible.rootGen = 0)) ∧
   (∀ (s : State) (n : Nat), n < 8 → s.tamper.quench = false → (s.transition 2 n).life.tokenUsed = s.life.tokenUsed ||| BitVec.ofNat 8 (2 ^ n) ∧
     (s.transition 2 n).life.stage = s.life.stage ∧ (s.transition 2 n).chip.resetCause = 5 ∧ (s.transition 2 n).crucible = s.crucible)) ∧
  ((∀ s : State, exec .idcode s = .next (State.emit (.jtag (leBytes 4 0x148406BF)) { s with pins := { s.pins with jtagIr := 0x01 } })) ∧
   (∀ s : State, exec .bypass s = .next { s with pins := { s.pins with jtagIr := 0xFF } }) ∧
   (∀ (s : State) (l : BitVec 147), s.scanOk = true →
     exec (.sample l) s = .next (State.emit (.jtag (leBytes 19 l.toNat))
       { s with pins := { s.pins with jtagIr := 0x20, bscan := l.toNat } }) ∧
     exec (.extest l) s = .next { s with pins := { s.pins with jtagIr := 0x21, bscan := l.toNat } }) ∧
   (∀ (s : State) (l : BitVec 147), s.scanOk = false → exec (.sample l) s = exec .bypass s ∧ exec (.extest l) s = exec .bypass s) ∧
   (∀ s : State, s.scanOk = true ↔ s.lifeCode = 1 ∨ s.lifeCode = 2 ∨
     ((s.lifeCode = 3 ∨ s.lifeCode = 5) ∧ s.life.scope.getLsbD 2 = true))) ∧
  ((∀ (s : State) (m : BitVec 32), 3 ≤ s.lifeCode → s.lifeCode ≠ 6 → s.life.authFails < 8 → m &&& ~~~ s.scopeAdmitted = 0 →
     (∀ g r, s.bellows.given = some g → r = g.take 32 →
       let v := { s.tookDraw with life := { s.life with nonce := some (BitVec.ofNat 256 (beNat r), m) } }
       let b := r ++ leBytes 8 s.trims.identity.toNat ++ leBytes 1 s.lifeCode
       exec (.authNonce (some m)) s = .next (v.jtag 0x05 b) ∧
       (s.serves 0x12 = true → m = BitVec.ofNat 32 (leAt s.mbxBody 0 4) → exec (.authNonce none) s = .next (v.mbxAnswer 0 0 b))) ∧
     (s.bellows.given = none → s.bellows.state = .ok → s.waitsSeed .hearth = false → exec (.authNonce (some m)) s =
       .next (s.enqueueSeed { who := .hearth, level := 2, blocks := 2 }))) ∧
   (∀ (s : State) (m : BitVec 32), m &&& ~~~ s.scopeAdmitted ≠ 0 →
     exec (.authNonce (some m)) s = .next (s.jtag 0x05 (leBytes 2 0x0301)) ∧
     (s.serves 0x12 = true → s.lifeCode ≠ 6 → m = BitVec.ofNat 32 (leAt s.mbxBody 0 4) → exec (.authNonce none) s = .next s.mbxConflict)) ∧
   (∀ (s : State) (n : BitVec 256) (m : BitVec 32) (v : BitVec 384), s.life.nonce = some (n, m) →
     beBytes 48 v.toNat = s.authCode n m → m.getLsbD 4 = false → ∃ t, exec (.authResponse (some v)) s = .next t ∧ t.life.nonce = none ∧
       t.life.scope = s.life.scope ||| m ∧ t.life.unsignedArm = (s.life.unsignedArm || m.getLsbD 3) ∧ t.life.stage = s.life.stage ∧
       t.sent = .jtag (leBytes 4 t.life.scope.toNat) :: s.sent ∧ t = { s with life := t.life, sent := t.sent, pins := { s.pins with jtagIr := 0x06 } }) ∧
   (∀ (s : State) (n : BitVec 256) (m : BitVec 32) (v : BitVec 384), s.life.nonce = some (n, m) →
     beBytes 48 v.toNat = s.authCode n m → m.getLsbD 4 = true → s.vault.lcTarget = some 5 → s.lifeCode = 4 →
     exec (.authResponse (some v)) s = .next (State.transition 5 0 (State.jtag 0x06 (leBytes 4 (s.life.scope ||| m).toNat) { s with
       life := { s.life with nonce := none, scope := s.life.scope ||| m, unsignedArm := s.life.unsignedArm || m.getLsbD 3 } }))) ∧
   (∀ (s : State) (n : BitVec 256) (m : BitVec 32), s.serves 0x13 = true → s.lifeCode ≠ 6 → s.life.nonce = some (n, m) →
     s.mbxBody.take 48 = s.authCode n m → m.getLsbD 4 = false → exec (.authResponse none) s =
     .next (State.mbxAnswer 0 0 (leBytes 4 (s.life.scope ||| m).toNat) { s with
       life := { s.life with nonce := none, scope := s.life.scope ||| m, unsignedArm := s.life.unsignedArm || m.getLsbD 3 } })) ∧
   (∀ (s : State) (n : BitVec 256) (m : BitVec 32) (v : BitVec 384), s.life.nonce = some (n, m) →
     beBytes 48 v.toNat ≠ s.authCode n m → ∃ t, exec (.authResponse (some v)) s = .next t ∧ t.life.nonce = none ∧
       t.life.scope = s.life.scope ∧ t.life.authFails = satInc 8 s.life.authFails ∧ t.life.stage = s.life.stage ∧
       t.rack = s.rack ∧ t.crucible = s.crucible) ∧
   (∀ s : State, exec .nonceExpiry s = .next { s with life := { s.life with nonce := none } }) ∧
   (∀ s : State, exec (.lcStatus true) s = .next (s.jtag 0x02 s.lcBody)) ∧
   (∀ s : State, s.serves 0x10 = true → exec (.lcStatus false) s = .next (s.mbxAnswer 0 0 s.lcBody)) ∧
   (∀ s : State, s.lcBody.length = 24 ∧ s.lcBody.take 1 = leBytes 1 s.lifeCode))

/-- R457 to R460, R483: with no transfer open one is opened for the slot that was not booted and erases it; data at the next offset
extends it; a commit of a full transfer, as a job of an idle Hammer unit, checks the whole image and prefers an accepted one, and leaves
the flash; the owner key, a point of P-384, is fused once, in DEV or in PROD before the first root; DEVICE_RESTART with no Quench running
resets the chip with cause 6 -/
def Obligations.ImagesAndOwner : Prop :=
  (∀ (s : State) (k : Nat), s.serves 0x18 = true → s.lifeCode ≠ 6 → s.chip.state ≠ .start → s.life.transfer = none →
    (byteAt s.mbxBody 0).toNat = k + 1 → k < 3 → byteAt s.mbxBody 1 = 0 → byteAt s.mbxBody 2 = 0 → byteAt s.mbxBody 3 = 0 →
    leAt s.mbxBody 4 4 ≤ slotSize k → exec .imageBegin s = .next (State.mbxAnswer 0 0 (leBytes 1 (s.spareSlot k))
      { s with life := { s.life with transfer := some (k, s.spareSlot k, leAt s.mbxBody 4 4, 0)
                                     flash := tset [] (2 * k + s.spareSlot k) [] s.life.flash } })) ∧
  (∀ (s : State) (k slot len next n : Nat), s.serves 0x19 = true → s.lifeCode ≠ 6 → s.life.transfer = some (k, slot, len, next) →
    n = min 240 s.mbxLen - 4 → leAt s.mbxBody 0 4 = next → n ≤ 224 → next + n ≤ len → exec .imageData s =
      .next (State.mbxAnswer 0 0 [] { s with life := { s.life with
        transfer := some (k, slot, len, next + n)
        flash := tset [] (2 * k + slot) (s.imageAt k slot ++ slice s.mbxBody 4 n) s.life.flash } })) ∧
  (∀ (s : State) (k slot len next : Nat), s.serves 0x1A = true → s.lifeCode ≠ 6 → s.life.transfer = some (k, slot, len, next) →
    len ≤ next → s.HearthUnit →
    (s.imageFault k (s.lifeCode == 2) (s.imageAt k slot) = 0 → exec .imageCommit s =
      .next (State.mbxAnswer 0 0 [0] { s.drewBlind shareBytes with
        life := { s.life with transfer := none, prefer := tset 0 k slot s.life.prefer } })) ∧
    (s.imageFault k (s.lifeCode == 2) (s.imageAt k slot) ≠ 0 → ∃ t, exec .imageCommit s = .next t ∧ t.life.transfer = none ∧
      t.life.prefer = s.life.prefer ∧ t.life.flash = s.life.flash)) ∧
  (∀ s : State, s.serves 0x14 = true → s.lifeCode = 3 ∨ (s.lifeCode = 4 ∧ s.crucible.rootGen = 0) → s.life.ownerHash = none → (Ecc.p384.decode (s.mbxBody.take 97)).isSome = true →
    exec .ownerKeyFuse s = .next (State.mbxAnswer 0 0 (Sha.sha384 (s.mbxBody.take 97)) { s with life := { s.life with
      ownerHash := some (BitVec.ofNat 384 (beNat (Sha.sha384 (s.mbxBody.take 97)))), ownerKey := s.mbxBody.take 97 } })) ∧
  (∀ s : State, s.serves 0x14 = true → s.lifeCode ≠ 6 → s.life.ownerHash ≠ none → exec .ownerKeyFuse s = .next s.mbxConflict) ∧
  (∀ s : State, s.serves 0x1B = true → s.lifeCode ≠ 6 → s.chip.state ≠ .start → s.tamper.quench = false → ∃ t,
    exec .deviceRestart s = .next t ∧ t.chip.state = .start ∧ t.chip.resetCause = 6 ∧ t.rack = {} ∧ t.crucible = s.crucible ∧
    t.life.stage = s.life.stage ∧ t.life.flash = s.life.flash)

/-! ### Cards (18) -/

/-- R487, R499, R503: a card inserted into an empty custodian port is counted, sets PME_Status and activates nothing; one inserted into
the backup port makes it wait for its initialisation, or for power. A removal deactivates its port and is counted; it ends a conversation
on the port, here a CARD_IDENTIFY, with ST_CARD_REMOVED, or the archive operation under way with ST_CARD_REMOVED or ST_CARD_BUSY R489 to
R494: what an active custodian port of the conversation does with an answer to reset, a PPS response, a block and the timeouts while it
waits for them: an answer of its class is kept, one of another class makes the port try that class, a malformed one and one without T=1
end the conversation; an echo sets the rate, another PPS response leads to one more activation and then to the end; a block carries the
exchange on, a failed one is recovered, and a whole APDU's time ends the conversation; each end names its cause. An idle card's clock
stops where the card allows it R28, R496, R508: CARD_IDENTIFY starts a conversation on its port, which is activated at the board's lowest
class; a card whose certificate verifies completes it with its number, one whose certificate does not ends it with a card protocol error;
without a card it ends with ST_CARD_ABSENT, and with block 0x14 out of service with ST_SERVICE_UNAVAILABLE -/
def Obligations.Cards : Prop :=
  ((∀ (s : State) (p : Fin 5), p.val < 4 → (s.portOf p.val).present = false → ∃ t, exec (.cardInserted p) s = .next t ∧
     (t.portOf p.val).present = true ∧ (t.portOf p.val).active = (s.portOf p.val).active ∧
     (t.portOf p.val).insertions = satInc 65535 (s.portOf p.val).insertions ∧ (∀ q, q ≠ p.val → t.portOf q = s.portOf q) ∧
     t.link.pmeStatus = true ∧ t.vault = s.vault ∧ t.rack = s.rack) ∧
   (∀ s : State, s.cards.sd.present = false → exec (.cardInserted 4) s = .next { s with cards := { s.cards with
     sd := { s.cards.sd with present := true, state := if s.powered 27 then 1 else 5 } } }) ∧
   (∀ (s : State) (p : Fin 5) (b : Option Bool), p.val < 4 → (s.portOf p.val).present = true → s.cards.session = none → ∃ t,
     exec (.cardRemoved p b) s = .next t ∧ (t.portOf p.val).present = false ∧ (t.portOf p.val).active = false ∧
     (t.portOf p.val).removals = satInc 65535 (s.portOf p.val).removals ∧ (∀ q, q ≠ p.val → t.portOf q = s.portOf q) ∧
     t.vault = s.vault ∧ t.rack = s.rack) ∧
   (∀ (s : State) (p : Fin 5) (b : Option Bool) (x : Session) (id : Nat) (o : Op), p.val < 4 → (s.portOf p.val).present = true →
     s.cards.session = some x → x.port = p.val → x.op = some id → s.opOf id = some o → ∃ t, exec (.cardRemoved p b) s = .next t ∧
       (t.portOf p.val).present = false ∧ (t.portOf p.val).active = false ∧ t.cards.session = none ∧ t.Ended id 0x0702 p.val 0 [] ∧
       t.vault = s.vault ∧ t.rack = s.rack) ∧
   (∀ (s : State) (id : Nat) (o : Op) (rest : List Nat) (b : Bool), s.cards.sd.present = true → s.cards.sd.waiting = id :: rest →
     s.opOf id = some o → ∃ t, exec (.cardRemoved 4 (some b)) s = .next t ∧ t.cards.sd.present = false ∧
       t.cards.sd.walked = false ∧ t.Ended id (if b then 0x0703 else 0x0702) 0 0 [] ∧ t.rack = s.rack)) ∧
  (∀ (s : State) (p : Fin 4) (x : Session), s.cards.session = some x → x.port = p.val → (s.portOf p.val).active = true →
     ((s.portOf p.val).phase = .waitAtr →
       (∀ b, (readAtr b).ok = true → (readAtr b).t1 = true → (readAtr b).admits (s.portOf p.val).cls = true →
         exec (.atrReceived p b) s = .next (s.takeAtr x p.val b (readAtr b))) ∧
       (∀ b, (readAtr b).ok = false → exec (.atrReceived p b) s = .next (s.cardProtocol x 2 0)) ∧
       (∀ b, (readAtr b).ok = true → (readAtr b).t1 = false → exec (.atrReceived p b) s = .next (s.cardProtocol x 3 0)) ∧
       (∀ b c, (readAtr b).ok = true → (readAtr b).t1 = true → (readAtr b).admits (s.portOf p.val).cls = false →
         s.nextClass ((s.portOf p.val).cls + 1) (readAtr b).admits = some c →
         exec (.atrReceived p b) s = .next (s.activate p.val c)) ∧
       (∀ c, s.nextClass ((s.portOf p.val).cls + 1) (fun _ => true) = some c → exec (.atrTimeout p) s = .next (s.activate p.val c)) ∧
       (s.nextClass ((s.portOf p.val).cls + 1) (fun _ => true) = none → exec (.atrTimeout p) s = .next (s.cardProtocol x 1 0))) ∧
     ((s.portOf p.val).phase = .waitPps →
       exec (.ppsResponse p (s.portOf p.val).ppsReq) s = .next (s.setRate p.val
         (if (s.portOf p.val).ppsReq.length = 4 then (byteAt (s.portOf p.val).ppsReq 2).toNat else 0x11)) ∧
       (∀ b, b ≠ (s.portOf p.val).ppsReq → (s.portOf p.val).ppsTried = 0 → exec (.ppsResponse p b) s =
         .next ((s.modPort p.val fun p => { p with ppsTried := 1 }).activate p.val (s.portOf p.val).cls)) ∧
       (∀ b, b ≠ (s.portOf p.val).ppsReq → (s.portOf p.val).ppsTried ≠ 0 → exec (.ppsResponse p b) s = .next (s.cardProtocol x 5 0))) ∧
     ((s.portOf p.val).phase = .waitBlock →
       (∀ b e, exec (.t1BlockReceived p b e) s = .next (s.carryOn x (s.takeBlock p.val b e))) ∧
       exec (.t1Timeout p) s = .next (s.carryOn x (.ofRecover (s.recover p.val (State.sendR p.val 2)))) ∧
       exec (.apduTimeout p) s = .next (s.cardProtocol x 7 0)) ∧
     ((s.portOf p.val).phase = .idle → (s.portOf p.val).stopMode ≠ 0 → exec (.cardClockStop p) s =
       .next (s.modPort p.val fun p => { p with clkStop := true })) ∧
     (∀ c w, s.cardProtocol x c w = (s.modPort x.port fun p => { p with cause := c }).cardStatus x 0x0704 (x.port + 256 * c + 65536 * w))) ∧
  ((∀ (s : State) (op : Nat) (o : Op) (c : Nat), s.opOf op = some o → o.opcode = 0x0710 → o.stage = .channel →
     s.worlds.running = some (.chan op) → s.cards.session = none → s.powered 27 = true → (s.blockOf 0x14).out = false →
     (s.portOf (dPlan o.desc % 4)).present = true →
     s.nextClass 1 (fun _ => true) = some c → ∃ t x, exec (.cardIdentify op) s = .next t ∧ t.cards.session = some x ∧ x.op = some op ∧
       x.port = dPlan o.desc % 4 ∧ (t.portOf (dPlan o.desc % 4)).active = true ∧ (t.portOf (dPlan o.desc % 4)).cls = c ∧
       (t.portOf (dPlan o.desc % 4)).phase = .waitAtr ∧ t.vault = s.vault ∧ t.engine = s.engine) ∧
   (∀ (s : State) (op : Nat) (o : Op), s.opOf op = some o → o.opcode = 0x0710 → o.stage = .channel →
     s.worlds.running = some (.chan op) → s.cards.session = none → s.powered 27 = true →
     ((s.blockOf 0x14).out = true → exec (.cardIdentify op) s = .next (s.fail op 0x0302 0x14)) ∧
     ((s.blockOf 0x14).out = false → (s.portOf (dPlan o.desc % 4)).present = false →
       exec (.cardIdentify op) s = .next (s.fail op 0x0701 (dPlan o.desc % 4)))) ∧
   (∀ (s : State) (x : Session) (id : Nat) (d : Bytes), x.op = some id → certSigned s.trims.cardCa (d.drop 12) = false →
     ∃ y, y.op = some id ∧ y.port = x.port ∧ s.cardIdentity x d = s.cardProtocol y 8 0) ∧
   (∀ (s : State) (x : Session) (id : Nat) (d : Bytes), x.op = some id → certSigned s.trims.cardCa (d.drop 12) = true →
     s.cardIdentity x d = s.endSession.finish id 0 0 0 (d.take 12)))

/-- R28, R221, R500 to R508: the oldest operation of the backup port that may start, with power, the block in service with the Bench
serving, and the Hearth where the opcode needs it: with a ready card ARCHIVE_STATUS answers the walk, and with one that has just been
inserted what its initialisation read; ARCHIVE_WRITE and ARCHIVE_RECORDER write an archive, ARCHIVE_FORMAT a new volume header; a refused
card, an absent one, a block out of service and a failed transfer end the operation with their status. An archive that fits is written at
the next free block with its commit block behind it; one that does not ends with its quota status and nothing is written; a CRC error is
counted, tuned for, retried in a lower mode, and at SDR12 ends the operation; so does a block busy too long -/
def Obligations.Archives : Prop :=
  (∀ (s : State) (op : Nat) (o : Op) (card : SdCard), s.opOf op = some o → o.stage = .channel → s.powered 27 = true →
    s.cards.sd.waiting.find? (fun w => s.svcMayStart (.chan w)) = some op → (s.blockOf 0x14).out = false → s.worlds.bench.status = 1 →
    s.cards.sd.present = true →
    (o.opcode = 0x0703 → s.cards.sd.state = 2 → exec (.archiveStatus op card .done) s =
      .next (s.finish op 0 0 0 (leBytes 4 s.cards.sd.lastSeq ++
        leBytes 4 s.cards.sd.nextLba ++ leBytes 4 (s.cards.sd.capacity - s.cards.sd.nextLba)))) ∧
    (∀ c : BitVec 8, o.opcode = 0x0703 → s.cards.sd.state = 2 →
      exec (.archiveStatus op card (.failed c)) s = .next (s.sdProtocol op c.toNat 1)) ∧
    (∀ v, o.opcode = 0x0703 → s.cards.sd.state ≠ 2 → s.cards.sd.state ≠ 4 → card.cause = none → card.volume = some v → ∃ t,
      exec (.archiveStatus op card .done) s = .next t ∧ t.cards.sd.state = 2 ∧ t.cards.sd.walked = true ∧ t.cards.sd.volume = v ∧
      t.Ended op 0 0 0 (leBytes 4 card.lastSeq.toNat ++ leBytes 4 card.nextLba.toNat ++
        leBytes 4 (card.capacity.toNat - card.nextLba.toNat))) ∧
    (∀ c, o.opcode = 0x0703 → s.cards.sd.state ≠ 2 → s.cards.sd.state ≠ 4 → card.cause = some c →
      exec (.archiveStatus op card .done) s = .next (s.sdProtocol op c.toNat 4)) ∧
    (o.opcode = 0x0702 → s.worlds.vaultUp = true → s.cards.sd.state = 2 → exec (.archiveRecorder op card .done) s = .next (s.writeArchive op
      (s.nextHead 2 (s.store.records.flatMap fun e => e.2.image e.1).length) (s.store.records.flatMap fun e => e.2.image e.1) [] .done)) ∧
    (∀ k r, o.opcode = 0x0701 → s.worlds.vaultUp = true → s.cards.sd.state = 2 → s.heldBtk = some k →
      (dPlan o.desc).testBit 0 = false ∨ (s.tenantOf o.tenant).live = true → o.seed = some r →
      exec (.archiveWrite op card .done) s = .next ((State.used op s).tenantArchive o k .done r)) ∧
    (o.opcode = 0x0701 → s.worlds.vaultUp = true → s.heldBtk = none → exec (.archiveWrite op card .done) s = .next (s.fail op 0x0301 s.chip.state.code)) ∧
    (∀ r, o.opcode = 0x0704 → s.worlds.vaultUp = true → s.cards.sd.state = 2 → dAux o.desc % 2 ^ 32 = 0x464D5441 → o.seed = some r → ∃ t,
      exec (.archiveFormat op card .done) s = .next t ∧
      t.cards.sd.volume = BitVec.ofNat 64 (leNat (r.take 8)) ∧ t.cards.sd.lastSeq = 0 ∧ t.cards.sd.nextLba = 64 ∧
      t.Ended op 0 0 0 (leBytes 8 t.cards.sd.volume.toNat) ∧ t.rack = s.rack)) ∧
  (∀ (s : State) (id : Nat) (h : ArcHead) (b tag : Bytes), s.cards.sd.nextLba + h.b + 1 ≤ s.cards.sd.capacity → s.opOf id ≠ none →
    (s.writeArchive id h b tag .done).Ended id 0 0 0 (leBytes 4 h.seq ++ leBytes 4 s.cards.sd.nextLba ++ leBytes 4 h.b) ∧
    (s.writeArchive id h b tag .done).cards.sd.lastSeq = h.seq ∧
    (s.writeArchive id h b tag .done).cards.sd.nextLba = s.cards.sd.nextLba + h.b + 1 ∧
    .sdWrite s.cards.sd.nextLba (h.blocks b) ∈ (s.writeArchive id h b tag .done).sent ∧
    .sdWrite (s.cards.sd.nextLba + h.b) (h.commit s.cards.sd.nextLba tag (h.blocks b)) ∈ (s.writeArchive id h b tag .done).sent) ∧
  (∀ (s : State) (id : Nat) (h : ArcHead) (b tag : Bytes) (how : SdEnd), s.cards.sd.capacity < s.cards.sd.nextLba + h.b + 1 →
    s.opOf id ≠ none → (s.writeArchive id h b tag how).Ended id 0x0204
      (h.tenant + 3 * 4096 + 65536 * min 65535 ((s.cards.sd.capacity - s.cards.sd.nextLba) / 1024)) 0 [] ∧
    (s.writeArchive id h b tag how).sent = s.sent) ∧
  (∀ (s : State) (op : Nat) (o : Op) (card : SdCard) (how : SdEnd), s.opOf op = some o → o.stage = .channel → o.opcode = 0x0703 →
    s.powered 27 = true → s.cards.sd.waiting.find? (fun w => s.svcMayStart (.chan w)) = some op →
    ((s.blockOf 0x14).out = true → exec (.archiveStatus op card how) s = .next (s.fail op 0x0302 0x14)) ∧
    ((s.blockOf 0x14).out = false → s.worlds.bench.status = 1 → s.cards.sd.present = false →
      exec (.archiveStatus op card how) s = .next (s.fail op 0x0701 0))) ∧
  (∀ (s : State) (id : Nat) (rest : List Nat), s.cards.sd.waiting = id :: rest → s.cards.sd.present = true →
    (s.cards.sd.mode ≠ 0 → s.cards.sd.errTry = 0 → ∃ t, exec .sdCrcError s = .next t ∧
      t.cards.sd.crcErrors = satInc 65535 s.cards.sd.crcErrors ∧ t.cards.sd.errTry = 1 ∧ t.cards.sd.mode = s.cards.sd.mode ∧
      t = { s with cards := { s.cards with sd := t.cards.sd } }) ∧
    (2 ≤ s.cards.sd.mode → s.cards.sd.errTry ≠ 0 → ∃ t, exec .sdCrcError s = .next t ∧ t.cards.sd.mode = s.cards.sd.mode - 1 ∧
      t.cards.sd.errTry = 0 ∧ t = { s with cards := { s.cards with sd := t.cards.sd } }) ∧
    (s.cards.sd.mode = 1 → s.cards.sd.errTry ≠ 0 → s.opOf id ≠ none → ∃ t, exec .sdCrcError s = .next t ∧
      t.Ended id 0x0704 (4 + 256 * 0x25) 0 [] ∧ t.cards.sd.cause = 0x25) ∧
    (s.opOf id ≠ none → ∃ t, exec .sdBusyTimeout s = .next t ∧ t.Ended id 0x0704 (4 + 256 * 0x26) 0 [] ∧ t.cards.sd.cause = 0x26))

/-! ### The word machine (13) -/

/-- R394, R395, R389: the operand that each mode names. A register place reads and writes that register; the register indirect modes give
the address in An, moved as the mode says; PC-relative and absolute form an address from code; an immediate is an INT; ACC gives a word of
the accumulator. A sub-word of a register carries SECRET or INT. -/
def Obligations.ZwmOperandForms : Prop :=
  (∀ (s : State) (c n : Nat) (pc : BitVec 64) (p : Spec), p.mode = 0 → s.place c pc n p = .ok (.reg p.reg.toNat, s)) ∧
  (∀ (s : State) (c n : Nat) (pc v : BitVec 64) (p : Spec), p.mode = 1 → s.reg c p.reg.toNat = { val := v, tag := tAddr } →
    bits v 59 32 = 0 → s.place c pc n p = .ok (.mem v, s)) ∧
  (∀ (s : State) (c n : Nat) (pc v : BitVec 64) (p : Spec), p.mode = 2 → s.reg c p.reg.toNat = { val := v, tag := tAddr } →
    bits v 59 32 = 0 → colourOf (v + BitVec.ofNat 64 n) = colourOf v →
    s.place c pc n p = .ok (.mem v, s.setReg c p.reg.toNat { val := v + BitVec.ofNat 64 n, tag := tAddr })) ∧
  (∀ (s : State) (c n : Nat) (pc v : BitVec 64) (p : Spec), p.mode = 3 → s.reg c p.reg.toNat = { val := v, tag := tAddr } →
    bits (v - BitVec.ofNat 64 n) 59 32 = 0 → colourOf (v - BitVec.ofNat 64 n) = colourOf v →
    s.place c pc n p = .ok (.mem (v - BitVec.ofNat 64 n),
      s.setReg c p.reg.toNat { val := v - BitVec.ofNat 64 n, tag := tAddr })) ∧
  (∀ (s : State) (c n : Nat) (pc v : BitVec 64) (p : Spec), p.mode = 4 → s.reg c p.reg.toNat = { val := v, tag := tAddr } →
    colourOf (v + (p.ext.truncate 8).signExtend 64) = colourOf v → bits (v + (p.ext.truncate 8).signExtend 64) 59 32 = 0 →
    s.place c pc n p = .ok (.mem (v + (p.ext.truncate 8).signExtend 64), s)) ∧
  (∀ (s : State) (c n : Nat) (pc v : BitVec 64) (p : Spec), p.mode = 5 → s.reg c p.reg.toNat = { val := v, tag := tAddr } →
    colourOf (v + (p.ext.truncate 32).signExtend 64) = colourOf v → bits (v + (p.ext.truncate 32).signExtend 64) 59 32 = 0 →
    s.place c pc n p = .ok (.mem (v + (p.ext.truncate 32).signExtend 64), s)) ∧
  (∀ (s : State) (c n : Nat) (pc v x : BitVec 64) (p : Spec), p.mode = 6 → s.reg c p.reg.toNat = { val := v, tag := tAddr } →
    s.reg c (bits p.ext 3 0) = { val := x, tag := tInt } → colourOf (v + BitVec.ofNat 64 n * x) = colourOf v →
    bits (v + BitVec.ofNat 64 n * x) 59 32 = 0 → s.place c pc n p = .ok (.mem (v + BitVec.ofNat 64 n * x), s)) ∧
  (∀ (s t : State) (c n : Nat) (pc v w : BitVec 64) (p : Spec), p.mode = 7 → s.reg c p.reg.toNat = { val := v, tag := tAddr } →
    colourOf (v + (p.ext.truncate 32).signExtend 64) = colourOf v → bits (v + (p.ext.truncate 32).signExtend 64) 59 32 = 0 →
    s.coreRead c (v + (p.ext.truncate 32).signExtend 64) 8 = .ok ({ val := w, tag := tAddr }, t) → bits w 59 32 = 0 →
    s.place c pc n p = .ok (.mem w, t)) ∧
  (∀ (s : State) (c n : Nat) (pc : BitVec 64) (p : Spec), p.mode = 8 → bits (pc + (p.ext.truncate 32).signExtend 64) 59 32 = 0 →
    s.place c pc n p = .ok (.mem (pc + (p.ext.truncate 32).signExtend 64), s)) ∧
  (∀ (s : State) (c n : Nat) (pc : BitVec 64) (p : Spec), p.mode = 9 → bits p.ext 59 32 = 0 →
    s.place c pc n p = .ok (.mem p.ext, s)) ∧
  (∀ (s : State) (c n : Nat) (pc : BitVec 64) (p : Spec), p.mode = 10 →
    s.place c pc n p = .ok (.imm (lowBytes ((p.ext.truncate 8).signExtend 64) n), s)) ∧
  (∀ (s : State) (c n : Nat) (pc : BitVec 64) (p : Spec), p.mode = 11 →
    s.place c pc n p = .ok (.imm (lowBytes ((p.ext.truncate 32).signExtend 64) n), s)) ∧
  (∀ (s : State) (c n : Nat) (pc : BitVec 64) (p : Spec), p.mode = 12 → s.place c pc n p = .ok (.imm (lowBytes p.ext n), s)) ∧
  (∀ (s : State) (c n : Nat) (pc : BitVec 64) (p : Spec), p.mode = 13 → s.place c pc n p = .ok (.acc p.reg.toNat, s)) ∧
  (∀ (s : State) (c n r : Nat), s.readPlace c n (.reg r) = .ok ({ val := lowBytes (s.reg c r).val n, tag :=
    if n = 8 ∨ (s.reg c r).tag = tSecret ∨ (s.reg c r).tag = tPoison ∨ tagReserved (s.reg c r).tag = true then (s.reg c r).tag
    else tInt }, s)) ∧
  (∀ (s : State) (c n r : Nat) (v : TWord), n = 8 ∨ v.number = true → twf {} s.zwm.cores = true →
    twf {} (s.coreOf c).regs = true →
    ∃ t, s.writePlace c n (.reg r) v = .ok t ∧ t.reg c r = { v with val := lowBytes v.val n } ∧
      (∀ k, k ≠ r → t.reg c k = s.reg c k) ∧ (∀ k, k ≠ c → t.coreOf k = s.coreOf k) ∧ s.CoresOnly t ∧
      t.coreOf c = { s.coreOf c with regs := (t.coreOf c).regs }) ∧
  (∀ (s : State) (c n r : Nat) (v : TWord), n ≠ 8 → v.number = false → s.writePlace c n (.reg r) v = .error (.fault 0x08 0)) ∧
  (∀ (s : State) (c n k : Nat) (pc a : BitVec 64) (p : Spec), s.dst c pc n k p = .ok (.mem a, s) → ∀ v t,
    s.dataRead (isBench c) (some c) a n = .ok (v, t) → tagReserved v.tag = false → v.tag ≠ tPoison →
    s.src c pc n k p = .ok (v, t))

/-- R388, R392, R397: arithmetic, logic and shifts. A sum or difference wraps at the size and sets C for a carry or borrow and V for a
signed overflow; logic, products and quotients clear C and V; a shift by b mod 8·size sets C to the last bit shifted out; Z and N follow
the result and S its tag; a divisor of 0 is a fault on the divisor. -/
def Obligations.ZwmArithmetic : Prop :=
  (∀ (s : State) (c : Fin 5) (sz : BitVec 8) (d a b : Spec), s.Computes (.add c sz d a b) c 0x10 sz d a b .add false (fun _ _ => True)
    fun n x y _ => { r := (x + y) % 2 ^ (8 * n), c := decide (2 ^ (8 * n) ≤ x + y), v := overflows n (signed n x + signed n y) }) ∧
  (∀ (s : State) (c : Fin 5) (sz : BitVec 8) (d a b : Spec), s.Computes (.adc c sz d a b) c 0x12 sz d a b .none true (fun _ _ => True)
    fun n x y k => { r := (x + y + k) % 2 ^ (8 * n), c := decide (2 ^ (8 * n) ≤ x + y + k),
                     v := overflows n (signed n x + signed n y + k) }) ∧
  (∀ (s : State) (c : Fin 5) (sz : BitVec 8) (d a b : Spec), s.Computes (.sub c sz d a b) c 0x11 sz d a b .sub false
    (fun x y => x < 2 ^ (8 * szBytes sz) ∧ y < 2 ^ (8 * szBytes sz))
    fun n x y _ => { r := (((x : Int) - y) % 2 ^ (8 * n)).toNat, c := decide (x < y), v := overflows n (signed n x - signed n y) }) ∧
  (∀ (s : State) (c : Fin 5) (sz : BitVec 8) (d a b : Spec), s.Computes (.sbb c sz d a b) c 0x13 sz d a b .none true
    (fun x y => x < 2 ^ (8 * szBytes sz) ∧ y < 2 ^ (8 * szBytes sz))
    fun n x y k => { r := (((x : Int) - y - k) % 2 ^ (8 * n)).toNat, c := decide (x < y + k),
                     v := overflows n (signed n x - signed n y - k) }) ∧
  (∀ (s : State) (c : Fin 5) (sz : BitVec 8) (d a b : Spec), s.Computes (.mul c sz d a b) c 0x14 sz d a b .none false (fun _ _ => True)
    fun n x y _ => { r := x * y % 2 ^ (8 * n) }) ∧
  (∀ (s : State) (c : Fin 5) (sz : BitVec 8) (d a b : Spec), s.Computes (.mulhu c sz d a b) c 0x15 sz d a b .none false
    (fun x y => x < 2 ^ (8 * szBytes sz) ∧ y < 2 ^ (8 * szBytes sz)) fun n x y _ => { r := x * y / 2 ^ (8 * n) }) ∧
  (∀ (s : State) (c : Fin 5) (sz : BitVec 8) (d a b : Spec), s.Computes (.divu c sz d a b) c 0x16 sz d a b .none false
    (fun _ y => y ≠ 0) fun _ x y _ => { r := x / y }) ∧
  (∀ (s : State) (c : Fin 5) (sz : BitVec 8) (d a b : Spec), s.Computes (.remu c sz d a b) c 0x17 sz d a b .none false
    (fun _ y => y ≠ 0) fun _ x y _ => { r := x % y }) ∧
  (∀ (s : State) (c : Fin 5) (sz : BitVec 8) (d a b : Spec) (q : Place) (x y : TWord) (s₁ : State) (g : BitVec 4) (i : Instr)
    (op : Nat), (i = .divu c sz d a b ∧ op = 0x16) ∨ (i = .remu c sz d a b ∧ op = 0x17) → s.Ready c op .any sz 1 [d, a, b] → s.Takes3 c (szBytes sz) d a b q x y s₁ →
    resultTag .none x y false = .ok g → y.val = 0 → s.flag c 6 = false → ∃ t, exec i s = .next t ∧ s.Faults t c 0x0D 2 0) ∧
  (∀ (s : State) (c : Fin 5) (sz : BitVec 8) (d a b : Spec), s.Computes (.zwmAnd c sz d a b) c 0x18 sz d a b .none false
    (fun x y => x < 2 ^ (8 * szBytes sz) ∧ y < 2 ^ (8 * szBytes sz)) fun _ x y _ => { r := x &&& y }) ∧
  (∀ (s : State) (c : Fin 5) (sz : BitVec 8) (d a b : Spec), s.Computes (.zwmOr c sz d a b) c 0x19 sz d a b .none false
    (fun x y => x < 2 ^ (8 * szBytes sz) ∧ y < 2 ^ (8 * szBytes sz)) fun _ x y _ => { r := x ||| y }) ∧
  (∀ (s : State) (c : Fin 5) (sz : BitVec 8) (d a b : Spec), s.Computes (.xor c sz d a b) c 0x1A sz d a b .none false
    (fun x y => x < 2 ^ (8 * szBytes sz) ∧ y < 2 ^ (8 * szBytes sz)) fun _ x y _ => { r := x ^^^ y }) ∧
  (∀ (s : State) (c : Fin 5) (sz : BitVec 8) (d a b : Spec), s.Shifts (.shl c sz d a b) c 0x1C sz d a b
    fun w x k => { r := x * 2 ^ k % 2 ^ w, c := k != 0 && x.testBit (w - k) }) ∧
  (∀ (s : State) (c : Fin 5) (sz : BitVec 8) (d a b : Spec), s.Shifts (.shr c sz d a b) c 0x1D sz d a b
    fun _ x k => { r := x / 2 ^ k, c := k != 0 && x.testBit (k - 1) }) ∧
  (∀ (s : State) (c : Fin 5) (sz : BitVec 8) (d a b : Spec), s.Shifts (.sar c sz d a b) c 0x1E sz d a b
    fun w x k => { r := (signed (w / 8) x / 2 ^ k % 2 ^ w).toNat, c := k != 0 && x.testBit (k - 1) }) ∧
  (∀ (s : State) (c : Fin 5) (sz : BitVec 8) (d a b : Spec), s.Shifts (.rol c sz d a b) c 0x1F sz d a b
    fun w x k => { r := x * 2 ^ k % 2 ^ w + x / 2 ^ (w - k), c := k != 0 && x.testBit (w - k) }) ∧
  (∀ (s : State) (c : Fin 5) (sz : BitVec 8) (d a : Spec) (q : Place) (x : TWord) (s₁ s₂ : State),
    s.Ready c 0x1B .any sz 1 [d, a] → s.Takes2 c (szBytes sz) d a q x s₁ → x.number = true →
    s₁.put c (szBytes sz) q { val := BitVec.ofNat 64 (2 ^ (8 * szBytes sz) - 1 - x.val.toNat), tag := x.tag } = .ok s₂ →
    exec (.zwmNot c sz d a) s = .next ((s₂.setFlags c (szBytes sz) { r := 2 ^ (8 * szBytes sz) - 1 - x.val.toNat }
      (x.tag == tSecret)).past c (s.coreOf c).pc [d, a])) ∧
  (∀ (s : State) (c : Nat) (n : Nat) (o : AluOut) (secret : Bool), twf {} s.zwm.cores = true →
    let t := s.setFlags c n o secret
    t.flag c 0 = o.c ∧ t.flag c 1 = (o.r == 0) ∧ t.flag c 2 = o.r.testBit (8 * n - 1) ∧ t.flag c 3 = o.v ∧ t.flag c 4 = secret ∧
      t.flag c 5 = s.flag c 5 ∧ t.flag c 6 = s.flag c 6 ∧ (∀ b, 7 ≤ b → t.flag c b = false) ∧ s.CoresOnly t ∧ (∀ k, k ≠ c → t.coreOf k = s.coreOf k) ∧
      t.coreOf c = { s.coreOf c with fl := (t.coreOf c).fl })

/-- R388, R392, R396, R397: CMP and TEST set the flags of a difference and of a conjunction and change no register; SEL writes a where its
condition holds and b where it does not, in the same way for SECRET words; a condition is read from the flags as the table says, 0xE
always holds and 0xF is no legal encoding. -/
def Obligations.ZwmComparisons : Prop :=
  (∀ (s : State) (c : Fin 5) (sz : BitVec 8) (a b : Spec) (x y : TWord) (g : BitVec 4) (s₁ : State),
    s.Ready c 0x20 .any sz 0 [a, b] → s.Reads2 c (szBytes sz) a b x y s₁ → resultTag .sub x y false = .ok g → g ≠ tAddr →
    x.val.toNat < 2 ^ (8 * szBytes sz) → y.val.toNat < 2 ^ (8 * szBytes sz) →
    exec (.cmp c sz a b) s = .next ((s₁.setFlags c (szBytes sz)
      { r := (((x.val.toNat : Int) - y.val.toNat) % 2 ^ (8 * szBytes sz)).toNat, c := decide (x.val.toNat < y.val.toNat),
        v := overflows (szBytes sz) (signed (szBytes sz) x.val.toNat - signed (szBytes sz) y.val.toNat) }
      (g == tSecret)).past c (s.coreOf c).pc [a, b])) ∧
  (∀ (s : State) (c : Fin 5) (sz : BitVec 8) (a b : Spec) (x y : TWord) (s₁ : State),
    s.Ready c 0x21 .any sz 0 [a, b] → s.Reads2 c (szBytes sz) a b x y s₁ → x.number = true → y.number = true →
    exec (.test c sz a b) s = .next ((s₁.setFlags c (szBytes sz) { r := x.val.toNat &&& y.val.toNat }
      (x.tag == tSecret || y.tag == tSecret)).past c (s.coreOf c).pc [a, b])) ∧
  (∀ (s : State) (c : Fin 5) (sz : BitVec 8) (a b : Spec) (x y : TWord) (s₁ : State), s.Ready c 0x20 .any sz 0 [a, b] →
    s.Reads2 c (szBytes sz) a b x y s₁ → x.tag = tCode ∨ x.tag = tSlotref ∨ x.tag = tSealed → s.flag c 6 = false →
    ∃ t, exec (.cmp c sz a b) s = .next t ∧ s.Faults t c 0x08 0xF 0) ∧
  (∀ (s : State) (c : Fin 5) (sz : BitVec 8) (d a b : Spec) (q : Place) (x y : TWord) (s₁ s₂ : State),
    s.Ready c 0x22 .cond sz 1 [d, a, b] → s.Takes3 c (szBytes sz) d a b q x y s₁ → x.number = true → y.number = true →
    s₁.put c (szBytes sz) q ⟨if s₁.holdsCond c (bits sz 7 4) then x.val else y.val,
      if x.tag = tSecret ∨ y.tag = tSecret ∨ (s₁.flag c 4 = true ∧ bits sz 7 4 ≠ 14) then tSecret else tInt⟩ = .ok s₂ →
    exec (.selCc c sz d a b) s = .next (s₂.past c (s.coreOf c).pc [d, a, b])) ∧
  (∀ (s : State) (c : Fin 5) (sz : BitVec 8) (d a b : Spec) (q : Place) (x y : TWord) (s₁ s₂ : State),
    s.Ready c 0x22 .cond sz 1 [d, a, b] → s.Takes3 c (szBytes sz) d a b q x y s₁ → x.tag = tAddr → y.tag = tAddr → s₁.flag c 4 = false →
    s₁.put c (szBytes sz) q { val := if s₁.holdsCond c (bits sz 7 4) then x.val else y.val, tag := tAddr } = .ok s₂ →
    exec (.selCc c sz d a b) s = .next (s₂.past c (s.coreOf c).pc [d, a, b])) ∧
  (∀ (s : State) (c : Nat), (s.holdsCond c 0 ↔ s.flag c 1 = true) ∧ (s.holdsCond c 1 ↔ s.flag c 1 = false) ∧
    (s.holdsCond c 2 ↔ s.flag c 2 ≠ s.flag c 3) ∧ (s.holdsCond c 3 ↔ s.flag c 2 = s.flag c 3) ∧
    (s.holdsCond c 4 ↔ s.flag c 0 = true) ∧ (s.holdsCond c 5 ↔ s.flag c 0 = false) ∧
    (s.holdsCond c 6 ↔ s.flag c 1 = true ∨ s.flag c 2 ≠ s.flag c 3) ∧
    (s.holdsCond c 7 ↔ s.flag c 1 = false ∧ s.flag c 2 = s.flag c 3) ∧
    (s.holdsCond c 8 ↔ s.flag c 0 = true ∨ s.flag c 1 = true) ∧ (s.holdsCond c 9 ↔ s.flag c 0 = false ∧ s.flag c 1 = false) ∧
    (s.holdsCond c 10 ↔ s.flag c 2 = true) ∧ (s.holdsCond c 11 ↔ s.flag c 2 = false) ∧
    (s.holdsCond c 12 ↔ s.flag c 3 = true) ∧ (s.holdsCond c 13 ↔ s.flag c 3 = false) ∧ s.holdsCond c 14) ∧
  (∀ (f : SizeForm) (sz : BitVec 8) (dests : Nat) (ops : List Spec), f = .cond ∨ f = .branch → bits sz 7 4 = 15 →
    encodingOk f sz dests ops = false)

/-- R388, R391, R397, R400: NOP changes nothing; MOV copies a word with its tag, CLS makes a number SECRET, and DCLS makes a SECRET word a
number in the Hearth and faults in the Bench; LEA and LEAC give the address of a memory operand as ADDR and CODE; PUSH and POP move A15 by
the size and the word to and from memory there; KILL leaves 0 tagged POISON; TAGOF gives the tag of any word; RDCTL reads a control
register; PC moves past the instruction. -/
def Obligations.ZwmMoves : Prop :=
  (∀ (s : State) (c : Fin 5), s.Ready c 0x00 .zero 0 0 [] → exec (.zwmNop c 0) s = .next (s.past c (s.coreOf c).pc [])) ∧
  (∀ (s : State) (c : Fin 5) (sz : BitVec 8) (d a : Spec), s.Moves (.mov c sz d a) c 0x01 sz d a some) ∧
  (∀ (s : State) (c : Fin 5) (sz : BitVec 8) (d a : Spec), s.Moves (.cls c sz d a) c 0x61 sz d a
    fun x => if x.tag = tInt ∨ x.tag = tSecret then some { x with tag := tSecret } else none) ∧
  (∀ (s : State) (sz : BitVec 8) (d a : Spec), s.Moves (.dcls 0 sz d a) 0 0x62 sz d a
    fun x => if x.tag = tSecret then some { x with tag := tInt } else none) ∧
  (∀ (s : State) (c : Fin 5) (sz : BitVec 8) (d a : Spec) (q : Place) (x : TWord) (s₁ : State), c.val ≠ 0 →
    s.Ready c 0x62 .any sz 1 [d, a] → s.Takes2 c (szBytes sz) d a q x s₁ → s.flag c 6 = false →
    ∃ t, exec (.dcls c sz d a) s = .next t ∧ s.Faults t c 0x0C 0xF 0) ∧
  (∀ (s : State) (c : Fin 5) (d m : Spec) (q : Place) (v : BitVec 64) (s₁ s₂ s₃ : State), s.Ready c 0x02 .word 3 1 [d, m] →
    1 ≤ m.mode.toNat → m.mode.toNat ≤ 9 → s.dst c (s.coreOf c).pc 8 0 d = .ok (q, s₁) →
    s₁.dst c (s.coreOf c).pc 8 1 m = .ok (.mem v, s₂) → s₂.put c 8 q { val := v, tag := tAddr } = .ok s₃ →
    exec (.lea c 3 d m) s = .next (s₃.past c (s.coreOf c).pc [d, m])) ∧
  (∀ (s : State) (c : Fin 5) (d m : Spec) (q : Place) (v : BitVec 64) (s₁ s₂ s₃ : State), s.Ready c 0x05 .word 3 1 [d, m] →
    m.mode = 8 ∨ m.mode = 9 → s.dst c (s.coreOf c).pc 8 0 d = .ok (q, s₁) →
    s₁.dst c (s.coreOf c).pc 8 1 m = .ok (.mem v, s₂) → s₂.put c 8 q { val := v, tag := tCode } = .ok s₃ →
    exec (.leac c 3 d m) s = .next (s₃.past c (s.coreOf c).pc [d, m])) ∧
  (∀ (s : State) (c : Fin 5) (sz : BitVec 8) (a : Spec) (x : TWord) (v : BitVec 64) (s₁ s₂ : State), s.Ready c 0x03 .any sz 0 [a] →
    s.src c (s.coreOf c).pc (szBytes sz) 0 a = .ok (x, s₁) → s₁.reg c 15 = { val := v, tag := tAddr } →
    colourOf (v - BitVec.ofNat 64 (szBytes sz)) = colourOf v → bits (v - BitVec.ofNat 64 (szBytes sz)) 59 32 = 0 →
    s₁.coreWrite c (v - BitVec.ofNat 64 (szBytes sz)) (szBytes sz) { x with val := lowBytes x.val (szBytes sz) } = .ok s₂ →
    exec (.push c sz a) s = .next ((s₂.setReg c 15 { val := v - BitVec.ofNat 64 (szBytes sz), tag := tAddr }).past c
      (s.coreOf c).pc [a])) ∧
  (∀ (s : State) (c : Fin 5) (sz : BitVec 8) (d : Spec) (q : Place) (x : TWord) (v w : BitVec 64) (s₁ s₂ s₃ : State),
    s.Ready c 0x04 .any sz 1 [d] → s.dst c (s.coreOf c).pc (szBytes sz) 0 d = .ok (q, s₁) → s₁.reg c 15 = { val := v, tag := tAddr } →
    bits v 59 32 = 0 → s₁.coreRead c v (szBytes sz) = .ok (x, s₂) → tagReserved x.tag = false → x.tag ≠ tPoison →
    s₂.put c (szBytes sz) q x = .ok s₃ → s₃.reg c 15 = { val := w, tag := tAddr } →
    colourOf (w + BitVec.ofNat 64 (szBytes sz)) = colourOf w →
    exec (.pop c sz d) s = .next ((s₃.setReg c 15 { val := w + BitVec.ofNat 64 (szBytes sz), tag := tAddr }).past c
      (s.coreOf c).pc [d])) ∧
  (∀ (s : State) (c : Fin 5) (d : Spec) (q : Place) (s₁ s₂ : State), s.Ready c 0x06 .any 3 1 [d] →
    s.dst c (s.coreOf c).pc 8 0 d = .ok (q, s₁) → s₁.put c 8 q { val := 0, tag := tPoison } = .ok s₂ →
    exec (.kill c 3 d) s = .next (s₂.past c (s.coreOf c).pc [d])) ∧
  (∀ (s : State) (c : Fin 5) (sz : BitVec 8) (d a : Spec) (q p : Place) (x : TWord) (s₁ s₂ s₃ s₄ : State),
    s.Ready c 0x60 .any sz 1 [d, a] → s.dst c (s.coreOf c).pc (szBytes sz) 0 d = .ok (q, s₁) →
    s₁.dst c (s.coreOf c).pc (szBytes sz) 1 a = .ok (p, s₂) → s₂.readPlace c (szBytes sz) p = .ok (x, s₃) →
    s₃.put c (szBytes sz) q { val := x.tag.setWidth 64, tag := tInt } = .ok s₄ →
    exec (.tagof c sz d a) s = .next (s₄.past c (s.coreOf c).pc [d, a])) ∧
  (∀ (s : State) (c : Fin 5) (sz : BitVec 8) (d a : Spec) (q : Place) (v : BitVec 64) (s₁ s₂ : State),
    s.Ready c 0x70 .any sz 1 [d, a] → a.mode = 10 →
    ((bits a.ext 7 0 = 0 ∧ v = (s.coreOf c).fcause.setWidth 64) ∨ (bits a.ext 7 0 = 1 ∧ v = (s.coreOf c).fpc) ∨
      (bits a.ext 7 0 = 2 ∧ v = (s.coreOf c).faddr) ∨ (bits a.ext 7 0 = 3 ∧ v = (s.coreOf c).frep) ∨
      (bits a.ext 7 0 = 4 ∧ v = if c.val = 0 then 0 else BitVec.ofNat 64 (256 + (c.val - 1)))) →
    s.dst c (s.coreOf c).pc (szBytes sz) 0 d = .ok (q, s₁) → s₁.put c (szBytes sz) q { val := v, tag := tInt } = .ok s₂ →
    exec (.rdctl c sz d a) s = .next (s₂.past c (s.coreOf c).pc [d, a]))

/-- R366, R390, R396, R397, R404: jumps, calls and returns set PC from an address or a CODE word; a branch is taken where its condition
holds; a condition on SECRET flags faults; EI, DI and FEND change one bit of FL; WFI waits unless a line is pending; an interrupt pushes
FL and PC, clears IE and enters the vector of its line; RETS answers the service and clears the registers, in at most 0.5 µs. -/
def Obligations.ZwmControlFlow : Prop :=
  (∀ (s : State) (c : Fin 5) (a : Spec) (v : BitVec 64) (s₁ : State), s.Ready c 0x30 .word 3 0 [a] → a.mode = 8 ∨ a.mode = 9 →
    s.dst c (s.coreOf c).pc 8 0 a = .ok (.mem v, s₁) → exec (.jmp c 3 a) s = .next (s₁.jumped c v)) ∧
  (∀ (s : State) (c : Fin 5) (a : Spec) (v : BitVec 64) (s₁ : State), s.Ready c 0x30 .word 3 0 [a] → a.mode ≠ 8 → a.mode ≠ 9 →
    s.src c (s.coreOf c).pc 8 0 a = .ok ({ val := v, tag := tCode }, s₁) → exec (.jmp c 3 a) s = .next (s₁.jumped c v)) ∧
  (∀ (s : State) (c : Fin 5) (a : Spec) (x : TWord) (s₁ : State), s.Ready c 0x30 .word 3 0 [a] → a.mode ≠ 8 → a.mode ≠ 9 →
    s.src c (s.coreOf c).pc 8 0 a = .ok (x, s₁) → x.tag ≠ tCode → s.flag c 6 = false → ∃ t, exec (.jmp c 3 a) s = .next t ∧
      s.Faults t c (if x.tag = tSecret then 0x04 else 0x08) 0 0) ∧
  (∀ (s : State) (c : Fin 5) (sz : BitVec 8) (m : Spec) (v : BitVec 64) (s₁ : State), s.Ready c 0x31 .branch sz 0 [m] → m.mode = 8 →
    s.flag c 4 = false ∨ bits sz 7 4 = 14 → s.dst c (s.coreOf c).pc 8 0 m = .ok (.mem v, s₁) →
    exec (.bCc c sz m) s = .next (if s₁.holdsCond c (bits sz 7 4) then s₁.jumped c v else s₁.past c (s.coreOf c).pc [m])) ∧
  (∀ (s : State) (c : Fin 5) (sz : BitVec 8) (m : Spec), s.Ready c 0x31 .branch sz 0 [m] → m.mode = 8 → s.flag c 4 = true →
    bits sz 7 4 ≠ 14 → s.flag c 6 = false → ∃ t, exec (.bCc c sz m) s = .next t ∧ s.Faults t c 0x04 0xF 0) ∧
  (∀ (s : State) (c : Fin 5) (a : Spec) (v : BitVec 64) (s₁ s₂ : State), s.Ready c 0x32 .word 3 0 [a] →
    s.target c (s.coreOf c).pc a = .ok (v, s₁) →
    s₁.push c 8 { val := (s.coreOf c).pc + BitVec.ofNat 64 (insnLen [a]), tag := tCode } = .ok s₂ →
    exec (.call c 3 a) s = .next (s₂.jumped c v)) ∧
  (∀ (s : State) (c : Fin 5) (v : BitVec 64) (s₁ : State), s.Ready c 0x33 .zero 0 0 [] →
    s.pop c 8 = .ok ({ val := v, tag := tCode }, s₁) → exec (.ret c 0) s = .next (s₁.jumped c v)) ∧
  (∀ (s : State) (c : Fin 5) (v f : BitVec 64) (s₁ s₂ : State), s.Ready c 0x35 .zero 0 0 [] →
    s.pop c 8 = .ok ({ val := v, tag := tCode }, s₁) → s₁.pop c 8 = .ok ({ val := f, tag := tInt }, s₂) →
    exec (.iret c 0) s = .next ((s₂.setFl c (f.truncate 16 &&& 0x7F)).jumped c v)) ∧
  (∀ (s : State) (c : Fin 5), 
    (s.Ready c 0x71 .zero 0 0 [] → exec (.ei c 0) s = .next ((s.setFl c ((s.coreOf c).fl ||| 0x20)).past c (s.coreOf c).pc [])) ∧
    (s.Ready c 0x72 .zero 0 0 [] → exec (.di c 0) s = .next ((s.setFl c ((s.coreOf c).fl &&& ~~~ 0x20)).past c (s.coreOf c).pc [])) ∧
    (s.Ready c 0x74 .zero 0 0 [] → exec (.fend c 0) s = .next ((s.setFl c ((s.coreOf c).fl &&& ~~~ 0x40)).past c (s.coreOf c).pc [])) ∧
    (s.Ready c 0x73 .zero 0 0 [] → exec (.wfi c 0) s = .next ((s.modCore c fun x => { x with
      wfi := (if c.val = 0 then s.worlds.hearth else s.worlds.bench).irqs.isEmpty }).past c (s.coreOf c).pc []))) ∧
  (∀ (s : State) (c : Fin 5) (line : BitVec 7) (s₁ s₂ : State), c.val ≠ 0 ∨ s.worlds.running ≠ none →
    (if c.val = 0 then s.worlds.hearth else s.worlds.bench).status < 2 →
    tget false s.worlds.assign (64 + line.toNat) = decide (c.val ≠ 0) → slotReserved (line.toNat / 2) = false → (s.coreOf c).rep = none →
    s.flag c 5 = true → s.flag c 6 = false → (s.coreOf c).wfi = false →
    s.push c 8 { val := (s.coreOf c).fl.setWidth 64, tag := tInt } = .ok s₁ →
    s₁.push c 8 { val := (s.coreOf c).pc, tag := tCode } = .ok s₂ → twf {} s.zwm.cores = true →
    ∃ t, exec (.interruptEntry c line) s = .next t ∧
      (t.coreOf c).pc = BitVec.ofNat 64 ((if c.val = 0 then 0x100000 else 0x400000) + 0x400 + 16 * line.toNat) ∧ t.flag c 5 = false ∧
      (t.coreOf c).regs = (s₂.coreOf c).regs ∧ t.zwm.bmem = s₂.zwm.bmem ∧ t.zwm.hmem = s₂.zwm.hmem ∧
      line.toNat ∉ (if c.val = 0 then t.worlds.hearth else t.worlds.bench).irqs) ∧
  (∀ (s : State) (c : Fin 5) (line : BitVec 7), (if c.val = 0 then s.worlds.hearth else s.worlds.bench).status < 2 →
    tget false s.worlds.assign (64 + line.toNat) = decide (c.val ≠ 0) → slotReserved (line.toNat / 2) = false →
    (c.val = 0 ∧ s.worlds.running = none) ∨ s.flag c 5 = false ∨ s.flag c 6 = true → twf {} s.zwm.cores = true →
    ∃ t, exec (.interruptEntry c line) s = .next t ∧ line.toNat ∈ (if c.val = 0 then t.worlds.hearth else t.worlds.bench).irqs ∧
      (t.coreOf c).pc = (s.coreOf c).pc ∧ (t.coreOf c).regs = (s.coreOf c).regs ∧ (t.coreOf c).fl = (s.coreOf c).fl) ∧
  (∀ (s : State) (a0 a1 : BitVec 64) (id : Nat) (o : Op) (scrub : Fin 501), s.Ready 0 0x34 .zero 0 0 [] →
    s.reg 0 0 = { val := a0, tag := tInt } → s.reg 0 1 = { val := a1, tag := tInt } → s.worlds.running = some (.chan id) →
    s.opOf id = some o → o.stage ≠ .done → twf {} s.zwm.cores = true → ∃ t, exec (.rets 0 0 scrub) s = .next t ∧ t.now = s.now + scrub ∧
      t.Ended id (bits a0 15 0) (bits a0 47 16) (if bits a0 15 0 < 256 then bits a1 15 0 else 0)
        (if bits a0 15 0 < 256 then fit 12 s.worlds.chanArea else []) ∧ t.worlds.running = none ∧
      t.reg 0 0 = { val := a0, tag := tInt } ∧ t.reg 0 1 = { val := a1, tag := tInt } ∧
      (∀ r, 2 ≤ r → t.reg 0 r = { val := 0, tag := tPoison }) ∧ (t.coreOf 0).acc = 0 ∧ (t.coreOf 0).accTag = tPoison ∧
      (t.coreOf 0).fl = 0)

/-- R399, R401, R402, R403, R397: the accumulator takes sums and products without a flag and hands out its low word; REP holds a count of
n, REPI that of A14, and the instruction behind the prefix runs that often, at A14 of 0 not at all; no interrupt is taken within REP. -/
def Obligations.ZwmAccumulatorAndPrefixes : Prop :=
  (∀ (s : State) (c : Fin 5), s.Ready c 0x41 .zero 0 0 [] →
    exec (.accz c 0) s = .next ((s.modCore c fun x => { x with acc := 0, accTag := tInt }).past c (s.coreOf c).pc [])) ∧
  (∀ (s : State) (c : Fin 5) (sz : BitVec 8) (a : Spec) (x : TWord) (s₁ : State), s.Ready c 0x42 .any sz 0 [a] →
    s.src c (s.coreOf c).pc (szBytes sz) 0 a = .ok (x, s₁) → x.number = true →
    (s₁.coreOf c).accTag = tInt ∨ (s₁.coreOf c).accTag = tSecret →
    exec (.accadd c sz a) s = .next ((s₁.modCore c fun k => { k with
      acc := k.acc + BitVec.ofNat 192 x.val.toNat
      accTag := if k.accTag = tSecret ∨ x.tag = tSecret then tSecret else tInt }).past c (s.coreOf c).pc [a])) ∧
  (∀ (s : State) (c : Fin 5) (d : Spec) (q : Place) (s₁ s₂ : State), s.Ready c 0x43 .word 3 1 [d] →
    s.dst c (s.coreOf c).pc 8 0 d = .ok (q, s₁) → (s₁.coreOf c).accTag = tInt ∨ (s₁.coreOf c).accTag = tSecret →
    s₁.put c 8 q { val := (s₁.coreOf c).acc.truncate 64, tag := (s₁.coreOf c).accTag } = .ok s₂ →
    exec (.accst c 3 d) s = .next ((s₂.modCore c fun k => { k with acc := k.acc >>> 64 }).past c (s.coreOf c).pc [d])) ∧
  (∀ (s : State) (c : Fin 5) (a b : Spec) (u v : BitVec 64) (x y : TWord) (s₁ s₂ s₃ s₄ : State), s.Ready c 0x40 .word 3 0 [a, b] →
    s.place c (s.coreOf c).pc 8 a = .ok (.mem u, s₁) → areaOf (isBench c) (locOf u) = some (if c.val = 0 then .sram else .bsram) →
    s₁.coreRead c u 8 = .ok (x, s₂) → x.number = true →
    s₂.place c (s.coreOf c).pc 8 b = .ok (.mem v, s₃) → areaOf (isBench c) (locOf v) = some (if c.val = 0 then .sram else .bsram) →
    s₃.coreRead c v 8 = .ok (y, s₄) → y.number = true →
    (s₄.coreOf c).accTag = tInt ∨ (s₄.coreOf c).accTag = tSecret →
    exec (.macd c 3 a b) s = .next ((s₄.modCore c fun k => { k with
      acc := k.acc + BitVec.ofNat 192 (x.val.toNat * y.val.toNat)
      accTag := if k.accTag = tSecret ∨ x.tag = tSecret ∨ y.tag = tSecret then tSecret else tInt }).past c (s.coreOf c).pc [a, b])) ∧
  (∀ (s : State) (c : Fin 5) (n : BitVec 8), s.Ready c 0x50 .count n 0 [] → exec (.zwmRep c n) s = .next (s.modCore c fun x => { x with
    rep := some { left := BitVec.ofNat 64 (n.toNat + 1), interruptible := false } })) ∧
  (∀ (s : State) (c : Fin 5) (v : BitVec 64), s.Ready c 0x51 .zero 0 0 [] → s.reg c 14 = { val := v, tag := tInt } →
    exec (.repi c 0) s = .next (s.modCore c fun x => { x with rep := some { left := v, interruptible := true } })) ∧
  (∀ (s : State) (c : Fin 5) (v : BitVec 64), s.Ready c 0x51 .zero 0 0 [] → s.reg c 14 = { val := v, tag := tSecret } →
    s.flag c 6 = false → ∃ t, exec (.repi c 0) s = .next t ∧ s.Faults t c 0x07 0xF 0) ∧
  (∀ (s : State) (c : Nat) (i : Insn) (r : Rep), s.coreRuns c = true → (s.coreOf c).rep = some r → i.repeats = true → r.left = 0 →
    r.interruptible = true → s.run c i = s.modCore c fun x => { x with
      rep := none, pc := x.pc + BitVec.ofNat 64 (2 + insnLen i.ops) }) ∧
  (∀ (s t : State) (c : Nat) (i : Insn) (r : Rep) (z : Option (BitVec 64)), s.coreRuns c = true → (s.coreOf c).rep = some r →
    i.repeats = true → r.left ≠ 0 → r.left ≠ 1 → r.interruptible = true → s.runOnce c i ((s.coreOf c).pc + 2) = .ok (t, z) →
    s.run c i = (t.modCore c fun x => { x with rep := some { r with left := r.left - 1 } }).setReg c 14
      { val := r.left - 1, tag := tInt }) ∧
  (∀ (s t : State) (c : Nat) (i : Insn) (r : Rep) (k : Nat) (z : Option (BitVec 64)), (s.coreOf c).rep = some r → r.left ≠ 0 →
    r.left ≠ 1 → r.interruptible = false → s.runOnce c i ((s.coreOf c).pc + 2) = .ok (t, z) →
    s.iterate c i (k + 1) = (t.modCore c fun x => { x with rep := some { r with left := r.left - 1 } }).iterate c i k) ∧
  (∀ (s t : State) (c : Nat) (i : Insn) (r : Rep) (k : Nat) (z : Option (BitVec 64)), (s.coreOf c).rep = some r → r.left = 1 →
    r.interruptible = false → s.runOnce c i ((s.coreOf c).pc + 2) = .ok (t, z) → s.iterate c i (k + 1) =
      ((t.modCore c fun x => { x with rep := some { r with left := 0 } }).modCore c fun x => { x with
        rep := none, pc := x.pc + BitVec.ofNat 64 (2 + insnLen i.ops) })) ∧
  (∀ (s : State) (c : Nat) (i : Insn) (r : Rep), s.coreRuns c = true → (s.coreOf c).rep = some r → i.repeats = true →
    r.interruptible = false → s.run c i = s.iterate c i r.left.toNat) ∧
  (∀ (s : State) (c : Fin 5) (line : BitVec 7) (r : Rep), (s.coreOf c).rep = some r → r.interruptible = false →
    twf {} s.zwm.cores = true → ∃ t, exec (.interruptEntry c line) s = .next t ∧ (t.coreOf c).pc = (s.coreOf c).pc ∧
      (t.coreOf c).regs = (s.coreOf c).regs ∧ (t.coreOf c).fl = (s.coreOf c).fl ∧ (t.coreOf c).rep = some r) ∧
  (∀ (s : State) (c : Nat) (i : Insn) (r : Rep), s.coreRuns c = true → (s.coreOf c).rep = some r → i.repeats = false →
    s.flag c 6 = false → s.Faults (s.run c i) c 0x0B 0xF 0)

/-- R387, R390, R393, R395, R405: a source that is POISON or reserved faults as it is read, a base that is no ADDR as the address is
formed, a fetch from a word that is not CODE before anything else; a fault writes the fault registers and enters the handler with the
registers and memories as they were. -/
def Obligations.ZwmFaults : Prop :=
  (∀ (s : State) (c code opnd : Nat) (addr : BitVec 64), s.flag c 6 = false → s.Faults (s.enterFault c code opnd addr) c code opnd addr) ∧
  (∀ (s : State) (c n k : Nat) (pc : BitVec 64) (p : Spec) (q : Place) (x : TWord) (s₁ s₂ : State),
    s.place c pc n p = .ok (q, s₁) → s₁.readPlace c n q = .ok (x, s₂) →
    (x.tag = tPoison → s.src c pc n k p = .error (.fault 0x02 0, k)) ∧
    (6 ≤ x.tag.toNat → x.tag.toNat ≤ 14 → s.src c pc n k p = .error (.fault 0x01 0, k))) ∧
  (∀ (s : State) (c n : Nat) (pc : BitVec 64) (p : Spec), 1 ≤ p.mode.toNat → p.mode.toNat ≤ 7 →
    ((s.reg c p.reg.toNat).tag = tSecret → s.place c pc n p = .error (.fault 0x05 0)) ∧
    ((s.reg c p.reg.toNat).tag = tInt → s.place c pc n p = .error (.fault 0x03 0)) ∧
    ((s.reg c p.reg.toNat).tag = tPoison → s.place c pc n p = .error (.fault 0x02 0))) ∧
  (∀ (s : State) (c : Fin 5) (sz : BitVec 8) (a : Spec) (e : Stop × Nat) (code : Nat) (addr : BitVec 64),
    s.Ready c 0x03 .any sz 0 [a] → s.src c (s.coreOf c).pc (szBytes sz) 0 a = .error e → e.1 = .fault code addr → s.flag c 6 = false →
    ∃ t, exec (.push c sz a) s = .next t ∧ s.Faults t c code e.2 addr) ∧
  (∀ (s : State) (c : Nat) (i : Insn) (code : Nat) (addr : BitVec 64), s.coreRuns c = true → (s.coreOf c).rep = none →
    s.fetchCheck c true (s.coreOf c).pc i.bytes = .error (.fault code addr) → s.flag c 6 = false →
    s.Faults (s.run c i) c code 0xF addr) ∧
  (∀ (s : State) (c : Nat) (i : Insn), s.coreRuns c = true → (s.coreOf c).rep = none →
    s.fetchCheck c true (s.coreOf c).pc i.bytes = .ok () → encodingOk i.form i.sz i.dests i.ops = false → s.flag c 6 = false →
    s.Faults (s.run c i) c 0x0B 0xF 0) ∧
  (∀ (s : State) (c : Nat) (first : Bool) (a : BitVec 64) (x : Option Byte) (t : BitVec 4) (b : Byte) (l : Bytes),
    s.codeByte c a = .ok (x, t) → t ≠ tCode → s.fetchCheck c first a (b :: l) = .error (.fault 0x10 a)) ∧
  (∀ (s : State) (c : Nat) (a : BitVec 64) (b : Byte) (l : Bytes), s.codeByte c a = .ok (some b, tCode) →
    ¬ (b.toNat ≤ 0x06 ∨ (0x10 ≤ b.toNat ∧ b.toNat ≤ 0x22) ∨ (0x30 ≤ b.toNat ∧ b.toNat ≤ 0x35) ∨ (0x40 ≤ b.toNat ∧ b.toNat ≤ 0x43) ∨
      (0x50 ≤ b.toNat ∧ b.toNat ≤ 0x51) ∨ (0x60 ≤ b.toNat ∧ b.toNat ≤ 0x62) ∨ (0x70 ≤ b.toNat ∧ b.toNat ≤ 0x74)) →
    s.fetchCheck c true a (b :: l) = .error (.fault 0x0B 0))

/-! ### The two worlds (12) -/

/-- R361, R364, R365, R368, R370, R372 to R379: the oldest service that may start does so once none runs, at its entry and with its route,
the stack's address, POISON in A3 to A14, an empty accumulator and FL 0; while one runs none starts. GO, written where the PF answers,
hands a sound request of a known service to the serving Hearth; a second GO sets OVERRUN; an unknown service and a Hearth that does not
serve are answered at once; a response is released as a whole. A doorbell passes the slots that its writer has filled to the reader, whose
core is interrupted, and starts a service for each message to the Hearth; one that would overfill the ring passes nothing; the reader
frees slots. The Bench's hello stands in the next slot, and the Hearth's answer to it takes the highest common version, 0 where there is
none; a kick restarts the count, another value does not -/
def Obligations.WorldServices : Prop :=
  (∀ (s : State) (v : Service), s.worlds.running = none → s.worlds.pendingSvc.find? s.svcMayStart = some v → s.canServe = true →
    ∃ t, exec .serviceEntry s = .next t ∧ t.worlds = { s.worlds with running := some v, pendingSvc := s.worlds.pendingSvc.erase v } ∧
      (t.coreOf 0).pc = 0x100000 + (match v with | .mbx => 0 | .chan _ => 0x40 | .legacy => 0x40 | .ring _ => 0x80 | .benchNotice => 0x100) ∧
      (t.reg 0 0).tag = tAddr ∧ (t.reg 0 1).tag = tInt ∧ (v = .mbx → (t.reg 0 1).val = 0) ∧ (∀ n, v = .ring n → (t.reg 0 1).val = 2) ∧
      (∀ id o, v = .chan id → s.opOf id = some o → (t.reg 0 1).val = 1 + 256 * BitVec.ofNat 64 o.fn) ∧
      (t.reg 0 2).tag = tAddr ∧ t.reg 0 15 = { val := 0x180000, tag := tAddr } ∧
      (∀ r, 3 ≤ r → r ≤ 14 → t.reg 0 r = { val := 0, tag := tPoison }) ∧ (t.coreOf 0).acc = 0 ∧ (t.coreOf 0).accTag = tPoison ∧
      (t.coreOf 0).fl = 0 ∧ (∀ k, k ≠ 0 → t.coreOf k = s.coreOf k) ∧ t = { s with worlds := t.worlds, zwm := t.zwm, free := t.free }) ∧
  (∀ (s : State) (v : Service), s.worlds.running = some v → exec .serviceEntry s = .next s) ∧
  (∀ s : State, s.pfOpen = true → s.worlds.go = true → exec .vaultmbxGo s = .next { s with worlds := { s.worlds with overrun := true } }) ∧
  (∀ s : State, s.pfOpen = true → s.worlds.go = false → s.chip.state ≠ .recovery → s.worlds.hearth.status = 1 → s.worlds.hbi ≠ 0 →
    mbxHeaderFault (fit 256 s.worlds.req) = none → mbxCodes.contains (byteAt (fit 256 s.worlds.req) 0).toNat = true →
    exec .vaultmbxGo s = .next { s with worlds := { s.worlds with
      go := true, snap := fit 256 s.worlds.req, pendingSvc := s.worlds.pendingSvc ++ [.mbx] } }) ∧
  (∀ s : State, s.pfOpen = true → s.worlds.go = false → s.chip.state ≠ .recovery → s.worlds.hearth.status ≠ 1 → s.worlds.discard = false →
    s.worlds.running = none → ∃ t, exec .vaultmbxGo s = .next t ∧ t.worlds.go = false ∧ t.worlds.done = true ∧
      t.worlds.rsp = mbxResponse (byteAt (fit 256 s.worlds.req) 0).toNat (leAt (fit 256 s.worlds.req) 2 2) 0x0302 0xFF [] ∧
      t.worlds.pendingSvc = s.worlds.pendingSvc) ∧
  (∀ s : State, s.pfOpen = true → s.worlds.go = false → s.chip.state ≠ .recovery → s.worlds.hearth.status = 1 → s.worlds.hbi ≠ 0 →
    s.worlds.discard = false → s.worlds.running = none → mbxHeaderFault (fit 256 s.worlds.req) = none →
    mbxCodes.contains (byteAt (fit 256 s.worlds.req) 0).toNat = false → ∃ t, exec .vaultmbxGo s = .next t ∧ t.worlds.go = false ∧
      t.worlds.done = true ∧ t.worlds.pendingSvc = s.worlds.pendingSvc ∧
      t.worlds.rsp = mbxResponse (byteAt (fit 256 s.worlds.req) 0).toNat (leAt (fit 256 s.worlds.req) 2 2) 0x0101
        (byteAt (fit 256 s.worlds.req) 0).toNat []) ∧
  (∀ (s : State) (status detail : Nat) (body : Bytes), s.worlds.running = some .mbx → s.worlds.discard = false →
    let t := s.mbxAnswer status detail body
    t.worlds.rsp = mbxResponse s.mbxCode (leAt s.worlds.snap 2 2) status detail body ∧ t.worlds.go = false ∧ t.worlds.done = true ∧
      t.worlds.running = none ∧ t.rack = s.rack ∧ t.chip = s.chip ∧ t.pending = s.pending) ∧
  (∀ (s : State) (k : Fin 17), k.val ≠ 0 → s.worlds.toHearth.tail + k.val - s.worlds.toHearth.head ≤ 16 → ∃ t,
    exec (.ringDoorbell true k) s = .next t ∧ t.worlds.toHearth = { s.worlds.toHearth with tail := s.worlds.toHearth.tail + k.val } ∧
    t.worlds.pendingSvc = s.worlds.pendingSvc ++ (List.range k.val).map (fun i => .ring (s.worlds.toHearth.tail + i)) ∧
    t.worlds.hearth.irqs ≠ [] ∧ t.worlds.toBench = s.worlds.toBench ∧ t.worlds.bench = s.worlds.bench ∧
    t = { s with worlds := t.worlds, zwm := { s.zwm with cores := t.zwm.cores } }) ∧
  (∀ (s : State) (k : Fin 17), k.val ≠ 0 → s.worlds.toBench.tail + k.val - s.worlds.toBench.head ≤ 16 → ∃ t,
    exec (.ringDoorbell false k) s = .next t ∧ t.worlds.toBench = { s.worlds.toBench with tail := s.worlds.toBench.tail + k.val } ∧
    t.worlds.toHearth = s.worlds.toHearth ∧ t.worlds.hearth = s.worlds.hearth ∧ t.worlds.pendingSvc = s.worlds.pendingSvc ∧
    t.worlds.bench.irqs ≠ [] ∧ t = { s with worlds := t.worlds, zwm := { s.zwm with cores := t.zwm.cores } }) ∧
  (∀ (s : State) (k : Fin 17) (bench : Bool), k.val = 0 ∨ 16 < (s.ringOf (!bench)).tail + k.val - (s.ringOf (!bench)).head →
    exec (.ringDoorbell bench k) s = .next s) ∧
  (∀ (s : State) (n : Fin 17), n.val ≤ s.worlds.toBench.tail - s.worlds.toBench.head → exec (.ringHeadWrite true n) s =
    .next { s with worlds := { s.worlds with toBench := { s.worlds.toBench with head := s.worlds.toBench.head + n.val } } }) ∧
  (∀ (s : State) (n : Fin 17), n.val ≤ s.worlds.toHearth.tail - s.worlds.toHearth.head → exec (.ringHeadWrite false n) s =
    .next { s with worlds := { s.worlds with toHearth := { s.worlds.toHearth with head := s.worlds.toHearth.head + n.val } } }) ∧
  (∀ (s : State) (c : Instr), (c = .hbiHello ∨ (c = .hbiHelloRetry ∧ s.worlds.helloOut = true)) → s.worlds.bench.status = 1 →
    s.worlds.toHearth.tail - s.worlds.toHearth.head < 16 → twf {} s.zwm.msg = true → ∃ t, exec c s = .next t ∧ t.worlds.helloOut = true ∧
      t.worlds.toHearth = { s.worlds.toHearth with tail := s.worlds.toHearth.tail + 1 } ∧
      t.ringMsg false s.worlds.toHearth.tail = fit 256 ([1, 0, 0, 0, 4, 0, 0, 0, 0, 0, 0, 0, 0, 0, 0, 0] ++
        leBytes 2 s.worlds.bench.hbiMin.toNat ++ leBytes 2 s.worlds.bench.hbiMax.toNat) ∧
      t.worlds.pendingSvc = s.worlds.pendingSvc ++ [.ring s.worlds.toHearth.tail] ∧ t = { s with worlds := t.worlds, zwm := t.zwm }) ∧
  (∀ (s : State) (c : Instr), (c = .hbiHello ∨ c = .hbiHelloRetry) →
    s.worlds.bench.status ≠ 1 ∨ 16 ≤ s.worlds.toHearth.tail - s.worlds.toHearth.head → exec c s = .next s) ∧
  (∀ s : State, s.worlds.helloOut = false → exec .hbiHelloRetry s = .next s) ∧
  (∀ s : State, s.worlds.hearth.status = 1 → s.worlds.toHearth.head < s.worlds.toHearth.tail →
    leAt (s.ringMsg false s.worlds.toHearth.head) 0 2 = 1 → s.worlds.toBench.tail - s.worlds.toBench.head < 16 → ∃ t, exec .hbiAck s = .next t ∧
    t.worlds.helloOut = false ∧ t.worlds.vaultUp = (t.worlds.hbi != 0) ∧
    t.worlds.toHearth = { s.worlds.toHearth with head := s.worlds.toHearth.head + 1 } ∧
    t.worlds.toBench = { s.worlds.toBench with tail := s.worlds.toBench.tail + 1 } ∧
    (∀ v : BitVec 16, s.worlds.hearth.hbiMin.toNat ≤ v.toNat → v.toNat ≤ s.worlds.hearth.hbiMax.toNat →
      s.worlds.bench.hbiMin.toNat ≤ v.toNat → v.toNat ≤ s.worlds.bench.hbiMax.toNat → v.toNat ≤ t.worlds.hbi.toNat ∧
      s.worlds.hearth.hbiMin.toNat ≤ t.worlds.hbi.toNat ∧ t.worlds.hbi.toNat ≤ s.worlds.hearth.hbiMax.toNat ∧
      s.worlds.bench.hbiMin.toNat ≤ t.worlds.hbi.toNat ∧ t.worlds.hbi.toNat ≤ s.worlds.bench.hbiMax.toNat) ∧
    (s.worlds.hearth.hbiMax.toNat < s.worlds.bench.hbiMin.toNat ∨ s.worlds.bench.hbiMax.toNat < s.worlds.hearth.hbiMin.toNat →
      t.worlds.hbi = 0) ∧ t.rack = s.rack ∧ t.engine.tasks = s.engine.tasks) ∧
  (∀ s : State, s.worlds.hearth.status ≠ 1 ∨ s.worlds.toHearth.tail ≤ s.worlds.toHearth.head ∨
    leAt (s.ringMsg false s.worlds.toHearth.head) 0 2 ≠ 1 ∨ 16 ≤ s.worlds.toBench.tail - s.worlds.toBench.head →
    exec .hbiAck s = .next s) ∧
  (∀ (s : State) (core : Fin 5), exec (.wdogKick core 0x4B49) s = .next (s.modCore core fun c => { c with kickAt := s.now })) ∧
  (∀ (s : State) (core : Fin 5) (v : BitVec 32), v ≠ 0x4B49 → ∃ t, exec (.wdogKick core v) s = .next t ∧ t.zwm = s.zwm ∧
    t.worlds = s.worlds ∧ t.rack = s.rack ∧ t.engine = s.engine)

/-- R118, R363, R378, R380, R382, R383: a watchdog stops its world, unless it has stopped already, and halts it where it has restarted
four times within 600 s. The Hearth's services and the operations of its channel end, a ceremony ends, its memory and its claims are
cleared, the rings are emptied, and keys, the root, learned terminals and generator instances stay; its restart loads its image again,
where that passes its checks, counts, and offers the handshake to a serving Bench. The Bench's four cores stop together at the image
entry, a serving Hearth gets a notice, a halted Bench ends a build; its restart loads its image again, ends a build that the reset
interrupted, counts and sends a hello. A stopped world does not restart twice, and one whose image fails does not restart -/
def Obligations.WorldRestarts : Prop :=
  (∀ (s : State), s.worlds.hearth.status < 2 → s.zwm.hearthMpu.waiting = [] → ∃ t, exec .hearthWatchdogExpiry s = .next t ∧
    t.worlds.hearth.status = (if 4 ≤ (s.recentRestarts s.worlds.hearth).length then 3 else 2) ∧ t.worlds.vaultUp = false ∧
    t.worlds.pendingSvc = [] ∧ t.worlds.running = none ∧ t.worlds.channel = [] ∧ t.worlds.chanWait = [] ∧ t.worlds.toBench = {} ∧ t.worlds.toHearth = {} ∧
    t.worlds.go = false ∧ t.vault.cer = none ∧ t.zwm.hmem = [] ∧ t.zwm.hclaim = 0 ∧
    t.rack.slots = s.rack.slots ∧ t.crucible = s.crucible ∧ t.routing.terms = s.routing.terms ∧ t.bellows.insts = s.bellows.insts ∧
    t.worlds.bench = s.worlds.bench ∧ t.zwm.bmem = s.zwm.bmem ∧ t.legacy.busy = false) ∧
  (∀ (s : State) (op : Nat) (o : Op), s.worlds.hearth.status < 2 → s.zwm.hearthMpu.waiting = [] →
    op ∈ s.worlds.channel ∨ op ∈ s.worlds.chanWait → s.opOf op = some o → ∃ t, exec .hearthWatchdogExpiry s = .next t ∧ t.Ended op 0x0302 0xFF 0 []) ∧
  (∀ (s : State), 2 ≤ s.worlds.hearth.status → exec .hearthWatchdogExpiry s = .next s) ∧
  (∀ s : State, s.worlds.hearth.status = 2 → s.worlds.running = none → s.imageFault 0 s.unsignedOk (s.imageAt 0 (tget 3 s.life.boot 0)) = 0 →
    ∃ t, exec .hearthRestart s = .next t ∧ t.worlds.hearth.status = 1 ∧
      t.worlds.hearth.restarts = satInc 65535 s.worlds.hearth.restarts ∧
      t.zwm.hmem = imageWords 0x100000 (imgBody (s.imageAt 0 (tget 3 s.life.boot 0))) ∧
      t.rack = s.rack ∧ t.crucible = s.crucible ∧ t.routing = s.routing ∧ t.bellows = s.bellows ∧ t.engine.tasks = s.engine.tasks ∧
      t.vault.tenants = s.vault.tenants ∧ t.worlds.bench = { s.worlds.bench with irqs := t.worlds.bench.irqs } ∧ t.zwm.bmem = s.zwm.bmem ∧
      (s.worlds.bench.status ≠ 1 → t.worlds.hbi = 0 ∧ t.worlds.vaultUp = s.worlds.vaultUp) ∧
      (s.worlds.bench.status = 1 → s.worlds.toHearth = {} → s.worlds.toBench = {} → twf {} s.zwm.msg = true →
        t.worlds.toHearth = { head := 1, tail := 1 } ∧ t.worlds.toBench = { head := 0, tail := 1 } ∧
        t.worlds.hbi = s.chosen ∧ t.worlds.vaultUp = (s.chosen != 0))) ∧
  (∀ s : State, s.worlds.hearth.status = 2 → ¬ s.imageFault 0 s.unsignedOk (s.imageAt 0 (tget 3 s.life.boot 0)) ∈ [0, 6] →
    exec .hearthRestart s = .next s) ∧
  (∀ (s : State), s.worlds.hearth.status ≠ 2 → exec .hearthRestart s = .next s) ∧
  (∀ (s : State) (c : Fin 4), s.worlds.bench.status < 2 → s.zwm.benchMpu.waiting = [] → ∃ t, exec (.benchWatchdogExpiry c) s = .next t ∧
    t.worlds.bench.status = (if 4 ≤ (s.recentRestarts s.worlds.bench).length then 3 else 2) ∧ t.worlds.bench.cause = c.val ∧
    t.worlds.toBench = {} ∧ t.worlds.toHearth = {} ∧ (s.worlds.hearth.status = 1 → Service.benchNotice ∈ t.worlds.pendingSvc) ∧
    t.routing.built = none ∧ (t.worlds.bench.status = 3 → s.routing.busy = true → t.routing.busy = false ∧ t.routing.refused = true ∧
      t.routing.cause = 9) ∧ (t.worlds.bench.status = 2 → t.routing.busy = s.routing.busy) ∧ t.cards.sd.waiting = [] ∧
    (∀ k, 1 ≤ k → k ≤ 4 → t.coreOf k = { pc := 0x400000 }) ∧ t.crucible = s.crucible ∧ t.rack.slots = s.rack.slots ∧
    t.worlds.hearth = s.worlds.hearth ∧ t.zwm.bmem = s.zwm.bmem ∧ t.power = s.power) ∧
  (∀ (s : State) (c : Fin 4), 2 ≤ s.worlds.bench.status → exec (.benchWatchdogExpiry c) s = .next s) ∧
  (∀ s : State, s.worlds.bench.status = 2 → s.worlds.toHearth = {} →
    s.imageFault 1 s.unsignedOk (s.imageAt 1 (tget 3 s.life.boot 1)) = 0 → ∃ t, exec .benchRestart s = .next t ∧
    t.worlds.bench.status = 1 ∧ t.worlds.bench.restarts = satInc 65535 s.worlds.bench.restarts ∧ t.worlds.helloOut = true ∧
    t.worlds.toHearth.tail = 1 ∧ (∀ k, 1 ≤ k → k ≤ 4 → t.coreOf k = { pc := 0x400000 }) ∧
    t.zwm.bmem = imageWords 0x400000 (imgBody (s.imageAt 1 (tget 3 s.life.boot 1))) ∧ t.zwm.hmem = s.zwm.hmem ∧
    t.rack = s.rack ∧ t.crucible = s.crucible ∧ t.worlds.hearth = { s.worlds.hearth with irqs := t.worlds.hearth.irqs } ∧
    (s.routing.busy = false → t.routing = s.routing) ∧
    (s.routing.busy = true → t.routing = { s.routing with busy := false, built := none, refused := true, cause := 9, entry := 0 })) ∧
  (∀ s : State, s.worlds.bench.status = 2 → ¬ s.imageFault 1 s.unsignedOk (s.imageAt 1 (tget 3 s.life.boot 1)) ∈ [0, 6] →
    exec .benchRestart s = .next s) ∧
  (∀ s : State, s.worlds.bench.status ≠ 2 → exec .benchRestart s = .next s)

/-! ### Memory colours, protection units and the debug master (14) -/

/-- R407 to R410, R413, R415 to R418, R420 to R422: a unit is held, acknowledged and released; an edit while it is not acknowledged is
dropped with NOT_HELD; a colouring run in range starts, and ends with its lines in their colour, the Hearth's fixed ones apart; MPU_SECRET
keeps its fixed bits, a rule is written where its world owns the slot; a piece of a copy engine and a debug access wait for a held unit,
are decided in arrival order when it is released, and a piece that is refused is kept with its offset; a debug access of another size than
4 and 8 bytes, and one in a stage that admits none, does not pass. A data access passes only with its line's colour or an open slot, and a
store changes no other word -/
def Obligations.ProtectionUnits : Prop :=
  (∀ (s : State) (c : Fin 5), exec (.hold c) s = .next (s.modMpu (isBench c) fun m =>
    if m.hold then m else { m with hold := true, holder := if c.val = 0 then 0 else c.val - 1 })) ∧
  (∀ (s : State) (b : Bool), (s.mpuOf b).hold = true → exec (.holdAck b) s = .next (s.modMpu b fun m => { m with holdAck := true })) ∧
  (∀ (s : State) (b : Bool), (s.mpuOf b).hold = false → exec (.holdAck b) s = .next s ∧ exec (.holdClear b) s = .next s) ∧
  (∀ (s : State) (b : Bool), (s.mpuOf b).hold = true → (s.mpuOf b).busy = true →
    exec (.holdClear b) s = .next (s.modMpu b fun m => { m with clearWait := true })) ∧
  (∀ (s : State) (b : Bool), (s.mpuOf b).hold = true → (s.mpuOf b).busy = false → exec (.holdClear b) s =
    .next ((s.mpuOf b).waiting.foldl State.unitStep (s.modMpu b fun m => { m with
      hold := false, holdAck := false, holder := 0, clearWait := false, waiting := [] }))) ∧
  (∀ (s : State) (b : Bool) (v : BitVec 32), v.getLsbD 8 = true → (s.mpuOf b).holdAck = false →
    exec (.lineSet b v) s = .next (s.modMpu b fun m => { m with lineColour := v.truncate 4, notHeld := true })) ∧
  (∀ (s : State) (b : Bool) (v : BitVec 32), v.getLsbD 8 = true → (s.mpuOf b).holdAck = true → (s.mpuOf b).busy = false →
    0 < (s.mpuOf b).lineCount → (s.mpuOf b).lineBase + (s.mpuOf b).lineCount ≤ (if b then 65536 else 8192) → ∃ t,
      exec (.lineSet b v) s = .next t ∧ (t.mpuOf b).busy = true ∧
      (t.mpuOf b).run = some ((s.mpuOf b).lineBase, (s.mpuOf b).lineCount, v.truncate 4) ∧ (t.mpuOf b).colours = (s.mpuOf b).colours ∧
      t.mpuOf (!b) = s.mpuOf (!b) ∧ t = { s with zwm := t.zwm }) ∧
  (∀ (s : State) (b : Bool) (v : BitVec 32), v.getLsbD 8 = true → (s.mpuOf b).holdAck = true → (s.mpuOf b).busy = false →
    (if b then 65536 else 8192) < (s.mpuOf b).lineBase + (s.mpuOf b).lineCount →
    exec (.lineSet b v) s = .next (s.modMpu b fun m => { m with lineColour := v.truncate 4, range := true })) ∧
  (∀ (s : State) (b : Bool) (lo n : Nat) (col : BitVec 4), (s.mpuOf b).run = some (lo, n, col) → (s.mpuOf b).clearWait = false →
    twf 0 (s.mpuOf b).colours = true → ∃ t, exec (.lineSetDone b) s = .next t ∧ (t.mpuOf b).busy = false ∧ (t.mpuOf b).run = none ∧
      (∀ l, tget 0 (t.mpuOf b).colours l = if lo ≤ l ∧ l < lo + n ∧ (b = true ∨ l < 8176) then col else tget 0 (s.mpuOf b).colours l) ∧
      t.mpuOf (!b) = s.mpuOf (!b) ∧ t = { s with zwm := t.zwm }) ∧
  (∀ (s : State) (b : Bool) (off : BitVec 16) (v : BitVec 32), (s.mpuOf b).holdAck = false →
    off = 8 ∨ off = 0xC ∨ (0x100 ≤ off.toNat ∧ off.toNat < 0x200) →
    exec (.mpuRuleWrite b off v) s = .next (s.modMpu b fun m => { m with notHeld := true })) ∧
  (∀ (s : State) (v : BitVec 32), s.zwm.hearthMpu.holdAck = true → ∃ t, exec (.mpuRuleWrite false 8 v) s = .next t ∧
    t.zwm.hearthMpu.secret = (v.truncate 16 ||| 1) &&& 0x7FFF ∧ t = { s with zwm := { s.zwm with hearthMpu := t.zwm.hearthMpu } }) ∧
  (∀ (s : State) (v : BitVec 32), s.zwm.benchMpu.holdAck = true → ∃ t, exec (.mpuRuleWrite true 8 v) s = .next t ∧
    t.zwm.benchMpu.secret = 0 ∧ t = { s with zwm := { s.zwm with benchMpu := t.zwm.benchMpu } }) ∧
  (∀ (s : State) (b : Bool) (v : BitVec 32), exec (.mpuRuleWrite b 0x10 v) s = .next (s.modMpu b fun m => { m with lineBase := bits v 15 0 }) ∧
    exec (.mpuRuleWrite b 0x14 v) s = .next (s.modMpu b fun m => { m with lineCount := bits v 16 0 }) ∧
    exec (.mpuRuleWrite b 4 v) s = .next (s.modMpu b fun m => { m with
      notHeld := m.notHeld && !v.getLsbD 0, fixed := m.fixed && !v.getLsbD 1, range := m.range && !v.getLsbD 2 })) ∧
  (∀ (s : State) (b : Bool) (n : Nat) (v : BitVec 32), n < 64 → (s.mpuOf b).holdAck = true → twf {} (s.mpuOf b).rules = true →
    s.owns b n = true → n ≠ (if b then 44 else 17) → ∃ t, exec (.mpuRuleWrite b (BitVec.ofNat 16 (0x100 + 4 * n)) v) s = .next t ∧
      t.slotRule b n = { colours := v.truncate 16, r := v.getLsbD 16, w := v.getLsbD 17, x := v.getLsbD 18 && n == 10 } ∧
      (∀ m, m ≠ n → t.slotRule b m = s.slotRule b m) ∧ t.mpuOf (!b) = s.mpuOf (!b) ∧ t = { s with zwm := t.zwm }) ∧
  (∀ (s : State) (b : Bool) (n : Nat) (v : BitVec 32), n < 64 → (s.mpuOf b).holdAck = true → s.owns b n = false →
    exec (.mpuRuleWrite b (BitVec.ofNat 16 (0x100 + 4 * n)) v) s = .next (s.modMpu b fun m => { m with fixed := true })) ∧
  (∀ (s : State) (r : DebugReq) (b : Bool) (a : Area), s.debugWorld (locOf r.addr) = some (b, a) → (s.mpuOf b).hold = true →
    exec (.debugAccess r) s = .next ({ s with pins := { s.pins with jtagIr := 0x10 } }.modMpu b fun m => { m with
      waiting := m.waiting ++ [UnitReq.debug r] })) ∧
  (∀ (s : State) (r : DebugReq) (b : Bool) (a : Area), s.debugWorld (locOf r.addr) = some (b, a) → (s.mpuOf b).hold = false →
    exec (.debugAccess r) s = .next ({ s with pins := { s.pins with jtagIr := 0x10 } }.debugStep r)) ∧
  (∀ (s : State) (r : DebugReq), s.debugWorld (locOf r.addr) = none →
    exec (.debugAccess r) s = .next ({ s with pins := { s.pins with jtagIr := 0x10 } }.debugStep r)) ∧
  (∀ (s : State) (r : DebugReq), r.size ≠ 4 → r.size ≠ 8 → (s.debugStep r).zwm.dbgErr = true ∧
    (s.debugStep r).tamper = s.tamper ∧ (s.debugStep r).zwm = { s.zwm with dbgErr := true }) ∧
  (∀ (s : State) (r : DebugReq) (b : Bool) (a : Area), s.lifeCode ≠ 2 → s.lifeCode ≠ 3 → s.lifeCode ≠ 5 →
    s.debugTarget r ≠ some (b, a)) ∧
  (∀ (s : State) (p : CopyPiece), p.src.toNat % 64 + p.len.val ≤ 64 → p.dst.toNat % 64 + p.len.val ≤ 64 →
    (s.mpuOf p.bench).hold = true → exec (.copyEnginePiece p) s = .next (s.modMpu p.bench fun m => { m with
      waiting := m.waiting ++ [UnitReq.copy p] })) ∧
  (∀ (s t : State) (p : CopyPiece), p.src.toNat % 64 + p.len.val ≤ 64 → p.dst.toNat % 64 + p.len.val ≤ 64 →
    (s.mpuOf p.bench).hold = false → s.copyMove p = .ok t → exec (.copyEnginePiece p) s = .next t) ∧
  (∀ (s : State) (p : CopyPiece) (code : Nat) (a : BitVec 64), p.src.toNat % 64 + p.len.val ≤ 64 →
    p.dst.toNat % 64 + p.len.val ≤ 64 → (s.mpuOf p.bench).hold = false → s.copyMove p = .error (.fault code a) → ∃ t,
      exec (.copyEnginePiece p) s = .next t ∧ t.zwm = { s.zwm with
        copyErr := s.zwm.copyErr ++ [(if p.bench then 1 else 0, p.offset.toNat)] }) ∧
  (∀ (s : State) (who : Option Nat) (b : Bool) (a : BitVec 64) (n : Nat) (w sec : Bool), (s.mpuOf b).hold = false → 0 < n →
    bits a 59 32 = 0 → locOf a % n = 0 →
    (∀ area, areaOf b (locOf a) = some area → (∀ k, area ≠ .slot k) → colourOf a ≠ s.lineColour area (locOf a) →
      s.decideAccess b who a n w sec = .error (.fault 0x09 a)) ∧
    (∀ area, areaOf b (locOf a) = some area → (∀ k, area ≠ .slot k) → colourOf a = s.lineColour area (locOf a) → (w && sec) = false →
      s.decideAccess b who a n w sec = .ok area) ∧
    (∀ k, areaOf b (locOf a) = some (.slot k) → (s.owns b k = false ∨ (s.slotRule b k).colours.getLsbD (colourOf a) = false) →
      s.decideAccess b who a n w sec = .error (.fault 0x0F a)) ∧
    (areaOf b (locOf a) = none → s.decideAccess b who a n w sec = .error (.fault 0x0E a))) ∧
  (∀ (s : State) (b : Bool) (who : Option Nat) (a : BitVec 64) (n : Nat) (v : TWord) (t : State), (∀ k, areaOf b (locOf a) ≠ some (.slot k)) →
    s.dataWrite b who a n v = .ok t → ∀ b' area loc, areaOf b' loc = some area → (∀ k, area ≠ .slot k) → loc / 8 ≠ locOf a / 8 →
      t.wordAt area loc = s.wordAt area loc)

/-! ### The Nolur 3 window (20) -/

/-- R540, R542, R543, R548, R551, R157: in legacy mode GO, where the PF answers, copies the request and hands it to the Hearth or answers
it at once; a write of GO while a command is served sets OVERRUN alone; without legacy mode it does nothing; a response is released as a
whole, or discarded after a reset. In LOCKED a request is answered S01, without a Vault S02, a frame of a wrong length or start F02, an
unknown pair of capitals N02, other bytes in the code F02, and a command of R548 N01 once it is served. A binding stores the LMK of a
sound slot, or leaves the earlier one with cause 1 to 4; a slot that fails its check is erased R266, R549: the status of a plan's end is
that of its lowest error bit; a plan without one is a success. -/
def Obligations.LegacyWindow : Prop :=
  ((∀ s : State, s.chip.legacy = false → exec .legacyGo s = .next s) ∧
   (∀ s : State, s.pfOpen = true → s.chip.legacy = true → s.legacy.busy = true →
     exec .legacyGo s = .next { s with legacy := { s.legacy with overrun := true } }) ∧
   (∀ (s : State) (frame : Bytes), s.pfOpen = true → s.chip.legacy = true → s.legacy.busy = false → frame = slice s.legacy.req 0 (min 1536 s.legacy.reqLen) →
     State.legacyAtOnce { s with legacy := { s.legacy with busy := true, snap := frame } } s.legacy.reqLen frame = none →
     exec .legacyGo s = .next { s with
       legacy := { s.legacy with busy := true, snap := frame }
       worlds := { s.worlds with pendingSvc := s.worlds.pendingSvc ++ [.legacy] } }) ∧
   (∀ (s : State) (frame : Bytes) (st : String), s.pfOpen = true → s.chip.legacy = true → s.legacy.busy = false → s.legacy.discard = false →
     frame = slice s.legacy.req 0 (min 1536 s.legacy.reqLen) →
     State.legacyAtOnce { s with legacy := { s.legacy with busy := true, snap := frame } } s.legacy.reqLen frame = some st → ∃ t,
       exec .legacyGo s = .next t ∧ t.legacy.rsp = legacyFrame frame (ascii st) [] ∧ t.legacy.busy = false ∧ t.legacy.done = true ∧
       t.legacy.count = s.legacy.count + 1 ∧ t.rack = s.rack ∧ t.pending = s.pending) ∧
   (∀ (s : State) (n : Nat) (frame : Bytes), s.chip.state = .locked → s.legacyAtOnce n frame = some "S01") ∧
   (∀ (s : State) (n : Nat) (frame : Bytes), s.chip.state = .ready → s.worlds.vaultUp = false → s.legacyAtOnce n frame = some "S02") ∧
   (∀ (s : State) (n : Nat) (frame : Bytes), s.chip.state = .ready → s.worlds.vaultUp = true → n < 8 ∨ 1536 < n ∨ byteAt frame 0 ≠ 0x3C →
     s.legacyAtOnce n frame = some "F02") ∧
   (∀ (s : State) (n : Nat) (frame : Bytes), s.chip.state = .ready → s.worlds.vaultUp = true → frameOk n frame = true →
     (∀ c ∈ legBarred, ascii c ≠ legCode frame) → (∀ g ∈ legGrammar, ascii g.1 ≠ legCode frame) → s.legacyAtOnce n frame = some "N02") ∧
   (∀ (s : State) (n : Nat) (frame : Bytes), s.chip.state = .ready → s.worlds.vaultUp = true → (∃ b ∈ legCode frame, isUpper b = false) →
     s.legacyAtOnce n frame = some "F02") ∧
   (∀ (s : State) (rsp : Bytes), s.legacy.answer = some rsp → s.legacy.discard = false → ∃ t, exec .legacyResponseRelease s = .next t ∧
     t.legacy.rsp = rsp ∧ t.legacy.rspLen = rsp.length ∧ t.legacy.count = s.legacy.count + 1 ∧ t.legacy.busy = false ∧
     t.legacy.done = true ∧ t.legacy.answer = none ∧ t.legacy.lmk = s.legacy.lmk ∧ t.rack = s.rack ∧ t.worlds = s.worlds ∧
     t.pending = s.pending) ∧
   (∀ (s : State) (rsp : Bytes), s.legacy.answer = some rsp → s.legacy.discard = true → exec .legacyResponseRelease s =
     .next { s with legacy := { s.legacy with discard := false, busy := false, snap := [], answer := none } }) ∧
   (∀ s : State, s.legacy.answer = none → exec .legacyResponseRelease s = .next s) ∧
   (∀ (s : State) (n : BitVec 16) (x : Slot) (a : BitVec 128), s.pfOpen = true → s.chip.legacy = true → x = s.slotOf n.toNat → a = x.attr →
     (aValid a = true → x.check ≠ s.checkOf n.toNat x → exec (.lmkBind n) s =
       .next ((State.slotFault n.toNat 1 { s with legacy := { s.legacy with bindSlot := n.toNat } }).refuseLmk 1)) ∧
     (aValid a = false → exec (.lmkBind n) s = .next { s with
       legacy := { s.legacy with bindSlot := n.toNat, refused := true, cause := 1 } }) ∧
     (aValid a = true → x.check = s.checkOf n.toNat x →
       (aTenant a ≠ 0 → exec (.lmkBind n) s = .next { s with
         legacy := { s.legacy with bindSlot := n.toNat, refused := true, cause := 1 } }) ∧
       (aTenant a = 0 → aClass a ≠ 7 ∨ aUsage a ≠ use2 'K' '0' ∨ aAlg a ≠ ch 'T' ∨ aSub a ≠ 3 ∨ aKlen a ≠ 24 ∨ aMode a ≠ ch 'B' ∨
         aExport a ≠ ch 'N' ∨ bits a 95 92 ≠ 2 → exec (.lmkBind n) s = .next { s with
         legacy := { s.legacy with bindSlot := n.toNat, refused := true, cause := 2 } }) ∧
       (aTenant a = 0 → aClass a = 7 → aUsage a = use2 'K' '0' → aAlg a = ch 'T' → aSub a = 3 → aKlen a = 24 → aMode a = ch 'B' →
         aExport a = ch 'N' → bits a 95 92 = 2 →
         (s.chip.state ≠ .ready ∨ s.worlds.vaultUp = false → exec (.lmkBind n) s = .next { s with
           legacy := { s.legacy with bindSlot := n.toNat, refused := true, cause := 4 } }) ∧
         (s.chip.state = .ready → s.worlds.vaultUp = true → s.legacy.bound = true →
           exec (.lmkBind n) s = .next (State.wroteArea x.key.length { s with legacy := { s.legacy with
             bindSlot := n.toNat, lmk := x.key, lmkSeal := s.tpaKey 0 (s.epochOf 0), lmkAttr := a, bound := true
             kcv := BitVec.ofNat 24 (beNat (leBytes 3 (aKcv a))) } })) ∧
         (s.chip.state = .ready → s.worlds.vaultUp = true → s.legacy.bound = false →
           (∀ u, State.reserveStore 0 1 { s with legacy := { s.legacy with bindSlot := n.toNat } } = some u → exec (.lmkBind n) s =
             .next (State.wroteArea x.key.length { u with legacy := { u.legacy with
               lmk := x.key, lmkSeal := u.tpaKey 0 (u.epochOf 0), lmkAttr := a, bound := true
               kcv := BitVec.ofNat 24 (beNat (leBytes 3 (aKcv a))) } })) ∧
           ((s.tenantOf 0).storeQuota ≤ (s.tenantOf 0).storeUsed → exec (.lmkBind n) s = .next { s with
             legacy := { s.legacy with bindSlot := n.toNat, refused := true, cause := 3 } }))))) ∧
   (∀ (s : State) (c : Instr) (code : String), (c, code) ∈ [(Instr.legKz, "KZ"), (.legKl, "KL"), (.legKy, "KY"), (.legXa, "XA"),
       (.legXd, "XD"), (.legXp, "XP"), (.legPn, "PN"), (.legPr, "PR"), (.legPo, "PO"), (.legPg, "PG")] →
     s.legacy.busy = true → s.legacy.discard = false → legCode s.legacy.snap = ascii code → s.legacy.answer = none → ∃ t,
       exec c s = .next t ∧ t.legacy.rsp = legacyFrame s.legacy.snap (ascii "N01") [] ∧ t.legacy.busy = false ∧
       t.legacy.done = true ∧ t.legacy.count = s.legacy.count + 1 ∧ t.rack = s.rack ∧ t.pending = s.pending)) ∧
  (planStatus 0 = none ∧ ∀ (err : BitVec 32) (b : Nat), err.getLsbD b = true → (∀ a, a < b → err.getLsbD a = false) →
     (b ≤ 1 → planStatus err = some "P02") ∧ (b = 2 → planStatus err = some "K02") ∧ (b = 3 → planStatus err = some "P03") ∧
     (b = 4 → planStatus err = some "D01") ∧ (5 ≤ b → b ≤ 8 → planStatus err = some "P01") ∧
     (9 ≤ b → b ≤ 10 → planStatus err = some "P04") ∧ (b = 11 → planStatus err = some "K01"))

/-- R545, R546, R549, R157: with the LMK's slot sound, and with what the Hearth drew where a command needs it, the S, R and K commands
answer what their rows name; a key leaves the device under the LMK with the variant of its type and comes back by the same variant; a
field that decrypts to an even byte answers K01, a zone master key and a BDK are not exported, a failed random source answers S03. Which
digit of SA stands for what is the model's (log 35) -/
def Obligations.LegacyServiceAndKeys : Prop :=
  (∀ (s : State) (f : List Bytes), s.Asked "SS" f → ∃ t,
    exec .legSs s = .next t ∧ s.Answered t "A00" [decText 1 s.chip.state.code, ascii "10", hexText (beBytes 4 (tget 0 s.life.versions 0).toNat),
      hexText (beBytes 3 s.legacy.kcv.toNat)]) ∧
  (∀ (s : State) (f : List Bytes), s.Asked "SV" f → ∃ t,
    exec .legSv s = .next t ∧ s.Answered t "A00" [hexText (beBytes 4 (tget 0 s.life.versions 0).toNat),
      hexText (beBytes 4 (tget 0 s.life.versions 1).toNat), hexText (beBytes 4 (tget 0 s.life.versions 2).toNat)]) ∧
  (∀ (s : State) (f : List Bytes), s.Asked "SN" f → ∃ t,
    exec .legSn s = .next t ∧ s.Answered t "A00" [hexText (beBytes 8 s.trims.identity.toNat)]) ∧
  (∀ (s : State) (f : List Bytes) (x : Bytes), s.Asked "SE" f → f = [x] → ∃ t,
    exec .legSe s = .next t ∧ s.Answered t "A00" [x]) ∧
  (∀ (s : State) (f : List Bytes), s.Asked "SL" f → ∃ t,
    exec .legSl s = .next t ∧ s.Answered t "A00" [hexText (beBytes 3 s.legacy.kcv.toNat)]) ∧
  (∀ (s : State) (f : List Bytes), s.Asked "SC" f → ∃ t,
    exec .legSc s = .next t ∧ s.Answered t "A00" [decText 10 s.legacy.count.toNat]) ∧
  (∀ (s : State) (f : List Bytes), s.Asked "SD" f → ∃ t,
    exec .legSd s = .next t ∧ s.Answered t "A00" [decText 10 s.store.opsec.toNat]) ∧
  (∀ (s : State) (f : List Bytes), s.Asked "SA" f → ∃ t, exec .legSa s = .next t ∧
    (s.Answered t "A00" [ascii "0"] ∨ s.Answered t "A00" [ascii "1"])) ∧
  (∀ (s : State) (f : List Bytes) (n g : Bytes), s.Asked "RN" f → f = [n] → s.bellows.given = some g → ∃ t,
    exec .legRn s = .next t ∧ s.Answered t "A00" [hexText (g.take (decOf n))]) ∧
  (∀ (s : State) (n : Bytes), s.Asked "RN" [n] → 1 ≤ decOf n → s.bellows.given = none → s.bellows.state = .ok →
    s.waitsSeed .hearth = false → exec .legRn s = .next (s.enqueueSeed { who := .hearth, level := 2, blocks := (decOf n + 15) / 16 })) ∧
  (∀ (s : State) (f : List Bytes), s.Asked "RN" f → s.bellows.given = none → s.bellows.state = .failed → s.bellows.retest = false → ∃ t,
    exec .legRn s = .next t ∧ s.Answered t "S03" []) ∧
  (∀ (s : State) (ty sch key g : Bytes) (v : Nat), s.Asked "KG" [ty, sch] → s.LmkSound → legV ty = some v → s.bellows.given = some g →
    key = (g.take (if sch = [0x32] then 16 else 24)).map Des.oddParity → ∃ t, exec .legKg s = .next t ∧
      s.Answered t "A00" [s.underLmk v key, hexText (kcvOf (ch 'T') (key.length / 8) key)]) ∧
  (∀ (s : State) (ty sch z zmk key g : Bytes) (v : Nat), s.Asked "KX" [ty, sch, z] → s.LmkSound → legV ty = some v → s.openKey 0 z = some zmk →
    s.bellows.given = some g → key = (g.take (if sch = [0x32] then 16 else 24)).map Des.oddParity →
    s.RunsPlan .legKx 0x60 (xlateTxn (typeKey s.lmkKey v) zmk (Modes.ecb (Des.enc (typeKey s.lmkKey v)) 8 key))
      fun e => [s.underLmk v key, keyText e.out, hexText (e.result.take 3)]) ∧
  (∀ (s : State) (ty z y zmk : Bytes) (v : Nat), s.Asked "KI" [ty, z, y] → s.LmkSound → legV ty = some v → s.openKey 0 z = some zmk →
    s.RunsPlan .legKi 0x60 (xlateTxn zmk (typeKey s.lmkKey v) (hexOf (y.drop 1))) fun e => [keyText e.out, hexText (e.result.take 3)]) ∧
  (∀ (s : State) (ty z y zmk : Bytes) (v : Nat), s.Asked "KE" [ty, z, y] → s.LmkSound → legV ty = some v → ty ≠ ascii "ZM" → ty ≠ ascii "BD" →
    s.openKey 0 z = some zmk →
    s.RunsPlan .legKe 0x60 (xlateTxn (typeKey s.lmkKey v) zmk (hexOf (y.drop 1))) fun e => [keyText e.out, hexText (e.result.take 3)]) ∧
  (∀ (s : State) (ty z y : Bytes), s.Asked "KE" [ty, z, y] → ty = ascii "ZM" ∨ ty = ascii "BD" → ∃ t, exec .legKe s = .next t ∧
    s.Answered t "K02" []) ∧
  (∀ (s : State) (ty k key : Bytes) (v : Nat), s.Asked "KC" [ty, k] → s.LmkSound → legV ty = some v → s.openKey v k = some key → ∃ t,
    exec .legKc s = .next t ∧ s.Answered t "A00" [hexText (kcvOf (ch 'T') (key.length / 8) key)]) ∧
  (∀ (s : State) (ty k : Bytes) (v : Nat), s.Asked "KC" [ty, k] → s.LmkSound → legV ty = some v → s.openKey v k = none → ∃ t,
    exec .legKc s = .next t ∧ s.Answered t "K01" []) ∧
  (∀ (s : State) (ty k key x : Bytes) (v : Nat), s.Asked "KQ" [ty, k, x] → s.LmkSound → legV ty = some v → s.openKey v k = some key → ∃ t,
    exec .legKq s = .next t ∧ s.Answered t (if hexText (kcvOf (ch 'T') (key.length / 8) key) = x then "A00" else "V01") []) ∧
  (∀ (s : State) (v : Nat) (field key : Bytes), s.openKey v field = some key →
    key = Modes.ecb (Des.dec (typeKey s.lmkKey v)) 8 (hexOf (field.drop 1)) ∧ ∀ b ∈ key, Des.oddParity b = b)

/-- R270, R546, R547, R549: with the LMK's slot sound, and with what the Hearth drew where a plan needs it, the PIN commands fill the
parameter block of their plan from their fields, with PAN_LEN 13, and answer by its end; format 04 is refused; PD takes its key from the
TDES route of the KSN whose KCV is that of the BD field -/
def Obligations.LegacyPins : Prop :=
  (∀ (s : State) (a b pb fi fo an k₀ k₁ g : Bytes), s.Asked "PT" [a, b, pb, fi, fo, an] → s.LmkSound → decOf fi ≠ 4 → decOf fo ≠ 4 → s.openKey 0x1E a = some k₀ →
    s.openKey 0x1E b = some k₁ → s.bellows.given = some g →
    s.RunsPlan .legPt 0x10 {
      p := paramBlock ([(12, fmtByte fi), (13, fmtByte fo), (16, hexOf pb)] ++ anParts an)
      rnd := g.take 8, k0 := scratchKey k₀, k1 := scratchKey k₁ } fun e => [hexText e.out]) ∧
  (∀ (s : State) (a b pb fi fo an : Bytes), s.Asked "PT" [a, b, pb, fi, fo, an] → decOf fi = 4 ∨ decOf fo = 4 → ∃ t,
    exec .legPt s = .next t ∧ s.Answered t "P02" []) ∧
  (∀ (s : State) (a b pb fi fo an k₀ k₁ g : Bytes), s.Asked "PA" [a, b, pb, fi, fo, an] → s.LmkSound → decOf fi ≠ 4 → decOf fo ≠ 4 → s.openKey 0x2D a = some k₀ →
    s.openKey 0x1E b = some k₁ → s.bellows.given = some g →
    s.RunsPlan .legPa 0x10 {
      p := paramBlock ([(12, fmtByte fi), (13, fmtByte fo), (16, hexOf pb)] ++ anParts an)
      rnd := g.take 8, k0 := scratchKey k₀, k1 := scratchKey k₁ } fun e => [hexText e.out]) ∧
  (∀ (s : State) (a b pb fi fo an : Bytes), s.Asked "PA" [a, b, pb, fi, fo, an] → decOf fi = 4 ∨ decOf fo = 4 → ∃ t,
    exec .legPa s = .next t ∧ s.Answered t "P02" []) ∧
  (∀ (s : State) (a b ks pb fi fo an bdk k₀ g : Bytes) (i : Nat) (r : Route), s.Asked "PD" [a, b, ks, pb, fi, fo, an] → s.LmkSound → decOf fi ≠ 4 →
    decOf fo ≠ 4 → s.openKey 0x69 a = some bdk → s.openKey 0x1E b = some k₀ → s.bellows.given = some g →
    longest (searchIdent 1 (hexOf ks)) 0 (s.trieOf 1 0) = some (i, r) → s.routeSlotOk 1 0 r = true →
    leBytes 3 (aKcv (s.slotOf r.slot).attr) = kcvOf (ch 'T') (bdk.length / 8) bdk →
    s.RunsPlan .legPd 0x13 {
      p := paramBlock ([(0, hexOf ks), (12, fmtByte fi), (13, fmtByte fo), (16, hexOf pb)] ++ anParts an)
      rnd := g.take 8, k0 := scratchKey k₀, kr := copyOf r.slot (s.slotOf r.slot) } fun e => [hexText e.out]) ∧
  (∀ (s : State) (a b ks pb fi fo an bdk k₀ : Bytes), s.Asked "PD" [a, b, ks, pb, fi, fo, an] → s.LmkSound → decOf fi ≠ 4 → decOf fo ≠ 4 →
    s.openKey 0x69 a = some bdk → s.openKey 0x1E b = some k₀ → longest (searchIdent 1 (hexOf ks)) 0 (s.trieOf 1 0) = none → ∃ t,
    exec .legPd s = .next t ∧ s.Answered t "D01" []) ∧
  (∀ (s : State) (a b ks pb fi fo an bdk k₀ : Bytes) (i : Nat) (r : Route), s.Asked "PD" [a, b, ks, pb, fi, fo, an] → s.LmkSound → decOf fi ≠ 4 →
    decOf fo ≠ 4 → s.openKey 0x69 a = some bdk → s.openKey 0x1E b = some k₀ →
    longest (searchIdent 1 (hexOf ks)) 0 (s.trieOf 1 0) = some (i, r) →
    leBytes 3 (aKcv (s.slotOf r.slot).attr) ≠ kcvOf (ch 'T') (bdk.length / 8) bdk → ∃ t, exec .legPd s = .next t ∧
      s.Answered t "K02" []) ∧
  (∀ (s : State) (f : List Bytes) (c : Instr) (code : String), (c, code) ∈ [(Instr.legPv, "PV"), (.legPw, "PW"), (.legPx, "PX"),
      (.legPy, "PY")] → s.Asked code f → decOf (fld f 3) = 4 → ∃ t, exec c s = .next t ∧ s.Answered t "P02" []) ∧
  (∀ (s : State) (a b pb fi an vd tab off n k₀ k₁ : Bytes), s.Asked "PV" [a, b, pb, fi, an, vd, tab, off, n] → s.LmkSound → decOf fi ≠ 4 →
    s.openKey 0x1E a = some k₀ → s.openKey 0x3C b = some k₁ →
    s.RunsVerify .legPv 0x20 {
      p := paramBlock ([(12, fmtByte fi), (16, hexOf pb), (48, hexOf vd), (56, hexOf tab), (64, hexOf off),
        (70, [BitVec.ofNat 8 (decOf n)])] ++ anParts an)
      k0 := scratchKey k₀, k1 := scratchKey k₁ } fun _ => []) ∧
  (∀ (s : State) (a b pb fi an vd tab off n k₀ k₁ : Bytes), s.Asked "PW" [a, b, pb, fi, an, vd, tab, off, n] → s.LmkSound → decOf fi ≠ 4 →
    s.openKey 0x2D a = some k₀ → s.openKey 0x3C b = some k₁ →
    s.RunsVerify .legPw 0x20 {
      p := paramBlock ([(12, fmtByte fi), (16, hexOf pb), (48, hexOf vd), (56, hexOf tab), (64, hexOf off),
        (70, [BitVec.ofNat 8 (decOf n)])] ++ anParts an)
      k0 := scratchKey k₀, k1 := scratchKey k₁ } fun _ => []) ∧
  (∀ (s : State) (a b pb fi an ki pvv k₀ k₁ : Bytes), s.Asked "PX" [a, b, pb, fi, an, ki, pvv] → s.LmkSound → decOf fi ≠ 4 →
    s.openKey 0x1E a = some k₀ → s.openKey 0x3C b = some k₁ →
    s.RunsVerify .legPx 0x21 {
      p := paramBlock ([(12, fmtByte fi), (16, hexOf pb), (48, fmtByte ki), (49, hexOf pvv)] ++ anParts an)
      k0 := scratchKey k₀, k1 := scratchKey k₁ } fun _ => []) ∧
  (∀ (s : State) (a b pb fi an ki pvv k₀ k₁ : Bytes), s.Asked "PY" [a, b, pb, fi, an, ki, pvv] → s.LmkSound → decOf fi ≠ 4 →
    s.openKey 0x2D a = some k₀ → s.openKey 0x3C b = some k₁ →
    s.RunsVerify .legPy 0x21 {
      p := paramBlock ([(12, fmtByte fi), (16, hexOf pb), (48, fmtByte ki), (49, hexOf pvv)] ++ anParts an)
      k0 := scratchKey k₀, k1 := scratchKey k₁ } fun _ => [])

/-- R546, R549: with the LMK's slot sound, and with what the Hearth drew where a plan needs it, the card verification, ARQC, MAC and
cipher commands fill their plans from their fields and answer by their end; the cipher commands answer the data under the data key -/
def Obligations.LegacyCardsMacsAndCiphers : Prop :=
  (∀ (s : State) (a af ex sc n k : Bytes), s.Asked "VG" [a, af, ex, sc, n] → s.LmkSound → s.openKey 0x4B a = some k →
    s.RunsPlan .legVg 0x30 {
      p := paramBlock (afParts af ++ [(48, hexOf ex), (50, Payment.ofNibs (digitsOf sc ++ [15])), (52, fmtByte n)] ++ [])
      k0 := scratchKey k } fun e => [e.result.take (decOf n)]) ∧
  (∀ (s : State) (a af ex sc n val k : Bytes), s.Asked "VV" [a, af, ex, sc, n, val] → s.LmkSound → s.openKey 0x4B a = some k →
    s.RunsVerify .legVv 0x31 {
      p := paramBlock (afParts af ++ [(48, hexOf ex), (50, Payment.ofNibs (digitsOf sc ++ [15])), (52, fmtByte n)] ++
        [(53, Payment.ofNibs (Payment.fill 6 15 (digitsOf val)))])
      k0 := scratchKey k } fun _ => []) ∧
  (∀ (s : State) (a af ex n k : Bytes), s.Asked "VH" [a, af, ex, n] → s.LmkSound → s.openKey 0x4B a = some k →
    s.RunsPlan .legVh 0x30 {
      p := paramBlock (afParts af ++ [(48, hexOf ex), (50, Payment.ofNibs (digitsOf (ascii "000") ++ [15])), (52, fmtByte n)] ++ [])
      k0 := scratchKey k } fun e => [e.result.take (decOf n)]) ∧
  (∀ (s : State) (a af ex n val k : Bytes), s.Asked "VJ" [a, af, ex, n, val] → s.LmkSound → s.openKey 0x4B a = some k →
    s.RunsVerify .legVj 0x31 {
      p := paramBlock (afParts af ++ [(48, hexOf ex), (50, Payment.ofNibs (digitsOf (ascii "000") ++ [15])), (52, fmtByte n)] ++
        [(53, Payment.ofNibs (Payment.fill 6 15 (digitsOf val)))])
      k0 := scratchKey k } fun _ => []) ∧
  (∀ (s : State) (a af ex n k : Bytes), s.Asked "VK" [a, af, ex, n] → s.LmkSound → s.openKey 0x4B a = some k →
    s.RunsPlan .legVk 0x30 {
      p := paramBlock (afParts af ++ [(48, hexOf ex), (50, Payment.ofNibs (digitsOf (ascii "999") ++ [15])), (52, fmtByte n)] ++ [])
      k0 := scratchKey k } fun e => [e.result.take (decOf n)]) ∧
  (∀ (s : State) (a af ex n val k : Bytes), s.Asked "VL" [a, af, ex, n, val] → s.LmkSound → s.openKey 0x4B a = some k →
    s.RunsVerify .legVl 0x31 {
      p := paramBlock (afParts af ++ [(48, hexOf ex), (50, Payment.ofNibs (digitsOf (ascii "999") ++ [15])), (52, fmtByte n)] ++
        [(53, Payment.ofNibs (Payment.fill 6 15 (digitsOf val)))])
      k0 := scratchKey k } fun _ => []) ∧
  (∀ (s : State) (a af psn atc ac l k : Bytes), s.Asked "QV" [a, af, psn, atc, ac, l] → s.LmkSound → s.openKey 0x87 a = some k →
    s.RunsVerify .legQv 0x40 {
      p := paramBlock (afParts af ++ [(15, hexOf psn), (64, hexOf atc), (48, hexOf ac), (62, [0, 0])] ++ [])
      data := hexOf (l.drop 4), k0 := scratchKey k } fun _ => []) ∧
  (∀ (s : State) (a af psn atc ac l x k g : Bytes), s.Asked "QA" [a, af, psn, atc, ac, l, x] → s.LmkSound → s.openKey 0x87 a = some k → s.bellows.given = some g →
    s.RunsVerify .legQa 0x41 {
      p := paramBlock (afParts af ++ [(15, hexOf psn), (64, hexOf atc), (48, hexOf ac), (62, [1, 0])] ++ [(56, hexOf x)])
      data := hexOf (l.drop 4), rnd := g.take 8, k0 := scratchKey k } fun e => [hexText e.out]) ∧
  (∀ (s : State) (a af psn atc ac l x k g : Bytes), s.Asked "QB" [a, af, psn, atc, ac, l, x] → s.LmkSound → s.openKey 0x87 a = some k → s.bellows.given = some g →
    s.RunsVerify .legQb 0x41 {
      p := paramBlock (afParts af ++ [(15, hexOf psn), (64, hexOf atc), (48, hexOf ac), (62, [2, 0])] ++ [(58, hexOf x)])
      data := hexOf (l.drop 4), rnd := g.take 8, k0 := scratchKey k } fun e => [hexText e.out]) ∧
  (∀ (s : State) (a af psn atc ac l k : Bytes), s.Asked "QW" [a, af, psn, atc, ac, l] → s.LmkSound → s.openKey 0x87 a = some k →
    s.RunsVerify .legQw 0x40 {
      p := paramBlock (afParts af ++ [(15, hexOf psn), (64, hexOf atc), (48, hexOf ac), (62, [0, 1])] ++ [])
      data := hexOf (l.drop 4), k0 := scratchKey k } fun _ => []) ∧
  (∀ (s : State) (a af psn atc ac l x k g : Bytes), s.Asked "QX" [a, af, psn, atc, ac, l, x] → s.LmkSound → s.openKey 0x87 a = some k → s.bellows.given = some g →
    s.RunsVerify .legQx 0x41 {
      p := paramBlock (afParts af ++ [(15, hexOf psn), (64, hexOf atc), (48, hexOf ac), (62, [1, 1])] ++ [(56, hexOf x)])
      data := hexOf (l.drop 4), rnd := g.take 8, k0 := scratchKey k } fun e => [hexText e.out]) ∧
  (∀ (s : State) (a af psn atc ac l x k g : Bytes), s.Asked "QY" [a, af, psn, atc, ac, l, x] → s.LmkSound → s.openKey 0x87 a = some k → s.bellows.given = some g →
    s.RunsVerify .legQy 0x41 {
      p := paramBlock (afParts af ++ [(15, hexOf psn), (64, hexOf atc), (48, hexOf ac), (62, [2, 1])] ++ [(58, hexOf x)])
      data := hexOf (l.drop 4), rnd := g.take 8, k0 := scratchKey k } fun e => [hexText e.out]) ∧
  (∀ (s : State) (a n pd l k : Bytes), s.Asked "MG" [a, n, pd, l] → s.LmkSound → s.openKey 0x5A a = some k → pd = [0x31] ∨ pd = [0x32] →
    s.RunsPlan .legMg 0x50 {
      p := paramBlock [(48, [BitVec.ofNat 8 (decOf n), if pd = [0x31] then 3 else 0])]
      data := hexOf (l.drop 4), k0 := scratchKey k } fun e => [hexText (e.result.take (decOf n))]) ∧
  (∀ (s : State) (a n pd l mac k : Bytes), s.Asked "MV" [a, n, pd, l, mac] → s.LmkSound → s.openKey 0x5A a = some k → pd = [0x31] ∨ pd = [0x32] →
    s.RunsVerify .legMv 0x51 {
      p := paramBlock [(48, [BitVec.ofNat 8 (decOf n), if pd = [0x31] then 3 else 0]), (56, hexOf mac)]
      data := hexOf (l.drop 4), k0 := scratchKey k } fun _ => []) ∧
  (∀ (s : State) (a iv l k : Bytes), s.Asked "DE" [a, iv, l] → s.LmkSound → s.openKey 0x78 a = some k → ∃ t,
    exec .legDe s = .next t ∧ s.Answered t "A00" [dataText (Modes.cbcEnc (Des.enc k) 8 (hexOf iv) (hexOf (l.drop 4)))]) ∧
  (∀ (s : State) (a iv l k : Bytes), s.Asked "DD" [a, iv, l] → s.LmkSound → s.openKey 0x78 a = some k → ∃ t,
    exec .legDd s = .next t ∧ s.Answered t "A00" [dataText (Modes.cbcDec (Des.dec k) 8 (hexOf iv) (hexOf (l.drop 4)))]) ∧
  (∀ (s : State) (a l k : Bytes), s.Asked "EE" [a, l] → s.LmkSound → s.openKey 0x78 a = some k → ∃ t,
    exec .legEe s = .next t ∧ s.Answered t "A00" [dataText (Modes.ecb (Des.enc k) 8 (hexOf (l.drop 4)))]) ∧
  (∀ (s : State) (a l k : Bytes), s.Asked "ED" [a, l] → s.LmkSound → s.openKey 0x78 a = some k → ∃ t,
    exec .legEd s = .next t ∧ s.Answered t "A00" [dataText (Modes.ecb (Des.dec k) 8 (hexOf (l.drop 4)))])

/-! ### The machine as a whole -/

/-- A step takes the command at the front of the queue and runs it on the state with the queue's rest; with no command waiting the block
idles for a period of its reference (log 1). -/
def Obligations.StepRunsCommand : Prop :=
  (∀ (c : Instr) (s : State) (rest : List Instr), s.pending = c :: rest → step s = exec c { s with pending := rest }) ∧
  ∀ s : State, s.pending = [] → step s = .next { s with now := s.now + 40 }

/-- No run of the machine ends: from every state every number of steps answers a next state. Every command takes effect: none ends in a
fault or a refusal. -/
def Obligations.RunsAreSafe : Prop :=
  (∀ s : State, s.Safe) ∧
  (∀ (c : Instr) (s : State), ∃ t, exec c s = .next t)

/-- R45, R72, R374, R391, R408, R416, R538: after reset the chip is in START, configuration requests get retry status, no command waits,
no queue is enabled, the Rack is empty, both worlds are starting, the mailbox and the legacy window are clear, the protection units have
their secret permissions, every line has colour 0, every register of a core is 0 and POISON with FL 0, and the Bench cores stand at the
image entry. No word spells a command: the table gives its rows no bits. -/
def Obligations.ResetState : Prop :=
  State.reset.pending = [] ∧ State.reset.chip.state = .start ∧ State.reset.chip.crs = true ∧ State.reset.queues = [] ∧
    State.reset.engine.tasks = [] ∧ (∀ n, State.reset.slotOf n = {}) ∧ State.reset.worlds.hearth.status = 0 ∧
    State.reset.worlds.bench.status = 0 ∧ State.reset.worlds.vaultUp = false ∧ State.reset.worlds.go = false ∧
    State.reset.worlds.done = false ∧ State.reset.worlds.overrun = false ∧ State.reset.legacy.busy = false ∧
    State.reset.legacy.count = 0 ∧ State.reset.zwm.hearthMpu.secret = 0x7FFF ∧ State.reset.zwm.benchMpu.secret = 0 ∧
    (∀ l, l < 8192 → State.reset.lineColour .sram (0x100000 + 64 * l) = 0) ∧
    (∀ l, l < 65536 → State.reset.lineColour .bsram (0x400000 + 64 * l) = 0) ∧
    (∀ c r, State.reset.reg c r = { val := 0, tag := tPoison }) ∧ (∀ c, (State.reset.coreOf c).fl = 0) ∧
    (∀ c, 1 ≤ c → c ≤ 4 → (State.reset.coreOf c).pc = 0x400000) ∧
    (∀ nbits w, decodeTableWord nbits w = none)

/-- The invariants of the Rack and of the queues of events hold after reset. -/
def Obligations.InvariantsAtReset : Prop :=
  State.reset.RackSound ∧ State.reset.QueuesBounded

/-- Every step keeps the Rack in canonical form, whatever the state it starts from. -/
def Obligations.RackStaysSound : Prop :=
  ∀ s t : State, s.RackSound → step s = .next t → t.RackSound

/-- R442, R516: every step keeps the event queue at 256 records or fewer and the battery-backed buffer at 64 or fewer. -/
def Obligations.EventQueuesStayBounded : Prop :=
  ∀ s t : State, s.QueuesBounded → step s = .next t → t.QueuesBounded

/-- R447, R448: no command clears a life-cycle fuse: a stage bit, a consumed token or a relock that was set stays set, so that a device in
PROD never returns to a test or development state and SCRAP is final. -/
def Obligations.LifeCycleIsOneWay : Prop :=
  ∀ (c : Instr) (s t : State), exec c s = .next t →
    (∀ b, s.life.stage.getLsbD b = true → t.life.stage.getLsbD b = true) ∧
    (∀ b, s.life.tokenUsed.getLsbD b = true → t.life.tokenUsed.getLsbD b = true) ∧
    (∀ b, s.life.relock.getLsbD b = true → t.life.relock.getLsbD b = true) ∧
    (4 ≤ s.lifeCode → s.lifeCode ≤ t.lifeCode)

/-- No command changes the queue of the commands that wait: only a step takes one from it. -/
def Obligations.QueueUntouched : Prop :=
  ∀ (c : Instr) (s t : State), exec c s = .next t → t.pending = s.pending
end

