-- ==== Sys2Proof/Laws/Wrap.lean ====
section
/-!
SUPPORT. AES decryption inverts AES encryption, and a key wrap built on a block cipher is opened by the cipher's inverse (the
standards that R4 names).
-/
namespace Sys2Proof.Machine

theorem xorB_length : ∀ a b : Bytes, (xorB a b).length = a.length
  | [], _ => rfl
  | _ :: _, [] => rfl
  | _ :: s, _ :: t => congrArg (· + 1) (xorB_length s t)

theorem xorB_xorB : ∀ a b : Bytes, xorB (xorB a b) b = a
  | [], _ => rfl
  | _ :: _, [] => rfl
  | x :: s, y :: t => by simp [xorB, xorB_xorB s t]

theorem xorB_nil : ∀ a : Bytes, xorB a [] = a
  | [] => rfl
  | _ :: _ => rfl

theorem leBytes_length : ∀ n v, (leBytes n v).length = n
  | 0, _ => rfl
  | n + 1, v => congrArg (· + 1) (leBytes_length n (v / 256))

theorem fit_of_length {n : Nat} {b : Bytes} (h : b.length = n) : fit n b = b := by
  simp [fit, h, List.take_of_length_le]

theorem leNat_leBytes : ∀ n v, leNat (leBytes n v) = v % 256 ^ n
  | 0, v => by simp [leBytes, leNat, Nat.mod_one]
  | n + 1, v => by
    rw [leBytes, leNat, leNat_leBytes n, Nat.pow_succ', Nat.mod_mul, BitVec.toNat_ofNat]

theorem beNat_beBytes (n v : Nat) : beNat (beBytes n v) = v % 256 ^ n := by rw [beNat, beBytes, List.reverse_reverse, leNat_leBytes]

/-- Pieces of `n` bytes: enough fuel cuts a string of whole pieces into them. -/
theorem chunksFuel_flatten {n : Nat} (hn : 0 < n) : ∀ (rs : List Bytes) (f : Nat), (∀ r ∈ rs, r.length = n) → rs.length ≤ f →
    chunksFuel n f rs.flatten = rs
  | [], 0, _, _ => rfl
  | [], _ + 1, _, _ => rfl
  | r :: rs, f + 1, h, hf => by
    have hr : r.length = n := h r (List.mem_cons_self ..)
    obtain ⟨b, t, rfl⟩ : ∃ b t, r = b :: t := by
      cases r with
      | nil => simp at hr; omega
      | cons b t => exact ⟨b, t, rfl⟩
    have e : chunksFuel n (f + 1) ((b :: t) :: rs).flatten =
        ((b :: t) ++ rs.flatten).take n :: chunksFuel n f (((b :: t) ++ rs.flatten).drop n) := rfl
    rw [e, ← hr, List.take_left, List.drop_left, hr,
      chunksFuel_flatten hn rs f (fun x hx => h x (List.mem_cons_of_mem _ hx)) (by simpa using hf)]

theorem flatten_length {n : Nat} : ∀ rs : List Bytes, (∀ r ∈ rs, r.length = n) → rs.flatten.length = n * rs.length
  | [], _ => by simp
  | r :: rs, h => by
    simp only [List.flatten_cons, List.length_append, h r (List.mem_cons_self ..), List.length_cons,
      flatten_length rs fun x hx => h x (List.mem_cons_of_mem _ hx), Nat.mul_succ]
    omega

theorem chunks_flatten {n : Nat} (hn : 0 < n) (rs : List Bytes) (h : ∀ r ∈ rs, r.length = n) : chunks n rs.flatten = rs :=
  chunksFuel_flatten hn rs _ h (by rw [flatten_length rs h]; exact Nat.le_mul_of_pos_left _ hn)

/-- A string of whole pieces is what its pieces make together. -/
theorem whole_pieces {n : Nat} (hn : 0 < n) : ∀ (k : Nat) (m : Bytes), m.length = n * k → ∃ rs : List Bytes,
    m = rs.flatten ∧ (∀ r ∈ rs, r.length = n) ∧ rs.length = k
  | 0, m, h => ⟨[], by simpa using h, by simp, rfl⟩
  | k + 1, m, h => by
    have hm : n ≤ m.length := by rw [h, Nat.mul_succ]; omega
    obtain ⟨rs, e, hl, hk⟩ := whole_pieces hn k (m.drop n) (by rw [List.length_drop, h, Nat.mul_succ]; omega)
    refine ⟨m.take n :: rs, by rw [List.flatten_cons, ← e, List.take_append_drop], ?_, by simp [hk]⟩
    intro r hr
    rcases List.mem_cons.mp hr with rfl | hr
    · simp [hm]
    · exact hl r hr

/-- A string of sixteen bytes, byte by byte. -/
theorem list16 (l : Bytes) (h : l.length = 16) : l = (List.range 16).map fun i => byteAt l i :=
  List.ext_getElem (by simp [h]) fun i h1 h2 => by simp [byteAt, List.getD_eq_getElem?_getD, List.getElem?_eq_getElem h1]

/-! ### Checks over all bytes -/

theorem all_bytes (p : Byte → Bool) (h : ((List.range 256).all fun n => p (BitVec.ofNat 8 n)) = true) (b : Byte) : p b = true := by
  simpa using List.all_eq_true.mp h b.toNat (List.mem_range.mpr b.isLt)

/-- `k b`, with the byte evaluated before it is used. -/
def strictly (b : Byte) (k : Byte → Byte) : Byte :=
  match b.toNat with
  | 0 => k 0
  | n + 1 => k (BitVec.ofNat 8 (n + 1))

theorem strictly_eq (b : Byte) (k : Byte → Byte) : strictly b k = k b := by
  unfold strictly
  split
  · next h => exact congrArg k (BitVec.eq_of_toNat_eq (by simpa using h.symm))
  · next n h => exact congrArg k (BitVec.eq_of_toNat_eq (by simp [← Nat.succ_eq_add_one, ← h]))

theorem xor_self_left (a b : Byte) : a ^^^ (a ^^^ b) = b := by rw [← BitVec.xor_assoc, BitVec.xor_self, BitVec.zero_xor]

namespace Aes

/-! ### The field -/

/-- `gmul` with its arguments evaluated first. -/
def gmulS (a b : Byte) : Byte :=
  strictly a fun a => strictly b fun b =>
    (List.range 8).foldr (fun i acc => strictly acc fun acc => xtime acc ^^^ (if b.getLsbD i then a else 0)) 0

theorem gmulS_eq (a b : Byte) : gmulS a b = gmul a b := by simp only [gmulS, gmul, strictly_eq]

/-- `ginv` with each power evaluated once. -/
def ginvS (a : Byte) : Byte :=
  strictly (gmulS a a) fun a2 => strictly (gmulS a2 a) fun a3 => strictly (gmulS a3 a3) fun a6 => strictly (gmulS a6 a6) fun a12 =>
    strictly (gmulS a12 a3) fun a15 => strictly (gmulS a15 a15) fun a30 => strictly (gmulS a30 a30) fun a60 =>
      strictly (gmulS a60 a60) fun a120 => strictly (gmulS a120 a120) fun a240 => gmulS (gmulS a240 a12) a2

theorem ginvS_eq (a : Byte) : ginvS a = ginv a := by simp only [ginvS, ginv, strictly_eq, gmulS_eq]

/-- The S-box is the affine map of FIPS 197 after the inverse in the field. -/
theorem sub_affine (b : Byte) : sub b =
    ginv b ^^^ (ginv b).rotateLeft 1 ^^^ (ginv b).rotateLeft 2 ^^^ (ginv b).rotateLeft 3 ^^^ (ginv b).rotateLeft 4 ^^^ 0x63 := by
  have h := of_decide_eq_true (all_bytes (fun b => decide (sub b = strictly (ginvS b) fun i =>
    i ^^^ i.rotateLeft 1 ^^^ i.rotateLeft 2 ^^^ i.rotateLeft 3 ^^^ i.rotateLeft 4 ^^^ 0x63)) (by decide +kernel) b)
  rwa [strictly_eq, ginvS_eq] at h

theorem invSub_sub (b : Byte) : invSub (sub b) = b := by
  have h := of_decide_eq_true (all_bytes (fun b => decide (strictly (sub b) invSub = b)) (by decide +kernel) b)
  rwa [strictly_eq] at h

theorem xtime_xor (x y : Byte) : xtime (x ^^^ y) = xtime x ^^^ xtime y := by
  unfold xtime
  rw [BitVec.shiftLeft_xor_distrib, BitVec.getLsbD_xor]
  generalize x <<< 1 = u
  generalize y <<< 1 = v
  cases x.getLsbD 7 <;> cases y.getLsbD 7 <;> simp
  · ac_rfl
  · ac_rfl
  · rw [show u ^^^ 27#8 ^^^ (v ^^^ 27#8) = 27#8 ^^^ (27#8 ^^^ (u ^^^ v)) by ac_rfl, xor_self_left]

theorem gmul_xor (a x y : Byte) : gmul a (x ^^^ y) = gmul a x ^^^ gmul a y := by
  unfold gmul
  generalize List.range 8 = l
  induction l with
  | nil => simp
  | cons i l ih =>
    simp only [List.foldr_cons]
    rw [ih, xtime_xor, BitVec.getLsbD_xor]
    generalize xtime _ = u
    generalize xtime _ = v
    cases x.getLsbD i <;> cases y.getLsbD i <;> simp
    · ac_rfl
    · ac_rfl
    · rw [show u ^^^ a ^^^ (v ^^^ a) = a ^^^ (a ^^^ (u ^^^ v)) by ac_rfl, xor_self_left]

/-! ### MixColumns -/

/-- A byte as the sum of its bits. -/
theorem byte_sum (x : Byte) : x = (List.range 8).foldr (fun i acc => acc ^^^ (if x.getLsbD i then BitVec.ofNat 8 (2 ^ i) else 0)) 0 :=
  of_decide_eq_true (all_bytes (fun x => decide (x = (List.range 8).foldr (fun i acc => acc ^^^
    (if x.getLsbD i then BitVec.ofNat 8 (2 ^ i) else 0)) 0)) (by decide +kernel) x)

/-- A linear map that vanishes on every bit is zero. -/
theorem linear_zero (f : Byte → Byte) (hf : ∀ x y, f (x ^^^ y) = f x ^^^ f y)
    (h : ((List.range 8).all fun i => decide (f (BitVec.ofNat 8 (2 ^ i)) = 0)) = true) (x : Byte) : f x = 0 := by
  have h0 : f 0 = 0 := by simpa using hf 0 0
  rw [byte_sum x]
  have h' : ∀ i ∈ List.range 8, f (BitVec.ofNat 8 (2 ^ i)) = 0 := fun i hi => of_decide_eq_true (List.all_eq_true.mp h i hi)
  generalize List.range 8 = l at h'
  induction l with
  | nil => exact h0
  | cons i l ih =>
    rw [List.foldr_cons, hf, ih fun j hj => h' j (List.mem_cons_of_mem _ hj)]
    split
    · rw [h' i (List.mem_cons_self ..)]; rfl
    · rw [h0]; rfl

/-- What a byte of a column contributes to one byte of the product of the two matrices. -/
def mixTerm (p q r s x : Byte) : Byte :=
  gmulS 14 (gmulS p x) ^^^ gmulS 11 (gmulS q x) ^^^ gmulS 13 (gmulS r x) ^^^ gmulS 9 (gmulS s x)

theorem mixTerm_eq (p q r s x : Byte) : gmul 14 (gmul p x) ^^^ gmul 11 (gmul q x) ^^^ gmul 13 (gmul r x) ^^^ gmul 9 (gmul s x) =
    mixTerm p q r s x := by simp only [mixTerm, gmulS_eq]

theorem mixTerm_xor (p q r s x y : Byte) : mixTerm p q r s (x ^^^ y) = mixTerm p q r s x ^^^ mixTerm p q r s y := by
  simp only [← mixTerm_eq, gmul_xor]
  ac_rfl

theorem mixTerm_self (x : Byte) : mixTerm 2 1 1 3 x = x := by
  have h := linear_zero (fun x => mixTerm 2 1 1 3 x ^^^ x) (fun x y => by simp only [mixTerm_xor]; ac_rfl) (by decide +kernel) x
  simpa using h

theorem mixTerm_next (x : Byte) : mixTerm 3 2 1 1 x = 0 := linear_zero _ (mixTerm_xor 3 2 1 1) (by decide +kernel) x

theorem mixTerm_over (x : Byte) : mixTerm 1 3 2 1 x = 0 := linear_zero _ (mixTerm_xor 1 3 2 1) (by decide +kernel) x

theorem mixTerm_last (x : Byte) : mixTerm 1 1 3 2 x = 0 := linear_zero _ (mixTerm_xor 1 1 3 2) (by decide +kernel) x

/-- One byte of a column under both matrices, from its four bytes in turn. -/
theorem mixColumn (a b c d : Byte) :
    gmul 14 (gmul 2 a ^^^ gmul 3 b ^^^ gmul 1 c ^^^ gmul 1 d) ^^^ gmul 11 (gmul 1 a ^^^ gmul 2 b ^^^ gmul 3 c ^^^ gmul 1 d) ^^^
      gmul 13 (gmul 1 a ^^^ gmul 1 b ^^^ gmul 2 c ^^^ gmul 3 d) ^^^ gmul 9 (gmul 3 a ^^^ gmul 1 b ^^^ gmul 1 c ^^^ gmul 2 d) = a := by
  have e : mixTerm 2 1 1 3 a ^^^ mixTerm 3 2 1 1 b ^^^ mixTerm 1 3 2 1 c ^^^ mixTerm 1 1 3 2 d = a := by
    rw [mixTerm_self, mixTerm_next, mixTerm_over, mixTerm_last]; simp
  refine Eq.trans ?_ e
  simp only [← mixTerm_eq, gmul_xor]
  ac_rfl

/-- A column under a matrix. -/
def mixCol (m col : Bytes) : Bytes := (List.range 4).map fun r => mixByte m col r

theorem mixCol_mixCol (a b c d : Byte) : mixCol [14, 11, 13, 9] (mixCol [2, 3, 1, 1] [a, b, c, d]) = [a, b, c, d] := by
  simp only [mixCol, mixByte, List.range_succ, List.range_zero, byteAt]
  simp
  refine ⟨mixColumn a b c d, Eq.trans ?_ (mixColumn b c d a), Eq.trans ?_ (mixColumn c d a b), Eq.trans ?_ (mixColumn d a b c)⟩ <;> ac_rfl

theorem mix_mix (s : Bytes) (h : s.length = 16) : mix [14, 11, 13, 9] (mix [2, 3, 1, 1] s) = s :=
  match s, h with
  | [a, b, c, d, e, f, g, i, j, k, l, m, n, o, p, q], _ => by
    change mixCol _ (mixCol _ [a, b, c, d]) ++ (mixCol _ (mixCol _ [e, f, g, i]) ++ (mixCol _ (mixCol _ [j, k, l, m]) ++
      (mixCol _ (mixCol _ [n, o, p, q]) ++ []))) = _
    simp only [mixCol_mixCol]
    rfl

theorem invShiftRows_shiftRows (s : Bytes) (h : s.length = 16) : invShiftRows (shiftRows s) = s :=
  match s, h with
  | [_, _, _, _, _, _, _, _, _, _, _, _, _, _, _, _], _ => rfl

/-! ### Rounds -/

/-- The bytes of a state through the S-box and ShiftRows. -/
def stir (s : Bytes) : Bytes := shiftRows (s.map sub)

theorem stir_length (s : Bytes) : (stir s).length = 16 := by simp [stir, shiftRows]

theorem unstir (s : Bytes) (h : s.length = 16) : (invShiftRows (stir s)).map invSub = s := by
  rw [stir, invShiftRows_shiftRows _ (by simpa using h), List.map_map]
  exact (List.map_congr_left fun b _ => invSub_sub b).trans (List.map_id s)

theorem mix_length (m s : Bytes) : (mix m s).length = 16 := by simp [mix]

/-- The state after the inner rounds. -/
def inner : List Bytes → Bytes → Bytes
  | [], s => s
  | k :: ks, s => inner ks (xorB (mix [2, 3, 1, 1] (stir s)) k)

theorem inner_length : ∀ (ks : List Bytes) (s : Bytes), s.length = 16 → (inner ks s).length = 16
  | [], _, h => h
  | k :: ks, s, _ => inner_length ks _ (by rw [xorB_length, mix_length])

theorem inner_snoc (k : Bytes) : ∀ (ks : List Bytes) (s : Bytes), inner (ks ++ [k]) s = xorB (mix [2, 3, 1, 1] (stir (inner ks s))) k
  | [], _ => rfl
  | x :: ks, s => inner_snoc k ks (xorB (mix [2, 3, 1, 1] (stir s)) x)

theorem encRounds_snoc (k : Bytes) : ∀ (ks : List Bytes) (s : Bytes), encRounds (ks ++ [k]) s = xorB (stir (inner ks s)) k
  | [], _ => rfl
  | [x], s => by rw [List.cons_append]; exact encRounds_snoc k [] _
  | x :: y :: ks, s => by
    rw [List.cons_append]
    exact encRounds_snoc k (y :: ks) (xorB (mix [2, 3, 1, 1] (stir s)) x)

theorem decRounds_stir (k₀ : Bytes) (b : Bytes) (h : b.length = 16) : ∀ ks : List Bytes,
    decRounds (ks ++ [k₀]) (stir (inner ks.reverse (xorB b k₀))) = b := by
  intro ks
  induction ks with
  | nil => exact (congrArg (xorB · k₀) (unstir _ (by rw [List.reverse_nil, inner, xorB_length, h]))).trans (xorB_xorB b k₀)
  | cons k ks ih =>
    rw [List.reverse_cons, inner_snoc, List.cons_append]
    have hl : (inner ks.reverse (xorB b k₀)).length = 16 := inner_length _ _ (by rw [xorB_length, h])
    have e : decRounds (k :: (ks ++ [k₀])) (stir (xorB (mix [2, 3, 1, 1] (stir (inner ks.reverse (xorB b k₀)))) k)) =
        decRounds (ks ++ [k₀]) (mix [14, 11, 13, 9] (xorB ((invShiftRows (stir (xorB (mix [2, 3, 1, 1]
          (stir (inner ks.reverse (xorB b k₀)))) k))).map invSub) k)) := by
      cases ks <;> rfl
    rw [e, unstir _ (by rw [xorB_length, mix_length]), xorB_xorB, mix_mix _ (stir_length _)]
    exact ih

/-- Decryption under the same round keys gives back the block. -/
theorem decWith_encWith (ks : List Bytes) (b : Bytes) (h : b.length = 16) : decWith ks (encWith ks b) = b := by
  match ks with
  | [] => simp [decWith, encWith, encRounds, decRounds, fit_of_length h, xorB_nil]
  | [k₀] =>
    have hx : (xorB b k₀).length = 16 := by rw [xorB_length, h]
    simp [decWith, encWith, encRounds, decRounds, fit_of_length h, fit_of_length hx, xorB_xorB]
  | k₀ :: x :: t =>
    obtain ⟨r, k, hk⟩ : ∃ r k, x :: t = r ++ [k] :=
      ⟨(x :: t).dropLast, (x :: t).getLast (by simp), (List.dropLast_append_getLast _).symm⟩
    have hl : (xorB (stir (inner r (xorB b k₀))) k).length = 16 := by rw [xorB_length, stir_length]
    simp only [decWith, encWith, hk, List.tail_cons, List.headD_cons, fit_of_length h, encRounds_snoc, fit_of_length hl,
      List.reverse_cons, List.reverse_append, List.reverse_nil, List.nil_append, List.cons_append, xorB_xorB]
    simpa using decRounds_stir k₀ b h r.reverse

theorem encWith_length (ks : List Bytes) (b : Bytes) : (encWith ks b).length = 16 := by
  have hf : (fit 16 b).length = 16 := by simp [fit]; omega
  match ks with
  | [] => simp [encWith, encRounds, xorB_length, hf]
  | [k₀] => simp [encWith, encRounds, xorB_length, hf]
  | k₀ :: x :: t =>
    obtain ⟨r, k, hk⟩ : ∃ r k, x :: t = r ++ [k] :=
      ⟨(x :: t).dropLast, (x :: t).getLast (by simp), (List.dropLast_append_getLast _).symm⟩
    simp only [encWith, hk, List.tail_cons, encRounds_snoc, xorB_length, stir_length]

end Aes

namespace Modes

/-! ### Key wraps: `g` opens what `f` wraps -/

/-- A register of eight bytes and `n` semiblocks. -/
def Semi (n : Nat) (st : Bytes × List Bytes) : Prop := st.1.length = 8 ∧ st.2.length = n ∧ ∀ r ∈ st.2, r.length = 8

variable (f g : Blk) (hf : ∀ b, (f b).length = 16) (hg : ∀ b : Bytes, b.length = 16 → g (f b) = b)

include hf in
theorem kwStep_semi {n : Nat} {st : Bytes × List Bytes} (h : Semi n st) (t : Nat) : Semi n (kwStep f n st t) := by
  refine ⟨by simp [kwStep, xorB_length, hf], by simp [kwStep, h.2.1], fun r hr => ?_⟩
  rcases List.mem_or_eq_of_mem_set hr with hr | rfl
  · exact h.2.2 r hr
  · simp [hf]

include hg in
theorem kwUnstep_kwStep {n : Nat} {st : Bytes × List Bytes} (h : Semi n st) (hn : 0 < n) (t : Nat) :
    kwUnstep g n (kwStep f n st t) t = st := by
  obtain ⟨a, rs⟩ := st
  obtain ⟨ha, hr, hl⟩ := h
  have hi : (t - 1) % n < rs.length := Nat.lt_of_lt_of_eq (Nat.mod_lt _ hn) hr.symm
  have e : rs.getD ((t - 1) % n) [] = rs[(t - 1) % n] := by simp [List.getD_eq_getElem?_getD, hi]
  have hb : (a ++ rs[(t - 1) % n]).length = 16 := by
    rw [List.length_append, hl _ (List.getElem_mem _)]; exact congrArg (· + 8) ha
  have e' (x : Bytes) : (rs.set ((t - 1) % n) x).getD ((t - 1) % n) [] = x := by simp [List.getD_eq_getElem?_getD, hi]
  have ha' : a.length = 8 := ha
  simp only [kwUnstep, kwStep, xorB_xorB, e, e', List.take_append_drop, hg _ hb, List.set_set]
  rw [List.take_left' ha', List.drop_left' ha', List.set_getElem_self]

include hf hg in
theorem kw_unfold {n : Nat} (hn : 0 < n) : ∀ (l : List Nat) (st : Bytes × List Bytes), Semi n st →
    l.reverse.foldl (kwUnstep g n) (l.foldl (kwStep f n) st) = st ∧ Semi n (l.foldl (kwStep f n) st)
  | [], _, h => ⟨rfl, h⟩
  | t :: l, st, h => by
    obtain ⟨e, hs⟩ := kw_unfold hn l (kwStep f n st t) (kwStep_semi f hf h t)
    exact ⟨by
      rw [List.reverse_cons, List.foldl_append, List.foldl_cons, List.foldl_nil, List.foldl_cons, e]
      exact kwUnstep_kwStep f g hg h hn t, hs⟩

include hf hg in
/-- The unwrapping function inverts the wrapping function. -/
theorem kwUncore_kwCore (a m : Bytes) (k : Nat) (ha : a.length = 8) (hm : m.length = 8 * (k + 1)) :
    kwUncore g (kwCore f a m) = (a, m) ∧ (kwCore f a m).length = 8 + m.length := by
  obtain ⟨rs, rfl, hr, hk⟩ := whole_pieces (by omega) _ m hm
  have hc : chunks 8 rs.flatten = rs := chunks_flatten (by omega) rs hr
  obtain ⟨e, h1, h2, h3⟩ := kw_unfold f g hf hg (n := rs.length) (by omega) ((List.range (6 * rs.length)).map (· + 1)) (a, rs)
    ⟨ha, rfl, hr⟩
  unfold kwUncore kwCore
  simp only [hc]
  generalize ((List.range (6 * rs.length)).map (· + 1)).foldl (kwStep f rs.length) (a, rs) = r at e h1 h2 h3 ⊢
  have hc' : chunks 8 (r.1 ++ r.2.flatten) = r.1 :: r.2 := by
    rw [← List.flatten_cons]
    exact chunks_flatten (by omega) _ fun x hx => by
      rcases List.mem_cons.mp hx with rfl | hx
      · exact h1
      · exact h3 x hx
  have ht : (r.1 ++ r.2.flatten).take 8 = r.1 := List.take_left' h1
  rw [hc', List.tail_cons, ht, h2, e]
  refine ⟨rfl, ?_⟩
  rw [List.length_append, h1, flatten_length _ h3, flatten_length _ hr, h2]

include hf hg in
/-- KWP opens what it has wrapped. -/
theorem kwpUnwrap_kwpWrap (m : Bytes) (h : 8 < m.length) (hm : m.length < 2 ^ 32) : kwpUnwrap g (kwpWrap f m) = some m := by
  have hp : (m ++ List.replicate ((8 - m.length % 8) % 8) (0 : Byte)).length = 8 * ((m.length + 7) / 8 - 1 + 1) := by
    simp; omega
  have ha : ([0xA6, 0x59, 0x59, 0xA6] ++ beBytes 4 m.length : Bytes).length = 8 := by simp [beBytes, leBytes_length]
  obtain ⟨e, hl⟩ := kwUncore_kwCore f g hf hg _ _ _ ha hp
  have hb : beAt ([0xA6, 0x59, 0x59, 0xA6] ++ beBytes 4 m.length : Bytes) 4 4 = m.length := by
    have hs : slice ([0xA6, 0x59, 0x59, 0xA6] ++ beBytes 4 m.length : Bytes) 4 4 = beBytes 4 m.length := by
      simp [slice, beBytes, leBytes_length, List.take_of_length_le]
    rw [beAt, hs, beNat_beBytes, Nat.mod_eq_of_lt (by omega)]
  have hw : kwpWrap f m = kwCore f ([0xA6, 0x59, 0x59, 0xA6] ++ beBytes 4 m.length)
      (m ++ List.replicate ((8 - m.length % 8) % 8) 0) := if_neg (by rw [hp]; omega)
  have hn : ¬ (kwpWrap f m).length = 16 := by rw [hw, hl, hp]; omega
  unfold kwpUnwrap
  simp only [if_neg hn]
  rw [hw, e]
  simp only [hb]
  rw [if_pos, List.take_left]
  refine ⟨by simp, ?_, ?_, ?_⟩
  · simp
  · simp; omega
  · simp

theorem aesUnkwp_aesKwp (key m : Bytes) (h : 8 < m.length) (hm : m.length < 2 ^ 32) : aesUnkwp key (aesKwp key m) = some m :=
  kwpUnwrap_kwpWrap _ _ (Aes.encWith_length _) (Aes.decWith_encWith _) m h hm

theorem aesKwp_length (key m : Bytes) (h : 8 < m.length) : (aesKwp key m).length = 8 + (m.length + 7) / 8 * 8 := by
  have hp : (m ++ List.replicate ((8 - m.length % 8) % 8) (0 : Byte)).length = 8 * ((m.length + 7) / 8 - 1 + 1) := by
    simp; omega
  have e := (kwUncore_kwCore _ _ (Aes.encWith_length (Aes.roundKeys key)) (Aes.decWith_encWith (Aes.roundKeys key))
    ([0xA6, 0x59, 0x59, 0xA6] ++ beBytes 4 m.length) _ _ (by simp [beBytes, leBytes_length]) hp).2
  exact (congrArg List.length (if_neg (by rw [hp]; omega))).trans (e.trans (by rw [hp]; omega))

end Modes
end Sys2Proof.Machine
end

