-- ==== Sys2Proof/Laws/Blobs.lean ====
section
/-!
SUPPORT. Sealed blobs: what a header says of a blob's bytes, and opening what was sealed (R173 to R175).
-/
namespace Sys2Proof.Machine

theorem slice_append (h w : Bytes) {o n : Nat} (hn : o + n ≤ h.length) : slice (h ++ w) o n = slice h o n := by
  have e : n - ((h ++ w).length - o) = 0 := by rw [List.length_append]; omega
  have e' : n - (h.length - o) = 0 := by omega
  rw [slice, slice, e, e', List.drop_append_of_le_length (by omega), List.take_append_of_le_length (by rw [List.length_drop]; omega)]

theorem leAt_append (h w : Bytes) {o n : Nat} (hn : o + n ≤ h.length) : leAt (h ++ w) o n = leAt h o n :=
  congrArg leNat (slice_append h w hn)

theorem byteAt_append (h w : Bytes) {i : Nat} (hi : i < h.length) : byteAt (h ++ w) i = byteAt h i := by
  simp [byteAt, List.getD_eq_getElem?_getD, List.getElem?_append_left hi]

theorem blobHeader_length (kind tenant epoch params wlen : Nat) (attr : Bytes) :
    (blobHeader kind tenant epoch params wlen attr).length = 32 := by
  simp [blobHeader, leBytes_length, fit]
  omega

/-- The fields of a header before its attribute word. -/
def headFields (kind tenant epoch params wlen : Nat) : Bytes :=
  [0x5A, 0x59, 0x53, 0x42, 0x01] ++ leBytes 1 kind ++ leBytes 2 tenant ++ leBytes 2 epoch ++ leBytes 2 params ++ leBytes 4 wlen

theorem leAt_header (kind tenant epoch params wlen : Nat) (attr w : Bytes) {o n : Nat} (h : o + n ≤ 16) :
    leAt (blobHeader kind tenant epoch params wlen attr ++ w) o n = leAt (headFields kind tenant epoch params wlen) o n := by
  rw [blobHeader, List.append_assoc]
  exact leAt_append _ _ (by simpa [leBytes_length, headFields] using h)

theorem byteAt_header (kind tenant epoch params wlen : Nat) (attr w : Bytes) {i : Nat} (h : i < 16) :
    byteAt (blobHeader kind tenant epoch params wlen attr ++ w) i = byteAt (headFields kind tenant epoch params wlen) i := by
  rw [blobHeader, List.append_assoc]
  exact byteAt_append _ _ (by simpa [leBytes_length, headFields] using h)

theorem leAt_kind (kind tenant epoch params wlen : Nat) : byteAt (headFields kind tenant epoch params wlen) 5 = BitVec.ofNat 8 kind := rfl

theorem leAt_tenant (kind tenant epoch params wlen : Nat) : leAt (headFields kind tenant epoch params wlen) 6 2 = tenant % 65536 :=
  leNat_leBytes 2 tenant

theorem leAt_epoch (kind tenant epoch params wlen : Nat) : leAt (headFields kind tenant epoch params wlen) 8 2 = epoch % 65536 :=
  leNat_leBytes 2 epoch

theorem leAt_params (kind tenant epoch params wlen : Nat) : leAt (headFields kind tenant epoch params wlen) 10 2 = params % 65536 :=
  leNat_leBytes 2 params

theorem leAt_wlen (kind tenant epoch params wlen : Nat) : leAt (headFields kind tenant epoch params wlen) 12 4 = wlen % 2 ^ 32 :=
  leNat_leBytes 4 wlen

theorem sealBlob_length (s : State) (kind tenant params : Nat) (attr m : Bytes) :
    (s.sealBlob kind tenant params attr m).length = 32 + wrappedLen m.length := by
  have h := Modes.aesKwp_length (s.storageKey tenant (s.epochOf tenant))
    (blobHeader kind tenant (s.epochOf tenant) params (wrappedLen m.length) attr ++ m) (by rw [List.length_append, blobHeader_length]; omega)
  rw [State.sealBlob, List.length_append, blobHeader_length, h, List.length_append, blobHeader_length, wrappedLen]
  omega

/-- A sealed blob opens to its material, while its epoch is the tenant's. -/
theorem openBlob_sealBlob (s : State) (kind tenant params : Nat) (attr m : Bytes) (hm : m.length < 2 ^ 31) :
    s.openBlob (s.sealBlob kind tenant params attr m) tenant = some m := by
  have hl := sealBlob_length s kind tenant params attr m
  have he : leAt (s.sealBlob kind tenant params attr m) 8 2 = s.epochOf tenant := by
    rw [State.sealBlob, leAt_header _ _ _ _ _ _ _ (by omega), leAt_epoch]
    exact Nat.mod_eq_of_lt (s.tenantOf tenant).epoch.isLt
  have hd : (s.sealBlob kind tenant params attr m).drop 32 = Modes.aesKwp (s.storageKey tenant (s.epochOf tenant))
      (blobHeader kind tenant (s.epochOf tenant) params (wrappedLen m.length) attr ++ m) :=
    List.drop_left' (blobHeader_length ..)
  have ht : (s.sealBlob kind tenant params attr m).take 32 = blobHeader kind tenant (s.epochOf tenant) params (wrappedLen m.length) attr :=
    List.take_left' (blobHeader_length ..)
  have hw : ¬ (((s.sealBlob kind tenant params attr m).drop 32).length % 8 ≠ 0 ∨ ((s.sealBlob kind tenant params attr m).drop 32).length < 16) := by
    rw [List.length_drop, hl, wrappedLen]; omega
  have ho := Modes.aesUnkwp_aesKwp (s.storageKey tenant (s.epochOf tenant))
    (blobHeader kind tenant (s.epochOf tenant) params (wrappedLen m.length) attr ++ m)
    (by rw [List.length_append, blobHeader_length]; omega) (by rw [List.length_append, blobHeader_length]; omega)
  unfold State.openBlob
  simp only
  rw [if_neg hw, he, hd, ho]
  simp only
  rw [ht, List.take_left' (blobHeader_length ..), if_pos rfl, List.drop_left' (blobHeader_length ..)]

/-- A sealed blob passes the checks of its header where its kind is accepted and its tenant live. -/
theorem blobFault_sealBlob (s : State) (kind tenant params : Nat) (attr m : Bytes) (kinds : List Nat) (hk : kinds.contains (kind % 256) = true)
    (ht : tenant < 65536) (hv : (s.tenantOf tenant).live = true) (hm : m.length < 2 ^ 31) :
    s.blobFault (s.sealBlob kind tenant params attr m) tenant kinds = none := by
  have hl := sealBlob_length s kind tenant params attr m
  have h4 : (s.sealBlob kind tenant params attr m).take 4 = [0x5A, 0x59, 0x53, 0x42] := rfl
  have h5 : byteAt (s.sealBlob kind tenant params attr m) 4 = 1 := rfl
  have h6 : byteAt (s.sealBlob kind tenant params attr m) 5 = BitVec.ofNat 8 kind := rfl
  have h7 : leAt (s.sealBlob kind tenant params attr m) 6 2 = tenant := by
    rw [State.sealBlob, leAt_header _ _ _ _ _ _ _ (by omega), leAt_tenant, Nat.mod_eq_of_lt ht]
  have h8 : leAt (s.sealBlob kind tenant params attr m) 8 2 = s.epochOf tenant := by
    rw [State.sealBlob, leAt_header _ _ _ _ _ _ _ (by omega), leAt_epoch]
    exact Nat.mod_eq_of_lt (s.tenantOf tenant).epoch.isLt
  have h9 : leAt (s.sealBlob kind tenant params attr m) 12 4 = wrappedLen m.length := by
    rw [State.sealBlob, leAt_header _ _ _ _ _ _ _ (by omega), leAt_wlen, Nat.mod_eq_of_lt (by rw [wrappedLen]; omega)]
  unfold State.blobFault
  rw [h4, h5, h6, h7, h8, h9, hl, BitVec.toNat_ofNat, hk]
  simp [hv, State.epochOk, Nat.add_comm]

end Sys2Proof.Machine
end

