-- ==== Sys2Proof/Laws/Frames.lean ====
section
/-!
SUPPORT. What each shared operation leaves unchanged: one lemma per operation, whose parts are rewrite rules over the fields of State.
-/
namespace Sys2Proof.Machine

@[simp] theorem State.emit_frame (x : Sent) (s : State) :
    (s.emit x).pending = s.pending ∧ (s.emit x).now = s.now ∧ (s.emit x).free = s.free ∧ (s.emit x).pins = s.pins ∧
    (s.emit x).chip = s.chip ∧ (s.emit x).link = s.link ∧ (s.emit x).fns = s.fns ∧ (s.emit x).queues = s.queues ∧
    (s.emit x).qmgr = s.qmgr ∧ (s.emit x).engine = s.engine ∧ (s.emit x).rack = s.rack ∧ (s.emit x).crucible = s.crucible ∧
    (s.emit x).vault = s.vault ∧ (s.emit x).trims = s.trims ∧ (s.emit x).plan = s.plan ∧ (s.emit x).routing = s.routing ∧
    (s.emit x).hammer = s.hammer ∧ (s.emit x).bellows = s.bellows ∧ (s.emit x).worlds = s.worlds ∧ (s.emit x).zwm = s.zwm ∧
    (s.emit x).tamper = s.tamper ∧ (s.emit x).life = s.life ∧ (s.emit x).power = s.power ∧ (s.emit x).cards = s.cards ∧
    (s.emit x).store = s.store ∧ (s.emit x).legacy = s.legacy := by and_intros <;> rfl

@[simp] theorem State.drawn_frame (n : Nat) (s : State) :
    (s.drawn n).pending = s.pending ∧ (s.drawn n).now = s.now ∧ (s.drawn n).sent = s.sent ∧ (s.drawn n).pins = s.pins ∧
    (s.drawn n).chip = s.chip ∧ (s.drawn n).link = s.link ∧ (s.drawn n).fns = s.fns ∧ (s.drawn n).queues = s.queues ∧
    (s.drawn n).qmgr = s.qmgr ∧ (s.drawn n).engine = s.engine ∧ (s.drawn n).rack = s.rack ∧
    (s.drawn n).crucible = s.crucible ∧ (s.drawn n).vault = s.vault ∧ (s.drawn n).trims = s.trims ∧
    (s.drawn n).plan = s.plan ∧ (s.drawn n).routing = s.routing ∧ (s.drawn n).hammer = s.hammer ∧
    (s.drawn n).worlds = s.worlds ∧ (s.drawn n).zwm = s.zwm ∧ (s.drawn n).tamper = s.tamper ∧ (s.drawn n).life = s.life ∧
    (s.drawn n).power = s.power ∧ (s.drawn n).cards = s.cards ∧ (s.drawn n).store = s.store ∧ (s.drawn n).legacy = s.legacy := by and_intros <;> rfl

@[simp] theorem State.spend_frame (n : Nat) (s : State) :
    (s.spend n).pending = s.pending ∧ (s.spend n).now = s.now ∧ (s.spend n).sent = s.sent ∧ (s.spend n).pins = s.pins ∧
    (s.spend n).chip = s.chip ∧ (s.spend n).link = s.link ∧ (s.spend n).fns = s.fns ∧ (s.spend n).queues = s.queues ∧
    (s.spend n).qmgr = s.qmgr ∧ (s.spend n).engine = s.engine ∧ (s.spend n).rack = s.rack ∧
    (s.spend n).crucible = s.crucible ∧ (s.spend n).vault = s.vault ∧ (s.spend n).trims = s.trims ∧
    (s.spend n).plan = s.plan ∧ (s.spend n).routing = s.routing ∧ (s.spend n).hammer = s.hammer ∧
    (s.spend n).bellows = s.bellows ∧ (s.spend n).worlds = s.worlds ∧ (s.spend n).zwm = s.zwm ∧
    (s.spend n).tamper = s.tamper ∧ (s.spend n).life = s.life ∧ (s.spend n).power = s.power ∧ (s.spend n).cards = s.cards ∧
    (s.spend n).store = s.store ∧ (s.spend n).legacy = s.legacy := by and_intros <;> rfl

@[simp] theorem State.modFn_frame (f : Nat) (g : Fn → Fn) (s : State) :
    (s.modFn f g).pending = s.pending ∧ (s.modFn f g).now = s.now ∧ (s.modFn f g).free = s.free ∧
    (s.modFn f g).sent = s.sent ∧ (s.modFn f g).pins = s.pins ∧ (s.modFn f g).chip = s.chip ∧ (s.modFn f g).link = s.link ∧
    (s.modFn f g).queues = s.queues ∧ (s.modFn f g).qmgr = s.qmgr ∧ (s.modFn f g).engine = s.engine ∧
    (s.modFn f g).rack = s.rack ∧ (s.modFn f g).crucible = s.crucible ∧ (s.modFn f g).vault = s.vault ∧
    (s.modFn f g).trims = s.trims ∧ (s.modFn f g).plan = s.plan ∧ (s.modFn f g).routing = s.routing ∧
    (s.modFn f g).hammer = s.hammer ∧ (s.modFn f g).bellows = s.bellows ∧ (s.modFn f g).worlds = s.worlds ∧
    (s.modFn f g).zwm = s.zwm ∧ (s.modFn f g).tamper = s.tamper ∧ (s.modFn f g).life = s.life ∧
    (s.modFn f g).power = s.power ∧ (s.modFn f g).cards = s.cards ∧ (s.modFn f g).store = s.store ∧
    (s.modFn f g).legacy = s.legacy := by and_intros <;> rfl

@[simp] theorem State.logAer_frame (f : Nat) (e : AerErr) (s : State) :
    (s.logAer f e).pending = s.pending ∧ (s.logAer f e).now = s.now ∧ (s.logAer f e).free = s.free ∧
    (s.logAer f e).pins = s.pins ∧ (s.logAer f e).chip = s.chip ∧ (s.logAer f e).link = s.link ∧
    (s.logAer f e).queues = s.queues ∧ (s.logAer f e).qmgr = s.qmgr ∧ (s.logAer f e).engine = s.engine ∧
    (s.logAer f e).rack = s.rack ∧ (s.logAer f e).crucible = s.crucible ∧ (s.logAer f e).vault = s.vault ∧
    (s.logAer f e).trims = s.trims ∧ (s.logAer f e).plan = s.plan ∧ (s.logAer f e).routing = s.routing ∧
    (s.logAer f e).hammer = s.hammer ∧ (s.logAer f e).bellows = s.bellows ∧ (s.logAer f e).worlds = s.worlds ∧
    (s.logAer f e).zwm = s.zwm ∧ (s.logAer f e).tamper = s.tamper ∧ (s.logAer f e).life = s.life ∧
    (s.logAer f e).power = s.power ∧ (s.logAer f e).cards = s.cards ∧ (s.logAer f e).store = s.store ∧
    (s.logAer f e).legacy = s.legacy := by
  unfold State.logAer
  try dsimp only
  and_intros <;> (repeat' split) <;> first | rfl | simp

@[simp] theorem State.modQueue_frame (f q : Nat) (g : Queue → Queue) (s : State) :
    (s.modQueue f q g).pending = s.pending ∧ (s.modQueue f q g).now = s.now ∧ (s.modQueue f q g).free = s.free ∧
    (s.modQueue f q g).sent = s.sent ∧ (s.modQueue f q g).pins = s.pins ∧ (s.modQueue f q g).chip = s.chip ∧
    (s.modQueue f q g).link = s.link ∧ (s.modQueue f q g).fns = s.fns ∧ (s.modQueue f q g).qmgr = s.qmgr ∧
    (s.modQueue f q g).engine = s.engine ∧ (s.modQueue f q g).rack = s.rack ∧ (s.modQueue f q g).crucible = s.crucible ∧
    (s.modQueue f q g).vault = s.vault ∧ (s.modQueue f q g).trims = s.trims ∧ (s.modQueue f q g).plan = s.plan ∧
    (s.modQueue f q g).routing = s.routing ∧ (s.modQueue f q g).hammer = s.hammer ∧ (s.modQueue f q g).bellows = s.bellows ∧
    (s.modQueue f q g).worlds = s.worlds ∧ (s.modQueue f q g).zwm = s.zwm ∧ (s.modQueue f q g).tamper = s.tamper ∧
    (s.modQueue f q g).life = s.life ∧ (s.modQueue f q g).power = s.power ∧ (s.modQueue f q g).cards = s.cards ∧
    (s.modQueue f q g).store = s.store ∧ (s.modQueue f q g).legacy = s.legacy := by and_intros <;> rfl

@[simp] theorem State.modTenant_frame (t : Nat) (g : Tenant → Tenant) (s : State) :
    (s.modTenant t g).pending = s.pending ∧ (s.modTenant t g).now = s.now ∧ (s.modTenant t g).free = s.free ∧
    (s.modTenant t g).sent = s.sent ∧ (s.modTenant t g).pins = s.pins ∧ (s.modTenant t g).chip = s.chip ∧
    (s.modTenant t g).link = s.link ∧ (s.modTenant t g).fns = s.fns ∧ (s.modTenant t g).queues = s.queues ∧
    (s.modTenant t g).qmgr = s.qmgr ∧ (s.modTenant t g).engine = s.engine ∧ (s.modTenant t g).rack = s.rack ∧
    (s.modTenant t g).crucible = s.crucible ∧ (s.modTenant t g).trims = s.trims ∧ (s.modTenant t g).plan = s.plan ∧
    (s.modTenant t g).routing = s.routing ∧ (s.modTenant t g).hammer = s.hammer ∧ (s.modTenant t g).bellows = s.bellows ∧
    (s.modTenant t g).worlds = s.worlds ∧ (s.modTenant t g).zwm = s.zwm ∧ (s.modTenant t g).tamper = s.tamper ∧
    (s.modTenant t g).life = s.life ∧ (s.modTenant t g).power = s.power ∧ (s.modTenant t g).cards = s.cards ∧
    (s.modTenant t g).store = s.store ∧ (s.modTenant t g).legacy = s.legacy := by and_intros <;> rfl

@[simp] theorem State.modOp_frame (id : Nat) (g : Op → Op) (s : State) :
    (s.modOp id g).pending = s.pending ∧ (s.modOp id g).now = s.now ∧ (s.modOp id g).free = s.free ∧
    (s.modOp id g).sent = s.sent ∧ (s.modOp id g).pins = s.pins ∧ (s.modOp id g).chip = s.chip ∧
    (s.modOp id g).link = s.link ∧ (s.modOp id g).fns = s.fns ∧ (s.modOp id g).queues = s.queues ∧
    (s.modOp id g).qmgr = s.qmgr ∧ (s.modOp id g).rack = s.rack ∧ (s.modOp id g).crucible = s.crucible ∧
    (s.modOp id g).vault = s.vault ∧ (s.modOp id g).trims = s.trims ∧ (s.modOp id g).plan = s.plan ∧
    (s.modOp id g).routing = s.routing ∧ (s.modOp id g).hammer = s.hammer ∧ (s.modOp id g).bellows = s.bellows ∧
    (s.modOp id g).worlds = s.worlds ∧ (s.modOp id g).zwm = s.zwm ∧ (s.modOp id g).tamper = s.tamper ∧
    (s.modOp id g).life = s.life ∧ (s.modOp id g).power = s.power ∧ (s.modOp id g).cards = s.cards ∧
    (s.modOp id g).store = s.store ∧ (s.modOp id g).legacy = s.legacy := by and_intros <;> rfl

@[simp] theorem State.modPort_frame (n : Nat) (g : Port → Port) (s : State) :
    (s.modPort n g).pending = s.pending ∧ (s.modPort n g).now = s.now ∧ (s.modPort n g).free = s.free ∧
    (s.modPort n g).sent = s.sent ∧ (s.modPort n g).pins = s.pins ∧ (s.modPort n g).chip = s.chip ∧
    (s.modPort n g).link = s.link ∧ (s.modPort n g).fns = s.fns ∧ (s.modPort n g).queues = s.queues ∧
    (s.modPort n g).qmgr = s.qmgr ∧ (s.modPort n g).engine = s.engine ∧ (s.modPort n g).rack = s.rack ∧
    (s.modPort n g).crucible = s.crucible ∧ (s.modPort n g).vault = s.vault ∧ (s.modPort n g).trims = s.trims ∧
    (s.modPort n g).plan = s.plan ∧ (s.modPort n g).routing = s.routing ∧ (s.modPort n g).hammer = s.hammer ∧
    (s.modPort n g).bellows = s.bellows ∧ (s.modPort n g).worlds = s.worlds ∧ (s.modPort n g).zwm = s.zwm ∧
    (s.modPort n g).tamper = s.tamper ∧ (s.modPort n g).life = s.life ∧ (s.modPort n g).power = s.power ∧
    (s.modPort n g).store = s.store ∧ (s.modPort n g).legacy = s.legacy := by and_intros <;> rfl

@[simp] theorem State.modBlock_frame (b : Nat) (g : Block → Block) (s : State) :
    (s.modBlock b g).pending = s.pending ∧ (s.modBlock b g).now = s.now ∧ (s.modBlock b g).free = s.free ∧
    (s.modBlock b g).sent = s.sent ∧ (s.modBlock b g).pins = s.pins ∧ (s.modBlock b g).chip = s.chip ∧
    (s.modBlock b g).link = s.link ∧ (s.modBlock b g).fns = s.fns ∧ (s.modBlock b g).queues = s.queues ∧
    (s.modBlock b g).qmgr = s.qmgr ∧ (s.modBlock b g).rack = s.rack ∧ (s.modBlock b g).crucible = s.crucible ∧
    (s.modBlock b g).vault = s.vault ∧ (s.modBlock b g).trims = s.trims ∧ (s.modBlock b g).plan = s.plan ∧
    (s.modBlock b g).routing = s.routing ∧ (s.modBlock b g).hammer = s.hammer ∧ (s.modBlock b g).bellows = s.bellows ∧
    (s.modBlock b g).worlds = s.worlds ∧ (s.modBlock b g).zwm = s.zwm ∧ (s.modBlock b g).tamper = s.tamper ∧
    (s.modBlock b g).life = s.life ∧ (s.modBlock b g).power = s.power ∧ (s.modBlock b g).cards = s.cards ∧
    (s.modBlock b g).store = s.store ∧ (s.modBlock b g).legacy = s.legacy := by and_intros <;> rfl

@[simp] theorem State.modDomain_frame (d : Nat) (g : Domain → Domain) (s : State) :
    (s.modDomain d g).pending = s.pending ∧ (s.modDomain d g).now = s.now ∧ (s.modDomain d g).free = s.free ∧
    (s.modDomain d g).sent = s.sent ∧ (s.modDomain d g).pins = s.pins ∧ (s.modDomain d g).chip = s.chip ∧
    (s.modDomain d g).link = s.link ∧ (s.modDomain d g).fns = s.fns ∧ (s.modDomain d g).queues = s.queues ∧
    (s.modDomain d g).qmgr = s.qmgr ∧ (s.modDomain d g).engine = s.engine ∧ (s.modDomain d g).rack = s.rack ∧
    (s.modDomain d g).crucible = s.crucible ∧ (s.modDomain d g).vault = s.vault ∧ (s.modDomain d g).trims = s.trims ∧
    (s.modDomain d g).plan = s.plan ∧ (s.modDomain d g).routing = s.routing ∧ (s.modDomain d g).hammer = s.hammer ∧
    (s.modDomain d g).bellows = s.bellows ∧ (s.modDomain d g).worlds = s.worlds ∧ (s.modDomain d g).zwm = s.zwm ∧
    (s.modDomain d g).tamper = s.tamper ∧ (s.modDomain d g).life = s.life ∧ (s.modDomain d g).cards = s.cards ∧
    (s.modDomain d g).store = s.store ∧ (s.modDomain d g).legacy = s.legacy := by and_intros <;> rfl

@[simp] theorem State.releaseOp_frame (id : Nat) (s : State) :
    (s.releaseOp id).pending = s.pending ∧ (s.releaseOp id).now = s.now ∧ (s.releaseOp id).free = s.free ∧
    (s.releaseOp id).sent = s.sent ∧ (s.releaseOp id).pins = s.pins ∧ (s.releaseOp id).chip = s.chip ∧
    (s.releaseOp id).link = s.link ∧ (s.releaseOp id).fns = s.fns ∧ (s.releaseOp id).queues = s.queues ∧
    (s.releaseOp id).qmgr = s.qmgr ∧ (s.releaseOp id).engine = s.engine ∧ (s.releaseOp id).crucible = s.crucible ∧
    (s.releaseOp id).vault = s.vault ∧ (s.releaseOp id).trims = s.trims ∧ (s.releaseOp id).zwm = s.zwm ∧
    (s.releaseOp id).tamper = s.tamper ∧ (s.releaseOp id).life = s.life ∧ (s.releaseOp id).power = s.power ∧
    (s.releaseOp id).store = s.store ∧ (s.releaseOp id).legacy = s.legacy := by and_intros <;> rfl

@[simp] theorem State.serviceRegs_frame (st d l : Nat) (s : State) :
    (s.serviceRegs st d l).pending = s.pending ∧ (s.serviceRegs st d l).now = s.now ∧ (s.serviceRegs st d l).free = s.free ∧
    (s.serviceRegs st d l).sent = s.sent ∧ (s.serviceRegs st d l).pins = s.pins ∧ (s.serviceRegs st d l).chip = s.chip ∧
    (s.serviceRegs st d l).link = s.link ∧ (s.serviceRegs st d l).fns = s.fns ∧ (s.serviceRegs st d l).queues = s.queues ∧
    (s.serviceRegs st d l).qmgr = s.qmgr ∧ (s.serviceRegs st d l).engine = s.engine ∧ (s.serviceRegs st d l).rack = s.rack ∧
    (s.serviceRegs st d l).crucible = s.crucible ∧ (s.serviceRegs st d l).vault = s.vault ∧
    (s.serviceRegs st d l).trims = s.trims ∧ (s.serviceRegs st d l).plan = s.plan ∧
    (s.serviceRegs st d l).routing = s.routing ∧ (s.serviceRegs st d l).hammer = s.hammer ∧
    (s.serviceRegs st d l).bellows = s.bellows ∧ (s.serviceRegs st d l).worlds = s.worlds ∧
    (s.serviceRegs st d l).tamper = s.tamper ∧ (s.serviceRegs st d l).life = s.life ∧
    (s.serviceRegs st d l).power = s.power ∧ (s.serviceRegs st d l).cards = s.cards ∧
    (s.serviceRegs st d l).store = s.store ∧ (s.serviceRegs st d l).legacy = s.legacy := by and_intros <;> rfl

@[simp] theorem State.latchAlarm_frame (n : Nat) (s : State) :
    (s.latchAlarm n).pending = s.pending ∧ (s.latchAlarm n).now = s.now ∧ (s.latchAlarm n).free = s.free ∧
    (s.latchAlarm n).sent = s.sent ∧ (s.latchAlarm n).pins = s.pins ∧ (s.latchAlarm n).chip = s.chip ∧
    (s.latchAlarm n).link = s.link ∧ (s.latchAlarm n).fns = s.fns ∧ (s.latchAlarm n).queues = s.queues ∧
    (s.latchAlarm n).qmgr = s.qmgr ∧ (s.latchAlarm n).engine = s.engine ∧ (s.latchAlarm n).rack = s.rack ∧
    (s.latchAlarm n).vault = s.vault ∧ (s.latchAlarm n).trims = s.trims ∧ (s.latchAlarm n).plan = s.plan ∧
    (s.latchAlarm n).routing = s.routing ∧ (s.latchAlarm n).hammer = s.hammer ∧ (s.latchAlarm n).bellows = s.bellows ∧
    (s.latchAlarm n).worlds = s.worlds ∧ (s.latchAlarm n).zwm = s.zwm ∧ (s.latchAlarm n).life = s.life ∧
    (s.latchAlarm n).power = s.power ∧ (s.latchAlarm n).cards = s.cards ∧ (s.latchAlarm n).store = s.store ∧
    (s.latchAlarm n).legacy = s.legacy := by and_intros <;> rfl

@[simp] theorem State.latchClass_frame (c : Nat) (s : State) :
    (s.latchClass c).pending = s.pending ∧ (s.latchClass c).now = s.now ∧ (s.latchClass c).free = s.free ∧
    (s.latchClass c).sent = s.sent ∧ (s.latchClass c).pins = s.pins ∧ (s.latchClass c).chip = s.chip ∧
    (s.latchClass c).link = s.link ∧ (s.latchClass c).fns = s.fns ∧ (s.latchClass c).queues = s.queues ∧
    (s.latchClass c).qmgr = s.qmgr ∧ (s.latchClass c).engine = s.engine ∧ (s.latchClass c).rack = s.rack ∧
    (s.latchClass c).trims = s.trims ∧ (s.latchClass c).plan = s.plan ∧ (s.latchClass c).routing = s.routing ∧
    (s.latchClass c).hammer = s.hammer ∧ (s.latchClass c).bellows = s.bellows ∧ (s.latchClass c).worlds = s.worlds ∧
    (s.latchClass c).zwm = s.zwm ∧ (s.latchClass c).tamper = s.tamper ∧ (s.latchClass c).life = s.life ∧
    (s.latchClass c).power = s.power ∧ (s.latchClass c).cards = s.cards ∧ (s.latchClass c).store = s.store ∧
    (s.latchClass c).legacy = s.legacy := by and_intros <;> rfl

@[simp] theorem State.driveInta_frame (b : Bool) (s : State) :
    (s.driveInta b).pending = s.pending ∧ (s.driveInta b).now = s.now ∧ (s.driveInta b).free = s.free ∧
    (s.driveInta b).pins = s.pins ∧ (s.driveInta b).chip = s.chip ∧ (s.driveInta b).link = s.link ∧
    (s.driveInta b).fns = s.fns ∧ (s.driveInta b).queues = s.queues ∧ (s.driveInta b).qmgr = s.qmgr ∧
    (s.driveInta b).engine = s.engine ∧ (s.driveInta b).rack = s.rack ∧ (s.driveInta b).crucible = s.crucible ∧
    (s.driveInta b).vault = s.vault ∧ (s.driveInta b).trims = s.trims ∧ (s.driveInta b).plan = s.plan ∧
    (s.driveInta b).routing = s.routing ∧ (s.driveInta b).hammer = s.hammer ∧ (s.driveInta b).bellows = s.bellows ∧
    (s.driveInta b).worlds = s.worlds ∧ (s.driveInta b).zwm = s.zwm ∧ (s.driveInta b).tamper = s.tamper ∧
    (s.driveInta b).life = s.life ∧ (s.driveInta b).power = s.power ∧ (s.driveInta b).cards = s.cards ∧
    (s.driveInta b).store = s.store ∧ (s.driveInta b).legacy = s.legacy := by
  unfold State.driveInta
  try dsimp only
  and_intros <;> (repeat' split) <;> first | rfl | simp

@[simp] theorem State.legacyRise_frame (s : State) :
    (s.legacyRise).pending = s.pending ∧ (s.legacyRise).now = s.now ∧ (s.legacyRise).free = s.free ∧
    (s.legacyRise).pins = s.pins ∧ (s.legacyRise).chip = s.chip ∧ (s.legacyRise).link = s.link ∧
    (s.legacyRise).fns = s.fns ∧ (s.legacyRise).queues = s.queues ∧ (s.legacyRise).qmgr = s.qmgr ∧
    (s.legacyRise).engine = s.engine ∧ (s.legacyRise).rack = s.rack ∧ (s.legacyRise).crucible = s.crucible ∧
    (s.legacyRise).vault = s.vault ∧ (s.legacyRise).trims = s.trims ∧ (s.legacyRise).plan = s.plan ∧
    (s.legacyRise).routing = s.routing ∧ (s.legacyRise).hammer = s.hammer ∧ (s.legacyRise).bellows = s.bellows ∧
    (s.legacyRise).worlds = s.worlds ∧ (s.legacyRise).zwm = s.zwm ∧ (s.legacyRise).tamper = s.tamper ∧
    (s.legacyRise).life = s.life ∧ (s.legacyRise).power = s.power ∧ (s.legacyRise).cards = s.cards ∧
    (s.legacyRise).store = s.store ∧ (s.legacyRise).legacy = s.legacy := by
  unfold State.legacyRise
  try dsimp only
  and_intros <;> (repeat' split) <;> first | rfl | simp

@[simp] theorem State.legacyEvent_frame (s : State) :
    (s.legacyEvent).pending = s.pending ∧ (s.legacyEvent).now = s.now ∧ (s.legacyEvent).free = s.free ∧
    (s.legacyEvent).pins = s.pins ∧ (s.legacyEvent).chip = s.chip ∧ (s.legacyEvent).link = s.link ∧
    (s.legacyEvent).fns = s.fns ∧ (s.legacyEvent).queues = s.queues ∧ (s.legacyEvent).qmgr = s.qmgr ∧
    (s.legacyEvent).engine = s.engine ∧ (s.legacyEvent).rack = s.rack ∧ (s.legacyEvent).crucible = s.crucible ∧
    (s.legacyEvent).vault = s.vault ∧ (s.legacyEvent).trims = s.trims ∧ (s.legacyEvent).plan = s.plan ∧
    (s.legacyEvent).routing = s.routing ∧ (s.legacyEvent).hammer = s.hammer ∧ (s.legacyEvent).bellows = s.bellows ∧
    (s.legacyEvent).worlds = s.worlds ∧ (s.legacyEvent).zwm = s.zwm ∧ (s.legacyEvent).tamper = s.tamper ∧
    (s.legacyEvent).life = s.life ∧ (s.legacyEvent).power = s.power ∧ (s.legacyEvent).cards = s.cards ∧
    (s.legacyEvent).store = s.store := by
  unfold State.legacyEvent
  try dsimp only
  and_intros <;> (repeat' split) <;> first | rfl | simp

@[simp] theorem State.legacyVault_frame (s : State) :
    (s.legacyVault).pending = s.pending ∧ (s.legacyVault).now = s.now ∧ (s.legacyVault).free = s.free ∧
    (s.legacyVault).pins = s.pins ∧ (s.legacyVault).chip = s.chip ∧ (s.legacyVault).link = s.link ∧
    (s.legacyVault).fns = s.fns ∧ (s.legacyVault).queues = s.queues ∧ (s.legacyVault).qmgr = s.qmgr ∧
    (s.legacyVault).engine = s.engine ∧ (s.legacyVault).rack = s.rack ∧ (s.legacyVault).crucible = s.crucible ∧
    (s.legacyVault).vault = s.vault ∧ (s.legacyVault).trims = s.trims ∧ (s.legacyVault).plan = s.plan ∧
    (s.legacyVault).routing = s.routing ∧ (s.legacyVault).hammer = s.hammer ∧ (s.legacyVault).bellows = s.bellows ∧
    (s.legacyVault).worlds = s.worlds ∧ (s.legacyVault).zwm = s.zwm ∧ (s.legacyVault).tamper = s.tamper ∧
    (s.legacyVault).life = s.life ∧ (s.legacyVault).power = s.power ∧ (s.legacyVault).cards = s.cards ∧
    (s.legacyVault).store = s.store := by
  unfold State.legacyVault
  try dsimp only
  and_intros <;> (repeat' split) <;> first | rfl | simp

@[simp] theorem State.signal_frame (f v : Nat) (s : State) :
    (s.signal f v).pending = s.pending ∧ (s.signal f v).now = s.now ∧ (s.signal f v).free = s.free ∧
    (s.signal f v).pins = s.pins ∧ (s.signal f v).chip = s.chip ∧ (s.signal f v).link = s.link ∧
    (s.signal f v).queues = s.queues ∧ (s.signal f v).qmgr = s.qmgr ∧ (s.signal f v).engine = s.engine ∧
    (s.signal f v).rack = s.rack ∧ (s.signal f v).crucible = s.crucible ∧ (s.signal f v).vault = s.vault ∧
    (s.signal f v).trims = s.trims ∧ (s.signal f v).plan = s.plan ∧ (s.signal f v).routing = s.routing ∧
    (s.signal f v).hammer = s.hammer ∧ (s.signal f v).bellows = s.bellows ∧ (s.signal f v).worlds = s.worlds ∧
    (s.signal f v).zwm = s.zwm ∧ (s.signal f v).tamper = s.tamper ∧ (s.signal f v).life = s.life ∧
    (s.signal f v).power = s.power ∧ (s.signal f v).cards = s.cards ∧ (s.signal f v).store = s.store := by
  unfold State.signal
  try dsimp only
  and_intros <;> (repeat' split) <;> first | rfl | simp

@[simp] theorem State.deviceEvent_frame (s : State) :
    (s.deviceEvent).pending = s.pending ∧ (s.deviceEvent).now = s.now ∧ (s.deviceEvent).free = s.free ∧
    (s.deviceEvent).pins = s.pins ∧ (s.deviceEvent).chip = s.chip ∧ (s.deviceEvent).link = s.link ∧
    (s.deviceEvent).queues = s.queues ∧ (s.deviceEvent).qmgr = s.qmgr ∧ (s.deviceEvent).engine = s.engine ∧
    (s.deviceEvent).rack = s.rack ∧ (s.deviceEvent).crucible = s.crucible ∧ (s.deviceEvent).vault = s.vault ∧
    (s.deviceEvent).trims = s.trims ∧ (s.deviceEvent).plan = s.plan ∧ (s.deviceEvent).routing = s.routing ∧
    (s.deviceEvent).hammer = s.hammer ∧ (s.deviceEvent).bellows = s.bellows ∧ (s.deviceEvent).worlds = s.worlds ∧
    (s.deviceEvent).zwm = s.zwm ∧ (s.deviceEvent).tamper = s.tamper ∧ (s.deviceEvent).life = s.life ∧
    (s.deviceEvent).power = s.power ∧ (s.deviceEvent).cards = s.cards ∧ (s.deviceEvent).store = s.store := by
  and_intros <;> simp [State.deviceEvent]

@[simp] theorem State.setChip_frame (c : ChipState) (s : State) :
    (s.setChip c).pending = s.pending ∧ (s.setChip c).now = s.now ∧ (s.setChip c).free = s.free ∧
    (s.setChip c).link = s.link ∧ (s.setChip c).queues = s.queues ∧ (s.setChip c).qmgr = s.qmgr ∧
    (s.setChip c).engine = s.engine ∧ (s.setChip c).rack = s.rack ∧ (s.setChip c).crucible = s.crucible ∧
    (s.setChip c).vault = s.vault ∧ (s.setChip c).trims = s.trims ∧ (s.setChip c).plan = s.plan ∧
    (s.setChip c).routing = s.routing ∧ (s.setChip c).hammer = s.hammer ∧ (s.setChip c).bellows = s.bellows ∧
    (s.setChip c).worlds = s.worlds ∧ (s.setChip c).zwm = s.zwm ∧ (s.setChip c).tamper = s.tamper ∧
    (s.setChip c).life = s.life ∧ (s.setChip c).power = s.power ∧ (s.setChip c).cards = s.cards ∧
    (s.setChip c).store = s.store := by
  unfold State.setChip
  try dsimp only
  and_intros <;> (repeat' split) <;> first | rfl | simp

@[simp] theorem State.pme_frame (s : State) :
    (s.pme).pending = s.pending ∧ (s.pme).now = s.now ∧ (s.pme).free = s.free ∧ (s.pme).chip = s.chip ∧
    (s.pme).fns = s.fns ∧ (s.pme).queues = s.queues ∧ (s.pme).qmgr = s.qmgr ∧ (s.pme).engine = s.engine ∧
    (s.pme).rack = s.rack ∧ (s.pme).crucible = s.crucible ∧ (s.pme).vault = s.vault ∧ (s.pme).trims = s.trims ∧
    (s.pme).plan = s.plan ∧ (s.pme).routing = s.routing ∧ (s.pme).hammer = s.hammer ∧ (s.pme).bellows = s.bellows ∧
    (s.pme).worlds = s.worlds ∧ (s.pme).zwm = s.zwm ∧ (s.pme).tamper = s.tamper ∧ (s.pme).life = s.life ∧
    (s.pme).power = s.power ∧ (s.pme).cards = s.cards ∧ (s.pme).store = s.store ∧ (s.pme).legacy = s.legacy := by
  unfold State.pme
  try dsimp only
  and_intros <;> (repeat' split) <;> first | rfl | simp

@[simp] theorem State.dropRecord_frame (s : State) :
    (s.dropRecord).pending = s.pending ∧ (s.dropRecord).now = s.now ∧ (s.dropRecord).free = s.free ∧
    (s.dropRecord).sent = s.sent ∧ (s.dropRecord).pins = s.pins ∧ (s.dropRecord).chip = s.chip ∧
    (s.dropRecord).link = s.link ∧ (s.dropRecord).fns = s.fns ∧ (s.dropRecord).queues = s.queues ∧
    (s.dropRecord).qmgr = s.qmgr ∧ (s.dropRecord).engine = s.engine ∧ (s.dropRecord).rack = s.rack ∧
    (s.dropRecord).crucible = s.crucible ∧ (s.dropRecord).vault = s.vault ∧ (s.dropRecord).trims = s.trims ∧
    (s.dropRecord).plan = s.plan ∧ (s.dropRecord).routing = s.routing ∧ (s.dropRecord).hammer = s.hammer ∧
    (s.dropRecord).bellows = s.bellows ∧ (s.dropRecord).worlds = s.worlds ∧ (s.dropRecord).zwm = s.zwm ∧
    (s.dropRecord).tamper = s.tamper ∧ (s.dropRecord).life = s.life ∧ (s.dropRecord).power = s.power ∧
    (s.dropRecord).cards = s.cards ∧ (s.dropRecord).legacy = s.legacy := by and_intros <;> rfl

@[simp] theorem State.appendRecord_frame (r : Record) (s : State) :
    (s.appendRecord r).pending = s.pending ∧ (s.appendRecord r).now = s.now ∧ (s.appendRecord r).free = s.free ∧
    (s.appendRecord r).sent = s.sent ∧ (s.appendRecord r).pins = s.pins ∧ (s.appendRecord r).chip = s.chip ∧
    (s.appendRecord r).link = s.link ∧ (s.appendRecord r).fns = s.fns ∧ (s.appendRecord r).queues = s.queues ∧
    (s.appendRecord r).qmgr = s.qmgr ∧ (s.appendRecord r).engine = s.engine ∧ (s.appendRecord r).rack = s.rack ∧
    (s.appendRecord r).crucible = s.crucible ∧ (s.appendRecord r).vault = s.vault ∧ (s.appendRecord r).trims = s.trims ∧
    (s.appendRecord r).plan = s.plan ∧ (s.appendRecord r).routing = s.routing ∧ (s.appendRecord r).hammer = s.hammer ∧
    (s.appendRecord r).bellows = s.bellows ∧ (s.appendRecord r).worlds = s.worlds ∧ (s.appendRecord r).zwm = s.zwm ∧
    (s.appendRecord r).tamper = s.tamper ∧ (s.appendRecord r).life = s.life ∧ (s.appendRecord r).power = s.power ∧
    (s.appendRecord r).cards = s.cards ∧ (s.appendRecord r).legacy = s.legacy := by
  unfold State.appendRecord
  try dsimp only
  and_intros <;> (repeat' split) <;> first | rfl | simp

@[simp] theorem State.log_frame (code source : Nat) (p : Bytes) (s : State) :
    (s.log code source p).pending = s.pending ∧ (s.log code source p).now = s.now ∧ (s.log code source p).free = s.free ∧
    (s.log code source p).sent = s.sent ∧ (s.log code source p).pins = s.pins ∧ (s.log code source p).chip = s.chip ∧
    (s.log code source p).link = s.link ∧ (s.log code source p).fns = s.fns ∧ (s.log code source p).queues = s.queues ∧
    (s.log code source p).qmgr = s.qmgr ∧ (s.log code source p).engine = s.engine ∧ (s.log code source p).rack = s.rack ∧
    (s.log code source p).crucible = s.crucible ∧ (s.log code source p).vault = s.vault ∧
    (s.log code source p).trims = s.trims ∧ (s.log code source p).plan = s.plan ∧
    (s.log code source p).routing = s.routing ∧ (s.log code source p).hammer = s.hammer ∧
    (s.log code source p).bellows = s.bellows ∧ (s.log code source p).worlds = s.worlds ∧
    (s.log code source p).zwm = s.zwm ∧ (s.log code source p).tamper = s.tamper ∧ (s.log code source p).life = s.life ∧
    (s.log code source p).power = s.power ∧ (s.log code source p).cards = s.cards ∧ (s.log code source p).legacy = s.legacy := by
  and_intros <;> simp [State.log]

@[simp] theorem State.logOpen_frame (area source what : Nat) (p : Bytes) (s : State) :
    (s.logOpen area source what p).pending = s.pending ∧ (s.logOpen area source what p).now = s.now ∧
    (s.logOpen area source what p).free = s.free ∧ (s.logOpen area source what p).sent = s.sent ∧
    (s.logOpen area source what p).pins = s.pins ∧ (s.logOpen area source what p).chip = s.chip ∧
    (s.logOpen area source what p).link = s.link ∧ (s.logOpen area source what p).fns = s.fns ∧
    (s.logOpen area source what p).queues = s.queues ∧ (s.logOpen area source what p).qmgr = s.qmgr ∧
    (s.logOpen area source what p).engine = s.engine ∧ (s.logOpen area source what p).rack = s.rack ∧
    (s.logOpen area source what p).crucible = s.crucible ∧ (s.logOpen area source what p).vault = s.vault ∧
    (s.logOpen area source what p).trims = s.trims ∧ (s.logOpen area source what p).plan = s.plan ∧
    (s.logOpen area source what p).routing = s.routing ∧ (s.logOpen area source what p).hammer = s.hammer ∧
    (s.logOpen area source what p).bellows = s.bellows ∧ (s.logOpen area source what p).worlds = s.worlds ∧
    (s.logOpen area source what p).zwm = s.zwm ∧ (s.logOpen area source what p).tamper = s.tamper ∧
    (s.logOpen area source what p).life = s.life ∧ (s.logOpen area source what p).power = s.power ∧
    (s.logOpen area source what p).cards = s.cards ∧ (s.logOpen area source what p).legacy = s.legacy := by
  and_intros <;> simp [State.logOpen]

@[simp] theorem State.joinGroup_frame (cls : Nat) (s : State) :
    (s.joinGroup cls).pending = s.pending ∧ (s.joinGroup cls).now = s.now ∧ (s.joinGroup cls).free = s.free ∧
    (s.joinGroup cls).sent = s.sent ∧ (s.joinGroup cls).pins = s.pins ∧ (s.joinGroup cls).chip = s.chip ∧
    (s.joinGroup cls).link = s.link ∧ (s.joinGroup cls).fns = s.fns ∧ (s.joinGroup cls).queues = s.queues ∧
    (s.joinGroup cls).qmgr = s.qmgr ∧ (s.joinGroup cls).engine = s.engine ∧ (s.joinGroup cls).rack = s.rack ∧
    (s.joinGroup cls).vault = s.vault ∧ (s.joinGroup cls).trims = s.trims ∧ (s.joinGroup cls).plan = s.plan ∧
    (s.joinGroup cls).routing = s.routing ∧ (s.joinGroup cls).hammer = s.hammer ∧ (s.joinGroup cls).bellows = s.bellows ∧
    (s.joinGroup cls).worlds = s.worlds ∧ (s.joinGroup cls).zwm = s.zwm ∧ (s.joinGroup cls).life = s.life ∧
    (s.joinGroup cls).power = s.power ∧ (s.joinGroup cls).cards = s.cards ∧ (s.joinGroup cls).store = s.store ∧
    (s.joinGroup cls).legacy = s.legacy := by
  unfold State.joinGroup
  try dsimp only
  and_intros <;> (repeat' split) <;> first | rfl | simp

@[simp] theorem State.quenchErase_frame (s : State) :
    (s.quenchErase).pending = s.pending ∧ (s.quenchErase).now = s.now ∧ (s.quenchErase).free = s.free ∧
    (s.quenchErase).sent = s.sent ∧ (s.quenchErase).pins = s.pins ∧ (s.quenchErase).chip = s.chip ∧
    (s.quenchErase).link = s.link ∧ (s.quenchErase).fns = s.fns ∧ (s.quenchErase).queues = s.queues ∧
    (s.quenchErase).qmgr = s.qmgr ∧ (s.quenchErase).trims = s.trims ∧ (s.quenchErase).worlds = s.worlds ∧
    (s.quenchErase).zwm = s.zwm ∧ (s.quenchErase).tamper = s.tamper ∧ (s.quenchErase).life = s.life ∧
    (s.quenchErase).power = s.power ∧ (s.quenchErase).cards = s.cards ∧ (s.quenchErase).store = s.store ∧
    (s.quenchErase).legacy = s.legacy := by and_intros <;> rfl

@[simp] theorem State.dropTenants_frame (s : State) :
    (s.dropTenants).pending = s.pending ∧ (s.dropTenants).now = s.now ∧ (s.dropTenants).free = s.free ∧
    (s.dropTenants).sent = s.sent ∧ (s.dropTenants).pins = s.pins ∧ (s.dropTenants).chip = s.chip ∧
    (s.dropTenants).link = s.link ∧ (s.dropTenants).fns = s.fns ∧ (s.dropTenants).queues = s.queues ∧
    (s.dropTenants).qmgr = s.qmgr ∧ (s.dropTenants).engine = s.engine ∧ (s.dropTenants).rack = s.rack ∧
    (s.dropTenants).crucible = s.crucible ∧ (s.dropTenants).trims = s.trims ∧ (s.dropTenants).plan = s.plan ∧
    (s.dropTenants).routing = s.routing ∧ (s.dropTenants).hammer = s.hammer ∧ (s.dropTenants).bellows = s.bellows ∧
    (s.dropTenants).worlds = s.worlds ∧ (s.dropTenants).zwm = s.zwm ∧ (s.dropTenants).tamper = s.tamper ∧
    (s.dropTenants).life = s.life ∧ (s.dropTenants).power = s.power ∧ (s.dropTenants).cards = s.cards ∧
    (s.dropTenants).store = s.store := by and_intros <;> rfl

@[simp] theorem State.startQuench_frame (s : State) :
    (s.startQuench).pending = s.pending ∧ (s.startQuench).now = s.now ∧ (s.startQuench).free = s.free ∧
    (s.startQuench).link = s.link ∧ (s.startQuench).queues = s.queues ∧ (s.startQuench).qmgr = s.qmgr ∧
    (s.startQuench).trims = s.trims ∧ (s.startQuench).worlds = s.worlds ∧ (s.startQuench).zwm = s.zwm ∧
    (s.startQuench).life = s.life ∧ (s.startQuench).power = s.power ∧ (s.startQuench).cards = s.cards ∧
    (s.startQuench).store = s.store := by
  unfold State.startQuench
  try dsimp only
  and_intros <;> (repeat' split) <;> first | rfl | simp

@[simp] theorem State.unreserve_frame (id : Nat) (s : State) :
    (s.unreserve id).pending = s.pending ∧ (s.unreserve id).now = s.now ∧ (s.unreserve id).free = s.free ∧
    (s.unreserve id).sent = s.sent ∧ (s.unreserve id).pins = s.pins ∧ (s.unreserve id).chip = s.chip ∧
    (s.unreserve id).link = s.link ∧ (s.unreserve id).fns = s.fns ∧ (s.unreserve id).queues = s.queues ∧
    (s.unreserve id).qmgr = s.qmgr ∧ (s.unreserve id).rack = s.rack ∧ (s.unreserve id).crucible = s.crucible ∧
    (s.unreserve id).trims = s.trims ∧ (s.unreserve id).plan = s.plan ∧ (s.unreserve id).routing = s.routing ∧
    (s.unreserve id).hammer = s.hammer ∧ (s.unreserve id).bellows = s.bellows ∧ (s.unreserve id).worlds = s.worlds ∧
    (s.unreserve id).zwm = s.zwm ∧ (s.unreserve id).tamper = s.tamper ∧ (s.unreserve id).life = s.life ∧
    (s.unreserve id).power = s.power ∧ (s.unreserve id).cards = s.cards ∧ (s.unreserve id).store = s.store ∧
    (s.unreserve id).legacy = s.legacy := by
  unfold State.unreserve
  try dsimp only
  and_intros <;> (repeat' split) <;> first | rfl | simp

@[simp] theorem State.finish_frame (id st d n : Nat) (r : Bytes) (s : State) :
    (s.finish id st d n r).pending = s.pending ∧ (s.finish id st d n r).now = s.now ∧ (s.finish id st d n r).free = s.free ∧
    (s.finish id st d n r).sent = s.sent ∧ (s.finish id st d n r).pins = s.pins ∧ (s.finish id st d n r).chip = s.chip ∧
    (s.finish id st d n r).link = s.link ∧ (s.finish id st d n r).fns = s.fns ∧ (s.finish id st d n r).queues = s.queues ∧
    (s.finish id st d n r).qmgr = s.qmgr ∧ (s.finish id st d n r).crucible = s.crucible ∧
    (s.finish id st d n r).trims = s.trims ∧ (s.finish id st d n r).tamper = s.tamper ∧
    (s.finish id st d n r).life = s.life ∧ (s.finish id st d n r).power = s.power ∧ (s.finish id st d n r).store = s.store ∧
    (s.finish id st d n r).legacy = s.legacy := by
  unfold State.finish
  try dsimp only
  and_intros <;> (repeat' split) <;> first | rfl | simp

@[simp] theorem State.fail_frame (id st d : Nat) (s : State) :
    (s.fail id st d).pending = s.pending ∧ (s.fail id st d).now = s.now ∧ (s.fail id st d).free = s.free ∧
    (s.fail id st d).sent = s.sent ∧ (s.fail id st d).pins = s.pins ∧ (s.fail id st d).chip = s.chip ∧
    (s.fail id st d).link = s.link ∧ (s.fail id st d).fns = s.fns ∧ (s.fail id st d).queues = s.queues ∧
    (s.fail id st d).qmgr = s.qmgr ∧ (s.fail id st d).crucible = s.crucible ∧ (s.fail id st d).trims = s.trims ∧
    (s.fail id st d).tamper = s.tamper ∧ (s.fail id st d).life = s.life ∧ (s.fail id st d).power = s.power ∧
    (s.fail id st d).store = s.store ∧ (s.fail id st d).legacy = s.legacy := by
  and_intros <;> simp [State.fail]

@[simp] theorem State.stopOp_frame (id st d : Nat) (s : State) :
    (s.stopOp id st d).pending = s.pending ∧ (s.stopOp id st d).now = s.now ∧ (s.stopOp id st d).free = s.free ∧
    (s.stopOp id st d).pins = s.pins ∧ (s.stopOp id st d).chip = s.chip ∧ (s.stopOp id st d).link = s.link ∧
    (s.stopOp id st d).fns = s.fns ∧ (s.stopOp id st d).queues = s.queues ∧ (s.stopOp id st d).qmgr = s.qmgr ∧
    (s.stopOp id st d).crucible = s.crucible ∧ (s.stopOp id st d).trims = s.trims ∧ (s.stopOp id st d).tamper = s.tamper ∧
    (s.stopOp id st d).life = s.life ∧ (s.stopOp id st d).power = s.power ∧ (s.stopOp id st d).store = s.store ∧
    (s.stopOp id st d).legacy = s.legacy := by
  unfold State.stopOp
  try dsimp only
  and_intros <;> (repeat' split) <;> first | rfl | simp

@[simp] theorem State.mbxRelease_frame (r : Bytes) (s : State) :
    (s.mbxRelease r).pending = s.pending ∧ (s.mbxRelease r).now = s.now ∧ (s.mbxRelease r).free = s.free ∧
    (s.mbxRelease r).pins = s.pins ∧ (s.mbxRelease r).chip = s.chip ∧ (s.mbxRelease r).link = s.link ∧
    (s.mbxRelease r).queues = s.queues ∧ (s.mbxRelease r).qmgr = s.qmgr ∧ (s.mbxRelease r).engine = s.engine ∧
    (s.mbxRelease r).rack = s.rack ∧ (s.mbxRelease r).crucible = s.crucible ∧ (s.mbxRelease r).vault = s.vault ∧
    (s.mbxRelease r).trims = s.trims ∧ (s.mbxRelease r).plan = s.plan ∧ (s.mbxRelease r).routing = s.routing ∧
    (s.mbxRelease r).hammer = s.hammer ∧ (s.mbxRelease r).bellows = s.bellows ∧ (s.mbxRelease r).zwm = s.zwm ∧
    (s.mbxRelease r).tamper = s.tamper ∧ (s.mbxRelease r).life = s.life ∧ (s.mbxRelease r).power = s.power ∧
    (s.mbxRelease r).cards = s.cards ∧ (s.mbxRelease r).store = s.store := by
  unfold State.mbxRelease
  try dsimp only
  and_intros <;> (repeat' split) <;> first | rfl | simp

@[simp] theorem State.mbxAnswer_frame (st d : Nat) (b : Bytes) (s : State) :
    (s.mbxAnswer st d b).pending = s.pending ∧ (s.mbxAnswer st d b).now = s.now ∧ (s.mbxAnswer st d b).free = s.free ∧
    (s.mbxAnswer st d b).pins = s.pins ∧ (s.mbxAnswer st d b).chip = s.chip ∧ (s.mbxAnswer st d b).link = s.link ∧
    (s.mbxAnswer st d b).queues = s.queues ∧ (s.mbxAnswer st d b).qmgr = s.qmgr ∧ (s.mbxAnswer st d b).engine = s.engine ∧
    (s.mbxAnswer st d b).rack = s.rack ∧ (s.mbxAnswer st d b).crucible = s.crucible ∧ (s.mbxAnswer st d b).vault = s.vault ∧
    (s.mbxAnswer st d b).trims = s.trims ∧ (s.mbxAnswer st d b).plan = s.plan ∧ (s.mbxAnswer st d b).routing = s.routing ∧
    (s.mbxAnswer st d b).hammer = s.hammer ∧ (s.mbxAnswer st d b).bellows = s.bellows ∧
    (s.mbxAnswer st d b).tamper = s.tamper ∧ (s.mbxAnswer st d b).life = s.life ∧ (s.mbxAnswer st d b).power = s.power ∧
    (s.mbxAnswer st d b).cards = s.cards ∧ (s.mbxAnswer st d b).store = s.store := by
  unfold State.mbxAnswer
  try dsimp only
  and_intros <;> (repeat' split) <;> first | rfl | simp

@[simp] theorem State.mbxConflict_frame (s : State) :
    (s.mbxConflict).pending = s.pending ∧ (s.mbxConflict).now = s.now ∧ (s.mbxConflict).free = s.free ∧
    (s.mbxConflict).pins = s.pins ∧ (s.mbxConflict).chip = s.chip ∧ (s.mbxConflict).link = s.link ∧
    (s.mbxConflict).queues = s.queues ∧ (s.mbxConflict).qmgr = s.qmgr ∧ (s.mbxConflict).engine = s.engine ∧
    (s.mbxConflict).rack = s.rack ∧ (s.mbxConflict).crucible = s.crucible ∧ (s.mbxConflict).vault = s.vault ∧
    (s.mbxConflict).trims = s.trims ∧ (s.mbxConflict).plan = s.plan ∧ (s.mbxConflict).routing = s.routing ∧
    (s.mbxConflict).hammer = s.hammer ∧ (s.mbxConflict).bellows = s.bellows ∧ (s.mbxConflict).tamper = s.tamper ∧
    (s.mbxConflict).life = s.life ∧ (s.mbxConflict).power = s.power ∧ (s.mbxConflict).cards = s.cards ∧
    (s.mbxConflict).store = s.store := by
  and_intros <;> simp [State.mbxConflict]

@[simp] theorem State.mbxUnavailable_frame (s : State) :
    (s.mbxUnavailable).pending = s.pending ∧ (s.mbxUnavailable).now = s.now ∧ (s.mbxUnavailable).free = s.free ∧
    (s.mbxUnavailable).pins = s.pins ∧ (s.mbxUnavailable).chip = s.chip ∧ (s.mbxUnavailable).link = s.link ∧
    (s.mbxUnavailable).queues = s.queues ∧ (s.mbxUnavailable).qmgr = s.qmgr ∧ (s.mbxUnavailable).engine = s.engine ∧
    (s.mbxUnavailable).rack = s.rack ∧ (s.mbxUnavailable).crucible = s.crucible ∧ (s.mbxUnavailable).vault = s.vault ∧
    (s.mbxUnavailable).trims = s.trims ∧ (s.mbxUnavailable).plan = s.plan ∧ (s.mbxUnavailable).routing = s.routing ∧
    (s.mbxUnavailable).hammer = s.hammer ∧ (s.mbxUnavailable).bellows = s.bellows ∧ (s.mbxUnavailable).tamper = s.tamper ∧
    (s.mbxUnavailable).life = s.life ∧ (s.mbxUnavailable).power = s.power ∧ (s.mbxUnavailable).cards = s.cards ∧
    (s.mbxUnavailable).store = s.store := by
  and_intros <;> simp [State.mbxUnavailable]

@[simp] theorem State.legacyRelease_frame (r : Bytes) (s : State) :
    (s.legacyRelease r).pending = s.pending ∧ (s.legacyRelease r).now = s.now ∧ (s.legacyRelease r).free = s.free ∧
    (s.legacyRelease r).pins = s.pins ∧ (s.legacyRelease r).chip = s.chip ∧ (s.legacyRelease r).link = s.link ∧
    (s.legacyRelease r).fns = s.fns ∧ (s.legacyRelease r).queues = s.queues ∧ (s.legacyRelease r).qmgr = s.qmgr ∧
    (s.legacyRelease r).engine = s.engine ∧ (s.legacyRelease r).rack = s.rack ∧ (s.legacyRelease r).crucible = s.crucible ∧
    (s.legacyRelease r).vault = s.vault ∧ (s.legacyRelease r).trims = s.trims ∧ (s.legacyRelease r).plan = s.plan ∧
    (s.legacyRelease r).routing = s.routing ∧ (s.legacyRelease r).hammer = s.hammer ∧
    (s.legacyRelease r).bellows = s.bellows ∧ (s.legacyRelease r).worlds = s.worlds ∧ (s.legacyRelease r).zwm = s.zwm ∧
    (s.legacyRelease r).tamper = s.tamper ∧ (s.legacyRelease r).life = s.life ∧ (s.legacyRelease r).power = s.power ∧
    (s.legacyRelease r).cards = s.cards ∧ (s.legacyRelease r).store = s.store := by
  unfold State.legacyRelease
  try dsimp only
  and_intros <;> (repeat' split) <;> first | rfl | simp

@[simp] theorem State.legacyNow_frame (st : String) (s : State) :
    (s.legacyNow st).pending = s.pending ∧ (s.legacyNow st).now = s.now ∧ (s.legacyNow st).free = s.free ∧
    (s.legacyNow st).pins = s.pins ∧ (s.legacyNow st).chip = s.chip ∧ (s.legacyNow st).link = s.link ∧
    (s.legacyNow st).fns = s.fns ∧ (s.legacyNow st).queues = s.queues ∧ (s.legacyNow st).qmgr = s.qmgr ∧
    (s.legacyNow st).engine = s.engine ∧ (s.legacyNow st).rack = s.rack ∧ (s.legacyNow st).crucible = s.crucible ∧
    (s.legacyNow st).vault = s.vault ∧ (s.legacyNow st).trims = s.trims ∧ (s.legacyNow st).plan = s.plan ∧
    (s.legacyNow st).routing = s.routing ∧ (s.legacyNow st).hammer = s.hammer ∧ (s.legacyNow st).bellows = s.bellows ∧
    (s.legacyNow st).zwm = s.zwm ∧ (s.legacyNow st).tamper = s.tamper ∧ (s.legacyNow st).life = s.life ∧
    (s.legacyNow st).power = s.power ∧ (s.legacyNow st).cards = s.cards ∧ (s.legacyNow st).store = s.store := by
  unfold State.legacyNow
  try dsimp only
  and_intros <;> (repeat' split) <;> first | rfl | simp

@[simp] theorem State.legacyAbort_frame (st : String) (s : State) :
    (s.legacyAbort st).pending = s.pending ∧ (s.legacyAbort st).now = s.now ∧ (s.legacyAbort st).free = s.free ∧
    (s.legacyAbort st).pins = s.pins ∧ (s.legacyAbort st).chip = s.chip ∧ (s.legacyAbort st).link = s.link ∧
    (s.legacyAbort st).fns = s.fns ∧ (s.legacyAbort st).queues = s.queues ∧ (s.legacyAbort st).qmgr = s.qmgr ∧
    (s.legacyAbort st).engine = s.engine ∧ (s.legacyAbort st).rack = s.rack ∧ (s.legacyAbort st).crucible = s.crucible ∧
    (s.legacyAbort st).vault = s.vault ∧ (s.legacyAbort st).trims = s.trims ∧ (s.legacyAbort st).plan = s.plan ∧
    (s.legacyAbort st).routing = s.routing ∧ (s.legacyAbort st).hammer = s.hammer ∧ (s.legacyAbort st).bellows = s.bellows ∧
    (s.legacyAbort st).zwm = s.zwm ∧ (s.legacyAbort st).tamper = s.tamper ∧ (s.legacyAbort st).life = s.life ∧
    (s.legacyAbort st).power = s.power ∧ (s.legacyAbort st).cards = s.cards ∧ (s.legacyAbort st).store = s.store := by
  unfold State.legacyAbort
  try dsimp only
  and_intros <;> (repeat' split) <;> first | rfl | simp

@[simp] theorem State.endSession_frame (s : State) :
    (s.endSession).pending = s.pending ∧ (s.endSession).now = s.now ∧ (s.endSession).free = s.free ∧
    (s.endSession).sent = s.sent ∧ (s.endSession).pins = s.pins ∧ (s.endSession).chip = s.chip ∧
    (s.endSession).link = s.link ∧ (s.endSession).fns = s.fns ∧ (s.endSession).queues = s.queues ∧
    (s.endSession).qmgr = s.qmgr ∧ (s.endSession).engine = s.engine ∧ (s.endSession).rack = s.rack ∧
    (s.endSession).crucible = s.crucible ∧ (s.endSession).vault = s.vault ∧ (s.endSession).trims = s.trims ∧
    (s.endSession).plan = s.plan ∧ (s.endSession).routing = s.routing ∧ (s.endSession).hammer = s.hammer ∧
    (s.endSession).bellows = s.bellows ∧ (s.endSession).worlds = s.worlds ∧ (s.endSession).zwm = s.zwm ∧
    (s.endSession).tamper = s.tamper ∧ (s.endSession).life = s.life ∧ (s.endSession).power = s.power ∧
    (s.endSession).store = s.store ∧ (s.endSession).legacy = s.legacy := by
  unfold State.endSession
  try dsimp only
  and_intros <;> (repeat' split) <;> first | rfl | simp

@[simp] theorem State.endCeremony_frame (n : Nat) (s : State) :
    (s.endCeremony n).pending = s.pending ∧ (s.endCeremony n).now = s.now ∧ (s.endCeremony n).free = s.free ∧
    (s.endCeremony n).pins = s.pins ∧ (s.endCeremony n).chip = s.chip ∧ (s.endCeremony n).link = s.link ∧
    (s.endCeremony n).queues = s.queues ∧ (s.endCeremony n).qmgr = s.qmgr ∧ (s.endCeremony n).engine = s.engine ∧
    (s.endCeremony n).rack = s.rack ∧ (s.endCeremony n).crucible = s.crucible ∧ (s.endCeremony n).trims = s.trims ∧
    (s.endCeremony n).plan = s.plan ∧ (s.endCeremony n).routing = s.routing ∧ (s.endCeremony n).hammer = s.hammer ∧
    (s.endCeremony n).bellows = s.bellows ∧ (s.endCeremony n).tamper = s.tamper ∧ (s.endCeremony n).life = s.life ∧
    (s.endCeremony n).power = s.power := by
  unfold State.endCeremony
  try dsimp only
  and_intros <;> (repeat' split) <;> first | rfl | simp

/-- Every operation in flight that satisfies `p` ends: what a fold of `fail` leaves unchanged. -/
theorem State.foldl_keeps {β γ : Type} (g : State → γ) (f : State → β → State) (h : ∀ s x, g (f s x) = g s) (l : List β) (s : State) :
    g (l.foldl f s) = g s := by
  induction l generalizing s with
  | nil => rfl
  | cons x l ih => simp [ih, h]

@[simp] theorem State.failAll_pending (p : Op → Bool) (st d : Nat) (s : State) : (s.failAll p st d).pending = s.pending :=
  State.foldl_keeps (·.pending) _ (by simp) _ _

@[simp] theorem State.failAll_now (p : Op → Bool) (st d : Nat) (s : State) : (s.failAll p st d).now = s.now :=
  State.foldl_keeps (·.now) _ (by simp) _ _

@[simp] theorem State.failAll_free (p : Op → Bool) (st d : Nat) (s : State) : (s.failAll p st d).free = s.free :=
  State.foldl_keeps (·.free) _ (by simp) _ _

@[simp] theorem State.failAll_pins (p : Op → Bool) (st d : Nat) (s : State) : (s.failAll p st d).pins = s.pins :=
  State.foldl_keeps (·.pins) _ (by simp) _ _

@[simp] theorem State.failAll_chip (p : Op → Bool) (st d : Nat) (s : State) : (s.failAll p st d).chip = s.chip :=
  State.foldl_keeps (·.chip) _ (by simp) _ _

@[simp] theorem State.failAll_link (p : Op → Bool) (st d : Nat) (s : State) : (s.failAll p st d).link = s.link :=
  State.foldl_keeps (·.link) _ (by simp) _ _

@[simp] theorem State.failAll_fns (p : Op → Bool) (st d : Nat) (s : State) : (s.failAll p st d).fns = s.fns :=
  State.foldl_keeps (·.fns) _ (by simp) _ _

@[simp] theorem State.failAll_queues (p : Op → Bool) (st d : Nat) (s : State) : (s.failAll p st d).queues = s.queues :=
  State.foldl_keeps (·.queues) _ (by simp) _ _

@[simp] theorem State.failAll_qmgr (p : Op → Bool) (st d : Nat) (s : State) : (s.failAll p st d).qmgr = s.qmgr :=
  State.foldl_keeps (·.qmgr) _ (by simp) _ _

@[simp] theorem State.failAll_crucible (p : Op → Bool) (st d : Nat) (s : State) : (s.failAll p st d).crucible = s.crucible :=
  State.foldl_keeps (·.crucible) _ (by simp) _ _

@[simp] theorem State.failAll_trims (p : Op → Bool) (st d : Nat) (s : State) : (s.failAll p st d).trims = s.trims :=
  State.foldl_keeps (·.trims) _ (by simp) _ _

@[simp] theorem State.failAll_tamper (p : Op → Bool) (st d : Nat) (s : State) : (s.failAll p st d).tamper = s.tamper :=
  State.foldl_keeps (·.tamper) _ (by simp) _ _

@[simp] theorem State.failAll_life (p : Op → Bool) (st d : Nat) (s : State) : (s.failAll p st d).life = s.life :=
  State.foldl_keeps (·.life) _ (by simp) _ _

@[simp] theorem State.failAll_power (p : Op → Bool) (st d : Nat) (s : State) : (s.failAll p st d).power = s.power :=
  State.foldl_keeps (·.power) _ (by simp) _ _

@[simp] theorem State.failAll_store (p : Op → Bool) (st d : Nat) (s : State) : (s.failAll p st d).store = s.store :=
  State.foldl_keeps (·.store) _ (by simp) _ _

@[simp] theorem State.failAll_legacy (p : Op → Bool) (st d : Nat) (s : State) : (s.failAll p st d).legacy = s.legacy :=
  State.foldl_keeps (·.legacy) _ (by simp) _ _

end Sys2Proof.Machine
end

