-- ==== Sys2Proof/Laws/Table.lean ====
section
/-!
SUPPORT. Sparse tables: reading after writing, and the canonical form that every table operation keeps.
-/
namespace Sys2Proof.Machine

variable {α : Type}

@[simp] theorem tget_nil (d : α) (k : Nat) : tget d [] k = d := rfl

theorem tget_cons (d : α) (j : Nat) (x : α) (t : List (Nat × α)) (k : Nat) :
    tget d ((j, x) :: t) k = if j = k then x else tget d t k := rfl

variable [DecidableEq α]

theorem tabove_mono (d : α) {b c : Nat} (h : b ≤ c) : ∀ {t : List (Nat × α)}, tabove d c t → tabove d b t
  | [], _ => rfl
  | (j, x) :: t, ht => by
    simp only [tabove, Bool.and_eq_true, decide_eq_true_eq] at ht ⊢
    exact ⟨⟨by omega, ht.1.2⟩, ht.2⟩

/-- Below its first key a table lists nothing. -/
theorem tget_of_tabove (d : α) {b k : Nat} (h : k ≤ b) : ∀ {t : List (Nat × α)}, tabove d b t → tget d t k = d
  | [], _ => rfl
  | (j, x) :: t, ht => by
    simp only [tabove, Bool.and_eq_true, decide_eq_true_eq] at ht
    rw [tget_cons, if_neg (by omega)]
    exact tget_of_tabove d (by omega) ht.2

/-- Writing keeps a table above a key smaller than the written one. -/
theorem tabove_tset (d : α) {b k : Nat} (v : α) (h : b < k) :
    ∀ {t : List (Nat × α)}, tabove d b t → tabove d b (tset d k v t)
  | [], _ => by
    simp only [tset]
    split <;> simp_all [tabove]
  | (j, x) :: t, ht => by
    simp only [tabove, Bool.and_eq_true, decide_eq_true_eq] at ht
    simp only [tset]
    split
    · split
      · simp_all [tabove]
      · simp_all [tabove]
    · split
      · split
        · exact tabove_mono d (by omega) ht.2
        · subst_vars
          simp_all [tabove]
      · have := tabove_tset d v (b := j) (k := k) (by omega) ht.2
        simp_all [tabove]

/-- Writing keeps the canonical form. -/
theorem twf_tset (d : α) (k : Nat) (v : α) {t : List (Nat × α)} (h : twf d t) : twf d (tset d k v t) := by
  cases t with
  | nil => simp only [tset]; split <;> simp_all [twf, tabove]
  | cons e t =>
    obtain ⟨j, x⟩ := e
    simp only [twf, Bool.and_eq_true, decide_eq_true_eq] at h
    simp only [tset]
    split
    · split <;> simp_all [twf, tabove]
    · split
      · split
        · have h2 := h.2
          cases t with
          | nil => rfl
          | cons e t => obtain ⟨i, y⟩ := e; simp_all [twf, tabove]
        · subst_vars; simp_all [twf]
      · have := tabove_tset d v (b := j) (k := k) (by omega) h.2
        simp_all [twf]

/-- Changing one entry keeps the canonical form. -/
theorem twf_tmod (d : α) (k : Nat) (f : α → α) {t : List (Nat × α)} (h : twf d t) : twf d (tmod d k f t) :=
  twf_tset d k _ h

/-- A read after a write to the same key gives the value written. -/
theorem tget_tset_same (d : α) (k : Nat) (v : α) : ∀ {t : List (Nat × α)}, twf d t → tget d (tset d k v t) k = v
  | [], _ => by
    simp only [tset]
    split <;> simp_all [tget]
  | (j, x) :: t, h => by
    simp only [twf, Bool.and_eq_true, decide_eq_true_eq] at h
    simp only [tset]
    split
    · split
      · subst_vars
        rw [tget_cons, if_neg (by omega)]
        exact tget_of_tabove v (by omega) h.2
      · simp [tget]
    · split
      · split
        · subst_vars; exact tget_of_tabove v (le_refl _) h.2
        · simp [tget]
      · rw [tget_cons, if_neg (by omega)]
        refine tget_tset_same d k v ?_
        have h2 := h.2
        cases t with
        | nil => rfl
        | cons e t => obtain ⟨i, y⟩ := e; simp_all [twf, tabove]

/-- A write leaves every other key alone. -/
theorem tget_tset_ne (d : α) {k l : Nat} (v : α) (hne : l ≠ k) : ∀ (t : List (Nat × α)), tget d (tset d k v t) l = tget d t l
  | [] => by
    simp only [tset]
    split <;> simp [tget, Ne.symm hne]
  | (j, x) :: t => by
    simp only [tset]
    split
    · split
      · rfl
      · rw [tget_cons, if_neg (Ne.symm hne)]
    · split
      · subst_vars
        split
        · rw [tget_cons, if_neg (Ne.symm hne)]
        · rw [tget_cons, if_neg (Ne.symm hne), tget_cons, if_neg (Ne.symm hne)]
      · rw [tget_cons, tget_cons, tget_tset_ne d v hne t]

/-- A filtered table stays above its bound. -/
theorem tabove_filter (d : α) (p : Nat × α → Bool) : ∀ {b : Nat} {t : List (Nat × α)}, tabove d b t → tabove d b (t.filter p)
  | _, [], _ => rfl
  | b, (j, x) :: t, h => by
    simp only [tabove, Bool.and_eq_true, decide_eq_true_eq] at h
    rw [List.filter_cons]
    split
    · have := tabove_filter d p (b := j) h.2
      simp_all [tabove]
    · exact tabove_filter d p (tabove_mono d (by omega) h.2)

/-- A filtered table keeps the canonical form; so does a cleared range. -/
theorem twf_filter (d : α) (p : Nat × α → Bool) : ∀ {t : List (Nat × α)}, twf d t → twf d (t.filter p)
  | [], _ => rfl
  | (j, x) :: t, h => by
    simp only [twf, Bool.and_eq_true, decide_eq_true_eq] at h
    rw [List.filter_cons]
    split
    · have := tabove_filter d p h.2
      simp_all [twf]
    · refine twf_filter d p ?_
      have h2 := h.2
      cases t with
      | nil => rfl
      | cons e t => obtain ⟨i, y⟩ := e; simp_all [twf, tabove]

theorem twf_tclear (d : α) (lo hi : Nat) {t : List (Nat × α)} (h : twf d t) : twf d (tclear lo hi t) := twf_filter d _ h

theorem tabove_tmap (d : α) (f : Nat → α → α) : ∀ {b : Nat} {t : List (Nat × α)}, tabove d b t → tabove d b (tmap d f t)
  | _, [], _ => rfl
  | b, (j, x) :: t, h => by
    simp only [tabove, Bool.and_eq_true, decide_eq_true_eq] at h
    rw [tmap]
    split
    · exact tabove_tmap d f (tabove_mono d (by omega) h.2)
    · have := tabove_tmap d f (b := j) h.2
      simp_all [tabove]

/-- Changing every entry keeps the canonical form. -/
theorem twf_tmap (d : α) (f : Nat → α → α) : ∀ {t : List (Nat × α)}, twf d t → twf d (tmap d f t)
  | [], _ => rfl
  | (j, x) :: t, h => by
    simp only [twf, Bool.and_eq_true, decide_eq_true_eq] at h
    rw [tmap]
    split
    · refine twf_tmap d f ?_
      have h2 := h.2
      cases t with
      | nil => rfl
      | cons e t => obtain ⟨i, y⟩ := e; simp_all [twf, tabove]
    · have := tabove_tmap d f h.2
      simp_all [twf]

end Sys2Proof.Machine
end

