-- ==== Sys2Proof/Laws/State.lean ====
section
/-!
SUPPORT. Reads of State after its updates: one lemma per accessor and per update of the same table, for the same key and for another.
-/
namespace Sys2Proof.Machine

theorem State.fnOf_modFn_same (f : Nat) (g : Fn → Fn) (s : State) (h : twf {} s.fns = true) :
    (s.modFn f g).fnOf f = g (s.fnOf f) := tget_tset_same _ _ _ h

@[simp] theorem State.fnOf_modFn_ne (f k : Nat) (g : Fn → Fn) (s : State) (h : k ≠ f) :
    (s.modFn f g).fnOf k = s.fnOf k := tget_tset_ne _ _ h _

theorem State.tenantOf_modTenant_same (t : Nat) (g : Tenant → Tenant) (s : State) (h : twf {} s.vault.tenants = true) :
    (s.modTenant t g).tenantOf t = g (s.tenantOf t) := tget_tset_same _ _ _ h

@[simp] theorem State.tenantOf_modTenant_ne (t k : Nat) (g : Tenant → Tenant) (s : State) (h : k ≠ t) :
    (s.modTenant t g).tenantOf k = s.tenantOf k := tget_tset_ne _ _ h _

theorem State.portOf_modPort_same (n : Nat) (g : Port → Port) (s : State) (h : twf {} s.cards.ports = true) :
    (s.modPort n g).portOf n = g (s.portOf n) := tget_tset_same _ _ _ h

@[simp] theorem State.portOf_modPort_ne (n k : Nat) (g : Port → Port) (s : State) (h : k ≠ n) :
    (s.modPort n g).portOf k = s.portOf k := tget_tset_ne _ _ h _

theorem State.blockOf_modBlock_same (b : Nat) (g : Block → Block) (s : State) (h : twf {} s.engine.blocks = true) :
    (s.modBlock b g).blockOf b = g (s.blockOf b) := tget_tset_same _ _ _ h

@[simp] theorem State.blockOf_modBlock_ne (b k : Nat) (g : Block → Block) (s : State) (h : k ≠ b) :
    (s.modBlock b g).blockOf k = s.blockOf k := tget_tset_ne _ _ h _

theorem State.domainOf_modDomain_same (d : Nat) (g : Domain → Domain) (s : State) (h : twf {} s.power.domains = true) :
    (s.modDomain d g).domainOf d = g (s.domainOf d) := tget_tset_same _ _ _ h

@[simp] theorem State.domainOf_modDomain_ne (d k : Nat) (g : Domain → Domain) (s : State) (h : k ≠ d) :
    (s.modDomain d g).domainOf k = s.domainOf k := tget_tset_ne _ _ h _

theorem State.coreOf_modCore_same (c : Nat) (g : Core → Core) (s : State) (h : twf {} s.zwm.cores = true) :
    (s.modCore c g).coreOf c = g (s.coreOf c) := tget_tset_same _ _ _ h

@[simp] theorem State.coreOf_modCore_ne (c k : Nat) (g : Core → Core) (s : State) (h : k ≠ c) :
    (s.modCore c g).coreOf k = s.coreOf k := tget_tset_ne _ _ h _

theorem State.cellOf_modCell_same (c : Nat) (g : Cell → Cell) (s : State) (h : twf {} s.bellows.cells = true) :
    (s.modCell c g).cellOf c = g (s.cellOf c) := tget_tset_same _ _ _ h

@[simp] theorem State.cellOf_modCell_ne (c k : Nat) (g : Cell → Cell) (s : State) (h : k ≠ c) :
    (s.modCell c g).cellOf k = s.cellOf k := tget_tset_ne _ _ h _

theorem State.unitOf_modUnit_same (u : Nat) (g : HUnit → HUnit) (s : State) (h : twf {} s.hammer.units = true) :
    (s.modUnit u g).unitOf u = g (s.unitOf u) := tget_tset_same _ _ _ h

@[simp] theorem State.unitOf_modUnit_ne (u k : Nat) (g : HUnit → HUnit) (s : State) (h : k ≠ u) :
    (s.modUnit u g).unitOf k = s.unitOf k := tget_tset_ne _ _ h _

theorem State.termOf_modTerm_same (p : Nat) (g : Term → Term) (s : State) (h : twf {} s.routing.terms = true) :
    (s.modTerm p g).termOf p = g (s.termOf p) := tget_tset_same _ _ _ h

@[simp] theorem State.termOf_modTerm_ne (p k : Nat) (g : Term → Term) (s : State) (h : k ≠ p) :
    (s.modTerm p g).termOf k = s.termOf k := tget_tset_ne _ _ h _

theorem queueKey_inj {f g q r : Nat} (hq : q < 4096) (hr : r < 4096) (h : queueKey f q = queueKey g r) : f = g ∧ q = r := by
  simp only [queueKey] at h; omega

theorem State.queueOf_modQueue_same (f q : Nat) (g : Queue → Queue) (s : State) (h : twf {} s.queues = true) :
    (s.modQueue f q g).queueOf f q = g (s.queueOf f q) := tget_tset_same _ _ _ h

@[simp] theorem State.queueOf_modQueue_ne (f q k r : Nat) (g : Queue → Queue) (s : State) (h : queueKey k r ≠ queueKey f q) :
    (s.modQueue f q g).queueOf k r = s.queueOf k r := tget_tset_ne _ _ h _

theorem State.slotOf_setSlot_same (n : Nat) (x : Slot) (s : State) (h : twf {} s.rack.slots = true) :
    State.slotOf { s with rack := { s.rack with slots := tset {} n x s.rack.slots } } n = x := tget_tset_same _ _ _ h

theorem State.slotOf_setSlot_ne (n k : Nat) (x : Slot) (s : State) (h : k ≠ n) :
    State.slotOf { s with rack := { s.rack with slots := tset {} n x s.rack.slots } } k = s.slotOf k := tget_tset_ne _ _ h _

theorem State.reg_setReg_same (c r : Nat) (v : TWord) (s : State) (hc : twf {} s.zwm.cores = true)
    (hr : twf {} (s.coreOf c).regs = true) : (s.setReg c r v).reg c r = v := by
  simp only [State.reg, State.setReg, State.coreOf_modCore_same _ _ _ hc]
  exact tget_tset_same _ _ _ hr

theorem State.reg_setReg_ne (c r k : Nat) (v : TWord) (s : State) (hc : twf {} s.zwm.cores = true) (h : k ≠ r) :
    (s.setReg c r v).reg c k = s.reg c k := by
  simp only [State.reg, State.setReg, State.coreOf_modCore_same _ _ _ hc]
  exact tget_tset_ne _ _ h _

/-! ### Operations in flight -/

theorem State.opOf_id {s : State} {op : Nat} {o : Op} (h : s.opOf op = some o) : o.id = op := by
  have h := List.find?_some h
  simpa using h

/-- A change of one operation that keeps its number is read back. -/
theorem State.opOf_modOp (id k : Nat) (g : Op → Op) (s : State) (hg : ∀ o, (g o).id = o.id) :
    (s.modOp id g).opOf k = (s.opOf k).map fun o => if o.id = id then g o else o := by
  simp only [State.opOf, State.modOp, List.find?_map]
  have hp : ((fun o : Op => o.id == k) ∘ fun o => if o.id == id then g o else o) = fun o => o.id == k := by
    funext o
    by_cases h : o.id = id <;> simp [h, hg]
  rw [hp]
  simp only [beq_iff_eq]

theorem State.opOf_modOp_ne (id k : Nat) (g : Op → Op) (s : State) (hg : ∀ o, (g o).id = o.id) (h : k ≠ id) :
    (s.modOp id g).opOf k = s.opOf k := by
  rw [State.opOf_modOp id k g s hg]
  cases ho : s.opOf k with
  | none => rfl
  | some o =>
    have hid := State.opOf_id ho
    simp [hid, h]

theorem State.opOf_modOp_same (id : Nat) (g : Op → Op) (s : State) (hg : ∀ o, (g o).id = o.id) {o : Op} (h : s.opOf id = some o) :
    (s.modOp id g).opOf id = some (g o) := by
  rw [State.opOf_modOp id id g s hg, h]
  simp [State.opOf_id h]

end Sys2Proof.Machine
end

