-- ==== Sys2Proof/Laws/Ops.lean ====
section
/-!
SUPPORT. What the shared operations answer: one lemma per operation, which a proof about a command cites in place of unfolding it.
-/
namespace Sys2Proof.Machine

/-! ### The end of an operation (R106, R128) -/

@[simp] theorem Op.end_id (st d n : Nat) (r : Bytes) (o : Op) : (o.end_ st d n r).id = o.id := rfl

@[simp] theorem State.opOf_releaseOp (id k : Nat) (s : State) : (s.releaseOp id).opOf k = s.opOf k := rfl

@[simp] theorem State.opOf_serviceRegs (st d l k : Nat) (s : State) : (s.serviceRegs st d l).opOf k = s.opOf k := rfl

/-- Giving back a reservation keeps an operation but for its mark. -/
theorem State.opOf_unreserve (id k : Nat) (s : State) {o : Op} (h : s.opOf k = some o) :
    (s.unreserve id).opOf k = some o ∨ (s.unreserve id).opOf k = some { o with reserved := false } := by
  unfold State.unreserve
  cases ho : s.opOf id with
  | none => exact .inl h
  | some p =>
    by_cases hr : p.reserved = true
    · simp only [hr, if_true]
      change (s.modOp id fun o => { o with reserved := false }).opOf k = _ ∨ _
      by_cases hk : k = id
      · subst hk
        right
        exact State.opOf_modOp_same k (fun o => { o with reserved := false }) s (fun _ => rfl) h
      · left
        exact (State.opOf_modOp_ne id k (fun o => { o with reserved := false }) s (fun _ => rfl) hk).trans h
    · simp only [hr]
      exact .inl h

/-- An operation that `finish` ends waits for its completion entry with what was handed to it; a failure carries no output. -/
theorem State.finish_ended {s : State} {op : Nat} {o : Op} (h : s.opOf op = some o) (st d n : Nat) (r : Bytes) :
    (s.finish op st d n r).Ended op st d (if st / 256 = 0 then n else 0) (if st / 256 = 0 then r else []) := by
  have key : ∀ p : Op, (s.unreserve op).opOf op = some p →
      (s.finish op st d n r).opOf op = some (p.end_ st d n r) := by
    intro p hp
    have h2 := State.opOf_modOp_same op (Op.end_ st d n r) (s.unreserve op) (fun _ => rfl) hp
    unfold State.finish
    dsimp only
    split <;> simpa using h2
  rcases State.opOf_unreserve op op s h with hp | hp
  · exact ⟨_, key _ hp, rfl, rfl, rfl, rfl, rfl, rfl⟩
  · exact ⟨_, key _ hp, rfl, rfl, rfl, rfl, rfl, rfl⟩

/-- The other operations keep everything but a reservation mark of their own. -/
theorem State.opOf_finish_ne {s : State} {op k : Nat} (hk : k ≠ op) (st d n : Nat) (r : Bytes) :
    (s.finish op st d n r).opOf k = s.opOf k := by
  have h1 : (s.unreserve op).opOf k = s.opOf k := by
    unfold State.unreserve
    cases ho : s.opOf op with
    | none => rfl
    | some p =>
      by_cases hr : p.reserved = true
      · simp only [hr, if_true]
        exact State.opOf_modOp_ne op k (fun o => { o with reserved := false }) s (fun _ => rfl) hk
      · simp [hr]
  have h2 := State.opOf_modOp_ne op k (Op.end_ st d n r) (s.unreserve op) (fun _ => rfl) hk
  unfold State.finish
  dsimp only
  split <;> simpa [h1] using h2

/-! ### Which operation a command serves -/

theorem State.onOp_of {s : State} {op c : Nat} {o : Op} {g : Stage} (h : s.opOf op = some o) (hc : o.opcode = c) (hg : o.stage = g)
    (f : Op → State → State) : s.onOp op c g f = f o s := by
  simp [State.onOp, h, hc, hg]

/-- A command for a block runs where the block holds the operation. -/
theorem State.onBlock_of {s : State} {op c : Nat} {o : Op} (h : s.InBlock op c o) (f : Op → State → State) :
    s.onOp op c .block f = f o s := State.onOp_of h.1 h.2.1 h.2.2 f

/-- A command for a Hammer unit runs where a unit holds the job. -/
theorem State.onJob_of {s : State} {op c : Nat} {o : Op} (h : s.OnUnit op c o) (f : Op → State → State) : s.onJob op c f = f o s := by
  simp [State.onJob, State.onBlock_of h.1, h.2]

/-- A command for the Rack runs where the Hearth serves the operation. -/
theorem State.onService_of {s : State} {op c : Nat} {o : Op} (h : s.Serving op c o) (f : Op → State → State) :
    s.onService op c f = f o s := by
  obtain ⟨h1, h2, h3, h4, h5⟩ := h
  simp [State.onService, State.onOp_of h1 h2 h3, h4, h5]

/-- Lists that pass check 7 let the operation go on, with all that it reads read. -/
theorem State.checked_of {s : State} {o : Op} {dma : Dma} {need most : Nat} (h : check7 o.desc dma need most = none)
    (f : State → State) : s.checked o dma need most f = f (s.hasRead o dma) := by
  simp [State.checked, State.checkLists, h, State.hasRead]

/-- The reads of an operation send requests and mark the operation; nothing else changes. -/
theorem State.hasRead_frame (s : State) (o : Op) (dma : Dma) :
    s.hasRead o dma = { s with sent := (s.hasRead o dma).sent, engine := (s.hasRead o dma).engine } := by
  unfold State.hasRead State.readData State.readLists
  split <;> split <;> rfl

/-! ### Randomness -/

/-- With its randomness there an operation goes on, and has used it. -/
theorem State.gated_of {s : State} {o : Op} {level blocks : Nat} {e : Bytes} (h : s.Fed o blocks e) (f : Bytes → State → State) :
    s.gated o level blocks f = f e (State.used o.id s) := by
  rcases h with h | ⟨h1, h2, h3, h4, h5⟩
  · simp [State.gated, State.request, h, State.used]
  · simp [State.gated, State.request, h1, h2, h3, h4, h5, State.used]

/-- A generate request that is served at once. -/
theorem State.drawLocal_of {s : State} {o : Op} (h : s.DrawsNow o) (n : Nat) (k : Bytes → Bool → State → State) :
    s.drawLocal o n false [] k = k (genInst (s.instOf o.fn (dDrbg o.desc)) n []).1 false
      (s.drew o n (genInst (s.instOf o.fn (dDrbg o.desc)) n []).2) := by
  obtain ⟨h1, h2, h3, h4, h5, h6, h7⟩ := h
  have hi : (s.askInst o.id).instOf o.fn (dDrbg o.desc) = s.instOf o.fn (dDrbg o.desc) := by unfold State.askInst; split <;> rfl
  have hb : (s.askInst o.id).bellows.state = .ok := by unfold State.askInst; split <;> exact h3
  have hw : (s.askInst o.id).waitsSeed (.op o.id) = false := by unfold State.askInst; split <;> exact h4
  have hc : (s.askInst o.id).coreFor o.id = s.coreFor o.id := by unfold State.askInst; split <;> rfl
  have hf : (s.askInst o.id).Fed o 0 [] := .inr ⟨rfl, rfl, h5, hb, hw⟩
  simp only [State.drawLocal, State.inTurn, h6, if_true, hi, h1, h2, hb, h5, hc, h7]
  simp [State.gated_of hf, State.drew, State.used, State.instOf]
  rw [show (s.askInst o.id).bellows.insts = s.bellows.insts by unfold State.askInst; split <;> rfl]

/-- One generate request to the internal instance. -/
theorem State.blind_eq (s : State) (n : Nat) (k : Bytes → State → State) : s.blind n k = k (s.blindBytes n) (s.drewBlind n) := rfl

/-- The Hearth goes on with what Bellows has drawn for it. -/
theorem State.hearthDraw_of {s : State} {b : Bytes} (h : s.bellows.given = some b) (n : Nat) (k : Bytes → State → State) (no : State → State) :
    s.hearthDraw n k no = k (b.take n) s.tookDraw := by
  simp [State.hearthDraw, State.request, h, State.tookDraw]

/-- A job of the Hearth runs at once on an idle unit. -/
theorem State.hearthJob_of {s : State} (h : s.HearthUnit) (rate : Nat × Bool) (k : State → State) :
    s.hearthJob rate k = k (s.drewBlind shareBytes) := by
  obtain ⟨h1, h2⟩ := h
  have a : (s.hammer.units.any fun u => u.2.job == some 0) = false := by
    rw [List.any_eq_false]; intro u hu; simpa using (h2 u hu).1
  have b : (s.hammer.units.any fun u => u.2.marked == some 0) = false := by
    rw [List.any_eq_false]; intro u hu; simpa using (h2 u hu).2
  simp [State.hearthJob, a, b, h1, State.blind_eq]

/-- A draw of the Hearth for a job, where the draw has been served and a unit is idle. -/
theorem State.hearthDrawJob_of {s : State} {b : Bytes} (hu : s.HearthUnit) (h : s.bellows.given = some b) (n : Nat) (rate : Nat × Bool)
    (k : Bytes → State → State) (no : State → State) : s.hearthDrawJob n rate k no = k (b.take n) s.hearthRuns := by
  have hg : (s.drewBlind shareBytes).bellows.given = some b := h
  simp [State.hearthDrawJob, h, State.hearthJob_of hu, State.hearthDraw_of hg, State.hearthRuns]

/-- A sound blob reaches the operation without its key header. -/
theorem State.withBlob_of {s : State} {o : Op} {dma : Dma} {kind use : Nat} {m : Bytes} (h : s.BlobOf o dma kind use m)
    (f : Bytes → State → State) : s.withBlob o dma kind use f = f (m.drop 8) s := by
  obtain ⟨h1, h2, h3, h4, h5, h6, h7, h8⟩ := h
  simp only [State.withBlob, h3, h4, h5, h6, h7, h8]
  rw [if_neg (by omega)]
  simp

/-! ### The word machine -/

theorem specBytes_length (p : Spec) : (specBytes p).length = 1 + extLen (opMode p) := by
  have : ∀ n v, (leBytes n v).length = n := by
    intro n; induction n with
    | zero => intro v; rfl
    | succ n ih => intro v; simp [leBytes, ih]
  simp [specBytes, this, Nat.add_comm]

/-- A legal instruction fits in the 20 bytes that a fetch reads. -/
theorem Insn.bytes_of_ok {i : Insn} (h : encodingOk i.form i.sz i.dests i.ops = true) : i.bytes = insnBytes i.op i.sz i.ops := by
  have hl : insnLen i.ops ≤ 20 := by simp [encodingOk] at h; exact h.2
  refine List.take_of_length_le ?_
  simp only [insnLen] at hl
  simp only [List.length_cons, List.length_flatMap, specBytes_length]
  omega

/-- A ready core fetches, checks and runs its instruction. -/
theorem State.runOnce_of {s : State} {c : Nat} {i : Insn} (h : s.Ready c i.op i.form i.sz i.dests i.ops) :
    s.runOnce c i (s.coreOf c).pc = i.body (s.coreOf c).pc s := by
  obtain ⟨-, -, h3, h4⟩ := h
  simp [State.runOnce, Insn.bytes_of_ok h4, h3, h4]

/-- An instruction of a ready core whose body sets no PC: its state, with PC past it. -/
theorem State.run_of_plain {s t : State} {c : Nat} {i : Insn} (h : s.Ready c i.op i.form i.sz i.dests i.ops)
    (hb : i.body (s.coreOf c).pc s = .ok (t, none)) : s.run c i = t.past c (s.coreOf c).pc i.ops := by
  simp [State.run, h.1, h.2.1, State.runOnce_of h, hb, State.past]

/-- An instruction of a ready core whose body sets PC. -/
theorem State.run_of_jump {s t : State} {c : Nat} {i : Insn} {a : BitVec 64} (h : s.Ready c i.op i.form i.sz i.dests i.ops)
    (hb : i.body (s.coreOf c).pc s = .ok (t, some a)) : s.run c i = t.jumped c a := by
  simp [State.run, h.1, h.2.1, State.runOnce_of h, hb, State.jumped]

/-- An instruction of a ready core whose body stops. -/
theorem State.run_of_stop {s : State} {c : Nat} {i : Insn} {e : Stop × Nat} (h : s.Ready c i.op i.form i.sz i.dests i.ops)
    (hb : i.body (s.coreOf c).pc s = .error e) : s.run c i = s.stop c e := by
  simp [State.run, h.1, h.2.1, State.runOnce_of h, hb]

/-- The shape of arithmetic: operands, result tag, result, flags. -/
theorem State.run_alu3 {op c : Nat} {s s₁ s₂ s₃ : State} {sz : BitVec 8} {d a b : Spec} {u : AddrUse} {readsC : Bool}
    {f : Nat → Nat → Nat → Nat → State → Z (AluOut × State)} {q : Place} {x y : TWord} {g : BitVec 4} {o : AluOut}
    (h : s.Ready c op .any sz 1 [d, a, b]) (hx : s.Takes3 c (szBytes sz) d a b q x y s₁)
    (hg : resultTag u x y (readsC && s₁.flag c 4) = .ok g)
    (hf : f (szBytes sz) x.val.toNat y.val.toNat (if s₁.flag c 0 then 1 else 0) s₁ = .ok (o, s₂))
    (ha : g = tAddr → colourOf (BitVec.ofNat 64 o.r) = addrColour x y)
    (hp : s₂.put c (szBytes sz) q { val := BitVec.ofNat 64 o.r, tag := g } = .ok s₃) :
    s.run c (alu3 op c sz d a b u readsC f) = (s₃.setFlags c (szBytes sz) o (g == tSecret)).past c (s.coreOf c).pc [d, a, b] := by
  obtain ⟨s1, s2, t1, t2, t3⟩ := hx
  apply State.run_of_plain h
  have hA : ¬ (g = tAddr ∧ colourOf (BitVec.ofNat 64 o.r) ≠ addrColour x y) := fun e => e.2 (ha e.1)
  simp [alu3, plain, bind, Except.bind, t1, t2, t3, hg, hf, ofOperand, hA, hp]

/-- The shape of a move. -/
theorem State.run_unary {op c : Nat} {s s₁ s₂ : State} {sz : BitVec 8} {d a : Spec} {f : TWord → Z TWord} {q : Place} {x v : TWord}
    (h : s.Ready c op .any sz 1 [d, a]) (hx : s.Takes2 c (szBytes sz) d a q x s₁) (hf : f x = .ok v)
    (hp : s₁.put c (szBytes sz) q v = .ok s₂) : s.run c (unary op c sz d a f) = s₂.past c (s.coreOf c).pc [d, a] := by
  obtain ⟨s1, t1, t2⟩ := hx
  apply State.run_of_plain h
  simp [unary, plain, bind, Except.bind, t1, t2, hf, hp]

/-! ### Memories -/

/-- The memories of both worlds keep their canonical form under a store of a word. -/
theorem State.putWord_keeps (a : Area) (loc : Nat) (w : MWord) (s : State) (h : s.MemSound) : (s.putWord a loc w).MemSound := by
  obtain ⟨h1, h2, h3, h4⟩ := h
  cases a <;> simp only [State.putWord, State.MemSound] <;> refine ⟨?_, ?_, ?_, ?_⟩ <;>
    first
      | assumption
      | exact twf_tset _ _ _ ‹_›

/-- A word stored is read back. -/
theorem State.wordAt_putWord (a : Area) (loc : Nat) (w : MWord) (s : State) (h : s.MemSound) (hr : a ≠ .rom)
    (hs : ∀ k, a ≠ .slot k) : (s.putWord a loc w).wordAt a loc = w := by
  obtain ⟨h1, h2, h3, h4⟩ := h
  cases a with
  | rom => exact absurd rfl hr
  | slot k => exact absurd rfl (hs k)
  | sram => exact tget_tset_same _ _ _ h1
  | msg => exact tget_tset_same _ _ _ h3
  | bsram => exact tget_tset_same _ _ _ h2

/-- A word elsewhere keeps its value. -/
theorem State.wordAt_putWord_ne (a b : Area) (loc k : Nat) (w : MWord) (s : State) (h : k / 8 ≠ loc / 8) :
    (s.putWord a loc w).wordAt b k = s.wordAt b k := by
  cases a <;> cases b <;> first | rfl | exact tget_tset_ne _ _ h _

/-- Clearing a range of a memory, as the end of a service does, keeps the canonical form. -/
theorem State.serviceRegs_keeps (st d l : Nat) (s : State) (h : s.MemSound) : (s.serviceRegs st d l).MemSound :=
  ⟨twf_tclear _ _ _ h.1, h.2.1, h.2.2.1, h.2.2.2⟩

/-! ### The Rack -/

/-- A key that is placed keeps the Rack in canonical form. -/
theorem State.setSlot_keeps (n : Nat) (x : Slot) (s : State) (h : s.RackSound) :
    State.RackSound { s with rack := { s.rack with slots := tset {} n x s.rack.slots } } := twf_tset _ _ _ h

end Sys2Proof.Machine
end

