-- ==== Sys2Proof/Tests/Slice0.lean ====
section
/-!
SUPPORT. The model's own tests: ill-formed commands that WellFormed.lean refuses, single commands on small states, and for each statement
of Certificates/Slice0/Obligations.lean that has hypotheses a theorem that shows, clause by clause, a concrete state and operands which meet
all of them together.
-/
open Sys2Proof Sys2Proof.Machine
namespace Sys2Proof.Tests

-- One theorem at a time: the many small evaluations below would otherwise take a thread each.
set_option Elab.async false


/-! ### Small states -/

/-- A chip in READY: link trained, queue engine on, both worlds ready, the vault up, Bellows in OK. -/
def up : State where
  chip := { state := .ready, endState := .ready, started := true, crs := false, engineOn := true }
  link := { speed := 1, width := 1 }
  bellows := { state := .ok }
  worlds := { hearth := { status := 1 }, bench := { status := 1 }, vaultUp := true, hbi := 1 }
  life := { stage := 2, ownerHash := some 1 }

/-- A descriptor from its fields; the source and the destination lie apart. -/
def desc (opcode : Nat) (flags plan dlen param aad aux : Nat := 0) (slot tenant : Nat := 0) (drbg : Nat := 0) : BitVec 512 :=
  BitVec.ofNat 512 (opcode + flags * 2 ^ 16 + tenant * 2 ^ 48 + slot * 2 ^ 64 + plan * 2 ^ 80 + dlen * 2 ^ 96 + 0x10000 * 2 ^ 128 +
    0x4000000 * 2 ^ 192 + param * 2 ^ 256 + aad * 2 ^ 384 + drbg * 2 ^ 432 + aux * 2 ^ 448)

/-- Operation 1 of function 0 with a descriptor, in a stage. -/
def job (stage : Stage) (d : BitVec 512) (key : Bytes := List.replicate 16 1) (attr : BitVec 128 := 0) : Op :=
  { id := 1, desc := d, stage := stage, keys := [{ material := key, attr := attr }] }

/-- The chip with one operation in flight. -/
def holding (o : Op) : State := { up with engine := { tasks := [o], nextId := 2 } }

/-- The chip with DRBG instance 0 of function 0 instantiated. -/
def fed (o : Op) : State :=
  { holding o with bellows := { state := .ok, insts := [(0, { up := true, key := 1, v := 2 })] } }

/-- The chip with queue 0 of function 0, pending for the Host region's scheduler. -/
def queued (q : Queue) : State :=
  { up with fns := [(0, { queues := 1 })], queues := [(0, q)], engine := { pendSet := [(0, true)] } }

/-- The operation that a fetched descriptor starts. -/
def fetched (s : State) (f q : Nat) (d : BitVec 512) : Op :=
  { id := s.engine.nextId, fn := f, queue := q, seq := (s.queueOf f q).nextSeq, desc := d
    gen := (s.fnOf f).allowGen, prio := (s.fnOf f).priority }

/-- A generate request with PREDICT whose seed has come, and its instance seeded again. -/
def predOp : Op := { job .block (desc 0x0502 (dlen := 1) (aux := 1)) with seed := some [1] }
def predSt : State := State.seedInst 0 0 [1] (drbgString predOp {}) (State.used 1 (State.hasRead predOp {} (State.askInst 1 (fed predOp))))

/-- The chip with a root, its persistent region sealed under it, and a quota write that is not yet persistent. -/
def sealedBase : State := { up with crucible := { drk := 1 }, vault := { quotaDirty := [(0, true)] } }
def sealedSt : State := sealedBase.sealRegion
theorem open_seal (s : State) (h : s.rooted = true) : s.sealRegion.regionOpen = true := by
  have e : s.sealRegion.vault.regionKey = s.sealRegion.hprKey := rfl
  rw [State.regionOpen, e, beq_self_eq_true, Bool.and_true]
  exact h
theorem sealedSt_open : sealedSt.regionOpen = true := open_seal sealedBase (by decide)

/-- Sixteen entries, enabled. -/
def ring : Queue := { depth := 16, enable := true }

/-- VF 255 with its resources. -/
def vf (n : Fn) : State := { up with link := { vfEnable := true, numVfs := 255 }, fns := [(255, n)] }

/-- The Hearth serves a VAULTMBX request. -/
def asked (code : Nat) (body : Bytes) : State :=
  { up with worlds := { up.worlds with
      running := some .mbx, go := true
      snap := fit 16 (leBytes 1 code ++ [0, 0, 0] ++ leBytes 2 body.length) ++ body } }

/-- An unsigned image of a kind (R457) and an assignment table (R358). -/
def image (k : Nat) (body : Bytes) : Bytes :=
  ascii "ZYIM" ++ [1, BitVec.ofNat 8 (k + 1), 0, 0, 1, 0, 0, 0, 0x10, 0x10, 1, 0, 1, 0, 0, 0] ++ leBytes 4 body.length ++
    List.replicate 8 0 ++ Sha.sha384 body ++ List.replicate 48 0 ++ body
def table : Bytes :=
  ascii "ZYAT" ++ [1] ++ List.replicate 55 0 ++ List.replicate 4 1 ++ List.replicate 104 0 ++ List.replicate 8 1 ++ List.replicate 32 0

/-- A part in TEST_UNLOCKED with unsigned images of the Hearth and the Bench, before start-up. -/
def cold : State := { life := { stage := 1, tokenUsed := 1, flash := [(0, image 0 table), (2, image 1 [])] } }

/-- A part that holds its root. -/
def rooted (c : Nat) : State :=
  { crucible := { drk := 1, drkCheck := BitVec.ofNat 128 (beNat (drkCheckOf (beBytes 32 (1 : BitVec 256).toNat))), latchCls := c } }

theorem rooted_ok (c : Nat) : (rooted c).rootOk = true := by simp [State.rootOk, rooted]

/-- The chip with operation 1 on Hammer unit 0 and DRBG instance 0 instantiated. -/
def jobSt (o : Op) : State := { fed o with hammer := { units := [(0, { job := some 1 })] } }

/-- A number engine job. -/
def unitJob (d : BitVec 512) (attr : BitVec 128 := 0) (key : Bytes := []) : Op :=
  { job .block d (attr := attr) (key := key) with block := 0x40 }

/-- An RSA job with a modulus of 1,024 bits, a key part of 132 bytes and an input of 160. -/
def rsaJob (c : Nat) (param : Nat := 0) : Op := unitJob (desc c (flags := 4) (plan := 1024) (dlen := 292) (param := 132 + param))
def rsaDma (f : Nat) : Dma := { src := beBytes 4 (if f = 0 then 3 else 65537) ++ beBytes 128 (2 ^ 1023 + 1) }

/-- The same modulus before a larger input. -/
def rsaBig : Dma := { src := beBytes 4 3 ++ beBytes 128 (2 ^ 1023 + 1) ++ List.replicate 128 255 }

/-- A job on a curve or a parameter set in PLAN. -/
def ecJob (c plan : Nat) (keyLen : Nat := if plan = 2 then 65 else 32) : Op :=
  unitJob (desc c (flags := 4) (plan := plan) (dlen := keyLen + 100) (param := keyLen))
/-- The ECDSA_SIGN job of P-224, and the chip with the instance whose next block, the leading bytes of the nonce, is 0. -/
def signJob : Op := unitJob (desc 0x0410 (dlen := 28)) (attr := BitVec.ofNat 128 (1 * 2 ^ 88 + 28 * 2 ^ 80)) (key := List.replicate 27 0 ++ [1])
def signSt : State :=
  { jobSt signJob with bellows := { state := .ok, insts := [(0, { up := true, key := 1, v := 216196922619561646484588105840422375049 })] } }
def signDma : Dma := { src := [1, 2, 3] }
def signC : Ecc.Curve := Ecc.curve signJob.curveCode
def signU : State := State.hasRead signJob signDma signSt
def signR : Bytes × Inst := genInst (signU.instOf signJob.fn (dDrbg signJob.desc)) signC.len []
def signV : State := State.drewBlind signC.len (State.drew signJob signC.len signR.2 signU)
def signG : Option (Nat × Nat × Nat) × Inst :=
  nonceLoop signC (beNat signJob.keyCopy.bytes) (inputPart signJob signDma) 64 signR.1 (signV.instOf signJob.fn (dDrbg signJob.desc))
def ecDma : Dma := { src := Ecc.p256.encode Ecc.p256.g }
def edDma : Dma := { src := [1] }

/-- Jobs keyed by P-256 with the scalar 1, and by Curve25519. -/
def ecdhJob (c : Nat) : Op :=
  unitJob (desc c (flags := 4) (dlen := 65)) (attr := BitVec.ofNat 128 (2 * 2 ^ 88 + 32 * 2 ^ 80)) (key := List.replicate 31 0 ++ [1])
def xJob : Op := unitJob (desc 0x0416 (flags := 4) (dlen := 32)) (attr := BitVec.ofNat 128 (7 * 2 ^ 88 + 32 * 2 ^ 80)) (key := List.replicate 32 1)

/-- An attribute template of R154 and the stored word of a key. -/
def tmpl (cls : Nat) (use : String) (alg mode exp : Char) (klen sub : Nat) : Bytes :=
  [0, BitVec.ofNat 8 (16 * cls)] ++ ascii use ++ [BitVec.ofNat 8 alg.toNat, BitVec.ofNat 8 mode.toNat, BitVec.ofNat 8 exp.toNat, 48, 48, 48,
    BitVec.ofNat 8 klen, BitVec.ofNat 8 sub, 0, 0, 0, 0]
def keyAttr (cls : Nat) (use : String) (alg mode exp : Char) (klen sub : Nat) (origin : Nat := 1) : BitVec 128 :=
  finalAttr (attrOf (tmpl cls use alg mode exp klen sub)) origin [1, 2, 3]

/-- Key material. -/
@[irreducible] def mat : BitVec 576 := 7

/-- `s` with slot `n` holding a sound key. -/
def keyed (s : State) (n : Nat) (a : BitVec 128) (m : BitVec 576 := mat) : State := s.placeSlot n a m

theorem keyed_slot (s : State) (n : Nat) (a : BitVec 128) (m : BitVec 576) (h : twf {} s.rack.slots = true) :
    (keyed s n a m).slotOf n = { material := m, attr := a, check := s.checkOf n { material := m, attr := a } } := tget_tset_same _ _ _ h

theorem keyed_holds (s : State) (n : Nat) (a : BitVec 128) (m : BitVec 576) (o : Op) (h : twf {} s.rack.slots = true) (hv : aValid a = true)
    (ht : aTenant a = o.tenant) : (keyed s n a m).Holds o n := by
  simp only [State.Holds, keyed_slot _ _ _ _ h]
  exact ⟨hv, rfl, ht⟩

/-- An AES data key. -/
def dataKey : BitVec 128 := keyAttr 5 "D0" 'A' 'B' 'E' 16 1

/-- A signing key of P-224. -/
def signKey : BitVec 128 := keyAttr 9 "S0" 'E' 'S' 'E' 28 1
def unitOp : Op := { signJob with keys := [] }

/-- The Hearth serves operation 1 of the key management family; tenant 0 is live. -/
def rackOp (d : BitVec 512) : Op := { job .channel d with reserved := false, keys := [] }
def rackSt (o : Op) : State :=
  { holding o with
    worlds := { up.worlds with running := some (.chan 1), channel := [1] }
    vault := { tenants := [(0, { live := true, slotQuota := 65536 })] } }

/-- KEY_GENERATE of an AES data key. -/
def genKeyOp : Op := rackOp (desc 0x0601 (flags := 4) (param := leNat (tmpl 5 "D0" 'A' 'B' 'E' 16 1)))

/-- The chip with blocks out of service. -/
def outBlocks (l : List Nat) : State := { up with engine := { up.engine with blocks := l.map fun b => (b, { out := true }) } }

/-- A slot whose check word is not its own. -/
def badSlot : Slot := { material := 7, attr := dataKey, check := up.checkOf 0 { material := 7, attr := dataKey } + 1 }
def badSt : State := { up with rack := { slots := [(0, badSlot)], running := true } }

/-- A protection key in slot 0 and a key that may leave in slot 1, for KEY_EXPORT. -/
def exporter : Op := { rackOp (desc 0x0606 (plan := 0x44) (aux := 1)) with seed := some [1] }
def protKey : BitVec 128 := keyAttr 6 "K1" 'A' 'B' 'N' 16 1
def two : State := keyed (keyed (rackSt exporter) 0 protKey) 1 dataKey

theorem keyed_slot_ne (s : State) {n k : Nat} (a : BitVec 128) (m : BitVec 576) (h : k ≠ n) : (keyed s n a m).slotOf k = s.slotOf k := by
  unfold keyed State.placeSlot State.slotOf
  exact tget_tset_ne _ _ h _

theorem keyed_holds_ne {s : State} {n k : Nat} {a : BitVec 128} {m : BitVec 576} {o : Op} (hk : k ≠ n) (h : s.Holds o k) :
    (keyed s n a m).Holds o k := by
  simp only [State.Holds, keyed_slot_ne s a m hk]
  exact h

theorem two_holds : two.Holds exporter exporter.keySlot ∧ two.Holds exporter (auxSlot exporter) :=
  ⟨(show exporter.keySlot = 0 by decide +kernel) ▸ keyed_holds_ne (by decide) (keyed_holds _ _ _ _ _ (by decide) (by decide +kernel) (by decide +kernel)),
   (show auxSlot exporter = 1 by decide +kernel) ▸ keyed_holds _ _ _ _ _ (twf_tset _ _ _ (by decide)) (by decide +kernel) (by decide +kernel)⟩

theorem gd {α : Type} (x : Option α) (d : α) (h : x.isSome = true) : x = some (x.getD d) := by
  cases x with
  | none => exact Bool.noConfusion h
  | some y => rfl

theorem gd3 {α β γ : Type} (x : Option (α × β × γ)) (d : α × β × γ) (h : x.isSome = true) :
    x = some ((x.getD d).1, (x.getD d).2.1, (x.getD d).2.2) := gd x d h

/-- An operation that waits for a region's scheduler. -/
def pend (r : Nat) (o : Op) : State :=
  { up with engine := { tasks := [{ o with stage := .region }], nextId := 2, pendSet := [(256 * r, true)] } }

/-- A recipe without roles, and a PLAN_RUN of it. -/
def bare : Swage := { roles := [], slots := [{}] }
def planned : Op := { job .region (desc 0x0300) with keys := [], recip := some bare }

/-- A 16-byte operation of a lane opcode. -/
def blk (c : Nat) (plan : Nat := 0) : Op := job .block (desc c (plan := plan) (dlen := 16)) (attr := BitVec.ofNat 128 (16 * 2 ^ 80))

/-- An operation with its parameters behind a pointer, an AEAD block of one IV byte, under an empty key (quick to evaluate). -/
def aead (c plan : Nat) (n : Nat := 1) : Op := job .block (desc c (plan := plan) (param := (24 + n) * 2 ^ 64) (dlen := 16))

/-- An AEAD block of R234. -/
def aeadDma (tag iv : Bytes) : Dma :=
  { params := fit 16 tag ++ leBytes 2 iv.length ++ List.replicate 6 0 ++ iv, src := List.replicate 16 5 }

/-- The same for 4,097 bytes, of which none has arrived. -/
def aeadLong (c : Nat) (n : Nat := 1) : Op := job .block (desc c (plan := 0x1000) (param := (24 + n) * 2 ^ 64) (dlen := 4097))
def noData (d : Dma) : Dma := { d with src := [] }

/-- A GCM message with its own tag. -/
def gcmDma : Dma := aeadDma (Modes.gcmTag (aead 0x010A 0x1000).aesEnc [7] [] (List.replicate 16 5)) [7]

/-- The GCM encryption of sixteen bytes with its own tag. -/
def gcmDma' : Dma :=
  let c := Modes.gcmCrypt (aead 0x010A 0x1000).aesEnc [7] [1, 2, 3, 4, 5, 6, 7, 8, 9, 10, 11, 12, 13, 14, 15, 16]
  { params := fit 16 (Modes.gcmTag (aead 0x010A 0x1000).aesEnc [7] [] c) ++ [1, 0, 0, 0, 0, 0, 0, 0, 7], src := c }

/-- A CCM message with its own tag. -/
def ccmDma : Dma :=
  let f := (aead 0x010C 0x1000).aesEnc
  aeadDma (Modes.ccmTag f (List.replicate 7 7) [] (Modes.ccmCrypt f (List.replicate 7 7) (List.replicate 16 5)) 16) (List.replicate 7 7)

/-- The chip with tenant 0 live and an UNSEAL in a lane. -/
def sealer : State := { holding (job .block (desc 0x0131 (dlen := 48))) with vault := { tenants := [(0, { live := true })] } }

/-- The header of sealed data of no bytes, and the tag that belongs to it. -/
def sealHead : Bytes := sealHeader 0 0 0 (List.replicate 12 3)
def sealTag : Bytes := Modes.gcmTag (Aes.encWith (Aes.roundKeys (sealer.storageKey 0 0))) (List.replicate 12 3) sealHead []

theorem sealTag_eq : sealTag = (List.range 16).map fun i => sealTag.getD i 0 :=
  list16 _ (by simp [sealTag, Modes.gcmTag, xorB_length, Modes.ghash, beBytes, leBytes_length])

/-- Sealed data with its tag, and with the tag's first bit flipped. -/
def sealDma (x : Byte) : Dma := { src := sealHead ++ (sealTag.getD 0 0 ^^^ x) :: ((List.range 15).map fun i => sealTag.getD (i + 1) 0) }

/-- Sealed data of 4,049 zero bytes with a tag byte `b`; one of two of them has a tag that does not belong to it. -/
def sealLong (b : Byte) : Dma := { src := sealHeader 0 0 4049 (List.replicate 12 3) ++ (List.replicate 4049 0 ++ [b]) }
def sealLongOp : Op := job .block (desc 0x0131 (dlen := 4097))
def longSealer : State := { holding sealLongOp with vault := { tenants := [(0, { live := true })] } }
def longTag (d : Dma) : Bytes :=
  Modes.gcmTag (Aes.encWith (Aes.roundKeys (longSealer.storageKey sealLongOp.tenant (leAt (List.take 32 (opData sealLongOp d)) 8 2))))
    (slice (List.take 32 (opData sealLongOp d)) 16 12) (List.take 32 (opData sealLongOp d) ++ opAad sealLongOp d)
    (slice (opData sealLongOp d) 32 (dDlen sealLongOp.desc - 48))

theorem sealLong_parts : List.take 32 (opData sealLongOp (sealLong 1)) = List.take 32 (opData sealLongOp (sealLong 0)) ∧
    opAad sealLongOp (sealLong 1) = opAad sealLongOp (sealLong 0) ∧
    slice (opData sealLongOp (sealLong 1)) 32 (dDlen sealLongOp.desc - 48) = slice (opData sealLongOp (sealLong 0)) 32 (dDlen sealLongOp.desc - 48) ∧
    slice (opData sealLongOp (sealLong 1)) (32 + (dDlen sealLongOp.desc - 48)) 16 ≠
      slice (opData sealLongOp (sealLong 0)) (32 + (dDlen sealLongOp.desc - 48)) 16 := by decide +kernel

theorem sealLong_bad : ∃ d, (d = sealLong 0 ∨ d = sealLong 1) ∧ longTag d ≠ slice (opData sealLongOp d) (32 + (dDlen sealLongOp.desc - 48)) 16 := by
  by_cases h : longTag (sealLong 0) = slice (opData sealLongOp (sealLong 0)) (32 + (dDlen sealLongOp.desc - 48)) 16
  · refine ⟨sealLong 1, .inr rfl, fun k => sealLong_parts.2.2.2 (k.symm.trans (Eq.trans ?_ h))⟩
    rw [longTag, sealLong_parts.1, sealLong_parts.2.1, sealLong_parts.2.2.1, longTag]
  · exact ⟨sealLong 0, .inl rfl, h⟩

theorem flip1 : ∀ b : Byte, ¬ b = b ^^^ 1 := by decide

theorem sealDma_tag (x : Byte) : slice (opData (job .block (desc 0x0131 (dlen := 48))) (sealDma x)) 32 16 =
    (sealTag.getD 0 0 ^^^ x) :: ((List.range 15).map fun i => sealTag.getD (i + 1) 0) := by
  have h : sealHead.length = 32 := by decide +kernel
  simp only [opData, show dAadLen (Tests.job .block (desc 0x0131 (dlen := 48))).desc = 0 from by decide +kernel,
    show dDlen (Tests.job .block (desc 0x0131 (dlen := 48))).desc = 48 from by decide +kernel]
  simp [slice, sealDma, h, List.take_of_length_le, List.drop_append]

/-- A customer swage without steps, routed or not, and a PLAN_RUN of it. -/
def cust (route : Nat := 0) : Swage := { header := BitVec.ofNat 384 (512 * 2 ^ 48 + route * 2 ^ 177) }
def planOp (stage : Stage) (route : Nat := 0) : Op := { job stage (desc 0x0300) with keys := [], recip := some (cust route), block := 8 }

/-- The same with 16 random bytes, its transaction prepared, and with a step. -/
def custR : Swage := { header := BitVec.ofNat 384 (512 * 2 ^ 48 + 16 * 2 ^ 184) }
def rndOp : Op := { planOp .block with recip := some custR }
def rndSt : State := { fed rndOp with plan := { ready := [{ op := 1, swage := custR }] } }
def cust2 : Swage := { cust with slots := [{}] }
def lookOp : Op := { planOp .block 1 with pblk := some [] }
def lookSt : State := { holding lookOp with engine := { tasks := [lookOp], nextId := 2, blocks := [(17, { out := true })] } }

/-- Its transaction, waiting for a context and in one. -/
def ctxReady : State := { holding (planOp .context) with plan := { ready := [{ op := 1, swage := cust }] } }
def inCtx (c : Ctx) : State := { holding (planOp .context) with plan := { ctxs := [(0, c)] } }

/-- A PLAN_RUN whose lookup has answered. -/
def looked (r : Option Nat) : State := { holding (planOp .block 1) with routing := { lookups := [(1, r)] } }

/-- The Bench holds a descriptor. -/
def benchSt (o : Op) : State := { holding o with plan := { swages := [(512, cust)] } }

/-- The terminal cache of pipeline 0. -/
def term (t : Term) : State := { up with routing := { terms := [(0, t)] } }

/-- `s` with an open ceremony, or in another life-cycle stage, or with an image transfer. -/
def cerOf (s : State) (c : Ceremony) : State := { s with vault := { s.vault with cer := some c } }
def cerBody (step : Nat) : Bytes := leBytes 4 1 ++ [0, 0, 0, 0] ++ leBytes 4 step
def life (s : State) (l : Life) : State := { s with life := l }
def moving (len next : Nat) (img : Bytes) : Life :=
  { stage := 1, tokenUsed := 1, transfer := some (1, 0, len, next), flash := [(2, img)] }
def token : Life :=
  { stage := 1, tokenHashes := [(0, BitVec.ofNat 256 (beNat (Sha.sha256 (beBytes 32 5 ++ leBytes 8 0))))] }
def nonced : State := life up { stage := 2, nonce := some (9, 1) }

def owned : State := { life up { stage := 4, ownerHash := some 1, nonce := some (9, 16) } with vault := { lcTarget := some 5 } }
def proven : State := life (asked 0x13 (nonced.authCode 9 1)) nonced.life

/-- Bellows has drawn bytes for the Hearth. -/
def gave (b : Bytes) (s : State) : State := { s with bellows := { s.bellows with given := some b } }

/-- A Hearth core at the foot of its SRAM, where code stands in words tagged CODE; data words stand at 0x100100. -/
def coreOn (k : Machine.Core) (code : Bytes) : State :=
  let word (i : Nat) : Nat × MWord := (131072 + i, mword (BitVec.ofNat 64 (leNat (slice (fit 24 code) (8 * i) 8))) tCode)
  { up with zwm := { cores := [(0, { k with pc := 0x100000 })]
                     hmem := [word 0, word 1, word 2, (131104, mword 7 tInt), (131105, mword 0x100100 tAddr),
                       (131106, mword 0x100000 tCode), (131107, mword 0 tInt)] } }
def coreAt (k : Machine.Core) : State := coreOn k []

/-- A1 and A2 hold numbers, A3 an address, A4 a code address, A5 a secret, A14 a count, A15 the stack. -/
def std : Machine.Core :=
  { regs := [(1, ⟨5, tInt⟩), (2, ⟨3, tInt⟩), (3, ⟨0x100100, tAddr⟩), (4, ⟨0x100000, tCode⟩), (5, ⟨9, tSecret⟩), (14, ⟨4, tInt⟩),
      (15, ⟨0x100110, tAddr⟩)], accTag := tInt }
def zst : State := coreAt std
/-- The core before an instruction. -/
def zi (op : Nat) (sz : BitVec 8) (ops : List Spec) : State := coreOn std (insnBytes op sz ops)

/-- A core of the Bench before an instruction of at most 8 bytes. -/
def bi (op : Nat) (sz : BitVec 8) (ops : List Spec) : State :=
  { up with zwm := { cores := [(1, { std with pc := 0x400000 })]
                     bmem := [(524288, mword (BitVec.ofNat 64 (leNat (fit 8 (insnBytes op sz ops)))) tCode)] } }
/-- The core before a data word. -/
def lost : State := { zst with zwm := { zst.zwm with cores := [(0, { std with pc := 0x100100 })] } }

/-- A register operand. -/
def ar (n : BitVec 4) : Spec := ⟨0, n, 0⟩

/-- The core in the service of operation 1, before RETS. -/
def retsSt : State :=
  { rackSt (blk 0x0605) with zwm := (coreOn { std with regs := [(0, ⟨0, tInt⟩), (1, ⟨0, tInt⟩)] } (insnBytes 52 0 [])).zwm }

/-- An instruction that does nothing, for the prefixes. -/
def nopInsn : Insn := nullary 0 0 true fun s => .ok s
def repSt (r : Machine.Rep) : State := coreAt { std with rep := some r }

/-- Port 0 in a card conversation. -/
def cardSt (p : Port) : State := { up with cards := { session := some {}, ports := [(0, p)] } }
def atPhase (p : PortPhase) (cls : Nat := 3) : Port := { present := true, active := true, phase := p, cls := cls }

/-- An operation that waits at the backup port, whose card is ready. -/
def sdCard : Sd := { present := true, state := 2, mode := 2, capacity := 4096, nextLba := 64, waiting := [1] }
def sdSt (c : Nat) (aux : Nat := 0) (d : Sd := sdCard) : State :=
  { rackSt (rackOp (desc c (aux := aux))) with cards := { sd := d }, vault := { btk := some 5, tenants := [(0, { live := true })] } }
def sdOp (c : Nat) (aux : Nat := 0) : Op := rackOp (desc c (aux := aux))

/-- The same with bytes that Bellows drew for the operation, and with the persistent region sealed under the root. -/
def drawnSd (c : Nat) (aux : Nat := 0) : Op := { sdOp c aux with seed := some [1] }
def sdWith (o : Op) : State :=
  { rackSt o with cards := { sd := sdCard }, crucible := { drk := 1 }, vault := { btk := some 5, tenants := [(0, { live := true })] } }
def sdSealed (o : Op) : State := (sdWith o).sealRegion
theorem sdSealed_btk (o : Op) : (sdSealed o).heldBtk = some 5 := by
  rw [State.heldBtk, sdSealed, if_pos (open_seal (sdWith o) rfl)]
  rfl
/-- The block of the card ports is out of service. -/
def sdOut (c : Nat) : State := { sdSt c with engine := { (sdSt c).engine with blocks := [(20, { out := true })] } }

/-- The chip with other worlds, another unit of the Hearth, or a held unit. -/
def withWorlds (f : Worlds → Worlds) : State := { up with worlds := f up.worlds }
def withUnit (m : Mpu) : State := { up with zwm := { up.zwm with hearthMpu := m } }

/-- The window of a chip in legacy mode: a request frame in REQ, or a command that the Hearth serves. -/
def legFrame (code : String) (fields : List Bytes) : Bytes :=
  ascii "<0000" ++ ascii code ++ (fields.flatMap fun f => 0x7C :: f) ++ ascii ">"
def window (code : String) (fields : List Bytes := []) : State :=
  { up with chip := { up.chip with legacy := true },
            legacy := { reqLen := (legFrame code fields).length, req := legFrame code fields } }
def served (code : String) (fields : List Bytes := []) : State :=
  { up with worlds := { up.worlds with running := some .legacy }, legacy := { busy := true, snap := legFrame code fields } }

/-- An LMK in slot 0. -/
def lmkAttr : BitVec 128 := keyAttr 7 "K0" 'T' 'B' 'N' 24 3 2
def lmkSt (a : BitVec 128 := lmkAttr) (bound : Bool := false) : State :=
  { keyed up 0 a with
      chip := { up.chip with legacy := true }, legacy := { bound := bound }
      vault := { tenants := [(0, { live := true, storeQuota := 4 })] } }

theorem lmk_check (a : BitVec 128) (b : Bool) : ((lmkSt a b).slotOf 0).check = (lmkSt a b).checkOf 0 ((lmkSt a b).slotOf 0) := by
  have h : (lmkSt a b).slotOf 0 = { material := mat, attr := a, check := up.checkOf 0 { material := mat, attr := a } } :=
    tget_tset_same _ _ _ (by decide)
  rw [h]
  rfl
def otherLmk : BitVec 128 := lmkAttr ||| 1
def badLegacy : State := { badSt with chip := { up.chip with legacy := true } }

/-- A route of tenant 0 for every KSN, and a base derivation key in its slot. -/
def bdkAttr : BitVec 128 := finalAttr (attrOf (tmpl 1 "B0" 'T' 'X' 'E' 16 2)) 1 [0x8C, 0xA6, 0x4D]

/-- The weak DES key of zero bytes, and two blocks with their encryptions under it. -/
abbrev zkey : Bytes := [0, 0, 0, 0, 0, 0, 0, 0]
abbrev evenKey : Bytes := [0x8C, 0xA6, 0x4D, 0xE9, 0xC1, 0xB1, 0x23, 0xA7]
abbrev oddKey : Bytes := [1, 1, 1, 1, 1, 1, 1, 1]
abbrev oddField : Bytes := [0x99, 0x4D, 0x4D, 0xC1, 0x57, 0xB9, 0x6C, 0x52]
theorem des_weak : (Des.roundKeys zkey).reverse = Des.roundKeys zkey ∧ Des.enc1 zkey zkey = evenKey ∧ Des.enc1 zkey evenKey = zkey ∧
    Des.enc1 zkey oddKey = oddField ∧ Des.enc1 zkey oddField = oddKey := by decide +kernel
theorem des_part (n : Nat) : Des.part [] n = zkey := by
  unfold Des.part
  split <;> simp [slice]
theorem des_enc (b : Bytes) : Des.enc [] b = Des.enc1 zkey (Des.enc1 zkey (Des.enc1 zkey b)) := by
  simp only [Des.enc, des_part, Des.dec1, Des.enc1, des_weak.1]
theorem des_dec (b : Bytes) : Des.dec [] b = Des.enc1 zkey (Des.enc1 zkey (Des.enc1 zkey b)) := by
  simp only [Des.dec, des_part, Des.dec1, Des.enc1, des_weak.1]
theorem ecb_one (f : Modes.Blk) (b : Bytes) (h : chunks 8 b = [b]) : Modes.ecb f 8 b = f b := by simp [Modes.ecb, h]
theorem kcv_zero : kcvOf (ch 'T') (([] : Bytes).length / 8) [] = [0x8C, 0xA6, 0x4D] := by
  have h : kcvOf (ch 'T') (([] : Bytes).length / 8) [] = (Des.enc [] zkey).take 3 := rfl
  rw [h, des_enc, des_weak.2.1, des_weak.2.2.1, des_weak.2.1]
  rfl
theorem open_field (s : State) (v : Nat) (field b key : Bytes) (hs : s.lmkKey = []) (hf : hexOf (field.drop 1) = b) (hb : chunks 8 b = [b])
   (hk : Des.enc1 zkey (Des.enc1 zkey (Des.enc1 zkey b)) = key) : s.openKey v field = if Payment.parityOk key then some key else none := by
  have ht : typeKey [] v = [] := rfl
  simp only [State.openKey, hs, ht, hf, ecb_one _ _ hb, des_dec, hk]
def routedSt (l : List Bytes) (a : BitVec 128) : State :=
  { keyed (served "PD" l) 5 a with routing := { tries := [(trieKey 1 0, [{ slot := 5 }])] } }

/-- PIN fields. -/
def pb16 : Bytes := ascii "0123456789ABCDEF"
def d2 : Bytes := ascii "01"
def an12 : Bytes := ascii "123456789012"


/-! ### Sealed blobs as operands -/

theorem slice_whole (b : Bytes) {n : Nat} (h : n = b.length) : slice b 0 n = b := by
  subst h
  simp [slice]

theorem opData_whole (o : Op) (b : Bytes) (h0 : dAadLen o.desc = 0) (h1 : dDlen o.desc = b.length) : opData o { src := b } = b := by
  rw [opData, h0]
  exact slice_whole b h1

theorem opParams_whole (o : Op) (b : Bytes) (hi : dInline o.desc = false) (hp : o.pblk = none) (hl : dParamLen o.desc = b.length) :
    opParams o { params := b } = b := by
  simp only [opParams, hi, hp, hl]
  exact fit_of_length rfl

/-- A blob of tenant 0 before an input. -/
def sealedDma (s : State) (kind params : Nat) (m i : Bytes) : Dma := { src := s.sealBlob kind 0 params [] m ++ i }

/-- The state, the operation and the material fit together. -/
structure SealFit (s : State) (o : Op) (kind useBit : Nat) (m i : Bytes) : Prop where
  aad : dAadLen o.desc = 0
  dlen : dDlen o.desc = pKeyLen o + i.length
  key : pKeyLen o = 32 + wrappedLen m.length
  live : (s.tenantOf 0).live = true
  ten : o.tenant = 0
  short : m.length < 2 ^ 24
  kind : kind = 2 ∨ kind = 3 ∨ kind = 4
  use : (byteAt m 0).toNat.testBit useBit = true
  zero : leAt m 1 7 = 0
  plan : dPlan o.desc < 65536

variable {s : State} {o : Op} {kind useBit : Nat} {m i : Bytes}

theorem sealed_parts (h : SealFit s o kind useBit m i) : keyPart o (sealedDma s kind (dPlan o.desc) m i) = s.sealBlob kind 0 (dPlan o.desc) [] m ∧
    inputPart o (sealedDma s kind (dPlan o.desc) m i) = i := by
  have hl := sealBlob_length s kind 0 (dPlan o.desc) [] m
  have hd : opData o (sealedDma s kind (dPlan o.desc) m i) = s.sealBlob kind 0 (dPlan o.desc) [] m ++ i :=
    opData_whole o _ h.aad (by rw [List.length_append, hl, h.dlen, h.key])
  rw [keyPart, inputPart, hd, h.key, ← hl]
  exact ⟨List.take_left, List.drop_left⟩

theorem sealed_blob (h : SealFit s o kind useBit m i) : s.BlobOf o (sealedDma s kind (dPlan o.desc) m i) kind useBit m := by
  have hw : leAt (s.sealBlob kind 0 (dPlan o.desc) [] m) 12 4 = wrappedLen m.length := by
    rw [State.sealBlob, leAt_header _ _ _ _ _ _ _ (by omega), leAt_wlen, Nat.mod_eq_of_lt (by have := h.short; rw [wrappedLen]; omega)]
  have hp : leAt (s.sealBlob kind 0 (dPlan o.desc) [] m) 10 2 = dPlan o.desc := by
    rw [State.sealBlob, leAt_header _ _ _ _ _ _ _ (by omega), leAt_params, Nat.mod_eq_of_lt h.plan]
  have hk : (byteAt (s.sealBlob kind 0 (dPlan o.desc) [] m) 5).toNat = kind % 256 := rfl
  unfold State.BlobOf
  simp only [(sealed_parts h).1]
  refine ⟨by rw [hw, h.key], by rw [h.dlen]; omega, ?_, ?_, ?_, hp, h.use, h.zero⟩
  · rw [h.ten]
    exact blobFault_sealBlob _ _ _ _ _ _ _ (by rcases h.kind with h | h | h <;> rw [h] <;> rfl) (by omega) h.live (by have := h.short; omega)
  · rw [h.ten]
    exact openBlob_sealBlob _ _ _ _ _ _ (by have := h.short; omega)
  · rw [hk]
    rcases h.kind with h | h | h <;> rw [h]

/-- A job of a unit keyed by a blob of 32 + wrappedLen `n` bytes, with an input of `x` bytes; tenant 0 is live. -/
def blobJob (c plan n x : Nat) (param : Nat := 0) : Op :=
  unitJob (desc c (flags := 4) (plan := plan) (dlen := 32 + wrappedLen n + x) (param := 32 + wrappedLen n + param))
def blobSt (o : Op) : State := { jobSt o with vault := { tenants := [(0, { live := true })] } }

/-- RSA material of 1,024 bits for every use: the factors 2^512 − 1 and 2^512 − 2 and exponents 1, under which the private operation
leaves a number as it is. -/
def rsaMat : Bytes := [7, 0, 0, 0, 0, 0, 0, 0] ++
  Rsa.Key.toBytes 128 { e := 65537, n := (2 ^ 512 - 1) * (2 ^ 512 - 2), p := 2 ^ 512 - 1, q := 2 ^ 512 - 2, dp := 1, dq := 1, qinv := 2 ^ 512 - 2 }

/-- An OAEP encoding of three bytes. -/
def oaepIn : Bytes := Rsa.oaepEncode 2 128 (List.replicate 32 9) [1, 2, 3]

/-- A DATA key block in hex under an empty protection key, and the slot attributes of that key. -/
def kbText : Bytes := kbWrite true dataKey (List.replicate 16 1) [] (List.replicate 64 0)
def emptyKey : BitVec 128 := keyAttr 6 "K1" 'A' 'B' 'N' 0 1
def importer : Op := { rackOp (desc 0x0605 (param := 112 * 2 ^ 64) (aux := 1)) with reserved := true }
def importSt : State := keyed (rackSt importer) 0 emptyKey

/-- The value of a result. -/
def okD {ε α : Type} (x : Except ε α) (d : α) : α := match x with | .ok a => a | .error _ => d
theorem ge {ε α : Type} (x : Except ε α) (d : α) (h : (match x with | .ok _ => true | .error _ => false) = true) : x = .ok (okD x d) := by
  cases x with
  | ok a => rfl
  | error _ => exact Bool.noConfusion h

theorem blobFault_read (s : State) (a : List Sent) (e : Engine) (b : Bytes) (t : Nat) (k : List Nat) :
    ({ s with sent := a, engine := e } : State).blobFault b t k = s.blobFault b t k := by
  simp only [State.blobFault, State.epochOk, State.epochOf, State.tenantOf]
  congr
theorem openBlob_read (s : State) (a : List Sent) (e : Engine) (b : Bytes) (t : Nat) :
    ({ s with sent := a, engine := e } : State).openBlob b t = s.openBlob b t := by
  simp only [State.openBlob, State.storageKey, State.rootKey, State.drkBytes]
/-- A blob is the same to the state in which the operation has read it. -/
theorem blob_read {s : State} {o : Op} {kind b : Nat} {m : Bytes} {dma : Dma} (h : s.BlobOf o dma kind b m) : (State.hasRead o dma s).BlobOf o dma kind b m := by
  simp only [State.BlobOf] at h ⊢
  rw [State.hasRead_frame, blobFault_read, openBlob_read]
  exact h

/-- The jobs of the RSA opcodes with that material, and their operands. -/
def rsaJ (c x : Nat) (param : Nat := 0) : Op := blobJob c 1024 460 x param
abbrev rsaD (o : Op) (i : Bytes) : Dma := sealedDma (blobSt o) 2 (dPlan o.desc) rsaMat i
def zeros : Bytes := List.replicate 128 0
def ones : Bytes := List.replicate 128 255

theorem fit_priv0 : SealFit (blobSt (rsaJ 0x0401 128)) (rsaJ 0x0401 128) 2 2 rsaMat zeros := by constructor <;> decide +kernel
theorem fit_priv1 : SealFit (blobSt (rsaJ 0x0401 128)) (rsaJ 0x0401 128) 2 2 rsaMat ones := by constructor <;> decide +kernel
theorem fit_sign1 : SealFit (blobSt (rsaJ 0x0403 32 0x020100000000)) (rsaJ 0x0403 32 0x020100000000) 2 0 rsaMat (List.replicate 32 1) := by
  constructor <;> decide +kernel
theorem fit_sign0 : SealFit (blobSt (rsaJ 0x0403 32 0x020000000000)) (rsaJ 0x0403 32 0x020000000000) 2 0 rsaMat (List.replicate 32 1) := by
  constructor <;> decide +kernel
theorem fit_sign2 : SealFit (blobSt (rsaJ 0x0403 32 0x00FF020000000000)) (rsaJ 0x0403 32 0x00FF020000000000) 2 0 rsaMat (List.replicate 32 1) := by
  constructor <;> decide +kernel
theorem fit_oaep : SealFit (blobSt (rsaJ 0x0406 128 0x020000000000)) (rsaJ 0x0406 128 0x020000000000) 2 1 rsaMat oaepIn := by
  constructor <;> decide +kernel
theorem fit_oaep0 : SealFit (blobSt (rsaJ 0x0406 128 0x020000000000)) (rsaJ 0x0406 128 0x020000000000) 2 1 rsaMat zeros := by
  constructor <;> decide +kernel

/-- Lattice material: its header and bytes of any value. -/
def latMat (use : Byte) (n : Nat) : Bytes := [use, 0, 0, 0, 0, 0, 0, 0] ++ List.replicate n 3
abbrev latD (o : Op) (kind : Nat) (m i : Bytes) : Dma := sealedDma (blobSt o) kind (dPlan o.desc) m i

theorem fit_decaps : SealFit (blobSt (blobJob 0x0422 512 1640 768)) (blobJob 0x0422 512 1640 768) 3 1 (latMat 2 1632) (List.replicate 768 0) := by
  constructor <;> decide +kernel
theorem fit_mlsign1 : SealFit (blobSt (blobJob 0x0431 44 2568 8 0x010000000000)) (blobJob 0x0431 44 2568 8 0x010000000000) 4 0
    (latMat 1 2560) (List.replicate 8 0) := by constructor <;> decide +kernel
theorem fit_mlsign0 : SealFit (blobSt (blobJob 0x0431 44 2568 8)) (blobJob 0x0431 44 2568 8) 4 0
    (latMat 1 2560) (List.replicate 8 0) := by constructor <;> decide +kernel

/-- A DATA key blob as a payload and behind a pointer. -/
def resealOp : Op := rackOp (desc 0x0609 (dlen := 96))
def loadOp : Op := { rackOp (desc 0x0608 (param := 96 * 2 ^ 64) (aux := 5)) with reserved := true }
def keyBlob (o : Op) : Bytes := (rackSt o).sealBlob 1 0 0 [] (List.replicate 24 7)

theorem keyBlob_length (o : Op) : (keyBlob o).length = 96 := (sealBlob_length ..).trans (by decide)

theorem keyBlob_reseal : opData resealOp { src := keyBlob resealOp } = keyBlob resealOp :=
  opData_whole _ _ (by decide +kernel) ((by decide +kernel : dDlen resealOp.desc = 96).trans (keyBlob_length _).symm)

theorem keyBlob_load : opParams loadOp { params := keyBlob loadOp } = keyBlob loadOp :=
  opParams_whole _ _ (by decide +kernel) rfl ((by decide +kernel : dParamLen loadOp.desc = 96).trans (keyBlob_length _).symm)

/-- A signed customer recipe of one step, the constant 5 into variable 0. Its signature is (e, e) for its digest e, under the key
Q = R − G of the point R with abscissa e, so that both multipliers of the verification are 1. -/
def recipeBody : Bytes :=
  ascii "ZYRC" ++ [1, 0] ++ leBytes 2 512 ++ leBytes 4 1 ++ leBytes 2 1 ++ leBytes 2 8 ++ leBytes 4 0 ++ leBytes 2 0 ++ [0, 0] ++ leBytes 4 152 ++
    List.replicate 20 0 ++ [4, 0, 0, 0, 0, 0, 5, 0]
def recipeHash : Nat := 0xd9f97581d70c3f790561379e38c4378b7ce25715da0667cd40d48da4e69efc46a4f82b4a5a5baa24bbc9de8788aac553
def recipeKey : Nat × Nat :=
  (0x79a1485e6a6c8cf7dc0ef8400cbf2421cb04e2a20b5afd843fd646ffd32e7a5f843e70729c0f0062f2f99d3c96e8f3b1,
   0xc63482051ea7e5c75b36ba7f225e88db3d8f9244f754251583bd818609c08232dd5f20852773dc7b7f441de71e483d55)
def recipe : Bytes := recipeBody ++ beBytes 48 recipeHash ++ beBytes 48 recipeHash
def loadRecipe : Op := job .channel (desc 0x0301 (dlen := 152))
def recipeSt : State := { holding loadRecipe with life := { up.life with ownerKey := Ecc.p384.encode (some recipeKey) } }

/-- A recipe signed in the same way whose one step is no step. -/
def badBody : Bytes := (recipeBody.take 8 ++ leBytes 4 2 ++ (recipeBody.drop 12).take 36) ++ [0xFF, 0, 0, 0, 0, 0, 5, 0]
def badHash : Nat := 0x4eb2713283baf99626306e54ab959f73d518ced74d139ed396f8d2e3bd70767a1d42fe8ae5ab334376e5db7adfc59b4c
def badKey : Nat × Nat :=
  (0x145ab334cdbb8f36ea8537829ee2cb8bfc028ac3218bbbf6a4dffda2f353f0235b16c2a85a2e63a437b7c21a7c1b9ac4,
   0x50ca0cf66f598a499dfe68fd6e2842a2e1ef46ccaf617d8f26054bebb7c8158ca38e1006439bf9a97c59aa69a3b4b9d2)
def badRecipe : Bytes := badBody ++ beBytes 48 badHash ++ beBytes 48 badHash
def badRecipeSt : State := { holding loadRecipe with life := { up.life with ownerKey := Ecc.p384.encode (some badKey) } }
def isErr {ε α : Type} (x : Except ε α) : Bool := match x with | .ok _ => false | .error _ => true
def errD {ε α : Type} (x : Except ε α) (d : ε) : ε := match x with | .ok _ => d | .error e => e
theorem er {ε α : Type} (x : Except ε α) (d : ε) (h : isErr x = true) : x = .error (errD x d) := by
  cases x with
  | ok a => exact Bool.noConfusion h
  | error e => rfl
theorem badRecipe_fault : isErr (compile (opData loadRecipe { src := badRecipe })) = true := by decide +kernel

/-- The same with the swage memory full. -/
def fullSt : State :=
  { recipeSt with plan := { swages := List.replicate 256 (600, { cust with slots := List.replicate 255 {} }) } }

/-- A certificate whose signature is made in the same way, after a card number, and its issuer's key. -/
def certHash : Nat := 0xc74a5ebe7b3eba16ab72643c4ad2a52020d8469aebc30996c97018cde96c9ca4cd41a817f089ecfa88d9725ad297c1f3
def certIssuer : Nat × Nat :=
  (0x85aeb088ed4ea662ef0fbd62ff968c63f9110ec6d975ffb027a14a411b36942ee32735718940e5fda9cb5373366b4c59,
   0x6da32033928dbb08cc11c7e92c758014308f5f0ffa3488dc2e15c97a203d7f8f1780df62b6fb608be014da160ebfc7c8)
def cardId : Bytes :=
  List.replicate 12 1 ++ [0x30, 0x70, 0x30, 3, 2, 1, 2, 0x30, 0, 3, 0x67, 0, 0x30, 0x64, 2, 0x30] ++ beBytes 48 certHash ++ [2, 0x30] ++
    beBytes 48 certHash
def issuerSt : State := { up with trims := { cardCa := Ecc.p384.encode (some certIssuer) } }

/-! ### Ill-formed commands, one for each check of WellFormed.lean -/

theorem test_illformed_srcList (l : List (BitVec 128)) (h : l.length = 65536) : (Instr.hash 1 { srcList := l }).wf = false := by
  change Dma.wf _ = false
  simp [Dma.wf, h]
theorem test_illformed_dstList (l : List (BitVec 128)) (h : l.length = 65536) : (Instr.hash 1 { dstList := l }).wf = false := by
  change Dma.wf _ = false
  simp [Dma.wf, h]
theorem test_illformed_debug_size (r : DebugReq) (h : r.size = 3) : (Instr.debugAccess r).wf = false := by
  change r.wf = false
  simp [DebugReq.wf, h]
theorem test_illformed_no_descriptor : (Instr.descriptorArrival 0 0 []).wf = false := by decide
theorem test_illformed_nine_descriptors : (Instr.descriptorArrival 0 0 (List.replicate 9 0)).wf = false := by decide
theorem test_illformed_vfs : (Instr.vfEnable 256 true).wf = false := by decide
theorem test_illformed_atr_empty : (Instr.atrReceived 0 []).wf = false := by decide
theorem test_illformed_atr_long : (Instr.atrReceived 0 (List.replicate 34 0)).wf = false := by decide
theorem test_illformed_pps : (Instr.ppsResponse 0 (List.replicate 7 0)).wf = false := by decide
theorem test_illformed_t1_block : (Instr.t1BlockReceived 0 (List.replicate 260 0) false).wf = false := by decide +kernel
theorem test_illformed_token : (Instr.token 8 0).wf = false := by decide
theorem test_illformed_temp_low : (Instr.tempReading (-32769)).wf = false := by decide
theorem test_illformed_temp_high : (Instr.tempReading 32768).wf = false := by decide
theorem test_illformed_routes (l : List (BitVec 128)) (h : l.length = 65537) : (Instr.buildGo (.entries l)).wf = false := by
  change decide (l.length ≤ 65536) = false
  simp [h]
theorem test_illformed_blocks : (Instr.cerCommit { read := .blocks [0] }).wf = false := by decide
/-- A well-formed command of each of these kinds. -/
theorem test_wellformed : (Instr.hash 1 {}).wf = true ∧ (Instr.descriptorArrival 0 0 [0]).wf = true ∧ (Instr.vfEnable 255 true).wf = true ∧
    (Instr.atrReceived 0 (List.replicate 33 0)).wf = true ∧
    (Instr.token 7 0).wf = true ∧ (Instr.tempReading (-32768)).wf = true ∧ (Instr.buildGo (.entries [])).wf = true ∧
    (Instr.cerCommit {}).wf = true := by decide +kernel

/-- No word of the table spells a command: the table gives no row bits (log 2). -/
theorem test_no_command_words : decodeTableWord 32 0 = none ∧ State.reset.withFetchWord 32 0 = State.reset := ⟨rfl, rfl⟩

/-! ### Commands on small states (values from the rules named)

Each test runs one command and looks at one or two fields of the answer. -/

/-- The next state of an answer. -/
def next (o : Out) : State := match o with | .next t => t | _ => State.reset
/-- Register `r` of core 0. -/
def reg (o : Out) (r : Nat) : TWord := (next o).reg 0 r
/-- FL of core 0. -/
def flags (o : Out) : BitVec 16 := ((next o).coreOf 0).fl

/-- R392: 5 + 0xFE of one byte is 3 with carry; V stays clear (5 − 2 = 3). -/
theorem test_add_carry :
    let o := exec (.add 0 0 (ar 0) (ar 1) ⟨10, 0, 0xFE⟩) (zi 0x10 0 [ar 0, ar 1, ⟨10, 0, 0xFE⟩])
    reg o 0 = ⟨3, tInt⟩ ∧ flags o = 0x01 := by decide +kernel
/-- R392: 5 + 0x7F of one byte is 0x84: N and V. -/
theorem test_add_overflow :
    let o := exec (.add 0 0 (ar 0) (ar 1) ⟨10, 0, 0x7F⟩) (zi 0x10 0 [ar 0, ar 1, ⟨10, 0, 0x7F⟩])
    reg o 0 = ⟨0x84, tInt⟩ ∧ flags o = 0x0C := by decide +kernel
/-- R392: 3 − 5 borrows: C and N. -/
theorem test_sub_borrow :
    let o := exec (.sub 0 3 (ar 0) (ar 2) (ar 1)) (zi 0x11 3 [ar 0, ar 2, ar 1])
    reg o 0 = ⟨0xFFFFFFFFFFFFFFFE, tInt⟩ ∧ flags o = 0x05 := by decide +kernel
/-- R388: ADDR − ADDR is a number. -/
theorem test_sub_addresses : reg (exec (.sub 0 3 (ar 0) (ar 15) (ar 3)) (zi 0x11 3 [ar 0, ar 15, ar 3])) 0 = ⟨0x10, tInt⟩ := by
  decide +kernel
/-- R386, R392: a SECRET source makes the result SECRET and sets S. -/
theorem test_xor_secret :
    let o := exec (.xor 0 3 (ar 0) (ar 1) (ar 5)) (zi 0x1A 3 [ar 0, ar 1, ar 5])
    reg o 0 = ⟨12, tSecret⟩ ∧ flags o = 0x10 := by decide +kernel
/-- R392: C is the last bit shifted out: 5 shifted right by 3 drops a 1 last, and leaves 0. V is free there (log 32). -/
theorem test_shr_carry : reg (exec (.shr 0 3 (ar 0) (ar 1) (ar 2)) (zi 0x1D 3 [ar 0, ar 1, ar 2])) 0 = ⟨0, tInt⟩ ∧
    (aluShift 1 8 5 3 false).c = true := by decide +kernel
/-- R397: a number divided by another, and the remainder. -/
theorem test_divide : reg (exec (.divu 0 3 (ar 0) (ar 1) (ar 2)) (zi 0x16 3 [ar 0, ar 1, ar 2])) 0 = ⟨1, tInt⟩ ∧
    reg (exec (.remu 0 3 (ar 0) (ar 1) (ar 2)) (zi 0x17 3 [ar 0, ar 1, ar 2])) 0 = ⟨2, tInt⟩ := by decide +kernel
/-- R395: an indirect operand reads memory at the address in its register. -/
theorem test_mov_memory : reg (exec (.mov 0 3 (ar 0) ⟨1, 3, 0⟩) (zi 0x01 3 [ar 0, ⟨1, 3, 0⟩])) 0 = ⟨7, tInt⟩ := by decide +kernel
/-- R391: PUSH decrements A15 first and stores there; POP of that word gives it back. -/
theorem test_push_pop :
    let o := exec (.push 0 3 (ar 1)) (coreOn std (insnBytes 0x03 3 [ar 1] ++ insnBytes 0x04 3 [ar 0]))
    reg o 15 = ⟨0x100108, tAddr⟩ ∧ reg (exec (.pop 0 3 (ar 0)) (next o)) 0 = ⟨5, tInt⟩ := by decide +kernel
/-- R386: KILL leaves POISON; TAGOF is the one that may read it (R387). -/
theorem test_kill_tagof :
    let o := exec (.kill 0 3 (ar 1)) (coreOn std (insnBytes 0x06 3 [ar 1] ++ insnBytes 0x60 3 [ar 0, ar 1]))
    reg (exec (.tagof 0 3 (ar 0) (ar 1)) (next o)) 0 = ⟨0xF, tInt⟩ := by decide +kernel
/-- R392, R396: EI sets IE, DI clears it. -/
theorem test_ei_di :
    let o := exec (.ei 0 0) (coreOn std (insnBytes 0x71 0 [] ++ insnBytes 0x72 0 []))
    flags o = 0x20 ∧ flags (exec (.di 0 0) (next o)) = 0 := by decide +kernel
/-- R393: an instruction whose bytes do not stand at PC does not run. -/
theorem test_other_bytes : reg (exec (.kill 0 3 (ar 1)) (zi 0x00 0 [])) 1 = ⟨5, tInt⟩ := by decide +kernel

/-- R84: PERST_N assertion leaves the chip in reset. -/
theorem test_perst : (next (exec .perstNAssert up)).pins.perstN = false ∧ (next (exec .perstNAssert up)).engine.tasks = [] := by decide +kernel
/-- R109, R118: a doorbell within the ring moves the tail. -/
theorem test_sq_doorbell : ((next (exec (.sqDoorbell 0 0 3 none) (queued ring))).queueOf 0 0).sqTail = 3 := by decide +kernel
/-- R113: a NOP ends with status 0. -/
theorem test_nop : ((next (exec (.nop 1) (holding (job .qengine (desc 0x0800))))).opOf 1).map (fun o => (o.stage, o.status)) =
    some (.done, 0) := by decide +kernel
/-- An unknown opcode has status 0x0101 with the opcode as its detail (R114). -/
theorem test_unknown_opcode : up.descFault (fetched up 0 0 (desc 0xFFFF)) = some (0x0101, 0xFFFF) := by decide +kernel
/-- R344: a DRBG operation on an instance that is not up ends with 0x0401. -/
theorem test_drbg_down : ((next (exec (.drbgGenerate 1 {}) (holding (job .block (desc 0x0502 (dlen := 16)))))).opOf 1).map (·.status) =
    some 0x0401 := by decide +kernel
/-- R548: an unknown command of the legacy window is answered with N02. -/
theorem test_legacy_unknown : State.legacyAtOnce { (window "ZZ") with legacy := { (window "ZZ").legacy with busy := true, snap := legFrame "ZZ" [] } }
    (legFrame "ZZ" []).length (legFrame "ZZ" []) = some "N02" := by decide +kernel
/-- SHA-256 of "abc" (FIPS 180-4). -/
theorem test_sha256 : beNat (Sha.sha256 (ascii "abc")) = 0xBA7816BF8F01CFEA414140DE5DAE2223B00361A396177A9CB410FF61F20015AD := by decide +kernel
/-- AES (FIPS 197): S-box value 0x53, its inverse, the product of section 4.2 and a column of MixColumns. -/
theorem test_aes : Aes.sub 0x53 = 0xED ∧ Aes.invSub 0xED = 0x53 ∧ Aes.gmul 0x57 0x83 = 0xC1 ∧
    (Aes.mix [2, 3, 1, 1] ([0xD4, 0xBF, 0x5D, 0x30] ++ List.replicate 12 0)).take 4 = [0x04, 0x66, 0x81, 0xE5] := by decide +kernel
/-- AES-128 (FIPS 197, appendix B). -/
theorem test_aes128 : beNat (Aes.enc (beBytes 16 0x2B7E151628AED2A6ABF7158809CF4F3C) (beBytes 16 0x3243F6A8885A308D313198A2E0370734)) =
    0x3925841D02DC09FBDC118597196A0B32 := by decide +kernel

/-! ### What the hypotheses of the statements can meet

`witness_X` has one part for each clause of `Obligations.X` that has hypotheses. -/

theorem witness_Resets :
    (∃ (s : State), s.tamper.quench = false) ∧
    (∃ (s : State), s.pins.mainPower = false) ∧
    (∃ (s : State), s.pins.mainPower = true) ∧
    (∃ (s : State), s.pins.vbat = false) ∧
    (∃ (s : State), s.tamper.quench = true) ∧
    (∃ (s : State) (f : BitVec 8), f ≠ 0 ∧ s.exists? f.toNat = true ∧ (List.map Op.id s.engine.tasks).Nodup) ∧
    (∃ (s : State), twf { } s.fns = true) :=
  ⟨⟨State.reset, by decide +kernel⟩,
   ⟨{ pins := { mainPower := false } }, by decide +kernel⟩,
   ⟨State.reset, by decide +kernel⟩,
   ⟨{ pins := { vbat := false } }, by decide +kernel⟩,
   ⟨{ tamper := { quench := true } }, by decide +kernel⟩,
   ⟨{ link := { vfEnable := true, numVfs := 255 } }, 255, by and_intros <;> decide +kernel⟩,
   ⟨{ fns := [(0, { queues := 1 })] }, by decide +kernel⟩⟩

theorem witness_LinkCommands :
    (∃ (s : State), s.chip.legacy = false) ∧
    (∃ (s : State), s.chip.legacy = true) ∧
    (∃ (s : State) (f : BitVec 8), s.chip.crs = true ∨ (s.fnOf f.toNat).flr = true) ∧
    (∃ (s : State) (f : BitVec 8), s.chip.crs = false ∧ (s.fnOf f.toNat).flr = false ∧ s.exists? f.toNat = false) ∧
    (∃ (s : State) (f : BitVec 8), s.chip.crs = false ∧ (s.fnOf f.toNat).flr = false ∧ s.exists? f.toNat = true) ∧
    (∃ (s : State), s.chip.crs = false ∧ (s.fnOf 0).flr = false ∧ s.chip.legacy = false ∧ s.link.vfEnable = false) ∧
    (∃ (s : State) (e : AerErr) (b : ℕ), (e, b) ∈ [(AerErr.poisoned, 12), (AerErr.unsupportedRequest, 20), (AerErr.malformed, 18),
      (AerErr.receiverOverflow, 17), (AerErr.ecrc, 19)] ∧ (e ≠ AerErr.ecrc ∨ s.link.ecrcChk = true)) ∧
    (∃ (e : AerErr) (b : ℕ), (e, b) ∈ [(AerErr.receiver, 0), (AerErr.badTlp, 6), (AerErr.badDllp, 7), (AerErr.replay, 12)]) ∧
    (∃ (s : State), s.link.ecrcChk = false) ∧
    (∃ (s : State) (f : BitVec 8), (s.fnOf f.toNat).vecPend = []) ∧
    (∃ (s : State) (f : BitVec 8) (v : BitVec 11), (s.fnOf f.toNat).vecPend = [(v.toNat, true)] ∧ (s.fnOf f.toNat).msixEn = true ∧
      (s.fnOf f.toNat).funcMask = false) :=
  ⟨⟨State.reset, by decide +kernel⟩,
   ⟨{ chip := { legacy := true } }, by decide +kernel⟩,
   ⟨{ chip := { crs := true } }, 0, by decide +kernel⟩,
   ⟨up, 9, by and_intros <;> decide +kernel⟩,
   ⟨up, 0, by and_intros <;> decide +kernel⟩,
   ⟨up, by and_intros <;> decide +kernel⟩,
   ⟨up, .poisoned, 12, by and_intros <;> decide +kernel⟩,
   ⟨.replay, 12, by decide +kernel⟩,
   ⟨up, by decide +kernel⟩,
   ⟨State.reset, 255, by decide +kernel⟩,
   ⟨{ fns := [(0, { msixEn := true, vecPend := [(1, true)] })] }, 0, 1, by and_intros <;> decide +kernel⟩⟩

theorem witness_QueueRegisters :
    (∃ (s : State) (p : BitVec 8) (v : BitVec 32) (f q : ℕ), s.pageOpen p.toNat = true ∧ s.selected p.toNat = (f, q) ∧ s.holdsQueue f q
      = true ∧ (s.queueOf f q).enable = false ∧ (s.queueOf f q).drained = true ∧ BitVec.extractLsb' 0 6 v = 0) ∧
    (∃ (s : State) (p : BitVec 8) (v : BitVec 32) (f q : ℕ), s.pageOpen p.toNat = true ∧ s.selected p.toNat = (f, q) ∧ s.holdsQueue f q
      = true ∧ (s.queueOf f q).enable = false ∧ (s.queueOf f q).drained = true ∧ BitVec.extractLsb' 0 6 v ≠ 0) ∧
    (∃ (s : State) (p : BitVec 8) (v : BitVec 32) (f q : ℕ), s.pageOpen p.toNat = true ∧ s.selected p.toNat = (f, q) ∧ s.holdsQueue f q
      = true ∧ (s.queueOf f q).enable = false ∧ (s.queueOf f q).drained = true ∧ (∃ k, 1 ≤ k ∧ k ≤ 16 ∧ (BitVec.extractLsb' 0 17
      v).toNat = 2 ^ k)) ∧
    (∃ (s : State) (p : BitVec 8) (v : BitVec 32) (f q : ℕ), s.pageOpen p.toNat = true ∧ s.selected p.toNat = (f, q) ∧ s.holdsQueue f q
      = true ∧ (s.queueOf f q).enable = false ∧ (s.queueOf f q).drained = true ∧ (¬∃ k, 1 ≤ k ∧ k ≤ 16 ∧ (BitVec.extractLsb' 0 17
      v).toNat = 2 ^ k)) ∧
    (∃ (s : State) (p : BitVec 8) (v : BitVec 32) (f q : ℕ), s.pageOpen p.toNat = true ∧ s.selected p.toNat = (f, q) ∧ s.holdsQueue f q
      = true ∧ (s.queueOf f q).enable = false ∧ (s.queueOf f q).drained = true ∧ (vectorOk f (BitVec.extractLsb' 0 11 v).toNat = true ∨
      v.getLsbD 31 = false)) ∧
    (∃ (s : State) (p : BitVec 8) (v : BitVec 32) (f q : ℕ), s.pageOpen p.toNat = true ∧ s.selected p.toNat = (f, q) ∧ s.holdsQueue f q
      = true ∧ (s.queueOf f q).enable = false ∧ (s.queueOf f q).drained = true ∧ vectorOk f (BitVec.extractLsb' 0 11 v).toNat = false ∧
      v.getLsbD 31 = true) ∧
    (∃ (s : State) (p : BitVec 8) (f q : ℕ), s.pageOpen p.toNat = true ∧ s.selected p.toNat = (f, q) ∧ s.holdsQueue f q = true ∧
      ((s.queueOf f q).enable = true ∨ (s.queueOf f q).drained = false)) ∧
    (∃ (s : State) (p : BitVec 8) (f q : ℕ), s.pageOpen p.toNat = true ∧ s.selected p.toNat = (f, q) ∧ s.holdsQueue f q = false) ∧
    (∃ (s : State) (p : BitVec 8) (f q : ℕ), s.pageOpen p.toNat = true ∧ s.selected p.toNat = (f, q) ∧ s.holdsQueue f q = true ∧
      (s.queueOf f q).enable = false ∧ (s.queueOf f q).drained = true ∧ (s.queueOf f q).depth ≠ 0) ∧
    (∃ (s : State) (p : BitVec 8) (f q : ℕ), s.pageOpen p.toNat = true ∧ s.selected p.toNat = (f, q) ∧ s.holdsQueue f q = true ∧ twf { }
      s.queues = true) ∧
    (∃ (s : State) (p : BitVec 8) (f q : ℕ) (v : BitVec 32), s.pageOpen p.toNat = true ∧ s.selected p.toNat = (f, q) ∧ s.holdsQueue f q
      = true ∧ p = 0 ∧ s.holdsQueue (BitVec.extractLsb' 16 8 v).toNat (BitVec.extractLsb' 0 12 v).toNat = true) ∧
    (∃ (s : State) (p : BitVec 8) (f q : ℕ) (v : BitVec 32), s.pageOpen p.toNat = true ∧ s.selected p.toNat = (f, q) ∧ s.holdsQueue f q
      = true ∧ p ≠ 0 ∧ s.holdsQueue p.toNat (BitVec.extractLsb' 0 12 v).toNat = true) ∧
    (∃ (s : State) (v : BitVec 32), s.pfOpen = true ∧ s.chip.legacy = false ∧ (BitVec.extractLsb' 0 13 v).toNat ≤ 4096 ∧
      (BitVec.extractLsb' 0 13 v).toNat ≤ s.qmgr.poolFree + (s.fnOf s.qmgr.funcSel).queues ∧ twf { } s.fns = true ∧ (s.fnOf
      s.qmgr.funcSel).queues ≤ 4096 ∧ (∀ (q : ℕ), (s.queueOf s.qmgr.funcSel q).enable = false) ∧ (∀ (q : ℕ), (s.queueOf s.qmgr.funcSel
      q).drained = true) ∧ twf { } s.queues = true) ∧
    (∃ (s : State) (v : BitVec 32), s.pfOpen = true ∧ s.chip.legacy = false ∧ (4096 < (BitVec.extractLsb' 0 13 v).toNat ∨
      s.qmgr.poolFree + (s.fnOf s.qmgr.funcSel).queues < (BitVec.extractLsb' 0 13 v).toNat)) :=
  ⟨⟨queued { depth := 2 }, 0, 0xFFFFFFC0, 0, 0, by and_intros <;> decide +kernel⟩,
   ⟨queued { depth := 2 }, 0, 1, 0, 0, by and_intros <;> decide +kernel⟩,
   ⟨queued { depth := 2 }, 0, 65536, 0, 0, by
       refine ⟨by decide +kernel, by decide +kernel, by decide +kernel, by decide +kernel, by decide +kernel, 16, by decide +kernel⟩⟩,
   ⟨queued { depth := 2 }, 0, 131071, 0, 0, ⟨by decide +kernel, by decide +kernel, by decide +kernel, by decide +kernel,
     by decide +kernel, (by rintro ⟨k, h1, h2, h3⟩; revert h1 h2 h3; revert k; decide)⟩⟩,
   ⟨queued { depth := 2 }, 0, 257 + 0x80000000, 0, 0, by and_intros <;> decide +kernel⟩,
   ⟨{ queued { depth := 2 } with link := { vfEnable := true, numVfs := 255 }, fns := [(1, { queues := 4 })] }, 1, 0x800007FF, 1, 0,
     by and_intros <;> decide +kernel⟩,
   ⟨queued ring, 0, 0, 0, by and_intros <;> decide +kernel⟩,
   ⟨up, 0, 0, 0, by and_intros <;> decide +kernel⟩,
   ⟨queued { depth := 2 }, 0, 0, 0, by and_intros <;> decide +kernel⟩,
   ⟨queued ring, 0, 0, 0, by and_intros <;> decide +kernel⟩,
   ⟨queued ring, 0, 0, 0, 0, by and_intros <;> decide +kernel⟩,
   ⟨{ queued { depth := 2 } with link := { vfEnable := true, numVfs := 255 }, fns := [(1, { queues := 4 })] }, 1, 1, 0, 2,
     by and_intros <;> decide +kernel⟩,
   ⟨up, 4096, by
       refine ⟨?_, ?_, ?_, ?_, ?_, ?_, fun _ => rfl, fun _ => rfl, ?_⟩ <;> decide +kernel⟩,
   ⟨up, 4097, by and_intros <;> decide +kernel⟩⟩

theorem witness_Submission :
    (∃ (s : State) (f : BitVec 8) (q : BitVec 12), s.fetches = true ∧ s.doorbellOpen f.toNat = true ∧ s.holdsQueue f.toNat q.toNat =
      true ∧ (s.queueOf f.toNat q.toNat).enable = true ∧ (s.queueOf f.toNat q.toNat).broken = false ∧ s.link.readsOut + 1 <
      s.link.tagMode.limit ∧ s.granted 0 (s.hasWork 0) = some f.toNat ∧ 0 < s.fetchCount (s.queueOf f.toNat q.toNat) ∧ (s.queueOf
      f.toNat q.toNat).reads = [] ∧ (s.queueOf f.toNat q.toNat).sqHead < (s.queueOf f.toNat q.toNat).depth) ∧
    (∃ (s : State) (f : BitVec 8) (q : BitVec 12) (v : BitVec 16), s.doorbellOpen f.toNat = true ∧ s.holdsQueue f.toNat q.toNat = true ∧
      (s.queueOf f.toNat q.toNat).enable = true ∧ (s.queueOf f.toNat q.toNat).broken = false ∧ v.toNat < (s.queueOf f.toNat
      q.toNat).depth ∧ ((s.queueOf f.toNat q.toNat).sqTail + (s.queueOf f.toNat q.toNat).depth - (s.queueOf f.toNat q.toNat).sqHead) %
      (s.queueOf f.toNat q.toNat).depth ≤ (v.toNat + (s.queueOf f.toNat q.toNat).depth - (s.queueOf f.toNat q.toNat).sqHead) %
      (s.queueOf f.toNat q.toNat).depth) ∧
    (∃ (s : State) (f : BitVec 8) (q : BitVec 12) (v : BitVec 16), s.doorbellOpen f.toNat = true ∧ s.holdsQueue f.toNat q.toNat = true ∧
      (s.queueOf f.toNat q.toNat).enable = true ∧ (s.queueOf f.toNat q.toNat).broken = false ∧ (s.queueOf f.toNat q.toNat).depth ≤
      v.toNat) ∧
    (∃ (s : State) (f : BitVec 8) (q : BitVec 12) (v : BitVec 16), s.doorbellOpen f.toNat = true ∧ s.holdsQueue f.toNat q.toNat = true ∧
      (s.queueOf f.toNat q.toNat).enable = true ∧ (s.queueOf f.toNat q.toNat).broken = false ∧ v.toNat < (s.queueOf f.toNat
      q.toNat).depth ∧ (v.toNat + (s.queueOf f.toNat q.toNat).depth - (s.queueOf f.toNat q.toNat).sqHead) % (s.queueOf f.toNat
      q.toNat).depth < ((s.queueOf f.toNat q.toNat).sqTail + (s.queueOf f.toNat q.toNat).depth - (s.queueOf f.toNat q.toNat).sqHead) %
      (s.queueOf f.toNat q.toNat).depth) ∧
    (∃ (s : State) (f : BitVec 8) (q : BitVec 12) (v : BitVec 16), s.doorbellOpen f.toNat = true ∧ s.holdsQueue f.toNat q.toNat = true ∧
      (s.queueOf f.toNat q.toNat).enable = true ∧ (s.queueOf f.toNat q.toNat).broken = false ∧ v.toNat < (s.queueOf f.toNat
      q.toNat).depth ∧ (v.toNat + (s.queueOf f.toNat q.toNat).depth - (s.queueOf f.toNat q.toNat).cqHead) % (s.queueOf f.toNat
      q.toNat).depth ≤ (s.queueOf f.toNat q.toNat).unreleased ∧ (s.queueOf f.toNat q.toNat).pendIrq = 0) ∧
    (∃ (s : State) (f : BitVec 8) (q : BitVec 12) (v : BitVec 16), s.doorbellOpen f.toNat = true ∧ s.holdsQueue f.toNat q.toNat = true ∧
      (s.queueOf f.toNat q.toNat).enable = true ∧ (s.queueOf f.toNat q.toNat).broken = false ∧ v.toNat < (s.queueOf f.toNat
      q.toNat).depth ∧ (s.queueOf f.toNat q.toNat).unreleased < (v.toNat + (s.queueOf f.toNat q.toNat).depth - (s.queueOf f.toNat
      q.toNat).cqHead) % (s.queueOf f.toNat q.toNat).depth) ∧
    (∃ (s : State) (f : BitVec 8) (q : BitVec 12) (v h : BitVec 16), s.doorbellOpen f.toNat = true ∧ s.holdsQueue f.toNat q.toNat = true
      ∧ (s.queueOf f.toNat q.toNat).enable = true ∧ (s.queueOf f.toNat q.toNat).broken = false ∧ h.toNat < (s.queueOf f.toNat
      q.toNat).depth ∧ (h.toNat + (s.queueOf f.toNat q.toNat).depth - (s.queueOf f.toNat q.toNat).cqHead) % (s.queueOf f.toNat
      q.toNat).depth ≤ (s.queueOf f.toNat q.toNat).unreleased ∧ (s.queueOf f.toNat q.toNat).pendIrq = 0 ∧ v.toNat < (s.queueOf f.toNat
      q.toNat).depth ∧ ((s.queueOf f.toNat q.toNat).sqTail + (s.queueOf f.toNat q.toNat).depth - (s.queueOf f.toNat q.toNat).sqHead) %
      (s.queueOf f.toNat q.toNat).depth ≤ (v.toNat + (s.queueOf f.toNat q.toNat).depth - (s.queueOf f.toNat q.toNat).sqHead) %
      (s.queueOf f.toNat q.toNat).depth) ∧
    (∃ (s : State) (f : BitVec 8) (q : BitVec 12) (h : BitVec 16), s.doorbellOpen f.toNat = true ∧ s.holdsQueue f.toNat q.toNat = true ∧
      (s.queueOf f.toNat q.toNat).enable = true ∧ (s.queueOf f.toNat q.toNat).broken = false ∧ (s.queueOf f.toNat q.toNat).depth ≤
      h.toNat) ∧
    (∃ (s : State) (f : BitVec 8) (q : BitVec 12), s.doorbellOpen f.toNat = true ∧ (s.holdsQueue f.toNat q.toNat = false ∨ (s.queueOf
      f.toNat q.toNat).enable = false ∨ (s.queueOf f.toNat q.toNat).broken = true)) ∧
    (∃ (s : State) (f : BitVec 8) (q : BitVec 12) (d : BitVec 512) (n : ℕ) (o : Op), (s.queueOf f.toNat q.toNat).reads = [(n, 1)] ∧ twf
      { } s.queues = true ∧ (∀ id ≥ s.engine.nextId, s.opOf id = none) ∧ (o =
      { id := s.engine.nextId, fn := f.toNat, queue := q.toNat, seq := (s.queueOf f.toNat q.toNat).nextSeq, desc := d, gen := (s.fnOf f.toNat).allowGen, prio := (s.fnOf f.toNat).priority }))
      :=
  ⟨⟨{ queued { ring with sqTail := 15 } with fns := [(0, { queues := 1 })] }, 0, 0, by and_intros <;> decide +kernel⟩,
   ⟨queued ring, 0, 0, 15, by and_intros <;> decide +kernel⟩,
   ⟨queued ring, 0, 0, 16, by and_intros <;> decide +kernel⟩,
   ⟨queued { ring with sqTail := 2, sqHead := 1 }, 0, 0, 1, by and_intros <;> decide +kernel⟩,
   ⟨queued { ring with unreleased := 15 }, 0, 0, 15, by and_intros <;> decide +kernel⟩,
   ⟨queued ring, 0, 0, 1, by and_intros <;> decide +kernel⟩,
   ⟨queued { ring with unreleased := 15 }, 0, 0, 3, 1, by and_intros <;> decide +kernel⟩,
   ⟨queued ring, 0, 0, 16, by and_intros <;> decide +kernel⟩,
   ⟨up, 0, 0, by and_intros <;> decide +kernel⟩,
   ⟨queued { ring with reads := [(0, 1)] }, 0, 0, desc 0xFFFF, 0, fetched (queued { ring with reads := [(0, 1)] }) 0 0 (desc 0xFFFF),
     ⟨by decide +kernel, by decide +kernel, fun _ _ => rfl, rfl⟩⟩⟩

theorem witness_EngineOperations :
    (∃ (s : State) (op : ℕ) (o : Op) (c : Queue), s.opOf op = some o ∧ o.stage = Stage.done ∧ (dOrdered o.desc = false ∧ dFence o.desc =
      false ∨ s.earlier o = []) ∧ c = s.queueOf o.fn o.queue ∧ s.chip.legacy = false) ∧
    (∃ (s : State) (op : ℕ) (o : Op), s.opOf op = some o ∧ o.opcode = 2048 ∧ o.stage = Stage.qengine ∧ s.mayStart o = true) ∧
    (∃ (s : State) (op : ℕ) (o : Op), s.opOf op = some o ∧ o.opcode = 2049 ∧ o.stage = Stage.qengine ∧ s.earlier o = []) ∧
    (∃ (s : State) (op : ℕ) (o p : Op), s.opOf op = some o ∧ o.opcode = 2049 ∧ p ∈ s.earlier o) ∧
    (∃ (s : State) (f : BitVec 8) (q : BitVec 12), (s.queueOf f.toNat q.toNat).timer = true ∧ (s.queueOf f.toNat q.toNat).pendIrq ≠ 0 ∧
      s.chip.legacy = false ∧ s.vectorOpen f.toNat (s.queueOf f.toNat q.toNat).vector = true) ∧
    (∃ (s : State) (f : BitVec 8) (q : BitVec 12), (s.queueOf f.toNat q.toNat).reads ≠ []) ∧
    (∃ (s : State) (op : ℕ) (o : Op), s.opOf op = some o ∧ o.stage ≠ Stage.done ∧ o.stage ≠ Stage.qengine) ∧
    (∃ (s : State) (op : ℕ) (o : Op) (w : OpRead), s.opOf op = some o ∧ o.stage = Stage.done ∧ o.ran = true ∧ o.status = 2049 ∧ o.detail
      = 1 ∧ w ≠ OpRead.source) :=
  ⟨⟨{ queued { ring with cqTail := 14 } with engine := { tasks := [job .done (desc 0x0800)] } }, 1, job .done (desc 0x0800),
    { ring with cqTail := 14 }, by and_intros <;> decide +kernel⟩,
   ⟨holding (job .qengine (desc 0x0800)), 1, job .qengine (desc 0x0800), by and_intros <;> decide +kernel⟩,
   ⟨holding (job .qengine (desc 0x0801)), 1, job .qengine (desc 0x0801), by and_intros <;> decide +kernel⟩,
   ⟨{ up with engine := { tasks := [{ job .qengine (desc 0x0801) with seq := 1 }, { id := 2, desc := desc 0x0800 }] } }, 1,
     { job .qengine (desc 0x0801) with seq := 1 }, { id := 2, desc := desc 0x0800 }, by and_intros <;> decide +kernel⟩,
   ⟨{ queued { ring with timer := true, pendIrq := 1, vector := 257 } with fns := [(0, { queues := 1, msixEn := true, vecOpen := [(257, true)] })] },
     0, 0, by and_intros <;> decide +kernel⟩,
   ⟨queued { ring with reads := [(0, 1)] }, 0, 0, by decide +kernel⟩,
   ⟨holding (job .block (desc 0x0101)), 1, job .block (desc 0x0101), by and_intros <;> decide +kernel⟩,
   ⟨holding { job .done (desc 0x0101) with ran := true, status := 2049, detail := 1 }, 1,
     { job .done (desc 0x0101) with ran := true, status := 2049, detail := 1 }, .params, by and_intros <;> decide +kernel⟩⟩

theorem witness_OperationEnds :
    (∃ (s : State) (o : Op), s.opOf o.id = some o ∧ o.fetched = 0) ∧
    (∃ (s : State) (o : Op) (dma : Dma) (out : Bytes), (∃ p, s.opOf o.id = some p ∧ p.reserved = false) ∧ s.worlds.running ≠ some
      (Service.chan o.id) ∧ overlapOpen o.desc dma (List.length out) = false ∧ dDstList o.desc = false ∧ out ≠ []) ∧
    (∃ (s : State) (o : Op) (dma : Dma) (out : Bytes), (∃ p, s.opOf o.id = some p ∧ p.reserved = false) ∧ s.worlds.running ≠ some
      (Service.chan o.id) ∧ overlapOpen o.desc dma (List.length out) = false ∧ dDstList o.desc = true) ∧
    (∃ (s : State) (o : Op) (dma : Dma) (out : Bytes), (∃ p, s.opOf o.id = some p ∧ p.reserved = false) ∧ s.worlds.running ≠ some
      (Service.chan o.id) ∧ overlapOpen o.desc dma (List.length out) = false ∧ out = []) ∧
    (∃ (s : State) (o : Op) (status : ℕ), (∃ p, s.opOf o.id = some p ∧ p.reserved = false) ∧ s.worlds.running ≠ some (Service.chan o.id)
      ∧ 256 ≤ status) :=
  ⟨⟨holding (job .block (desc 0x0101)), job .block (desc 0x0101), by and_intros <;> decide +kernel⟩,
   ⟨holding (job .block (desc 0x0101)), job .block (desc 0x0101), {}, [1], ⟨⟨_, rfl, rfl⟩, by and_intros <;> decide +kernel⟩⟩,
   ⟨holding (job .block (desc 0x0101 (flags := 16))), job .block (desc 0x0101 (flags := 16)), {}, [1], ⟨⟨_, rfl, rfl⟩,
     by and_intros <;> decide +kernel⟩⟩,
   ⟨holding (job .block (desc 0x0101)), job .block (desc 0x0101), {}, [], ⟨⟨_, rfl, rfl⟩, by and_intros <;> decide +kernel⟩⟩,
   ⟨holding (job .block (desc 0x0101)), job .block (desc 0x0101), 256, ⟨⟨_, rfl, rfl⟩, by and_intros <;> decide +kernel⟩⟩⟩

theorem witness_CipherModes :
    (∃ (s : State) (op : ℕ) (o : Op) (dma : Dma), s.opOf op = some o ∧ o.stage = Stage.block ∧ o.opcode = 257 ∧ check7 o.desc dma (dDlen
      o.desc) (padOut 16 o) = none) ∧
    (∃ (s : State) (op : ℕ) (o : Op) (dma : Dma), s.opOf op = some o ∧ o.stage = Stage.block ∧ o.opcode = 259 ∧ check7 o.desc dma (dDlen
      o.desc) (padOut 16 o) = none) ∧
    (∃ (s : State) (op : ℕ) (o : Op) (dma : Dma), s.opOf op = some o ∧ o.stage = Stage.block ∧ check7 o.desc dma (dDlen o.desc) (dDlen
      o.desc) = none ∧ o.opcode = 258) ∧
    (∃ (s : State) (op : ℕ) (o : Op) (dma : Dma), s.opOf op = some o ∧ o.stage = Stage.block ∧ check7 o.desc dma (dDlen o.desc) (dDlen
      o.desc) = none ∧ o.opcode = 260) ∧
    (∃ (s : State) (op : ℕ) (o : Op) (dma : Dma), s.opOf op = some o ∧ o.stage = Stage.block ∧ check7 o.desc dma (dDlen o.desc) (dDlen
      o.desc) = none ∧ o.opcode = 261) ∧
    (∃ (s : State) (op : ℕ) (o : Op) (dma : Dma), s.opOf op = some o ∧ o.stage = Stage.block ∧ check7 o.desc dma (dDlen o.desc) (dDlen
      o.desc) = none ∧ o.opcode = 262) ∧
    (∃ (s : State) (op : ℕ) (o : Op) (dma : Dma), s.opOf op = some o ∧ o.stage = Stage.block ∧ check7 o.desc dma (dDlen o.desc) (dDlen
      o.desc) = none ∧ o.opcode = 263) ∧
    (∃ (s : State) (op : ℕ) (o : Op) (dma : Dma), s.opOf op = some o ∧ o.stage = Stage.block ∧ check7 o.desc dma (dDlen o.desc) (dDlen
      o.desc) = none ∧ o.opcode = 264) ∧
    (∃ (s : State) (op : ℕ) (o : Op) (dma : Dma), s.opOf op = some o ∧ o.stage = Stage.block ∧ check7 o.desc dma (dDlen o.desc) (dDlen
      o.desc) = none ∧ o.opcode = 269) ∧
    (∃ (s : State) (op : ℕ) (o : Op) (dma : Dma), s.opOf op = some o ∧ o.stage = Stage.block ∧ check7 o.desc dma (dDlen o.desc) (dDlen
      o.desc) = none ∧ o.opcode = 270) ∧
    (∃ (s : State) (op : ℕ) (o : Op) (dma : Dma), s.opOf op = some o ∧ o.stage = Stage.block ∧ check7 o.desc dma (dDlen o.desc) (padOut
      8 o) = none ∧ o.opcode = 288) ∧
    (∃ (s : State) (op : ℕ) (o : Op) (dma : Dma), s.opOf op = some o ∧ o.stage = Stage.block ∧ check7 o.desc dma (dDlen o.desc) (padOut
      8 o) = none ∧ o.opcode = 290) ∧
    (∃ (s : State) (op : ℕ) (o : Op) (dma : Dma), s.opOf op = some o ∧ o.stage = Stage.block ∧ check7 o.desc dma (dDlen o.desc) (dDlen
      o.desc) = none ∧ o.opcode = 289) ∧
    (∃ (s : State) (op : ℕ) (o : Op) (dma : Dma), s.opOf op = some o ∧ o.stage = Stage.block ∧ check7 o.desc dma (dDlen o.desc) (dDlen
      o.desc) = none ∧ o.opcode = 291) :=
  ⟨⟨holding (blk 0x0101), 1, blk 0x0101, {}, by and_intros <;> decide +kernel⟩,
   ⟨holding (blk 0x0103), 1, blk 0x0103, {}, by and_intros <;> decide +kernel⟩,
   ⟨holding (blk 0x0102), 1, blk 0x0102, {}, by and_intros <;> decide +kernel⟩,
   ⟨holding (blk 0x0104), 1, blk 0x0104, {}, by and_intros <;> decide +kernel⟩,
   ⟨holding (blk 0x0105), 1, blk 0x0105, {}, by and_intros <;> decide +kernel⟩,
   ⟨holding (blk 0x0106), 1, blk 0x0106, {}, by and_intros <;> decide +kernel⟩,
   ⟨holding (blk 0x0107), 1, blk 0x0107, {}, by and_intros <;> decide +kernel⟩,
   ⟨holding (blk 0x0108), 1, blk 0x0108, {}, by and_intros <;> decide +kernel⟩,
   ⟨holding (blk 0x010D), 1, blk 0x010D, {}, by and_intros <;> decide +kernel⟩,
   ⟨holding (blk 0x010E), 1, blk 0x010E, {}, by and_intros <;> decide +kernel⟩,
   ⟨holding (blk 0x0120), 1, blk 0x0120, {}, by and_intros <;> decide +kernel⟩,
   ⟨holding (blk 0x0122), 1, blk 0x0122, {}, by and_intros <;> decide +kernel⟩,
   ⟨holding (blk 0x0121), 1, blk 0x0121, {}, by and_intros <;> decide +kernel⟩,
   ⟨holding (blk 0x0123), 1, blk 0x0123, {}, by and_intros <;> decide +kernel⟩⟩

theorem witness_AeadModes :
    (∃ (s : State) (op : ℕ) (o : Op) (dma : Dma), s.opOf op = some o ∧ o.stage = Stage.block ∧ dInline o.desc = true ∧ check7 o.desc dma
      (dAadLen o.desc + dDlen o.desc) (dDlen o.desc + pT o) = none ∧ o.opcode = 265) ∧
    (∃ (s : State) (op : ℕ) (o : Op) (dma : Dma) (n : Bytes), s.opOf op = some o ∧ o.stage = Stage.block ∧ dInline o.desc = true ∧
      check7 o.desc dma (dAadLen o.desc + dDlen o.desc) (dDlen o.desc + pT o) = none ∧ o.opcode = 267 ∧ n = slice (dParam o.desc) 1
      (BitVec.toNat (byteAt (dParam o.desc) 0)) ∧ dDlen o.desc < 2 ^ (8 * (15 - List.length n))) ∧
    (∃ (s : State) (op : ℕ) (o : Op) (dma : Dma) (p iv : Bytes), s.opOf op = some o ∧ o.stage = Stage.block ∧ dInline o.desc = false ∧ p
      = opParams o dma ∧ 24 + leAt p 16 2 = dParamLen o.desc ∧ iv = slice p 24 (leAt p 16 2) ∧ check7 o.desc dma (dAadLen o.desc + dDlen
      o.desc) (dDlen o.desc + pT o) = none ∧ o.opcode = 265 ∧ aeadFault p 0 1 128 = none) ∧
    (∃ (s : State) (op : ℕ) (o : Op) (dma : Dma) (p iv : Bytes), s.opOf op = some o ∧ o.stage = Stage.block ∧ dInline o.desc = false ∧ p
      = opParams o dma ∧ 24 + leAt p 16 2 = dParamLen o.desc ∧ iv = slice p 24 (leAt p 16 2) ∧ check7 o.desc dma (dAadLen o.desc + dDlen
      o.desc) (dDlen o.desc + pT o) = none ∧ o.opcode = 267 ∧ aeadFault p 0 7 13 = none ∧ dDlen o.desc < 2 ^ (8 * (15 - List.length
      iv))) ∧
    (∃ (s : State) (op : ℕ) (o : Op) (dma : Dma) (p iv : Bytes), s.opOf op = some o ∧ o.stage = Stage.block ∧ dInline o.desc = false ∧ p
      = opParams o dma ∧ 24 + leAt p 16 2 = dParamLen o.desc ∧ iv = slice p 24 (leAt p 16 2) ∧ check7 o.desc dma (dAadLen o.desc + dDlen
      o.desc) (dDlen o.desc) = none ∧ o.opcode = 266 ∧ aeadFault p (pT o) 1 128 = none ∧ List.take (pT o) (Modes.gcmTag o.aesEnc iv
      (opAad o dma) (opData o dma)) = List.take (pT o) p) ∧
    (∃ (s : State) (op : ℕ) (o : Op) (dma : Dma) (p iv : Bytes), s.opOf op = some o ∧ o.stage = Stage.block ∧ dInline o.desc = false ∧ p
      = opParams o dma ∧ 24 + leAt p 16 2 = dParamLen o.desc ∧ iv = slice p 24 (leAt p 16 2) ∧ check7 o.desc dma (dAadLen o.desc + dDlen
      o.desc) (dDlen o.desc) = none ∧ o.opcode = 266 ∧ aeadFault p (pT o) 1 128 = none ∧ List.take (pT o) (Modes.gcmTag o.aesEnc iv
      (opAad o dma) (opData o dma)) ≠ List.take (pT o) p ∧ dDlen o.desc ≤ 4096) ∧
    (∃ (s : State) (op : ℕ) (o : Op) (dma : Dma) (p iv : Bytes), s.opOf op = some o ∧ o.stage = Stage.block ∧ dInline o.desc = false ∧ p
      = opParams o dma ∧ 24 + leAt p 16 2 = dParamLen o.desc ∧ iv = slice p 24 (leAt p 16 2) ∧ check7 o.desc dma (dAadLen o.desc + dDlen
      o.desc) (dDlen o.desc) = none ∧ o.opcode = 266 ∧ aeadFault p (pT o) 1 128 = none ∧ List.take (pT o) (Modes.gcmTag o.aesEnc iv
      (opAad o dma) (opData o dma)) ≠ List.take (pT o) p ∧ 4096 < dDlen o.desc) ∧
    (∃ (s : State) (op : ℕ) (o : Op) (dma : Dma) (p iv : Bytes), s.opOf op = some o ∧ o.stage = Stage.block ∧ dInline o.desc = false ∧ p
      = opParams o dma ∧ 24 + leAt p 16 2 = dParamLen o.desc ∧ iv = slice p 24 (leAt p 16 2) ∧ check7 o.desc dma (dAadLen o.desc + dDlen
      o.desc) (dDlen o.desc) = none ∧ o.opcode = 268 ∧ aeadFault p (pT o) 7 13 = none ∧ dDlen o.desc < 2 ^ (8 * (15 - List.length iv)) ∧
      Modes.ccmTag o.aesEnc iv (opAad o dma) (Modes.ccmCrypt o.aesEnc iv (opData o dma)) (pT o) = List.take (pT o) p) ∧
    (∃ (s : State) (op : ℕ) (o : Op) (dma : Dma) (p iv : Bytes), s.opOf op = some o ∧ o.stage = Stage.block ∧ dInline o.desc = false ∧ p
      = opParams o dma ∧ 24 + leAt p 16 2 = dParamLen o.desc ∧ iv = slice p 24 (leAt p 16 2) ∧ check7 o.desc dma (dAadLen o.desc + dDlen
      o.desc) (dDlen o.desc) = none ∧ o.opcode = 268 ∧ aeadFault p (pT o) 7 13 = none ∧ dDlen o.desc < 2 ^ (8 * (15 - List.length iv)) ∧
      Modes.ccmTag o.aesEnc iv (opAad o dma) (Modes.ccmCrypt o.aesEnc iv (opData o dma)) (pT o) ≠ List.take (pT o) p ∧ dDlen o.desc ≤
      4096) ∧
    (∃ (s : State) (op : ℕ) (o : Op) (dma : Dma) (p iv : Bytes), s.opOf op = some o ∧ o.stage = Stage.block ∧ dInline o.desc = false ∧ p
      = opParams o dma ∧ 24 + leAt p 16 2 = dParamLen o.desc ∧ iv = slice p 24 (leAt p 16 2) ∧ check7 o.desc dma (dAadLen o.desc + dDlen
      o.desc) (dDlen o.desc) = none ∧ o.opcode = 268 ∧ aeadFault p (pT o) 7 13 = none ∧ dDlen o.desc < 2 ^ (8 * (15 - List.length iv)) ∧
      Modes.ccmTag o.aesEnc iv (opAad o dma) (Modes.ccmCrypt o.aesEnc iv (opData o dma)) (pT o) ≠ List.take (pT o) p ∧ 4096 < dDlen
      o.desc) :=
  ⟨⟨holding (job .block (desc 0x0109 (flags := 4) (plan := 0x1000))), 1, job .block (desc 0x0109 (flags := 4) (plan := 0x1000)), {},
    by and_intros <;> decide +kernel⟩,
   ⟨holding (job .block (desc 0x010B (flags := 4) (plan := 0x1000) (param := 13) (dlen := 65535))), 1, job .block (desc 0x010B (flags :=
     4) (plan := 0x1000) (param := 13) (dlen := 65535)), {}, List.replicate 13 0, by and_intros <;> decide +kernel⟩,
   ⟨holding (aead 0x0109 0x1000), 1, aead 0x0109 0x1000, aeadDma [] [7], (aeadDma [] [7]).params, [7],
     by and_intros <;> decide +kernel⟩,
   ⟨holding (aead 0x010B 0x1000 (n := 13)), 1, aead 0x010B 0x1000 (n := 13), aeadDma [] (List.replicate 13 7), (aeadDma []
     (List.replicate 13 7)).params, List.replicate 13 7, by and_intros <;> decide +kernel⟩,
   ⟨holding (aead 0x010A 0x1000), 1, aead 0x010A 0x1000, gcmDma, gcmDma.params, [7], by and_intros <;> decide +kernel⟩,
   ⟨holding (aead 0x010A 0x1000), 1, aead 0x010A 0x1000, aeadDma [1] [7], (aeadDma [1] [7]).params, [7],
     by and_intros <;> decide +kernel⟩,
   ⟨holding (aeadLong 0x010A), 1, aeadLong 0x010A, noData (aeadDma [1] [7]), (noData (aeadDma [1] [7])).params, [7],
     by and_intros <;> decide +kernel⟩,
   ⟨holding (aead 0x010C 0x1000 (n := 7)), 1, aead 0x010C 0x1000 (n := 7), ccmDma, ccmDma.params, List.replicate 7 7,
     by and_intros <;> decide +kernel⟩,
   ⟨holding (aead 0x010C 0x1000 (n := 7)), 1, aead 0x010C 0x1000 (n := 7), aeadDma [1] (List.replicate 7 7), (aeadDma [1]
     (List.replicate 7 7)).params, List.replicate 7 7, by and_intros <;> decide +kernel⟩,
   ⟨holding (aeadLong 0x010C (n := 7)), 1, aeadLong 0x010C (n := 7), noData (aeadDma [1] (List.replicate 7 7)), (noData (aeadDma [1]
     (List.replicate 7 7))).params, List.replicate 7 7, by and_intros <;> decide +kernel⟩⟩

theorem witness_KeyWrapsAndSealedData :
    (∃ (s : State) (op : ℕ) (o : Op) (dma : Dma), s.opOf op = some o ∧ o.stage = Stage.block ∧ o.opcode = 272 ∧ check7 o.desc dma (dDlen
      o.desc) (dDlen o.desc + 8) = none) ∧
    (∃ (s : State) (op : ℕ) (o : Op) (dma : Dma), s.opOf op = some o ∧ o.stage = Stage.block ∧ o.opcode = 274 ∧ check7 o.desc dma (dDlen
      o.desc) (8 * ((dDlen o.desc + 7) / 8) + 8) = none) ∧
    (∃ (s : State) (op : ℕ) (o : Op) (dma : Dma) (m : Bytes), s.opOf op = some o ∧ o.stage = Stage.block ∧ check7 o.desc dma (dDlen
      o.desc) (dDlen o.desc - 8) = none ∧ o.opcode = 273 ∧ Modes.kwUnwrap o.aesDec (opData o dma) = some m) ∧
    (∃ (s : State) (op : ℕ) (o : Op) (dma : Dma), s.opOf op = some o ∧ o.stage = Stage.block ∧ check7 o.desc dma (dDlen o.desc) (dDlen
      o.desc - 8) = none ∧ o.opcode = 273 ∧ Modes.kwUnwrap o.aesDec (opData o dma) = none) ∧
    (∃ (s : State) (op : ℕ) (o : Op) (dma : Dma) (m : Bytes), s.opOf op = some o ∧ o.stage = Stage.block ∧ check7 o.desc dma (dDlen
      o.desc) (dDlen o.desc - 8) = none ∧ o.opcode = 275 ∧ Modes.kwpUnwrap o.aesDec (opData o dma) = some m) ∧
    (∃ (s : State) (op : ℕ) (o : Op) (dma : Dma), s.opOf op = some o ∧ o.stage = Stage.block ∧ check7 o.desc dma (dDlen o.desc) (dDlen
      o.desc - 8) = none ∧ o.opcode = 275 ∧ Modes.kwpUnwrap o.aesDec (opData o dma) = none) ∧
    (∃ (s : State) (op : ℕ) (o : Op) (dma : Dma) (r : Bytes × Inst), s.opOf op = some o ∧ o.stage = Stage.block ∧ o.opcode = 304 ∧
      check7 o.desc dma (dAadLen o.desc + dDlen o.desc) (dDlen o.desc + 48) = none ∧ (State.hasRead o dma s).DrawsNow o ∧ r = genInst
      (s.instOf o.fn (dDrbg o.desc)) 12 []) ∧
    (∃ (s : State) (op : ℕ) (o : Op) (dma : Dma), s.opOf op = some o ∧ o.stage = Stage.block ∧ o.opcode = 305 ∧ check7 o.desc dma
      (dAadLen o.desc + dDlen o.desc) (dDlen o.desc - 48) = none ∧ s.sealOk (List.take 32 (opData o dma)) o.tenant (dDlen o.desc) = true
      ∧ Modes.gcmTag (Aes.encWith (Aes.roundKeys (s.storageKey o.tenant (leAt (List.take 32 (opData o dma)) 8 2)))) (slice (List.take 32
      (opData o dma)) 16 12) (List.take 32 (opData o dma) ++ opAad o dma) (slice (opData o dma) 32 (dDlen o.desc - 48)) = slice (opData
      o dma) (32 + (dDlen o.desc - 48)) 16) ∧
    (∃ (s : State) (op : ℕ) (o : Op) (dma : Dma), s.opOf op = some o ∧ o.stage = Stage.block ∧ o.opcode = 305 ∧ check7 o.desc dma
      (dAadLen o.desc + dDlen o.desc) (dDlen o.desc - 48) = none ∧ s.sealOk (List.take 32 (opData o dma)) o.tenant (dDlen o.desc) = true
      ∧ Modes.gcmTag (Aes.encWith (Aes.roundKeys (s.storageKey o.tenant (leAt (List.take 32 (opData o dma)) 8 2)))) (slice (List.take 32
      (opData o dma)) 16 12) (List.take 32 (opData o dma) ++ opAad o dma) (slice (opData o dma) 32 (dDlen o.desc - 48)) ≠ slice (opData
      o dma) (32 + (dDlen o.desc - 48)) 16 ∧ dDlen o.desc ≤ 4096) ∧
    (∃ (s : State) (op : ℕ) (o : Op) (dma : Dma), s.opOf op = some o ∧ o.stage = Stage.block ∧ o.opcode = 305 ∧ check7 o.desc dma
      (dAadLen o.desc + dDlen o.desc) (dDlen o.desc - 48) = none ∧ s.sealOk (List.take 32 (opData o dma)) o.tenant (dDlen o.desc) = true
      ∧ Modes.gcmTag (Aes.encWith (Aes.roundKeys (s.storageKey o.tenant (leAt (List.take 32 (opData o dma)) 8 2)))) (slice (List.take 32
      (opData o dma)) 16 12) (List.take 32 (opData o dma) ++ opAad o dma) (slice (opData o dma) 32 (dDlen o.desc - 48)) ≠ slice (opData
      o dma) (32 + (dDlen o.desc - 48)) 16 ∧ 4096 < dDlen o.desc) ∧
    (∃ (s : State) (op : ℕ) (o : Op) (dma : Dma), s.opOf op = some o ∧ o.stage = Stage.block ∧ o.opcode = 305 ∧ check7 o.desc dma
      (dAadLen o.desc + dDlen o.desc) (dDlen o.desc - 48) = none ∧ s.sealOk (List.take 32 (opData o dma)) o.tenant (dDlen o.desc) =
      false) :=
  ⟨⟨holding (blk 0x0110), 1, blk 0x0110, {}, by and_intros <;> decide +kernel⟩,
   ⟨holding (job .block (desc 0x0112 (dlen := 1))), 1, job .block (desc 0x0112 (dlen := 1)), {}, by and_intros <;> decide +kernel⟩,
   ⟨holding (job .block (desc 0x0111 (dlen := 8))), 1, job .block (desc 0x0111 (dlen := 8)), { src := List.replicate 8 0xA6 }, [],
     by and_intros <;> decide +kernel⟩,
   ⟨holding (job .block (desc 0x0111 (dlen := 8))), 1, job .block (desc 0x0111 (dlen := 8)), {}, by and_intros <;> decide +kernel⟩,
   ⟨holding (job .block (desc 0x0113 (dlen := 8))), 1, job .block (desc 0x0113 (dlen := 8)), { src := [0xA6, 0x59, 0x59, 0xA6] }, [],
     by and_intros <;> decide +kernel⟩,
   ⟨holding (job .block (desc 0x0113 (dlen := 8))), 1, job .block (desc 0x0113 (dlen := 8)), {}, by and_intros <;> decide +kernel⟩,
   ⟨fed (blk 0x0130), 1, blk 0x0130, {}, _, by
       refine ⟨?_, ?_, ?_, ?_, (by unfold State.DrawsNow State.Turn; and_intros <;> decide +kernel), rfl⟩ <;> decide +kernel⟩,
   ⟨sealer, 1, job .block (desc 0x0131 (dlen := 48)), sealDma 0, by
       refine ⟨?_, ?_, ?_, ?_, ?_, sealTag_eq.trans
         (by rw [show (32 + (dDlen (Tests.job .block (desc 0x0131 (dlen := 48))).desc - 48)) = 32 from by decide +kernel, sealDma_tag]; simp [List.range_succ])⟩
         <;> decide +kernel⟩,
   ⟨sealer, 1, job .block (desc 0x0131 (dlen := 48)), sealDma 1, by
       refine ⟨?_, ?_, ?_, ?_, ?_, fun h => absurd (congrArg (·.headD 0) (sealTag_eq.symm.trans h))
         (by rw [show (32 + (dDlen (Tests.job .block (desc 0x0131 (dlen := 48))).desc - 48)) = 32 from by decide +kernel, sealDma_tag]; simp [List.range_succ]; exact flip1 _),
         ?_⟩ <;> decide +kernel⟩,
   let ⟨d, e, h⟩ := sealLong_bad; ⟨longSealer, 1, sealLongOp, d, by decide +kernel, by decide +kernel, by decide +kernel,
     (by rcases e with rfl | rfl <;> decide +kernel), (by rcases e with rfl | rfl <;> decide +kernel), h, by decide +kernel⟩,
   ⟨holding (job .block (desc 0x0131 (dlen := 48))), 1, job .block (desc 0x0131 (dlen := 48)), {}, by and_intros <;> decide +kernel⟩⟩

theorem witness_HashesAndMacs :
    (∃ (s : State) (op : ℕ) (o : Op) (dma : Dma), s.opOf op = some o ∧ o.stage = Stage.block ∧ o.opcode = 513 ∧ dPlan o.desc % 16 ≤ 8 ∧
      check7 o.desc dma (dDlen o.desc) (Sha.hashLen (dPlan o.desc % 16)) = none) ∧
    (∃ (s : State) (op : ℕ) (o : Op) (dma : Dma), s.opOf op = some o ∧ o.stage = Stage.block ∧ o.opcode = 513 ∧ dPlan o.desc % 16 = 9 ∧
      check7 o.desc dma (dDlen o.desc) (dAux o.desc % 2 ^ 32) = none) ∧
    (∃ (s : State) (op : ℕ) (o : Op) (dma : Dma), s.opOf op = some o ∧ o.stage = Stage.block ∧ o.opcode = 513 ∧ dPlan o.desc % 16 = 10 ∧
      check7 o.desc dma (dDlen o.desc) (dAux o.desc % 2 ^ 32) = none) ∧
    (∃ (s : State) (op : ℕ) (o : Op) (dma : Dma), s.opOf op = some o ∧ o.stage = Stage.block ∧ check7 o.desc dma (dDlen o.desc) (pT o) =
      none ∧ o.opcode = 514 ∧ pT o ≤ Sha.hashLen (aSub o.keyCopy.attr)) ∧
    (∃ (s : State) (op : ℕ) (o : Op) (dma : Dma), s.opOf op = some o ∧ o.stage = Stage.block ∧ check7 o.desc dma (dDlen o.desc) (pT o) =
      none ∧ o.opcode = 528) ∧
    (∃ (s : State) (op : ℕ) (o : Op) (dma : Dma), s.opOf op = some o ∧ o.stage = Stage.block ∧ check7 o.desc dma (dDlen o.desc) (pT o) =
      none ∧ o.opcode = 530 ∧ dInline o.desc = true) ∧
    (∃ (s : State) (op : ℕ) (o : Op) (dma : Dma), s.opOf op = some o ∧ o.stage = Stage.block ∧ check7 o.desc dma (dDlen o.desc) (pT o) =
      none ∧ o.opcode = 530 ∧ dInline o.desc = false ∧ aeadFault (opParams o dma) 0 1 128 = none ∧ 24 + leAt (opParams o dma) 16 2 =
      dParamLen o.desc) ∧
    (∃ (s : State) (op : ℕ) (o : Op) (dma : Dma), s.opOf op = some o ∧ o.stage = Stage.block ∧ check7 o.desc dma (dDlen o.desc) (pT o) =
      none ∧ o.opcode = 544) ∧
    (∃ (s : State) (op : ℕ) (o : Op) (dma : Dma), s.opOf op = some o ∧ o.stage = Stage.block ∧ check7 o.desc dma (dDlen o.desc) (pT o) =
      none ∧ o.opcode = 546) ∧
    (∃ (s : State) (op : ℕ) (o : Op) (dma : Dma) (tag : Bytes), s.opOf op = some o ∧ o.stage = Stage.block ∧ check7 o.desc dma (dDlen
      o.desc) 0 = none ∧ (o.opcode = 515 ∧ pT o ≤ Sha.hashLen (aSub o.keyCopy.attr) ∧ tag = Sha.hmacId (aSub o.keyCopy.attr)
      o.keyCopy.bytes (opData o dma))) ∧
    (∃ (s : State) (op : ℕ) (o : Op) (dma : Dma) (tag : Bytes), s.opOf op = some o ∧ o.stage = Stage.block ∧ check7 o.desc dma (dDlen
      o.desc) 0 = none ∧ (o.opcode = 529 ∧ tag = Modes.cmac o.aesEnc 16 (opData o dma))) ∧
    (∃ (s : State) (op : ℕ) (o : Op) (dma : Dma) (tag : Bytes), s.opOf op = some o ∧ o.stage = Stage.block ∧ check7 o.desc dma (dDlen
      o.desc) 0 = none ∧ (o.opcode = 531 ∧ dInline o.desc = false ∧ aeadFault (opParams o dma) (pT o) 1 128 = none ∧ 24 + leAt (opParams
      o dma) 16 2 = dParamLen o.desc ∧ tag = Modes.gcmTag o.aesEnc (slice (opParams o dma) 24 (leAt (opParams o dma) 16 2)) (opData o
      dma) [])) ∧
    (∃ (s : State) (op : ℕ) (o : Op) (dma : Dma) (tag : Bytes), s.opOf op = some o ∧ o.stage = Stage.block ∧ check7 o.desc dma (dDlen
      o.desc) 0 = none ∧ (o.opcode = 545 ∧ tag = o.tdesMac (opData o dma))) ∧
    (∃ (s : State) (op : ℕ) (o : Op) (dma : Dma) (tag : Bytes), s.opOf op = some o ∧ o.stage = Stage.block ∧ check7 o.desc dma (dDlen
      o.desc) 0 = none ∧ (o.opcode = 547 ∧ tag = Modes.cmac o.tdesEnc 8 (opData o dma))) ∧
    (∃ (o : Op) (dma : Dma) (tag : Bytes), List.take (pT o) tag = List.take (pT o) (opParams o dma)) ∧
    (∃ (o : Op) (dma : Dma) (tag : Bytes), List.take (pT o) tag ≠ List.take (pT o) (opParams o dma)) :=
  ⟨⟨holding (blk 0x0201 8), 1, blk 0x0201 8, {}, by and_intros <;> decide +kernel⟩,
   ⟨holding (blk 0x0201 9), 1, blk 0x0201 9, {}, by and_intros <;> decide +kernel⟩,
   ⟨holding (job .block (desc 0x0201 (plan := 10) (dlen := 16) (aux := 16))), 1, job .block (desc 0x0201 (plan := 10) (dlen := 16) (aux
     := 16)), {}, by and_intros <;> decide +kernel⟩,
   ⟨holding (job .block (desc 0x0202 (plan := 0x1C00)) (attr := BitVec.ofNat 128 (2 ^ 88))), 1, job .block (desc 0x0202 (plan :=
     0x1C00)) (attr := BitVec.ofNat 128 (2 ^ 88)), {}, by and_intros <;> decide +kernel⟩,
   ⟨holding (blk 0x0210), 1, blk 0x0210, {}, by and_intros <;> decide +kernel⟩,
   ⟨holding (job .block (desc 0x0212 (flags := 4))), 1, job .block (desc 0x0212 (flags := 4)), {}, by and_intros <;> decide +kernel⟩,
   ⟨holding (aead 0x0212 0x1000), 1, aead 0x0212 0x1000, aeadDma [] [7], by and_intros <;> decide +kernel⟩,
   ⟨holding (blk 0x0220), 1, blk 0x0220, {}, by and_intros <;> decide +kernel⟩,
   ⟨holding (blk 0x0222), 1, blk 0x0222, {}, by and_intros <;> decide +kernel⟩,
   ⟨holding (job .block (desc 0x0203 (plan := 0x1C00)) (attr := BitVec.ofNat 128 (2 ^ 88))), 1, job .block (desc 0x0203 (plan :=
     0x1C00)) (attr := BitVec.ofNat 128 (2 ^ 88)), {}, _, by
       refine ⟨?_, ?_, ?_, ?_, ?_, rfl⟩ <;> decide +kernel⟩,
   ⟨holding (blk 0x0211), 1, blk 0x0211, {}, _, by
       refine ⟨?_, ?_, ?_, ?_, rfl⟩ <;> decide +kernel⟩,
   ⟨holding (aead 0x0213 0x1000), 1, aead 0x0213 0x1000, aeadDma [] [7], _, by
       refine ⟨?_, ?_, ?_, ?_, ?_, ?_, ?_, rfl⟩ <;> decide +kernel⟩,
   ⟨holding (blk 0x0221), 1, blk 0x0221, {}, _, by
       refine ⟨?_, ?_, ?_, ?_, rfl⟩ <;> decide +kernel⟩,
   ⟨holding (blk 0x0223), 1, blk 0x0223, {}, _, by
       refine ⟨?_, ?_, ?_, ?_, rfl⟩ <;> decide +kernel⟩,
   ⟨job .block (desc 0x0211 (plan := 0x400) (flags := 4) (param := 0x04030201)), {}, [1, 2, 3, 4, 5], by decide +kernel⟩,
   ⟨job .block (desc 0x0211 (plan := 0x400) (flags := 4) (param := 0x04030201)), {}, [1, 2, 3, 5, 5], by decide +kernel⟩⟩

theorem witness_StreamRoundTrip :
    ∃ (s : State) (op : ℕ) (o : Op) (dma : Dma) (p : Bytes), s.opOf op = some o ∧ o.stage = Stage.block ∧ o.opcode = 266 ∧ dInline
      o.desc = false ∧ check7 o.desc dma (dAadLen o.desc + dDlen o.desc) (dDlen o.desc) = none ∧ aeadFault (opParams o dma) (pT o) 1 128
      = none ∧ 24 + leAt (opParams o dma) 16 2 = dParamLen o.desc ∧ opData o dma = Modes.gcmCrypt o.aesEnc (slice (opParams o dma) 24
      (leAt (opParams o dma) 16 2)) p ∧ List.take (pT o) (opParams o dma) = List.take (pT o) (Modes.gcmTag o.aesEnc (slice (opParams o
      dma) 24 (leAt (opParams o dma) 16 2)) (opAad o dma) (Modes.gcmCrypt o.aesEnc (slice (opParams o dma) 24 (leAt (opParams o dma) 16
      2)) p)) :=
  ⟨holding (aead 0x010A 0x1000), 1, aead 0x010A 0x1000, gcmDma', [1, 2, 3, 4, 5, 6, 7, 8, 9, 10, 11, 12, 13, 14, 15, 16],
    by and_intros <;> decide +kernel⟩

theorem witness_BellowsAndDrbg :
    (∃ (s : State) (c : Fin 32), (s.cellOf c.val).out = false) ∧
    (∃ (s : State) (c : Fin 32), (s.cellOf c.val).out = true ∧ s.bellows.retest = false) ∧
    (∃ (s : State), s.bellows.retest = true ∧ s.bellows.state ≠ BState.ok) ∧
    (∃ (s : State), s.bellows.retest = false ∧ s.pfOpen = true ∧ s.bellows.state = BState.ok) ∧
    (∃ (s : State), s.bellows.retest = false ∧ s.pfOpen = true ∧ s.bellows.state = BState.failed) ∧
    (∃ (s : State), s.bellows.retest = false ∧ s.bellows.state = BState.failed ∧ s.setting 9 ≠ 0) ∧
    (∃ (s : State), s.bellows.retest = false ∧ s.setting 9 = 0) ∧
    (∃ (s : State), s.bellows.retest = true ∧ twf { } s.bellows.cells = true) ∧
    (∃ (q : List SeedReq) (r : SeedReq), nextSeed q = some r) ∧
    (∃ (s : State) (r : SeedReq), s.bellows.state = BState.ok ∧ nextSeed s.bellows.seedQ = some r) ∧
    (∃ (s : State), 64 < s.bellows.winPeak) ∧
    (∃ (s : State), s.bellows.winPeak ≤ 8) ∧
    (∃ (s : State), 8 < s.bellows.winPeak ∧ s.bellows.winPeak ≤ 64) ∧
    (∃ (s : State), s.bellows.internal.up = true ∧ 65536 ≤ s.bellows.internal.count ∧ s.waitsSeed Asker.internal = false) ∧
    (∃ (s : State), s.pfOpen = true) ∧
    (∃ (s : State), s.bellows.state = BState.ok ∧ (∀ (b : ℕ), s.waitsSeed (Asker.mask b) = false)) ∧
    (∃ (s : State), s.bellows.state = BState.failed) ∧
    (∃ (s u : State) (op : ℕ) (o : Op) (f i : ℕ) (x : Inst) (e : List (BitVec 8)), s.opOf op = some o ∧ o.stage = Stage.block ∧ u =
      State.askInst op s ∧ u.askedBefore o = [] ∧ f = o.fn ∧ i = dDrbg o.desc ∧ x = s.instOf f i ∧ o.opcode = 1281 ∧ x.up = false ∧
      o.seed = some e) ∧
    (∃ (s u : State) (op : ℕ) (o : Op) (f i : ℕ) (x : Inst), s.opOf op = some o ∧ o.stage = Stage.block ∧ u = State.askInst op s ∧
      u.askedBefore o = [] ∧ f = o.fn ∧ i = dDrbg o.desc ∧ x = s.instOf f i ∧ o.opcode = 1281 ∧ x.up = true) ∧
    (∃ (s u : State) (op : ℕ) (o : Op) (f i : ℕ) (x : Inst) (e : List (BitVec 8)), s.opOf op = some o ∧ o.stage = Stage.block ∧ u =
      State.askInst op s ∧ u.askedBefore o = [] ∧ f = o.fn ∧ i = dDrbg o.desc ∧ x = s.instOf f i ∧ o.opcode = 1283 ∧ x.up = true ∧
      o.seed = some e) ∧
    (∃ (s u : State) (op : ℕ) (o : Op) (f i : ℕ) (x : Inst), s.opOf op = some o ∧ o.stage = Stage.block ∧ u = State.askInst op s ∧
      u.askedBefore o = [] ∧ f = o.fn ∧ i = dDrbg o.desc ∧ x = s.instOf f i ∧ o.opcode = 1283 ∧ x.up = false) ∧
    (∃ (s u : State) (op : ℕ) (o : Op) (dma : Dma) (f i : ℕ) (x : Inst) (r : Bytes × Inst), s.opOf op = some o ∧ o.stage = Stage.block ∧
      u = State.askInst op s ∧ u.askedBefore o = [] ∧ f = o.fn ∧ i = dDrbg o.desc ∧ x = s.instOf f i ∧ o.opcode = 1282 ∧ (dAux
      o.desc).testBit 0 = false ∧ (State.hasRead o dma u).DrawsNow o ∧ check7 o.desc dma 0 (dDlen o.desc) = none ∧ r = genInst x (dDlen
      o.desc) (drbgString o dma)) ∧
    (∃ (s u : State) (op : ℕ) (o : Op) (dma : Dma) (f i : ℕ) (x : Inst) (e : List (BitVec 8)) (v : State) (r : Bytes × Inst), s.opOf op
      = some o ∧ o.stage = Stage.block ∧ u = State.askInst op s ∧ u.askedBefore o = [] ∧ f = o.fn ∧ i = dDrbg o.desc ∧ x = s.instOf f i
      ∧ o.opcode = 1282 ∧ x.up = true ∧ ((dAux o.desc).testBit 0 = true ∨ x.stalled = true) ∧ o.seed = some e ∧ check7 o.desc dma 0
      (dDlen o.desc) = none ∧ (State.hasRead o dma u).Turn o ∧ v = State.seedInst f i e (drbgString o dma) (State.used op (State.hasRead
      o dma u)) ∧ r = genInst (v.instOf f i) (dDlen o.desc) []) ∧
    (∃ (s u : State) (op : ℕ) (o : Op) (dma : Dma) (f i : ℕ) (x : Inst), s.opOf op = some o ∧ o.stage = Stage.block ∧ u = State.askInst
      op s ∧ u.askedBefore o = [] ∧ f = o.fn ∧ i = dDrbg o.desc ∧ x = s.instOf f i ∧ o.opcode = 1282 ∧ x.up = false ∧ check7 o.desc dma
      0 (dDlen o.desc) = none) ∧
    (∃ (s u : State) (op : ℕ) (o : Op) (f i : ℕ) (x : Inst), s.opOf op = some o ∧ o.stage = Stage.block ∧ u = State.askInst op s ∧
      u.askedBefore o = [] ∧ f = o.fn ∧ i = dDrbg o.desc ∧ x = s.instOf f i ∧ o.opcode = 1284) ∧
    (∃ (s : State), twf { } s.bellows.insts = true) :=
  ⟨⟨State.reset, 31, by decide +kernel⟩,
   ⟨{ bellows := { cells := [(3, { out := true })] } }, 3, by and_intros <;> decide +kernel⟩,
   ⟨{ bellows := { state := .retest, retest := true } }, by and_intros <;> decide +kernel⟩,
   ⟨up, by and_intros <;> decide +kernel⟩,
   ⟨{ up with bellows := { state := .failed } }, by and_intros <;> decide +kernel⟩,
   ⟨{ bellows := { state := .failed } }, by and_intros <;> decide +kernel⟩,
   ⟨{ bellows := { state := .failed }, store := { shadow := [(9, 0)] } }, by and_intros <;> decide +kernel⟩,
   ⟨{ bellows := { state := .retest, retest := true } }, by and_intros <;> decide +kernel⟩,
   ⟨[{ level := 3 }, { level := 1 }], { level := 1 }, by decide +kernel⟩,
   ⟨{ bellows := { state := .ok, seedQ := [{ who := .op 1 }] } }, { who := .op 1 }, by and_intros <;> decide +kernel⟩,
   ⟨{ bellows := { winPeak := 65 } }, by decide +kernel⟩,
   ⟨{ bellows := { winPeak := 8 } }, by decide +kernel⟩,
   ⟨{ bellows := { winPeak := 9 } }, by and_intros <;> decide +kernel⟩,
   ⟨{ bellows := { internal := { up := true, count := 65536 } } }, by and_intros <;> decide +kernel⟩,
   ⟨up, by decide +kernel⟩,
   ⟨up, ⟨rfl, fun _ => rfl⟩⟩,
   ⟨{ bellows := { state := .failed } }, by decide +kernel⟩,
   ⟨holding ({ job .block (desc 0x0501) with seed := some [1] }), State.askInst 1 (holding
     ({ job .block (desc 0x0501) with seed := some [1] })), 1, { job .block (desc 0x0501) with seed := some [1] }, 0, 0, (holding
     ({ job .block (desc 0x0501) with seed := some [1] })).instOf 0 0, [1],
     by and_intros <;> first | with_reducible rfl | decide +kernel⟩,
   ⟨fed (job .block (desc 0x0501)), State.askInst 1 (fed (job .block (desc 0x0501))), 1, job .block (desc 0x0501), 0, 0, (fed (job
     .block (desc 0x0501))).instOf 0 0, by and_intros <;> first | with_reducible rfl | decide +kernel⟩,
   ⟨fed ({ job .block (desc 0x0503) with seed := some [1] }), State.askInst 1 (fed
     ({ job .block (desc 0x0503) with seed := some [1] })), 1, { job .block (desc 0x0503) with seed := some [1] }, 0, 0, (fed
     ({ job .block (desc 0x0503) with seed := some [1] })).instOf 0 0, [1],
     by and_intros <;> first | with_reducible rfl | decide +kernel⟩,
   ⟨holding (job .block (desc 0x0503)), State.askInst 1 (holding (job .block (desc 0x0503))), 1, job .block (desc 0x0503), 0, 0,
     (holding (job .block (desc 0x0503))).instOf 0 0, by and_intros <;> first | with_reducible rfl | decide +kernel⟩,
   ⟨fed (job .block (desc 0x0502 (dlen := 1))), State.askInst 1 (fed (job .block (desc 0x0502 (dlen := 1)))), 1, job .block (desc 0x0502
     (dlen := 1)), {}, 0, 0, (fed (job .block (desc 0x0502 (dlen := 1)))).instOf 0 0, _, by
       refine ⟨?_, ?_, rfl, ?_, rfl, ?_, rfl, ?_, ?_, (by unfold State.DrawsNow State.Turn; and_intros <;> decide +kernel), ?_, rfl⟩ <;>
         decide +kernel⟩,
   ⟨fed predOp, State.askInst 1 (fed predOp), 1, predOp, {}, 0, 0, (fed predOp).instOf 0 0, [1], predSt, _, by
       refine ⟨?_, ?_, rfl, ?_, rfl, ?_, rfl, ?_, ?_, ?_, rfl, ?_, (by unfold State.Turn; and_intros <;> decide +kernel), rfl, rfl⟩ <;>
         decide +kernel⟩,
   ⟨holding (job .block (desc 0x0502 (dlen := 1))), State.askInst 1 (holding (job .block (desc 0x0502 (dlen := 1)))), 1, job .block
     (desc 0x0502 (dlen := 1)), {}, 0, 0, (holding (job .block (desc 0x0502 (dlen := 1)))).instOf 0 0,
     by and_intros <;> first | with_reducible rfl | decide +kernel⟩,
   ⟨holding (job .block (desc 0x0504)), State.askInst 1 (holding (job .block (desc 0x0504))), 1, job .block (desc 0x0504), 0, 0,
     (holding (job .block (desc 0x0504))).instOf 0 0, by and_intros <;> first | with_reducible rfl | decide +kernel⟩,
   ⟨fed (job .block (desc 0x0504)), by decide +kernel⟩⟩

theorem witness_KeysMade :
    (∃ (s : State) (op : ℕ) (o : Op) (n : ℕ) (e key : Bytes), s.Serving op 1537 o ∧ templateFault (dParam o.desc) o.tenant = none ∧
      s.Target o o.keySlot n ∧ o.reserved = true ∧ o.seed = some e ∧ shapeKey (aAlg (attrOf (dParam o.desc))) (aSub (attrOf (dParam
      o.desc))) (List.take (aKlen (attrOf (dParam o.desc))) e) = some key) ∧
    (∃ (s : State) (op : ℕ) (o : Op) (n : ℕ), s.Serving op 1537 o ∧ templateFault (dParam o.desc) o.tenant = none ∧ s.Target o o.keySlot
      n ∧ o.reserved = false ∧ o.seed = none ∧ s.bellows.state = BState.ok ∧ s.waitsSeed (Asker.op op) = false ∧ (s.tenantOf
      o.tenant).slotsUsed < (s.tenantOf o.tenant).slotQuota ∧ 0 < aKlen (attrOf (dParam o.desc))) ∧
    (∃ (s : State) (op : ℕ) (o : Op) (k : ℕ), s.Serving op 1537 o ∧ templateFault (dParam o.desc) o.tenant = some k) ∧
    (∃ (s : State) (op : ℕ) (o : Op) (n : ℕ), s.Serving op 1539 o ∧ (¬(anyFlag o = true ∧ auxSlot o ≠ 0)) ∧ s.powered 28 = true ∧
      s.Holds o o.keySlot ∧ s.Target o (auxSlot o) n) ∧
    (∃ (s : State) (op : ℕ) (o : Op), s.Serving op 1538 o ∧ s.powered 28 = true ∧ s.Holds o o.keySlot ∧ twf { } s.rack.slots = true ∧
      twf { } s.vault.tenants = true ∧ o.reserved = false) ∧
    (∃ (s : State) (o : Op) (n : ℕ) (p : Op) (m : ℕ), s.opOf o.id = some p ∧ m ≠ n) :=
  ⟨⟨rackSt ({ genKeyOp with reserved := true, seed := some (List.replicate 16 1) }), 1,
    { genKeyOp with reserved := true, seed := some (List.replicate 16 1) }, 0, List.replicate 16 1, List.replicate 16 1,
    ⟨(by unfold State.Serving; and_intros <;> decide +kernel), by decide +kernel, .inl (by and_intros <;> decide +kernel),
    by and_intros <;> decide +kernel⟩⟩,
   ⟨rackSt genKeyOp, 1, genKeyOp, 0, ⟨(by unfold State.Serving; and_intros <;> decide +kernel), by decide +kernel, .inl
     (by and_intros <;> decide +kernel), by and_intros <;> decide +kernel⟩⟩,
   ⟨rackSt (rackOp (desc 0x0601 (flags := 4))), 1, rackOp (desc 0x0601 (flags := 4)), (templateFault (dParam (desc 0x0601 (flags := 4)))
     0).getD 0, ⟨(by unfold State.Serving; and_intros <;> decide +kernel), by decide +kernel⟩⟩,
   ⟨keyed (rackSt (rackOp (desc 0x0603 (aux := 1)))) 0 dataKey, 1, rackOp (desc 0x0603 (aux := 1)), 1,
     ⟨(by unfold State.Serving; and_intros <;> decide +kernel), by decide +kernel, by decide +kernel, keyed_holds _ _ _ _ _
     (by decide +kernel) (by decide +kernel) (by decide +kernel), .inl (by and_intros <;> decide +kernel)⟩⟩,
   ⟨keyed (rackSt (rackOp (desc 0x0602 (slot := 65535)))) 65535 dataKey, 1, rackOp (desc 0x0602 (slot := 65535)),
     ⟨(by unfold State.Serving; and_intros <;> decide +kernel), by decide +kernel, keyed_holds _ _ _ _ _ (by decide +kernel)
     (by decide +kernel) (by decide +kernel), twf_tset _ _ _ (by decide +kernel), by decide +kernel, by decide +kernel⟩⟩,
   ⟨holding (blk 0x0101), blk 0x0101, 0, blk 0x0101, 1, by and_intros <;> decide +kernel⟩⟩

theorem witness_KeysMovedAndTempered :
    (∃ (s : State) (op : ℕ) (o : Op) (dma : Dma), s.powered 28 = true ∧ s.Serving op 1540 o ∧ s.Holds o o.keySlot ∧ check7 o.desc dma 0
      16 = none) ∧
    (∃ (s : State) (op : ℕ) (o : Op) (dma : Dma), s.powered 28 = true ∧ s.Serving op 1543 o ∧ s.Holds o o.keySlot ∧ check7 o.desc dma 0
      144 = none) ∧
    (∃ (s : State) (op : ℕ) (o : Op) (dma : Dma) (r : List (BitVec 8)), s.powered 28 = true ∧ s.Serving op 1542 o ∧ s.Holds o o.keySlot
      ∧ s.Holds o (auxSlot o) ∧ check7 o.desc dma 0 240 = none ∧ admits (s.slotOf o.keySlot).attr 6 ['E', 'B'] = true ∧ protFits (dPlan
      o.desc % 256 == 68) (s.slotOf o.keySlot).attr = true ∧ mayLeave (s.slotOf (auxSlot o)).attr false = true ∧ o.seed = some r) ∧
    (∃ (s : State) (op : ℕ) (o : Op) (dma : Dma) (m : Bytes) (l : ℕ), s.powered 28 = true ∧ s.Serving op 1545 o ∧ check7 o.desc dma
      (dDlen o.desc) (dDlen o.desc) = none ∧ s.rewrapOf op = none ∧ s.blobFault (opData o dma) o.tenant [1, 2, 3, 4] = none ∧ s.openBlob
      (opData o dma) o.tenant = some m ∧ s.rewrapLane = some l) ∧
    (∃ (s : State) (op : ℕ) (o : Op) (dma : Dma) (r : Rewrap), s.powered 28 = true ∧ s.Serving op 1545 o ∧ check7 o.desc dma (dDlen
      o.desc) (dDlen o.desc) = none ∧ s.rewrapOf op = some r) ∧
    (∃ (s : State) (op : ℕ) (o : Op) (dma : Dma) (m : Bytes) (n : ℕ), s.powered 28 = true ∧ s.Serving op 1544 o ∧ s.blobFault (opParams
      o dma) o.tenant [1] = none ∧ s.Target o (auxSlot o) n ∧ o.reserved = true ∧ s.openBlob (opParams o dma) o.tenant = some m) ∧
    (∃ (s : State) (op : ℕ) (o : Op) (dma : Dma) (h : KbHead) (key : Bytes) (n : ℕ), s.powered 28 = true ∧ s.Serving op 1541 o ∧ s.Holds
      o o.keySlot ∧ admits (s.slotOf o.keySlot).attr 6 ['D', 'B'] = true ∧ (have x := s.slotOf o.keySlot; kbHeader (opParams o dma)
      (dPlan o.desc % 16) o.tenant (aAlg x.attr) (aSub x.attr) = Except.ok h ∧ kbOpen (opParams o dma) h (member x.attr x.key 0) = some
      key) ∧ s.Target o (auxSlot o) n ∧ o.reserved = true) ∧
    (∃ (s : State), (s.chip.state = ChipState.ready ∨ s.chip.state = ChipState.locked ∨ s.chip.state = ChipState.recovery) ∧
      s.rack.running = false ∧ s.tamper.quench = false) ∧
    (∃ (s : State), s.rack.running = true ∧ s.tamper.quench = false ∧ s.rack.reached < 65536 ∧ (aValid (s.slotOf s.rack.reached).attr =
      false ∨ (s.slotOf s.rack.reached).check = s.checkOf s.rack.reached (s.slotOf s.rack.reached))) ∧
    (∃ (s : State), s.rack.running = true ∧ s.tamper.quench = false ∧ aValid (s.slotOf s.rack.reached).attr = true ∧ (s.slotOf
      s.rack.reached).check ≠ s.checkOf s.rack.reached (s.slotOf s.rack.reached) ∧ twf { } s.rack.slots = true) :=
  ⟨⟨keyed (rackSt (rackOp (desc 0x0604))) 0 dataKey, 1, rackOp (desc 0x0604), {}, ⟨by decide +kernel,
    (by unfold State.Serving; and_intros <;> decide +kernel), keyed_holds _ _ _ _ _ (by decide +kernel) (by decide +kernel)
    (by decide +kernel), by decide +kernel⟩⟩,
   ⟨keyed (rackSt (rackOp (desc 0x0607))) 0 dataKey, 1, rackOp (desc 0x0607), {}, ⟨by decide +kernel,
     (by unfold State.Serving; and_intros <;> decide +kernel), keyed_holds _ _ _ _ _ (by decide +kernel) (by decide +kernel)
     (by decide +kernel), by decide +kernel⟩⟩,
   ⟨two, 1, exporter, {}, [1], ⟨by decide +kernel, (by unfold State.Serving; and_intros <;> decide +kernel), two_holds.1, two_holds.2,
     by and_intros <;> decide +kernel⟩⟩,
   ⟨rackSt resealOp, 1, resealOp, { src := keyBlob resealOp }, List.replicate 24 7, 0, by
       refine ⟨?_, (by unfold State.Serving; and_intros <;> decide +kernel), ?_, ?_,
         (by rw [keyBlob_reseal]; exact blobFault_sealBlob _ _ _ _ _ _ _ rfl (by decide +kernel) (by decide +kernel) (by decide +kernel)),
         (by rw [keyBlob_reseal]; exact openBlob_sealBlob _ _ _ _ _ _ (by decide +kernel)), ?_⟩ <;> decide +kernel⟩,
   ⟨{ rackSt resealOp with rack := { rewraps := [(2, { op := 1, data := [7] })] } }, 1, resealOp, {}, { op := 1, data := [7] },
     ⟨by decide +kernel, (by unfold State.Serving; and_intros <;> decide +kernel), by decide +kernel, by decide +kernel⟩⟩,
   ⟨rackSt loadOp, 1, loadOp, { params := keyBlob loadOp }, List.replicate 24 7, 5, ⟨by decide +kernel,
     (by unfold State.Serving; and_intros <;> decide +kernel),
     (by rw [keyBlob_load]; exact blobFault_sealBlob _ _ _ _ _ _ _ rfl (by decide +kernel) (by decide +kernel) (by decide +kernel)),
     .inl (by and_intros <;> decide +kernel), by decide +kernel,
     (by rw [keyBlob_load]; exact openBlob_sealBlob _ _ _ _ _ _ (by decide +kernel))⟩⟩,
   ⟨importSt, 1, importer, { params := kbText }, _, List.replicate 16 1, 1, ⟨by decide +kernel,
     (by unfold State.Serving; and_intros <;> decide +kernel), keyed_holds _ _ _ _ _ (by decide +kernel) (by decide +kernel)
     (by decide +kernel), by decide +kernel, ⟨ge _ ⟨0, 0, true⟩ (by decide +kernel), by decide +kernel⟩, .inl
     (by and_intros <;> decide +kernel), by decide +kernel⟩⟩,
   ⟨up, by and_intros <;> decide +kernel⟩,
   ⟨{ up with rack := { running := true, reached := 65535 } }, ⟨by decide +kernel, by decide +kernel, by decide +kernel, .inl
     (by decide +kernel)⟩⟩,
   ⟨badSt, by
       refine ⟨?_, ?_, ?_, by simp [badSt, State.slotOf, tget, badSlot, State.checkOf, up], ?_⟩ <;> decide +kernel⟩⟩

theorem witness_Dispatching :
    (∃ (owed : ℕ → ℚ) (l : List ℕ) (f g : ℕ), mostOwed owed l = some f ∧ g ∈ l) ∧
    (∃ (owed : ℕ → ℚ) (l : List ℕ) (f g : ℕ), mostOwed owed l = some f ∧ (List.Pairwise (fun x1 x2 => x1 < x2) l) ∧ g ∈ l ∧ owed g =
      owed f) ∧
    (∃ (s : State) (r g : ℕ), twf 0 s.engine.credit = true ∧ g ∈ s.pendingFns r) ∧
    (∃ (s t : State) (f : ℕ), ((s.granted 1 fun f => (s.nextOf Region.cipher f).isSome) = some f) ∧ (State.charge 1 f s).nextOf
      Region.cipher f = some t) ∧
    (∃ (s t : State) (f : ℕ), ((s.granted 2 fun f => (s.nextOf Region.plan f).isSome) = some f) ∧ (State.charge 2 f s).nextOf
      Region.plan f = some t) ∧
    (∃ (s t : State) (f : ℕ), ((s.granted 3 fun f => (s.nextOf Region.number f).isSome) = some f) ∧ (State.charge 3 f s).nextOf
      Region.number f = some t) ∧
    (∃ (s t : State) (f : ℕ), ((roundRobin 256 (tget 255 s.engine.rrLast 19) fun f => (s.nextOf Region.random f).isSome) = some f) ∧
      s.nextOf Region.random f = some t) ∧
    (∃ (s : State) (o : Op) (b : ℕ), s.classOut (lanesOf o.opcode) = false ∧ s.laneFor o = some b ∧ laneKeyed o.opcode = false) ∧
    (∃ (s : State) (o : Op) (b : ℕ), s.classOut (lanesOf o.opcode) = false ∧ s.laneFor o = some b ∧ laneKeyed o.opcode = true ∧
      s.powered 28 = true ∧ (s.blockOf 18).out = false ∧ s.Holds o o.keySlot ∧ laneFault o (s.slotOf o.keySlot) = none) ∧
    (∃ (s : State) (o : Op) (i : ℕ), o.pipe = some i ∧ s.blockState (8 + s.steerOf i) = 0 ∧ s.steerOf i < 8) ∧
    (∃ (s : State) (o : Op) (u : ℕ) (p : Bool), jobKeyed o.opcode = false ∧ s.classOut (unitsFor o.prio) = false ∧ s.unitFor o = some
      (u, p)) ∧
    (∃ (s : State) (o k : Op) (u : ℕ) (p : Bool), jobKeyed o.opcode = true ∧ s.classOut (unitsFor o.prio) = false ∧ s.powered 28 = true
      ∧ (s.blockOf 18).out = false ∧ s.Holds o o.keySlot ∧ jobFault o (s.slotOf o.keySlot) = none ∧ (k =
      { o with keys := [copyOf o.keySlot (s.slotOf o.keySlot)] }) ∧ s.unitFor k = some (u, p)) ∧
    (∃ (s : State) (o : Op), s.blockState 19 = 0 ∧ o.opcode ≠ 1282) ∧
    (∃ (s : State) (o : Op) (c : ℕ), s.blockState 19 = 0 ∧ o.opcode = 1282 ∧ s.coreFor o.id = some c ∧ s.askedBefore o = []) ∧
    (∃ (s : State) (o : Op), s.classOut (lanesOf o.opcode) = true) ∧
    (∃ (s : State), s.classOut (List.map (fun x => x + 8) (List.range 8)) = true) ∧
    (∃ (s : State) (o : Op), s.classOut (unitsFor o.prio) = true) ∧
    (∃ (s : State), (s.blockOf 19).out = true) ∧
    (∃ (s : State), twf { } s.fns = true ∧ (∀ e ∈ s.fns, e.1 < 256)) ∧
    (∃ (s : State) (u : Fin 4) (r id : ℕ), (s.unitOf (60 + u.val)).marked = some r ∧ (s.unitOf (60 + u.val)).job = some id) ∧
    (∃ (s : State) (u : Fin 4) (r : ℕ), (s.unitOf (60 + u.val)).marked = some r ∧ (s.unitOf (60 + u.val)).job = none) ∧
    (∃ (s : State) (u : Fin 4) (id : ℕ), (s.unitOf (60 + u.val)).job = none ∧ (s.unitOf (60 + u.val)).held = some id) ∧
    (∃ (s : State) (v : BitVec 32) (id : ℕ) (o : Op), s.pfOpen = true ∧ v.getLsbD 8 = true ∧ (s.unitOf (bits v 5 0)).job = some id ∧
      (s.unitOf (bits v 5 0)).held = none ∧ id ≠ 0 ∧ s.opOf id = some o) ∧
    (∃ (s : State) (v : BitVec 32), s.pfOpen = true ∧ (v.getLsbD 8 = false ∨ (s.unitOf (bits v 5 0)).job = some 0 ∧ (s.unitOf (bits v 5
      0)).held = none)) :=
  ⟨⟨fun _ => 1, [2, 5], 2, 5, by and_intros <;> decide +kernel⟩,
   ⟨fun _ => 1, [2, 5], 2, 5, by and_intros <;> decide +kernel⟩,
   ⟨pend 1 planned, 1, 0, by and_intros <;> decide +kernel⟩,
   ⟨pend 1 (blk 0x0201 1), ((State.charge 1 0 (pend 1 (blk 0x0201 1))).nextOf .cipher 0).getD State.reset, 0, ⟨by decide +kernel, gd _ _
     (by decide +kernel)⟩⟩,
   ⟨pend 2 planned, ((State.charge 2 0 (pend 2 planned)).nextOf .plan 0).getD State.reset, 0, ⟨by decide +kernel, gd _ _
     (by decide +kernel)⟩⟩,
   ⟨pend 3 { job .region (desc 0x0402 (plan := 1024)) with keys := [] }, ((State.charge 3 0 (pend 3
     { job .region (desc 0x0402 (plan := 1024)) with keys := [] })).nextOf .number 0).getD State.reset, 0, ⟨by decide +kernel, gd _ _
     (by decide +kernel)⟩⟩,
   ⟨pend 4 (job .region (desc 0x0504)), ((pend 4 (job .region (desc 0x0504))).nextOf .random 0).getD State.reset, 0, ⟨by decide +kernel,
     gd _ _ (by decide +kernel)⟩⟩,
   ⟨up, blk 0x0201 1, 5, by and_intros <;> decide +kernel⟩,
   ⟨keyed up 0 dataKey, blk 0x0101, 0, by
       refine ⟨?_, ?_, ?_, ?_, ?_, keyed_holds _ _ _ _ _ (by decide +kernel) (by decide +kernel) (by decide +kernel), ?_⟩ <;>
         decide +kernel⟩,
   ⟨up, { planned with pipe := some 0 }, 0, by and_intros <;> decide +kernel⟩,
   ⟨up, job .region (desc 0x0402), 0, false, by and_intros <;> decide +kernel⟩,
   ⟨keyed up 0 signKey, unitOp, _, 0, false, by
       refine ⟨?_, ?_, ?_, ?_, keyed_holds _ _ _ _ _ (by decide +kernel) (by decide +kernel) (by decide +kernel),
         (by show jobFault _ ((keyed up 0 signKey).slotOf 0) = none; rw [keyed_slot _ _ _ _ (by decide +kernel)]; decide +kernel), rfl,
         ?_⟩ <;> decide +kernel⟩,
   ⟨up, job .region (desc 0x0504), by and_intros <;> decide +kernel⟩,
   ⟨up, job .region (desc 0x0502), 0, by and_intros <;> decide +kernel⟩,
   ⟨outBlocks [0, 1, 2, 3], blk 0x0101, by decide +kernel⟩,
   ⟨outBlocks [8, 9, 10, 11, 12, 13, 14, 15], by decide +kernel⟩,
   ⟨outBlocks ((List.range 60).map (· + 0x40)), job .region (desc 0x0402), by decide +kernel⟩,
   ⟨outBlocks [0x13], by decide +kernel⟩,
   ⟨{ up with fns := [(0, { queues := 1 }), (255, { queues := 1 })] }, by and_intros <;> decide +kernel⟩,
   ⟨{ up with hammer := { units := [(63, { job := some 1, marked := some 2 })] } }, 3, 2, 1, by and_intros <;> decide +kernel⟩,
   ⟨{ up with hammer := { units := [(63, { marked := some 2 })] } }, 3, 2, by and_intros <;> decide +kernel⟩,
   ⟨{ up with hammer := { units := [(63, { held := some 1 })] } }, 3, 1, by and_intros <;> decide +kernel⟩,
   ⟨{ holding (job .block (desc 0x0402)) with hammer := { units := [(63, { job := some 1 })] } }, 0x13F, 1, job .block (desc 0x0402),
     by and_intros <;> decide +kernel⟩,
   ⟨up, 0, by and_intros <;> decide +kernel⟩⟩

theorem witness_BlockFaults :
    (∃ (b : BitVec 8), blockUsed b.toNat = true) ∧
    (∃ (s : State) (b : BitVec 8) (op : ℕ) (o : Op) (k : CellFault), blockUsed b.toNat = true ∧ (k = CellFault.memU ∨ k =
      CellFault.check) ∧ s.opOf op = some o ∧ o.stage ≠ Stage.done ∧ o.stage ≠ Stage.yielded) ∧
    (∃ (s : State), twf { } s.engine.blocks = true) ∧
    (∃ (s : State) (op : ℕ) (o : Op), s.chip.state = ChipState.ready ∧ s.tamper.quench = false ∧ s.classOf 7 = 2 ∧ s.opOf op = some o ∧
      o.stage ≠ Stage.done) ∧
    (∃ (s : State) (r : Fin 6), s.holdsWork r.val = false) ∧
    (∃ (s : State) (r : Fin 6), s.holdsWork r.val = true ∧ s.tamper.quench = false) ∧
    (∃ (s : State), twf { } s.engine.rates = true) :=
  ⟨⟨0x7F, by decide +kernel⟩,
   ⟨holding (blk 0x0101), 0, 1, blk 0x0101, .memU, by and_intros <;> decide +kernel⟩,
   ⟨up, by decide +kernel⟩,
   ⟨holding (blk 0x0101), 1, blk 0x0101, by and_intros <;> decide +kernel⟩,
   ⟨up, 2, by decide +kernel⟩,
   ⟨jobSt (unitJob (desc 0x0402)), 3, by and_intros <;> decide +kernel⟩,
   ⟨up, by decide +kernel⟩⟩

theorem witness_FunctionsAndTenants :
    (∃ (s : State), s.pfOpen = true ∧ s.listFault s.qmgr.resFunc = none) ∧
    (∃ (s : State) (i c : ℕ), s.pfOpen = true ∧ s.listFault s.qmgr.resFunc = some (i, c)) ∧
    (∃ (s : State) (v : BitVec 32), s.pfOpen = true ∧ bits v 12 0 ≤ 4096 ∧ bits v 12 0 ≤ s.qmgr.drbgFree + (s.fnOf
      s.qmgr.resFunc).drbgCount ∧ (∀ o ∈ s.engine.tasks, o.fn = s.qmgr.resFunc → Op.namesInst (bits v 12 0) (s.fnOf
      s.qmgr.resFunc).drbgCount s o = false) ∧ twf { } s.fns = true) ∧
    (∃ (s : State) (v : BitVec 32), s.pfOpen = true ∧ (4096 < bits v 12 0 ∨ s.qmgr.drbgFree + (s.fnOf s.qmgr.resFunc).drbgCount < bits v
      12 0)) ∧
    (∃ (s : State) (v : BitVec 32), s.pfOpen = true ∧ (∀ k < 4, bits v (8 * k + 7) (8 * k) ≠ 0)) ∧
    (∃ (s : State) (v : BitVec 32) (k : ℕ), s.pfOpen = true ∧ k < 4 ∧ bits v (8 * k + 7) (8 * k) = 0) ∧
    (∃ (s : State) (op : ℕ) (o : Op), s.opOf op = some o ∧ o.opcode = 768 ∧ o.stage = Stage.steering ∧ s.mayStart o = true) ∧
    (∃ (s : State) (v : BitVec 32), s.pfOpen = true ∧ (s.tenantOf s.qmgr.tenSel).live = true ∧ (s.tenantOf s.qmgr.tenSel).slotsUsed ≤
      bits v 16 0 ∧ s.slotQuotaSum - (s.tenantOf s.qmgr.tenSel).slotQuota + bits v 16 0 ≤ 65536 ∧ s.worlds.hearth.status ≠ 3) ∧
    (∃ (s : State) (v : BitVec 32), s.pfOpen = true ∧ ((s.tenantOf s.qmgr.tenSel).live = false ∨ bits v 16 0 < (s.tenantOf
      s.qmgr.tenSel).slotsUsed ∨ 65536 < s.slotQuotaSum - (s.tenantOf s.qmgr.tenSel).slotQuota + bits v 16 0 ∨ s.worlds.hearth.status =
      3)) ∧
    (∃ (s : State) (v : BitVec 32), s.pfOpen = true ∧ (s.tenantOf s.qmgr.tenSel).live = true ∧ (s.tenantOf s.qmgr.tenSel).storeUsed ≤
      bits v 12 0 ∧ s.storeQuotaSum - (s.tenantOf s.qmgr.tenSel).storeQuota + bits v 12 0 ≤ 4096 ∧ s.worlds.hearth.status ≠ 3) ∧
    (∃ (s : State) (v : BitVec 32), s.pfOpen = true ∧ ((s.tenantOf s.qmgr.tenSel).live = false ∨ bits v 12 0 < (s.tenantOf
      s.qmgr.tenSel).storeUsed ∨ 4096 < s.storeQuotaSum - (s.tenantOf s.qmgr.tenSel).storeQuota + bits v 12 0 ∨ s.worlds.hearth.status =
      3)) ∧
    (∃ (s : State), s.worlds.hearth.status = 1 ∧ s.regionOpen = true ∧ s.vault.quotaDirty ≠ []) ∧
    (∃ (s : State), s.regionOpen = false ∨ s.vault.quotaDirty = []) ∧
    (∃ (s : State) (vf : BitVec 8), vf ≠ 0 ∧ s.exists? vf.toNat = true ∧ (s.fnOf vf.toNat).flr = false ∧ (s.fnOf vf.toNat).toDoor =
      false) ∧
    (∃ (s : State) (vf : BitVec 8), vf ≠ 0 ∧ s.exists? vf.toNat = true ∧ (s.fnOf vf.toNat).flr = false ∧ (s.fnOf vf.toNat).toDoor =
      true) ∧
    (∃ (s : State) (vf : BitVec 8), vf ≠ 0 ∧ s.exists? vf.toNat = true ∧ (s.fnOf vf.toNat).flr = false) ∧
    (∃ (s : State) (vf : BitVec 8), vf ≠ 0 ∧ s.exists? vf.toNat = true ∧ (s.fnOf vf.toNat).flr = true) ∧
    (∃ (s : State) (vf : BitVec 8), vf ≠ 0 ∧ s.exists? vf.toNat = true ∧ s.pfOpen = true) ∧
    (∃ (s : State) (vf : BitVec 8), vf ≠ 0 ∧ s.exists? vf.toNat = true ∧ s.pfOpen = true ∧ (s.fnOf vf.toNat).fromDoor = false) ∧
    (∃ (s : State) (vf : BitVec 8), vf ≠ 0 ∧ s.exists? vf.toNat = true ∧ s.pfOpen = true ∧ (s.fnOf vf.toNat).fromDoor = true) :=
  ⟨⟨up, by and_intros <;> decide +kernel⟩,
   ⟨{ up with fns := [(0, { staging := [(15, 0x8001)] })] }, 15, 1, by and_intros <;> decide +kernel⟩,
   ⟨up, 4096, by and_intros <;> decide +kernel⟩,
   ⟨up, 4097, by and_intros <;> decide +kernel⟩,
   ⟨up, 0x01FF0101, by and_intros <;> decide +kernel⟩,
   ⟨up, 0x00FF0101, 3, by and_intros <;> decide +kernel⟩,
   ⟨holding { planned with stage := .steering }, 1, { planned with stage := .steering }, by and_intros <;> decide +kernel⟩,
   ⟨{ up with vault := { tenants := [(0, { live := true, slotsUsed := 3 })] } }, 65536, by and_intros <;> decide +kernel⟩,
   ⟨up, 0, by and_intros <;> decide +kernel⟩,
   ⟨{ up with vault := { tenants := [(0, { live := true, storeUsed := 3 })] } }, 4096, by and_intros <;> decide +kernel⟩,
   ⟨up, 0, by and_intros <;> decide +kernel⟩,
   ⟨sealedSt, ⟨by decide +kernel, sealedSt_open, by decide +kernel⟩⟩,
   ⟨up, by decide +kernel⟩,
   ⟨vf {}, 255, by and_intros <;> decide +kernel⟩,
   ⟨vf { toDoor := true }, 255, by and_intros <;> decide +kernel⟩,
   ⟨vf {}, 255, by and_intros <;> decide +kernel⟩,
   ⟨vf { flr := true }, 255, by and_intros <;> decide +kernel⟩,
   ⟨vf {}, 255, by and_intros <;> decide +kernel⟩,
   ⟨vf {}, 255, by and_intros <;> decide +kernel⟩,
   ⟨vf { fromDoor := true }, 255, by and_intros <;> decide +kernel⟩⟩

theorem witness_TamperAlarms :
    (∃ (s : State), s.pins.mainPower = false) ∧
    (∃ (s : State), s.pins.mainPower = true ∧ s.chip.state = ChipState.ready ∧ s.chip.endState ≠ ChipState.recovery ∧ s.tamper.quench =
      false ∧ s.classOf 9 = 3 ∧ s.tamper.active.getLsbD 9 = false) ∧
    (∃ (s : State), s.watched 0 = true) ∧
    (∃ (s : State) (k : Fin 8) (l : BitVec 64), l ≠ 0 ∧ s.watched 0 = true ∧ s.tamper.shieldNow.getLsbD k.val = true) ∧
    (∃ (tj : ℤ), -360 ≤ tj ∧ tj ≤ 1000) ∧
    (∃ (s : State) (tj : ℤ), tj < -360 ∧ s.tamper.lowRuns = 3 ∧ s.chip.state = ChipState.ready ∧ s.tamper.quench = false ∧ s.classOf 4 =
      2) ∧
    (∃ (s : State) (mv : BitVec 12), s.pins.mainPower = true ∧ 2400 ≤ mv.toNat) ∧
    (∃ (s : State) (mv : BitVec 12), s.pins.mainPower = true ∧ mv.toNat < 2400 ∧ s.tamper.vbatRuns = 1 ∧ s.classOf 10 = 1) ∧
    (∃ (s : State), s.chip.state = ChipState.ready ∧ s.chip.endState ≠ ChipState.recovery ∧ s.tamper.quench = false ∧ s.pins.mainPower =
      true ∧ s.watched 3 = true ∧ s.classOf 3 = 3 ∧ s.tamper.active.getLsbD 3 = false) ∧
    (∃ (s : State) (b : Bool) (n : ℕ), (n = if b = true then 2 else 1) ∧ s.chip.state = ChipState.ready ∧ s.chip.endState ≠
      ChipState.recovery ∧ s.tamper.quench = false ∧ s.pins.mainPower = true ∧ s.watched n = true ∧ s.classOf n = 3 ∧
      s.tamper.active.getLsbD n = false) ∧
    (∃ (s : State) (b : Bool) (n : ℕ), (n = if b = true then 2 else 1) ∧ s.watched n = true) ∧
    (∃ (s : State) (b : Bool) (n : ℕ), (n = if b = true then 2 else 1) ∧ s.watched n = false) :=
  ⟨⟨{ pins := { mainPower := false } }, by decide +kernel⟩,
   ⟨up, by and_intros <;> decide +kernel⟩,
   ⟨up, by decide +kernel⟩,
   ⟨{ up with tamper := { shieldNow := 0x80 } }, 7, 1, by and_intros <;> decide +kernel⟩,
   ⟨-360, by and_intros <;> decide +kernel⟩,
   ⟨{ up with tamper := { lowRuns := 3 } }, -361, by and_intros <;> decide +kernel⟩,
   ⟨up, 2400, by and_intros <;> decide +kernel⟩,
   ⟨{ up with tamper := { vbatRuns := 1 } }, 2399, by and_intros <;> decide +kernel⟩,
   ⟨up, by and_intros <;> decide +kernel⟩,
   ⟨up, true, 2, by and_intros <;> decide +kernel⟩,
   ⟨up, false, 1, by and_intros <;> decide +kernel⟩,
   ⟨{ up with tamper := { fused := 4 } }, true, 2, by and_intros <;> decide +kernel⟩⟩

theorem witness_TamperServices :
    (∃ (s : State), s.tamper.quench = true ∧ s.chip.resetPending = none) ∧
    (∃ (s : State), s.tamper.quench = false) ∧
    (∃ (s : State), s.serves 80 = true ∧ s.chip.state = ChipState.ready ∧ s.classFault s.mbxBody = none ∧ s.worlds.discard = false) ∧
    (∃ (s : State), s.tamper.classDirty = true ∧ s.worlds.hearth.status = 1) ∧
    (∃ (s : State), s.serves 81 = true ∧ s.chip.state = ChipState.ready ∧ (s.lifeCode = 2 ∨ s.lifeCode = 3) ∧ fuseFault s.mbxBody = none
      ∧ s.worlds.discard = false) :=
  ⟨⟨{ tamper := { quench := true } }, by and_intros <;> decide +kernel⟩,
   ⟨State.reset, by decide +kernel⟩,
   ⟨asked 0x50 [3, 3, 3, 3, 2, 2, 2, 2, 1, 3, 1, 2], by and_intros <;> decide +kernel⟩,
   ⟨{ up with tamper := { classDirty := true } }, by and_intros <;> decide +kernel⟩,
   ⟨asked 0x51 [2, 0], by and_intros <;> decide +kernel⟩⟩

theorem witness_SuppliesAndReferences :
    (∃ (s : State), s.power.avsOn = true ∧ s.power.avsFail = false ∧ s.chip.held = false ∧ s.power.avsMode = 0 ∧ 600 ≤ s.power.minMv ∧
      s.power.maxMv ≤ 900 ∧ s.power.minMv ≤ s.power.target ∧ s.power.target ≤ s.power.maxMv) ∧
    (∃ (s : State), s.power.avsOn = true ∧ s.power.avsFail = false ∧ s.chip.held = false ∧ s.power.avsMode = 1) ∧
    (∃ (s : State), s.power.avsOn = false) ∧
    (∃ (s : State) (v : BitVec 32), s.pfOpen = true ∧ bits v 1 0 ≤ 2 ∧ mvOk (bits v 25 16) = true) ∧
    (∃ (s : State) (v : BitVec 32), s.pfOpen = true ∧ mvOk (bits v 9 0) = true ∧ mvOk (bits v 25 16) = true ∧ bits v 9 0 ≤ bits v 25 16)
      ∧
    (∃ (s : State) (v : BitVec 32) (l : Bool), s.pfOpen = true ∧ (mvOk (bits v 25 16) = false ∨ l = true ∧ mvOk (bits v 9 0) = false ∨ l
      = true ∧ bits v 25 16 < bits v 9 0)) ∧
    (∃ (s : State) (mv : BitVec 10), s.power.avsOn = true ∧ s.power.avsMode ≠ 2 ∧ s.power.avsFail = false ∧ mv.toNat ≤ s.power.target +
      25 ∧ s.power.target ≤ mv.toNat + 25) ∧
    (∃ (s : State), s.power.avsOn = true ∧ s.power.avsMode ≠ 2 ∧ s.power.avsFail = false) ∧
    (∃ (s : State), s.pins.mainPower = false ∧ s.pins.vbat = true ∧ s.watched 3 = true ∧ s.tamper.active.getLsbD 3 = false) ∧
    (∃ (l : List BatRec), l.length ≤ 64) ∧
    (∃ (l : List BatRec), l.length = 64) ∧
    (∃ (s : State), s.tamper.quench = false) ∧
    (∃ (s : State), s.pins.mainPower = true) :=
  ⟨⟨{ power := { avsOn := true, target := 600 } }, by and_intros <;> decide +kernel⟩,
   ⟨{ power := { avsOn := true, avsMode := 1 } }, by and_intros <;> decide +kernel⟩,
   ⟨State.reset, by decide +kernel⟩,
   ⟨up, 0x03840002, by and_intros <;> decide +kernel⟩,
   ⟨up, 0x03840384, by and_intros <;> decide +kernel⟩,
   ⟨up, 0, true, by and_intros <;> decide +kernel⟩,
   ⟨{ power := { avsOn := true, target := 600 } }, 575, by and_intros <;> decide +kernel⟩,
   ⟨{ power := { avsOn := true } }, by and_intros <;> decide +kernel⟩,
   ⟨{ pins := { mainPower := false } }, by and_intros <;> decide +kernel⟩,
   ⟨List.replicate 64 {}, by decide +kernel⟩,
   ⟨List.replicate 64 {}, by decide +kernel⟩,
   ⟨State.reset, by decide +kernel⟩,
   ⟨State.reset, by decide +kernel⟩⟩

theorem witness_PowerDomains :
    (∃ (s : State) (pd : Fin 30) (us : BitVec 16), twf { } s.power.domains = true ∧ (s.domainOf pd.val).st = PdState.on ∧ s.mayPowerDown
      (pd.val) us.toNat = true ∧ s.worlds.bench.status = 1) ∧
    (∃ (s : State) (pd : Fin 30), twf { } s.power.domains = true ∧ (s.domainOf pd.val).st = PdState.poweringDown ∧ (s.domainOf
      pd.val).upAgain = false ∧ s.claimed pd.val = false) ∧
    (∃ (s : State) (pd : Fin 30), twf { } s.power.domains = true ∧ (s.domainOf pd.val).st = PdState.off) ∧
    (∃ (s : State) (pd : Fin 30), twf { } s.power.domains = true ∧ (s.domainOf pd.val).st = PdState.poweringUp ∧ pd.val ≠ 28) ∧
    (∃ (s : State) (pd : Fin 30), twf { } s.power.domains = true ∧ (s.domainOf pd.val).st = PdState.poweringUp ∧ pd.val = 28) ∧
    (∃ (s : State) (pd : Fin 30), twf { } s.power.domains = true ∧ (s.domainOf pd.val).st ≠ PdState.deferred) ∧
    (∃ (s : State) (pd : Fin 30) (u : State), twf { } s.power.domains = true ∧ (s.domainOf pd.val).st = PdState.deferred ∧ (u =
      { s with zwm := { s.zwm with hclaim := s.zwm.hclaim &&& ~~~BitVec.ofNat 30 (2 ^ pd.val) } }) ∧ u.claimed pd.val = false) :=
  ⟨⟨{ up with now := 10000000 }, 5, 1000, by and_intros <;> decide +kernel⟩,
   ⟨{ power := { domains := [(29, { st := .poweringDown })] } }, 29, by and_intros <;> decide +kernel⟩,
   ⟨{ power := { domains := [(29, { st := .off })] } }, 29, by and_intros <;> decide +kernel⟩,
   ⟨{ power := { domains := [(29, { st := .poweringUp })] } }, 29, by and_intros <;> decide +kernel⟩,
   ⟨{ power := { domains := [(28, { st := .poweringUp })] } }, 28, by and_intros <;> decide +kernel⟩,
   ⟨State.reset, 0, by and_intros <;> decide +kernel⟩,
   ⟨{ power := { domains := [(29, { st := .deferred })] } }, 29, _, ⟨by decide +kernel, by decide +kernel, rfl, by decide +kernel⟩⟩⟩

theorem witness_Records :
    (∃ (s : State), s.store.queue.length < 256) ∧
    (∃ (s : State) (h : Bool) (c : BitVec 16) (src : BitVec 8), 256 ≤ s.store.queue.length ∧ (h = true ∨ src ≠ 240) ∧ c ≠ 3843) ∧
    (∃ (s : State), 256 ≤ s.store.queue.length ∧ (∃ x ∈ s.store.queue, x.ofAggregator = false)) ∧
    (∃ (s : State), s.store.queue.length ≤ 256) ∧
    (∃ (s : State) (r : Record) (rest : List Record), s.store.queue = r :: rest ∧ s.store.dropped = 0 ∧ s.newestRecord.same r = true ∧
      s.newestRecord.rpt < 65535 ∧ s.store.newest ≠ 0) ∧
    (∃ (s : State) (r : Record) (rest : List Record), s.store.queue = r :: rest ∧ s.store.dropped = 0 ∧ r.rpt = 1 ∧ (s.newestRecord.same
      r = false ∨ s.newestRecord.rpt = 65535 ∨ s.store.newest = 0) ∧ twf { } s.store.records = true) ∧
    (∃ (s : State) (h : Bool) (q : BitVec 32), (h = true ∨ s.pfOpen = true) ∧ s.store.newest < q.toNat) ∧
    (∃ (s : State) (h : Bool) (q : BitVec 32) (r : Record), (h = true ∨ s.pfOpen = true) ∧ q.toNat ≤ s.store.newest ∧ twf { }
      s.store.records = true ∧ (q.toNat, r) ∈ s.store.records) ∧
    (∃ (s : State) (h : Bool) (w : Fin 8), (h = true ∨ s.pfOpen = true) ∧ (s.window h).empty = false ∧ w.val ≠ 7) ∧
    (∃ (s : State) (h : Bool) (q : ℕ) (r : Record), (h = true ∨ s.pfOpen = true) ∧ (s.window h).empty = false ∧ (s.window h).latch =
      some (q, r)) ∧
    (∃ (s : State), s.pfOpen = false) :=
  ⟨⟨{ store := { queue := List.replicate 255 {} } }, by decide +kernel⟩,
   ⟨{ store := { queue := List.replicate 256 {} } }, true, 0, 240, by and_intros <;> decide +kernel⟩,
   ⟨{ store := { queue := List.replicate 256 {} } }, ⟨by decide +kernel, {}, by decide +kernel, by decide +kernel⟩⟩,
   ⟨{ store := { queue := List.replicate 256 {} } }, by decide +kernel⟩,
   ⟨{ store := { queue := [{ code := 1 }], newest := 1, records := [(1, { code := 1, rpt := 65534 })] } }, { code := 1 }, [],
     by and_intros <;> decide +kernel⟩,
   ⟨{ store := { queue := [{ code := 1, rpt := 1 }], newest := 1, records := [(1, { code := 1, rpt := 65535 })] } },
     { code := 1, rpt := 1 }, [], by and_intros <;> decide +kernel⟩,
   ⟨{ store := { newest := 1 } }, true, 2, by and_intros <;> decide +kernel⟩,
   ⟨{ store := { newest := 2, records := [(1, { code := 1 }), (2, { code := 2 })] } }, true, 2, { code := 2 },
     by and_intros <;> decide +kernel⟩,
   ⟨State.reset, true, 6, by and_intros <;> decide +kernel⟩,
   ⟨{ store := { hearth := { latch := some (1, {}) } } }, true, 1, {}, by and_intros <;> decide +kernel⟩,
   ⟨{ up with fns := [(0, { flr := true })] }, by decide +kernel⟩⟩

theorem witness_SettingsAndWear :
    (∃ (s : State) (v : BitVec 32), s.pfOpen = true ∧ s.refusesSetting s.store.sel v.toNat = false ∧ s.setting s.store.sel ≠ v.toNat ∧
      (List.Pairwise (fun a b => a.1 < b.1) s.store.shadow)) ∧
    (∃ (s : State) (v : BitVec 32), s.pfOpen = true ∧ s.refusesSetting s.store.sel v.toNat = true) ∧
    (∃ (s : State), s.pfOpen = true ∧ s.admitsStore = true) ∧
    (∃ (s : State), s.pfOpen = true ∧ s.admitsStore = false) ∧
    (∃ (k : BitVec 32), k ≠ 1398034258) ∧
    (∃ (s : State) (b : Bool) (g : BitVec 32), s.store.busy = true ∧ s.store.pendMark = some (b, g)) ∧
    (∃ (s : State), s.worlds.bench.status = 1 ∧ twf 0 s.power.canary = true) ∧
    (∃ (s : State), s.worlds.bench.status = 1 ∧ twf 0 s.power.wearDt = true ∧ twf 0 s.power.wearTt = true) ∧
    (∃ (s : State), s.pins.mainPower = false ∧ s.pins.vbat = true) ∧
    (∃ (s : State), s.pfOpen = true) ∧
    (∃ (k : BitVec 32), k ≠ 1128614988) :=
  ⟨⟨{ up with store := { sel := 1 } }, 15, by and_intros <;> decide +kernel⟩,
   ⟨{ up with store := { sel := 1 } }, 16, by and_intros <;> decide +kernel⟩,
   ⟨up, by and_intros <;> decide +kernel⟩,
   ⟨{ up with store := { busy := true } }, by and_intros <;> decide +kernel⟩,
   ⟨0, by decide +kernel⟩,
   ⟨{ store := { busy := true, pendMark := some (true, 1) } }, true, 1, by and_intros <;> decide +kernel⟩,
   ⟨up, by and_intros <;> decide +kernel⟩,
   ⟨up, by and_intros <;> decide +kernel⟩,
   ⟨{ pins := { mainPower := false } }, by and_intros <;> decide +kernel⟩,
   ⟨up, by decide +kernel⟩,
   ⟨0, by decide +kernel⟩⟩

theorem witness_StartUp :
    (∃ (s u v : State) (seen : StartSeen), s.chip.held = false ∧ s.chip.started = false ∧ s.chip.state = ChipState.start ∧
      s.pins.scanMode = false ∧ State.scanTest seen.testBall s = false ∧ (u = (State.resetUnit true (State.resetUnit false
      { s with pins := { s.pins with legacyMode := seen.legacyBall, testEn := seen.testBall }, chip := { s.chip with started := true } })).startWipe)
      ∧ v = (State.startBellows seen.cellsOk seen.retestOk seen.katOk u.fixEnd.startStore).startImages ∧ (u.lifeCode = 0 ∨ u.lifeCode =
      6)) ∧
    (∃ (s u v : State) (seen : StartSeen), s.chip.held = false ∧ s.chip.started = false ∧ s.chip.state = ChipState.start ∧
      s.pins.scanMode = false ∧ State.scanTest seen.testBall s = false ∧ (u = (State.resetUnit true (State.resetUnit false
      { s with pins := { s.pins with legacyMode := seen.legacyBall, testEn := seen.testBall }, chip := { s.chip with started := true } })).startWipe)
      ∧ v = (State.startBellows seen.cellsOk seen.retestOk seen.katOk u.fixEnd.startStore).startImages ∧ u.lifeCode ≠ 0 ∧ u.lifeCode ≠ 6
      ∧ v.usable = true) ∧
    (∃ (s u v : State) (seen : StartSeen), s.chip.held = false ∧ s.chip.started = false ∧ s.chip.state = ChipState.start ∧
      s.pins.scanMode = false ∧ State.scanTest seen.testBall s = false ∧ (u = (State.resetUnit true (State.resetUnit false
      { s with pins := { s.pins with legacyMode := seen.legacyBall, testEn := seen.testBall }, chip := { s.chip with started := true } })).startWipe)
      ∧ v = (State.startBellows seen.cellsOk seen.retestOk seen.katOk u.fixEnd.startStore).startImages ∧ u.lifeCode ≠ 0 ∧ u.lifeCode ≠ 6
      ∧ v.usable = false) ∧
    (∃ (s : State), s.rootOk = false) ∧
    (∃ (s : State), s.rootOk = true ∧ s.crucible.latchCls = 2) ∧
    (∃ (s : State), s.rootOk = true ∧ s.crucible.latchCls ≠ 2) ∧
    (∃ (s : State), s.chip.started = true ∧ s.chip.state = ChipState.start) ∧
    (∃ (s : State), s.chip.held = true ∨ s.chip.started = true) ∧
    (∃ (s : State) (seen : StartSeen), s.chip.held = false ∧ s.chip.started = false ∧ s.chip.state = ChipState.start ∧ State.scanTest
      seen.testBall s = true) :=
  ⟨⟨State.reset, _, _, ⟨false, false, 0, 0, true, 800⟩, by
      refine ⟨?_, ?_, ?_, ?_, ?_, rfl, rfl, ?_⟩ <;> decide +kernel⟩,
   ⟨cold, _, _, ⟨false, false, 0xFF, 0, true, 800⟩, by
       refine ⟨?_, ?_, ?_, ?_, ?_, rfl, rfl, by and_intros <;> decide +kernel⟩ <;> decide +kernel⟩,
   ⟨{ life := { stage := 2 } }, _, _, ⟨false, false, 0xFF, 0, true, 800⟩, by
       refine ⟨?_, ?_, ?_, ?_, ?_, rfl, rfl, by and_intros <;> decide +kernel⟩ <;> decide +kernel⟩,
   ⟨State.reset, by decide +kernel⟩,
   ⟨rooted 2, ⟨rooted_ok _, by decide +kernel⟩⟩,
   ⟨rooted 3, ⟨rooted_ok _, by decide +kernel⟩⟩,
   ⟨{ chip := { started := true } }, by and_intros <;> decide +kernel⟩,
   ⟨{ chip := { started := true } }, by decide +kernel⟩,
   ⟨State.reset, ⟨false, true, 0, 0, true, 800⟩, by and_intros <;> decide +kernel⟩⟩

theorem witness_RegisterWrites :
    (∃ (s : State) (p : Page), s.chip.crs = true ∨ (s.fnOf (pageFn p)).flr = true) ∧
    (∃ (s : State) (p : Page) (a : BitVec 16) (w : RegValue), s.barOpen p = true ∧ accepts p a.toNat w = false) ∧
    (∃ (s : State) (p : Page) (a : BitVec 16) (v : BitVec 32), s.link.aspm = Aspm.l0 ∧ s.barOpen p = true ∧ a.toNat % 8 = 0 ∧
      (State.writePage p a.toNat v s).barOpen p = true) ∧
    (∃ (s : State) (a : BitVec 16), s.link.aspm = Aspm.l0 ∧ s.barOpen Page.bar4 = true ∧ a.toNat % 2 = 0) ∧
    (∃ (s : State), s.link.aspm = Aspm.l0 ∧ s.chip.crs = false ∧ (s.fnOf 0).flr = false ∧ s.chip.legacy = false) ∧
    (∃ (s : State), s.link.aspm = Aspm.l0 ∧ s.chip.crs = false ∧ (s.fnOf 0).flr = false ∧ s.worlds.go = false) ∧
    (∃ (s : State), s.link.aspm = Aspm.l0 ∧ s.chip.crs = false ∧ (s.fnOf 0).flr = false ∧ s.worlds.go = true) ∧
    (∃ (s : State) (f : BitVec 8), s.link.aspm = Aspm.l0 ∧ s.chip.crs = false ∧ s.chip.legacy = false ∧ s.pageOpen f.toNat = true) :=
  ⟨⟨{ chip := { crs := true } }, .bar0 0, .inl (by decide +kernel)⟩,
   ⟨up, .bar0 0, 2, .four 0, by and_intros <;> decide +kernel⟩,
   ⟨up, .bar0 0, 0, 0, by and_intros <;> decide +kernel⟩,
   ⟨{ up with chip := { up.chip with legacy := true } }, 0, by and_intros <;> decide +kernel⟩,
   ⟨up, by and_intros <;> decide +kernel⟩,
   ⟨up, by and_intros <;> decide +kernel⟩,
   ⟨{ up with worlds := { go := true } }, by and_intros <;> decide +kernel⟩,
   ⟨up, 0, by and_intros <;> decide +kernel⟩⟩

theorem witness_RsaOpcodes :
    (∃ (s u : State) (op : ℕ) (o : Op) (dma : Dma) (k x : ℕ) (m e : Bytes) (y : Option ℕ), k = modLen o ∧ u = State.hasRead o dma s ∧ x
      = beNat (inputPart o dma) ∧ s.OnUnit op 1025 o ∧ check7 o.desc dma (dDlen o.desc) k = none ∧ u.BlobOf o dma 2 2 m ∧ x <
      (Rsa.Key.ofBytes k (List.drop 8 m)).n ∧ u.Fed o 0 e ∧ y = (Rsa.Key.ofBytes k (List.drop 8 m)).privWith (State.blindBytes (16 + k)
      (State.used op u)) x) ∧
    (∃ (s u : State) (op : ℕ) (o : Op) (dma : Dma) (k x : ℕ) (m : Bytes), k = modLen o ∧ u = State.hasRead o dma s ∧ x = beNat
      (inputPart o dma) ∧ s.OnUnit op 1025 o ∧ check7 o.desc dma (dDlen o.desc) k = none ∧ u.BlobOf o dma 2 2 m ∧ (Rsa.Key.ofBytes k
      (List.drop 8 m)).n ≤ x) ∧
    (∃ (s u : State) (op : ℕ) (o : Op) (dma : Dma) (k x n e : ℕ), k = modLen o ∧ u = State.hasRead o dma s ∧ x = beNat (inputPart o dma)
      ∧ n = beAt (keyPart o dma) 4 k ∧ e = beAt (keyPart o dma) 0 4 ∧ n % 2 = 1 ∧ 2 ^ (dPlan o.desc - 1) ≤ n ∧ e % 2 = 1 ∧ 3 ≤ e ∧
      s.OnUnit op 1026 o ∧ check7 o.desc dma (dDlen o.desc) k = none ∧ x < n) ∧
    (∃ (s u : State) (op : ℕ) (o : Op) (dma : Dma) (k x n e : ℕ), k = modLen o ∧ u = State.hasRead o dma s ∧ x = beNat (inputPart o dma)
      ∧ n = beAt (keyPart o dma) 4 k ∧ e = beAt (keyPart o dma) 0 4 ∧ n % 2 = 1 ∧ 2 ^ (dPlan o.desc - 1) ≤ n ∧ e % 2 = 1 ∧ 3 ≤ e ∧
      s.OnUnit op 1026 o ∧ check7 o.desc dma (dDlen o.desc) k = none ∧ n ≤ x) ∧
    (∃ (s u : State) (op : ℕ) (o : Op) (dma : Dma) (k x n e : ℕ) (d : List (BitVec 8)) (y : ℕ), k = modLen o ∧ u = State.hasRead o dma s
      ∧ x = beNat (inputPart o dma) ∧ n = beAt (keyPart o dma) 4 k ∧ e = beAt (keyPart o dma) 0 4 ∧ n % 2 = 1 ∧ 2 ^ (dPlan o.desc - 1) ≤
      n ∧ e % 2 = 1 ∧ 3 ≤ e ∧ s.OnUnit op 1028 o ∧ check7 o.desc dma (dDlen o.desc) 0 = none ∧ d = List.take (Sha.hashLen (pArg1 o))
      (inputPart o dma) ∧ y = beNat (List.drop (Sha.hashLen (pArg1 o)) (inputPart o dma)) ∧ pArg0 o = 1) ∧
    (∃ (s u : State) (op : ℕ) (o : Op) (dma : Dma) (k x n e : ℕ) (d : List (BitVec 8)) (y : ℕ), k = modLen o ∧ u = State.hasRead o dma s
      ∧ x = beNat (inputPart o dma) ∧ n = beAt (keyPart o dma) 4 k ∧ e = beAt (keyPart o dma) 0 4 ∧ n % 2 = 1 ∧ 2 ^ (dPlan o.desc - 1) ≤
      n ∧ e % 2 = 1 ∧ 3 ≤ e ∧ s.OnUnit op 1028 o ∧ check7 o.desc dma (dDlen o.desc) 0 = none ∧ d = List.take (Sha.hashLen (pArg1 o))
      (inputPart o dma) ∧ y = beNat (List.drop (Sha.hashLen (pArg1 o)) (inputPart o dma)) ∧ pArg0 o ≠ 1) ∧
    (∃ (s u : State) (op : ℕ) (o : Op) (dma : Dma) (k x n e : ℕ) (r : Bytes × Inst), k = modLen o ∧ u = State.hasRead o dma s ∧ x =
      beNat (inputPart o dma) ∧ n = beAt (keyPart o dma) 4 k ∧ e = beAt (keyPart o dma) 0 4 ∧ n % 2 = 1 ∧ 2 ^ (dPlan o.desc - 1) ≤ n ∧ e
      % 2 = 1 ∧ 3 ≤ e ∧ s.OnUnit op 1029 o ∧ check7 o.desc dma (dDlen o.desc) k = none ∧ 65537 ≤ e ∧ u.DrawsNow o ∧ r = genInst
      (u.instOf o.fn (dDrbg o.desc)) (Sha.hashLen (pArg1 o)) []) ∧
    (∃ (s u : State) (op : ℕ) (o : Op) (dma : Dma) (k x n e : ℕ), k = modLen o ∧ u = State.hasRead o dma s ∧ x = beNat (inputPart o dma)
      ∧ n = beAt (keyPart o dma) 4 k ∧ e = beAt (keyPart o dma) 0 4 ∧ (n % 2 = 0 ∨ n < 2 ^ (dPlan o.desc - 1) ∨ e % 2 = 0 ∨ e < 3) ∧
      s.OnUnit op 1026 o ∧ check7 o.desc dma (dDlen o.desc) k = none) ∧
    (∃ (s u : State) (op : ℕ) (o : Op) (dma : Dma) (k x n e : ℕ), k = modLen o ∧ u = State.hasRead o dma s ∧ x = beNat (inputPart o dma)
      ∧ n = beAt (keyPart o dma) 4 k ∧ e = beAt (keyPart o dma) 0 4 ∧ (n % 2 = 0 ∨ n < 2 ^ (dPlan o.desc - 1) ∨ e % 2 = 0 ∨ e < 3) ∧
      s.OnUnit op 1028 o ∧ check7 o.desc dma (dDlen o.desc) 0 = none) ∧
    (∃ (s u : State) (op : ℕ) (o : Op) (dma : Dma) (k x n e : ℕ), k = modLen o ∧ u = State.hasRead o dma s ∧ x = beNat (inputPart o dma)
      ∧ n = beAt (keyPart o dma) 4 k ∧ e = beAt (keyPart o dma) 0 4 ∧ (n % 2 = 0 ∨ n < 2 ^ (dPlan o.desc - 1) ∨ e % 2 = 0 ∨ e < 3) ∧
      s.OnUnit op 1029 o ∧ check7 o.desc dma (dDlen o.desc) k = none) ∧
    (∃ (s u : State) (op : ℕ) (o : Op) (dma : Dma) (k x : ℕ) (m e : Bytes) (y : Option ℕ), k = modLen o ∧ u = State.hasRead o dma s ∧ x
      = beNat (inputPart o dma) ∧ s.OnUnit op 1027 o ∧ check7 o.desc dma (dDlen o.desc) k = none ∧ u.BlobOf o dma 2 0 m ∧ pArg0 o = 1 ∧
      u.Fed o 0 e ∧ y = (Rsa.Key.ofBytes k (List.drop 8 m)).privWith (State.blindBytes (16 + k) (State.used op u)) (beNat (Rsa.pkcs1
      (pArg1 o) k (inputPart o dma)))) ∧
    (∃ (s u : State) (op : ℕ) (o : Op) (dma : Dma) (k x : ℕ) (m : Bytes) (r : Bytes × Inst) (v : State) (y : Option ℕ), k = modLen o ∧ u
      = State.hasRead o dma s ∧ x = beNat (inputPart o dma) ∧ s.OnUnit op 1027 o ∧ check7 o.desc dma (dDlen o.desc) k = none ∧ u.BlobOf
      o dma 2 0 m ∧ pArg0 o ≠ 1 ∧ u.DrawsNow o ∧ r = genInst (u.instOf o.fn (dDrbg o.desc)) (pArg2 o) [] ∧ v = State.drew o (pArg2 o)
      r.2 u ∧ y = (Rsa.Key.ofBytes k (List.drop 8 m)).privWith (State.blindBytes (16 + k) v) (beNat (Rsa.pssEncode (pArg1 o) k
      (inputPart o dma) r.1)) ∧ Sha.hashLen (pArg1 o) + pArg2 o + 2 ≤ k) ∧
    (∃ (s u : State) (op : ℕ) (o : Op) (dma : Dma) (k x : ℕ) (m : Bytes) (r : Bytes × Inst) (v : State) (y : Option ℕ), k = modLen o ∧ u
      = State.hasRead o dma s ∧ x = beNat (inputPart o dma) ∧ s.OnUnit op 1027 o ∧ check7 o.desc dma (dDlen o.desc) k = none ∧ u.BlobOf
      o dma 2 0 m ∧ pArg0 o ≠ 1 ∧ u.DrawsNow o ∧ r = genInst (u.instOf o.fn (dDrbg o.desc)) (pArg2 o) [] ∧ v = State.drew o (pArg2 o)
      r.2 u ∧ y = (Rsa.Key.ofBytes k (List.drop 8 m)).privWith (State.blindBytes (16 + k) v) (beNat (Rsa.pssEncode (pArg1 o) k
      (inputPart o dma) r.1)) ∧ k < Sha.hashLen (pArg1 o) + pArg2 o + 2) ∧
    (∃ (s u : State) (op : ℕ) (o : Op) (dma : Dma) (k x : ℕ) (m e : Bytes) (y : Option ℕ), k = modLen o ∧ u = State.hasRead o dma s ∧ x
      = beNat (inputPart o dma) ∧ s.OnUnit op 1030 o ∧ check7 o.desc dma (dDlen o.desc) (k - 2 * Sha.hashLen (pArg1 o) - 2) = none ∧
      u.BlobOf o dma 2 1 m ∧ x < (Rsa.Key.ofBytes k (List.drop 8 m)).n ∧ u.Fed o 0 e ∧ y = (Rsa.Key.ofBytes k (List.drop 8 m)).privWith
      (State.blindBytes (16 + k) (State.used op u)) x) ∧
    (∃ (s u : State) (op : ℕ) (o : Op) (dma : Dma) (k x : ℕ) (b : Bytes) (key : Rsa.Key) (r : Bytes), k = modLen o ∧ u = State.hasRead o
      dma s ∧ x = beNat (inputPart o dma) ∧ s.OnUnit op 1031 o ∧ check7 o.desc dma 0 (keygenLen (12 + k + 5 * (k / 2)) (4 + k)) = none ∧
      u.Fed o ((k + 15) / 16) b ∧ key = Rsa.Key.ofPrimes (Rsa.primePair (k / 2) (pArg3 o) b).1 (Rsa.primePair (k / 2) (pArg3 o) b).2
      (pArg3 o) ∧ r = State.blindBytes (16 + k) (State.used op u)) :=
  ⟨⟨blobSt (rsaJ 0x0401 128), _, 1, rsaJ 0x0401 128, rsaD (rsaJ 0x0401 128) zeros, 128, _, rsaMat, [], _, ⟨by decide +kernel, rfl, rfl,
    ⟨⟨by decide +kernel, by decide +kernel, by decide +kernel⟩, by decide +kernel⟩, by decide +kernel, blob_read (sealed_blob
    fit_priv0), (by rw [(sealed_parts fit_priv0).2]; decide +kernel), .inr (by and_intros <;> decide +kernel), rfl⟩⟩,
   ⟨blobSt (rsaJ 0x0401 128), _, 1, rsaJ 0x0401 128, rsaD (rsaJ 0x0401 128) ones, 128, _, rsaMat, ⟨by decide +kernel, rfl, rfl,
     ⟨⟨by decide +kernel, by decide +kernel, by decide +kernel⟩, by decide +kernel⟩, by decide +kernel, blob_read (sealed_blob
     fit_priv1), (by rw [(sealed_parts fit_priv1).2]; decide +kernel)⟩⟩,
   ⟨jobSt (rsaJob 0x0402), _, 1, rsaJob 0x0402, rsaDma 0, 128, _, _, _, by
       refine ⟨?_, rfl, rfl, rfl, rfl, ?_, ?_, ?_, ?_, ⟨⟨by decide +kernel, by decide +kernel, by decide +kernel⟩, by decide +kernel⟩,
         ?_, ?_⟩ <;> decide +kernel⟩,
   ⟨jobSt (rsaJob 0x0402), _, 1, rsaJob 0x0402, rsaBig, 128, _, _, _, by
       refine ⟨?_, rfl, rfl, rfl, rfl, ?_, ?_, ?_, ?_, ⟨⟨by decide +kernel, by decide +kernel, by decide +kernel⟩, by decide +kernel⟩,
         ?_, ?_⟩ <;> decide +kernel⟩,
   ⟨jobSt (rsaJob 0x0404 0x020100000000), _, 1, rsaJob 0x0404 0x020100000000, rsaDma 0, 128, _, _, _, _, _, by
       refine ⟨?_, rfl, rfl, rfl, rfl, ?_, ?_, ?_, ?_, ⟨⟨by decide +kernel, by decide +kernel, by decide +kernel⟩, by decide +kernel⟩,
         ?_, rfl, rfl, ?_⟩ <;> decide +kernel⟩,
   ⟨jobSt (rsaJob 0x0404 0x020000000000), _, 1, rsaJob 0x0404 0x020000000000, rsaDma 0, 128, _, _, _, _, _, by
       refine ⟨?_, rfl, rfl, rfl, rfl, ?_, ?_, ?_, ?_, ⟨⟨by decide +kernel, by decide +kernel, by decide +kernel⟩, by decide +kernel⟩,
         ?_, rfl, rfl, ?_⟩ <;> decide +kernel⟩,
   ⟨jobSt (rsaJob 0x0405), _, 1, rsaJob 0x0405, rsaDma 1, 128, _, _, _, _, by
       refine ⟨?_, rfl, rfl, rfl, rfl, ?_, ?_, ?_, ?_, ⟨⟨by decide +kernel, by decide +kernel, by decide +kernel⟩, by decide +kernel⟩,
         ?_, ?_, (by unfold State.DrawsNow State.Turn; and_intros <;> decide +kernel), rfl⟩ <;> decide +kernel⟩,
   ⟨jobSt (rsaJob 0x0402), _, 1, rsaJob 0x0402, {}, 128, _, _, _, ⟨by decide +kernel, rfl, rfl, rfl, rfl, by decide +kernel,
     ⟨⟨by decide +kernel, by decide +kernel, by decide +kernel⟩, by decide +kernel⟩, by decide +kernel⟩⟩,
   ⟨jobSt (rsaJob 0x0404), _, 1, rsaJob 0x0404, {}, 128, _, _, _, ⟨by decide +kernel, rfl, rfl, rfl, rfl, by decide +kernel,
     ⟨⟨by decide +kernel, by decide +kernel, by decide +kernel⟩, by decide +kernel⟩, by decide +kernel⟩⟩,
   ⟨jobSt (rsaJob 0x0405), _, 1, rsaJob 0x0405, {}, 128, _, _, _, ⟨by decide +kernel, rfl, rfl, rfl, rfl, by decide +kernel,
     ⟨⟨by decide +kernel, by decide +kernel, by decide +kernel⟩, by decide +kernel⟩, by decide +kernel⟩⟩,
   ⟨blobSt (rsaJ 0x0403 32 0x020100000000), _, 1, rsaJ 0x0403 32 0x020100000000, rsaD (rsaJ 0x0403 32 0x020100000000) (List.replicate 32
     1), 128, _, rsaMat, [], _, ⟨by decide +kernel, rfl, rfl, ⟨⟨by decide +kernel, by decide +kernel, by decide +kernel⟩,
     by decide +kernel⟩, by decide +kernel, blob_read (sealed_blob fit_sign1), by decide +kernel, .inr
     (by and_intros <;> decide +kernel), rfl⟩⟩,
   ⟨blobSt (rsaJ 0x0403 32 0x020000000000), _, 1, rsaJ 0x0403 32 0x020000000000, rsaD (rsaJ 0x0403 32 0x020000000000) (List.replicate 32
     1), 128, _, rsaMat, _, _, _, by
       refine ⟨?_, rfl, rfl, ⟨⟨by decide +kernel, by decide +kernel, by decide +kernel⟩, by decide +kernel⟩, ?_, blob_read (sealed_blob
         fit_sign0), ?_, (by unfold State.DrawsNow State.Turn; and_intros <;> decide +kernel), rfl, rfl, rfl, ?_⟩ <;> decide +kernel⟩,
   ⟨blobSt (rsaJ 0x0403 32 0x00FF020000000000), _, 1, rsaJ 0x0403 32 0x00FF020000000000, rsaD (rsaJ 0x0403 32 0x00FF020000000000)
     (List.replicate 32 1), 128, _, rsaMat, _, _, _, by
       refine ⟨?_, rfl, rfl, ⟨⟨by decide +kernel, by decide +kernel, by decide +kernel⟩, by decide +kernel⟩, ?_, blob_read (sealed_blob
         fit_sign2), ?_, (by unfold State.DrawsNow State.Turn; and_intros <;> decide +kernel), rfl, rfl, rfl, ?_⟩ <;> decide +kernel⟩,
   ⟨blobSt (rsaJ 0x0406 128 0x020000000000), _, 1, rsaJ 0x0406 128 0x020000000000, rsaD (rsaJ 0x0406 128 0x020000000000) oaepIn, 128, _,
     rsaMat, [], _, ⟨by decide +kernel, rfl, rfl, ⟨⟨by decide +kernel, by decide +kernel, by decide +kernel⟩, by decide +kernel⟩,
     by decide +kernel, blob_read (sealed_blob fit_oaep), (by rw [(sealed_parts fit_oaep).2]; decide +kernel), .inr
     (by and_intros <;> decide +kernel), rfl⟩⟩,
   ⟨jobSt { rsaJob 0x0407 with seed := some [] }, _, 1, { rsaJob 0x0407 with seed := some [] }, {}, 128, _, [], _, _,
     ⟨by decide +kernel, rfl, rfl, ⟨⟨by decide +kernel, by decide +kernel, by decide +kernel⟩, by decide +kernel⟩, by decide +kernel,
     .inl rfl, rfl, rfl⟩⟩⟩

theorem witness_CurveOpcodes :
    (∃ (s u : State) (op : ℕ) (o : Op) (dma : Dma) (c : Ecc.Curve) (e : Ecc.Edw) (r : Bytes × Inst) (v : State) (w : Inst) (g : Option
      (ℕ × ℕ × ℕ) × Inst) (k a b : ℕ), c = Ecc.curve o.curveCode ∧ e = edwards o.curveCode ∧ u = State.hasRead o dma s ∧ s.OnUnit op
      1040 o ∧ check7 o.desc dma (dDlen o.desc) (2 * c.len) = none ∧ u.DrawsNow o ∧ r = genInst (u.instOf o.fn (dDrbg o.desc)) c.len []
      ∧ v = State.drewBlind c.len (State.drew o c.len r.2 u) ∧ w = v.instOf o.fn (dDrbg o.desc) ∧ g = nonceLoop c (beNat
      o.keyCopy.bytes) (inputPart o dma) 64 r.1 w ∧ g.1 = some (k, a, b)) ∧
    (∃ (s u : State) (op : ℕ) (o : Op) (dma : Dma) (c : Ecc.Curve) (e : Ecc.Edw) (q : ℕ × ℕ) (x : Bytes), c = Ecc.curve o.curveCode ∧ e
      = edwards o.curveCode ∧ u = State.hasRead o dma s ∧ s.OnUnit op 1041 o ∧ check7 o.desc dma (dDlen o.desc) 0 = none ∧ c.decode
      (keyPart o dma) = some q ∧ x = inputPart o dma) ∧
    (∃ (s u : State) (op : ℕ) (o : Op) (dma : Dma) (c : Ecc.Curve) (e : Ecc.Edw), c = Ecc.curve o.curveCode ∧ e = edwards o.curveCode ∧
      u = State.hasRead o dma s ∧ s.OnUnit op 1041 o ∧ check7 o.desc dma (dDlen o.desc) 0 = none ∧ c.decode (keyPart o dma) = none) ∧
    (∃ (s u : State) (op : ℕ) (o : Op) (dma : Dma) (c : Ecc.Curve) (e : Ecc.Edw) (q : ℕ × ℕ) (b : Bytes), c = Ecc.curve o.curveCode ∧ e
      = edwards o.curveCode ∧ u = State.hasRead o dma s ∧ s.OnUnit op 1042 o ∧ check7 o.desc dma (dDlen o.desc) c.len = none ∧ c.decode
      (inputPart o dma) = some q ∧ u.Fed o 0 b) ∧
    (∃ (s u : State) (op : ℕ) (o : Op) (dma : Dma) (c : Ecc.Curve) (e : Ecc.Edw), c = Ecc.curve o.curveCode ∧ e = edwards o.curveCode ∧
      u = State.hasRead o dma s ∧ s.OnUnit op 1042 o ∧ check7 o.desc dma (dDlen o.desc) c.len = none ∧ c.decode (inputPart o dma) =
      none) ∧
    (∃ (s u : State) (op : ℕ) (o : Op) (dma : Dma) (c : Ecc.Curve) (e : Ecc.Edw) (b p : Bytes), c = Ecc.curve o.curveCode ∧ e = edwards
      o.curveCode ∧ u = State.hasRead o dma s ∧ s.OnUnit op 1043 o ∧ check7 o.desc dma 0 (pubLen o.curveCode) = none ∧ u.Fed o 0 b ∧ p =
      Ecc.publicKey o.curveCode o.keyCopy.bytes) ∧
    (∃ (s u : State) (op : ℕ) (o : Op) (dma : Dma) (c : Ecc.Curve) (e : Ecc.Edw) (b x sg p : Bytes), c = Ecc.curve o.curveCode ∧ e =
      edwards o.curveCode ∧ u = State.hasRead o dma s ∧ s.OnUnit op 1044 o ∧ check7 o.desc dma (dDlen o.desc) (2 * e.len) = none ∧ u.Fed
      o 0 b ∧ x = inputPart o dma ∧ sg = e.sign o.keyCopy.bytes (List.take (pArg0 o) x) (List.drop (pArg0 o) x) ∧ p = e.pub
      o.keyCopy.bytes) ∧
    (∃ (s u : State) (op : ℕ) (o : Op) (dma : Dma) (c : Ecc.Curve) (e : Ecc.Edw) (a : Ecc.EPt) (x : Bytes), c = Ecc.curve o.curveCode ∧
      e = edwards o.curveCode ∧ u = State.hasRead o dma s ∧ s.OnUnit op 1045 o ∧ check7 o.desc dma (dDlen o.desc) 0 = none ∧ e.decode
      (keyPart o dma) = some a ∧ x = inputPart o dma) ∧
    (∃ (s u : State) (op : ℕ) (o : Op) (dma : Dma) (c : Ecc.Curve) (e : Ecc.Edw), c = Ecc.curve o.curveCode ∧ e = edwards o.curveCode ∧
      u = State.hasRead o dma s ∧ s.OnUnit op 1045 o ∧ check7 o.desc dma (dDlen o.desc) 0 = none ∧ e.decode (keyPart o dma) = none) ∧
    (∃ (s u : State) (op : ℕ) (o : Op) (dma : Dma) (c : Ecc.Curve) (e : Ecc.Edw) (out b : Bytes), c = Ecc.curve o.curveCode ∧ e =
      edwards o.curveCode ∧ u = State.hasRead o dma s ∧ s.OnUnit op 1046 o ∧ check7 o.desc dma (dDlen o.desc) (Ecc.keyLen o.curveCode) =
      none ∧ u.Fed o 0 b ∧ out = (if o.curveCode = 7 then Ecc.x25519 else Ecc.x448) o.keyCopy.bytes (inputPart o dma) ∧ (∃ b ∈ out, b ≠
      0)) ∧
    (∃ (s u : State) (op : ℕ) (o : Op) (dma : Dma) (c : Ecc.Curve) (e : Ecc.Edw) (out b : Bytes), c = Ecc.curve o.curveCode ∧ e =
      edwards o.curveCode ∧ u = State.hasRead o dma s ∧ s.OnUnit op 1046 o ∧ check7 o.desc dma (dDlen o.desc) (Ecc.keyLen o.curveCode) =
      none ∧ u.Fed o 0 b ∧ out = (if o.curveCode = 7 then Ecc.x25519 else Ecc.x448) o.keyCopy.bytes (inputPart o dma) ∧ (∀ b ∈ out, b =
      0)) :=
  ⟨⟨signSt, signU, 1, signJob, signDma, signC, _, signR, signV, _, signG, _, _, _, ⟨rfl, rfl, rfl, ⟨⟨by decide +kernel,
    by decide +kernel, by decide +kernel⟩, by decide +kernel⟩, by decide +kernel,
    (by unfold State.DrawsNow State.Turn; and_intros <;> decide +kernel), rfl, rfl, rfl, rfl, gd3 _ (0, 0, 0) (by decide +kernel)⟩⟩,
   ⟨jobSt (ecJob 0x0411 2), _, 1, ecJob 0x0411 2, ecDma, _, _, (Ecc.p256.gx, Ecc.p256.gy), _, ⟨rfl, rfl, rfl, ⟨⟨by decide +kernel,
     by decide +kernel, by decide +kernel⟩, by decide +kernel⟩, by decide +kernel, by decide +kernel, rfl⟩⟩,
   ⟨jobSt (ecJob 0x0411 2), _, 1, ecJob 0x0411 2, {}, _, _, ⟨rfl, rfl, rfl, ⟨⟨by decide +kernel, by decide +kernel, by decide +kernel⟩,
     by decide +kernel⟩, by decide +kernel, by decide +kernel⟩⟩,
   ⟨jobSt (ecdhJob 0x0412), _, 1, ecdhJob 0x0412, ecDma, _, _, (Ecc.p256.gx, Ecc.p256.gy), [], ⟨rfl, rfl, rfl, ⟨⟨by decide +kernel,
     by decide +kernel, by decide +kernel⟩, by decide +kernel⟩, by decide +kernel, by decide +kernel, .inr
     (by and_intros <;> decide +kernel)⟩⟩,
   ⟨jobSt (ecdhJob 0x0412), _, 1, ecdhJob 0x0412, {}, _, _, ⟨rfl, rfl, rfl, ⟨⟨by decide +kernel, by decide +kernel, by decide +kernel⟩,
     by decide +kernel⟩, by decide +kernel, by decide +kernel⟩⟩,
   ⟨jobSt (ecdhJob 0x0413), _, 1, ecdhJob 0x0413, {}, _, _, [], _, ⟨rfl, rfl, rfl, ⟨⟨by decide +kernel, by decide +kernel,
     by decide +kernel⟩, by decide +kernel⟩, by decide +kernel, .inr (by and_intros <;> decide +kernel), rfl⟩⟩,
   ⟨jobSt (ecdhJob 0x0414), _, 1, ecdhJob 0x0414, {}, _, _, [], _, _, _, ⟨rfl, rfl, rfl, ⟨⟨by decide +kernel, by decide +kernel,
     by decide +kernel⟩, by decide +kernel⟩, by decide +kernel, .inr (by and_intros <;> decide +kernel), rfl, rfl, rfl⟩⟩,
   ⟨jobSt (ecJob 0x0415 5), _, 1, ecJob 0x0415 5, edDma, _, _, (Ecc.ed25519.decode (fit 32 [1])).getD ⟨0, 1, 1⟩, _, ⟨rfl, rfl, rfl,
     ⟨⟨by decide +kernel, by decide +kernel, by decide +kernel⟩, by decide +kernel⟩, by decide +kernel, gd _ _ (by decide +kernel),
     rfl⟩⟩,
   ⟨jobSt (ecJob 0x0415 5), _, 1, ecJob 0x0415 5, { src := List.replicate 32 255 }, _, _, ⟨rfl, rfl, rfl, ⟨⟨by decide +kernel,
     by decide +kernel, by decide +kernel⟩, by decide +kernel⟩, by decide +kernel, by decide +kernel⟩⟩,
   ⟨jobSt xJob, _, 1, xJob, { src := [9] }, _, _, _, [], ⟨rfl, rfl, rfl, ⟨⟨by decide +kernel, by decide +kernel, by decide +kernel⟩,
     by decide +kernel⟩, by decide +kernel, .inr (by and_intros <;> decide +kernel), rfl, by decide +kernel⟩⟩,
   ⟨jobSt xJob, _, 1, xJob, {}, _, _, _, [], ⟨rfl, rfl, rfl, ⟨⟨by decide +kernel, by decide +kernel, by decide +kernel⟩,
     by decide +kernel⟩, by decide +kernel, .inr (by and_intros <;> decide +kernel), rfl, by decide +kernel⟩⟩⟩

theorem witness_LatticeOpcodes :
    (∃ (s u : State) (op : ℕ) (o : Op) (dma : Dma) (set : ℕ) (b : Bytes) (kp c : Bytes × Bytes), set = dPlan o.desc ∧ u = State.hasRead
      o dma s ∧ s.OnUnit op 1056 o ∧ check7 o.desc dma 0 (keygenLen (8 + Mlkem.dkLen set) (Mlkem.ekLen set)) = none ∧ u.Fed o 4 b ∧ kp =
      Mlkem.keygen set (List.take 32 b) (List.drop 32 b) ∧ c = Mlkem.encaps set kp.1 (List.take 32 (State.blindBytes 32 (State.used op
      u)))) ∧
    (∃ (s u : State) (op : ℕ) (o : Op) (dma : Dma) (set : ℕ) (r : Bytes × Inst), set = dPlan o.desc ∧ u = State.hasRead o dma s ∧
      s.OnUnit op 1057 o ∧ check7 o.desc dma (dDlen o.desc) (Mlkem.ctLen set + 32) = none ∧ Mlkem.ekOk set (keyPart o dma) = true ∧
      u.DrawsNow o ∧ r = genInst (u.instOf o.fn (dDrbg o.desc)) 32 []) ∧
    (∃ (s u : State) (op : ℕ) (o : Op) (dma : Dma) (set : ℕ), set = dPlan o.desc ∧ u = State.hasRead o dma s ∧ s.OnUnit op 1057 o ∧
      check7 o.desc dma (dDlen o.desc) (Mlkem.ctLen set + 32) = none ∧ Mlkem.ekOk set (keyPart o dma) = false) ∧
    (∃ (s u : State) (op : ℕ) (o : Op) (dma : Dma) (set : ℕ) (m b : Bytes), set = dPlan o.desc ∧ u = State.hasRead o dma s ∧ s.OnUnit op
      1058 o ∧ check7 o.desc dma (dDlen o.desc) 32 = none ∧ u.BlobOf o dma 3 1 m ∧ u.Fed o 0 b) ∧
    (∃ (s u : State) (op : ℕ) (o : Op) (dma : Dma) (set : ℕ) (b : Bytes) (kp : Bytes × Bytes) (r : Bytes), set = dPlan o.desc ∧ u =
      State.hasRead o dma s ∧ s.OnUnit op 1072 o ∧ check7 o.desc dma 0 (keygenLen (8 + Mldsa.skLen set) (Mldsa.pkLen set)) = none ∧
      u.Fed o 2 b ∧ kp = Mldsa.keygen set b ∧ r = State.blindBytes 32 (State.used op u)) ∧
    (∃ (s u : State) (op : ℕ) (o : Op) (dma : Dma) (set : ℕ) (m b x sg : Bytes), set = dPlan o.desc ∧ u = State.hasRead o dma s ∧
      s.OnUnit op 1073 o ∧ check7 o.desc dma (dDlen o.desc) (Mldsa.sigLen set) = none ∧ u.BlobOf o dma 4 0 m ∧ pArg1 o = 1 ∧ u.Fed o 0 b
      ∧ x = inputPart o dma ∧ sg = Mldsa.sign set (List.drop 8 m) (List.take (pArg0 o) x) (List.drop (pArg0 o) x) (List.replicate 32 0))
      ∧
    (∃ (s u : State) (op : ℕ) (o : Op) (dma : Dma) (set : ℕ) (m : Bytes) (r : Bytes × Inst) (x sg : Bytes), set = dPlan o.desc ∧ u =
      State.hasRead o dma s ∧ s.OnUnit op 1073 o ∧ check7 o.desc dma (dDlen o.desc) (Mldsa.sigLen set) = none ∧ u.BlobOf o dma 4 0 m ∧
      pArg1 o ≠ 1 ∧ u.DrawsNow o ∧ r = genInst (u.instOf o.fn (dDrbg o.desc)) 32 [] ∧ x = inputPart o dma ∧ sg = Mldsa.sign set
      (List.drop 8 m) (List.take (pArg0 o) x) (List.drop (pArg0 o) x) r.1) ∧
    (∃ (s u : State) (op : ℕ) (o : Op) (dma : Dma) (set : ℕ) (x : Bytes), set = dPlan o.desc ∧ u = State.hasRead o dma s ∧ s.OnUnit op
      1074 o ∧ check7 o.desc dma (dDlen o.desc) 0 = none ∧ x = inputPart o dma) :=
  ⟨⟨jobSt ({ ecJob 0x0420 512 with seed := some [] }), _, 1, { ecJob 0x0420 512 with seed := some [] }, {}, _, [], _, _, ⟨rfl, rfl,
    ⟨⟨by decide +kernel, by decide +kernel, by decide +kernel⟩, by decide +kernel⟩, by decide +kernel, .inl rfl, rfl, rfl⟩⟩,
   ⟨jobSt (ecJob 0x0421 512 800), _, 1, ecJob 0x0421 512 800, {}, _, _, ⟨rfl, rfl, ⟨⟨by decide +kernel, by decide +kernel,
     by decide +kernel⟩, by decide +kernel⟩, by decide +kernel, by decide +kernel,
     (by unfold State.DrawsNow State.Turn; and_intros <;> decide +kernel), rfl⟩⟩,
   ⟨jobSt (ecJob 0x0421 512 800), _, 1, ecJob 0x0421 512 800, { src := List.replicate 800 255 }, _, ⟨rfl, rfl, ⟨⟨by decide +kernel,
     by decide +kernel, by decide +kernel⟩, by decide +kernel⟩, by decide +kernel, by decide +kernel⟩⟩,
   ⟨blobSt (blobJob 0x0422 512 1640 768), _, 1, blobJob 0x0422 512 1640 768, latD (blobJob 0x0422 512 1640 768) 3 (latMat 2 1632)
     (List.replicate 768 0), _, latMat 2 1632, [], ⟨rfl, rfl, ⟨⟨by decide +kernel, by decide +kernel, by decide +kernel⟩,
     by decide +kernel⟩, by decide +kernel, blob_read (sealed_blob fit_decaps), .inr (by and_intros <;> decide +kernel)⟩⟩,
   ⟨jobSt ({ ecJob 0x0430 44 with seed := some [] }), _, 1, { ecJob 0x0430 44 with seed := some [] }, {}, _, [], _, _, ⟨rfl, rfl,
     ⟨⟨by decide +kernel, by decide +kernel, by decide +kernel⟩, by decide +kernel⟩, by decide +kernel, .inl rfl, rfl, rfl⟩⟩,
   ⟨blobSt (blobJob 0x0431 44 2568 8 0x010000000000), _, 1, blobJob 0x0431 44 2568 8 0x010000000000, latD (blobJob 0x0431 44 2568 8
     0x010000000000) 4 (latMat 1 2560) (List.replicate 8 0), _, latMat 1 2560, [], _, _, ⟨rfl, rfl, ⟨⟨by decide +kernel,
     by decide +kernel, by decide +kernel⟩, by decide +kernel⟩, by decide +kernel, blob_read (sealed_blob fit_mlsign1),
     by decide +kernel, .inr (by and_intros <;> decide +kernel), rfl, rfl⟩⟩,
   ⟨blobSt (blobJob 0x0431 44 2568 8), _, 1, blobJob 0x0431 44 2568 8, latD (blobJob 0x0431 44 2568 8) 4 (latMat 1 2560) (List.replicate
     8 0), _, latMat 1 2560, _, _, _, ⟨rfl, rfl, ⟨⟨by decide +kernel, by decide +kernel, by decide +kernel⟩, by decide +kernel⟩,
     by decide +kernel, blob_read (sealed_blob fit_mlsign0), by decide +kernel,
     (by unfold State.DrawsNow State.Turn; and_intros <;> decide +kernel), rfl, rfl, rfl⟩⟩,
   ⟨jobSt (ecJob 0x0432 44), _, 1, ecJob 0x0432 44, {}, _, _, ⟨rfl, rfl, ⟨⟨by decide +kernel, by decide +kernel, by decide +kernel⟩,
     by decide +kernel⟩, by decide +kernel, rfl⟩⟩⟩

theorem witness_Plans :
    (∃ (s : State) (op : ℕ) (o : Op) (w : Swage) (dma : Dma) (ks : List KeyCopy), s.InBlock op 768 o ∧ o.recip = some w ∧ s.prepared op
      = none ∧ s.powered 28 = true ∧ (s.blockOf 18).out = false ∧ check7 o.desc dma (dDlen o.desc) w.info.outMax = none ∧ w.info.route =
      0 ∧ w.info.rnd = 0 ∧ (∀ e ∈ roleSlots o w.info.roles, s.Holds o e.2 ∧ e.1.fits (s.slotOf e.2).attr = true) ∧ (ks = List.map (fun e
      => copyOf e.2 (s.slotOf e.2)) (roleSlots o w.info.roles))) ∧
    (∃ (s : State) (op : ℕ) (o : Op) (w : Swage) (e : ℕ × Option ℕ) (n : ℕ), s.InBlock op 768 o ∧ o.recip = some w ∧ s.prepared op =
      none ∧ s.powered 28 = true ∧ w.info.route ≠ 0 ∧ (List.find? (fun e => e.1 == op) s.routing.lookups = some e) ∧ e.2 = some n) ∧
    (∃ (s : State) (op : ℕ) (o : Op) (w : Swage) (e : ℕ × Option ℕ), s.InBlock op 768 o ∧ o.recip = some w ∧ s.prepared op = none ∧
      s.powered 28 = true ∧ w.info.route ≠ 0 ∧ (List.find? (fun e => e.1 == op) s.routing.lookups = some e) ∧ e.2 = none) ∧
    (∃ (s : State) (op : ℕ) (o : Op) (w : Swage) (r : Bytes × Inst), s.InBlock op 768 o ∧ o.recip = some w ∧ s.prepared op ≠ none ∧
      w.info.rnd ≠ 0 ∧ s.DrawsNow o ∧ r = genInst (s.instOf o.fn (dDrbg o.desc)) w.info.rnd []) ∧
    (∃ (s : State) (op : ℕ) (o : Op) (c : Ctx) (n : ℕ), s.opOf op = some o ∧ o.opcode = 768 ∧ o.stage = Stage.context ∧ s.prepared op =
      some c ∧ s.freeCtx o.pipeline = some n ∧ s.behind o = false ∧ s.insertAt op = none ∧ s.queueTurn o.block = some o.fn) ∧
    (∃ (s v : State) (p k : Fin 8), s.visits p.val k.val = true ∧ (v =
      { s with plan := { s.plan with turn := tset 0 (p.val) ((k.val + 1) % 8) s.plan.turn } }) ∧ (List.find? (fun e => e.1 == 8 * p.val
      + k.val) s.plan.ctxs = none)) ∧
    (∃ (s v : State) (p k : Fin 8) (c : Ctx), s.visits p.val k.val = true ∧ (v =
      { s with plan := { s.plan with turn := tset 0 (p.val) ((k.val + 1) % 8) s.plan.turn } }) ∧ (List.find? (fun e => e.1 == 8 * p.val
      + k.val) s.plan.ctxs = some (8 * p.val + k.val, c)) ∧ c.slot + 1 < c.swage.info.slots ∧ c.faulted = false) ∧
    (∃ (s v : State) (p k : Fin 8) (c : Ctx), s.visits p.val k.val = true ∧ (v =
      { s with plan := { s.plan with turn := tset 0 (p.val) ((k.val + 1) % 8) s.plan.turn } }) ∧ (List.find? (fun e => e.1 == 8 * p.val
      + k.val) s.plan.ctxs = some (8 * p.val + k.val, c)) ∧ c.slot + 1 < c.swage.info.slots ∧ c.faulted = true) ∧
    (∃ (s v : State) (p k : Fin 8) (c : Ctx), s.visits p.val k.val = true ∧ (v =
      { s with plan := { s.plan with turn := tset 0 (p.val) ((k.val + 1) % 8) s.plan.turn } }) ∧ (List.find? (fun e => e.1 == 8 * p.val
      + k.val) s.plan.ctxs = some (8 * p.val + k.val, c)) ∧ c.swage.info.slots ≤ c.slot + 1 ∧ c.faulted = false) ∧
    (∃ (s : State) (p k : Fin 8), s.visits p.val k.val = false) ∧
    (∃ (s : State) (c : Ctx) (o : Op), s.opOf c.op = some o ∧ errStatus (ctxEnd c s.free).err (ctxEnd c s.free).slot (ctxEnd c
      s.free).off c.swage.declared = none) ∧
    (∃ (s : State) (c : Ctx) (o : Op) (st d : ℕ), s.opOf c.op = some o ∧ errStatus (ctxEnd c s.free).err (ctxEnd c s.free).slot (ctxEnd
      c s.free).off c.swage.declared = some (st, d)) ∧
    (∃ (s u : State) (op : ℕ) (o : Op) (dma : Dma) (w : Swage), s.opOf op = some o ∧ o.opcode = 769 ∧ o.stage = Stage.channel ∧
      s.benchServes = true ∧ s.mayStart o = true ∧ check7 o.desc dma (dDlen o.desc) 0 = none ∧ u = State.hasRead o dma s ∧
      s.life.ownerHash ≠ none ∧ s.recipeFault (opData o dma) = none ∧ compile (opData o dma) = Except.ok w ∧ w.info.slots ≤ u.swageFree)
      ∧
    (∃ (s u : State) (op : ℕ) (o : Op) (dma : Dma) (w : Swage), s.opOf op = some o ∧ o.opcode = 769 ∧ o.stage = Stage.channel ∧
      s.benchServes = true ∧ s.mayStart o = true ∧ check7 o.desc dma (dDlen o.desc) 0 = none ∧ u = State.hasRead o dma s ∧
      s.life.ownerHash ≠ none ∧ s.recipeFault (opData o dma) = none ∧ compile (opData o dma) = Except.ok w ∧ u.swageFree < w.info.slots)
      ∧
    (∃ (s u : State) (op : ℕ) (o : Op) (dma : Dma) (f : ℕ × Refused), s.opOf op = some o ∧ o.opcode = 769 ∧ o.stage = Stage.channel ∧
      s.benchServes = true ∧ s.mayStart o = true ∧ check7 o.desc dma (dDlen o.desc) 0 = none ∧ u = State.hasRead o dma s ∧
      s.life.ownerHash ≠ none ∧ s.recipeFault (opData o dma) = some f) ∧
    (∃ (s u : State) (op : ℕ) (o : Op) (dma : Dma) (f : ℕ × Refused), s.opOf op = some o ∧ o.opcode = 769 ∧ o.stage = Stage.channel ∧
      s.benchServes = true ∧ s.mayStart o = true ∧ check7 o.desc dma (dDlen o.desc) 0 = none ∧ u = State.hasRead o dma s ∧
      s.life.ownerHash ≠ none ∧ s.recipeFault (opData o dma) = none ∧ compile (opData o dma) = Except.error f) ∧
    (∃ (s u : State) (op : ℕ) (o : Op) (dma : Dma), s.opOf op = some o ∧ o.opcode = 769 ∧ o.stage = Stage.channel ∧ s.benchServes = true
      ∧ s.mayStart o = true ∧ check7 o.desc dma (dDlen o.desc) 0 = none ∧ u = State.hasRead o dma s ∧ s.life.ownerHash = none) ∧
    (∃ (s : State) (op : ℕ) (o : Op), s.opOf op = some o) ∧
    (∃ (w : Swage) (id : ℕ), w ≠ { } ∧ id ≠ w.plan) ∧
    (∃ (s : State) (op : ℕ) (o : Op) (id : ℕ), s.opOf op = some o ∧ o.opcode = 770 ∧ o.stage = Stage.channel ∧ s.benchServes = true ∧
      s.mayStart o = true ∧ id = dPlan o.desc ∧ 512 ≤ id ∧ s.swageOf id ≠ none) ∧
    (∃ (s : State) (op : ℕ) (o : Op) (id : ℕ), s.opOf op = some o ∧ o.opcode = 770 ∧ o.stage = Stage.channel ∧ s.benchServes = true ∧
      s.mayStart o = true ∧ id = dPlan o.desc ∧ (id < 512 ∨ s.swageOf id = none)) ∧
    (∃ (s : State), twf { } s.plan.swages = true) :=
  ⟨⟨holding (planOp .block), 1, planOp .block, cust, {}, _, by
      refine ⟨(by and_intros <;> decide +kernel), rfl, ?_, ?_, ?_, ?_, ?_, ?_,
        (by rw [show roleSlots (planOp .block) cust.info.roles = [] from by decide +kernel]; simp), rfl⟩ <;> decide +kernel⟩,
   ⟨looked (some 3), 1, planOp .block 1, cust 1, (1, some 3), 3, ⟨(by and_intros <;> decide +kernel), rfl, by decide +kernel,
     by decide +kernel, by decide +kernel, rfl, rfl⟩⟩,
   ⟨looked none, 1, planOp .block 1, cust 1, (1, none), ⟨(by and_intros <;> decide +kernel), rfl, by decide +kernel, by decide +kernel,
     by decide +kernel, rfl, rfl⟩⟩,
   ⟨rndSt, 1, rndOp, custR, _, ⟨(by and_intros <;> decide +kernel), rfl, by decide +kernel, by decide +kernel,
     (by unfold State.DrawsNow State.Turn; and_intros <;> decide +kernel), rfl⟩⟩,
   ⟨ctxReady, 1, planOp .context, { op := 1, swage := cust }, 0, by and_intros <;> decide +kernel⟩,
   ⟨up, _, 0, 0, ⟨by decide +kernel, rfl, by decide +kernel⟩⟩,
   ⟨inCtx { swage := cust2 }, _, 0, 0, { swage := cust2 }, ⟨by decide +kernel, rfl, rfl, by decide +kernel, by decide +kernel⟩⟩,
   ⟨inCtx { swage := cust2, faulted := true }, _, 0, 0, { swage := cust2, faulted := true }, ⟨by decide +kernel, rfl, rfl,
     by decide +kernel, by decide +kernel⟩⟩,
   ⟨inCtx { swage := cust }, _, 0, 0, { swage := cust }, ⟨by decide +kernel, rfl, rfl, by decide +kernel, by decide +kernel⟩⟩,
   ⟨inCtx {}, 0, 1, by decide +kernel⟩,
   ⟨inCtx {}, { op := 1, swage := cust }, planOp .context, ⟨rfl, rfl⟩⟩,
   ⟨inCtx {}, { op := 1, swage := cust, err := 1 }, planOp .context, _, _, ⟨rfl, rfl⟩⟩,
   ⟨recipeSt, _, 1, loadRecipe, { src := recipe }, _, by
       refine ⟨?_, ?_, ?_, ?_, ?_, ?_, rfl, ?_, ?_, ge _ {} (by decide +kernel), ?_⟩ <;> decide +kernel⟩,
   ⟨fullSt, _, 1, loadRecipe, { src := recipe }, _, by
       refine ⟨?_, ?_, ?_, ?_, ?_, ?_, rfl, ?_, ?_, ge _ {} (by decide +kernel), ?_⟩ <;> decide +kernel⟩,
   ⟨recipeSt, _, 1, loadRecipe, {}, _, by
       refine ⟨?_, ?_, ?_, ?_, ?_, ?_, rfl, ?_, gd _ (0, .signature) (by decide +kernel)⟩ <;> decide +kernel⟩,
   ⟨badRecipeSt, _, 1, loadRecipe, { src := badRecipe }, _, by
       refine ⟨?_, ?_, ?_, ?_, ?_, ?_, rfl, ?_, ?_, er _ (0, .field) badRecipe_fault⟩ <;> decide +kernel⟩,
   ⟨{ recipeSt with life := {} }, _, 1, loadRecipe, {}, by
       refine ⟨?_, ?_, ?_, ?_, ?_, ?_, rfl, ?_⟩ <;> decide +kernel⟩,
   ⟨holding (planOp .context), 1, planOp .context, by decide +kernel⟩,
   ⟨cust, 513, by and_intros <;> decide +kernel⟩,
   ⟨benchSt (job .channel (desc 0x0302 (plan := 512))), 1, job .channel (desc 0x0302 (plan := 512)), 512,
     by and_intros <;> decide +kernel⟩,
   ⟨benchSt (job .channel (desc 0x0302)), 1, job .channel (desc 0x0302), 0, by and_intros <;> decide +kernel⟩,
   ⟨{}, by decide +kernel⟩⟩

theorem witness_Tries :
    (∃ (s : State) (p : ℕ) (o : Op), ((roundRobin 8 (tget 7 s.engine.rrLast 17) fun p => (List.filter s.wantsLookup s.engine.tasks).any
      fun o => o.pipeline == p) = some p) ∧ (List.find? (fun o => o.pipeline == p) (List.filter s.wantsLookup s.engine.tasks) = some o)
      ∧ (s.blockOf 17).out = false ∧ s.powered 28 = true) ∧
    (∃ (s : State) (p : ℕ) (o : Op), ((roundRobin 8 (tget 7 s.engine.rrLast 17) fun p => (List.filter s.wantsLookup s.engine.tasks).any
      fun o => o.pipeline == p) = some p) ∧ (List.find? (fun o => o.pipeline == p) (List.filter s.wantsLookup s.engine.tasks) = some o)
      ∧ (s.blockOf 17).out = true) ∧
    (∃ (s : State) (l : List (BitVec 128)), s.pfOpen = true ∧ s.routing.busy = false ∧ s.worlds.bench.status = 1 ∧ (s.tenantOf
      s.routing.buildTen).live = true ∧ (s.buildFault s.routing.buildFam s.routing.buildTen (List.map (fun i => l.getD i 0) (List.range
      s.routing.buildCount)) = none)) ∧
    (∃ (s : State) (l : List (BitVec 128)) (c e : ℕ), s.pfOpen = true ∧ s.routing.busy = false ∧ s.worlds.bench.status = 1 ∧ (s.tenantOf
      s.routing.buildTen).live = true ∧ (s.buildFault s.routing.buildFam s.routing.buildTen (List.map (fun i => l.getD i 0) (List.range
      s.routing.buildCount)) = some (c, e))) ∧
    (∃ (s : State), s.pfOpen = true ∧ s.routing.busy = true) ∧
    (∃ (s : State), s.pfOpen = true ∧ s.routing.busy = false ∧ s.worlds.bench.status = 2) ∧
    (∃ (s : State), s.pfOpen = true ∧ s.routing.busy = false ∧ s.worlds.bench.status = 3) ∧
    (∃ (s : State), s.pfOpen = true ∧ s.routing.busy = false ∧ s.worlds.bench.status = 1 ∧ (s.tenantOf s.routing.buildTen).live = false)
      ∧
    (∃ (s : State), s.pfOpen = true ∧ s.routing.busy = false ∧ s.worlds.bench.status = 1 ∧ (s.tenantOf s.routing.buildTen).live = true)
      ∧
    (∃ (s : State) (k : ℕ) (new : List Route), s.routing.built = some (k, new) ∧ s.worlds.bench.status = 1 ∧ (s.tenantOf (k %
      4096)).live = true ∧ twf [] s.routing.tries = true) ∧
    (∃ (s : State) (k : ℕ) (new : List Route), s.routing.built = some (k, new) ∧ s.worlds.bench.status = 1 ∧ (s.tenantOf (k %
      4096)).live = false) ∧
    (∃ (ident : BitVec 64) (rs : List Route) (i : ℕ) (r x : Route), longest ident 0 rs = some (i, r) ∧ x ∈ rs ∧ x.covers ident = true)
      :=
  ⟨⟨holding { planOp .block 1 with pblk := some [] }, 0, { planOp .block 1 with pblk := some [] }, by and_intros <;> decide +kernel⟩,
   ⟨lookSt, 0, lookOp, by and_intros <;> decide +kernel⟩,
   ⟨{ sealer with routing := { buildCount := 0 } }, [], by and_intros <;> decide +kernel⟩,
   ⟨{ sealer with routing := { buildCount := 1 } }, [], _, _, by
       refine ⟨?_, ?_, ?_, ?_, gd _ (0, 0) (by decide +kernel)⟩ <;> decide +kernel⟩,
   ⟨{ up with routing := { busy := true } }, by and_intros <;> decide +kernel⟩,
   ⟨{ up with worlds := { bench := { status := 2 } } }, by and_intros <;> decide +kernel⟩,
   ⟨{ up with worlds := { bench := { status := 3 } } }, by and_intros <;> decide +kernel⟩,
   ⟨up, by and_intros <;> decide +kernel⟩,
   ⟨sealer, by and_intros <;> decide +kernel⟩,
   ⟨{ sealer with routing := { built := some (0, []) } }, 0, [], by and_intros <;> decide +kernel⟩,
   ⟨{ up with routing := { built := some (0, []) } }, 0, [], by and_intros <;> decide +kernel⟩,
   ⟨0, [{ plen := 8 }], 0, { plen := 8 }, { plen := 8 }, by and_intros <;> decide +kernel⟩⟩

theorem witness_LearnedTerminals :
    (∃ (s : State) (op p : ℕ) (e : TermEnt) (x : ℕ), s.insertAt op = some p ∧ (List.find? (fun e => e.1 == op) (s.termOf p).pending =
      some (x, e))) ∧
    (∃ (t : Machine.Term) (cap : ℕ) (e : TermEnt) (w : ℕ), t.rehashing = false ∧ (List.filter (ofTenant (e.tag.toNat % 4096))
      t.live).length < cap ∧ (∀ x ∈ t.live, ¬(x.bucket = bucketOf t.seed e.tag e.ident ∧ x.tag = e.tag ∧ x.ident = e.ident)) ∧ freeWay
      t.live (bucketOf t.seed e.tag e.ident) = some w) ∧
    (∃ (t : Machine.Term) (cap : ℕ) (e : TermEnt), t.rehashing = false ∧ (List.filter (ofTenant (e.tag.toNat % 4096)) t.live).length <
      cap ∧ (∀ x ∈ t.live, ¬(x.bucket = bucketOf t.seed e.tag e.ident ∧ x.tag = e.tag ∧ x.ident = e.ident)) ∧ freeWay t.live (bucketOf
      t.seed e.tag e.ident) = none) ∧
    (∃ (t : Machine.Term), t.rehashing = true) ∧
    (∃ (t : Machine.Term) (cap : ℕ) (e : TermEnt), t.rehashing = false ∧ cap ≤ (List.filter (ofTenant (e.tag.toNat % 4096))
      t.live).length) ∧
    (∃ (s : State) (p : Fin 8), (s.termOf p.val).rehashing = false) ∧
    (∃ (e : TermEnt), e.hit = true) ∧
    (∃ (e : TermEnt), e.hit = false ∧ e.aged = true) ∧
    (∃ (e : TermEnt), e.hit = false ∧ e.aged = false) ∧
    (∃ (s : State) (p : Fin 8), (s.termOf p.val).request = true ∧ (s.termOf p.val).rehashing = false ∧ s.worlds.bench.status = 1 ∧
      s.worlds.vaultUp = true ∧ s.rehashAdmitted (s.termOf p.val) = true ∧ (s.termOf p.val).drawn = none ∧ s.bellows.state = BState.ok ∧
      s.waitsSeed (Asker.rehash p.val) = false) ∧
    (∃ (s : State) (p : Fin 8) (b : List (BitVec 8)), (s.termOf p.val).request = true ∧ (s.termOf p.val).rehashing = false ∧
      s.worlds.bench.status = 1 ∧ s.worlds.vaultUp = true ∧ s.rehashAdmitted (s.termOf p.val) = true ∧ (s.termOf p.val).drawn = some b)
      ∧
    (∃ (s : State) (p : Fin 8), (s.termOf p.val).request = true ∧ (s.termOf p.val).rehashing = false ∧ s.worlds.bench.status = 1 ∧
      s.worlds.vaultUp = true ∧ s.rehashAdmitted (s.termOf p.val) = false ∧ twf { } s.routing.terms = true) ∧
    (∃ (s : State) (p : Fin 8), (s.termOf p.val).rehashing = true) ∧
    (∃ (s : State), s.pfOpen = true ∧ twf { } s.routing.terms = true) ∧
    (∃ (s : State) (p : Fin 8), s.pfOpen = true ∧ (s.termOf p.val).rehashing = false) ∧
    (∃ (s : State), s.pfOpen = true ∧ s.routing.flushBusy = false) ∧
    (∃ (s : State), s.routing.flushBusy = true ∧ twf { } s.routing.terms = true) :=
  ⟨⟨term { pending := [(1, {})] }, 1, 0, {}, 1, by and_intros <;> decide +kernel⟩,
   ⟨{}, 1, {}, 0, by and_intros <;> decide +kernel⟩,
   ⟨{ live := (List.range 4).map fun w => { bucket := bucketOf 0 0 0, way := w, tag := BitVec.ofNat 16 (w + 1) } }, 5, {},
     by and_intros <;> decide +kernel⟩,
   ⟨{ rehashing := true }, by decide +kernel⟩,
   ⟨{}, 0, {}, by and_intros <;> decide +kernel⟩,
   ⟨{}, 0, by decide +kernel⟩,
   ⟨{ hit := true }, by decide +kernel⟩,
   ⟨{ aged := true }, by and_intros <;> decide +kernel⟩,
   ⟨{}, by and_intros <;> decide +kernel⟩,
   ⟨term { request := true }, 0, by and_intros <;> decide +kernel⟩,
   ⟨term { request := true, drawn := some [1] }, 0, [1], by and_intros <;> decide +kernel⟩,
   ⟨{ term { request := true } with bellows := { state := .failed } }, 0, by and_intros <;> decide +kernel⟩,
   ⟨term { rehashing := true }, 0, by decide +kernel⟩,
   ⟨up, by and_intros <;> decide +kernel⟩,
   ⟨up, 0, by and_intros <;> decide +kernel⟩,
   ⟨up, by and_intros <;> decide +kernel⟩,
   ⟨{ routing := { flushBusy := true } }, by and_intros <;> decide +kernel⟩⟩

theorem witness_CeremonySteps :
    (∃ (s : State) (b : Bytes) (kind n : ℕ), s.serves 64 = true ∧ b = s.mbxBody ∧ kind = BitVec.toNat (byteAt b 0) ∧ n = leAt b 2 2 ∧
      s.vault.cer = none ∧ 1 ≤ kind ∧ kind ≤ 7 ∧ s.cerState kind (BitVec.toNat (byteAt b 4)) = true ∧ byteAt b 1 = 0 ∧ n < 4096 ∧
      s.cerParams b kind n = none ∧ (kind = 3 → s.exportFault b n = none) ∧ s.bellows.given = none ∧ s.bellows.state = BState.ok ∧
      s.waitsSeed Asker.hearth = false) ∧
    (∃ (s : State) (b : Bytes) (kind n : ℕ) (r : List (BitVec 8)), s.serves 64 = true ∧ b = s.mbxBody ∧ kind = BitVec.toNat (byteAt b 0)
      ∧ n = leAt b 2 2 ∧ s.vault.cer = none ∧ 1 ≤ kind ∧ kind ≤ 7 ∧ s.cerState kind (BitVec.toNat (byteAt b 4)) = true ∧ byteAt b 1 = 0
      ∧ n < 4096 ∧ s.cerParams b kind n = none ∧ (kind = 3 → s.exportFault b n = none) ∧ s.bellows.given = some r ∧ s.HearthUnit) ∧
    (∃ (s : State), s.serves 64 = true ∧ s.vault.cer.isSome = true) ∧
    (∃ (s : State) (c : Ceremony) (b : Bytes), s.serves 65 = true ∧ b = s.mbxBody ∧ s.namedCer = some c ∧ s.cards.session = none ∧
      s.cerState c.kind (c.at_ 4 1) = true ∧ leAt b 8 4 = c.nextStep.toNat ∧ stepFault b = none ∧ s.bellows.given = none ∧
      s.bellows.state = BState.ok ∧ s.waitsSeed Asker.hearth = false) ∧
    (∃ (s : State) (c : Ceremony) (b : Bytes) (r : List (BitVec 8)), s.serves 65 = true ∧ b = s.mbxBody ∧ s.namedCer = some c ∧
      s.cards.session = none ∧ s.cerState c.kind (c.at_ 4 1) = true ∧ leAt b 8 4 = c.nextStep.toNat ∧ stepFault b = none ∧
      s.bellows.given = some r ∧ s.HearthUnit) ∧
    (∃ (s : State) (c : Ceremony) (b : Bytes) (f : ℕ), s.serves 65 = true ∧ b = s.mbxBody ∧ s.namedCer = some c ∧ s.cards.session = none
      ∧ s.cerState c.kind (c.at_ 4 1) = true ∧ leAt b 8 4 = c.nextStep.toNat ∧ stepFault b = some f) ∧
    (∃ (s : State) (c : Ceremony) (b : Bytes), s.serves 65 = true ∧ b = s.mbxBody ∧ s.namedCer = some c ∧ s.cards.session = none ∧
      s.cerState c.kind (c.at_ 4 1) = true ∧ leAt b 8 4 ≠ c.nextStep.toNat) ∧
    (∃ (s : State) (c : Ceremony), s.serves 67 = true ∧ s.namedCer = some c ∧ s.cerState c.kind (c.at_ 4 1) = true) ∧
    (∃ (s : State) (c : Ceremony), s.vault.cer = some c ∧ c.windowOn = true) ∧
    (∃ (s : State) (c : Ceremony), s.vault.cer = some c ∧ c.windowOn = false) ∧
    (∃ (s : State) (c : Ceremony), s.vault.cer = some c ∧ c.cstate = 1) ∧
    (∃ (s : State) (c : Ceremony), s.vault.cer = some c ∧ c.cstate ≠ 1) ∧
    (∃ (s : State), s.serves 68 = true ∧ s.vault.cer = none) ∧
    (∃ (s : State) (c : Ceremony), s.serves 68 = true ∧ s.vault.cer = some c) ∧
    (∃ (s : State), s.serves 69 = true ∧ s.chip.state ≠ ChipState.quenched ∧ leAt s.mbxBody 0 2 < 4096) ∧
    (∃ (s : State), s.serves 69 = true ∧ s.chip.state ≠ ChipState.quenched ∧ 4096 ≤ leAt s.mbxBody 0 2) ∧
    (∃ (s : State), s.serves 69 = true ∧ s.chip.state = ChipState.quenched) :=
  ⟨⟨asked 0x40 [7, 0, 0, 0, 6], _, 7, 0, ⟨by decide +kernel, rfl, by and_intros <;> decide +kernel⟩⟩,
   ⟨gave [1] (asked 0x40 [7, 0, 0, 0, 6]), _, 7, 0, [1], by
       refine ⟨?_, rfl, ?_, ?_, ?_, ?_, ?_, ?_, ?_, ?_, ?_, ?_, ?_, (by unfold State.HearthUnit; decide +kernel)⟩ <;> decide +kernel⟩,
   ⟨cerOf (asked 0x40 []) {}, by and_intros <;> decide +kernel⟩,
   ⟨cerOf (asked 0x41 (cerBody 1)) { id := 1, kind := 2 }, { id := 1, kind := 2 }, _, ⟨by decide +kernel, rfl,
     by and_intros <;> decide +kernel⟩⟩,
   ⟨gave [1] (cerOf (asked 0x41 (cerBody 1)) { id := 1, kind := 2 }), { id := 1, kind := 2 }, _, [1], by
       refine ⟨?_, rfl, ?_, ?_, ?_, ?_, ?_, ?_, (by unfold State.HearthUnit; decide +kernel)⟩ <;> decide +kernel⟩,
   ⟨cerOf (asked 0x41 (leBytes 4 1 ++ [255, 255, 255, 255] ++ leBytes 4 1)) { id := 1, kind := 2 }, { id := 1, kind := 2 }, _, _, by
       refine ⟨?_, rfl, ?_, ?_, ?_, ?_, gd _ 0 (by decide +kernel)⟩ <;> decide +kernel⟩,
   ⟨cerOf (asked 0x41 (cerBody 2)) { id := 1, kind := 2 }, { id := 1, kind := 2 }, _, ⟨by decide +kernel, rfl,
     by and_intros <;> decide +kernel⟩⟩,
   ⟨cerOf (asked 0x43 (cerBody 1)) { id := 1, kind := 2 }, { id := 1, kind := 2 }, by and_intros <;> decide +kernel⟩,
   ⟨cerOf up { windowOn := true }, { windowOn := true }, by and_intros <;> decide +kernel⟩,
   ⟨cerOf up {}, {}, by and_intros <;> decide +kernel⟩,
   ⟨cerOf up {}, {}, by and_intros <;> decide +kernel⟩,
   ⟨cerOf up { cstate := 2 }, { cstate := 2 }, by and_intros <;> decide +kernel⟩,
   ⟨asked 0x44 [], by and_intros <;> decide +kernel⟩,
   ⟨cerOf (asked 0x44 []) {}, {}, by and_intros <;> decide +kernel⟩,
   ⟨asked 0x45 [0, 0], by and_intros <;> decide +kernel⟩,
   ⟨asked 0x45 [0, 16], by and_intros <;> decide +kernel⟩,
   ⟨{ asked 0x45 [0, 0] with chip := { up.chip with state := .quenched } }, by and_intros <;> decide +kernel⟩⟩

theorem witness_CeremonyCommitsAndAttestation :
    (∃ (s : State) (c : Ceremony) (role n : ℕ), s.serves 66 = true ∧ s.namedCer = some c ∧ s.cerState c.kind (c.at_ 4 1) = true ∧
      c.short = some (role, n)) ∧
    (∃ (s : State) (c : Ceremony), s.serves 66 = true ∧ s.namedCer = some c ∧ s.cerState c.kind (c.at_ 4 1) = true ∧ c.short = none) ∧
    (∃ (s : State) (c : Ceremony), c.kind = 4 ∧ s.persists 2 true = false) ∧
    (∃ (s : State) (c : Ceremony) (g r : Bytes) (n : ℕ), c.kind = 6 ∧ s.persists 3 false = false ∧ s.bellows.given = some g ∧ r =
      List.take 96 g ∧ s.crucible.drk = 0 ∧ s.crucible.maskSeed = 0 ∧ s.crucible.drkCheck = 0 ∧ n ≠ 0) ∧
    (∃ (s : State) (c : Ceremony) (r : Bytes), c.kind = 6 ∧ s.bellows.given = some r ∧ (s.crucible.drk ≠ 0 ∨ s.crucible.maskSeed ≠ 0 ∨
      s.crucible.drkCheck ≠ 0)) ∧
    (∃ (s : State) (r : Bytes), s.serves 72 = true ∧ (s.chip.state = ChipState.ready ∨ s.chip.state = ChipState.locked ∨ s.chip.state =
      ChipState.quenched) ∧ r = s.report96 (List.take 32 s.mbxBody)) ∧
    (∃ (s v : State) (op : ℕ) (o : Op) (dma : Dma) (n r out : Bytes), s.Serving op 1552 o ∧ check7 o.desc dma 0 3501 = none ∧ o.seed =
      some n ∧ s.HearthUnit ∧ v = State.used op (State.drewBlind shareBytes (State.drewBlind shareBytes (State.hasRead o dma s))) ∧ r =
      s.report96 (opParams o dma) ∧ out = r ++ p384Sign s.signKeyEc (List.take 48 n) r ++ Mldsa.sign 65 (Mldsa.keygen 65 (fit 32
      (s.unwrapped s.trims.signMl))).2 [] r (List.drop 48 n)) ∧
    (∃ (s : State) (op : ℕ) (o : Op) (dma : Dma) (c : Bytes), s.Serving op 1553 o ∧ check7 o.desc dma 0 8192 = none ∧ c = tget []
      s.trims.certs (2 * (dPlan o.desc % 2) + dPlan o.desc / 2 % 4)) :=
  ⟨⟨cerOf (asked 0x42 (cerBody 1)) { id := 1, kind := 2, need := [(3, 2)] }, { id := 1, kind := 2, need := [(3, 2)] }, 3, 2,
    by and_intros <;> decide +kernel⟩,
   ⟨cerOf (asked 0x42 (cerBody 1)) { id := 1, kind := 2 }, { id := 1, kind := 2 }, by and_intros <;> decide +kernel⟩,
   ⟨asked 0x42 [], { kind := 4 }, by and_intros <;> decide +kernel⟩,
   ⟨gave [1] up, { kind := 6 }, [1], _, 2, ⟨by decide +kernel, by decide +kernel, by decide +kernel, rfl,
     by and_intros <;> decide +kernel⟩⟩,
   ⟨{ gave [1] up with crucible := { drk := 1 } }, { kind := 6 }, [1], by and_intros <;> decide +kernel⟩,
   ⟨asked 0x48 [], _, ⟨by decide +kernel, .inl rfl, rfl⟩⟩,
   ⟨rackSt { rackOp (desc 0x0610 (flags := 4) (param := 1)) with seed := some [1] }, _, 1,
     { rackOp (desc 0x0610 (flags := 4) (param := 1)) with seed := some [1] }, {}, [1], _, _,
     ⟨(by unfold State.Serving; and_intros <;> decide +kernel), by decide +kernel, rfl, (by unfold State.HearthUnit; decide +kernel),
     rfl, rfl, rfl⟩⟩,
   ⟨rackSt (rackOp (desc 0x0611)), 1, rackOp (desc 0x0611), {}, _, ⟨(by unfold State.Serving; and_intros <;> decide +kernel),
     by decide +kernel, rfl⟩⟩⟩

theorem witness_LifeCycleAndDebug :
    (∃ (s : State) (n : BitVec 8) (bit : ℕ), s.lcAdmits true n.toNat = some bit) ∧
    (∃ (s : State) (n : BitVec 8), s.lcAdmits true n.toNat = none) ∧
    (∃ (s : State) (bit : ℕ), s.serves 17 = true ∧ s.lifeCode ≠ 6 ∧ s.lcAdmits false (BitVec.toNat (byteAt s.mbxBody 0)) = some bit) ∧
    (∃ (s : State), s.serves 17 = true ∧ s.lifeCode ≠ 6 ∧ s.lcAdmits false (BitVec.toNat (byteAt s.mbxBody 0)) = none) ∧
    (∃ (s : State) (n : BitVec 8) (v : BitVec 256), s.tokenOk n.toNat (beBytes 32 v.toNat) = true) ∧
    (∃ (s : State) (n : BitVec 8) (v : BitVec 256), s.tokenOk n.toNat (beBytes 32 v.toNat) = false) ∧
    (∃ (s : State) (n : ℕ), 3 ≤ n ∧ n ≤ 6 ∧ s.tamper.quench = false ∧ n = 6) ∧
    (∃ (s : State) (n : ℕ), n < 8 ∧ s.tamper.quench = false) ∧
    (∃ (s : State), s.scanOk = true) ∧
    (∃ (s : State), s.scanOk = false) ∧
    (∃ (s : State) (m : BitVec 32) (g r : List (BitVec 8)), 3 ≤ s.lifeCode ∧ s.lifeCode ≠ 6 ∧ s.life.authFails < 8 ∧ m &&&
      ~~~s.scopeAdmitted = 0 ∧ s.bellows.given = some g ∧ r = List.take 32 g ∧ s.serves 18 = true ∧ m = BitVec.ofNat 32 (leAt s.mbxBody
      0 4)) ∧
    (∃ (s : State) (m : BitVec 32), 3 ≤ s.lifeCode ∧ s.lifeCode ≠ 6 ∧ s.life.authFails < 8 ∧ m &&& ~~~s.scopeAdmitted = 0 ∧
      s.bellows.given = none ∧ s.bellows.state = BState.ok ∧ s.waitsSeed Asker.hearth = false) ∧
    (∃ (s : State) (m : BitVec 32), m &&& ~~~s.scopeAdmitted ≠ 0 ∧ s.serves 18 = true ∧ s.lifeCode ≠ 6 ∧ m = BitVec.ofNat 32 (leAt
      s.mbxBody 0 4)) ∧
    (∃ (s : State) (n : BitVec 256) (m : BitVec 32) (v : BitVec 384), s.life.nonce = some (n, m) ∧ beBytes 48 v.toNat = s.authCode n m ∧
      m.getLsbD 4 = false) ∧
    (∃ (s : State) (n : BitVec 256) (m : BitVec 32) (v : BitVec 384), s.life.nonce = some (n, m) ∧ beBytes 48 v.toNat = s.authCode n m ∧
      m.getLsbD 4 = true ∧ s.vault.lcTarget = some 5 ∧ s.lifeCode = 4) ∧
    (∃ (s : State) (n : BitVec 256) (m : BitVec 32), s.serves 19 = true ∧ s.lifeCode ≠ 6 ∧ s.life.nonce = some (n, m) ∧ List.take 48
      s.mbxBody = s.authCode n m ∧ m.getLsbD 4 = false) ∧
    (∃ (s : State) (n : BitVec 256) (m : BitVec 32) (v : BitVec 384), s.life.nonce = some (n, m) ∧ beBytes 48 v.toNat ≠ s.authCode n m)
      ∧
    (∃ (s : State), s.serves 16 = true) :=
  ⟨⟨life up { stage := 1, tokenUsed := 1 }, 1, 0, by decide +kernel⟩,
   ⟨up, 2, by decide +kernel⟩,
   ⟨asked 0x11 [4], 0, by and_intros <;> decide +kernel⟩,
   ⟨asked 0x11 [2], by and_intros <;> decide +kernel⟩,
   ⟨life up token, 0, 5, by decide +kernel⟩,
   ⟨up, 0, 5, by decide +kernel⟩,
   ⟨up, 6, by and_intros <;> decide +kernel⟩,
   ⟨up, 3, by and_intros <;> decide +kernel⟩,
   ⟨life up { stage := 1 }, by decide +kernel⟩,
   ⟨up, by decide +kernel⟩,
   ⟨gave [1] (asked 0x12 [3, 0, 0, 0]), 3, [1], _, by
       refine ⟨?_, ?_, ?_, ?_, ?_, rfl, ?_, ?_⟩ <;> decide +kernel⟩,
   ⟨up, 3, by and_intros <;> decide +kernel⟩,
   ⟨asked 0x12 [255, 255, 255, 255], 0xFFFFFFFF, by and_intros <;> decide +kernel⟩,
   ⟨nonced, 9, 1, BitVec.ofNat 384 (beNat (nonced.authCode 9 1)), by and_intros <;> decide +kernel⟩,
   ⟨owned, 9, 16, BitVec.ofNat 384 (beNat (owned.authCode 9 16)), by and_intros <;> decide +kernel⟩,
   ⟨proven, 9, 1, by and_intros <;> decide +kernel⟩,
   ⟨nonced, 9, 1, 0, by and_intros <;> decide +kernel⟩,
   ⟨asked 0x10 [], by decide +kernel⟩⟩

theorem witness_ImagesAndOwner :
    (∃ (s : State) (k : ℕ), s.serves 24 = true ∧ s.lifeCode ≠ 6 ∧ s.chip.state ≠ ChipState.start ∧ s.life.transfer = none ∧ BitVec.toNat
      (byteAt s.mbxBody 0) = k + 1 ∧ k < 3 ∧ byteAt s.mbxBody 1 = 0 ∧ byteAt s.mbxBody 2 = 0 ∧ byteAt s.mbxBody 3 = 0 ∧ leAt s.mbxBody 4
      4 ≤ slotSize k) ∧
    (∃ (s : State) (k slot len next n : ℕ), s.serves 25 = true ∧ s.lifeCode ≠ 6 ∧ s.life.transfer = some (k, slot, len, next) ∧ n = min
      240 s.mbxLen - 4 ∧ leAt s.mbxBody 0 4 = next ∧ n ≤ 224 ∧ next + n ≤ len) ∧
    (∃ (s : State) (k slot len next : ℕ), s.serves 26 = true ∧ s.lifeCode ≠ 6 ∧ s.life.transfer = some (k, slot, len, next) ∧ len ≤ next
      ∧ s.HearthUnit ∧ s.imageFault k (s.lifeCode == 2) (s.imageAt k slot) = 0) ∧
    (∃ (s : State) (k slot len next : ℕ), s.serves 26 = true ∧ s.lifeCode ≠ 6 ∧ s.life.transfer = some (k, slot, len, next) ∧ len ≤ next
      ∧ s.HearthUnit ∧ s.imageFault k (s.lifeCode == 2) (s.imageAt k slot) ≠ 0) ∧
    (∃ (s : State), s.serves 20 = true ∧ (s.lifeCode = 3 ∨ s.lifeCode = 4 ∧ s.crucible.rootGen = 0) ∧ s.life.ownerHash = none ∧
      (Ecc.p384.decode (List.take 97 s.mbxBody)).isSome = true) ∧
    (∃ (s : State), s.serves 20 = true ∧ s.lifeCode ≠ 6 ∧ s.life.ownerHash ≠ none) ∧
    (∃ (s : State), s.serves 27 = true ∧ s.lifeCode ≠ 6 ∧ s.chip.state ≠ ChipState.start ∧ s.tamper.quench = false) :=
  ⟨⟨asked 0x18 [2, 0, 0, 0, 0, 0, 0x40, 0], 1, by and_intros <;> decide +kernel⟩,
   ⟨life (asked 0x19 ([7, 0, 0, 0] ++ List.replicate 9 1)) (moving 16 7 []), 1, 0, 16, 7, 9, by and_intros <;> decide +kernel⟩,
   ⟨life (asked 0x1A []) (moving 128 128 (image 1 [])), 1, 0, 128, 128, by
       refine ⟨?_, ?_, ?_, ?_, (by unfold State.HearthUnit; decide +kernel), ?_⟩ <;> decide +kernel⟩,
   ⟨life (asked 0x1A []) (moving 128 128 []), 1, 0, 128, 128, by
       refine ⟨?_, ?_, ?_, ?_, (by unfold State.HearthUnit; decide +kernel), ?_⟩ <;> decide +kernel⟩,
   ⟨life (asked 0x14 (Ecc.p384.encode Ecc.p384.g)) { stage := 2 }, by and_intros <;> decide +kernel⟩,
   ⟨asked 0x14 [], by and_intros <;> decide +kernel⟩,
   ⟨asked 0x1B [], by and_intros <;> decide +kernel⟩⟩

theorem witness_Cards :
    (∃ (s : State) (p : Fin 5), p.val < 4 ∧ (s.portOf p.val).present = false) ∧
    (∃ (s : State), s.cards.sd.present = false) ∧
    (∃ (s : State) (p : Fin 5), p.val < 4 ∧ (s.portOf p.val).present = true ∧ s.cards.session = none) ∧
    (∃ (s : State) (p : Fin 5) (x : Session) (id : ℕ) (o : Op), p.val < 4 ∧ (s.portOf p.val).present = true ∧ s.cards.session = some x ∧
      x.port = p.val ∧ x.op = some id ∧ s.opOf id = some o) ∧
    (∃ (s : State) (id : ℕ) (o : Op) (rest : List ℕ), s.cards.sd.present = true ∧ s.cards.sd.waiting = id :: rest ∧ s.opOf id = some o)
      ∧
    (∃ (s : State) (p : Fin 4) (x : Session) (b : Bytes), s.cards.session = some x ∧ x.port = p.val ∧ (s.portOf p.val).active = true ∧
      (s.portOf p.val).phase = PortPhase.waitAtr ∧ (readAtr b).ok = true ∧ (readAtr b).t1 = true ∧ (readAtr b).admits (s.portOf
      p.val).cls = true) ∧
    (∃ (s : State) (p : Fin 4) (x : Session) (b : Bytes), s.cards.session = some x ∧ x.port = p.val ∧ (s.portOf p.val).active = true ∧
      (s.portOf p.val).phase = PortPhase.waitAtr ∧ (readAtr b).ok = false) ∧
    (∃ (s : State) (p : Fin 4) (x : Session) (b : Bytes), s.cards.session = some x ∧ x.port = p.val ∧ (s.portOf p.val).active = true ∧
      (s.portOf p.val).phase = PortPhase.waitAtr ∧ (readAtr b).ok = true ∧ (readAtr b).t1 = false) ∧
    (∃ (s : State) (p : Fin 4) (x : Session) (b : Bytes) (c : ℕ), s.cards.session = some x ∧ x.port = p.val ∧ (s.portOf p.val).active =
      true ∧ (s.portOf p.val).phase = PortPhase.waitAtr ∧ (readAtr b).ok = true ∧ (readAtr b).t1 = true ∧ (readAtr b).admits (s.portOf
      p.val).cls = false ∧ s.nextClass ((s.portOf p.val).cls + 1) (readAtr b).admits = some c) ∧
    (∃ (s : State) (p : Fin 4) (x : Session) (c : ℕ), s.cards.session = some x ∧ x.port = p.val ∧ (s.portOf p.val).active = true ∧
      (s.portOf p.val).phase = PortPhase.waitAtr ∧ ((s.nextClass ((s.portOf p.val).cls + 1) fun x => true) = some c)) ∧
    (∃ (s : State) (p : Fin 4) (x : Session), s.cards.session = some x ∧ x.port = p.val ∧ (s.portOf p.val).active = true ∧ (s.portOf
      p.val).phase = PortPhase.waitAtr ∧ ((s.nextClass ((s.portOf p.val).cls + 1) fun x => true) = none)) ∧
    (∃ (s : State) (p : Fin 4) (x : Session) (b : List (BitVec 8)), s.cards.session = some x ∧ x.port = p.val ∧ (s.portOf p.val).active
      = true ∧ (s.portOf p.val).phase = PortPhase.waitPps ∧ b ≠ (s.portOf p.val).ppsReq ∧ (s.portOf p.val).ppsTried = 0) ∧
    (∃ (s : State) (p : Fin 4) (x : Session) (b : List (BitVec 8)), s.cards.session = some x ∧ x.port = p.val ∧ (s.portOf p.val).active
      = true ∧ (s.portOf p.val).phase = PortPhase.waitPps ∧ b ≠ (s.portOf p.val).ppsReq ∧ (s.portOf p.val).ppsTried ≠ 0) ∧
    (∃ (s : State) (p : Fin 4) (x : Session), s.cards.session = some x ∧ x.port = p.val ∧ (s.portOf p.val).active = true ∧ (s.portOf
      p.val).phase = PortPhase.waitBlock) ∧
    (∃ (s : State) (p : Fin 4) (x : Session), s.cards.session = some x ∧ x.port = p.val ∧ (s.portOf p.val).active = true ∧ (s.portOf
      p.val).phase = PortPhase.idle ∧ (s.portOf p.val).stopMode ≠ 0) ∧
    (∃ (s : State) (op : ℕ) (o : Op) (c : ℕ), s.opOf op = some o ∧ o.opcode = 1808 ∧ o.stage = Stage.channel ∧ s.worlds.running = some
      (Service.chan op) ∧ s.cards.session = none ∧ s.powered 27 = true ∧ (s.blockOf 20).out = false ∧ (s.portOf (dPlan o.desc %
      4)).present = true ∧ ((s.nextClass 1 fun x => true) = some c)) ∧
    (∃ (s : State) (op : ℕ) (o : Op), s.opOf op = some o ∧ o.opcode = 1808 ∧ o.stage = Stage.channel ∧ s.worlds.running = some
      (Service.chan op) ∧ s.cards.session = none ∧ s.powered 27 = true ∧ (s.blockOf 20).out = true) ∧
    (∃ (s : State) (op : ℕ) (o : Op), s.opOf op = some o ∧ o.opcode = 1808 ∧ o.stage = Stage.channel ∧ s.worlds.running = some
      (Service.chan op) ∧ s.cards.session = none ∧ s.powered 27 = true ∧ (s.blockOf 20).out = false ∧ (s.portOf (dPlan o.desc %
      4)).present = false) ∧
    (∃ (s : State) (x : Session) (id : ℕ) (d : Bytes), x.op = some id ∧ certSigned s.trims.cardCa (List.drop 12 d) = false) ∧
    (∃ (s : State) (x : Session) (id : ℕ) (d : Bytes), x.op = some id ∧ certSigned s.trims.cardCa (List.drop 12 d) = true) :=
  ⟨⟨up, 0, by and_intros <;> decide +kernel⟩,
   ⟨up, by decide +kernel⟩,
   ⟨{ up with cards := { ports := [(0, { present := true })] } }, 0, by and_intros <;> decide +kernel⟩,
   ⟨{ holding (sdOp 0x0710) with cards := { session := some { op := some 1 }, ports := [(0, { present := true })] } }, 0,
     { op := some 1 }, 1, sdOp 0x0710, by and_intros <;> decide +kernel⟩,
   ⟨sdSt 0x0703, 1, sdOp 0x0703, [], by and_intros <;> decide +kernel⟩,
   ⟨cardSt (atPhase .waitAtr), 0, {}, [0x3B, 0x80, 0x01, 0x81], by and_intros <;> decide +kernel⟩,
   ⟨cardSt (atPhase .waitAtr), 0, {}, [], by and_intros <;> decide +kernel⟩,
   ⟨cardSt (atPhase .waitAtr), 0, {}, [0x3B, 0x80, 0x00, 0x80], by and_intros <;> decide +kernel⟩,
   ⟨cardSt (atPhase .waitAtr 1), 0, {}, [0x3B, 0x80, 0x01, 0x81], 3, by and_intros <;> decide +kernel⟩,
   ⟨cardSt (atPhase .waitAtr 1), 0, {}, 2, by and_intros <;> decide +kernel⟩,
   ⟨cardSt (atPhase .waitAtr), 0, {}, by and_intros <;> decide +kernel⟩,
   ⟨cardSt (atPhase .waitPps), 0, {}, [0xFF], by and_intros <;> decide +kernel⟩,
   ⟨cardSt { atPhase .waitPps with ppsTried := 1 }, 0, {}, [0xFF], by and_intros <;> decide +kernel⟩,
   ⟨cardSt (atPhase .waitBlock), 0, {}, by and_intros <;> decide +kernel⟩,
   ⟨cardSt { atPhase .idle with stopMode := 1 }, 0, {}, by and_intros <;> decide +kernel⟩,
   ⟨{ sdSt 0x0710 with cards := { ports := [(0, { present := true })] } }, 1, sdOp 0x0710, 1, by and_intros <;> decide +kernel⟩,
   ⟨sdOut 0x0710, 1, sdOp 0x0710, by and_intros <;> decide +kernel⟩,
   ⟨sdSt 0x0710, 1, sdOp 0x0710, by and_intros <;> decide +kernel⟩,
   ⟨issuerSt, { op := some 1 }, 1, [], by and_intros <;> decide +kernel⟩,
   ⟨issuerSt, { op := some 1 }, 1, cardId, by and_intros <;> decide +kernel⟩⟩

theorem witness_Archives :
    (∃ (s : State) (op : ℕ) (o : Op), s.opOf op = some o ∧ o.stage = Stage.channel ∧ s.powered 27 = true ∧ (List.find? (fun w =>
      s.svcMayStart (Service.chan w)) s.cards.sd.waiting = some op) ∧ (s.blockOf 20).out = false ∧ s.worlds.bench.status = 1 ∧
      s.cards.sd.present = true ∧ o.opcode = 1795 ∧ s.cards.sd.state = 2) ∧
    (∃ (s : State) (op : ℕ) (o : Op) (card : SdCard) (v : BitVec 64), s.opOf op = some o ∧ o.stage = Stage.channel ∧ s.powered 27 = true
      ∧ (List.find? (fun w => s.svcMayStart (Service.chan w)) s.cards.sd.waiting = some op) ∧ (s.blockOf 20).out = false ∧
      s.worlds.bench.status = 1 ∧ s.cards.sd.present = true ∧ o.opcode = 1795 ∧ s.cards.sd.state ≠ 2 ∧ s.cards.sd.state ≠ 4 ∧ card.cause
      = none ∧ card.volume = some v) ∧
    (∃ (s : State) (op : ℕ) (o : Op) (card : SdCard) (c : BitVec 8), s.opOf op = some o ∧ o.stage = Stage.channel ∧ s.powered 27 = true
      ∧ (List.find? (fun w => s.svcMayStart (Service.chan w)) s.cards.sd.waiting = some op) ∧ (s.blockOf 20).out = false ∧
      s.worlds.bench.status = 1 ∧ s.cards.sd.present = true ∧ o.opcode = 1795 ∧ s.cards.sd.state ≠ 2 ∧ s.cards.sd.state ≠ 4 ∧ card.cause
      = some c) ∧
    (∃ (s : State) (op : ℕ) (o : Op), s.opOf op = some o ∧ o.stage = Stage.channel ∧ s.powered 27 = true ∧ (List.find? (fun w =>
      s.svcMayStart (Service.chan w)) s.cards.sd.waiting = some op) ∧ (s.blockOf 20).out = false ∧ s.worlds.bench.status = 1 ∧
      s.cards.sd.present = true ∧ o.opcode = 1794 ∧ s.worlds.vaultUp = true ∧ s.cards.sd.state = 2) ∧
    (∃ (s : State) (op : ℕ) (o : Op) (k : BitVec 256) (r : List (BitVec 8)), s.opOf op = some o ∧ o.stage = Stage.channel ∧ s.powered 27
      = true ∧ (List.find? (fun w => s.svcMayStart (Service.chan w)) s.cards.sd.waiting = some op) ∧ (s.blockOf 20).out = false ∧
      s.worlds.bench.status = 1 ∧ s.cards.sd.present = true ∧ o.opcode = 1793 ∧ s.worlds.vaultUp = true ∧ s.cards.sd.state = 2 ∧
      s.heldBtk = some k ∧ ((dPlan o.desc).testBit 0 = false ∨ (s.tenantOf o.tenant).live = true) ∧ o.seed = some r) ∧
    (∃ (s : State) (op : ℕ) (o : Op), s.opOf op = some o ∧ o.stage = Stage.channel ∧ s.powered 27 = true ∧ (List.find? (fun w =>
      s.svcMayStart (Service.chan w)) s.cards.sd.waiting = some op) ∧ (s.blockOf 20).out = false ∧ s.worlds.bench.status = 1 ∧
      s.cards.sd.present = true ∧ o.opcode = 1793 ∧ s.worlds.vaultUp = true ∧ s.heldBtk = none) ∧
    (∃ (s : State) (op : ℕ) (o : Op) (r : List (BitVec 8)), s.opOf op = some o ∧ o.stage = Stage.channel ∧ s.powered 27 = true ∧
      (List.find? (fun w => s.svcMayStart (Service.chan w)) s.cards.sd.waiting = some op) ∧ (s.blockOf 20).out = false ∧
      s.worlds.bench.status = 1 ∧ s.cards.sd.present = true ∧ o.opcode = 1796 ∧ s.worlds.vaultUp = true ∧ s.cards.sd.state = 2 ∧ dAux
      o.desc % 2 ^ 32 = 1179472961 ∧ o.seed = some r) ∧
    (∃ (s : State) (id : ℕ) (h : ArcHead), s.cards.sd.nextLba + h.b + 1 ≤ s.cards.sd.capacity ∧ s.opOf id ≠ none) ∧
    (∃ (s : State) (id : ℕ) (h : ArcHead), s.cards.sd.capacity < s.cards.sd.nextLba + h.b + 1 ∧ s.opOf id ≠ none) ∧
    (∃ (s : State) (op : ℕ) (o : Op), s.opOf op = some o ∧ o.stage = Stage.channel ∧ o.opcode = 1795 ∧ s.powered 27 = true ∧ (List.find?
      (fun w => s.svcMayStart (Service.chan w)) s.cards.sd.waiting = some op) ∧ (s.blockOf 20).out = true) ∧
    (∃ (s : State) (op : ℕ) (o : Op), s.opOf op = some o ∧ o.stage = Stage.channel ∧ o.opcode = 1795 ∧ s.powered 27 = true ∧ (List.find?
      (fun w => s.svcMayStart (Service.chan w)) s.cards.sd.waiting = some op) ∧ (s.blockOf 20).out = false ∧ s.worlds.bench.status = 1 ∧
      s.cards.sd.present = false) ∧
    (∃ (s : State) (id : ℕ) (rest : List ℕ), s.cards.sd.waiting = id :: rest ∧ s.cards.sd.present = true ∧ s.cards.sd.mode ≠ 0 ∧
      s.cards.sd.errTry = 0) ∧
    (∃ (s : State) (id : ℕ) (rest : List ℕ), s.cards.sd.waiting = id :: rest ∧ s.cards.sd.present = true ∧ 2 ≤ s.cards.sd.mode ∧
      s.cards.sd.errTry ≠ 0) ∧
    (∃ (s : State) (id : ℕ) (rest : List ℕ), s.cards.sd.waiting = id :: rest ∧ s.cards.sd.present = true ∧ s.cards.sd.mode = 1 ∧
      s.cards.sd.errTry ≠ 0 ∧ s.opOf id ≠ none) ∧
    (∃ (s : State) (id : ℕ) (rest : List ℕ), s.cards.sd.waiting = id :: rest ∧ s.cards.sd.present = true ∧ s.opOf id ≠ none) :=
  ⟨⟨sdSt 0x0703, 1, sdOp 0x0703, by and_intros <;> decide +kernel⟩,
   ⟨sdSt 0x0703 0 { sdCard with state := 1 }, 1, sdOp 0x0703, { volume := some 1 }, 1, by and_intros <;> decide +kernel⟩,
   ⟨sdSt 0x0703 0 { sdCard with state := 1 }, 1, sdOp 0x0703, { cause := some 1 }, 1, by and_intros <;> decide +kernel⟩,
   ⟨sdSt 0x0702, 1, sdOp 0x0702, by and_intros <;> decide +kernel⟩,
   ⟨sdSealed (drawnSd 0x0701), 1, drawnSd 0x0701, 5, [1], by
       refine ⟨?_, ?_, ?_, ?_, ?_, ?_, ?_, ?_, ?_, ?_, sdSealed_btk _, ?_, ?_⟩ <;> decide +kernel⟩,
   ⟨sdSt 0x0701, 1, sdOp 0x0701, by and_intros <;> decide +kernel⟩,
   ⟨sdWith (drawnSd 0x0704 0x464D5441), 1, drawnSd 0x0704 0x464D5441, [1], by and_intros <;> decide +kernel⟩,
   ⟨sdSt 0x0702, 1, { kind := 2, seq := 1, b := 1, volume := 0, identity := 0, rootGen := 0, len := 0 },
     by and_intros <;> decide +kernel⟩,
   ⟨sdSt 0x0702, 1, { kind := 2, seq := 1, b := 4032, volume := 0, identity := 0, rootGen := 0, len := 0 },
     by and_intros <;> decide +kernel⟩,
   ⟨sdOut 0x0703, 1, sdOp 0x0703, by and_intros <;> decide +kernel⟩,
   ⟨sdSt 0x0703 0 { sdCard with present := false }, 1, sdOp 0x0703, by and_intros <;> decide +kernel⟩,
   ⟨sdSt 0x0703, 1, [], by and_intros <;> decide +kernel⟩,
   ⟨sdSt 0x0703 0 { sdCard with errTry := 1 }, 1, [], by and_intros <;> decide +kernel⟩,
   ⟨sdSt 0x0703 0 { sdCard with errTry := 1, mode := 1 }, 1, [], by and_intros <;> decide +kernel⟩,
   ⟨sdSt 0x0703, 1, [], by and_intros <;> decide +kernel⟩⟩

theorem witness_ZwmOperandForms :
    (∃ (p : Spec), p.mode = 0) ∧
    (∃ (s : State) (c : ℕ) (v : BitVec 64) (p : Spec), p.mode = 1 ∧ s.reg c p.reg.toNat = ⟨v, tAddr⟩ ∧ bits v 59 32 = 0) ∧
    (∃ (s : State) (c n : ℕ) (v : BitVec 64) (p : Spec), p.mode = 2 ∧ s.reg c p.reg.toNat = ⟨v, tAddr⟩ ∧ bits v 59 32 = 0 ∧ colourOf (v
      + BitVec.ofNat 64 n) = colourOf v) ∧
    (∃ (s : State) (c n : ℕ) (v : BitVec 64) (p : Spec), p.mode = 3 ∧ s.reg c p.reg.toNat = ⟨v, tAddr⟩ ∧ bits (v - BitVec.ofNat 64 n) 59
      32 = 0 ∧ colourOf (v - BitVec.ofNat 64 n) = colourOf v) ∧
    (∃ (s : State) (c : ℕ) (v : BitVec 64) (p : Spec), p.mode = 4 ∧ s.reg c p.reg.toNat = ⟨v, tAddr⟩ ∧ colourOf (v + BitVec.signExtend
      64 (BitVec.truncate 8 p.ext)) = colourOf v ∧ bits (v + BitVec.signExtend 64 (BitVec.truncate 8 p.ext)) 59 32 = 0) ∧
    (∃ (s : State) (c : ℕ) (v : BitVec 64) (p : Spec), p.mode = 5 ∧ s.reg c p.reg.toNat = ⟨v, tAddr⟩ ∧ colourOf (v + BitVec.signExtend
      64 (BitVec.truncate 32 p.ext)) = colourOf v ∧ bits (v + BitVec.signExtend 64 (BitVec.truncate 32 p.ext)) 59 32 = 0) ∧
    (∃ (s : State) (c n : ℕ) (v x : BitVec 64) (p : Spec), p.mode = 6 ∧ s.reg c p.reg.toNat = ⟨v, tAddr⟩ ∧ s.reg c (bits p.ext 3 0) =
      ⟨x, tInt⟩ ∧ colourOf (v + BitVec.ofNat 64 n * x) = colourOf v ∧ bits (v + BitVec.ofNat 64 n * x) 59 32 = 0) ∧
    (∃ (s t : State) (c : ℕ) (v w : BitVec 64) (p : Spec), p.mode = 7 ∧ s.reg c p.reg.toNat = ⟨v, tAddr⟩ ∧ colourOf (v +
      BitVec.signExtend 64 (BitVec.truncate 32 p.ext)) = colourOf v ∧ bits (v + BitVec.signExtend 64 (BitVec.truncate 32 p.ext)) 59 32 =
      0 ∧ State.coreRead c (v + BitVec.signExtend 64 (BitVec.truncate 32 p.ext)) 8 s = Except.ok (⟨w, tAddr⟩, t) ∧ bits w 59 32 = 0) ∧
    (∃ (pc : BitVec 64) (p : Spec), p.mode = 8 ∧ bits (pc + BitVec.signExtend 64 (BitVec.truncate 32 p.ext)) 59 32 = 0) ∧
    (∃ (p : Spec), p.mode = 9 ∧ bits p.ext 59 32 = 0) ∧
    (∃ (p : Spec), p.mode = 10) ∧
    (∃ (p : Spec), p.mode = 11) ∧
    (∃ (p : Spec), p.mode = 12) ∧
    (∃ (p : Spec), p.mode = 13) ∧
    (∃ (s : State) (c n : ℕ) (v : TWord), (n = 8 ∨ v.number = true) ∧ twf { } s.zwm.cores = true ∧ twf { } (s.coreOf c).regs = true) ∧
    (∃ (n : ℕ) (v : TWord), n ≠ 8 ∧ v.number = false) ∧
    (∃ (s : State) (c n k : ℕ) (pc a : BitVec 64) (p : Spec) (v : TWord) (t : State), State.dst c pc n k p s = Except.ok (Place.mem a,
      s) ∧ State.dataRead (isBench c) (some c) a n s = Except.ok (v, t) ∧ tagReserved v.tag = false ∧ v.tag ≠ tPoison) :=
  ⟨⟨ar 1, by decide +kernel⟩,
   ⟨zst, 0, 0x100100, ⟨1, 3, 0⟩, by and_intros <;> decide +kernel⟩,
   ⟨zst, 0, 8, 0x100100, ⟨2, 3, 0⟩, by and_intros <;> decide +kernel⟩,
   ⟨zst, 0, 8, 0x100100, ⟨3, 3, 0⟩, by and_intros <;> decide +kernel⟩,
   ⟨zst, 0, 0x100100, ⟨4, 3, 4⟩, by and_intros <;> decide +kernel⟩,
   ⟨zst, 0, 0x100100, ⟨5, 3, 4⟩, by and_intros <;> decide +kernel⟩,
   ⟨zst, 0, 8, 0x100100, 5, ⟨6, 3, 1⟩, by and_intros <;> decide +kernel⟩,
   ⟨zst, zst, 0, 0x100100, 0x100100, ⟨7, 3, 8⟩, by
       refine ⟨?_, ?_, ?_, ?_, rfl, ?_⟩ <;> decide +kernel⟩,
   ⟨0x100000, ⟨8, 0, 4⟩, by and_intros <;> decide +kernel⟩,
   ⟨⟨9, 0, 0x100100⟩, by and_intros <;> decide +kernel⟩,
   ⟨⟨10, 0, 4⟩, by decide +kernel⟩,
   ⟨⟨11, 0, 4⟩, by decide +kernel⟩,
   ⟨⟨12, 0, 4⟩, by decide +kernel⟩,
   ⟨⟨13, 0, 0⟩, by decide +kernel⟩,
   ⟨zst, 0, 8, ⟨5, tInt⟩, ⟨.inl rfl, by decide +kernel, by decide +kernel⟩⟩,
   ⟨4, ⟨5, tAddr⟩, by and_intros <;> decide +kernel⟩,
   ⟨zst, 0, 8, 0, 0, 0x100100, ⟨1, 3, 0⟩, ⟨7, tInt⟩, zst, ⟨rfl, rfl, by decide +kernel, by decide +kernel⟩⟩⟩

theorem witness_ZwmArithmetic :
    (∃ (s : State) (c : Fin 5) (sz : BitVec 8) (d a b : Spec) (q : Place) (x y : TWord) (s₁ : State) (g : BitVec 4) (i : Instr) (op :
      ℕ), (i = Instr.divu c sz d a b ∧ op = 22 ∨ i = Instr.remu c sz d a b ∧ op = 23) ∧ s.Ready (c.val) op SizeForm.any sz 1 [d, a, b] ∧
      s.Takes3 (c.val) (szBytes sz) d a b q x y s₁ ∧ resultTag AddrUse.none x y false = Except.ok g ∧ y.val = 0 ∧ s.flag (c.val) 6 =
      false) ∧
    (∃ (s : State) (c : Fin 5) (sz : BitVec 8) (d a : Spec) (q : Place) (x : TWord) (s₁ s₂ : State), s.Ready (c.val) 27 SizeForm.any sz
      1 [d, a] ∧ s.Takes2 (c.val) (szBytes sz) d a q x s₁ ∧ x.number = true ∧ State.put (c.val) (szBytes sz) q ⟨BitVec.ofNat 64 (2 ^ (8
      * szBytes sz) - 1 - x.val.toNat), x.tag⟩ s₁ = Except.ok s₂) ∧
    (∃ (s : State) (b : ℕ), twf { } s.zwm.cores = true ∧ 7 ≤ b) ∧
    (∃ (s : State) (c k : ℕ), twf { } s.zwm.cores = true ∧ k ≠ c) :=
  ⟨⟨zi 22 3 [ar 0, ar 1, ⟨10, 0, 0⟩], 0, 3, ar 0, ar 1, ⟨10, 0, 0⟩, .reg 0, ⟨5, tInt⟩, ⟨0, tInt⟩, zi 22 3 [ar 0, ar 1, ⟨10, 0, 0⟩],
    tInt, .divu 0 3 (ar 0) (ar 1) ⟨10, 0, 0⟩, 22, ⟨.inl ⟨rfl, rfl⟩, ⟨by decide +kernel, by decide +kernel, by decide +kernel,
    by decide +kernel⟩, ⟨_, _, rfl, rfl, rfl⟩, rfl, by decide +kernel, by decide +kernel⟩⟩,
   ⟨(zi 27 3 [ar 0, ar 1]), 0, 3, ar 0, ar 1, .reg 0, ⟨5, tInt⟩, (zi 27 3 [ar 0, ar 1]), _, ⟨⟨by decide +kernel, by decide +kernel,
     by decide +kernel, by decide +kernel⟩, ⟨_, rfl, rfl⟩, by decide +kernel, rfl⟩⟩,
   ⟨zst, 7, by and_intros <;> decide +kernel⟩,
   ⟨zst, 1, 0, by and_intros <;> decide +kernel⟩⟩

theorem witness_ZwmComparisons :
    (∃ (s : State) (c : Fin 5) (sz : BitVec 8) (a b : Spec) (x y : TWord) (g : BitVec 4) (s₁ : State), s.Ready (c.val) 32 SizeForm.any
      sz 0 [a, b] ∧ s.Reads2 (c.val) (szBytes sz) a b x y s₁ ∧ resultTag AddrUse.sub x y false = Except.ok g ∧ g ≠ tAddr ∧ x.val.toNat <
      2 ^ (8 * szBytes sz) ∧ y.val.toNat < 2 ^ (8 * szBytes sz)) ∧
    (∃ (s : State) (c : Fin 5) (sz : BitVec 8) (a b : Spec) (x y : TWord) (s₁ : State), s.Ready (c.val) 33 SizeForm.any sz 0 [a, b] ∧
      s.Reads2 (c.val) (szBytes sz) a b x y s₁ ∧ x.number = true ∧ y.number = true) ∧
    (∃ (s : State) (c : Fin 5) (sz : BitVec 8) (a b : Spec) (x y : TWord) (s₁ : State), s.Ready (c.val) 32 SizeForm.any sz 0 [a, b] ∧
      s.Reads2 (c.val) (szBytes sz) a b x y s₁ ∧ (x.tag = tCode ∨ x.tag = tSlotref ∨ x.tag = tSealed) ∧ s.flag (c.val) 6 = false) ∧
    (∃ (s : State) (c : Fin 5) (sz : BitVec 8) (d a b : Spec) (q : Place) (x y : TWord) (s₁ s₂ : State), s.Ready (c.val) 34
      SizeForm.cond sz 1 [d, a, b] ∧ s.Takes3 (c.val) (szBytes sz) d a b q x y s₁ ∧ x.number = true ∧ y.number = true ∧ (State.put
      (c.val) (szBytes sz) q ⟨if s₁.holdsCond (c.val) (bits sz 7 4) = true then x.val else y.val, if x.tag = tSecret ∨ y.tag = tSecret ∨
      s₁.flag (c.val) 4 = true ∧ bits sz 7 4 ≠ 14 then tSecret else tInt⟩ s₁ = Except.ok s₂)) ∧
    (∃ (s : State) (c : Fin 5) (sz : BitVec 8) (d a b : Spec) (q : Place) (x y : TWord) (s₁ s₂ : State), s.Ready (c.val) 34
      SizeForm.cond sz 1 [d, a, b] ∧ s.Takes3 (c.val) (szBytes sz) d a b q x y s₁ ∧ x.tag = tAddr ∧ y.tag = tAddr ∧ s₁.flag (c.val) 4 =
      false ∧ State.put (c.val) (szBytes sz) q ⟨if s₁.holdsCond (c.val) (bits sz 7 4) = true then x.val else y.val, tAddr⟩ s₁ =
      Except.ok s₂) ∧
    (∃ (f : SizeForm) (sz : BitVec 8), (f = SizeForm.cond ∨ f = SizeForm.branch) ∧ bits sz 7 4 = 15) :=
  ⟨⟨(zi 32 3 [ar 1, ar 2]), 0, 3, ar 1, ar 2, ⟨5, tInt⟩, ⟨3, tInt⟩, tInt, (zi 32 3 [ar 1, ar 2]), ⟨⟨by decide +kernel,
    by decide +kernel, by decide +kernel, by decide +kernel⟩, ⟨_, rfl, rfl⟩, rfl, by and_intros <;> decide +kernel⟩⟩,
   ⟨(zi 33 3 [ar 1, ar 5]), 0, 3, ar 1, ar 5, ⟨5, tInt⟩, ⟨9, tSecret⟩, (zi 33 3 [ar 1, ar 5]), ⟨⟨by decide +kernel, by decide +kernel,
     by decide +kernel, by decide +kernel⟩, ⟨_, rfl, rfl⟩, by decide +kernel, by decide +kernel⟩⟩,
   ⟨(zi 32 3 [ar 4, ar 2]), 0, 3, ar 4, ar 2, ⟨0x100000, tCode⟩, ⟨3, tInt⟩, (zi 32 3 [ar 4, ar 2]), ⟨⟨by decide +kernel,
     by decide +kernel, by decide +kernel, by decide +kernel⟩, ⟨_, rfl, rfl⟩, .inl rfl, by decide +kernel⟩⟩,
   ⟨(zi 34 0x13 [ar 0, ar 1, ar 5]), 0, 0x13, ar 0, ar 1, ar 5, .reg 0, ⟨5, tInt⟩, ⟨9, tSecret⟩, (zi 34 0x13 [ar 0, ar 1, ar 5]), _,
     ⟨⟨by decide +kernel, by decide +kernel, by decide +kernel, by decide +kernel⟩, ⟨_, _, rfl, rfl, rfl⟩, by decide +kernel,
     by decide +kernel, rfl⟩⟩,
   ⟨(zi 34 0x13 [ar 0, ar 3, ar 15]), 0, 0x13, ar 0, ar 3, ar 15, .reg 0, ⟨0x100100, tAddr⟩, ⟨0x100110, tAddr⟩, (zi 34 0x13 [ar 0, ar 3,
     ar 15]), _, ⟨⟨by decide +kernel, by decide +kernel, by decide +kernel, by decide +kernel⟩, ⟨_, _, rfl, rfl, rfl⟩,
     by decide +kernel, by decide +kernel, by decide +kernel, rfl⟩⟩,
   ⟨.cond, 0xF3, ⟨.inl rfl, by decide +kernel⟩⟩⟩

theorem witness_ZwmMoves :
    (∃ (s : State) (c : Fin 5), s.Ready (c.val) 0 SizeForm.zero 0 0 []) ∧
    (∃ (s : State) (c : Fin 5) (sz : BitVec 8) (d a : Spec) (q : Place) (x : TWord) (s₁ : State), c.val ≠ 0 ∧ s.Ready (c.val) 98
      SizeForm.any sz 1 [d, a] ∧ s.Takes2 (c.val) (szBytes sz) d a q x s₁ ∧ s.flag (c.val) 6 = false) ∧
    (∃ (s : State) (c : Fin 5) (d m : Spec) (q : Place) (v : BitVec 64) (s₁ s₂ s₃ : State), s.Ready (c.val) 2 SizeForm.word 3 1 [d, m] ∧
      1 ≤ m.mode.toNat ∧ m.mode.toNat ≤ 9 ∧ State.dst (c.val) (s.coreOf c.val).pc 8 0 d s = Except.ok (q, s₁) ∧ State.dst (c.val)
      (s.coreOf c.val).pc 8 1 m s₁ = Except.ok (Place.mem v, s₂) ∧ State.put (c.val) 8 q ⟨v, tAddr⟩ s₂ = Except.ok s₃) ∧
    (∃ (s : State) (c : Fin 5) (d m : Spec) (q : Place) (v : BitVec 64) (s₁ s₂ s₃ : State), s.Ready (c.val) 5 SizeForm.word 3 1 [d, m] ∧
      (m.mode = 8 ∨ m.mode = 9) ∧ State.dst (c.val) (s.coreOf c.val).pc 8 0 d s = Except.ok (q, s₁) ∧ State.dst (c.val) (s.coreOf
      c.val).pc 8 1 m s₁ = Except.ok (Place.mem v, s₂) ∧ State.put (c.val) 8 q ⟨v, tCode⟩ s₂ = Except.ok s₃) ∧
    (∃ (s : State) (c : Fin 5) (sz : BitVec 8) (a : Spec) (x : TWord) (v : BitVec 64) (s₁ s₂ : State), s.Ready (c.val) 3 SizeForm.any sz
      0 [a] ∧ State.src (c.val) (s.coreOf c.val).pc (szBytes sz) 0 a s = Except.ok (x, s₁) ∧ s₁.reg (c.val) 15 = ⟨v, tAddr⟩ ∧ colourOf
      (v - BitVec.ofNat 64 (szBytes sz)) = colourOf v ∧ bits (v - BitVec.ofNat 64 (szBytes sz)) 59 32 = 0 ∧ State.coreWrite (c.val) (v -
      BitVec.ofNat 64 (szBytes sz)) (szBytes sz) ⟨lowBytes x.val (szBytes sz), x.tag⟩ s₁ = Except.ok s₂) ∧
    (∃ (s : State) (c : Fin 5) (sz : BitVec 8) (d : Spec) (q : Place) (x : TWord) (v w : BitVec 64) (s₁ s₂ s₃ : State), s.Ready (c.val)
      4 SizeForm.any sz 1 [d] ∧ State.dst (c.val) (s.coreOf c.val).pc (szBytes sz) 0 d s = Except.ok (q, s₁) ∧ s₁.reg (c.val) 15 = ⟨v,
      tAddr⟩ ∧ bits v 59 32 = 0 ∧ State.coreRead (c.val) v (szBytes sz) s₁ = Except.ok (x, s₂) ∧ tagReserved x.tag = false ∧ x.tag ≠
      tPoison ∧ State.put (c.val) (szBytes sz) q x s₂ = Except.ok s₃ ∧ s₃.reg (c.val) 15 = ⟨w, tAddr⟩ ∧ colourOf (w + BitVec.ofNat 64
      (szBytes sz)) = colourOf w) ∧
    (∃ (s : State) (c : Fin 5) (d : Spec) (q : Place) (s₁ s₂ : State), s.Ready (c.val) 6 SizeForm.any 3 1 [d] ∧ State.dst (c.val)
      (s.coreOf c.val).pc 8 0 d s = Except.ok (q, s₁) ∧ (State.put (c.val) 8 q { tag := tPoison } s₁ = Except.ok s₂)) ∧
    (∃ (s : State) (c : Fin 5) (sz : BitVec 8) (d a : Spec) (q p : Place) (x : TWord) (s₁ s₂ s₃ s₄ : State), s.Ready (c.val) 96
      SizeForm.any sz 1 [d, a] ∧ State.dst (c.val) (s.coreOf c.val).pc (szBytes sz) 0 d s = Except.ok (q, s₁) ∧ State.dst (c.val)
      (s.coreOf c.val).pc (szBytes sz) 1 a s₁ = Except.ok (p, s₂) ∧ State.readPlace (c.val) (szBytes sz) p s₂ = Except.ok (x, s₃) ∧
      State.put (c.val) (szBytes sz) q ⟨BitVec.setWidth 64 x.tag, tInt⟩ s₃ = Except.ok s₄) ∧
    (∃ (s : State) (c : Fin 5) (sz : BitVec 8) (d a : Spec) (q : Place) (v : BitVec 64) (s₁ s₂ : State), s.Ready (c.val) 112
      SizeForm.any sz 1 [d, a] ∧ a.mode = 10 ∧ (bits a.ext 7 0 = 0 ∧ v = BitVec.setWidth 64 (s.coreOf c.val).fcause ∨ bits a.ext 7 0 = 1
      ∧ v = (s.coreOf c.val).fpc ∨ bits a.ext 7 0 = 2 ∧ v = (s.coreOf c.val).faddr ∨ bits a.ext 7 0 = 3 ∧ v = (s.coreOf c.val).frep ∨
      bits a.ext 7 0 = 4 ∧ v = if c.val = 0 then 0 else BitVec.ofNat 64 (256 + (c.val - 1))) ∧ State.dst (c.val) (s.coreOf c.val).pc
      (szBytes sz) 0 d s = Except.ok (q, s₁) ∧ State.put (c.val) (szBytes sz) q ⟨v, tInt⟩ s₁ = Except.ok s₂) :=
  ⟨⟨(zi 0 0 []), 0, by and_intros <;> decide +kernel⟩,
   ⟨bi 98 3 [ar 0, ar 5], 1, 3, ar 0, ar 5, .reg 0, ⟨9, tSecret⟩, _, ⟨by decide +kernel, ⟨by decide +kernel, by decide +kernel,
     by decide +kernel, by decide +kernel⟩, ⟨_, rfl, rfl⟩, by decide +kernel⟩⟩,
   ⟨(zi 2 3 [ar 0, ⟨4, 3, 4⟩]), 0, ar 0, ⟨4, 3, 4⟩, .reg 0, 0x100104, (zi 2 3 [ar 0, ⟨4, 3, 4⟩]), (zi 2 3 [ar 0, ⟨4, 3, 4⟩]), _,
     ⟨⟨by decide +kernel, by decide +kernel, by decide +kernel, by decide +kernel⟩, by decide +kernel, by decide +kernel, rfl, rfl,
     rfl⟩⟩,
   ⟨(zi 5 3 [ar 0, ⟨8, 0, 4⟩]), 0, ar 0, ⟨8, 0, 4⟩, .reg 0, 0x100004, (zi 5 3 [ar 0, ⟨8, 0, 4⟩]), (zi 5 3 [ar 0, ⟨8, 0, 4⟩]), _,
     ⟨⟨by decide +kernel, by decide +kernel, by decide +kernel, by decide +kernel⟩, .inl rfl, rfl, rfl, rfl⟩⟩,
   ⟨(zi 3 3 [ar 1]), 0, 3, ar 1, ⟨5, tInt⟩, 0x100110, (zi 3 3 [ar 1]), _, ⟨⟨by decide +kernel, by decide +kernel, by decide +kernel,
     by decide +kernel⟩, rfl, by decide +kernel, by decide +kernel, by decide +kernel, rfl⟩⟩,
   ⟨(zi 4 3 [ar 0]), 0, 3, ar 0, .reg 0, ⟨0x100000, tCode⟩, 0x100110, 0x100110, (zi 4 3 [ar 0]), (zi 4 3 [ar 0]), _, by
       refine ⟨⟨by decide +kernel, by decide +kernel, by decide +kernel, by decide +kernel⟩, rfl, ?_, ?_, rfl, ?_, ?_, rfl, ?_, ?_⟩ <;>
         decide +kernel⟩,
   ⟨(zi 6 3 [ar 1]), 0, ar 1, .reg 1, (zi 6 3 [ar 1]), _, ⟨⟨by decide +kernel, by decide +kernel, by decide +kernel, by decide +kernel⟩,
     rfl, rfl⟩⟩,
   ⟨(zi 96 3 [ar 0, ar 5]), 0, 3, ar 0, ar 5, .reg 0, .reg 5, ⟨9, tSecret⟩, (zi 96 3 [ar 0, ar 5]), (zi 96 3 [ar 0, ar 5]), (zi 96 3 [ar
     0, ar 5]), _, ⟨⟨by decide +kernel, by decide +kernel, by decide +kernel, by decide +kernel⟩, rfl, rfl, rfl, rfl⟩⟩,
   ⟨(zi 112 3 [ar 0, ⟨10, 0, 4⟩]), 0, 3, ar 0, ⟨10, 0, 4⟩, .reg 0, 0, (zi 112 3 [ar 0, ⟨10, 0, 4⟩]), _, ⟨⟨by decide +kernel,
     by decide +kernel, by decide +kernel, by decide +kernel⟩, by decide +kernel, .inr (.inr (.inr (.inr ⟨by decide +kernel,
     by decide +kernel⟩))), rfl, rfl⟩⟩⟩

theorem witness_ZwmControlFlow :
    (∃ (s : State) (c : Fin 5) (a : Spec) (v : BitVec 64) (s₁ : State), s.Ready (c.val) 48 SizeForm.word 3 0 [a] ∧ (a.mode = 8 ∨ a.mode
      = 9) ∧ State.dst (c.val) (s.coreOf c.val).pc 8 0 a s = Except.ok (Place.mem v, s₁)) ∧
    (∃ (s : State) (c : Fin 5) (a : Spec) (v : BitVec 64) (s₁ : State), s.Ready (c.val) 48 SizeForm.word 3 0 [a] ∧ a.mode ≠ 8 ∧ a.mode ≠
      9 ∧ State.src (c.val) (s.coreOf c.val).pc 8 0 a s = Except.ok (⟨v, tCode⟩, s₁)) ∧
    (∃ (s : State) (c : Fin 5) (a : Spec) (x : TWord) (s₁ : State), s.Ready (c.val) 48 SizeForm.word 3 0 [a] ∧ a.mode ≠ 8 ∧ a.mode ≠ 9 ∧
      State.src (c.val) (s.coreOf c.val).pc 8 0 a s = Except.ok (x, s₁) ∧ x.tag ≠ tCode ∧ s.flag (c.val) 6 = false) ∧
    (∃ (s : State) (c : Fin 5) (sz : BitVec 8) (m : Spec) (v : BitVec 64) (s₁ : State), s.Ready (c.val) 49 SizeForm.branch sz 0 [m] ∧
      m.mode = 8 ∧ (s.flag (c.val) 4 = false ∨ bits sz 7 4 = 14) ∧ State.dst (c.val) (s.coreOf c.val).pc 8 0 m s = Except.ok (Place.mem
      v, s₁)) ∧
    (∃ (s : State) (c : Fin 5) (sz : BitVec 8) (m : Spec), s.Ready (c.val) 49 SizeForm.branch sz 0 [m] ∧ m.mode = 8 ∧ s.flag (c.val) 4 =
      true ∧ bits sz 7 4 ≠ 14 ∧ s.flag (c.val) 6 = false) ∧
    (∃ (s : State) (c : Fin 5) (a : Spec) (v : BitVec 64) (s₁ s₂ : State), s.Ready (c.val) 50 SizeForm.word 3 0 [a] ∧ State.target
      (c.val) (s.coreOf c.val).pc a s = Except.ok (v, s₁) ∧ State.push (c.val) 8 ⟨(s.coreOf c.val).pc + BitVec.ofNat 64 (insnLen [a]),
      tCode⟩ s₁ = Except.ok s₂) ∧
    (∃ (s : State) (c : Fin 5) (v : BitVec 64) (s₁ : State), s.Ready (c.val) 51 SizeForm.zero 0 0 [] ∧ State.pop (c.val) 8 s = Except.ok
      (⟨v, tCode⟩, s₁)) ∧
    (∃ (s : State) (c : Fin 5) (v f : BitVec 64) (s₁ s₂ : State), s.Ready (c.val) 53 SizeForm.zero 0 0 [] ∧ State.pop (c.val) 8 s =
      Except.ok (⟨v, tCode⟩, s₁) ∧ State.pop (c.val) 8 s₁ = Except.ok (⟨f, tInt⟩, s₂)) ∧
    (∃ (s : State) (c : Fin 5), s.Ready (c.val) 113 SizeForm.zero 0 0 []) ∧
    (∃ (s : State) (c : Fin 5), s.Ready (c.val) 114 SizeForm.zero 0 0 []) ∧
    (∃ (s : State) (c : Fin 5), s.Ready (c.val) 116 SizeForm.zero 0 0 []) ∧
    (∃ (s : State) (c : Fin 5), s.Ready (c.val) 115 SizeForm.zero 0 0 []) ∧
    (∃ (s : State) (c : Fin 5) (line : BitVec 7) (s₁ s₂ : State), (c.val ≠ 0 ∨ s.worlds.running ≠ none) ∧ (if c.val = 0 then
      s.worlds.hearth else s.worlds.bench).status < 2 ∧ tget false s.worlds.assign (64 + line.toNat) = decide (c.val ≠ 0) ∧ slotReserved
      (line.toNat / 2) = false ∧ (s.coreOf c.val).rep = none ∧ s.flag (c.val) 5 = true ∧ s.flag (c.val) 6 = false ∧ (s.coreOf c.val).wfi
      = false ∧ State.push (c.val) 8 ⟨BitVec.setWidth 64 (s.coreOf c.val).fl, tInt⟩ s = Except.ok s₁ ∧ State.push (c.val) 8 ⟨(s.coreOf
      c.val).pc, tCode⟩ s₁ = Except.ok s₂ ∧ twf { } s.zwm.cores = true) ∧
    (∃ (s : State) (c : Fin 5) (line : BitVec 7), (if c.val = 0 then s.worlds.hearth else s.worlds.bench).status < 2 ∧ tget false
      s.worlds.assign (64 + line.toNat) = decide (c.val ≠ 0) ∧ slotReserved (line.toNat / 2) = false ∧ (c.val = 0 ∧ s.worlds.running =
      none ∨ s.flag (c.val) 5 = false ∨ s.flag (c.val) 6 = true) ∧ twf { } s.zwm.cores = true) ∧
    (∃ (s : State) (a0 a1 : BitVec 64) (id : ℕ) (o : Op), s.Ready 0 52 SizeForm.zero 0 0 [] ∧ s.reg 0 0 = ⟨a0, tInt⟩ ∧ s.reg 0 1 = ⟨a1,
      tInt⟩ ∧ s.worlds.running = some (Service.chan id) ∧ s.opOf id = some o ∧ o.stage ≠ Stage.done ∧ twf { } s.zwm.cores = true) :=
  ⟨⟨(zi 48 3 [⟨8, 0, 4⟩]), 0, ⟨8, 0, 4⟩, 0x100004, (zi 48 3 [⟨8, 0, 4⟩]), ⟨⟨by decide +kernel, by decide +kernel, by decide +kernel,
    by decide +kernel⟩, .inl rfl, rfl⟩⟩,
   ⟨(zi 48 3 [ar 4]), 0, ar 4, 0x100000, (zi 48 3 [ar 4]), ⟨⟨by decide +kernel, by decide +kernel, by decide +kernel,
     by decide +kernel⟩, by decide +kernel, by decide +kernel, rfl⟩⟩,
   ⟨(zi 48 3 [ar 1]), 0, ar 1, ⟨5, tInt⟩, (zi 48 3 [ar 1]), by
       refine ⟨⟨by decide +kernel, by decide +kernel, by decide +kernel, by decide +kernel⟩, ?_, ?_, rfl, ?_, ?_⟩ <;> decide +kernel⟩,
   ⟨(zi 49 0x13 [⟨8, 0, 4⟩]), 0, 0x13, ⟨8, 0, 4⟩, 0x100004, (zi 49 0x13 [⟨8, 0, 4⟩]), ⟨⟨by decide +kernel, by decide +kernel,
     by decide +kernel, by decide +kernel⟩, by decide +kernel, .inl rfl, rfl⟩⟩,
   ⟨coreOn { std with fl := 0x10 } (insnBytes 49 0x13 [⟨8, 0, 4⟩]), 0, 0x13, ⟨8, 0, 4⟩, ⟨⟨by decide +kernel, by decide +kernel,
     by decide +kernel, by decide +kernel⟩, by and_intros <;> decide +kernel⟩⟩,
   ⟨(zi 50 3 [ar 4]), 0, ar 4, 0x100000, (zi 50 3 [ar 4]), _, ⟨⟨by decide +kernel, by decide +kernel, by decide +kernel,
     by decide +kernel⟩, rfl, rfl⟩⟩,
   ⟨(zi 51 0 []), 0, 0x100000, _, ⟨⟨by decide +kernel, by decide +kernel, by decide +kernel, by decide +kernel⟩, rfl⟩⟩,
   ⟨(zi 53 0 []), 0, 0x100000, 0, _, _, ⟨⟨by decide +kernel, by decide +kernel, by decide +kernel, by decide +kernel⟩, rfl, rfl⟩⟩,
   ⟨(zi 113 0 []), 0, by and_intros <;> decide +kernel⟩,
   ⟨zi 114 0 [], 0, ⟨by decide +kernel, by decide +kernel, by decide +kernel, by decide +kernel⟩⟩,
   ⟨zi 116 0 [], 0, ⟨by decide +kernel, by decide +kernel, by decide +kernel, by decide +kernel⟩⟩,
   ⟨zi 115 0 [], 0, ⟨by decide +kernel, by decide +kernel, by decide +kernel, by decide +kernel⟩⟩,
   ⟨{ coreAt { std with fl := 0x20 } with worlds := { up.worlds with running := some .mbx } }, 0, 2, _, _, by
       refine ⟨.inr (by decide +kernel), ?_, ?_, ?_, ?_, ?_, ?_, ?_, rfl, rfl, ?_⟩ <;> decide +kernel⟩,
   ⟨zst, 0, 0, by
       refine ⟨?_, ?_, ?_, .inl ⟨rfl, rfl⟩, ?_⟩ <;> decide +kernel⟩,
   ⟨retsSt, 0, 0, 1, blk 0x0605, by
       refine ⟨⟨by decide +kernel, by decide +kernel, by decide +kernel, by decide +kernel⟩, ?_, ?_, rfl, rfl, ?_, ?_⟩ <;>
         decide +kernel⟩⟩

theorem witness_ZwmAccumulatorAndPrefixes :
    (∃ (s : State) (c : Fin 5), s.Ready (c.val) 65 SizeForm.zero 0 0 []) ∧
    (∃ (s : State) (c : Fin 5) (sz : BitVec 8) (a : Spec) (x : TWord) (s₁ : State), s.Ready (c.val) 66 SizeForm.any sz 0 [a] ∧ State.src
      (c.val) (s.coreOf c.val).pc (szBytes sz) 0 a s = Except.ok (x, s₁) ∧ x.number = true ∧ ((s₁.coreOf c.val).accTag = tInt ∨
      (s₁.coreOf c.val).accTag = tSecret)) ∧
    (∃ (s : State) (c : Fin 5) (d : Spec) (q : Place) (s₁ s₂ : State), s.Ready (c.val) 67 SizeForm.word 3 1 [d] ∧ State.dst (c.val)
      (s.coreOf c.val).pc 8 0 d s = Except.ok (q, s₁) ∧ ((s₁.coreOf c.val).accTag = tInt ∨ (s₁.coreOf c.val).accTag = tSecret) ∧
      State.put (c.val) 8 q ⟨BitVec.truncate 64 (s₁.coreOf c.val).acc, (s₁.coreOf c.val).accTag⟩ s₁ = Except.ok s₂) ∧
    (∃ (s : State) (c : Fin 5) (a b : Spec) (u v : BitVec 64) (x y : TWord) (s₁ s₂ s₃ s₄ : State), s.Ready (c.val) 64 SizeForm.word 3 0
      [a, b] ∧ State.place (c.val) (s.coreOf c.val).pc 8 a s = Except.ok (Place.mem u, s₁) ∧ areaOf (isBench c.val) (locOf u) = some (if
      c.val = 0 then Area.sram else Area.bsram) ∧ State.coreRead (c.val) u 8 s₁ = Except.ok (x, s₂) ∧ x.number = true ∧ State.place
      (c.val) (s.coreOf c.val).pc 8 b s₂ = Except.ok (Place.mem v, s₃) ∧ areaOf (isBench c.val) (locOf v) = some (if c.val = 0 then
      Area.sram else Area.bsram) ∧ State.coreRead (c.val) v 8 s₃ = Except.ok (y, s₄) ∧ y.number = true ∧ ((s₄.coreOf c.val).accTag =
      tInt ∨ (s₄.coreOf c.val).accTag = tSecret)) ∧
    (∃ (s : State) (c : Fin 5) (n : BitVec 8), s.Ready (c.val) 80 SizeForm.count n 0 []) ∧
    (∃ (s : State) (c : Fin 5) (v : BitVec 64), s.Ready (c.val) 81 SizeForm.zero 0 0 [] ∧ s.reg (c.val) 14 = ⟨v, tInt⟩) ∧
    (∃ (s : State) (c : Fin 5) (v : BitVec 64), s.Ready (c.val) 81 SizeForm.zero 0 0 [] ∧ s.reg (c.val) 14 = ⟨v, tSecret⟩ ∧ s.flag
      (c.val) 6 = false) ∧
    (∃ (s : State) (c : ℕ) (i : Insn) (r : Machine.Rep), s.coreRuns c = true ∧ (s.coreOf c).rep = some r ∧ i.repeats = true ∧ r.left = 0
      ∧ r.interruptible = true) ∧
    (∃ (s t : State) (c : ℕ) (i : Insn) (r : Machine.Rep) (z : Option (BitVec 64)), s.coreRuns c = true ∧ (s.coreOf c).rep = some r ∧
      i.repeats = true ∧ r.left ≠ 0 ∧ r.left ≠ 1 ∧ r.interruptible = true ∧ State.runOnce c i ((s.coreOf c).pc + 2) s = Except.ok (t,
      z)) ∧
    (∃ (s t : State) (c : ℕ) (i : Insn) (r : Machine.Rep) (z : Option (BitVec 64)), (s.coreOf c).rep = some r ∧ r.left ≠ 0 ∧ r.left ≠ 1
      ∧ r.interruptible = false ∧ State.runOnce c i ((s.coreOf c).pc + 2) s = Except.ok (t, z)) ∧
    (∃ (s t : State) (c : ℕ) (i : Insn) (r : Machine.Rep) (z : Option (BitVec 64)), (s.coreOf c).rep = some r ∧ r.left = 1 ∧
      r.interruptible = false ∧ State.runOnce c i ((s.coreOf c).pc + 2) s = Except.ok (t, z)) ∧
    (∃ (s : State) (c : ℕ) (i : Insn) (r : Machine.Rep), s.coreRuns c = true ∧ (s.coreOf c).rep = some r ∧ i.repeats = true ∧
      r.interruptible = false) ∧
    (∃ (s : State) (c : Fin 5) (r : Machine.Rep), (s.coreOf c.val).rep = some r ∧ r.interruptible = false ∧ twf { } s.zwm.cores = true)
      ∧
    (∃ (s : State) (c : ℕ) (i : Insn) (r : Machine.Rep), s.coreRuns c = true ∧ (s.coreOf c).rep = some r ∧ i.repeats = false ∧ s.flag c
      6 = false) :=
  ⟨⟨(zi 65 0 []), 0, by and_intros <;> decide +kernel⟩,
   ⟨(zi 66 3 [ar 5]), 0, 3, ar 5, ⟨9, tSecret⟩, (zi 66 3 [ar 5]), ⟨⟨by decide +kernel, by decide +kernel, by decide +kernel,
     by decide +kernel⟩, rfl, by decide +kernel, .inl rfl⟩⟩,
   ⟨(zi 67 3 [ar 0]), 0, ar 0, .reg 0, (zi 67 3 [ar 0]), _, ⟨⟨by decide +kernel, by decide +kernel, by decide +kernel,
     by decide +kernel⟩, rfl, .inl rfl, rfl⟩⟩,
   ⟨(zi 64 3 [⟨1, 3, 0⟩, ⟨9, 0, 0x100118⟩]), 0, ⟨1, 3, 0⟩, ⟨9, 0, 0x100118⟩, 0x100100, 0x100118, ⟨7, tInt⟩, ⟨0, tInt⟩, (zi 64 3 [⟨1, 3,
     0⟩, ⟨9, 0, 0x100118⟩]), (zi 64 3 [⟨1, 3, 0⟩, ⟨9, 0, 0x100118⟩]), (zi 64 3 [⟨1, 3, 0⟩, ⟨9, 0, 0x100118⟩]), (zi 64 3 [⟨1, 3, 0⟩, ⟨9,
     0, 0x100118⟩]), by
       refine ⟨⟨by decide +kernel, by decide +kernel, by decide +kernel, by decide +kernel⟩, rfl, ?_, rfl, ?_, rfl, ?_, rfl, ?_, .inl
         rfl⟩ <;> decide +kernel⟩,
   ⟨(zi 80 255 []), 0, 255, by and_intros <;> decide +kernel⟩,
   ⟨(zi 81 0 []), 0, 4, by and_intros <;> decide +kernel⟩,
   ⟨coreOn { std with regs := [(14, ⟨4, tSecret⟩)] } (insnBytes 81 0 []), 0, 4, by and_intros <;> decide +kernel⟩,
   ⟨repSt ⟨0, true⟩, 0, nopInsn, ⟨0, true⟩, by and_intros <;> decide +kernel⟩,
   ⟨repSt ⟨2, true⟩, repSt ⟨2, true⟩, 0, nopInsn, ⟨2, true⟩, none, by
       refine ⟨?_, rfl, ?_, ?_, ?_, ?_, rfl⟩ <;> decide +kernel⟩,
   ⟨repSt ⟨2, false⟩, repSt ⟨2, false⟩, 0, nopInsn, ⟨2, false⟩, none, ⟨rfl, by decide +kernel, by decide +kernel, by decide +kernel,
     rfl⟩⟩,
   ⟨repSt ⟨1, false⟩, repSt ⟨1, false⟩, 0, nopInsn, ⟨1, false⟩, none, ⟨rfl, by decide +kernel, by decide +kernel, rfl⟩⟩,
   ⟨repSt ⟨1, false⟩, 0, nopInsn, ⟨1, false⟩, by and_intros <;> decide +kernel⟩,
   ⟨repSt ⟨1, false⟩, 0, ⟨1, false⟩, by and_intros <;> decide +kernel⟩,
   ⟨repSt ⟨1, false⟩, 0, { nopInsn with repeats := false }, ⟨1, false⟩, by and_intros <;> decide +kernel⟩⟩

theorem witness_ZwmFaults :
    (∃ (s : State) (c : ℕ), s.flag c 6 = false) ∧
    (∃ (s : State) (c n : ℕ) (pc : BitVec 64) (p : Spec) (q : Place) (x : TWord) (s₁ s₂ : State), State.place c pc n p s = Except.ok (q,
      s₁) ∧ State.readPlace c n q s₁ = Except.ok (x, s₂) ∧ x.tag = tPoison) ∧
    (∃ (s : State) (c n : ℕ) (pc : BitVec 64) (p : Spec) (q : Place) (x : TWord) (s₁ s₂ : State), State.place c pc n p s = Except.ok (q,
      s₁) ∧ State.readPlace c n q s₁ = Except.ok (x, s₂) ∧ 6 ≤ x.tag.toNat ∧ x.tag.toNat ≤ 14) ∧
    (∃ (s : State) (c : ℕ) (p : Spec), 1 ≤ p.mode.toNat ∧ p.mode.toNat ≤ 7 ∧ (s.reg c p.reg.toNat).tag = tSecret) ∧
    (∃ (s : State) (c : ℕ) (p : Spec), 1 ≤ p.mode.toNat ∧ p.mode.toNat ≤ 7 ∧ (s.reg c p.reg.toNat).tag = tInt) ∧
    (∃ (s : State) (c : ℕ) (p : Spec), 1 ≤ p.mode.toNat ∧ p.mode.toNat ≤ 7 ∧ (s.reg c p.reg.toNat).tag = tPoison) ∧
    (∃ (s : State) (c : Fin 5) (sz : BitVec 8) (a : Spec) (e : Stop × ℕ) (code : ℕ) (addr : BitVec 64), s.Ready (c.val) 3 SizeForm.any
      sz 0 [a] ∧ State.src (c.val) (s.coreOf c.val).pc (szBytes sz) 0 a s = Except.error e ∧ e.1 = Stop.fault code addr ∧ s.flag (c.val)
      6 = false) ∧
    (∃ (s : State) (c : ℕ) (i : Insn) (code : ℕ) (addr : BitVec 64), s.coreRuns c = true ∧ (s.coreOf c).rep = none ∧ s.fetchCheck c true
      (s.coreOf c).pc i.bytes = Except.error (Stop.fault code addr) ∧ s.flag c 6 = false) ∧
    (∃ (s : State) (c : ℕ) (i : Insn), s.coreRuns c = true ∧ (s.coreOf c).rep = none ∧ s.fetchCheck c true (s.coreOf c).pc i.bytes =
      Except.ok () ∧ encodingOk i.form i.sz i.dests i.ops = false ∧ s.flag c 6 = false) ∧
    (∃ (s : State) (c : ℕ) (a : BitVec 64) (x : Option Byte) (t : BitVec 4), s.codeByte c a = Except.ok (x, t) ∧ t ≠ tCode) ∧
    (∃ (s : State) (c : ℕ) (a : BitVec 64) (b : Byte), s.codeByte c a = Except.ok (some b, tCode) ∧ (¬(BitVec.toNat b ≤ 6 ∨ 16 ≤
      BitVec.toNat b ∧ BitVec.toNat b ≤ 34 ∨ 48 ≤ BitVec.toNat b ∧ BitVec.toNat b ≤ 53 ∨ 64 ≤ BitVec.toNat b ∧ BitVec.toNat b ≤ 67 ∨ 80
      ≤ BitVec.toNat b ∧ BitVec.toNat b ≤ 81 ∨ 96 ≤ BitVec.toNat b ∧ BitVec.toNat b ≤ 98 ∨ 112 ≤ BitVec.toNat b ∧ BitVec.toNat b ≤
      116))) :=
  ⟨⟨zst, 0, by decide +kernel⟩,
   ⟨zst, 0, 8, 0, ar 0, .reg 0, {}, zst, zst, ⟨rfl, rfl, by decide +kernel⟩⟩,
   ⟨coreAt { std with regs := [(0, ⟨0, 6⟩)] }, 0, 8, 0, ar 0, .reg 0, ⟨0, 6⟩, _, _, ⟨rfl, rfl, by decide +kernel, by decide +kernel⟩⟩,
   ⟨zst, 0, ⟨1, 5, 0⟩, by and_intros <;> decide +kernel⟩,
   ⟨zst, 0, ⟨1, 1, 0⟩, by and_intros <;> decide +kernel⟩,
   ⟨zst, 0, ⟨1, 0, 0⟩, by and_intros <;> decide +kernel⟩,
   ⟨(zi 3 3 [ar 0]), 0, 3, ar 0, _, 2, 0, ⟨⟨by decide +kernel, by decide +kernel, by decide +kernel, by decide +kernel⟩, rfl, rfl,
     by decide +kernel⟩⟩,
   ⟨lost, 0, nopInsn, 0x10, 0x100100, ⟨by decide +kernel, by decide +kernel, rfl, by decide +kernel⟩⟩,
   ⟨coreOn std [0, 1], 0, { nopInsn with sz := 1 }, by
       refine ⟨?_, ?_, rfl, ?_, ?_⟩ <;> decide +kernel⟩,
   ⟨zst, 0, 0x100100, _, tInt, ⟨rfl, by decide +kernel⟩⟩,
   ⟨coreOn std [7], 0, 0x100000, 7, ⟨rfl, by decide +kernel⟩⟩⟩

theorem witness_WorldServices :
    (∃ (s : State) (v : Service), s.worlds.running = none ∧ List.find? s.svcMayStart s.worlds.pendingSvc = some v ∧ s.canServe = true) ∧
    (∃ (s : State) (v : Service), s.worlds.running = some v) ∧
    (∃ (s : State), s.pfOpen = true ∧ s.worlds.go = true) ∧
    (∃ (s : State), s.pfOpen = true ∧ s.worlds.go = false ∧ s.chip.state ≠ ChipState.recovery ∧ s.worlds.hearth.status = 1 ∧
      s.worlds.hbi ≠ 0 ∧ mbxHeaderFault (fit 256 s.worlds.req) = none ∧ mbxCodes.contains (BitVec.toNat (byteAt (fit 256 s.worlds.req)
      0)) = true) ∧
    (∃ (s : State), s.pfOpen = true ∧ s.worlds.go = false ∧ s.chip.state ≠ ChipState.recovery ∧ s.worlds.hearth.status ≠ 1 ∧
      s.worlds.discard = false ∧ s.worlds.running = none) ∧
    (∃ (s : State), s.pfOpen = true ∧ s.worlds.go = false ∧ s.chip.state ≠ ChipState.recovery ∧ s.worlds.hearth.status = 1 ∧
      s.worlds.hbi ≠ 0 ∧ s.worlds.discard = false ∧ s.worlds.running = none ∧ mbxHeaderFault (fit 256 s.worlds.req) = none ∧
      mbxCodes.contains (BitVec.toNat (byteAt (fit 256 s.worlds.req) 0)) = false) ∧
    (∃ (s : State), s.worlds.running = some Service.mbx ∧ s.worlds.discard = false) ∧
    (∃ (s : State) (k : Fin 17), k.val ≠ 0 ∧ s.worlds.toHearth.tail + k.val - s.worlds.toHearth.head ≤ 16) ∧
    (∃ (s : State) (k : Fin 17), k.val ≠ 0 ∧ s.worlds.toBench.tail + k.val - s.worlds.toBench.head ≤ 16) ∧
    (∃ (s : State) (k : Fin 17) (bench : Bool), k.val = 0 ∨ 16 < (s.ringOf !bench).tail + k.val - (s.ringOf !bench).head) ∧
    (∃ (s : State) (n : Fin 17), n.val ≤ s.worlds.toBench.tail - s.worlds.toBench.head) ∧
    (∃ (s : State) (n : Fin 17), n.val ≤ s.worlds.toHearth.tail - s.worlds.toHearth.head) ∧
    (∃ (s : State) (c : Instr), (c = Instr.hbiHello ∨ c = Instr.hbiHelloRetry ∧ s.worlds.helloOut = true) ∧ s.worlds.bench.status = 1 ∧
      s.worlds.toHearth.tail - s.worlds.toHearth.head < 16 ∧ twf { } s.zwm.msg = true) ∧
    (∃ (s : State) (c : Instr), (c = Instr.hbiHello ∨ c = Instr.hbiHelloRetry) ∧ (s.worlds.bench.status ≠ 1 ∨ 16 ≤
      s.worlds.toHearth.tail - s.worlds.toHearth.head)) ∧
    (∃ (s : State), s.worlds.helloOut = false) ∧
    (∃ (s : State), s.worlds.hearth.status = 1 ∧ s.worlds.toHearth.head < s.worlds.toHearth.tail ∧ leAt (s.ringMsg false
      s.worlds.toHearth.head) 0 2 = 1 ∧ s.worlds.toBench.tail - s.worlds.toBench.head < 16) ∧
    (∃ (s : State), s.worlds.hearth.status ≠ 1 ∨ s.worlds.toHearth.tail ≤ s.worlds.toHearth.head ∨ leAt (s.ringMsg false
      s.worlds.toHearth.head) 0 2 ≠ 1 ∨ 16 ≤ s.worlds.toBench.tail - s.worlds.toBench.head) ∧
    (∃ (v : BitVec 32), v ≠ 19273) :=
  ⟨⟨withWorlds fun w => { w with pendingSvc := [.mbx] }, .mbx, by and_intros <;> decide +kernel⟩,
   ⟨withWorlds fun w => { w with running := some .mbx }, .mbx, by decide +kernel⟩,
   ⟨withWorlds fun w => { w with go := true }, by and_intros <;> decide +kernel⟩,
   ⟨withWorlds fun w => { w with req := [0x10, 0, 0, 0] }, by and_intros <;> decide +kernel⟩,
   ⟨withWorlds fun w => { w with hearth := {} }, by and_intros <;> decide +kernel⟩,
   ⟨withWorlds fun w => { w with req := [0x99, 0, 0, 0] }, by and_intros <;> decide +kernel⟩,
   ⟨asked 0x10 [], by and_intros <;> decide +kernel⟩,
   ⟨up, 1, by and_intros <;> decide +kernel⟩,
   ⟨up, 1, by and_intros <;> decide +kernel⟩,
   ⟨up, 0, false, by decide +kernel⟩,
   ⟨withWorlds (fun w => { w with toBench := { tail := 16 } }), 16, by decide +kernel⟩,
   ⟨withWorlds (fun w => { w with toHearth := { tail := 16 } }), 16, by decide +kernel⟩,
   ⟨up, .hbiHello, ⟨.inl rfl, by and_intros <;> decide +kernel⟩⟩,
   ⟨withWorlds (fun w => { w with bench := {} }), .hbiHello, ⟨.inl rfl, .inl (by decide +kernel)⟩⟩,
   ⟨up, by decide +kernel⟩,
   ⟨{ withWorlds (fun w => { w with toHearth := { tail := 1 } }) with zwm := { msg := [(262656, mword 1 tInt)] } },
     by and_intros <;> decide +kernel⟩,
   ⟨up, by decide +kernel⟩,
   ⟨0, by decide +kernel⟩⟩

theorem witness_WorldRestarts :
    (∃ (s : State), s.worlds.hearth.status < 2 ∧ s.zwm.hearthMpu.waiting = []) ∧
    (∃ (s : State) (op : ℕ) (o : Op), s.worlds.hearth.status < 2 ∧ s.zwm.hearthMpu.waiting = [] ∧ (op ∈ s.worlds.channel ∨ op ∈
      s.worlds.chanWait) ∧ s.opOf op = some o) ∧
    (∃ (s : State), 2 ≤ s.worlds.hearth.status) ∧
    (∃ (s : State), s.worlds.hearth.status = 2 ∧ s.worlds.running = none ∧ s.imageFault 0 s.unsignedOk (s.imageAt 0 (tget 3 s.life.boot
      0)) = 0) ∧
    (∃ (s : State), s.worlds.hearth.status = 2 ∧ s.imageFault 0 s.unsignedOk (s.imageAt 0 (tget 3 s.life.boot 0)) ∉ [0, 6]) ∧
    (∃ (s : State), s.worlds.hearth.status ≠ 2) ∧
    (∃ (s : State), s.worlds.bench.status < 2 ∧ s.zwm.benchMpu.waiting = []) ∧
    (∃ (s : State), 2 ≤ s.worlds.bench.status) ∧
    (∃ (s : State), s.worlds.bench.status = 2 ∧ s.worlds.toHearth = { } ∧ s.imageFault 1 s.unsignedOk (s.imageAt 1 (tget 3 s.life.boot
      1)) = 0) ∧
    (∃ (s : State), s.worlds.bench.status = 2 ∧ s.imageFault 1 s.unsignedOk (s.imageAt 1 (tget 3 s.life.boot 1)) ∉ [0, 6]) ∧
    (∃ (s : State), s.worlds.bench.status ≠ 2) :=
  ⟨⟨up, by and_intros <;> decide +kernel⟩,
   ⟨rackSt (sdOp 0x0601), 1, sdOp 0x0601, ⟨by decide +kernel, rfl, .inl (by decide +kernel), by decide +kernel⟩⟩,
   ⟨withWorlds fun w => { w with hearth := { status := 2 } }, by decide +kernel⟩,
   ⟨{ cold with life := { cold.life with boot := [(0, 0)] }, worlds := { hearth := { status := 2 } } },
     by and_intros <;> decide +kernel⟩,
   ⟨withWorlds fun w => { w with hearth := { status := 2 } }, by and_intros <;> decide +kernel⟩,
   ⟨up, by decide +kernel⟩,
   ⟨up, by and_intros <;> decide +kernel⟩,
   ⟨withWorlds fun w => { w with bench := { status := 2 } }, by decide +kernel⟩,
   ⟨{ cold with life := { cold.life with boot := [(0, 0), (1, 0)] }, worlds := { bench := { status := 2 } } },
     by and_intros <;> decide +kernel⟩,
   ⟨withWorlds fun w => { w with bench := { status := 2 } }, by and_intros <;> decide +kernel⟩,
   ⟨up, by decide +kernel⟩⟩

theorem witness_ProtectionUnits :
    (∃ (s : State) (b : Bool), (s.mpuOf b).hold = true) ∧
    (∃ (s : State) (b : Bool), (s.mpuOf b).hold = false) ∧
    (∃ (s : State) (b : Bool), (s.mpuOf b).hold = true ∧ (s.mpuOf b).busy = true) ∧
    (∃ (s : State) (b : Bool), (s.mpuOf b).hold = true ∧ (s.mpuOf b).busy = false) ∧
    (∃ (s : State) (b : Bool) (v : BitVec 32), v.getLsbD 8 = true ∧ (s.mpuOf b).holdAck = false) ∧
    (∃ (s : State) (b : Bool) (v : BitVec 32), v.getLsbD 8 = true ∧ (s.mpuOf b).holdAck = true ∧ (s.mpuOf b).busy = false ∧ 0 < (s.mpuOf
      b).lineCount ∧ ((s.mpuOf b).lineBase + (s.mpuOf b).lineCount ≤ if b = true then 65536 else 8192)) ∧
    (∃ (s : State) (b : Bool) (v : BitVec 32), v.getLsbD 8 = true ∧ (s.mpuOf b).holdAck = true ∧ (s.mpuOf b).busy = false ∧ (if b = true
      then 65536 else 8192) < (s.mpuOf b).lineBase + (s.mpuOf b).lineCount) ∧
    (∃ (s : State) (b : Bool) (lo n : ℕ) (col : BitVec 4), (s.mpuOf b).run = some (lo, n, col) ∧ (s.mpuOf b).clearWait = false ∧ twf 0
      (s.mpuOf b).colours = true) ∧
    (∃ (s : State) (b : Bool) (off : BitVec 16), (s.mpuOf b).holdAck = false ∧ (off = 8 ∨ off = 12 ∨ 256 ≤ off.toNat ∧ off.toNat < 512))
      ∧
    (∃ (s : State), s.zwm.hearthMpu.holdAck = true) ∧
    (∃ (s : State), s.zwm.benchMpu.holdAck = true) ∧
    (∃ (s : State) (b : Bool) (n : ℕ), n < 64 ∧ (s.mpuOf b).holdAck = true ∧ twf { } (s.mpuOf b).rules = true ∧ s.owns b n = true ∧ (n ≠
      if b = true then 44 else 17)) ∧
    (∃ (s : State) (b : Bool) (n : ℕ), n < 64 ∧ (s.mpuOf b).holdAck = true ∧ s.owns b n = false) ∧
    (∃ (s : State) (r : DebugReq) (b : Bool) (a : Area), s.debugWorld (locOf r.addr) = some (b, a) ∧ (s.mpuOf b).hold = true) ∧
    (∃ (s : State) (r : DebugReq) (b : Bool) (a : Area), s.debugWorld (locOf r.addr) = some (b, a) ∧ (s.mpuOf b).hold = false) ∧
    (∃ (s : State) (r : DebugReq), s.debugWorld (locOf r.addr) = none) ∧
    (∃ (r : DebugReq), r.size ≠ 4 ∧ r.size ≠ 8) ∧
    (∃ (s : State), s.lifeCode ≠ 2 ∧ s.lifeCode ≠ 3 ∧ s.lifeCode ≠ 5) ∧
    (∃ (s : State) (p : CopyPiece), p.src.toNat % 64 + ↑p.len ≤ 64 ∧ p.dst.toNat % 64 + ↑p.len ≤ 64 ∧ (s.mpuOf p.bench).hold = true) ∧
    (∃ (s t : State) (p : CopyPiece), p.src.toNat % 64 + ↑p.len ≤ 64 ∧ p.dst.toNat % 64 + ↑p.len ≤ 64 ∧ (s.mpuOf p.bench).hold = false ∧
      State.copyMove p s = Except.ok t) ∧
    (∃ (s : State) (p : CopyPiece) (code : ℕ) (a : BitVec 64), p.src.toNat % 64 + ↑p.len ≤ 64 ∧ p.dst.toNat % 64 + ↑p.len ≤ 64 ∧
      (s.mpuOf p.bench).hold = false ∧ State.copyMove p s = Except.error (Stop.fault code a)) ∧
    (∃ (s : State) (b : Bool) (a : BitVec 64) (n : ℕ) (area : Area), (s.mpuOf b).hold = false ∧ 0 < n ∧ bits a 59 32 = 0 ∧ locOf a % n =
      0 ∧ areaOf b (locOf a) = some area ∧ (∀ (k : ℕ), area ≠ Area.slot k) ∧ colourOf a ≠ s.lineColour area (locOf a)) ∧
    (∃ (s : State) (b : Bool) (a : BitVec 64) (n : ℕ) (w sec : Bool) (area : Area), (s.mpuOf b).hold = false ∧ 0 < n ∧ bits a 59 32 = 0
      ∧ locOf a % n = 0 ∧ areaOf b (locOf a) = some area ∧ (∀ (k : ℕ), area ≠ Area.slot k) ∧ colourOf a = s.lineColour area (locOf a) ∧
      (w && sec) = false) ∧
    (∃ (s : State) (b : Bool) (a : BitVec 64) (n k : ℕ), (s.mpuOf b).hold = false ∧ 0 < n ∧ bits a 59 32 = 0 ∧ locOf a % n = 0 ∧ areaOf
      b (locOf a) = some (Area.slot k) ∧ (s.owns b k = false ∨ (s.slotRule b k).colours.getLsbD (colourOf a) = false)) ∧
    (∃ (s : State) (b : Bool) (a : BitVec 64) (n : ℕ), (s.mpuOf b).hold = false ∧ 0 < n ∧ bits a 59 32 = 0 ∧ locOf a % n = 0 ∧ areaOf b
      (locOf a) = none) ∧
    (∃ (s : State) (b : Bool) (who : Option ℕ) (a : BitVec 64) (n : ℕ) (v : TWord) (t : State) (b' : Bool) (area : Area) (loc : ℕ), (∀
      (k : ℕ), areaOf b (locOf a) ≠ some (Area.slot k)) ∧ State.dataWrite b who a n v s = Except.ok t ∧ areaOf b' loc = some area ∧ (∀
      (k : ℕ), area ≠ Area.slot k) ∧ loc / 8 ≠ locOf a / 8) :=
  ⟨⟨withUnit { hold := true }, false, by decide +kernel⟩,
   ⟨up, false, by decide +kernel⟩,
   ⟨withUnit { hold := true, busy := true }, false, by and_intros <;> decide +kernel⟩,
   ⟨withUnit { hold := true }, false, by and_intros <;> decide +kernel⟩,
   ⟨up, true, 0x100, by and_intros <;> decide +kernel⟩,
   ⟨withUnit { holdAck := true, lineBase := 8191, lineCount := 1 }, false, 0x100, by and_intros <;> decide +kernel⟩,
   ⟨withUnit { holdAck := true, lineBase := 8191, lineCount := 2 }, false, 0x100, by and_intros <;> decide +kernel⟩,
   ⟨withUnit { run := some (5, 2, 3) }, false, 5, 2, 3, by and_intros <;> decide +kernel⟩,
   ⟨up, false, 0x1FF, ⟨by decide +kernel, .inr (.inr ⟨by decide +kernel, by decide +kernel⟩)⟩⟩,
   ⟨withUnit { holdAck := true }, by decide +kernel⟩,
   ⟨{ up with zwm := { benchMpu := { holdAck := true } } }, by decide +kernel⟩,
   ⟨withUnit { holdAck := true }, false, 20, by and_intros <;> decide +kernel⟩,
   ⟨withUnit { holdAck := true }, false, 48, by and_intros <;> decide +kernel⟩,
   ⟨withUnit { hold := true }, { addr := 0x100000, size := 4, write := none }, false, .sram, by and_intros <;> decide +kernel⟩,
   ⟨up, { addr := 0x80000000, size := 4, write := none }, false, .slot 0, by and_intros <;> decide +kernel⟩,
   ⟨up, { addr := 0x80150000, size := 4, write := none }, by decide +kernel⟩,
   ⟨{ addr := 0, size := 2, write := none }, by and_intros <;> decide +kernel⟩,
   ⟨State.reset, by and_intros <;> decide +kernel⟩,
   ⟨withUnit { hold := true }, { bench := false, src := 0x10003C, dst := 0x100000, len := 4, offset := 0 },
     by and_intros <;> decide +kernel⟩,
   ⟨zst, zst, { bench := false, src := 0x100100, dst := 0x100118, len := 0, offset := 0 }, ⟨by decide +kernel, by decide +kernel,
     by decide +kernel, rfl⟩⟩,
   ⟨zst, { bench := false, src := 0x1000000000100100, dst := 0x100118, len := 4, offset := 0 }, 9, 0x1000000000100100,
     ⟨by decide +kernel, by decide +kernel, by decide +kernel, rfl⟩⟩,
   ⟨zst, false, 0x1000000000100100, 8, .sram, by
       refine ⟨?_, ?_, ?_, ?_, ?_, (fun _ h => by cases h), ?_⟩ <;> decide +kernel⟩,
   ⟨zst, false, 0x100100, 8, true, false, .sram, by
       refine ⟨?_, ?_, ?_, ?_, ?_, (fun _ h => by cases h), ?_, ?_⟩ <;> decide +kernel⟩,
   ⟨zst, false, 0x80300000, 4, 48, by
       refine ⟨?_, ?_, ?_, ?_, ?_, .inl (by decide +kernel)⟩ <;> decide +kernel⟩,
   ⟨zst, false, 0x400000, 8, by and_intros <;> decide +kernel⟩,
   ⟨zst, false, none, 0x100100, 8, ⟨1, tInt⟩, _, false, .sram, 0x100108,
     ⟨(fun _ h => by rw [show areaOf false (locOf 0x100100) = some .sram from rfl] at h; cases h), rfl, by decide +kernel,
     (fun _ h => by cases h), by decide +kernel⟩⟩⟩

theorem witness_LegacyWindow :
    (∃ (s : State), s.chip.legacy = false) ∧
    (∃ (s : State), s.pfOpen = true ∧ s.chip.legacy = true ∧ s.legacy.busy = true) ∧
    (∃ (s : State) (frame : Bytes), s.pfOpen = true ∧ s.chip.legacy = true ∧ s.legacy.busy = false ∧ frame = slice s.legacy.req 0 (min
      1536 s.legacy.reqLen) ∧ (State.legacyAtOnce { s with legacy := { s.legacy with busy := true, snap := frame } } s.legacy.reqLen
      frame = none)) ∧
    (∃ (s : State) (frame : Bytes) (st : String), s.pfOpen = true ∧ s.chip.legacy = true ∧ s.legacy.busy = false ∧ s.legacy.discard =
      false ∧ frame = slice s.legacy.req 0 (min 1536 s.legacy.reqLen) ∧ (State.legacyAtOnce
      { s with legacy := { s.legacy with busy := true, snap := frame } } s.legacy.reqLen frame = some st)) ∧
    (∃ (s : State), s.chip.state = ChipState.locked) ∧
    (∃ (s : State), s.chip.state = ChipState.ready ∧ s.worlds.vaultUp = false) ∧
    (∃ (s : State) (n : ℕ) (frame : Bytes), s.chip.state = ChipState.ready ∧ s.worlds.vaultUp = true ∧ (n < 8 ∨ 1536 < n ∨ byteAt frame
      0 ≠ 60)) ∧
    (∃ (s : State) (n : ℕ) (frame : Bytes), s.chip.state = ChipState.ready ∧ s.worlds.vaultUp = true ∧ frameOk n frame = true ∧ (∀ c ∈
      legBarred, ascii c ≠ legCode frame) ∧ (∀ g ∈ legGrammar, ascii g.1 ≠ legCode frame)) ∧
    (∃ (s : State) (frame : Bytes), s.chip.state = ChipState.ready ∧ s.worlds.vaultUp = true ∧ (∃ b ∈ legCode frame, isUpper b = false))
      ∧
    (∃ (s : State) (rsp : Bytes), s.legacy.answer = some rsp ∧ s.legacy.discard = false) ∧
    (∃ (s : State) (rsp : Bytes), s.legacy.answer = some rsp ∧ s.legacy.discard = true) ∧
    (∃ (s : State), s.legacy.answer = none) ∧
    (∃ (s : State) (n : BitVec 16) (x : Slot) (a : BitVec 128), s.pfOpen = true ∧ s.chip.legacy = true ∧ x = s.slotOf n.toNat ∧ a =
      x.attr ∧ aValid a = true ∧ x.check ≠ s.checkOf n.toNat x) ∧
    (∃ (s : State) (n : BitVec 16) (x : Slot) (a : BitVec 128), s.pfOpen = true ∧ s.chip.legacy = true ∧ x = s.slotOf n.toNat ∧ a =
      x.attr ∧ aValid a = false) ∧
    (∃ (s : State) (n : BitVec 16) (x : Slot) (a : BitVec 128), s.pfOpen = true ∧ s.chip.legacy = true ∧ x = s.slotOf n.toNat ∧ a =
      x.attr ∧ aValid a = true ∧ x.check = s.checkOf n.toNat x ∧ aTenant a ≠ 0) ∧
    (∃ (s : State) (n : BitVec 16) (x : Slot) (a : BitVec 128), s.pfOpen = true ∧ s.chip.legacy = true ∧ x = s.slotOf n.toNat ∧ a =
      x.attr ∧ aValid a = true ∧ x.check = s.checkOf n.toNat x ∧ aTenant a = 0 ∧ (aClass a ≠ 7 ∨ aUsage a ≠ use2 'K' '0' ∨ aAlg a ≠ ch
      'T' ∨ aSub a ≠ 3 ∨ aKlen a ≠ 24 ∨ aMode a ≠ ch 'B' ∨ aExport a ≠ ch 'N' ∨ bits a 95 92 ≠ 2)) ∧
    (∃ (s : State) (n : BitVec 16) (x : Slot) (a : BitVec 128), s.pfOpen = true ∧ s.chip.legacy = true ∧ x = s.slotOf n.toNat ∧ a =
      x.attr ∧ aValid a = true ∧ x.check = s.checkOf n.toNat x ∧ aTenant a = 0 ∧ aClass a = 7 ∧ aUsage a = use2 'K' '0' ∧ aAlg a = ch
      'T' ∧ aSub a = 3 ∧ aKlen a = 24 ∧ aMode a = ch 'B' ∧ aExport a = ch 'N' ∧ bits a 95 92 = 2 ∧ (s.chip.state ≠ ChipState.ready ∨
      s.worlds.vaultUp = false)) ∧
    (∃ (s : State) (n : BitVec 16) (x : Slot) (a : BitVec 128), s.pfOpen = true ∧ s.chip.legacy = true ∧ x = s.slotOf n.toNat ∧ a =
      x.attr ∧ aValid a = true ∧ x.check = s.checkOf n.toNat x ∧ aTenant a = 0 ∧ aClass a = 7 ∧ aUsage a = use2 'K' '0' ∧ aAlg a = ch
      'T' ∧ aSub a = 3 ∧ aKlen a = 24 ∧ aMode a = ch 'B' ∧ aExport a = ch 'N' ∧ bits a 95 92 = 2 ∧ s.chip.state = ChipState.ready ∧
      s.worlds.vaultUp = true ∧ s.legacy.bound = true) ∧
    (∃ (s : State) (n : BitVec 16) (x : Slot) (a : BitVec 128) (u : State), s.pfOpen = true ∧ s.chip.legacy = true ∧ x = s.slotOf
      n.toNat ∧ a = x.attr ∧ aValid a = true ∧ x.check = s.checkOf n.toNat x ∧ aTenant a = 0 ∧ aClass a = 7 ∧ aUsage a = use2 'K' '0' ∧
      aAlg a = ch 'T' ∧ aSub a = 3 ∧ aKlen a = 24 ∧ aMode a = ch 'B' ∧ aExport a = ch 'N' ∧ bits a 95 92 = 2 ∧ s.chip.state =
      ChipState.ready ∧ s.worlds.vaultUp = true ∧ s.legacy.bound = false ∧ (State.reserveStore 0 1
      { s with legacy := { s.legacy with bindSlot := n.toNat } } = some u)) ∧
    (∃ (s : State) (n : BitVec 16) (x : Slot) (a : BitVec 128), s.pfOpen = true ∧ s.chip.legacy = true ∧ x = s.slotOf n.toNat ∧ a =
      x.attr ∧ aValid a = true ∧ x.check = s.checkOf n.toNat x ∧ aTenant a = 0 ∧ aClass a = 7 ∧ aUsage a = use2 'K' '0' ∧ aAlg a = ch
      'T' ∧ aSub a = 3 ∧ aKlen a = 24 ∧ aMode a = ch 'B' ∧ aExport a = ch 'N' ∧ bits a 95 92 = 2 ∧ s.chip.state = ChipState.ready ∧
      s.worlds.vaultUp = true ∧ s.legacy.bound = false ∧ (s.tenantOf 0).storeQuota ≤ (s.tenantOf 0).storeUsed) ∧
    (∃ (s : State) (c : Instr) (code : String), (c, code) ∈ [(Instr.legKz, "KZ"), (Instr.legKl, "KL"), (Instr.legKy, "KY"),
      (Instr.legXa, "XA"), (Instr.legXd, "XD"), (Instr.legXp, "XP"), (Instr.legPn, "PN"), (Instr.legPr, "PR"), (Instr.legPo, "PO"),
      (Instr.legPg, "PG")] ∧ s.legacy.busy = true ∧ s.legacy.discard = false ∧ legCode s.legacy.snap = ascii code ∧ s.legacy.answer =
      none) ∧
    (∃ (err : BitVec 32) (b : ℕ), err.getLsbD b = true ∧ (∀ a < b, err.getLsbD a = false) ∧ b ≤ 1) ∧
    (∃ (err : BitVec 32) (b : ℕ), err.getLsbD b = true ∧ (∀ a < b, err.getLsbD a = false) ∧ b = 2) ∧
    (∃ (err : BitVec 32) (b : ℕ), err.getLsbD b = true ∧ (∀ a < b, err.getLsbD a = false) ∧ b = 3) ∧
    (∃ (err : BitVec 32) (b : ℕ), err.getLsbD b = true ∧ (∀ a < b, err.getLsbD a = false) ∧ b = 4) ∧
    (∃ (err : BitVec 32) (b : ℕ), err.getLsbD b = true ∧ (∀ a < b, err.getLsbD a = false) ∧ 5 ≤ b ∧ b ≤ 8) ∧
    (∃ (err : BitVec 32) (b : ℕ), err.getLsbD b = true ∧ (∀ a < b, err.getLsbD a = false) ∧ 9 ≤ b ∧ b ≤ 10) ∧
    (∃ (err : BitVec 32) (b : ℕ), err.getLsbD b = true ∧ (∀ a < b, err.getLsbD a = false) ∧ b = 11) :=
  ⟨⟨up, by decide +kernel⟩,
   ⟨{ window "SS" with legacy := { busy := true } }, by and_intros <;> decide +kernel⟩,
   ⟨window "KZ", legFrame "KZ" [], by
       refine ⟨?_, ?_, ?_, ?_, rfl⟩ <;> decide +kernel⟩,
   ⟨window "QQ", legFrame "QQ" [], "N02", by
       refine ⟨?_, ?_, ?_, ?_, ?_, rfl⟩ <;> decide +kernel⟩,
   ⟨{ up with chip := { up.chip with state := .locked } }, by decide +kernel⟩,
   ⟨{ up with worlds := {} }, by and_intros <;> decide +kernel⟩,
   ⟨up, 7, [], ⟨by decide +kernel, by decide +kernel, .inl (by decide +kernel)⟩⟩,
   ⟨up, 8, legFrame "QQ" [], by and_intros <;> decide +kernel⟩,
   ⟨up, legFrame "q1" [], by and_intros <;> decide +kernel⟩,
   ⟨{ window "SS" with legacy := { answer := some [] } }, [], by and_intros <;> decide +kernel⟩,
   ⟨{ window "SS" with legacy := { answer := some [], discard := true } }, [], by and_intros <;> decide +kernel⟩,
   ⟨up, by decide +kernel⟩,
   ⟨badLegacy, 0, _, _, ⟨by decide +kernel, by decide +kernel, rfl, rfl, by decide +kernel, by simp [badLegacy, badSt, State.slotOf,
     tget, badSlot, State.checkOf, up]⟩⟩,
   ⟨{ up with chip := { up.chip with legacy := true } }, 0, _, _, ⟨by decide +kernel, by decide +kernel, rfl, rfl, by decide +kernel⟩⟩,
   ⟨lmkSt otherLmk, 0, _, _, by
       refine ⟨?_, ?_, rfl, rfl, ?_, lmk_check _ _, ?_⟩ <;> decide +kernel⟩,
   ⟨lmkSt dataKey, 0, _, _, by
       refine ⟨?_, ?_, rfl, rfl, ?_, lmk_check _ _, ?_, .inl (by decide +kernel)⟩ <;> decide +kernel⟩,
   ⟨{ lmkSt with worlds := {} }, 0, _, _, ⟨by decide +kernel, by decide +kernel, rfl, rfl, by decide +kernel, lmk_check lmkAttr false,
     by and_intros <;> decide +kernel⟩⟩,
   ⟨lmkSt lmkAttr true, 0, _, _, ⟨by decide +kernel, by decide +kernel, rfl, rfl, by decide +kernel, lmk_check _ _,
     by and_intros <;> decide +kernel⟩⟩,
   ⟨lmkSt, 0, _, _, (State.reserveStore 0 1 { lmkSt with legacy := { lmkSt.legacy with bindSlot := 0 } }).getD State.reset, by
       refine ⟨?_, ?_, rfl, rfl, ?_, lmk_check _ _, ?_, ?_, ?_, ?_, ?_, ?_, ?_, ?_, ?_, ?_, ?_, ?_, gd _ _ (by decide +kernel)⟩ <;>
         decide +kernel⟩,
   ⟨{ lmkSt with vault := {} }, 0, _, _, ⟨by decide +kernel, by decide +kernel, rfl, rfl, by decide +kernel, lmk_check lmkAttr false,
     by and_intros <;> decide +kernel⟩⟩,
   ⟨served "KZ", .legKz, "KZ", ⟨(by simp), by and_intros <;> decide +kernel⟩⟩,
   ⟨1, 0, by and_intros <;> decide +kernel⟩,
   ⟨4, 2, by and_intros <;> decide +kernel⟩,
   ⟨8, 3, by and_intros <;> decide +kernel⟩,
   ⟨16, 4, by and_intros <;> decide +kernel⟩,
   ⟨32, 5, by and_intros <;> decide +kernel⟩,
   ⟨512, 9, by and_intros <;> decide +kernel⟩,
   ⟨2048, 11, by and_intros <;> decide +kernel⟩⟩

theorem witness_LegacyServiceAndKeys :
    (∃ (s : State) (f : List Bytes), s.Asked "SS" f) ∧
    (∃ (s : State) (f : List Bytes), s.Asked "SV" f) ∧
    (∃ (s : State) (f : List Bytes), s.Asked "SN" f) ∧
    (∃ (s : State) (f : List Bytes) (x : Bytes), s.Asked "SE" f ∧ f = [x]) ∧
    (∃ (s : State) (f : List Bytes), s.Asked "SL" f) ∧
    (∃ (s : State) (f : List Bytes), s.Asked "SC" f) ∧
    (∃ (s : State) (f : List Bytes), s.Asked "SD" f) ∧
    (∃ (s : State) (f : List Bytes), s.Asked "SA" f) ∧
    (∃ (s : State) (f : List Bytes) (n g : Bytes), s.Asked "RN" f ∧ f = [n] ∧ s.bellows.given = some g) ∧
    (∃ (s : State) (n : Bytes), s.Asked "RN" [n] ∧ 1 ≤ decOf n ∧ s.bellows.given = none ∧ s.bellows.state = BState.ok ∧ s.waitsSeed
      Asker.hearth = false) ∧
    (∃ (s : State) (f : List Bytes), s.Asked "RN" f ∧ s.bellows.given = none ∧ s.bellows.state = BState.failed ∧ s.bellows.retest =
      false) ∧
    (∃ (s : State) (ty sch key g : Bytes) (v : ℕ), s.Asked "KG" [ty, sch] ∧ s.LmkSound ∧ legV ty = some v ∧ s.bellows.given = some g ∧
      key = List.map Des.oddParity (List.take (if sch = [50] then 16 else 24) g)) ∧
    (∃ (s : State) (ty sch z zmk key g : Bytes) (v : ℕ), s.Asked "KX" [ty, sch, z] ∧ s.LmkSound ∧ legV ty = some v ∧ s.openKey 0 z =
      some zmk ∧ s.bellows.given = some g ∧ key = List.map Des.oddParity (List.take (if sch = [50] then 16 else 24) g)) ∧
    (∃ (s : State) (ty z y zmk : Bytes) (v : ℕ), s.Asked "KI" [ty, z, y] ∧ s.LmkSound ∧ legV ty = some v ∧ s.openKey 0 z = some zmk) ∧
    (∃ (s : State) (ty z y zmk : Bytes) (v : ℕ), s.Asked "KE" [ty, z, y] ∧ s.LmkSound ∧ legV ty = some v ∧ ty ≠ ascii "ZM" ∧ ty ≠ ascii
      "BD" ∧ s.openKey 0 z = some zmk) ∧
    (∃ (s : State) (ty z y : Bytes), s.Asked "KE" [ty, z, y] ∧ (ty = ascii "ZM" ∨ ty = ascii "BD")) ∧
    (∃ (s : State) (ty k key : Bytes) (v : ℕ), s.Asked "KC" [ty, k] ∧ s.LmkSound ∧ legV ty = some v ∧ s.openKey v k = some key) ∧
    (∃ (s : State) (ty k : Bytes) (v : ℕ), s.Asked "KC" [ty, k] ∧ s.LmkSound ∧ legV ty = some v ∧ s.openKey v k = none) ∧
    (∃ (s : State) (ty k key x : Bytes) (v : ℕ), s.Asked "KQ" [ty, k, x] ∧ s.LmkSound ∧ legV ty = some v ∧ s.openKey v k = some key) ∧
    (∃ (s : State) (v : ℕ) (field key : Bytes) (b : BitVec 8), s.openKey v field = some key ∧ b ∈ key) :=
  ⟨⟨served "SS", [], ⟨rfl, by decide +kernel, rfl, by decide +kernel⟩⟩,
   ⟨served "SV", [], ⟨rfl, by decide +kernel, rfl, by decide +kernel⟩⟩,
   ⟨served "SN", [], ⟨rfl, by decide +kernel, rfl, by decide +kernel⟩⟩,
   ⟨served "SE" [ascii "000141"], _, ascii "000141", ⟨⟨rfl, by decide +kernel, rfl, by decide +kernel⟩, rfl⟩⟩,
   ⟨served "SL", [], ⟨rfl, by decide +kernel, rfl, by decide +kernel⟩⟩,
   ⟨served "SC", [], ⟨rfl, by decide +kernel, rfl, by decide +kernel⟩⟩,
   ⟨served "SD", [], ⟨rfl, by decide +kernel, rfl, by decide +kernel⟩⟩,
   ⟨served "SA", [], ⟨rfl, by decide +kernel, rfl, by decide +kernel⟩⟩,
   ⟨gave [1] (served "RN" [ascii "001"]), _, ascii "001", [1], ⟨⟨rfl, by decide +kernel, rfl, by decide +kernel⟩, rfl,
     by decide +kernel⟩⟩,
   ⟨served "RN" [ascii "001"], ascii "001", ⟨⟨rfl, by decide +kernel, rfl, by decide +kernel⟩, by and_intros <;> decide +kernel⟩⟩,
   ⟨{ served "RN" [ascii "001"] with bellows := { state := .failed } }, [ascii "001"], ⟨⟨rfl, by decide +kernel, rfl,
     by decide +kernel⟩, by and_intros <;> decide +kernel⟩⟩,
   ⟨gave [1] (served "KG" [ascii "ZP", [50]]), ascii "ZP", [50], _, [1], 30, ⟨⟨rfl, by decide +kernel, rfl, by decide +kernel⟩,
     (fun _ h => by cases h), by decide +kernel, by decide +kernel, rfl⟩⟩,
   ⟨gave [1] (served "KX" [ascii "ZP", [50], []]), ascii "ZP", [50], [], [], _, [1], 30, ⟨⟨rfl, by decide +kernel, rfl,
     by decide +kernel⟩, (fun _ h => by cases h), by decide +kernel, by decide +kernel, by decide +kernel, rfl⟩⟩,
   ⟨served "KI" [ascii "ZP", [], []], ascii "ZP", [], [], [], 30, ⟨⟨rfl, by decide +kernel, rfl, by decide +kernel⟩,
     (fun _ h => by cases h), by decide +kernel, by decide +kernel⟩⟩,
   ⟨served "KE" [ascii "ZP", [], []], ascii "ZP", [], [], [], 30, ⟨⟨rfl, by decide +kernel, rfl, by decide +kernel⟩,
     (fun _ h => by cases h), by and_intros <;> decide +kernel⟩⟩,
   ⟨served "KE" [ascii "BD", [], []], ascii "BD", [], [], ⟨⟨rfl, by decide +kernel, rfl, by decide +kernel⟩, .inr (by decide +kernel)⟩⟩,
   ⟨served "KC" [ascii "ZP", []], ascii "ZP", [], [], 30, ⟨⟨rfl, by decide +kernel, rfl, by decide +kernel⟩, (fun _ h => by cases h),
     by decide +kernel, by decide +kernel⟩⟩,
   ⟨served "KC" [ascii "ZP", ascii "20000000000000000"], ascii "ZP", ascii "20000000000000000", 30, ⟨⟨rfl, by decide +kernel, rfl,
     by decide +kernel⟩, (fun _ h => by cases h), by decide +kernel, (open_field _ _ _ zkey evenKey (by decide +kernel)
     (by decide +kernel) rfl (by rw [des_weak.2.1, des_weak.2.2.1, des_weak.2.1])).trans (by decide +kernel)⟩⟩,
   ⟨served "KQ" [ascii "ZP", [], []], ascii "ZP", [], [], [], 30, ⟨⟨rfl, by decide +kernel, rfl, by decide +kernel⟩,
     (fun _ h => by cases h), by decide +kernel, by decide +kernel⟩⟩,
   ⟨up, 0, ascii "2994D4DC157B96C52", oddKey, 1, ⟨(open_field _ _ _ oddField oddKey (by decide +kernel) (by decide +kernel) rfl
     (by rw [des_weak.2.2.2.2, des_weak.2.2.2.1, des_weak.2.2.2.2])).trans (if_pos (by decide +kernel)), .head _⟩⟩⟩

theorem witness_LegacyPins :
    (∃ (s : State) (a b pb fi fo an k₀ k₁ g : Bytes), s.Asked "PT" [a, b, pb, fi, fo, an] ∧ s.LmkSound ∧ decOf fi ≠ 4 ∧ decOf fo ≠ 4 ∧
      s.openKey 30 a = some k₀ ∧ s.openKey 30 b = some k₁ ∧ s.bellows.given = some g) ∧
    (∃ (s : State) (a b pb fi fo an : Bytes), s.Asked "PT" [a, b, pb, fi, fo, an] ∧ (decOf fi = 4 ∨ decOf fo = 4)) ∧
    (∃ (s : State) (a b pb fi fo an k₀ k₁ g : Bytes), s.Asked "PA" [a, b, pb, fi, fo, an] ∧ s.LmkSound ∧ decOf fi ≠ 4 ∧ decOf fo ≠ 4 ∧
      s.openKey 45 a = some k₀ ∧ s.openKey 30 b = some k₁ ∧ s.bellows.given = some g) ∧
    (∃ (s : State) (a b pb fi fo an : Bytes), s.Asked "PA" [a, b, pb, fi, fo, an] ∧ (decOf fi = 4 ∨ decOf fo = 4)) ∧
    (∃ (s : State) (a b ks pb fi fo an bdk k₀ g : Bytes) (i : ℕ) (r : Route), s.Asked "PD" [a, b, ks, pb, fi, fo, an] ∧ s.LmkSound ∧
      decOf fi ≠ 4 ∧ decOf fo ≠ 4 ∧ s.openKey 105 a = some bdk ∧ s.openKey 30 b = some k₀ ∧ s.bellows.given = some g ∧ longest
      (searchIdent 1 (hexOf ks)) 0 (s.trieOf 1 0) = some (i, r) ∧ s.routeSlotOk 1 0 r = true ∧ leBytes 3 (aKcv (s.slotOf r.slot).attr) =
      kcvOf (ch 'T') (List.length bdk / 8) bdk) ∧
    (∃ (s : State) (a b ks pb fi fo an bdk k₀ : Bytes), s.Asked "PD" [a, b, ks, pb, fi, fo, an] ∧ s.LmkSound ∧ decOf fi ≠ 4 ∧ decOf fo ≠
      4 ∧ s.openKey 105 a = some bdk ∧ s.openKey 30 b = some k₀ ∧ longest (searchIdent 1 (hexOf ks)) 0 (s.trieOf 1 0) = none) ∧
    (∃ (s : State) (a b ks pb fi fo an bdk k₀ : Bytes) (i : ℕ) (r : Route), s.Asked "PD" [a, b, ks, pb, fi, fo, an] ∧ s.LmkSound ∧ decOf
      fi ≠ 4 ∧ decOf fo ≠ 4 ∧ s.openKey 105 a = some bdk ∧ s.openKey 30 b = some k₀ ∧ longest (searchIdent 1 (hexOf ks)) 0 (s.trieOf 1
      0) = some (i, r) ∧ leBytes 3 (aKcv (s.slotOf r.slot).attr) ≠ kcvOf (ch 'T') (List.length bdk / 8) bdk) ∧
    (∃ (s : State) (f : List Bytes) (c : Instr) (code : String), (c, code) ∈ [(Instr.legPv, "PV"), (Instr.legPw, "PW"), (Instr.legPx,
      "PX"), (Instr.legPy, "PY")] ∧ s.Asked code f ∧ decOf (fld f 3) = 4) ∧
    (∃ (s : State) (a b pb fi an vd tab off n k₀ k₁ : Bytes), s.Asked "PV" [a, b, pb, fi, an, vd, tab, off, n] ∧ s.LmkSound ∧ decOf fi ≠
      4 ∧ s.openKey 30 a = some k₀ ∧ s.openKey 60 b = some k₁) ∧
    (∃ (s : State) (a b pb fi an vd tab off n k₀ k₁ : Bytes), s.Asked "PW" [a, b, pb, fi, an, vd, tab, off, n] ∧ s.LmkSound ∧ decOf fi ≠
      4 ∧ s.openKey 45 a = some k₀ ∧ s.openKey 60 b = some k₁) ∧
    (∃ (s : State) (a b pb fi an ki pvv k₀ k₁ : Bytes), s.Asked "PX" [a, b, pb, fi, an, ki, pvv] ∧ s.LmkSound ∧ decOf fi ≠ 4 ∧ s.openKey
      30 a = some k₀ ∧ s.openKey 60 b = some k₁) ∧
    (∃ (s : State) (a b pb fi an ki pvv k₀ k₁ : Bytes), s.Asked "PY" [a, b, pb, fi, an, ki, pvv] ∧ s.LmkSound ∧ decOf fi ≠ 4 ∧ s.openKey
      45 a = some k₀ ∧ s.openKey 60 b = some k₁) :=
  ⟨⟨gave [1] (served "PT" [[], [], pb16, d2, d2, an12]), [], [], pb16, d2, d2, an12, [], [], [1], ⟨⟨rfl, by decide +kernel, rfl,
    by decide +kernel⟩, (fun _ h => by cases h), by and_intros <;> decide +kernel⟩⟩,
   ⟨served "PT" [[], [], pb16, ascii "04", d2, an12], [], [], pb16, ascii "04", d2, an12, ⟨⟨rfl, by decide +kernel, rfl,
     by decide +kernel⟩, .inl (by decide +kernel)⟩⟩,
   ⟨gave [1] (served "PA" [[], [], pb16, d2, d2, an12]), [], [], pb16, d2, d2, an12, [], [], [1], ⟨⟨rfl, by decide +kernel, rfl,
     by decide +kernel⟩, (fun _ h => by cases h), by and_intros <;> decide +kernel⟩⟩,
   ⟨served "PA" [[], [], pb16, ascii "04", d2, an12], [], [], pb16, ascii "04", d2, an12, ⟨⟨rfl, by decide +kernel, rfl,
     by decide +kernel⟩, .inl (by decide +kernel)⟩⟩,
   ⟨gave [1] (routedSt [[], [], ascii "00000000000000000000", pb16, d2, d2, an12] bdkAttr), [], [], ascii "00000000000000000000", pb16,
     d2, d2, an12, [], [], [1], 0, { slot := 5 }, by
       refine ⟨⟨rfl, by decide +kernel, rfl, by decide +kernel⟩, (fun _ h => by cases h), ?_, ?_, ?_, ?_, ?_, ?_, ?_,
         (by rw [kcv_zero]; decide +kernel)⟩ <;> decide +kernel⟩,
   ⟨served "PD" [[], [], ascii "00000000000000000000", pb16, d2, d2, an12], [], [], ascii "00000000000000000000", pb16, d2, d2, an12,
     [], [], ⟨⟨rfl, by decide +kernel, rfl, by decide +kernel⟩, (fun _ h => by cases h), by and_intros <;> decide +kernel⟩⟩,
   ⟨routedSt [[], [], ascii "00000000000000000000", pb16, d2, d2, an12] (keyAttr 1 "B0" 'T' 'X' 'E' 16 2), [], [], ascii
     "00000000000000000000", pb16, d2, d2, an12, [], [], 0, { slot := 5 }, by
       refine ⟨⟨rfl, by decide +kernel, rfl, by decide +kernel⟩, (fun _ h => by cases h), ?_, ?_, ?_, ?_, ?_,
         (by rw [kcv_zero]; decide +kernel)⟩ <;> decide +kernel⟩,
   ⟨served "PV" [[], [], pb16, ascii "04"], [[], [], pb16, ascii "04"], .legPv, "PV", ⟨(by simp), ⟨rfl, by decide +kernel, rfl,
     by decide +kernel⟩, by decide +kernel⟩⟩,
   ⟨served "PV" [[], [], pb16, d2, an12, pb16, pb16, ascii "0000FFFFFFFF", d2], [], [], pb16, d2, an12, pb16, pb16, ascii
     "0000FFFFFFFF", d2, [], [], ⟨⟨rfl, by decide +kernel, rfl, by decide +kernel⟩, (fun _ h => by cases h),
     by and_intros <;> decide +kernel⟩⟩,
   ⟨served "PW" [[], [], pb16, d2, an12, pb16, pb16, ascii "0000FFFFFFFF", d2], [], [], pb16, d2, an12, pb16, pb16, ascii
     "0000FFFFFFFF", d2, [], [], ⟨⟨rfl, by decide +kernel, rfl, by decide +kernel⟩, (fun _ h => by cases h),
     by and_intros <;> decide +kernel⟩⟩,
   ⟨served "PX" [[], [], pb16, d2, an12, [49], ascii "1234"], [], [], pb16, d2, an12, [49], ascii "1234", [], [], ⟨⟨rfl,
     by decide +kernel, rfl, by decide +kernel⟩, (fun _ h => by cases h), by and_intros <;> decide +kernel⟩⟩,
   ⟨served "PY" [[], [], pb16, d2, an12, [49], ascii "1234"], [], [], pb16, d2, an12, [49], ascii "1234", [], [], ⟨⟨rfl,
     by decide +kernel, rfl, by decide +kernel⟩, (fun _ h => by cases h), by and_intros <;> decide +kernel⟩⟩⟩

theorem witness_LegacyCardsMacsAndCiphers :
    (∃ (s : State) (a af ex sc n k : Bytes), s.Asked "VG" [a, af, ex, sc, n] ∧ s.LmkSound ∧ s.openKey 75 a = some k) ∧
    (∃ (s : State) (a af ex sc n val k : Bytes), s.Asked "VV" [a, af, ex, sc, n, val] ∧ s.LmkSound ∧ s.openKey 75 a = some k) ∧
    (∃ (s : State) (a af ex n k : Bytes), s.Asked "VH" [a, af, ex, n] ∧ s.LmkSound ∧ s.openKey 75 a = some k) ∧
    (∃ (s : State) (a af ex n val k : Bytes), s.Asked "VJ" [a, af, ex, n, val] ∧ s.LmkSound ∧ s.openKey 75 a = some k) ∧
    (∃ (s : State) (a af ex n k : Bytes), s.Asked "VK" [a, af, ex, n] ∧ s.LmkSound ∧ s.openKey 75 a = some k) ∧
    (∃ (s : State) (a af ex n val k : Bytes), s.Asked "VL" [a, af, ex, n, val] ∧ s.LmkSound ∧ s.openKey 75 a = some k) ∧
    (∃ (s : State) (a af psn atc ac l k : Bytes), s.Asked "QV" [a, af, psn, atc, ac, l] ∧ s.LmkSound ∧ s.openKey 135 a = some k) ∧
    (∃ (s : State) (a af psn atc ac l x k g : Bytes), s.Asked "QA" [a, af, psn, atc, ac, l, x] ∧ s.LmkSound ∧ s.openKey 135 a = some k ∧
      s.bellows.given = some g) ∧
    (∃ (s : State) (a af psn atc ac l x k g : Bytes), s.Asked "QB" [a, af, psn, atc, ac, l, x] ∧ s.LmkSound ∧ s.openKey 135 a = some k ∧
      s.bellows.given = some g) ∧
    (∃ (s : State) (a af psn atc ac l k : Bytes), s.Asked "QW" [a, af, psn, atc, ac, l] ∧ s.LmkSound ∧ s.openKey 135 a = some k) ∧
    (∃ (s : State) (a af psn atc ac l x k g : Bytes), s.Asked "QX" [a, af, psn, atc, ac, l, x] ∧ s.LmkSound ∧ s.openKey 135 a = some k ∧
      s.bellows.given = some g) ∧
    (∃ (s : State) (a af psn atc ac l x k g : Bytes), s.Asked "QY" [a, af, psn, atc, ac, l, x] ∧ s.LmkSound ∧ s.openKey 135 a = some k ∧
      s.bellows.given = some g) ∧
    (∃ (s : State) (a n pd l k : Bytes), s.Asked "MG" [a, n, pd, l] ∧ s.LmkSound ∧ s.openKey 90 a = some k ∧ (pd = [49] ∨ pd = [50])) ∧
    (∃ (s : State) (a n pd l mac k : Bytes), s.Asked "MV" [a, n, pd, l, mac] ∧ s.LmkSound ∧ s.openKey 90 a = some k ∧ (pd = [49] ∨ pd =
      [50])) ∧
    (∃ (s : State) (a iv l k : Bytes), s.Asked "DE" [a, iv, l] ∧ s.LmkSound ∧ s.openKey 120 a = some k) ∧
    (∃ (s : State) (a iv l k : Bytes), s.Asked "DD" [a, iv, l] ∧ s.LmkSound ∧ s.openKey 120 a = some k) ∧
    (∃ (s : State) (a l k : Bytes), s.Asked "EE" [a, l] ∧ s.LmkSound ∧ s.openKey 120 a = some k) ∧
    (∃ (s : State) (a l k : Bytes), s.Asked "ED" [a, l] ∧ s.LmkSound ∧ s.openKey 120 a = some k) :=
  ⟨⟨served "VG" [[], ascii "16" ++ pb16, ascii "3012", ascii "101", [51]], [], ascii "16" ++ pb16, ascii "3012", ascii "101", [51], [],
    ⟨⟨rfl, by decide +kernel, rfl, by decide +kernel⟩, (fun _ h => by cases h), by decide +kernel⟩⟩,
   ⟨served "VV" [[], ascii "16" ++ pb16, ascii "3012", ascii "101", [51], ascii "101"], [], ascii "16" ++ pb16, ascii "3012", ascii
     "101", [51], ascii "101", [], ⟨⟨rfl, by decide +kernel, rfl, by decide +kernel⟩, (fun _ h => by cases h), by decide +kernel⟩⟩,
   ⟨served "VH" [[], ascii "16" ++ pb16, ascii "3012", [51]], [], ascii "16" ++ pb16, ascii "3012", [51], [], ⟨⟨rfl, by decide +kernel,
     rfl, by decide +kernel⟩, (fun _ h => by cases h), by decide +kernel⟩⟩,
   ⟨served "VJ" [[], ascii "16" ++ pb16, ascii "3012", [51], ascii "101"], [], ascii "16" ++ pb16, ascii "3012", [51], ascii "101", [],
     ⟨⟨rfl, by decide +kernel, rfl, by decide +kernel⟩, (fun _ h => by cases h), by decide +kernel⟩⟩,
   ⟨served "VK" [[], ascii "16" ++ pb16, ascii "3012", [51]], [], ascii "16" ++ pb16, ascii "3012", [51], [], ⟨⟨rfl, by decide +kernel,
     rfl, by decide +kernel⟩, (fun _ h => by cases h), by decide +kernel⟩⟩,
   ⟨served "VL" [[], ascii "16" ++ pb16, ascii "3012", [51], ascii "101"], [], ascii "16" ++ pb16, ascii "3012", [51], ascii "101", [],
     ⟨⟨rfl, by decide +kernel, rfl, by decide +kernel⟩, (fun _ h => by cases h), by decide +kernel⟩⟩,
   ⟨served "QV" [[], ascii "16" ++ pb16, d2, ascii "0001", pb16, ascii "000101"], [], ascii "16" ++ pb16, d2, ascii "0001", pb16, ascii
     "000101", [], ⟨⟨rfl, by decide +kernel, rfl, by decide +kernel⟩, (fun _ h => by cases h), by decide +kernel⟩⟩,
   ⟨gave [1] (served "QA" [[], ascii "16" ++ pb16, d2, ascii "0001", pb16, ascii "000101", ascii "3030"]), [], ascii "16" ++ pb16, d2,
     ascii "0001", pb16, ascii "000101", ascii "3030", [], [1], ⟨⟨rfl, by decide +kernel, rfl, by decide +kernel⟩,
     (fun _ h => by cases h), by decide +kernel, by decide +kernel⟩⟩,
   ⟨gave [1] (served "QB" [[], ascii "16" ++ pb16, d2, ascii "0001", pb16, ascii "000101", ascii "00000000"]), [], ascii "16" ++ pb16,
     d2, ascii "0001", pb16, ascii "000101", ascii "00000000", [], [1], ⟨⟨rfl, by decide +kernel, rfl, by decide +kernel⟩,
     (fun _ h => by cases h), by decide +kernel, by decide +kernel⟩⟩,
   ⟨served "QW" [[], ascii "16" ++ pb16, d2, ascii "0001", pb16, ascii "000101"], [], ascii "16" ++ pb16, d2, ascii "0001", pb16, ascii
     "000101", [], ⟨⟨rfl, by decide +kernel, rfl, by decide +kernel⟩, (fun _ h => by cases h), by decide +kernel⟩⟩,
   ⟨gave [1] (served "QX" [[], ascii "16" ++ pb16, d2, ascii "0001", pb16, ascii "000101", ascii "3030"]), [], ascii "16" ++ pb16, d2,
     ascii "0001", pb16, ascii "000101", ascii "3030", [], [1], ⟨⟨rfl, by decide +kernel, rfl, by decide +kernel⟩,
     (fun _ h => by cases h), by decide +kernel, by decide +kernel⟩⟩,
   ⟨gave [1] (served "QY" [[], ascii "16" ++ pb16, d2, ascii "0001", pb16, ascii "000101", ascii "00000000"]), [], ascii "16" ++ pb16,
     d2, ascii "0001", pb16, ascii "000101", ascii "00000000", [], [1], ⟨⟨rfl, by decide +kernel, rfl, by decide +kernel⟩,
     (fun _ h => by cases h), by decide +kernel, by decide +kernel⟩⟩,
   ⟨served "MG" [[], [52], [49], ascii "000101"], [], [52], [49], ascii "000101", [], ⟨⟨rfl, by decide +kernel, rfl, by decide +kernel⟩,
     (fun _ h => by cases h), by decide +kernel, .inl rfl⟩⟩,
   ⟨served "MV" [[], [52], [49], ascii "000101", ascii "00000000"], [], [52], [49], ascii "000101", ascii "00000000", [], ⟨⟨rfl,
     by decide +kernel, rfl, by decide +kernel⟩, (fun _ h => by cases h), by decide +kernel, .inl rfl⟩⟩,
   ⟨served "DE" [[], pb16, ascii "0000"], [], pb16, ascii "0000", [], ⟨⟨rfl, by decide +kernel, rfl, by decide +kernel⟩,
     (fun _ h => by cases h), by decide +kernel⟩⟩,
   ⟨served "DD" [[], pb16, ascii "0000"], [], pb16, ascii "0000", [], ⟨⟨rfl, by decide +kernel, rfl, by decide +kernel⟩,
     (fun _ h => by cases h), by decide +kernel⟩⟩,
   ⟨served "EE" [[], ascii "0000"], [], ascii "0000", [], ⟨⟨rfl, by decide +kernel, rfl, by decide +kernel⟩, (fun _ h => by cases h),
     by decide +kernel⟩⟩,
   ⟨served "ED" [[], ascii "0000"], [], ascii "0000", [], ⟨⟨rfl, by decide +kernel, rfl, by decide +kernel⟩, (fun _ h => by cases h),
     by decide +kernel⟩⟩⟩

theorem witness_StepRunsCommand :
    (∃ (c : Instr) (s : State) (rest : List Instr), s.pending = c :: rest) ∧
    (∃ (s : State), s.pending = []) :=
  ⟨⟨.idcode, { up with pending := [.idcode, .bypass] }, [.bypass], by decide +kernel⟩,
   ⟨up, by decide +kernel⟩⟩

theorem witness_ResetState :
    (∃ (l : ℕ), l < 8192) ∧
    (∃ (l : ℕ), l < 65536) ∧
    (∃ (c : ℕ), 1 ≤ c ∧ c ≤ 4) :=
  ⟨⟨8191, by decide +kernel⟩,
   ⟨65535, by decide +kernel⟩,
   ⟨1, by and_intros <;> decide +kernel⟩⟩

theorem witness_RackStaysSound :
    ∃ (s t : State), s.RackSound ∧ step s = Host.Outcome.next t :=
  ⟨{ keyed up 0 dataKey with pending := [.idcode] }, _, ⟨twf_tset _ _ _ (by decide +kernel), rfl⟩⟩

theorem witness_EventQueuesStayBounded :
    ∃ (s t : State), s.QueuesBounded ∧ step s = Host.Outcome.next t :=
  ⟨{ up with pending := [.idcode] }, _, ⟨(by simp [State.QueuesBounded, up]), rfl⟩⟩

theorem witness_LifeCycleIsOneWay :
    (∃ (c : Instr) (s t : State) (b : ℕ), exec c s = Host.Outcome.next t ∧ s.life.stage.getLsbD b = true) ∧
    (∃ (c : Instr) (s t : State) (b : ℕ), exec c s = Host.Outcome.next t ∧ s.life.tokenUsed.getLsbD b = true) ∧
    (∃ (c : Instr) (s t : State) (b : ℕ), exec c s = Host.Outcome.next t ∧ s.life.relock.getLsbD b = true) ∧
    (∃ (c : Instr) (s t : State), exec c s = Host.Outcome.next t ∧ 4 ≤ s.lifeCode) :=
  ⟨⟨.idcode, life up { stage := 4 }, _, 2, ⟨rfl, by decide +kernel⟩⟩,
   ⟨.idcode, life up { tokenUsed := 1 }, _, 0, ⟨rfl, by decide +kernel⟩⟩,
   ⟨.idcode, life up { relock := 1 }, _, 0, ⟨rfl, by decide +kernel⟩⟩,
   ⟨.idcode, life up { stage := 4 }, _, ⟨rfl, by decide +kernel⟩⟩⟩

theorem witness_QueueUntouched :
    ∃ (c : Instr) (s t : State), exec c s = Host.Outcome.next t :=
  ⟨.idcode, up, _, rfl⟩

theorem witness_RegisterReads :
    (∃ (s : State) (a : ℕ), s.pfOpen = true ∧ 20 ≤ a ∧ a < 1024 ∧ a % 4 = 0) ∧
    (∃ (s : State), s.pfOpen = true ∧ s.link.aspm = Aspm.l0) ∧
    (∃ (s : State) (a : ℕ), s.pfOpen = true ∧ s.chip.legacy = true ∧ 2048 ≤ a ∧ a < 5120 ∧ a % 4 = 0) ∧
    (∃ (s : State) (a : ℕ), s.pfOpen = true ∧ s.chip.legacy = false ∧ a % 4 = 0) ∧
    (∃ (s : State) (a : ℕ), s.pfOpen = true ∧ (s.fnOf s.qmgr.qselF).queues ≤ s.qmgr.qselQ ∧ 2080 ≤ a ∧ a < 5120 ∧ a % 4 = 0) :=
  ⟨⟨up, 20, by and_intros <;> decide +kernel⟩,
   ⟨up, by and_intros <;> decide +kernel⟩,
   ⟨{ up with chip := { up.chip with legacy := true } }, 2048, by and_intros <;> decide +kernel⟩,
   ⟨up, 0, by and_intros <;> decide +kernel⟩,
   ⟨up, 2080, by and_intros <;> decide +kernel⟩⟩

end Sys2Proof.Tests
end

section
/-!
SUPPORT and PROOF for O16 (R22 to R26, R30, R33, R43, R44, R426): what a fault of a block leaves of the operations and of the block
table, what a LOCK in READY leaves, what a chip reset keeps, and how a rate window ends.
-/
namespace Sys2Proof.Machine

/-! ### Tables -/

/-- A value that is not the default is read back from every table, canonical or not. -/
theorem tget_tset_of_ne_default {α : Type} [DecidableEq α] (d : α) (k : Nat) {v : α} (hv : v ≠ d) :
    ∀ t : List (Nat × α), tget d (tset d k v t) k = v
  | [] => by simp [tset, hv, tget]
  | (j, x) :: t => by
    rcases lt_trichotomy k j with h | h | h
    · simp [tset, h, hv, tget]
    · simp [tset, h, hv, tget]
    · have hkj : ¬ k < j := by omega
      have hne : k ≠ j := by omega
      simp [tset, hkj, hne, hne.symm, tget_cons, tget_tset_of_ne_default d k hv t]

theorem tget_foldl_tmod_of_notMem {α β : Type} [DecidableEq α] (d : α) {key : β → Nat} (hkey : key.Injective) (f : β → α → α)
    {l : List β} {c : β} (hc : c ∉ l) (t : List (Nat × α)) :
    tget d (l.foldl (fun t c => tmod d (key c) (f c) t) t) (key c) = tget d t (key c) := by
  induction l generalizing t with
  | nil => rfl
  | cons b l ih =>
    obtain ⟨hb, hl⟩ := not_or.mp (mt List.mem_cons.mpr hc)
    exact (ih hl _).trans (tget_tset_ne d _ (hkey.ne hb) t)

/-- Changing every key of a list once gives each of them its change. -/
theorem tget_foldl_tmod {α β : Type} [DecidableEq α] (d : α) {key : β → Nat} (hkey : key.Injective) (f : β → α → α) {l : List β}
    (hl : l.Nodup) {c : β} (hc : c ∈ l) {t : List (Nat × α)} (h : twf d t) :
    tget d (l.foldl (fun t c => tmod d (key c) (f c) t) t) (key c) = f c (tget d t (key c)) := by
  induction l generalizing t with
  | nil => cases hc
  | cons b l ih =>
    obtain ⟨hb, hl⟩ := List.nodup_cons.mp hl
    rcases List.mem_cons.mp hc with rfl | hc
    · exact (tget_foldl_tmod_of_notMem d hkey f hb _).trans (tget_tset_same d _ _ h)
    · have hne : c ≠ b := fun e => hb (e ▸ hc)
      rw [List.foldl_cons, ih hl hc (twf_tmod d _ _ h), tmod, tget_tset_ne d _ (hkey.ne hne)]

/-! ### Blocks -/

theorem satInc_ne_zero {limit : Nat} (h : 0 < limit) (n : Nat) : satInc limit n ≠ 0 := by
  unfold satInc
  split <;> omega

/-- A block whose new status is not that of a block never touched reads it back. -/
theorem State.blockOf_modBlock_of_ne_default (b : Nat) (g : Block → Block) (s : State) (h : g (s.blockOf b) ≠ {}) :
    (s.modBlock b g).blockOf b = g (s.blockOf b) := tget_tset_of_ne_default _ _ h _

@[simp] theorem State.modBlock_tasks (b : Nat) (g : Block → Block) (s : State) : (s.modBlock b g).engine.tasks = s.engine.tasks := rfl

theorem State.blockOf_congr {s t : State} (h : t.engine.blocks = s.engine.blocks) (b : Nat) : t.blockOf b = s.blockOf b := by
  simp [State.blockOf, h]

theorem State.opOf_congr {s t : State} (h : t.engine.tasks = s.engine.tasks) (id : Nat) : t.opOf id = s.opOf id := by
  simp [State.opOf, h]

theorem State.ended_congr {s t : State} {op st d n : Nat} {r : Bytes} (h : t.opOf op = s.opOf op) (he : s.Ended op st d n r) :
    t.Ended op st d n r := by
  simpa only [State.Ended, h] using he

/-! ### The recorder: only its own store changes -/

@[simp] theorem State.appendRecord_shadow (r : Record) (s : State) : (s.appendRecord r).store.shadow = s.store.shadow := by
  unfold State.appendRecord
  repeat' split
  all_goals rfl

@[simp] theorem State.report_frame (b code : Nat) (s : State) :
    (s.report b code).chip = s.chip ∧ (s.report b code).engine = s.engine ∧ (s.report b code).rack = s.rack ∧
    (s.report b code).crucible = s.crucible ∧ (s.report b code).tamper = s.tamper := by
  simp [State.report]

@[simp] theorem State.setting_report (b code id : Nat) (s : State) : (s.report b code).setting id = s.setting id := by
  simp [State.setting, State.report, State.log]

/-! ### The end of an operation: blocks, key slots and the other operations -/

@[simp] theorem State.unreserve_blocks (id : Nat) (s : State) : (s.unreserve id).engine.blocks = s.engine.blocks := by
  unfold State.unreserve
  repeat' split
  all_goals rfl

@[simp] theorem State.finish_blocks (id st d n : Nat) (r : Bytes) (s : State) :
    (s.finish id st d n r).engine.blocks = s.engine.blocks := by
  refine Eq.trans ?_ (State.unreserve_blocks id s)
  unfold State.finish
  dsimp only
  split <;> rfl

@[simp] theorem State.finish_slots (id st d n : Nat) (r : Bytes) (s : State) : (s.finish id st d n r).rack.slots = s.rack.slots := by
  have h : (s.unreserve id).rack.slots = s.rack.slots := by simp
  refine Eq.trans ?_ h
  unfold State.finish
  dsimp only
  split <;> rfl

theorem State.finish_tasks (id st d n : Nat) (r : Bytes) (s : State) :
    (s.finish id st d n r).engine.tasks =
      (s.unreserve id).engine.tasks.map fun o => if o.id == id then o.end_ st d n r else o := by
  unfold State.finish
  dsimp only
  split <;> rfl

/-- No entry of the operations in flight that bears the name `id` is still under way. -/
def State.AllDone (s : State) (id : Nat) : Prop := ∀ o ∈ s.engine.tasks, o.id = id → o.stage = .done

theorem State.finish_allDone (id st d n : Nat) (r : Bytes) (s : State) : (s.finish id st d n r).AllDone id := by
  intro o ho hid
  rw [State.finish_tasks] at ho
  obtain ⟨p, -, rfl⟩ := List.mem_map.mp ho
  by_cases hp : p.id = id
  · simp [hp, Op.end_]
  · simp [hp] at hid

/-- A stop is a failure, after what has been streamed is reported. -/
theorem State.stopOp_cases (id st d : Nat) (s : State) :
    s.stopOp id st d = s.fail id st d ∨ ∃ x, s.stopOp id st d = (s.emit x).fail id st d := by
  unfold State.stopOp
  cases s.opOf id with
  | none => exact .inl rfl
  | some o =>
    by_cases h : o.streams
    · exact .inr ⟨_, if_pos h⟩
    · exact .inl (if_neg h)

@[simp] theorem State.stopOp_blocks (id st d : Nat) (s : State) : (s.stopOp id st d).engine.blocks = s.engine.blocks := by
  rcases s.stopOp_cases id st d with h | ⟨x, h⟩ <;> simp [h, State.fail]

@[simp] theorem State.stopOp_slots (id st d : Nat) (s : State) : (s.stopOp id st d).rack.slots = s.rack.slots := by
  rcases s.stopOp_cases id st d with h | ⟨x, h⟩ <;> simp [h, State.fail]

theorem State.stopOp_allDone (id st d : Nat) (s : State) : (s.stopOp id st d).AllDone id := by
  rcases s.stopOp_cases id st d with h | ⟨x, h⟩ <;> rw [h]
  · exact State.finish_allDone id st d 0 [] s
  · exact State.finish_allDone id st d 0 [] (s.emit x)

theorem State.stopOp_ended {s : State} {id : Nat} {o : Op} (h : s.opOf id = some o) {st : Nat} (hst : st / 256 ≠ 0) (d : Nat) :
    (s.stopOp id st d).Ended id st d 0 [] := by
  have key (u : State) (hu : u.opOf id = some o) : (u.fail id st d).Ended id st d 0 [] := by
    simpa [State.fail, hst] using State.finish_ended hu st d 0 []
  rcases s.stopOp_cases id st d with he | ⟨x, he⟩ <;> rw [he]
  · exact key s h
  · exact key (s.emit x) h

theorem State.opOf_stopOp_ne {s : State} {id k : Nat} (hk : k ≠ id) (st d : Nat) : (s.stopOp id st d).opOf k = s.opOf k := by
  rcases s.stopOp_cases id st d with h | ⟨x, h⟩ <;> rw [h] <;> exact State.opOf_finish_ne hk ..

/-! ### The end of all operations -/

@[simp] theorem State.failAll_blocks (p : Op → Bool) (st d : Nat) (s : State) : (s.failAll p st d).engine.blocks = s.engine.blocks :=
  State.foldl_keeps (·.engine.blocks) _ (by simp) _ _

@[simp] theorem State.failAll_slots (p : Op → Bool) (st d : Nat) (s : State) : (s.failAll p st d).rack.slots = s.rack.slots :=
  State.foldl_keeps (·.rack.slots) _ (by simp) _ _

theorem State.opOf_foldl_stopOp {id : Nat} (st d : Nat) {l : List Nat} (h : id ∉ l) (s : State) :
    (l.foldl (fun s k => s.stopOp k st d) s).opOf id = s.opOf id := by
  induction l generalizing s with
  | nil => rfl
  | cons k l ih =>
    obtain ⟨hk, hl⟩ := not_or.mp (mt List.mem_cons.mpr h)
    exact (ih hl _).trans (State.opOf_stopOp_ne hk st d)

/-- An operation that has ended is not ended again. -/
theorem State.opOf_failAll_of_allDone {s : State} {id : Nat} (h : s.AllDone id) (p : Op → Bool) (st d : Nat) :
    (s.failAll p st d).opOf id = s.opOf id := by
  refine State.opOf_foldl_stopOp st d ?_ s
  intro hmem
  obtain ⟨o, ho, hid⟩ := List.mem_map.mp hmem
  obtain ⟨ho, hp⟩ := List.mem_filter.mp ho
  simp [h o ho hid] at hp

/-! ### Faults of a block (R24, R26, R27) -/

/-- The fault of an operation that has not ended stops it. -/
theorem State.abortOp_of_running {s : State} {id : Nat} {o : Op} (h : s.opOf id = some o) (hs : o.stage ≠ .done) (d : Nat) :
    s.abortOp (some id) d = s.stopOp id 0x0502 d := by
  simp [State.abortOp, h, hs]

@[simp] theorem State.setting_stopOp (id st d n : Nat) (s : State) : (s.stopOp id st d).setting n = s.setting n := by
  simp [State.setting]

/-- A block that leaves service takes the event, the message and the routing of a pipeline with it, and no operation. -/
theorem State.leaveService_frame (b : Nat) (s : State) :
    (s.leaveService b).engine = (s.modBlock b fun x => { x with out := true }).engine ∧
    (s.leaveService b).rack = s.rack ∧ (s.leaveService b).chip = s.chip ∧ (s.leaveService b).crucible = s.crucible := by
  unfold State.leaveService
  dsimp only
  split <;> simp

theorem State.blockOf_leaveService_same (b : Nat) (s : State) :
    (s.leaveService b).blockOf b = { s.blockOf b with out := true } := by
  have hb := congrArg Engine.blocks (s.leaveService_frame b).1
  rw [State.blockOf_congr hb]
  exact State.blockOf_modBlock_of_ne_default _ _ _ (by simp)

theorem State.blockOf_leaveService_ne {b c : Nat} (h : c ≠ b) (s : State) : (s.leaveService b).blockOf c = s.blockOf c := by
  have hb := congrArg Engine.blocks (s.leaveService_frame b).1
  rw [State.blockOf_congr hb]
  exact State.blockOf_modBlock_ne b c _ s h

/-- The counts of a block after an aborting fault. -/
def Block.raised (x : Block) : Block := { x with level := satInc 15 x.level, aborts := satInc 255 x.aborts }

theorem State.blockOf_modBlock_raised (b : Nat) (s : State) : (s.modBlock b Block.raised).blockOf b = (s.blockOf b).raised := by
  refine State.blockOf_modBlock_of_ne_default b Block.raised s fun h => ?_
  exact satInc_ne_zero (by decide) _ (congrArg Block.level h)

/-- A raised level keeps the block in service, or takes it out where it reaches the limit. -/
theorem State.raiseLevel_cases (b : Nat) (s : State) :
    let u := s.modBlock b Block.raised
    (s.setting 0x01 ≤ satInc 15 (s.blockOf b).level ∧ s.raiseLevel b = u.leaveService b) ∨
    ((s.setting 0x01 ≤ satInc 15 (s.blockOf b).level → (s.blockOf b).out = true) ∧ s.raiseLevel b = u) := by
  intro u
  have hset : u.setting 0x01 = s.setting 0x01 := rfl
  have hlevel : (u.blockOf b).level = satInc 15 (s.blockOf b).level := by rw [State.blockOf_modBlock_raised]; rfl
  have hout : (u.blockOf b).out = (s.blockOf b).out := by rw [State.blockOf_modBlock_raised]; rfl
  have hraise : s.raiseLevel b =
      if s.setting 0x01 ≤ satInc 15 (s.blockOf b).level ∧ ¬ (s.blockOf b).out = true then u.leaveService b else u := by
    rw [← hlevel, ← hout, ← hset]; rfl
  by_cases h : s.setting 0x01 ≤ satInc 15 (s.blockOf b).level ∧ ¬ (s.blockOf b).out = true
  · exact .inl ⟨h.1, hraise.trans (if_pos h)⟩
  · exact .inr ⟨fun hl => Decidable.not_not.mp (not_and.mp h hl), hraise.trans (if_neg h)⟩

@[simp] theorem State.raiseLevel_frame (b : Nat) (s : State) :
    (s.raiseLevel b).engine.tasks = s.engine.tasks ∧ (s.raiseLevel b).rack = s.rack ∧ (s.raiseLevel b).chip = s.chip ∧
    (s.raiseLevel b).crucible = s.crucible := by
  rcases s.raiseLevel_cases b with ⟨-, h⟩ | ⟨-, h⟩
  · obtain ⟨he, hr, hc, hk⟩ := (s.modBlock b Block.raised).leaveService_frame b
    rw [h, he, hr, hc, hk]
    exact ⟨rfl, rfl, rfl, rfl⟩
  · rw [h]
    exact ⟨rfl, rfl, rfl, rfl⟩

theorem State.blockOf_raiseLevel_same (b : Nat) (s : State) :
    (s.raiseLevel b).blockOf b = { (s.blockOf b).raised with
      out := (s.blockOf b).out || decide (s.setting 0x01 ≤ satInc 15 (s.blockOf b).level) } := by
  rcases s.raiseLevel_cases b with ⟨hlimit, h⟩ | ⟨hstay, h⟩
  · rw [h, State.blockOf_leaveService_same, State.blockOf_modBlock_raised]
    simp [hlimit]
  · have hout : ((s.blockOf b).out || decide (s.setting 0x01 ≤ satInc 15 (s.blockOf b).level)) = (s.blockOf b).out := by
      cases ho : (s.blockOf b).out with
      | true => rfl
      | false =>
        have hlow := mt hstay (by simp [ho])
        simp [hlow]
    rw [h, State.blockOf_modBlock_raised, hout]
    rfl

theorem State.blockOf_raiseLevel_ne {b c : Nat} (hc : c ≠ b) (s : State) : (s.raiseLevel b).blockOf c = s.blockOf c := by
  have hmod := State.blockOf_modBlock_ne b c Block.raised s hc
  rcases s.raiseLevel_cases b with ⟨-, h⟩ | ⟨-, h⟩
  · rw [h, State.blockOf_leaveService_ne hc, hmod]
  · rw [h, hmod]

/-! ### LOCK in READY (R432, R438) -/

theorem State.setChip_chip (c : ChipState) (s : State) : (s.setChip c).chip = { s.chip with state := c } := by
  unfold State.setChip
  split
  · next h => rw [← h]
  · simp

/-- `t` is `s` after a LOCK has taken hold: the key bus is off, blocks and key slots stay, and so do the operations that had ended. -/
structure State.LockOf (s t : State) : Prop where
  state : t.chip.state = .locked
  keyBus : t.chip.keyBus = false
  blocks : t.engine.blocks = s.engine.blocks
  slots : t.rack.slots = s.rack.slots
  opOf : ∀ id, s.AllDone id → t.opOf id = s.opOf id

theorem State.LockOf.of_start {s u t : State} (h : u.LockOf t) (he : u.engine = s.engine) (hr : u.rack = s.rack) : s.LockOf t where
  state := h.state
  keyBus := h.keyBus
  blocks := by rw [h.blocks, he]
  slots := by rw [h.slots, hr]
  opOf id hd := by
    have hd' : u.AllDone id := by simpa only [State.AllDone, he] using hd
    exact (h.opOf id hd').trans (State.opOf_congr (congrArg Engine.tasks he) id)

theorem State.LockOf.of_end {s u t : State} (h : s.LockOf u) (he : t.engine = u.engine) (hr : t.rack = u.rack)
    (hc : t.chip = u.chip) : s.LockOf t where
  state := by rw [hc, h.state]
  keyBus := by rw [hc, h.keyBus]
  blocks := by rw [he, h.blocks]
  slots := by rw [hr, h.slots]
  opOf id hd := (State.opOf_congr (congrArg Engine.tasks he) id).trans (h.opOf id hd)

/-- The end of all operations in a block completes a LOCK. -/
theorem State.lockOf_failAll {s : State} (hs : s.chip.state = .locked) (hk : s.chip.keyBus = false) (p : Op → Bool) (st d : Nat) :
    s.LockOf (s.failAll p st d) where
  state := by simpa using hs
  keyBus := by simpa using hk
  blocks := by simp
  slots := by simp
  opOf _ hd := State.opOf_failAll_of_allDone hd p st d

/-- The ceremony that a LOCK ends: any but UNLOCK (R217). -/
def State.lockCeremony (s : State) : State :=
  match s.vault.cer with
  | some c => if c.kind = 4 then s else s.endCeremony 4
  | none => s

theorem State.lockCeremony_frame (s : State) :
    s.lockCeremony.chip = s.chip ∧ s.lockCeremony.engine = s.engine ∧ s.lockCeremony.rack = s.rack := by
  unfold State.lockCeremony
  repeat' split
  all_goals simp

/-- The state of a LOCK in READY before it ends what runs: CHIP.STATE and the key bus. -/
def State.lockChip (s : State) : State :=
  let u := (s.latchClass 2).setChip .locked
  { u with chip := { u.chip with keyBus := false } }

theorem State.takeLock_of_ready {s : State} (h : s.chip.state = .ready) :
    s.takeLock = (s.lockChip.lockCeremony.failAll Op.inEngine 0x0303 0).legacyAbort "S01" := by
  simp only [State.takeLock, State.latchClass_frame, h, reduceCtorEq, if_false, if_true]
  rfl

theorem State.takeLock_locks {s : State} (h : s.chip.state = .ready) : s.LockOf s.takeLock := by
  rw [State.takeLock_of_ready h]
  obtain ⟨hc, he, hr⟩ := s.lockChip.lockCeremony_frame
  have hchip : s.lockChip.chip = { s.chip with state := .locked, keyBus := false } := by
    simp [State.lockChip, State.setChip_chip]
  have hfail := State.lockOf_failAll (s := s.lockChip.lockCeremony) (by rw [hc, hchip]) (by rw [hc, hchip]) Op.inEngine 0x0303 0
  have hstart := hfail.of_start (s := s) (he.trans (by simp [State.lockChip])) (hr.trans (by simp [State.lockChip]))
  exact hstart.of_end (by simp) (by simp) (by simp)

/-- The group whose response is a LOCK carries class 2. -/
def State.lockGroup (g : Group) (s : State) : State :=
  { s with tamper := { s.tamper with group := some { g with carried := 2 } } }

theorem State.respond_of_no_group {s : State} (hq : s.quenching = false) (h : s.chip.state = .ready) (hg : s.tamper.group = none) :
    s.respond 2 = s.takeLock.pme := by
  simp [State.respond, hq, h, hg]

theorem State.respond_of_group {s : State} (hq : s.quenching = false) (h : s.chip.state = .ready) {g : Group}
    (hg : s.tamper.group = some g) : s.respond 2 = ((s.lockGroup g).takeLock.logResponse 2 g 0).pme := by
  simp [State.respond, State.lockGroup, hq, h, hg]

/-- In READY, with no Quench running, a response of class 2 takes the LOCK. -/
theorem State.respond_locks {s : State} (hq : s.quenching = false) (h : s.chip.state = .ready) : s.LockOf (s.respond 2) := by
  cases hg : s.tamper.group with
  | none =>
    rw [State.respond_of_no_group hq h hg]
    exact (State.takeLock_locks h).of_end (by simp) (by simp) (by simp)
  | some g =>
    have hlock : s.LockOf (s.lockGroup g).takeLock := (State.takeLock_locks (s := s.lockGroup g) h).of_start rfl rfl
    rw [State.respond_of_group hq h hg]
    exact hlock.of_end (by simp [State.logResponse]) (by simp [State.logResponse]) (by simp [State.logResponse])

@[simp] theorem State.joinGroup_quench (cls : Nat) (s : State) : (s.joinGroup cls).tamper.quench = s.tamper.quench := by
  unfold State.joinGroup
  repeat' split
  all_goals rfl

/-- In READY, with no Quench running, an alarm of class LOCK locks the chip. -/
theorem State.lockOf_alarm {s : State} {n : Nat} (hcls : s.classOf n = 2) (hq : s.tamper.quench = false) (h : s.chip.state = .ready)
    (detail : Nat) : s.LockOf (s.alarm n detail) := by
  simp only [State.alarm, State.alarmAs, hcls, OfNat.ofNat_ne_zero, if_false]
  refine (State.respond_locks ?_ ?_).of_start ?_ ?_
  · simpa [State.quenching, State.latchAlarm] using hq
  · simpa using h
  · simp
  · simp

/-! ### The chip reset of a watchdog (R43, R45) -/

theorem State.loseCeremony_frame (s : State) :
    s.loseCeremony.crucible = s.crucible ∧ s.loseCeremony.life = s.life := by
  unfold State.loseCeremony
  split <;> simp

theorem State.commitRecord_frame (r : Record) (s : State) :
    (s.commitRecord r).crucible = s.crucible ∧ (s.commitRecord r).life = s.life := by
  unfold State.commitRecord
  dsimp only
  split <;> exact ⟨rfl, rfl⟩

theorem State.reportDropped_frame (s : State) :
    s.reportDropped.crucible = s.crucible ∧ s.reportDropped.life = s.life := by
  unfold State.reportDropped
  split <;> simp

theorem State.flushRecords_frame (n : Nat) (s : State) :
    (s.flushRecords n).crucible = s.crucible ∧ (s.flushRecords n).life = s.life := by
  induction n generalizing s with
  | zero => exact ⟨rfl, rfl⟩
  | succ n ih =>
    cases hq : s.store.queue with
    | nil => simpa only [State.flushRecords, hq] using s.reportDropped_frame
    | cons r rest =>
      obtain ⟨hc, hl⟩ := ih s.commitNext
      obtain ⟨hc', hl'⟩ := State.commitRecord_frame r { s with store := { s.store with queue := rest } }
      have hnext : s.commitNext = State.commitRecord r { s with store := { s.store with queue := rest } } := by
        simp only [State.commitNext, hq]
      simp only [State.flushRecords, hq]
      exact ⟨hc.trans (hnext ▸ hc'), hl.trans (hnext ▸ hl')⟩

theorem State.flushStore_frame (s : State) : s.flushStore.crucible = s.crucible ∧ s.flushStore.life = s.life :=
  s.flushRecords_frame (s.store.queue.length + 1)

theorem State.chipResetTo_frame (cause : Nat) (s : State) :
    (s.chipResetTo cause).chip.state = .start ∧ (s.chipResetTo cause).chip.resetCause = cause ∧ (s.chipResetTo cause).rack = {} ∧
    (s.chipResetTo cause).queues = [] ∧ (s.chipResetTo cause).engine.tasks = [] ∧ (s.chipResetTo cause).crucible = s.crucible ∧
    (s.chipResetTo cause).life.stage = s.life.stage := ⟨rfl, rfl, rfl, rfl, rfl, rfl, rfl⟩

theorem State.chipReset_of_no_quench {s : State} (hq : s.quenching = false) (cause : Nat) :
    s.chipReset cause = s.loseCeremony.flushStore.chipResetTo cause := by
  simp [State.chipReset, hq]

/-! ### The clauses of O16 -/

theorem execCellFault_memC {b : BitVec 8} (hb : blockUsed b.toNat = true) (op : Option Nat) (s : State) :
    exec (.cellFault b .memC op) s =
      .next ((s.report b.toNat 4).modBlock b.toNat fun x => { x with corrected := satInc 255 x.corrected }) := by
  simp [exec, execCellFault, hb, faultCode]

/-- R25: a corrected error is counted, and nothing else of the block or of any operation changes. -/
theorem execCellFault_memC_counts {b : BitVec 8} (hb : blockUsed b.toNat = true) (op : Option Nat) (s : State) :
    ∃ t, exec (.cellFault b .memC op) s = .next t ∧
      t.blockOf b.toNat = { s.blockOf b.toNat with corrected := satInc 255 (s.blockOf b.toNat).corrected } ∧
      t.engine.tasks = s.engine.tasks ∧ t.rack = s.rack ∧ t.chip = s.chip := by
  refine ⟨_, execCellFault_memC hb op s, ?_, ?_⟩
  · have hrep : (s.report b.toNat 4).blockOf b.toNat = s.blockOf b.toNat := State.blockOf_congr (by simp) _
    rw [State.blockOf_modBlock_of_ne_default, hrep]
    exact fun h => satInc_ne_zero (by decide) _ (congrArg Block.corrected h)
  · simp

theorem execCellFault_aborts {s : State} {b : BitVec 8} {op : Nat} {o : Op} {k : CellFault} (hb : blockUsed b.toNat = true)
    (hk : k = .memU ∨ k = .check) (ho : s.opOf op = some o) (hd : o.stage ≠ .done) (hy : o.stage ≠ .yielded) :
    exec (.cellFault b k (some op)) s = .next
      (((s.report b.toNat (faultCode k)).stopOp op 0x0502 (b.toNat + 256 * faultCode k)).raiseLevel b.toNat) := by
  have hrep : (s.report b.toNat (faultCode k)).opOf op = some o := (State.opOf_congr (by simp) op).trans ho
  have habort := State.abortOp_of_running hrep hd (b.toNat + 256 * faultCode k)
  have hruns : (some op).filter (fun id => (((s.report b.toNat (faultCode k)).opOf id).map fun o => o.stage != .yielded).getD false) =
      some op := by
    simp [hrep, hy]
  rcases hk with rfl | rfl <;> simp only [exec, execCellFault, hb, hruns, habort] <;> rfl

/-- R24, R26: an uncorrectable error or a failed check ends the operation, raises level and count, and at the limit ends the service. -/
theorem execCellFault_ends {s : State} {b : BitVec 8} {op : Nat} {o : Op} {k : CellFault} (hb : blockUsed b.toNat = true)
    (hk : k = .memU ∨ k = .check) (ho : s.opOf op = some o) (hd : o.stage ≠ .done) (hy : o.stage ≠ .yielded) :
    ∃ t, exec (.cellFault b k (some op)) s = .next t ∧ t.Ended op 0x0502 (b.toNat + 256 * faultCode k) 0 [] ∧
      t.blockOf b.toNat = { (s.blockOf b.toNat).raised with
        out := (s.blockOf b.toNat).out || decide (s.setting 0x01 ≤ satInc 15 (s.blockOf b.toNat).level) } ∧
      (∀ c, c ≠ b.toNat → t.blockOf c = s.blockOf c) ∧ t.rack.slots = s.rack.slots ∧ t.chip = s.chip ∧
      t.crucible = s.crucible := by
  refine ⟨_, execCellFault_aborts hb hk ho hd hy, ?_⟩
  set d := b.toNat + 256 * faultCode k
  have hrep : (s.report b.toNat (faultCode k)).opOf op = some o := (State.opOf_congr (by simp) op).trans ho
  have hblock (c : Nat) : ((s.report b.toNat (faultCode k)).stopOp op 0x0502 d).blockOf c = s.blockOf c :=
    State.blockOf_congr (by simp) c
  refine ⟨?_, ?_, fun c hc => ?_, by simp, by simp, by simp⟩
  · exact State.ended_congr (State.opOf_congr (by simp) op) (State.stopOp_ended hrep (by decide) d)
  · rw [State.blockOf_raiseLevel_same, hblock]
    simp
  · rw [State.blockOf_raiseLevel_ne hc, hblock]

/-- R24, R426, R438: in READY a bus integrity error of class LOCK ends its operation, locks the chip and raises no level. -/
theorem execBusIntegrityError_locks {s : State} {b : BitVec 8} {op : Nat} {o : Op} (hs : s.chip.state = .ready)
    (hq : s.tamper.quench = false) (hcls : s.classOf 7 = 2) (ho : s.opOf op = some o) (hd : o.stage ≠ .done) :
    ∃ t, exec (.busIntegrityError b (some op)) s = .next t ∧ t.chip.state = .locked ∧ t.chip.keyBus = false ∧
      t.Ended op 0x0502 (b.toNat + 256 * 5) 0 [] ∧ t.engine.blocks = s.engine.blocks ∧ t.rack.slots = s.rack.slots := by
  have hrep : (s.report b.toNat 5).opOf op = some o := (State.opOf_congr (by simp) op).trans ho
  set u := (s.report b.toNat 5).stopOp op 0x0502 (b.toNat + 256 * 5) with hu
  have hexec : exec (.busIntegrityError b (some op)) s = .next (u.alarm 7 0) := by
    rw [hu, ← State.abortOp_of_running hrep hd]; rfl
  have hclsu : u.classOf 7 = 2 := by
    simpa [hu, State.classOf, State.minClass] using hcls
  have hlock : u.LockOf (u.alarm 7 0) := State.lockOf_alarm hclsu (by simpa [hu] using hq) (by simpa [hu] using hs) 0
  have hkeeps : (u.alarm 7 0).opOf op = u.opOf op := hlock.opOf op (State.stopOp_allDone op _ _ _)
  refine ⟨_, hexec, hlock.state, hlock.keyBus, ?_, ?_, ?_⟩
  · exact State.ended_congr hkeeps (State.stopOp_ended hrep (by decide) _)
  · exact hlock.blocks.trans (by simp [hu])
  · exact hlock.slots.trans (by simp [hu])

/-- R43, R44: the watchdog of a region that holds work resets the chip. -/
theorem execRegionWatchdogExpiry_resets {s : State} {r : Fin 6} (hw : s.holdsWork r.val = true) (hq : s.tamper.quench = false) :
    ∃ t, exec (.regionWatchdogExpiry r) s = .next t ∧ t.chip.state = .start ∧ t.chip.resetCause = 3 ∧ t.rack = {} ∧ t.queues = [] ∧
      t.engine.tasks = [] ∧ t.crucible = s.crucible ∧ t.life.stage = s.life.stage := by
  have hexec : exec (.regionWatchdogExpiry r) s =
      .next ((s.log 0x0103 (0x80 + r.val) [BitVec.ofNat 8 r.val]).chipReset 3) :=
    congrArg Host.Outcome.next (if_pos hw)
  set u := s.log 0x0103 (0x80 + r.val) [BitVec.ofNat 8 r.val] with hu
  have hqu : u.quenching = false := by simpa [hu, State.quenching] using hq
  obtain ⟨hstate, hcause, hrack, hqueues, htasks, hcruc, hlife⟩ := u.loseCeremony.flushStore.chipResetTo_frame 3
  obtain ⟨hcruc₁, hlife₁⟩ := u.loseCeremony.flushStore_frame
  obtain ⟨hcruc₂, hlife₂⟩ := u.loseCeremony_frame
  refine ⟨_, hexec, ?_⟩
  rw [State.chipReset_of_no_quench hqu]
  exact ⟨hstate, hcause, hrack, hqueues, htasks, by rw [hcruc, hcruc₁, hcruc₂]; simp [hu],
    by rw [hlife, hlife₁, hlife₂]; simp [hu]⟩

/-- A rate class at the end of its window, with the cycles measured (R33). -/
def Rate.windowEnd (cycles : BitVec 16) (r : Rate) : Rate :=
  { ops := satNat 32 r.curOps, kbytes := satNat 32 (r.curBytes / 1000)
    cycle := if r.curOps = 0 ∧ r.curBytes = 0 then 0 else cycles.toNat, curOps := 0, curBytes := 0 }

/-- R33: every rate class takes its window's counts, and RATE_SEQ rises. -/
theorem execRateWindow_ends {s : State} (h : twf {} s.engine.rates = true) (m : Vector (BitVec 16) 8) :
    ∃ t, exec (.rateWindow m) s = .next t ∧ t.engine.rateSeq = s.engine.rateSeq + 1 ∧
      (∀ k : Fin 8, tget {} t.engine.rates k.val = (tget {} s.engine.rates k.val).windowEnd m[k]) ∧
      t.engine.tasks = s.engine.tasks ∧ t = { s with engine := t.engine } := by
  refine ⟨_, rfl, rfl, fun k => ?_, rfl, rfl⟩
  exact tget_foldl_tmod ({} : Rate) Fin.val_injective (fun c (r : Rate) => r.windowEnd m[c]) (List.nodup_finRange 8) (List.mem_finRange k) h

/-- Settles O16: each clause is what its command was shown to do. -/
theorem blockFaults : Obligations.BlockFaults := by
  unfold Obligations.BlockFaults
  refine ⟨fun s b op hb => ?_, fun s b op o k hb hk ho hd hy => ?_, fun s b h => ?_, fun s b op o hs hq hc ho hd => ?_,
    fun s r hw => ?_, fun s r hw hq => ?_, fun s m h => ?_⟩
  · obtain ⟨t, hexec, hblock, hkept⟩ := execCellFault_memC_counts hb op s
    exact ⟨t, hexec, by rw [hblock], by rw [hblock], by rw [hblock], hkept⟩
  · obtain ⟨t, hexec, hended, hblock, hkept⟩ := execCellFault_ends hb hk ho hd hy
    exact ⟨t, hexec, hended, by rw [hblock]; rfl, by rw [hblock]; rfl, by rw [hblock], hkept⟩
  · exact ⟨_, rfl, State.blockOf_modBlock_same _ _ s h, fun c hc => State.blockOf_modBlock_ne _ c _ s hc, rfl⟩
  · exact execBusIntegrityError_locks hs hq hc ho hd
  · exact congrArg Host.Outcome.next (if_neg (by simp [hw]))
  · exact execRegionWatchdogExpiry_resets hw hq
  · obtain ⟨t, hexec, hseq, hrate, hkept⟩ := execRateWindow_ends h m
    refine ⟨t, hexec, hseq, fun k => ?_, hkept⟩
    rw [hrate]
    exact ⟨rfl, rfl, rfl, rfl, rfl⟩

end Sys2Proof.Machine
end

section
/-!
SUPPORT and PROOF for O41 (R388, R390, R392, R396, R397, R405): the entry into a fault, the result tags of two numbers and of a word that
is no number, comparisons, SEL and the table of conditions.
-/
namespace Sys2Proof.Machine

/-! ### The entry into a fault (R405) -/

theorem State.coreOf_congr {s t : State} (h : t.zwm = s.zwm) (c : Nat) : t.coreOf c = s.coreOf c := by
  simp only [State.coreOf, h]

/-- A changed core that differs from one at reset reads back. -/
theorem State.coreOf_modCore_of_ne_default (c : Nat) (g : Core → Core) (s : State) (h : g (s.coreOf c) ≠ {}) :
    (s.modCore c g).coreOf c = g (s.coreOf c) := tget_tset_of_ne_default _ _ h _

@[simp] theorem State.logFault_zwm (c code : Nat) (addr : BitVec 64) (s : State) : (s.logFault c code addr).zwm = s.zwm := by
  simp [State.logFault]

@[simp] theorem State.logFault_pending (c code : Nat) (addr : BitVec 64) (s : State) :
    (s.logFault c code addr).pending = s.pending := by simp [State.logFault]

@[simp] theorem State.logFault_coreOf (c code k : Nat) (addr : BitVec 64) (s : State) :
    (s.logFault c code addr).coreOf k = s.coreOf k := State.coreOf_congr (State.logFault_zwm ..) k

@[simp] theorem State.logFault_flag (c code k i : Nat) (addr : BitVec 64) (s : State) :
    (s.logFault c code addr).flag k i = s.flag k i := by simp [State.flag]

@[simp] theorem State.logFault_repLeft (c code k : Nat) (addr : BitVec 64) (s : State) :
    (s.logFault c code addr).repLeft k = s.repLeft k := by simp [State.repLeft, State.reg]

/-- The core that a fault leaves: the fault registers written, FH set, IE clear, no repetition, PC at the fault entry. -/
def Core.faulted (c code opnd : Nat) (addr : BitVec 64) (left : Nat) (x : Core) : Core :=
  { x with
    fcause := BitVec.ofNat 13 (code + 256 * opnd + (if x.rep.isSome then 4096 else 0)), fpc := x.pc, faddr := addr
    frep := BitVec.ofNat 64 left, fl := (x.fl ||| 0x40) &&& ~~~ 0x20, pc := BitVec.ofNat 64 (imageBase c + 0xC0), rep := none }

theorem State.enterFault_of_clear {s : State} {c : Nat} (h : s.flag c 6 = false) (code opnd : Nat) (addr : BitVec 64) :
    s.enterFault c code opnd addr = (s.logFault c code addr).modCore c (Core.faulted c code opnd addr (s.repLeft c)) := by
  simp only [State.enterFault, State.logFault_flag, State.logFault_repLeft, h, Bool.false_eq_true, if_false]
  rfl

/-- FH tells a core in a fault from one at reset. -/
theorem Core.faulted_ne_default (c code opnd : Nat) (addr : BitVec 64) (left : Nat) (x : Core) :
    x.faulted c code opnd addr left ≠ {} := by
  intro h
  have hfh : ((x.fl ||| 0x40) &&& ~~~ 0x20).getLsbD 6 = false := by
    rw [show (x.fl ||| 0x40) &&& ~~~ 0x20 = 0 from congrArg Core.fl h]
    rfl
  simp at hfh

/-- R405: a fault outside a fault writes the fault registers and enters the handler. -/
theorem State.enterFault_faults {s : State} {c : Nat} (h : s.flag c 6 = false) (code opnd : Nat) (addr : BitVec 64) :
    s.Faults (s.enterFault c code opnd addr) c code opnd addr := by
  rw [State.enterFault_of_clear h]
  have hc := State.coreOf_modCore_of_ne_default c _ (s.logFault c code addr) (Core.faulted_ne_default c code opnd addr (s.repLeft c) _)
  rw [State.logFault_coreOf] at hc
  have hk (k : Nat) (hne : k ≠ c) :
      ((s.logFault c code addr).modCore c (Core.faulted c code opnd addr (s.repLeft c))).coreOf k = s.coreOf k := by
    rw [State.coreOf_modCore_ne c k _ _ hne, State.logFault_coreOf]
  have hz := State.logFault_zwm c code addr s
  exact ⟨(congrArg Core.regs hc :), (congrArg Core.acc hc :), (congrArg Core.accTag hc :), congrArg Core.fl hc,
    congrArg Core.fcause hc, congrArg Core.fpc hc, congrArg Core.faddr hc, congrArg Core.frep hc, congrArg Core.rep hc,
    congrArg Core.pc hc, hk, (congrArg Zwm.hmem hz :), (congrArg Zwm.bmem hz :), (congrArg Zwm.msg hz :),
    State.logFault_pending c code addr s⟩

/-! ### Result tags (R388) -/

theorem TWord.tag_ne_addr_of_number {v : TWord} (hv : v.number = true) : v.tag ≠ tAddr := by
  intro e
  simp [TWord.number, e, tAddr, tInt, tSecret] at hv

/-- Two numbers give a number: SECRET where one of them is, or where a hidden flag was read. -/
theorem resultTag_of_numbers {x y : TWord} (hx : x.number = true) (hy : y.number = true) (u : AddrUse) (hidden : Bool) :
    resultTag u x y hidden = .ok (if x.tag = tSecret ∨ y.tag = tSecret ∨ hidden then tSecret else tInt) := by
  simp [resultTag, hx, hy, TWord.tag_ne_addr_of_number hx, TWord.tag_ne_addr_of_number hy]

/-- A word that is neither a number nor an address is no operand of arithmetic. -/
theorem resultTag_of_token {x : TWord} (hx : x.tag = tCode ∨ x.tag = tSlotref ∨ x.tag = tSealed) (u : AddrUse) (y : TWord)
    (hidden : Bool) : resultTag u x y hidden = .error (.fault 0x08 0) := by
  have hn : x.number = false ∧ x.tag ≠ tAddr ∧ x.tag ≠ tInt ∧ x.tag ≠ tSecret := by
    rcases hx with h | h | h <;> simp [TWord.number, h, tCode, tSlotref, tSealed, tAddr, tInt, tSecret]
  obtain ⟨hnum, haddr, hint, hsec⟩ := hn
  simp [resultTag, hnum, haddr, hint, hsec]

/-- The tag of a number is SECRET where its condition says so. -/
theorem secretTag_beq (p : Prop) [Decidable p] : ((if p then tSecret else tInt) == tSecret) = decide p := by
  by_cases h : p
  · simp [h]
  · simp only [h, if_false, decide_false]
    decide

/-! ### Comparisons (R397) -/

/-- The shape of a comparison: sources, result tag, flags. -/
theorem State.run_compare {op c : Nat} {s s₁ : State} {sz : BitVec 8} {a b : Spec} {u : AddrUse} {f : Nat → Nat → Nat → AluOut}
    {x y : TWord} {g : BitVec 4} (h : s.Ready c op .any sz 0 [a, b]) (hx : s.Reads2 c (szBytes sz) a b x y s₁)
    (hg : resultTag u x y false = .ok g) (hga : g ≠ tAddr) :
    s.run c (compare op c sz a b u f) =
      (s₁.setFlags c (szBytes sz) (f (szBytes sz) x.val.toNat y.val.toNat) (g == tSecret)).past c (s.coreOf c).pc [a, b] := by
  obtain ⟨s', ha, hb⟩ := hx
  apply State.run_of_plain h
  simp [compare, plain, bind, Except.bind, ha, hb, hg, ofOperand, hga]

/-- A comparison of words without a result tag stops with the instruction's own fault. -/
theorem State.run_compare_of_error {op c : Nat} {s s₁ : State} {sz : BitVec 8} {a b : Spec} {u : AddrUse}
    {f : Nat → Nat → Nat → AluOut} {x y : TWord} {e : Stop} (h : s.Ready c op .any sz 0 [a, b])
    (hx : s.Reads2 c (szBytes sz) a b x y s₁) (hg : resultTag u x y false = .error e) :
    s.run c (compare op c sz a b u f) = s.stop c (e, 0xF) := by
  obtain ⟨s', ha, hb⟩ := hx
  apply State.run_of_stop h
  simp [compare, plain, bind, Except.bind, ha, hb, hg, ofOperand]

/-- A difference without a borrow in, as R392 has it: the subtrahend is below 2^(8n). -/
theorem aluSub_of_lt {n y : Nat} (x : Nat) (hy : y < 2 ^ (8 * n)) :
    aluSub n x y 0 = { r := (((x : Int) - y) % 2 ^ (8 * n)).toNat, c := decide (x < y), v := overflows n (signed n x - signed n y) } := by
  have hr : (x + 2 ^ (8 * n) - y % 2 ^ (8 * n) + 2 ^ (8 * n) - 0) % 2 ^ (8 * n) = (((x : Int) - y) % 2 ^ (8 * n)).toNat := by
    rw [Nat.mod_eq_of_lt hy, show (2 : Int) ^ (8 * n) = ((2 ^ (8 * n) : Nat) : Int) by norm_cast]
    generalize 2 ^ (8 * n) = m at hy
    have hd : (x : Int) - y = ((x + m - y : Nat) : Int) - m := by omega
    rw [Nat.sub_zero, Nat.add_mod_right, hd, Int.sub_emod_right, ← Int.natCast_mod, Int.toNat_natCast]
  simp only [aluSub, hr, Nat.add_zero, Nat.cast_zero, Int.sub_zero]

/-! ### SEL (R388, R397) -/

theorem selTag_of_numbers {x y : TWord} (hx : x.number = true) (hy : y.number = true) (flS hidden : Bool) :
    selTag x y flS hidden = .ok (if x.tag = tSecret ∨ y.tag = tSecret ∨ hidden then tSecret else tInt) := by
  simp [selTag, TWord.tag_ne_addr_of_number hx, resultTag_of_numbers hx hy]

theorem selTag_of_addrs {x y : TWord} (hx : x.tag = tAddr) (hy : y.tag = tAddr) (hidden : Bool) :
    selTag x y false hidden = .ok tAddr := by simp [selTag, hx, hy]

/-- SEL completes: its condition chooses the value, and the tag is that of both sources. -/
theorem execSelCc_of_tag {s s₁ s₂ : State} {c : Fin 5} {sz : BitVec 8} {d a b : Spec} {q : Place} {x y : TWord} {t : BitVec 4}
    (h : s.Ready c 0x22 .cond sz 1 [d, a, b]) (hx : s.Takes3 c (szBytes sz) d a b q x y s₁)
    (ht : selTag x y (s₁.flag c 4) (s₁.flag c 4 && bits sz 7 4 != 0xE) = .ok t)
    (hp : s₁.put c (szBytes sz) q { val := if s₁.holdsCond c (bits sz 7 4) then x.val else y.val, tag := t } = .ok s₂) :
    exec (.selCc c sz d a b) s = .next (s₂.past c (s.coreOf c).pc [d, a, b]) := by
  obtain ⟨t₁, t₂, hd, ha, hb⟩ := hx
  refine congrArg Host.Outcome.next (State.run_of_plain h ?_)
  simp only [plain, bind, Except.bind, hd, ha, hb, ht, ofOperand, hp]

/-! ### Conditions (R396) -/

/-- The table of conditions: what each reads of the flags; AL always holds. -/
theorem State.holdsCond_table (s : State) (c : Nat) :
    (s.holdsCond c 0 ↔ s.flag c 1 = true) ∧ (s.holdsCond c 1 ↔ s.flag c 1 = false) ∧
    (s.holdsCond c 2 ↔ s.flag c 2 ≠ s.flag c 3) ∧ (s.holdsCond c 3 ↔ s.flag c 2 = s.flag c 3) ∧
    (s.holdsCond c 4 ↔ s.flag c 0 = true) ∧ (s.holdsCond c 5 ↔ s.flag c 0 = false) ∧
    (s.holdsCond c 6 ↔ s.flag c 1 = true ∨ s.flag c 2 ≠ s.flag c 3) ∧
    (s.holdsCond c 7 ↔ s.flag c 1 = false ∧ s.flag c 2 = s.flag c 3) ∧
    (s.holdsCond c 8 ↔ s.flag c 0 = true ∨ s.flag c 1 = true) ∧ (s.holdsCond c 9 ↔ s.flag c 0 = false ∧ s.flag c 1 = false) ∧
    (s.holdsCond c 10 ↔ s.flag c 2 = true) ∧ (s.holdsCond c 11 ↔ s.flag c 2 = false) ∧
    (s.holdsCond c 12 ↔ s.flag c 3 = true) ∧ (s.holdsCond c 13 ↔ s.flag c 3 = false) ∧ s.holdsCond c 14 := by
  simp [State.holdsCond]

/-- A size byte with condition 0xF is of no form that carries a condition. -/
theorem encodingOk_of_cond15 {f : SizeForm} (hf : f = .cond ∨ f = .branch) {sz : BitVec 8} (h : bits sz 7 4 = 15) (dests : Nat)
    (ops : List Spec) : encodingOk f sz dests ops = false := by
  rcases hf with rfl | rfl <;> simp [encodingOk, SizeForm.ok, h]

/-- Settles O41: comparisons by their common shape, SEL by its result tag, conditions by their table. -/
theorem zwmComparisons : Obligations.ZwmComparisons := by
  unfold Obligations.ZwmComparisons
  refine ⟨fun s c sz a b x y g s₁ h hr hg hga _ hy => ?_, fun s c sz a b x y s₁ h hr hx hy => ?_,
    fun s c sz a b x y s₁ h hr hx hf => ?_, fun s c sz d a b q x y s₁ s₂ h ht hx hy hp => ?_,
    fun s c sz d a b q x y s₁ s₂ h ht hx hy hf hp => ?_, State.holdsCond_table,
    fun f sz dests ops hf h => encodingOk_of_cond15 hf h dests ops⟩
  · rw [← aluSub_of_lt x.val.toNat hy]
    exact congrArg Host.Outcome.next (State.run_compare h hr hg hga)
  · have hg := resultTag_of_numbers hx hy .none false
    have hS : ((if x.tag = tSecret ∨ y.tag = tSecret ∨ false = true then tSecret else tInt) == tSecret) =
        (x.tag == tSecret || y.tag == tSecret) := by
      rw [secretTag_beq]
      simp [Bool.decide_or, beq_eq_decide]
    rw [← hS]
    exact congrArg Host.Outcome.next (State.run_compare h hr hg (by split <;> decide))
  · have hg := resultTag_of_token hx .sub y false
    exact ⟨_, congrArg Host.Outcome.next (State.run_compare_of_error h hr hg), State.enterFault_faults hf 0x08 0xF 0⟩
  · refine execSelCc_of_tag h ht (selTag_of_numbers hx hy _ _) ?_
    simpa only [Bool.and_eq_true, bne_iff_ne] using hp
  · exact execSelCc_of_tag h ht (hf ▸ selTag_of_addrs hx hy _) hp

end Sys2Proof.Machine
end

section
/-!
SUPPORT and REFUTATION for O44 (R393, R401 to R403): under REP and REPI too the core fetches the instruction before it repeats or skips it.
-/
namespace Sys2Proof.Machine

/-- R393: under REP or REPI a failed fetch comes before anything else, whatever the count. -/
theorem State.run_of_repeat_fetch_error {s : State} {c : Nat} {i : Insn} {r : Rep} {e : Stop} (hc : s.coreRuns c = true)
    (hr : (s.coreOf c).rep = some r) (hf : s.fetchCheck c true ((s.coreOf c).pc + 2) i.bytes = .error e) :
    s.run c i = s.stop c (e, 0xF) := by
  rw [State.run, if_neg (by simp [hc]), hr]
  simp only [hf]

/-- A Hearth core at a REPI whose count is 0, with a ROM that nothing has written behind it: its words carry INT. -/
def repiBeforeData : State := { zwm := { cores := [(0, { rep := some { left := 0, interruptible := true } })] } }

/-- The NOP that is to be skipped. -/
def skippedNop : Insn := nullary 0 0 true fun s => .ok s

theorem repiBeforeData_runs_to_fetch_fault : repiBeforeData.run 0 skippedNop = repiBeforeData.enterFault 0 0x10 0xF 2 :=
  State.run_of_repeat_fetch_error (e := .fault 0x10 2) (by decide +kernel) rfl (by decide +kernel)

/-- Refutes O44: the clause for a REPI count of 0 moves PC past the instruction without a fetch, and no hypothesis says that the instruction
stands behind the REPI. In `repiBeforeData` the word there is not CODE, so the core enters the handler with FETCH (R393); in the same way
the last clause, ILLEGAL_INSN for an instruction that may not be repeated, fails. -/
theorem not_zwmAccumulatorAndPrefixes : ¬ Obligations.ZwmAccumulatorAndPrefixes := by
  unfold Obligations.ZwmAccumulatorAndPrefixes
  rintro ⟨-, -, -, -, -, -, -, hskip, -⟩
  have hskipped := hskip repiBeforeData 0 skippedNop { left := 0, interruptible := true } (by decide +kernel) rfl rfl rfl rfl
  obtain ⟨-, -, -, -, -, -, -, -, -, hhandler, -⟩ :=
    State.enterFault_faults (s := repiBeforeData) (c := 0) (by decide +kernel) 0x10 0xF 2
  rw [← repiBeforeData_runs_to_fetch_fault, hskipped] at hhandler
  exact absurd hhandler (by decide +kernel)

end Sys2Proof.Machine
end

section
/-!
SUPPORT and PROOF for O49 (R157, R540, R542, R543, R548, R549, R551): what the window answers at once, how a response is released, how a
binding of the LMK ends, and which status the end of a plan has.
-/
namespace Sys2Proof.Machine

/-! ### The release of a response (R540, R551) -/

/-- The window's registers after the release of `rsp`. -/
def Legacy.released (rsp : Bytes) (l : Legacy) : Legacy :=
  { l with rsp := rsp, rspLen := rsp.length, count := l.count + 1, busy := false, done := true, snap := [], answer := none }

theorem State.legacyRelease_of_discard {s : State} (h : s.legacy.discard = true) (rsp : Bytes) :
    s.legacyRelease rsp = { s with legacy := { s.legacy with discard := false, busy := false, snap := [], answer := none } } := by
  simp only [State.legacyRelease, h, if_true]

theorem State.legacyRelease_legacy {s : State} (h : s.legacy.discard = false) (rsp : Bytes) :
    (s.legacyRelease rsp).legacy = s.legacy.released rsp := by
  unfold State.legacyRelease
  rw [if_neg (by simp [h])]
  dsimp only
  split <;> simp [Legacy.released]

theorem State.legacyNow_legacy {s : State} (h : s.legacy.discard = false) (status : String) :
    (s.legacyNow status).legacy = s.legacy.released (legacyFrame s.legacy.snap (ascii status) []) :=
  State.legacyRelease_legacy (by exact h) _

theorem exec_legacyResponseRelease_of_answer {s : State} {rsp : Bytes} (h : s.legacy.answer = some rsp) :
    exec .legacyResponseRelease s = .next (s.legacyRelease rsp) := by
  change execLegacyResponseRelease s = _
  simp only [execLegacyResponseRelease, h]

theorem exec_legacyResponseRelease_of_none {s : State} (h : s.legacy.answer = none) :
    exec .legacyResponseRelease s = .next s := by
  change execLegacyResponseRelease s = _
  simp only [execLegacyResponseRelease, h]

/-! ### GO (R540, R542, R549) -/

theorem State.onBar_of_open {s : State} (h : s.pfOpen = true) (act : State → State) : s.onBar act = act s := if_pos h

theorem State.onBar_of_idle {s : State} {act : State → State} (h : act s = s) : s.onBar act = s := by
  unfold State.onBar
  split
  · exact h
  · rfl

theorem exec_legacyGo_of_open {s t : State} (hp : s.pfOpen = true) (h : s.legacyGo = t) : exec .legacyGo s = .next t :=
  congrArg Host.Outcome.next ((State.onBar_of_open hp _).trans h)

/-- The request as GO copies it for the Hearth. -/
def State.takeRequest (frame : Bytes) (s : State) : State := { s with legacy := { s.legacy with busy := true, snap := frame } }

theorem State.legacyGo_of_not_legacy {s : State} (h : s.chip.legacy = false) : s.legacyGo = s := if_pos (by simp [h])

theorem State.legacyGo_of_busy {s : State} (hl : s.chip.legacy = true) (hb : s.legacy.busy = true) :
    s.legacyGo = { s with legacy := { s.legacy with overrun := true } } := by
  simp [State.legacyGo, hl, hb]

section
variable {s : State} (hl : s.chip.legacy = true) (hb : s.legacy.busy = false)
include hl hb

/-- A request that nothing answers at once is left to the Hearth. -/
theorem State.legacyGo_of_served {frame : Bytes} (hf : frame = slice s.legacy.req 0 (min 1536 s.legacy.reqLen))
    (h : (s.takeRequest frame).legacyAtOnce s.legacy.reqLen frame = none) :
    s.legacyGo = { s.takeRequest frame with worlds := { s.worlds with pendingSvc := s.worlds.pendingSvc ++ [.legacy] } } := by
  subst hf
  simp only [State.takeRequest] at h
  simp [State.legacyGo, State.takeRequest, hl, hb, h]

theorem State.legacyGo_of_atOnce {frame : Bytes} {st : String} (hf : frame = slice s.legacy.req 0 (min 1536 s.legacy.reqLen))
    (h : (s.takeRequest frame).legacyAtOnce s.legacy.reqLen frame = some st) : s.legacyGo = (s.takeRequest frame).legacyNow st := by
  subst hf
  simp only [State.takeRequest] at h
  simp [State.legacyGo, State.takeRequest, hl, hb, h]

end

/-! ### What is answered at once (R542, R548, R549) -/

theorem State.legacyAtOnce_of_locked {s : State} (h : s.chip.state = .locked) (n : Nat) (frame : Bytes) :
    s.legacyAtOnce n frame = some "S01" := if_pos h

theorem State.legacyAtOnce_of_no_vault {s : State} (h : s.chip.state = .ready) (hv : s.worlds.vaultUp = false) (n : Nat)
    (frame : Bytes) : s.legacyAtOnce n frame = some "S02" := by
  simp [State.legacyAtOnce, h, hv]

section
variable {s : State} (h : s.chip.state = .ready) (hv : s.worlds.vaultUp = true)
include h hv

theorem State.legacyAtOnce_of_bad_frame {n : Nat} {frame : Bytes} (hf : frameOk n frame = false) :
    s.legacyAtOnce n frame = some "F02" := by
  simp [State.legacyAtOnce, h, hv, hf]

theorem State.legacyAtOnce_of_unknown {n : Nat} {frame : Bytes} (hf : frameOk n frame = true)
    (hbar : ∀ c ∈ legBarred, ascii c ≠ legCode frame) (hgr : ∀ g ∈ legGrammar, ascii g.1 ≠ legCode frame) :
    s.legacyAtOnce n frame = some "N02" := by
  have hb : (legBarred.any fun c => ascii c == legCode frame) = false := by
    simpa only [List.any_eq_false, beq_iff_eq] using hbar
  have hg : (legGrammar.find? fun g => ascii g.1 == legCode frame) = none := by
    simpa only [List.find?_eq_none, beq_iff_eq] using hgr
  simp [State.legacyAtOnce, h, hv, hf, hb, hg]

end

theorem frameOk_of_length_or_start {n : Nat} {frame : Bytes} (h : n < 8 ∨ 1536 < n ∨ byteAt frame 0 ≠ 0x3C) :
    frameOk n frame = false := by
  rcases h with h | h | h
  · simp [frameOk, Nat.not_le.mpr h]
  · simp [frameOk, Nat.not_le.mpr h]
  · have hstart : (byteAt frame 0 == 0x3C) = false := beq_eq_false_iff_ne.mpr h
    simp only [frameOk, hstart, Bool.and_false, Bool.false_and]

theorem frameOk_of_code_not_upper {n : Nat} {frame : Bytes} (h : ∃ b ∈ legCode frame, isUpper b = false) : frameOk n frame = false := by
  have hall : (legCode frame).all isUpper = false := by simpa only [List.all_eq_false, Bool.not_eq_true] using h
  simp [frameOk, hall]

/-- The rows of R548 act alike, each for its code. -/
theorem exec_of_barred {c : Instr} {code : String} (h : (c, code) ∈ [(Instr.legKz, "KZ"), (.legKl, "KL"), (.legKy, "KY"),
    (.legXa, "XA"), (.legXd, "XD"), (.legXp, "XP"), (.legPn, "PN"), (.legPr, "PR"), (.legPo, "PO"), (.legPg, "PG")]) (s : State) :
    exec c s = .next (s.legN01 code) := by
  have hall : ∀ p ∈ [(Instr.legKz, "KZ"), (.legKl, "KL"), (.legKy, "KY"), (.legXa, "XA"), (.legXd, "XD"), (.legXp, "XP"),
      (.legPn, "PN"), (.legPr, "PR"), (.legPo, "PO"), (.legPg, "PG")], exec p.1 s = .next (s.legN01 p.2) := by
    simp only [List.forall_mem_cons]
    exact ⟨rfl, rfl, rfl, rfl, rfl, rfl, rfl, rfl, rfl, rfl, List.forall_mem_nil _⟩
  exact hall (c, code) h

theorem State.legN01_of_served {s : State} {code : String} (hb : s.legacy.busy = true) (hc : legCode s.legacy.snap = ascii code)
    (ha : s.legacy.answer = none) : s.legN01 code = s.legacyNow "N01" := by
  simp [State.legN01, hb, hc, ha]

/-! ### The binding of the LMK (R157, R543) -/

/-- The attributes that R543 asks of the slot that holds the LMK. -/
def LmkAttrs (a : BitVec 128) : Prop :=
  aClass a = 7 ∧ aUsage a = use2 'K' '0' ∧ aAlg a = ch 'T' ∧ aSub a = 3 ∧ aKlen a = 24 ∧ aMode a = ch 'B' ∧ aExport a = ch 'N' ∧
    bits a 95 92 = 2

theorem lmkFault_of_not_valid {x : Slot} (h : aValid x.attr = false) : lmkFault x = some 1 := if_pos (.inl (by simp [h]))

theorem lmkFault_of_tenant {x : Slot} (h : aTenant x.attr ≠ 0) : lmkFault x = some 1 := if_pos (.inr h)

theorem lmkFault_of_bad_attrs {x : Slot} (hv : aValid x.attr = true) (ht : aTenant x.attr = 0) (h : ¬ LmkAttrs x.attr) :
    lmkFault x = some 2 := (if_neg (by simp [hv, ht])).trans (if_neg h)

theorem lmkFault_of_attrs {x : Slot} (hv : aValid x.attr = true) (ht : aTenant x.attr = 0) (h : LmkAttrs x.attr) :
    lmkFault x = none := (if_neg (by simp [hv, ht])).trans (if_pos h)

/-- The write of LMK_BIND notes its slot. -/
def State.noteBind (n : Nat) (s : State) : State := { s with legacy := { s.legacy with bindSlot := n } }

/-- The stored copy of the LMK of slot `x` (R543). -/
def State.storeLmk (x : Slot) (s : State) : State :=
  State.wroteArea x.key.length { s with legacy := { s.legacy with
    lmk := x.key, lmkSeal := s.tpaKey 0 (s.epochOf 0), lmkAttr := x.attr, bound := true
    kcv := BitVec.ofNat 24 (beNat (leBytes 3 (aKcv x.attr))) } }

theorem State.reserveStore_of_full {s : State} {t n : Nat} (h : (s.tenantOf t).storeQuota < (s.tenantOf t).storeUsed + n) :
    s.reserveStore t n = none := if_neg (Nat.not_le.mpr h)

@[simp] theorem State.slotOf_of_legacy (l : Legacy) (n : Nat) (s : State) : State.slotOf { s with legacy := l } n = s.slotOf n := rfl

@[simp] theorem State.checkOf_of_legacy (l : Legacy) (n : Nat) (x : Slot) (s : State) :
    State.checkOf { s with legacy := l } n x = s.checkOf n x := rfl

section
variable {s : State} {n : Nat} (hl : s.chip.legacy = true)
include hl

/-- R157: a slot whose CHECK does not match is erased. -/
theorem State.bindLmk_of_mismatch (hv : aValid (s.slotOf n).attr = true) (hc : (s.slotOf n).check ≠ s.checkOf n (s.slotOf n)) :
    s.bindLmk n = ((s.noteBind n).slotFault n 1).refuseLmk 1 := by
  simp [State.bindLmk, State.noteBind, hl, hv, hc]

/-- The cause of a slot that may not be bound. -/
theorem State.bindLmk_of_fault {c : Nat} (hc : aValid (s.slotOf n).attr = true → (s.slotOf n).check = s.checkOf n (s.slotOf n))
    (hf : lmkFault (s.slotOf n) = some c) : s.bindLmk n = (s.noteBind n).refuseLmk c := by
  by_cases hv : aValid (s.slotOf n).attr = true
  · simp [State.bindLmk, State.noteBind, hl, hv, hc hv, hf]
  · simp [State.bindLmk, State.noteBind, hl, hv, hf]

variable (hc : (s.slotOf n).check = s.checkOf n (s.slotOf n)) (hf : lmkFault (s.slotOf n) = none)
include hc hf

theorem State.bindLmk_of_not_serving (h : s.chip.state ≠ .ready ∨ s.worlds.vaultUp = false) :
    s.bindLmk n = (s.noteBind n).refuseLmk 4 := by
  simp [State.bindLmk, State.noteBind, hl, hc, hf, h]

variable (hs : s.chip.state = .ready) (hu : s.worlds.vaultUp = true)
include hs hu

theorem State.bindLmk_of_bound (hb : s.legacy.bound = true) : s.bindLmk n = (s.noteBind n).storeLmk (s.slotOf n) := by
  simp [State.bindLmk, State.storeLmk, State.noteBind, hl, hc, hf, hs, hu, hb]

variable (hb : s.legacy.bound = false)
include hb

theorem State.bindLmk_of_reserved {u : State} (h : (s.noteBind n).reserveStore 0 1 = some u) :
    s.bindLmk n = u.storeLmk (s.slotOf n) := by
  simp only [State.noteBind, hb] at h
  simp [State.bindLmk, State.storeLmk, hl, hc, hf, hs, hu, hb, h]

theorem State.bindLmk_of_full (h : (s.noteBind n).reserveStore 0 1 = none) : s.bindLmk n = (s.noteBind n).refuseLmk 3 := by
  simp only [State.noteBind, hb] at h
  simp [State.bindLmk, State.noteBind, hl, hc, hf, hs, hu, hb, h]

end

/-! ### The status of a plan's end (R266, R549) -/

theorem planStatus_zero : planStatus 0 = none := by decide

/-- The lowest error bit decides. -/
theorem planStatus_of_lowest {err : BitVec 32} {b : Nat} (h : err.getLsbD b = true) (hlow : ∀ a, a < b → err.getLsbD a = false) :
    planStatus err = some (if b ≤ 1 then "P02" else if b = 2 then "K02" else if b = 3 then "P03" else if b = 4 then "D01"
      else if b ≤ 8 then "P01" else if b ≤ 10 then "P04" else "K01") := by
  have hb : b < 32 := BitVec.lt_of_getLsbD h
  have hfind : (List.range 32).find? (fun a => err.getLsbD a) = some b := by
    rw [List.find?_range_eq_some]
    exact ⟨h, by simpa using hb, by simpa using hlow⟩
  simp only [planStatus, hfind]

/-! ### The clauses of O49 -/

/-- An answer without a field: the frame released, the window free again, and nothing else of the device changed. -/
theorem State.legacyNow_releases {s : State} (h : s.legacy.discard = false) (status : String) :
    (s.legacyNow status).legacy.rsp = legacyFrame s.legacy.snap (ascii status) [] ∧ (s.legacyNow status).legacy.busy = false ∧
      (s.legacyNow status).legacy.done = true ∧ (s.legacyNow status).legacy.count = s.legacy.count + 1 ∧
      (s.legacyNow status).rack = s.rack ∧ (s.legacyNow status).pending = s.pending := by
  rw [State.legacyNow_legacy h]
  exact ⟨rfl, rfl, rfl, rfl, by simp, by simp⟩

theorem exec_lmkBind_of_open {s t : State} {n : BitVec 16} (hp : s.pfOpen = true) (h : s.bindLmk n.toNat = t) :
    exec (.lmkBind n) s = .next t := congrArg Host.Outcome.next ((State.onBar_of_open hp _).trans h)

/-- Settles O49: each clause is what GO, the release, the binding or a row of R548 was shown to do. -/
theorem legacyWindow : Obligations.LegacyWindow := by
  unfold Obligations.LegacyWindow
  refine ⟨⟨fun s hl => ?_, fun s hp hl hb => ?_, fun s frame hp hl hb hf h => ?_, fun s frame st hp hl hb hd hf h => ?_,
    fun s n frame h => State.legacyAtOnce_of_locked h n frame, fun s n frame h hv => State.legacyAtOnce_of_no_vault h hv n frame,
    fun s n frame h hv hf => State.legacyAtOnce_of_bad_frame h hv (frameOk_of_length_or_start hf),
    fun s n frame h hv hf hbar hgr => State.legacyAtOnce_of_unknown h hv hf hbar hgr,
    fun s n frame h hv hf => State.legacyAtOnce_of_bad_frame h hv (frameOk_of_code_not_upper hf),
    fun s rsp ha hd => ?_, fun s rsp ha hd => ?_, fun s ha => exec_legacyResponseRelease_of_none ha,
    fun s n x a hp hl hx ha => ?_, fun s c code hc hb hd hcode ha => ?_⟩, planStatus_zero, fun err b h hlow => ?_⟩
  · exact congrArg Host.Outcome.next (State.onBar_of_idle (State.legacyGo_of_not_legacy hl))
  · exact exec_legacyGo_of_open hp (State.legacyGo_of_busy hl hb)
  · exact exec_legacyGo_of_open hp (State.legacyGo_of_served hl hb hf h)
  · exact ⟨_, exec_legacyGo_of_open hp (State.legacyGo_of_atOnce hl hb hf h), State.legacyNow_releases (s := s.takeRequest frame) hd st⟩
  · refine ⟨_, exec_legacyResponseRelease_of_answer ha, ?_⟩
    rw [State.legacyRelease_legacy hd]
    exact ⟨rfl, rfl, rfl, rfl, rfl, rfl, rfl, by simp, by simp, by simp⟩
  · rw [exec_legacyResponseRelease_of_answer ha, State.legacyRelease_of_discard hd]
  · subst hx ha
    refine ⟨fun hv hc => exec_lmkBind_of_open hp (State.bindLmk_of_mismatch hl hv hc), fun hv => ?_, fun hv hc => ⟨fun ht => ?_,
      fun ht hbad => ?_, fun ht hcls huse halg hsub hklen hmode hexp hbits => ?_⟩⟩
    · exact exec_lmkBind_of_open hp (State.bindLmk_of_fault hl (by simp [hv]) (lmkFault_of_not_valid hv))
    · exact exec_lmkBind_of_open hp (State.bindLmk_of_fault hl (fun _ => hc) (lmkFault_of_tenant ht))
    · have hattrs : ¬ LmkAttrs (s.slotOf n.toNat).attr := by simpa only [LmkAttrs, not_and_or] using hbad
      exact exec_lmkBind_of_open hp (State.bindLmk_of_fault hl (fun _ => hc) (lmkFault_of_bad_attrs hv ht hattrs))
    · have hf := lmkFault_of_attrs hv ht ⟨hcls, huse, halg, hsub, hklen, hmode, hexp, hbits⟩
      refine ⟨fun h => exec_lmkBind_of_open hp (State.bindLmk_of_not_serving hl hc hf h),
        fun hs hu hb => exec_lmkBind_of_open hp (State.bindLmk_of_bound hl hc hf hs hu hb),
        fun hs hu hb => ⟨fun u hroom => ?_, fun hfull => ?_⟩⟩
      · exact exec_lmkBind_of_open hp (State.bindLmk_of_reserved hl hc hf hs hu hb hroom)
      · have hnone : (s.noteBind n.toNat).reserveStore 0 1 = none := State.reserveStore_of_full (Nat.lt_succ_of_le hfull)
        exact exec_lmkBind_of_open hp (State.bindLmk_of_full hl hc hf hs hu hb hnone)
  · exact ⟨_, (exec_of_barred hc s).trans (congrArg Host.Outcome.next (State.legN01_of_served hb hcode ha)),
      State.legacyNow_releases hd "N01"⟩
  · rw [planStatus_of_lowest h hlow]
    refine ⟨fun hb => by rw [if_pos hb], by rintro rfl; rfl, by rintro rfl; rfl, by rintro rfl; rfl, fun hlo hhi => ?_,
      fun hlo hhi => ?_, by rintro rfl; rfl⟩
    · interval_cases b <;> rfl
    · interval_cases b <;> rfl

end Sys2Proof.Machine
end

section
/-!
SUPPORT and PROOF for O51 (R270, R545 to R547, R549): how the Hearth serves a command of the window, what the run of a plan answers, and
the PIN commands.
-/
namespace Sys2Proof.Machine

/-! ### Serving a command (R545, R549, R550) -/

/-- `u` is `s` on the way to an answer: what `Answered` keeps and which pipelines serve are as in `s`. -/
structure State.OnTheWay (s u : State) : Prop where
  legacy : u.legacy = s.legacy
  rack : u.rack = s.rack
  chip : u.chip = s.chip
  life : u.life = s.life
  crucible : u.crucible = s.crucible
  vault : u.vault = s.vault
  pending : u.pending = s.pending
  blocks : u.engine.blocks = s.engine.blocks

theorem State.OnTheWay.refl (s : State) : s.OnTheWay s := ⟨rfl, rfl, rfl, rfl, rfl, rfl, rfl, rfl⟩

theorem State.OnTheWay.trans {s t u : State} (h : s.OnTheWay t) (k : t.OnTheWay u) : s.OnTheWay u :=
  ⟨k.legacy.trans h.legacy, k.rack.trans h.rack, k.chip.trans h.chip, k.life.trans h.life, k.crucible.trans h.crucible,
    k.vault.trans h.vault, k.pending.trans h.pending, k.blocks.trans h.blocks⟩

theorem State.onTheWay_tookDraw (s : State) : s.OnTheWay s.tookDraw := ⟨rfl, rfl, rfl, rfl, rfl, rfl, rfl, rfl⟩

theorem State.onTheWay_countRate (c ops n : Nat) (s : State) : s.OnTheWay (s.countRate c ops n) :=
  ⟨rfl, rfl, rfl, rfl, rfl, rfl, rfl, rfl⟩

theorem State.onTheWay_log (code source : Nat) (p : Bytes) (s : State) : s.OnTheWay (s.log code source p) := by
  constructor <;> simp only [State.log_frame]

theorem State.OnTheWay.noPipe {s u : State} (h : s.OnTheWay u) : u.noPipe = s.noPipe := by
  simp only [State.noPipe, State.blockOf_congr h.blocks]

/-- The answer of a command that has changed nothing else. -/
theorem State.OnTheWay.answered {s u : State} (h : s.OnTheWay u) (status : String) (fields : List Bytes) :
    s.Answered (u.legAnswer status fields) status fields := by
  refine ⟨?_, rfl, h.rack, h.chip, h.life, h.crucible, h.vault, h.pending⟩
  simp [State.legAnswer, h.legacy]

theorem State.onLegacy_of_asked {s : State} {code : String} {f : List Bytes} (h : s.Asked code f) (act : List Bytes → State → State) :
    s.onLegacy code act = act f s := by
  obtain ⟨hrun, hcode, hans, hf⟩ := h
  simp [State.onLegacy, hrun, hcode, hans, hf]

theorem exec_of_asked {s t : State} {c : Instr} {code : String} {f : List Bytes} {act : List Bytes → State → State}
    (hc : exec c s = .next (s.onLegacy code act)) (ha : s.Asked code f) (hact : act f s = t) : exec c s = .next t :=
  hc.trans (congrArg Host.Outcome.next ((State.onLegacy_of_asked ha act).trans hact))

/-- A command that comes to an answer gives it. -/
theorem State.OnTheWay.answers {s u : State} {c : Instr} {status : String} {fields : List Bytes} (hu : s.OnTheWay u)
    (hc : exec c s = .next (u.legAnswer status fields)) : ∃ t, exec c s = .next t ∧ s.Answered t status fields :=
  ⟨_, hc, hu.answered status fields⟩

/-- R157: a sound slot, or none, lets the command read the LMK. -/
theorem State.withLmk_of_sound {s : State} (h : s.LmkSound) (k : State → State) : s.withLmk k = k s := by
  have hnone : (s.legacy.lmkSlot.filter fun n => (s.slotOf n).check != s.checkOf n (s.slotOf n)) = none :=
    Option.filter_eq_none_iff.mpr fun n hn => by simp [h n hn]
  simp only [State.withLmk, hnone]

theorem State.withKey_of_open {s : State} (hs : s.LmkSound) {v : Nat} {field key : Bytes} (hk : s.openKey v field = some key)
    (k : Bytes → State → State) : s.withKey v field k = k key s := by
  simp only [State.withKey, State.withLmk_of_sound hs, hk]

/-- A command with two key fields that open. -/
theorem State.withKeys_of_open {s : State} (hs : s.LmkSound) {v w : Nat} {field field' key key' : Bytes} (hk : s.openKey v field = some key)
    (hk' : s.openKey w field' = some key') (act : Bytes → Bytes → State → State) :
    s.withKey v field (fun k s => s.withKey w field' (act k)) = act key key' s :=
  (State.withKey_of_open hs hk _).trans (State.withKey_of_open hs hk' _)

theorem State.legDraw_of_given {s : State} {g : Bytes} (h : s.bellows.given = some g) (n : Nat) (k : Bytes → State → State) :
    s.legDraw n k = k (g.take n) s.tookDraw := State.hearthDraw_of h n k _

/-! ### The run of a plan (R28, R266, R549, R550) -/

theorem State.legRun_of_noPipe {s : State} (h : s.noPipe = true) (plan : Nat) (x : Payment.Txn) (k : Payment.End → State → State) :
    s.legRun plan x k = s.legAnswer "S02" [] := by
  simp [State.legRun, h]

section
variable {s : State} {plan : Nat} {x : Payment.Txn} {e : Payment.End} (h : s.noPipe = false) (hr : Payment.run plan x = some e)
include h hr

theorem State.legRun_of_error {st : String} (he : planStatus e.err = some st) (k : Payment.End → State → State) :
    s.legRun plan x k = ((s.countRate 3 0 x.data.length).log 0x0002 0x10 (leBytes 2 plan ++ leBytes 4 e.err.toNat)).legAnswer st [] := by
  simp [State.legRun, h, hr, he]

theorem State.legRun_of_success (he : planStatus e.err = none) (k : Payment.End → State → State) :
    s.legRun plan x k = k e (s.countRate 3 1 x.data.length) := by
  simp [State.legRun, h, hr, he]

end

section
variable {s u : State} {c : Instr} {plan : Nat} {x : Payment.Txn} {k : Payment.End → State → State}
  (hc : exec c s = .next (u.legRun plan x k)) (hu : s.OnTheWay u)
include hc hu

/-- R28: without a pipeline the command answers S02. -/
theorem State.answers_S02_of_noPipe (h : s.noPipe = true) : ∃ t, exec c s = .next t ∧ s.Answered t "S02" [] := by
  rw [State.legRun_of_noPipe (hu.noPipe.trans h)] at hc
  exact ⟨_, hc, hu.answered "S02" []⟩

/-- The end of a plan: what follows a success, and the status of an error (R549). -/
theorem State.answers_of_run {e : Payment.End} (h : s.noPipe = false) (hr : Payment.run plan x = some e) : ∃ t, exec c s = .next t ∧
    (planStatus e.err = none → t = k e (u.countRate 3 1 x.data.length)) ∧
    ∀ st, planStatus e.err = some st → s.Answered t st [] := by
  have hpipe := hu.noPipe.trans h
  refine ⟨_, hc, fun he => State.legRun_of_success hpipe hr he k, fun st he => ?_⟩
  rw [State.legRun_of_error hpipe hr he]
  exact ((hu.trans (u.onTheWay_countRate ..)).trans (State.onTheWay_log ..)).answered st []

end

/-- A command whose work is a plan. -/
theorem State.runsPlan_of_legPlan {s u : State} {c : Instr} {plan : Nat} {x : Payment.Txn} {fields : Payment.End → List Bytes}
    (hc : exec c s = .next (u.legPlan plan x fields)) (hu : s.OnTheWay u) : s.RunsPlan c plan x fields := by
  refine ⟨State.answers_S02_of_noPipe hc hu, fun e h hr => ?_⟩
  obtain ⟨t, ht, hok, herr⟩ := State.answers_of_run hc hu h hr
  refine ⟨t, ht, fun he => ?_, herr⟩
  rw [hok he]
  exact (hu.trans (u.onTheWay_countRate ..)).answered "A00" (fields e)

/-- A command whose work is a verify plan. -/
theorem State.runsVerify_of_legVerify {s u : State} {c : Instr} {plan : Nat} {x : Payment.Txn} {fields : Payment.End → List Bytes}
    (hc : exec c s = .next (u.legVerify plan x fields)) (hu : s.OnTheWay u) : s.RunsVerify c plan x fields := by
  refine ⟨State.answers_S02_of_noPipe hc hu, fun e h hr => ?_⟩
  obtain ⟨t, ht, hok, herr⟩ := State.answers_of_run hc hu h hr
  have hcount := hu.trans (u.onTheWay_countRate 3 1 x.data.length)
  refine ⟨t, ht, fun he hv => ?_, fun he hv => ?_, herr⟩
  · rw [hok he, if_pos hv]
    exact hcount.answered "A00" (fields e)
  · rw [hok he, if_neg hv]
    exact hcount.answered "V01" []

/-! ### The PIN commands (R546, R547) -/

section
variable {s : State} {vIn : Nat} {k₀ k₁ : Bytes} (hs : s.LmkSound)
include hs

/-- A translation between two keys under the LMK runs plan 0x0010 on its fields. -/
theorem State.legXlate_eq {a b pb fi fo an g : Bytes} (hfi : decOf fi ≠ 4) (hfo : decOf fo ≠ 4) (h₀ : s.openKey vIn a = some k₀)
    (h₁ : s.openKey 0x1E b = some k₁) (hg : s.bellows.given = some g) :
    s.legXlate vIn [a, b, pb, fi, fo, an] = s.tookDraw.legPlan 0x10
      { p := paramBlock ([(12, fmtByte fi), (13, fmtByte fo), (16, hexOf pb)] ++ anParts an)
        rnd := g.take 8, k0 := scratchKey k₀, k1 := scratchKey k₁ } fun e => [hexText e.out] :=
  (if_neg (not_or.mpr ⟨hfi, hfo⟩)).trans ((State.withKeys_of_open hs h₀ h₁ _).trans (State.legDraw_of_given hg 8 _))

/-- An offset is verified by plan 0x0020 on the fields. -/
theorem State.legOffset_eq {a b pb fi an vd tab off n : Bytes} (hfi : decOf fi ≠ 4) (h₀ : s.openKey vIn a = some k₀)
    (h₁ : s.openKey 0x3C b = some k₁) :
    s.legOffset vIn [a, b, pb, fi, an, vd, tab, off, n] = s.legVerify 0x20
      { p := paramBlock ([(12, fmtByte fi), (16, hexOf pb), (48, hexOf vd), (56, hexOf tab), (64, hexOf off),
          (70, [BitVec.ofNat 8 (decOf n)])] ++ anParts an)
        k0 := scratchKey k₀, k1 := scratchKey k₁ } fun _ => [] :=
  (if_neg hfi).trans (State.withKeys_of_open hs h₀ h₁ _)

/-- A PVV is verified by plan 0x0021 on the fields. -/
theorem State.legPvv_eq {a b pb fi an ki pvv : Bytes} (hfi : decOf fi ≠ 4) (h₀ : s.openKey vIn a = some k₀)
    (h₁ : s.openKey 0x3C b = some k₁) :
    s.legPvv vIn [a, b, pb, fi, an, ki, pvv] = s.legVerify 0x21
      { p := paramBlock ([(12, fmtByte fi), (16, hexOf pb), (48, fmtByte ki), (49, hexOf pvv)] ++ anParts an)
        k0 := scratchKey k₀, k1 := scratchKey k₁ } fun _ => [] :=
  (if_neg hfi).trans (State.withKeys_of_open hs h₀ h₁ _)

end

/-! ### PD (R547) -/

/-- The hit of a route is counted in the route and in rate class 6. -/
def State.hitPdRoute (i : Nat) (s : State) : State :=
  State.countRate 6 1 0 { s with routing := { s.routing with tries := tmod [] (trieKey 1 0) (hitRoute i) s.routing.tries } }

theorem State.onTheWay_hitPdRoute (i : Nat) (s : State) : s.OnTheWay (s.hitPdRoute i) := ⟨rfl, rfl, rfl, rfl, rfl, rfl, rfl, rfl⟩

section
variable {s : State} {a b ks pb fi fo an bdk k₀ : Bytes} (ha : s.Asked "PD" [a, b, ks, pb, fi, fo, an]) (hs : s.LmkSound)
  (hfi : decOf fi ≠ 4) (hfo : decOf fo ≠ 4) (hb : s.openKey 0x69 a = some bdk) (h₀ : s.openKey 0x1E b = some k₀)
include ha hs hfi hfo hb h₀

/-- R547: a KSN that no TDES route covers is answered D01. -/
theorem exec_legPd_of_miss (h : longest (searchIdent 1 (hexOf ks)) 0 (s.trieOf 1 0) = none) :
    exec .legPd s = .next (s.legAnswer "D01" []) := by
  refine exec_of_asked rfl ha ((if_neg (not_or.mpr ⟨hfi, hfo⟩)).trans ((State.withKeys_of_open hs hb h₀ _).trans ?_))
  simp only [fld, List.getD_cons_zero, List.getD_cons_succ, h]

variable {i : Nat} {r : Route} (h : longest (searchIdent 1 (hexOf ks)) 0 (s.trieOf 1 0) = some (i, r))
include h

/-- R547: a route whose slot holds another key than the BD field is answered K02. -/
theorem exec_legPd_of_other_key (hk : leBytes 3 (aKcv (s.slotOf r.slot).attr) ≠ kcvOf (ch 'T') (bdk.length / 8) bdk) :
    exec .legPd s = .next ((s.hitPdRoute i).legAnswer "K02" []) := by
  refine exec_of_asked rfl ha ((if_neg (not_or.mpr ⟨hfi, hfo⟩)).trans ((State.withKeys_of_open hs hb h₀ _).trans ?_))
  simp only [fld, List.getD_cons_zero, List.getD_cons_succ, h]
  exact if_pos (.inr hk)

/-- R547: plan 0x0013 runs under the routed key where it is the key of the BD field. -/
theorem exec_legPd_of_route {g : Bytes} (hg : s.bellows.given = some g) (hr : s.routeSlotOk 1 0 r = true)
    (hk : leBytes 3 (aKcv (s.slotOf r.slot).attr) = kcvOf (ch 'T') (bdk.length / 8) bdk) :
    exec .legPd s = .next ((s.hitPdRoute i).tookDraw.legPlan 0x13
      { p := paramBlock ([(0, hexOf ks), (12, fmtByte fi), (13, fmtByte fo), (16, hexOf pb)] ++ anParts an)
        rnd := g.take 8, k0 := scratchKey k₀, kr := copyOf r.slot (s.slotOf r.slot) } fun e => [hexText e.out]) := by
  refine exec_of_asked rfl ha ((if_neg (not_or.mpr ⟨hfi, hfo⟩)).trans ((State.withKeys_of_open hs hb h₀ _).trans ?_))
  have hok : ¬ (¬ (s.hitPdRoute i).routeSlotOk 1 0 r = true ∨
      leBytes 3 (aKcv ((s.hitPdRoute i).slotOf r.slot).attr) ≠ kcvOf (ch 'T') (bdk.length / 8) bdk) :=
    not_or.mpr ⟨not_not.mpr hr, not_not.mpr hk⟩
  simp only [fld, List.getD_cons_zero, List.getD_cons_succ, h]
  exact (if_neg hok).trans (State.legDraw_of_given (s := s.hitPdRoute i) hg 8 _)

end

/-! ### The clauses of O51 -/

/-- Settles O51: each command by the plan that its fields were shown to run, or by the answer that it was shown to give. -/
theorem legacyPins : Obligations.LegacyPins := by
  unfold Obligations.LegacyPins
  refine ⟨fun s a b pb fi fo an k₀ k₁ g ha hs hfi hfo h₀ h₁ hg => ?_, fun s a b pb fi fo an ha h4 => ?_,
    fun s a b pb fi fo an k₀ k₁ g ha hs hfi hfo h₀ h₁ hg => ?_, fun s a b pb fi fo an ha h4 => ?_,
    fun s a b ks pb fi fo an bdk k₀ g i r ha hs hfi hfo hb h₀ hg h hr hk => ?_,
    fun s a b ks pb fi fo an bdk k₀ ha hs hfi hfo hb h₀ h => ?_,
    fun s a b ks pb fi fo an bdk k₀ i r ha hs hfi hfo hb h₀ h hk => ?_, fun s f c code hc ha h4 => ?_,
    fun s a b pb fi an vd tab off n k₀ k₁ ha hs hfi h₀ h₁ => ?_, fun s a b pb fi an vd tab off n k₀ k₁ ha hs hfi h₀ h₁ => ?_,
    fun s a b pb fi an ki pvv k₀ k₁ ha hs hfi h₀ h₁ => ?_, fun s a b pb fi an ki pvv k₀ k₁ ha hs hfi h₀ h₁ => ?_⟩
  · exact State.runsPlan_of_legPlan (exec_of_asked rfl ha (State.legXlate_eq hs hfi hfo h₀ h₁ hg)) s.onTheWay_tookDraw
  · exact (State.OnTheWay.refl s).answers (exec_of_asked rfl ha (if_pos h4))
  · exact State.runsPlan_of_legPlan (exec_of_asked rfl ha (State.legXlate_eq hs hfi hfo h₀ h₁ hg)) s.onTheWay_tookDraw
  · exact (State.OnTheWay.refl s).answers (exec_of_asked rfl ha (if_pos h4))
  · exact State.runsPlan_of_legPlan (exec_legPd_of_route ha hs hfi hfo hb h₀ h hg hr hk)
      ((s.onTheWay_hitPdRoute i).trans (State.onTheWay_tookDraw _))
  · exact (State.OnTheWay.refl s).answers (exec_legPd_of_miss ha hs hfi hfo hb h₀ h)
  · exact (s.onTheWay_hitPdRoute i).answers (exec_legPd_of_other_key ha hs hfi hfo hb h₀ h hk)
  · refine (State.OnTheWay.refl s).answers ?_
    simp only [List.mem_cons, Prod.mk.injEq, List.not_mem_nil, or_false] at hc
    obtain ⟨rfl, rfl⟩ | ⟨rfl, rfl⟩ | ⟨rfl, rfl⟩ | ⟨rfl, rfl⟩ := hc <;> exact exec_of_asked rfl ha (if_pos h4)
  · exact State.runsVerify_of_legVerify (exec_of_asked rfl ha (State.legOffset_eq hs hfi h₀ h₁)) (State.OnTheWay.refl s)
  · exact State.runsVerify_of_legVerify (exec_of_asked rfl ha (State.legOffset_eq hs hfi h₀ h₁)) (State.OnTheWay.refl s)
  · exact State.runsVerify_of_legVerify (exec_of_asked rfl ha (State.legPvv_eq hs hfi h₀ h₁)) (State.OnTheWay.refl s)
  · exact State.runsVerify_of_legVerify (exec_of_asked rfl ha (State.legPvv_eq hs hfi h₀ h₁)) (State.OnTheWay.refl s)

end Sys2Proof.Machine
end

section
/-!
PROOF of O53, O54, O55 and O56: a step, the state right after reset, and that every command answers a next state.
-/
namespace Sys2Proof.Machine

/-- Settles O53. -/
theorem stepRunsCommand : Obligations.StepRunsCommand := by
  unfold Obligations.StepRunsCommand
  refine ⟨fun c s rest h => ?_, fun s h => ?_⟩
  · simp only [step, h]
  · simp only [step, h, State.idle, refPeriod]

/-- Every row of the table has a meaning that ends in a next state. -/
theorem exec_next (c : Instr) (s : State) : ∃ t, exec c s = .next t := by
  cases c <;> exact ⟨_, rfl⟩

theorem step_next (s : State) : ∃ t, step s = .next t := by
  unfold step
  cases s.pending with
  | nil => exact ⟨_, rfl⟩
  | cons c rest => exact exec_next c _

theorem State.safe (s : State) : s.Safe := by
  intro n
  induction n generalizing s with
  | zero => exact ⟨s, rfl⟩
  | succ n ih =>
    obtain ⟨t, ht⟩ := step_next s
    obtain ⟨u, hu⟩ := ih t
    have hstep : Sys2Proof.core.step s = .next t := ht
    exact ⟨u, by simp only [Host.Core.run, hstep, hu]⟩

/-- Settles O54, by induction on the number of steps. -/
theorem runsAreSafe : Obligations.RunsAreSafe := ⟨State.safe, exec_next⟩

/-- Each core at reset: all of it at its defaults, but for the PC of the four Bench cores. -/
theorem State.coreOf_reset (c : Nat) : State.reset.coreOf c = { pc := if 1 ≤ c ∧ c ≤ 4 then 0x400000 else 0 } := by
  by_cases h : 1 ≤ c ∧ c ≤ 4
  · obtain rfl | rfl | rfl | rfl : c = 1 ∨ c = 2 ∨ c = 3 ∨ c = 4 := by omega
    all_goals rfl
  · have h1 : 1 ≠ c := by omega
    have h2 : 2 ≠ c := by omega
    have h3 : 3 ≠ c := by omega
    have h4 : 4 ≠ c := by omega
    simp only [State.coreOf, State.reset, tget_cons, tget_nil, h, h1, h2, h3, h4, if_false]

/-- Settles O55. -/
theorem resetState : Obligations.ResetState := by
  unfold Obligations.ResetState
  refine ⟨rfl, rfl, rfl, rfl, rfl, fun _ => rfl, rfl, rfl, rfl, rfl, rfl, rfl, rfl, rfl, rfl, rfl, fun l _ => ?_, fun l _ => rfl,
    fun c r => ?_, fun c => ?_, fun c h1 h4 => ?_, fun _ _ => rfl⟩
  · simp [State.lineColour, State.reset]
  · rw [State.reg, State.coreOf_reset]
    rfl
  · rw [State.coreOf_reset]
  · rw [State.coreOf_reset, if_pos ⟨h1, h4⟩]

/-- Settles O56. -/
theorem invariantsAtReset : Obligations.InvariantsAtReset := ⟨rfl, Nat.zero_le _, Nat.zero_le _⟩

end Sys2Proof.Machine
end

section
/-!
SUPPORT for O57, O58, O59 and O60: the relation of a state to one reached from it in which the Rack stays in canonical form, both event
buffers stay bounded, no life-cycle fuse is cleared and the waiting commands stay. One lemma for each shared operation says that it
goes on from such a state to another; each command's lemma is put together from them.
-/
namespace Sys2Proof.Machine

/-- The part of a state that the invariants of the whole machine speak of. -/
structure Kept where
  pending : List Instr
  slots : List (Nat × Slot)
  queue : List Record
  batRecs : List BatRec
  stage : BitVec 5
  tokenUsed : BitVec 8
  relock : BitVec 8

def State.kept (s : State) : Kept :=
  { pending := s.pending, slots := s.rack.slots, queue := s.store.queue, batRecs := s.crucible.batRecs, stage := s.life.stage
    tokenUsed := s.life.tokenUsed, relock := s.life.relock }

/-- Every bit of `a` is a bit of `b`. -/
def BitsKept {n : Nat} (a b : BitVec n) : Prop := ∀ i, a.getLsbD i = true → b.getLsbD i = true

/-- `b` is as sound as `a`: the same commands wait, the Rack stays in canonical form (R157), the event queue and the battery-backed buffer
stay within their sizes (R442, R516), and no fuse is cleared (R447). -/
structure Kept.Step (a b : Kept) : Prop where
  pending : b.pending = a.pending
  slots : twf {} a.slots = true → twf {} b.slots = true
  queue : a.queue.length ≤ 256 → b.queue.length ≤ 256
  batRecs : a.batRecs.length ≤ 64 → b.batRecs.length ≤ 64
  stage : BitsKept a.stage b.stage
  tokenUsed : BitsKept a.tokenUsed b.tokenUsed
  relock : BitsKept a.relock b.relock

/-- `t`, reached from `s`, keeps what `s` had of the invariants. -/
def State.Keeps (s t : State) : Prop := s.kept.Step t.kept

namespace State.Keeps

variable {s t u : State}

theorem refl (s : State) : s.Keeps s := ⟨rfl, id, id, id, fun _ => id, fun _ => id, fun _ => id⟩

theorem trans (h : s.Keeps t) (k : t.Keeps u) : s.Keeps u :=
  ⟨k.pending.trans h.pending, k.slots ∘ h.slots, k.queue ∘ h.queue, k.batRecs ∘ h.batRecs, fun i => k.stage i ∘ h.stage i,
    fun i => k.tokenUsed i ∘ h.tokenUsed i, fun i => k.relock i ∘ h.relock i⟩

/-- A change of anything else. -/
theorem same (h : s.Keeps t) (e : u.kept = t.kept) : s.Keeps u := by
  unfold State.Keeps
  rw [e]
  exact h

/-- A record update of `t` in anything else. -/
theorem upd {now free sent pins chip link fns queues qmgr engine rack crucible vault trims plan routing hammer bellows worlds zwm
    tamper life power cards store legacy}
    (h : s.Keeps t)
    (e : (State.mk t.pending now free sent pins chip link fns queues qmgr engine rack crucible vault trims plan routing hammer bellows worlds zwm
      tamper life power cards store legacy).kept = t.kept) :
    s.Keeps (State.mk t.pending now free sent pins chip link fns queues qmgr engine rack crucible vault trims plan routing hammer bellows worlds zwm
      tamper life power cards store legacy) := h.same e

protected theorem ite {p : Prop} {_ : Decidable p} (ht : s.Keeps t) (hu : s.Keeps u) : s.Keeps (if p then t else u) := by
  split
  · exact ht
  · exact hu

/-- A fold goes on through its steps. -/
theorem foldl {α : Type} {f : State → α → State} {l : List α} (h : s.Keeps t) (hf : ∀ u x, s.Keeps u → s.Keeps (f u x)) :
    s.Keeps (l.foldl f t) := by
  induction l generalizing t with
  | nil => exact h
  | cons x l ih => exact ih (hf _ x h)

/-- A change of the Rack's slots that keeps their canonical form. -/
theorem newSlots (h : s.Keeps t) (e : u.kept = { t.kept with slots := u.rack.slots })
    (hs : twf {} t.rack.slots = true → twf {} u.rack.slots = true) : s.Keeps u := by
  refine h.trans ?_
  unfold State.Keeps
  rw [e]
  exact ⟨rfl, hs, id, id, fun _ => id, fun _ => id, fun _ => id⟩

/-- A change of the event queue that keeps its bound. -/
theorem newQueue (h : s.Keeps t) (e : u.kept = { t.kept with queue := u.store.queue })
    (hq : t.store.queue.length ≤ 256 → u.store.queue.length ≤ 256) : s.Keeps u := by
  refine h.trans ?_
  unfold State.Keeps
  rw [e]
  exact ⟨rfl, id, hq, id, fun _ => id, fun _ => id, fun _ => id⟩

/-- A change of the battery-backed buffer that keeps its bound. -/
theorem newBatRecs (h : s.Keeps t) (e : u.kept = { t.kept with batRecs := u.crucible.batRecs })
    (hb : t.crucible.batRecs.length ≤ 64 → u.crucible.batRecs.length ≤ 64) : s.Keeps u := by
  refine h.trans ?_
  unfold State.Keeps
  rw [e]
  exact ⟨rfl, id, id, hb, fun _ => id, fun _ => id, fun _ => id⟩

end State.Keeps

/-- A command keeps what `s` had: so does the state in which it ends. -/
def Out.Keeps (s : State) (o : Out) : Prop := ∀ t, o = .next t → s.Keeps t

theorem Out.Keeps.next {s t : State} (h : s.Keeps t) : Out.Keeps s (.next t) := by
  intro u e
  cases e
  exact h

end Sys2Proof.Machine
end

section
/-!
SUPPORT for O57, O58, O59 and O60: each shared operation and each command keeps the invariants of `State.Keeps`, in the order of the
model's definitions.
-/
namespace Sys2Proof.Machine

variable {s t : State}

theorem State.Keeps.chipResetTo {cause : Nat} (h : s.Keeps t) : s.Keeps (State.chipResetTo cause t) :=
  h.trans ⟨rfl, fun _ => rfl, fun _ => Nat.zero_le _, id, fun _ => id, fun _ => id, fun _ => id⟩

theorem State.Keeps.countWrites {partition n : Nat} (h : s.Keeps t) : s.Keeps (State.countWrites partition n t) :=
  h.same rfl

theorem State.Keeps.commitSeconds (h : s.Keeps t) : s.Keeps (State.commitSeconds t) :=
  h.same rfl

theorem replaceNewest_length {r : Record} {q p : List Record} (h : replaceNewest r q = some p) : p.length = q.length := by
  have hs : q.reverse = (q.reverse.span Record.ofAggregator).1 ++ (q.reverse.span Record.ofAggregator).2 := by
    simp [List.span_eq_takeWhile_dropWhile]
  have hl := congrArg List.length hs
  unfold replaceNewest at h
  split at h
  · cases h
  · next tail x rest e =>
    cases h
    rw [e] at hl
    simp only [List.length_append, List.length_reverse, List.length_cons, List.length_nil] at hl ⊢
    omega

/-- R516: the event queue takes a record while it has room, and else keeps its length. -/
theorem State.Keeps.appendRecord {r : Record} (h : s.Keeps t) : s.Keeps (State.appendRecord r t) := by
  unfold State.appendRecord
  split
  · next hroom => exact h.newQueue rfl fun _ => (List.length_append ..).trans_le hroom
  · split
    · split
      · next e => exact h.newQueue rfl fun hq => (replaceNewest_length e).trans_le hq
      · exact h.same rfl
    · exact h.same rfl

theorem State.Keeps.log {code source : Nat} {param : Bytes} (h : s.Keeps t) : s.Keeps (State.log code source param t) :=
  h.appendRecord

theorem State.Keeps.reportDropped (h : s.Keeps t) : s.Keeps (State.reportDropped t) := by
  unfold State.reportDropped
  dsimp only
  split
  · exact h
  · exact .log (h.same rfl)

theorem State.Keeps.commitRecord {r : Record} (h : s.Keeps t) : s.Keeps (State.commitRecord r t) := by
  unfold State.commitRecord
  dsimp only
  split
  · exact h.same rfl
  · exact h.same rfl

theorem State.Keeps.commitNext (h : s.Keeps t) : s.Keeps (State.commitNext t) := by
  unfold State.commitNext
  split
  · exact h
  · next e => exact .commitRecord (h.newQueue rfl fun hq => (Nat.le_succ _).trans (e ▸ hq :))

theorem State.Keeps.flushRecords {n : Nat} (h : s.Keeps t) : s.Keeps (State.flushRecords n t) := by
  induction n generalizing t with
  | zero => exact h
  | succ n ih =>
    unfold State.flushRecords
    split
    · exact h.reportDropped
    · exact ih h.commitNext

theorem State.Keeps.flushStore (h : s.Keeps t) : s.Keeps (State.flushStore t) :=
  h.flushRecords.commitSeconds

theorem State.Keeps.modPort {n : Nat} {g : Port → Port} (h : s.Keeps t) : s.Keeps (State.modPort n g t) :=
  h.same rfl

theorem State.Keeps.endSession (h : s.Keeps t) : s.Keeps (State.endSession t) := by
  unfold State.endSession
  dsimp only
  split
  · exact h.same rfl
  · exact h

theorem State.Keeps.loseCeremony (h : s.Keeps t) : s.Keeps (State.loseCeremony t) := by
  unfold State.loseCeremony
  dsimp only
  split
  · exact .endSession (h.same rfl)
  · exact h

theorem State.Keeps.chipReset {cause : Nat} (h : s.Keeps t) : s.Keeps (State.chipReset cause t) := by
  unfold State.chipReset
  dsimp only
  split
  · exact h.same rfl
  · exact h.loseCeremony.flushStore.chipResetTo

theorem execPerstNAssert_keeps (h : s.Keeps t) : Out.Keeps s (execPerstNAssert t) :=
  .next (.chipReset (h.same rfl))

theorem State.Keeps.powerOnReset (h : s.Keeps t) : s.Keeps (State.powerOnReset t) :=
  .chipResetTo (.upd (h.loseCeremony) rfl)

theorem execPowerOn_keeps (h : s.Keeps t) : Out.Keeps s (execPowerOn t) := by
  unfold execPowerOn
  dsimp only
  refine .next ?_
  split
  · exact h
  · exact .powerOnReset (h.same rfl)

theorem State.Keeps.spend {n : Nat} (h : s.Keeps t) : s.Keeps (State.spend n t) :=
  h.same rfl

theorem State.Keeps.cutRecord (h : s.Keeps t) : s.Keeps (State.cutRecord t) := by
  unfold State.cutRecord
  dsimp only
  split
  · exact h
  · split
    · exact h.same rfl
    · split
      · exact h.same rfl
      · split
        · exact h.same rfl
        · exact h.same rfl

theorem State.Keeps.loseBbram (h : s.Keeps t) : s.Keeps (State.loseBbram t) :=
  h.newBatRecs rfl fun _ => Nat.zero_le _

theorem execSupplyLoss_keeps (h : s.Keeps t) : Out.Keeps s (execSupplyLoss t) := by
  unfold execSupplyLoss
  dsimp only
  refine .next ?_
  split
  · exact h
  · split
    · exact .upd (.chipResetTo (.upd (h.loseCeremony.cutRecord) rfl)) rfl
    · exact .loseBbram (.upd (.chipResetTo (.upd (h.loseCeremony.cutRecord) rfl)) rfl)

theorem State.Keeps.countCorrected {bench : Bool} {w : MWord} (h : s.Keeps t) : s.Keeps (State.countCorrected bench w t) := by
  unfold State.countCorrected
  dsimp only
  split
  · exact h.same rfl
  · exact h

theorem State.Keeps.placeSlot {n : Nat} {attr : BitVec 128} {material : BitVec 576} (h : s.Keeps t) :
    s.Keeps (State.placeSlot n attr material t) :=
  h.newSlots rfl fun hs => twf_tset _ _ _ hs

theorem State.Keeps.editSlot {n : Nat} {attr : BitVec 128} {material : BitVec 576} (h : s.Keeps t) :
    s.Keeps (State.editSlot n attr material t) := by
  unfold State.editSlot
  dsimp only
  split
  · exact .placeSlot (h.same rfl)
  · exact h.newSlots rfl fun hs => twf_tset _ _ _ hs

theorem State.Keeps.rackWrite {off n : Nat} {v : BitVec 64} (h : s.Keeps t) : s.Keeps (State.rackWrite off n v t) := by
  unfold State.rackWrite
  dsimp only
  split
  · exact h.same rfl
  · exact h.editSlot
  · exact h.editSlot
  · exact h

theorem State.Keeps.claim {d : Nat} (h : s.Keeps t) : s.Keeps (State.claim d t) := by
  unfold State.claim
  dsimp only
  split
  · exact h.same rfl
  · exact h.same rfl
  · exact h.same rfl

theorem State.Keeps.unclaim {d idleUs : Nat} (h : s.Keeps t) : s.Keeps (State.unclaim d idleUs t) := by
  unfold State.unclaim
  dsimp only
  split
  · exact h.same rfl
  · exact h.same rfl

theorem State.Keeps.writeClaims {v : Nat} (h : s.Keeps t) : s.Keeps (State.writeClaims v t) :=
  h.foldl fun _ _ h₁ => .ite h₁ (.ite h₁.claim h₁.unclaim)

theorem State.Keeps.slotWrite {k off n : Nat} {v : BitVec 64} (h : s.Keeps t) : s.Keeps (State.slotWrite k off n v t) := by
  unfold State.slotWrite
  exact .ite h.rackWrite <|
    .ite (h.same rfl) <|
    .ite (h.same rfl) <|
    .ite (h.same rfl) <|
    .ite h.writeClaims <|
    h

theorem State.Keeps.modMpu {bench : Bool} {g : Mpu → Mpu} (h : s.Keeps t) : s.Keeps (State.modMpu bench g t) := by
  unfold State.modMpu
  dsimp only
  split
  · exact h.same rfl
  · exact h.same rfl

theorem State.Keeps.heldEdit {bench : Bool} {g : Mpu → Mpu} (h : s.Keeps t) : s.Keeps (State.heldEdit bench g t) :=
  h.modMpu

theorem State.Keeps.mpuEdit {bench : Bool} {off : Nat} {v : BitVec 32} (h : s.Keeps t) : s.Keeps (State.mpuEdit bench off v t) := by
  unfold State.mpuEdit
  exact .ite h.modMpu <|
    .ite h.heldEdit <|
    .ite h.heldEdit <|
    .ite h.modMpu <|
    .ite h.modMpu <|
    .ite h.modMpu <|
    .ite h.heldEdit <|
    h

theorem State.Keeps.putWord {a : Area} {loc : Nat} {w : MWord} (h : s.Keeps t) : s.Keeps (State.putWord a loc w t) := by
  unfold State.putWord
  dsimp only
  split
  · exact h
  · exact h
  · exact h.same rfl
  · exact h.same rfl
  · exact h.same rfl

theorem State.Keeps.logOpen {area source what : Nat} {known : Bytes} (h : s.Keeps t) : s.Keeps (State.logOpen area source what known t) :=
  h.appendRecord

/-- What a computation that may stop answers satisfies `P`. -/
def Yields {ε α : Type} (P : α → Prop) (r : Except ε α) : Prop := ∀ x, r = .ok x → P x

namespace Yields

variable {ε α β : Type} {P : α → Prop} {Q : β → Prop} {r : Except ε α} {e : ε}

theorem ok {x : α} (h : P x) : Yields P (.ok x : Except ε α) := by
  intro y hy
  cases hy
  exact h

theorem error : Yields P (.error e : Except ε α) := fun _ h => nomatch h

theorem any : Yields (fun _ : α => True) r := fun _ _ => trivial

theorem bind {f : α → Except ε β} (h : Yields P r) (hf : ∀ x, P x → Yields Q (f x)) : Yields Q (r >>= f) := by
  cases r with
  | error => exact .error
  | ok x => exact hf x (h x rfl)

theorem ite {p : Prop} {_ : Decidable p} {a b : Except ε α} (ha : Yields P a) (hb : Yields P b) : Yields P (if p then a else b) := by
  split
  · exact ha
  · exact hb

theorem ofOperand {k : Nat} {r : Except Stop α} (h : Yields P r) : Yields P (Machine.ofOperand k r) := by
  cases r with
  | error => exact .error
  | ok x => exact .ok (h x rfl)

end Yields

theorem State.Keeps.slotRead {k off n : Nat} (h : s.Keeps t) : s.Keeps (State.slotRead k off n t).2 := by
  unfold State.slotRead
  split
  · exact h
  · exact h.same rfl

theorem State.Keeps.dataRead {bench : Bool} {who : Option Nat} {a : BitVec 64} {n : Nat} (h : s.Keeps t) :
    Yields (fun r => s.Keeps r.2) (t.dataRead bench who a n) := by
  unfold State.dataRead
  split
  · exact .error
  · exact .ite (.ok h) (.ok h.slotRead)
  · exact .ite .error (.ok h.countCorrected)

theorem State.Keeps.dataWrite {bench : Bool} {who : Option Nat} {a : BitVec 64} {n : Nat} {v : TWord} (h : s.Keeps t) :
    Yields (fun u => s.Keeps u) (t.dataWrite bench who a n v) := by
  unfold State.dataWrite
  refine .ite .error ?_
  split
  · exact .error
  · exact .ite (.ok h.slotWrite) (.ok (.ite h.mpuEdit.mpuEdit h.mpuEdit))
  · dsimp only
    split
    · exact .error
    · exact .ite .error (.ok (.putWord (.ite h h.countCorrected)))

theorem State.Keeps.copyUnits {bench : Bool} {n k : Nat} {src dst : BitVec 64} (h : s.Keeps t) :
    Yields (fun u => s.Keeps u) (t.copyUnits bench n k src dst) := by
  induction k generalizing src dst t with
  | zero => exact .ok h
  | succ k ih =>
    unfold State.copyUnits
    split
    · exact .error
    · next e =>
      have h₁ := h.dataRead _ e
      split
      · exact .error
      · next e₂ => exact ih (h₁.dataWrite _ e₂)

theorem State.Keeps.copyMove {p : CopyPiece} (h : s.Keeps t) : Yields (fun u => s.Keeps u) (t.copyMove p) := by
  unfold State.copyMove
  split
  · exact .error
  · exact .error
  · exact .ite h.copyUnits h.copyUnits

theorem State.Keeps.copyStep {p : CopyPiece} (h : s.Keeps t) : s.Keeps (State.copyStep p t) := by
  unfold State.copyStep
  split
  · next e => exact h.copyMove _ e
  · exact .ite (.logOpen (h.same rfl)) (h.same rfl)
  · exact h

theorem State.Keeps.emit {x : Sent} (h : s.Keeps t) : s.Keeps (State.emit x t) :=
  h.same rfl

theorem State.Keeps.joinGroup {cls : Nat} (h : s.Keeps t) : s.Keeps (State.joinGroup cls t) := by
  unfold State.joinGroup
  dsimp only
  split
  · exact h.same rfl
  · split
    · exact h
    · exact h.same rfl

theorem State.Keeps.legacyRise (h : s.Keeps t) : s.Keeps (State.legacyRise t) := by
  unfold State.legacyRise
  split
  · exact h.same rfl
  · exact h

theorem State.Keeps.driveInta {before : Bool} (h : s.Keeps t) : s.Keeps (State.driveInta before t) := by
  unfold State.driveInta
  split
  · exact h
  · exact h.same rfl

theorem State.Keeps.legacyEvent (h : s.Keeps t) : s.Keeps (State.legacyEvent t) := by
  unfold State.legacyEvent
  dsimp only
  split
  · exact h
  · exact .legacyRise (.driveInta (h.same rfl))

theorem State.Keeps.legacyVault (h : s.Keeps t) : s.Keeps (State.legacyVault t) := by
  unfold State.legacyVault
  dsimp only
  split
  · exact h
  · exact .legacyRise (.driveInta (h.same rfl))

theorem State.Keeps.modFn {f : Nat} {g : Fn → Fn} (h : s.Keeps t) : s.Keeps (State.modFn f g t) :=
  h.same rfl

theorem State.Keeps.signal {f v : Nat} (h : s.Keeps t) : s.Keeps (State.signal f v t) := by
  unfold State.signal
  split
  · split
    · exact h.legacyEvent
    · split
      · exact h.legacyVault
      · exact h
  · split
    · exact h.same rfl
    · exact h.same rfl

theorem State.Keeps.deviceEvent (h : s.Keeps t) : s.Keeps (State.deviceEvent t) :=
  h.signal

theorem State.Keeps.setChip {c : ChipState} (h : s.Keeps t) : s.Keeps (State.setChip c t) := by
  unfold State.setChip
  dsimp only
  split
  · exact h
  · exact .deviceEvent (h.same rfl)

theorem State.Keeps.latchClass {c : Nat} (h : s.Keeps t) : s.Keeps (State.latchClass c t) :=
  h.same rfl

theorem State.Keeps.quenchErase (h : s.Keeps t) : s.Keeps (State.quenchErase t) :=
  h.newSlots rfl fun _ => rfl

theorem State.Keeps.startQuench (h : s.Keeps t) : s.Keeps (State.startQuench t) :=
  .latchClass (.quenchErase (.ite (h.same rfl) (.ite (h.same rfl) (.setChip (h.same rfl)))))

theorem State.Keeps.logResponse {cls : Nat} {g : Group} {micros : Nat} (h : s.Keeps t) : s.Keeps (State.logResponse cls g micros t) :=
  h.log

theorem State.Keeps.serviceRegs {status detail len : Nat} (h : s.Keeps t) : s.Keeps (State.serviceRegs status detail len t) :=
  h.same rfl

theorem State.Keeps.mbxRelease {rsp : Bytes} (h : s.Keeps t) : s.Keeps (State.mbxRelease rsp t) := by
  unfold State.mbxRelease
  dsimp only
  split
  · exact h.same rfl
  · exact .signal (h.same rfl)

theorem State.Keeps.mbxAnswer {status detail : Nat} {body : Bytes} (h : s.Keeps t) : s.Keeps (State.mbxAnswer status detail body t) :=
  .mbxRelease (.ite (h.same rfl) h)

theorem State.Keeps.mbxConflict (h : s.Keeps t) : s.Keeps (State.mbxConflict t) :=
  h.mbxAnswer

theorem State.Keeps.endCeremony {reason : Nat} (h : s.Keeps t) : s.Keeps (State.endCeremony reason t) := by
  unfold State.endCeremony
  dsimp only
  split
  · exact h
  · split
    · split
      · split
        · exact .mbxConflict (.endSession (.log (h.same rfl)))
        · exact .endSession (.log (h.same rfl))
      · exact .log (h.same rfl)
    · exact .log (h.same rfl)

theorem State.Keeps.legacyRelease {rsp : Bytes} (h : s.Keeps t) : s.Keeps (State.legacyRelease rsp t) := by
  unfold State.legacyRelease
  dsimp only
  split
  · exact h.same rfl
  · split
    · exact .driveInta (h.same rfl)
    · exact .legacyRise (.driveInta (h.same rfl))

theorem State.Keeps.legacyNow {status : String} (h : s.Keeps t) : s.Keeps (State.legacyNow status t) :=
  .legacyRelease (h.same rfl)

theorem State.Keeps.legacyAbort {status : String} (h : s.Keeps t) : s.Keeps (State.legacyAbort status t) := by
  unfold State.legacyAbort
  split
  · exact h.legacyNow
  · exact h

theorem State.Keeps.releaseOp {id : Nat} (h : s.Keeps t) : s.Keeps (State.releaseOp id t) :=
  h.same rfl

theorem State.Keeps.modOp {id : Nat} {g : Op → Op} (h : s.Keeps t) : s.Keeps (State.modOp id g t) :=
  h.same rfl

theorem State.Keeps.modTenant {t' : Nat} {g : Tenant → Tenant} (h : s.Keeps t) : s.Keeps (State.modTenant t' g t) :=
  h.same rfl

theorem State.Keeps.unreserve {id : Nat} (h : s.Keeps t) : s.Keeps (State.unreserve id t) := by
  unfold State.unreserve
  split
  · split
    · exact h.same rfl
    · exact h
  · exact h

theorem State.Keeps.finish {id status detail outLen : Nat} {result : Bytes} (h : s.Keeps t) :
    s.Keeps (State.finish id status detail outLen result t) := by
  unfold State.finish
  dsimp only
  split
  · exact h.unreserve.modOp.releaseOp.serviceRegs
  · exact h.unreserve.modOp.releaseOp

theorem State.Keeps.fail {id status detail : Nat} (h : s.Keeps t) : s.Keeps (State.fail id status detail t) :=
  h.finish

theorem State.Keeps.stopOp {id status detail : Nat} (h : s.Keeps t) : s.Keeps (State.stopOp id status detail t) := by
  unfold State.stopOp
  split
  · split
    · exact .fail (h.same rfl)
    · exact h.fail
  · exact h.fail

theorem State.Keeps.failAll {p : Op → Bool} {status detail : Nat} (h : s.Keeps t) : s.Keeps (State.failAll p status detail t) :=
  .foldl h (fun _ _ h₁ => h₁.stopOp)

theorem State.Keeps.takeLock (h : s.Keeps t) : s.Keeps (State.takeLock t) := by
  unfold State.takeLock
  dsimp only
  split
  · exact h.same rfl
  · split
    · exact .legacyAbort (.failAll (by
          split
          · split
            · exact .upd (.setChip (h.same rfl)) rfl
            · exact .endCeremony (.upd (.setChip (h.same rfl)) rfl)
          · exact .upd (.setChip (h.same rfl)) rfl))
    · exact h.same rfl

theorem State.Keeps.pme (h : s.Keeps t) : s.Keeps (State.pme t) := by
  unfold State.pme
  dsimp only
  split
  · exact h.same rfl
  · split
    · exact h.same rfl
    · split
      · exact h.same rfl
      · exact h.same rfl

theorem State.Keeps.respond {cls : Nat} (h : s.Keeps t) : s.Keeps (State.respond cls t) := by
  unfold State.respond
  dsimp only
  refine .ite h <| .ite (.startQuench ?_) <| .ite (.ite h (.pme (.ite ?_ (.deviceEvent ?_)))) <|
    .ite h (.pme (.deviceEvent (h.same rfl)))
  · split
    · exact h.same rfl
    · exact h
  all_goals
    split
    · exact .logResponse (.takeLock (h.same rfl))
    · exact h.takeLock

theorem State.Keeps.alarmAs {n cls detail : Nat} (h : s.Keeps t) : s.Keeps (State.alarmAs n cls detail t) := by
  unfold State.alarmAs
  dsimp only
  split
  · exact h
  · exact .respond (.log (.joinGroup (h.same rfl)))

theorem State.Keeps.alarm {n detail : Nat} (h : s.Keeps t) : s.Keeps (State.alarm n detail t) :=
  h.alarmAs

theorem State.Keeps.debugRefuse {r : DebugReq} {probe : Bool} (h : s.Keeps t) : s.Keeps (State.debugRefuse r probe t) := by
  unfold State.debugRefuse
  have h₁ : s.Keeps (if r.write.isNone then
      State.emit (.debug true 0) { t with zwm := { t.zwm with dbgErr := true } } else { t with zwm := { t.zwm with dbgErr := true } }) :=
    .ite (h.same rfl) (h.same rfl)
  exact .ite h₁ (.ite (.alarmAs (.upd h₁ rfl)) (.alarm (.upd h₁ rfl)))

theorem State.Keeps.debugPass {r : DebugReq} {bench : Bool} {area : Area} (h : s.Keeps t) : s.Keeps (State.debugPass r bench area t) := by
  unfold State.debugPass
  dsimp only
  split
  · exact .ite (h.same rfl) (.ite h.debugRefuse (.upd h.slotRead rfl))
  · exact .ite h.slotWrite (.ite h.mpuEdit.mpuEdit h.mpuEdit)
  · exact h.same rfl
  · exact h.putWord

theorem State.Keeps.debugStep {r : DebugReq} (h : s.Keeps t) : s.Keeps (State.debugStep r t) := by
  unfold State.debugStep
  dsimp only
  split
  · exact h.debugRefuse
  · split
    · exact h.debugRefuse
    · exact h.debugPass

theorem State.Keeps.unitStep {a : UnitReq} (h : s.Keeps t) : s.Keeps (State.unitStep t a) := by
  unfold State.unitStep
  split
  · exact h.copyStep
  · exact h.debugStep

theorem State.Keeps.resetUnit {bench : Bool} (h : s.Keeps t) : s.Keeps (State.resetUnit bench t) :=
  .foldl h.modMpu (fun _ _ h₁ => h₁.unitStep)

theorem State.Keeps.clearLatch (h : s.Keeps t) : s.Keeps (State.clearLatch t) :=
  h.same rfl

theorem State.Keeps.forgetLmk (h : s.Keeps t) : s.Keeps (State.forgetLmk t) :=
  h.same rfl

/-- What a wipe of the user data leaves, once its words are counted (R450). -/
def State.userWiped (s : State) : State :=
  State.clearLatch { s.forgetLmk with
    crucible := { s.crucible with drk := 0, maskSeed := 0, drkCheck := 0 }
    vault := { s.vault with sets := [], btk := none, regionKey := 0, kept := [], tenants := [], quotaDirty := [], areas := []
                            areaKeys := []
                            lcTarget := none }
    tamper := { s.tamper with keptClasses := [] }
    store := { s.store with copyA := { valid := true }, copyB := { valid := true }, activeB := false, pendMark := none
                            busy := false, snap := [] } }

theorem State.userWipe_eq : t.userWipe = (wipeWords.foldl (fun s w => s.countWrites w.1 w.2) t).userWiped := rfl

theorem State.Keeps.userWiped (h : s.Keeps t) : s.Keeps t.userWiped := h.same rfl

theorem State.Keeps.userWipe (h : s.Keeps t) : s.Keeps (State.userWipe t) :=
  State.userWipe_eq ▸ State.Keeps.userWiped (.foldl h fun _ _ h₁ => h₁.countWrites)

theorem State.Keeps.fullWipe (h : s.Keeps t) : s.Keeps (State.fullWipe t) :=
  h.userWipe.trans ⟨rfl, fun _ => rfl, fun _ => Nat.zero_le _, fun _ => Nat.zero_le _, fun _ => id, fun _ => id, fun _ => id⟩

theorem State.Keeps.wipeFor {target : Nat} (h : s.Keeps t) : s.Keeps (State.wipeFor target t) := by
  unfold State.wipeFor
  split
  · exact h.fullWipe
  · split
    · exact h.userWipe
    · exact h

theorem State.Keeps.markedWipe {target : Nat} (h : s.Keeps t) : s.Keeps (State.markedWipe target t) :=
  .countWrites (.upd (.wipeFor (h.same rfl)) rfl)

theorem State.Keeps.startWipe (h : s.Keeps t) : s.Keeps (State.startWipe t) := by
  unfold State.startWipe
  have h₁ : s.Keeps (match t.trims.wipePending with
      | some k => t.markedWipe k
      | none => t) := by
    split
    · exact h.markedWipe
    · exact h
  exact .ite h₁.fullWipe h₁

theorem State.Keeps.toRecovery (h : s.Keeps t) : s.Keeps (State.toRecovery t) :=
  h.same rfl

theorem State.Keeps.logImage {k slot step : Nat} (h : s.Keeps t) : s.Keeps (State.logImage k slot step t) :=
  h.log

theorem State.Keeps.bootKind {k : Nat} (h : s.Keeps t) : s.Keeps (State.bootKind k t) := by
  unfold State.bootKind
  dsimp only
  split
  · exact h.same rfl
  · exact by
        split
        · exact .upd (h.logImage) rfl
        · exact .upd (h.logImage.logImage) rfl

theorem State.Keeps.startImages (h : s.Keeps t) : s.Keeps (State.startImages t) := by
  have h₁ : s.Keeps { t with life := { t.life with unsignedUsed := t.life.unsignedArm, unsignedArm := false } } := h.same rfl
  have h₂ := ((h₁.bootKind (k := 0)).bootKind (k := 1)).bootKind (k := 2)
  unfold State.startImages
  dsimp only
  generalize State.bootKind 2 _ = u at h₂ ⊢
  split
  · exact h₂.same rfl
  · exact h₂

theorem State.Keeps.cellFails {c : Nat} {proportion : Bool} (h : s.Keeps t) : s.Keeps (State.cellFails c proportion t) :=
  .log (.ite (h.same rfl) (h.same rfl))

theorem State.Keeps.failCells {l : List Nat} (h : s.Keeps t) : s.Keeps (State.failCells l t) :=
  .foldl h (fun _ _ h₁ => h₁.cellFails.spend)

theorem State.Keeps.wayCells (h : s.Keeps t) : s.Keeps (State.wayCells t) :=
  .foldl h (fun _ _ h₁ => h₁.same rfl)

theorem State.Keeps.setBellows {b : BState} (h : s.Keeps t) : s.Keeps (State.setBellows b t) := by
  unfold State.setBellows
  dsimp only
  split
  · exact h
  · exact .log (h.same rfl)

theorem State.Keeps.returnCell {c : Nat} (h : s.Keeps t) : s.Keeps (State.returnCell c t) :=
  .log (h.same rfl)

theorem State.Keeps.startCells {ok again : BitVec 32} (h : s.Keeps t) : s.Keeps (State.startCells ok again t) := by
  unfold State.startCells
  dsimp only
  split
  · exact h.wayCells.failCells
  · exact .foldl h.wayCells.failCells.setBellows.failCells (fun _ _ h₁ => h₁.returnCell)

theorem State.Keeps.modBlock {b : Nat} {g : Block → Block} (h : s.Keeps t) : s.Keeps (State.modBlock b g t) :=
  h.same rfl

theorem State.Keeps.leaveService {b : Nat} (h : s.Keeps t) : s.Keeps (State.leaveService b t) := by
  unfold State.leaveService
  dsimp only
  split
  · exact .upd (.deviceEvent (.log (h.same rfl))) rfl
  · exact .deviceEvent (.log (h.same rfl))

theorem State.Keeps.raiseLevel {b : Nat} (h : s.Keeps t) : s.Keeps (State.raiseLevel b t) := by
  unfold State.raiseLevel
  dsimp only
  split
  · exact .leaveService (h.same rfl)
  · exact h.same rfl

theorem State.Keeps.report {b code : Nat} (h : s.Keeps t) : s.Keeps (State.report b code t) :=
  h.log

theorem State.Keeps.deliver {n : Nat} {k : Bytes → State → State} (h : s.Keeps t) (hk : ∀ x0 u, s.Keeps u → s.Keeps (k x0 u)) :
    s.Keeps (State.deliver n k t) :=
  hk _ _ (h.same rfl)

theorem State.Keeps.startBellows {ok again : BitVec 32} {kat : Bool} (h : s.Keeps t) : s.Keeps (State.startBellows ok again kat t) := by
  unfold State.startBellows
  have h₁ : s.Keeps (if (t.startCells ok again).inService < 8 ∨ kat then t.startCells ok again
      else ((t.startCells ok again).report 0x13 3).raiseLevel 0x13) := .ite h.startCells h.startCells.report.raiseLevel
  exact .ite (.setBellows (h₁.deliver fun _ _ h₂ => h₂.same rfl)) h₁.setBellows

theorem State.Keeps.predictBattery (h : s.Keeps t) : s.Keeps (State.predictBattery t) := by
  unfold State.predictBattery
  dsimp only
  split
  · exact h
  · split
    · exact .log (h.same rfl)
    · exact h.same rfl

theorem State.Keeps.mirrorSetting {id v : Nat} (h : s.Keeps t) : s.Keeps (State.mirrorSetting id v t) := by
  unfold State.mirrorSetting
  extract_lets p ds
  clear_value ds
  exact .ite (h.same rfl) <|
    .ite (h.same rfl) <|
    .ite (h.same rfl) <|
    .ite (h.same rfl) <|
    .ite (h.same rfl) <|
    .ite (h.same rfl) <|
    .ite h.predictBattery h

theorem State.Keeps.mirrorAll (h : s.Keeps t) : s.Keeps (State.mirrorAll t) :=
  .foldl h (fun _ _ h₁ => h₁.mirrorSetting)

theorem State.Keeps.loadSettings (h : s.Keeps t) : s.Keeps (State.loadSettings t) := by
  unfold State.loadSettings
  extract_lets _ u
  have hu : s.Keeps u := by
    unfold u
    split
    · exact .log (.countWrites (h.same rfl))
    · exact h
  clear_value u
  split
  · exact .log (hu.same rfl)
  · exact .log (hu.same rfl)

theorem State.Keeps.setWindow {hearth : Bool} {w : Window} (h : s.Keeps t) : s.Keeps (State.setWindow hearth w t) := by
  unfold State.setWindow
  dsimp only
  split
  · exact h.same rfl
  · exact h.same rfl

theorem State.Keeps.cursorTo {hearth : Bool} {q : Nat} (h : s.Keeps t) : s.Keeps (State.cursorTo hearth q t) :=
  h.setWindow

theorem State.Keeps.openRecorder (h : s.Keeps t) : s.Keeps (State.openRecorder t) :=
  .cursorTo (.cursorTo (.ite (.countWrites (.ite (h.same rfl) (h.same rfl))) (.ite (h.same rfl) (h.same rfl))))

theorem State.Keeps.copyBattery (h : s.Keeps t) : s.Keeps (State.copyBattery t) :=
  (h.foldl fun _ _ h₁ => h₁.log).newBatRecs rfl fun _ => Nat.zero_le _

theorem State.Keeps.startStore (h : s.Keeps t) : s.Keeps (State.startStore t) :=
  .copyBattery (.upd (h.openRecorder.loadSettings.mirrorAll) rfl)

theorem State.Keeps.fixEnd (h : s.Keeps t) : s.Keeps (State.fixEnd t) :=
  h.same rfl

theorem State.Keeps.logRefusal {what off : Nat} {f : Refused} (h : s.Keeps t) : s.Keeps (State.logRefusal what off f t) :=
  h.logOpen

theorem State.Keeps.startRecipe {r : Bytes} (h : s.Keeps t) : s.Keeps (State.startRecipe r t) := by
  unfold State.startRecipe
  split
  · split
    · exact h.same rfl
    · exact h.logRefusal
  · exact h.logRefusal

theorem State.Keeps.startBundle (h : s.Keeps t) : s.Keeps (State.startBundle t) :=
  .foldl (h.same rfl) (fun _ _ h₁ => h₁.startRecipe)

theorem State.Keeps.startBench (h : s.Keeps t) : s.Keeps (State.startBench t) :=
  h.same rfl

theorem State.Keeps.useChosen (h : s.Keeps t) : s.Keeps (State.useChosen t) :=
  .log (h.same rfl)

theorem State.Keeps.raiseLine {bench : Bool} {line : Nat} (h : s.Keeps t) : s.Keeps (State.raiseLine bench line t) :=
  .upd (.ite (h.same rfl) (h.same rfl)) rfl

theorem State.Keeps.modRing {bench : Bool} {g : Ring → Ring} (h : s.Keeps t) : s.Keeps (State.modRing bench g t) := by
  unfold State.modRing
  dsimp only
  split
  · exact h.same rfl
  · exact h.same rfl

theorem State.Keeps.ringTail {bench : Bool} {k : Nat} (h : s.Keeps t) : s.Keeps (State.ringTail bench k t) := by
  unfold State.ringTail
  dsimp only
  split
  · exact h
  · split
    · exact .upd (h.modRing.raiseLine) rfl
    · exact h.modRing.raiseLine

theorem State.Keeps.storeMsg {loc : Nat} {b : Bytes} (h : s.Keeps t) : s.Keeps (State.storeMsg loc b t) :=
  .foldl h (fun _ _ h₁ => h₁.putWord)

theorem State.Keeps.ringSend {bench : Bool} {msg : Bytes} (h : s.Keeps t) : s.Keeps (State.ringSend bench msg t) := by
  unfold State.ringSend
  dsimp only
  split
  · exact h
  · exact h.storeMsg.ringTail

theorem State.Keeps.ringServed {n : Nat} (h : s.Keeps t) : s.Keeps (State.ringServed n t) :=
  .modRing (.ite (h.same rfl) (h.same rfl))

theorem State.Keeps.answerHello (h : s.Keeps t) : s.Keeps (State.answerHello t) := by
  unfold State.answerHello
  dsimp only
  split
  · exact h
  · exact h.ringServed.ringSend.useChosen

theorem State.Keeps.sendHello (h : s.Keeps t) : s.Keeps (State.sendHello t) := by
  unfold State.sendHello
  dsimp only
  split
  · exact h
  · exact .upd (h.ringSend) rfl

theorem State.Keeps.handshake (h : s.Keeps t) : s.Keeps (State.handshake t) :=
  h.sendHello.answerHello

theorem State.Keeps.writeRail {mv : Nat} (h : s.Keeps t) : s.Keeps (State.writeRail mv t) :=
  h.same rfl

theorem State.Keeps.setTarget {mv : Nat} (h : s.Keeps t) : s.Keeps (State.setTarget mv t) := by
  unfold State.setTarget
  dsimp only
  split
  · exact h
  · exact h.same rfl

theorem State.Keeps.startBoth {mv : Nat} (h : s.Keeps t) : s.Keeps (State.startBoth mv t) := by
  unfold State.startBoth
  extract_lets hif a _ _ _ b c _ u
  have hb : s.Keeps b := h.startBench.same rfl
  have hu : s.Keeps u := hb.handshake.predictBattery.same rfl
  exact .ite hu (.ite hu.writeRail hu.setTarget)

theorem State.Keeps.bootMask {boot : Bytes} (h : s.Keeps t) : s.Keeps (State.bootMask boot t) :=
  h.same rfl

theorem State.Keeps.logLost (h : s.Keeps t) : s.Keeps (State.logLost t) := by
  unfold State.logLost
  dsimp only
  split
  · exact .appendRecord (h.same rfl)
  · exact h

theorem State.Keeps.of_reserveSlots {ten n : Nat} (h : s.Keeps t) (e : t.reserveSlots ten n = some u) : s.Keeps u := by
  unfold State.reserveSlots at e
  dsimp only at e
  split at e
  · cases e
    exact h.same rfl
  · cases e

theorem State.Keeps.of_reserveStore {ten n : Nat} (h : s.Keeps t) (e : t.reserveStore ten n = some u) : s.Keeps u := by
  unfold State.reserveStore at e
  dsimp only at e
  split at e
  · cases e
    exact h.same rfl
  · cases e

theorem State.Keeps.startLegacy (h : s.Keeps t) : s.Keeps (State.startLegacy t) := by
  unfold State.startLegacy
  split
  · exact h
  · split
    · next e => exact .upd (h.of_reserveSlots e).placeSlot rfl
    · exact h

theorem State.Keeps.rebuildTenants (h : s.Keeps t) : s.Keeps (State.rebuildTenants t) := by
  unfold State.rebuildTenants
  dsimp only
  split
  · exact h.same rfl
  · exact h.same rfl

theorem State.Keeps.reseedAll (h : s.Keeps t) : s.Keeps (State.reseedAll t) :=
  .foldl (.foldl h (fun _ _ h₁ => h₁.deliver (fun _ _ h₂ => h₂.same rfl))) (fun _ _ h₁ => h₁.deliver (fun _ _ h₂ => h₂.same rfl))

theorem State.Keeps.startHearth (h : s.Keeps t) : s.Keeps (State.startHearth t) :=
  .logLost (.startLegacy (.rebuildTenants (.reseedAll (.ite (h.same rfl) (h.same rfl)))))

theorem State.Keeps.bootToRecovery (h : s.Keeps t) : s.Keeps (State.bootToRecovery t) :=
  .toRecovery (.ite (h.same rfl) h)

theorem execStartUp_keeps {seen : StartSeen} (h : s.Keeps t) : Out.Keeps s (execStartUp seen t) := by
  unfold execStartUp
  refine .next ?_
  exact .ite h <|
    .ite (h.same rfl) <|
    .ite (.toRecovery (.startWipe (.resetUnit (.resetUnit (h.same rfl))))) <|
    .ite (.startBundle (.startBoth (.startHearth (.startImages (.startBellows (.startStore (.fixEnd (.startWipe (.resetUnit (.resetUnit (h.same rfl))))))))))) <|
    .bootToRecovery (.startImages (.startBellows (.startStore (.fixEnd (.startWipe (.resetUnit (.resetUnit (h.same rfl))))))))

theorem execStartUpEnd_keeps {micros : BitVec 20} (h : s.Keeps t) : Out.Keeps s (execStartUpEnd micros t) := by
  unfold execStartUpEnd
  dsimp only
  refine .next ?_
  split
  · exact h
  · exact .setChip (h.same rfl)

theorem State.Keeps.retrain (h : s.Keeps t) : s.Keeps (State.retrain t) :=
  h.same rfl

theorem State.Keeps.clearInsts {f : Nat} (h : s.Keeps t) : s.Keeps (State.clearInsts f t) :=
  h.same rfl

theorem State.Keeps.clearQueues {f : Nat} (h : s.Keeps t) : s.Keeps (State.clearQueues f t) :=
  h.same rfl

theorem State.Keeps.abortFn {f : Nat} (h : s.Keeps t) : s.Keeps (State.abortFn f t) :=
  .upd (.foldl h (fun _ _ h₁ => h₁.unreserve.releaseOp)) rfl

theorem State.Keeps.flrOne {f : Nat} (h : s.Keeps t) : s.Keeps (State.flrOne f t) :=
  h.abortFn.clearQueues.clearInsts.modFn

theorem State.Keeps.resetSelectors (h : s.Keeps t) : s.Keeps (State.resetSelectors t) :=
  h.same rfl

theorem State.Keeps.flrAll (h : s.Keeps t) : s.Keeps (State.flrAll t) :=
  .upd (.resetSelectors (.foldl h (fun _ _ h₁ => h₁.flrOne))) rfl

theorem execHotReset_keeps (h : s.Keeps t) : Out.Keeps s (execHotReset t) :=
  .next h.flrAll.retrain

theorem State.Keeps.linkDown (h : s.Keeps t) : s.Keeps (State.linkDown t) :=
  .upd (h.flrAll.retrain) rfl

theorem execLinkDown_keeps (h : s.Keeps t) : Out.Keeps s (execLinkDown t) :=
  .next h.linkDown

theorem execLinkUp_keeps {speed width : Fin 5} (h : s.Keeps t) : Out.Keeps s (execLinkUp speed width t) :=
  .next (h.same rfl)

theorem execAspmL1Exit_keeps (h : s.Keeps t) : Out.Keeps s (execAspmL1Exit t) :=
  .next (h.same rfl)

theorem execFlr_keeps {fn : BitVec 8} (h : s.Keeps t) : Out.Keeps s (execFlr fn t) := by
  unfold execFlr
  refine .next ?_
  split
  · exact h.flrAll
  · split
    · exact h.flrOne
    · exact h

theorem execFlrComplete_keeps {fn : BitVec 8} (h : s.Keeps t) : Out.Keeps s (execFlrComplete fn t) :=
  .next (h.same rfl)

theorem execPmStateChange_keeps {d3hot : Bool} (h : s.Keeps t) : Out.Keeps s (execPmStateChange d3hot t) :=
  .next (h.same rfl)

theorem State.Keeps.setVfEnable {on mse : Bool} (h : s.Keeps t) : s.Keeps (State.setVfEnable on mse t) :=
  h.same rfl

theorem State.Keeps.setNumVfs {n : Nat} (h : s.Keeps t) : s.Keeps (State.setNumVfs n t) := by
  unfold State.setNumVfs
  dsimp only
  split
  · exact h
  · exact h.same rfl

theorem execVfEnable_keeps {numVfs : BitVec 16} {mse : Bool} (h : s.Keeps t) : Out.Keeps s (execVfEnable numVfs mse t) := by
  unfold execVfEnable
  refine .next ?_
  split
  · exact h
  · exact h.setNumVfs.setVfEnable

theorem State.Keeps.cfgWriteHead {off : Nat} {v : BitVec 32} (h : s.Keeps t) : s.Keeps (State.cfgWriteHead off v t) := by
  unfold State.cfgWriteHead
  exact .ite (.driveInta (h.same rfl)) <|
    .ite (h.same rfl) <|
    .ite (h.same rfl) <|
    .ite (.ite h (h.same rfl)) <|
    .ite (.ite (h.same rfl) h) <|
    .ite (h.same rfl) <|
    h

theorem State.Keeps.cfgWritePm {v : BitVec 32} (h : s.Keeps t) : s.Keeps (State.cfgWritePm v t) := by
  unfold State.cfgWritePm
  dsimp only
  split
  · exact .upd (.upd (.ite (h.same rfl) (.ite (h.same rfl) h)) rfl) rfl
  · exact .upd (.ite (h.same rfl) (.ite (h.same rfl) h)) rfl

theorem State.Keeps.cfgWriteMsi {off : Nat} {v : BitVec 32} (h : s.Keeps t) : s.Keeps (State.cfgWriteMsi off v t) := by
  unfold State.cfgWriteMsi
  exact .ite h <|
    .ite (.driveInta (h.same rfl)) <|
    .ite (h.same rfl) <|
    .ite (h.same rfl) <|
    .ite (h.same rfl) <|
    h

theorem State.Keeps.devControl {f v : Nat} (h : s.Keeps t) : s.Keeps (State.devControl f v t) := by
  unfold State.devControl
  extract_lets b a _ u
  have ha : s.Keeps a := h.same rfl
  have hu : s.Keeps u := .ite ha (ha.same rfl)
  exact .ite (.ite hu.flrAll hu.flrOne) hu

theorem State.Keeps.sendPending {f : Nat} (h : s.Keeps t) : s.Keeps (State.sendPending f t) :=
  .foldl h (fun _ _ h₁ => .ite (h₁.same rfl) h₁)

theorem State.Keeps.setMsix {f : Nat} {en mask : Bool} (h : s.Keeps t) : s.Keeps (State.setMsix f en mask t) :=
  .sendPending (h.same rfl)

theorem State.Keeps.cfgWriteAer {f off : Nat} {v : BitVec 32} (h : s.Keeps t) : s.Keeps (State.cfgWriteAer f off v t) := by
  unfold State.cfgWriteAer
  exact .ite (h.same rfl) <|
    .ite (h.same rfl) <|
    .ite (h.same rfl) <|
    .ite (h.same rfl) <|
    .ite (h.same rfl) <|
    .ite (h.same rfl) <|
    h

theorem State.Keeps.cfgWriteSriov {off : Nat} {v : BitVec 32} (h : s.Keeps t) : s.Keeps (State.cfgWriteSriov off v t) := by
  unfold State.cfgWriteSriov
  exact .ite h <|
    .ite (h.same rfl) <|
    .ite h.setNumVfs <|
    .ite (.ite h (h.same rfl)) <|
    .ite (h.same rfl) <|
    .ite (h.same rfl) <|
    h

theorem State.Keeps.cfgWritePf {off : Nat} {v : BitVec 32} (h : s.Keeps t) : s.Keeps (State.cfgWritePf off v t) := by
  unfold State.cfgWritePf
  exact .ite h.cfgWriteHead <|
    .ite h.cfgWritePm <|
    .ite h.cfgWriteMsi <|
    .ite h.devControl <|
    .ite (h.same rfl) <|
    .ite (h.same rfl) <|
    .ite (h.same rfl) <|
    .ite (.ite h h.setMsix) <|
    .ite h.cfgWriteAer <|
    .ite (h.same rfl) <|
    .ite (h.same rfl) <|
    h.cfgWriteSriov

theorem State.Keeps.cfgWriteVf {f off : Nat} {v : BitVec 32} (h : s.Keeps t) : s.Keeps (State.cfgWriteVf f off v t) := by
  unfold State.cfgWriteVf
  split
  · exact h.same rfl
  · split
    · exact h.devControl
    · split
      · exact h.setMsix
      · exact h.cfgWriteAer

theorem execConfigRequest_keeps {fn : BitVec 8} {write : Option (BitVec 32)} {dword : BitVec 10} (h : s.Keeps t) :
    Out.Keeps s (execConfigRequest fn write dword t) := by
  unfold execConfigRequest
  dsimp only
  refine .next ?_
  split
  · exact h.same rfl
  · split
    · exact h.same rfl
    · split
      · exact h.same rfl
      · split
        · exact h.cfgWritePf
        · exact h.cfgWriteVf

theorem State.Keeps.logAer {f : Nat} {e : AerErr} (h : s.Keeps t) : s.Keeps (State.logAer f e t) := by
  unfold State.logAer
  dsimp only
  split
  · exact h.same rfl
  · exact h.same rfl

theorem execUnsupportedRequest_keeps {fn : BitVec 8} {write : Bool} (h : s.Keeps t) : Out.Keeps s (execUnsupportedRequest fn write t) := by
  unfold execUnsupportedRequest
  refine .next ?_
  split
  · exact h.logAer
  · exact h.same rfl

theorem execTlpReceiveError_keeps {fn : BitVec 8} {err : AerErr} (h : s.Keeps t) : Out.Keeps s (execTlpReceiveError fn err t) := by
  unfold execTlpReceiveError
  refine .next ?_
  split
  · exact h
  · exact h.logAer

theorem State.Keeps.breakQueue {f q cause : Nat} (h : s.Keeps t) : s.Keeps (State.breakQueue f q cause t) :=
  .log (.signal (h.same rfl))

theorem State.Keeps.alsoFailed {o : Op} {code : Nat} (h : s.Keeps t) : s.Keeps (State.alsoFailed o code t) := by
  unfold State.alsoFailed
  split
  · exact h.same rfl
  · exact h

theorem State.Keeps.readFailed {read : DmaRead} {err : AerErr} (h : s.Keeps t) : s.Keeps (State.readFailed read err t) := by
  unfold State.readFailed
  dsimp only
  split
  · split
    · exact h
    · exact h.logAer.breakQueue
  · split
    · split
      · exact h
      · split
        · exact h.logAer.alsoFailed
        · split
          · exact h.logAer.stopOp
          · exact h.logAer.fail
    · exact h

theorem execDmaCompletionTimeout_keeps {read : DmaRead} (h : s.Keeps t) : Out.Keeps s (execDmaCompletionTimeout read t) :=
  .next h.readFailed

theorem execDmaReadError_keeps {read : DmaRead} {err : ReadError} (h : s.Keeps t) : Out.Keeps s (execDmaReadError read err t) :=
  .next h.readFailed

theorem execVectorUnmask_keeps {fn : BitVec 8} {vector : Option (BitVec 11)} (h : s.Keeps t) :
    Out.Keeps s (execVectorUnmask fn vector t) := by
  unfold execVectorUnmask
  refine .next ?_
  split
  · exact .sendPending (h.same rfl)
  · exact .sendPending (h.same rfl)

theorem State.Keeps.leaveL1 (h : s.Keeps t) : s.Keeps (State.leaveL1 t) := by
  unfold State.leaveL1
  dsimp only
  split
  · exact h
  · exact h.same rfl

theorem State.Keeps.onBit {v : BitVec 32} {i : Nat} {act : State → State} (h : s.Keeps t) (hact : ∀ u, s.Keeps u → s.Keeps (act u)) :
    s.Keeps (State.onBit v i act t) := by
  unfold State.onBit
  split
  · exact hact _ h
  · exact h

theorem State.Keeps.legacyGo (h : s.Keeps t) : s.Keeps (State.legacyGo t) := by
  unfold State.legacyGo
  dsimp only
  split
  · exact h
  · split
    · exact h.same rfl
    · split
      · exact .legacyNow (h.same rfl)
      · exact h.same rfl

theorem State.Keeps.refuseLmk {cause : Nat} (h : s.Keeps t) : s.Keeps (State.refuseLmk cause t) :=
  h.same rfl

theorem State.Keeps.eraseSlot {n : Nat} (h : s.Keeps t) : s.Keeps (State.eraseSlot n t) :=
  h.newSlots rfl fun hs => twf_tset _ _ _ hs

theorem State.Keeps.slotFault {n access : Nat} (h : s.Keeps t) : s.Keeps (State.slotFault n access t) :=
  h.report.raiseLevel.eraseSlot.modTenant.log

theorem State.Keeps.bindLmk {n : Nat} (h : s.Keeps t) : s.Keeps (State.bindLmk n t) := by
  have h₁ : s.Keeps { t with legacy := { t.legacy with bindSlot := n } } := h.same rfl
  unfold State.bindLmk
  refine .ite h ?_
  extract_lets _ u x
  have h₁ : s.Keeps u := h₁
  split
  · exact h₁.slotFault.refuseLmk
  · exact h₁.refuseLmk
  · refine .ite h₁.refuseLmk ?_
    split
    · exact h₁.refuseLmk
    · next w e =>
      have h₂ : s.Keeps w := by
        split at e
        · cases e
          exact h₁
        · exact h₁.of_reserveStore e
      exact h₂.same rfl

theorem State.Keeps.writeLegacy {a : Nat} {v : BitVec 32} (h : s.Keeps t) : s.Keeps (State.writeLegacy a v t) := by
  unfold State.writeLegacy
  exact .ite h <|
    .ite (.onBit (.driveInta (h.same rfl)) (fun _ h₁ => h₁.legacyGo)) <|
    .ite (.driveInta (h.same rfl)) <|
    .ite (h.same rfl) <|
    .ite (.ite h.bindLmk (h.same rfl)) <|
    .ite (h.same rfl) <|
    .ite (h.same rfl) <|
    h

theorem State.Keeps.writeNarrow {n a v : Nat} (h : s.Keeps t) : s.Keeps (State.writeNarrow n a v t) :=
  h.writeLegacy

/-- The state that a command answers keeps what `s` had. -/
theorem Out.Keeps.of_next {o : Out} (h : Out.Keeps s o) (e : o = .next t) : s.Keeps t := h t e

theorem State.Keeps.via {act : State → Out} (h : s.Keeps t) (hact : Out.Keeps s (act t)) : s.Keeps (State.via act t) := by
  unfold State.via
  split
  · next e => exact hact.of_next e
  · exact h

theorem State.Keeps.onBar {act : State → State} (h : s.Keeps t) (hact : ∀ u, s.Keeps u → s.Keeps (act u)) :
    s.Keeps (State.onBar act t) := by
  unfold State.onBar
  split
  · exact hact _ h
  · exact h

theorem execDrbgCountWrite_keeps {value : BitVec 32} (h : s.Keeps t) : Out.Keeps s (execDrbgCountWrite value t) :=
  .next (h.onBar (fun _ h₁ => .ite (h₁.same rfl) (h₁.same rfl)))

theorem execAllowCommit_keeps (h : s.Keeps t) : Out.Keeps s (execAllowCommit t) := by
  unfold execAllowCommit
  dsimp only
  exact .next (h.onBar (fun _ h₁ => by
      split
      · exact h₁.same rfl
      · exact h₁.same rfl))

theorem execSlotQuotaWrite_keeps {value : BitVec 32} (h : s.Keeps t) : Out.Keeps s (execSlotQuotaWrite value t) :=
  .next (h.onBar (fun _ h₁ => .ite (h₁.same rfl) (h₁.same rfl)))

theorem execStoreQuotaWrite_keeps {value : BitVec 32} (h : s.Keeps t) : Out.Keeps s (execStoreQuotaWrite value t) :=
  .next (h.onBar (fun _ h₁ => .ite (h₁.same rfl) (h₁.same rfl)))

theorem State.Keeps.writeHostif {a : Nat} {v : BitVec 32} (h : s.Keeps t) : s.Keeps (State.writeHostif a v t) := by
  unfold State.writeHostif
  exact .ite (h.same rfl) <|
    .ite (h.same rfl) <|
    .ite (h.via (execDrbgCountWrite_keeps h)) <|
    .ite (h.same rfl) <|
    .ite (h.same rfl) <|
    .ite (h.onBit (fun _ h₁ => h₁.via (execAllowCommit_keeps h₁))) <|
    .ite (h.same rfl) <|
    .ite (h.via (execSlotQuotaWrite_keeps h)) <|
    .ite (h.via (execStoreQuotaWrite_keeps h)) <|
    h

theorem State.Keeps.queueError {page bit : Nat} (h : s.Keeps t) : s.Keeps (State.queueError page bit t) := by
  unfold State.queueError
  dsimp only
  split
  · exact h.same rfl
  · exact h.same rfl

theorem execFuncQueuesWrite_keeps {value : BitVec 32} (h : s.Keeps t) : Out.Keeps s (execFuncQueuesWrite value t) :=
  .next (h.onBar (fun _ h₁ => .ite h₁ (.ite h₁.queueError (h₁.same rfl))))

theorem State.kept_queueError (page bit : Nat) (s : State) : (s.queueError page bit).kept = s.kept := by
  unfold State.queueError
  split <;> rfl

theorem execQselWrite_keeps {page : BitVec 8} {value : BitVec 32} (h : s.Keeps t) : Out.Keeps s (execQselWrite page value t) := by
  have h₁ : s.Keeps (if page.toNat = 0 then { t with qmgr := { t.qmgr with qselQ := bits value 11 0, qselF := bits value 23 16 } }
      else t.modFn page.toNat fun n => { n with qsel := bits value 11 0 }) := .ite (h.same rfl) (h.same rfl)
  exact .next (.ite h (.ite h₁ (h₁.same (State.kept_queueError _ _ _))))

theorem State.Keeps.onSelected {page : Nat} {act : Nat → Nat → State → State}
    (h : s.Keeps t) (hact : ∀ x0 x1 u, s.Keeps u → s.Keeps (act x0 x1 u)) :
    s.Keeps (State.onSelected page act t) := by
  unfold State.onSelected
  split
  · exact h
  · split
    · split
      · exact hact _ _ _ h
      · exact h.queueError

theorem State.Keeps.onIdle {page : Nat} {act : Nat → Nat → State → State}
    (h : s.Keeps t) (hact : ∀ x0 x1 u, s.Keeps u → s.Keeps (act x0 x1 u)) :
    s.Keeps (State.onIdle page act t) :=
  h.onSelected (fun _ _ _ h₁ => .ite h₁.queueError (hact _ _ _ h₁))

theorem State.Keeps.putContext {page : Nat} {reg : CtxReg} {v : BitVec 32} {f q : Nat} (h : s.Keeps t) :
    s.Keeps (State.putContext page reg v f q t) := by
  unfold State.putContext
  dsimp only
  split
  · split
    · exact h.queueError
    · exact h.same rfl
  · exact h.same rfl
  · split
    · exact h.queueError
    · exact h.same rfl
  · exact h.same rfl
  · split
    · exact h.same rfl
    · exact h.queueError
  · exact h.same rfl

theorem execQueueContextWrite_keeps {page : BitVec 8} {reg : CtxReg} {value : BitVec 32} (h : s.Keeps t) :
    Out.Keeps s (execQueueContextWrite page reg value t) :=
  .next (h.onIdle (fun _ _ _ h₁ => h₁.putContext))

theorem execQVectorWrite_keeps {page : BitVec 8} {value : BitVec 32} (h : s.Keeps t) : Out.Keeps s (execQVectorWrite page value t) :=
  .next (h.onIdle (fun _ _ _ h₁ => .ite h₁.queueError (h₁.same rfl)))

theorem execQueueEnable_keeps {page : BitVec 8} (h : s.Keeps t) : Out.Keeps s (execQueueEnable page t) :=
  .next (h.onSelected (fun _ _ _ h₁ => .ite h₁ (.ite h₁.queueError (.ite h₁.queueError (h₁.same rfl)))))

theorem execQueueDisable_keeps {page : BitVec 8} (h : s.Keeps t) : Out.Keeps s (execQueueDisable page t) :=
  .next (h.onSelected (fun _ _ _ h₁ => h₁.same rfl))

theorem State.Keeps.writeContext {page off : Nat} {v : BitVec 32} (h : s.Keeps t) : s.Keeps (State.writeContext page off v t) := by
  unfold State.writeContext
  exact .ite (h.via (execQueueContextWrite_keeps h)) <|
    .ite (h.via (execQueueContextWrite_keeps h)) <|
    .ite (h.via (execQueueContextWrite_keeps h)) <|
    .ite (h.via (execQueueContextWrite_keeps h)) <|
    .ite (h.via (execQueueContextWrite_keeps h)) <|
    .ite (h.via (execQVectorWrite_keeps h)) <|
    .ite (h.via (execQueueContextWrite_keeps h)) <|
    .ite (.via h (by split; exacts [execQueueEnable_keeps h, execQueueDisable_keeps h])) <|
    h

theorem State.Keeps.writeQmgr {a : Nat} {v : BitVec 32} (h : s.Keeps t) : s.Keeps (State.writeQmgr a v t) := by
  unfold State.writeQmgr
  exact .ite h <|
    .ite (h.same rfl) <|
    .ite (h.via (execFuncQueuesWrite_keeps h)) <|
    .ite (h.same rfl) <|
    .ite (h.via (execQselWrite_keeps h)) <|
    h.writeContext

theorem execShareWrite_keeps {value : BitVec 32} (h : s.Keeps t) : Out.Keeps s (execShareWrite value t) :=
  .next (h.onBar (fun _ h₁ => .ite (h₁.same rfl) (h₁.same rfl)))

theorem execHammerAbort_keeps {value : BitVec 32} (h : s.Keeps t) : Out.Keeps s (execHammerAbort value t) :=
  .next (h.onBar (fun _ h₁ => .ite (.foldl (h₁.same rfl) (fun _ _ h₂ => h₂.fail)) (h₁.same rfl)))

theorem State.Keeps.writeEngine {a : Nat} {v : BitVec 32} (h : s.Keeps t) : s.Keeps (State.writeEngine a v t) := by
  unfold State.writeEngine
  exact .ite (h.same rfl) <|
    .ite (h.via (execShareWrite_keeps h)) <|
    .ite (h.same rfl) <|
    .ite (h.via (execHammerAbort_keeps h)) <|
    h

theorem State.Keeps.startRetest (h : s.Keeps t) : s.Keeps (State.startRetest t) :=
  .upd (.ite h.setBellows h) rfl

theorem execRetest_keeps (h : s.Keeps t) : Out.Keeps s (execRetest t) :=
  .next (h.onBar (fun _ h₁ => .ite h₁ h₁.startRetest))

theorem State.Keeps.writeRand {a : Nat} {v : BitVec 32} (h : s.Keeps t) : s.Keeps (State.writeRand a v t) := by
  unfold State.writeRand
  dsimp only
  split
  · exact h.onBit (fun _ h₁ => h₁.via (execRetest_keeps h₁))
  · split
    · exact h.same rfl
    · exact h

theorem execCursor_keeps {hearth : Bool} {seq : BitVec 32} (h : s.Keeps t) : Out.Keeps s (execCursor hearth seq t) := by
  unfold execCursor
  refine .next ?_
  split
  · exact h.cursorTo
  · exact h.onBar (fun _ h₁ => h₁.cursorTo)

theorem execSettingsValueWrite_keeps {value : BitVec 32} (h : s.Keeps t) : Out.Keeps s (execSettingsValueWrite value t) :=
  .next (h.onBar (fun _ h₁ => .ite (h₁.same rfl) (.ite h₁ (.mirrorSetting (h₁.same rfl)))))

theorem execStore_keeps {key : BitVec 32} (h : s.Keeps t) : Out.Keeps s (execStore key t) :=
  .next (h.onBar (fun _ h₁ => .ite h₁ (.ite (h₁.same rfl) (h₁.same rfl))))

theorem State.Keeps.writeStore {a : Nat} {v : BitVec 32} (h : s.Keeps t) : s.Keeps (State.writeStore a v t) := by
  unfold State.writeStore
  exact .ite (h.via (execCursor_keeps h)) <|
    .ite (h.same rfl) <|
    .ite (h.same rfl) <|
    .ite (h.via (execSettingsValueWrite_keeps h)) <|
    .ite (h.same rfl) <|
    .ite (h.via (execStore_keeps h)) <|
    h

theorem execAvsSettingsWrite_keeps {limits : Bool} {value : BitVec 32} (h : s.Keeps t) :
    Out.Keeps s (execAvsSettingsWrite limits value t) :=
  .next (h.onBar (fun _ h₁ => .ite (.ite (h₁.same rfl) (h₁.same rfl)) (.ite (h₁.same rfl) (h₁.same rfl))))

theorem execBatReset_keeps {key : BitVec 32} (h : s.Keeps t) : Out.Keeps s (execBatReset key t) :=
  .next (h.onBar (fun _ h₁ => .ite (.predictBattery (h₁.same rfl)) h₁))

theorem State.Keeps.writePower {a : Nat} {v : BitVec 32} (h : s.Keeps t) : s.Keeps (State.writePower a v t) := by
  unfold State.writePower
  exact .ite (h.via (execAvsSettingsWrite_keeps h)) <|
    .ite (h.via (execAvsSettingsWrite_keeps h)) <|
    .ite (h.same rfl) <|
    .ite (.ite (h.same rfl) h) <|
    .ite (.ite h (h.same rfl)) <|
    .ite (h.via (execBatReset_keeps h)) <|
    h

theorem State.Keeps.flushTenant {t' : Nat} (h : s.Keeps t) : s.Keeps (State.flushTenant t' t) := by
  unfold State.flushTenant
  dsimp only
  split
  · exact h.same rfl
  · exact h.same rfl

theorem State.Keeps.writeRoute {a : Nat} {v : BitVec 32} (h : s.Keeps t) : s.Keeps (State.writeRoute a v t) := by
  unfold State.writeRoute
  exact .ite (h.same rfl) <|
    .ite (h.same rfl) <|
    .ite (h.same rfl) <|
    .ite (h.same rfl) <|
    .ite (h.same rfl) <|
    .ite (h.same rfl) <|
    .ite (h.same rfl) <|
    .ite (.onBit (h.onBit (fun _ h₁ => h₁.same rfl)) (fun _ h₁ => h₁.same rfl)) <|
    .ite (.ite h.flushTenant (h.same rfl)) <|
    h

theorem State.Keeps.mbxUnavailable (h : s.Keeps t) : s.Keeps (State.mbxUnavailable t) :=
  h.mbxAnswer

theorem State.Keeps.mbxSubmit (h : s.Keeps t) : s.Keeps (State.mbxSubmit t) := by
  unfold State.mbxSubmit
  dsimp only
  split
  · exact h.mbxUnavailable
  · split
    · exact h.mbxConflict
    · split
      · exact h.mbxUnavailable
      · split
        · exact h.mbxAnswer
        · split
          · exact h.mbxAnswer
          · exact h.same rfl

theorem State.Keeps.mbxGo (h : s.Keeps t) : s.Keeps (State.mbxGo t) := by
  unfold State.mbxGo
  dsimp only
  split
  · exact h.same rfl
  · exact .mbxSubmit (h.same rfl)

theorem State.Keeps.newReq {r : Bytes} (h : s.Keeps t) : s.Keeps { t with worlds := { t.worlds with req := r } } := h.same rfl

theorem State.Keeps.writeVault {a : Nat} {v : BitVec 32} (h : s.Keeps t) : s.Keeps (State.writeVault a v t) :=
  .ite (.ite (h.same rfl) h.newReq) (.ite (.onBit (h.same rfl) fun _ h₁ => h₁.mbxGo) h)

theorem State.Keeps.signalVf {n : Nat} (h : s.Keeps t) : s.Keeps (State.signalVf n t) := by
  unfold State.signalVf
  split
  · exact h.signal
  · exact h

theorem execMbxToPfAck_keeps {vf : BitVec 8} (h : s.Keeps t) : Out.Keeps s (execMbxToPfAck vf t) :=
  .next (h.onBar (fun _ h₁ => .ite h₁ (.signalVf (h₁.same rfl))))

theorem execMbxFromPfDoorbell_keeps {vf : BitVec 8} (h : s.Keeps t) : Out.Keeps s (execMbxFromPfDoorbell vf t) :=
  .next (h.onBar (fun _ h₁ => .ite h₁ (.ite (h₁.same rfl) (.signalVf (h₁.same rfl)))))

theorem execMbxToPfDoorbell_keeps {vf : BitVec 8} (h : s.Keeps t) : Out.Keeps s (execMbxToPfDoorbell vf t) := by
  unfold execMbxToPfDoorbell
  dsimp only
  refine .next ?_
  split
  · exact h
  · split
    · exact h.same rfl
    · exact .signal (h.same rfl)

theorem execMbxFromPfAck_keeps {vf : BitVec 8} (h : s.Keeps t) : Out.Keeps s (execMbxFromPfAck vf t) := by
  unfold execMbxFromPfAck
  dsimp only
  refine .next ?_
  split
  · exact h
  · exact .signal (h.same rfl)

theorem State.Keeps.writeMbx {n off : Nat} {byPf : Bool} {v : BitVec 32} (h : s.Keeps t) : s.Keeps (State.writeMbx n off byPf v t) := by
  unfold State.writeMbx
  exact .ite (.ite (h.onBit (fun _ h₁ => h₁.via (execMbxToPfAck_keeps h₁))) (.ite h (.ite (.onBit (h.same rfl) (fun _ h₁ => h₁.via (execMbxFromPfDoorbell_keeps h₁))) (h.same rfl)))) <|
    .ite (.onBit (h.same rfl) (fun _ h₁ => h₁.via (execMbxToPfDoorbell_keeps h₁))) <|
    .ite (h.same rfl) <|
    .ite (h.onBit (fun _ h₁ => h₁.via (execMbxFromPfAck_keeps h₁))) <|
    h

theorem State.Keeps.writePf {a : Nat} {v : BitVec 32} (h : s.Keeps t) : s.Keeps (State.writePf a v t) := by
  unfold State.writePf
  exact .ite h <|
    .ite h.writeHostif <|
    .ite h.writeQmgr <|
    .ite h.writeEngine <|
    .ite h.writeRand <|
    .ite h <|
    .ite h.writeStore <|
    .ite h.writePower <|
    .ite h <|
    .ite h.writeRoute <|
    .ite h.writeVault <|
    .ite h <|
    .ite h.writeMbx <|
    h

theorem State.Keeps.writeMsix {f a : Nat} {v : BitVec 32} (h : s.Keeps t) : s.Keeps (State.writeMsix f a v t) :=
  .ite h (.ite (.sendPending (h.same rfl)) (h.same rfl))

theorem State.Keeps.writeVf {n a : Nat} {v : BitVec 32} (h : s.Keeps t) : s.Keeps (State.writeVf n a v t) := by
  unfold State.writeVf
  exact .ite h <|
    .ite (h.via (execQselWrite_keeps h)) <|
    .ite (h.same rfl) <|
    .ite h.writeContext <|
    .ite h.writeMbx <|
    .ite h.writeMsix <|
    h

theorem State.Keeps.writePage {page : Page} {a : Nat} {v : BitVec 32} (h : s.Keeps t) : s.Keeps (State.writePage page a v t) := by
  unfold State.writePage
  split
  · split
    · exact h.writePf
    · exact h.writeVf
  · exact h.writeMsix
  · exact h.writeLegacy

theorem execRegisterWrite_keeps {page : Page} {addr : BitVec 16} {value : RegValue} (h : s.Keeps t) :
    Out.Keeps s (execRegisterWrite page addr value t) := by
  unfold execRegisterWrite
  dsimp only
  refine .next ?_
  split
  · exact h.leaveL1
  · split
    · exact h.leaveL1.logAer
    · split
      · exact h.leaveL1.writeNarrow
      · exact h.leaveL1.writeNarrow
      · exact h.leaveL1.writePage
      · split
        · exact h.leaveL1.writePage.writePage
        · exact h.leaveL1.writePage

theorem State.Keeps.dropDoorbell {f q : Nat} (h : s.Keeps t) : s.Keeps (State.dropDoorbell f q t) :=
  h.log

theorem State.Keeps.sqHalf {f q v : Nat} (h : s.Keeps t) : s.Keeps (State.sqHalf f q v t) := by
  unfold State.sqHalf
  dsimp only
  split
  · exact h.dropDoorbell
  · split
    · exact h.breakQueue
    · split
      · exact h.breakQueue
      · exact h.same rfl

theorem State.Keeps.badHead {f q cause : Nat} (h : s.Keeps t) : s.Keeps (State.badHead f q cause t) := by
  unfold State.badHead
  dsimp only
  split
  · exact h.dropDoorbell
  · split
    · exact h.breakQueue
    · exact h.dropDoorbell.breakQueue

theorem State.Keeps.queueMessage {f q : Nat} (h : s.Keeps t) : s.Keeps (State.queueMessage f q t) :=
  .signal (h.same rfl)

theorem State.Keeps.cqHalf {f q v : Nat} (h : s.Keeps t) : s.Keeps (State.cqHalf f q v t) := by
  unfold State.cqHalf
  exact .ite h.dropDoorbell <|
    .ite h.badHead <|
    .ite h.badHead <|
    .ite (.queueMessage (h.same rfl)) <|
    h.same rfl

theorem execSqDoorbell_keeps {fn : BitVec 8} {queue : BitVec 12} {value : BitVec 16} {head : Option (BitVec 16)} (h : s.Keeps t) :
    Out.Keeps s (execSqDoorbell fn queue value head t) := by
  unfold execSqDoorbell
  dsimp only
  refine .next ?_
  split
  · exact h.leaveL1
  · split
    · exact h.leaveL1.sqHalf
    · split
      · exact h.leaveL1.cqHalf
      · exact h.leaveL1.cqHalf.sqHalf

theorem execCqDoorbell_keeps {fn : BitVec 8} {queue : BitVec 12} {value : BitVec 16} (h : s.Keeps t) :
    Out.Keeps s (execCqDoorbell fn queue value t) := by
  unfold execCqDoorbell
  dsimp only
  refine .next ?_
  split
  · exact h.leaveL1.cqHalf
  · exact h.leaveL1

theorem execDescriptorFetch_keeps {fn : BitVec 8} {queue : BitVec 12} (h : s.Keeps t) : Out.Keeps s (execDescriptorFetch fn queue t) := by
  unfold execDescriptorFetch
  dsimp only
  refine .next ?_
  split
  · exact h
  · split
    · exact h
    · exact h.same rfl

theorem State.Keeps.placeOp {o : Op} (h : s.Keeps t) : s.Keeps (State.placeOp o t) :=
  .ite (h.same rfl) (.ite (h.same rfl) (h.same rfl))

theorem State.Keeps.arrive {f q : Nat} {d : BitVec 512} (h : s.Keeps t) : s.Keeps (State.arrive f q t d) := by
  unfold State.arrive
  dsimp only
  split
  · exact h.same rfl
  · split
    · exact .placeOp (h.same rfl)
    · exact .fail (h.same rfl)

theorem execDescriptorArrival_keeps {fn : BitVec 8} {queue : BitVec 12} {descs : List (BitVec 512)} (h : s.Keeps t) :
    Out.Keeps s (execDescriptorArrival fn queue descs t) := by
  unfold execDescriptorArrival
  dsimp only
  refine .next ?_
  split
  · exact h
  · exact .foldl (h.same rfl) (fun _ _ h₁ => h₁.arrive)

theorem State.Keeps.onOp {id opcode : Nat} {stage : Stage} {act : Op → State → State}
    (h : s.Keeps t) (hact : ∀ x0 u, s.Keeps u → s.Keeps (act x0 u)) :
    s.Keeps (State.onOp id opcode stage act t) := by
  unfold State.onOp
  split
  · split
    · exact hact _ _ h
    · exact h
  · exact h

theorem execSteeringReadDone_keeps {op : Nat} {params : Bytes} (h : s.Keeps t) : Out.Keeps s (execSteeringReadDone op params t) :=
  .next (h.onOp (fun _ _ h₁ => .ite (h₁.same rfl) h₁))

theorem State.Keeps.withSlot {o : Op} {n access : Nat} {k : Slot → State → State}
    (h : s.Keeps t) (hk : ∀ x0 u, s.Keeps u → s.Keeps (k x0 u)) :
    s.Keeps (State.withSlot o n access k t) := by
  unfold State.withSlot
  dsimp only
  split
  · exact h.fail
  · split
    · exact h.slotFault.fail
    · split
      · exact h.fail
      · exact hk _ _ h

theorem State.Keeps.rackAccess {o : Op} {n : Nat} {k : Slot → State → State} (h : s.Keeps t) (hk : ∀ x0 u, s.Keeps u → s.Keeps (k x0 u)) :
    s.Keeps (State.rackAccess o n k t) := by
  unfold State.rackAccess
  split
  · exact h.fail
  · exact h.withSlot hk

theorem State.Keeps.takeUnit {o : Op} {u' : Nat} {preempts : Bool} (h : s.Keeps t) : s.Keeps (State.takeUnit o u' preempts t) := by
  unfold State.takeUnit
  split
  · exact h.fail
  · exact h.same rfl

theorem State.Keeps.askInst {id : Nat} (h : s.Keeps t) : s.Keeps (State.askInst id t) := by
  unfold State.askInst
  dsimp only
  split
  · exact h
  · exact h.same rfl

theorem State.Keeps.takeOp {id b : Nat} {keys : List KeyCopy} (h : s.Keeps t) : s.Keeps (State.takeOp id b keys t) :=
  h.same rfl

theorem State.Keeps.of_tryLane {o : Op} (h : s.Keeps t) (e : t.tryLane o = some u) : s.Keeps u := by
  unfold State.tryLane at e
  dsimp only at e
  repeat' split at e
  all_goals cases e
  · exact h.fail
  · refine h.rackAccess fun _ _ h₁ => ?_
    split
    · exact h₁.fail
    · exact .takeOp (h₁.same rfl)
  · exact h.takeOp

theorem State.Keeps.of_tryPipe {o : Op} (h : s.Keeps t) (e : t.tryPipe o = some u) : s.Keeps u := by
  unfold State.tryPipe at e
  repeat' split at e
  · cases e
    exact h.fail
  · cases e
    exact h.takeOp
  · cases e
  · obtain ⟨p, -, rfl⟩ := Option.map_eq_some_iff.mp e
    exact h.takeOp

theorem State.Keeps.of_tryUnit {o : Op} (h : s.Keeps t) (e : t.tryUnit o = some u) : s.Keeps u := by
  unfold State.tryUnit at e
  dsimp only at e
  repeat' split at e
  all_goals cases e
  · exact h.fail
  · refine h.rackAccess fun _ _ h₁ => ?_
    split
    · exact h₁.fail
    · exact h₁.takeUnit
  · exact h.takeUnit

theorem State.Keeps.takeCore {c id : Nat} (h : s.Keeps t) : s.Keeps (State.takeCore c id t) :=
  h.same rfl

theorem State.Keeps.of_tryRandom {o : Op} (h : s.Keeps t) (e : t.tryRandom o = some u) : s.Keeps u := by
  unfold State.tryRandom at e
  repeat' split at e
  all_goals cases e
  · exact h.fail
  · exact h.takeOp.askInst
  · exact h.takeOp.askInst.takeCore

theorem State.Keeps.of_nextOf {r : Region} {f : Nat} (h : s.Keeps t) (e : t.nextOf r f = some u) : s.Keeps u := by
  obtain ⟨o, -, e⟩ := List.exists_of_findSome?_eq_some e
  cases r with
  | cipher => exact h.of_tryLane e
  | plan => exact h.of_tryPipe e
  | number => exact h.of_tryUnit e
  | random => exact h.of_tryRandom e

theorem State.Keeps.nextOf {r : Region} {f : Nat} (h : s.Keeps t) (hu : s.Keeps u) : s.Keeps ((t.nextOf r f).getD u) := by
  cases e : t.nextOf r f with
  | none => exact hu
  | some v => exact h.of_nextOf e

theorem execRegionDispatch_keeps {region : Region} (h : s.Keeps t) : Out.Keeps s (execRegionDispatch region t) := by
  unfold execRegionDispatch
  refine .next ?_
  split
  · split
    · exact h
    · exact (h.nextOf h).same rfl
  · dsimp only
    split
    · exact h
    · exact .nextOf (h.same rfl) h

theorem State.Keeps.countRate {c ops bytes : Nat} (h : s.Keeps t) : s.Keeps (State.countRate c ops bytes t) :=
  h.same rfl

theorem State.Keeps.rateOp {o : Op} (h : s.Keeps t) : s.Keeps (State.rateOp o t) := by
  unfold State.rateOp
  dsimp only
  split
  · exact h
  · split
    · split
      · exact h.same rfl
      · exact h
    · exact .countRate (by
          split
          · exact h.same rfl
          · exact h)

theorem State.Keeps.recordStatus {o : Op} (h : s.Keeps t) : s.Keeps (State.recordStatus o t) := by
  unfold State.recordStatus
  split
  · exact h
  · split
    · exact h.log
    · exact h.log

theorem State.Keeps.raiseIrq {f q : Nat} (h : s.Keeps t) : s.Keeps (State.raiseIrq f q t) := by
  unfold State.raiseIrq
  dsimp only
  split
  · exact .queueMessage (h.same rfl)
  · exact h.same rfl

theorem State.Keeps.writeCompletion {o : Op} (h : s.Keeps t) : s.Keeps (State.writeCompletion o t) := by
  unfold State.writeCompletion
  dsimp only
  split
  · exact .raiseIrq (.rateOp (.recordStatus (h.same rfl)))
  · exact .rateOp (.recordStatus (h.same rfl))

theorem execOperationCompletion_keeps {op : Nat} (h : s.Keeps t) : Out.Keeps s (execOperationCompletion op t) := by
  unfold execOperationCompletion
  refine .next ?_
  split
  · split
    · exact h.writeCompletion
    · exact h
  · exact h

theorem execCoalesceTimer_keeps {fn : BitVec 8} {queue : BitVec 12} (h : s.Keeps t) : Out.Keeps s (execCoalesceTimer fn queue t) := by
  unfold execCoalesceTimer
  dsimp only
  refine .next ?_
  split
  · exact h.queueMessage
  · exact h

theorem execSchedulingEpoch_keeps (h : s.Keeps t) : Out.Keeps s (execSchedulingEpoch t) :=
  .next (h.same rfl)

theorem execRateWindow_keeps {cycles : Vector (BitVec 16) 8} (h : s.Keeps t) : Out.Keeps s (execRateWindow cycles t) :=
  .next (h.same rfl)

theorem State.Keeps.abortOp {op : Option Nat} {detail : Nat} (h : s.Keeps t) : s.Keeps (State.abortOp op detail t) := by
  unfold State.abortOp
  split
  · exact h
  · split
    · split
      · exact h
      · exact h.stopOp
    · exact h

theorem execCellFault_keeps {block : BitVec 8} {kind : CellFault} {op : Option Nat} (h : s.Keeps t) :
    Out.Keeps s (execCellFault block kind op t) := by
  unfold execCellFault
  dsimp only
  refine .next ?_
  split
  · exact h
  · split
    · exact h.report.modBlock
    · split
      · exact h.report.abortOp.raiseLevel.alarm
      · exact h.report.abortOp.raiseLevel

theorem execFaultLevelDecay_keeps {block : BitVec 8} (h : s.Keeps t) : Out.Keeps s (execFaultLevelDecay block t) :=
  .next (h.same rfl)

theorem execBusIntegrityError_keeps {block : BitVec 8} {op : Option Nat} (h : s.Keeps t) : Out.Keeps s (execBusIntegrityError block op t) :=
  .next h.report.abortOp.alarm

theorem execRegionWatchdogExpiry_keeps {region : Fin 6} (h : s.Keeps t) : Out.Keeps s (execRegionWatchdogExpiry region t) := by
  unfold execRegionWatchdogExpiry
  refine .next ?_
  split
  · exact h.log.chipReset
  · exact h

theorem execNop_keeps {op : Nat} (h : s.Keeps t) : Out.Keeps s (execNop op t) := by
  unfold execNop
  refine .next ?_
  split
  · split
    · exact h.finish
    · exact h
  · exact h

theorem execFence_keeps {op : Nat} (h : s.Keeps t) : Out.Keeps s (execFence op t) := by
  unfold execFence
  refine .next ?_
  split
  · split
    · exact h.finish
    · exact h
  · exact h

theorem State.Keeps.wroteRegion {n : Nat} (h : s.Keeps t) : s.Keeps (State.wroteRegion n t) :=
  h.same rfl

theorem State.Keeps.persistQuotas (h : s.Keeps t) : s.Keeps (State.persistQuotas t) := by
  unfold State.persistQuotas
  dsimp only
  split
  · exact h
  · exact h.same rfl

theorem execQuotaPersist_keeps (h : s.Keeps t) : Out.Keeps s (execQuotaPersist t) := by
  unfold execQuotaPersist
  refine .next ?_
  split
  · exact h.persistQuotas
  · exact h

theorem State.Keeps.onService {id opcode : Nat} {act : Op → State → State} (h : s.Keeps t) (hact : ∀ x0 u, s.Keeps u → s.Keeps (act x0 u)) :
    s.Keeps (State.onService id opcode act t) :=
  h.onOp (fun _ _ h₁ => .ite h₁ (.ite h₁.fail (hact _ _ h₁)))

theorem State.Keeps.withTarget {o : Op} {named off : Nat} {k : Nat → State → State}
    (h : s.Keeps t) (hk : ∀ x0 u, s.Keeps u → s.Keeps (k x0 u)) :
    s.Keeps (State.withTarget o named off k t) := by
  unfold State.withTarget
  split
  · split
    · exact h.fail
    · split
      · exact h.fail
      · exact hk _ _ h
  · split
    · exact h.fail
    · exact hk _ _ h

theorem State.Keeps.withReservation {o : Op} {k : State → State} (h : s.Keeps t) (hk : ∀ u, s.Keeps u → s.Keeps (k u)) :
    s.Keeps (State.withReservation o k t) := by
  unfold State.withReservation
  split
  · exact hk _ h
  · split
    · exact h.fail
    · next e => exact hk _ ((h.of_reserveSlots e).same rfl)

theorem State.Keeps.hold {r : SeedReq} (h : s.Keeps t) : s.Keeps (State.hold r t) := by
  unfold State.hold
  dsimp only
  split
  · exact h
  · exact h.same rfl

theorem State.Keeps.request {r : SeedReq} {got : Option Bytes} {k : Bytes → State → State} {no : State → State}
    (h : s.Keeps t) (hk : ∀ x0 u, s.Keeps u → s.Keeps (k x0 u)) (hno : ∀ u, s.Keeps u → s.Keeps (no u)) :
    s.Keeps (State.request r got k no t) := by
  unfold State.request
  split
  · exact hk _ _ h
  · split
    · split
      · exact h.hold
      · exact hno _ h
    · exact h.hold
    · exact h.hold
    · split
      · exact h
      · split
        · exact h.same rfl
        · exact hk _ _ h

theorem State.Keeps.failEntropy {o : Op} (h : s.Keeps t) : s.Keeps (State.failEntropy o t) :=
  .fail (h.same rfl)

theorem State.Keeps.gated {o : Op} {level blocks : Nat} {k : Bytes → State → State}
    (h : s.Keeps t) (hk : ∀ x0 u, s.Keeps u → s.Keeps (k x0 u)) :
    s.Keeps (State.gated o level blocks k t) :=
  h.request (fun _ _ h₁ => hk _ _ (h₁.same rfl)) (fun _ h₁ => h₁.failEntropy)

theorem State.Keeps.placeKey {o : Op} {n : Nat} {attr : BitVec 128} {origin : Nat} {key : Bytes} (h : s.Keeps t) :
    s.Keeps (State.placeKey o n attr origin key t) :=
  h.placeSlot.modOp.finish

theorem execKeyGenerate_keeps {op : Nat} (h : s.Keeps t) : Out.Keeps s (execKeyGenerate op t) := by
  unfold execKeyGenerate
  dsimp only
  exact .next (h.onService (fun _ _ h₁ => by
      split
      · exact h₁.fail
      · exact h₁.withTarget (fun _ _ h₂ => h₂.withReservation (fun _ h₃ => h₃.gated (fun _ _ h₄ => by
            split
            · exact h₄.placeKey
            · exact h₄)))))

theorem State.Keeps.portAccess {o : Op} {n : Nat} {k : Slot → State → State} (h : s.Keeps t) (hk : ∀ x0 u, s.Keeps u → s.Keeps (k x0 u)) :
    s.Keeps (State.portAccess o n k t) := by
  unfold State.portAccess
  split
  · exact h
  · exact h.withSlot hk

theorem State.Keeps.releaseSlots {t' n : Nat} (h : s.Keeps t) : s.Keeps (State.releaseSlots t' n t) :=
  h.same rfl

theorem execKeyUnload_keeps {op : Nat} (h : s.Keeps t) : Out.Keeps s (execKeyUnload op t) :=
  .next (h.onService (fun _ _ h₁ => h₁.portAccess (fun _ _ h₂ => h₂.eraseSlot.releaseSlots.finish)))

theorem execKeyMove_keeps {op : Nat} (h : s.Keeps t) : Out.Keeps s (execKeyMove op t) :=
  .next (h.onService (fun _ _ h₁ => .ite h₁.fail (h₁.portAccess (fun _ _ h₂ => h₂.withTarget (fun _ _ h₃ => h₃.eraseSlot.placeSlot.finish)))))

theorem State.Keeps.readData {o : Op} {dma : Dma} (h : s.Keeps t) : s.Keeps (State.readData o dma t) := by
  unfold State.readData
  dsimp only
  split
  · exact h
  · exact h.same rfl

theorem State.Keeps.checkLists {o : Op} {dma : Dma} {need maxOut : Nat} {k : State → State}
    (h : s.Keeps t) (hk : ∀ u, s.Keeps u → s.Keeps (k u)) :
    s.Keeps (State.checkLists o dma need maxOut k t) := by
  unfold State.checkLists
  split
  · exact h.fail
  · exact hk _ h.readData

theorem State.Keeps.readLists {o : Op} (h : s.Keeps t) : s.Keeps (State.readLists o t) := by
  unfold State.readLists
  dsimp only
  split
  · exact h
  · exact h.same rfl

theorem State.Keeps.checked {o : Op} {dma : Dma} {need maxOut : Nat} {k : State → State}
    (h : s.Keeps t) (hk : ∀ u, s.Keeps u → s.Keeps (k u)) :
    s.Keeps (State.checked o dma need maxOut k t) :=
  h.readLists.checkLists hk

theorem State.Keeps.writeOut {o : Op} {dma : Dma} {out : Bytes} (h : s.Keeps t) : s.Keeps (State.writeOut o dma out t) :=
  .upd (.ite (h.same rfl) h) rfl

theorem State.Keeps.serviceOut {o : Op} {dma : Dma} {maxOut : Nat} {out : Bytes} (h : s.Keeps t) :
    s.Keeps (State.serviceOut o dma maxOut out t) :=
  h.checked (fun _ h₁ => h₁.writeOut.finish)

theorem execKeyAttrRead_keeps {op : Nat} {dma : Dma} (h : s.Keeps t) : Out.Keeps s (execKeyAttrRead op dma t) :=
  .next (h.onService (fun _ _ h₁ => h₁.portAccess (fun _ _ h₂ => h₂.serviceOut)))

theorem State.Keeps.denyUsage {o : Op} {n : Nat} (h : s.Keeps t) : s.Keeps (State.denyUsage o n t) :=
  h.fail

theorem execKeyImport_keeps {op : Nat} {dma : Dma} (h : s.Keeps t) : Out.Keeps s (execKeyImport op dma t) := by
  unfold execKeyImport
  dsimp only
  exact .next (h.onService (fun _ _ h₁ => h₁.portAccess (fun _ _ h₂ => by
      split
      · exact h₂.denyUsage
      · split
        · exact h₂.readLists.fail
        · exact h₂.readLists.withTarget (fun _ _ h₃ => h₃.withReservation (fun _ h₄ => by
              split
              · exact h₄.fail
              · exact h₄.placeKey)))))

theorem execKeyExport_keeps {op : Nat} {dma : Dma} (h : s.Keeps t) : Out.Keeps s (execKeyExport op dma t) :=
  .next (h.onService (fun _ _ h₁ => h₁.portAccess (fun _ _ h₂ => .ite h₂.denyUsage (h₂.portAccess (fun _ _ h₃ => .ite h₃.denyUsage (h₃.checked (fun _ h₄ => h₄.gated (fun _ _ h₅ => h₅.writeOut.finish))))))))

theorem execKeySave_keeps {op : Nat} {dma : Dma} (h : s.Keeps t) : Out.Keeps s (execKeySave op dma t) :=
  .next (h.onService (fun _ _ h₁ => h₁.portAccess (fun _ _ h₂ => h₂.serviceOut)))

theorem execKeyRestore_keeps {op : Nat} {dma : Dma} (h : s.Keeps t) : Out.Keeps s (execKeyRestore op dma t) := by
  unfold execKeyRestore
  dsimp only
  exact .next (h.onService (fun _ _ h₁ => by
      split
      · exact h₁.readLists.fail
      · exact h₁.readLists.withTarget (fun _ _ h₂ => h₂.withReservation (fun _ h₃ => by
            split
            · exact h₃.fail
            · exact h₃.placeKey))))

theorem State.Keeps.loadRewrap {id : Nat} {data : Bytes} (h : s.Keeps t) : s.Keeps (State.loadRewrap id data t) := by
  unfold State.loadRewrap
  dsimp only
  split
  · exact h.fail
  · split
    · exact h
    · exact h.same rfl

theorem execBlobRewrap_keeps {op : Nat} {dma : Dma} (h : s.Keeps t) : Out.Keeps s (execBlobRewrap op dma t) := by
  unfold execBlobRewrap
  dsimp only
  exact .next (h.onService (fun _ _ h₁ => h₁.checked (fun _ h₂ => by
      split
      · exact h₂.writeOut.finish
      · split
        · exact h₂.fail
        · split
          · exact h₂.fail
          · exact h₂.loadRewrap)))

theorem State.Keeps.signReport {o : Op} {dma : Dma} {n : Bytes} (h : s.Keeps t) : s.Keeps (State.signReport o dma n t) :=
  h.writeOut.finish

theorem State.Keeps.blind {n : Nat} {k : Bytes → State → State} (h : s.Keeps t) (hk : ∀ x0 u, s.Keeps u → s.Keeps (k x0 u)) :
    s.Keeps (State.blind n k t) :=
  hk _ _ (h.same rfl)

theorem State.Keeps.hearthJob {rate : Nat × Bool} {k : State → State} (h : s.Keeps t) (hk : ∀ u, s.Keeps u → s.Keeps (k u)) :
    s.Keeps (State.hearthJob rate k t) := by
  unfold State.hearthJob
  dsimp only
  exact .ite (.blind (h.same rfl) (fun _ _ h₁ => hk _ h₁)) <|
    .ite h <|
    .ite (h.blind (fun _ _ h₁ => hk _ h₁)) <|
    .ite (h.same rfl) <|
    .ite (by
        split
        · exact h.same rfl
        · exact h) <|
    h

theorem execAttestSign_keeps {op : Nat} {dma : Dma} (h : s.Keeps t) : Out.Keeps s (execAttestSign op dma t) :=
  .next (h.onService (fun _ _ h₁ => h₁.checked (fun _ h₂ => .ite (h₂.hearthJob (fun _ h₃ => h₃.hearthJob (fun _ h₄ => h₄.gated (fun _ _ h₅ => h₅.signReport)))) (h₂.gated (fun _ _ h₃ => h₃.signReport)))))

theorem execCertRead_keeps {op : Nat} {dma : Dma} (h : s.Keeps t) : Out.Keeps s (execCertRead op dma t) :=
  .next (h.onService (fun _ _ h₁ => h₁.serviceOut))

theorem execTemperPassStart_keeps (h : s.Keeps t) : Out.Keeps s (execTemperPassStart t) := by
  unfold execTemperPassStart
  dsimp only
  refine .next ?_
  split
  · exact h
  · exact h.same rfl

theorem State.Keeps.endPass (h : s.Keeps t) : s.Keeps (State.endPass t) := by
  unfold State.endPass
  dsimp only
  split
  · exact h
  · exact h.same rfl

theorem execTemperSlotRewrite_keeps (h : s.Keeps t) : Out.Keeps s (execTemperSlotRewrite t) := by
  unfold execTemperSlotRewrite
  dsimp only
  refine .next ?_
  split
  · exact h
  · exact .endPass (.upd (.ite h.slotFault h) rfl)

theorem execTemperTempRead_keeps {tj : ℤ} (h : s.Keeps t) : Out.Keeps s (execTemperTempRead tj t) :=
  .next (h.same rfl)

theorem State.Keeps.laneDone {o : Op} {dma : Dma} {out result : Bytes} (h : s.Keeps t) : s.Keeps (State.laneDone o dma out result t) :=
  h.writeOut.finish

theorem State.Keeps.laneMap {id opcode : Nat} {dma : Dma} {maxOut : Op → Nat} {f : Op → Bytes → Bytes} (h : s.Keeps t) :
    s.Keeps (State.laneMap id opcode dma maxOut f t) :=
  h.onOp (fun _ _ h₁ => h₁.checked (fun _ h₂ => h₂.laneDone))

theorem execAesEcbEnc_keeps {op : Nat} {dma : Dma} (h : s.Keeps t) : Out.Keeps s (execAesEcbEnc op dma t) :=
  .next h.laneMap

theorem State.Keeps.laneDec {id opcode : Nat} {dma : Dma} {n : Nat} {f : Op → Bytes → Bytes} (h : s.Keeps t) :
    s.Keeps (State.laneDec id opcode dma n f t) :=
  h.onOp (fun _ _ h₁ => h₁.checked (fun _ h₂ => h₂.laneDone))

theorem execAesEcbDec_keeps {op : Nat} {dma : Dma} (h : s.Keeps t) : Out.Keeps s (execAesEcbDec op dma t) :=
  .next h.laneDec

theorem execAesCbcEnc_keeps {op : Nat} {dma : Dma} (h : s.Keeps t) : Out.Keeps s (execAesCbcEnc op dma t) :=
  .next h.laneMap

theorem execAesCbcDec_keeps {op : Nat} {dma : Dma} (h : s.Keeps t) : Out.Keeps s (execAesCbcDec op dma t) :=
  .next h.laneDec

theorem execAesCfbEnc_keeps {op : Nat} {dma : Dma} (h : s.Keeps t) : Out.Keeps s (execAesCfbEnc op dma t) :=
  .next h.laneMap

theorem execAesCfbDec_keeps {op : Nat} {dma : Dma} (h : s.Keeps t) : Out.Keeps s (execAesCfbDec op dma t) :=
  .next h.laneMap

theorem execAesCtrEnc_keeps {op : Nat} {dma : Dma} (h : s.Keeps t) : Out.Keeps s (execAesCtrEnc op dma t) :=
  .next h.laneMap

theorem execAesCtrDec_keeps {op : Nat} {dma : Dma} (h : s.Keeps t) : Out.Keeps s (execAesCtrDec op dma t) :=
  .next h.laneMap

theorem State.Keeps.withNonce {o : Op} {dma : Dma} {inlineN : Option Nat} {tag lo hi : Nat} {k : Bytes → State → State}
    (h : s.Keeps t) (hk : ∀ x0 u, s.Keeps u → s.Keeps (k x0 u)) :
    s.Keeps (State.withNonce o dma inlineN tag lo hi k t) := by
  unfold State.withNonce
  dsimp only
  split
  · split
    · exact hk _ _ h
    · exact hk _ _ h
  · split
    · exact h.fail
    · split
      · exact h.fail
      · exact hk _ _ h

theorem execAesGcmEnc_keeps {op : Nat} {dma : Dma} (h : s.Keeps t) : Out.Keeps s (execAesGcmEnc op dma t) :=
  .next (h.onOp (fun _ _ h₁ => h₁.checked (fun _ h₂ => h₂.withNonce (fun _ _ h₃ => h₃.laneDone))))

theorem State.Keeps.releaseChecked {o : Op} {dma : Dma} {ok : Bool} {out : Bytes} (h : s.Keeps t) :
    s.Keeps (State.releaseChecked o dma ok out t) := by
  unfold State.releaseChecked
  split
  · exact h.laneDone
  · exact .fail (.ite h.writeOut h)

theorem execAesGcmDec_keeps {op : Nat} {dma : Dma} (h : s.Keeps t) : Out.Keeps s (execAesGcmDec op dma t) :=
  .next (h.onOp (fun _ _ h₁ => h₁.checked (fun _ h₂ => h₂.withNonce (fun _ _ h₃ => h₃.releaseChecked))))

theorem State.Keeps.ccmLimit {o : Op} {nonce : Bytes} {k : State → State} (h : s.Keeps t) (hk : ∀ u, s.Keeps u → s.Keeps (k u)) :
    s.Keeps (State.ccmLimit o nonce k t) := by
  unfold State.ccmLimit
  split
  · exact h.fail
  · exact hk _ h

theorem execAesCcmEnc_keeps {op : Nat} {dma : Dma} (h : s.Keeps t) : Out.Keeps s (execAesCcmEnc op dma t) :=
  .next (h.onOp (fun _ _ h₁ => h₁.checked (fun _ h₂ => h₂.withNonce (fun _ _ h₃ => h₃.ccmLimit (fun _ h₄ => h₄.laneDone)))))

theorem execAesCcmDec_keeps {op : Nat} {dma : Dma} (h : s.Keeps t) : Out.Keeps s (execAesCcmDec op dma t) :=
  .next (h.onOp (fun _ _ h₁ => h₁.checked (fun _ h₂ => h₂.withNonce (fun _ _ h₃ => h₃.ccmLimit (fun _ h₄ => h₄.releaseChecked)))))

theorem execAesXtsEnc_keeps {op : Nat} {dma : Dma} (h : s.Keeps t) : Out.Keeps s (execAesXtsEnc op dma t) :=
  .next h.laneMap

theorem execAesXtsDec_keeps {op : Nat} {dma : Dma} (h : s.Keeps t) : Out.Keeps s (execAesXtsDec op dma t) :=
  .next h.laneMap

theorem execAesKwWrap_keeps {op : Nat} {dma : Dma} (h : s.Keeps t) : Out.Keeps s (execAesKwWrap op dma t) :=
  .next h.laneMap

theorem State.Keeps.laneUnwrap {id opcode : Nat} {dma : Dma} {f : Op → Bytes → Option Bytes} (h : s.Keeps t) :
    s.Keeps (State.laneUnwrap id opcode dma f t) := by
  unfold State.laneUnwrap
  exact h.onOp (fun _ _ h₁ => h₁.checked (fun _ h₂ => by
      split
      · exact h₂.laneDone
      · exact h₂.fail))

theorem execAesKwUnwrap_keeps {op : Nat} {dma : Dma} (h : s.Keeps t) : Out.Keeps s (execAesKwUnwrap op dma t) :=
  .next h.laneUnwrap

theorem execAesKwpWrap_keeps {op : Nat} {dma : Dma} (h : s.Keeps t) : Out.Keeps s (execAesKwpWrap op dma t) :=
  .next h.laneMap

theorem execAesKwpUnwrap_keeps {op : Nat} {dma : Dma} (h : s.Keeps t) : Out.Keeps s (execAesKwpUnwrap op dma t) :=
  .next h.laneUnwrap

theorem execTdesEcbEnc_keeps {op : Nat} {dma : Dma} (h : s.Keeps t) : Out.Keeps s (execTdesEcbEnc op dma t) :=
  .next h.laneMap

theorem execTdesEcbDec_keeps {op : Nat} {dma : Dma} (h : s.Keeps t) : Out.Keeps s (execTdesEcbDec op dma t) :=
  .next h.laneDec

theorem execTdesCbcEnc_keeps {op : Nat} {dma : Dma} (h : s.Keeps t) : Out.Keeps s (execTdesCbcEnc op dma t) :=
  .next h.laneMap

theorem execTdesCbcDec_keeps {op : Nat} {dma : Dma} (h : s.Keeps t) : Out.Keeps s (execTdesCbcDec op dma t) :=
  .next h.laneDec

theorem State.Keeps.inTurn {o : Op} {k : State → State} (h : s.Keeps t) (hk : ∀ u, s.Keeps u → s.Keeps (k u)) :
    s.Keeps (State.inTurn o k t) := by
  unfold State.inTurn
  dsimp only
  split
  · exact hk _ h.askInst
  · exact h.askInst

theorem State.Keeps.setInst {f i : Nat} {x : Inst} (h : s.Keeps t) : s.Keeps (State.setInst f i x t) :=
  h.same rfl

theorem State.Keeps.served {id : Nat} (h : s.Keeps t) : s.Keeps (State.served id t) :=
  h.same rfl

theorem State.Keeps.drawLocal {o : Op} {n : Nat} {predict : Bool} {add : Bytes} {k : Bytes → Bool → State → State}
    (h : s.Keeps t) (hk : ∀ x0 x1 u, s.Keeps u → s.Keeps (k x0 x1 u)) :
    s.Keeps (State.drawLocal o n predict add k t) :=
  h.inTurn (fun _ h₁ => .ite h₁.fail (.ite h₁ (.gated (.ite (h₁.same rfl) h₁) (fun _ _ h₂ => hk _ _ _ (.countRate (.served (.setInst (.ite (h₂.same rfl) h₂))))))))

theorem execSeal_keeps {op : Nat} {dma : Dma} (h : s.Keeps t) : Out.Keeps s (execSeal op dma t) :=
  .next (h.onOp (fun _ _ h₁ => h₁.checked (fun _ h₂ => h₂.drawLocal (fun _ _ _ h₃ => h₃.laneDone))))

theorem execUnseal_keeps {op : Nat} {dma : Dma} (h : s.Keeps t) : Out.Keeps s (execUnseal op dma t) :=
  .next (h.onOp (fun _ _ h₁ => h₁.checked (fun _ h₂ => .ite h₂.fail h₂.releaseChecked)))

theorem execHash_keeps {op : Nat} {dma : Dma} (h : s.Keeps t) : Out.Keeps s (execHash op dma t) :=
  .next (h.onOp (fun _ _ h₁ => h₁.checked (fun _ h₂ => h₂.laneDone)))

theorem State.Keeps.macGen {o : Op} {dma : Dma} {tag : Bytes} (h : s.Keeps t) : s.Keeps (State.macGen o dma tag t) :=
  h.laneDone

theorem State.Keeps.macVer {o : Op} {dma : Dma} {tag : Bytes} (h : s.Keeps t) : s.Keeps (State.macVer o dma tag t) := by
  unfold State.macVer
  split
  · exact h.finish
  · exact h.fail

theorem State.Keeps.hmacOp {id opcode : Nat} {gen : Bool} {dma : Dma} (h : s.Keeps t) : s.Keeps (State.hmacOp id opcode gen dma t) :=
  h.onOp (fun _ _ h₁ => .ite h₁.fail (h₁.checked (fun _ h₂ => .ite h₂.macGen h₂.macVer)))

theorem execHmacGen_keeps {op : Nat} {dma : Dma} (h : s.Keeps t) : Out.Keeps s (execHmacGen op dma t) :=
  .next h.hmacOp

theorem execHmacVer_keeps {op : Nat} {dma : Dma} (h : s.Keeps t) : Out.Keeps s (execHmacVer op dma t) :=
  .next h.hmacOp

theorem State.Keeps.macOp {id opcode : Nat} {gen : Bool} {dma : Dma} {f : Op → Bytes → Bytes} (h : s.Keeps t) :
    s.Keeps (State.macOp id opcode gen dma f t) :=
  h.onOp (fun _ _ h₁ => h₁.checked (fun _ h₂ => .ite h₂.macGen h₂.macVer))

theorem execAesCmacGen_keeps {op : Nat} {dma : Dma} (h : s.Keeps t) : Out.Keeps s (execAesCmacGen op dma t) :=
  .next h.macOp

theorem execAesCmacVer_keeps {op : Nat} {dma : Dma} (h : s.Keeps t) : Out.Keeps s (execAesCmacVer op dma t) :=
  .next h.macOp

theorem execAesGmacGen_keeps {op : Nat} {dma : Dma} (h : s.Keeps t) : Out.Keeps s (execAesGmacGen op dma t) :=
  .next (h.onOp (fun _ _ h₁ => h₁.checked (fun _ h₂ => h₂.withNonce (fun _ _ h₃ => h₃.macGen))))

theorem execAesGmacVer_keeps {op : Nat} {dma : Dma} (h : s.Keeps t) : Out.Keeps s (execAesGmacVer op dma t) :=
  .next (h.onOp (fun _ _ h₁ => h₁.checked (fun _ h₂ => h₂.withNonce (fun _ _ h₃ => h₃.macVer))))

theorem execTdesMacGen_keeps {op : Nat} {dma : Dma} (h : s.Keeps t) : Out.Keeps s (execTdesMacGen op dma t) :=
  .next h.macOp

theorem execTdesMacVer_keeps {op : Nat} {dma : Dma} (h : s.Keeps t) : Out.Keeps s (execTdesMacVer op dma t) :=
  .next h.macOp

theorem execTdesCmacGen_keeps {op : Nat} {dma : Dma} (h : s.Keeps t) : Out.Keeps s (execTdesCmacGen op dma t) :=
  .next h.macOp

theorem execTdesCmacVer_keeps {op : Nat} {dma : Dma} (h : s.Keeps t) : Out.Keeps s (execTdesCmacVer op dma t) :=
  .next h.macOp

theorem execMaskReseed_keeps (h : s.Keeps t) : Out.Keeps s (execMaskReseed t) := by
  unfold execMaskReseed
  refine .next ?_
  split
  · exact h.foldl fun _ _ h₁ => .ite h₁ (h₁.same rfl)
  · exact .ite h (.logOpen (h.same rfl))
  · exact h

theorem State.Keeps.planDraw {o : Op} {n : Nat} (h : s.Keeps t) : s.Keeps (State.planDraw o n t) := by
  unfold State.planDraw
  split
  · exact h.same rfl
  · exact h.drawLocal (fun _ _ _ h₁ => h₁.same rfl)

theorem State.Keeps.loadRoles {o : Op} {k : List KeyCopy → State → State} {l : List (Payment.Role × Nat)} {keys : List KeyCopy} (h : s.Keeps t)
    (hk : ∀ x u, s.Keeps u → s.Keeps (k x u)) : s.Keeps (State.loadRoles o k l keys t) := by
  induction l generalizing keys t with
  | nil => exact hk _ _ h
  | cons e l ih => exact h.rackAccess fun _ _ h₁ => .ite (ih h₁) h₁.denyUsage

theorem State.Keeps.loadRoute {o : Op} {route : Nat} {slot : Option Nat} {k : Option KeyCopy → State → State}
    (h : s.Keeps t) (hk : ∀ x0 u, s.Keeps u → s.Keeps (k x0 u)) :
    s.Keeps (State.loadRoute o route slot k t) := by
  unfold State.loadRoute
  split
  · exact hk _ _ h
  · exact h.rackAccess (fun _ _ h₁ => .ite (hk _ _ h₁) h₁.denyUsage)

theorem State.Keeps.probe {p : Nat} {tag : BitVec 16} {ident : BitVec 64} {slot : Nat} (h : s.Keeps t) :
    s.Keeps (State.probe p tag ident slot t).2 := by
  unfold State.probe
  dsimp only
  split
  · exact h.same rfl
  · exact h.same rfl

theorem State.Keeps.terminalKey {o : Op} {route : Nat} {params : Bytes} {bdk : Option KeyCopy} {k : Option KeyCopy → State → State}
    (h : s.Keeps t) (hk : ∀ x u, s.Keeps u → s.Keeps (k x u)) : s.Keeps (State.terminalKey o route params bdk k t) := by
  unfold State.terminalKey
  dsimp only
  split
  · exact hk _ _ h
  · next b =>
    refine .ite (hk _ _ h) ?_
    have hp := h.probe (p := o.pipeline) (tag := searchTag 0 o.tenant) (ident := searchIdent 0 params) (slot := b.slot)
    split
    · next e =>
      rw [e] at hp
      exact hk _ _ hp
    · next e =>
      rw [e] at hp
      exact hk _ _ (hp.same rfl)

theorem State.Keeps.planKeys {o : Op} {w : Swage} {dma : Dma} {params : Bytes} {slot : Option Nat} (h : s.Keeps t) :
    s.Keeps (State.planKeys o w dma params slot t) := by
  unfold State.planKeys
  refine h.loadRoles fun _ _ h₁ => h₁.loadRoute fun _ _ h₂ => h₂.checkLists fun _ h₃ => h₃.terminalKey fun _ _ h₄ => ?_
  exact .planDraw (h₄.same rfl)

theorem execPlanRun_keeps {op : Nat} {dma : Dma} (h : s.Keeps t) : Out.Keeps s (execPlanRun op dma t) := by
  unfold execPlanRun
  dsimp only
  exact .next (h.onOp (fun _ _ h₁ => by
      split
      · exact h₁
      · split
        · exact h₁.planDraw
        · split
          · exact h₁
          · split
            · exact h₁.readLists.modOp.planKeys
            · split
              · exact h₁.readLists.modOp
              · exact h₁.readLists.modOp.fail
              · exact h₁.readLists.modOp.planKeys))

theorem execPlanContextStart_keeps {op : Nat} (h : s.Keeps t) : Out.Keeps s (execPlanContextStart op t) := by
  unfold execPlanContextStart
  dsimp only
  exact .next (h.onOp (fun _ _ h₁ => by
      split
      · split
        · exact h₁
        · exact h₁.same rfl
      · exact h₁))

theorem State.Keeps.final {c : Ctx} (h : s.Keeps t) : s.Keeps (State.final c t) := by
  unfold State.final
  dsimp only
  split
  · exact h
  · split
    · exact .fail (h.same rfl)
    · exact .finish (.writeOut (h.same rfl))

theorem State.Keeps.slotStep {k : Nat} {c : Ctx} (h : s.Keeps t) : s.Keeps (State.slotStep k c t) := by
  unfold State.slotStep
  dsimp only
  split
  · exact h.same rfl
  · split
    · exact h.same rfl
    · exact .final (h.same rfl)

theorem execSwageSlot_keeps {pipe ctx : Fin 8} (h : s.Keeps t) : Out.Keeps s (execSwageSlot pipe ctx t) := by
  unfold execSwageSlot
  dsimp only
  refine .next ?_
  split
  · exact h
  · split
    · exact h.same rfl
    · exact .slotStep (h.same rfl)

theorem State.Keeps.refuseRecipe {op : Nat} {f : Nat × Refused} (h : s.Keeps t) : s.Keeps (State.refuseRecipe op f t) :=
  h.logRefusal.fail

theorem execPlanLoad_keeps {op : Nat} {dma : Dma} (h : s.Keeps t) : Out.Keeps s (execPlanLoad op dma t) := by
  unfold execPlanLoad
  dsimp only
  exact .next (h.onOp (fun _ _ h₁ => .ite h₁ (h₁.checked (fun _ h₂ => by
      split
      · exact h₂.fail
      · split
        · exact h₂.refuseRecipe
        · split
          · exact h₂.refuseRecipe
          · split
            · exact h₂.fail
            · exact .finish (h₂.same rfl)))))

theorem execPlanUnload_keeps {op : Nat} (h : s.Keeps t) : Out.Keeps s (execPlanUnload op t) :=
  .next (h.onOp (fun _ _ h₁ => .ite h₁ (.ite h₁.fail (.finish (h₁.same rfl)))))

theorem State.Keeps.lookup {op family tenant : Nat} {ident : BitVec 64} (h : s.Keeps t) :
    s.Keeps (State.lookup op family tenant ident t) := by
  unfold State.lookup
  dsimp only
  split
  · exact h.same rfl
  · exact h.same rfl

theorem execRouteLookup_keeps (h : s.Keeps t) : Out.Keeps s (execRouteLookup t) := by
  unfold execRouteLookup
  dsimp only
  refine .next ?_
  split
  · exact h
  · split
    · exact h
    · split
      · exact h.fail
      · split
        · exact h
        · exact .lookup (h.same rfl)

theorem execTerminalInsert_keeps {op : Nat} (h : s.Keeps t) : Out.Keeps s (execTerminalInsert op t) := by
  unfold execTerminalInsert
  dsimp only
  refine .next ?_
  split
  · exact h
  · split
    · exact h
    · exact h.same rfl

theorem State.Keeps.refuseBuild {cause entry : Nat} (h : s.Keeps t) : s.Keeps (State.refuseBuild cause entry t) :=
  h.same rfl

theorem execBuildGo_keeps {read : BuildRead} (h : s.Keeps t) : Out.Keeps s (execBuildGo read t) := by
  unfold execBuildGo
  dsimp only
  exact .next (h.onBar (fun _ h₁ => by
      exact .ite (h₁.same rfl) <|
        .ite (h₁.same rfl) <|
        .ite (h₁.same rfl) <|
        .ite (h₁.same rfl) <|
        by
            split
            · exact h₁.logAer.refuseBuild
            · split
              · exact h₁.same rfl
              · exact h₁.same rfl))

theorem execRouteFlip_keeps (h : s.Keeps t) : Out.Keeps s (execRouteFlip t) := by
  unfold execRouteFlip
  dsimp only
  refine .next ?_
  split
  · exact h
  · split
    · exact h
    · split
      · exact h.same rfl
      · exact h.same rfl

theorem execTrieReclaim_keeps (h : s.Keeps t) : Out.Keeps s (execTrieReclaim t) :=
  .next (h.same rfl)

theorem execTerminalSweep_keeps {pipe : Fin 8} (h : s.Keeps t) : Out.Keeps s (execTerminalSweep pipe t) :=
  .next (h.same rfl)

theorem State.Keeps.beginRehash {p : Nat} (h : s.Keeps t) : s.Keeps (State.beginRehash p t) :=
  h.request (fun _ _ h₁ => .ite (.logOpen (h₁.same rfl)) (h₁.same rfl)) fun _ => id

theorem execRehashStart_keeps {pipe : Fin 8} (h : s.Keeps t) : Out.Keeps s (execRehashStart pipe t) := by
  unfold execRehashStart
  dsimp only
  refine .next ?_
  split
  · exact h
  · split
    · exact h.beginRehash
    · exact .logOpen (h.same rfl)

theorem execRehashFlip_keeps {pipe : Fin 8} (h : s.Keeps t) : Out.Keeps s (execRehashFlip pipe t) :=
  .next (h.same rfl)

theorem execFlush_keeps {pipe : Fin 8} (h : s.Keeps t) : Out.Keeps s (execFlush pipe t) :=
  .next (h.onBar (fun _ h₁ => h₁.same rfl))

theorem execRehash_keeps {pipe : Fin 8} (h : s.Keeps t) : Out.Keeps s (execRehash pipe t) :=
  .next (h.onBar (fun _ h₁ => h₁.same rfl))

theorem execTermFlushGo_keeps {tenant : BitVec 12} (h : s.Keeps t) : Out.Keeps s (execTermFlushGo tenant t) :=
  .next (h.onBar (fun _ h₁ => h₁.flushTenant))

theorem execTermFlushDone_keeps (h : s.Keeps t) : Out.Keeps s (execTermFlushDone t) := by
  unfold execTermFlushDone
  dsimp only
  refine .next ?_
  split
  · exact h
  · exact h.same rfl

theorem State.Keeps.onJob {id opcode : Nat} {act : Op → State → State} (h : s.Keeps t) (hact : ∀ x0 u, s.Keeps u → s.Keeps (act x0 u)) :
    s.Keeps (State.onJob id opcode act t) :=
  h.onOp (fun _ _ h₁ => .ite (hact _ _ h₁) h₁)

theorem State.Keeps.badInput {o : Op} (h : s.Keeps t) : s.Keeps (State.badInput o t) :=
  h.fail

theorem State.Keeps.withBlob {o : Op} {dma : Dma} {kind useBit : Nat} {k : Bytes → State → State}
    (h : s.Keeps t) (hk : ∀ x0 u, s.Keeps u → s.Keeps (k x0 u)) :
    s.Keeps (State.withBlob o dma kind useBit k t) := by
  unfold State.withBlob
  dsimp only
  split
  · exact h.fail
  · split
    · exact h.badInput
    · split
      · exact h.badInput
      · split
        · exact h.badInput
        · split
          · exact h.fail
          · exact hk _ _ h

theorem State.Keeps.blinded {o : Op} {n : Nat} {k : Bytes → State → State} (h : s.Keeps t) (hk : ∀ x0 u, s.Keeps u → s.Keeps (k x0 u)) :
    s.Keeps (State.blinded o n k t) :=
  h.gated (fun _ _ h₁ => h₁.blind hk)

theorem State.Keeps.jobDone {o : Op} {dma : Dma} {out : Bytes} (h : s.Keeps t) : s.Keeps (State.jobDone o dma out t) :=
  h.laneDone

theorem State.Keeps.checkFault {o : Op} (h : s.Keeps t) : s.Keeps (State.checkFault o t) :=
  h.report.fail.raiseLevel

theorem State.Keeps.jobEnd {o : Op} {dma : Dma} {ok : Bool} {out : Bytes} (h : s.Keeps t) : s.Keeps (State.jobEnd o dma ok out t) := by
  unfold State.jobEnd
  split
  · exact h.jobDone
  · exact h.checkFault

theorem execRsaPrivate_keeps {op : Nat} {dma : Dma} (h : s.Keeps t) : Out.Keeps s (execRsaPrivate op dma t) :=
  .next (h.onJob (fun _ _ h₁ => h₁.checked (fun _ h₂ => h₂.withBlob (fun _ _ h₃ => .ite h₃.badInput (h₃.blinded (fun _ _ h₄ => h₄.jobEnd))))))

theorem State.Keeps.withRsaPub {o : Op} {dma : Dma} {least : Nat} {k : Nat → Nat → State → State}
    (h : s.Keeps t) (hk : ∀ x0 x1 u, s.Keeps u → s.Keeps (k x0 x1 u)) :
    s.Keeps (State.withRsaPub o dma least k t) := by
  unfold State.withRsaPub
  dsimp only
  split
  · exact h.badInput
  · exact hk _ _ _ h

theorem execRsaPublic_keeps {op : Nat} {dma : Dma} (h : s.Keeps t) : Out.Keeps s (execRsaPublic op dma t) :=
  .next (h.onJob (fun _ _ h₁ => h₁.checked (fun _ h₂ => h₂.withRsaPub (fun _ _ _ h₃ => .ite h₃.badInput h₃.jobDone))))

theorem execRsaSign_keeps {op : Nat} {dma : Dma} (h : s.Keeps t) : Out.Keeps s (execRsaSign op dma t) :=
  .next (h.onJob (fun _ _ h₁ => h₁.checked (fun _ h₂ => h₂.withBlob (fun _ _ h₃ => .ite (h₃.blinded (fun _ _ h₄ => h₄.jobEnd)) (h₃.drawLocal (fun _ _ _ h₄ => h₄.blind (fun _ _ h₅ => .ite (.jobDone (h₅.same rfl)) h₅.jobEnd)))))))

theorem State.Keeps.verdict {o : Op} {ok : Bool} (h : s.Keeps t) : s.Keeps (State.verdict o ok t) := by
  unfold State.verdict
  split
  · exact h.finish
  · exact h.fail

theorem execRsaVerify_keeps {op : Nat} {dma : Dma} (h : s.Keeps t) : Out.Keeps s (execRsaVerify op dma t) :=
  .next (h.onJob (fun _ _ h₁ => h₁.checked (fun _ h₂ => h₂.withRsaPub (fun _ _ _ h₃ => h₃.verdict))))

theorem execRsaOaepEncrypt_keeps {op : Nat} {dma : Dma} (h : s.Keeps t) : Out.Keeps s (execRsaOaepEncrypt op dma t) :=
  .next (h.onJob (fun _ _ h₁ => h₁.checked (fun _ h₂ => h₂.withRsaPub (fun _ _ _ h₃ => h₃.drawLocal (fun _ _ _ h₄ => h₄.jobDone)))))

theorem execRsaOaepDecrypt_keeps {op : Nat} {dma : Dma} (h : s.Keeps t) : Out.Keeps s (execRsaOaepDecrypt op dma t) := by
  unfold execRsaOaepDecrypt
  dsimp only
  exact .next (h.onJob (fun _ _ h₁ => h₁.checked (fun _ h₂ => h₂.withBlob (fun _ _ h₃ => h₃.blinded (fun _ _ h₄ => by
      split
      · exact h₄.fail
      · split
        · exact h₄.checkFault
        · split
          · exact h₄.jobDone
          · exact h₄.fail)))))

theorem State.Keeps.newPair {o : Op} {dma : Dma} {kind : Nat} {ok : Bool} {material pub : Bytes} (h : s.Keeps t) :
    s.Keeps (State.newPair o dma kind ok material pub t) :=
  h.jobEnd

theorem execRsaKeygen_keeps {op : Nat} {dma : Dma} (h : s.Keeps t) : Out.Keeps s (execRsaKeygen op dma t) :=
  .next (h.onJob (fun _ _ h₁ => h₁.checked (fun _ h₂ => h₂.gated (fun _ _ h₃ => h₃.blind (fun _ _ h₄ => h₄.newPair)))))

theorem execEcdsaSign_keeps {op : Nat} {dma : Dma} (h : s.Keeps t) : Out.Keeps s (execEcdsaSign op dma t) := by
  unfold execEcdsaSign
  dsimp only
  exact .next (h.onJob (fun _ _ h₁ => h₁.checked (fun _ h₂ => h₂.drawLocal (fun _ _ _ h₃ => h₃.blind (fun _ _ h₄ => by
      split
      · exact .askInst (h₄.same rfl)
      · exact .jobEnd (h₄.same rfl))))))

theorem execEcdsaVerify_keeps {op : Nat} {dma : Dma} (h : s.Keeps t) : Out.Keeps s (execEcdsaVerify op dma t) := by
  unfold execEcdsaVerify
  dsimp only
  exact .next (h.onJob (fun _ _ h₁ => h₁.checked (fun _ h₂ => by
      split
      · exact h₂.badInput
      · exact h₂.verdict)))

theorem execEcdh_keeps {op : Nat} {dma : Dma} (h : s.Keeps t) : Out.Keeps s (execEcdh op dma t) := by
  unfold execEcdh
  dsimp only
  exact .next (h.onJob (fun _ _ h₁ => h₁.checked (fun _ h₂ => by
      split
      · exact h₂.badInput
      · exact h₂.blinded (fun _ _ h₃ => by
            split
            · exact h₃.jobEnd
            · exact h₃.checkFault))))

theorem execEcPublic_keeps {op : Nat} {dma : Dma} (h : s.Keeps t) : Out.Keeps s (execEcPublic op dma t) :=
  .next (h.onJob (fun _ _ h₁ => h₁.checked (fun _ h₂ => h₂.blinded (fun _ _ h₃ => h₃.jobEnd))))

theorem execEddsaSign_keeps {op : Nat} {dma : Dma} (h : s.Keeps t) : Out.Keeps s (execEddsaSign op dma t) :=
  .next (h.onJob (fun _ _ h₁ => h₁.checked (fun _ h₂ => h₂.blinded (fun _ _ h₃ => h₃.jobEnd))))

theorem execEddsaVerify_keeps {op : Nat} {dma : Dma} (h : s.Keeps t) : Out.Keeps s (execEddsaVerify op dma t) := by
  unfold execEddsaVerify
  dsimp only
  exact .next (h.onJob (fun _ _ h₁ => h₁.checked (fun _ h₂ => by
      split
      · exact h₂.badInput
      · exact h₂.verdict)))

theorem execXdh_keeps {op : Nat} {dma : Dma} (h : s.Keeps t) : Out.Keeps s (execXdh op dma t) :=
  .next (h.onJob (fun _ _ h₁ => h₁.checked (fun _ h₂ => h₂.blinded (fun _ _ h₃ => .ite h₃.badInput h₃.jobDone))))

theorem execMlkemKeygen_keeps {op : Nat} {dma : Dma} (h : s.Keeps t) : Out.Keeps s (execMlkemKeygen op dma t) :=
  .next (h.onJob (fun _ _ h₁ => h₁.checked (fun _ h₂ => h₂.gated (fun _ _ h₃ => h₃.blind (fun _ _ h₄ => h₄.newPair)))))

theorem execMlkemEncaps_keeps {op : Nat} {dma : Dma} (h : s.Keeps t) : Out.Keeps s (execMlkemEncaps op dma t) :=
  .next (h.onJob (fun _ _ h₁ => h₁.checked (fun _ h₂ => .ite h₂.badInput (h₂.drawLocal (fun _ _ _ h₃ => h₃.blind (fun _ _ h₄ => h₄.jobDone))))))

theorem execMlkemDecaps_keeps {op : Nat} {dma : Dma} (h : s.Keeps t) : Out.Keeps s (execMlkemDecaps op dma t) :=
  .next (h.onJob (fun _ _ h₁ => h₁.checked (fun _ h₂ => h₂.withBlob (fun _ _ h₃ => h₃.blinded (fun _ _ h₄ => h₄.jobDone)))))

theorem execMldsaKeygen_keeps {op : Nat} {dma : Dma} (h : s.Keeps t) : Out.Keeps s (execMldsaKeygen op dma t) :=
  .next (h.onJob (fun _ _ h₁ => h₁.checked (fun _ h₂ => h₂.gated (fun _ _ h₃ => h₃.blind (fun _ _ h₄ => h₄.newPair)))))

theorem execMldsaSign_keeps {op : Nat} {dma : Dma} (h : s.Keeps t) : Out.Keeps s (execMldsaSign op dma t) :=
  .next (h.onJob (fun _ _ h₁ => h₁.checked (fun _ h₂ => h₂.withBlob (fun _ _ h₃ => .ite (h₃.blinded (fun _ _ h₄ => h₄.jobEnd)) (h₃.drawLocal (fun _ _ _ h₄ => h₄.blind (fun _ _ h₅ => h₅.jobEnd)))))))

theorem execMldsaVerify_keeps {op : Nat} {dma : Dma} (h : s.Keeps t) : Out.Keeps s (execMldsaVerify op dma t) :=
  .next (h.onJob (fun _ _ h₁ => h₁.checked (fun _ h₂ => h₂.verdict)))

theorem execYieldPoint_keeps {unit : Fin 4} (h : s.Keeps t) : Out.Keeps s (execYieldPoint unit t) := by
  unfold execYieldPoint
  dsimp only
  refine .next ?_
  split
  · exact h.same rfl
  · exact h.same rfl
  · exact h

theorem execPreemptedResume_keeps {unit : Fin 4} (h : s.Keeps t) : Out.Keeps s (execPreemptedResume unit t) := by
  unfold execPreemptedResume
  dsimp only
  refine .next ?_
  split
  · exact h.same rfl
  · exact h

theorem State.Keeps.onRandom {id opcode : Nat} {act : Op → State → State} (h : s.Keeps t) (hact : ∀ x0 u, s.Keeps u → s.Keeps (act x0 u)) :
    s.Keeps (State.onRandom id opcode act t) :=
  h.onOp (fun _ _ h₁ => h₁.inTurn (fun _ h₂ => hact _ _ h₂))

theorem execDrbgInstantiate_keeps {op : Nat} {dma : Dma} (h : s.Keeps t) : Out.Keeps s (execDrbgInstantiate op dma t) :=
  .next (h.onRandom (fun _ _ h₁ => .ite h₁.readLists.fail (h₁.readLists.gated (fun _ _ h₂ => .finish (h₂.same rfl)))))

theorem execDrbgGenerate_keeps {op : Nat} {dma : Dma} (h : s.Keeps t) : Out.Keeps s (execDrbgGenerate op dma t) :=
  .next (h.onRandom (fun _ _ h₁ => h₁.checked (fun _ h₂ => h₂.drawLocal (fun _ _ _ h₃ => h₃.writeOut.finish))))

theorem execDrbgReseed_keeps {op : Nat} {dma : Dma} (h : s.Keeps t) : Out.Keeps s (execDrbgReseed op dma t) :=
  .next (h.onRandom (fun _ _ h₁ => .ite h₁.readLists.fail (h₁.readLists.gated (fun _ _ h₂ => .finish (h₂.same rfl)))))

theorem execDrbgUninstantiate_keeps {op : Nat} (h : s.Keeps t) : Out.Keeps s (execDrbgUninstantiate op t) :=
  .next (h.onRandom (fun _ _ h₁ => .finish (h₁.same rfl)))

theorem execNoiseCellFailure_keeps {cell : Fin 32} {proportion : Bool} (h : s.Keeps t) :
    Out.Keeps s (execNoiseCellFailure cell proportion t) := by
  unfold execNoiseCellFailure
  dsimp only
  refine .next ?_
  split
  · exact h
  · split
    · split
      · exact h.cellFails.setBellows
      · exact h.cellFails.setBellows.startRetest
    · exact h.cellFails

theorem State.Keeps.release (h : s.Keeps t) : s.Keeps (State.release t) :=
  .foldl (h.same rfl) (fun _ _ h₁ => h₁.same rfl)

theorem State.Keeps.failHearth (h : s.Keeps t) : s.Keeps (State.failHearth t) := by
  unfold State.failHearth
  dsimp only
  split
  · exact .mbxAnswer (.ite (h.same rfl) h)
  · split
    · exact h.failEntropy
    · exact h
  · exact h.legacyNow
  · exact h

theorem State.Keeps.failRequest {r : SeedReq} (h : s.Keeps t) : s.Keeps (State.failRequest t r) := by
  unfold State.failRequest
  split
  · split
    · exact h.failEntropy
    · exact h
  · exact h.failHearth
  · exact h

theorem State.Keeps.failHeld (h : s.Keeps t) : s.Keeps (State.failHeld t) :=
  .foldl (h.same rfl) (fun _ _ h₁ => h₁.failRequest)

theorem execRetestEnd_keeps {passed : BitVec 32} (h : s.Keeps t) : Out.Keeps s (execRetestEnd passed t) := by
  unfold execRetestEnd
  dsimp only
  refine .next ?_
  split
  · exact h
  · split
    · exact .release (.setBellows (.upd (.foldl h (fun _ _ h₁ => h₁.returnCell)) rfl))
    · exact .failHeld (.setBellows (.upd (.foldl h (fun _ _ h₁ => h₁.returnCell)) rfl))

theorem execEntropyRetry_keeps (h : s.Keeps t) : Out.Keeps s (execEntropyRetry t) := by
  unfold execEntropyRetry
  refine .next ?_
  split
  · exact h.startRetest
  · exact h

theorem execSeedDelivery_keeps (h : s.Keeps t) : Out.Keeps s (execSeedDelivery t) := by
  unfold execSeedDelivery
  dsimp only
  refine .next ?_
  split
  · exact h
  · split
    · exact h
    · exact .deliver (h.same rfl) (fun _ _ h₁ => by
          split
          · exact h₁.same rfl
          · exact h₁.same rfl
          · exact h₁.same rfl
          · exact h₁.same rfl
          · exact h₁.same rfl)

theorem execStretchWindow_keeps (h : s.Keeps t) : Out.Keeps s (execStretchWindow t) :=
  .next (.ite (h.same rfl) (.log (h.same rfl)))

theorem execInternalReseed_keeps (h : s.Keeps t) : Out.Keeps s (execInternalReseed t) := by
  unfold execInternalReseed
  refine .next ?_
  split
  · exact h.same rfl
  · exact h

theorem State.Keeps.onRead {act : State → State} (h : s.Keeps t) (hact : ∀ u, s.Keeps u → s.Keeps (act u)) :
    s.Keeps (State.onRead act t) := by
  unfold State.onRead
  split
  · exact hact _ h
  · exact h.same rfl

theorem execSeedQueuePeakRead_keeps (h : s.Keeps t) : Out.Keeps s (execSeedQueuePeakRead t) :=
  .next (h.onRead (fun _ h₁ => h₁.same rfl))

theorem State.Keeps.modCore {c : Nat} {g : Core → Core} (h : s.Keeps t) : s.Keeps (State.modCore c g t) :=
  h.same rfl

theorem execServiceEntry_keeps (h : s.Keeps t) : Out.Keeps s (execServiceEntry t) := by
  unfold execServiceEntry
  dsimp only
  refine .next ?_
  split
  · split
    · exact h.same rfl
    · exact h
  · exact h

theorem execVaultmbxGo_keeps (h : s.Keeps t) : Out.Keeps s (execVaultmbxGo t) :=
  .next (h.onBar (fun _ h₁ => h₁.mbxGo))

theorem execRingDoorbell_keeps {bench : Bool} {filled : Fin 17} (h : s.Keeps t) : Out.Keeps s (execRingDoorbell bench filled t) :=
  .next h.ringTail

theorem execHbiHello_keeps (h : s.Keeps t) : Out.Keeps s (execHbiHello t) := by
  unfold execHbiHello
  refine .next ?_
  split
  · exact h.sendHello
  · exact h

theorem execHbiAck_keeps (h : s.Keeps t) : Out.Keeps s (execHbiAck t) := by
  unfold execHbiAck
  refine .next ?_
  split
  · exact h.answerHello
  · exact h

theorem execHbiHelloRetry_keeps (h : s.Keeps t) : Out.Keeps s (execHbiHelloRetry t) := by
  unfold execHbiHelloRetry
  refine .next ?_
  split
  · exact h.sendHello
  · exact h

theorem execWdogKick_keeps {core : Fin 5} {value : BitVec 32} (h : s.Keeps t) : Out.Keeps s (execWdogKick core value t) := by
  unfold execWdogKick
  refine .next ?_
  split
  · exact h.same rfl
  · exact h.logOpen

theorem State.Keeps.unclaimAll (h : s.Keeps t) : s.Keeps (State.unclaimAll t) :=
  .foldl h (fun _ _ h₁ => h₁.unclaim)

theorem State.Keeps.clearHearth (h : s.Keeps t) : s.Keeps (State.clearHearth t) :=
  .resetUnit (.upd (.unclaimAll (h.same rfl)) rfl)

theorem State.Keeps.mbxStops (h : s.Keeps t) : s.Keeps (State.mbxStops t) := by
  unfold State.mbxStops
  split
  · exact h.mbxUnavailable
  · exact h

theorem State.Keeps.failChannel (h : s.Keeps t) : s.Keeps (State.failChannel t) :=
  .foldl h (fun _ _ h₁ => h₁.fail)

theorem State.Keeps.stopHearth {cause : Nat} (h : s.Keeps t) : s.Keeps (State.stopHearth cause t) := by
  unfold State.stopHearth
  dsimp only
  split
  · exact h
  · split
    · exact .log (.clearHearth (.loseCeremony (.legacyAbort (.mbxStops (.failChannel (.endSession (.deviceEvent (h.same rfl))))))))
    · exact .clearHearth (.loseCeremony (.legacyAbort (.mbxStops (.failChannel (.endSession (.deviceEvent (h.same rfl)))))))

theorem execHearthWatchdogExpiry_keeps (h : s.Keeps t) : Out.Keeps s (execHearthWatchdogExpiry t) :=
  .next h.stopHearth

theorem execHearthRestart_keeps (h : s.Keeps t) : Out.Keeps s (execHearthRestart t) := by
  unfold execHearthRestart
  dsimp only
  refine .next ?_
  split
  · exact h
  · split
    · exact h
    · exact .logLost (.log (.deviceEvent (.upd (.ite (.handshake (.persistQuotas (h.same rfl))) (.persistQuotas (h.same rfl))) rfl)))

theorem State.Keeps.endBuild (h : s.Keeps t) : s.Keeps (State.endBuild t) := by
  unfold State.endBuild
  dsimp only
  split
  · exact h.same rfl
  · exact h

theorem State.Keeps.abandonStore (h : s.Keeps t) : s.Keeps (State.abandonStore t) := by
  unfold State.abandonStore
  dsimp only
  split
  · exact .log (h.same rfl)
  · exact h

theorem State.Keeps.stopBench {core : Nat} (h : s.Keeps t) : s.Keeps (State.stopBench core t) := by
  unfold State.stopBench
  refine .ite h ?_
  extract_lets _ a r _ b c d e
  have ha : s.Keeps a := .deviceEvent (h.same rfl)
  have hb : s.Keeps b := ha.same rfl
  have hc : s.Keeps c := .ite hb.endBuild hb
  have he : s.Keeps e := (hc.abandonStore.foldl fun _ _ h₁ => h₁.fail).resetUnit
  exact .ite he.log he

theorem execBenchWatchdogExpiry_keeps {core : Fin 4} (h : s.Keeps t) : Out.Keeps s (execBenchWatchdogExpiry core t) :=
  .next h.stopBench

theorem execBenchRestart_keeps (h : s.Keeps t) : Out.Keeps s (execBenchRestart t) := by
  unfold execBenchRestart
  dsimp only
  refine .next ?_
  split
  · exact h
  · split
    · exact h
    · exact .sendHello (.log (.startBench (.upd (h.endBuild) rfl)))

theorem State.Keeps.setHold {c : Nat} (h : s.Keeps t) : s.Keeps (State.setHold c t) :=
  h.modMpu

theorem State.Keeps.releaseUnit {bench : Bool} (h : s.Keeps t) : s.Keeps (State.releaseUnit bench t) :=
  .foldl h.modMpu (fun _ _ h₁ => h₁.unitStep)

theorem State.Keeps.clearHold {bench : Bool} (h : s.Keeps t) : s.Keeps (State.clearHold bench t) := by
  unfold State.clearHold
  dsimp only
  split
  · exact h
  · split
    · exact h.modMpu
    · exact h.releaseUnit

theorem State.Keeps.mpuCtrl {c : Nat} {v : BitVec 32} (h : s.Keeps t) : s.Keeps (State.mpuCtrl c v t) := by
  unfold State.mpuCtrl
  split
  · exact h.setHold
  · exact h.clearHold

theorem State.Keeps.logFault {c code : Nat} {addr : BitVec 64} (h : s.Keeps t) : s.Keeps (State.logFault c code addr t) :=
  h.log

theorem State.Keeps.enterFault {c code opnd : Nat} {addr : BitVec 64} (h : s.Keeps t) : s.Keeps (State.enterFault c code opnd addr t) := by
  unfold State.enterFault
  dsimp only
  split
  · split
    · exact h.logFault.stopBench
    · exact h.logFault.stopHearth
  · exact h.logFault.modCore

theorem State.Keeps.stop {c : Nat} {e : Stop × Nat} (h : s.Keeps t) : s.Keeps (State.stop c e t) := by
  unfold State.stop
  split
  · exact h
  · exact h.enterFault

theorem State.Keeps.coreRead {c : Nat} {a : BitVec 64} {n : Nat} (h : s.Keeps t) :
    Yields (fun r => s.Keeps r.2) (t.coreRead c a n) := h.dataRead

theorem State.Keeps.coreWrite {c : Nat} {a : BitVec 64} {n : Nat} {v : TWord} (h : s.Keeps t) :
    Yields (fun u => s.Keeps u) (t.coreWrite c a n v) := by
  unfold State.coreWrite
  dsimp only
  split
  · exact .error
  · next e =>
    have h₁ := h.dataWrite _ e
    exact .ite (.ok h₁.mpuCtrl) (.ok h₁)

theorem State.Keeps.push {c n : Nat} {v : TWord} (h : s.Keeps t) : Yields (fun u => s.Keeps u) (t.push c n v) :=
  Yields.any.bind fun _ _ => Yields.any.bind fun _ _ => Yields.any.bind fun _ _ => h.coreWrite.bind fun _ h₁ => .ok (h₁.same rfl)

theorem State.Keeps.place {c : Nat} {pc : BitVec 64} {n : Nat} {p : Spec} (h : s.Keeps t) :
    Yields (fun r => s.Keeps r.2) (t.place c pc n p) := by
  unfold State.place
  dsimp only
  split
  · exact .ok h
  · exact Yields.any.bind fun _ _ => Yields.any.bind fun _ _ => .ok h
  · exact Yields.any.bind fun _ _ => Yields.any.bind fun _ _ => Yields.any.bind fun _ _ => .ok (h.same rfl)
  · exact Yields.any.bind fun _ _ => Yields.any.bind fun _ _ => Yields.any.bind fun _ _ => .ok (h.same rfl)
  · exact Yields.any.bind fun _ _ => Yields.any.bind fun _ _ => Yields.any.bind fun _ _ => .ok h
  · exact Yields.any.bind fun _ _ => Yields.any.bind fun _ _ => Yields.any.bind fun _ _ => .ok h
  · exact Yields.any.bind fun _ _ => Yields.any.bind fun _ _ => Yields.any.bind fun _ _ => Yields.any.bind fun _ _ => .ok h
  · refine Yields.any.bind fun _ _ => Yields.any.bind fun _ _ => Yields.any.bind fun _ _ => h.coreRead.bind fun _ h₁ => ?_
    exact Yields.any.bind fun _ _ => Yields.any.bind fun _ _ => .ok h₁
  · exact Yields.any.bind fun _ _ => .ok h
  · exact Yields.any.bind fun _ _ => .ok h
  · exact .ok h
  · exact .ok h

theorem State.Keeps.dst {c : Nat} {pc : BitVec 64} {n k : Nat} {p : Spec} (h : s.Keeps t) :
    Yields (fun r => s.Keeps r.2) (t.dst c pc n k p) := h.place.ofOperand

theorem State.Keeps.readPlace {c n : Nat} {q : Place} (h : s.Keeps t) : Yields (fun r => s.Keeps r.2) (t.readPlace c n q) := by
  cases q with
  | mem a => exact h.coreRead
  | reg | imm | acc => exact .ok h

theorem State.Keeps.src {c : Nat} {pc : BitVec 64} {n k : Nat} {p : Spec} (h : s.Keeps t) :
    Yields (fun r => s.Keeps r.2) (t.src c pc n k p) :=
  .ofOperand (h.place.bind fun _ h₁ => h₁.readPlace.bind fun _ h₂ => Yields.any.bind fun _ _ => .ok h₂)

theorem State.Keeps.put {c n : Nat} {q : Place} {v : TWord} (h : s.Keeps t) : Yields (fun u => s.Keeps u) (t.put c n q v) := by
  refine .ofOperand ?_
  cases q with
  | mem a => exact h.coreWrite
  | imm => exact .error
  | reg | acc => exact .ite (.ok (h.same rfl)) .error

theorem State.Keeps.top {c n : Nat} (h : s.Keeps t) : Yields (fun r => s.Keeps r.2) (t.top c n) :=
  Yields.any.bind fun _ _ => Yields.any.bind fun _ _ => h.coreRead.bind fun _ h₁ => Yields.any.bind fun _ _ => .ok h₁

theorem State.Keeps.drop {c n : Nat} (h : s.Keeps t) : Yields (fun u => s.Keeps u) (t.drop c n) :=
  Yields.any.bind fun _ _ => Yields.any.bind fun _ _ => .ok (h.same rfl)

theorem State.Keeps.pop {c n : Nat} (h : s.Keeps t) : Yields (fun r => s.Keeps r.2) (t.pop c n) :=
  h.top.bind fun _ h₁ => h₁.drop.bind fun _ h₂ => .ok h₂

theorem State.Keeps.popCode {c : Nat} (h : s.Keeps t) : Yields (fun r => s.Keeps r.2) (Machine.popCode c t) := by
  unfold Machine.popCode
  split
  · exact .error
  · next e => exact .ite .error (.ite .error (.ok (h.pop _ e)))

theorem State.Keeps.target {c : Nat} {pc : BitVec 64} {p : Spec} (h : s.Keeps t) :
    Yields (fun r => s.Keeps r.2) (t.target c pc p) := by
  unfold State.target
  split
  · split
    · next e => exact .ok (h.dst _ e)
    · exact .error
    · exact .error
  · split
    · exact .error
    · next e => exact .ite .error (.ite .error (.ok (h.src _ e)))

theorem State.Keeps.macSrc {c : Nat} {pc : BitVec 64} {k : Nat} {p : Spec} (h : s.Keeps t) :
    Yields (fun r => s.Keeps r.2) (t.macSrc c pc k p) :=
  .ofOperand (h.place.bind fun _ h₁ => .ite .error (h₁.readPlace.bind fun _ h₂ => Yields.any.bind fun _ _ => .ok h₂))

/-- What an instruction makes of a state keeps what the state had. -/
def Insn.Sound (i : Insn) : Prop := ∀ (a : BitVec 64) (s t : State), s.Keeps t → Yields (fun r => s.Keeps r.1) (i.body a t)

theorem State.Keeps.runOnce {c : Nat} {i : Insn} {a : BitVec 64} (h : s.Keeps t) (hi : i.Sound) :
    Yields (fun r => s.Keeps r.1) (t.runOnce c i a) := by
  unfold State.runOnce
  split
  · exact .error
  · exact .ite (hi a s t h) .error

/-- An instruction whose body sets no PC. -/
theorem yields_plain {f : BitVec 64 → State → Z State} {a : BitVec 64} (h : Yields (fun u => s.Keeps u) (f a t)) :
    Yields (fun r => s.Keeps r.1) (plain f a t) := by
  unfold plain
  split
  · next e => exact .ok (h _ e)
  · exact .error

theorem plain_sound {i : Insn} {f : BitVec 64 → State → Z State} (hi : i.body = plain f)
    (hf : ∀ (a : BitVec 64) (s t : State), s.Keeps t → Yields (fun u => s.Keeps u) (f a t)) : i.Sound := by
  intro a s t h
  rw [hi]
  exact yields_plain (hf a s t h)

theorem unary_sound {op c : Nat} {sz : BitVec 8} {d a : Spec} {f : TWord → Z TWord} : (unary op c sz d a f).Sound := by
  intro _ _ _ h
  dsimp only [unary]
  exact yields_plain (h.dst.bind fun _ h₁ => h₁.src.bind fun _ h₂ => Yields.any.bind fun _ _ => h₂.put)

theorem alu3_sound {op c : Nat} {sz : BitVec 8} {d a b : Spec} {u : AddrUse} {readsC : Bool}
    {f : Nat → Nat → Nat → Nat → State → Z (AluOut × State)}
    (hf : ∀ n x y k (s t : State), s.Keeps t → Yields (fun r => s.Keeps r.2) (f n x y k t)) : (alu3 op c sz d a b u readsC f).Sound := by
  intro _ _ _ h
  dsimp only [alu3]
  exact yields_plain (h.dst.bind fun _ h₁ => h₁.src.bind fun _ h₂ => h₂.src.bind fun _ h₃ => Yields.any.bind fun _ _ =>
    (hf _ _ _ _ _ _ h₃).bind fun _ h₄ => .ite .error (h₄.put.bind fun _ h₅ => .ok (h₅.same rfl)))

theorem sumAlu_sound {f : Nat → Nat → Nat → Nat → AluOut} {useC : Bool} (n x y k : Nat) (s t : State) (h : s.Keeps t) :
    Yields (fun r => s.Keeps r.2) (sumAlu f useC n x y k t) := .ok h

theorem pureAlu_sound {f : Nat → Nat → Nat → Nat} (n x y k : Nat) (s t : State) (h : s.Keeps t) :
    Yields (fun r => s.Keeps r.2) (pureAlu f n x y k t) := .ok h

theorem divAlu_sound {f : Nat → Nat → Nat} (n x y k : Nat) (s t : State) (h : s.Keeps t) :
    Yields (fun r => s.Keeps r.2) (divAlu f n x y k t) := .ite .error (.ok h)

theorem shiftAlu_sound {kind : Nat} (n x y k : Nat) (s t : State) (h : s.Keeps t) :
    Yields (fun r => s.Keeps r.2) (shiftAlu kind n x y k t) := .ok (h.same rfl)

theorem compare_sound {op c : Nat} {sz : BitVec 8} {a b : Spec} {u : AddrUse} {f : Nat → Nat → Nat → AluOut} :
    (compare op c sz a b u f).Sound := by
  intro _ _ _ h
  dsimp only [compare]
  exact yields_plain (h.src.bind fun _ h₁ => h₁.src.bind fun _ h₂ => Yields.any.bind fun _ _ => .ite .error (.ok (h₂.same rfl)))

theorem nullary_sound {op : Nat} {sz : BitVec 8} {repeats : Bool} {f : State → Z State}
    (hf : ∀ (s t : State), s.Keeps t → Yields (fun u => s.Keeps u) (f t)) : (nullary op sz repeats f).Sound := by
  intro _ _ _ h
  dsimp only [nullary]
  exact yields_plain (hf _ _ h)

theorem lea_sound {op c : Nat} {sz : BitVec 8} {d m : Spec} {fromCode : Bool} {tag : BitVec 4} : (lea op c sz d m fromCode tag).Sound := by
  intro _ _ _ h
  dsimp only [lea]
  refine yields_plain (.ite .error (h.dst.bind fun _ h₁ => h₁.dst.bind fun ⟨p, _⟩ h₂ => ?_))
  cases p with
  | mem a => exact State.Keeps.put h₂
  | reg | imm | acc => exact .error

theorem State.Keeps.takeIrq {c line : Nat} (h : s.Keeps t) : s.Keeps (State.takeIrq c line t) := by
  unfold State.takeIrq
  extract_lets a x
  have ha : s.Keeps a := h.same rfl
  split
  · exact ha.stop
  · next e =>
    have hu := (ha.push.bind fun _ h₁ => h₁.push) _ e
    exact .ite (hu.same rfl) (hu.same rfl)

theorem execInterruptEntry_keeps {core : Fin 5} {line : BitVec 7} (h : s.Keeps t) : Out.Keeps s (execInterruptEntry core line t) :=
  .next (.ite h (.ite h.raiseLine h.takeIrq))

theorem State.Keeps.iterated {c : Nat} {r : Rep} (h : s.Keeps t) : s.Keeps (State.iterated c r t) := by
  unfold State.iterated
  dsimp only
  split
  · exact h.same rfl
  · exact h.same rfl

theorem State.Keeps.iterate {c : Nat} {i : Insn} {k : Nat} (h : s.Keeps t) (hi : i.Sound) : s.Keeps (State.iterate c i k t) := by
  induction k generalizing t with
  | zero => exact h
  | succ k ih =>
    unfold State.iterate
    split
    · exact h
    · refine .ite (h.same rfl) ?_
      split
      · exact h.stop
      · next r _ _ u _ e =>
        have hu : s.Keeps (u.iterated c r) := State.Keeps.ite (State.Keeps.same (h.runOnce hi _ e) rfl) (State.Keeps.same (h.runOnce hi _ e) rfl)
        exact .ite (hu.same rfl) (ih hu)

theorem State.Keeps.run {c : Nat} {i : Insn} (h : s.Keeps t) (hi : i.Sound) : s.Keeps (State.run c i t) := by
  unfold State.run
  refine .ite h ?_
  split
  · split
    · exact h.stop
    · exact .ite (h.iterate hi) h.enterFault
  · dsimp only
    split
    · exact h.stop
    · next e => exact State.Keeps.same (h.runOnce hi _ e) rfl
    · next e => exact State.Keeps.same (h.runOnce hi _ e) rfl

theorem execZwmNop_keeps {core : Fin 5} {sz : BitVec 8} (h : s.Keeps t) :
    Out.Keeps s (execZwmNop core sz t) :=
  .next (h.run (nullary_sound fun _ _ h₁ => .ok h₁))

theorem execMov_keeps {core : Fin 5} {sz : BitVec 8} {d a : Spec} (h : s.Keeps t) :
    Out.Keeps s (execMov core sz d a t) :=
  .next (h.run unary_sound)

theorem execLea_keeps {core : Fin 5} {sz : BitVec 8} {d m : Spec} (h : s.Keeps t) :
    Out.Keeps s (execLea core sz d m t) :=
  .next (h.run lea_sound)

theorem execPush_keeps {core : Fin 5} {sz : BitVec 8} {a : Spec} (h : s.Keeps t) :
    Out.Keeps s (execPush core sz a t) :=
  .next (h.run <| plain_sound rfl fun _ _ _ h₁ => (h₁.src.bind fun _ h₂ => h₂.push.ofOperand))

theorem execPop_keeps {core : Fin 5} {sz : BitVec 8} {d : Spec} (h : s.Keeps t) :
    Out.Keeps s (execPop core sz d t) :=
  .next (h.run <| plain_sound rfl fun _ _ _ h₁ => (h₁.dst.bind fun _ h₂ => h₂.top.ofOperand.bind fun _ h₃ =>
    h₃.put.bind fun _ h₄ => h₄.drop.ofOperand))

theorem execLeac_keeps {core : Fin 5} {sz : BitVec 8} {d m : Spec} (h : s.Keeps t) :
    Out.Keeps s (execLeac core sz d m t) :=
  .next (h.run lea_sound)

theorem execKill_keeps {core : Fin 5} {sz : BitVec 8} {d : Spec} (h : s.Keeps t) :
    Out.Keeps s (execKill core sz d t) :=
  .next (h.run <| plain_sound rfl fun _ _ _ h₁ => (h₁.dst.bind fun _ h₂ => h₂.put))

theorem execAdd_keeps {core : Fin 5} {sz : BitVec 8} {d a b : Spec} (h : s.Keeps t) :
    Out.Keeps s (execAdd core sz d a b t) :=
  .next (h.run (alu3_sound sumAlu_sound))

theorem execSub_keeps {core : Fin 5} {sz : BitVec 8} {d a b : Spec} (h : s.Keeps t) :
    Out.Keeps s (execSub core sz d a b t) :=
  .next (h.run (alu3_sound sumAlu_sound))

theorem execAdc_keeps {core : Fin 5} {sz : BitVec 8} {d a b : Spec} (h : s.Keeps t) :
    Out.Keeps s (execAdc core sz d a b t) :=
  .next (h.run (alu3_sound sumAlu_sound))

theorem execSbb_keeps {core : Fin 5} {sz : BitVec 8} {d a b : Spec} (h : s.Keeps t) :
    Out.Keeps s (execSbb core sz d a b t) :=
  .next (h.run (alu3_sound sumAlu_sound))

theorem execMul_keeps {core : Fin 5} {sz : BitVec 8} {d a b : Spec} (h : s.Keeps t) :
    Out.Keeps s (execMul core sz d a b t) :=
  .next (h.run (alu3_sound pureAlu_sound))

theorem execMulhu_keeps {core : Fin 5} {sz : BitVec 8} {d a b : Spec} (h : s.Keeps t) :
    Out.Keeps s (execMulhu core sz d a b t) :=
  .next (h.run (alu3_sound pureAlu_sound))

theorem execDivu_keeps {core : Fin 5} {sz : BitVec 8} {d a b : Spec} (h : s.Keeps t) :
    Out.Keeps s (execDivu core sz d a b t) :=
  .next (h.run (alu3_sound divAlu_sound))

theorem execRemu_keeps {core : Fin 5} {sz : BitVec 8} {d a b : Spec} (h : s.Keeps t) :
    Out.Keeps s (execRemu core sz d a b t) :=
  .next (h.run (alu3_sound divAlu_sound))

theorem execZwmAnd_keeps {core : Fin 5} {sz : BitVec 8} {d a b : Spec} (h : s.Keeps t) :
    Out.Keeps s (execZwmAnd core sz d a b t) :=
  .next (h.run (alu3_sound pureAlu_sound))

theorem execZwmOr_keeps {core : Fin 5} {sz : BitVec 8} {d a b : Spec} (h : s.Keeps t) :
    Out.Keeps s (execZwmOr core sz d a b t) :=
  .next (h.run (alu3_sound pureAlu_sound))

theorem execXor_keeps {core : Fin 5} {sz : BitVec 8} {d a b : Spec} (h : s.Keeps t) :
    Out.Keeps s (execXor core sz d a b t) :=
  .next (h.run (alu3_sound pureAlu_sound))

theorem execZwmNot_keeps {core : Fin 5} {sz : BitVec 8} {d a : Spec} (h : s.Keeps t) :
    Out.Keeps s (execZwmNot core sz d a t) :=
  .next (h.run <| plain_sound rfl fun _ _ _ h₁ => (h₁.dst.bind fun _ h₂ => h₂.src.bind fun _ h₃ =>
    Yields.any.bind fun _ _ => h₃.put.bind fun _ h₄ => .ok (h₄.same rfl)))

theorem execShl_keeps {core : Fin 5} {sz : BitVec 8} {d a b : Spec} (h : s.Keeps t) :
    Out.Keeps s (execShl core sz d a b t) :=
  .next (h.run (alu3_sound shiftAlu_sound))

theorem execShr_keeps {core : Fin 5} {sz : BitVec 8} {d a b : Spec} (h : s.Keeps t) :
    Out.Keeps s (execShr core sz d a b t) :=
  .next (h.run (alu3_sound shiftAlu_sound))

theorem execSar_keeps {core : Fin 5} {sz : BitVec 8} {d a b : Spec} (h : s.Keeps t) :
    Out.Keeps s (execSar core sz d a b t) :=
  .next (h.run (alu3_sound shiftAlu_sound))

theorem execRol_keeps {core : Fin 5} {sz : BitVec 8} {d a b : Spec} (h : s.Keeps t) :
    Out.Keeps s (execRol core sz d a b t) :=
  .next (h.run (alu3_sound shiftAlu_sound))

theorem execCmp_keeps {core : Fin 5} {sz : BitVec 8} {a b : Spec} (h : s.Keeps t) :
    Out.Keeps s (execCmp core sz a b t) :=
  .next (h.run compare_sound)

theorem execTest_keeps {core : Fin 5} {sz : BitVec 8} {a b : Spec} (h : s.Keeps t) :
    Out.Keeps s (execTest core sz a b t) :=
  .next (h.run compare_sound)

theorem execSelCc_keeps {core : Fin 5} {sz : BitVec 8} {d a b : Spec} (h : s.Keeps t) :
    Out.Keeps s (execSelCc core sz d a b t) :=
  .next (h.run <| plain_sound rfl fun _ _ _ h₁ => (h₁.dst.bind fun _ h₂ => h₂.src.bind fun _ h₃ => h₃.src.bind fun _ h₄ =>
    Yields.any.bind fun _ _ => h₄.put))

theorem execJmp_keeps {core : Fin 5} {sz : BitVec 8} {a : Spec} (h : s.Keeps t) :
    Out.Keeps s (execJmp core sz a t) :=
  .next (h.run fun _ _ _ h₁ => h₁.target.bind fun _ h₂ => .ok h₂)

theorem execBCc_keeps {core : Fin 5} {sz : BitVec 8} {m : Spec} (h : s.Keeps t) :
    Out.Keeps s (execBCc core sz m t) :=
  .next (h.run fun _ _ _ h₁ => .ite .error (.ite .error (h₁.target.bind fun _ h₂ => .ok h₂)))

theorem execCall_keeps {core : Fin 5} {sz : BitVec 8} {a : Spec} (h : s.Keeps t) :
    Out.Keeps s (execCall core sz a t) :=
  .next (h.run fun _ _ _ h₁ => h₁.target.bind fun _ h₂ => h₂.push.ofOperand.bind fun _ h₃ => .ok h₃)

theorem execRet_keeps {core : Fin 5} {sz : BitVec 8} (h : s.Keeps t) :
    Out.Keeps s (execRet core sz t) :=
  .next (h.run fun _ _ _ h₁ => h₁.popCode.bind fun _ h₂ => .ok h₂)

theorem State.Keeps.answerService {status detail len : Nat} (h : s.Keeps t) : s.Keeps (State.answerService status detail len t) := by
  unfold State.answerService
  dsimp only
  split
  · exact h.mbxAnswer
  · exact h.finish
  · exact h.ringSend
  · exact h.same rfl
  · exact h

theorem execRets_keeps {core : Fin 5} {sz : BitVec 8} {scrub : Fin 501} (h : s.Keeps t) : Out.Keeps s (execRets core sz scrub t) :=
  .next (.ite h (h.run <| plain_sound rfl fun _ _ _ h₁ => (.ite .error (.ite .error (.ok (h₁.answerService.same rfl))))))

theorem execIret_keeps {core : Fin 5} {sz : BitVec 8} (h : s.Keeps t) :
    Out.Keeps s (execIret core sz t) :=
  .next (h.run fun _ _ _ h₁ => h₁.popCode.bind fun _ h₂ => h₂.pop.ofOperand.bind fun _ h₃ => .ite .error (.ok (h₃.same rfl)))

theorem execMacd_keeps {core : Fin 5} {sz : BitVec 8} {a b : Spec} (h : s.Keeps t) :
    Out.Keeps s (execMacd core sz a b t) :=
  .next (h.run <| plain_sound rfl fun _ _ _ h₁ => (h₁.macSrc.bind fun _ h₂ => h₂.macSrc.bind fun _ h₃ =>
    Yields.any.bind fun _ _ => .ok (h₃.same rfl)))

theorem execAccz_keeps {core : Fin 5} {sz : BitVec 8} (h : s.Keeps t) :
    Out.Keeps s (execAccz core sz t) :=
  .next (h.run (nullary_sound fun _ _ h₁ => .ok (h₁.same rfl)))

theorem execAccadd_keeps {core : Fin 5} {sz : BitVec 8} {a : Spec} (h : s.Keeps t) :
    Out.Keeps s (execAccadd core sz a t) :=
  .next (h.run <| plain_sound rfl fun _ _ _ h₁ => (h₁.src.bind fun _ h₂ => Yields.any.bind fun _ _ => .ok (h₂.same rfl)))

theorem execAccst_keeps {core : Fin 5} {sz : BitVec 8} {d : Spec} (h : s.Keeps t) :
    Out.Keeps s (execAccst core sz d t) :=
  .next (h.run <| plain_sound rfl fun _ _ _ h₁ => (h₁.dst.bind fun _ h₂ => Yields.any.bind fun _ _ => h₂.put.bind fun _ h₃ =>
    .ok (h₃.same rfl)))

theorem State.Keeps.prefix_ {c op : Nat} {f : SizeForm} {sz : BitVec 8} {rep : State → Z Rep} (h : s.Keeps t) :
    s.Keeps (State.prefix_ c op f sz rep t) := by
  unfold State.prefix_
  extract_lets i
  have hi : i.Sound := fun _ _ _ h₁ => Yields.any.bind fun _ _ => .ok (h₁.same rfl)
  refine .ite (h.run hi) ?_
  split
  · next e => exact h.runOnce hi _ e
  · exact h.stop

theorem execZwmRep_keeps {core : Fin 5} {n : BitVec 8} (h : s.Keeps t) : Out.Keeps s (execZwmRep core n t) := .next h.prefix_

theorem execRepi_keeps {core : Fin 5} {sz : BitVec 8} (h : s.Keeps t) : Out.Keeps s (execRepi core sz t) := .next h.prefix_

theorem execTagof_keeps {core : Fin 5} {sz : BitVec 8} {d a : Spec} (h : s.Keeps t) :
    Out.Keeps s (execTagof core sz d a t) :=
  .next (h.run <| plain_sound rfl fun _ _ _ h₁ => (h₁.dst.bind fun _ h₂ => h₂.dst.bind fun _ h₃ =>
    h₃.readPlace.ofOperand.bind fun _ h₄ => h₄.put))

theorem execCls_keeps {core : Fin 5} {sz : BitVec 8} {d a : Spec} (h : s.Keeps t) :
    Out.Keeps s (execCls core sz d a t) :=
  .next (h.run unary_sound)

theorem execDcls_keeps {core : Fin 5} {sz : BitVec 8} {d a : Spec} (h : s.Keeps t) :
    Out.Keeps s (execDcls core sz d a t) :=
  .next (h.run unary_sound)

theorem execRdctl_keeps {core : Fin 5} {sz : BitVec 8} {d a : Spec} (h : s.Keeps t) : Out.Keeps s (execRdctl core sz d a t) := by
  refine .next (h.run <| plain_sound rfl fun _ _ _ h₁ => ?_)
  dsimp only
  split
  · exact .error
  · exact h₁.dst.bind fun _ h₂ => h₂.put

theorem execEi_keeps {core : Fin 5} {sz : BitVec 8} (h : s.Keeps t) :
    Out.Keeps s (execEi core sz t) :=
  .next (h.run (nullary_sound fun _ _ h₁ => .ok (h₁.same rfl)))

theorem execDi_keeps {core : Fin 5} {sz : BitVec 8} (h : s.Keeps t) :
    Out.Keeps s (execDi core sz t) :=
  .next (h.run (nullary_sound fun _ _ h₁ => .ok (h₁.same rfl)))

theorem execWfi_keeps {core : Fin 5} {sz : BitVec 8} (h : s.Keeps t) :
    Out.Keeps s (execWfi core sz t) :=
  .next (h.run (nullary_sound fun _ _ h₁ => .ok (h₁.same rfl)))

theorem execFend_keeps {core : Fin 5} {sz : BitVec 8} (h : s.Keeps t) :
    Out.Keeps s (execFend core sz t) :=
  .next (h.run (nullary_sound fun _ _ h₁ => .ok (h₁.same rfl)))

theorem execHold_keeps {core : Fin 5} (h : s.Keeps t) : Out.Keeps s (execHold core t) :=
  .next h.setHold

theorem execHoldAck_keeps {bench : Bool} (h : s.Keeps t) : Out.Keeps s (execHoldAck bench t) :=
  .next h.modMpu

theorem execHoldClear_keeps {bench : Bool} (h : s.Keeps t) : Out.Keeps s (execHoldClear bench t) :=
  .next h.clearHold

theorem execLineSet_keeps {bench : Bool} {value : BitVec 32} (h : s.Keeps t) : Out.Keeps s (execLineSet bench value t) :=
  .next h.mpuEdit

theorem State.Keeps.endRun {bench : Bool} (h : s.Keeps t) : s.Keeps (State.endRun bench t) := by
  unfold State.endRun
  dsimp only
  split
  · exact h
  · split
    · exact h.modMpu.releaseUnit
    · exact h.modMpu

theorem execLineSetDone_keeps {bench : Bool} (h : s.Keeps t) : Out.Keeps s (execLineSetDone bench t) :=
  .next h.endRun

theorem execMpuRuleWrite_keeps {bench : Bool} {offset : BitVec 16} {value : BitVec 32} (h : s.Keeps t) :
    Out.Keeps s (execMpuRuleWrite bench offset value t) :=
  .next h.mpuEdit

theorem execDebugAccess_keeps {req : DebugReq} (h : s.Keeps t) : Out.Keeps s (execDebugAccess req t) := by
  unfold execDebugAccess
  dsimp only
  exact .next (by
      split
      · split
        · exact .modMpu (h.same rfl)
        · exact .debugStep (h.same rfl)
      · exact .debugStep (h.same rfl))

theorem addBatRec_length_le (r : BatRec) {l : List BatRec} (h : l.length ≤ 64) : (addBatRec r l).length ≤ 64 := by
  unfold addBatRec
  split
  · next hroom => exact (List.length_append ..).trans_le hroom
  · simp

/-- R442: the buffer takes a record while it has room, and else its last record is rewritten. -/
theorem State.Keeps.batteryTrip {n : Nat} {detail : BitVec 8} (h : s.Keeps t) : s.Keeps (State.batteryTrip n detail t) :=
  h.newBatRecs rfl fun hb => addBatRec_length_le _ hb

theorem State.Keeps.trip {n detail : Nat} (h : s.Keeps t) : s.Keeps (State.trip n detail t) := by
  unfold State.trip
  split
  · exact h.alarm
  · split
    · exact h.batteryTrip
    · exact h

theorem execShield_keeps {sector : Fin 8} {lines : BitVec 64} (h : s.Keeps t) : Out.Keeps s (execShield sector lines t) := by
  unfold execShield
  dsimp only
  refine .next ?_
  split
  · exact h.same rfl
  · split
    · exact h.same rfl
    · split
      · exact .trip (h.same rfl)
      · exact h.same rfl

theorem execEnvelopeMismatch_keeps {loopB mismatch : Bool} (h : s.Keeps t) : Out.Keeps s (execEnvelopeMismatch loopB mismatch t) :=
  .next (.ite h (.ite (h.same rfl) (.ite (h.same rfl) (.trip (h.same rfl)))))

theorem execLid_keeps (h : s.Keeps t) : Out.Keeps s (execLid t) := by
  unfold execLid
  dsimp only
  refine .next ?_
  split
  · exact h.same rfl
  · split
    · exact h.same rfl
    · exact .trip (h.same rfl)

theorem execZeroize_keeps (h : s.Keeps t) : Out.Keeps s (execZeroize t) := by
  unfold execZeroize
  dsimp only
  refine .next ?_
  split
  · exact h.same rfl
  · split
    · exact h.same rfl
    · exact .alarm (h.same rfl)

theorem execTempReading_keeps {tj : Int} (h : s.Keeps t) : Out.Keeps s (execTempReading tj t) := by
  refine .next ?_
  extract_lets low high tripL tripH _ a b c d
  have hc : s.Keeps c := h.same rfl
  have hd : s.Keeps d := .ite hc.alarm hc
  exact .ite hd.alarm hd

theorem execVbatReading_keeps {mv : BitVec 12} (h : s.Keeps t) : Out.Keeps s (execVbatReading mv t) :=
  .next (.ite h (.ite (.alarm (h.same rfl)) (h.same rfl)))

theorem State.Keeps.endQuench (h : s.Keeps t) : s.Keeps (State.endQuench t) := by
  unfold State.endQuench
  dsimp only
  split
  · exact .chipResetTo (.flushStore (.loseCeremony (.upd (.pme (.deviceEvent (.upd (by
        split
        · exact .logResponse (.clearHearth (.upd (h.failAll.endCeremony.mbxStops.legacyAbort) rfl))
        · exact .clearHearth (.upd (h.failAll.endCeremony.mbxStops.legacyAbort) rfl)) rfl))) rfl)))
  · exact .pme (.deviceEvent (.upd (by
        split
        · exact .logResponse (.clearHearth (.upd (h.failAll.endCeremony.mbxStops.legacyAbort) rfl))
        · exact .clearHearth (.upd (h.failAll.endCeremony.mbxStops.legacyAbort) rfl)) rfl))

theorem execQuenchComplete_keeps (h : s.Keeps t) : Out.Keeps s (execQuenchComplete t) := by
  unfold execQuenchComplete
  refine .next ?_
  split
  · exact h.endQuench
  · exact h

theorem execGroupClose_keeps (h : s.Keeps t) : Out.Keeps s (execGroupClose t) := by
  unfold execGroupClose
  dsimp only
  refine .next ?_
  split
  · exact h
  · exact h.same rfl

theorem State.Keeps.service {code : Nat} {act : State → State} (h : s.Keeps t) (hact : ∀ u, s.Keeps u → s.Keeps (act u)) :
    s.Keeps (State.service code act t) := by
  unfold State.service
  split
  · exact hact _ h
  · exact h

theorem execClassSet_keeps (h : s.Keeps t) : Out.Keeps s (execClassSet t) := by
  unfold execClassSet
  dsimp only
  exact .next (h.service (fun _ h₁ => by
      split
      · exact h₁.mbxConflict
      · split
        · exact h₁.mbxAnswer
        · exact .mbxAnswer (.log (h₁.same rfl))))

theorem execClassPersist_keeps (h : s.Keeps t) : Out.Keeps s (execClassPersist t) := by
  unfold execClassPersist
  dsimp only
  refine .next ?_
  split
  · exact h.same rfl
  · exact h

theorem execFuseDisable_keeps (h : s.Keeps t) : Out.Keeps s (execFuseDisable t) := by
  unfold execFuseDisable
  dsimp only
  exact .next (h.service (fun _ h₁ => by
      split
      · exact h₁.mbxConflict
      · split
        · exact h₁.mbxConflict
        · split
          · exact h₁.mbxAnswer
          · exact .mbxAnswer (.log (h₁.same rfl))))

theorem State.Keeps.cerRefuse (h : s.Keeps t) : s.Keeps (State.cerRefuse t) :=
  h.logOpen.mbxConflict

theorem State.Keeps.cerBadField {off : Nat} (h : s.Keeps t) : s.Keeps (State.cerBadField off t) :=
  h.mbxAnswer

theorem State.Keeps.refuseExport {f : Nat × Nat × Option Nat} (h : s.Keeps t) : s.Keeps (State.refuseExport f t) := by
  unfold State.refuseExport
  dsimp only
  exact .mbxAnswer (by
      split
      · exact h.slotFault
      · exact h)

theorem State.Keeps.hearthDraw {n : Nat} {k : Bytes → State → State} {no : State → State}
    (h : s.Keeps t) (hk : ∀ x0 u, s.Keeps u → s.Keeps (k x0 u)) (hno : ∀ u, s.Keeps u → s.Keeps (no u)) :
    s.Keeps (State.hearthDraw n k no t) :=
  h.request (fun _ _ h₁ => hk _ _ (h₁.same rfl)) hno

theorem State.Keeps.hearthDrawJob {n : Nat} {rate : Nat × Bool} {k : Bytes → State → State} {no : State → State}
    (h : s.Keeps t) (hk : ∀ x0 u, s.Keeps u → s.Keeps (k x0 u)) (hno : ∀ u, s.Keeps u → s.Keeps (no u)) :
    s.Keeps (State.hearthDrawJob n rate k no t) := by
  unfold State.hearthDrawJob
  split
  · exact h.hearthJob (fun _ h₁ => h₁.hearthDraw hk hno)
  · exact h.hearthDraw (fun _ _ h₁ => h₁) hno

theorem State.Keeps.openCeremony {b : Bytes} {kind t' : Nat} {r : Bytes} (h : s.Keeps t) : s.Keeps (State.openCeremony b kind t' r t) :=
  .mbxAnswer (.log (h.same rfl))

theorem execCerOpen_keeps (h : s.Keeps t) : Out.Keeps s (execCerOpen t) := by
  unfold execCerOpen
  dsimp only
  exact .next (h.service (fun _ h₁ => by
      exact .ite h₁.cerRefuse <|
        .ite h₁.cerBadField <|
        .ite h₁.cerRefuse <|
        .ite h₁.cerBadField <|
        .ite h₁.cerBadField <|
        by
            split
            · exact h₁.cerBadField
            · split
              · exact h₁.refuseExport
              · exact h₁.hearthDrawJob (fun _ _ h₂ => h₂.openCeremony) (fun _ h₂ => h₂.mbxAnswer)))

theorem State.Keeps.stepResult {x : Session} {result : Nat} (h : s.Keeps t) : s.Keeps (State.stepResult x result t) := by
  unfold State.stepResult
  dsimp only
  split
  · exact h.endSession
  · split
    · exact h.endSession.log.mbxAnswer
    · exact h.endSession.log

theorem State.Keeps.cardStatus {x : Session} {status detail : Nat} (h : s.Keeps t) : s.Keeps (State.cardStatus x status detail t) := by
  unfold State.cardStatus
  extract_lets a b
  have ha : s.Keeps a := h.endSession
  split
  · exact ha.fail
  · have hb : s.Keeps b := by
      unfold b
      split
      · exact ha.log
      · exact ha
    exact .ite hb.mbxAnswer hb

theorem State.Keeps.cardProtocol {x : Session} {cause sw : Nat} (h : s.Keeps t) : s.Keeps (State.cardProtocol x cause sw t) :=
  .cardStatus (h.same rfl)

theorem State.Keeps.startSession {x : Session} (h : s.Keeps t) : s.Keeps (State.startSession x t) := by
  unfold State.startSession
  split
  · exact h.cardStatus
  · split
    · exact h.cardProtocol
    · exact h.same rfl

theorem State.Keeps.openWindow (h : s.Keeps t) : s.Keeps (State.openWindow t) := by
  unfold State.openWindow
  split
  · split
    · exact h
    · exact h.same rfl
  · exact h

theorem State.Keeps.beginStep {b : Bytes} {c : Ceremony} {r : Bytes} (h : s.Keeps t) : s.Keeps (State.beginStep b c r t) := by
  unfold State.beginStep
  dsimp only
  split
  · exact .stepResult (h.same rfl)
  · split
    · exact .openWindow (.startSession (h.same rfl))
    · exact .startSession (h.same rfl)

theorem execCerStep_keeps (h : s.Keeps t) : Out.Keeps s (execCerStep t) := by
  unfold execCerStep
  dsimp only
  exact .next (h.service (fun _ h₁ => by
      split
      · exact h₁.cerRefuse
      · split
        · exact h₁
        · split
          · exact h₁.cerRefuse
          · split
            · exact h₁.mbxConflict
            · split
              · exact .cerBadField (h₁.same rfl)
              · exact h₁.hearthDrawJob (fun _ _ h₂ => h₂.beginStep) (fun _ h₂ => .mbxAnswer (h₂.same rfl))))

theorem State.Keeps.unbind {t' f : Nat} (h : s.Keeps t) : s.Keeps (State.unbind t' f t) := by
  unfold State.unbind
  dsimp only
  split
  · exact .signal (h.same rfl)
  · exact h.same rfl

theorem State.Keeps.unbindTo {t' : Nat} {new : BitVec 256} (h : s.Keeps t) : s.Keeps (State.unbindTo t' new t) :=
  .foldl h (fun _ _ h₁ => h₁.unbind)

theorem State.Keeps.dropTries {t' : Nat} (h : s.Keeps t) : s.Keeps (State.dropTries t' t) :=
  h.same rfl

theorem State.Keeps.putArea {t' e : Nat} {b : Bytes} (h : s.Keeps t) : s.Keeps (State.putArea t' e b t) :=
  h.same rfl

theorem State.Keeps.eraseTenant {t' : Nat} (h : s.Keeps t) : s.Keeps (State.eraseTenant t' t) :=
  .putArea (.foldl h (fun _ _ h₁ => h₁.eraseSlot))

theorem State.Keeps.cerDone {c : Ceremony} {outcome : Nat} {body : Bytes} (h : s.Keeps t) : s.Keeps (State.cerDone c outcome body t) :=
  .mbxAnswer (.log (h.same rfl))

theorem State.Keeps.freeSets (h : s.Keeps t) : s.Keeps (State.freeSets t) := by
  unfold State.freeSets
  dsimp only
  split
  · exact h
  · exact h.same rfl

theorem State.Keeps.writeTenant {t' : Nat} {e : Tenant} (h : s.Keeps t) : s.Keeps (State.writeTenant t' e t) :=
  h.same rfl

theorem State.Keeps.writeSet {n : Nat} {x : CustSet} (h : s.Keeps t) : s.Keeps (State.writeSet n x t) :=
  h.same rfl

theorem State.Keeps.resealArea {t' e e' : Nat} (h : s.Keeps t) : s.Keeps (State.resealArea t' e e' t) := by
  unfold State.resealArea
  dsimp only
  split
  · exact h.same rfl
  · exact h.same rfl

theorem State.Keeps.commitTenant {c : Ceremony} (h : s.Keeps t) : s.Keeps (State.commitTenant c t) := by
  unfold State.commitTenant
  dsimp only
  split
  · exact h.eraseTenant.dropTries.unbindTo.writeTenant.freeSets.cerDone
  · split
    · exact h.cerDone
    · exact .cerDone (.freeSets (.ite (.writeTenant (.ite (h.same rfl) h)) (.writeTenant (.resealArea (.unbindTo (.ite (h.same rfl) h))))))

theorem State.Keeps.commitComponents {c : Ceremony} (h : s.Keeps t) : s.Keeps (State.commitComponents c t) := by
  unfold State.commitComponents
  refine .ite h.cerDone ?_
  split
  · exact h.cerDone
  · split
    · exact h.cerDone
    · next e => exact (h.of_reserveSlots e).placeSlot.cerDone

theorem State.Keeps.commitExport {c : Ceremony} {rnd : Bytes} (h : s.Keeps t) : s.Keeps (State.commitExport c rnd t) := by
  unfold State.commitExport
  dsimp only
  split
  · exact h.refuseExport
  · split
    · exact h.cerDone
    · exact h.cerDone

theorem State.Keeps.enterReady (h : s.Keeps t) : s.Keeps (State.enterReady t) :=
  .setChip (h.same rfl)

theorem State.Keeps.commitUnlock {c : Ceremony} (h : s.Keeps t) : s.Keeps (State.commitUnlock c t) := by
  unfold State.commitUnlock
  split
  · exact h.mbxConflict
  · exact .cerDone (.enterReady (h.same rfl))

theorem State.Keeps.sealRegion (h : s.Keeps t) : s.Keeps (State.sealRegion t) :=
  h.same rfl

theorem State.Keeps.commitRoot {c : Ceremony} {r : Bytes} (h : s.Keeps t) : s.Keeps (State.commitRoot c r t) := by
  unfold State.commitRoot
  dsimp only
  split
  · exact h.mbxConflict
  · exact .cerDone (.enterReady (.bootMask (.forgetLmk (.clearLatch (.writeTenant (.writeSet (.sealRegion (.ite (.wroteRegion (.upd (.foldl h (fun _ _ h₁ => h₁.unbindTo)) rfl)) (.upd (.foldl h (fun _ _ h₁ => h₁.unbindTo)) rfl)))))))))

theorem BitsKept.or {n : Nat} (a b : BitVec n) : BitsKept a (a ||| b) := fun i h => by simp [h]

theorem State.keeps_blow (s : State) (unlocked : Bool) (target bit : Nat) :
    s.Keeps { s with life := s.life.blow unlocked target bit } := by
  unfold Life.blow
  dsimp only
  split
  · exact ⟨rfl, id, id, id, fun _ => id, BitsKept.or _ _, fun _ => id⟩
  · split
    · exact ⟨rfl, id, id, id, fun _ => id, fun _ => id, BitsKept.or _ _⟩
    · split
      · exact ⟨rfl, id, id, id, BitsKept.or _ _, fun _ => id, fun _ => id⟩
      · exact ⟨rfl, id, id, id, BitsKept.or _ _, fun _ => id, fun _ => id⟩

/-- R447: a transition blows bits and clears none. -/
theorem State.Keeps.transition {target bit : Nat} (h : s.Keeps t) : s.Keeps (State.transition target bit t) :=
  .chipReset (.markedWipe (h.trans (State.keeps_blow t (t.lifeCode = 2) target bit)))

theorem State.Keeps.sdReady {refuse : Nat → State → State} {format : Bool} {card : SdCard} {k : State → State}
    (h : s.Keeps t) (hrefuse : ∀ x0 u, s.Keeps u → s.Keeps (refuse x0 u)) (hk : ∀ u, s.Keeps u → s.Keeps (k u)) :
    s.Keeps (State.sdReady refuse format card k t) := by
  unfold State.sdReady
  dsimp only
  split
  · exact hrefuse _ _ h
  · split
    · exact hk _ h
    · split
      · exact hrefuse _ _ h
      · split
        · exact hk _ (h.same rfl)
        · split
          · exact hk _ (h.same rfl)
          · exact hrefuse _ _ (h.same rfl)

theorem State.Keeps.archiveFault {cause state : Nat} (h : s.Keeps t) : s.Keeps (State.archiveFault cause state t) :=
  .mbxAnswer (h.same rfl)

theorem State.Keeps.onArchive {card : SdCard} {sd : SdRead} {k : Bytes → State → State}
    (h : s.Keeps t) (hk : ∀ x0 u, s.Keeps u → s.Keeps (k x0 u)) :
    s.Keeps (State.onArchive card sd k t) := by
  unfold State.onArchive
  exact .ite h <|
    .ite h.mbxAnswer <|
    .ite h <|
    .ite h.mbxAnswer <|
    h.sdReady (fun _ _ h₁ => h₁.archiveFault) (fun _ h₁ => by
        split
        · exact .mbxAnswer (h₁.same rfl)
        · exact h₁.archiveFault
        · exact hk _ _ h₁)

theorem State.Keeps.placeSection {pick : Nat → Bool} {same : Bool} {sec : Nat × Bytes} (h : s.Keeps t) :
    s.Keeps (State.placeSection pick same sec t) := by
  unfold State.placeSection
  exact .ite (.ite (.wroteRegion (.upd h.unbindTo rfl)) h) <| .ite h.writeSet <| .ite (.ite (h.placeSlot.same rfl) h) <|
    .ite (h.same rfl) h

theorem State.Keeps.of_restore {c : Ceremony} {raw : Bytes} {n : Nat} (h : s.Keeps t) (e : t.restore c raw = .ok (n, u)) : s.Keeps u := by
  have h₁ : ∀ pick same secs, s.Keeps (List.foldl (fun s e => State.placeSection pick same e s) t secs) :=
    fun _ _ _ => h.foldl fun _ _ h₂ => h₂.placeSection
  unfold State.restore at e
  dsimp only at e
  split at e
  · cases e
  split at e
  · cases e
  split at e
  · cases e
  cases e
  exact .ite (h₁ _ _ _).freeSets (.wroteRegion ((h₁ _ _ _).freeSets.same rfl))

theorem State.Keeps.commit {c : Ceremony} {card : SdCard} {sd : SdRead} (h : s.Keeps t) : s.Keeps (State.commit c card sd t) := by
  unfold State.commit
  dsimp only
  exact .ite h.commitTenant <|
    .ite h.commitComponents <|
    .ite (h.hearthDraw (fun _ _ h₁ => h₁.commitExport) (fun _ h₁ => h₁.mbxAnswer)) <|
    .ite h.commitUnlock <|
    .ite (h.hearthDraw (fun _ _ h₁ => h₁.commitRoot) (fun _ h₁ => h₁.mbxAnswer)) <|
    .ite (.ite h.mbxConflict (.ite h.cerDone.transition (.cerDone (h.same rfl)))) <|
    h.onArchive (fun _ _ h₁ => by
        split
        · exact h₁.cerDone
        · next e => exact (h₁.of_restore e).cerDone)

theorem execCerCommit_keeps {sd : ArchiveSeen} (h : s.Keeps t) : Out.Keeps s (execCerCommit sd t) := by
  unfold execCerCommit
  exact .next (h.service (fun _ h₁ => by
      split
      · exact h₁.cerRefuse
      · split
        · exact h₁.cerRefuse
        · split
          · exact h₁.mbxAnswer
          · exact h₁.commit))

theorem execCerAbort_keeps (h : s.Keeps t) : Out.Keeps s (execCerAbort t) := by
  unfold execCerAbort
  exact .next (h.service (fun _ h₁ => by
      split
      · exact h₁.cerRefuse
      · split
        · exact h₁.endCeremony.mbxAnswer
        · exact h₁.cerRefuse))

theorem execCerStatus_keeps (h : s.Keeps t) : Out.Keeps s (execCerStatus t) := by
  unfold execCerStatus
  dsimp only
  exact .next (h.service (fun _ h₁ => by
      split
      · exact h₁.mbxAnswer
      · exact h₁.mbxAnswer))

theorem execSetRead_keeps (h : s.Keeps t) : Out.Keeps s (execSetRead t) :=
  .next (h.service (fun _ h₁ => .ite h₁.mbxConflict (.ite h₁.mbxAnswer h₁.mbxAnswer)))

theorem execAttestMac_keeps (h : s.Keeps t) : Out.Keeps s (execAttestMac t) :=
  .next (h.service (fun _ h₁ => .ite h₁.mbxConflict h₁.mbxAnswer))

theorem execCeremonyWindowExpiry_keeps (h : s.Keeps t) : Out.Keeps s (execCeremonyWindowExpiry t) := by
  unfold execCeremonyWindowExpiry
  refine .next ?_
  split
  · split
    · exact h.endCeremony
    · exact h
  · exact h

theorem execCeremonyIdleLimit_keeps (h : s.Keeps t) : Out.Keeps s (execCeremonyIdleLimit t) := by
  unfold execCeremonyIdleLimit
  refine .next ?_
  split
  · split
    · exact h.endCeremony
    · exact h
  · exact h

theorem execCardInserted_keeps {port : Fin 5} (h : s.Keeps t) : Out.Keeps s (execCardInserted port t) := by
  unfold execCardInserted
  dsimp only
  refine .next ?_
  split
  · split
    · exact h
    · exact h.same rfl
  · split
    · exact h
    · exact .pme (h.same rfl)

theorem execCardRemoved_keeps {port : Fin 5} {busy : Option Bool} (h : s.Keeps t) : Out.Keeps s (execCardRemoved port busy t) := by
  unfold execCardRemoved
  dsimp only
  refine .next ?_
  split
  · split
    · exact h
    · split
      · exact .fail (h.same rfl)
      · exact h.same rfl
  · split
    · exact h
    · exact .pme (.modPort (by
          split
          · split
            · exact h.cardStatus
            · exact h
          · exact h))

theorem State.Keeps.onPort {n : Nat} {phase : PortPhase} {act : Session → State → State}
    (h : s.Keeps t) (hact : ∀ x0 u, s.Keeps u → s.Keeps (act x0 u)) :
    s.Keeps (State.onPort n phase act t) := by
  unfold State.onPort
  split
  · split
    · exact hact _ _ h
    · exact h
  · exact h

theorem State.Keeps.setRate {n ta1 : Nat} (h : s.Keeps t) : s.Keeps (State.setRate n ta1 t) :=
  h.same rfl

theorem State.Keeps.takeAtr {x : Session} {n : Nat} {b : Bytes} {a : Atr} (h : s.Keeps t) : s.Keeps (State.takeAtr x n b a t) := by
  unfold State.takeAtr
  dsimp only
  split
  · split
    · exact .setRate (h.same rfl)
    · exact .cardProtocol (h.same rfl)
  · exact h.same rfl

theorem execAtrReceived_keeps {port : Fin 4} {atr : Bytes} (h : s.Keeps t) : Out.Keeps s (execAtrReceived port atr t) := by
  unfold execAtrReceived
  dsimp only
  exact .next (h.onPort (fun _ _ h₁ => by
      split
      · exact h₁.cardProtocol
      · split
        · exact h₁.cardProtocol
        · split
          · exact h₁.takeAtr
          · split
            · exact h₁.same rfl
            · exact h₁.cardProtocol))

theorem execAtrTimeout_keeps {port : Fin 4} (h : s.Keeps t) : Out.Keeps s (execAtrTimeout port t) := by
  unfold execAtrTimeout
  exact .next (h.onPort (fun _ _ h₁ => by
      split
      · exact h₁.same rfl
      · exact h₁.cardProtocol))

theorem execPpsResponse_keeps {port : Fin 4} {bytes : Bytes} (h : s.Keeps t) : Out.Keeps s (execPpsResponse port bytes t) :=
  .next (h.onPort (fun _ _ h₁ => .ite h₁.setRate (.ite (h₁.same rfl) h₁.cardProtocol)))

theorem State.Keeps.sendApdu {n : Nat} {apdu : Bytes} (h : s.Keeps t) : s.Keeps (State.sendApdu n apdu t) :=
  h.same rfl

theorem State.Keeps.cardReady {x : Session} (h : s.Keeps t) : s.Keeps (State.cardReady x t) :=
  .sendApdu (h.same rfl)

theorem State.Keeps.cardIdentity {x : Session} {data : Bytes} (h : s.Keeps t) : s.Keeps (State.cardIdentity x data t) := by
  unfold State.cardIdentity
  dsimp only
  split
  · split
    · exact h.endSession.finish
    · exact h.cardProtocol
  · split
    · exact h.endSession
    · split
      · exact h.stepResult
      · exact .sendApdu (h.same rfl)

theorem State.Keeps.sendSecure {x : Session} {phase : SesPhase} {ins p1 : Byte} {data : Bytes} (h : s.Keeps t) :
    s.Keeps (State.sendSecure x phase ins p1 data t) :=
  .sendApdu (h.same rfl)

theorem State.Keeps.cardAuth {x : Session} {c : Ceremony} {data : Bytes} (h : s.Keeps t) : s.Keeps (State.cardAuth x c data t) := by
  unfold State.cardAuth
  split
  · exact h.stepResult
  · split
    · exact h.stepResult
    · exact h.sendSecure

theorem State.Keeps.acceptStep {x : Session} {c : Ceremony} (h : s.Keeps t) : s.Keeps (State.acceptStep x c t) :=
  .stepResult (h.same rfl)

theorem State.Keeps.cardAction {x : Session} {c : Ceremony} (h : s.Keeps t) : s.Keeps (State.cardAction x c t) := by
  unfold State.cardAction
  split
  · exact h.sendSecure
  · split
    · exact h.endSession.refuseExport
    · split
      · exact h.sendSecure
      · split
        · exact h.acceptStep
        · exact h.sendSecure

theorem State.Keeps.cardDone {x : Session} {c : Ceremony} {data : Bytes} (h : s.Keeps t) : s.Keeps (State.cardDone x c data t) := by
  unfold State.cardDone
  dsimp only
  exact .ite (by
        split
        · split
          · exact h.acceptStep
          · exact h.stepResult
        · exact h.stepResult) <|
    .ite h.acceptStep <|
    .ite h.acceptStep <|
    .ite (.ite h.acceptStep h.stepResult) <|
    .ite h.acceptStep <|
    h.stepResult

theorem State.Keeps.cardSecure {x : Session} {c : Ceremony} {data sw : Bytes} (h : s.Keeps t) :
    s.Keeps (State.cardSecure x c data sw t) := by
  unfold State.cardSecure
  dsimp only
  split
  · exact h.stepResult
  · split
    · split
      · exact h.cardAction
      · split
        · exact h.stepResult
        · split
          · exact h.stepResult
          · exact h.cardProtocol
    · split
      · exact h.cardDone
      · exact h.stepResult

theorem State.Keeps.cardResponse {x : Session} {rsp : Bytes} (h : s.Keeps t) : s.Keeps (State.cardResponse x rsp t) := by
  unfold State.cardResponse
  dsimp only
  split
  · exact h
  · split
    · exact .sendApdu (h.same rfl)
    · exact h.cardProtocol
  · split
    · exact h.cardIdentity
    · exact h.cardProtocol
  · split
    · split
      · exact h.cardAuth
      · exact h.stepResult
    · exact h.endSession
  · split
    · exact h.cardSecure
    · exact h.endSession
  · split
    · exact h.cardSecure
    · exact h.endSession

/-- What a received block leads to keeps what `s` had. -/
def T1.Keeps (s : State) : T1 → Prop
  | .more u | .ready u | .response _ u => s.Keeps u
  | .failed => True

theorem T1.keeps_recover {n : Nat} {again : State → State} (h : s.Keeps t) (ha : ∀ u, s.Keeps u → s.Keeps (again u)) :
    (T1.ofRecover (t.recover n again)).Keeps s := by
  unfold State.recover
  dsimp only
  split
  · trivial
  · split
    · exact ha _ (h.same rfl)
    · exact h.same rfl

theorem T1.keeps_sendR {n err : Nat} (h : s.Keeps t) : (T1.ofRecover (t.recover n (State.sendR n err))).Keeps s :=
  T1.keeps_recover h fun _ h₁ => h₁.same rfl

theorem State.keeps_takeI {n pcb : Nat} {inf : Bytes} (h : s.Keeps t) : (t.takeI n pcb inf).Keeps s := by
  unfold State.takeI
  dsimp only
  split
  · exact T1.keeps_sendR h
  · split
    · exact h.same rfl
    · exact h.same rfl

theorem State.keeps_takeR {n pcb : Nat} (h : s.Keeps t) : (t.takeR n pcb).Keeps s := by
  unfold State.takeR
  dsimp only
  split
  · exact h.same rfl
  · exact T1.keeps_recover h fun _ h₁ => h₁.same rfl

theorem State.Keeps.sendCard {n : Nat} {b : Bytes} (h : s.Keeps t) : s.Keeps (State.sendCard n b t) := h.same rfl

theorem State.keeps_takeS {n pcb : Nat} {inf : Bytes} (h : s.Keeps t) : (t.takeS n pcb inf).Keeps s := by
  unfold State.takeS
  dsimp only
  split
  · exact State.Keeps.sendCard (n := n) h.modPort
  split
  · exact State.Keeps.sendCard (n := n) h.modPort
  split
  · exact State.Keeps.modPort h
  split
  · split
    · exact State.Keeps.sendApdu (n := n) h.modPort
    · exact State.Keeps.same h rfl
  · exact T1.keeps_sendR h

theorem State.keeps_takeBlock {n : Nat} {b : Bytes} {parity : Bool} (h : s.Keeps t) : (t.takeBlock n b parity).Keeps s := by
  unfold State.takeBlock
  split
  · exact T1.keeps_sendR h
  · repeat' split
    · exact State.keeps_takeI h
    · exact State.keeps_takeR h
    · exact State.keeps_takeS h

theorem State.Keeps.carryOn {x : Session} {a : T1} (h : s.Keeps t) (ha : a.Keeps s) : s.Keeps (State.carryOn x t a) := by
  cases a with
  | more u => exact ha
  | ready u => exact State.Keeps.cardReady ha
  | response b u => exact State.Keeps.cardResponse ha
  | failed => exact h.cardProtocol

theorem execT1BlockReceived_keeps {port : Fin 4} {block : Bytes} {parity : Bool} (h : s.Keeps t) :
    Out.Keeps s (execT1BlockReceived port block parity t) :=
  .next (h.onPort fun _ _ h₁ => h₁.carryOn (State.keeps_takeBlock h₁))

theorem execT1Timeout_keeps {port : Fin 4} (h : s.Keeps t) : Out.Keeps s (execT1Timeout port t) :=
  .next (h.onPort fun _ _ h₁ => h₁.carryOn (T1.keeps_sendR h₁))

theorem execApduTimeout_keeps {port : Fin 4} (h : s.Keeps t) : Out.Keeps s (execApduTimeout port t) :=
  .next (h.onPort (fun _ _ h₁ => h₁.cardProtocol))

theorem execCardClockStop_keeps {port : Fin 4} (h : s.Keeps t) : Out.Keeps s (execCardClockStop port t) := by
  unfold execCardClockStop
  dsimp only
  refine .next ?_
  split
  · exact h.same rfl
  · exact h

theorem State.Keeps.sdProtocol {id cause state : Nat} (h : s.Keeps t) : s.Keeps (State.sdProtocol id cause state t) :=
  .fail (h.same rfl)

theorem State.Keeps.onSd {id opcode : Nat} {hearth format : Bool} {card : SdCard} {early : Op → State → Option (Nat × Nat)} {k : Op → State → State}
    (h : s.Keeps t) (hk : ∀ x0 u, s.Keeps u → s.Keeps (k x0 u)) :
    s.Keeps (State.onSd id opcode hearth format card early k t) := by
  unfold State.onSd
  exact h.onOp (fun _ _ h₁ => by
      exact .ite h₁ <|
        .ite h₁.fail <|
        .ite h₁ <|
        .ite h₁.fail <|
        by
            split
            · exact h₁.fail
            · split
              · exact h₁.fail
              · exact h₁.sdReady (fun _ _ h₂ => h₂.sdProtocol) (fun _ h₂ => hk _ _ h₂))

theorem State.Keeps.sdEnd {id : Nat} {how : SdEnd} {k : State → State} (h : s.Keeps t) (hk : ∀ u, s.Keeps u → s.Keeps (k u)) :
    s.Keeps (State.sdEnd id how k t) := by
  unfold State.sdEnd
  split
  · exact hk _ h
  · exact h.sdProtocol

theorem State.Keeps.writeArchive {id : Nat} {h' : ArcHead} {payload tag : Bytes} {how : SdEnd} (h : s.Keeps t) :
    s.Keeps (State.writeArchive id h' payload tag how t) := by
  unfold State.writeArchive
  dsimp only
  split
  · exact h.fail
  · exact .sdEnd (h.same rfl) (fun _ h₁ => .finish (h₁.same rfl))

theorem State.Keeps.tenantArchive {o : Op} {btk : BitVec 256} {how : SdEnd} {r : Bytes} (h : s.Keeps t) :
    s.Keeps (State.tenantArchive o btk how r t) := by
  unfold State.tenantArchive
  dsimp only
  split
  · exact h.slotFault.fail
  · exact h.writeArchive

theorem execArchiveWrite_keeps {op : Nat} {card : SdCard} {how : SdEnd} (h : s.Keeps t) : Out.Keeps s (execArchiveWrite op card how t) := by
  unfold execArchiveWrite
  exact .next (h.onSd (fun _ _ h₁ => by
      split
      · exact h₁.gated (fun _ _ h₂ => h₂.tenantArchive)
      · exact h₁))

theorem execArchiveRecorder_keeps {op : Nat} {card : SdCard} {how : SdEnd} (h : s.Keeps t) :
    Out.Keeps s (execArchiveRecorder op card how t) :=
  .next (h.onSd (fun _ _ h₁ => h₁.writeArchive))

theorem execArchiveStatus_keeps {op : Nat} {card : SdCard} {how : SdEnd} (h : s.Keeps t) : Out.Keeps s (execArchiveStatus op card how t) :=
  .next (h.onSd (fun _ _ h₁ => h₁.sdEnd (fun _ h₂ => h₂.finish)))

theorem execArchiveFormat_keeps {op : Nat} {card : SdCard} {how : SdEnd} (h : s.Keeps t) : Out.Keeps s (execArchiveFormat op card how t) :=
  .next (h.onSd (fun _ _ h₁ => h₁.gated (fun _ _ h₂ => .sdEnd (h₂.same rfl) (fun _ h₃ => .finish (h₃.same rfl)))))

theorem execCardIdentify_keeps {op : Nat} (h : s.Keeps t) : Out.Keeps s (execCardIdentify op t) :=
  .next (h.onOp (fun _ _ h₁ => .ite h₁ (.ite h₁.fail h₁.startSession)))

theorem execSdCrcError_keeps (h : s.Keeps t) : Out.Keeps s (execSdCrcError t) := by
  unfold execSdCrcError
  dsimp only
  refine .next ?_
  split
  · exact h
  · split
    · exact h
    · split
      · exact h.same rfl
      · split
        · exact .sdProtocol (h.same rfl)
        · exact h.same rfl

theorem execSdBusyTimeout_keeps (h : s.Keeps t) : Out.Keeps s (execSdBusyTimeout t) := by
  unfold execSdBusyTimeout
  refine .next ?_
  split
  · exact h
  · split
    · exact h.sdProtocol
    · exact h

theorem execLcStatus_keeps {jtag : Bool} (h : s.Keeps t) : Out.Keeps s (execLcStatus jtag t) := by
  unfold execLcStatus
  refine .next ?_
  split
  · exact h.same rfl
  · exact h.service (fun _ h₁ => h₁.mbxAnswer)

theorem State.Keeps.lcService {code : Nat} {act : State → State} (h : s.Keeps t) (hact : ∀ u, s.Keeps u → s.Keeps (act u)) :
    s.Keeps (State.lcService code act t) :=
  h.service (fun _ h₁ => .ite h₁.mbxConflict (hact _ h₁))

theorem execLcAdvance_keeps {jtag : Option (BitVec 8)} (h : s.Keeps t) : Out.Keeps s (execLcAdvance jtag t) := by
  unfold execLcAdvance
  dsimp only
  refine .next ?_
  split
  · split
    · exact .transition (h.same rfl)
    · exact h.same rfl
  · exact h.lcService (fun _ h₁ => by
        split
        · exact h₁.mbxAnswer.transition
        · exact h₁.mbxConflict)

theorem execToken_keeps {t' : BitVec 8} {value : BitVec 256} (h : s.Keeps t) : Out.Keeps s (execToken t' value t) := by
  unfold execToken
  dsimp only
  refine .next ?_
  split
  · exact .transition (h.same rfl)
  · exact h.same rfl

theorem State.Keeps.authNonce {scope : BitVec 32} {answer : Bytes → State → State} {refuse : Nat → State → State}
    (h : s.Keeps t) (hanswer : ∀ x0 u, s.Keeps u → s.Keeps (answer x0 u)) (hrefuse : ∀ x0 u, s.Keeps u → s.Keeps (refuse x0 u)) :
    s.Keeps (State.authNonce scope answer refuse t) := by
  unfold State.authNonce
  dsimp only
  split
  · exact hrefuse _ _ h
  · exact h.hearthDraw (fun _ _ h₁ => hanswer _ _ (h₁.same rfl)) (fun _ h₁ => hrefuse _ _ h₁)

theorem execAuthNonce_keeps {jtag : Option (BitVec 32)} (h : s.Keeps t) : Out.Keeps s (execAuthNonce jtag t) := by
  unfold execAuthNonce
  refine .next ?_
  split
  · exact h.authNonce (fun _ _ h₁ => h₁.same rfl) (fun _ _ h₁ => h₁.same rfl)
  · exact h.lcService (fun _ h₁ => h₁.authNonce (fun _ _ h₂ => h₂.mbxAnswer) (fun _ _ h₂ => .ite h₂.mbxConflict h₂.mbxAnswer))

theorem State.Keeps.authResponse {code : Bytes} {answer : Bytes → State → State} {refuse : Nat → State → State}
    (h : s.Keeps t) (hanswer : ∀ x0 u, s.Keeps u → s.Keeps (answer x0 u)) (hrefuse : ∀ x0 u, s.Keeps u → s.Keeps (refuse x0 u)) :
    s.Keeps (State.authResponse code answer refuse t) := by
  unfold State.authResponse
  dsimp only
  split
  · exact hrefuse _ _ h
  · split
    · split
      · exact .transition (hanswer _ _ (h.same rfl))
      · exact hanswer _ _ (h.same rfl)
    · exact hrefuse _ _ (.log (h.same rfl))

theorem execAuthResponse_keeps {jtag : Option (BitVec 384)} (h : s.Keeps t) : Out.Keeps s (execAuthResponse jtag t) := by
  unfold execAuthResponse
  refine .next ?_
  split
  · exact h.authResponse (fun _ _ h₁ => h₁.same rfl) (fun _ _ h₁ => h₁.same rfl)
  · exact h.lcService (fun _ h₁ => h₁.authResponse (fun _ _ h₂ => h₂.mbxAnswer) (fun _ _ h₂ => .ite h₂.mbxConflict h₂.mbxAnswer))

theorem execNonceExpiry_keeps (h : s.Keeps t) : Out.Keeps s (execNonceExpiry t) :=
  .next (h.same rfl)

theorem State.Keeps.lcBadField {off : Nat} (h : s.Keeps t) : s.Keeps (State.lcBadField off t) :=
  h.mbxAnswer

theorem execOwnerKeyFuse_keeps (h : s.Keeps t) : Out.Keeps s (execOwnerKeyFuse t) :=
  .next (h.lcService (fun _ h₁ => .ite h₁.mbxConflict (.ite h₁.lcBadField (.mbxAnswer (h₁.same rfl)))))

theorem execImageBegin_keeps (h : s.Keeps t) : Out.Keeps s (execImageBegin t) := by
  unfold execImageBegin
  dsimp only
  exact .next (h.lcService (fun _ h₁ => by
      split
      · exact h₁.mbxConflict
      · split
        · exact h₁.lcBadField
        · exact .mbxAnswer (h₁.same rfl)))

theorem execImageData_keeps (h : s.Keeps t) : Out.Keeps s (execImageData t) := by
  unfold execImageData
  dsimp only
  exact .next (h.lcService (fun _ h₁ => by
      split
      · exact h₁.mbxConflict
      · split
        · exact h₁.lcBadField
        · split
          · exact h₁.lcBadField
          · exact .mbxAnswer (h₁.same rfl)))

theorem execImageCommit_keeps (h : s.Keeps t) : Out.Keeps s (execImageCommit t) := by
  unfold execImageCommit
  dsimp only
  exact .next (h.lcService (fun _ h₁ => by
      split
      · exact h₁.mbxConflict
      · split
        · exact h₁.mbxConflict
        · exact h₁.hearthJob (fun _ h₂ => by
              split
              · exact .mbxAnswer (h₂.same rfl)
              · exact .mbxAnswer (.logImage (h₂.same rfl)))))

theorem execDeviceRestart_keeps (h : s.Keeps t) : Out.Keeps s (execDeviceRestart t) :=
  .next (h.lcService (fun _ h₁ => .ite h₁.mbxConflict h₁.mbxAnswer.chipReset))

theorem execIdcode_keeps (h : s.Keeps t) : Out.Keeps s (execIdcode t) :=
  .next (h.same rfl)

theorem execSample_keeps {levels : BitVec 147} (h : s.Keeps t) : Out.Keeps s (execSample levels t) := by
  unfold execSample
  dsimp only
  refine .next ?_
  split
  · exact h.same rfl
  · exact h.same rfl

theorem execExtest_keeps {levels : BitVec 147} (h : s.Keeps t) : Out.Keeps s (execExtest levels t) := by
  unfold execExtest
  dsimp only
  refine .next ?_
  split
  · exact h.same rfl
  · exact h.same rfl

theorem execBypass_keeps (h : s.Keeps t) : Out.Keeps s (execBypass t) :=
  .next (h.same rfl)

theorem execAvsWindow_keeps {use : Vector (Fin 101) 4} (h : s.Keeps t) : Out.Keeps s (execAvsWindow use t) := by
  unfold execAvsWindow
  dsimp only
  refine .next ?_
  split
  · exact h
  · split
    · exact h.setTarget
    · split
      · exact h.setTarget
      · exact h

theorem State.Keeps.avsAbandon (h : s.Keeps t) : s.Keeps (State.avsAbandon t) :=
  .logOpen (h.same rfl)

theorem execAvsReadback_keeps {mv : Option (BitVec 10)} (h : s.Keeps t) : Out.Keeps s (execAvsReadback mv t) := by
  unfold execAvsReadback
  refine .next (.ite h ?_)
  split
  · exact h.avsAbandon
  · exact .ite (.logOpen (h.same rfl)) (h.same rfl)

theorem execAvsAlert_keeps {status : Option (BitVec 16)} (h : s.Keeps t) : Out.Keeps s (execAvsAlert status t) := by
  unfold execAvsAlert
  dsimp only
  refine .next ?_
  split
  · exact h
  · split
    · exact .avsAbandon (h.same rfl)
    · exact h.same rfl

theorem execReferenceLost_keeps (h : s.Keeps t) : Out.Keeps s (execReferenceLost t) :=
  .next (.chipReset (h.same rfl))

theorem execReferenceRestored_keeps (h : s.Keeps t) : Out.Keeps s (execReferenceRestored t) :=
  .next (h.same rfl)

theorem execRtcFail_keeps (h : s.Keeps t) : Out.Keeps s (execRtcFail t) :=
  .next (.logOpen (h.same rfl))

theorem execPowerDownRequest_keeps {pd : Fin 30} {idleUs : BitVec 16} (h : s.Keeps t) : Out.Keeps s (execPowerDownRequest pd idleUs t) := by
  unfold execPowerDownRequest
  dsimp only
  refine .next ?_
  split
  · exact h
  · split
    · exact h.same rfl
    · exact h.same rfl

theorem execPowerDownDone_keeps {pd : Fin 30} (h : s.Keeps t) : Out.Keeps s (execPowerDownDone pd t) := by
  unfold execPowerDownDone
  dsimp only
  refine .next ?_
  split
  · exact h
  · split
    · exact h.same rfl
    · exact h.same rfl

theorem execPowerUp_keeps {pd : Fin 30} (h : s.Keeps t) : Out.Keeps s (execPowerUp pd t) := by
  unfold execPowerUp
  dsimp only
  refine .next ?_
  split
  · exact h.same rfl
  · exact h.same rfl
  · exact h

theorem execHclaimSet_keeps {pd : Fin 30} (h : s.Keeps t) : Out.Keeps s (execHclaimSet pd t) :=
  .next h.claim

theorem execHclaimRelease_keeps {pd : Fin 30} {idleUs : BitVec 16} (h : s.Keeps t) : Out.Keeps s (execHclaimRelease pd idleUs t) :=
  .next h.unclaim

theorem execRecordAppend_keeps {hearth : Bool} {code : BitVec 16} {source : BitVec 8} {param : BitVec 96} (h : s.Keeps t) :
    Out.Keeps s (execRecordAppend hearth code source param t) :=
  .next h.appendRecord

theorem execRecordCommit_keeps {mramOk : Bool} (h : s.Keeps t) : Out.Keeps s (execRecordCommit mramOk t) := by
  unfold execRecordCommit
  dsimp only
  refine .next ?_
  split
  · exact h.commitNext.reportDropped
  · exact h.commitNext.reportDropped.alarm

theorem execOpsecCommit_keeps (h : s.Keeps t) : Out.Keeps s (execOpsecCommit t) :=
  .next (h.same rfl)

theorem State.Keeps.relook {hearth : Bool} (h : s.Keeps t) : s.Keeps (State.relook hearth t) := by
  unfold State.relook
  split
  · exact h.cursorTo
  · exact h

theorem State.Keeps.advance {hearth : Bool} (h : s.Keeps t) : s.Keeps (State.advance hearth t) := by
  unfold State.advance
  dsimp only
  split
  · exact h.cursorTo
  · exact h

theorem State.Keeps.readWindow {hearth : Bool} {word : Nat} (h : s.Keeps t) : s.Keeps (State.readWindow hearth word t) := by
  unfold State.readWindow
  dsimp only
  split
  · split
    · exact h.relook.emit.advance
    · exact h.relook.emit
  · exact h.onRead (fun _ h₁ => .ite h₁.relook.emit.advance h₁.relook.emit)

theorem execWindowAdvance_keeps {hearth : Bool} (h : s.Keeps t) : Out.Keeps s (execWindowAdvance hearth t) :=
  .next h.readWindow

theorem execStoreEnd_keeps (h : s.Keeps t) : Out.Keeps s (execStoreEnd t) := by
  unfold execStoreEnd
  dsimp only
  refine .next ?_
  split
  · exact .log (h.same rfl)
  · exact h

theorem execCanaryMeasure_keeps {periods : Vector (Vector (BitVec 32) 2) 6} (h : s.Keeps t) :
    Out.Keeps s (execCanaryMeasure periods t) := by
  unfold execCanaryMeasure
  dsimp only
  refine .next ?_
  split
  · exact h
  · exact h.same rfl

theorem State.Keeps.warnWear {r left : Nat} (h : s.Keeps t) : s.Keeps (State.warnWear r left t) := by
  unfold State.warnWear
  exact .ite (.log (h.same rfl)) h

theorem State.Keeps.accumulate {r : Nat} (h : s.Keeps t) : s.Keeps (State.accumulate r t) :=
  .warnWear (h.same rfl)

theorem execWearAccumulate_keeps (h : s.Keeps t) : Out.Keeps s (execWearAccumulate t) := by
  unfold execWearAccumulate
  refine .next ?_
  split
  · exact h
  · exact .countWrites (.foldl h (fun _ _ h₁ => h₁.accumulate))

theorem execBatteryMeasure_keeps {draw : BitVec 32} (h : s.Keeps t) : Out.Keeps s (execBatteryMeasure draw t) := by
  unfold execBatteryMeasure
  dsimp only
  refine .next ?_
  split
  · exact h
  · exact h.same rfl

theorem execLegacyGo_keeps (h : s.Keeps t) : Out.Keeps s (execLegacyGo t) :=
  .next (h.onBar (fun _ h₁ => h₁.legacyGo))

theorem execLegacyResponseRelease_keeps (h : s.Keeps t) : Out.Keeps s (execLegacyResponseRelease t) := by
  unfold execLegacyResponseRelease
  refine .next ?_
  split
  · exact h.legacyRelease
  · exact h

theorem execLmkBind_keeps {slot : BitVec 16} (h : s.Keeps t) : Out.Keeps s (execLmkBind slot t) :=
  .next (h.onBar (fun _ h₁ => h₁.bindLmk))

theorem State.Keeps.onLegacy {code : String} {act : List Bytes → State → State}
    (h : s.Keeps t) (hact : ∀ x0 u, s.Keeps u → s.Keeps (act x0 u)) :
    s.Keeps (State.onLegacy code act t) := by
  unfold State.onLegacy
  split
  · exact hact _ _ h
  · exact h

theorem State.Keeps.legAnswer {status : String} {fields : List Bytes} (h : s.Keeps t) : s.Keeps (State.legAnswer status fields t) :=
  h.same rfl

theorem execLegSs_keeps (h : s.Keeps t) : Out.Keeps s (execLegSs t) :=
  .next (h.onLegacy (fun _ _ h₁ => h₁.same rfl))

theorem execLegSv_keeps (h : s.Keeps t) : Out.Keeps s (execLegSv t) :=
  .next (h.onLegacy (fun _ _ h₁ => h₁.same rfl))

theorem execLegSn_keeps (h : s.Keeps t) : Out.Keeps s (execLegSn t) :=
  .next (h.onLegacy (fun _ _ h₁ => h₁.same rfl))

theorem execLegSe_keeps (h : s.Keeps t) : Out.Keeps s (execLegSe t) :=
  .next (h.onLegacy (fun _ _ h₁ => h₁.same rfl))

theorem execLegSl_keeps (h : s.Keeps t) : Out.Keeps s (execLegSl t) :=
  .next (h.onLegacy (fun _ _ h₁ => h₁.same rfl))

theorem execLegSc_keeps (h : s.Keeps t) : Out.Keeps s (execLegSc t) :=
  .next (h.onLegacy (fun _ _ h₁ => h₁.same rfl))

theorem execLegSd_keeps (h : s.Keeps t) : Out.Keeps s (execLegSd t) :=
  .next (h.onLegacy (fun _ _ h₁ => h₁.same rfl))

theorem execLegSa_keeps (h : s.Keeps t) : Out.Keeps s (execLegSa t) :=
  .next (h.onLegacy (fun _ _ h₁ => h₁.same rfl))

theorem State.Keeps.legDraw {n : Nat} {k : Bytes → State → State} (h : s.Keeps t) (hk : ∀ x0 u, s.Keeps u → s.Keeps (k x0 u)) :
    s.Keeps (State.legDraw n k t) :=
  h.hearthDraw hk (fun _ h₁ => h₁.same rfl)

theorem execLegRn_keeps (h : s.Keeps t) : Out.Keeps s (execLegRn t) :=
  .next (h.onLegacy (fun _ _ h₁ => h₁.legDraw (fun _ _ h₂ => h₂.same rfl)))

theorem State.Keeps.withLmk {k : State → State} (h : s.Keeps t) (hk : ∀ u, s.Keeps u → s.Keeps (k u)) : s.Keeps (State.withLmk k t) := by
  unfold State.withLmk
  split
  · exact h.slotFault.legAnswer
  · exact hk _ h

theorem execLegKg_keeps (h : s.Keeps t) : Out.Keeps s (execLegKg t) :=
  .next (h.onLegacy (fun _ _ h₁ => h₁.withLmk (fun _ h₂ => h₂.legDraw (fun _ _ h₃ => h₃.same rfl))))

theorem State.Keeps.withKey {v : Nat} {field : Bytes} {k : Bytes → State → State}
    (h : s.Keeps t) (hk : ∀ x0 u, s.Keeps u → s.Keeps (k x0 u)) :
    s.Keeps (State.withKey v field k t) := by
  unfold State.withKey
  exact h.withLmk (fun _ h₁ => by
      split
      · exact hk _ _ h₁
      · exact h₁.same rfl)

theorem State.Keeps.legRun {plan : Nat} {t' : Payment.Txn} {k : Payment.End → State → State}
    (h : s.Keeps t) (hk : ∀ x0 u, s.Keeps u → s.Keeps (k x0 u)) :
    s.Keeps (State.legRun plan t' k t) := by
  unfold State.legRun
  split
  · exact h.same rfl
  · split
    · exact .legAnswer (.log (h.same rfl))
    · exact hk _ _ (h.same rfl)

theorem State.Keeps.legPlan {plan : Nat} {t' : Payment.Txn} {fields : Payment.End → List Bytes} (h : s.Keeps t) :
    s.Keeps (State.legPlan plan t' fields t) :=
  h.legRun (fun _ _ h₁ => h₁.same rfl)

theorem execLegKx_keeps (h : s.Keeps t) : Out.Keeps s (execLegKx t) :=
  .next (h.onLegacy (fun _ _ h₁ => h₁.withKey (fun _ _ h₂ => h₂.legDraw (fun _ _ h₃ => h₃.legPlan))))

theorem execLegKi_keeps (h : s.Keeps t) : Out.Keeps s (execLegKi t) :=
  .next (h.onLegacy (fun _ _ h₁ => h₁.withKey (fun _ _ h₂ => h₂.legPlan)))

theorem execLegKe_keeps (h : s.Keeps t) : Out.Keeps s (execLegKe t) :=
  .next (h.onLegacy (fun _ _ h₁ => .ite (h₁.same rfl) (h₁.withKey (fun _ _ h₂ => h₂.legPlan))))

theorem execLegKc_keeps (h : s.Keeps t) : Out.Keeps s (execLegKc t) :=
  .next (h.onLegacy (fun _ _ h₁ => h₁.withKey (fun _ _ h₂ => h₂.same rfl)))

theorem execLegKq_keeps (h : s.Keeps t) : Out.Keeps s (execLegKq t) :=
  .next (h.onLegacy (fun _ _ h₁ => h₁.withKey (fun _ _ h₂ => h₂.same rfl)))

theorem State.Keeps.legXlate {vIn : Nat} {f : List Bytes} (h : s.Keeps t) : s.Keeps (State.legXlate vIn f t) := by
  unfold State.legXlate
  dsimp only
  split
  · exact h.same rfl
  · exact h.withKey (fun _ _ h₁ => h₁.withKey (fun _ _ h₂ => h₂.legDraw (fun _ _ h₃ => h₃.legPlan)))

theorem execLegPt_keeps (h : s.Keeps t) : Out.Keeps s (execLegPt t) :=
  .next (h.onLegacy (fun _ _ h₁ => h₁.legXlate))

theorem execLegPa_keeps (h : s.Keeps t) : Out.Keeps s (execLegPa t) :=
  .next (h.onLegacy (fun _ _ h₁ => h₁.legXlate))

theorem execLegPd_keeps (h : s.Keeps t) : Out.Keeps s (execLegPd t) := by
  unfold execLegPd
  dsimp only
  exact .next (h.onLegacy (fun _ _ h₁ => .ite (h₁.same rfl) (h₁.withKey (fun _ _ h₂ => h₂.withKey (fun _ _ h₃ => by
      split
      · exact h₃.same rfl
      · split
        · exact h₃.same rfl
        · exact .legDraw (h₃.same rfl) (fun _ _ h₄ => h₄.legPlan))))))

theorem State.Keeps.legVerify {plan : Nat} {t' : Payment.Txn} {fields : Payment.End → List Bytes} (h : s.Keeps t) :
    s.Keeps (State.legVerify plan t' fields t) :=
  h.legRun (fun _ _ h₁ => .ite (h₁.same rfl) (h₁.same rfl))

theorem State.Keeps.legOffset {vIn : Nat} {f : List Bytes} (h : s.Keeps t) : s.Keeps (State.legOffset vIn f t) := by
  unfold State.legOffset
  dsimp only
  split
  · exact h.same rfl
  · exact h.withKey (fun _ _ h₁ => h₁.withKey (fun _ _ h₂ => h₂.legVerify))

theorem execLegPv_keeps (h : s.Keeps t) : Out.Keeps s (execLegPv t) :=
  .next (h.onLegacy (fun _ _ h₁ => h₁.legOffset))

theorem execLegPw_keeps (h : s.Keeps t) : Out.Keeps s (execLegPw t) :=
  .next (h.onLegacy (fun _ _ h₁ => h₁.legOffset))

theorem State.Keeps.legPvv {vIn : Nat} {f : List Bytes} (h : s.Keeps t) : s.Keeps (State.legPvv vIn f t) := by
  unfold State.legPvv
  dsimp only
  split
  · exact h.same rfl
  · exact h.withKey (fun _ _ h₁ => h₁.withKey (fun _ _ h₂ => h₂.legVerify))

theorem execLegPx_keeps (h : s.Keeps t) : Out.Keeps s (execLegPx t) :=
  .next (h.onLegacy (fun _ _ h₁ => h₁.legPvv))

theorem execLegPy_keeps (h : s.Keeps t) : Out.Keeps s (execLegPy t) :=
  .next (h.onLegacy (fun _ _ h₁ => h₁.legPvv))

theorem State.Keeps.legCvv {key af expiry service len : Bytes} {value : Option Bytes} (h : s.Keeps t) :
    s.Keeps (State.legCvv key af expiry service len value t) := by
  unfold State.legCvv
  dsimp only
  exact h.withKey (fun _ _ h₁ => by
      split
      · exact h₁.legVerify
      · exact h₁.legPlan)

theorem execLegVg_keeps (h : s.Keeps t) : Out.Keeps s (execLegVg t) :=
  .next (h.onLegacy (fun _ _ h₁ => h₁.legCvv))

theorem execLegVv_keeps (h : s.Keeps t) : Out.Keeps s (execLegVv t) :=
  .next (h.onLegacy (fun _ _ h₁ => h₁.legCvv))

theorem execLegVh_keeps (h : s.Keeps t) : Out.Keeps s (execLegVh t) :=
  .next (h.onLegacy (fun _ _ h₁ => h₁.legCvv))

theorem execLegVj_keeps (h : s.Keeps t) : Out.Keeps s (execLegVj t) :=
  .next (h.onLegacy (fun _ _ h₁ => h₁.legCvv))

theorem execLegVk_keeps (h : s.Keeps t) : Out.Keeps s (execLegVk t) :=
  .next (h.onLegacy (fun _ _ h₁ => h₁.legCvv))

theorem execLegVl_keeps (h : s.Keeps t) : Out.Keeps s (execLegVl t) :=
  .next (h.onLegacy (fun _ _ h₁ => h₁.legCvv))

theorem State.Keeps.legArqc {f : List Bytes} {method session : Nat} (h : s.Keeps t) : s.Keeps (State.legArqc f method session t) :=
  h.withKey (fun _ _ h₁ => .ite h₁.legVerify (h₁.legDraw (fun _ _ h₂ => h₂.legVerify)))

theorem execLegQv_keeps (h : s.Keeps t) : Out.Keeps s (execLegQv t) :=
  .next (h.onLegacy (fun _ _ h₁ => h₁.legArqc))

theorem execLegQa_keeps (h : s.Keeps t) : Out.Keeps s (execLegQa t) :=
  .next (h.onLegacy (fun _ _ h₁ => h₁.legArqc))

theorem execLegQb_keeps (h : s.Keeps t) : Out.Keeps s (execLegQb t) :=
  .next (h.onLegacy (fun _ _ h₁ => h₁.legArqc))

theorem execLegQw_keeps (h : s.Keeps t) : Out.Keeps s (execLegQw t) :=
  .next (h.onLegacy (fun _ _ h₁ => h₁.legArqc))

theorem execLegQx_keeps (h : s.Keeps t) : Out.Keeps s (execLegQx t) :=
  .next (h.onLegacy (fun _ _ h₁ => h₁.legArqc))

theorem execLegQy_keeps (h : s.Keeps t) : Out.Keeps s (execLegQy t) :=
  .next (h.onLegacy (fun _ _ h₁ => h₁.legArqc))

theorem execLegMg_keeps (h : s.Keeps t) : Out.Keeps s (execLegMg t) :=
  .next (h.onLegacy (fun _ _ h₁ => h₁.withKey (fun _ _ h₂ => h₂.legPlan)))

theorem execLegMv_keeps (h : s.Keeps t) : Out.Keeps s (execLegMv t) :=
  .next (h.onLegacy (fun _ _ h₁ => h₁.withKey (fun _ _ h₂ => h₂.legVerify)))

theorem State.Keeps.legCipher {f : List Bytes} {i : Nat} {g : Bytes → Bytes → Bytes} (h : s.Keeps t) : s.Keeps (State.legCipher f i g t) :=
  h.withKey (fun _ _ h₁ => h₁.same rfl)

theorem execLegDe_keeps (h : s.Keeps t) : Out.Keeps s (execLegDe t) :=
  .next (h.onLegacy (fun _ _ h₁ => h₁.legCipher))

theorem execLegDd_keeps (h : s.Keeps t) : Out.Keeps s (execLegDd t) :=
  .next (h.onLegacy (fun _ _ h₁ => h₁.legCipher))

theorem execLegEe_keeps (h : s.Keeps t) : Out.Keeps s (execLegEe t) :=
  .next (h.onLegacy (fun _ _ h₁ => h₁.legCipher))

theorem execLegEd_keeps (h : s.Keeps t) : Out.Keeps s (execLegEd t) :=
  .next (h.onLegacy (fun _ _ h₁ => h₁.legCipher))

theorem State.Keeps.legN01 {code : String} (h : s.Keeps t) : s.Keeps (State.legN01 code t) := by
  unfold State.legN01
  split
  · exact h.legacyNow
  · exact h

theorem execLegKz_keeps (h : s.Keeps t) : Out.Keeps s (execLegKz t) :=
  .next h.legN01

theorem execLegKl_keeps (h : s.Keeps t) : Out.Keeps s (execLegKl t) :=
  .next h.legN01

theorem execLegKy_keeps (h : s.Keeps t) : Out.Keeps s (execLegKy t) :=
  .next h.legN01

theorem execLegXa_keeps (h : s.Keeps t) : Out.Keeps s (execLegXa t) :=
  .next h.legN01

theorem execLegXd_keeps (h : s.Keeps t) : Out.Keeps s (execLegXd t) :=
  .next h.legN01

theorem execLegXp_keeps (h : s.Keeps t) : Out.Keeps s (execLegXp t) :=
  .next h.legN01

theorem execLegPn_keeps (h : s.Keeps t) : Out.Keeps s (execLegPn t) :=
  .next h.legN01

theorem execLegPr_keeps (h : s.Keeps t) : Out.Keeps s (execLegPr t) :=
  .next h.legN01

theorem execLegPo_keeps (h : s.Keeps t) : Out.Keeps s (execLegPo t) :=
  .next h.legN01

theorem execLegPg_keeps (h : s.Keeps t) : Out.Keeps s (execLegPg t) :=
  .next h.legN01

theorem State.Keeps.resumeCheck {o : Op} (h : s.Keeps t) : s.Keeps (State.resumeCheck t o) := by
  unfold State.resumeCheck
  dsimp only
  split
  · exact .placeOp (h.same rfl)
  · exact .fail (h.same rfl)

theorem State.Keeps.resumeChecks (h : s.Keeps t) : s.Keeps (State.resumeChecks t) :=
  .foldl h (fun _ _ h₁ => h₁.resumeCheck)

theorem execPowerUpDone_keeps {pd : Fin 30} (h : s.Keeps t) : Out.Keeps s (execPowerUpDone pd t) := by
  unfold execPowerUpDone
  dsimp only
  refine .next ?_
  split
  · split
    · exact .resumeChecks (h.same rfl)
    · exact h.same rfl
  · exact h

theorem execAspmL1Entry_keeps {sub : Fin 3} (h : s.Keeps t) : Out.Keeps s (execAspmL1Entry sub t) := by
  unfold execAspmL1Entry
  dsimp only
  refine .next ?_
  split
  · exact h.same rfl
  · split
    · exact h.same rfl
    · exact h.same rfl

theorem execVbatConnect_keeps (h : s.Keeps t) : Out.Keeps s (execVbatConnect t) := by
  unfold execVbatConnect
  dsimp only
  refine .next ?_
  split
  · exact h
  · split
    · exact h.same rfl
    · exact .loseBbram (h.same rfl)

theorem execVbatLoss_keeps (h : s.Keeps t) : Out.Keeps s (execVbatLoss t) :=
  .next (.ite (h.same rfl) (.loseBbram (h.same rfl)))

theorem execLidClose_keeps (h : s.Keeps t) : Out.Keeps s (execLidClose t) :=
  .next (h.same rfl)

theorem execZeroizeRelease_keeps (h : s.Keeps t) : Out.Keeps s (execZeroizeRelease t) :=
  .next (h.same rfl)

theorem execWindowRead_keeps {hearth : Bool} {word : Fin 8} (h : s.Keeps t) : Out.Keeps s (execWindowRead hearth word t) :=
  .next h.readWindow

theorem execRingHeadWrite_keeps {bench : Bool} {freed : Fin 17} (h : s.Keeps t) : Out.Keeps s (execRingHeadWrite bench freed t) :=
  .next h.modRing

theorem execCopyEnginePiece_keeps {piece : CopyPiece} (h : s.Keeps t) : Out.Keeps s (execCopyEnginePiece piece t) := by
  unfold execCopyEnginePiece
  refine .next ?_
  split
  · exact h
  · split
    · exact h.modMpu
    · exact h.copyStep

end Sys2Proof.Machine
end

section
/-!
PROOF of O57, O58, O59 and O60: every command, and so every step, keeps the invariants of `State.Keeps`.
-/
namespace Sys2Proof.Machine

/-- The relation `State.Keeps` holds along every command: it starts from `s` itself, and each command's lemma goes on from there. -/
theorem exec_keeps (c : Instr) (s : State) : Out.Keeps s (exec c s) := by
  have h := State.Keeps.refl s
  have hseal op dma : Out.Keeps s (execSeal op dma s) := execSeal_keeps h
  have hunseal op dma : Out.Keeps s (execUnseal op dma s) := execUnseal_keeps h
  unfold exec
  cases c with
  | perstNAssert => exact execPerstNAssert_keeps h
  | powerOn => exact execPowerOn_keeps h
  | supplyLoss => exact execSupplyLoss_keeps h
  | startUp => exact execStartUp_keeps h
  | startUpEnd => exact execStartUpEnd_keeps h
  | hotReset => exact execHotReset_keeps h
  | linkDown => exact execLinkDown_keeps h
  | linkUp => exact execLinkUp_keeps h
  | aspmL1Exit => exact execAspmL1Exit_keeps h
  | flr => exact execFlr_keeps h
  | flrComplete => exact execFlrComplete_keeps h
  | pmStateChange => exact execPmStateChange_keeps h
  | vfEnable => exact execVfEnable_keeps h
  | configRequest => exact execConfigRequest_keeps h
  | unsupportedRequest => exact execUnsupportedRequest_keeps h
  | tlpReceiveError => exact execTlpReceiveError_keeps h
  | dmaCompletionTimeout => exact execDmaCompletionTimeout_keeps h
  | dmaReadError => exact execDmaReadError_keeps h
  | vectorUnmask => exact execVectorUnmask_keeps h
  | registerWrite => exact execRegisterWrite_keeps h
  | sqDoorbell => exact execSqDoorbell_keeps h
  | cqDoorbell => exact execCqDoorbell_keeps h
  | descriptorFetch => exact execDescriptorFetch_keeps h
  | descriptorArrival => exact execDescriptorArrival_keeps h
  | steeringReadDone => exact execSteeringReadDone_keeps h
  | regionDispatch => exact execRegionDispatch_keeps h
  | operationCompletion => exact execOperationCompletion_keeps h
  | coalesceTimer => exact execCoalesceTimer_keeps h
  | schedulingEpoch => exact execSchedulingEpoch_keeps h
  | rateWindow => exact execRateWindow_keeps h
  | cellFault => exact execCellFault_keeps h
  | faultLevelDecay => exact execFaultLevelDecay_keeps h
  | busIntegrityError => exact execBusIntegrityError_keeps h
  | regionWatchdogExpiry => exact execRegionWatchdogExpiry_keeps h
  | queueEnable => exact execQueueEnable_keeps h
  | queueDisable => exact execQueueDisable_keeps h
  | queueContextWrite => exact execQueueContextWrite_keeps h
  | qVectorWrite => exact execQVectorWrite_keeps h
  | qselWrite => exact execQselWrite_keeps h
  | funcQueuesWrite => exact execFuncQueuesWrite_keeps h
  | nop => exact execNop_keeps h
  | fence => exact execFence_keeps h
  | slotQuotaWrite => exact execSlotQuotaWrite_keeps h
  | storeQuotaWrite => exact execStoreQuotaWrite_keeps h
  | quotaPersist => exact execQuotaPersist_keeps h
  | allowCommit => exact execAllowCommit_keeps h
  | drbgCountWrite => exact execDrbgCountWrite_keeps h
  | shareWrite => exact execShareWrite_keeps h
  | mbxToPfDoorbell => exact execMbxToPfDoorbell_keeps h
  | mbxToPfAck => exact execMbxToPfAck_keeps h
  | mbxFromPfDoorbell => exact execMbxFromPfDoorbell_keeps h
  | mbxFromPfAck => exact execMbxFromPfAck_keeps h
  | keyGenerate => exact execKeyGenerate_keeps h
  | keyUnload => exact execKeyUnload_keeps h
  | keyMove => exact execKeyMove_keeps h
  | keyAttrRead => exact execKeyAttrRead_keeps h
  | keyImport => exact execKeyImport_keeps h
  | keyExport => exact execKeyExport_keeps h
  | keySave => exact execKeySave_keeps h
  | keyRestore => exact execKeyRestore_keeps h
  | blobRewrap => exact execBlobRewrap_keeps h
  | attestSign => exact execAttestSign_keeps h
  | certRead => exact execCertRead_keeps h
  | temperPassStart => exact execTemperPassStart_keeps h
  | temperSlotRewrite => exact execTemperSlotRewrite_keeps h
  | temperTempRead => exact execTemperTempRead_keeps h
  | aesEcbEnc => exact execAesEcbEnc_keeps h
  | aesEcbDec => exact execAesEcbDec_keeps h
  | aesCbcEnc => exact execAesCbcEnc_keeps h
  | aesCbcDec => exact execAesCbcDec_keeps h
  | aesCfbEnc => exact execAesCfbEnc_keeps h
  | aesCfbDec => exact execAesCfbDec_keeps h
  | aesCtrEnc => exact execAesCtrEnc_keeps h
  | aesCtrDec => exact execAesCtrDec_keeps h
  | aesGcmEnc => exact execAesGcmEnc_keeps h
  | aesGcmDec => exact execAesGcmDec_keeps h
  | aesCcmEnc => exact execAesCcmEnc_keeps h
  | aesCcmDec => exact execAesCcmDec_keeps h
  | aesXtsEnc => exact execAesXtsEnc_keeps h
  | aesXtsDec => exact execAesXtsDec_keeps h
  | aesKwWrap => exact execAesKwWrap_keeps h
  | aesKwUnwrap => exact execAesKwUnwrap_keeps h
  | aesKwpWrap => exact execAesKwpWrap_keeps h
  | aesKwpUnwrap => exact execAesKwpUnwrap_keeps h
  | tdesEcbEnc => exact execTdesEcbEnc_keeps h
  | tdesEcbDec => exact execTdesEcbDec_keeps h
  | tdesCbcEnc => exact execTdesCbcEnc_keeps h
  | tdesCbcDec => exact execTdesCbcDec_keeps h
  | hash => exact execHash_keeps h
  | hmacGen => exact execHmacGen_keeps h
  | hmacVer => exact execHmacVer_keeps h
  | aesCmacGen => exact execAesCmacGen_keeps h
  | aesCmacVer => exact execAesCmacVer_keeps h
  | aesGmacGen => exact execAesGmacGen_keeps h
  | aesGmacVer => exact execAesGmacVer_keeps h
  | tdesMacGen => exact execTdesMacGen_keeps h
  | tdesMacVer => exact execTdesMacVer_keeps h
  | tdesCmacGen => exact execTdesCmacGen_keeps h
  | tdesCmacVer => exact execTdesCmacVer_keeps h
  | maskReseed => exact execMaskReseed_keeps h
  | planRun => exact execPlanRun_keeps h
  | planContextStart => exact execPlanContextStart_keeps h
  | swageSlot => exact execSwageSlot_keeps h
  | planLoad => exact execPlanLoad_keeps h
  | planUnload => exact execPlanUnload_keeps h
  | routeLookup => exact execRouteLookup_keeps h
  | terminalInsert => exact execTerminalInsert_keeps h
  | buildGo => exact execBuildGo_keeps h
  | routeFlip => exact execRouteFlip_keeps h
  | trieReclaim => exact execTrieReclaim_keeps h
  | terminalSweep => exact execTerminalSweep_keeps h
  | rehashStart => exact execRehashStart_keeps h
  | rehashFlip => exact execRehashFlip_keeps h
  | flush => exact execFlush_keeps h
  | rehash => exact execRehash_keeps h
  | termFlushGo => exact execTermFlushGo_keeps h
  | termFlushDone => exact execTermFlushDone_keeps h
  | rsaPrivate => exact execRsaPrivate_keeps h
  | rsaPublic => exact execRsaPublic_keeps h
  | rsaSign => exact execRsaSign_keeps h
  | rsaVerify => exact execRsaVerify_keeps h
  | rsaOaepEncrypt => exact execRsaOaepEncrypt_keeps h
  | rsaOaepDecrypt => exact execRsaOaepDecrypt_keeps h
  | rsaKeygen => exact execRsaKeygen_keeps h
  | ecdsaSign => exact execEcdsaSign_keeps h
  | ecdsaVerify => exact execEcdsaVerify_keeps h
  | ecdh => exact execEcdh_keeps h
  | ecPublic => exact execEcPublic_keeps h
  | eddsaSign => exact execEddsaSign_keeps h
  | eddsaVerify => exact execEddsaVerify_keeps h
  | xdh => exact execXdh_keeps h
  | mlkemKeygen => exact execMlkemKeygen_keeps h
  | mlkemEncaps => exact execMlkemEncaps_keeps h
  | mlkemDecaps => exact execMlkemDecaps_keeps h
  | mldsaKeygen => exact execMldsaKeygen_keeps h
  | mldsaSign => exact execMldsaSign_keeps h
  | mldsaVerify => exact execMldsaVerify_keeps h
  | yieldPoint => exact execYieldPoint_keeps h
  | preemptedResume => exact execPreemptedResume_keeps h
  | hammerAbort => exact execHammerAbort_keeps h
  | drbgInstantiate => exact execDrbgInstantiate_keeps h
  | drbgGenerate => exact execDrbgGenerate_keeps h
  | drbgReseed => exact execDrbgReseed_keeps h
  | drbgUninstantiate => exact execDrbgUninstantiate_keeps h
  | noiseCellFailure => exact execNoiseCellFailure_keeps h
  | retest => exact execRetest_keeps h
  | retestEnd => exact execRetestEnd_keeps h
  | entropyRetry => exact execEntropyRetry_keeps h
  | seedDelivery => exact execSeedDelivery_keeps h
  | stretchWindow => exact execStretchWindow_keeps h
  | internalReseed => exact execInternalReseed_keeps h
  | seedQueuePeakRead => exact execSeedQueuePeakRead_keeps h
  | serviceEntry => exact execServiceEntry_keeps h
  | vaultmbxGo => exact execVaultmbxGo_keeps h
  | ringDoorbell => exact execRingDoorbell_keeps h
  | hbiHello => exact execHbiHello_keeps h
  | hbiAck => exact execHbiAck_keeps h
  | hbiHelloRetry => exact execHbiHelloRetry_keeps h
  | wdogKick => exact execWdogKick_keeps h
  | hearthWatchdogExpiry => exact execHearthWatchdogExpiry_keeps h
  | hearthRestart => exact execHearthRestart_keeps h
  | benchWatchdogExpiry => exact execBenchWatchdogExpiry_keeps h
  | benchRestart => exact execBenchRestart_keeps h
  | interruptEntry => exact execInterruptEntry_keeps h
  | zwmNop => exact execZwmNop_keeps h
  | mov => exact execMov_keeps h
  | lea => exact execLea_keeps h
  | push => exact execPush_keeps h
  | pop => exact execPop_keeps h
  | leac => exact execLeac_keeps h
  | kill => exact execKill_keeps h
  | add => exact execAdd_keeps h
  | sub => exact execSub_keeps h
  | adc => exact execAdc_keeps h
  | sbb => exact execSbb_keeps h
  | mul => exact execMul_keeps h
  | mulhu => exact execMulhu_keeps h
  | divu => exact execDivu_keeps h
  | remu => exact execRemu_keeps h
  | zwmAnd => exact execZwmAnd_keeps h
  | zwmOr => exact execZwmOr_keeps h
  | xor => exact execXor_keeps h
  | zwmNot => exact execZwmNot_keeps h
  | shl => exact execShl_keeps h
  | shr => exact execShr_keeps h
  | sar => exact execSar_keeps h
  | rol => exact execRol_keeps h
  | cmp => exact execCmp_keeps h
  | test => exact execTest_keeps h
  | selCc => exact execSelCc_keeps h
  | jmp => exact execJmp_keeps h
  | bCc => exact execBCc_keeps h
  | call => exact execCall_keeps h
  | ret => exact execRet_keeps h
  | rets => exact execRets_keeps h
  | iret => exact execIret_keeps h
  | macd => exact execMacd_keeps h
  | accz => exact execAccz_keeps h
  | accadd => exact execAccadd_keeps h
  | accst => exact execAccst_keeps h
  | zwmRep => exact execZwmRep_keeps h
  | repi => exact execRepi_keeps h
  | tagof => exact execTagof_keeps h
  | cls => exact execCls_keeps h
  | dcls => exact execDcls_keeps h
  | rdctl => exact execRdctl_keeps h
  | ei => exact execEi_keeps h
  | di => exact execDi_keeps h
  | wfi => exact execWfi_keeps h
  | fend => exact execFend_keeps h
  | hold => exact execHold_keeps h
  | holdAck => exact execHoldAck_keeps h
  | holdClear => exact execHoldClear_keeps h
  | lineSet => exact execLineSet_keeps h
  | lineSetDone => exact execLineSetDone_keeps h
  | mpuRuleWrite => exact execMpuRuleWrite_keeps h
  | debugAccess => exact execDebugAccess_keeps h
  | shield => exact execShield_keeps h
  | envelopeMismatch => exact execEnvelopeMismatch_keeps h
  | lid => exact execLid_keeps h
  | zeroize => exact execZeroize_keeps h
  | tempReading => exact execTempReading_keeps h
  | vbatReading => exact execVbatReading_keeps h
  | quenchComplete => exact execQuenchComplete_keeps h
  | groupClose => exact execGroupClose_keeps h
  | classSet => exact execClassSet_keeps h
  | classPersist => exact execClassPersist_keeps h
  | fuseDisable => exact execFuseDisable_keeps h
  | cerOpen => exact execCerOpen_keeps h
  | cerStep => exact execCerStep_keeps h
  | cerCommit => exact execCerCommit_keeps h
  | cerAbort => exact execCerAbort_keeps h
  | cerStatus => exact execCerStatus_keeps h
  | setRead => exact execSetRead_keeps h
  | attestMac => exact execAttestMac_keeps h
  | ceremonyWindowExpiry => exact execCeremonyWindowExpiry_keeps h
  | ceremonyIdleLimit => exact execCeremonyIdleLimit_keeps h
  | cardInserted => exact execCardInserted_keeps h
  | cardRemoved => exact execCardRemoved_keeps h
  | atrReceived => exact execAtrReceived_keeps h
  | atrTimeout => exact execAtrTimeout_keeps h
  | ppsResponse => exact execPpsResponse_keeps h
  | t1BlockReceived => exact execT1BlockReceived_keeps h
  | t1Timeout => exact execT1Timeout_keeps h
  | apduTimeout => exact execApduTimeout_keeps h
  | cardClockStop => exact execCardClockStop_keeps h
  | archiveWrite => exact execArchiveWrite_keeps h
  | archiveRecorder => exact execArchiveRecorder_keeps h
  | archiveStatus => exact execArchiveStatus_keeps h
  | archiveFormat => exact execArchiveFormat_keeps h
  | cardIdentify => exact execCardIdentify_keeps h
  | sdCrcError => exact execSdCrcError_keeps h
  | sdBusyTimeout => exact execSdBusyTimeout_keeps h
  | lcStatus => exact execLcStatus_keeps h
  | lcAdvance => exact execLcAdvance_keeps h
  | token => exact execToken_keeps h
  | authNonce => exact execAuthNonce_keeps h
  | authResponse => exact execAuthResponse_keeps h
  | nonceExpiry => exact execNonceExpiry_keeps h
  | ownerKeyFuse => exact execOwnerKeyFuse_keeps h
  | imageBegin => exact execImageBegin_keeps h
  | imageData => exact execImageData_keeps h
  | imageCommit => exact execImageCommit_keeps h
  | deviceRestart => exact execDeviceRestart_keeps h
  | idcode => exact execIdcode_keeps h
  | sample => exact execSample_keeps h
  | extest => exact execExtest_keeps h
  | bypass => exact execBypass_keeps h
  | avsWindow => exact execAvsWindow_keeps h
  | avsReadback => exact execAvsReadback_keeps h
  | avsAlert => exact execAvsAlert_keeps h
  | avsSettingsWrite => exact execAvsSettingsWrite_keeps h
  | referenceLost => exact execReferenceLost_keeps h
  | referenceRestored => exact execReferenceRestored_keeps h
  | rtcFail => exact execRtcFail_keeps h
  | powerDownRequest => exact execPowerDownRequest_keeps h
  | powerDownDone => exact execPowerDownDone_keeps h
  | powerUp => exact execPowerUp_keeps h
  | hclaimSet => exact execHclaimSet_keeps h
  | hclaimRelease => exact execHclaimRelease_keeps h
  | recordAppend => exact execRecordAppend_keeps h
  | recordCommit => exact execRecordCommit_keeps h
  | opsecCommit => exact execOpsecCommit_keeps h
  | cursor => exact execCursor_keeps h
  | windowAdvance => exact execWindowAdvance_keeps h
  | settingsValueWrite => exact execSettingsValueWrite_keeps h
  | store => exact execStore_keeps h
  | storeEnd => exact execStoreEnd_keeps h
  | canaryMeasure => exact execCanaryMeasure_keeps h
  | wearAccumulate => exact execWearAccumulate_keeps h
  | batteryMeasure => exact execBatteryMeasure_keeps h
  | batReset => exact execBatReset_keeps h
  | legacyGo => exact execLegacyGo_keeps h
  | legacyResponseRelease => exact execLegacyResponseRelease_keeps h
  | lmkBind => exact execLmkBind_keeps h
  | legSs => exact execLegSs_keeps h
  | legSv => exact execLegSv_keeps h
  | legSn => exact execLegSn_keeps h
  | legSe => exact execLegSe_keeps h
  | legSl => exact execLegSl_keeps h
  | legSc => exact execLegSc_keeps h
  | legSd => exact execLegSd_keeps h
  | legSa => exact execLegSa_keeps h
  | legRn => exact execLegRn_keeps h
  | legKg => exact execLegKg_keeps h
  | legKx => exact execLegKx_keeps h
  | legKi => exact execLegKi_keeps h
  | legKe => exact execLegKe_keeps h
  | legKc => exact execLegKc_keeps h
  | legKq => exact execLegKq_keeps h
  | legPt => exact execLegPt_keeps h
  | legPa => exact execLegPa_keeps h
  | legPd => exact execLegPd_keeps h
  | legPv => exact execLegPv_keeps h
  | legPw => exact execLegPw_keeps h
  | legPx => exact execLegPx_keeps h
  | legPy => exact execLegPy_keeps h
  | legVg => exact execLegVg_keeps h
  | legVv => exact execLegVv_keeps h
  | legVh => exact execLegVh_keeps h
  | legVj => exact execLegVj_keeps h
  | legVk => exact execLegVk_keeps h
  | legVl => exact execLegVl_keeps h
  | legQv => exact execLegQv_keeps h
  | legQa => exact execLegQa_keeps h
  | legQb => exact execLegQb_keeps h
  | legQw => exact execLegQw_keeps h
  | legQx => exact execLegQx_keeps h
  | legQy => exact execLegQy_keeps h
  | legMg => exact execLegMg_keeps h
  | legMv => exact execLegMv_keeps h
  | legDe => exact execLegDe_keeps h
  | legDd => exact execLegDd_keeps h
  | legEe => exact execLegEe_keeps h
  | legEd => exact execLegEd_keeps h
  | legKz => exact execLegKz_keeps h
  | legKl => exact execLegKl_keeps h
  | legKy => exact execLegKy_keeps h
  | legXa => exact execLegXa_keeps h
  | legXd => exact execLegXd_keeps h
  | legXp => exact execLegXp_keeps h
  | legPn => exact execLegPn_keeps h
  | legPr => exact execLegPr_keeps h
  | legPo => exact execLegPo_keeps h
  | legPg => exact execLegPg_keeps h
  | powerUpDone => exact execPowerUpDone_keeps h
  | aspmL1Entry => exact execAspmL1Entry_keeps h
  | vbatConnect => exact execVbatConnect_keeps h
  | vbatLoss => exact execVbatLoss_keeps h
  | lidClose => exact execLidClose_keeps h
  | zeroizeRelease => exact execZeroizeRelease_keeps h
  | windowRead => exact execWindowRead_keeps h
  | ringHeadWrite => exact execRingHeadWrite_keeps h
  | copyEnginePiece => exact execCopyEnginePiece_keeps h
  | _ => simp only [hseal, hunseal] -- SEAL and UNSEAL, whose names are keywords of tactics

theorem State.Keeps.of_exec {c : Instr} {s t : State} (h : exec c s = .next t) : s.Keeps t := exec_keeps c s t h

/-- A step keeps what the state without its front command had. -/
theorem State.Keeps.of_step {s t : State} (h : step s = .next t) : State.Keeps { s with pending := t.pending } t := by
  unfold step at h
  split at h
  · next hp =>
    cases h
    exact .refl s.idle
  · have k := State.Keeps.of_exec h
    have hp : t.pending = _ := k.pending
    rw [hp]
    exact k

/-- A stage that is PROD or later does not go back: its fuses stay blown. -/
theorem State.lifeCode_mono {s t : State} (h : BitsKept s.life.stage t.life.stage) (hs : 4 ≤ s.lifeCode) : s.lifeCode ≤ t.lifeCode := by
  have h4 := h 4
  have h3 := h 3
  have h2 := h 2
  unfold State.lifeCode at hs ⊢
  dsimp only at hs ⊢
  grind

/-- Settles O57. -/
theorem rackStaysSound : Obligations.RackStaysSound := fun _ _ hs h => (State.Keeps.of_step h).slots hs

/-- Settles O58. -/
theorem eventQueuesStayBounded : Obligations.EventQueuesStayBounded := fun _ _ hs h =>
  have k := State.Keeps.of_step h
  ⟨k.queue hs.1, k.batRecs hs.2⟩

/-- Settles O59. -/
theorem lifeCycleIsOneWay : Obligations.LifeCycleIsOneWay := fun _ _ _ h =>
  have k := State.Keeps.of_exec h
  ⟨k.stage, k.tokenUsed, k.relock, State.lifeCode_mono k.stage⟩

/-- Settles O60. -/
theorem queueUntouched : Obligations.QueueUntouched := fun _ _ _ h => (State.Keeps.of_exec h).pending

end Sys2Proof.Machine
end

section
/-!
PROOF of O7, O8, O9 and O10: the modes of the cipher lanes. Each command is its operation in its block, check 7 passed, everything read,
and then the mode; one lemma for each shape of a command says so.
-/
namespace Sys2Proof.Machine

section
variable {s : State} {op c n : Nat} {o : Op} {dma : Dma} (ho : s.opOf op = some o) (hg : o.stage = .block) (hc : o.opcode = c)
include ho hg hc

/-- A command of a block whose operation passes check 7 goes on with everything read. -/
theorem State.onOp_checked {need most : Op → Nat} {k : Op → State → State} (h7 : check7 o.desc dma (need o) (most o) = none) :
    s.onOp op c .block (fun o s => s.checked o dma (need o) (most o) (k o)) = k o (s.hasRead o dma) := by
  rw [State.onOp_of ho hc hg, State.checked_of h7]

theorem State.laneMap_of {most : Op → Nat} {f : Op → Bytes → Bytes} (h7 : check7 o.desc dma (dDlen o.desc) (most o) = none) :
    s.laneMap op c dma most f = (s.hasRead o dma).laneDone o dma (f o (opData o dma)) [] :=
  State.onOp_checked ho hg hc h7 (need := fun o => dDlen o.desc)

theorem State.laneDec_of {f : Op → Bytes → Bytes} (h7 : check7 o.desc dma (dDlen o.desc) (dDlen o.desc) = none) :
    s.laneDec op c dma n f = (s.hasRead o dma).laneDone o dma (f o (opData o dma)) (padResult n o (f o (opData o dma))) :=
  State.onOp_checked ho hg hc h7 (need := fun o => dDlen o.desc) (most := fun o => dDlen o.desc)

theorem State.macOp_gen {f : Op → Bytes → Bytes} (h7 : check7 o.desc dma (dDlen o.desc) (pT o) = none) :
    s.macOp op c true dma f = (s.hasRead o dma).macGen o dma (f o (opData o dma)) :=
  State.onOp_checked ho hg hc h7 (need := fun o => dDlen o.desc)

theorem State.macOp_ver {f : Op → Bytes → Bytes} (h7 : check7 o.desc dma (dDlen o.desc) 0 = none) :
    s.macOp op c false dma f = (s.hasRead o dma).macVer o dma (f o (opData o dma)) :=
  State.onOp_checked ho hg hc h7 (need := fun o => dDlen o.desc) (most := fun _ => 0)

theorem State.hmacOp_gen (hT : pT o ≤ Sha.hashLen (aSub o.keyCopy.attr)) (h7 : check7 o.desc dma (dDlen o.desc) (pT o) = none) :
    s.hmacOp op c true dma = (s.hasRead o dma).macGen o dma (Sha.hmacId (aSub o.keyCopy.attr) o.keyCopy.bytes (opData o dma)) := by
  rw [State.hmacOp, State.onOp_of ho hc hg, if_neg (by omega)]
  exact State.checked_of h7 _

theorem State.hmacOp_ver (hT : pT o ≤ Sha.hashLen (aSub o.keyCopy.attr)) (h7 : check7 o.desc dma (dDlen o.desc) 0 = none) :
    s.hmacOp op c false dma = (s.hasRead o dma).macVer o dma (Sha.hmacId (aSub o.keyCopy.attr) o.keyCopy.bytes (opData o dma)) := by
  rw [State.hmacOp, State.onOp_of ho hc hg, if_neg (by omega)]
  exact State.checked_of h7 _

end

section
variable {s : State} {o : Op} {dma : Dma} {tag lo hi : Nat} {k : Bytes → State → State}

/-- An inline nonce of a fixed length. -/
theorem State.withNonce_inline (hi' : dInline o.desc = true) (n : Nat) :
    s.withNonce o dma (some n) tag lo hi k = k ((opParams o dma).take n) s := by
  simp only [State.withNonce, hi', if_true]

/-- An inline nonce with its length in front of it. -/
theorem State.withNonce_counted (hi' : dInline o.desc = true) :
    s.withNonce o dma none tag lo hi k = k (slice (opParams o dma) 1 (byteAt (opParams o dma) 0).toNat) s := by
  simp only [State.withNonce, hi', if_true]

/-- The nonce of a sound AEAD block. -/
theorem State.withNonce_block {inl : Option Nat} (hi' : dInline o.desc = false) (hf : aeadFault (opParams o dma) tag lo hi = none)
    (hl : 24 + leAt (opParams o dma) 16 2 = dParamLen o.desc) :
    s.withNonce o dma inl tag lo hi k = k (slice (opParams o dma) 24 (leAt (opParams o dma) 16 2)) s := by
  simp only [State.withNonce, hi', hf, hl, Bool.false_eq_true, if_false, ne_eq, not_true_eq_false]

/-- Inline parameters are those of the descriptor. -/
theorem opParams_inline (hi' : dInline o.desc = true) : opParams o dma = dParam o.desc := by
  simp only [opParams, hi', if_true]

theorem State.ccmLimit_of {nonce : Bytes} {f : State → State} (h : dDlen o.desc < 2 ^ (8 * (15 - nonce.length))) :
    s.ccmLimit o nonce f = f s := if_neg (by omega)

theorem State.releaseChecked_of_tag {out a b : Bytes} (h : a = b) :
    s.releaseChecked o dma (a == b) out = s.laneDone o dma out [] := by
  simp only [State.releaseChecked, h, beq_self_eq_true, if_true]

theorem State.releaseChecked_short {out a b : Bytes} (h : a ≠ b) (hn : dDlen o.desc ≤ 4096) :
    s.releaseChecked o dma (a == b) out = s.fail o.id 0x0501 0 := by
  simp only [State.releaseChecked, beq_eq_false_iff_ne.mpr h, Bool.false_eq_true, if_false, Nat.not_lt.mpr hn]

theorem State.releaseChecked_long {out a b : Bytes} (h : a ≠ b) (hn : 4096 < dDlen o.desc) :
    s.releaseChecked o dma (a == b) out = (s.writeOut o dma out).fail o.id 0x0501 0 := by
  simp only [State.releaseChecked, beq_eq_false_iff_ne.mpr h, Bool.false_eq_true, if_false, hn, if_true]

end

theorem next_congr {s t : State} (h : s = t) : (Host.Outcome.next s : Out) = .next t := congrArg _ h

/-- Settles O7: each mode is one shape of a lane's command. -/
theorem cipherModes : Obligations.CipherModes := by
  unfold Obligations.CipherModes
  refine ⟨fun s op o dma ho hg => ⟨fun hc h7 => ?_, fun hc h7 => ?_, fun h7 => ⟨fun hc => ?_, fun hc => ?_, fun hc => ?_, fun hc => ?_,
    fun hc => ?_, fun hc => ?_, fun hc => ?_, fun hc => ?_⟩⟩,
    fun s op o dma ho hg => ⟨fun h7 => ⟨fun hc => ?_, fun hc => ?_⟩, fun h7 => ⟨fun hc => ?_, fun hc => ?_⟩⟩⟩
  · exact next_congr (State.laneMap_of ho hg hc h7)
  · exact next_congr (State.laneMap_of ho hg hc h7)
  · exact next_congr (State.laneDec_of ho hg hc h7)
  · exact next_congr (State.laneDec_of ho hg hc h7)
  · exact next_congr (State.laneMap_of ho hg hc h7)
  · exact next_congr (State.laneMap_of ho hg hc h7)
  · exact next_congr (State.laneMap_of ho hg hc h7)
  · exact next_congr (State.laneMap_of ho hg hc h7)
  · exact next_congr (State.laneMap_of ho hg hc h7)
  · exact next_congr (State.laneMap_of ho hg hc h7)
  · exact next_congr (State.laneMap_of ho hg hc h7)
  · exact next_congr (State.laneMap_of ho hg hc h7)
  · exact next_congr (State.laneDec_of ho hg hc h7)
  · exact next_congr (State.laneDec_of ho hg hc h7)

/-- Settles O10. -/
theorem hashesAndMacs : Obligations.HashesAndMacs := by
  unfold Obligations.HashesAndMacs
  refine ⟨fun s op o dma ho hg hc => ⟨fun hp h7 => ?_, fun hp h7 => ?_, fun hp h7 => ?_⟩,
    fun s op o dma ho hg h7 => ⟨fun hc hT => ?_, fun hc => ?_, fun hc hi => ?_, fun hc hi hf hl => ?_, fun hc => ?_, fun hc => ?_⟩,
    fun s op o dma tag ho hg h7 => ⟨?_, ?_, ?_, ?_, ?_⟩, fun s o dma tag => ⟨rfl, fun h => if_pos h, fun h => if_neg h⟩⟩
  · refine next_congr ?_
    rw [State.onOp_of ho hc hg]
    simp only [hp, if_true]
    exact State.checked_of h7 _
  · refine next_congr ?_
    rw [State.onOp_of ho hc hg]
    simp only [hp, Nat.reduceLeDiff, if_false, if_true]
    exact State.checked_of h7 _
  · refine next_congr ?_
    rw [State.onOp_of ho hc hg]
    simp only [hp, Nat.reduceLeDiff, Nat.reduceEqDiff, if_false]
    exact State.checked_of h7 _
  · exact next_congr (State.hmacOp_gen ho hg hc hT h7)
  · exact next_congr (State.macOp_gen ho hg hc h7)
  · refine next_congr ?_
    rw [State.onOp_of ho hc hg, State.checked_of h7, State.withNonce_inline hi, opParams_inline hi]
  · refine next_congr ?_
    rw [State.onOp_of ho hc hg, State.checked_of h7, State.withNonce_block hi hf hl]
  · exact next_congr (State.macOp_gen ho hg hc h7)
  · exact next_congr (State.macOp_gen ho hg hc h7)
  · rintro ⟨hc, hT, rfl⟩
    exact next_congr (State.hmacOp_ver ho hg hc hT h7)
  · rintro ⟨hc, rfl⟩
    exact next_congr (State.macOp_ver ho hg hc h7)
  · rintro ⟨hc, hi, hf, hl, rfl⟩
    refine next_congr ?_
    rw [State.onOp_of ho hc hg, State.checked_of h7, State.withNonce_block hi hf hl]
  · rintro ⟨hc, rfl⟩
    exact next_congr (State.macOp_ver ho hg hc h7)
  · rintro ⟨hc, rfl⟩
    exact next_congr (State.macOp_ver ho hg hc h7)

/-- Settles O8: the nonce is inline or in a sound AEAD block; then the mode, and for a decryption the comparison of the tag. -/
theorem aeadModes : Obligations.AeadModes := by
  unfold Obligations.AeadModes
  refine ⟨fun s op o dma ho hg hi h7 => ⟨fun hc => ?_, fun n hc hn hlim => ?_⟩,
    fun s op o dma p iv ho hg hi hp hl hiv h7 => ⟨fun hc hf => ?_, fun hc hf hlim => ?_⟩,
    fun s op o dma p iv ho hg hi hp hl hiv h7 => ⟨fun hc hf => ?_, fun hc hf hlim => ?_⟩⟩
  · refine next_congr ?_
    rw [State.onOp_of ho hc hg, State.checked_of h7, State.withNonce_inline hi, opParams_inline hi]
  · refine next_congr ?_
    subst hn
    rw [State.onOp_of ho hc hg, State.checked_of h7, State.withNonce_counted hi, opParams_inline hi, State.ccmLimit_of hlim]
  · refine next_congr ?_
    subst hiv hp
    rw [State.onOp_of ho hc hg, State.checked_of h7, State.withNonce_block hi hf hl]
  · refine next_congr ?_
    subst hiv hp
    rw [State.onOp_of ho hc hg, State.checked_of h7, State.withNonce_block hi hf hl, State.ccmLimit_of hlim]
  · subst hiv hp
    obtain rfl := State.opOf_id ho
    refine ⟨fun ht => next_congr ?_, fun ht hn => next_congr ?_, fun ht hn => next_congr ?_⟩
    all_goals rw [State.onOp_of ho hc hg, State.checked_of h7, State.withNonce_block hi hf hl]
    · exact State.releaseChecked_of_tag ht
    · exact State.releaseChecked_short ht hn
    · exact State.releaseChecked_long ht hn
  · subst hiv hp
    obtain rfl := State.opOf_id ho
    refine ⟨fun ht => next_congr ?_, fun ht hn => next_congr ?_, fun ht hn => next_congr ?_⟩
    all_goals rw [State.onOp_of ho hc hg, State.checked_of h7, State.withNonce_block hi hf hl, State.ccmLimit_of hlim]
    · exact State.releaseChecked_of_tag ht
    · exact State.releaseChecked_short ht hn
    · exact State.releaseChecked_long ht hn

section
variable {s : State} {op c : Nat} {o : Op} {dma : Dma} {f : Op → Bytes → Option Bytes} (ho : s.opOf op = some o) (hg : o.stage = .block)
  (hc : o.opcode = c) (h7 : check7 o.desc dma (dDlen o.desc) (dDlen o.desc - 8) = none)
include ho hg hc h7

theorem State.laneUnwrap_some {m : Bytes} (hm : f o (opData o dma) = some m) :
    s.laneUnwrap op c dma f = (s.hasRead o dma).laneDone o dma m [] := by
  rw [State.laneUnwrap, State.onOp_of ho hc hg, State.checked_of h7, hm]

theorem State.laneUnwrap_none (hm : f o (opData o dma) = none) : s.laneUnwrap op c dma f = (s.hasRead o dma).fail op 0x0501 0 := by
  rw [State.laneUnwrap, State.onOp_of ho hc hg, State.checked_of h7, hm, State.opOf_id ho]

end

/-- The reads of an operation change no key, no epoch and no generator. -/
theorem State.hasRead_keys (s : State) (o : Op) (dma : Dma) :
    (s.hasRead o dma).epochOf = s.epochOf ∧ (s.hasRead o dma).storageKey = s.storageKey ∧ (s.hasRead o dma).instOf = s.instOf ∧
    (s.hasRead o dma).sealOk = s.sealOk := by
  rw [State.hasRead_frame]
  exact ⟨rfl, rfl, rfl, rfl⟩

/-- A generate request changes the entropy sources and the operations in flight, and nothing of the keys. -/
theorem State.drew_frame (s : State) (o : Op) (n : Nat) (x : Inst) :
    (s.drew o n x).vault = s.vault ∧ (s.drew o n x).crucible = s.crucible := by
  unfold State.drew State.countRate State.served State.freeCore State.setInst State.used State.modOp State.askInst
  dsimp only
  constructor <;> split <;> rfl

/-- A generate request changes no key or epoch. -/
theorem State.drew_keys (s : State) (o : Op) (n : Nat) (x : Inst) :
    (s.drew o n x).epochOf = s.epochOf ∧ (s.drew o n x).storageKey = s.storageKey := by
  refine ⟨funext fun t => ?_, funext fun t => funext fun e => ?_⟩
  · simp only [State.epochOf, State.tenantOf, (s.drew_frame o n x).1]
  · simp only [State.storageKey, State.rootKey, State.drkBytes, (s.drew_frame o n x).2]

/-- Settles O9. -/
theorem keyWrapsAndSealedData : Obligations.KeyWrapsAndSealedData := by
  unfold Obligations.KeyWrapsAndSealedData
  refine ⟨fun s op o dma ho hg => ⟨fun hc h7 => ?_, fun hc h7 => ?_, fun h7 => ⟨fun m hc hm => ?_, fun hc hm => ?_, fun m hc hm => ?_,
    fun hc hm => ?_⟩⟩, fun s op o dma r ho hg hc h7 hd hr => ?_, fun s op o dma ho hg hc h7 => ?_, fun s op o dma ho hg hc h7 hs => ?_⟩
  · exact next_congr (State.laneMap_of ho hg hc h7)
  · exact next_congr (State.laneMap_of ho hg hc h7)
  · exact next_congr (State.laneUnwrap_some ho hg hc h7 hm)
  · exact next_congr (State.laneUnwrap_none ho hg hc h7 hm)
  · exact next_congr (State.laneUnwrap_some ho hg hc h7 hm)
  · exact next_congr (State.laneUnwrap_none ho hg hc h7 hm)
  · refine next_congr ?_
    obtain ⟨he, hk, hi, -⟩ := s.hasRead_keys o dma
    rw [State.onOp_of ho hc hg, State.checked_of h7, State.drawLocal_of hd, hi, ← hr]
    obtain ⟨he', hk'⟩ := (s.hasRead o dma).drew_keys o 12 r.2
    simp only [he', hk', he, hk]
  · obtain rfl := State.opOf_id ho
    obtain ⟨-, hk, -, hs⟩ := s.hasRead_keys o dma
    intro d k iv c hok
    change s.sealOk ((opData o dma).take 32) o.tenant (dDlen o.desc) = true at hok
    refine ⟨fun ht => next_congr ?_, fun ht hn => next_congr ?_, fun ht hn => next_congr ?_⟩
    all_goals
      rw [State.onOp_of ho hc hg, State.checked_of h7]
      simp only [hs, hk, hok, not_true_eq_false, if_false]
    · exact State.releaseChecked_of_tag ht
    · exact State.releaseChecked_short ht hn
    · exact State.releaseChecked_long ht hn
  · refine next_congr ?_
    obtain ⟨-, -, -, hk⟩ := s.hasRead_keys o dma
    rw [State.onOp_of ho hc hg, State.checked_of h7]
    simp only [hk, hs, Bool.false_eq_true, not_false_eq_true, if_true]

end Sys2Proof.Machine
end

section
/-!
PROOF of O11: a counter mode applied twice gives the message back, because each block keeps its length and meets the same key stream.
-/
namespace Sys2Proof.Machine

/-- One chunk in front of the rest. -/
theorem chunksFuel_cons (n f : Nat) {m : Bytes} (hm : m ≠ []) : chunksFuel n (f + 1) m = m.take n :: chunksFuel n f (m.drop n) := by
  cases m with
  | nil => exact absurd rfl hm
  | cons b t => rfl

namespace Modes

variable (f : Blk) (ctr : Nat → Bytes)

theorem ctrL_length (n : Nat) (m : Bytes) (i : Nat) (h : m.length ≤ n) : (ctrL f ctr i (chunksFuel 16 n m)).length = m.length := by
  induction n generalizing m i with
  | zero => rw [List.length_eq_zero_iff.mp (Nat.le_zero.mp h)]; rfl
  | succ n ih =>
    cases m with
    | nil => rfl
    | cons b t =>
      rw [chunksFuel_cons _ _ (List.cons_ne_nil b t), ctrL, List.length_append, Machine.xorB_length, ih _ _ (by simp; simp at h; omega)]
      simp only [List.length_take, List.length_drop]
      omega

/-- The key stream cancels out, whatever the fuel. -/
theorem ctrL_ctrL (n : Nat) (m : Bytes) (i : Nat) (h : m.length ≤ n) :
    ctrL f ctr i (chunksFuel 16 n (ctrL f ctr i (chunksFuel 16 n m))) = m := by
  induction n generalizing m i with
  | zero => rw [List.length_eq_zero_iff.mp (Nat.le_zero.mp h)]; rfl
  | succ n ih =>
    by_cases hm : m = []
    · subst hm; rfl
    have hlen : (m.drop 16).length ≤ n := by rw [List.length_drop]; omega
    have hx : (xorB (m.take 16) (f (ctr i))).length = (m.take 16).length := xorB_length _ _
    have hpos : 0 < m.length := List.length_pos_iff.mpr hm
    have hne : xorB (m.take 16) (f (ctr i)) ++ ctrL f ctr (i + 1) (chunksFuel 16 n (m.drop 16)) ≠ [] := by
      intro he
      have := congrArg List.length (List.append_eq_nil_iff.mp he).1
      rw [hx, List.length_take, List.length_nil] at this
      omega
    rw [chunksFuel_cons _ _ hm, ctrL, chunksFuel_cons _ _ hne, ctrL]
    by_cases h16 : 16 ≤ m.length
    · have hl : (xorB (m.take 16) (f (ctr i))).length = 16 := by rw [hx, List.length_take]; omega
      rw [List.take_left' hl, List.drop_left' hl, ih _ _ hlen, xorB_xorB, List.take_append_drop]
    · have hd : m.drop 16 = [] := List.drop_eq_nil_of_le (by omega)
      have ht : m.take 16 = m := List.take_of_length_le (by omega)
      have hc : chunksFuel 16 n ([] : Bytes) = [] := by cases n <;> rfl
      have hl : (xorB m (f (ctr i))).length ≤ 16 := by rw [xorB_length]; omega
      rw [hd, ht, hc, ctrL, List.append_nil, List.take_of_length_le hl, List.drop_eq_nil_of_le hl, hc, ctrL, List.append_nil, xorB_xorB]

/-- A counter mode is its own inverse. -/
theorem ctrL_chunks (m : Bytes) : ctrL f ctr 0 (chunks 16 (ctrL f ctr 0 (chunks 16 m))) = m := by
  unfold chunks
  rw [ctrL_length f ctr _ m 0 le_rfl]
  exact ctrL_ctrL f ctr _ m 0 le_rfl

end Modes

/-- Settles O11, by the inverse of the counter mode, and by O8 for the command. -/
theorem streamRoundTrip : Obligations.StreamRoundTrip := by
  refine ⟨fun ks iv m => ⟨Modes.ctrL_chunks _ _ m, Modes.ctrL_chunks _ _ m⟩, fun s op o dma p ho hg hc hi h7 hf hl => ?_⟩
  intro iv hd ht
  obtain ⟨-, -, hdec⟩ := aeadModes
  obtain ⟨hgcm, -⟩ := hdec s op o dma (opParams o dma) iv ho hg hi rfl hl rfl h7
  obtain ⟨hok, -, -⟩ := hgcm hc hf
  have hback : Modes.gcmCrypt o.aesEnc iv (opData o dma) = p := by
    rw [hd]
    exact Modes.ctrL_chunks _ _ p
  rw [hok (by rw [ht, hd]), hback]

end Sys2Proof.Machine
end

section
/-!
PROOF of O6: what the reads of an operation, its output and its end change.
-/
namespace Sys2Proof.Machine

/-- The requests that fetch buffers of host memory: each of at most 512 bytes and Max_Read_Request_Size (R56). -/
theorem readPieces_bound {fn step : Nat} {r : Nat × Nat} {x : Sent} (h : x ∈ readPieces fn step r) :
    ∃ a n, x = .read fn a n ∧ n ≤ step := by
  obtain ⟨i, -, rfl⟩ := List.mem_map.mp h
  exact ⟨_, _, rfl, Nat.min_le_left _ _⟩

theorem State.readHost_sent (fn : Nat) (rs : List (Nat × Nat)) (s : State) :
    ∃ l : List Sent, s.readHost fn rs = { s with sent := l ++ s.sent } ∧
      ∀ x ∈ l, ∃ a n, x = .read fn a n ∧ n ≤ 512 ∧ n ≤ s.link.maxRead := by
  refine ⟨_, rfl, fun x hx => ?_⟩
  obtain ⟨r, -, hx⟩ := List.mem_flatMap.mp (List.mem_reverse.mp hx)
  obtain ⟨a, n, rfl, hn⟩ := readPieces_bound hx
  exact ⟨a, n, rfl, hn.trans (Nat.min_le_left _ _), hn.trans (Nat.min_le_right _ _)⟩

/-- The reads of an operation that has read nothing: the requests, and the mark. -/
theorem State.hasRead_of_unread {s : State} {o : Op} (dma : Dma) (h : o.fetched = 0) :
    ∃ l : List Sent, s.hasRead o dma = { s with
        sent := l ++ s.sent
        engine := { s.engine with tasks := ((s.modOp o.id fun x => { x with fetched := 1 }).modOp o.id
          fun x => { x with fetched := 2 }).engine.tasks } } ∧
      ∀ x ∈ l, ∃ a n, x = .read o.fn a n ∧ n ≤ 512 ∧ n ≤ s.link.maxRead := by
  have h0 : ¬ o.fetched ≠ 0 := not_not_intro h
  have h1 : ¬ 1 < o.fetched := by omega
  simp only [State.hasRead, State.readLists, State.readData, if_neg h0, if_neg h1]
  generalize (if readsSource o.desc then _ else _ : List (Nat × Nat)) = r₂
  generalize (_ ++ _ : List (Nat × Nat)) = r₁
  obtain ⟨l₁, e₁, b₁⟩ := s.readHost_sent o.fn r₁
  obtain ⟨l₂, e₂, b₂⟩ := ((s.readHost o.fn r₁).modOp o.id fun x => { x with fetched := 1 }).readHost_sent o.fn r₂
  refine ⟨l₂ ++ l₁, ?_, fun x hx => ?_⟩
  · rw [e₂, e₁]
    simp only [State.modOp, List.append_assoc]
  · rcases List.mem_append.mp hx with hx | hx
    · exact b₂ x hx
    · exact b₁ x hx

/-- An operation that no service runs ends without a trace in the Hearth's registers and memory. -/
theorem State.finish_of_unserved {s : State} {id : Nat} (h : s.worlds.running ≠ some (.chan id)) (st d n : Nat) (r : Bytes) :
    s.finish id st d n r = ((s.unreserve id).modOp id (Op.end_ st d n r)).releaseOp id := by
  simp only [State.finish, beq_eq_false_iff_ne.mpr h, Bool.false_eq_true, if_false]

/-- An operation without a reservation has none to give back. -/
theorem State.unreserve_of {s : State} {id : Nat} {p : Op} (h : s.opOf id = some p) (hr : p.reserved = false) : s.unreserve id = s := by
  simp only [State.unreserve, h, hr, Bool.false_eq_true, if_false]

/-- The end of an operation leaves the other operations and everything else but the block that held it. -/
theorem State.finish_outsideSame {s : State} {id : Nat} {p : Op} (hp : s.opOf id = some p) (hr : p.reserved = false)
    (h : s.worlds.running ≠ some (.chan id)) (st d n : Nat) (r : Bytes) :
    s.OutsideSame (s.finish id st d n r) id ∧ (s.finish id st d n r).sent = s.sent ∧ (s.finish id st d n r).free = s.free ∧
    (s.finish id st d n r).vault = s.vault ∧ (s.finish id st d n r).zwm = s.zwm := by
  have hne : ∀ j, j ≠ id → (s.finish id st d n r).opOf j = s.opOf j := fun j hj => State.opOf_finish_ne hj st d n r
  rw [State.finish_of_unserved h, State.unreserve_of hp hr] at hne ⊢
  exact ⟨⟨rfl, rfl, rfl, rfl, rfl, rfl, rfl, rfl, rfl, rfl, rfl, rfl, rfl, rfl, rfl, rfl, rfl, hne⟩, rfl, rfl, rfl, rfl⟩

/-- What an operation writes to host memory: one write to DST, or one for each range of its destination list. -/
def outWrites (s : State) (o : Op) (dma : Dma) (out : Bytes) : List Sent :=
  if dDstList o.desc then scatterWrites o.id o.fn (s.fnOf o.fn).relaxed (dstListOf o.desc dma) out
  else if out = [] then [] else [Sent.data o.id o.fn (BitVec.ofNat 64 (dDst o.desc)) out (s.fnOf o.fn).relaxed]

theorem State.writeOut_of_disjoint {s : State} {o : Op} {dma : Dma} {out : Bytes} (h : overlapOpen o.desc dma out.length = false) :
    s.writeOut o dma out = { s with sent := (outWrites s o dma out).reverse ++ s.sent } := by
  simp only [State.writeOut, h, Bool.false_eq_true, if_false, outWrites]

theorem scatterWrites_nil (op fn : Nat) (relaxed : Bool) (l : List (BitVec 128)) : scatterWrites op fn relaxed l [] = [] := by
  cases l with
  | nil => rfl
  | cons e l => rfl

/-- Settles O6. -/
theorem operationEnds : Obligations.OperationEnds := by
  refine ⟨fun s o dma ho hf => ?_, fun s o dma out result hp hw hov => ?_, fun s o status detail hp hw hst => ?_⟩
  · obtain ⟨l, e, hl⟩ := State.hasRead_of_unread (s := s) dma hf
    have hop : ∀ j, (s.hasRead o dma).opOf j =
        ((s.modOp o.id fun x => { x with fetched := 1 }).modOp o.id fun x => { x with fetched := 2 }).opOf j := fun j => by rw [e]; rfl
    refine ⟨_, l, rfl, by rw [e], hl, ?_, fun j hj => ?_⟩
    · have h₁ := State.opOf_modOp_same o.id (fun x => { x with fetched := 1 }) s (fun _ => rfl) ho
      rw [hop, State.opOf_modOp_same o.id (fun x => { x with fetched := 2 }) _ (fun _ => rfl) h₁]
    · rw [hop, State.opOf_modOp_ne o.id j (fun x => { x with fetched := 2 }) _ (fun _ => rfl) hj,
        State.opOf_modOp_ne o.id j (fun x => { x with fetched := 1 }) _ (fun _ => rfl) hj]
  · obtain ⟨p, hp, hr⟩ := hp
    have hlane : s.laneDone o dma out result =
        State.finish o.id 0 0 out.length result { s with sent := (outWrites s o dma out).reverse ++ s.sent } := by
      rw [State.laneDone, State.writeOut_of_disjoint hov]
    rw [hlane]
    generalize hu : ({ s with sent := (outWrites s o dma out).reverse ++ s.sent } : State) = u
    have hpu : u.opOf o.id = some p := hu ▸ hp
    obtain ⟨hsame, hsent, hfree, hvault, hzwm⟩ := State.finish_outsideSame hpu hr (hu ▸ hw) 0 0 out.length result
    have hend : (u.finish o.id 0 0 out.length result).Ended o.id 0 0 out.length result := State.finish_ended hpu 0 0 out.length result
    subst hu
    refine ⟨hend, hsame, hfree, hvault, hzwm, fun hd hne => ?_, fun hd => ?_, fun hnil => ?_⟩
    · rw [hsent]
      simp only [outWrites, hd, hne, Bool.false_eq_true, if_false, List.reverse_singleton, List.singleton_append]
    · rw [hsent]
      simp only [outWrites, hd, if_true, dstListOf]
    · rw [hsent]
      simp only [outWrites, hnil, scatterWrites_nil, if_true, ite_self, List.reverse_nil, List.nil_append]
  · obtain ⟨p, hp, hr⟩ := hp
    obtain ⟨hsame, hsent, hfree, hvault, hzwm⟩ := State.finish_outsideSame hp hr hw status detail 0 []
    have hend := State.finish_ended hp status detail 0 []
    simp only [ite_self] at hend
    exact ⟨hend, hsame, hsent, hfree, hvault, hzwm⟩

end Sys2Proof.Machine
end

section
/-!
REFUTATION of O40: a shift takes one free value for V (log 32), where the statement's clause has it take a whole block.
-/
namespace Sys2Proof.Machine

/-- A Hearth core that stands before `SHL A3, A1, A2` at size 8, with two numbers in A1 and A2. -/
def beforeShift : State :=
  { zwm := { cores := [(0, { pc := 0x100000, regs := [(1, ⟨5, tInt⟩), (2, ⟨3, tInt⟩)] })]
             hmem := [(131072, mword 0x020103031C tCode)] } }

/-- What the core of `beforeShift` writes. -/
def shifted : TWord := { val := 40, tag := tInt }

theorem beforeShift_runs : exec (.shl 0 3 ⟨0, 3, 0⟩ ⟨0, 1, 0⟩ ⟨0, 2, 0⟩) beforeShift =
    .next ((((beforeShift.spend 1).setReg 0 3 shifted).setFlags 0 8 { r := 40, v := (Config.freeByte 0).getLsbD 0 } false).past 0 0x100000
      [⟨0, 3, 0⟩, ⟨0, 1, 0⟩, ⟨0, 2, 0⟩]) := by
  refine congrArg Host.Outcome.next (State.run_alu3 (s₁ := beforeShift) (s₂ := beforeShift.spend 1) (q := .reg 3) (x := ⟨5, tInt⟩)
    (y := ⟨3, tInt⟩) (g := tInt) (o := { r := 40, v := (Config.freeByte 0).getLsbD 0 }) ?_ ?_ ?_ ?_ ?_ ?_)
  · exact ⟨by decide +kernel, rfl, by decide +kernel, by decide +kernel⟩
  · exact ⟨beforeShift, beforeShift, rfl, rfl, rfl⟩
  · rfl
  · rfl
  · exact fun h => absurd h (by decide)
  · rfl

/-- Refutes O40: its clause for SHL puts the result into the state after `State.drawn 1`, which takes 16 free values and moves
Bellows on, but the machine takes one (`beforeShift`, log 32). -/
theorem not_zwmArithmetic : ¬ Obligations.ZwmArithmetic := by
  rintro ⟨-, -, -, -, -, -, -, -, -, -, -, -, hshl, -⟩
  obtain ⟨v, h⟩ := hshl beforeShift 0 3 ⟨0, 3, 0⟩ ⟨0, 1, 0⟩ ⟨0, 2, 0⟩ (.reg 3) ⟨5, tInt⟩ ⟨3, tInt⟩ tInt beforeShift
    ((beforeShift.drawn 1).setReg 0 3 shifted) { r := 40 } ⟨by decide +kernel, rfl, by decide +kernel, by decide +kernel⟩
    ⟨beforeShift, beforeShift, rfl, rfl, rfl⟩ rfl (by decide +kernel) rfl
  rw [beforeShift_runs] at h
  have hfree : 1 = 16 := congrArg State.free (Host.Outcome.next.inj h)
  exact absurd hfree (by decide)

end Sys2Proof.Machine
end

section
/-!
PROOF of O42: moves, addresses, the stack, tags and control registers of the word machine.
-/
namespace Sys2Proof.Machine

theorem addrCheck_of_addr (v : BitVec 64) : addrCheck { val := v, tag := tAddr } = .ok v := rfl

theorem addAddr_of_colour {a d : BitVec 64} (h : colourOf (a + d) = colourOf a) : addAddr a d = .ok (a + d) := if_pos h

theorem formed_of_zero {a : BitVec 64} (h : bits a 59 32 = 0) : formed a = .ok (.mem a) := if_pos h

theorem sourceCheck_of {x : TWord} (hr : tagReserved x.tag = false) (hp : x.tag ≠ tPoison) : sourceCheck x = .ok () := by
  simp only [sourceCheck, hr, hp, Bool.false_eq_true, if_false]

/-- The push of a word: A15 falls by the size, and the word goes there. -/
theorem State.push_of {s t : State} {c n : Nat} {x : TWord} {v : BitVec 64} (hv : s.reg c 15 = { val := v, tag := tAddr })
    (hc : colourOf (v - BitVec.ofNat 64 n) = colourOf v) (hb : bits (v - BitVec.ofNat 64 n) 59 32 = 0)
    (hw : s.coreWrite c (v - BitVec.ofNat 64 n) n { x with val := lowBytes x.val n } = .ok t) :
    s.push c n x = .ok (t.setReg c 15 { val := v - BitVec.ofNat 64 n, tag := tAddr }) := by
  rw [BitVec.sub_eq_add_neg] at hc hb hw ⊢
  simp only [State.push, hv, addrCheck_of_addr, addAddr_of_colour hc, formed_of_zero hb, hw, bind, Except.bind]

/-- The word that A15 names. -/
theorem State.top_of {s t : State} {c n : Nat} {x : TWord} {v : BitVec 64} (hv : s.reg c 15 = { val := v, tag := tAddr })
    (hb : bits v 59 32 = 0) (hw : s.coreRead c v n = .ok (x, t)) (hr : tagReserved x.tag = false) (hp : x.tag ≠ tPoison) :
    s.top c n = .ok (x, t) := by
  simp only [State.top, hv, addrCheck_of_addr, formed_of_zero hb, hw, sourceCheck_of hr hp, bind, Except.bind]

theorem State.drop_of {s : State} {c n : Nat} {v : BitVec 64} (hv : s.reg c 15 = { val := v, tag := tAddr })
    (hc : colourOf (v + BitVec.ofNat 64 n) = colourOf v) :
    s.drop c n = .ok (s.setReg c 15 { val := v + BitVec.ofNat 64 n, tag := tAddr }) := by
  simp only [State.drop, hv, addrCheck_of_addr, addAddr_of_colour hc, bind, Except.bind]

/-- LEA and LEAC give the address of a memory operand. -/
theorem State.run_lea {s s₁ s₂ s₃ : State} {op c : Nat} {d m : Spec} {fromCode : Bool} {tag : BitVec 4} {q : Place} {v : BitVec 64}
    (h : s.Ready c op .word 3 1 [d, m]) (hm : opIsMem m = true) (hf : fromCode = true → 8 ≤ opMode m)
    (hd : s.dst c (s.coreOf c).pc 8 0 d = .ok (q, s₁)) (ha : s₁.dst c (s.coreOf c).pc 8 1 m = .ok (.mem v, s₂))
    (hp : s₂.put c 8 q { val := v, tag := tag } = .ok s₃) :
    s.run c (lea op c 3 d m fromCode tag) = s₃.past c (s.coreOf c).pc [d, m] := by
  have hn : ¬ (¬ opIsMem m = true ∨ (fromCode = true ∧ opMode m < 8)) := by
    rintro (he | ⟨he, hl⟩)
    · exact he hm
    · have := hf he
      omega
  apply State.run_of_plain h
  simp only [lea, plain, if_neg hn, bind, Except.bind, hd, ha, hp]

/-- The control register that a RDCTL names. -/
theorem State.control_of {s : State} {c : Fin 5} {i : Nat} {v : BitVec 64}
    (h : (i = 0 ∧ v = (s.coreOf c).fcause.setWidth 64) ∨ (i = 1 ∧ v = (s.coreOf c).fpc) ∨ (i = 2 ∧ v = (s.coreOf c).faddr) ∨
      (i = 3 ∧ v = (s.coreOf c).frep) ∨ (i = 4 ∧ v = if c.val = 0 then 0 else BitVec.ofNat 64 (256 + (c.val - 1)))) :
    s.control c i = some v := by
  rcases h with ⟨rfl, rfl⟩ | ⟨rfl, rfl⟩ | ⟨rfl, rfl⟩ | ⟨rfl, rfl⟩ | ⟨rfl, rfl⟩
  · rfl
  · rfl
  · rfl
  · rfl
  · fin_cases c <;> rfl

/-- Settles O42: each instruction's operands and its one effect, put together. -/
theorem zwmMoves : Obligations.ZwmMoves := by
  unfold Obligations.ZwmMoves
  refine ⟨fun s c h => ?_, fun s c sz d a q x v s₁ s₂ h hx hf hp => ?_, fun s c sz d a q x v s₁ s₂ h hx hf hp => ?_,
    fun s sz d a q x v s₁ s₂ h hx hf hp => ?_, fun s c sz d a q x s₁ hc h hx hf => ?_,
    fun s c d m q v s₁ s₂ s₃ h h1 h9 hd ha hp => ?_, fun s c d m q v s₁ s₂ s₃ h hm hd ha hp => ?_,
    fun s c sz a x v s₁ s₂ h ha hv hc hb hw => ?_, fun s c sz d q x v w s₁ s₂ s₃ h hd hv hb hw hr hx hp hv' hc => ?_,
    fun s c d q s₁ s₂ h hd hp => ?_, fun s c sz d a q p x s₁ s₂ s₃ s₄ h hd ha hx hp => ?_,
    fun s c sz d a q v s₁ s₂ h hm hv hd hp => ?_⟩
  · exact next_congr (State.run_of_plain h rfl)
  · cases hf
    exact next_congr (State.run_unary h hx rfl hp)
  · obtain ⟨hn, rfl⟩ := Option.ite_some_none_eq_some.mp hf
    exact next_congr (State.run_unary h hx (if_pos (by simpa [TWord.number] using hn)) hp)
  · obtain ⟨hn, rfl⟩ := Option.ite_some_none_eq_some.mp hf
    exact next_congr (State.run_unary h hx (if_pos hn) hp)
  · obtain ⟨s', hd, ha⟩ := hx
    have hbench : isBench c.val = true := by simpa [isBench] using hc
    refine ⟨_, next_congr (State.run_of_stop h (e := (.fault 0x0C 0, 0xF)) ?_), State.enterFault_faults hf 0x0C 0xF 0⟩
    simp only [unary, plain, bind, Except.bind, hd, ha, hbench, if_true, own]
  · have hm : opIsMem m = true := by simp [opIsMem, opMode, h1, h9]
    exact next_congr (State.run_lea h hm (fun h => absurd h (by decide)) hd ha hp)
  · have hm' : opIsMem m = true ∧ 8 ≤ opMode m := by rcases hm with hm | hm <;> simp [opIsMem, opMode, hm]
    exact next_congr (State.run_lea h hm'.1 (fun _ => hm'.2) hd ha hp)
  · refine next_congr (State.run_of_plain h ?_)
    simp only [plain, bind, Except.bind, ha, State.push_of hv hc hb hw, ofOperand]
  · refine next_congr (State.run_of_plain h ?_)
    simp only [plain, bind, Except.bind, hd, State.top_of hv hb hw hr hx, ofOperand, hp, State.drop_of hv' hc]
  · refine next_congr (State.run_of_plain h ?_)
    have h8 : szBytes 3 = 8 := rfl
    simp only [plain, bind, Except.bind, h8, hd, hp]
  · refine next_congr (State.run_of_plain h ?_)
    simp only [plain, bind, Except.bind, hd, ha, hx, ofOperand, hp]
  · refine next_congr (State.run_of_plain h ?_)
    have hm' : opMode a = 0xA := by simp [opMode, hm]
    simp only [plain, bind, Except.bind, hm', if_true, State.control_of hv, hd, hp]

end Sys2Proof.Machine
end

section
/-!
PROOF of O39 and O45: the places that operands name, and the faults before an instruction takes effect.
-/
namespace Sys2Proof.Machine

section
variable {s : State} {c n : Nat} {pc v : BitVec 64} {p : Spec}

/-- The sign-extended displacement of one byte. -/
theorem opDisp_byte (h : extLen (opMode p) = 1) : opDisp p = (p.ext.truncate 8).signExtend 64 := if_pos h

/-- The sign-extended displacement of four bytes. -/
theorem opDisp_word (h : extLen (opMode p) = 4) : opDisp p = (p.ext.truncate 32).signExtend 64 := by
  rw [opDisp, if_neg (by omega), if_pos h]

theorem State.index_of_number {x : BitVec 64} (h : s.reg c (bits p.ext 3 0) = { val := x, tag := tInt }) :
    s.index c p n = .ok (BitVec.ofNat 64 n * x) := by
  rw [State.index, h]
  rfl

/-- An address and a displacement form a place in memory (R390). -/
theorem State.place_displaced (hm : p.mode = 4 ∨ p.mode = 5) (hr : s.reg c p.reg.toNat = { val := v, tag := tAddr })
    (hc : colourOf (v + opDisp p) = colourOf v) (hb : bits (v + opDisp p) 59 32 = 0) :
    s.place c pc n p = .ok (.mem (v + opDisp p), s) := by
  rcases hm with hm | hm <;>
    simp only [State.place, opMode, hm, hr, addrCheck_of_addr, addAddr_of_colour hc, formed_of_zero hb, bind, Except.bind] <;> rfl

/-- The base of a register indirect mode is checked before anything else (R388). -/
theorem State.place_of_base_error {e : Stop} (h1 : 1 ≤ p.mode.toNat) (h7 : p.mode.toNat ≤ 7)
    (he : addrCheck (s.reg c p.reg.toNat) = .error e) : s.place c pc n p = .error e := by
  have hm : p.mode.toNat = 1 ∨ p.mode.toNat = 2 ∨ p.mode.toNat = 3 ∨ p.mode.toNat = 4 ∨ p.mode.toNat = 5 ∨ p.mode.toNat = 6 ∨
      p.mode.toNat = 7 := by omega
  rcases hm with hm | hm | hm | hm | hm | hm | hm <;> simp only [State.place, opMode, hm, he, bind, Except.bind]

/-- A memory place that is read gives the word there. -/
theorem State.src_of_dst {k : Nat} {a : BitVec 64} {x : TWord} {t : State} (hd : s.dst c pc n k p = .ok (.mem a, s))
    (hr : s.coreRead c a n = .ok (x, t)) (ht : tagReserved x.tag = false) (hp : x.tag ≠ tPoison) :
    s.src c pc n k p = .ok (x, t) := by
  unfold State.dst at hd
  cases hplace : s.place c pc n p with
  | error e => rw [hplace] at hd; cases hd
  | ok r =>
    rw [hplace] at hd
    cases hd
    simp only [State.src, hplace, State.readPlace, hr, sourceCheck_of ht hp, bind, Except.bind, ofOperand]

/-- A source that its check refuses faults as it is read (R388). -/
theorem State.src_of_check_error {k : Nat} {q : Place} {x : TWord} {s₁ s₂ : State} {e : Stop} (hp : s.place c pc n p = .ok (q, s₁))
    (hr : s₁.readPlace c n q = .ok (x, s₂)) (hc : sourceCheck x = .error e) : s.src c pc n k p = .error (e, k) := by
  simp only [State.src, hp, hr, hc, bind, Except.bind, ofOperand]

end

/-- A register written with all that one size holds. -/
theorem State.writePlace_reg {s : State} {c n r : Nat} {v : TWord} (h : n = 8 ∨ v.number = true) :
    s.writePlace c n (.reg r) v = .ok (s.setReg c r { v with val := lowBytes v.val n }) := if_pos h

theorem State.coreOf_setReg_same {s : State} (c r : Nat) (v : TWord) (h : twf {} s.zwm.cores = true) :
    (s.setReg c r v).coreOf c = { s.coreOf c with regs := tset {} r v (s.coreOf c).regs } := State.coreOf_modCore_same _ _ _ h

/-- Settles O39. -/
theorem zwmOperandForms : Obligations.ZwmOperandForms := by
  unfold Obligations.ZwmOperandForms
  refine ⟨fun s c n pc p hm => ?_, fun s c n pc v p hm hr hb => ?_, fun s c n pc v p hm hr hb hc => ?_,
    fun s c n pc v p hm hr hb hc => ?_, fun s c n pc v p hm hr hc hb => ?_, fun s c n pc v p hm hr hc hb => ?_,
    fun s c n pc v x p hm hr hx hc hb => ?_, fun s t c n pc v w p hm hr hc hb hw hb' => ?_, fun s c n pc p hm hb => ?_,
    fun s c n pc p hm hb => ?_, fun s c n pc p hm => ?_, fun s c n pc p hm => ?_, fun s c n pc p hm => ?_, fun s c n pc p hm => ?_,
    fun s c n r => rfl, fun s c n r v hv hc hr => ?_, fun s c n r v hn hv => ?_, fun s c n k pc a p hd v t hr ht hp => ?_⟩
  · simp only [State.place, opMode, hm]
    rfl
  · simp only [State.place, opMode, hm, hr, addrCheck_of_addr, formed_of_zero hb, bind, Except.bind]
    rfl
  · simp only [State.place, opMode, hm, hr, addrCheck_of_addr, addAddr_of_colour hc, formed_of_zero hb, bind, Except.bind]
    rfl
  · rw [BitVec.sub_eq_add_neg] at hb hc ⊢
    simp only [State.place, opMode, hm, hr, addrCheck_of_addr, addAddr_of_colour hc, formed_of_zero hb, bind, Except.bind]
    rfl
  · have hx : opDisp p = (p.ext.truncate 8).signExtend 64 := opDisp_byte (by simp [opMode, hm, extLen])
    rw [← hx] at hc hb ⊢
    exact State.place_displaced (.inl hm) hr hc hb
  · have hx : opDisp p = (p.ext.truncate 32).signExtend 64 := opDisp_word (by simp [opMode, hm, extLen])
    rw [← hx] at hc hb ⊢
    exact State.place_displaced (.inr hm) hr hc hb
  · simp only [State.place, opMode, hm, hr, addrCheck_of_addr, State.index_of_number hx, addAddr_of_colour hc, formed_of_zero hb, bind,
      Except.bind]
    rfl
  · have hx : opDisp p = (p.ext.truncate 32).signExtend 64 := opDisp_word (by simp [opMode, hm, extLen])
    rw [← hx] at hc hb hw
    simp only [State.place, opMode, hm, hr, addrCheck_of_addr, addAddr_of_colour hc, formed_of_zero hb, hw, formed_of_zero hb', bind,
      Except.bind]
    rfl
  · have hx : opDisp p = (p.ext.truncate 32).signExtend 64 := opDisp_word (by simp [opMode, hm, extLen])
    rw [← hx] at hb ⊢
    simp only [State.place, opMode, hm, formed_of_zero hb, bind, Except.bind]
    rfl
  · simp only [State.place, opMode, hm, formed_of_zero hb, bind, Except.bind]
    rfl
  · have hx : opDisp p = (p.ext.truncate 8).signExtend 64 := opDisp_byte (by simp [opMode, hm, extLen])
    rw [← hx]
    simp only [State.place, opMode, hm]
    rfl
  · have hx : opDisp p = (p.ext.truncate 32).signExtend 64 := opDisp_word (by simp [opMode, hm, extLen])
    rw [← hx]
    simp only [State.place, opMode, hm]
    rfl
  · have hx : opDisp p = p.ext := by simp [opDisp, opMode, hm, extLen]
    rw [← hx]
    simp only [State.place, opMode, hm]
    rw [hx]
    rfl
  · simp only [State.place, opMode, hm]
    rfl
  · refine ⟨_, State.writePlace_reg hv, State.reg_setReg_same _ _ _ _ hc hr, fun k hk => State.reg_setReg_ne _ _ _ _ _ hc hk,
      fun k hk => State.coreOf_modCore_ne _ _ _ _ hk, rfl, ?_⟩
    rw [State.coreOf_setReg_same _ _ _ hc]
  · have hv' : ({ v with val := lowBytes v.val n } : TWord).number = false := hv
    exact if_neg (by simp [hn, hv'])
  · exact State.src_of_dst hd hr ht hp

/-- A byte outside the opcode map is no opcode. -/
theorem opcodeUsed_eq_false {b : Byte}
    (h : ¬ (b.toNat ≤ 0x06 ∨ (0x10 ≤ b.toNat ∧ b.toNat ≤ 0x22) ∨ (0x30 ≤ b.toNat ∧ b.toNat ≤ 0x35) ∨ (0x40 ≤ b.toNat ∧ b.toNat ≤ 0x43) ∨
      (0x50 ≤ b.toNat ∧ b.toNat ≤ 0x51) ∨ (0x60 ≤ b.toNat ∧ b.toNat ≤ 0x62) ∨ (0x70 ≤ b.toNat ∧ b.toNat ≤ 0x74))) :
    opcodeUsed b = false := by
  simp only [opcodeUsed, List.any_cons, List.any_nil, Bool.or_eq_false_iff, Bool.and_eq_false_iff, decide_eq_false_iff_not]
  refine ⟨?_, ?_, ?_, ?_, ?_, ?_, ?_, trivial⟩ <;> omega

/-- A single run that stops with a fault enters the handler. -/
theorem State.run_faults {s : State} {c : Nat} {i : Insn} {code opnd : Nat} {addr : BitVec 64} (hc : s.coreRuns c = true)
    (hr : (s.coreOf c).rep = none) (he : s.runOnce c i (s.coreOf c).pc = .error (.fault code addr, opnd)) (hf : s.flag c 6 = false) :
    s.Faults (s.run c i) c code opnd addr := by
  have hrun : s.run c i = s.enterFault c code opnd addr := by
    rw [State.run, if_neg (by simp [hc]), hr]
    simp only [he]
    rfl
  rw [hrun]
  exact State.enterFault_faults hf code opnd addr

/-- Settles O45. -/
theorem zwmFaults : Obligations.ZwmFaults := by
  unfold Obligations.ZwmFaults
  refine ⟨fun s c code opnd addr hf => State.enterFault_faults hf code opnd addr,
    fun s c n k pc p q x s₁ s₂ hp hr => ⟨fun hx => State.src_of_check_error hp hr ?_, fun h6 h14 => State.src_of_check_error hp hr ?_⟩,
    fun s c n pc p h1 h7 => ⟨fun ht => State.place_of_base_error h1 h7 ?_, fun ht => State.place_of_base_error h1 h7 ?_,
      fun ht => State.place_of_base_error h1 h7 ?_⟩,
    fun s c sz a e code addr h ha he hf => ?_, fun s c i code addr hc hr he hf => ?_, fun s c i hc hr ho he hf => ?_,
    fun s c first a x t b l hx ht => ?_, fun s c a b l hx hb => ?_⟩
  · simp only [sourceCheck, hx]
    rfl
  · simp only [sourceCheck, tagReserved, h6, h14, decide_true, Bool.and_true, if_true]
  · simp only [addrCheck, sourceCheck, ht]
    rfl
  · simp only [addrCheck, sourceCheck, ht]
    rfl
  · simp only [addrCheck, sourceCheck, ht]
    rfl
  · obtain ⟨e, k⟩ := e
    cases he
    refine ⟨_, next_congr (State.run_of_stop h (e := (.fault code addr, k)) ?_), State.enterFault_faults hf code k addr⟩
    simp only [plain, bind, Except.bind, ha]
  · exact State.run_faults hc hr (by simp only [State.runOnce, he]) hf
  · exact State.run_faults hc hr (by simp only [State.runOnce, ho, he, Bool.false_eq_true, if_false, own]) hf
  · simp only [State.fetchCheck, hx, if_pos ht]
  · simp only [State.fetchCheck, hx, ne_eq, not_true_eq_false, if_false, Option.any_some, opcodeUsed_eq_false hb, Bool.not_false,
      and_self, if_true]

end Sys2Proof.Machine
end

section
/-!
SUPPORT. Sparse tables: an entry written back, and a change of every entry.
-/
namespace Sys2Proof.Machine

variable {α : Type} [DecidableEq α]

theorem twf_of_tabove {d : α} {b : Nat} {t : List (Nat × α)} (h : tabove d b t = true) : twf d t = true := by
  cases t with
  | nil => rfl
  | cons e t =>
    simp only [tabove, Bool.and_eq_true] at h
    simp only [twf, Bool.and_eq_true]
    exact ⟨h.1.2, h.2⟩

/-- An entry written back leaves a canonical table as it is. -/
theorem tset_tget_self (d : α) (k : Nat) {t : List (Nat × α)} (h : twf d t = true) : tset d k (tget d t k) t = t := by
  induction t with
  | nil => exact if_pos rfl
  | cons e t ih =>
    obtain ⟨j, x⟩ := e
    simp only [twf, Bool.and_eq_true, decide_eq_true_eq] at h
    obtain ⟨hx, ht⟩ := h
    rw [tget_cons, tset]
    rcases Nat.lt_trichotomy k j with hk | rfl | hk
    · have hjk : j ≠ k := by omega
      rw [if_pos hk, if_neg hjk, if_pos (tget_of_tabove d (Nat.le_of_lt hk) ht)]
    · rw [if_neg (by omega), if_pos rfl, if_pos rfl, if_neg hx]
    · rw [if_neg (by omega), if_neg (by omega), if_neg (by omega), ih (twf_of_tabove ht)]

theorem tmod_self (d : α) (k : Nat) (f : α → α) {t : List (Nat × α)} (h : twf d t = true) (hf : f (tget d t k) = tget d t k) :
    tmod d k f t = t := by
  rw [tmod, hf, tset_tget_self d k h]

/-- A change of every entry is read at each key, where it leaves what the table does not list. -/
theorem tget_tmap (d : α) (f : Nat → α → α) {k : Nat} (hf : f k d = d) {t : List (Nat × α)} (h : twf d t = true) :
    tget d (tmap d f t) k = f k (tget d t k) := by
  induction t with
  | nil => exact hf.symm
  | cons e t ih =>
    obtain ⟨j, x⟩ := e
    simp only [twf, Bool.and_eq_true, decide_eq_true_eq] at h
    obtain ⟨-, ht⟩ := h
    have ih := ih (twf_of_tabove ht)
    rw [tmap, tget_cons]
    by_cases hjk : j = k
    · subst hjk
      rw [if_pos rfl]
      split
      · next hd => rw [ih, tget_of_tabove d le_rfl ht, hf, hd]
      · rw [tget_cons, if_pos rfl]
    · rw [if_neg hjk]
      split
      · exact ih
      · rw [tget_cons, if_neg hjk, ih]

end Sys2Proof.Machine
end

section
/-!
PROOF of O43: jumps, branches, calls, returns and interrupts of the word machine.
-/
namespace Sys2Proof.Machine

theorem opMode_code {a : Spec} (h : a.mode = 8 ∨ a.mode = 9) : opMode a = 8 ∨ opMode a = 9 := by
  rcases h with h | h <;> simp [opMode, h]

theorem opMode_word {a : Spec} (h8 : a.mode ≠ 8) (h9 : a.mode ≠ 9) : ¬ (opMode a = 8 ∨ opMode a = 9) := by
  rintro (h | h)
  · exact h8 (BitVec.eq_of_toNat_eq h)
  · exact h9 (BitVec.eq_of_toNat_eq h)

/-- A core after it has pushed FL and PC: IE is clear, PC at the vector of the line (R400). -/
def Core.vectored (c line : Nat) (x : Core) : Core :=
  { x with fl := x.fl &&& ~~~ 0x20, pc := BitVec.ofNat 64 (imageBase c + 0x400 + 16 * line) }

/-- The end of an interrupt's entry: the core at its vector, the line no longer pending. -/
def State.irqTaken (c line : Nat) (s : State) : State :=
  let done (w : World) : World := { w with irqs := w.irqs.filter (· != line) }
  let s := s.modCore c (Core.vectored c line)
  if isBench c then { s with worlds := { s.worlds with bench := done s.worlds.bench } }
  else { s with worlds := { s.worlds with hearth := done s.worlds.hearth } }

section
variable {s s₁ : State} {c : Nat} {pc v : BitVec 64} {a : Spec}

/-- A jump target that is a place in code. -/
theorem State.target_of_code (h : a.mode = 8 ∨ a.mode = 9) (hd : s.dst c pc 8 0 a = .ok (.mem v, s₁)) : s.target c pc a = .ok (v, s₁) := by
  simp only [State.target, if_pos (opMode_code h), hd]

/-- A jump target that is a CODE word. -/
theorem State.target_of_word (h8 : a.mode ≠ 8) (h9 : a.mode ≠ 9) (hs : s.src c pc 8 0 a = .ok ({ val := v, tag := tCode }, s₁)) :
    s.target c pc a = .ok (v, s₁) := by
  simp only [State.target, if_neg (opMode_word h8 h9), hs]
  rfl

/-- A word that is not CODE is no target. -/
theorem State.target_of_other {x : TWord} (h8 : a.mode ≠ 8) (h9 : a.mode ≠ 9) (hs : s.src c pc 8 0 a = .ok (x, s₁)) (hx : x.tag ≠ tCode) :
    s.target c pc a = .error (.fault (if x.tag = tSecret then 0x04 else 0x08) 0, 0) := by
  simp only [State.target, if_neg (opMode_word h8 h9), hs]
  by_cases h : x.tag = tSecret
  · rw [if_pos h, if_pos h]
  · rw [if_neg h, if_neg h, if_pos hx]

theorem popCode_of (hp : s.pop c 8 = .ok ({ val := v, tag := tCode }, s₁)) : popCode c s = .ok (v, s₁) := by
  simp only [popCode, hp]
  rfl

/-- A change that leaves a core as it is leaves the state as it is. -/
theorem State.modCore_self {g : Core → Core} (hw : twf {} s.zwm.cores = true) (hg : g (s.coreOf c) = s.coreOf c) : s.modCore c g = s := by
  have h : tmod {} c g s.zwm.cores = s.zwm.cores := tmod_self _ c g hw hg
  unfold State.modCore
  rw [h]

/-- An interrupt of a core that does not wait and repeats nothing pushes FL and PC of the core as it stands. -/
theorem State.takeIrq_of {s₂ : State} {line : Nat} (hw : twf {} s.zwm.cores = true) (hr : (s.coreOf c).rep = none)
    (hf : (s.coreOf c).wfi = false) (h₁ : s.push c 8 { val := (s.coreOf c).fl.setWidth 64, tag := tInt } = .ok s₁)
    (h₂ : s₁.push c 8 { val := (s.coreOf c).pc, tag := tCode } = .ok s₂) :
    s.takeIrq c line = State.irqTaken c line s₂ := by
  have hs : (s.modCore c fun x => { x with rep := none, wfi := false }) = s :=
    State.modCore_self (g := fun x => { x with rep := none, wfi := false }) hw (by rw [← hr, ← hf])
  simp only [State.takeIrq, hs, h₁, Except.bind, h₂]
  rfl

end

theorem State.irqTaken_zwm (c line : Nat) (s : State) : (s.irqTaken c line).zwm = (s.modCore c (Core.vectored c line)).zwm := by
  unfold State.irqTaken
  dsimp only
  split <;> rfl

theorem State.irqTaken_irqs (c line : Nat) (s : State) :
    line ∉ (if c = 0 then (s.irqTaken c line).worlds.hearth else (s.irqTaken c line).worlds.bench).irqs := by
  by_cases hc : c = 0 <;> simp [State.irqTaken, hc, isBench]

/-- The vector of a line is not at address 0. -/
theorem vector_ne_zero (c : Nat) (line : BitVec 7) : BitVec.ofNat 64 (imageBase c + 0x400 + 16 * line.toNat) ≠ 0 := by
  have hl := line.isLt
  have hb : imageBase c = 0x400000 ∨ imageBase c = 0x100000 := by
    unfold imageBase benchBase hearthBase
    split
    · exact .inl rfl
    · exact .inr rfl
  intro h
  have h := congrArg BitVec.toNat h
  have h0 : (0 : BitVec 64).toNat = 0 := rfl
  rw [BitVec.toNat_ofNat, h0] at h
  omega

/-- The core that takes an interrupt, at its vector. -/
theorem State.coreOf_irqTaken (c : Nat) (line : BitVec 7) (s : State) :
    (s.irqTaken c line.toNat).coreOf c = Core.vectored c line.toNat (s.coreOf c) := by
  have hne : Core.vectored c line.toNat (s.coreOf c) ≠ {} := fun h => vector_ne_zero c line (congrArg Core.pc h)
  rw [State.coreOf, State.irqTaken_zwm]
  exact State.coreOf_modCore_of_ne_default c _ s hne

/-- A line that is raised is pending; the cores keep all but their waiting. -/
theorem State.raiseLine_irqs (bench : Bool) (line : Nat) (s : State) :
    line ∈ (if bench then (s.raiseLine bench line).worlds.bench else (s.raiseLine bench line).worlds.hearth).irqs := by
  cases bench <;> simp [State.raiseLine]

theorem State.coreOf_raiseLine (bench : Bool) (line k : Nat) {s : State} (hw : twf {} s.zwm.cores = true) :
    (s.raiseLine bench line).coreOf k = if isBench k = bench then { s.coreOf k with wfi := false } else s.coreOf k := by
  have hz : (s.raiseLine bench line).zwm.cores =
      tmap {} (fun c x => if isBench c = bench then { x with wfi := false } else x) s.zwm.cores := by
    cases bench <;> rfl
  rw [State.coreOf, hz]
  exact tget_tmap (d := ({} : Core)) (f := fun c x => if isBench c = bench then { x with wfi := false } else x) (ite_self _) hw

theorem isBench_eq (c : Fin 5) : isBench c.val = decide (c.val ≠ 0) := by simp [isBench, bne, Bool.beq_eq_decide_eq]

/-- The world of a core. -/
theorem world_of_core (c : Nat) (w : Worlds) : (if isBench c then w.bench else w.hearth) = if c = 0 then w.hearth else w.bench := by
  by_cases h : c = 0 <;> simp [isBench, h]

/-- A line of a serving world reaches its core. -/
theorem line_reaches {s : State} {c : Fin 5} {line : BitVec 7}
    (hs : (if c.val = 0 then s.worlds.hearth else s.worlds.bench).status < 2)
    (ha : tget false s.worlds.assign (64 + line.toNat) = decide (c.val ≠ 0)) (hl : slotReserved (line.toNat / 2) = false) :
    ¬ (2 ≤ (if c.val = 0 then s.worlds.hearth else s.worlds.bench).status ∨
      tget false s.worlds.assign (64 + line.toNat) ≠ isBench c.val ∨ slotReserved (line.toNat / 2) = true) := by
  rintro (h | h | h)
  · omega
  · exact h (ha.trans (isBench_eq c).symm)
  · rw [hl] at h
    cases h

/-- A line that a core of a serving world may not take stays pending. -/
theorem execInterruptEntry_raised {s : State} {c : Fin 5} {line : BitVec 7}
    (hs : (if c.val = 0 then s.worlds.hearth else s.worlds.bench).status < 2)
    (ha : tget false s.worlds.assign (64 + line.toNat) = decide (c.val ≠ 0)) (hl : slotReserved (line.toNat / 2) = false)
    (hn : (c.val = 0 ∧ s.worlds.running = none) ∨ s.flag c 5 = false ∨ s.flag c 6 = true) :
    exec (.interruptEntry c line) s = .next (s.raiseLine (isBench c.val) line.toNat) := by
  refine next_congr ?_
  dsimp only
  rw [world_of_core, if_neg (line_reaches hs ha hl)]
  refine if_pos (.inr ?_)
  simpa using hn

/-- A line that a core may take interrupts it. -/
theorem execInterruptEntry_taken {s : State} {c : Fin 5} {line : BitVec 7}
    (hs : (if c.val = 0 then s.worlds.hearth else s.worlds.bench).status < 2)
    (ha : tget false s.worlds.assign (64 + line.toNat) = decide (c.val ≠ 0)) (hl : slotReserved (line.toNat / 2) = false)
    (hc : c.val ≠ 0 ∨ s.worlds.running ≠ none) (hr : (s.coreOf c).rep = none) (h5 : s.flag c 5 = true) (h6 : s.flag c 6 = false) :
    exec (.interruptEntry c line) s = .next (s.takeIrq c.val line.toNat) := by
  refine next_congr ?_
  dsimp only
  rw [world_of_core, if_neg (line_reaches hs ha hl), hr]
  refine if_neg ?_
  simp only [Bool.false_eq_true, false_or, h5, not_true_eq_false, h6, or_false, not_and]
  intro h0
  exact hc.resolve_left (not_not_intro h0)

/-! ### RETS -/

theorem State.modCore_cores (c : Nat) (g : Core → Core) {s : State} (h : twf {} s.zwm.cores = true) :
    twf {} (s.modCore c g).zwm.cores = true := twf_tmod {} c g h

theorem State.setReg_cores (c r : Nat) (v : TWord) {s : State} (h : twf {} s.zwm.cores = true) :
    twf {} (s.setReg c r v).zwm.cores = true := State.modCore_cores c (fun x => { x with regs := tset {} r v x.regs }) h

/-- What the end of a service leaves of core 0. -/
def Core.served (status detail len : Nat) (x : Core) : Core :=
  { x with
    regs := [(0, { val := BitVec.ofNat 64 (status + 65536 * detail), tag := 0 }), (1, { val := BitVec.ofNat 64 len, tag := 0 })]
    acc := 0, accTag := 0xF, fl := 0 }

theorem State.serviceRegs_cores (st d n : Nat) {s : State} (h : twf {} s.zwm.cores = true) :
    twf {} (s.serviceRegs st d n).zwm.cores = true ∧ (s.serviceRegs st d n).coreOf 0 = Core.served st d n (s.coreOf 0) :=
  ⟨twf_tmod {} 0 (Core.served st d n) h, State.coreOf_modCore_same 0 (Core.served st d n) s h⟩

/-- A service that ends leaves the table of the cores in canonical form. -/
theorem State.finish_cores (id st d n : Nat) (r : Bytes) {s : State} (h : twf {} s.zwm.cores = true) :
    twf {} (s.finish id st d n r).zwm.cores = true := by
  have hu : (s.unreserve id).zwm.cores = s.zwm.cores := by simp
  unfold State.finish
  dsimp only
  split
  · exact (State.serviceRegs_cores st d n (hu ▸ h)).1
  · exact hu ▸ h

theorem TWord.ne_default_of_tInt (v : BitVec 64) : ({ val := v, tag := tInt } : TWord) ≠ {} := by
  intro h
  have ht : tInt = 15 := congrArg TWord.tag h
  exact absurd ht (by decide)

theorem tset_two {a b : TWord} (ha : a ≠ {}) (hb : b ≠ {}) : tset {} 1 b (tset {} 0 a []) = [(0, a), (1, b)] := by
  rw [tset, if_neg ha, tset, if_neg (by decide), if_neg (by decide), tset, if_neg hb]

/-- What RETS leaves of core 0: A0 and A1 stay, all else of the registers is cleared, with the accumulator and the flags. -/
def Core.returned (a0 a1 : TWord) (x : Core) : Core :=
  { x with regs := tset {} 1 a1 (tset {} 0 a0 []), acc := 0, accTag := tPoison, fl := 0 }

/-- The service returns: the state in which RETS leaves the Hearth. -/
def State.returned (a0 a1 : TWord) (scrub : Nat) (s : State) : State :=
  let s := State.serviceRegs 0 0 0 { s with now := s.now + scrub, worlds := { s.worlds with running := none } }
  ((s.modCore 0 fun x => { x with regs := [] }).setReg 0 0 a0).setReg 0 1 a1

theorem State.returned_cores (a0 a1 : TWord) (scrub : Nat) {s : State} (h : twf {} s.zwm.cores = true) :
    (s.returned a0 a1 scrub).coreOf 0 = Core.returned a0 a1 (s.coreOf 0) ∧ twf {} (s.returned a0 a1 scrub).zwm.cores = true := by
  unfold State.returned
  dsimp only
  generalize hv : State.serviceRegs 0 0 0 { s with now := s.now + scrub, worlds := { s.worlds with running := none } } = v
  obtain ⟨hvw, hvc⟩ : twf {} v.zwm.cores = true ∧ v.coreOf 0 = Core.served 0 0 0 (s.coreOf 0) := hv ▸ State.serviceRegs_cores 0 0 0 h
  have h₁ := State.modCore_cores 0 (fun x => { x with regs := [] }) hvw
  have h₂ := State.setReg_cores 0 0 a0 h₁
  refine ⟨?_, State.setReg_cores 0 1 a1 h₂⟩
  rw [State.coreOf_setReg_same _ _ _ h₂, State.coreOf_setReg_same _ _ _ h₁, State.coreOf_modCore_same _ _ _ hvw, hvc]
  rfl

/-- RETS of a service of the command channel. -/
theorem execRets_of_chan {s : State} {a0 a1 : BitVec 64} {id : Nat} {scrub : Fin 501} (h : s.Ready 0 0x34 .zero 0 0 [])
    (h0 : s.reg 0 0 = { val := a0, tag := tInt }) (h1 : s.reg 0 1 = { val := a1, tag := tInt }) (hr : s.worlds.running = some (.chan id)) :
    exec (.rets 0 0 scrub) s = .next (((s.finish id (bits a0 15 0) (bits a0 47 16) (bits a1 15 0) (fit 12 s.worlds.chanArea)).returned
      { val := a0, tag := tInt } { val := a1, tag := tInt } scrub).past 0 (s.coreOf 0).pc []) := by
  have hw : ¬ ((0 : Fin 5).val = 0 ∧ s.replyWaits = true) := by
    rintro ⟨-, h⟩
    rw [State.replyWaits, hr] at h
    cases h
  have ha : s.answerService (bits a0 15 0) (bits a0 47 16) (bits a1 15 0) =
      s.finish id (bits a0 15 0) (bits a0 47 16) (bits a1 15 0) (fit 12 s.worlds.chanArea) := by
    simp only [State.answerService, hr]
  refine next_congr ((if_neg hw).trans (State.run_of_plain h ?_))
  rw [← ha]
  simp only [plain, Fin.val_zero, h0, h1]
  rfl

/-- Settles O43. -/
theorem zwmControlFlow : Obligations.ZwmControlFlow := by
  unfold Obligations.ZwmControlFlow
  refine ⟨fun s c a v s₁ h hm hd => ?_, fun s c a v s₁ h h8 h9 hs => ?_, fun s c a x s₁ h h8 h9 hs hx hf => ?_,
    fun s c sz m v s₁ h hm hS hd => ?_, fun s c sz m h hm hS hcc hf => ?_, fun s c a v s₁ s₂ h ht hp => ?_, fun s c v s₁ h hp => ?_,
    fun s c v f s₁ s₂ h hp hp' => ?_, fun s c => ⟨fun h => ?_, fun h => ?_, fun h => ?_, fun h => ?_⟩,
    fun s c line s₁ s₂ hc hs ha hl hr h5 h6 hwfi hp₁ hp₂ hw => ?_, fun s c line hs ha hl hn hw => ?_,
    fun s a0 a1 id o scrub h h0 h1 hrun ho hg hw => ?_⟩
  · refine next_congr (State.run_of_jump h ?_)
    simp only [State.target_of_code hm hd, bind, Except.bind]
  · refine next_congr (State.run_of_jump h ?_)
    simp only [State.target_of_word h8 h9 hs, bind, Except.bind]
  · refine ⟨_, next_congr (State.run_of_stop h (e := (.fault (if x.tag = tSecret then 0x04 else 0x08) 0, 0)) ?_),
      State.enterFault_faults hf _ 0 0⟩
    simp only [State.target_of_other h8 h9 hs hx, bind, Except.bind]
  · have hm8 : opMode m = 8 := by simp [opMode, hm]
    have hn : ¬ (s.flag c 4 = true ∧ bits sz 7 4 ≠ 0xE) := by
      rintro ⟨h4, hcc⟩
      rcases hS with hS | hS
      · rw [hS] at h4; cases h4
      · exact hcc hS
    have ht := State.target_of_code (.inl hm) hd
    by_cases hcc : s₁.holdsCond c (bits sz 7 4) = true
    · rw [if_pos hcc]
      refine next_congr (State.run_of_jump h ?_)
      simp only [hm8, ne_eq, not_true_eq_false, if_false, if_neg hn, ht, hcc, bind, Except.bind, if_true]
    · rw [if_neg hcc]
      refine next_congr (State.run_of_plain h ?_)
      simp only [hm8, ne_eq, not_true_eq_false, if_false, if_neg hn, ht, if_neg hcc, bind, Except.bind]
  · have hm8 : opMode m = 8 := by simp [opMode, hm]
    refine ⟨_, next_congr (State.run_of_stop h (e := (.fault 0x04 0, 0xF)) ?_), State.enterFault_faults hf _ 0xF 0⟩
    simp only [hm8, ne_eq, not_true_eq_false, if_false, hS, hcc, not_false_eq_true, and_self, if_true, own]
  · refine next_congr (State.run_of_jump h ?_)
    simp only [ht, hp, bind, Except.bind, ofOperand]
  · refine next_congr (State.run_of_jump h ?_)
    simp only [popCode_of hp, bind, Except.bind]
  · refine next_congr (State.run_of_jump h ?_)
    simp only [popCode_of hp, hp', bind, Except.bind, ofOperand, ne_eq, not_true_eq_false, if_false]
  · exact next_congr (State.run_of_plain h rfl)
  · exact next_congr (State.run_of_plain h rfl)
  · exact next_congr (State.run_of_plain h rfl)
  · refine next_congr (State.run_of_plain h ?_)
    simp only [nullary, plain, world_of_core]
  · refine ⟨_, (execInterruptEntry_taken hs ha hl hc hr h5 h6).trans (next_congr (State.takeIrq_of hw hr hwfi hp₁ hp₂)), ?_⟩
    have hcore := State.coreOf_irqTaken c.val line s₂
    have hz := State.irqTaken_zwm c.val line.toNat s₂
    refine ⟨?_, ?_, (congrArg Core.regs hcore :), (congrArg Zwm.bmem hz :), (congrArg Zwm.hmem hz :), State.irqTaken_irqs c.val line.toNat s₂⟩
    · rw [hcore]
      fin_cases c <;> rfl
    · rw [State.flag, hcore]
      simp [Core.vectored]
  · refine ⟨_, execInterruptEntry_raised hs ha hl hn, ?_⟩
    have hcore := State.coreOf_raiseLine (isBench c.val) line.toNat c.val hw
    rw [if_pos rfl] at hcore
    refine ⟨?_, (congrArg Core.pc hcore :), (congrArg Core.regs hcore :), (congrArg Core.fl hcore :)⟩
    have hmem := State.raiseLine_irqs (isBench c.val) line.toNat s
    rwa [world_of_core] at hmem
  · refine ⟨_, execRets_of_chan h h0 h1 hrun, ?_⟩
    generalize hu : s.finish id (bits a0 15 0) (bits a0 47 16) (bits a1 15 0) (fit 12 s.worlds.chanArea) = u
    have hend : u.Ended id (bits a0 15 0) (bits a0 47 16) (if bits a0 15 0 / 256 = 0 then bits a1 15 0 else 0)
      (if bits a0 15 0 / 256 = 0 then fit 12 s.worlds.chanArea else []) := hu ▸ State.finish_ended ho _ _ _ _
    have hnow : u.now = s.now := hu ▸ by simp
    obtain ⟨hcore, hcw⟩ := State.returned_cores (s := u) { val := a0, tag := tInt } { val := a1, tag := tInt } scrub
      (hu ▸ State.finish_cores _ _ _ _ _ hw)
    have hpast := State.coreOf_modCore_same 0 (fun x => { x with pc := (s.coreOf 0).pc + BitVec.ofNat 64 (insnLen []) }) _ hcw
    rw [hcore] at hpast
    have hst : (bits a0 15 0 / 256 = 0) = (bits a0 15 0 < 256) := by
      simp only [Nat.div_eq_zero_iff, eq_iff_iff]
      omega
    simp only [hst] at hend
    have hreg : ∀ r, ((u.returned { val := a0, tag := tInt } { val := a1, tag := tInt } scrub).past 0 (s.coreOf 0).pc []).reg 0 r =
        tget {} [(0, { val := a0, tag := tInt }), (1, { val := a1, tag := tInt })] r := fun r => by
      rw [State.reg, State.past, hpast]
      exact congrArg (tget {} · r) (tset_two (TWord.ne_default_of_tInt a0) (TWord.ne_default_of_tInt a1))
    refine ⟨congrArg (· + scrub.val) hnow, State.ended_congr rfl hend, rfl, hreg 0, hreg 1, fun r hr => ?_, congrArg Core.acc hpast,
      congrArg Core.accTag hpast, congrArg Core.fl hpast⟩
    rw [hreg, tget_cons, if_neg (by omega), tget_cons, if_neg (by omega)]
    rfl

end Sys2Proof.Machine
end

section
/-!
SUPPORT for O1: what a reset of the chip or of a function leaves unchanged.
-/
namespace Sys2Proof.Machine

/-- `t` differs from `s` in the store alone. -/
def State.StoreOnly (s t : State) : Prop := t = { s with store := t.store }

theorem State.StoreOnly.of (s : State) (x : Store) : s.StoreOnly { s with store := x } := rfl

theorem State.StoreOnly.trans {s t u : State} (h : s.StoreOnly t) (k : t.StoreOnly u) : s.StoreOnly u := by
  unfold State.StoreOnly at h k ⊢
  rw [k, h]

theorem State.appendRecord_storeOnly (r : Record) (s : State) : s.StoreOnly (s.appendRecord r) := by
  unfold State.appendRecord
  dsimp only
  repeat' split
  all_goals rfl

theorem State.log_storeOnly (code source : Nat) (p : Bytes) (s : State) : s.StoreOnly (s.log code source p) :=
  s.appendRecord_storeOnly _

theorem State.commitRecord_storeOnly (r : Record) (s : State) : s.StoreOnly (s.commitRecord r) := by
  unfold State.commitRecord
  dsimp only
  split <;> rfl

theorem State.reportDropped_storeOnly (s : State) : s.StoreOnly s.reportDropped := by
  unfold State.reportDropped
  dsimp only
  split
  · rfl
  · exact (State.StoreOnly.of s _).trans (State.log_storeOnly _ _ _ _)

theorem State.commitNext_storeOnly (s : State) : s.StoreOnly s.commitNext := by
  unfold State.commitNext
  split
  · rfl
  · exact (State.StoreOnly.of s _).trans (State.commitRecord_storeOnly _ _)

theorem State.flushRecords_storeOnly (n : Nat) (s : State) : s.StoreOnly (s.flushRecords n) := by
  induction n generalizing s with
  | zero => rfl
  | succ n ih =>
    rw [State.flushRecords]
    split
    · exact s.reportDropped_storeOnly
    · exact s.commitNext_storeOnly.trans (ih _)

theorem State.flushStore_storeOnly (s : State) : s.StoreOnly s.flushStore :=
  (s.flushRecords_storeOnly _).trans rfl

/-- The record that a loss of supply cuts takes a free value and touches the store. -/
theorem State.cutRecord_only (s : State) : s.cutRecord = { s with free := s.cutRecord.free, store := s.cutRecord.store } := by
  unfold State.cutRecord
  split
  · rfl
  · dsimp only
    repeat' split
    all_goals rfl

/-- A ceremony that is lost is gone from the Hearth, with its conversation. -/
theorem State.loseCeremony_only (s : State) :
    s.loseCeremony = { s with vault := s.loseCeremony.vault, cards := s.loseCeremony.cards } := by
  unfold State.loseCeremony
  split
  · unfold State.endSession
    split <;> rfl
  · rfl

/-! ### A function's reset (R84, R86) -/

/-- An operation that gives back what it holds, as a reset of its function has it. -/
def State.dropOp (id : Nat) (s : State) : State := (s.unreserve id).releaseOp id

/-- What no reset of a function changes. -/
structure State.SameUnderFlr (s t : State) : Prop where
  chip : t.chip = s.chip
  slots : t.rack.slots = s.rack.slots
  crucible : t.crucible = s.crucible
  store : t.store = s.store
  speed : t.link.speed = s.link.speed
  width : t.link.width = s.link.width
  downCount : t.link.downCount = s.link.downCount

theorem State.SameUnderFlr.refl (s : State) : s.SameUnderFlr s := ⟨rfl, rfl, rfl, rfl, rfl, rfl, rfl⟩

theorem State.SameUnderFlr.trans {s t u : State} (h : s.SameUnderFlr t) (k : t.SameUnderFlr u) : s.SameUnderFlr u :=
  ⟨k.chip.trans h.chip, k.slots.trans h.slots, k.crucible.trans h.crucible, k.store.trans h.store, k.speed.trans h.speed,
    k.width.trans h.width, k.downCount.trans h.downCount⟩

theorem State.SameUnderFlr.foldl {α : Type} {f : State → α → State} (hf : ∀ (s : State) x, s.SameUnderFlr (f s x)) (l : List α) (s : State) :
    s.SameUnderFlr (l.foldl f s) := by
  induction l generalizing s with
  | nil => exact .refl s
  | cons x l ih => exact (hf s x).trans (ih _)

/-- Giving back a reservation marks the operation and counts the tenant's slot. -/
theorem State.unreserve_only (id : Nat) (s : State) :
    s.unreserve id = { s with engine := { s.engine with tasks := (s.unreserve id).engine.tasks }, vault := (s.unreserve id).vault } := by
  unfold State.unreserve
  repeat' split
  all_goals rfl

theorem State.unreserve_same (id : Nat) (s : State) :
    s.SameUnderFlr (s.unreserve id) ∧ (s.unreserve id).fns = s.fns ∧ (s.unreserve id).queues = s.queues := by
  rw [State.unreserve_only]
  exact ⟨⟨rfl, rfl, rfl, rfl, rfl, rfl, rfl⟩, rfl, rfl⟩

theorem State.dropOp_same (id : Nat) (s : State) :
    s.SameUnderFlr (s.dropOp id) ∧ (s.dropOp id).fns = s.fns ∧ (s.dropOp id).queues = s.queues := by
  obtain ⟨hs, hf, hq⟩ := s.unreserve_same id
  exact ⟨hs.trans ⟨rfl, rfl, rfl, rfl, rfl, rfl, rfl⟩, hf, hq⟩

theorem State.dropOps_same (ids : List Nat) (s : State) :
    s.SameUnderFlr (ids.foldl (fun s id => s.dropOp id) s) ∧ (ids.foldl (fun s id => s.dropOp id) s).fns = s.fns ∧
    (ids.foldl (fun s id => s.dropOp id) s).queues = s.queues :=
  ⟨.foldl (fun s id => (s.dropOp_same id).1) ids s, State.foldl_keeps State.fns _ (fun s id => (s.dropOp_same id).2.1) ids s,
    State.foldl_keeps State.queues _ (fun s id => (s.dropOp_same id).2.2) ids s⟩

/-- A change of operations in flight that leaves their numbers and functions, and all operations but those in `ids`. -/
structure OpChange (ids : List Nat) (g : Op → Op) : Prop where
  fn : ∀ o, (g o).fn = o.fn
  id : ∀ o, (g o).id = o.id
  same : ∀ o, o.id ∉ ids → g o = o

theorem State.dropOp_tasks (id : Nat) (s : State) :
    ∃ g, OpChange [id] g ∧ (s.dropOp id).engine.tasks = s.engine.tasks.map g := by
  have hid : ∃ g, OpChange [id] g ∧ s.engine.tasks = s.engine.tasks.map g :=
    ⟨fun o => o, ⟨fun _ => rfl, fun _ => rfl, fun _ _ => rfl⟩, (List.map_id' _).symm⟩
  change ∃ g, OpChange [id] g ∧ (s.unreserve id).engine.tasks = s.engine.tasks.map g
  unfold State.unreserve
  split
  · split
    · refine ⟨_, ⟨fun o => ?_, fun o => ?_, fun o ho => if_neg (by simpa using ho)⟩, rfl⟩
      · split <;> rfl
      · split <;> rfl
    · exact hid
  · exact hid

theorem State.dropOps_tasks (ids : List Nat) (s : State) :
    ∃ g, OpChange ids g ∧ (ids.foldl (fun s id => s.dropOp id) s).engine.tasks = s.engine.tasks.map g := by
  induction ids generalizing s with
  | nil => exact ⟨fun o => o, ⟨fun _ => rfl, fun _ => rfl, fun _ _ => rfl⟩, (List.map_id' _).symm⟩
  | cons id ids ih =>
    obtain ⟨g, hg, eg⟩ := s.dropOp_tasks id
    obtain ⟨k, hk, ek⟩ := ih (s.dropOp id)
    refine ⟨k ∘ g, ⟨fun o => (hk.fn _).trans (hg.fn o), fun o => (hk.id _).trans (hg.id o), fun o ho => ?_⟩, ?_⟩
    · obtain ⟨h1, h2⟩ := (not_or.mp (List.mem_cons.not.mp ho) : o.id ≠ id ∧ o.id ∉ ids)
      have e := hg.same o (by simpa using h1)
      rw [Function.comp, e, hk.same o h2]
    · rw [List.foldl_cons, ek, eg, List.map_map]

/-- The operations of a function. -/
def State.idsOf (s : State) (f : Nat) : List Nat := (s.engine.tasks.filter fun o => o.fn == f).map Op.id

/-- What a reset of a function does once its operations have given back what they held. -/
def State.flrEnd (f : Nat) (t : State) : State :=
  (({ t with engine := { t.engine with tasks := t.engine.tasks.filter fun o => o.fn != f } } : State).clearQueues f).clearInsts f
    |>.modFn f Fn.afterFlr

theorem State.flrOne_eq (f : Nat) (s : State) :
    s.flrOne f = State.flrEnd f ((s.idsOf f).foldl (fun s id => s.dropOp id) s) := rfl

theorem State.flrEnd_only (f : Nat) (t : State) :
    t.SameUnderFlr (t.flrEnd f) ∧ (t.flrEnd f).fns = tmod {} f Fn.afterFlr t.fns ∧
    (t.flrEnd f).queues = tclear (queueKey f 0) (queueKey (f + 1) 0) t.queues ∧
    (t.flrEnd f).engine.tasks = t.engine.tasks.filter fun o => o.fn != f :=
  ⟨⟨rfl, rfl, rfl, rfl, rfl, rfl, rfl⟩, rfl, rfl, rfl⟩

theorem State.flrOne_same (f : Nat) (s : State) : s.SameUnderFlr (s.flrOne f) := by
  rw [State.flrOne_eq]
  exact (State.dropOps_same (s.idsOf f) s).1.trans (State.flrEnd_only f _).1

theorem State.flrOne_fns (f : Nat) (s : State) : (s.flrOne f).fns = tmod {} f Fn.afterFlr s.fns := by
  rw [State.flrOne_eq, (State.flrEnd_only f _).2.1, (State.dropOps_same (s.idsOf f) s).2.1]

theorem State.flrOne_queues (f : Nat) (s : State) : (s.flrOne f).queues = tclear (queueKey f 0) (queueKey (f + 1) 0) s.queues := by
  rw [State.flrOne_eq, (State.flrEnd_only f _).2.2.1, (State.dropOps_same (s.idsOf f) s).2.2]

theorem State.flrOne_tasks (f : Nat) (s : State) :
    ∃ g, OpChange (s.idsOf f) g ∧ (s.flrOne f).engine.tasks = (s.engine.tasks.map g).filter fun o => o.fn != f := by
  obtain ⟨g, hg, e⟩ := State.dropOps_tasks (s.idsOf f) s
  refine ⟨g, hg, ?_⟩
  rw [State.flrOne_eq, (State.flrEnd_only f _).2.2.2, e]

/-- A function under reset is none that nothing has touched. -/
theorem Fn.afterFlr_ne_default (n : Fn) : n.afterFlr ≠ {} := fun h => Bool.noConfusion (congrArg Fn.flr h : true = false)

theorem Fn.afterFlr_afterFlr (n : Fn) : n.afterFlr.afterFlr = n.afterFlr := rfl

/-- The resources of a function after its reset, and of every other one. -/
theorem State.fnOf_flrOne (f g : Nat) (s : State) : (s.flrOne f).fnOf g = if g = f then (s.fnOf g).afterFlr else s.fnOf g := by
  rw [State.fnOf, State.flrOne_fns]
  split
  · next h =>
    subst h
    exact tget_tset_of_ne_default _ _ (Fn.afterFlr_ne_default _) _
  · next h => exact tget_tset_ne _ _ h _

/-- A reset of functions one after the other: each of them is reset, the others stay. -/
theorem State.fnOf_flrs (l : List Nat) (g : Nat) (s : State) :
    (l.foldl (fun s f => s.flrOne f) s).fnOf g = if g ∈ l then (s.fnOf g).afterFlr else s.fnOf g := by
  induction l generalizing s with
  | nil => rfl
  | cons f l ih =>
    rw [List.foldl_cons, ih, State.fnOf_flrOne]
    by_cases hf : g = f <;> by_cases hl : g ∈ l <;> simp [hf, hl, Fn.afterFlr_afterFlr]

/-- The functions that still have operations. -/
theorem State.flrs_tasks (l : List Nat) (s : State) :
    (l.foldl (fun s f => s.flrOne f) s).engine.tasks.map Op.fn = (s.engine.tasks.map Op.fn).filter fun f => f ∉ l := by
  induction l generalizing s with
  | nil => simp
  | cons f l ih =>
    obtain ⟨g, hg, e⟩ := s.flrOne_tasks f
    have hfn : (s.flrOne f).engine.tasks.map Op.fn = (s.engine.tasks.map Op.fn).filter fun k => k != f := by
      rw [e, List.filter_map, List.map_map, List.filter_map]
      have hc : Op.fn ∘ g = Op.fn := funext hg.fn
      have hp : ((fun o : Op => o.fn != f) ∘ g) = (fun k => k != f) ∘ Op.fn := funext fun o => congrArg (· != f) (hg.fn o)
      rw [hc, hp]
    rw [List.foldl_cons, ih, hfn, List.filter_filter]
    refine List.filter_congr fun k _ => ?_
    by_cases hk : k = f <;> simp [hk]

/-- A filtered table lists what passes. -/
theorem tget_filter_key {α : Type} [DecidableEq α] (d : α) (p : Nat → Bool) (k : Nat) (t : List (Nat × α)) :
    tget d (t.filter fun e => p e.1) k = if p k then tget d t k else d := by
  induction t with
  | nil => simp
  | cons e t ih =>
    obtain ⟨j, x⟩ := e
    rw [List.filter_cons, tget_cons]
    by_cases hjk : j = k
    · subst hjk
      cases hp : p j
      · simp only [Bool.false_eq_true, if_false, ih, hp]
      · simp only [if_true, tget_cons]
    · cases hp : p j
      · simp only [Bool.false_eq_true, if_false, ih, hjk]
      · simp only [if_true, tget_cons, ih, hjk, if_false]

theorem tget_tclear {α : Type} [DecidableEq α] (d : α) (lo hi k : Nat) (t : List (Nat × α)) :
    tget d (tclear lo hi t) k = if lo ≤ k ∧ k < hi then d else tget d t k := by
  rw [tclear, tget_filter_key d (fun k => !(decide (lo ≤ k) && decide (k < hi)))]
  by_cases h1 : lo ≤ k <;> by_cases h2 : k < hi <;> simp [h1, h2]

/-- The queues of a function after its reset, and of every other one. -/
theorem State.queueOf_flrOne (f g q : Nat) (hq : q < 4096) (s : State) :
    (s.flrOne f).queueOf g q = if g = f then {} else s.queueOf g q := by
  rw [State.queueOf, State.flrOne_queues, tget_tclear]
  have hk : (queueKey f 0 ≤ queueKey g q ∧ queueKey g q < queueKey (f + 1) 0) ↔ g = f := by
    unfold queueKey
    omega
  simp only [hk, State.queueOf]

/-- A reset of one function removes its operations alone, where operations have different numbers. -/
theorem State.flrOne_tasks_of_nodup {f : Nat} {s : State} (h : (s.engine.tasks.map Op.id).Nodup) :
    (s.flrOne f).engine.tasks = s.engine.tasks.filter fun o => o.fn != f := by
  obtain ⟨g, hg, e⟩ := s.flrOne_tasks f
  have hp : ((fun o : Op => o.fn != f) ∘ g) = fun o => o.fn != f := funext fun o => congrArg (· != f) (hg.fn o)
  rw [e, List.filter_map, hp]
  refine (List.map_congr_left fun o ho => hg.same o fun hid => ?_).trans (List.map_id' _)
  obtain ⟨ho, hof⟩ := List.mem_filter.mp ho
  obtain ⟨p, hpm, hpid⟩ := List.mem_map.mp hid
  obtain ⟨hpm, hpf⟩ := List.mem_filter.mp hpm
  obtain rfl : p = o := List.inj_on_of_nodup_map h hpm ho hpid
  simp only [beq_iff_eq] at hpf
  simp [hpf] at hof

/-- A reset of all functions (R84): what it leaves of the functions, the queues, the operations and the link. -/
theorem State.flrAll_resets (s : State) :
    (∀ f, s.exists? f = true → s.flrAll.fnOf f = (s.fnOf f).afterFlr) ∧ s.flrAll.queues = [] ∧ s.flrAll.engine.tasks = [] ∧
    s.flrAll.link.vfEnable = false ∧ s.SameUnderFlr s.flrAll := by
  generalize hu : s.fnKeys.foldl (fun s f => s.flrOne f) s = u
  have hall : s.flrAll = { u.resetSelectors with
      queues := []
      link := { speed := u.link.speed, width := u.link.width, downCount := u.link.downCount, aspm := u.link.aspm
                pmeStatus := u.link.pmeStatus, pmeEn := u.link.pmeEn }
      worlds := { u.worlds with discard := u.worlds.discard || u.worlds.go }
      legacy := u.legacy.afterFlr } := by rw [State.flrAll, hu]; rfl
  have hfn : ∀ f ∈ s.fnKeys, u.fnOf f = (s.fnOf f).afterFlr := fun f hf => by rw [← hu, State.fnOf_flrs, if_pos hf]
  have htasks : u.engine.tasks = [] := by
    have h := State.flrs_tasks s.fnKeys s
    rw [hu] at h
    have hnil : (s.engine.tasks.map Op.fn).filter (fun f => f ∉ s.fnKeys) = [] := by
      refine List.filter_eq_nil_iff.mpr fun f hf => ?_
      have hk : f ∈ s.fnKeys := List.mem_dedup.mpr (List.mem_append_right _ (List.mem_append_right _ hf))
      simp [hk]
    exact List.map_eq_nil_iff.mp (h.trans hnil)
  have hsame : s.SameUnderFlr u := hu ▸ .foldl (fun s f => s.flrOne_same f) _ s
  have hkey : ∀ f, s.exists? f = true → f ∈ s.fnKeys := fun f hf => by
    have hlt : f < 256 := by
      simp only [State.exists?, Bool.or_eq_true, beq_iff_eq, Bool.and_eq_true, decide_eq_true_eq] at hf
      omega
    exact List.mem_dedup.mpr (List.mem_append_left _ (List.mem_filter.mpr ⟨List.mem_range.mpr hlt, hf⟩))
  rw [hall]
  exact ⟨fun f hf => hfn f (hkey f hf), rfl, htasks, rfl, hsame.trans ⟨rfl, rfl, rfl, rfl, rfl, rfl, rfl⟩⟩

/-- A reset of the chip outside a Quench: what it leaves (R45). -/
theorem State.chipReset_resets {s : State} (hq : s.tamper.quench = false) (cause : Nat) :
    ∃ t, s.chipReset cause = State.chipResetTo cause t ∧ t.pins = s.pins ∧ t.crucible = s.crucible ∧ t.life = s.life ∧ t.trims = s.trims ∧
      t.pending = s.pending := by
  have h₁ := s.loseCeremony_only
  have h₂ := s.loseCeremony.flushStore_storeOnly
  unfold State.StoreOnly at h₂
  refine ⟨_, State.chipReset_of_no_quench hq cause, ?_⟩
  rw [h₂, h₁]
  exact ⟨rfl, rfl, rfl, rfl, rfl⟩

/-- Settles O1. -/
theorem resets : Obligations.Resets := by
  refine ⟨⟨fun s hq => ?_, fun s hp => ?_, fun s hp => ?_, fun s => ?_, fun s hv => ?_⟩, fun s hq => ?_, fun s => ?_, fun s => ?_,
    fun s => ?_, fun s f hf hx hnd => ?_, fun s f hw => ?_⟩
  · obtain ⟨t, ht, hpins, hcru, hlife, htrims, hpend⟩ :=
      State.chipReset_resets (s := { s with pins := { s.pins with perstN := false } }) hq 1
    exact ⟨_, next_congr ht, rfl, rfl, congrArg Pins.perstN hpins, rfl, rfl, rfl, rfl, hcru, (congrArg Life.stage hlife :), htrims, hpend⟩
  · refine ⟨_, next_congr (if_neg (by simp [hp])), ?_⟩
    unfold State.powerOnReset
    rw [State.loseCeremony_only]
    exact ⟨rfl, rfl, rfl, rfl, rfl, rfl, rfl, rfl, rfl, rfl, rfl, rfl⟩
  · refine ⟨_, next_congr (if_neg (by simp [hp])), ?_⟩
    rw [State.cutRecord_only, State.loseCeremony_only]
    dsimp only
    split
    · next hv => exact ⟨rfl, rfl, rfl, rfl, rfl, rfl, rfl, rfl, rfl, rfl, (if_pos hv).symm⟩
    · next hv => exact ⟨rfl, rfl, rfl, rfl, rfl, rfl, rfl, rfl, rfl, rfl, (if_neg hv).symm⟩
  · refine next_congr ?_
    dsimp only
    split <;> rfl
  · refine next_congr ?_
    rw [if_neg (by simp [hv])]
    dsimp only
    split <;> rfl
  · exact next_congr (if_pos hq)
  · obtain ⟨hfn, hq, ht, hvf, h⟩ := s.flrAll_resets
    refine ⟨_, rfl, fun f hf => ?_, hq, ht, hvf, rfl, rfl, h.chip, h.slots, h.crucible, h.store⟩
    have e : s.flrAll.retrain.fnOf f = (s.fnOf f).afterFlr := hfn f hf
    rw [e]
    exact ⟨rfl, rfl, rfl⟩
  · obtain ⟨hfn, hq, ht, hvf, h⟩ := s.flrAll_resets
    refine ⟨_, next_congr (if_pos rfl), fun f hf => ?_, hq, ht, hvf, h.speed, h.width, h.chip, h.slots, h.crucible, h.store⟩
    rw [hfn f hf]
    exact ⟨rfl, rfl, rfl⟩
  · obtain ⟨hfn, hq, ht, hvf, h⟩ := s.flrAll_resets
    refine ⟨_, rfl, fun f hf => ?_, hq, ht, hvf, rfl, rfl, congrArg (satInc 65535) h.downCount, h.chip, h.slots, h.crucible, h.store⟩
    have e : s.flrAll.retrain.fnOf f = (s.fnOf f).afterFlr := hfn f hf
    exact congrArg Fn.flr e
  · have h := s.flrOne_same f.toNat
    have hfn := State.fnOf_flrOne f.toNat f.toNat s
    rw [if_pos rfl] at hfn
    refine ⟨_, next_congr ((if_neg hf).trans (if_pos hx)), congrArg Fn.flr hfn, congrArg Fn.msixEn hfn, (congrArg Fn.queues hfn :),
      fun q hq => ?_, State.flrOne_tasks_of_nodup hnd, fun g hg => ?_, fun g q hg hq => ?_, h.chip, h.slots, h.crucible, h.store⟩
    · rw [State.queueOf_flrOne _ _ _ hq, if_pos rfl]
    · rw [State.fnOf_flrOne, if_neg hg]
    · rw [State.queueOf_flrOne _ _ _ hq, if_neg hg]
  · exact ⟨_, rfl, State.fnOf_modFn_same _ _ _ hw, fun g hg => State.fnOf_modFn_ne _ _ _ _ hg, rfl⟩

end Sys2Proof.Machine
end

section
/-!
REFUTATION of O2: the clause for the Function Mask does not ask that the table of the functions is in canonical form.
-/
namespace Sys2Proof.Machine

/-- A state whose table of functions lists the PF twice: with its Function Mask set, and with an open vector that has a message pending.
The first entry is read; a change that makes it the reset value removes it, and then the second is. -/
def maskedTwice : State :=
  { fns := [(0, { funcMask := true }), (0, { msixEn := true, vecOpen := [(7, true)], vecPend := [(7, true)] })] }

theorem maskedTwice_unmasked_sends : ∃ t, exec (.vectorUnmask 0 none) maskedTwice = .next t ∧ t.sent = [.msix 0 7] :=
  ⟨_, rfl, by decide +kernel⟩

/-- Refutes O2: in `maskedTwice` no message of the PF is pending, and the Function Mask cleared sends one. -/
theorem not_linkCommands : ¬ Obligations.LinkCommands := by
  rintro ⟨-, -, -, -, -, -, -, -, -, -, -, hunmask, -⟩
  obtain ⟨t, ht, hsent⟩ := maskedTwice_unmasked_sends
  rw [hunmask maskedTwice 0 rfl] at ht
  obtain rfl := Host.Outcome.next.inj ht
  exact absurd hsent (by decide +kernel)

end Sys2Proof.Machine
end

section
/-!
PROOF of O3: the registers of a queue context, its enable and the pool of queues.
-/
namespace Sys2Proof.Machine

/-- A field of a register, read either way. -/
theorem bits_eq_extractLsb' {w : Nat} (x : BitVec w) (hi lo : Nat) : bits x hi lo = (x.extractLsb' lo (hi + 1 - lo)).toNat := by
  rw [bits, BitVec.extractLsb'_toNat, Nat.shiftRight_eq_div_pow]

theorem extractLsb'_eq_zero_iff {w : Nat} (x : BitVec w) (hi lo : Nat) : x.extractLsb' lo (hi + 1 - lo) = 0 ↔ bits x hi lo = 0 := by
  rw [bits_eq_extractLsb']
  exact ⟨fun h => congrArg BitVec.toNat h, fun h => BitVec.eq_of_toNat_eq h⟩

/-- An entry of a canonical table is read at its key. -/
theorem tget_of_mem {α : Type} [DecidableEq α] {d : α} {t : List (Nat × α)} (h : twf d t = true) {k : Nat} {x : α} (hm : (k, x) ∈ t) :
    tget d t k = x := by
  induction t with
  | nil => cases hm
  | cons e t ih =>
    obtain ⟨j, y⟩ := e
    simp only [twf, Bool.and_eq_true] at h
    rw [tget_cons]
    rcases List.mem_cons.mp hm with he | hm
    · cases he
      exact if_pos rfl
    · have hx := ih (twf_of_tabove h.2) hm
      split
      · next hjk =>
        subst hjk
        have hd := tget_of_tabove d le_rfl h.2
        have hne : ∀ {b : Nat} {l : List (Nat × α)}, tabove d b l = true → (j, x) ∈ l → b < j := by
          intro b l hl hm
          induction l generalizing b with
          | nil => cases hm
          | cons f l ih =>
            obtain ⟨i, z⟩ := f
            simp only [tabove, Bool.and_eq_true, decide_eq_true_eq] at hl
            rcases List.mem_cons.mp hm with he | hm
            · cases he
              exact hl.1.1
            · exact lt_trans hl.1.1 (ih hl.2 hm)
        exact absurd (hne h.2 hm) (lt_irrefl _)
      · exact hx

section
variable {s : State} {p f q : Nat} (hp : s.pageOpen p = true) (hs : s.selected p = (f, q))
include hp hs

theorem State.onSelected_of_held (hh : s.holdsQueue f q = true) (act : Nat → Nat → State → State) : s.onSelected p act = act f q s := by
  simp only [State.onSelected, hp, hs, hh, not_true_eq_false, if_false, if_true]

theorem State.onSelected_of_unheld (hh : s.holdsQueue f q = false) (act : Nat → Nat → State → State) :
    s.onSelected p act = s.queueError p 5 := by
  simp only [State.onSelected, hp, hs, hh, not_true_eq_false, if_false, Bool.false_eq_true]

theorem State.onIdle_of_idle (hh : s.holdsQueue f q = true) (he : (s.queueOf f q).enable = false) (hd : (s.queueOf f q).drained = true)
    (act : Nat → Nat → State → State) : s.onIdle p act = act f q s := by
  rw [State.onIdle, State.onSelected_of_held hp hs hh]
  simp only [he, hd, Bool.false_eq_true, not_true_eq_false, or_self, if_false]

theorem State.onIdle_of_busy (hh : s.holdsQueue f q = true) (hb : (s.queueOf f q).enable = true ∨ (s.queueOf f q).drained = false)
    (act : Nat → Nat → State → State) : s.onIdle p act = s.queueError p 4 := by
  rw [State.onIdle, State.onSelected_of_held hp hs hh]
  refine if_pos ?_
  rcases hb with hb | hb <;> simp [hb]

end

theorem State.modQueue_twf (f q : Nat) (g : Queue → Queue) (s : State) (h : twf {} s.queues = true) :
    twf {} (s.modQueue f q g).queues = true :=
  twf_tmod ({} : Queue) (queueKey f q) g h

/-- What a function's row is given is read back, unless it is the row of a function as after reset. -/
theorem State.fnOf_modFn_of_ne_default {s : State} {f : Nat} {g : Fn → Fn} (h : g (s.fnOf f) ≠ {}) :
    (s.modFn f g).fnOf f = g (s.fnOf f) :=
  tget_tset_of_ne_default ({} : Fn) f h s.fns

theorem depthOk_iff (n : Nat) : depthOk n = true ↔ ∃ k, 1 ≤ k ∧ k ≤ 16 ∧ n = 2 ^ k := by
  simp only [depthOk, List.any_eq_true, List.mem_range, beq_iff_eq]
  constructor
  · rintro ⟨i, hi, rfl⟩
    exact ⟨i + 1, by omega, by omega, rfl⟩
  · rintro ⟨k, h1, h16, rfl⟩
    exact ⟨k - 1, by omega, by rw [Nat.sub_add_cancel h1]⟩

/-- Queues that are all disabled and drained may change hands. -/
theorem State.idleQueues_of {s : State} {f lo hi : Nat} (hw : twf {} s.queues = true)
    (he : ∀ q, (s.queueOf f q).enable = false) (hd : ∀ q, (s.queueOf f q).drained = true) : s.idleQueues f lo hi = true := by
  rw [State.idleQueues, List.all_eq_true]
  rintro ⟨k, c⟩ hm
  obtain ⟨hm, hr⟩ := List.mem_filter.mp hm
  have hr : queueKey f lo ≤ k ∧ k < queueKey f hi := by simpa using hr
  unfold queueKey at hr
  have hk : queueKey f (k - f * 4096) = k := by
    unfold queueKey
    omega
  have hc : s.queueOf f (k - f * 4096) = c := by
    rw [State.queueOf, hk]
    exact tget_of_mem hw hm
  simp only [← hc, he, hd, Bool.not_false, Bool.and_self]

/-- Settles O3. -/
theorem queueRegisters : Obligations.QueueRegisters := by
  refine ⟨⟨fun s p v f q hp hs hh he hd => ?_, fun s p r v f q hp hs hh hb => ?_, fun s p r v f q hp hs hh => ?_⟩,
    fun s p f q hp hs hh => ⟨fun he hd hdep => ?_, fun hw => ?_, fun v h0 hq => ?_, fun v h0 hq => ?_⟩,
    fun s v hpf hleg hn hpool hwf hold he hd hwq => ?_, fun s v hpf hleg hn => ?_⟩
  · have hact := State.onIdle_of_idle hp hs hh he hd
    have h6 := extractLsb'_eq_zero_iff v 5 0
    have h17 : bits v 16 0 = (v.extractLsb' 0 17).toNat := bits_eq_extractLsb' v 16 0
    have hvec : bits v 10 0 = (v.extractLsb' 0 11).toNat := bits_eq_extractLsb' v 10 0
    refine ⟨fun h => ?_, ?_, fun h => ?_, ?_, fun h => ⟨?_, ?_⟩, fun h => ?_, fun h => ?_, ?_, fun h => ?_, fun h hen => ?_⟩
    · exact next_congr ((hact _).trans (if_neg (not_not_intro (h6.mp h))))
    · exact next_congr (hact _)
    · exact next_congr ((hact _).trans (if_neg (not_not_intro (h6.mp h))))
    · exact next_congr (hact _)
    · exact next_congr ((hact _).trans (if_pos (mt h6.mpr h)))
    · exact next_congr ((hact _).trans (if_pos (mt h6.mpr h)))
    · rw [← h17] at h ⊢
      exact next_congr ((hact _).trans (if_pos ((depthOk_iff _).mpr h)))
    · rw [← h17] at h
      exact next_congr ((hact _).trans (if_neg (mt (depthOk_iff _).mp h)))
    · rw [← bits_eq_extractLsb' v 7 0, ← bits_eq_extractLsb' v 25 16]
      exact next_congr (hact _)
    · rw [← hvec] at h ⊢
      refine next_congr ((hact _).trans (if_neg ?_))
      rintro ⟨hen, hv⟩
      rcases h with h | h
      · exact hv h
      · exact Bool.noConfusion (h.symm.trans hen)
    · rw [← hvec] at h
      exact next_congr ((hact _).trans (if_pos ⟨hen, by simp [h]⟩))
  · exact ⟨next_congr (State.onIdle_of_busy hp hs hh hb _), next_congr (State.onIdle_of_busy hp hs hh hb _)⟩
  · exact ⟨next_congr (State.onSelected_of_unheld hp hs hh _), next_congr (State.onSelected_of_unheld hp hs hh _)⟩
  · have hrun := State.onSelected_of_held hp hs hh
    refine ⟨_, next_congr ((hrun _).trans ((if_neg (by simp [he])).trans ((if_neg (by simp [hd])).trans (if_neg hdep)))), ?_⟩
    have hq := tget_tset_of_ne_default {} (queueKey f q) (v := { s.queueOf f q with
      enable := true, sqHead := 0, cqTail := 0, sqTail := 0, cqHead := 0, phase := true, broken := false, cause := 0,
      inFlight := 0, unreleased := 0, reads := [], nextSeq := 0, pendIrq := 0, timer := false })
      (fun h => Bool.noConfusion (congrArg Queue.enable h : true = false)) s.queues
    exact ⟨congrArg Queue.enable hq, congrArg Queue.sqHead hq, congrArg Queue.cqTail hq, congrArg Queue.sqTail hq,
      congrArg Queue.cqHead hq, congrArg Queue.phase hq, congrArg Queue.broken hq, (congrArg Queue.depth hq :),
      (congrArg Queue.sqBase hq :), (congrArg Queue.cqBase hq :), fun g k hk => State.queueOf_modQueue_ne _ _ _ _ _ _ hk, rfl⟩
  · refine ⟨_, next_congr (State.onSelected_of_held hp hs hh _), ?_, fun g k hk => ?_, rfl, rfl⟩
    · have hw' : twf {} (s.dropReads f q).queues = true := State.modQueue_twf f q _ s hw
      rw [State.queueOf_modQueue_same _ _ _ _ hw']
      have hd : (s.dropReads f q).queueOf f q = { s.queueOf f q with reads := [] } := State.queueOf_modQueue_same f q _ _ hw
      rw [hd]
    · rw [State.queueOf_modQueue_ne _ _ _ _ _ _ hk]
      exact State.queueOf_modQueue_ne _ _ _ _ _ _ hk
  · subst h0
    rw [← bits_eq_extractLsb' v 23 16, ← bits_eq_extractLsb' v 11 0] at hq ⊢
    exact next_congr ((if_neg (not_not_intro hp)).trans (if_pos hq))
  · have h0' : ¬ p.toNat = 0 := fun h => h0 (BitVec.eq_of_toNat_eq h)
    rw [← bits_eq_extractLsb' v 11 0] at hq ⊢
    refine next_congr ((if_neg (not_not_intro hp)).trans ?_)
    rw [if_neg h0']
    have hlt : bits v 11 0 < (s.fnOf p.toNat).queues := of_decide_eq_true hq
    have hfn : (s.modFn p.toNat fun n => { n with qsel := bits v 11 0 }).fnOf p.toNat = { s.fnOf p.toNat with qsel := bits v 11 0 } :=
      State.fnOf_modFn_of_ne_default (fun h => by
        have h0 : (s.fnOf p.toNat).queues = 0 := congrArg Fn.queues h
        omega)
    have hsel : (s.modFn p.toNat fun n => { n with qsel := bits v 11 0 }).selected p.toNat = (p.toNat, bits v 11 0) := by
      rw [State.selected, if_neg h0', hfn]
    dsimp only
    rw [hsel]
    refine if_pos ?_
    rw [State.holdsQueue, hfn]
    exact hq
  · rw [← bits_eq_extractLsb' v 12 0] at hn hpool ⊢
    have hidle := State.idleQueues_of (lo := bits v 12 0) (hi := (s.fnOf s.qmgr.funcSel).queues) hwq he hd
    have hno : ¬ (4096 < bits v 12 0 ∨ s.qmgr.poolFree + (s.fnOf s.qmgr.funcSel).queues < bits v 12 0 ∨
        ¬ s.idleQueues s.qmgr.funcSel (bits v 12 0) (s.fnOf s.qmgr.funcSel).queues = true) := by
      rintro (h | h | h)
      · omega
      · omega
      · exact h hidle
    refine ⟨_, next_congr ((if_pos hpf).trans ((if_neg (by simp [hleg])).trans (if_neg hno))), ?_, ?_, fun g hg => ?_, rfl, rfl⟩
    · exact State.fnOf_modFn_same s.qmgr.funcSel (fun x => { x with queues := bits v 12 0 }) s hwf
    · have hfn := State.fnOf_modFn_same s.qmgr.funcSel (fun x => { x with queues := bits v 12 0 }) s hwf
      change s.qmgr.poolFree + (s.fnOf s.qmgr.funcSel).queues - bits v 12 0 +
        ((s.modFn s.qmgr.funcSel fun x => { x with queues := bits v 12 0 }).fnOf s.qmgr.funcSel).queues = _
      rw [hfn]
      exact Nat.sub_add_cancel hpool
    · exact State.fnOf_modFn_ne s.qmgr.funcSel g (fun x => { x with queues := bits v 12 0 }) s hg
  · rw [← bits_eq_extractLsb' v 12 0] at hn
    refine next_congr ((if_pos hpf).trans ((if_neg (by simp [hleg])).trans (if_pos ?_)))
    rcases hn with h | h
    · exact .inl h
    · exact .inr (.inl h)

end Sys2Proof.Machine
end

section
/-!
PROOF of O4: doorbells, the descriptor fetch and the arrival of a descriptor.
-/
namespace Sys2Proof.Machine

/-- What a queue context is given is read back, unless it is a context as after reset. -/
theorem State.queueOf_modQueue_of_ne_default {s : State} {f q : Nat} {g : Queue → Queue} (h : g (s.queueOf f q) ≠ {}) :
    (s.modQueue f q g).queueOf f q = g (s.queueOf f q) :=
  tget_tset_of_ne_default ({} : Queue) (queueKey f q) h s.queues

theorem State.modQueue_congr {s : State} {f q : Nat} {g g' : Queue → Queue} (h : g (s.queueOf f q) = g' (s.queueOf f q)) :
    s.modQueue f q g = s.modQueue f q g' := by
  simp only [State.modQueue, tmod]
  exact congrArg (fun c => { s with queues := tset {} (queueKey f q) c s.queues }) h

theorem Queue.ne_default_of_enable {c : Queue} (h : c.enable = true) : c ≠ {} :=
  fun h0 => Bool.noConfusion (h.symm.trans (congrArg Queue.enable h0 : c.enable = false))

theorem Queue.ne_default_of_broken {c : Queue} (h : c.broken = true) : c ≠ {} :=
  fun h0 => Bool.noConfusion (h.symm.trans (congrArg Queue.broken h0 : c.broken = false))

/-! ### Breaking a queue -/

theorem State.dropReads_engine (f q : Nat) (s : State) : (s.dropReads f q).engine = s.engine := rfl

/-- A broken queue shows its cause; the operations stay. -/
theorem State.breakQueue_broken (f q cause : Nat) (s : State) :
    ((s.breakQueue f q cause).queueOf f q).broken = true ∧ ((s.breakQueue f q cause).queueOf f q).cause = cause ∧
    (s.breakQueue f q cause).engine = s.engine := by
  have hrd : (s.breakQueue f q cause).queueOf f q =
      ((s.dropReads f q).modQueue f q fun c => { c with broken := true, cause := cause }).queueOf f q := by
    simp [State.breakQueue, State.queueOf]
  have h := State.queueOf_modQueue_of_ne_default (s := s.dropReads f q) (f := f) (q := q)
    (g := fun c => { c with broken := true, cause := cause }) (Queue.ne_default_of_broken rfl)
  rw [hrd, h]
  exact ⟨rfl, rfl, by simp [State.breakQueue, State.dropReads_engine]⟩

/-- A queue in use keeps its tail when it is broken, and has no read under way. -/
theorem State.breakQueue_keeps {f q cause : Nat} {s : State} (he : (s.queueOf f q).enable = true) :
    (s.breakQueue f q cause).queueOf f q = { s.queueOf f q with reads := [], broken := true, cause := cause } := by
  have hrd : (s.breakQueue f q cause).queueOf f q =
      ((s.dropReads f q).modQueue f q fun c => { c with broken := true, cause := cause }).queueOf f q := by
    simp [State.breakQueue, State.queueOf]
  have hdr : (s.dropReads f q).queueOf f q = { s.queueOf f q with reads := [] } :=
    State.queueOf_modQueue_of_ne_default (s := { s with link := _ }) (g := fun c => { c with reads := [] })
      (Queue.ne_default_of_enable he)
  rw [hrd, State.queueOf_modQueue_of_ne_default (Queue.ne_default_of_broken rfl), hdr]

@[simp] theorem State.leaveL1_queueOf (s : State) (f q : Nat) : s.leaveL1.queueOf f q = s.queueOf f q := by
  unfold State.leaveL1
  split <;> rfl

@[simp] theorem State.leaveL1_doorbellOpen (s : State) (f : Nat) : s.leaveL1.doorbellOpen f = s.doorbellOpen f := by
  unfold State.leaveL1
  split <;> rfl

@[simp] theorem State.leaveL1_holdsQueue (s : State) (f q : Nat) : s.leaveL1.holdsQueue f q = s.holdsQueue f q := by
  unfold State.leaveL1
  split <;> rfl

@[simp] theorem State.leaveL1_engine (s : State) : s.leaveL1.engine = s.engine := by
  unfold State.leaveL1
  split <;> rfl

@[simp] theorem State.leaveL1_queues (s : State) : s.leaveL1.queues = s.queues := by
  unfold State.leaveL1
  split <;> rfl

/-! ### The halves of a doorbell on a queue in use -/

section
variable {s : State} {f q : Nat} (hh : s.holdsQueue f q = true) (he : (s.queueOf f q).enable = true)
  (hb : (s.queueOf f q).broken = false)
include hh he hb

theorem State.sqHalf_of_range {v : Nat} (h : (s.queueOf f q).depth ≤ v) : s.sqHalf f q v = s.breakQueue f q 1 := by
  simp [State.sqHalf, hh, he, hb, h]

theorem State.sqHalf_of_back {v : Nat} (h : v < (s.queueOf f q).depth)
    (hv : (v + (s.queueOf f q).depth - (s.queueOf f q).sqHead) % (s.queueOf f q).depth <
      ((s.queueOf f q).sqTail + (s.queueOf f q).depth - (s.queueOf f q).sqHead) % (s.queueOf f q).depth) :
    s.sqHalf f q v = s.breakQueue f q 5 := by
  simp [State.sqHalf, hh, he, hb, Nat.not_le.mpr h, hv]

theorem State.sqHalf_of_valid {v : Nat} (h : v < (s.queueOf f q).depth)
    (hv : ((s.queueOf f q).sqTail + (s.queueOf f q).depth - (s.queueOf f q).sqHead) % (s.queueOf f q).depth ≤
      (v + (s.queueOf f q).depth - (s.queueOf f q).sqHead) % (s.queueOf f q).depth) :
    s.sqHalf f q v = s.modQueue f q fun c => { c with sqTail := v } := by
  simp [State.sqHalf, hh, he, hb, Nat.not_le.mpr h, Nat.not_lt.mpr hv]

theorem State.cqHalf_of_range {v : Nat} (h : (s.queueOf f q).depth ≤ v) : s.cqHalf f q v = s.breakQueue f q 2 := by
  simp [State.cqHalf, State.badHead, hh, he, hb, h]

theorem State.cqHalf_of_excess {v : Nat} (h : v < (s.queueOf f q).depth)
    (hv : (s.queueOf f q).unreleased < (v + (s.queueOf f q).depth - (s.queueOf f q).cqHead) % (s.queueOf f q).depth) :
    s.cqHalf f q v = s.breakQueue f q 3 := by
  simp [State.cqHalf, State.badHead, hh, he, hb, Nat.not_le.mpr h, hv]

theorem State.cqHalf_of_valid {v : Nat} (h : v < (s.queueOf f q).depth)
    (hv : (v + (s.queueOf f q).depth - (s.queueOf f q).cqHead) % (s.queueOf f q).depth ≤ (s.queueOf f q).unreleased)
    (hp : (s.queueOf f q).pendIrq = 0) :
    s.cqHalf f q v = s.modQueue f q fun c => { c with
      cqHead := v, unreleased := c.unreleased - (v + c.depth - c.cqHead) % c.depth } := by
  have hrun : s.cqHalf f q v = s.modQueue f q fun c => { c with cqHead := v, unreleased := c.unreleased -
      (v + (s.queueOf f q).depth - (s.queueOf f q).cqHead) % (s.queueOf f q).depth } := by
    simp [State.cqHalf, hh, he, hb, Nat.not_le.mpr h, Nat.not_lt.mpr hv, hp]
  exact hrun.trans (State.modQueue_congr rfl)

end

/-- A doorbell of a queue that is not in use is dropped. -/
theorem State.sqHalf_of_unused {s : State} {f q : Nat}
    (h : s.holdsQueue f q = false ∨ (s.queueOf f q).enable = false ∨ (s.queueOf f q).broken = true) (v : Nat) :
    s.sqHalf f q v = s.dropDoorbell f q := by
  refine if_pos ?_
  rcases h with h | h | h <;> simp [h]

/-! ### The fetch of descriptors -/

theorem State.charge_tasks (region f : Nat) (s : State) : (s.charge region f).engine.tasks = s.engine.tasks := rfl

theorem submission_fetch {s : State} {f : BitVec 8} {q : BitVec 12} {c : Queue} (hc : s.queueOf f.toNat q.toNat = c)
    (hf : s.fetches = true) (hd : s.doorbellOpen f.toNat = true)
    (hh : s.holdsQueue f.toNat q.toNat = true) (he : c.enable = true) (hb : c.broken = false)
    (hl : s.link.readsOut + 1 < s.link.tagMode.limit) (hg : s.granted 0 (s.hasWork 0) = some f.toNat)
    (hn : 0 < s.fetchCount c) (hr : c.reads = []) (hlt : c.sqHead < c.depth) :
    ∃ t, exec (.descriptorFetch f q) s = .next t ∧
      t.sent = .read f.toNat (c.sqBase + BitVec.ofNat 64 (64 * c.sqHead)) (64 * s.fetchCount c) :: s.sent ∧
      t.queueOf f.toNat q.toNat = { c with reads := [(c.sqHead, s.fetchCount c)] } ∧
      t.link = { s.link with readsOut := s.link.readsOut + 1 } ∧ t.engine.tasks = s.engine.tasks ∧ t.rack = s.rack := by
  have hno : ¬ (¬ s.fetches ∨ ¬ s.doorbellOpen f.toNat ∨ ¬ s.holdsQueue f.toNat q.toNat ∨ ¬ c.enable ∨ c.broken ∨
      s.link.tagMode.limit ≤ s.link.readsOut + 1 ∨ s.granted 0 (s.hasWork 0) ≠ some f.toNat) := by
    simp [hf, hd, hh, he, hb, Nat.not_le.mpr hl, hg]
  have hnext : (c.sqHead + c.coming) % c.depth = c.sqHead := by
    simp [Queue.coming, hr, Nat.mod_eq_of_lt hlt]
  subst hc
  refine ⟨_, next_congr ((if_neg hno).trans (if_neg hn.ne')), ?_, ?_, rfl, rfl, rfl⟩
  · dsimp only
    rw [hnext]
    rfl
  · have hq := State.queueOf_modQueue_of_ne_default (s := s.charge 0 f.toNat) (f := f.toNat) (q := q.toNat)
      (g := fun c => { c with reads := c.reads ++ [((s.queueOf f.toNat q.toNat).sqHead, s.fetchCount (s.queueOf f.toNat q.toNat))] })
      (Queue.ne_default_of_enable he)
    dsimp only
    rw [hnext]
    refine hq.trans ?_
    change ({ s.queueOf f.toNat q.toNat with reads := (s.queueOf f.toNat q.toNat).reads ++ _ } : Queue) = _
    rw [hr]
    rfl

/-! ### The arrival of one descriptor -/

/-- The operation that a descriptor arriving next becomes. -/
def State.arriving (s : State) (f q : Nat) (d : BitVec 512) : Op :=
  { id := s.engine.nextId, fn := f, queue := q, seq := (s.queueOf f q).nextSeq, desc := d
    gen := (s.fnOf f).allowGen, prio := (s.fnOf f).priority }

/-- The state in which the checks of a descriptor run: its ring has moved on and its name is taken. -/
def State.admitted (s : State) (f q : Nat) : State :=
  { (s.modQueue f q fun c => { c with
      sqHead := (c.sqHead + 1) % c.depth, inFlight := c.inFlight + 1, nextSeq := c.nextSeq + 1 }) with
    engine := { s.engine with nextId := s.engine.nextId + 1 } }

/-- An operation added to those in flight. -/
def State.addTask (s : State) (o : Op) : State := { s with engine := { s.engine with tasks := s.engine.tasks ++ [o] } }

theorem State.admitted_fault123 (s : State) (f q : Nat) (o : Op) : (s.admitted f q).fault123 o = s.fault123 o := rfl

theorem State.admitted_fault45 (s : State) (f q : Nat) (o : Op) : (s.admitted f q).fault45 o = s.fault45 o := rfl

theorem State.admitted_descFault (s : State) (f q : Nat) (o : Op) : (s.admitted f q).descFault o = s.descFault o := rfl

theorem State.opOf_addTask {s : State} {o : Op} (h : s.opOf o.id = none) : (s.addTask o).opOf o.id = some o := by
  have h0 : s.engine.tasks.find? (fun p => p.id == o.id) = none := h
  simp [State.opOf, State.addTask, List.find?_append, h0]

section
variable {s : State} {f q : Nat} {d : BitVec 512}

theorem State.arrive_waits (hp : s.powered 28 = false) (hq : (s.arriving f q d).queueOp = false)
    (hf : s.fault123 (s.arriving f q d) = none) :
    s.arrive f q d = (s.admitted f q).addTask { s.arriving f q d with stage := .check } := by
  refine if_pos (show ¬ s.powered 28 = true ∧ ¬ (s.arriving f q d).queueOp = true ∧ (s.fault123 (s.arriving f q d)).isNone = true from ?_)
  simp [hp, hq, hf]

theorem State.arrive_checked (h : s.powered 28 = true ∨ (s.arriving f q d).queueOp = true ∨ s.fault123 (s.arriving f q d) ≠ none) :
    s.arrive f q d = match s.descFault (s.arriving f q d) with
      | none => (s.admitted f q).placeOp (s.arriving f q d)
      | some (st, detail) => ((s.admitted f q).addTask (s.arriving f q d)).fail (s.arriving f q d).id st detail := by
  refine if_neg (show ¬ (¬ s.powered 28 = true ∧ ¬ (s.arriving f q d).queueOp = true ∧
    (s.fault123 (s.arriving f q d)).isNone = true) from ?_)
  rintro ⟨h1, h2, h3⟩
  rcases h with h | h | h
  · exact h1 h
  · exact h2 h
  · exact h (Option.isNone_iff_eq_none.mp h3)

/-- The operation as its place keeps it: with the swage that it was checked against. -/
def State.placedOp (s : State) (o : Op) : Op :=
  let p := { o with recip := if o.opcode = 0x0300 then s.swageOf (dPlan o.desc % 1024) else none }
  { p with stage := placeOf p }

theorem State.placeOp_eq (s : State) (o : Op) : s.placeOp o =
    if o.opcode / 256 = 6 ∨ o.opcode = 0x0710 then { s.addTask (s.placedOp o) with worlds := s.worlds.join o.id }
    else if o.opcode / 256 = 7 then
      { s.addTask (s.placedOp o) with cards := { s.cards with sd := { s.cards.sd with waiting := s.cards.sd.waiting ++ [o.id] } } }
    else s.addTask (s.placedOp o) := rfl

theorem State.opOf_placeOp {o : Op} (h : s.opOf o.id = none) : (s.placeOp o).opOf o.id = some (s.placedOp o) := by
  have hadd : (s.addTask (s.placedOp o)).opOf o.id = some (s.placedOp o) := State.opOf_addTask (o := s.placedOp o) h
  have htasks : (s.placeOp o).engine.tasks = (s.addTask (s.placedOp o)).engine.tasks := by
    rw [State.placeOp_eq]
    repeat' split
    all_goals rfl
  exact (State.opOf_congr htasks _).trans hadd

theorem State.placeOp_keeps (s : State) (o : Op) :
    (s.placeOp o).queues = s.queues ∧ (s.placeOp o).rack = s.rack ∧ (s.placeOp o).sent = s.sent := by
  rw [State.placeOp_eq]
  repeat' split
  all_goals exact ⟨rfl, rfl, rfl⟩

theorem State.mem_channel_placeOp {o : Op} (h : o.opcode / 256 = 6) :
    o.id ∈ (s.placeOp o).worlds.channel ++ (s.placeOp o).worlds.chanWait := by
  have hw : (s.placeOp o).worlds = s.worlds.join o.id := by
    rw [State.placeOp_eq, if_pos (.inl h)]
  rw [hw]
  change o.id ∈ (s.worlds.channel ++ (s.worlds.chanWait ++ [o.id]).take _) ++ (s.worlds.chanWait ++ [o.id]).drop _
  rw [List.append_assoc, List.take_append_drop]
  simp

theorem State.mem_waiting_placeOp {o : Op} (h : o.opcode / 256 = 7) (h' : o.opcode ≠ 0x0710) :
    o.id ∈ (s.placeOp o).cards.sd.waiting := by
  have hno : ¬ (o.opcode / 256 = 6 ∨ o.opcode = 0x0710) := by omega
  have hw : (s.placeOp o).cards.sd.waiting = s.cards.sd.waiting ++ [o.id] := by
    rw [State.placeOp_eq, if_neg hno, if_pos h]
  simp [hw]

end

theorem placeOf_of_region {o : Op} (h : o.opcode / 256 ∈ [1, 2, 4, 5]) : placeOf o = .region := by
  simp only [List.mem_cons, List.not_mem_nil, or_false] at h
  unfold placeOf
  dsimp only
  rw [if_neg (by omega), if_neg (by omega), if_neg (by omega)]

theorem placeOf_of_queue {o : Op} (h : o.opcode / 256 = 8) : placeOf o = .qengine := if_pos h

theorem placeOf_of_channel {o : Op} (h : o.opcode / 256 = 6 ∨ o.opcode / 256 = 7) : placeOf o = .channel := by
  unfold placeOf
  dsimp only
  rw [if_neg (by omega), if_neg (by omega), if_pos (by omega)]

/-- What an arrival does to the queues, the Rack and what is sent, whatever the checks find. -/
theorem State.arrive_keeps (f q : Nat) (s : State) (d : BitVec 512) :
    (s.arrive f q d).queues = (s.admitted f q).queues ∧ (s.arrive f q d).rack.slots = s.rack.slots ∧ (s.arrive f q d).sent = s.sent := by
  by_cases h : s.powered 28 = true ∨ (s.arriving f q d).queueOp = true ∨ s.fault123 (s.arriving f q d) ≠ none
  · rw [State.arrive_checked h]
    split
    · obtain ⟨hq, hr, hs⟩ := (s.admitted f q).placeOp_keeps (s.arriving f q d)
      exact ⟨hq, by rw [hr]; rfl, hs⟩
    · next st detail _ =>
      have hfr := ((s.admitted f q).addTask (s.arriving f q d)).fail_frame (s.arriving f q d).id st detail
      have hsl := ((s.admitted f q).addTask (s.arriving f q d)).finish_slots (s.arriving f q d).id st detail 0 []
      exact ⟨by simp [State.fail_frame, State.addTask], hsl, by simp [State.addTask, State.admitted]⟩
  · simp only [not_or, not_not, Bool.not_eq_true] at h
    rw [State.arrive_waits h.1 h.2.1 h.2.2]
    exact ⟨rfl, rfl, rfl⟩

theorem submission_arrival {s : State} {f : BitVec 8} {q : BitVec 12} {d : BitVec 512} {n : Nat} {o : Op}
    (hr : (s.queueOf f.toNat q.toNat).reads = [(n, 1)]) (hw : twf {} s.queues = true) (hfresh : ∀ id ≥ s.engine.nextId, s.opOf id = none)
    (ho : o = s.arriving f.toNat q.toNat d) :
    ∃ t, exec (.descriptorArrival f q [d]) s = .next t ∧
      (t.queueOf f.toNat q.toNat).inFlight = (s.queueOf f.toNat q.toNat).inFlight + 1 ∧
      (t.queueOf f.toNat q.toNat).sqHead = ((s.queueOf f.toNat q.toNat).sqHead + 1) % (s.queueOf f.toNat q.toNat).depth ∧
      (t.queueOf f.toNat q.toNat).reads = [] ∧ t.rack.slots = s.rack.slots ∧ t.sent = s.sent ∧
      (∀ st detail, s.descFault o = some (st, detail) → s.powered 28 = true ∨ o.queueOp = true ∨ s.fault123 o ≠ none →
        t.Ended o.id st detail 0 []) ∧
      (s.powered 28 = false → o.queueOp = false → s.fault123 o = none → t.opOf o.id = some { o with stage := .check }) ∧
      (s.descFault o = none → s.powered 28 = true ∨ o.queueOp = true → ∃ p, t.opOf o.id = some p ∧ p.desc = d ∧ p.fn = f.toNat ∧
        p.queue = q.toNat ∧ p.seq = (s.queueOf f.toNat q.toNat).nextSeq ∧
        (o.opcode / 256 ∈ [1, 2, 4, 5] → p.stage = .region) ∧ (o.opcode / 256 = 8 → p.stage = .qengine) ∧
        (o.opcode / 256 = 6 → p.stage = .channel ∧ o.id ∈ t.worlds.channel ++ t.worlds.chanWait) ∧
        (o.opcode / 256 = 7 → o.opcode ≠ 0x0710 → p.stage = .channel ∧ o.id ∈ t.cards.sd.waiting)) := by
  generalize hs' : State.modQueue f.toNat q.toNat (fun c => { c with reads := [] })
    { s with link := { s.link with readsOut := s.link.readsOut - 1 } } = s'
  have hrun : exec (.descriptorArrival f q [d]) s = .next (s'.arrive f.toNat q.toNat d) := by
    refine next_congr ?_
    dsimp only
    rw [hr]
    dsimp only
    rw [hs']
    rfl
  have hq' : s'.queueOf f.toNat q.toNat = { s.queueOf f.toNat q.toNat with reads := [] } := by
    rw [← hs']
    exact State.queueOf_modQueue_same _ _ _ _ hw
  have hw' : twf {} s'.queues = true := by
    rw [← hs']
    exact State.modQueue_twf _ _ _ _ hw
  have ho' : s'.arriving f.toNat q.toNat d = o := by
    rw [ho]
    unfold State.arriving
    rw [hq', ← hs']
    rfl
  have hopen : s'.opOf o.id = none := by
    rw [← hs', ho]
    exact hfresh _ le_rfl
  have hdf : s'.descFault o = s.descFault o := by rw [← hs']; rfl
  have hf1 : s'.fault123 o = s.fault123 o := by rw [← hs']; rfl
  have hpw : s'.powered 28 = s.powered 28 := by rw [← hs']; rfl
  have hrest : s'.rack = s.rack ∧ s'.sent = s.sent := by rw [← hs']; exact ⟨rfl, rfl⟩
  clear hs'
  obtain ⟨hkq, hkr, hks⟩ := State.arrive_keeps f.toNat q.toNat s' d
  have hqt : (s'.arrive f.toNat q.toNat d).queueOf f.toNat q.toNat = { s.queueOf f.toNat q.toNat with
      reads := [], sqHead := ((s.queueOf f.toNat q.toNat).sqHead + 1) % (s.queueOf f.toNat q.toNat).depth
      inFlight := (s.queueOf f.toNat q.toNat).inFlight + 1, nextSeq := (s.queueOf f.toNat q.toNat).nextSeq + 1 } := by
    have h := State.queueOf_modQueue_same f.toNat q.toNat (fun c => { c with
      sqHead := (c.sqHead + 1) % c.depth, inFlight := c.inFlight + 1, nextSeq := c.nextSeq + 1 }) s' hw'
    rw [State.queueOf, hkq]
    refine h.trans ?_
    rw [hq']
  refine ⟨_, hrun, by rw [hqt], by rw [hqt], by rw [hqt], hkr.trans (by rw [hrest.1]), hks.trans hrest.2,
    fun st detail hst hch => ?_, fun hp hqo hf => ?_, fun hnone hch => ?_⟩
  · rw [← hpw, ← hf1, ← ho'] at hch
    rw [State.arrive_checked hch, ho', hdf, hst]
    have hop : ((s'.admitted f.toNat q.toNat).addTask o).opOf o.id = some o := State.opOf_addTask (s := s'.admitted _ _) hopen
    have he := State.finish_ended hop st detail 0 []
    simpa only [ite_self, State.fail] using he
  · rw [← hpw] at hp
    rw [← hf1] at hf
    rw [← ho'] at hqo hf
    rw [State.arrive_waits hp hqo hf, ho']
    exact State.opOf_addTask (s := s'.admitted _ _) (o := { o with stage := .check }) hopen
  · have hch' : s'.powered 28 = true ∨ (s'.arriving f.toNat q.toNat d).queueOp = true ∨ s'.fault123 (s'.arriving f.toNat q.toNat d) ≠ none := by
      rw [hpw, ho']
      exact hch.imp_right .inl
    have hopen' : (s'.admitted f.toNat q.toNat).opOf o.id = none := hopen
    rw [State.arrive_checked hch', ho', hdf, hnone]
    refine ⟨_, State.opOf_placeOp hopen', by rw [ho]; rfl, by rw [ho]; rfl, by rw [ho]; rfl, by rw [ho]; rfl,
      fun h => placeOf_of_region h, fun h => placeOf_of_queue h,
      fun h => ⟨placeOf_of_channel (.inl h), State.mem_channel_placeOp h⟩,
      fun h h' => ⟨placeOf_of_channel (.inr h), State.mem_waiting_placeOp h h'⟩⟩

/-- Settles O4: the fetch of adjacent descriptors, the two halves of a doorbell and the arrival of a descriptor. -/
theorem submission : Obligations.Submission := by
  refine ⟨fun s f q => submission_fetch rfl, ⟨fun s f q v h hd hh he hb => ?_, fun s f q v hd h => ?_⟩,
    fun s f q d n o hr hw hfresh ho => submission_arrival hr hw hfresh ho⟩
  · have hd' : s.leaveL1.doorbellOpen f.toNat = true := by simpa using hd
    have hh' : s.leaveL1.holdsQueue f.toNat q.toNat = true := by simpa using hh
    have he' : (s.leaveL1.queueOf f.toNat q.toNat).enable = true := by simpa using he
    have hb' : (s.leaveL1.queueOf f.toNat q.toNat).broken = false := by simpa using hb
    have hsq (v : BitVec 16) : exec (.sqDoorbell f q v none) s = .next (s.leaveL1.sqHalf f.toNat q.toNat v.toNat) :=
      next_congr (if_neg (not_not_intro hd'))
    have hcq (v : BitVec 16) : exec (.cqDoorbell f q v) s = .next (s.leaveL1.cqHalf f.toNat q.toNat v.toNat) :=
      next_congr (if_pos hd')
    have hboth : exec (.sqDoorbell f q v (some h)) s = .next (
        if ¬ (s.leaveL1.queueOf f.toNat q.toNat).broken ∧ ((s.leaveL1.cqHalf f.toNat q.toNat h.toNat).queueOf f.toNat q.toNat).broken
        then s.leaveL1.cqHalf f.toNat q.toNat h.toNat
        else (s.leaveL1.cqHalf f.toNat q.toNat h.toNat).sqHalf f.toNat q.toNat v.toNat) :=
      next_congr (if_neg (not_not_intro hd'))
    have hbroken (cause : Nat) : ((s.leaveL1.breakQueue f.toNat q.toNat cause).queueOf f.toNat q.toNat).broken = true ∧
        ((s.leaveL1.breakQueue f.toNat q.toNat cause).queueOf f.toNat q.toNat).cause = cause ∧
        (s.leaveL1.breakQueue f.toNat q.toNat cause).engine = s.engine := by
      simpa using s.leaveL1.breakQueue_broken f.toNat q.toNat cause
    simp only [← s.leaveL1_queueOf]
    refine ⟨fun hv ht => ?_, fun hv => ?_, fun hv ht => ?_, fun hv hn hp => ?_, fun hv => ?_, fun hv hn => ?_, fun hv hn hp hv' ht => ?_,
      fun hv => ?_⟩
    · rw [hsq, State.sqHalf_of_valid hh' he' hb' hv ht]
    · rw [hsq, State.sqHalf_of_range hh' he' hb' hv]
      exact ⟨_, rfl, hbroken 1⟩
    · rw [hsq, State.sqHalf_of_back hh' he' hb' hv ht]
      exact ⟨_, rfl, hbroken 5⟩
    · rw [hcq, State.cqHalf_of_valid hh' he' hb' hv hn hp]
    · rw [hcq, State.cqHalf_of_range hh' he' hb' hv]
      exact ⟨_, rfl, hbroken 2⟩
    · rw [hcq, State.cqHalf_of_excess hh' he' hb' hv hn]
      exact ⟨_, rfl, hbroken 3⟩
    · rw [hboth, State.cqHalf_of_valid hh' he' hb' hv hn hp]
      have hq := State.queueOf_modQueue_of_ne_default (s := s.leaveL1) (f := f.toNat) (q := q.toNat) (g := fun c => { c with
        cqHead := h.toNat, unreleased := c.unreleased - (h.toNat + c.depth - c.cqHead) % c.depth }) (Queue.ne_default_of_enable he')
      rw [if_neg (by rw [hq]; exact fun hc => hc.1 hc.2)]
      refine next_congr (State.sqHalf_of_valid ?_ ?_ ?_ ?_ ?_)
      · exact hh'
      · rw [hq]; exact he'
      · rw [hq]; exact hb'
      · rw [hq]; exact hv'
      · rw [hq]; exact ht
    · rw [hboth, State.cqHalf_of_range hh' he' hb' hv]
      obtain ⟨h1, h2, h3⟩ := hbroken 2
      rw [if_pos ⟨by rw [hb']; exact Bool.false_ne_true, h1⟩]
      exact ⟨_, rfl, h1, h2, by rw [State.breakQueue_keeps he'], h3⟩
  · have hd' : s.leaveL1.doorbellOpen f.toNat = true := by simpa using hd
    have h' : s.leaveL1.holdsQueue f.toNat q.toNat = false ∨ (s.leaveL1.queueOf f.toNat q.toNat).enable = false ∨
        (s.leaveL1.queueOf f.toNat q.toNat).broken = true := by simpa using h
    refine ⟨_, next_congr ((if_neg (not_not_intro hd')).trans (State.sqHalf_of_unused h' _)), ?_, ?_⟩
    · simp [State.dropDoorbell]
    · simp [State.dropDoorbell]

end Sys2Proof.Machine
end

section
/-!
REFUTATION of O5: the clauses for a descriptor read that fails do not ask that the table of the queues is in canonical form.
-/
namespace Sys2Proof.Machine

/-- A state whose table of queues lists queue 0 of the PF twice, each time with a read under way and nothing else.
The first entry is read; giving up its reads makes it the reset value, which removes it, and then the second is read. -/
def readingTwice : State := { queues := [(0, { reads := [(0, 1)] }), (0, { reads := [(1, 1)] })] }

/-- The reads of the second entry show through, in the broken queue. -/
theorem readingTwice_timeout_keeps_read :
    ∃ t, exec (.dmaCompletionTimeout (.descriptors 0 0)) readingTwice = .next t ∧ (t.queueOf 0 0).reads = [(1, 1)] :=
  ⟨_, rfl, by decide +kernel⟩

/-- Refutes O5: in `readingTwice` the descriptor read that times out leaves a read under way. -/
theorem not_engineOperations : ¬ Obligations.EngineOperations := by
  rintro ⟨-, -, htimeout, -⟩
  obtain ⟨t, ht, hreads⟩ := readingTwice_timeout_keeps_read
  obtain ⟨u, hu, -, -, hnone, -⟩ := htimeout readingTwice 0 0 (by decide)
  rw [ht] at hu
  obtain rfl := Host.Outcome.next.inj hu
  exact List.cons_ne_nil _ _ (hreads.symm.trans hnone)

end Sys2Proof.Machine
end

section
/-!
REFUTATION of O12: a noise cell that fails keeps its von Neumann mark VN, which the clause for a failure leaves out of the cell it names.
-/
namespace Sys2Proof.Machine

/-- A state whose noise cell 0 is in service with VN set. -/
def vonNeumannCell : State := { bellows := { cells := [(0, { vn := true })] } }

theorem vonNeumannCell_failure_keeps_vn :
    ∃ t, exec (.noiseCellFailure 0 false) vonNeumannCell = .next t ∧ (t.cellOf 0).vn = true :=
  ⟨_, rfl, by decide +kernel⟩

/-- Refutes O12: in `vonNeumannCell` the cell that fails keeps VN 1, and the cell of the statement has VN 0. -/
theorem not_bellowsAndDrbg : ¬ Obligations.BellowsAndDrbg := by
  rintro ⟨⟨hfails, -⟩, -⟩
  obtain ⟨t, ht, hvn⟩ := vonNeumannCell_failure_keeps_vn
  obtain ⟨u, hu, hcell, -⟩ := hfails vonNeumannCell 0 false (by decide)
  rw [ht] at hu
  obtain rfl := Host.Outcome.next.inj hu
  exact Bool.noConfusion (hvn.symm.trans (congrArg Cell.vn hcell))

end Sys2Proof.Machine
end

section
/-!
PROOF of O13: keys made, moved and erased.
-/
namespace Sys2Proof.Machine

theorem State.slotOf_eraseSlot {s : State} (h : twf {} s.rack.slots = true) (n m : Nat) :
    (s.eraseSlot n).slotOf m = if m = n then {} else s.slotOf m := by
  split
  · next hm =>
    subst hm
    exact tget_tset_same ({} : Slot) m _ h
  · next hm => exact tget_tset_ne ({} : Slot) _ hm s.rack.slots

/-- A target that may take the key is the one the operation goes on with. -/
theorem State.withTarget_of {s : State} {o : Op} {named n : Nat} (h : s.Target o named n) (off : Nat) (k : Nat → State → State) :
    s.withTarget o named off k = k n s := by
  rcases h with ⟨hf, rfl, hv⟩ | ⟨hf, rfl, hl⟩
  · simp [State.withTarget, hf, hv]
  · simp [State.withTarget, hf, hl]

theorem State.withReservation_of {s : State} {o : Op} (h : o.reserved = true) (k : State → State) : s.withReservation o k = k s := by
  simp [State.withReservation, h]

/-- A slot that the operation may use reaches it. -/
theorem State.withSlot_of {s : State} {o : Op} {n : Nat} (h : s.Holds o n) (access : Nat) (k : Slot → State → State) :
    s.withSlot o n access k = k (s.slotOf n) s := by
  obtain ⟨hv, hc, ht⟩ := h
  rw [State.withSlot, if_neg (by simp [hv]), if_neg (not_not_intro hc), if_neg (not_not_intro ht)]

theorem State.portAccess_of {s : State} {o : Op} {n : Nat} (hp : s.powered 28 = true) (h : s.Holds o n) (k : Slot → State → State) :
    s.portAccess o n k = k (s.slotOf n) s :=
  (if_neg (not_not_intro hp)).trans (State.withSlot_of h 1 k)

/-- The reads of an operation do not touch the Rack. -/
theorem State.Holds.hasRead {s : State} {o : Op} {n : Nat} (h : s.Holds o n) (dma : Dma) : (s.hasRead o dma).Holds o n := by
  rw [State.hasRead_frame]
  exact h

/-! ### The attributes of a key that is placed -/

theorem leNat_append (a b : Bytes) : leNat (a ++ b) = leNat a + 256 ^ a.length * leNat b := by
  induction a with
  | nil => simp [leNat]
  | cons x a ih =>
    simp only [List.cons_append, leNat, ih, List.length_cons, pow_succ]
    ring

theorem take_leBytes (m n v : Nat) : (leBytes (m + n) v).take m = leBytes m v := by
  induction m generalizing v with
  | zero => simp [leBytes]
  | succ m ih => rw [Nat.succ_add, leBytes, List.take_succ_cons, ih, leBytes]

theorem fit_length (n : Nat) (b : Bytes) : (fit n b).length = n := by
  simp only [fit, List.length_append, List.length_take, List.length_replicate]
  omega

/-- The word keeps its first 88 bits and has VALID set. -/
theorem finalAttr_toNat (a : BitVec 128) (origin : Nat) (kcv : Bytes) :
    ∃ x < 2 ^ 32, finalAttr a origin kcv = BitVec.ofNat 128 (a.toNat % 2 ^ 88 + 2 ^ 88 * x + 2 ^ 127) := by
  have hkcv := fit_length 3 kcv
  generalize hf : fit 3 kcv = f at hkcv
  obtain ⟨b0, b1, b2, rfl⟩ : ∃ b0 b1 b2, f = [b0, b1, b2] := by
    match f, hkcv with
    | [b0, b1, b2], _ => exact ⟨b0, b1, b2, rfl⟩
  have htake : (attrBytes a).take 11 = leBytes 11 a.toNat := take_leBytes 11 5 a.toNat
  generalize hy : BitVec.ofNat 8 (aSub a + 16 * origin) = y
  have hlen : (leBytes 11 a.toNat ++ [y] ++ [b0, b1, b2] ++ [0x80]).length = 16 := by simp [leBytes_length]
  refine ⟨y.toNat + 256 * (b0.toNat + 256 * (b1.toNat + 256 * b2.toNat)), by have := y.isLt; have := b0.isLt; have := b1.isLt; have := b2.isLt; omega, ?_⟩
  rw [finalAttr, htake, hf, hy, attrOf, fit_of_length hlen]
  refine congrArg (BitVec.ofNat 128) ?_
  simp only [List.append_assoc, leNat_append, leNat_leBytes, leBytes_length, List.cons_append, List.nil_append, leNat]
  have h80 : (0x80 : BitVec 8).toNat = 128 := rfl
  rw [h80]
  ring_nf

theorem finalAttr_fields (a : BitVec 128) (origin : Nat) (kcv : Bytes) :
    aValid (finalAttr a origin kcv) = true ∧ aTenant (finalAttr a origin kcv) = aTenant a ∧ aClass (finalAttr a origin kcv) = aClass a := by
  obtain ⟨x, hx, ha⟩ := finalAttr_toNat a origin kcv
  generalize ha' : a.toNat = n at ha
  generalize hm : n % 2 ^ 88 + 2 ^ 88 * x + 2 ^ 127 = m at ha
  have hlt : m < 2 ^ 128 := by omega
  have hv : (finalAttr a origin kcv).toNat = m := by rw [ha, BitVec.toNat_ofNat, Nat.mod_eq_of_lt hlt]
  refine ⟨?_, ?_, ?_⟩
  · rw [aValid, ← BitVec.testBit_toNat, hv, Nat.testBit_eq_decide_div_mod_eq, decide_eq_true_eq]
    omega
  · rw [aTenant, aTenant, bits, bits, hv, ha']
    omega
  · rw [aClass, aClass, bits, bits, hv, ha']
    omega

theorem State.finish_rik (id st d n : Nat) (r : Bytes) (s : State) : (s.finish id st d n r).rack.rik = s.rack.rik := by
  have h : (s.unreserve id).rack.rik = s.rack.rik := by simp
  refine Eq.trans ?_ h
  unfold State.finish
  dsimp only
  split <;> rfl

/-- A key that is placed: its slot, and the end of its operation. -/
theorem State.placeKey_placed {s : State} {o p : Op} (h : s.opOf o.id = some p) (n : Nat) (attr : BitVec 128) (origin : Nat) (key : Bytes) :
    let t := s.placeKey o n attr origin key
    let kcv := kcvOf (aAlg attr) (aSub attr) key
    (t.slotOf n).material = materialOf key ∧ (t.slotOf n).attr = finalAttr attr origin kcv ∧
      (t.slotOf n).check = t.checkOf n (t.slotOf n) ∧ (∀ m, m ≠ n → t.slotOf m = s.slotOf m) ∧
      t.Ended o.id 0 0 0 (placedResult n kcv) ∧ t.crucible = s.crucible ∧ t.chip = s.chip ∧ t.store = s.store := by
  intro t kcv
  generalize hx : ({ material := materialOf key, attr := finalAttr attr origin kcv } : Slot) = x
  have hrun : t = ((s.placeSlot n (finalAttr attr origin kcv) (materialOf key)).modOp o.id fun x => { x with reserved := false }).finish
      o.id 0 0 0 (placedResult n kcv) := rfl
  have hslots : t.rack.slots = tset {} n { x with check := s.checkOf n x } s.rack.slots := by
    rw [hrun, State.finish_slots, ← hx]
    rfl
  have hrik : t.rack.rik = s.rack.rik := by
    rw [hrun, State.finish_rik]
    rfl
  have hne : ({ x with check := s.checkOf n x } : Slot) ≠ {} := fun h0 => by
    have h1 : x.attr = 0 := congrArg Slot.attr h0
    have h2 : aValid x.attr = true := by
      rw [← hx]
      exact (finalAttr_fields attr origin kcv).1
    rw [h1] at h2
    exact absurd h2 (by decide)
  have hsn : t.slotOf n = { x with check := s.checkOf n x } := by
    rw [State.slotOf, hslots]
    exact tget_tset_of_ne_default ({} : Slot) n hne s.rack.slots
  rw [hsn]
  refine ⟨by rw [← hx], by rw [← hx], ?_, fun m hm => ?_, ?_, ?_, ?_, ?_⟩
  · simp only [State.checkOf, hrik]
  · rw [State.slotOf, hslots]
    exact tget_tset_ne ({} : Slot) _ hm s.rack.slots
  · have hop := State.opOf_modOp_same o.id (fun x => { x with reserved := false })
      (s.placeSlot n (finalAttr attr origin kcv) (materialOf key)) (fun _ => rfl) h
    exact State.finish_ended hop 0 0 0 (placedResult n kcv)
  all_goals
    rw [hrun]
    simp [State.placeSlot]

/-- The blocks of a key that is to be generated are asked for, and a slot of its tenant is reserved. -/
theorem keyGenerate_asks {s : State} {op : Nat} {o : Op} {n : Nat} (h : s.Serving op 0x0601 o)
    (ht : templateFault (dParam o.desc) o.tenant = none) (htg : s.Target o o.keySlot n) (hr : o.reserved = false) (hs : o.seed = none)
    (hb : s.bellows.state = .ok) (hw : s.waitsSeed (.op op) = false)
    (hq : (s.tenantOf o.tenant).slotsUsed < (s.tenantOf o.tenant).slotQuota) (hk : 0 < aKlen (attrOf (dParam o.desc))) :
    ∃ t, exec (.keyGenerate op) s = .next t ∧ (t.tenantOf o.tenant).slotsUsed = (s.tenantOf o.tenant).slotsUsed + 1 ∧
      t.opOf op = some { o with reserved := true } ∧ t.bellows.seedQ = s.bellows.seedQ ++
        [{ who := .op op, level := 2, blocks := (aKlen (attrOf (dParam o.desc)) + 15) / 16 }] ∧ t.rack = s.rack := by
  have hid := State.opOf_id h.1
  have hblocks : (aKlen (attrOf (dParam o.desc)) + 15) / 16 ≠ 0 := by omega
  generalize hu : ((s.modTenant o.tenant fun x => { x with slotsUsed := (s.tenantOf o.tenant).slotsUsed + 1 }).modOp o.id fun x => { x with reserved := true }) = u
  have hres : s.reserveSlots o.tenant 1 = some (s.modTenant o.tenant fun x => { x with slotsUsed := (s.tenantOf o.tenant).slotsUsed + 1 }) :=
    if_pos hq
  have hub : u.bellows = s.bellows := by rw [← hu]; rfl
  have huw : u.waitsSeed (.op o.id) = false := by
    rw [State.waitsSeed, hub, hid]
    exact hw
  refine ⟨u.enqueueSeed { who := .op o.id, level := 2, blocks := (aKlen (attrOf (dParam o.desc)) + 15) / 16 }, ?_, ?_, ?_, ?_, ?_⟩
  · refine next_congr ((State.onService_of h _).trans ?_)
    simp only [ht]
    rw [State.withTarget_of htg, State.withReservation, if_neg (by simp [hr]), hres]
    dsimp only
    rw [hu]
    simp only [State.gated, State.request, hs, hub, hb, huw, Bool.false_eq_true, if_false]
    exact if_pos hblocks
  · have hten : u.tenantOf o.tenant = { s.tenantOf o.tenant with slotsUsed := (s.tenantOf o.tenant).slotsUsed + 1 } := by
      rw [← hu]
      exact tget_tset_of_ne_default ({} : Tenant) o.tenant (v := { s.tenantOf o.tenant with slotsUsed := (s.tenantOf o.tenant).slotsUsed + 1 })
        (fun h0 => Nat.succ_ne_zero _ (congrArg Tenant.slotsUsed h0)) s.vault.tenants
    exact congrArg Tenant.slotsUsed hten
  · have hop := State.opOf_modOp_same op (fun x => { x with reserved := true })
      (s.modTenant o.tenant fun x => { x with slotsUsed := (s.tenantOf o.tenant).slotsUsed + 1 }) (fun _ => rfl) h.1
    rw [← hid] at hop ⊢
    rw [← hu]
    exact hop
  · rw [← hub, ← hid]
    rfl
  · rw [← hu]
    rfl

theorem keyUnload_erases {s : State} {op : Nat} {o : Op} (h : s.Serving op 0x0602 o) (hp : s.powered 28 = true) (hh : s.Holds o o.keySlot)
    (hw : twf {} s.rack.slots = true) (hwt : twf {} s.vault.tenants = true) (hr : o.reserved = false) :
    ∃ t, exec (.keyUnload op) s = .next t ∧ t.slotOf o.keySlot = {} ∧ (∀ m, m ≠ o.keySlot → t.slotOf m = s.slotOf m) ∧
      t.tenantOf o.tenant = { s.tenantOf o.tenant with slotsUsed := (s.tenantOf o.tenant).slotsUsed - 1 } ∧ t.Ended op 0 0 0 [] ∧
      t.crucible = s.crucible ∧ t.sent = s.sent := by
  generalize hu : (s.eraseSlot o.keySlot).releaseSlots o.tenant 1 = u
  have hrun : exec (.keyUnload op) s = .next (u.finish op 0 0 0 []) := by
    refine next_congr ((State.onService_of h _).trans ((State.portAccess_of hp hh _).trans ?_))
    rw [hu]
  have hop : u.opOf op = some o := by
    rw [← hu]
    exact h.1
  have hslot (m : Nat) : (u.finish op 0 0 0 []).slotOf m = (s.eraseSlot o.keySlot).slotOf m := by
    rw [State.slotOf, State.finish_slots, ← hu]
    rfl
  have hv : (u.finish op 0 0 0 []).vault = u.vault := by
    have hun : u.unreserve op = u := by
      rw [State.unreserve, hop]
      exact if_neg (by simp [hr])
    rw [State.finish, hun]
    split <;> rfl
  refine ⟨_, hrun, ?_, fun m hm => ?_, ?_, State.finish_ended hop 0 0 0 [], ?_, ?_⟩
  · rw [hslot, State.slotOf_eraseSlot hw, if_pos rfl]
  · rw [hslot, State.slotOf_eraseSlot hw, if_neg hm]
  · have ht := State.tenantOf_modTenant_same o.tenant (fun x => { x with slotsUsed := x.slotsUsed - 1 }) (s.eraseSlot o.keySlot) hwt
    rw [State.tenantOf, hv, ← hu]
    exact ht
  · simp [← hu, State.releaseSlots, State.eraseSlot, State.forgetKey]
  · simp [← hu, State.releaseSlots, State.eraseSlot, State.forgetKey]

/-- Settles O13: each service runs to the key it places, moves or erases. -/
theorem keysMade : Obligations.KeysMade := by
  refine ⟨⟨fun s op o n e key h ht htg hr hs hsh => ?_, fun s op o n h ht htg hr hs hb hw hq hk => keyGenerate_asks h ht htg hr hs hb hw hq hk,
    fun s op o k h ht => ?_, fun s op o n h hf hp hh htg => ?_, fun s op o h hp hh hw hwt hr => keyUnload_erases h hp hh hw hwt hr⟩,
    fun s o n origin attr key p h => State.placeKey_placed h n attr origin key, finalAttr_fields⟩
  · refine next_congr ((State.onService_of h _).trans ?_)
    simp only [ht]
    rw [State.withTarget_of htg, State.withReservation_of hr, State.gated_of (.inl hs), hsh, State.opOf_id h.1]
  · refine next_congr ((State.onService_of h _).trans ?_)
    simp only [ht]
  · refine next_congr ((State.onService_of h _).trans ((if_neg hf).trans ((State.portAccess_of hp hh _).trans ?_)))
    exact State.withTarget_of htg _ _

end Sys2Proof.Machine
end

section
/-!
PROOF of O14: keys written out and read back, and the Temper pass.
-/
namespace Sys2Proof.Machine

/-- Reading its lists and parameters sends requests and marks the operation. -/
theorem State.readLists_frame (s : State) (o : Op) :
    s.readLists o = { s with sent := (s.readLists o).sent, engine := { s.engine with tasks := (s.readLists o).engine.tasks } } := by
  unfold State.readLists
  split <;> rfl

/-- A service that writes something out, where its lists pass check 7. -/
theorem State.serviceOut_of {o : Op} {dma : Dma} {n : Nat} (h : check7 o.desc dma 0 n = none) (out : Bytes) (s : State) :
    s.serviceOut o dma n out = ((s.hasRead o dma).writeOut o dma out).finish o.id 0 0 out.length [] :=
  State.checked_of h _

theorem State.hasRead_rewraps (s : State) (o : Op) (dma : Dma) (l : Nat) :
    (s.hasRead o dma).rack = s.rack ∧ (s.hasRead o dma).blockState l = s.blockState l := by
  unfold State.hasRead State.readData State.readLists
  split <;> split <;> exact ⟨rfl, rfl⟩

theorem State.hasRead_rewrapOf (s : State) (o : Op) (dma : Dma) (op : Nat) : (s.hasRead o dma).rewrapOf op = s.rewrapOf op := by
  simp only [State.rewrapOf, (s.hasRead_rewraps o dma 0).1]

theorem State.hasRead_rewrapLane (s : State) (o : Op) (dma : Dma) : (s.hasRead o dma).rewrapLane = s.rewrapLane := by
  simp only [State.rewrapLane, fun l => (s.hasRead_rewraps o dma l).2, (s.hasRead_rewraps o dma 0).1]

/-- A lane that may take a blob is in service. -/
theorem State.loadRewrap_of {s : State} {l : Nat} (h : s.rewrapLane = some l) (id : Nat) (data : Bytes) :
    s.loadRewrap id data = { s with rack := { s.rack with rewraps := tset {} l { op := id, data := data } s.rack.rewraps } } := by
  have hl : (s.blockState l == 0) = true := (Bool.and_eq_true _ _ ▸ List.find?_some h :).1
  have hout : (s.blockOf l).out = false := by
    by_contra hc
    rw [Bool.not_eq_false] at hc
    rw [State.blockState] at hl
    simp only [hc, if_true] at hl
    split at hl <;> exact absurd hl (by decide)
  have hno : ¬ ((List.range 4).all fun l => (s.blockOf l).out) = true := by
    rw [List.all_eq_true]
    exact fun hall => Bool.noConfusion (hout.symm.trans (hall l (List.mem_of_find?_eq_some h)))
  rw [State.loadRewrap, if_neg hno, h]

theorem State.hasRead_vault (s : State) (o : Op) (dma : Dma) :
    (s.hasRead o dma).blobFault = s.blobFault ∧ (s.hasRead o dma).openBlob = s.openBlob ∧ (s.hasRead o dma).sealBlob = s.sealBlob := by
  rw [State.hasRead_frame]
  exact ⟨rfl, rfl, rfl⟩

theorem State.readLists_keys (s : State) (o : Op) :
    (s.readLists o).blobFault = s.blobFault ∧ (s.readLists o).openBlob = s.openBlob ∧
    ∀ m n, s.Target o m n → (s.readLists o).Target o m n := by
  rw [State.readLists_frame]
  exact ⟨rfl, rfl, fun _ _ h => h⟩

/-! ### The slot that a Temper pass finds unsound -/

theorem State.endPass_keeps (s : State) : s.endPass.rack.slots = s.rack.slots ∧ s.endPass.vault = s.vault ∧ s.endPass.engine = s.engine ∧
    s.endPass.rack.reached = s.rack.reached := by
  unfold State.endPass
  split <;> exact ⟨rfl, rfl, rfl, rfl⟩

/-- A slot whose CHECK does not match is erased. -/
theorem State.slotFault_slots (n access : Nat) (s : State) : (s.slotFault n access).rack.slots = tset {} n {} s.rack.slots := by
  generalize hu : (s.report 0x12 3).raiseLevel 0x12 = u
  have hrack : u.rack = s.rack := by simp [← hu]
  have h : (s.slotFault n access).rack.slots = (u.eraseSlot n).rack.slots := by simp [State.slotFault, hu]
  rw [h, ← hrack]
  rfl

theorem temperSlot_sound {s : State} (hr : s.rack.running = true) (hq : s.tamper.quench = false)
    (hs : aValid (s.slotOf s.rack.reached).attr = false ∨
      (s.slotOf s.rack.reached).check = s.checkOf s.rack.reached (s.slotOf s.rack.reached)) :
    exec .temperSlotRewrite s = .next (State.endPass { s with rack := { s.rack with reached := s.rack.reached + 1 } }) := by
  refine next_congr ((if_neg (by simp [hr, State.quenching, hq])).trans ?_)
  dsimp only
  rw [if_neg]
  rintro ⟨hv, hc⟩
  rcases hs with h | h
  · exact Bool.noConfusion (h.symm.trans hv)
  · exact hc h

theorem temperSlot_unsound {s : State} (hr : s.rack.running = true) (hq : s.tamper.quench = false)
    (hv : aValid (s.slotOf s.rack.reached).attr = true)
    (hc : (s.slotOf s.rack.reached).check ≠ s.checkOf s.rack.reached (s.slotOf s.rack.reached)) (hw : twf {} s.rack.slots = true) :
    ∃ t, exec .temperSlotRewrite s = .next t ∧ t.slotOf s.rack.reached = {} := by
  refine ⟨_, next_congr ((if_neg (by simp [hr, State.quenching, hq])).trans rfl), ?_⟩
  dsimp only
  rw [if_pos ⟨hv, hc⟩, State.slotOf, (State.endPass_keeps _).1]
  change tget {} (s.slotFault s.rack.reached 2).rack.slots s.rack.reached = _
  rw [State.slotFault_slots]
  exact tget_tset_same ({} : Slot) s.rack.reached {} hw

/-- Settles O14: each service runs to what it writes or places, and the Temper pass slot by slot. -/
theorem keysMovedAndTempered : Obligations.KeysMovedAndTempered := by
  refine ⟨fun s op o dma hp => ⟨fun h hh h7 => ?_, fun h hh h7 => ?_, fun r h hh hx h7 had hpf hml hs => ?_,
    fun m l h h7 hnone hbf hob hl => ?_, fun r h h7 hsome => ?_, fun m n h hbf htg hr hob => ?_, fun hd key n h hh had hkb htg hr => ?_⟩,
    fun s tj => rfl, fun s hst hrun hq => ?_, fun s hrun hq hlt hs => ?_, fun s hrun hq hv hc hw => temperSlot_unsound hrun hq hv hc hw⟩
  · refine next_congr ((State.onService_of h _).trans ((State.portAccess_of hp hh _).trans ((State.serviceOut_of h7 _ s).trans ?_)))
    rw [attrBytes, leBytes_length, State.opOf_id h.1]
  · refine next_congr ((State.onService_of h _).trans ((State.portAccess_of hp hh _).trans ((State.serviceOut_of h7 _ s).trans ?_)))
    rw [State.opOf_id h.1]
  · refine next_congr ((State.onService_of h _).trans ((State.portAccess_of hp hh _).trans ((if_neg (by simp [had, hpf])).trans ?_)))
    refine (State.portAccess_of hp hx _).trans ((if_neg (by simp [hml])).trans ((State.checked_of h7 _).trans ?_))
    rw [State.gated_of (.inl hs), State.opOf_id h.1]
  · obtain ⟨hb, ho, -⟩ := s.hasRead_vault o dma
    refine next_congr ((State.onService_of h _).trans ((State.checked_of h7 _).trans ?_))
    rw [State.hasRead_rewrapOf, hnone]
    dsimp only
    rw [hb, hbf]
    dsimp only
    rw [ho, hob]
    exact State.loadRewrap_of ((s.hasRead_rewrapLane o dma).trans hl) _ _
  · obtain ⟨-, -, hse⟩ := s.hasRead_vault o dma
    refine next_congr ((State.onService_of h _).trans ((State.checked_of h7 _).trans ?_))
    rw [State.hasRead_rewrapOf, hsome]
    dsimp only
    rw [hse]
  · obtain ⟨hb, ho, ht⟩ := s.readLists_keys o
    refine next_congr ((State.onService_of h _).trans ?_)
    dsimp only
    rw [hb, hbf]
    refine (State.withTarget_of (ht _ _ htg) _ _).trans ((State.withReservation_of hr _).trans ?_)
    rw [ho, hob]
  · obtain ⟨-, -, ht⟩ := s.readLists_keys o
    obtain ⟨hhd, hkb⟩ := hkb
    refine next_congr ((State.onService_of h _).trans ((State.portAccess_of hp hh _).trans ((if_neg (by simp [had])).trans ?_)))
    dsimp only
    rw [hhd]
    refine (State.withTarget_of (ht _ _ htg) _ _).trans ((State.withReservation_of hr _).trans ?_)
    rw [hkb]
  · refine ⟨_, next_congr (if_neg ?_), rfl, rfl, rfl, rfl, rfl, rfl⟩
    rcases hst with h | h | h <;> simp [h, hrun, State.quenching, hq]
  · rw [temperSlot_sound hrun hq hs]
    obtain ⟨h1, h2, h3, h4⟩ := State.endPass_keeps { s with rack := { s.rack with reached := s.rack.reached + 1 } }
    exact ⟨_, rfl, h1, h4, fun h => if_pos (Nat.succ_lt_succ h), fun h => by
      rw [State.endPass, if_neg (by dsimp only; omega)]
      exact ⟨rfl, rfl⟩, h2, h3⟩

end Sys2Proof.Machine
end

section
/-!
PROOF of O15: dispatch by share, the scheduling epoch and the Hammer units.
-/
namespace Sys2Proof.Machine

/-! ### Whom a region owes most -/

theorem mostOwed_eq_none {owed : Nat → Rat} {l : List Nat} (h : mostOwed owed l = none) : l = [] := by
  cases l with
  | nil => rfl
  | cons f t =>
    simp only [mostOwed] at h
    split at h
    · cases h
    · split at h <;> cases h

/-- The function owed most, the lowest number among equals. -/
theorem mostOwed_spec {owed : Nat → Rat} {l : List Nat} {f : Nat} (h : mostOwed owed l = some f) :
    f ∈ l ∧ (∀ g ∈ l, owed g ≤ owed f) ∧ (l.Pairwise (· < ·) → ∀ g ∈ l, owed g = owed f → f ≤ g) := by
  induction l generalizing f with
  | nil => cases h
  | cons a t ih =>
    simp only [mostOwed] at h
    split at h
    · next hn =>
      obtain rfl := mostOwed_eq_none hn
      obtain rfl := Option.some.inj h
      simp
    · next g hg =>
      obtain ⟨hm, hle, hlow⟩ := ih hg
      split at h
      · next hlt =>
        obtain rfl := Option.some.inj h
        refine ⟨List.mem_cons_of_mem _ hm, fun x hx => ?_, fun hp x hx he => ?_⟩
        · rcases List.mem_cons.mp hx with rfl | hx
          · exact hlt.le
          · exact hle x hx
        · rcases List.mem_cons.mp hx with rfl | hx
          · exact absurd he hlt.ne
          · exact hlow (List.pairwise_cons.mp hp).2 x hx he
      · next hge =>
        obtain rfl := Option.some.inj h
        refine ⟨List.mem_cons_self, fun x hx => ?_, fun hp x hx _ => ?_⟩
        · rcases List.mem_cons.mp hx with rfl | hx
          · exact le_rfl
          · exact (hle x hx).trans (not_lt.mp hge)
        · rcases List.mem_cons.mp hx with rfl | hx
          · exact le_rfl
          · exact ((List.pairwise_cons.mp hp).1 x hx).le

/-- A table that several keys are written to reads at each the value that the key names. -/
theorem tget_foldl_tset {α β : Type} [DecidableEq α] (d : α) {key : β → Nat} (hkey : key.Injective) (v : β → α) (l : List β) (b : β) :
    ∀ t : List (Nat × α), twf d t = true → (b ∈ l ∨ tget d t (key b) = v b) →
      tget d (l.foldl (fun t b => tset d (key b) (v b) t) t) (key b) = v b := by
  induction l with
  | nil => exact fun t _ h => h.resolve_left List.not_mem_nil
  | cons c l ih =>
    intro t hw h
    refine ih _ (twf_tset d _ _ hw) ?_
    by_cases hc : b = c
    · subst hc
      exact .inr (tget_tset_same d _ _ hw)
    · rw [tget_tset_ne d _ (fun he => hc (hkey he))]
      exact h.imp_left fun hm => (List.mem_cons.mp hm).resolve_left hc

theorem schedKey_injective (region : Nat) : (schedKey region).Injective := fun _ _ h => Nat.add_left_cancel h

theorem State.charge_credit {s : State} {r f g : Nat} (hw : twf 0 s.engine.credit = true) (hg : g ∈ s.pendingFns r) :
    tget 0 (s.charge r f).engine.credit (schedKey r g) = s.owed r g - (if g = f then 1 else 0) :=
  tget_foldl_tset 0 (schedKey_injective r) (fun g => s.owed r g - if g = f then 1 else 0) _ g _ hw (.inl hg)

/-! ### The scheduling epoch -/

/-- A key stands in a canonical table where it does not read the default. -/
theorem exists_mem_iff_tget_ne {α : Type} [DecidableEq α] {d : α} {t : List (Nat × α)} (h : twf d t = true) (k : Nat) :
    (∃ x, (k, x) ∈ t) ↔ tget d t k ≠ d := by
  have hne : ∀ {t : List (Nat × α)} {x : α}, twf d t = true → (k, x) ∈ t → x ≠ d := by
    intro t x hw hm
    have hab : ∀ {b : Nat} {l : List (Nat × α)}, tabove d b l = true → (k, x) ∈ l → x ≠ d := by
      intro b l hl hm
      induction l generalizing b with
      | nil => cases hm
      | cons e l ih =>
        simp only [tabove, Bool.and_eq_true, decide_eq_true_eq] at hl
        rcases List.mem_cons.mp hm with he | hm
        · rw [← he] at hl
          exact hl.1.2
        · exact ih hl.2 hm
    cases t with
    | nil => cases hm
    | cons e t =>
      simp only [twf, Bool.and_eq_true, decide_eq_true_eq] at hw
      rcases List.mem_cons.mp hm with he | hm
      · rw [← he] at hw
        exact hw.1
      · exact hab hw.2 hm
  constructor
  · rintro ⟨x, hm⟩
    rw [tget_of_mem h hm]
    exact hne h hm
  · intro hk
    refine ⟨tget d t k, ?_⟩
    clear h
    induction t with
    | nil => exact absurd rfl hk
    | cons e t ih =>
      obtain ⟨j, x⟩ := e
      rw [tget_cons] at hk ⊢
      by_cases hj : j = k
      · rw [if_pos hj, hj]
        exact List.mem_cons_self
      · rw [if_neg hj] at hk ⊢
        exact List.mem_cons_of_mem _ (ih hk)

theorem twf_foldl_tset {α β : Type} [DecidableEq α] (d : α) (key : β → Nat) (v : β → α) (l : List β) :
    ∀ t : List (Nat × α), twf d t = true → twf d (l.foldl (fun t b => tset d (key b) (v b) t) t) = true := by
  induction l with
  | nil => exact fun _ h => h
  | cons c l ih => exact fun t h => ih _ (twf_tset d _ _ h)

theorem tget_foldl_tset_of_notMem {α : Type} [DecidableEq α] (d : α) (v : α) {l : List Nat} {k : Nat} (h : k ∉ l) :
    ∀ t : List (Nat × α), tget d (l.foldl (fun t b => tset d b v t) t) k = tget d t k := by
  induction l with
  | nil => exact fun _ => rfl
  | cons c l ih =>
    intro t
    rw [List.mem_cons, not_or] at h
    exact (ih h.2 _).trans (tget_tset_ne d _ h.1 _)

/-- A set of marks holds the keys that it was made of. -/
theorem mem_marks_iff (l : List Nat) (k : Nat) : (∃ b, (k, b) ∈ l.foldl (fun t k => tset false k true t) []) ↔ k ∈ l := by
  refine (exists_mem_iff_tget_ne (twf_foldl_tset false id (fun _ => true) l [] rfl) k).trans ?_
  by_cases h : k ∈ l
  · have ht := tget_foldl_tset false (key := id) Function.injective_id (fun _ => true) l k [] rfl (.inl h)
    exact iff_of_true (fun hf => Bool.noConfusion (ht.symm.trans hf)) h
  · have ht := tget_foldl_tset_of_notMem false true h []
    exact iff_of_false (fun hf => hf ht) h

/-- The keys of the functions that have work, region by region. -/
def State.liveKeys (s : State) : List Nat :=
  (List.range 4).flatMap fun r => ((0 :: s.fns.map (·.1)).dedup.filter fun f => s.hasWork r f).map fun f => schedKey r f

theorem State.mem_liveKeys {s : State} {r f : Nat} (hf : ∀ g ∈ 0 :: s.fns.map (·.1), g < 256) (hr : r < 4)
    (h : f ∈ 0 :: s.fns.map (·.1)) : schedKey r f ∈ s.liveKeys ↔ s.hasWork r f = true := by
  simp only [State.liveKeys, List.mem_flatMap, List.mem_range, List.mem_map, List.mem_filter, List.mem_dedup]
  constructor
  · rintro ⟨r', -, g, ⟨hg, hw⟩, he⟩
    have h1 := hf f h
    have h2 := hf g hg
    simp only [schedKey] at he
    obtain rfl : g = f := by omega
    obtain rfl : r' = r := by omega
    exact hw
  · exact fun hw => ⟨r, hr, f, ⟨h, hw⟩, rfl⟩

theorem schedulingEpoch_spec {s : State} (hw : twf {} s.fns = true) (hk : ∀ e ∈ s.fns, e.1 < 256) :
    ∃ t, exec .schedulingEpoch s = .next t ∧
      t.engine.epoch = s.engine.epoch + 1 ∧ (∀ f, (t.fnOf f).shareNow = (s.fnOf f).share ∧ (t.fnOf f).share = (s.fnOf f).share ∧
        (t.fnOf f).queues = (s.fnOf f).queues) ∧
      (∀ r f, r < 4 → f ∈ 0 :: s.fns.map (·.1) → (f ∈ t.pendingFns r ↔ s.hasWork r f = true)) ∧
      (∀ r f, r < 4 → f ∈ 0 :: s.fns.map (·.1) → s.hasWork r f = false → tget 0 t.engine.credit (schedKey r f) = 0) ∧
      t.engine.tasks = s.engine.tasks ∧ t = { s with fns := t.fns, engine := t.engine } := by
  have hf : ∀ g ∈ 0 :: s.fns.map (·.1), g < 256 := by
    intro g hg
    rcases List.mem_cons.mp hg with rfl | hg
    · exact Nat.zero_lt_succ _
    · obtain ⟨e, he, rfl⟩ := List.mem_map.mp hg
      exact hk e he
  refine ⟨_, rfl, rfl, fun f => ?_, fun r f hr hm => ?_, fun r f hr hm hno => ?_, rfl, rfl⟩
  · have h : tget {} (tmap {} (fun _ n => { n with shareNow := n.share }) s.fns) f = { s.fnOf f with shareNow := (s.fnOf f).share } :=
      tget_tmap ({} : Fn) (fun _ n => { n with shareNow := n.share }) rfl hw
    exact ⟨(congrArg Fn.shareNow h :), (congrArg Fn.share h :), (congrArg Fn.queues h :)⟩
  · rw [← (mem_marks_iff s.liveKeys (schedKey r f)).trans (State.mem_liveKeys hf hr hm)]
    have h1 := hf f hm
    simp only [State.pendingFns, trange, List.mem_map (f := fun e : Nat × Bool => e.1 - schedKey r 0), List.mem_filter, Bool.and_eq_true, decide_eq_true_eq]
    constructor
    · rintro ⟨⟨j, b⟩, ⟨hj, hlo, hhi⟩, he⟩
      obtain rfl : j = schedKey r f := by
        simp only [schedKey] at he hlo hhi ⊢
        omega
      exact ⟨b, hj⟩
    · rintro ⟨b, hb⟩
      refine ⟨(schedKey r f, b), ⟨hb, ?_, ?_⟩, ?_⟩ <;> simp only [schedKey] <;> omega
  · have hnl : schedKey r f ∉ s.liveKeys := fun h => Bool.noConfusion (hno.symm.trans ((State.mem_liveKeys hf hr hm).mp h))
    have hc := tget_filter_key 0 (fun k => s.liveKeys.contains k) (schedKey r f) s.engine.credit
    refine hc.trans ?_
    simp [hnl]

/-! ### The blocks that take an operation -/

theorem State.out_of_blockState {s : State} {b : Nat} (h : s.blockState b = 0) : (s.blockOf b).out = false := by
  by_contra hc
  rw [Bool.not_eq_false] at hc
  rw [State.blockState] at h
  simp only [hc, if_true] at h
  split at h <;> exact absurd h (by decide)

theorem State.rackAccess_of {s : State} {o : Op} {n : Nat} (hb : (s.blockOf 0x12).out = false) (h : s.Holds o n)
    (k : Slot → State → State) : s.rackAccess o n k = k (s.slotOf n) s :=
  (if_neg (by simp [hb])).trans (State.withSlot_of h 0 k)

theorem State.tryLane_of {s : State} {o : Op} {b : Nat} (hc : s.classOut (lanesOf o.opcode) = false) (hl : s.laneFor o = some b) :
    (laneKeyed o.opcode = false → s.tryLane o = some (s.takeOp o.id b [])) ∧
    (laneKeyed o.opcode = true → s.powered 28 = true → (s.blockOf 0x12).out = false → s.Holds o o.keySlot →
      laneFault o (s.slotOf o.keySlot) = none →
      s.tryLane o = some ((s.fillCache b o (s.slotOf o.keySlot)).takeOp o.id b [copyOf o.keySlot (s.slotOf o.keySlot)])) := by
  refine ⟨fun hk => ?_, fun hk hp hb hh hf => ?_⟩
  · simp [State.tryLane, hc, hl, hk]
  · simp only [State.tryLane, hc, hl, hk, hp, Bool.false_eq_true, not_true_eq_false, and_false, if_false, if_true]
    rw [State.rackAccess_of hb hh, hf]

theorem State.tryPipe_of {s : State} {o : Op} {i : Nat} (ho : o.pipe = some i) (hb : s.blockState (8 + s.steerOf i) = 0)
    (hi : s.steerOf i < 8) : s.tryPipe o = some (s.takeOp o.id (8 + s.steerOf i) []) := by
  have hout := State.out_of_blockState hb
  have hno : ¬ s.classOut ((List.range 8).map (· + 8)) = true := by
    rw [State.classOut, List.all_eq_true]
    intro hall
    have hm : 8 + s.steerOf i ∈ (List.range 8).map (· + 8) := List.mem_map.mpr ⟨s.steerOf i, List.mem_range.mpr hi, Nat.add_comm _ _⟩
    exact Bool.noConfusion (hout.symm.trans (hall _ hm))
  rw [State.tryPipe, if_neg hno, ho]
  exact if_pos hb

theorem State.tryUnit_plain {s : State} {o : Op} {u : Nat} {p : Bool} (hk : jobKeyed o.opcode = false)
    (hc : s.classOut (unitsFor o.prio) = false) (hu : s.unitFor o = some (u, p)) : s.tryUnit o = some (s.takeUnit o u p) := by
  simp [State.tryUnit, hk, hc, hu]

theorem State.tryUnit_keyed {s : State} {o k : Op} {u : Nat} {p : Bool} (hk : jobKeyed o.opcode = true)
    (hc : s.classOut (unitsFor o.prio) = false) (hp : s.powered 28 = true) (hb : (s.blockOf 0x12).out = false)
    (hh : s.Holds o o.keySlot) (hf : jobFault o (s.slotOf o.keySlot) = none)
    (he : k = { o with keys := [copyOf o.keySlot (s.slotOf o.keySlot)] }) (hu : s.unitFor k = some (u, p)) :
    s.tryUnit o = some (s.takeUnit k u p) := by
  have hhk : s.Holds k k.keySlot := by rw [he]; exact hh
  have hfk : jobFault k (s.slotOf k.keySlot) = none := by rw [he]; exact hf
  simp only [State.tryUnit, hk, hc, hp, Bool.false_eq_true, not_true_eq_false, and_false, if_false, if_true]
  rw [← he, hu]
  dsimp only
  rw [State.rackAccess_of hb hhk, hfk]

theorem State.tryRandom_of {s : State} {o : Op} (hb : s.blockState 0x13 = 0) :
    (o.opcode ≠ 0x0502 → s.tryRandom o = some ((s.takeOp o.id 0x13 []).askInst o.id)) ∧
    (∀ c, o.opcode = 0x0502 → s.coreFor o.id = some c → s.askedBefore o = [] →
      s.tryRandom o = some (((s.takeOp o.id 0x13 []).askInst o.id).takeCore c o.id)) := by
  have hout := State.out_of_blockState hb
  exact ⟨fun ho => by simp [State.tryRandom, hout, hb, ho], fun c ho hc ha => by simp [State.tryRandom, hout, hb, ho, hc, ha]⟩

/-! ### The Hammer units -/

theorem State.unitOf_modUnit_of_ne_default {s : State} {u : Nat} {g : HUnit → HUnit} (h : g (s.unitOf u) ≠ {}) :
    (s.modUnit u g).unitOf u = g (s.unitOf u) := tget_tset_of_ne_default ({} : HUnit) u h s.hammer.units

theorem HUnit.ne_default_of_job {x : HUnit} {id : Nat} (h : x.job = some id) : x ≠ {} :=
  fun h0 => Option.some_ne_none id (h.symm.trans (congrArg HUnit.job h0 : x.job = none))

theorem yieldPoint_yields {s : State} {u : Fin 4} {r id : Nat} (hm : (s.unitOf (60 + u.val)).marked = some r)
    (hj : (s.unitOf (60 + u.val)).job = some id) :
    ∃ t, exec (.yieldPoint u) s = .next t ∧
      t.unitOf (60 + u.val) = { s.unitOf (60 + u.val) with job := some r, held := some id, marked := none, upper := s.jobKeys r } ∧
      (∀ o, s.opOf id = some o → t.opOf id = some { o with stage := .yielded }) ∧ (∀ j, j ≠ id → t.opOf j = s.opOf j) ∧
      (∀ v, v ≠ 60 + u.val → t.unitOf v = s.unitOf v) ∧ t.hammer.yields = satInc 65535 s.hammer.yields ∧ t.rack = s.rack ∧
      t.sent = s.sent := by
  generalize hw : s.modUnit (60 + u.val) (fun x => { x with job := some r, held := some id, marked := none, upper := s.jobKeys r }) = w
  refine ⟨{ w.setStage id .yielded with hammer := { w.hammer with yields := satInc 65535 s.hammer.yields } }, next_congr ?_, ?_,
    fun o ho => ?_, fun j hne => ?_, fun v hv => ?_, rfl, ?_, ?_⟩
  · dsimp only
    rw [hm, hj, ← hw]
    rfl
  · change w.unitOf (60 + u.val) = _
    rw [← hw]
    exact State.unitOf_modUnit_of_ne_default (HUnit.ne_default_of_job rfl)
  · refine State.opOf_modOp_same id (fun o => { o with stage := .yielded }) w (fun _ => rfl) ?_
    rw [← hw]
    exact ho
  · refine (State.opOf_modOp_ne id j (fun o => { o with stage := .yielded }) w (fun _ => rfl) hne).trans ?_
    rw [← hw]
    rfl
  · change w.unitOf v = _
    rw [← hw]
    exact State.unitOf_modUnit_ne _ _ _ _ hv
  all_goals
    rw [← hw]
    rfl

theorem preemptedResume_resumes {s : State} {u : Fin 4} {id : Nat} (hj : (s.unitOf (60 + u.val)).job = none)
    (hh : (s.unitOf (60 + u.val)).held = some id) :
    ∃ t, exec (.preemptedResume u) s = .next t ∧ (t.unitOf (60 + u.val)).job = some id ∧ (t.unitOf (60 + u.val)).held = none ∧
      (∀ o, s.opOf id = some o → t.opOf id = some { o with stage := .block }) ∧ (∀ j, j ≠ id → t.opOf j = s.opOf j) ∧
      (∀ v, v ≠ 60 + u.val → t.unitOf v = s.unitOf v) ∧ t.rack = s.rack ∧ t.sent = s.sent := by
  generalize hw : s.modUnit (60 + u.val) (fun x => { x with job := some id, held := none }) = w
  have hu : w.unitOf (60 + u.val) = { s.unitOf (60 + u.val) with job := some id, held := none } := by
    rw [← hw]
    exact State.unitOf_modUnit_of_ne_default (HUnit.ne_default_of_job rfl)
  refine ⟨w.setStage id .block, next_congr ?_, (congrArg HUnit.job hu :), (congrArg HUnit.held hu :),
    fun o ho => ?_, fun j hne => ?_, fun v hv => ?_, ?_, ?_⟩
  · dsimp only
    rw [hj, hh, ← hw]
  · refine State.opOf_modOp_same id (fun o => { o with stage := .block }) w (fun _ => rfl) ?_
    rw [← hw]
    exact ho
  · refine (State.opOf_modOp_ne id j (fun o => { o with stage := .block }) w (fun _ => rfl) hne).trans ?_
    rw [← hw]
    rfl
  · change w.unitOf v = _
    rw [← hw]
    exact State.unitOf_modUnit_ne _ _ _ _ hv
  all_goals
    rw [← hw]
    rfl

theorem State.fail_abortUnit (id st d : Nat) (s : State) : (s.fail id st d).hammer.abortUnit = s.hammer.abortUnit := by
  have h : (s.unreserve id).hammer = s.hammer := by simp
  refine Eq.trans ?_ (congrArg Hammer.abortUnit h)
  unfold State.fail State.finish
  dsimp only
  split <;> rfl

theorem hammerAbort_ends {s : State} {v : BitVec 32} {id : Nat} {o : Op} (hp : s.pfOpen = true) (hv : v.getLsbD 8 = true)
    (hj : (s.unitOf (bits v 5 0)).job = some id) (hh : (s.unitOf (bits v 5 0)).held = none) (hid : id ≠ 0) (ho : s.opOf id = some o) :
    ∃ t, exec (.hammerAbort v) s = .next t ∧ t.Ended id 0x0601 (0x40 + bits v 5 0) 0 [] ∧ t.hammer.abortUnit = bits v 5 0 ∧
      t.rack.slots = s.rack.slots ∧ t.sent = s.sent := by
  generalize hw : ({ s with hammer := { s.hammer with abortUnit := bits v 5 0 } } : State) = w
  have hjw : (w.unitOf (bits v 5 0)).job = some id := by rw [← hw]; exact hj
  have hhw : (w.unitOf (bits v 5 0)).held = none := by rw [← hw]; exact hh
  have hrun : exec (.hammerAbort v) s = .next (w.fail id 0x0601 (0x40 + bits v 5 0)) := by
    refine next_congr ((if_pos hp).trans ?_)
    dsimp only
    rw [hw, if_pos hv, hjw, hhw]
    simp [hid]
  have how : w.opOf id = some o := by rw [← hw]; exact ho
  refine ⟨_, hrun, State.finish_ended how 0x0601 (0x40 + bits v 5 0) 0 [], ?_, ?_, ?_⟩
  · rw [State.fail_abortUnit, ← hw]
  · rw [State.fail, State.finish_slots, ← hw]
  · simp [← hw]

theorem hammerAbort_leaves {s : State} {v : BitVec 32} (hp : s.pfOpen = true)
    (h : v.getLsbD 8 = false ∨ (s.unitOf (bits v 5 0)).job = some 0 ∧ (s.unitOf (bits v 5 0)).held = none) :
    exec (.hammerAbort v) s = .next { s with hammer := { s.hammer with abortUnit := bits v 5 0 } } := by
  refine next_congr ((if_pos hp).trans ?_)
  generalize hw : ({ s with hammer := { s.hammer with abortUnit := bits v 5 0 } } : State) = w
  rcases h with h | ⟨hj, hh⟩
  · dsimp only
    rw [hw]
    exact if_neg fun ht => Bool.noConfusion (h.symm.trans ht)
  · have hjw : (w.unitOf (bits v 5 0)).job = some 0 := by rw [← hw]; exact hj
    have hhw : (w.unitOf (bits v 5 0)).held = none := by rw [← hw]; exact hh
    dsimp only
    rw [hw, hjw, hhw]
    simp

/-- Settles O15: the grants, the epoch, and the jobs of the Hammer units. -/
theorem dispatching : Obligations.Dispatching := by
  refine ⟨⟨fun owed l f h => mostOwed_spec h, fun s r f g hw hg => State.charge_credit hw hg, fun s t f hg hn => ?_, fun s t f hg hn => ?_,
      fun s t f hg hn => ?_, fun s t f hg hn => ?_, fun s o b hc hl => State.tryLane_of hc hl, fun s o i ho hb hi => State.tryPipe_of ho hb hi,
      fun s o u p hk hc hu => State.tryUnit_plain hk hc hu, fun s o k u p hk hc hp hb hh hf he hu => State.tryUnit_keyed hk hc hp hb hh hf he hu,
      fun s o hb => (State.tryRandom_of hb).1, fun s o c hb => (State.tryRandom_of hb).2 c,
      fun s o => ⟨fun h => if_pos h, fun h => if_pos h, fun h => if_pos h, fun h => if_pos h⟩⟩,
    fun s hw hk => schedulingEpoch_spec hw hk, fun s o => ⟨rfl, rfl⟩, fun s u r id hm hj => yieldPoint_yields hm hj,
    fun s u r hm hj => ?_, fun s u id hj hh => preemptedResume_resumes hj hh,
    fun s v id o hp hv hj hh hid ho => hammerAbort_ends hp hv hj hh hid ho, fun s v hp h => hammerAbort_leaves hp h⟩
  · refine next_congr ?_
    dsimp only
    rw [hg]
    dsimp only
    rw [hn]
    rfl
  · refine next_congr ?_
    dsimp only
    rw [hg]
    dsimp only
    rw [hn]
    rfl
  · refine next_congr ?_
    dsimp only
    rw [hg]
    dsimp only
    rw [hn]
    rfl
  · refine next_congr ?_
    dsimp only
    rw [hg]
    dsimp only
    rw [hn]
    rfl
  · refine next_congr ?_
    dsimp only
    rw [hm, hj]

end Sys2Proof.Machine
end

section
/-!
PROOF of O17: allow lists, counts and shares, quotas, and the mailboxes of the virtual functions.
-/
namespace Sys2Proof.Machine

theorem State.onBar_of {s : State} (h : s.pfOpen = true) (act : State → State) : s.onBar act = act s := if_pos h

/-- A count of instances that the pool can serve, and that no operation stands against, is taken. -/
theorem drbgCountWrite_taken {s : State} {v : BitVec 32} (hp : s.pfOpen = true) (hn : bits v 12 0 ≤ 4096)
    (hpool : bits v 12 0 ≤ s.qmgr.drbgFree + (s.fnOf s.qmgr.resFunc).drbgCount)
    (hops : ∀ o ∈ s.engine.tasks, o.fn = s.qmgr.resFunc → o.namesInst (bits v 12 0) (s.fnOf s.qmgr.resFunc).drbgCount s = false)
    (hw : twf {} s.fns = true) :
    ∃ t, exec (.drbgCountWrite v) s = .next t ∧ (t.fnOf s.qmgr.resFunc).drbgCount = bits v 12 0 ∧
      t.qmgr.drbgFree + bits v 12 0 = s.qmgr.drbgFree + (s.fnOf s.qmgr.resFunc).drbgCount ∧
      (∀ f, f ≠ s.qmgr.resFunc → t.fnOf f = s.fnOf f) ∧ t.engine = s.engine ∧ t.rack = s.rack := by
  have hany : ¬ (s.engine.tasks.any fun o =>
      o.fn == s.qmgr.resFunc && o.namesInst (bits v 12 0) (s.fnOf s.qmgr.resFunc).drbgCount s) = true := by
    rw [List.any_eq_true]
    rintro ⟨o, ho, hb⟩
    rw [Bool.and_eq_true, beq_iff_eq] at hb
    exact Bool.noConfusion ((hops o ho hb.1).symm.trans hb.2)
  have hno : ¬ (4096 < bits v 12 0 ∨ s.qmgr.drbgFree + (s.fnOf s.qmgr.resFunc).drbgCount < bits v 12 0 ∨
      (s.engine.tasks.any fun o => o.fn == s.qmgr.resFunc && o.namesInst (bits v 12 0) (s.fnOf s.qmgr.resFunc).drbgCount s) = true) := by
    rintro (h | h | h)
    · omega
    · omega
    · exact hany h
  refine ⟨_, next_congr ((State.onBar_of hp _).trans (if_neg hno)), ?_, ?_, fun f hf => ?_, rfl, rfl⟩
  · exact (congrArg Fn.drbgCount (State.fnOf_modFn_same s.qmgr.resFunc (fun x => { x with drbgCount := bits v 12 0 }) s hw) :)
  · exact Nat.sub_add_cancel hpool
  · exact State.fnOf_modFn_ne s.qmgr.resFunc f (fun x => { x with drbgCount := bits v 12 0 }) s hf

/-! ### Quotas -/

theorem State.signalVf_of {s : State} {n : Nat} (h : s.exists? n = true) : s.signalVf n = s.signal n 0 := if_pos h

/-- The entry of tenant `d` in a list of tenants holds the quotas in force. -/
def State.QuotasKept (s : State) (d : Nat) (t : List (Nat × Tenant)) : Prop :=
  (tget {} t d).slotQuota = (s.tenantOf d).slotQuota ∧ (tget {} t d).storeQuota = (s.tenantOf d).storeQuota

/-- Every tenant of the list has its quotas kept. -/
theorem State.quotasKept_foldl (s : State) (d : Nat) (l : List (Nat × Bool)) : ∀ t : List (Nat × Tenant), twf {} t = true →
    (∃ b, (d, b) ∈ l) ∨ s.QuotasKept d t → s.QuotasKept d (l.foldl (fun t e =>
      tmod {} e.1 (fun x => { x with slotQuota := (s.tenantOf e.1).slotQuota, storeQuota := (s.tenantOf e.1).storeQuota }) t) t) := by
  induction l with
  | nil => exact fun t _ h => h.resolve_left fun ⟨_, hm⟩ => List.not_mem_nil hm
  | cons e l ih =>
    intro t hw h
    refine ih _ (twf_tmod _ _ _ hw) ?_
    by_cases he : d = e.1
    · right
      subst he
      simp only [State.QuotasKept, tmod, tget_tset_same ({} : Tenant) _ _ hw, and_self]
    · refine h.imp (fun ⟨b, hm⟩ => ⟨b, (List.mem_cons.mp hm).resolve_left fun h0 => he (congrArg Prod.fst h0)⟩) fun hk => ?_
      simp only [State.QuotasKept, tmod, tget_tset_ne ({} : Tenant) _ he]
      exact hk

theorem quotaPersist_keeps {s : State} (hs : s.worlds.hearth.status = 1) (hr : s.regionOpen = true) (hd : s.vault.quotaDirty ≠ []) :
    ∃ t, exec .quotaPersist s = .next t ∧ t.vault.quotaDirty = [] ∧ t.vault.tenants = s.vault.tenants ∧
      (∀ d, (d, true) ∈ s.vault.quotaDirty → twf {} s.vault.kept = true →
        (tget {} t.vault.kept d).slotQuota = (s.tenantOf d).slotQuota ∧
        (tget {} t.vault.kept d).storeQuota = (s.tenantOf d).storeQuota) ∧ t = { s with vault := t.vault, store := t.store } := by
  refine ⟨_, next_congr ((if_pos hs).trans (if_neg (by simp [hr, hd]))), rfl, rfl, fun d hm hw => ?_, rfl⟩
  exact s.quotasKept_foldl d _ _ hw (.inl ⟨true, hm⟩)

theorem quotaPersist_idle {s : State} (h : s.regionOpen = false ∨ s.vault.quotaDirty = []) : exec .quotaPersist s = .next s := by
  have hp : s.persistQuotas = s := if_pos (h.imp_left fun h => by simp [h])
  refine next_congr ?_
  rw [hp, ite_self]

/-- A quota write that the tenant cannot live with, or the device cannot grant, is refused. -/
theorem State.quota_refused {live : Bool} {q used total sum : Nat} {st : Nat}
    (h : live = false ∨ q < used ∨ total < sum ∨ st = 3) : ¬ live = true ∨ q < used ∨ total < sum ∨ st = 3 :=
  h.imp_left fun h => by simp [h]

theorem State.quota_accepted {live : Bool} {q used total sum : Nat} {st : Nat} (h1 : live = true) (h2 : used ≤ q)
    (h3 : sum ≤ total) (h4 : st ≠ 3) : ¬ (¬ live = true ∨ q < used ∨ total < sum ∨ st = 3) := by
  simp only [h1, not_true_eq_false, false_or, not_or, not_lt]
  exact ⟨h2, h3, h4⟩

theorem vf_ne_zero {vf : BitVec 8} (h : vf ≠ 0) : vf.toNat ≠ 0 := fun h0 => h (BitVec.eq_of_toNat_eq h0)

theorem State.vfOpen_eq {s : State} {vf : BitVec 8} (h : vf ≠ 0) (he : s.exists? vf.toNat = true) :
    s.vfOpen vf.toNat = !(s.fnOf vf.toNat).flr := by
  simp [State.vfOpen, vf_ne_zero h, he]

/-- Settles O17: lists, counts, shares, quotas and mailboxes, write by write. -/
theorem functionsAndTenants : Obligations.FunctionsAndTenants := by
  refine ⟨⟨fun s hp => ⟨fun h => ?_, fun i c h => ?_⟩, fun s v hp hn hpool hops hw => drbgCountWrite_taken hp hn hpool hops hw,
      fun s v hp h => ?_, fun s v hp h => ?_, fun s v k hp hk h => ?_, fun s op o b ho hc hg hm => ?_⟩,
    ⟨fun s v hp => ⟨fun h1 h2 h3 h4 => ?_, fun h => ?_, fun h1 h2 h3 h4 => ?_, fun h => ?_⟩, fun s hs hr hd => quotaPersist_keeps hs hr hd,
      fun s h => quotaPersist_idle h⟩,
    fun s vf hne he => ⟨fun hf hd => ?_, fun hf hd => ?_, fun hf => ?_, fun hf => ⟨?_, ?_⟩, fun hp => ?_, fun hp hd => ?_, fun hp hd => ?_⟩⟩
  · refine next_congr ((State.onBar_of hp _).trans ?_)
    dsimp only
    rw [h]
  · refine next_congr ((State.onBar_of hp _).trans ?_)
    dsimp only
    rw [h]
  · exact next_congr ((State.onBar_of hp _).trans (if_pos (h.imp_right .inl)))
  · refine next_congr ((State.onBar_of hp _).trans (if_neg ?_))
    simp only [List.any_eq_true, List.mem_range, beq_iff_eq, not_exists, not_and]
    exact h
  · refine next_congr ((State.onBar_of hp _).trans (if_pos ?_))
    simp only [List.any_eq_true, List.mem_range, beq_iff_eq]
    exact ⟨k, hk, h⟩
  · exact next_congr ((State.onOp_of ho hc hg _).trans (if_pos hm))
  · exact next_congr ((State.onBar_of hp _).trans (if_neg (State.quota_accepted h1 h2 h3 h4)))
  · exact next_congr ((State.onBar_of hp _).trans (if_pos (State.quota_refused h)))
  · exact next_congr ((State.onBar_of hp _).trans (if_neg (State.quota_accepted h1 h2 h3 h4)))
  · exact next_congr ((State.onBar_of hp _).trans (if_pos (State.quota_refused h)))
  · exact next_congr ((if_neg (by simp [State.vfOpen_eq hne he, hf])).trans (if_neg (by simp [hd])))
  · exact next_congr ((if_neg (by simp [State.vfOpen_eq hne he, hf])).trans (if_pos hd))
  · exact next_congr (if_neg (by simp [State.vfOpen_eq hne he, hf]))
  · exact next_congr (if_pos (by simp [State.vfOpen_eq hne he, hf]))
  · exact next_congr (if_pos (by simp [State.vfOpen_eq hne he, hf]))
  · exact next_congr ((State.onBar_of hp _).trans ((if_neg (vf_ne_zero hne)).trans (State.signalVf_of he)))
  · exact next_congr ((State.onBar_of hp _).trans ((if_neg (vf_ne_zero hne)).trans ((if_neg (by simp [hd])).trans (State.signalVf_of he))))
  · exact next_congr ((State.onBar_of hp _).trans ((if_neg (vf_ne_zero hne)).trans (if_pos hd)))

end Sys2Proof.Machine
end

section
/-!
PROOF of O18: tamper sources, and what a trip does.
-/
namespace Sys2Proof.Machine

/-! ### A Quench that starts in READY (R434) -/

/-- `t` is `s` after the start of a Quench, with `src` the sources in the latch: what is erased, what is shown and what stays. -/
structure State.QuenchOf (s : State) (src : BitVec 12) (t : State) : Prop where
  quench : t.tamper.quench = true
  quenchAt : t.tamper.quenchAt = s.now
  active : t.tamper.active = s.tamper.active
  envA : t.tamper.envA = s.tamper.envA
  envB : t.tamper.envB = s.tamper.envB
  state : t.chip.state = .quenched
  keyBus : t.chip.keyBus = false
  drk : t.crucible.drk = 0
  maskSeed : t.crucible.maskSeed = 0
  slots : t.rack.slots = []
  caches : t.rack.caches = []
  maskKey : t.rack.maskKey = 0
  internal : t.bellows.internal = {}
  insts : ∀ f i, (t.instOf f i).up = false ∧ (t.instOf f i).key = 0 ∧ (t.instOf f i).v = 0
  ctxs : t.plan.ctxs = []
  units : t.hammer.units = []
  latchSrc : t.crucible.latchSrc = src
  latchCls : t.crucible.latchCls = max s.crucible.latchCls 3
  bundle : t.plan.bundle = s.plan.bundle
  life : t.life = s.life
  sets : t.vault.sets = s.vault.sets
  lidN : t.pins.lidN = s.pins.lidN
  zeroizeN : t.pins.zeroizeN = s.pins.zeroizeN

/-- The fields that a Quench keeps or raises agree in two states. -/
structure State.SameForQuench (s u : State) : Prop where
  now : u.now = s.now
  active : u.tamper.active = s.tamper.active
  envA : u.tamper.envA = s.tamper.envA
  envB : u.tamper.envB = s.tamper.envB
  latchCls : u.crucible.latchCls = s.crucible.latchCls
  plan : u.plan = s.plan
  life : u.life = s.life
  vault : u.vault = s.vault
  pins : u.pins = s.pins

theorem State.QuenchOf.of_start {s u t : State} {src : BitVec 12} (h : u.QuenchOf src t) (hs : s.SameForQuench u) : s.QuenchOf src t :=
  { h with
    quenchAt := h.quenchAt.trans hs.now
    active := h.active.trans hs.active
    envA := h.envA.trans hs.envA
    envB := h.envB.trans hs.envB
    latchCls := by rw [h.latchCls, hs.latchCls]
    bundle := by rw [h.bundle, hs.plan]
    life := h.life.trans hs.life
    sets := by rw [h.sets, hs.vault]
    lidN := by rw [h.lidN, hs.pins]
    zeroizeN := by rw [h.zeroizeN, hs.pins] }

theorem State.setChip_pins (c : ChipState) (s : State) :
    (s.setChip c).pins.lidN = s.pins.lidN ∧ (s.setChip c).pins.zeroizeN = s.pins.zeroizeN := by
  unfold State.setChip
  split <;> simp

/-- An erased generator. -/
theorem insts_erased (l : List (Nat × Inst)) (k : Nat) :
    (tget {} (tmap {} (fun _ i => { i with up := false, key := 0, v := 0, count := 0, exp := 0 }) l) k : Inst) =
      {} ∨ ∃ i : Inst, tget {} (tmap {} (fun _ i => { i with up := false, key := 0, v := 0, count := 0, exp := 0 }) l) k =
        { i with up := false, key := 0, v := 0, count := 0, exp := 0 } := by
  induction l with
  | nil => exact .inl rfl
  | cons e l ih =>
    obtain ⟨j, x⟩ := e
    simp only [tmap]
    split
    · exact ih
    · rw [tget_cons]
      split
      · exact .inr ⟨x, rfl⟩
      · exact ih

theorem State.startQuench_quenches {s : State} (hr : s.chip.state = .ready) (he : s.chip.endState ≠ .recovery) :
    s.QuenchOf s.crucible.latchSrc s.startQuench := by
  generalize hu : ({ s with tamper := { s.tamper with quench := true, quenchAt := s.now }
                            chip := { s.chip with keyBus := false, endState := .quenched } } : State) = u
  have hrun : s.startQuench = ((u.setChip .quenched).quenchErase).latchClass 3 := by
    rw [← hu]
    simp only [State.startQuench, he, if_false, hr, reduceCtorEq]
  have hchip : (u.setChip .quenched).chip = { s.chip with keyBus := false, endState := .quenched, state := .quenched } := by
    rw [State.setChip_chip, ← hu]
  obtain ⟨hlid, hzer⟩ := u.setChip_pins .quenched
  rw [hrun]
  refine ⟨?_, ?_, ?_, ?_, ?_, ?_, ?_, rfl, rfl, rfl, rfl, rfl, rfl, fun f i => ?_, rfl, rfl, ?_, ?_, ?_, ?_, ?_, ?_, ?_⟩
  · simp [← hu]
  · simp [← hu]
  · simp [← hu]
  · simp [← hu]
  · simp [← hu]
  · simp [hchip]
  · simp [hchip]
  · rcases insts_erased (u.setChip .quenched).bellows.insts (f * 4096 + i) with h | ⟨x, h⟩
    · exact ⟨(congrArg Inst.up h :), (congrArg Inst.key h :), (congrArg Inst.v h :)⟩
    · exact ⟨(congrArg Inst.up h :), (congrArg Inst.key h :), (congrArg Inst.v h :)⟩
  · simp [← hu, State.quenchErase, State.latchClass]
  · simp [← hu, State.quenchErase, State.latchClass]
  · simp [← hu, State.quenchErase, State.latchClass]
  · simp [← hu]
  · simp [← hu, State.quenchErase, State.latchClass]
  · simpa [← hu] using hlid
  · simpa [← hu] using hzer

/-- The state in which the response to an alarm of source `n` begins: latched, in its group, and logged. -/
def State.alarmed (n cls detail : Nat) (s : State) : State :=
  let t := (s.latchAlarm n).joinGroup cls
  t.log 0x0F01 0xF0 ([BitVec.ofNat 8 n, BitVec.ofNat 8 cls] ++ leBytes 4 t.crucible.latchGroup.toNat ++ leBytes 2 detail)

theorem State.alarm_of_class {s : State} {n cls : Nat} (hcls : s.classOf n = cls) (h0 : cls ≠ 0) (detail : Nat) :
    s.alarm n detail = (s.alarmed n cls detail).respond cls := by
  rw [State.alarm, hcls]
  exact if_neg h0

/-- Joining a group changes the group and its number alone. -/
theorem State.joinGroup_eq (cls : Nat) (s : State) : ∃ no g, s.joinGroup cls =
    { s with crucible := { s.crucible with latchGroup := no }, tamper := { s.tamper with group := g } } ∧
    (1 < cls → g ≠ none) ∧ (g.map (·.carried)).getD 0 = (s.tamper.group.map (·.carried)).getD 0 := by
  unfold State.joinGroup
  split
  · next g hg =>
    exact ⟨s.crucible.latchGroup, _, rfl, fun _ => Option.some_ne_none _, by rw [hg]; rfl⟩
  · next hg =>
    split
    · next hc =>
      refine ⟨s.crucible.latchGroup, none, ?_, fun h => absurd hc (not_le.mpr h), by rw [hg]⟩
      rw [← hg]
    · exact ⟨_, _, rfl, fun _ => Option.some_ne_none _, by rw [hg]; rfl⟩

/-- What an alarm has changed before its response: the latch, the counts, the group and the record. -/
theorem State.alarmed_eq (n cls detail : Nat) (s : State) : ∃ no g, 
    (s.alarmed n cls detail).crucible = { (s.latchAlarm n).crucible with latchGroup := no } ∧
    (s.alarmed n cls detail).tamper = { (s.latchAlarm n).tamper with group := g } ∧ (1 < cls → g ≠ none) ∧
    (g.map (·.carried)).getD 0 = (s.tamper.group.map (·.carried)).getD 0 := by
  obtain ⟨no, g, hj, hg, hc⟩ := State.joinGroup_eq cls (s.latchAlarm n)
  refine ⟨no, g, ?_, ?_, hg, hc⟩
  · simp only [State.alarmed, State.log_frame]
    rw [hj]
  · simp only [State.alarmed, State.log_frame]
    rw [hj]

@[simp] theorem State.alarmed_frame (n cls detail : Nat) (s : State) :
    (s.alarmed n cls detail).now = s.now ∧ (s.alarmed n cls detail).plan = s.plan ∧ (s.alarmed n cls detail).life = s.life ∧
    (s.alarmed n cls detail).vault = s.vault ∧ (s.alarmed n cls detail).pins = s.pins ∧ (s.alarmed n cls detail).chip = s.chip ∧
    (s.alarmed n cls detail).engine = s.engine ∧ (s.alarmed n cls detail).rack = s.rack := by
  simp [State.alarmed]

/-- In READY, with no Quench running, an alarm of class QUENCH starts one. -/
theorem State.alarm_quenches {s : State} {n : Nat} (hcls : s.classOf n = 3) (hq : s.tamper.quench = false)
    (hr : s.chip.state = .ready) (he : s.chip.endState ≠ .recovery) (detail : Nat) :
    s.QuenchOf (s.crucible.latchSrc ||| BitVec.ofNat 12 (2 ^ n)) (s.alarm n detail) := by
  rw [State.alarm_of_class hcls (by decide)]
  obtain ⟨no, g, hvc, hvt, hg, -⟩ := s.alarmed_eq n 3 detail
  obtain ⟨hnow, hplan, hlife, hvault, hpins, hchip, -, -⟩ := s.alarmed_frame n 3 detail
  generalize s.alarmed n 3 detail = v at hvc hvt hnow hplan hlife hvault hpins hchip ⊢
  obtain ⟨g, rfl⟩ := Option.ne_none_iff_exists'.mp (hg (by decide))
  have hrun : v.respond 3 = State.startQuench { v with tamper := { v.tamper with group := some { g with carried := 3 } } } := by
    have hvg : v.tamper.group = some g := by rw [hvt]
    have hvq : v.quenching = false := by rw [State.quenching, hvt]; exact hq
    simp only [State.respond, hvq, hchip, hr, hvg, reduceCtorEq, Bool.false_eq_true, or_self, if_false, if_true]
  rw [hrun]
  generalize hw : ({ v with tamper := { v.tamper with group := some { g with carried := 3 } } } : State) = w
  have hwc : w.chip = s.chip := by rw [← hw]; exact hchip
  have hws : w.crucible.latchSrc = s.crucible.latchSrc ||| BitVec.ofNat 12 (2 ^ n) := by
    rw [← hw]
    change v.crucible.latchSrc = _
    rw [hvc]
    rfl
  rw [← hws]
  refine (State.startQuench_quenches (by rw [hwc]; exact hr) (by rw [hwc]; exact he)).of_start ?_
  rw [← hw]
  refine ⟨hnow, ?_, ?_, ?_, ?_, hplan, hlife, hvault, hpins⟩
  · change v.tamper.active = _
    rw [hvt]
    rfl
  · change v.tamper.envA = _
    rw [hvt]
    rfl
  · change v.tamper.envB = _
    rw [hvt]
    rfl
  · change v.crucible.latchCls = _
    rw [hvc]
    rfl

/-! ### A LOCK in READY (R432) -/

/-- No operation of the class is still under way. -/
def State.DoneBut (s : State) (l : List Nat) : Prop := ∀ o ∈ s.engine.tasks, o.inEngine = true → o.stage = .done ∨ o.id ∈ l

theorem State.unreserve_tasks (id : Nat) (s : State) :
    ∃ g : Op → Op, (s.unreserve id).engine.tasks = s.engine.tasks.map g ∧ ∀ o, (g o).id = o.id ∧ (g o).stage = o.stage := by
  unfold State.unreserve
  split
  · split
    · refine ⟨fun o => if o.id == id then { o with reserved := false } else o, rfl, fun o => ?_⟩
      dsimp only
      split <;> exact ⟨rfl, rfl⟩
    · exact ⟨fun o => o, (List.map_id _).symm, fun _ => ⟨rfl, rfl⟩⟩
  · exact ⟨fun o => o, (List.map_id _).symm, fun _ => ⟨rfl, rfl⟩⟩

theorem State.DoneBut.finish {s : State} {id : Nat} {l : List Nat} (h : s.DoneBut (id :: l)) (st d n : Nat) (r : Bytes) :
    (s.finish id st d n r).DoneBut l := by
  intro o ho hin
  obtain ⟨g, hg, hgo⟩ := State.unreserve_tasks id s
  rw [State.finish_tasks, hg, List.map_map] at ho
  obtain ⟨p, hp, rfl⟩ := List.mem_map.mp ho
  obtain ⟨hid, hst⟩ := hgo p
  by_cases hpi : p.id = id
  · left
    simp [hid, hpi, Op.end_]
  · simp only [Function.comp, hid, beq_iff_eq, hpi, if_false] at hin ⊢
    rw [hst]
    have hin' : p.inEngine = true := by rwa [Op.inEngine, hst] at hin
    exact (h p hp hin').imp_right fun hm => (List.mem_cons.mp hm).resolve_left hpi

theorem State.DoneBut.stopOp {s : State} {id : Nat} {l : List Nat} (h : s.DoneBut (id :: l)) (st d : Nat) : (s.stopOp id st d).DoneBut l := by
  rcases s.stopOp_cases id st d with he | ⟨x, he⟩ <;> rw [he]
  · exact h.finish st d 0 []
  · exact State.DoneBut.finish (s := s.emit x) h st d 0 []

/-- A LOCK leaves no operation of a block under way. -/
theorem State.doneBut_failAll (s : State) (st d : Nat) : (s.failAll Op.inEngine st d).DoneBut [] := by
  have key : ∀ (l : List Nat) (u : State), u.DoneBut l → (l.foldl (fun s id => s.stopOp id st d) u).DoneBut [] := by
    intro l
    induction l with
    | nil => exact fun _ h => h
    | cons id l ih => exact fun u h => ih _ (h.stopOp st d)
  refine key _ s fun o ho hin => ?_
  by_cases hd : o.stage = .done
  · exact .inl hd
  · refine .inr (List.mem_map.mpr ⟨o, List.mem_filter.mpr ⟨ho, ?_⟩, rfl⟩)
    simp [hd, hin]

theorem State.DoneBut.of_tasks {s t : State} {l : List Nat} (h : s.DoneBut l) (he : t.engine.tasks = s.engine.tasks) : t.DoneBut l := by
  rw [State.DoneBut, he]
  exact h

theorem State.takeLock_ends {s : State} (h : s.chip.state = .ready) :
    s.takeLock.crucible = { s.crucible with latchCls := max s.crucible.latchCls 2 } ∧ s.takeLock.tamper = s.tamper ∧
    s.takeLock.DoneBut [] := by
  rw [State.takeLock_of_ready h]
  have hc : s.lockChip.lockCeremony.crucible = s.lockChip.crucible ∧ s.lockChip.lockCeremony.tamper = s.lockChip.tamper := by
    unfold State.lockCeremony
    repeat' split
    all_goals simp
  have hcr : s.lockChip.crucible = ((s.latchClass 2).setChip .locked).crucible := rfl
  have hta : s.lockChip.tamper = ((s.latchClass 2).setChip .locked).tamper := rfl
  refine ⟨?_, ?_, ?_⟩
  · simp only [State.legacyAbort_frame, State.failAll_crucible, hc, hcr, State.setChip_frame]
    rfl
  · simp only [State.legacyAbort_frame, State.failAll_tamper, hc, hta, State.setChip_frame]
    rfl
  · exact (State.doneBut_failAll s.lockChip.lockCeremony 0x0303 0).of_tasks (by simp)

/-- In READY, with no Quench running, an alarm of class LOCK. -/
theorem State.alarm_locks {s : State} {n : Nat} (hcls : s.classOf n = 2) (hq : s.tamper.quench = false)
    (hr : s.chip.state = .ready) (detail : Nat) :
    (s.alarm n detail).crucible.latchSrc = s.crucible.latchSrc ||| BitVec.ofNat 12 (2 ^ n) ∧
    (s.alarm n detail).crucible.drk = s.crucible.drk ∧ (s.alarm n detail).crucible.latchCls = max s.crucible.latchCls 2 ∧
    (s.alarm n detail).tamper.quench = false ∧ (s.alarm n detail).tamper.lowRuns = s.tamper.lowRuns ∧ (s.alarm n detail).DoneBut [] := by
  rw [State.alarm_of_class hcls (by decide)]
  obtain ⟨no, g, hvc, hvt, hg, -⟩ := s.alarmed_eq n 2 detail
  obtain ⟨-, -, -, -, -, hchip, -, -⟩ := s.alarmed_frame n 2 detail
  generalize s.alarmed n 2 detail = v at hvc hvt hchip ⊢
  obtain ⟨g, rfl⟩ := Option.ne_none_iff_exists'.mp (hg (by decide))
  have hvr : v.chip.state = .ready := by rw [hchip]; exact hr
  have hvg : v.tamper.group = some g := by rw [hvt]
  have hvq : v.quenching = false := by rw [State.quenching, hvt]; exact hq
  rw [State.respond_of_group hvq hvr hvg]
  obtain ⟨hc, ht, hd⟩ := State.takeLock_ends (s := v.lockGroup g) hvr
  have hd' : (State.pme ((v.lockGroup g).takeLock.logResponse 2 g 0)).DoneBut [] := hd.of_tasks (by simp [State.logResponse])
  have hlc : (v.lockGroup g).crucible = v.crucible := rfl
  have hlt : (v.lockGroup g).tamper = { v.tamper with group := some { g with carried := 2 } } := rfl
  simp only [State.pme_frame, State.logResponse, State.log_frame, hc, ht, hlc, hlt, hvc, hvt]
  exact ⟨rfl, rfl, rfl, hq, rfl, hd'⟩

theorem State.respond_note (s : State) : s.respond 1 =
    if s.quenching = true ∨ s.chip.state = .quenched then s
    else if 1 < (s.tamper.group.map (·.carried)).getD 0 then s else ((s.latchClass 1).deviceEvent).pme := by
  cases hg : s.tamper.group <;> simp [State.respond, hg]

/-- An alarm of class NOTE. -/
theorem State.alarm_notes {s : State} {n : Nat} (hcls : s.classOf n = 1) (detail : Nat) :
    (s.alarm n detail).crucible.latchSrc = s.crucible.latchSrc ||| BitVec.ofNat 12 (2 ^ n) ∧
    (s.alarm n detail).crucible.latchCls = max s.crucible.latchCls (if s.tamper.quench = true ∨ s.chip.state = .quenched ∨
      1 < ((s.tamper.group.map (·.carried)).getD 0) then 0 else 1) ∧
    (s.alarm n detail).tamper.vbatRuns = s.tamper.vbatRuns ∧ (s.alarm n detail).chip = s.chip ∧ (s.alarm n detail).rack = s.rack ∧
    (s.alarm n detail).engine = s.engine := by
  rw [State.alarm_of_class hcls (by decide)]
  obtain ⟨no, g, hvc, hvt, -, hcar⟩ := s.alarmed_eq n 1 detail
  obtain ⟨-, -, -, -, -, hchip, heng, hrack⟩ := s.alarmed_frame n 1 detail
  generalize s.alarmed n 1 detail = v at hvc hvt hchip heng hrack ⊢
  have hvq : v.quenching = s.tamper.quench := by rw [State.quenching, hvt]; rfl
  have hcarried : (v.tamper.group.map (·.carried)).getD 0 = (s.tamper.group.map (·.carried)).getD 0 := by
    rw [← hcar, hvt]
  have hrun : v.respond 1 = if s.tamper.quench = true ∨ s.chip.state = .quenched ∨ 1 < ((s.tamper.group.map (·.carried)).getD 0)
      then v else ((v.latchClass 1).deviceEvent).pme := by
    rw [State.respond_note, hvq, hchip, hcarried]
    by_cases h1 : s.tamper.quench = true ∨ s.chip.state = .quenched
    · rw [if_pos h1, if_pos (h1.elim .inl fun h => .inr (.inl h))]
    · rw [if_neg h1]
      by_cases h2 : 1 < ((s.tamper.group.map (·.carried)).getD 0)
      · rw [if_pos h2, if_pos (.inr (.inr h2))]
      · rw [if_neg h2, if_neg (fun h => h.elim (fun h => h1 (.inl h)) fun h => h.elim (fun h => h1 (.inr h)) h2)]
  rw [hrun]
  split
  · exact ⟨by rw [hvc]; rfl, by rw [hvc]; exact (Nat.max_zero _).symm, by rw [hvt]; rfl, hchip, hrack, heng⟩
  · have hc : (v.latchClass 1).deviceEvent.pme.crucible = { v.crucible with latchCls := max v.crucible.latchCls 1 } := by
      simp only [State.pme_frame, State.deviceEvent_frame]
      rfl
    have ht : (v.latchClass 1).deviceEvent.pme.tamper = v.tamper := by simp
    rw [hc, ht, hvc, hvt]
    exact ⟨rfl, rfl, rfl, by simpa using hchip, by simpa using hrack, by simpa using heng⟩

/-! ### Conditions -/

theorem getLsbD_ofNat_two_pow (w n i : Nat) : (BitVec.ofNat w (2 ^ n)).getLsbD i = (decide (i < w) && decide (n = i)) := by
  rw [BitVec.getLsbD_ofNat, Nat.testBit_two_pow]

/-- A condition sets or clears its own bit. -/
theorem State.condition_active (n : Nat) (on : Bool) (s : State) (i : Nat) :
    (s.condition n on).tamper.active.getLsbD i = if i = n then on && decide (i < 12) else s.tamper.active.getLsbD i := by
  have hbit := getLsbD_ofNat_two_pow 12 n i
  unfold State.condition
  generalize BitVec.ofNat 12 (2 ^ n) = m at hbit ⊢
  by_cases hi : i < 12
  · have h0 : m[i] = decide (n = i) := by simpa [hi] using hbit
    by_cases hn : i = n
    · subst hn
      cases on <;> simp [h0, hi]
    · cases on <;> simp [h0, hi, hn, Ne.symm hn]
  · have h0 (v : BitVec 12) : v.getLsbD i = false := BitVec.getLsbD_of_ge v i (not_lt.mp hi)
    simp [h0, hi]

/-! ### Readings -/

/-- A reading of Tj before its trips: the value, the runs and the conditions of the two sources. -/
def State.tjRead (tj : Int) (low high : Nat) (s : State) : State :=
  ((State.condition 4 (decide (tj < -320) && s.watched 4)
    { s with tamper := { s.tamper with tj := tj, lowRuns := low, highRuns := high } }).condition 5 (decide (960 < tj) && s.watched 5))

theorem tempReading_in_range {s : State} {tj : Int} (hlo : -360 ≤ tj) (hhi : tj ≤ 1000) :
    exec (.tempReading tj) s = .next (s.tjRead tj 0 0) := by
  refine next_congr ?_
  simp only [not_lt.mpr hlo, not_lt.mpr hhi, if_false]
  rfl

theorem tempReading_fourth {s : State} {tj : Int} (hlo : tj < -360) (hr : s.tamper.lowRuns = 3) :
    exec (.tempReading tj) s = .next ((s.tjRead tj 4 0).alarm 4 (tj % 65536).toNat) := by
  have hhi : ¬ 1000 < tj := by omega
  refine next_congr ?_
  simp only [hlo, hhi, hr, if_true, if_false]
  rfl

theorem vbatReading_in_range {s : State} {mv : BitVec 12} (hm : s.pins.mainPower = true) (hv : 2400 ≤ mv.toNat) :
    exec (.vbatReading mv) s = .next (State.condition 10 (decide (mv.toNat < 2500) && s.watched 10)
      { s with tamper := { s.tamper with vbatMv := mv.toNat, vbatRuns := 0 } }) := by
  refine next_congr ((if_neg (not_not_intro hm)).trans ?_)
  simp only [not_lt.mpr hv, if_false]
  rfl

theorem vbatReading_second {s : State} {mv : BitVec 12} (hm : s.pins.mainPower = true) (hv : mv.toNat < 2400)
    (hr : s.tamper.vbatRuns = 1) :
    exec (.vbatReading mv) s = .next (State.alarm 10 mv.toNat (State.condition 10 (decide (mv.toNat < 2500) && s.watched 10)
      { s with tamper := { s.tamper with vbatMv := mv.toNat, vbatRuns := 2 } })) := by
  refine next_congr ((if_neg (not_not_intro hm)).trans ?_)
  simp only [hv, hr, if_true]
  rfl

theorem State.trip_powered {s : State} (h : s.pins.mainPower = true) (n detail : Nat) : s.trip n detail = s.alarm n detail := if_pos h

theorem envelopeMismatch_trips {s : State} {b : Bool} {n : Nat} (hn : n = (if b then 2 else 1)) (hr : s.chip.state = .ready)
    (he : s.chip.endState ≠ .recovery) (hq : s.tamper.quench = false) (hm : s.pins.mainPower = true) (hw : s.watched n = true)
    (hc : s.classOf n = 3) (ha : s.tamper.active.getLsbD n = false) :
    ∃ t, exec (.envelopeMismatch b true) s = .next t ∧ t.tamper.active.getLsbD n = true ∧ t.chip.state = .quenched ∧
      t.chip.keyBus = false ∧ t.tamper.quench = true ∧ t.rack.slots = [] ∧ t.crucible.drk = 0 ∧
      (if b then t.tamper.envB else t.tamper.envA) = true ∧ t.crucible.latchCls = max s.crucible.latchCls 3 := by
  generalize hu : State.condition n true { s with tamper := { s.tamper with envA := s.tamper.envA || !b, envB := s.tamper.envB || b } } = u
  have hlt : n < 12 := by
    rw [hn]
    split <;> decide
  have hact : u.tamper.active.getLsbD n = true := by
    rw [← hu, State.condition_active, if_pos rfl]
    simp [hlt]
  have henv : (if b then u.tamper.envB else u.tamper.envA) = true := by
    rw [← hu]
    cases b <;> simp [State.condition]
  have hup : u.pins = s.pins ∧ u.chip = s.chip ∧ u.crucible = s.crucible ∧ u.tamper.quench = s.tamper.quench ∧ u.classOf n = s.classOf n := by
    rw [← hu]
    exact ⟨rfl, rfl, rfl, rfl, rfl⟩
  obtain ⟨hpins, hchip, hcru, hque, hcls⟩ := hup
  have hquench := State.alarm_quenches (s := u) (n := n) (hcls.trans hc) (hque.trans hq) (by rw [hchip]; exact hr) (by rw [hchip]; exact he)
    (if b then 1 else 0)
  refine ⟨_, next_congr ?_, (congrArg (fun v : BitVec 12 => v.getLsbD n) hquench.active).trans hact, hquench.state, hquench.keyBus,
    hquench.quench, hquench.slots, hquench.drk, ?_, by rw [hquench.latchCls, hcru]⟩
  · dsimp only
    rw [← hn, if_neg (not_not_intro hw), if_neg (by simp), hu, if_neg (by simp [ha]), State.trip_powered (by rw [hpins]; exact hm)]
  · rw [hquench.envA, hquench.envB]
    exact henv

theorem lid_opens {s : State} (hr : s.chip.state = .ready) (he : s.chip.endState ≠ .recovery) (hq : s.tamper.quench = false)
    (hm : s.pins.mainPower = true) (hw : s.watched 3 = true) (hc : s.classOf 3 = 3) (ha : s.tamper.active.getLsbD 3 = false) :
    ∃ u t : State, exec .lid s = .next t ∧ u.QuenchOf (u.crucible.latchSrc ||| 8) t ∧ u.tamper.active.getLsbD 3 = true ∧ u.pins.lidN = true ∧
      u.now = s.now ∧ u.crucible = s.crucible ∧ u.plan = s.plan ∧ u.life = s.life ∧ u.vault = s.vault := by
  have hquench := State.alarm_quenches (s := State.condition 3 true { s with pins := { s.pins with lidN := true } }) (n := 3) hc hq hr he 0
  refine ⟨State.condition 3 true { s with pins := { s.pins with lidN := true } }, _, next_congr ((if_neg (not_not_intro hw)).trans
    ((if_neg ?_).trans (if_pos hm))), hquench, ?_, rfl, rfl, rfl, rfl, rfl, rfl⟩
  · exact fun h => Bool.noConfusion (ha.symm.trans h)
  · rw [State.condition_active]
    rfl

theorem zeroize_quenches {s : State} (hm : s.pins.mainPower = true) (hr : s.chip.state = .ready) (he : s.chip.endState ≠ .recovery)
    (hq : s.tamper.quench = false) (hc : s.classOf 9 = 3) (ha : s.tamper.active.getLsbD 9 = false) :
    ∃ t, exec .zeroize s = .next t ∧ t.tamper.quench = true ∧ t.chip.state = .quenched ∧
      t.chip.keyBus = false ∧ t.crucible.drk = 0 ∧ t.rack.slots = [] ∧ t.pins.zeroizeN = false := by
  have hquench := State.alarm_quenches (s := State.condition 9 true { s with pins := { s.pins with zeroizeN := false } }) (n := 9) hc hq hr he 0
  refine ⟨_, next_congr ((if_neg (not_not_intro hm)).trans (if_neg ?_)), hquench.quench, hquench.state, hquench.keyBus, hquench.drk,
    hquench.slots, hquench.zeroizeN⟩
  exact fun h => Bool.noConfusion (ha.symm.trans h)

theorem shield_clean {s : State} (k : Fin 8) (hw : s.watched 0 = true) :
    ∃ t, exec (.shield k 0) s = .next t ∧ t.tamper.shieldNow.getLsbD k.val = false ∧
      (∀ j : Fin 8, j ≠ k → t.tamper.shieldNow.getLsbD j.val = s.tamper.shieldNow.getLsbD j.val) ∧
      t.tamper.active.getLsbD 0 = (t.tamper.shieldNow != 0) ∧ t.tamper.sectors = s.tamper.sectors ∧ t.chip = s.chip ∧
      t = { s with tamper := t.tamper } := by
  have hm (j : Fin 8) : (BitVec.ofNat 8 (2 ^ k.val)).getLsbD j.val = decide (k.val = j.val) := by
    rw [getLsbD_ofNat_two_pow]
    simp
  refine ⟨_, next_congr ((if_neg (not_not_intro hw)).trans (if_pos rfl)), ?_, fun j hj => ?_, ?_, rfl, rfl, rfl⟩
  · change (s.tamper.shieldNow &&& ~~~ BitVec.ofNat 8 (2 ^ k.val)).getLsbD k.val = false
    rw [BitVec.getLsbD_and, BitVec.getLsbD_not, hm k]
    simp
  · change (s.tamper.shieldNow &&& ~~~ BitVec.ofNat 8 (2 ^ k.val)).getLsbD j.val = _
    rw [BitVec.getLsbD_and, BitVec.getLsbD_not, hm j, decide_eq_false (fun h : k.val = j.val => hj (Fin.ext h.symm))]
    simp
  · exact (State.condition_active 0 _ _ 0).trans (Bool.and_true _)

theorem shield_again {s : State} (k : Fin 8) {l : BitVec 64} (hl : l ≠ 0) (hw : s.watched 0 = true)
    (hk : s.tamper.shieldNow.getLsbD k.val = true) :
    ∃ t, exec (.shield k l) s = .next t ∧ t.tamper.active.getLsbD 0 = true ∧ t.tamper.shieldNow = s.tamper.shieldNow ∧
      t.tamper.sectors.getLsbD k.val = true ∧ t = { s with tamper := t.tamper } := by
  have hm (j : Nat) : (BitVec.ofNat 8 (2 ^ k.val)).getLsbD j = (decide (j < 8) && decide (k.val = j)) := getLsbD_ofNat_two_pow 8 _ _
  have hand : s.tamper.shieldNow &&& BitVec.ofNat 8 (2 ^ k.val) ≠ 0 := by
    intro h
    have hb := congrArg (fun v : BitVec 8 => v.getLsbD k.val) h
    simp only [BitVec.getLsbD_and, hk, hm] at hb
    simp at hb
  have hor : s.tamper.shieldNow ||| BitVec.ofNat 8 (2 ^ k.val) = s.tamper.shieldNow := by
    refine BitVec.eq_of_getLsbD_eq fun j hj => ?_
    rw [BitVec.getLsbD_or, hm]
    by_cases hkj : k.val = j
    · rw [← hkj, hk]
      rfl
    · simp [hkj]
  refine ⟨_, next_congr ((if_neg (not_not_intro hw)).trans ((if_neg hl).trans (if_neg hand))), ?_, hor, ?_, rfl⟩
  · exact State.condition_active 0 true _ 0
  · change (s.tamper.sectors ||| BitVec.ofNat 8 (2 ^ k.val)).getLsbD k.val = true
    rw [BitVec.getLsbD_or, hm]
    simp

/-- Settles O18: the sources one by one, and the Quench that a trip starts. -/
theorem tamperAlarms : Obligations.TamperAlarms := by
  refine ⟨⟨fun s => rfl, fun s => rfl, fun s hm => next_congr (if_pos (by simp [hm])), fun s hm hr he hq hc ha => zeroize_quenches hm hr he hq hc ha,
      fun s k hw => shield_clean k hw, fun s k l hl hw hk => shield_again k hl hw hk, fun s tj hlo hhi => ?_, fun s tj hlo hr hst hq hc => ?_,
      fun s mv hm hv => ?_, fun s mv hm hv hr hc => ?_⟩, fun s hr he hq hm hw hc ha => ?_,
    fun s b n hn hr he hq hm hw hc ha => envelopeMismatch_trips hn hr he hq hm hw hc ha, fun s b n hn hw => ?_, fun s b m n hn hw => ?_⟩
  · refine ⟨_, tempReading_in_range hlo hhi, rfl, rfl, rfl, fun hw => ?_, fun hw => ?_, rfl⟩
    · rw [State.tjRead, State.condition_active, if_neg (by decide), State.condition_active, if_pos rfl, hw]
      simp
    · rw [State.tjRead, State.condition_active, if_pos rfl, hw]
      simp
  · obtain ⟨h1, h2, h3, h4, h5, h6⟩ := State.alarm_locks (s := s.tjRead tj 4 0) (n := 4) hc hq hst (tj % 65536).toNat
    have hlock := State.lockOf_alarm (s := s.tjRead tj 4 0) (n := 4) hc hq hst (tj % 65536).toNat
    exact ⟨_, tempReading_fourth hlo hr, hlock.state, h5, h1, hlock.slots, hlock.keyBus, h4, h2,
      fun o ho hin => (h6 o ho hin).resolve_right List.not_mem_nil, h3⟩
  · refine ⟨_, vbatReading_in_range hm hv, rfl, rfl, fun hw => ?_, rfl⟩
    rw [State.condition_active, if_pos rfl, hw]
    simp
  · obtain ⟨h1, h2, h3, h4, h5, h6⟩ := State.alarm_notes (s := State.condition 10 (decide (mv.toNat < 2500) && s.watched 10)
      { s with tamper := { s.tamper with vbatMv := mv.toNat, vbatRuns := 2 } }) (n := 10) hc mv.toNat
    exact ⟨_, vbatReading_second hm hv hr, h3, h1, h2, h4, h5, h6⟩
  · obtain ⟨u, t, hrun, h, hact, hlid, hnow, hcru, hplan, hlife, hvault⟩ := lid_opens hr he hq hm hw hc ha
    refine ⟨t, hrun, h.lidN.trans hlid, by rw [h.active]; exact hact, h.quench, h.quenchAt.trans hnow, h.state, h.keyBus, h.drk, h.maskSeed,
      h.slots, h.caches, h.maskKey, h.internal, h.insts, h.ctxs, h.units, by rw [h.latchSrc, hcru], by rw [h.latchCls, hcru],
      by rw [h.bundle, hplan], h.life.trans hlife, by rw [h.sets, hvault]⟩
  · subst hn
    exact next_congr ((if_neg (not_not_intro hw)).trans (if_pos (by simp)))
  · subst hn
    exact next_congr (if_pos (by simp [hw]))

end Sys2Proof.Machine
end

section
/-!
REFUTATION of O19: the end of a Quench clears the Hearth's memory and then the Hearth's protection unit, where an access that waited is
decided and may store a word.
-/
namespace Sys2Proof.Machine

/-- A device in TEST_UNLOCKED in a Quench, with a debug store to the Hearth's memory that waits at the Hearth's protection unit. -/
def storeWaits : State :=
  { tamper := { quench := true }
    life := { stage := 1, tokenUsed := 1 }
    zwm := { hearthMpu := { hold := true, holdAck := true,
                            waiting := [.debug { addr := 0x110000, write := some 1, size := 8 }] } } }

/-- The store is carried out after the memory has been cleared. -/
theorem storeWaits_stores : ∃ t, exec .quenchComplete storeWaits = .next t ∧ t.zwm.hmem ≠ [] :=
  ⟨_, rfl, by decide +kernel⟩

/-- Refutes O19: the Quench of `storeWaits` ends with a word in the Hearth's memory. -/
theorem not_tamperServices : ¬ Obligations.TamperServices := by
  rintro ⟨hquench, -⟩
  obtain ⟨t, ht, hmem⟩ := storeWaits_stores
  obtain ⟨u, hu, -, -, hnil, -⟩ := hquench storeWaits rfl rfl
  rw [ht] at hu
  obtain rfl := Host.Outcome.next.inj hu
  exact hmem hnil

end Sys2Proof.Machine
end

section
/-!
PROOF of O20: adaptive supply voltage, the Crucible on battery, and the references.
-/
namespace Sys2Proof.Machine

/-! ### The core rail -/

/-- The next target stays inside the limits and moves by at most 5 mV. -/
theorem nextTarget_bounds {lo hi target : Nat} (busy idle : Bool) (h1 : 600 ≤ lo) (h2 : hi ≤ 900) (h3 : lo ≤ target) (h4 : target ≤ hi) :
    lo ≤ nextTarget busy idle target lo hi ∧ nextTarget busy idle target lo hi ≤ hi ∧
    nextTarget busy idle target lo hi ≤ target + 5 ∧ target ≤ nextTarget busy idle target lo hi + 5 := by
  unfold nextTarget
  generalize (if busy then target + 5 else if idle then target - 5 else target) = want
  dsimp only
  split
  · omega
  · split <;> omega

theorem State.setTarget_of_ne {s : State} {mv : Nat} (h : s.power.target ≠ mv) : (s.setTarget mv).power.target = mv ∧
    (s.setTarget mv).sent = .avsStatus (s.setting 0x13) :: .avsWrite (s.setting 0x13) mv :: s.sent ∧
    (s.setTarget mv).power.steps = s.power.steps + 1 ∧
    s.setTarget mv = { s with power := (s.setTarget mv).power, sent := (s.setTarget mv).sent } := by
  rw [State.setTarget, if_neg h]
  exact ⟨rfl, rfl, rfl, rfl⟩

theorem avsWindow_adapts {s : State} (u : Vector (Fin 101) 4) (hon : s.power.avsOn = true) (hf : s.power.avsFail = false)
    (hh : s.chip.held = false) (hm : s.power.avsMode = 0) (h1 : 600 ≤ s.power.minMv) (h2 : s.power.maxMv ≤ 900)
    (h3 : s.power.minMv ≤ s.power.target) (h4 : s.power.target ≤ s.power.maxMv) : ∃ t, exec (.avsWindow u) s = .next t ∧
      s.power.minMv ≤ t.power.target ∧ t.power.target ≤ s.power.maxMv ∧ t.power.target ≤ s.power.target + 5 ∧
      s.power.target ≤ t.power.target + 5 ∧
      (t.power.target ≠ s.power.target → t.sent = .avsStatus (s.setting 0x13) :: .avsWrite (s.setting 0x13) t.power.target :: s.sent ∧
        t.power.steps = s.power.steps + 1) ∧
      (t.power.target = s.power.target → t = s) ∧ t = { s with power := t.power, sent := t.sent } := by
  generalize hb : ((List.finRange 4).any fun r => decide (90 ≤ (u[r]).val) && s.waitingIn r.val != 0) = busy
  generalize hi : ((List.finRange 4).all fun r => decide ((u[r]).val ≤ 60)) = idle
  have hrun : exec (.avsWindow u) s = .next (s.setTarget (nextTarget busy idle s.power.target s.power.minMv s.power.maxMv)) := by
    refine next_congr ((if_neg (by simp [hon, hf, hh])).trans ((if_pos hm).trans ?_))
    dsimp only
    rw [hb, hi]
  obtain ⟨b1, b2, b3, b4⟩ := nextTarget_bounds busy idle h1 h2 h3 h4
  generalize nextTarget busy idle s.power.target s.power.minMv s.power.maxMv = mv at hrun b1 b2 b3 b4
  by_cases he : s.power.target = mv
  · have hsame : s.setTarget mv = s := if_pos he
    rw [hsame] at hrun
    exact ⟨s, hrun, h3, h4, Nat.le_add_right _ _, Nat.le_add_right _ _, fun h => absurd rfl h, fun _ => rfl, rfl⟩
  · obtain ⟨t1, t2, t3, t4⟩ := State.setTarget_of_ne he
    refine ⟨_, hrun, ?_, ?_, ?_, ?_, fun _ => ⟨?_, t3⟩, fun h => absurd (h.symm.trans t1) he, t4⟩
    all_goals rw [t1]
    all_goals assumption

theorem avsWindow_fixed {s : State} (u : Vector (Fin 101) 4) (hon : s.power.avsOn = true) (hf : s.power.avsFail = false)
    (hh : s.chip.held = false) (hm : s.power.avsMode = 1) :
    ∃ t, exec (.avsWindow u) s = .next t ∧ t.power.target = s.power.fixedMv ∧ t = { s with power := t.power, sent := t.sent } := by
  have hrun : exec (.avsWindow u) s = .next (s.setTarget s.power.fixedMv) :=
    next_congr ((if_neg (by simp [hon, hf, hh])).trans ((if_neg (by simp [hm])).trans (if_pos hm)))
  by_cases he : s.power.target = s.power.fixedMv
  · have hsame : s.setTarget s.power.fixedMv = s := if_pos he
    rw [hsame] at hrun
    exact ⟨s, hrun, he, rfl⟩
  · obtain ⟨t1, -, -, t4⟩ := State.setTarget_of_ne he
    exact ⟨_, hrun, t1, t4⟩

theorem avsSettingsWrite_refused {s : State} {v : BitVec 32} {l : Bool} (hp : s.pfOpen = true)
    (h : mvOk (bits v 25 16) = false ∨ (l = true ∧ mvOk (bits v 9 0) = false) ∨ (l = true ∧ bits v 25 16 < bits v 9 0)) :
    exec (.avsSettingsWrite l v) s = .next { s with power := { s.power with refused := true } } := by
  refine next_congr ((State.onBar_of hp _).trans ?_)
  cases l with
  | false =>
    have hb : mvOk (bits v 25 16) = false := by simpa only [Bool.false_eq_true, false_and, or_false] using h
    exact (if_neg Bool.false_ne_true).trans (if_neg (by simp [hb]))
  | true =>
    refine (if_pos rfl).trans (if_neg ?_)
    rintro ⟨ha, hb, hab⟩
    rcases h with h | ⟨-, h⟩ | ⟨-, h⟩
    · exact Bool.noConfusion (h.symm.trans hb)
    · exact Bool.noConfusion (h.symm.trans ha)
    · exact absurd hab (not_le.mpr h)

/-! ### On battery -/

theorem addBatRec_length (r : BatRec) (l : List BatRec) : (addBatRec r l).length ≤ 64 := by
  unfold addBatRec
  split
  · next h =>
    rw [List.length_append]
    exact h
  · rw [List.length_append, List.length_take]
    simp

theorem addBatRec_full (r : BatRec) {l : List BatRec} (h : l.length = 64) :
    (addBatRec r l).length = 64 ∧ (addBatRec r l).take 63 = l.take 63 ∧
    ∃ x, (addBatRec r l).getLast? = some x ∧ x.flags.getLsbD 7 = true ∧ x.source = r.source := by
  have hlen : (l.take 63).length = 63 := by simp [h]
  rw [addBatRec, if_neg (by omega)]
  refine ⟨by simp [h], ?_, { r with flags := r.flags ||| 0x80 }, by simp, by simp, rfl⟩
  rw [List.take_append_of_le_length (by omega), List.take_take, Nat.min_self]

theorem lid_onBattery {s : State} (hm : s.pins.mainPower = false) (hv : s.pins.vbat = true) (hw : s.watched 3 = true)
    (ha : s.tamper.active.getLsbD 3 = false) :
    exec .lid s = .next (State.batteryTrip 3 0 (State.condition 3 true { s with pins := { s.pins with lidN := true } })) := by
  refine next_congr ((if_neg (not_not_intro hw)).trans ((if_neg (fun h => Bool.noConfusion (ha.symm.trans h))).trans ?_))
  refine (if_neg (fun h => Bool.noConfusion (hm.symm.trans h))).trans (if_pos ⟨?_, hw⟩)
  change (!s.pins.mainPower && s.pins.vbat) = true
  rw [hm, hv]
  rfl

theorem State.batteryTrip_first {s : State} (n : Nat) (d : BitVec 8) :
    (s.crucible.tripped = false → (s.batteryTrip n d).crucible.drk = 0 ∧ (s.batteryTrip n d).crucible.maskSeed = 0 ∧
      (s.batteryTrip n d).crucible.drkCheck = 0 ∧ (s.batteryTrip n d).crucible.latchCls = 3 ∧
      (s.batteryTrip n d).crucible.latchGroup = s.crucible.latchGroup + 1) ∧
    (s.crucible.tripped = true → (s.batteryTrip n d).crucible.drk = s.crucible.drk ∧
      (s.batteryTrip n d).crucible.latchCls = s.crucible.latchCls ∧
      (s.batteryTrip n d).crucible.latchGroup = s.crucible.latchGroup) ∧
    (s.crucible.batRecs.length < 64 → ∃ r, (s.batteryTrip n d).crucible.batRecs = s.crucible.batRecs ++ [r] ∧ r.source = n ∧
      r.secs = s.crucible.rtc ∧ r.group = (s.batteryTrip n d).crucible.latchGroup) :=
  ⟨fun h => by simp [State.batteryTrip, h], fun h => by simp [State.batteryTrip, h], fun h => ⟨_, if_pos h, rfl, rfl, rfl⟩⟩

theorem referenceLost_resets {s : State} (hq : s.tamper.quench = false) :
    ∃ t, exec .referenceLost s = .next t ∧ t.chip.held = true ∧ t.pins.refClock = false ∧
      t.chip.resetCause = 4 ∧ t.tamper = s.tamper ∧ t.crucible = s.crucible ∧ t.rack = {} ∧ t.engine.tasks = [] ∧
      t.life.stage = s.life.stage := by
  generalize hu : ({ s with pins := { s.pins with refClock := false } } : State) = u
  have hrun : exec .referenceLost s = .next (u.loseCeremony.flushStore.chipResetTo 4) := by
    refine next_congr ?_
    rw [hu]
    refine if_neg ?_
    rw [State.quenching, ← hu]
    simp [hq]
  have h1 := u.loseCeremony_only
  have h2 := u.loseCeremony.flushStore_storeOnly
  rw [State.StoreOnly] at h2
  generalize u.loseCeremony = v at h1 h2 hrun
  generalize v.flushStore = w at h2 hrun
  refine ⟨_, hrun, ?_, ?_, rfl, ?_, ?_, rfl, rfl, ?_⟩
  · change (w.chip.held || !w.pins.refClock) = true
    rw [h2, h1, ← hu]
    exact Bool.or_true _
  · change w.pins.refClock = false
    rw [h2, h1, ← hu]
  · change w.tamper = _
    rw [h2, h1, ← hu]
  · change w.crucible = _
    rw [h2, h1, ← hu]
  · change w.life.stage = _
    rw [h2, h1, ← hu]

/-- Settles O20: the rail, the battery and the references, command by command. -/
theorem suppliesAndReferences : Obligations.SuppliesAndReferences := by
  refine ⟨⟨fun s u hon hf hh hm h1 h2 h3 h4 => avsWindow_adapts u hon hf hh hm h1 h2 h3 h4,
      fun s u hon hf hh hm => avsWindow_fixed u hon hf hh hm, fun s u hon => next_congr (if_pos (by simp [hon])),
      fun s v hp hm hv => next_congr ((State.onBar_of hp _).trans ((if_neg Bool.false_ne_true).trans (if_pos ⟨hm, hv⟩))),
      fun s v hp ha hb hab => next_congr ((State.onBar_of hp _).trans ((if_pos rfl).trans (if_pos ⟨ha, hb, hab⟩))),
      fun s v l hp h => avsSettingsWrite_refused hp h, fun s mv hon hm hf h1 h2 => ?_, fun s hon hm hf => ?_, fun s v hon hm hf => ?_⟩,
    ⟨fun s hm hv hw ha => ?_, fun r l _ => addBatRec_length r l, fun r l h => addBatRec_full r h⟩,
    fun s hq => referenceLost_resets hq, fun s hm => ?_, fun s => ?_⟩
  · refine next_congr ((if_neg (by simp [hon, hm, hf])).trans ?_)
    have hoff : (decide (s.power.target + 25 < mv.toNat) || decide (mv.toNat + 25 < s.power.target)) = false := by
      simp only [Bool.or_eq_false_iff, decide_eq_false_iff_not]
      omega
    dsimp only
    rw [hoff]
    rfl
  · exact ⟨_, next_congr (if_neg (by simp [hon, hm, hf])), by simp [State.avsAbandon], by simp [State.avsAbandon]⟩
  · exact next_congr (if_neg (by simp [hon, hm, hf]))
  · obtain ⟨h1, h2, h3⟩ := State.batteryTrip_first (s := State.condition 3 true { s with pins := { s.pins with lidN := true } }) 3 0
    exact ⟨_, lid_onBattery hm hv hw ha, rfl, rfl, h1, h2, h3, rfl, rfl, rfl⟩
  · refine next_congr ?_
    rw [hm]
    rfl
  · exact ⟨_, rfl, by simp, by simp, by simp, by simp, by simp, by simp⟩

end Sys2Proof.Machine
end

section
/-!
PROOF of O21: power domains and the claims on them.
-/
namespace Sys2Proof.Machine

theorem State.domainOf_modDomain_of_ne_default {s : State} {d : Nat} {g : Domain → Domain} (h : g (s.domainOf d) ≠ {}) :
    (s.modDomain d g).domainOf d = g (s.domainOf d) := tget_tset_of_ne_default ({} : Domain) d h s.power.domains

theorem Domain.ne_default_of_st {x : Domain} (h : x.st ≠ .on) : x ≠ {} :=
  fun h0 => h (congrArg Domain.st h0)

theorem State.domainOf_powerUp (d : Nat) (s : State) : (s.powerUp d).domainOf d =
    { s.domainOf d with st := .poweringUp, upAgain := false, wakes := satInc 255 (s.domainOf d).wakes } :=
  State.domainOf_modDomain_of_ne_default (Domain.ne_default_of_st PdState.noConfusion)

/-! ### A domain that loses its power -/

theorem any_active_off (l : List (Nat × Port)) : ((tmap {} (fun _ p => p.off) l).any fun p => p.2.active) = false := by
  induction l with
  | nil => rfl
  | cons e l ih =>
    obtain ⟨j, x⟩ := e
    simp only [tmap]
    split
    · exact ih
    · rw [List.any_cons, ih]
      rfl

/-- What an erased domain had claims from is gone with it. -/
theorem State.claimed_eraseDomain {s : State} {d : Nat} (h : s.claimed d = false) : (s.eraseDomain d).claimed d = false := by
  simp only [State.claimed, Bool.or_eq_false_iff] at h
  obtain ⟨⟨hcl, hcer⟩, hham⟩ := h
  simp only [State.claimed, Bool.or_eq_false_iff]
  refine ⟨⟨hcl, ?_⟩, ?_⟩
  · by_cases hd : d = 27
    · subst hd
      simp only [beq_self_eq_true, Bool.true_and, Bool.or_eq_false_iff] at hcer ⊢
      exact ⟨hcer.1, any_active_off _⟩
    · simp [hd]
  · rw [List.any_eq_false] at hham ⊢
    exact fun u hu => hham u (List.mem_of_mem_filter hu)

theorem State.cacheOf_eraseDomain {s : State} {d b : Nat} (hd : blockDomain b = d) (hu : blockUsed b = true) (hb : b < 7) :
    (s.eraseDomain d).cacheOf b = [] := by
  have hm : (domainBlocks d).contains b = true := by
    rw [List.contains_iff_mem, domainBlocks, List.mem_filter, List.mem_range]
    exact ⟨by omega, by simp [hu, hd]⟩
  have h := tget_filter_key [] (fun k => !(domainBlocks d).contains k) b s.rack.caches
  refine h.trans ?_
  rw [hm]
  rfl

theorem powerDownDone_erases {s : State} {pd : Fin 30} (hst : (s.domainOf pd.val).st = .poweringDown)
    (hup : (s.domainOf pd.val).upAgain = false) (hc : s.claimed pd.val = false) :
    ∃ t, exec (.powerDownDone pd) s = .next t ∧ (t.domainOf pd.val).st = .off ∧
      (∀ d, d ≠ pd.val → t.domainOf d = s.domainOf d) ∧ (∀ b, blockDomain b = pd.val → blockUsed b = true → b < 7 → t.cacheOf b = []) ∧
      t.rack.slots = s.rack.slots ∧ t.engine = s.engine ∧ t.crucible = s.crucible := by
  have hpow : (s.eraseDomain pd.val).domainOf pd.val = s.domainOf pd.val := rfl
  have hno : ¬ (((s.eraseDomain pd.val).domainOf pd.val).upAgain ∨ (s.eraseDomain pd.val).claimed pd.val) := by
    rw [hpow, hup, State.claimed_eraseDomain hc]
    simp
  refine ⟨_, next_congr ((if_neg (not_not_intro hst)).trans (if_neg hno)), ?_, fun d hd => ?_, fun b hbd hbu hb7 => ?_, rfl, rfl, rfl⟩
  · rw [State.domainOf_modDomain_of_ne_default (Domain.ne_default_of_st PdState.noConfusion)]
  · exact State.domainOf_modDomain_ne _ _ _ _ hd
  · exact State.cacheOf_eraseDomain hbd hbu hb7

/-! ### Claims -/

theorem getLsbD_setBit {w : Nat} (v : BitVec w) {i : Nat} (h : i < w) : (v ||| BitVec.ofNat w (2 ^ i)).getLsbD i = true := by
  rw [BitVec.getLsbD_or, getLsbD_ofNat_two_pow]
  simp [h]

theorem getLsbD_clearBit {w : Nat} (v : BitVec w) (i : Nat) : (v &&& ~~~ BitVec.ofNat w (2 ^ i)).getLsbD i = false := by
  rw [BitVec.getLsbD_and, BitVec.getLsbD_not, getLsbD_ofNat_two_pow]
  simp

theorem hclaimSet_claims (s : State) (pd : Fin 30) : ∃ t, exec (.hclaimSet pd) s = .next t ∧ t.zwm.hclaim.getLsbD pd.val = true ∧
      ((s.domainOf pd.val).st = .off → (t.domainOf pd.val).st = .poweringUp) ∧
      (∀ d, d ≠ pd.val → t.domainOf d = s.domainOf d) ∧ t.rack = s.rack ∧ t.engine = s.engine := by
  generalize hu : ({ s with zwm := { s.zwm with hclaim := s.zwm.hclaim ||| BitVec.ofNat 30 (2 ^ pd.val) } } : State) = u
  have hdom (d : Nat) : u.domainOf d = s.domainOf d := by rw [← hu]; rfl
  have hbit : u.zwm.hclaim.getLsbD pd.val = true := by
    rw [← hu]
    exact getLsbD_setBit _ pd.isLt
  have hrest : u.rack = s.rack ∧ u.engine = s.engine := by rw [← hu]; exact ⟨rfl, rfl⟩
  have hmod (g : Domain → Domain) (d : Nat) (h : d ≠ pd.val) : (u.modDomain pd.val g).domainOf d = s.domainOf d :=
    (State.domainOf_modDomain_ne _ _ _ _ h).trans (hdom d)
  refine ⟨s.claim pd.val, rfl, ?_⟩
  rw [State.claim, hu, hdom]
  split
  · exact ⟨hbit, fun _ => by rw [State.domainOf_powerUp], fun d h => hmod _ d h, hrest⟩
  · next hst => exact ⟨hbit, fun h => PdState.noConfusion (hst.symm.trans h), fun d h => hmod _ d h, hrest⟩
  · next hoff _ => exact ⟨hbit, fun h => absurd h hoff, fun d _ => hdom d, hrest⟩

/-- Settles O21: the moves of a domain, and both forms of a claim. -/
theorem powerDomains : Obligations.PowerDomains := by
  refine fun s pd _ => ⟨fun us hst hmay hb => ?_, fun hst hup hc => powerDownDone_erases hst hup hc, fun hst => ?_, ?_, ?_, fun hst hne => ?_,
    fun hst he => ?_, hclaimSet_claims s pd, fun us hst => ?_, fun us u hst hu hc => ?_⟩
  · refine next_congr ((if_neg (by simp [hst, hmay, hb])).trans ?_)
    split <;> rfl
  · refine next_congr ?_
    dsimp only
    rw [hst]
  · rw [State.domainOf_powerUp]
  · rw [State.domainOf_powerUp]
  · exact next_congr ((if_pos hst).trans (if_neg hne))
  · exact next_congr ((if_pos hst).trans (if_pos he))
  · exact ⟨_, next_congr (if_neg (fun h => hst h.1)), getLsbD_clearBit _ _, rfl, rfl, rfl⟩
  · subst hu
    exact next_congr (if_pos ⟨hst, fun h => Bool.noConfusion (hc.symm.trans h)⟩)

end Sys2Proof.Machine
end

section
/-!
PROOF of O22: the event queue, the recorder and its windows.
-/
namespace Sys2Proof.Machine

/-! ### A record enters the queue (R516) -/

theorem State.appendRecord_of_room {s : State} (h : s.store.queue.length < 256) (r : Record) :
    s.appendRecord r = { s with store := { s.store with queue := s.store.queue ++ [r] } } := if_pos h

theorem State.appendRecord_of_full {s : State} (h : 256 ≤ s.store.queue.length) {r : Record} (ha : r.ofAggregator = false) :
    s.appendRecord r = s.dropRecord :=
  (if_neg (not_lt.mpr h)).trans (if_neg (by simp [ha]))

/-- A record takes the place of the newest one that is not the aggregator's. -/
theorem replaceNewest_spec {r : Record} {q : List Record} (h : ∃ x ∈ q, x.ofAggregator = false) :
    ∃ p, replaceNewest r q = some p ∧ p.length = q.length ∧ p.getLast? = some r ∧ ∀ x ∈ q, x.ofAggregator = true → x ∈ p := by
  obtain ⟨y, hy, hya⟩ := h
  have hsplit : q.reverse = (q.reverse.span Record.ofAggregator).1 ++ (q.reverse.span Record.ofAggregator).2 := by
    simp [List.span_eq_takeWhile_dropWhile]
  have htail : ∀ x ∈ (q.reverse.span Record.ofAggregator).1, x.ofAggregator = true := by
    rw [List.span_eq_takeWhile_dropWhile]
    exact fun x hx => List.mem_takeWhile_imp hx
  have hhead : ∀ x rest, (q.reverse.span Record.ofAggregator).2 = x :: rest → x.ofAggregator = false := by
    rw [List.span_eq_takeWhile_dropWhile]
    intro x rest he
    have he : q.reverse.dropWhile Record.ofAggregator = x :: rest := he
    have hd := List.head_dropWhile_not Record.ofAggregator (l := q.reverse) (he ▸ List.cons_ne_nil _ _)
    simpa only [he, List.head_cons] using hd
  cases he : q.reverse.span Record.ofAggregator with
  | mk tail others =>
    rw [he] at hsplit htail hhead
    cases others with
    | nil =>
      have hm : y ∈ tail := by
        have hrev : q.reverse = tail := hsplit.trans (List.append_nil _)
        rw [← hrev]
        exact List.mem_reverse.mpr hy
      exact Bool.noConfusion (hya.symm.trans (htail y hm))
    | cons x rest =>
      have hp : replaceNewest r q = some (rest.reverse ++ tail.reverse ++ [r]) := by
        unfold replaceNewest
        rw [he]
      refine ⟨_, hp, replaceNewest_length hp, by simp, fun z hz hza => ?_⟩
      have hz' : z ∈ tail ++ x :: rest := hsplit ▸ List.mem_reverse.mpr hz
      have hzx : z ≠ x := fun h => Bool.noConfusion ((hhead x rest rfl).symm.trans (h ▸ hza))
      rcases List.mem_append.mp hz' with hz' | hz'
      · simp [hz']
      · have hz'' := (List.mem_cons.mp hz').resolve_left hzx
        simp [hz'']

theorem recordAppend_aggregator {s : State} (c : BitVec 16) (p : BitVec 96) (h : 256 ≤ s.store.queue.length)
    (hx : ∃ x ∈ s.store.queue, x.ofAggregator = false) :
    ∃ t r, exec (.recordAppend false c 0xF0 p) s = .next t ∧ t.store.queue.length = s.store.queue.length ∧
      t.store.queue.getLast? = some r ∧ r.code = c ∧ r.source = 0xF0 ∧ r.param = p ∧
      (∀ x ∈ s.store.queue, x.ofAggregator = true → x ∈ t.store.queue) ∧ t.store.lost = satInc 65535 s.store.lost ∧
      t = { s with store := t.store } := by
  generalize hr : s.newRecord c.toNat 0xF0 p = r
  have hcode : r.code = c ∧ r.source = 0xF0 ∧ r.param = p := by
    rw [← hr]
    exact ⟨BitVec.ofNat_toNat _ _, rfl, rfl⟩
  obtain ⟨q, hq, hlen, hlast, hmem⟩ := replaceNewest_spec (r := r) hx
  have hagg : r.ofAggregator = true := by simp [Record.ofAggregator, hcode.2.1]
  have hrun : s.appendRecord r = State.dropRecord { s with store := { s.store with queue := q } } := by
    rw [State.appendRecord, if_neg (not_lt.mpr h), if_pos hagg, hq]
  refine ⟨_, r, next_congr ((congrArg s.appendRecord hr :).trans hrun), hlen, hlast, hcode.1, hcode.2.1, hcode.2.2, hmem, rfl, rfl⟩

theorem State.appendRecord_bounded {s : State} (h : s.store.queue.length ≤ 256) (r : Record) :
    (s.appendRecord r).store.queue.length ≤ 256 := by
  unfold State.appendRecord
  split
  · next hroom =>
    rw [List.length_append]
    exact hroom
  · split
    · split
      · next e => exact (replaceNewest_length e).trans_le h
      · exact h
    · exact h

/-! ### The oldest record is committed (R514) -/

theorem recordCommit_runs {s : State} {r : Record} {rest : List Record} (hq : s.store.queue = r :: rest) (hd : s.store.dropped = 0) :
    exec (.recordCommit true) s = .next (State.commitRecord r { s with store := { s.store with queue := rest } }) := by
  have hc : s.commitNext = State.commitRecord r { s with store := { s.store with queue := rest } } := by
    rw [State.commitNext, hq]
  have hdc : (State.commitRecord r { s with store := { s.store with queue := rest } }).store.dropped = 0 := by
    unfold State.commitRecord
    dsimp only
    split <;> exact hd
  refine next_congr ((if_pos rfl).trans ?_)
  rw [hc]
  exact if_pos (.inl hdc)

theorem recordCommit_repeats {s : State} {r : Record} {rest : List Record} (hq : s.store.queue = r :: rest) (hd : s.store.dropped = 0)
    (hs : s.newestRecord.same r = true) (hr : s.newestRecord.rpt < 65535) (hn : s.store.newest ≠ 0) :
    ∃ t, exec (.recordCommit true) s = .next t ∧ t.store.queue = rest ∧ t.store.newest = s.store.newest ∧
      tget {} t.store.records s.store.newest = { s.newestRecord with rpt := s.newestRecord.rpt + 1 } ∧
      (∀ q, q ≠ s.store.newest → tget {} t.store.records q = tget {} s.store.records q) ∧ t = { s with store := t.store } := by
  refine ⟨_, (recordCommit_runs hq hd).trans (next_congr (if_pos ⟨hn, hs, hr⟩)), rfl, rfl, ?_, fun q hne => ?_, rfl⟩
  · exact tget_tset_of_ne_default ({} : Record) s.store.newest (v := { s.newestRecord with rpt := s.newestRecord.rpt + 1 })
      (fun h => Nat.succ_ne_zero _ (congrArg Record.rpt h)) s.store.records
  · exact tget_tset_ne ({} : Record) _ hne s.store.records

theorem recordCommit_next {s : State} {r : Record} {rest : List Record} (hq : s.store.queue = r :: rest) (hd : s.store.dropped = 0)
    (hrpt : r.rpt = 1) (hne : s.newestRecord.same r = false ∨ s.newestRecord.rpt = 65535 ∨ s.store.newest = 0) :
    ∃ t, exec (.recordCommit true) s = .next t ∧ t.store.queue = rest ∧ t.store.newest = s.store.newest + 1 ∧
      tget {} t.store.records t.store.newest = r ∧
      (∀ q, q ≠ t.store.newest → replaced t.store.newest ≠ some q → tget {} t.store.records q = tget {} s.store.records q) ∧
      t = { s with store := t.store } := by
  have hno : ¬ (s.store.newest ≠ 0 ∧ s.newestRecord.same r = true ∧ s.newestRecord.rpt < 65535) := by
    rintro ⟨h1, h2, h3⟩
    rcases hne with h | h | h
    · exact Bool.noConfusion (h.symm.trans h2)
    · omega
    · exact h1 h
  refine ⟨_, (recordCommit_runs hq hd).trans (next_congr (if_neg hno)), rfl, rfl, ?_, fun q h1 h2 => ?_, rfl⟩
  · refine tget_tset_of_ne_default ({} : Record) (s.store.newest + 1) (fun h => ?_) _
    have h0 : r.rpt = 0 := congrArg Record.rpt h
    omega
  · refine (tget_tset_ne ({} : Record) _ h1 _).trans ?_
    change replaced (s.store.newest + 1) ≠ some q at h2
    generalize replaced (s.store.newest + 1) = o at h2 ⊢
    cases o with
    | none => rfl
    | some k => exact tget_tset_ne ({} : Record) _ (fun h => h2 (by rw [h])) _

/-! ### The windows of the recorder (R522, R523) -/

theorem State.window_setWindow (s : State) (h : Bool) (w : Window) :
    (s.setWindow h w).window h = w ∧ (s.setWindow h w).window (!h) = s.window (!h) ∧
    (s.setWindow h w).store.records = s.store.records ∧ s.setWindow h w = { s with store := (s.setWindow h w).store } := by
  cases h <;> exact ⟨rfl, rfl, rfl, rfl⟩

theorem cursor_runs {s : State} {h : Bool} (ho : h = true ∨ s.pfOpen = true) (q : BitVec 32) :
    exec (.cursor h q) s = .next (s.cursorTo h q.toNat) := by
  cases h with
  | true => rfl
  | false =>
    refine next_congr ((if_neg Bool.false_ne_true).trans (State.onBar_of ?_ _))
    exact ho.resolve_left Bool.false_ne_true

/-- The record that a canonical store holds is the first from its number on. -/
theorem firstFrom_of_mem {l : List (Nat × Record)} (hw : twf {} l = true) {q : Nat} {r : Record} (hm : (q, r) ∈ l) :
    firstFrom q l = some (q, r) := by
  have hab : ∀ {l : List (Nat × Record)} {b : Nat}, tabove {} b l = true → (q, r) ∈ l → firstFrom q l = some (q, r) ∧ b < q := by
    intro l
    induction l with
    | nil => exact fun _ h => absurd h List.not_mem_nil
    | cons e l ih =>
      intro b hl hm
      obtain ⟨j, x⟩ := e
      simp only [tabove, Bool.and_eq_true, decide_eq_true_eq] at hl
      rw [firstFrom]
      rcases List.mem_cons.mp hm with he | hm
      · cases he
        exact ⟨if_pos le_rfl, hl.1.1⟩
      · obtain ⟨h1, h2⟩ := ih hl.2 hm
        exact ⟨(if_neg (not_le.mpr h2)).trans h1, lt_trans hl.1.1 h2⟩
  cases l with
  | nil => exact absurd hm List.not_mem_nil
  | cons e l =>
    obtain ⟨j, x⟩ := e
    simp only [twf, Bool.and_eq_true, decide_eq_true_eq] at hw
    rw [firstFrom]
    rcases List.mem_cons.mp hm with he | hm
    · cases he
      exact if_pos le_rfl
    · obtain ⟨h1, h2⟩ := hab hw.2 hm
      exact (if_neg (not_le.mpr h2)).trans h1

theorem readWindow_runs {s : State} {h : Bool} (ho : h = true ∨ s.pfOpen = true) (he : (s.window h).empty = false) (w : Nat) :
    s.readWindow h w = if w = 7 then (s.emit (.value ((s.window h).word w))).advance h else s.emit (.value ((s.window h).word w)) := by
  have hl : s.relook h = s := if_neg (by simp [he])
  cases h with
  | true => simp only [State.readWindow, hl, if_true]
  | false =>
    have hp : s.pfOpen = true := ho.resolve_left Bool.false_ne_true
    simp only [State.readWindow, Bool.false_eq_true, if_false, State.onRead, hp, if_true, hl]

theorem windowAdvance_runs {s : State} {h : Bool} {q : Nat} {r : Record} (ho : h = true ∨ s.pfOpen = true)
    (he : (s.window h).empty = false) (hl : (s.window h).latch = some (q, r)) :
    s.readWindow h 7 = State.cursorTo h (q + 1) (s.emit (.value ((s.window h).word 7))) := by
  rw [readWindow_runs ho he, if_pos rfl, State.advance]
  have hw : (s.emit (.value ((s.window h).word 7))).window h = s.window h := by cases h <;> rfl
  rw [hw, hl]

/-- Settles O22: the queue, the commits and the windows. -/
theorem records : Obligations.Records := by
  refine ⟨⟨fun s h c src p hroom => ?_, fun s h c src p hfull hsrc hc => ?_, fun s c p hfull hx => recordAppend_aggregator c p hfull hx,
      fun s r h => State.appendRecord_bounded h r, fun s r rest hq hd hs hr hn => recordCommit_repeats hq hd hs hr hn,
      fun s r rest hq hd hrpt hne _ => recordCommit_next hq hd hrpt hne, fun s => rfl, fun s => ⟨rfl, rfl, rfl⟩⟩,
    fun s h q ho hq => ?_, fun s h q r ho hq hw hm => ?_, fun s h w ho he hne => ?_, fun s h q r ho he hl => ⟨?_, ?_⟩, fun s w ho => ?_⟩
  · refine ⟨_, next_congr (State.appendRecord_of_room hroom _), BitVec.ofNat_toNat _ _, rfl, rfl, rfl, ?_⟩
    cases h
    · exact BitVec.ofNat_toNat _ _
    · rfl
  · refine next_congr (State.appendRecord_of_full hfull ?_)
    cases h with
    | true => simpa [Record.ofAggregator, State.newRecord] using hc
    | false =>
      have hs : src ≠ 0xF0 := hsrc.resolve_left Bool.false_ne_true
      simpa [Record.ofAggregator, State.newRecord] using And.intro hs hc
  · obtain ⟨h1, h2, h3, h4⟩ := s.window_setWindow h ((s.window h).latchAt s.store.records s.store.newest q.toNat)
    have hlatch : (s.window h).latchAt s.store.records s.store.newest q.toNat =
        { s.window h with cursor := q.toNat, latch := none, empty := true } := if_pos hq
    refine ⟨_, cursor_runs ho q, ?_⟩
    rw [State.cursorTo, h1, h2, h3, hlatch]
    exact ⟨rfl, rfl, rfl, rfl, fun _ => rfl, rfl, by rw [← hlatch]; exact h4⟩
  · obtain ⟨h1, -, h3, h4⟩ := s.window_setWindow h ((s.window h).latchAt s.store.records s.store.newest q.toNat)
    have hlatch : (s.window h).latchAt s.store.records s.store.newest q.toNat =
        { s.window h with cursor := q.toNat, latch := some (q.toNat, r), empty := false } := by
      rw [Window.latchAt, if_neg (not_lt.mpr hq), firstFrom_of_mem hw hm]
      simp
    refine ⟨_, cursor_runs ho q, ?_⟩
    rw [State.cursorTo, h1, h3, hlatch]
    exact ⟨rfl, rfl, rfl, rfl, by rw [← hlatch]; exact h4⟩
  · exact next_congr ((readWindow_runs ho he _).trans (if_neg hne))
  · exact next_congr (windowAdvance_runs ho he hl)
  · rfl
  · refine next_congr ?_
    simp only [State.readWindow, Bool.false_eq_true, if_false, State.onRead, ho]

end Sys2Proof.Machine
end

section
/-!
PROOF of O23: the settings and their store, wear, and the battery.
-/
namespace Sys2Proof.Machine

/-! ### A settings item (R524, R525) -/

theorem tget_eq_default_of_lt {α : Type} [DecidableEq α] (d : α) {k : Nat} {t : List (Nat × α)} (h : ∀ e ∈ t, k < e.1) : tget d t k = d := by
  induction t with
  | nil => rfl
  | cons e t ih =>
    obtain ⟨j, x⟩ := e
    have hj : k < j := h (j, x) List.mem_cons_self
    rw [tget_cons, if_neg hj.ne']
    exact ih fun e he => h e (List.mem_cons_of_mem _ he)

/-- A list with rising keys reads what is written. -/
theorem tget_tset_same_of_sorted {α : Type} [DecidableEq α] (d : α) (k : Nat) (v : α) {t : List (Nat × α)}
    (h : t.Pairwise (fun a b => a.1 < b.1)) : tget d (tset d k v t) k = v := by
  by_cases hv : v = d
  · induction t with
    | nil => simp [tset, hv]
    | cons e t ih =>
      obtain ⟨j, x⟩ := e
      obtain ⟨hlt, hs⟩ := List.pairwise_cons.mp h
      simp only [tset, hv, if_true]
      split
      · next hkj =>
        rw [tget_cons, if_neg (Nat.ne_of_gt hkj)]
        exact tget_eq_default_of_lt d fun e he => lt_trans hkj (hlt e he)
      · split
        · next hkj => exact tget_eq_default_of_lt d fun e he => hkj ▸ hlt e he
        · next hkj =>
          rw [tget_cons, if_neg (Ne.symm hkj)]
          exact hv ▸ ih hs
  · exact tget_tset_of_ne_default d k hv t

/-- Another key reads what it did, whatever its default. -/
theorem tget_tset_ne_of_default {α : Type} [DecidableEq α] (d c : α) {k l : Nat} (v : α) (h : l ≠ k) (t : List (Nat × α)) :
    tget c (tset d k v t) l = tget c t l := by
  induction t with
  | nil =>
    simp only [tset]
    split
    · rfl
    · rw [tget_cons, if_neg (Ne.symm h)]
  | cons e t ih =>
    obtain ⟨j, x⟩ := e
    simp only [tset]
    split
    · split
      · rfl
      · rw [tget_cons, if_neg (Ne.symm h)]
    · split
      · next hkj =>
        have hj : ¬ j = l := fun hjl => h (hjl.symm.trans hkj.symm)
        split
        · rw [tget_cons, if_neg hj]
        · rw [tget_cons, if_neg (Ne.symm h), tget_cons, if_neg hj]
      · rw [tget_cons, tget_cons, ih]

/-! ### What a record and a mirrored item leave alone (R516, R524) -/

/-- A record changes the queue of events and the counts of what it lost. -/
theorem State.log_only (code source : Nat) (p : Bytes) (s : State) : ∃ q l d,
    s.log code source p = { s with store := { s.store with queue := q, lost := l, dropped := d } } := by
  unfold State.log State.appendRecord State.dropRecord
  dsimp only
  split
  · exact ⟨_, _, _, rfl⟩
  · split
    · split
      · exact ⟨_, _, _, rfl⟩
      · exact ⟨_, _, _, rfl⟩
    · exact ⟨_, _, _, rfl⟩

/-- What a record leaves of the store: the settings and their copies, and the operating seconds. -/
def Store.SettingsKept (x y : Store) : Prop :=
  y.shadow = x.shadow ∧ y.dirty = x.dirty ∧ y.copyA = x.copyA ∧ y.copyB = x.copyB

theorem State.predictBattery_keeps (s : State) : s.store.SettingsKept s.predictBattery.store ∧
    s.predictBattery = { s with store := s.predictBattery.store, power := s.predictBattery.power } ∧
    (s.worlds.bench.status = 1 → s.predictBattery.power.batHours = s.batteryLeft) := by
  unfold State.predictBattery
  dsimp only
  split
  · next h => exact ⟨⟨rfl, rfl, rfl, rfl⟩, rfl, fun h1 => absurd h1 h⟩
  · split
    · obtain ⟨q, l, d, hl⟩ := State.log_only 0x1505 0xF2 (leBytes 4 s.batteryLeft)
        { s with power := { s.power with batHours := s.batteryLeft, batWarned := true } }
      refine (congrArg (fun t : State => s.store.SettingsKept t.store ∧ t = { s with store := t.store, power := t.power } ∧
        (s.worlds.bench.status = 1 → t.power.batHours = s.batteryLeft)) hl).mpr ?_
      exact ⟨⟨rfl, rfl, rfl, rfl⟩, rfl, fun _ => rfl⟩
    · exact ⟨⟨rfl, rfl, rfl, rfl⟩, rfl, fun _ => rfl⟩

/-- A changed item takes effect in the power block, and in the store only by its record. -/
theorem State.mirrorSetting_keeps (id v : Nat) (s : State) : s.store.SettingsKept (s.mirrorSetting id v).store ∧
    s.mirrorSetting id v = { s with store := (s.mirrorSetting id v).store, power := (s.mirrorSetting id v).power } := by
  have power : ∀ p : Power, s.store.SettingsKept ({ s with power := p } : State).store ∧
      ({ s with power := p } : State) = { s with store := s.store, power := p } := fun _ => ⟨⟨rfl, rfl, rfl, rfl⟩, rfl⟩
  unfold State.mirrorSetting
  dsimp only
  split
  · exact power _
  split
  · exact power _
  split
  · exact power _
  split
  · exact power _
  split
  · exact power _
  split
  · exact power _
  split
  · exact ⟨s.predictBattery_keeps.1, s.predictBattery_keeps.2.1⟩
  · exact power s.power

/-- The copy that a mark names, written and in use. -/
def Store.stored (x : Store) (b : Bool) (g : BitVec 32) : Store :=
  { x with busy := false, snap := [], pendMark := none, activeB := b
           copyA := if b then x.copyA else { valid := true, gen := g, values := x.snap }
           copyB := if b then { valid := true, gen := g, values := x.snap } else x.copyB }

theorem State.countWrites_only (k n : Nat) (s : State) : ∃ w, s.countWrites k n = { s with store := { s.store with writes := w } } :=
  ⟨_, rfl⟩

/-- The end of a STORE puts the marked copy in use; the rest is counters of writes and a record. -/
theorem execStoreEnd_eq {s : State} {b : Bool} {g : BitVec 32} (hb : s.store.busy = true) (hp : s.store.pendMark = some (b, g)) :
    ∃ w q l d, execStoreEnd s =
      .next { s with store := { s.store.stored b g with writes := w, queue := q, lost := l, dropped := d } } := by
  obtain ⟨w₁, h₁⟩ := State.countWrites_only (if b then 1 else 0) 8194 { s with store := s.store.stored b g }
  obtain ⟨w₂, h₂⟩ := State.countWrites_only 2 1 { s with store := { s.store.stored b g with writes := w₁ } }
  obtain ⟨q, l, d, h₃⟩ := State.log_only 0x1502 0xF3 (storeEvent 0 b g)
    { s with store := { s.store.stored b g with writes := w₂ } }
  refine ⟨w₂, q, l, d, ?_⟩
  unfold execStoreEnd
  rw [hb, hp]
  refine next_congr ?_
  rw [← h₃]
  exact congrArg (State.log _ _ _) ((congrArg (State.countWrites 2 1) h₁).trans h₂)

/-! ### Wear (R534 to R536) -/

theorem State.with_power_of_frame {s t : State} (h : t = { s with power := t.power, store := t.store }) (p : Power) :
    ({ t with power := p } : State) = { s with power := p, store := t.store } :=
  congrArg (fun x : State => { x with power := p }) h

/-- The state after the wear sums of the first `n` regions were taken from `s`. -/
structure State.WearSums (s : State) (n : Nat) (t : State) : Prop where
  dt : ∀ r, tget 0 t.power.wearDt r = tget 0 s.power.wearDt r +
    if r < n then tget 0 s.power.canary r * rootQuarter s.opHours else 0
  tt : ∀ r, tget 0 t.power.wearTt r = tget 0 s.power.wearTt r + if r < n then rootHalf s.opHours else 0
  dtWf : twf 0 t.power.wearDt = true
  ttWf : twf 0 t.power.wearTt = true
  canary : t.power.canary = s.power.canary
  target : t.power.target = s.power.target
  hours : t.opHours = s.opHours
  frame : t = { s with power := t.power, store := t.store }

theorem State.wearSums_warnWear {s t : State} {n : Nat} (r left : Nat) (h : s.WearSums n t) : s.WearSums n (t.warnWear r left) := by
  unfold State.warnWear
  dsimp only
  generalize (if left < 8760 then 2 else if left < 43800 then 1 else 0) = level
  split
  · obtain ⟨q, l, d, hl⟩ := State.log_only 0x1504 0xF2 ([BitVec.ofNat 8 r] ++ leBytes 4 left)
      { t with power := { t.power with warned := tset 0 r level t.power.warned } }
    refine (congrArg (s.WearSums n) hl).mpr ?_
    exact ⟨h.dt, h.tt, h.dtWf, h.ttWf, h.canary, h.target, h.hours, congrArg (fun x : State => { x with
      power := { t.power with warned := tset 0 r level t.power.warned }
      store := { t.store with queue := q, lost := l, dropped := d } }) h.frame⟩
  · exact h

theorem State.wearSums_accumulate {s t : State} {n : Nat} (h : s.WearSums n t) : s.WearSums (n + 1) (t.accumulate n) := by
  refine State.wearSums_warnWear _ _ ⟨fun r => ?_, fun r => ?_, twf_tset _ _ _ h.dtWf, twf_tset _ _ _ h.ttWf, h.canary, h.target,
    h.hours, State.with_power_of_frame h.frame _⟩
  · by_cases hr : r = n
    · subst hr
      refine (tget_tset_same _ _ _ h.dtWf).trans ?_
      rw [h.dt, h.canary, h.hours, if_neg (lt_irrefl r), if_pos (Nat.lt_succ_self r), add_zero]
    · refine (tget_tset_ne _ _ hr _).trans ?_
      rw [h.dt]
      simp only [show r < n + 1 ↔ r < n by omega]
  · by_cases hr : r = n
    · subst hr
      refine (tget_tset_same _ _ _ h.ttWf).trans ?_
      rw [h.tt, h.hours, if_neg (lt_irrefl r), if_pos (Nat.lt_succ_self r), Nat.cast_zero, add_zero]
    · refine (tget_tset_ne _ _ hr _).trans ?_
      rw [h.tt]
      simp only [show r < n + 1 ↔ r < n by omega]

theorem State.wearSums_foldl {s : State} (hd : twf 0 s.power.wearDt = true) (ht : twf 0 s.power.wearTt = true) (n : Nat) :
    s.WearSums n ((List.range n).foldl (fun s r => s.accumulate r) s) := by
  induction n with
  | zero => exact ⟨fun _ => (add_zero _).symm, fun _ => (add_zero _).symm, hd, ht, rfl, rfl, rfl, rfl⟩
  | succ n ih =>
    rw [List.range_succ, List.foldl_append]
    exact State.wearSums_accumulate ih

/-! ### The clauses of O23 -/

theorem settingsValueWrite_changes (s : State) (v : BitVec 32) (ho : s.pfOpen = true)
    (hr : s.refusesSetting s.store.sel v.toNat = false) (hv : s.setting s.store.sel ≠ v.toNat)
    (hs : s.store.shadow.Pairwise (fun a b => a.1 < b.1)) : ∃ t, exec (.settingsValueWrite v) s = .next t ∧
      t.setting s.store.sel = v.toNat ∧ (∀ k, k ≠ s.store.sel → t.setting k = s.setting k) ∧ t.store.dirty = true ∧
      t.store.copyA = s.store.copyA ∧ t.store.copyB = s.store.copyB ∧ t = { s with store := t.store, power := t.power } := by
  have hne : ¬ itemValue s.store.shadow s.store.sel = v := fun h => hv (congrArg BitVec.toNat h)
  obtain ⟨⟨hsh, hdy, ha, hb⟩, hf⟩ := State.mirrorSetting_keeps s.store.sel v.toNat
    { s with store := { s.store with shadow := setItem s.store.sel v s.store.shadow, dirty := true } }
  refine ⟨_, next_congr ((State.onBar_of ho _).trans
    ((if_neg (fun h => Bool.noConfusion (hr.symm.trans h))).trans (if_neg hne))), ?_, fun k hk => ?_, hdy, ha, hb, hf⟩
  · unfold State.setting
    rw [hsh]
    exact congrArg BitVec.toNat (tget_tset_same_of_sorted _ _ _ hs)
  · unfold State.setting
    rw [hsh]
    exact congrArg BitVec.toNat (tget_tset_ne_of_default _ _ _ hk _)

theorem store_begins (s : State) (ho : s.pfOpen = true) (ha : s.admitsStore = true) : ∃ t, exec (.store 0x53544F52) s = .next t ∧
    t.store.busy = true ∧ t.store.dirty = false ∧ t.store.snap = s.store.shadow ∧ t.store.shadow = s.store.shadow ∧
    t.store.pendMark = some (!s.store.activeB, s.store.gen + 1) ∧
    (s.store.activeB = true → t.store.copyA.valid = false ∧ t.store.copyB = s.store.copyB) ∧
    (s.store.activeB = false → t.store.copyB.valid = false ∧ t.store.copyA = s.store.copyA) ∧ t = { s with store := t.store } := by
  refine ⟨_, next_congr ((State.onBar_of ho _).trans ((if_neg (fun h => h rfl)).trans (if_pos ha))), rfl, rfl, rfl, rfl, rfl,
    fun h => ?_, fun h => ?_, rfl⟩
  · simp only [h, Bool.not_true]
    exact ⟨rfl, rfl⟩
  · simp only [h, Bool.not_false]
    exact ⟨rfl, rfl⟩

theorem store_without_its_key (s : State) (k : BitVec 32) (h : k ≠ 0x53544F52) : exec (.store k) s = .next s := by
  unfold exec execStore State.onBar
  simp only [if_pos h, ite_self]

theorem storeEnd_stores (s : State) (b : Bool) (g : BitVec 32) (hb : s.store.busy = true) (hp : s.store.pendMark = some (b, g)) :
    ∃ t, exec .storeEnd s = .next t ∧ t.store.busy = false ∧ t.store.pendMark = none ∧ t.store.activeB = b ∧
      t.store.active = { valid := true, gen := g, values := s.store.snap } ∧ t.store.gen = g ∧ t.store.shadow = s.store.shadow ∧
      t = { s with store := t.store } := by
  obtain ⟨w, q, l, d, he⟩ := execStoreEnd_eq hb hp
  refine ⟨_, he, rfl, rfl, rfl, ?_, ?_, rfl, rfl⟩
  · cases b
    · rfl
    · rfl
  · cases b
    · rfl
    · rfl

/-- The larger drift of a region's two canaries. -/
def State.regionDrift (s : State) (p : Vector (Vector (BitVec 32) 2) 6) (r : Fin 6) : Int :=
  clip16 (max (s.drift (2 * r.val) (p[r])[0]) (s.drift (2 * r.val + 1) (p[r])[1]))

theorem canaryMeasure_takes_larger (s : State) (p : Vector (Vector (BitVec 32) 2) 6) (hb : s.worlds.bench.status = 1)
    (hw : twf 0 s.power.canary = true) : ∃ t, exec (.canaryMeasure p) s = .next t ∧
      (∀ r : Fin 6, tget 0 t.power.canary r.val = s.regionDrift p r) ∧
      t = { s with power := { s.power with canary := t.power.canary } } :=
  ⟨_, next_congr (if_neg (fun h => h hb)), fun r => tget_foldl_tset 0 Fin.val_injective (s.regionDrift p) (List.finRange 6) r
    s.power.canary hw (.inl (List.mem_finRange r)), rfl⟩

theorem wearAccumulate_adds (s : State) (hb : s.worlds.bench.status = 1) (hd : twf 0 s.power.wearDt = true)
    (ht : twf 0 s.power.wearTt = true) : ∃ t, exec .wearAccumulate s = .next t ∧ (∀ r, r < 6 →
      tget 0 t.power.wearDt r = tget 0 s.power.wearDt r + tget 0 s.power.canary r * rootQuarter s.opHours ∧
      tget 0 t.power.wearTt r = tget 0 s.power.wearTt r + rootHalf s.opHours) ∧ t.power.canary = s.power.canary ∧
      t.power.target = s.power.target ∧ t = { s with power := t.power, store := t.store } := by
  have h := State.wearSums_foldl hd ht 6
  refine ⟨_, next_congr (if_neg (fun h => h hb)), fun r hr => ⟨?_, ?_⟩, h.canary, h.target,
    congrArg (fun t : State => t.countWrites 2 12) h.frame⟩
  · exact (h.dt r).trans (by rw [if_pos hr])
  · exact (h.tt r).trans (by rw [if_pos hr])

/-- The battery block with the charge and the hours on battery cleared (R538). -/
def State.batteryCleared (s : State) : State :=
  { s with crucible := { s.crucible with batUsedUah := 0, batSec := 0 }, power := { s.power with batWarned := false } }

/-- The prediction of the first hour. -/
theorem State.batteryLeft_cleared (s : State) : s.batteryCleared.batteryLeft = satNat 32 (s.setting 0x18 * 1000000 / 5000000) := by
  have hs : s.batteryCleared.setting 0x18 = s.setting 0x18 := rfl
  have hu : s.batteryCleared.crucible.batUsedUah = 0 := rfl
  have hb : s.batteryCleared.crucible.batSec = 0 := rfl
  unfold State.batteryLeft
  rw [hs, hu, hb, if_pos (by decide), Nat.sub_zero]

theorem batReset_clears (s : State) (ho : s.pfOpen = true) : ∃ t, exec (.batReset 0x43454C4C) s = .next t ∧
    t.crucible.batUsedUah = 0 ∧ t.crucible.batSec = 0 ∧
    (s.worlds.bench.status = 1 → t.power.batHours = satNat 32 (s.setting 0x18 * 1000000 / 5000000)) ∧ t.crucible.drk = s.crucible.drk ∧
    t = { s with crucible := t.crucible, power := t.power, store := t.store } := by
  obtain ⟨-, hf, hh⟩ := State.predictBattery_keeps s.batteryCleared
  have hc : s.batteryCleared.predictBattery.crucible = s.batteryCleared.crucible :=
    (congrArg State.crucible hf :)
  refine ⟨s.batteryCleared.predictBattery, next_congr ((State.onBar_of ho _).trans (if_pos rfl)), congrArg Crucible.batUsedUah hc, congrArg Crucible.batSec hc,
    fun h1 => (hh h1).trans s.batteryLeft_cleared, (congrArg Crucible.drk hc :), ?_⟩
  simp only [hc]
  exact hf

theorem batReset_without_its_key (s : State) (k : BitVec 32) (h : k ≠ 0x43454C4C) : exec (.batReset k) s = .next s := by
  unfold exec execBatReset State.onBar
  simp only [if_neg h, ite_self]

/-- Settles O23. The settings clauses read back the item written, because a list with rising keys does; a record touches
only the queue of events, which is why the store, the wear sums and the battery clauses keep everything they do not
name. The wear sums follow the regions one by one. -/
theorem settingsAndWear : Obligations.SettingsAndWear := by
  refine ⟨⟨settingsValueWrite_changes, fun s v ho hr => next_congr ((State.onBar_of ho _).trans (if_pos hr)), store_begins,
    fun s ho ha => next_congr ((State.onBar_of ho _).trans ((if_neg (fun h => h rfl)).trans
      (if_neg (fun h => Bool.noConfusion (ha.symm.trans h))))), store_without_its_key, storeEnd_stores⟩,
    canaryMeasure_takes_larger, wearAccumulate_adds, fun s d hm hv => next_congr (if_neg ?_), batReset_clears,
    batReset_without_its_key⟩
  rw [hm, hv]
  simp

end Sys2Proof.Machine
end

section
/-!
PROOF of O24: start-up and its end.
-/
namespace Sys2Proof.Machine

/-! ### What the starting worlds do leaves their status alone (R369 to R372) -/

/-- The status of the two worlds, the Hearth's first. -/
def State.statuses (s : State) : Nat × Nat := (s.worlds.hearth.status, s.worlds.bench.status)

theorem foldl_of_kept {α β γ : Type} (g : α → γ) {f : α → β → α} (h : ∀ a b, g (f a b) = g a) (l : List β) (a : α) :
    g (l.foldl f a) = g a := by
  induction l generalizing a with
  | nil => rfl
  | cons b l ih => exact (ih (f a b)).trans (h a b)

theorem State.statuses_modRing (bench : Bool) (g : Ring → Ring) (s : State) : (s.modRing bench g).statuses = s.statuses := by
  cases bench <;> rfl

theorem State.statuses_raiseLine (bench : Bool) (n : Nat) (s : State) : (s.raiseLine bench n).statuses = s.statuses := by
  cases bench <;> rfl

theorem State.statuses_ringTail (bench : Bool) (k : Nat) (s : State) : (s.ringTail bench k).statuses = s.statuses := by
  have h := (State.statuses_raiseLine (!bench) (ringLine (!bench)) (s.modRing (!bench) fun r => { r with tail := r.tail + k })).trans
    (State.statuses_modRing _ _ _)
  unfold State.ringTail
  dsimp only
  split
  · rfl
  · split
    · exact h
    · exact h

theorem State.statuses_putWord (r : Area) (a : Nat) (w : MWord) (s : State) : (s.putWord r a w).statuses = s.statuses := by
  cases r <;> rfl

theorem State.statuses_ringSend (bench : Bool) (msg : Bytes) (s : State) : (s.ringSend bench msg).statuses = s.statuses := by
  unfold State.ringSend
  dsimp only
  split
  · rfl
  · refine (State.statuses_ringTail _ _ _).trans ?_
    exact foldl_of_kept State.statuses (fun s e => State.statuses_putWord _ _ _ s) _ s

theorem State.statuses_log (code source : Nat) (p : Bytes) (s : State) : (s.log code source p).statuses = s.statuses := by
  simp [State.statuses]

theorem State.statuses_ringServed (n : Nat) (s : State) : (s.ringServed n).statuses = s.statuses := by
  refine (State.statuses_modRing _ _ _).trans ?_
  split
  · rfl
  · rfl

theorem State.statuses_handshake (s : State) : s.handshake.statuses = s.statuses := by
  have hello : s.sendHello.statuses = s.statuses := by
    unfold State.sendHello
    dsimp only
    split
    · rfl
    · exact State.statuses_ringSend _ _ s
  refine Eq.trans ?_ hello
  unfold State.handshake State.answerHello State.useChosen
  dsimp only
  split
  · rfl
  · refine (State.statuses_log _ _ _ _).trans ?_
    exact (State.statuses_ringSend _ _ _).trans (State.statuses_ringServed _ _)

theorem State.statuses_predictBattery (s : State) : s.predictBattery.statuses = s.statuses := by
  obtain ⟨-, h, -⟩ := s.predictBattery_keeps
  exact (congrArg State.statuses h :)

theorem State.statuses_setTarget (mv : Nat) (s : State) : (s.setTarget mv).statuses = s.statuses := by
  unfold State.setTarget
  split
  · rfl
  · rfl

/-- What the rails do at the Bench's start, in its mode of AVS. -/
def State.startRails (s : State) : State :=
  if s.power.avsMode ≠ 1 then s
  else if s.power.target = s.power.fixedMv then s.writeRail s.power.fixedMv
  else s.setTarget s.power.fixedMv

theorem State.statuses_startRails (s : State) : s.startRails.statuses = s.statuses := by
  unfold State.startRails
  split
  · rfl
  · split
    · rfl
    · exact State.statuses_setTarget _ s

/-- The Bench's cores at their entry, and the Bench serving. -/
def State.benchComesUp (s : State) : State :=
  { s.startBench with worlds := { s.startBench.worlds with bench := { s.startBench.worlds.bench with status := 1 } }
                      chip := { s.startBench.chip with hif := Config.hifVersion ((s.booted 1).getD []) } }

/-- AVSBus in use, with the target of the adaptive mode kept. -/
def State.avsStarts (mv : Nat) (s : State) : State :=
  { s with power := { s.power with avsOn := true, target := if s.power.avsMode = 2 then s.power.target else mv } }

theorem State.startBoth_eq (mv : Nat) (s : State) :
    s.startBoth mv = (s.benchComesUp.handshake.predictBattery.avsStarts mv).startRails := rfl

theorem State.startBoth_serves (mv : Nat) (s : State) : (s.startBoth mv).worlds.bench.status = 1 := by
  rw [State.startBoth_eq]
  have h := (State.statuses_startRails (s.benchComesUp.handshake.predictBattery.avsStarts mv)).trans
    ((State.statuses_predictBattery s.benchComesUp.handshake).trans (State.statuses_handshake s.benchComesUp))
  exact congrArg Prod.snd h

theorem State.statuses_deliver (n : Nat) {k : Bytes → State → State} (hk : ∀ b s, (k b s).statuses = s.statuses) (s : State) :
    (s.deliver n k).statuses = s.statuses := hk _ _

theorem State.statuses_reseedAll (s : State) : s.reseedAll.statuses = s.statuses := by
  unfold State.reseedAll
  refine (foldl_of_kept State.statuses (fun s p => State.statuses_deliver 32 (fun b s => ?_) s) _ _).trans
    (foldl_of_kept State.statuses (fun s k => State.statuses_deliver 16 (fun b s => ?_) s) _ _)
  · rfl
  · rfl

theorem State.statuses_rebuildTenants (s : State) : s.rebuildTenants.statuses = s.statuses := by
  unfold State.rebuildTenants
  split
  · rfl
  · rfl

theorem State.statuses_startLegacy (s : State) : s.startLegacy.statuses = s.statuses := by
  unfold State.startLegacy
  split
  · rfl
  · split
    · next h =>
      unfold State.reserveSlots at h
      dsimp only at h
      split at h
      · cases h
        rfl
      · cases h
    · rfl

theorem State.statuses_logLost (s : State) : s.logLost.statuses = s.statuses := by
  unfold State.logLost
  split
  · simp [State.statuses]
  · rfl

/-- The Hearth serving, with the classes of the tamper sources in force. -/
def State.hearthComesUp (s : State) : State :=
  { s with
    tamper := { s.tamper with classes := if s.chip.endState == .quenched then [] else s.tamper.keptClasses }
    worlds := { s.worlds with hearth := { s.worlds.hearth with status := 1 } } }

theorem State.startHearth_eq (s : State) : s.startHearth =
    ((if s.chip.endState == .quenched then s.hearthComesUp else s.hearthComesUp.startBoot).reseedAll.rebuildTenants.startLegacy).logLost :=
  rfl

theorem State.startHearth_serves (s : State) : s.startHearth.worlds.hearth.status = 1 := by
  rw [State.startHearth_eq]
  have hu : (if s.chip.endState == .quenched then s.hearthComesUp else s.hearthComesUp.startBoot).statuses = s.hearthComesUp.statuses := by
    split
    · rfl
    · rfl
  exact congrArg Prod.fst ((State.statuses_logLost _).trans ((State.statuses_startLegacy _).trans
    ((State.statuses_rebuildTenants _).trans ((State.statuses_reseedAll _).trans hu))))

/-! ### The end state, and the clauses of O24 -/

theorem State.fixEnd_endState (s : State) : (s.rootOk = false → s.fixEnd.chip.endState = .quenched) ∧
    (s.rootOk = true → s.crucible.latchCls = 2 → s.fixEnd.chip.endState = .locked) ∧
    (s.rootOk = true → s.crucible.latchCls ≠ 2 → s.fixEnd.chip.endState = .ready) := by
  unfold State.fixEnd
  refine ⟨fun h => ?_, fun h hl => ?_, fun h hl => ?_⟩
  · simp [h]
  · simp [h, hl]
  · simp [h, hl]

theorem startUpEnd_enters (s : State) (us : BitVec 20) (hs : s.chip.started = true) (hc : s.chip.state = .start) :
    ∃ t, exec (.startUpEnd us) s = .next t ∧
      t.chip.state = s.chip.endState ∧ t.chip.crs = false ∧ t.chip.engineOn = true ∧ t.chip.startUs = us.toNat ∧
      t.chip.keyBus = (s.chip.endState == .ready) ∧ t.rack = s.rack ∧ t.crucible = s.crucible ∧ t.queues = s.queues ∧
      t.engine = s.engine := by
  refine ⟨_, next_congr (if_neg ?_), ?_⟩
  · simp [hs, hc]
  · simp [State.setChip_chip]

/-- A start-up that has no steps to take. -/
theorem startUp_idle {s : State} {seen : StartSeen} (h : s.chip.held = true ∨ s.chip.started = true) :
    exec (.startUp seen) s = .next s := by
  refine next_congr (if_pos ?_)
  rcases h with h | h
  · exact .inl h
  · exact .inr (.inl h)

theorem startUp_scanTest (s : State) (seen : StartSeen) (hh : s.chip.held = false) (hs : s.chip.started = false)
    (hc : s.chip.state = .start) (ht : s.scanTest seen.testBall = true) : ∃ t, exec (.startUp seen) s = .next t ∧
      t.chip = s.chip ∧ t.rack = s.rack ∧ t.engine = s.engine ∧
      (∀ us : BitVec 20, exec (.startUpEnd us) t = .next t) ∧ exec (.startUp seen) t = .next t := by
  have idle : ∀ (t : State) (us : BitVec 20), t.chip = s.chip → exec (.startUpEnd us) t = .next t := fun t us h =>
    next_congr (if_pos (.inl (by rw [h, hs]; exact Bool.false_ne_true)))
  have scans : ∀ t : State, t.pins.scanMode = true → exec (.startUp seen) t = .next t := fun t h =>
    next_congr (if_pos (.inr (.inr (.inr h))))
  by_cases hm : s.pins.scanMode = true
  · exact ⟨s, scans s hm, rfl, rfl, rfl, fun us => idle s us rfl, scans s hm⟩
  · refine ⟨{ s with pins := { s.pins with perstN := true, testEn := true, scanMode := true } },
      next_congr ((if_neg ?_).trans (if_pos ht)), rfl, rfl, rfl, fun us => idle _ us rfl, scans _ rfl⟩
    simp [hh, hs, hc, hm]

/-- Steps 1 and 2: the protection units as after reset, and an erasure that was pending. -/
def State.releasedTo (s : State) (seen : StartSeen) : State :=
  (((State.resetUnit false { s with chip := { s.chip with started := true }
                                    pins := { s.pins with perstN := true, legacyMode := seen.legacyBall, testEn := seen.testBall } }).resetUnit true)).startWipe

/-- Steps 4 to 8 from there. -/
def State.checkedFor (u : State) (seen : StartSeen) : State :=
  ((u.fixEnd.startStore).startBellows seen.cellsOk seen.retestOk seen.katOk).startImages

/-- A start-up that takes its steps. -/
theorem startUp_takes {s : State} {seen : StartSeen} (hh : s.chip.held = false) (hs : s.chip.started = false)
    (hc : s.chip.state = .start) (hm : s.pins.scanMode = false) (ht : s.scanTest seen.testBall = false) :
    exec (.startUp seen) s = .next (
      if (s.releasedTo seen).lifeCode = 0 ∨ (s.releasedTo seen).lifeCode = 6 then (s.releasedTo seen).toRecovery
      else if ((s.releasedTo seen).checkedFor seen).usable then
        ((((s.releasedTo seen).checkedFor seen).startHearth.startBoth seen.mv.toNat).startBundle)
      else ((s.releasedTo seen).checkedFor seen).bootToRecovery) := by
  have takes : ¬ (s.chip.held = true ∨ s.chip.started = true ∨ s.chip.state ≠ .start ∨ s.pins.scanMode = true) := by
    simp [hh, hs, hc, hm]
  exact next_congr ((if_neg takes).trans (if_neg fun h => Bool.noConfusion (ht.symm.trans h)))

/-- Settles O24. The steps of start-up are the composition that the statement writes out, taken where no condition of an idle
start-up holds; the worlds that start serve, because nothing after their start writes their status. -/
theorem startUp : Obligations.StartUp := by
  refine ⟨fun s u v seen hh hs hc hm ht hu hv => ?_, State.fixEnd_endState,
    fun s => ⟨s.startHearth_serves, fun mv => s.startBoth_serves mv, rfl, rfl⟩, startUpEnd_enters,
    fun s seen h => startUp_idle h, startUp_scanTest⟩
  have hu : s.releasedTo seen = u := hu.symm
  have hv : u.checkedFor seen = v := hv.symm
  rw [startUp_takes hh hs hc hm ht, hu, hv]
  refine ⟨fun h => by rw [if_pos h], fun h0 h6 h => ?_, fun h0 h6 h => ?_⟩
  · rw [if_neg (not_or.mpr ⟨h0, h6⟩), if_pos h]
  · rw [if_neg (not_or.mpr ⟨h0, h6⟩), if_neg (fun h1 => Bool.noConfusion (h.symm.trans h1))]

end Sys2Proof.Machine
end

section
/-!
PROOF of O25: what a register write does.
-/
namespace Sys2Proof.Machine

theorem State.leaveL1_of_l0 {s : State} (h : s.link.aspm = .l0) : s.leaveL1 = s := if_pos h

theorem State.leaveL1_aspm (s : State) : s.leaveL1.link.aspm = .l0 := by
  unfold State.leaveL1
  split
  · assumption
  · rfl

theorem State.leaveL1_barOpen (s : State) (p : Page) : s.leaveL1.barOpen p = s.barOpen p := by
  unfold State.leaveL1
  split
  · rfl
  · rfl

theorem registerWrite_leaveL1 (s : State) (p : Page) (a : BitVec 16) (w : RegValue) :
    exec (.registerWrite p a w) s = exec (.registerWrite p a w) s.leaveL1 := by
  unfold exec execRegisterWrite
  simp only [State.leaveL1_of_l0 s.leaveL1_aspm]

theorem registerWrite_closed (s : State) (p : Page) (a : BitVec 16) (w : RegValue)
    (h : s.chip.crs = true ∨ (s.fnOf (pageFn p)).flr = true) : exec (.registerWrite p a w) s = .next s.leaveL1 := by
  refine next_congr (if_pos ?_)
  rw [State.leaveL1_barOpen]
  unfold State.barOpen
  rcases h with h | h
  · simp [h]
  · simp [h]

theorem registerWrite_unaccepted (s : State) (p : Page) (a : BitVec 16) (w : RegValue) (ho : s.barOpen p = true)
    (ha : accepts p a.toNat w = false) : exec (.registerWrite p a w) s = .next (s.leaveL1.logAer (pageFn p) .unsupportedRequest) :=
  next_congr ((if_neg (fun h => h ((State.leaveL1_barOpen s p).trans ho))).trans
    (if_pos (fun h => Bool.noConfusion (ha.symm.trans h))))

/-- A value in the registers of an open page, by its width (R71). -/
def State.writeValue (p : Page) (a : Nat) (s : State) : RegValue → State
  | .one v => s.writeNarrow 1 a v.toNat
  | .two v => s.writeNarrow 2 a v.toNat
  | .four v => s.writePage p a v
  | .eight v h => if (s.writePage p a v).barOpen p then (s.writePage p a v).writePage p (a + 4) h else s.writePage p a v

/-- A write that its page accepts, with the link in L0, is the value in the page's registers. -/
theorem registerWrite_accepted {s : State} {p : Page} {a : BitVec 16} {w : RegValue} (hl : s.link.aspm = .l0)
    (ho : s.barOpen p = true) (ha : accepts p a.toNat w = true) :
    exec (.registerWrite p a w) s = .next (s.writeValue p a.toNat w) := by
  unfold exec execRegisterWrite
  simp only [State.leaveL1_of_l0 hl, ho, ha]
  cases w <;> rfl

theorem registerWrite_eight (s : State) (p : Page) (a : BitVec 16) (v h : BitVec 32) (hl : s.link.aspm = .l0)
    (ho : s.barOpen p = true) (ha : a.toNat % 8 = 0) (ht : (s.writePage p a.toNat v).barOpen p = true) :
    exec (.registerWrite p a (.eight v h)) s = .next ((s.writePage p a.toNat v).writePage p (a.toNat + 4) h) :=
  (registerWrite_accepted hl ho (by simp [accepts, widthBytes, ha])).trans (next_congr (if_pos ht))

theorem registerWrite_narrow (s : State) (a v : BitVec 16) (hl : s.link.aspm = .l0) (ho : s.barOpen .bar4 = true) :
    exec (.registerWrite .bar4 a (.one (v.truncate 8))) s = .next (s.writeNarrow 1 a.toNat (bits v 7 0)) ∧
    (a.toNat % 2 = 0 → exec (.registerWrite .bar4 a (.two v)) s = .next (s.writeNarrow 2 a.toNat v.toNat)) := by
  refine ⟨?_, fun ha => registerWrite_accepted hl ho (by simp [accepts, widthBytes, ha])⟩
  have hv : (v.truncate 8).toNat = bits v 7 0 := by simp [bits]
  exact (registerWrite_accepted hl ho (by simp [accepts, widthBytes, Nat.mod_one])).trans (next_congr (congrArg (s.writeNarrow 1 a.toNat) hv))

theorem State.exists_pf (s : State) : s.exists? 0 = true := rfl

theorem State.barOpen_pf {s : State} {p : Page} (hp : pageFn p = 0) (hc : s.chip.crs = false) (hf : (s.fnOf 0).flr = false) :
    s.barOpen p = true := by
  simp [State.barOpen, hp, hc, hf, State.exists_pf]

/-- A write of four bytes to PF BAR0. -/
theorem registerWrite_pf {s : State} (a : BitVec 16) (v : BitVec 32) (hl : s.link.aspm = .l0) (hc : s.chip.crs = false)
    (hf : (s.fnOf 0).flr = false) (ha : a.toNat % 4 = 0) : exec (.registerWrite (.bar0 0) a (.four v)) s = .next (s.writePf a.toNat v) :=
  registerWrite_accepted hl (State.barOpen_pf rfl hc hf) (by simp [accepts, widthBytes, ha])

theorem registerWrite_rows (s : State) (v : BitVec 32) (hl : s.link.aspm = .l0) (hc : s.chip.crs = false) (hf : (s.fnOf 0).flr = false) :
    exec (.registerWrite (.bar0 0) 0x0488 (.four v)) s = exec (.drbgCountWrite v) s ∧
    exec (.registerWrite (.bar0 0) 0x050C (.four v)) s = exec (.slotQuotaWrite v) s ∧
    exec (.registerWrite (.bar0 0) 0x0514 (.four v)) s = exec (.storeQuotaWrite v) s ∧
    exec (.registerWrite (.bar0 0) 0x1404 (.four v)) s = exec (.shareWrite v) s ∧
    exec (.registerWrite (.bar0 0) 0x17D0 (.four v)) s = exec (.hammerAbort v) s ∧
    exec (.registerWrite (.bar0 0) 0x2000 (.four v)) s = exec (.cursor false v) s ∧
    exec (.registerWrite (.bar0 0) 0x2404 (.four v)) s = exec (.settingsValueWrite v) s ∧
    exec (.registerWrite (.bar0 0) 0x2410 (.four v)) s = exec (.store v) s ∧
    exec (.registerWrite (.bar0 0) 0x2808 (.four v)) s = exec (.avsSettingsWrite false v) s ∧
    exec (.registerWrite (.bar0 0) 0x280C (.four v)) s = exec (.avsSettingsWrite true v) s ∧
    exec (.registerWrite (.bar0 0) 0x2940 (.four v)) s = exec (.batReset v) s ∧
    (s.chip.legacy = false → exec (.registerWrite (.bar0 0) 0x0804 (.four v)) s = exec (.funcQueuesWrite v) s ∧
      exec (.registerWrite (.bar0 0) 0x0810 (.four v)) s = exec (.qselWrite 0 v) s ∧
      exec (.registerWrite (.bar0 0) 0x0820 (.four v)) s = exec (.queueContextWrite 0 .sqLo v) s ∧
      exec (.registerWrite (.bar0 0) 0x0834 (.four v)) s = exec (.qVectorWrite 0 v) s) ∧
    exec (.registerWrite (.bar0 0) 0x04C0 (.four 1)) s = exec .allowCommit s ∧
    exec (.registerWrite (.bar0 0) 0x1804 (.four 1)) s = exec .retest s := by
  have at_ (a : BitVec 16) (ha : a.toNat % 4 = 0) (v : BitVec 32) := registerWrite_pf a v hl hc hf ha
  refine ⟨(at_ _ rfl v).trans rfl, (at_ _ rfl v).trans rfl, (at_ _ rfl v).trans rfl, (at_ _ rfl v).trans rfl, (at_ _ rfl v).trans rfl,
    (at_ _ rfl v).trans rfl, (at_ _ rfl v).trans rfl, (at_ _ rfl v).trans rfl, (at_ _ rfl v).trans rfl, (at_ _ rfl v).trans rfl,
    (at_ _ rfl v).trans rfl, fun hg => ?_, (at_ _ rfl 1).trans rfl, (at_ _ rfl 1).trans rfl⟩
  have hg : ¬ s.chip.legacy = true := fun h => Bool.noConfusion (hg.symm.trans h)
  have hq : s.writeQmgr 0x0804 v = s.via (execFuncQueuesWrite v) := if_neg hg
  have hs : s.writeQmgr 0x0810 v = s.via (execQselWrite 0 v) := if_neg hg
  have hb : s.writeQmgr 0x0820 v = s.via (execQueueContextWrite 0 .sqLo v) := if_neg hg
  have hv : s.writeQmgr 0x0834 v = s.via (execQVectorWrite 0 v) := if_neg hg
  exact ⟨(at_ _ rfl v).trans (next_congr hq), (at_ _ rfl v).trans (next_congr hs), (at_ _ rfl v).trans (next_congr hb),
    (at_ _ rfl v).trans (next_congr hv)⟩

theorem registerWrite_fields (s : State) (v : BitVec 32) (hl : s.link.aspm = .l0) (hc : s.chip.crs = false)
    (hf : (s.fnOf 0).flr = false) :
    exec (.registerWrite (.bar0 0) 0x0480 (.four v)) s = .next { s with qmgr := { s.qmgr with resFunc := bits v 7 0 } } ∧
    exec (.registerWrite (.bar0 0) 0x0500 (.four v)) s = .next { s with qmgr := { s.qmgr with tenSel := bits v 11 0 } } ∧
    exec (.registerWrite (.bar0 0) 0x1400 (.four v)) s = .next { s with qmgr := { s.qmgr with shareSel := bits v 7 0 } } ∧
    exec (.registerWrite (.bar0 0) 0x1408 (.four v)) s =
      .next { s with qmgr := { s.qmgr with weightBad := s.qmgr.weightBad && !v.getLsbD 0 } } ∧
    exec (.registerWrite (.bar0 0) 0x2400 (.four v)) s = .next { s with store := { s.store with sel := bits v 7 0 } } ∧
    exec (.registerWrite (.bar0 0) 0x0000 (.four v)) s = .next s ∧ exec (.registerWrite (.bar0 0) 0x0014 (.four v)) s = .next s ∧
    (s.worlds.go = false → exec (.registerWrite (.bar0 0) 0x3400 (.four v)) s =
      .next { s with worlds := { s.worlds with req := patch s.worlds.req 0 (leBytes 4 v.toNat) } }) ∧
    (s.worlds.go = true → exec (.registerWrite (.bar0 0) 0x3400 (.four v)) s =
      .next { s with worlds := { s.worlds with overrun := true } }) ∧
    (s.chip.legacy = false → exec (.registerWrite (.bar0 0) 0x0800 (.four v)) s =
      .next { s with qmgr := { s.qmgr with funcSel := bits v 7 0 } }) ∧
    (s.chip.legacy = false → exec (.registerWrite .bar4 0x0008 (.four v)) s = .next s) := by
  have at_ (a : BitVec 16) (ha : a.toNat % 4 = 0) (v : BitVec 32) := registerWrite_pf a v hl hc hf ha
  have legacy (h : s.chip.legacy = false) : ¬ s.chip.legacy = true := fun h' => Bool.noConfusion (h.symm.trans h')
  have dropped (h : ¬ s.chip.legacy = true) : s.writeLegacy 0x0008 v = s := if_pos h
  have chosen (h : ¬ s.chip.legacy = true) : s.writeQmgr 0x0800 v = { s with qmgr := { s.qmgr with funcSel := bits v 7 0 } } := if_neg h
  have filled (h : ¬ s.worlds.go = true) : s.writeVault 0x3400 v =
    { s with worlds := { s.worlds with req := patch s.worlds.req 0 (leBytes 4 v.toNat) } } := if_neg h
  have overran (h : s.worlds.go = true) : s.writeVault 0x3400 v = { s with worlds := { s.worlds with overrun := true } } := if_pos h
  exact ⟨(at_ _ rfl v).trans rfl, (at_ _ rfl v).trans rfl, (at_ _ rfl v).trans rfl, (at_ _ rfl v).trans rfl, (at_ _ rfl v).trans rfl,
    (at_ _ rfl v).trans rfl, (at_ _ rfl v).trans rfl,
    fun h => (at_ _ rfl v).trans (next_congr (filled fun h' => Bool.noConfusion (h.symm.trans h'))),
    fun h => (at_ _ rfl v).trans (next_congr (overran h)), fun h => (at_ _ rfl v).trans (next_congr (chosen (legacy h))),
    fun h => (registerWrite_accepted hl (State.barOpen_pf rfl hc hf) (by simp [accepts, widthBytes])).trans (next_congr (dropped (legacy h)))⟩

/-- The vector control of an MSI-X entry (R79). -/
theorem registerWrite_vectorControl (s : State) (f : BitVec 8) (i : BitVec 6) (v : BitVec 32) (hl : s.link.aspm = .l0)
    (hc : s.chip.crs = false) (hg : s.chip.legacy = false) (hp : s.pageOpen f.toNat = true) :
    exec (.registerWrite (.msix f) (BitVec.ofNat 16 (16 * i.toNat + 12)) (.four v)) s =
      .next ((s.modFn f.toNat fun n => { n with vecOpen := tset false i.toNat (!v.getLsbD 0) n.vecOpen }).sendPending f.toNat) := by
  have hi := i.isLt
  have ha : (BitVec.ofNat 16 (16 * i.toNat + 12)).toNat = 16 * i.toNat + 12 := by
    rw [BitVec.toNat_ofNat]
    omega
  have ho : s.barOpen (.msix f) = true := by
    unfold State.pageOpen at hp
    simp only [Bool.and_eq_true, Bool.not_eq_true'] at hp
    simp [State.barOpen, pageFn, hc, hp]
  have hpast : ¬ (if f.toNat = 0 then 2048 else 64) ≤ i.toNat := by
    split <;> omega
  refine (registerWrite_accepted hl ho ?_).trans (next_congr ?_)
  · simp only [accepts, widthBytes, ha]
    have : (16 * i.toNat + 12) % 4 = 0 := by omega
    simp [this]
  · have h16 : (16 * i.toNat + 12) / 16 = i.toNat := by omega
    have h12 : (16 * i.toNat + 12) % 16 = 12 := by omega
    simp only [State.writeValue, State.writePage, State.writeMsix, ha, h16, h12]
    simp [hg, hp, hpast]

/-- Settles O25. A write whose page accepts it is one write of a word to that page; each register of the list lies in one block's
chain of offsets, and its row's effect is what stands there. -/
theorem registerWrites : Obligations.RegisterWrites :=
  ⟨registerWrite_leaveL1, registerWrite_closed, registerWrite_unaccepted, registerWrite_eight, registerWrite_narrow, registerWrite_rows,
    registerWrite_fields, registerWrite_vectorControl⟩

end Sys2Proof.Machine
end

section
/-!
PROOF of O26: what registers read as.
-/
namespace Sys2Proof.Machine

theorem State.readReg_none_iff (s : State) (p : Page) (a : Nat) : s.readReg p a = none ↔ s.barOpen p = false ∨ a % 4 ≠ 0 := by
  unfold State.readReg
  split
  · next h => simpa using h
  · next h => simpa using h

theorem State.barOpen_of_pfOpen {s : State} {p : Page} (hp : pageFn p = 0) (h : s.pfOpen = true) : s.barOpen p = true := by
  simp only [State.pfOpen, Bool.and_eq_true, Bool.not_eq_true'] at h
  exact State.barOpen_pf hp h.1 h.2

/-- An aligned read of PF BAR0. -/
theorem State.readReg_pf {s : State} {a : Nat} (h : s.pfOpen = true) (ha : a % 4 = 0) :
    s.readReg (.bar0 0) a = some (BitVec.ofNat 32 (s.readPf a)) :=
  if_neg (not_or.mpr ⟨fun h' => h' (State.barOpen_of_pfOpen rfl h), fun h' => h' ha⟩)

theorem State.readPf_chip (s : State) {a : Nat} (h : a < 0x400) : s.readPf a = s.readChip a := if_pos h

theorem State.readPf_qmgr (s : State) {a : Nat} (h : 0x800 ≤ a) (h' : a < 0x1400) : s.readPf a = s.readQmgr a := by
  unfold State.readPf
  rw [if_neg (by omega), if_neg (by omega), if_pos h']

theorem State.readChip_rest (s : State) {a : Nat} (h : 0x14 ≤ a) : s.readChip a = 0 := by
  unfold State.readChip
  rw [if_neg (by omega), if_neg (by omega), if_neg (by omega), if_neg (by omega), if_neg (by omega)]

theorem State.readContext_unheld (s : State) {f q : Nat} (h : (s.fnOf f).queues ≤ q) (off : Nat) : s.readContext f q off = 0 := if_pos h

theorem State.readQmgr_legacy {s : State} (h : s.chip.legacy = true) (a : Nat) : s.readQmgr a = 0 := if_pos h

/-- The context registers of QMGR are those of the queue that QSEL names. -/
theorem State.readQmgr_context {s : State} (h : ¬ s.chip.legacy = true) {a : Nat} (ha : 0x820 ≤ a) :
    s.readQmgr a = s.readContext s.qmgr.qselF s.qmgr.qselQ (a - 0x800) := by
  unfold State.readQmgr
  dsimp only
  rw [if_neg h, if_neg (by omega), if_neg (by omega), if_neg (by omega), if_neg (by omega), if_neg (by omega)]

theorem State.readReg_status {s : State} (h : s.pfOpen = true) :
    s.readReg (.bar0 0) 0x0010 = some (BitVec.ofNat 32 ((if s.chip.legacy then 1 else 0) + (if s.worlds.vaultUp then 2 else 0) +
      if (List.range 128).any fun b => s.blockState b == 2 then 4 else 0)) := by
  refine (State.readReg_pf h rfl).trans ?_
  show some (BitVec.ofNat 32 (flagAt s.chip.legacy 0 + flagAt s.worlds.vaultUp 1 + flagAt s.blockOut 2)) = _
  rfl

theorem State.readReg_resFunc (s : State) (h : s.pfOpen = true) (v : BitVec 32) (hl : s.link.aspm = .l0) :
    ∃ t, exec (.registerWrite (.bar0 0) 0x0480 (.four v)) s = .next t ∧ t.readReg (.bar0 0) 0x0480 = some (v &&& 0xFF) := by
  have hp := h
  simp only [State.pfOpen, Bool.and_eq_true, Bool.not_eq_true'] at h
  obtain ⟨hc, hf⟩ := h
  refine ⟨_, (registerWrite_fields s v hl hc hf).1, (State.readReg_pf (s := { s with qmgr := { s.qmgr with resFunc := bits v 7 0 } }) hp rfl).trans ?_⟩
  refine congrArg some (BitVec.eq_of_toNat_eq ?_ : BitVec.ofNat 32 (bits v 7 0) = v &&& 0xFF)
  have hm : v.toNat &&& BitVec.toNat (255 : BitVec 32) = v.toNat % 2 ^ 8 := Nat.and_two_pow_sub_one_eq_mod v.toNat 8
  simp only [bits, BitVec.toNat_ofNat, BitVec.toNat_and]
  omega

theorem State.readReg_qmgr {s : State} (h : s.pfOpen = true) {a : Nat} (h8 : 0x800 ≤ a) (h14 : a < 0x1400) (ha : a % 4 = 0)
    (hr : s.readQmgr a = 0) : s.readReg (.bar0 0) a = some 0 := by
  rw [State.readReg_pf h ha, State.readPf_qmgr s h8 h14, hr]
  rfl

/-- Settles O26. An open page reads each aligned offset through its block; the registers named are those of the block's list. -/
theorem registerReads : Obligations.RegisterReads := by
  refine ⟨State.readReg_none_iff, fun s h => ⟨State.readReg_pf h rfl, State.readReg_pf h rfl, State.readReg_pf h rfl,
    State.readReg_status h, fun a h14 h400 ha => ?_, s.readReg_resFunc h, State.readReg_pf h rfl,
    fun hg a h8 h14 ha => State.readReg_qmgr h h8 h14 ha (State.readQmgr_legacy hg a), fun hg a ha => ?_,
    fun hq a h82 h14 ha => State.readReg_qmgr h (by omega) h14 ha ?_⟩⟩
  · rw [State.readReg_pf h ha, State.readPf_chip s h400, State.readChip_rest s h14]
    rfl
  · refine (if_neg (not_or.mpr ⟨fun h' => h' (State.barOpen_of_pfOpen rfl h), fun h' => h' ha⟩)).trans ?_
    exact congrArg (fun n => some (BitVec.ofNat 32 n)) (if_pos (fun h' => Bool.noConfusion (hg.symm.trans h')))
  · by_cases hg : s.chip.legacy = true
    · exact State.readQmgr_legacy hg a
    · exact (State.readQmgr_context hg h82).trans (s.readContext_unheld hq _)

end Sys2Proof.Machine
end

section
/-!
PROOF of O27: the RSA opcodes.
-/
namespace Sys2Proof.Machine

/-! ### How a job of a Hammer unit goes on (R300 to R310) -/

/-- A job on its unit, with lists that pass check 7, goes on with all read. -/
theorem State.onJob_checked {s : State} {op c : Nat} {o : Op} {dma : Dma} {need most : Op → Nat} (h : s.OnUnit op c o)
    (hc : check7 o.desc dma (need o) (most o) = none) (f : Op → State → State) :
    s.onJob op c (fun o s => s.checked o dma (need o) (most o) (f o)) = f o (s.hasRead o dma) :=
  (State.onJob_of h _).trans (State.checked_of hc _)

theorem State.OnUnit.id_eq {s : State} {op c : Nat} {o : Op} (h : s.OnUnit op c o) : o.id = op := State.opOf_id h.1.1

/-- With its turn at the internal generator a job draws its blinding values. -/
theorem State.blinded_of {s : State} {o : Op} {e : Bytes} (h : s.Fed o 0 e) (n : Nat) (k : Bytes → State → State) :
    s.blinded o n k = k ((State.used o.id s).blindBytes n) ((State.used o.id s).drewBlind n) :=
  State.gated_of h _

/-- A public key with an odd modulus of its length and a sound exponent. -/
theorem State.withRsaPub_of {s : State} {o : Op} {dma : Dma} {least n e : Nat} (hn : n = beAt (keyPart o dma) 4 (modLen o))
    (he : e = beAt (keyPart o dma) 0 4) (hodd : n % 2 = 1) (hl : 2 ^ (dPlan o.desc - 1) ≤ n) (hodd' : e % 2 = 1) (hm : least ≤ e)
    (k : Nat → Nat → State → State) : s.withRsaPub o dma least k = k n e s := by
  rw [hn] at hodd hl ⊢
  rw [he] at hodd' hm ⊢
  exact if_neg (by omega)

theorem State.withRsaPub_refused {s : State} {o : Op} {dma : Dma} {least n e : Nat} (hn : n = beAt (keyPart o dma) 4 (modLen o))
    (he : e = beAt (keyPart o dma) 0 4) (h3 : 3 ≤ least) (h : n % 2 = 0 ∨ n < 2 ^ (dPlan o.desc - 1) ∨ e % 2 = 0 ∨ e < 3)
    (k : Nat → Nat → State → State) : s.withRsaPub o dma least k = s.fail o.id 0x0102 16 := by
  rw [hn, he] at h
  exact if_pos (by omega)

/-- Settles O27. Each opcode is a job on its unit: lists that pass check 7, then a sound blob or a public key that stands, then the
draws it needs, then its result; each refusal is the branch of the first of these that fails. -/
theorem rsaOpcodes : Obligations.RsaOpcodes := by
  unfold Obligations.RsaOpcodes
  intro s u op o dma k x hk hu hx
  rw [hx]
  clear hx
  subst hk hu
  refine ⟨fun m e y hu hc hb hx hf hy => ?_, fun m hu hc hb hx => ?_, fun n e hn he hodd hbig hodd' h3 => ?_, fun n e hn he hbad => ?_,
    fun m e y hu hc hb hp hf hy => ?_, fun m r v y hu hc hb hp hd hr hv hy => ?_, fun m e y hu hc hb hx hf hy => ?_,
    fun b key r hu hc hf hkey hr => ?_⟩
  · obtain rfl := hu.id_eq
    subst hy
    refine next_congr ((State.onJob_checked hu hc _).trans ?_)
    refine (State.withBlob_of hb _).trans ((if_neg (Nat.not_le.mpr hx)).trans ?_)
    exact State.blinded_of hf _ _
  · obtain rfl := hu.id_eq
    refine next_congr ((State.onJob_checked hu hc _).trans ?_)
    exact (State.withBlob_of hb _).trans (if_pos hx)
  · have hpub {least : Nat} (hm : least ≤ e) (f : Nat → Nat → State → State) :=
      State.withRsaPub_of (s := s.hasRead o dma) hn he hodd hbig hodd' hm f
    refine ⟨fun hu hc hx => ?_, fun hu hc hx => ?_, fun d y hu hc hd hy hp => ?_, fun d y hu hc hd hy hp => ?_,
      fun r hu hc h65 hd hr => ?_⟩
    · exact next_congr ((State.onJob_checked hu hc _).trans ((hpub h3 _).trans (if_neg (Nat.not_le.mpr hx))))
    · obtain rfl := hu.id_eq
      exact next_congr ((State.onJob_checked hu hc _).trans ((hpub h3 _).trans (if_pos hx)))
    · rw [hd, hy]
      refine next_congr ((State.onJob_checked hu hc _).trans ((hpub h3 _).trans ?_))
      simp only [if_pos hp]
    · rw [hd, hy]
      refine next_congr ((State.onJob_checked hu hc _).trans ((hpub h3 _).trans ?_))
      simp only [if_neg hp]
    · subst hr
      refine next_congr ((State.onJob_checked hu hc _).trans ((hpub h65 _).trans ?_))
      exact State.drawLocal_of hd _ _
  · have hpub {least : Nat} (h3 : 3 ≤ least) (f : Nat → Nat → State → State) :=
      State.withRsaPub_refused (s := s.hasRead o dma) hn he h3 hbad f
    refine ⟨fun hu hc => ?_, fun hu hc => ?_, fun hu hc => ?_⟩
    · obtain rfl := hu.id_eq
      exact next_congr ((State.onJob_checked hu hc _).trans (hpub (by decide) _))
    · obtain rfl := hu.id_eq
      exact next_congr ((State.onJob_checked hu hc _).trans (hpub (by decide) _))
    · obtain rfl := hu.id_eq
      exact next_congr ((State.onJob_checked hu hc _).trans (hpub (by decide) _))
  · obtain rfl := hu.id_eq
    subst hy
    refine next_congr ((State.onJob_checked hu hc _).trans ?_)
    refine (State.withBlob_of hb _).trans ((if_pos hp).trans ?_)
    exact State.blinded_of hf _ _
  · subst hr hy
    refine ⟨fun hle => ?_, fun hlt => ⟨(v.drewBlind (16 + modLen o)).openBytes (modLen o), by simp [State.openBytes], ?_⟩⟩
    all_goals subst hv
    · refine next_congr ((State.onJob_checked hu hc _).trans ?_)
      refine (State.withBlob_of hb _).trans ((if_neg hp).trans ((State.drawLocal_of hd _ _).trans ?_))
      exact if_neg (Nat.not_lt.mpr hle)
    · refine next_congr ((State.onJob_checked hu hc _).trans ?_)
      refine (State.withBlob_of hb _).trans ((if_neg hp).trans ((State.drawLocal_of hd _ _).trans ?_))
      exact if_pos hlt
  · obtain rfl := hu.id_eq
    subst hy
    refine next_congr ((State.onJob_checked hu hc _).trans ?_)
    refine (State.withBlob_of hb _).trans ((State.blinded_of hf _ _).trans ((if_neg (Nat.not_le.mpr hx)).trans ?_))
    generalize Rsa.Key.privWith _ _ _ = y
    cases y with
    | none => rfl
    | some y =>
      cases hz : Rsa.oaepDecode (pArg1 o) (modLen o) (beBytes (modLen o) y) with
      | none => simp only [hz]
      | some z => simp only [hz]
  · obtain rfl := hu.id_eq
    subst hkey hr
    refine next_congr ((State.onJob_checked hu hc _).trans ?_)
    exact State.gated_of hf _

end Sys2Proof.Machine
end

section
/-!
PROOF of O28: the elliptic-curve opcodes.
-/
namespace Sys2Proof.Machine

/-- Settles O28. As for RSA: a job on its unit with lists that pass check 7, the point or key that decodes, the draws, the result and
its check. A result of XDH is all zero where each of its bytes is. -/
theorem curveOpcodes : Obligations.CurveOpcodes := by
  unfold Obligations.CurveOpcodes
  intro s u op o dma c e hcurve hedw hu
  subst hcurve hedw hu
  refine ⟨fun r v w g k a b hu hc hd hr hv hw hg hk => ?_, fun q x hu hc hq hx => ?_, fun hu hc hq => ?_, fun q b hu hc hq hf => ?_,
    fun hu hc hq => ?_, fun b p hu hc hf hp => ?_, fun b x sg p hu hc hf hx hsg hp => ?_, fun a x hu hc ha hx => ?_,
    fun hu hc ha => ?_, fun out b hu hc hf hout => ?_⟩
  · subst hr hv hw hg
    refine next_congr ((State.onJob_checked hu hc _).trans ((State.drawLocal_of hd _ _).trans ?_))
    rw [State.blind_eq]
    simp only [hk]
  · subst hx
    refine next_congr ((State.onJob_checked hu hc _).trans ?_)
    simp only [hq]
  · obtain rfl := hu.id_eq
    refine next_congr ((State.onJob_checked hu hc _).trans ?_)
    simp only [hq]
    rfl
  · obtain rfl := hu.id_eq
    refine next_congr ((State.onJob_checked hu hc _).trans ?_)
    simp only [hq]
    refine (State.blinded_of hf _ _).trans ?_
    generalize Ecc.Curve.mul _ _ _ = p
    cases p with
    | none => rfl
    | some p => rfl
  · obtain rfl := hu.id_eq
    refine next_congr ((State.onJob_checked hu hc _).trans ?_)
    simp only [hq]
    rfl
  · obtain rfl := hu.id_eq
    rw [hp]
    exact next_congr ((State.onJob_checked hu hc _).trans (State.blinded_of hf _ _))
  · obtain rfl := hu.id_eq
    rw [hsg, hp, hx]
    refine next_congr ((State.onJob_checked hu hc _).trans ((State.blinded_of hf _ _).trans ?_))
    dsimp only <;> rfl
  · rw [hx]
    refine next_congr ((State.onJob_checked hu hc _).trans ?_)
    simp only [ha]
  · obtain rfl := hu.id_eq
    refine next_congr ((State.onJob_checked hu hc _).trans ?_)
    simp only [ha]
    rfl
  · obtain rfl := hu.id_eq
    rw [hout] at *
    clear hout
    refine ⟨fun h => ?_, fun h => ?_⟩
    · refine next_congr ((State.onJob_checked hu hc _).trans ((State.blinded_of hf _ _).trans (if_neg ?_)))
      obtain ⟨b, hb, hne⟩ := h
      exact fun h => hne (beq_iff_eq.mp (List.all_eq_true.mp h b hb))
    · refine next_congr ((State.onJob_checked hu hc _).trans ((State.blinded_of hf _ _).trans (if_pos ?_)))
      exact List.all_eq_true.mpr fun b hb => beq_iff_eq.mpr (h b hb)

end Sys2Proof.Machine
end

section
/-!
PROOF of O29: the lattice opcodes.
-/
namespace Sys2Proof.Machine

/-- Settles O29. As for the other opcodes of a unit: a fresh pair is made of the blocks delivered and checked, and the rest opens a
blob or takes a public key, draws, and answers. -/
theorem latticeOpcodes : Obligations.LatticeOpcodes := by
  unfold Obligations.LatticeOpcodes
  intro s u op o dma set hset hu
  rw [hset]
  clear hset set
  subst hu
  refine ⟨fun b kp c hu hc hf hkp hc' => ?_, fun r hu hc hk hd hr => ?_, fun hu hc hk => ?_, fun m b hu hc hb hf => ?_,
    fun b kp r hu hc hf hkp hr => ?_, fun m b x sg hu hc hb hp hf hx hsg => ?_, fun m r x sg hu hc hb hp hd hr hx hsg => ?_,
    fun x hu hc hx => ?_⟩
  · obtain rfl := hu.id_eq
    rw [hc', hkp]
    exact next_congr ((State.onJob_checked hu hc _).trans (State.gated_of hf _))
  · rw [hr]
    refine next_congr ((State.onJob_checked hu hc _).trans ((if_neg (fun h => h hk)).trans ?_))
    exact State.drawLocal_of hd _ _
  · obtain rfl := hu.id_eq
    exact next_congr ((State.onJob_checked hu hc _).trans (if_pos (fun h => Bool.noConfusion (hk.symm.trans h))))
  · obtain rfl := hu.id_eq
    exact next_congr ((State.onJob_checked hu hc _).trans ((State.withBlob_of hb _).trans (State.blinded_of hf _ _)))
  · obtain rfl := hu.id_eq
    rw [hkp, hr]
    exact next_congr ((State.onJob_checked hu hc _).trans (State.gated_of hf _))
  · obtain rfl := hu.id_eq
    rw [hsg, hx]
    refine next_congr ((State.onJob_checked hu hc _).trans ((State.withBlob_of hb _).trans ((if_pos hp).trans ?_)))
    exact State.blinded_of hf _ _
  · rw [hsg, hx, hr]
    refine next_congr ((State.onJob_checked hu hc _).trans ((State.withBlob_of hb _).trans ((if_neg hp).trans ?_)))
    exact State.drawLocal_of hd _ _
  · rw [hx]
    exact next_congr (State.onJob_checked hu hc _)

end Sys2Proof.Machine
end

section
/-!
PROOF of O31: route lookups and trie builds.
-/
namespace Sys2Proof.Machine

/-! ### The longest route (R285) -/

theorem longest_none_iff (ident : BitVec 64) (n : Nat) (rs : List Route) :
    longest ident n rs = none ↔ ∀ x ∈ rs, x.covers ident = false := by
  induction rs generalizing n with
  | nil => simp [longest]
  | cons r t ih =>
    unfold longest
    rcases hl : longest ident (n + 1) t with _ | x
    · have ht := (ih (n + 1)).mp hl
      simp only [List.forall_mem_cons]
      cases r.covers ident
      · simpa using ht
      · simp
    · have ht : ¬ ∀ x ∈ t, x.covers ident = false := fun h => by simp [(ih (n + 1)).mpr h] at hl
      simp only [List.forall_mem_cons]
      split <;> simp [ht]

/-- What the walk has found from place `n` on: a route at its place that covers the identifier, and no shorter than any that does. -/
def LongestAt (ident : BitVec 64) (rs : List Route) (n i : Nat) (r : Route) : Prop :=
  n ≤ i ∧ rs[i - n]? = some r ∧ r.covers ident = true ∧ ∀ x ∈ rs, x.covers ident = true → x.plen ≤ r.plen

theorem longestAt_cons {ident : BitVec 64} {rs : List Route} {n i : Nat} {r x : Route} (h : LongestAt ident rs (n + 1) i r)
    (hx : x.covers ident = true → x.plen ≤ r.plen) : LongestAt ident (x :: rs) n i r := by
  obtain ⟨hn, hat, hc, hl⟩ := h
  refine ⟨by omega, ?_, hc, List.forall_mem_cons.mpr ⟨hx, hl⟩⟩
  rw [show i - n = (i - (n + 1)) + 1 by omega, List.getElem?_cons_succ]
  exact hat

theorem longestAt_head {ident : BitVec 64} {rs : List Route} {n : Nat} {r : Route} (hc : r.covers ident = true)
    (h : ∀ x ∈ rs, x.covers ident = true → x.plen ≤ r.plen) : LongestAt ident (r :: rs) n n r :=
  ⟨le_rfl, by simp, hc, List.forall_mem_cons.mpr ⟨fun _ => le_rfl, h⟩⟩

theorem longest_some {ident : BitVec 64} {rs : List Route} {n i : Nat} {r : Route} (h : longest ident n rs = some (i, r)) :
    LongestAt ident rs n i r := by
  induction rs generalizing n i r with
  | nil => simp [longest] at h
  | cons x t ih =>
    unfold longest at h
    rcases hl : longest ident (n + 1) t with _ | ⟨j, y⟩
    · simp only [hl] at h
      split at h
      · next hc =>
        obtain ⟨rfl, rfl⟩ := Prod.mk.inj (Option.some.inj h)
        exact longestAt_head hc fun z hz hzc => absurd hzc (by simp [(longest_none_iff ident (n + 1) t).mp hl z hz])
      · cases h
    · simp only [hl] at h
      have hy := ih hl
      split at h
      · next hc =>
        obtain ⟨rfl, rfl⟩ := Prod.mk.inj (Option.some.inj h)
        exact longestAt_head hc.1 fun z hz hzc => (hy.2.2.2 z hz hzc).trans hc.2.le
      · next hc =>
        obtain ⟨rfl, rfl⟩ := Prod.mk.inj (Option.some.inj h)
        exact longestAt_cons hy fun hx => Nat.not_lt.mp fun hlt => hc ⟨hx, hlt⟩

/-! ### Lookups (R281, R283) -/

theorem hitRoute_ne_nil {i : Nat} {l : List Route} (h : l ≠ []) : hitRoute i l ≠ [] := by
  intro hn
  have := congrArg List.length hn
  simp only [hitRoute, List.length_mapIdx, List.length_nil] at this
  exact h (List.length_eq_zero_iff.mp this)

/-- A lookup notes what the walk found, and counts a hit of the route found. -/
theorem State.lookup_effect (s : State) (op fam ten : Nat) (ident : BitVec 64) :
    (s.lookup op fam ten ident).routing.lookups = s.routing.lookups ++ [(op, (longest ident 0 (s.trieOf fam ten)).map fun x => x.2.slot)] ∧
    (∀ i r, longest ident 0 (s.trieOf fam ten) = some (i, r) →
      (s.lookup op fam ten ident).trieOf fam ten = hitRoute i (s.trieOf fam ten)) ∧
    (s.lookup op fam ten ident).engine.tasks = s.engine.tasks ∧ (s.lookup op fam ten ident).rack = s.rack ∧
    (s.lookup op fam ten ident).sent = s.sent := by
  unfold State.lookup
  dsimp only
  have ht : (s.countRate 6 1 0).trieOf fam ten = s.trieOf fam ten := rfl
  rw [ht]
  rcases hl : longest ident 0 (s.trieOf fam ten) with _ | ⟨i, r⟩
  · exact ⟨rfl, fun _ _ h => (by cases h), rfl, rfl, rfl⟩
  · refine ⟨rfl, fun j x h => ?_, rfl, rfl, rfl⟩
    obtain ⟨rfl, rfl⟩ := Prod.mk.inj (Option.some.inj h)
    have hne : s.trieOf fam ten ≠ [] := by
      intro h0
      rw [h0] at hl
      cases hl
    exact tget_tset_of_ne_default [] (trieKey fam ten) (hitRoute_ne_nil hne) _

theorem State.wantsLookup_recip {s : State} {o : Op} (h : s.wantsLookup o = true) : ∃ w, o.recip = some w := by
  unfold State.wantsLookup at h
  rcases hr : o.recip with _ | w
  · simp [hr] at h
  · exact ⟨w, rfl⟩

/-- The lookup granted next. -/
theorem routeLookup_granted {s : State} {p : Nat} {o : Op} {w : Swage}
    (hp : roundRobin 8 (tget 7 s.engine.rrLast 0x11) (fun p => (s.engine.tasks.filter s.wantsLookup).any fun o => o.pipeline == p) = some p)
    (ho : (s.engine.tasks.filter s.wantsLookup).find? (fun o => o.pipeline == p) = some o) (hw : o.recip = some w) :
    exec .routeLookup s = .next (if (s.blockOf 0x11).out then s.fail o.id 0x0302 0x11
      else if ¬ s.powered 28 then s
      else State.lookup o.id (w.info.route - 1) o.tenant (searchIdent (w.info.route - 1) (o.pblk.getD []))
        { s with engine := { s.engine with rrLast := tset 7 0x11 p s.engine.rrLast } }) := by
  unfold exec execRouteLookup
  simp only [hp, ho, hw]

/-! ### Builds and flips (R286 to R290) -/

theorem buildGo_refused (s : State) (r : BuildRead) (ho : s.pfOpen = true) :
    (s.routing.busy = true → exec (.buildGo r) s = .next { s with routing := { s.routing with refused := true, cause := 1, entry := 0 } }) ∧
    (s.routing.busy = false → s.worlds.bench.status = 2 → exec (.buildGo r) s =
      .next { s with routing := { s.routing with busy := true, built := none } }) ∧
    (s.routing.busy = false → s.worlds.bench.status = 3 → exec (.buildGo r) s =
      .next { s with routing := { s.routing with refused := true, cause := 9, entry := 0 } }) ∧
    (s.routing.busy = false → s.worlds.bench.status = 1 → (s.tenantOf s.routing.buildTen).live = false → exec (.buildGo r) s =
      .next { s with routing := { s.routing with refused := true, cause := 2, entry := 0 } }) := by
  have idle (h : s.routing.busy = false) : ¬ s.routing.busy = true := fun h' => Bool.noConfusion (h.symm.trans h')
  refine ⟨fun h => ?_, fun h h2 => ?_, fun h h3 => ?_, fun h h1 ht => ?_⟩
  · exact next_congr ((State.onBar_of ho _).trans (if_pos h))
  · exact next_congr ((State.onBar_of ho _).trans ((if_neg (idle h)).trans (if_pos h2)))
  · exact next_congr ((State.onBar_of ho _).trans ((if_neg (idle h)).trans ((if_neg (by omega)).trans (if_pos (by omega)))))
  · exact next_congr ((State.onBar_of ho _).trans ((if_neg (idle h)).trans ((if_neg (by omega)).trans ((if_neg (by omega)).trans
      (if_pos (by simp [ht]))))))

theorem buildGo_entries (s : State) (l : List (BitVec 128)) (ho : s.pfOpen = true) (hb : s.routing.busy = false)
    (h1 : s.worlds.bench.status = 1) (ht : (s.tenantOf s.routing.buildTen).live = true) :
    (s.buildFault s.routing.buildFam s.routing.buildTen ((List.range s.routing.buildCount).map fun i => l.getD i 0) = none →
      exec (.buildGo (.entries l)) s = .next { s with routing := { s.routing with
        busy := true, built := some (trieKey s.routing.buildFam s.routing.buildTen,
          ((List.range s.routing.buildCount).map fun i => l.getD i 0).map entryRoute) } }) ∧
    (∀ c e, s.buildFault s.routing.buildFam s.routing.buildTen ((List.range s.routing.buildCount).map fun i => l.getD i 0) = some (c, e) →
      exec (.buildGo (.entries l)) s = .next { s with routing := { s.routing with refused := true, cause := c, entry := e } }) := by
  have idle : ¬ s.routing.busy = true := fun h' => Bool.noConfusion (hb.symm.trans h')
  refine ⟨fun hf => ?_, fun c e hf => ?_⟩
  all_goals
    refine next_congr ((State.onBar_of ho _).trans ((if_neg idle).trans ((if_neg (by omega)).trans ((if_neg (by omega)).trans
      ((if_neg (fun h => h ht)).trans ?_)))))
    dsimp only
    rw [hf]
  rfl

theorem buildGo_failed (s : State) (e : AerErr) (ho : s.pfOpen = true) (hb : s.routing.busy = false)
    (h1 : s.worlds.bench.status = 1) (ht : (s.tenantOf s.routing.buildTen).live = true) :
    exec (.buildGo (.failed e)) s = .next ((s.logAer 0 e).refuseBuild 3 0) := by
  have idle : ¬ s.routing.busy = true := fun h' => Bool.noConfusion (hb.symm.trans h')
  exact next_congr ((State.onBar_of ho _).trans ((if_neg idle).trans ((if_neg (by omega)).trans ((if_neg (by omega)).trans
    (if_neg (fun h => h ht))))))

/-- The trie that a flip has replaced, kept until its lookups are over. -/
theorem routeFlip_live (s : State) (k : Nat) (new : List Route) (hb : s.routing.built = some (k, new)) (h1 : s.worlds.bench.status = 1)
    (ht : (s.tenantOf (k % 4096)).live = true) (hw : twf [] s.routing.tries = true) : ∃ t, exec .routeFlip s = .next t ∧
      tget [] t.routing.tries k = new ∧ (∀ j, j ≠ k → tget [] t.routing.tries j = tget [] s.routing.tries j) ∧
      t.routing.built = none ∧ t.routing.busy = false ∧ t.routing.done = true ∧ t.routing.trieGen = s.routing.trieGen + 1 ∧
      (tget [] s.routing.tries k ≠ [] → t.routing.old = s.routing.old ++ [tget [] s.routing.tries k]) ∧
      t.routing.terms = s.routing.terms ∧ t = { s with routing := t.routing } := by
  have he : execRouteFlip s = .next { s with routing := { s.routing with
      tries := tset [] k new s.routing.tries
      old := if tget [] s.routing.tries k = [] then s.routing.old else s.routing.old ++ [tget [] s.routing.tries k]
      built := none, busy := false, done := true, trieGen := s.routing.trieGen + 1 } } := by
    unfold execRouteFlip
    dsimp only
    rw [hb]
    exact next_congr ((if_neg (fun h => h h1)).trans (if_neg (fun h => h ht)))
  exact ⟨_, he, tget_tset_same [] k new hw, fun j hj => tget_tset_ne [] new hj _, rfl, rfl, rfl, rfl, fun h => if_neg h, rfl, rfl⟩

theorem routeFlip_retired (s : State) (k : Nat) (new : List Route) (hb : s.routing.built = some (k, new)) (h1 : s.worlds.bench.status = 1)
    (ht : (s.tenantOf (k % 4096)).live = false) : exec .routeFlip s = .next { s with routing := { s.routing with
      busy := false, built := none, refused := true, cause := 2, entry := 0 } } := by
  unfold exec execRouteFlip
  dsimp only
  rw [hb]
  exact next_congr ((if_neg (fun h => h h1)).trans (if_pos (fun h => Bool.noConfusion (ht.symm.trans h))))

/-- Settles O31. The walk's result is found by induction on the list; a lookup, a build and a flip are each one branch, and the trie
that is written is read back. -/
theorem tries : Obligations.Tries := by
  refine ⟨⟨fun s p o hp ho hout hpow => ?_, fun s p o hp ho hout => ?_, fun s l ho hb h1 ht => buildGo_entries s l ho hb h1 ht,
    buildGo_refused, buildGo_failed, routeFlip_live, routeFlip_retired, fun _ => rfl⟩, fun ident rs => ⟨fun i r h => ?_,
      longest_none_iff ident 0 rs⟩⟩
  · obtain ⟨w, hw⟩ := State.wantsLookup_recip (List.mem_filter.mp (List.mem_of_find?_eq_some ho)).2
    have he := (routeLookup_granted hp ho hw).trans (next_congr ((if_neg (by simp [hout])).trans (if_neg (by simp [hpow]))))
    exact ⟨w, _, _, hw, rfl, he, State.lookup_effect _ _ _ _ _⟩
  · obtain ⟨w, hw⟩ := State.wantsLookup_recip (List.mem_filter.mp (List.mem_of_find?_eq_some ho)).2
    exact (routeLookup_granted hp ho hw).trans (next_congr (if_pos hout))
  · obtain ⟨-, hat, hc, hl⟩ := longest_some h
    exact ⟨hat, hc, hl⟩

end Sys2Proof.Machine
end

section
/-!
PROOF of O30: transaction plans.
-/
namespace Sys2Proof.Machine

/-! ### What reading and marks leave alone -/

/-- `t` is `s` with requests sent and marks on operation `op`. -/
structure State.Marks (s : State) (op : Nat) (t : State) : Prop where
  frame : t = { s with sent := t.sent, engine := { s.engine with tasks := t.engine.tasks } }
  others : ∀ j, j ≠ op → t.opOf j = s.opOf j
  here : ∀ {o}, s.opOf op = some o → ∃ x, t.opOf op = some x

namespace State.Marks

variable {s t u : State} {op : Nat}

theorem trans (h : s.Marks op t) (k : t.Marks op u) : s.Marks op u := by
  refine ⟨?_, fun j hj => (k.others j hj).trans (h.others j hj), fun ho => ?_⟩
  · have he := (congrArg State.engine h.frame :)
    refine k.frame.trans ?_
    exact (congrArg (fun x : State => { x with sent := u.sent, engine := { t.engine with tasks := u.engine.tasks } }) h.frame).trans
      (congrArg (fun e : Engine => { s with sent := u.sent, engine := { e with tasks := u.engine.tasks } }) he)
  · obtain ⟨x, hx⟩ := h.here ho
    exact k.here hx

theorem refl (s : State) (op : Nat) : s.Marks op s := ⟨rfl, fun _ _ => rfl, fun h => ⟨_, h⟩⟩

/-- A mark on the operation. -/
theorem modOp (s : State) {op : Nat} {g : Op → Op} (hg : ∀ o, (g o).id = o.id) : s.Marks op (s.modOp op g) :=
  ⟨rfl, fun _ hj => State.opOf_modOp_ne _ _ g s hg hj, fun h => ⟨_, State.opOf_modOp_same op g s hg h⟩⟩

theorem readHost (s : State) (op fn : Nat) (rs : List (Nat × Nat)) : s.Marks op (s.readHost fn rs) := ⟨rfl, fun _ _ => rfl, fun h => ⟨_, h⟩⟩

theorem readLists (s : State) (o : Op) : s.Marks o.id (s.readLists o) := by
  unfold State.readLists
  split
  · exact refl s _
  · exact (readHost s _ _ _).trans (modOp _ fun _ => rfl)

theorem readData (s : State) (o : Op) (dma : Dma) : s.Marks o.id (s.readData o dma) := by
  unfold State.readData
  split
  · exact refl s _
  · exact (readHost s _ _ _).trans (modOp _ fun _ => rfl)

theorem holds (h : s.Marks op t) {o : Op} {n : Nat} (hh : s.Holds o n) : t.Holds o n := by
  rw [h.frame]
  exact hh

theorem slotOf (h : s.Marks op t) (n : Nat) : t.slotOf n = s.slotOf n := by
  rw [h.frame]
  rfl

theorem blockOf (h : s.Marks op t) (b : Nat) : t.blockOf b = s.blockOf b := by
  rw [h.frame]
  rfl

end State.Marks

/-! ### The front stage of PLAN_RUN (R255) -/

/-- The keys of the roles are loaded where each slot holds a key that fits its role. -/
theorem State.loadRoles_of {s : State} {o : Op} (hb : (s.blockOf 0x12).out = false) (k : List KeyCopy → State → State)
    (l : List (Payment.Role × Nat)) (keys : List KeyCopy) (h : ∀ e ∈ l, s.Holds o e.2 ∧ e.1.fits (s.slotOf e.2).attr = true) :
    State.loadRoles o k l keys s = k (keys ++ l.map fun e => copyOf e.2 (s.slotOf e.2)) s := by
  induction l generalizing keys with
  | nil => simp [State.loadRoles]
  | cons e l ih =>
    obtain ⟨⟨hh, hf⟩, hl⟩ := List.forall_mem_cons.mp h
    refine (State.rackAccess_of hb hh _).trans ((if_pos hf).trans ((ih _ hl).trans ?_))
    rw [List.map_cons, List.append_assoc, List.singleton_append]

/-- The state as the front stage of a plan finds it: the lists read, the parameter block with the operation. -/
def State.front (s : State) (o : Op) (dma : Dma) : State :=
  (s.readLists o).modOp o.id fun x => { x with pblk := some (opParams o dma) }

theorem State.marks_front (s : State) (o : Op) (dma : Dma) : s.Marks o.id (s.front o dma) :=
  (State.Marks.readLists s o).trans (State.Marks.modOp _ fun _ => rfl)

/-- PLAN_RUN of a plan without a route whose transaction is not prepared. -/
theorem planRun_unrouted {s : State} {op : Nat} {o : Op} {w : Swage} {dma : Dma} (hb : s.InBlock op 0x0300 o) (hw : o.recip = some w)
    (hp : s.prepared op = none) (hpow : s.powered 28 = true) (hr : w.info.route = 0) :
    exec (.planRun op dma) s = .next ((s.front o dma).planKeys o w dma (opParams o dma) none) := by
  obtain rfl := State.opOf_id hb.1
  refine next_congr ((State.onBlock_of hb _).trans ?_)
  simp only [hw]
  exact (if_neg (by simp [hp])).trans ((if_neg (fun h => h hpow)).trans (if_pos hr))

/-- PLAN_RUN of a routed plan goes by what its lookup found. -/
theorem planRun_routed {s : State} {op : Nat} {o : Op} {w : Swage} {dma : Dma} {e : Nat × Option Nat} (hb : s.InBlock op 0x0300 o)
    (hw : o.recip = some w) (hp : s.prepared op = none) (hpow : s.powered 28 = true) (hr : w.info.route ≠ 0)
    (he : s.routing.lookups.find? (fun e => e.1 == op) = some e) :
    (∀ n, e.2 = some n → exec (.planRun op dma) s = .next ((s.front o dma).planKeys o w dma (opParams o dma) (some n))) ∧
    (e.2 = none → exec (.planRun op dma) s = .next ((s.front o dma).fail op 0x0901 0)) := by
  obtain rfl := State.opOf_id hb.1
  have hl : (s.front o dma).routing.lookups.find? (fun e => e.1 == o.id) = some e := by
    rw [(s.marks_front o dma).frame]
    exact he
  obtain ⟨j, x⟩ := e
  refine ⟨fun n hn => ?_, fun hn => ?_⟩
  all_goals
    refine next_congr ((State.onBlock_of hb _).trans ?_)
    simp only [hw]
    refine (if_neg (by simp [hp])).trans ((if_neg (fun h => h hpow)).trans ((if_neg hr).trans ?_))
    unfold State.front at hl
    simp only [hl]
    obtain rfl := hn
    rfl

/-- A prepared transaction that draws its random bytes goes on to wait for a context. -/
theorem planRun_draws {s : State} {op : Nat} {o : Op} {w : Swage} {dma : Dma} (hb : s.InBlock op 0x0300 o) (hw : o.recip = some w)
    (hp : s.prepared op ≠ none) (hn : w.info.rnd ≠ 0) (hd : s.DrawsNow o) :
    exec (.planRun op dma) s = .next (((s.drew o w.info.rnd (genInst (s.instOf o.fn (dDrbg o.desc)) w.info.rnd []).2).modReady op fun c =>
      { c with random := (genInst (s.instOf o.fn (dDrbg o.desc)) w.info.rnd []).1 }).modOp op fun x => { x with stage := .context }) := by
  obtain rfl := State.opOf_id hb.1
  refine next_congr ((State.onBlock_of hb _).trans ?_)
  simp only [hw]
  refine (if_pos (Option.isSome_iff_ne_none.mpr hp)).trans ((if_neg hn).trans ?_)
  exact State.drawLocal_of hd _ _

/-- The transaction that the front stage prepares. -/
def preparedCtx (o : Op) (w : Swage) (dma : Dma) (ks : List KeyCopy) : Ctx :=
  { op := o.id, plan := w.plan, swage := w, keys := keyRegs ks none, params := opParams o dma, data := opData o dma
    srcList := dma.srcList, dstList := dma.dstList }

/-- A plan without route and random bytes is prepared, and its operation waits for a context. -/
theorem State.planKeys_prepares {s : State} {o : Op} {w : Swage} {dma : Dma} {params : Bytes} (hparams : params = opParams o dma)
    (hb : (s.blockOf 0x12).out = false)
    (hc : check7 o.desc dma (dDlen o.desc) w.info.outMax = none) (hn : w.info.rnd = 0)
    (hk : ∀ e ∈ roleSlots o w.info.roles, s.Holds o e.2 ∧ e.1.fits (s.slotOf e.2).attr = true) :
    s.planKeys o w dma params none = State.modOp o.id (fun x => { x with stage := .context })
      { s.readData o dma with plan := { (s.readData o dma).plan with
        ready := (s.readData o dma).plan.ready ++
          [preparedCtx o w dma ((roleSlots o w.info.roles).map fun e => copyOf e.2 (s.slotOf e.2))] } } := by
  subst hparams
  refine (State.loadRoles_of hb _ _ [] hk).trans ?_
  rw [List.nil_append]
  unfold State.loadRoute State.checkLists
  simp only [hc]
  exact if_pos hn

theorem planRun_prepares (s : State) (op : Nat) (o : Op) (w : Swage) (dma : Dma) (ks : List KeyCopy) (hb : s.InBlock op 0x0300 o)
    (hw : o.recip = some w) (hp : s.prepared op = none) (hpow : s.powered 28 = true) (hout : (s.blockOf 0x12).out = false)
    (hc : check7 o.desc dma (dDlen o.desc) w.info.outMax = none) (hr : w.info.route = 0) (hn : w.info.rnd = 0)
    (hk : ∀ e ∈ roleSlots o w.info.roles, s.Holds o e.2 ∧ e.1.fits (s.slotOf e.2).attr = true)
    (hks : ks = (roleSlots o w.info.roles).map (fun e => copyOf e.2 (s.slotOf e.2))) :
    ∃ c t x, exec (.planRun op dma) s = .next t ∧ t.plan.ready = s.plan.ready ++ [c] ∧ c.op = op ∧ c.plan = w.plan ∧ c.swage = w ∧
      c.keys = keyRegs ks none ∧ c.params = opParams o dma ∧ c.data = opData o dma ∧ c.slot = 0 ∧ t.opOf op = some x ∧
      x.stage = .context ∧ (∀ j, j ≠ op → t.opOf j = s.opOf j) ∧ t.rack = s.rack ∧ t.plan.ctxs = s.plan.ctxs := by
  obtain rfl := State.opOf_id hb.1
  have hf := s.marks_front o dma
  have hd := hf.trans (State.Marks.readData (s.front o dma) o dma)
  obtain ⟨x, hx⟩ := hd.here hb.1
  have hkeys := State.planKeys_prepares (s := s.front o dma) (w := w) (dma := dma) rfl ((hf.blockOf 0x12).symm ▸ hout) hc hn
    fun e he => ⟨hf.holds (hk e he).1, (hf.slotOf e.2).symm ▸ (hk e he).2⟩
  simp only [hf.slotOf] at hkeys
  have hplan : ((s.front o dma).readData o dma).plan = s.plan := (congrArg State.plan hd.frame :)
  have hrack : ((s.front o dma).readData o dma).rack = s.rack := (congrArg State.rack hd.frame :)
  refine ⟨preparedCtx o w dma ks, _, _, (planRun_unrouted hb hw hp hpow hr).trans (next_congr hkeys), ?_, rfl, rfl, rfl, rfl, rfl, rfl, rfl,
    State.opOf_modOp_same o.id (fun x : Op => { x with stage := .context }) _ (fun _ => rfl) hx, rfl, fun j hj => ?_, hrack, ?_⟩
  · rw [hks]
    exact congrArg (fun p : Plan => p.ready ++ _) hplan
  · exact (State.opOf_modOp_ne o.id j (fun x : Op => { x with stage := .context }) _ (fun _ => rfl) hj).trans (hd.others j hj)
  · exact (congrArg Plan.ctxs hplan :)

/-! ### Contexts and the sequencer (R256, R257) -/

theorem planContextStart_takes (s : State) (op : Nat) (o : Op) (c : Ctx) (n : Nat) (ho : s.opOf op = some o) (hc : o.opcode = 0x0300)
    (hg : o.stage = .context) (hp : s.prepared op = some c) (hn : s.freeCtx o.pipeline = some n) (hb : s.behind o = false)
    (hi : s.insertAt op = none) (ht : s.queueTurn o.block = some o.fn) : exec (.planContextStart op) s = .next { s with
      engine := { s.engine with rrLast := tset 255 o.block o.fn s.engine.rrLast }
      plan := { s.plan with
        ready := s.plan.ready.filter fun c => c.op != op, ctxs := tset {} (8 * o.pipeline + n) c s.plan.ctxs } } := by
  refine next_congr ((State.onOp_of ho hc hg _).trans ?_)
  simp only [hp, hn]
  exact if_neg (by simp [hb, hi, ht])

/-- The sequencer's visit to a context of a pipeline. -/
theorem swageSlot_visits {s : State} {p k : Fin 8} (hv : s.visits p.val k.val = true) :
    exec (.swageSlot p k) s = .next (match (s.plan.ctxs.find? fun e => e.1 == 8 * p.val + k.val).map (·.2) with
      | none => { s with plan := { s.plan with turn := tset 0 p.val ((k.val + 1) % 8) s.plan.turn } }
      | some c => State.slotStep (8 * p.val + k.val) c { s with plan := { s.plan with turn := tset 0 p.val ((k.val + 1) % 8) s.plan.turn } }) :=
  next_congr (if_neg (fun h => h hv))

theorem swageSlot_runs (s v : State) (p k : Fin 8) (hv : s.visits p.val k.val = true)
    (hs : v = { s with plan := { s.plan with turn := tset 0 p.val ((k.val + 1) % 8) s.plan.turn } }) :
    (s.plan.ctxs.find? (fun e => e.1 == 8 * p.val + k.val) = none → exec (.swageSlot p k) s = .next v) ∧
    (∀ c, s.plan.ctxs.find? (fun e => e.1 == 8 * p.val + k.val) = some (8 * p.val + k.val, c) →
      (c.slot + 1 < c.swage.info.slots → c.faulted = false → exec (.swageSlot p k) s = .next { v with plan := { v.plan with
        ctxs := tset {} (8 * p.val + k.val) { runSlot (c.swage.slots.getD c.slot {}) c with slot := c.slot + 1 } s.plan.ctxs } }) ∧
      (c.slot + 1 < c.swage.info.slots → c.faulted = true → exec (.swageSlot p k) s = .next { v with plan := { v.plan with
        ctxs := tset {} (8 * p.val + k.val) { c with slot := c.slot + 1 } s.plan.ctxs } }) ∧
      (c.swage.info.slots ≤ c.slot + 1 → c.faulted = false → exec (.swageSlot p k) s =
        .next (State.final c { v with plan := { v.plan with ctxs := s.plan.ctxs.filter fun e => e.1 != 8 * p.val + k.val } }))) := by
  subst hs
  have visit := swageSlot_visits hv
  refine ⟨fun hf => ?_, fun c hf => ?_⟩
  · rw [hf] at visit
    exact visit
  · rw [hf] at visit
    have visit : exec (.swageSlot p k) s = .next (State.slotStep (8 * p.val + k.val) c
      { s with plan := { s.plan with turn := tset 0 p.val ((k.val + 1) % 8) s.plan.turn } }) := visit
    refine ⟨fun hl hn => visit.trans ?_, fun hl hn => visit.trans ?_, fun hl hn => visit.trans (next_congr ((if_neg (Nat.not_lt.mpr hl)).trans ?_))⟩
    · refine next_congr ((if_pos hl).trans ?_)
      simp only [hn]
      rfl
    · refine next_congr ((if_pos hl).trans ?_)
      simp only [hn, if_true]
    · exact if_neg (by simp [hn])

theorem State.final_ends (s : State) (c : Ctx) (o : Op) (ho : s.opOf c.op = some o) :
    (errStatus (ctxEnd c s.free).err (ctxEnd c s.free).slot (ctxEnd c s.free).off c.swage.declared = none → s.final c =
      ((((s.spend 2).modOp c.op fun x => { x with errWord := (ctxEnd c s.free).err }).writeOut o
        { srcList := c.srcList, dstList := c.dstList } (ctxEnd c s.free).out).finish c.op (if c.note = 0 then 0 else 1) c.note
        (ctxEnd c s.free).out.length (leBytes 2 c.plan ++ leBytes 2 c.swage.version.toNat ++ (ctxEnd c s.free).result))) ∧
    (∀ st d, errStatus (ctxEnd c s.free).err (ctxEnd c s.free).slot (ctxEnd c s.free).off c.swage.declared = some (st, d) →
      s.final c = ((s.spend 2).modOp c.op fun x => { x with errWord := (ctxEnd c s.free).err }).fail c.op st d) := by
  refine ⟨fun h => ?_, fun st d h => ?_⟩
  · unfold State.final
    simp only [ho, h]
  · unfold State.final
    simp only [ho, h]

/-! ### PLAN_LOAD and PLAN_UNLOAD (R276 to R278) -/

/-- What becomes of a customer recipe whose lists pass check 7. -/
def State.loadRecipe (op : Nat) (r : Bytes) (s : State) : State :=
  if s.life.ownerHash.isNone then s.fail op 0x0301 s.chip.state.code
  else
    match s.recipeFault r with
    | some f => s.refuseRecipe op f
    | none =>
      match compile r with
      | .error f => s.refuseRecipe op f
      | .ok w =>
        if s.swageFree < w.info.slots then s.fail op 0x0204 (s.swageFree % 65536)
        else (s.install w).finish op 0 0 0 (leBytes 2 w.plan ++ leBytes 2 w.version.toNat ++ leBytes 2 w.info.slots)

theorem planLoad_checked {s : State} {op : Nat} {o : Op} {dma : Dma} (ho : s.opOf op = some o) (hc : o.opcode = 0x0301)
    (hg : o.stage = .channel) (hb : s.benchServes = true) (hm : s.mayStart o = true)
    (h7 : check7 o.desc dma (dDlen o.desc) 0 = none) :
    exec (.planLoad op dma) s = .next ((s.hasRead o dma).loadRecipe op (opData o dma)) :=
  next_congr ((State.onOp_of ho hc hg _).trans ((if_neg (by simp [hb, hm])).trans (State.checked_of h7 _)))

theorem State.hasRead_recipe (s : State) (o : Op) (dma : Dma) :
    (s.hasRead o dma).life = s.life ∧ (s.hasRead o dma).chip = s.chip ∧ (s.hasRead o dma).recipeFault = s.recipeFault := by
  rw [State.hasRead_frame]
  exact ⟨rfl, rfl, rfl⟩

theorem planLoad_answers (s u : State) (op : Nat) (o : Op) (dma : Dma) (ho : s.opOf op = some o) (hc : o.opcode = 0x0301)
    (hg : o.stage = .channel) (hb : s.benchServes = true) (hm : s.mayStart o = true) (h7 : check7 o.desc dma (dDlen o.desc) 0 = none)
    (hu : u = s.hasRead o dma) :
    (∀ w, s.life.ownerHash ≠ none → s.recipeFault (opData o dma) = none → compile (opData o dma) = .ok w →
      (w.info.slots ≤ u.swageFree → exec (.planLoad op dma) s = .next ((u.install w).finish op 0 0 0
        (leBytes 2 w.plan ++ leBytes 2 w.version.toNat ++ leBytes 2 w.info.slots))) ∧
      (u.swageFree < w.info.slots → exec (.planLoad op dma) s = .next (u.fail op 0x0204 (u.swageFree % 65536)))) ∧
    (∀ f, s.life.ownerHash ≠ none → s.recipeFault (opData o dma) = some f → exec (.planLoad op dma) s = .next (u.refuseRecipe op f)) ∧
    (∀ f, s.life.ownerHash ≠ none → s.recipeFault (opData o dma) = none → compile (opData o dma) = .error f →
      exec (.planLoad op dma) s = .next (u.refuseRecipe op f)) ∧
    (s.life.ownerHash = none → exec (.planLoad op dma) s = .next (u.fail op 0x0301 s.chip.state.code)) := by
  have he := planLoad_checked ho hc hg hb hm h7
  obtain ⟨hlife, hchip, hfault⟩ := s.hasRead_recipe o dma
  rw [← hu] at he hlife hchip hfault
  have owned (h : s.life.ownerHash ≠ none) : ¬ u.life.ownerHash.isNone = true := by rwa [hlife, Option.isNone_iff_eq_none]
  refine ⟨fun w h hf hw => ⟨fun hl => ?_, fun hl => ?_⟩, fun f h hf => ?_, fun f h hf hw => ?_, fun h => ?_⟩
  · refine he.trans (next_congr ((if_neg (owned h)).trans ?_))
    simp only [hfault, hf, hw]
    exact if_neg (Nat.not_lt.mpr hl)
  · refine he.trans (next_congr ((if_neg (owned h)).trans ?_))
    simp only [hfault, hf, hw]
    exact if_pos hl
  · refine he.trans (next_congr ((if_neg (owned h)).trans ?_))
    simp only [hfault, hf]
  · refine he.trans (next_congr ((if_neg (owned h)).trans ?_))
    simp only [hfault, hf, hw]
  · refine he.trans (next_congr ((if_pos ?_).trans ?_))
    · rw [hlife, h]
      rfl
    · rw [hchip]

theorem State.fail_swages (id st d : Nat) (s : State) : (s.fail id st d).plan.swages = s.plan.swages := by
  have hr : (((s.unreserve id).modOp id (Op.end_ st d 0 [])).releaseOp id).plan.swages = (s.unreserve id).plan.swages := rfl
  unfold State.fail State.finish
  dsimp only
  split
  · simpa using hr
  · simpa using hr

theorem State.refuseRecipe_ends (s : State) (op : Nat) (o : Op) (f : Nat × Refused) (ho : s.opOf op = some o) :
    (s.refuseRecipe op f).Ended op 0x0102 16 0 [] ∧ (s.refuseRecipe op f).plan.swages = s.plan.swages := by
  unfold State.refuseRecipe State.logRefusal
  have he : (s.logOpen 0x03 0xF2 2750 (leBytes 2 f.1 ++ [BitVec.ofNat 8 f.2.code])).opOf op = some o := by
    rw [State.opOf_congr (s := s) (by simp)]
    exact ho
  refine ⟨State.finish_ended he 0x0102 16 0 [], (State.fail_swages _ _ _ _).trans ?_⟩
  simp

/-! ### The table of swages -/

theorem find_tset_same {α : Type} [DecidableEq α] {d v : α} (k : Nat) (hv : v ≠ d) (t : List (Nat × α)) :
    (tset d k v t).find? (fun e => e.1 == k) = some (k, v) := by
  induction t with
  | nil => simp [tset, hv]
  | cons e t ih =>
    obtain ⟨j, x⟩ := e
    simp only [tset]
    split
    · simp
    · split
      · next h => simp [h]
      · next h => rw [List.find?_cons_of_neg (by simpa using Ne.symm h), ih]

theorem find_tset_ne {α : Type} [DecidableEq α] {d : α} (v : α) {k l : Nat} (h : l ≠ k) (t : List (Nat × α)) :
    (tset d k v t).find? (fun e => e.1 == l) = t.find? fun e => e.1 == l := by
  induction t with
  | nil =>
    simp only [tset]
    split
    · rfl
    · simp [Ne.symm h]
  | cons e t ih =>
    obtain ⟨j, x⟩ := e
    simp only [tset]
    split
    · split
      · rfl
      · rw [List.find?_cons_of_neg (by simpa using Ne.symm h)]
    · split
      · next hk =>
        have hj : ¬ (fun e : Nat × α => e.1 == l) (j, x) = true := by simpa [← hk] using Ne.symm h
        split
        · rw [List.find?_cons_of_neg (p := fun e : Nat × α => e.1 == l) hj]
        · rw [List.find?_cons_of_neg (by simpa using Ne.symm h), List.find?_cons_of_neg (p := fun e : Nat × α => e.1 == l) hj]
      · rw [List.find?_cons, List.find?_cons, ih]

theorem State.install_swageOf (s : State) (w : Swage) (hw : w ≠ {}) :
    (s.install w).swageOf w.plan = some w ∧ ∀ id, id ≠ w.plan → (s.install w).swageOf id = s.swageOf id :=
  ⟨congrArg (Option.map Prod.snd) (find_tset_same w.plan hw _), fun _ h => congrArg (Option.map Prod.snd) (find_tset_ne w h _)⟩

/-- In a table without its default values no entry stands under a key that reads the default. -/
theorem find_eq_none_of_tget {α : Type} [DecidableEq α] {d : α} {t : List (Nat × α)} (hw : twf d t = true) {k : Nat}
    (h : tget d t k = d) : t.find? (fun e => e.1 == k) = none := by
  rw [List.find?_eq_none]
  intro e he hk
  have hek : e.1 = k := by simpa using hk
  exact (exists_mem_iff_tget_ne hw k).mp ⟨e.2, hek ▸ he⟩ h

theorem State.uninstall_swageOf (s : State) (id : Nat) (hw : twf {} s.plan.swages = true) : (s.uninstall id).swageOf id = none :=
  congrArg (Option.map Prod.snd) (find_eq_none_of_tget (twf_tset ({} : Swage) id {} hw) (tget_tset_same ({} : Swage) id {} hw))

theorem planUnload_answers (s : State) (op : Nat) (o : Op) (id : Nat) (ho : s.opOf op = some o) (hc : o.opcode = 0x0302)
    (hg : o.stage = .channel) (hb : s.benchServes = true) (hm : s.mayStart o = true) (hid : id = dPlan o.desc) :
    (512 ≤ id → s.swageOf id ≠ none → exec (.planUnload op) s = .next ((s.uninstall id).finish op 0 0 0 (leBytes 2 id))) ∧
    (id < 512 ∨ s.swageOf id = none → exec (.planUnload op) s = .next (s.fail op 0x0102 10)) := by
  have starts : ¬ (¬ s.benchServes = true ∨ ¬ s.mayStart o = true) := by simp [hb, hm]
  rw [hid]
  refine ⟨fun h hs => ?_, fun h => ?_⟩
  · refine next_congr ((State.onOp_of ho hc hg _).trans ((if_neg starts).trans (if_neg (not_or.mpr ⟨Nat.not_lt.mpr h, ?_⟩))))
    rwa [Option.isNone_iff_eq_none]
  · refine next_congr ((State.onOp_of ho hc hg _).trans ((if_neg starts).trans (if_pos ?_)))
    rwa [Option.isNone_iff_eq_none]

/-- Settles O30. The front stage reads, loads the keys of the roles and prepares the transaction; the sequencer runs one slot a visit;
the table of swages gives back what is installed and nothing under a number that is removed. -/
theorem plans : Obligations.Plans := by
  refine ⟨⟨planRun_prepares, fun s op o w dma hb hw hp hpow hr => ⟨fun e n he hn => ?_, fun e he hn => ?_⟩,
    fun s op o w dma r hb hw hp hn hd hr => hr ▸ planRun_draws hb hw hp hn hd, planContextStart_takes, swageSlot_runs,
    fun s p k hv => next_congr (if_pos (fun h => Bool.noConfusion (hv.symm.trans h))), State.final_ends⟩,
    planLoad_answers, State.refuseRecipe_ends, State.install_swageOf, planUnload_answers, State.uninstall_swageOf⟩
  · obtain rfl := State.opOf_id hb.1
    exact (planRun_routed hb hw hp hpow hr he).1 n hn
  · obtain rfl := State.opOf_id hb.1
    exact (planRun_routed hb hw hp hpow hr he).2 hn

end Sys2Proof.Machine
end

section
/-!
REFUTATION of O32: the clause for a sweep does not ask that the table of the terminal caches is in canonical form.
-/
namespace Sys2Proof.Machine

/-- A state whose table lists the cache of pipeline 0 twice: the first is empty with its sweep count at the last value, the second
holds an entry. A sweep brings the count of the first to 0, so the first is the reset value and leaves the table. -/
def sweepWrapping : State := { routing := { terms := [(0, { sweeps := 0xFFFFFFFF }), (0, { live := [{}] })] } }

/-- The entry of the second listing shows through after the sweep of an empty cache. -/
theorem sweepWrapping_live :
    ∃ t, exec (.terminalSweep 0) sweepWrapping = .next t ∧ (t.termOf 0).live = [{}] := ⟨_, rfl, by decide +kernel⟩

/-- Refutes O32: in `sweepWrapping` the sweep of a cache without entries leaves one. -/
theorem not_learnedTerminals : ¬ Obligations.LearnedTerminals := by
  rintro ⟨-, -, -, hsweep, -⟩
  obtain ⟨t, ht, hlive⟩ := sweepWrapping_live
  obtain ⟨u, hu, hswept, -⟩ := hsweep sweepWrapping 0 (by decide +kernel)
  rw [ht] at hu
  obtain rfl := Host.Outcome.next.inj hu
  have hempty : (sweepWrapping.termOf 0).live.filterMap TermEnt.sweep = [] := by decide +kernel
  exact List.cons_ne_nil _ _ (hlive.symm.trans (hswept.trans hempty))

end Sys2Proof.Machine
end

section
/-!
PROOF of O33: ceremonies open, step and end.
-/
namespace Sys2Proof.Machine

/-! ### Services of the mailbox (R376, R377) -/

theorem State.service_of {s : State} {code : Nat} (h : s.serves code = true) (act : State → State) : s.service code act = act s := if_pos h

theorem State.running_of_serves {s : State} {code : Nat} (h : s.serves code = true) : s.worlds.running = some .mbx := by
  simp only [State.serves, Bool.and_eq_true, beq_iff_eq] at h
  exact h.1

/-- An answer to the mailbox ends the service that runs for it. -/
theorem State.mbxAnswer_running {s : State} (h : s.worlds.running = some .mbx) (st d : Nat) (b : Bytes) :
    (s.mbxAnswer st d b).worlds.running = none := by
  unfold State.mbxAnswer State.mbxRelease
  simp only [h, if_true]
  split
  · simp
  · simp

/-- A draw of the Hearth that has not been served is asked of Bellows. -/
theorem State.hearthDrawJob_asks {s : State} (h : s.bellows.given = none) (hb : s.bellows.state = .ok)
    (hw : s.waitsSeed .hearth = false) {n : Nat} (hn : (n + 15) / 16 ≠ 0) (rate : Nat × Bool) (k : Bytes → State → State)
    (no : State → State) :
    s.hearthDrawJob n rate k no = s.enqueueSeed { who := .hearth, level := 2, blocks := (n + 15) / 16 } := by
  unfold State.hearthDrawJob State.hearthDraw State.request
  simp [h, hb, hw, hn]

/-! ### Opening a ceremony (R199 to R201) -/

/-- CER_OPEN with no ceremony open and every check passed goes on to its draw. -/
theorem cerOpen_admitted {s : State} {b : Bytes} {kind n : Nat} (hs : s.serves 0x40 = true) (hb : b = s.mbxBody)
    (hk : kind = (byteAt b 0).toNat) (hn : n = leAt b 2 2) (hc : s.vault.cer = none) (h1 : 1 ≤ kind) (h7 : kind ≤ 7)
    (hst : s.cerState kind (byteAt b 4).toNat = true) (h0 : byteAt b 1 = 0) (hl : n < 4096) (hp : s.cerParams b kind n = none)
    (he : kind = 3 → s.exportFault b n = none) :
    exec .cerOpen s = .next (s.hearthDrawJob 624 rateP384 (fun r s => s.openCeremony b kind n r) fun s => s.mbxAnswer 0x0402 0 []) := by
  refine next_congr ((State.service_of hs _).trans ?_)
  dsimp only
  rw [← hb, ← hk, ← hn]
  refine (if_neg (by simp [hc])).trans ((if_neg (by omega)).trans ((if_neg (fun h => h hst)).trans ((if_neg (fun h => h h0)).trans
    ((if_neg (Nat.not_le.mpr hl)).trans ?_))))
  have hx : (if kind = 3 then s.exportFault b n else none) = none := by
    split
    · next h => exact he h
    · rfl
  simp only [hp, hx]

/-- A ceremony opens under the next number, with nothing collected. -/
theorem State.openCeremony_opens (b : Bytes) (kind t : Nat) (r : Bytes) {s : State} (h : s.worlds.running = some .mbx) :
    ∃ c, (s.openCeremony b kind t r).vault =
        { s.vault with cer := some c, nextCer := if s.vault.nextCer + 1 = 0 then 1 else s.vault.nextCer + 1 } ∧
      c.id = s.vault.nextCer ∧ c.kind = kind ∧ c.tenant = t ∧ c.need = s.cerNeed b kind t ∧ c.got = [] ∧ c.windowOn = false ∧
      (s.openCeremony b kind t r).rack = s.rack ∧ (s.openCeremony b kind t r).crucible = s.crucible ∧
      (s.openCeremony b kind t r).chip = s.chip ∧ (s.openCeremony b kind t r).worlds.running = none := by
  unfold State.openCeremony
  extract_lets id priv btk mB a c _ u v m
  have hv : v.vault = u.vault ∧ v.rack = u.rack ∧ v.crucible = u.crucible ∧ v.chip = u.chip ∧ v.worlds = u.worlds := by simp [v]
  obtain ⟨hvault, hrack, hcru, hchip, hw⟩ := hv
  have hrun : v.worlds.running = some .mbx := (congrArg Worlds.running hw).trans h
  obtain ⟨t, ht⟩ : ∃ t, t = v.mbxAnswer 0 0 (leBytes 4 id.toNat ++ a ++ p384Sign v.signKeyEc (slice r 32 48) m) := ⟨_, rfl⟩
  rw [← ht]
  have hf : t.vault = v.vault ∧ t.rack = v.rack ∧ t.crucible = v.crucible ∧ t.chip = v.chip := by simp [ht]
  obtain ⟨hvault', hrack', hcru', hchip'⟩ := hf
  exact ⟨c, hvault'.trans hvault, rfl, rfl, rfl, rfl, rfl, rfl, hrack'.trans hrack, hcru'.trans hcru, hchip'.trans hchip,
    ht ▸ State.mbxAnswer_running hrun _ _ _⟩

theorem cerOpen_opens (s : State) (b : Bytes) (kind n : Nat) (hs : s.serves 0x40 = true) (hb : b = s.mbxBody)
    (hk : kind = (byteAt b 0).toNat) (hn : n = leAt b 2 2) (hc : s.vault.cer = none) (h1 : 1 ≤ kind) (h7 : kind ≤ 7)
    (hst : s.cerState kind (byteAt b 4).toNat = true) (h0 : byteAt b 1 = 0) (hl : n < 4096) (hp : s.cerParams b kind n = none)
    (he : kind = 3 → s.exportFault b n = none) :
    (s.bellows.given = none → s.bellows.state = .ok → s.waitsSeed .hearth = false →
      exec .cerOpen s = .next (s.enqueueSeed { who := .hearth, level := 2, blocks := 39 })) ∧
    (∀ r, s.bellows.given = some r → s.HearthUnit → ∃ t c, exec .cerOpen s = .next t ∧ t.vault.cer = some c ∧
      c.id = s.vault.nextCer ∧ c.kind = kind ∧ c.tenant = n ∧
      c.need = s.cerNeed b kind n ∧ c.got = [] ∧ c.windowOn = false ∧
      t.vault.nextCer = (if s.vault.nextCer + 1 = 0 then 1 else s.vault.nextCer + 1) ∧
      t.rack = s.rack ∧ t.vault.tenants = s.vault.tenants ∧ t.crucible = s.crucible ∧ t.chip = s.chip ∧
      t.worlds.running = none) := by
  have ha := cerOpen_admitted hs hb hk hn hc h1 h7 hst h0 hl hp he
  refine ⟨fun hg hok hw => ha.trans (next_congr (State.hearthDrawJob_asks hg hok hw (by decide) _ _ _)), fun r hg hu => ?_⟩
  obtain ⟨c, hvault, hid, hkind, hten, hneed, hgot, hwin, hrack, hcru, hchip, hrun⟩ :=
    State.openCeremony_opens (s := s.hearthRuns) b kind n (r.take 624) (State.running_of_serves hs)
  exact ⟨_, c, ha.trans (next_congr (State.hearthDrawJob_of hu hg 624 _ _ _)), (congrArg Vault.cer hvault :), hid, hkind, hten, hneed, hgot,
    hwin, (congrArg Vault.nextCer hvault :), hrack, (congrArg Vault.tenants hvault :), hcru, hchip, hrun⟩

/-- CER_OPEN with a ceremony open is refused. -/
theorem cerOpen_refused (s : State) (hs : s.serves 0x40 = true) (hc : s.vault.cer.isSome = true) :
    ∃ t, exec .cerOpen s = .next t ∧ t.vault = s.vault ∧ t.rack = s.rack ∧ t.worlds.running = none := by
  have hrun : (s.logOpen 0x06 0xF1 1990 []).worlds.running = some .mbx := by simpa using State.running_of_serves hs
  exact ⟨_, next_congr ((State.service_of hs _).trans (if_pos hc)), by simp [State.cerRefuse], by simp [State.cerRefuse],
    State.mbxAnswer_running hrun _ _ _⟩

/-! ### Steps (R203 to R205) -/

theorem cerStep_steps (s : State) (c : Ceremony) (b : Bytes) (hs : s.serves 0x41 = true) (hb : b = s.mbxBody)
    (hc : s.namedCer = some c) (hn : s.cards.session = none) (hst : s.cerState c.kind (c.at_ 4 1) = true) :
    (leAt b 8 4 = c.nextStep.toNat → stepFault b = none → s.bellows.given = none → s.bellows.state = .ok → s.waitsSeed .hearth = false →
      exec .cerStep s = .next (s.enqueueSeed { who := .hearth, level := 2, blocks := 9 })) ∧
    (∀ r, leAt b 8 4 = c.nextStep.toNat → stepFault b = none → s.bellows.given = some r → s.HearthUnit →
      exec .cerStep s = .next (s.hearthRuns.beginStep b c (r.take 136))) ∧
    (∀ f, leAt b 8 4 = c.nextStep.toNat → stepFault b = some f →
      exec .cerStep s = .next ((s.setCer { c with nextStep := c.nextStep + 1 }).cerBadField f)) ∧
    (leAt b 8 4 ≠ c.nextStep.toNat → exec .cerStep s = .next s.mbxConflict) := by
  subst hb

  have hn : ¬ s.cards.session.isSome = true := by simp [hn]
  refine ⟨fun hl hf hg hok hw => ?_, fun r hl hf hg hu => ?_, fun f hl hf => ?_, fun hl => ?_⟩
  all_goals
    refine next_congr ((State.service_of hs _).trans ?_)
    simp only [hc]
    refine (if_neg hn).trans ((if_neg (fun h => h hst)).trans ?_)
  · refine (if_neg (fun h => h hl)).trans ?_
    simp only [hf]
    exact State.hearthDrawJob_asks hg hok hw (by decide) _ _ _
  · refine (if_neg (fun h => h hl)).trans ?_
    simp only [hf]
    exact State.hearthDrawJob_of hu hg 136 _ _ _
  · refine (if_neg (fun h => h hl)).trans ?_
    simp only [hf]
  · exact if_pos hl

/-- What a step leaves of its ceremony: one under way, with the next number and what was accepted. -/
def State.StepTaken (c : Ceremony) (t : State) : Prop := ∃ x, t.vault.cer = some x ∧ x.nextStep = c.nextStep + 1 ∧ x.got = c.got

theorem State.StepTaken.of_vault {c : Ceremony} {s t : State} (h : s.StepTaken c) (hv : t.vault = s.vault) : t.StepTaken c := by
  unfold State.StepTaken
  rw [hv]
  exact h

theorem State.stepResult_vault (x : Session) (r : Nat) (s : State) : (s.stepResult x r).vault = s.vault := by
  unfold State.stepResult
  dsimp only
  split
  · simp
  · split
    · simp
    · simp

theorem State.cardStatus_vault {x : Session} (hx : x.op = none) (st d : Nat) (s : State) : (s.cardStatus x st d).vault = s.vault := by
  unfold State.cardStatus
  simp only [hx]
  rcases s.endSession.vault.cer with _ | c
  · dsimp only
    split <;> simp
  · dsimp only
    split <;> simp

theorem State.startSession_vault {x : Session} (hx : x.op = none) (s : State) : (s.startSession x).vault = s.vault := by
  unfold State.startSession
  split
  · exact State.cardStatus_vault hx _ _ _
  · split
    · exact (State.cardStatus_vault hx _ _ _).trans (by simp)
    · rfl

theorem State.StepTaken.openWindow {c : Ceremony} {s : State} (h : s.StepTaken c) : s.openWindow.StepTaken c := by
  obtain ⟨x, hx, hn, hg⟩ := h
  unfold State.openWindow
  simp only [hx]
  split
  · exact ⟨x, hx, hn, hg⟩
  · exact ⟨_, rfl, hn, hg⟩

theorem State.beginStep_takes (s : State) (c : Ceremony) (b r : Bytes) : (s.beginStep b c r).StepTaken c := by
  unfold State.beginStep
  extract_lets n x u
  have hu : u.StepTaken c := ⟨_, rfl, rfl, rfl⟩
  split
  · exact hu.of_vault (State.stepResult_vault _ _ _)
  · have hv : (u.startSession x).StepTaken c := hu.of_vault (State.startSession_vault rfl _)
    split
    · exact hv.openWindow
    · exact hv

/-! ### The end of a ceremony (R200) -/

theorem State.endCeremony_vault (r : Nat) (s : State) : (s.endCeremony r).vault = { s.vault with cer := none } := by
  unfold State.endCeremony
  split
  · next h => rw [← h]
  · dsimp only
    split
    · split
      · split <;> simp
      · simp
    · simp

/-- CER_STATUS with a ceremony answers its state. -/
theorem cerStatus_open {s : State} {c : Ceremony} (hs : s.serves 0x44 = true) (hc : s.vault.cer = some c) :
    ∃ b, exec .cerStatus s = .next (s.mbxAnswer 0 0 b) ∧ b.length = 16 ∧ b.take 4 = leBytes 4 c.id.toNat ∧
      slice b 4 1 = leBytes 1 c.kind ∧ slice b 8 4 = leBytes 4 c.nextStep.toNat := by
  have answers : ∃ x y z left, exec .cerStatus s = .next (s.mbxAnswer 0 0 (leBytes 4 c.id.toNat ++ leBytes 1 c.kind ++ leBytes 1 x ++
      leBytes 1 y ++ leBytes 1 z ++ leBytes 4 c.nextStep.toNat ++ leBytes 4 left)) := by
    refine ⟨c.cstate, c.count ((c.short.or c.need.getLast?).getD (0, 0)).1, ((c.short.or c.need.getLast?).getD (0, 0)).2,
      if c.windowOn then (c.windowEnd - s.now) / 1000000000 else s.setting 0x07 * 60,
      next_congr ((State.service_of hs _).trans ?_)⟩
    simp only [hc]
  obtain ⟨x, y, z, left, h⟩ := answers
  exact ⟨_, h, by simp [leBytes_length], rfl, rfl, rfl⟩

/-- Settles O33. A ceremony opens, takes a step or is refused by one branch each; whatever ends it leaves the store of the Hearth but
for the ceremony. -/
theorem ceremonySteps : Obligations.CeremonySteps := by
  refine ⟨⟨cerOpen_opens, cerOpen_refused, cerStep_steps, State.beginStep_takes⟩, ⟨fun s c hs hc hst => ?_, fun s c hc =>
    ⟨fun h => ?_, fun h => ?_, fun h => ?_, fun h => ?_⟩, fun s r => ?_⟩, fun s hs hc => ?_, fun s c hs hc => ?_, fun s hs hq hl => ?_,
    fun s hs hq hl => ?_, fun s hs hq => ?_⟩
  · refine next_congr ((State.service_of hs _).trans ?_)
    simp only [hc]
    exact if_pos hst
  · unfold exec execCeremonyWindowExpiry
    simp only [hc, h, if_true]
  · unfold exec execCeremonyWindowExpiry
    simp only [hc, h, Bool.false_eq_true, if_false]
  · unfold exec execCeremonyIdleLimit
    simp only [hc, h, if_true]
  · unfold exec execCeremonyIdleLimit
    simp only [hc, h, if_false]
  · rw [State.endCeremony_vault]
    simp
  · refine next_congr ((State.service_of hs _).trans ?_)
    simp only [hc]
  · exact cerStatus_open hs hc
  · exact next_congr ((State.service_of hs _).trans ((if_neg hq).trans (if_neg (Nat.not_le.mpr hl))))
  · exact next_congr ((State.service_of hs _).trans ((if_neg hq).trans (if_pos hl)))
  · exact next_congr ((State.service_of hs _).trans (if_pos hq))

end Sys2Proof.Machine
end

section
/-!
PROOF of O34: ceremony commits and attestation.
-/
namespace Sys2Proof.Machine

/-! ### Commits (R209, R214, R215) -/

theorem State.cerDone_frame (c : Ceremony) (outcome : Nat) (body : Bytes) (s : State) :
    (s.cerDone c outcome body).vault = { s.vault with cer := none } ∧ (s.cerDone c outcome body).chip = s.chip ∧
    (s.cerDone c outcome body).rack = s.rack ∧ (s.cerDone c outcome body).crucible = s.crucible := by
  unfold State.cerDone
  simp

theorem State.enterReady_frame (s : State) : s.enterReady.vault = s.vault ∧ s.enterReady.rack = s.rack ∧
    s.enterReady.crucible = s.crucible ∧ s.enterReady.chip = { s.chip with keyBus := true, endState := .ready, state := .ready } := by
  unfold State.enterReady
  simp [State.setChip_chip]

theorem State.commitUnlock_unlocks (s : State) (c : Ceremony) (card : SdCard) (sd : SdRead) (hk : c.kind = 4)
    (hp : s.persists 2 true = false) :
    (s.commit c card sd).chip.state = .ready ∧ (s.commit c card sd).chip.keyBus = true ∧ (s.commit c card sd).vault.cer = none ∧
    (s.commit c card sd).crucible.latchSrc = 0 ∧ (s.commit c card sd).crucible.latchCls = 0 ∧ (s.commit c card sd).rack = s.rack ∧
    (s.commit c card sd).crucible.drk = s.crucible.drk ∧ (s.commit c card sd).vault.tenants = s.vault.tenants := by
  have h : s.commit c card sd = s.clearLatch.enterReady.cerDone c 0 [] := by
    have hc : s.commit c card sd = s.commitUnlock c := by
      unfold State.commit
      rw [if_neg (by omega), if_neg (by omega), if_neg (by omega), if_pos hk]
    exact hc.trans (if_neg (fun h => Bool.noConfusion (hp.symm.trans h)))
  obtain ⟨hv, hchip, hrack, hcru⟩ := State.cerDone_frame c 0 [] s.clearLatch.enterReady
  obtain ⟨hv', hrack', hcru', hchip'⟩ := s.clearLatch.enterReady_frame
  rw [h, hv, hchip, hrack, hcru, hv', hrack', hcru', hchip']
  exact ⟨rfl, rfl, rfl, rfl, rfl, rfl, rfl, rfl⟩

/-- Taking tenants out of the functions' lists leaves the Crucible alone. -/
theorem State.unbindTo_crucible (t : Nat) (new : BitVec 256) (s : State) : (s.unbindTo t new).crucible = s.crucible := by
  refine foldl_of_kept State.crucible (fun u f => ?_) _ s
  unfold State.unbind
  dsimp only
  split
  · simp
  · rfl

/-- A new root in the Crucible, and the store of the Hearth without what belonged to the old one. -/
def State.withRoot (c : Ceremony) (r : Bytes) (s : State) : State :=
  { s with
    crucible := { s.crucible with
      drk := BitVec.ofNat 256 (beNat (r.take 32)), maskSeed := BitVec.ofNat 256 (beAt r 32 32)
      drkCheck := BitVec.ofNat 128 (beNat (drkCheckOf (r.take 32))), rootGen := s.crucible.rootGen + 1 }
    vault := { s.vault with
      sets := []
      btk := c.btk, tenants := [], kept := [], quotaDirty := [], areas := [], areaKeys := [], nextCer := 1, lcTarget := none }
    tamper := { s.tamper with keptClasses := [] } }

/-- The region sealed under the new root, with its first set and tenant. -/
def State.formatted (c : Ceremony) (s : State) : State :=
  (((if c.btk.isSome then s.wroteRegion 32 else s).sealRegion).writeSet 0 { n := c.at_ 4 1, m := c.at_ 5 1, cards := c.hashes }).writeTenant 0
    { live := true, bind := 1 }

/-- The functions without the tenants of the old root. -/
def State.tenantsUnbound (s : State) : State := s.vault.tenants.foldl (fun s e => s.unbindTo e.1 (if e.1 = 0 then 1 else 0)) s

theorem State.tenantsUnbound_crucible (s : State) : s.tenantsUnbound.crucible = s.crucible :=
  foldl_of_kept State.crucible (fun u (e : Nat × Tenant) => State.unbindTo_crucible e.1 (if e.1 = 0 then 1 else 0) u) _ s

theorem State.commitRoot_eq {s : State} {c : Ceremony} {r : Bytes} (hp : s.persists 3 false = false) (hd : s.crucible.drk = 0)
    (hm : s.crucible.maskSeed = 0) (hk : s.crucible.drkCheck = 0) :
    s.commitRoot c r =
      ((((s.tenantsUnbound.withRoot c r).formatted c).clearLatch.forgetLmk.bootMask (slice r 64 32)).enterReady.cerDone c 0 []) :=
  if_neg (by rintro (h | h | h | h); exacts [Bool.noConfusion (hp.symm.trans h), h hd, h hm, h hk])

theorem State.commitRoot_refused {s : State} {c : Ceremony} {r : Bytes}
    (h : s.crucible.drk ≠ 0 ∨ s.crucible.maskSeed ≠ 0 ∨ s.crucible.drkCheck ≠ 0) : s.commitRoot c r = s.mbxConflict :=
  if_pos (.inr h)

theorem State.wroteRegion_frame (n : Nat) (s : State) : (s.wroteRegion n).crucible = s.crucible ∧ (s.wroteRegion n).vault = s.vault :=
  ⟨rfl, rfl⟩

theorem State.writeSet_frame (n : Nat) (x : CustSet) (s : State) : (s.writeSet n x).crucible = s.crucible ∧
    (s.writeSet n x).vault = { s.vault with sets := tset {} n x s.vault.sets } := State.wroteRegion_frame _ _

theorem State.writeTenant_frame (t : Nat) (e : Tenant) (s : State) : (s.writeTenant t e).crucible = s.crucible ∧
    (s.writeTenant t e).vault = { s.vault with tenants := tset {} t e s.vault.tenants
                                               kept := tset {} t { e with slotsUsed := 0 } s.vault.kept } := State.wroteRegion_frame _ _

theorem State.formatted_frame (c : Ceremony) (s : State) : (s.formatted c).crucible = s.crucible ∧
    (s.formatted c).vault.nextCer = s.vault.nextCer ∧ (s.formatted c).vault.btk = s.vault.btk ∧
    (s.formatted c).vault.sets = tset {} 0 { n := c.at_ 4 1, m := c.at_ 5 1, cards := c.hashes } s.vault.sets ∧
    (s.formatted c).vault.tenants = tset {} 0 { live := true, bind := 1 } s.vault.tenants := by
  unfold State.formatted
  generalize hu : (if c.btk.isSome then s.wroteRegion 32 else s) = u
  have h : u.crucible = s.crucible ∧ u.vault = s.vault := by
    subst hu
    split
    · exact State.wroteRegion_frame 32 s
    · exact ⟨rfl, rfl⟩
  obtain ⟨hc, hv⟩ := h
  rw [(State.writeTenant_frame _ _ _).1, (State.writeTenant_frame _ _ _).2, (State.writeSet_frame _ _ _).1, (State.writeSet_frame _ _ _).2]
  unfold State.sealRegion
  rw [hc, hv]
  exact ⟨rfl, rfl, rfl, rfl, rfl⟩

theorem State.commit_root {s : State} {c : Ceremony} {g : Bytes} (card : SdCard) (sd : SdRead) (hk : c.kind = 6)
    (hg : s.bellows.given = some g) : s.commit c card sd = s.tookDraw.commitRoot c (g.take 96) := by
  unfold State.commit
  rw [if_neg (by omega), if_neg (by omega), if_neg (by omega), if_neg (by omega), if_pos hk]
  exact State.hearthDraw_of hg 96 _ _

theorem State.commitRoot_roots (s : State) (c : Ceremony) (card : SdCard) (sd : SdRead) (g r : Bytes) (hk : c.kind = 6)
    (hp : s.persists 3 false = false) (hg : s.bellows.given = some g) (hr : r = g.take 96) (hd : s.crucible.drk = 0)
    (hm : s.crucible.maskSeed = 0) (hx : s.crucible.drkCheck = 0) :
    (s.commit c card sd).chip.state = .ready ∧ (s.commit c card sd).vault.cer = none ∧
    (s.commit c card sd).crucible.drk = BitVec.ofNat 256 (beNat (r.take 32)) ∧
    (s.commit c card sd).crucible.maskSeed = BitVec.ofNat 256 (beAt r 32 32) ∧
    (s.commit c card sd).crucible.rootGen = s.crucible.rootGen + 1 ∧ (s.commit c card sd).vault.nextCer = 1 ∧
    (s.commit c card sd).vault.btk = c.btk ∧ (s.commit c card sd).crucible.latchSrc = 0 ∧ ((s.commit c card sd).tenantOf 0).live = true ∧
    (∀ n, n ≠ 0 → ((s.commit c card sd).tenantOf n).live = false) ∧
    tget {} (s.commit c card sd).vault.sets 0 = { n := c.at_ 4 1, m := c.at_ 5 1, cards := c.hashes } ∧
    ∀ n, n ≠ 0 → tget {} (s.commit c card sd).vault.sets n = {} := by
  subst hr
  generalize hu : s.tookDraw.tenantsUnbound.withRoot c (g.take 96) = u
  have hc := (State.commit_root card sd hk hg).trans (State.commitRoot_eq (s := s.tookDraw) hp hd hm hx)
  rw [hu] at hc
  obtain ⟨hcru, hnext, hbtk, hsets, htens⟩ := State.formatted_frame c u
  obtain ⟨hv, hchip, hrack, hcru₂⟩ := State.cerDone_frame c 0 []
    ((u.formatted c).clearLatch.forgetLmk.bootMask (slice (g.take 96) 64 32)).enterReady
  obtain ⟨hv', hrack', hcru', hchip'⟩ := ((u.formatted c).clearLatch.forgetLmk.bootMask (slice (g.take 96) 64 32)).enterReady_frame
  have hlatch : ((u.formatted c).clearLatch.forgetLmk.bootMask (slice (g.take 96) 64 32)).crucible =
      { (u.formatted c).crucible with latchSrc := 0, latchCls := 0, latchFirst := 0, latchLast := 0 } := rfl
  have hvault : ((u.formatted c).clearLatch.forgetLmk.bootMask (slice (g.take 96) 64 32)).vault =
      { (u.formatted c).vault with highCls := 0 } := rfl
  unfold State.tenantOf
  rw [hc, hv, hchip, hcru₂, hv', hcru', hchip', hlatch, hvault, hcru]
  have hgen : u.crucible.rootGen = s.crucible.rootGen + 1 := by
    rw [← hu]
    exact congrArg (fun k : Crucible => k.rootGen + 1) s.tookDraw.tenantsUnbound_crucible
  have hten : (u.formatted c).vault.tenants = [(0, { live := true, bind := 1 })] := by
    rw [htens, ← hu]
    rfl
  have hset : (u.formatted c).vault.sets = tset {} 0 { n := c.at_ 4 1, m := c.at_ 5 1, cards := c.hashes } [] := by
    rw [hsets, ← hu]
    rfl
  refine ⟨rfl, rfl, by rw [← hu]; rfl, by rw [← hu]; rfl, hgen, hnext.trans (by rw [← hu]; rfl), hbtk.trans (by rw [← hu]; rfl), rfl,
    ?_, fun n hn => ?_, ?_, fun n hn => ?_⟩
  · exact congrArg (fun t => (tget ({} : Tenant) t 0).live) hten
  · refine (congrArg (fun t => (tget ({} : Tenant) t n).live) hten).trans ?_
    rw [tget_cons, if_neg (Ne.symm hn)]
    rfl
  · exact (congrArg (fun t => tget ({} : CustSet) t 0) hset).trans (tget_tset_same _ _ _ rfl)
  · exact (congrArg (fun t => tget ({} : CustSet) t n) hset).trans (tget_tset_ne _ _ hn _)

/-! ### Attestation (R224 to R226) -/

theorem State.report96_fields (s : State) (ch : Bytes) : (s.report96 ch).length = 96 ∧
    (s.report96 ch).take 6 = ascii "ZYAR" ++ [0x01, 0x10] ∧ (s.report96 ch).drop 64 = fit 32 ch := by
  have hl : (s.report96 ch).length = 96 := by
    unfold State.report96
    simp [leBytes_length, fit_length, ascii]
  refine ⟨hl, ?_, ?_⟩
  · unfold State.report96
    simp only [List.append_assoc]
    rfl
  · unfold State.report96
    dsimp only
    refine List.drop_left' ?_
    simp [leBytes_length, ascii]

/-- The signing keys and the report do not depend on what a job has drawn or read. -/
theorem attestSign_signs (s v : State) (op : Nat) (o : Op) (dma : Dma) (n r out : Bytes) (hs : s.Serving op 0x0610 o)
    (hc : check7 o.desc dma 0 3501 = none) (hn : o.seed = some n) (hu : s.HearthUnit)
    (hv : v = State.used op (((s.hasRead o dma).drewBlind shareBytes).drewBlind shareBytes)) (hr : r = s.report96 (opParams o dma))
    (hout : out = r ++ p384Sign s.signKeyEc (n.take 48) r ++
      Mldsa.sign 65 (Mldsa.keygen 65 (fit 32 (s.unwrapped s.trims.signMl))).2 [] r (n.drop 48)) :
    exec (.attestSign op dma) s = .next ((v.writeOut o dma out).finish op 0 0 out.length []) := by
  obtain rfl := State.opOf_id hs.1
  have hm : s.Marks o.id (s.hasRead o dma) := (State.Marks.readLists s o).trans (State.Marks.readData _ o dma)
  have hread : (s.hasRead o dma).HearthUnit := by
    rw [hm.frame]
    exact hu
  have hsame : v.report96 = s.report96 ∧ v.signKeyEc = s.signKeyEc ∧ v.unwrapped = s.unwrapped ∧ v.trims = s.trims := by
    rw [hv, hm.frame]
    exact ⟨rfl, rfl, rfl, rfl⟩
  refine next_congr ((State.onService_of hs _).trans ((State.checked_of hc _).trans ?_))
  refine (if_pos (by rw [hn]; rfl)).trans ?_
  refine (State.hearthJob_of hread _ _).trans ((State.hearthJob_of (s := (s.hasRead o dma).drewBlind shareBytes) hread _ _).trans ?_)
  refine (State.gated_of (.inl hn) _).trans ?_
  rw [← hv]
  unfold State.signReport
  rw [hsame.1, hsame.2.1, hsame.2.2.1, hsame.2.2.2, hout, hr]

/-- Settles O34. A commit takes one branch of its kind; what an UNLOCK and a NEW_ROOT leave behind is read off the state they write.
A report and its signatures are the same for every state that differs in draws and reads alone. -/
theorem ceremonyCommitsAndAttestation : Obligations.CeremonyCommitsAndAttestation := by
  refine ⟨⟨fun s c card sd role n hs hc hst hsh => ?_, fun s c card sd hs hc hst hsh => ?_, State.commitUnlock_unlocks,
    State.commitRoot_roots, fun s c card sd r hk hg h => (State.commit_root card sd hk hg).trans (State.commitRoot_refused h)⟩,
    fun s r hs hst hr => ?_, attestSign_signs, fun s op o dma c hs hc hcert => ?_, State.report96_fields⟩
  · refine next_congr ((State.service_of hs _).trans ?_)
    simp only [hc]
    refine (if_neg (fun h => h hst)).trans ?_
    simp only [hsh]
  · refine next_congr ((State.service_of hs _).trans ?_)
    simp only [hc]
    refine (if_neg (fun h => h hst)).trans ?_
    simp only [hsh]
  · rw [hr]
    exact next_congr ((State.service_of hs _).trans (if_neg (fun h => h hst)))
  · obtain rfl := State.opOf_id hs.1
    rw [hcert]
    exact next_congr ((State.onService_of hs _).trans (State.serviceOut_of hc _ _))

end Sys2Proof.Machine
end

section
/-!
PROOF of O35: life-cycle transitions, tokens, debug scopes and boundary scan.
-/
namespace Sys2Proof.Machine

/-! ### A transition and the reset at its end (R449, R450) -/

theorem State.loseCeremony_keeps (s : State) : s.loseCeremony.vault.sets = s.vault.sets ∧ s.loseCeremony.vault.btk = s.vault.btk ∧
    s.loseCeremony.store = s.store := by
  unfold State.loseCeremony
  split
  · simp
  · exact ⟨rfl, rfl, rfl⟩

theorem State.flushStore_of_empty {s : State} (hq : s.store.queue = []) (hd : s.store.dropped = 0) :
    s.flushStore.store.records = s.store.records := by
  have hf : s.flushRecords (s.store.queue.length + 1) = s := by
    rw [hq]
    unfold State.flushRecords
    rw [hq]
    exact if_pos (.inl hd)
  unfold State.flushStore
  rw [hf]
  rfl

/-- What a reset of the chip outside a Quench leaves of the store of the Hearth, the fuses and the trims. -/
theorem State.chipReset_leaves {s : State} (hq : s.tamper.quench = false) (c : Nat) :
    (s.chipReset c).life.stage = s.life.stage ∧ (s.chipReset c).life.tokenUsed = s.life.tokenUsed ∧
    (s.chipReset c).crucible = s.crucible ∧ (s.chipReset c).trims = s.trims ∧ (s.chipReset c).vault.sets = s.vault.sets ∧
    (s.chipReset c).vault.btk = s.vault.btk ∧ (s.chipReset c).rack = {} ∧ (s.chipReset c).chip.state = .start ∧
    (s.chipReset c).chip.resetCause = c ∧
    (s.store.queue = [] → s.store.dropped = 0 → (s.chipReset c).store.records = s.store.records) := by
  obtain ⟨hsets, hbtk, hstore⟩ := s.loseCeremony_keeps
  have h₁ := s.loseCeremony_only
  have h₂ : s.loseCeremony.flushStore = { s.loseCeremony with store := s.loseCeremony.flushStore.store } :=
    s.loseCeremony.flushStore_storeOnly
  have hrec : s.store.queue = [] → s.store.dropped = 0 → s.loseCeremony.flushStore.store.records = s.store.records := fun hq hd =>
    (State.flushStore_of_empty (hstore ▸ hq) (hstore ▸ hd)).trans (congrArg Store.records hstore)
  rw [State.chipReset_of_no_quench hq c]
  generalize hu : s.loseCeremony.flushStore = u at h₂ hrec
  have hlife : u.life = s.life := by rw [h₂, h₁]
  have hcru : u.crucible = s.crucible := by rw [h₂, h₁]
  have htrims : u.trims = s.trims := by rw [h₂, h₁]
  have hvault : u.vault = s.loseCeremony.vault := by rw [h₂]
  exact ⟨(congrArg Life.stage hlife :), (congrArg Life.tokenUsed hlife :), hcru, htrims, (congrArg Vault.sets hvault).trans hsets,
    (congrArg Vault.btk hvault).trans hbtk, rfl, rfl, rfl, hrec⟩

/-- What every wipe leaves: the fuses and a Quench as they were, no root and no custodian data. -/
structure State.Wiped (s t : State) : Prop where
  life : t.life = s.life
  quench : t.tamper.quench = s.tamper.quench
  drk : t.crucible.drk = 0
  sets : t.vault.sets = []
  btk : t.vault.btk = none

/-- What the full wipe of SCRAP leaves besides. -/
structure State.Scrapped (t : State) : Prop where
  identity : t.trims.identity = 0
  records : t.store.records = []
  rootGen : t.crucible.rootGen = 0
  queue : t.store.queue = []
  dropped : t.store.dropped = 0

theorem State.userWiped_wiped {s t : State} (h : s.StoreOnly t) : s.Wiped t.userWiped := by
  unfold State.StoreOnly at h
  rw [h]
  exact ⟨rfl, rfl, rfl, rfl, rfl⟩

theorem State.countWrites_storeOnly (k n : Nat) (s : State) : s.StoreOnly (s.countWrites k n) := rfl

theorem State.foldl_countWrites_storeOnly (l : List (Nat × Nat)) (s : State) :
    s.StoreOnly (l.foldl (fun s w => s.countWrites w.1 w.2) s) := by
  induction l generalizing s with
  | nil => rfl
  | cons w l ih => exact (State.countWrites_storeOnly w.1 w.2 s).trans (ih _)

theorem State.userWipe_wiped (s : State) : s.Wiped s.userWipe := by
  rw [State.userWipe_eq]
  exact State.userWiped_wiped (State.foldl_countWrites_storeOnly _ s)

theorem State.fullWipe_wiped (s : State) : s.Wiped s.fullWipe ∧ s.fullWipe.Scrapped := by
  have h := s.userWipe_wiped
  unfold State.fullWipe
  generalize s.userWipe = u at h
  exact ⟨⟨h.life, h.quench, h.drk, h.sets, h.btk⟩, rfl, rfl, rfl, rfl, rfl⟩

theorem State.wipeFor_wiped (s : State) {n : Nat} (h3 : 3 ≤ n) : s.Wiped (s.wipeFor n) ∧ (n = 6 → (s.wipeFor n).Scrapped) := by
  unfold State.wipeFor
  by_cases h6 : n = 6
  · rw [if_pos h6]
    exact ⟨s.fullWipe_wiped.1, fun _ => s.fullWipe_wiped.2⟩
  · rw [if_neg h6, if_pos h3]
    exact ⟨s.userWipe_wiped, fun h => absurd h h6⟩

/-- A wipe with its mark (R449). -/
theorem State.markedWipe_wipes (s : State) {n : Nat} (h3 : 3 ≤ n) : s.Wiped (s.markedWipe n) ∧ (n = 6 → (s.markedWipe n).Scrapped) := by
  obtain ⟨h, h'⟩ := State.wipeFor_wiped (State.countWrites 5 1 { s with trims := { s.trims with wipePending := some n } }) h3
  unfold State.markedWipe
  generalize State.wipeFor n (State.countWrites 5 1 { s with trims := { s.trims with wipePending := some n } }) = u at h h'
  exact ⟨⟨h.life, h.quench, h.drk, h.sets, h.btk⟩, fun h6 =>
    ⟨(h' h6).identity, (h' h6).records, (h' h6).rootGen, (h' h6).queue, (h' h6).dropped⟩⟩

theorem State.transition_stages (s : State) (n b : Nat) (h3 : 3 ≤ n) (h6 : n ≤ 6) (hq : s.tamper.quench = false) :
    (s.transition n b).life.stage = s.life.stage ||| BitVec.ofNat 5 (2 ^ (n - 2)) ∧ (s.transition n b).crucible.drk = 0 ∧
    (s.transition n b).vault.sets = [] ∧ (s.transition n b).vault.btk = none ∧ (s.transition n b).rack = {} ∧
    (s.transition n b).chip.state = .start ∧ (s.transition n b).chip.resetCause = 5 ∧
    (n = 6 → (s.transition n b).trims.identity = 0 ∧ (s.transition n b).store.records = [] ∧
      (s.transition n b).crucible.rootGen = 0) := by
  unfold State.transition
  obtain ⟨⟨hlife, hquench, hdrk, hsets, hbtk⟩, hscrap⟩ :=
    State.markedWipe_wipes { s with life := s.life.blow (s.lifeCode = 2) n b } h3
  obtain ⟨hst, -, hcru, htrims, hs, hb, hrack, hchip, hcause, hrec⟩ := State.chipReset_leaves (hquench.trans hq) 5
  have hblow : (s.life.blow (s.lifeCode = 2) n b).stage = s.life.stage ||| BitVec.ofNat 5 (2 ^ (n - 2)) := by
    unfold Life.blow
    dsimp only
    rw [if_neg (by omega), if_neg (by omega), if_neg (by omega)]
  refine ⟨hst.trans ((congrArg Life.stage hlife).trans hblow), (congrArg Crucible.drk hcru).trans hdrk, hs.trans hsets, hb.trans hbtk,
    hrack, hchip, hcause, fun h => ?_⟩
  obtain ⟨hid, hr, hgen, hqueue, hdropped⟩ := hscrap h
  exact ⟨(congrArg Trims.identity htrims).trans hid, (hrec hqueue hdropped).trans hr, (congrArg Crucible.rootGen hcru).trans hgen⟩

theorem State.transition_token (s : State) (n : Nat) (hq : s.tamper.quench = false) :
    (s.transition 2 n).life.tokenUsed = s.life.tokenUsed ||| BitVec.ofNat 8 (2 ^ n) ∧
    (s.transition 2 n).life.stage = s.life.stage ∧ (s.transition 2 n).chip.resetCause = 5 ∧ (s.transition 2 n).crucible = s.crucible := by
  obtain ⟨hst, htok, hcru, -, -, -, -, -, hcause, -⟩ :=
    State.chipReset_leaves (s := State.markedWipe 2 { s with life := s.life.blow (s.lifeCode = 2) 2 n }) hq 5
  exact ⟨htok, hst, hcause, hcru⟩

/-! ### Services of the life cycle (R448, R460) -/

theorem State.lcService_of {s : State} {code : Nat} (hs : s.serves code = true) (h6 : s.lifeCode ≠ 6) (act : State → State) :
    s.lcService code act = act s := (State.service_of hs _).trans (if_neg h6)

theorem lcAdvance_decides (s : State) :
    (∀ (n : BitVec 8) (bit : Nat), s.lcAdmits true n.toNat = some bit → exec (.lcAdvance (some n)) s =
      .next ((s.jtag 0x03 []).transition n.toNat bit)) ∧
    (∀ n : BitVec 8, s.lcAdmits true n.toNat = none → exec (.lcAdvance (some n)) s = .next (s.jtag 0x03 (leBytes 2 0x0301))) ∧
    (∀ bit : Nat, s.serves 0x11 = true → s.lifeCode ≠ 6 → s.lcAdmits false (byteAt s.mbxBody 0).toNat = some bit →
      exec (.lcAdvance none) s = .next ((s.mbxAnswer 0 0 []).transition (byteAt s.mbxBody 0).toNat bit)) ∧
    (s.serves 0x11 = true → s.lifeCode ≠ 6 → s.lcAdmits false (byteAt s.mbxBody 0).toNat = none →
      exec (.lcAdvance none) s = .next s.mbxConflict) := by
  refine ⟨fun n bit h => ?_, fun n h => ?_, fun bit hs h6 h => ?_, fun hs h6 h => ?_⟩
  · unfold exec execLcAdvance
    simp only [h]
  · unfold exec execLcAdvance
    simp only [h]
  · refine next_congr ((State.lcService_of hs h6 _).trans ?_)
    simp only [h]
  · refine next_congr ((State.lcService_of hs h6 _).trans ?_)
    simp only [h]

/-! ### Debug scopes (R453 to R455) -/

/-- The state with a nonce drawn for a scope map. -/
def State.nonceDrawn (r : Bytes) (m : BitVec 32) (s : State) : State :=
  { s.tookDraw with life := { s.life with nonce := some (BitVec.ofNat 256 (beNat r), m) } }

/-- The body of an AUTH_NONCE answer. -/
def State.nonceBody (r : Bytes) (s : State) : Bytes := r ++ leBytes 8 s.trims.identity.toNat ++ leBytes 1 s.lifeCode

theorem State.authNonce_admitted {s : State} {m : BitVec 32} (h3 : 3 ≤ s.lifeCode) (h6 : s.lifeCode ≠ 6) (hf : s.life.authFails < 8)
    (hm : m &&& ~~~ s.scopeAdmitted = 0) (answer : Bytes → State → State) (refuse : Nat → State → State) :
    (∀ g, s.bellows.given = some g → s.authNonce m answer refuse = answer (s.nonceBody (g.take 32)) (s.nonceDrawn (g.take 32) m)) ∧
    (s.bellows.given = none → s.bellows.state = .ok → s.waitsSeed .hearth = false →
      s.authNonce m answer refuse = s.enqueueSeed { who := .hearth, level := 2, blocks := 2 }) := by
  have admits : ¬ (s.lifeCode < 3 ∨ s.lifeCode = 6 ∨ 8 ≤ s.life.authFails ∨ m &&& ~~~ s.scopeAdmitted ≠ 0) := by
    rintro (h | h | h | h)
    · exact absurd h (Nat.not_lt.mpr h3)
    · exact h6 h
    · exact absurd hf (Nat.not_lt.mpr h)
    · exact h hm
  refine ⟨fun g hg => (if_neg admits).trans (State.hearthDraw_of hg 32 _ _), fun hg hok hw => (if_neg admits).trans ?_⟩
  unfold State.hearthDraw State.request
  simp [hg, hok, hw]

theorem State.authNonce_refused {s : State} {m : BitVec 32} (hm : m &&& ~~~ s.scopeAdmitted ≠ 0) (answer : Bytes → State → State)
    (refuse : Nat → State → State) : s.authNonce m answer refuse = refuse 0x0301 s := if_pos (.inr (.inr (.inr hm)))

theorem authNonce_draws (s : State) (m : BitVec 32) (h3 : 3 ≤ s.lifeCode) (h6 : s.lifeCode ≠ 6) (hf : s.life.authFails < 8)
    (hm : m &&& ~~~ s.scopeAdmitted = 0) :
    (∀ g r, s.bellows.given = some g → r = g.take 32 →
      exec (.authNonce (some m)) s = .next ((s.nonceDrawn r m).jtag 0x05 (s.nonceBody r)) ∧
      (s.serves 0x12 = true → m = BitVec.ofNat 32 (leAt s.mbxBody 0 4) →
        exec (.authNonce none) s = .next ((s.nonceDrawn r m).mbxAnswer 0 0 (s.nonceBody r)))) ∧
    (s.bellows.given = none → s.bellows.state = .ok → s.waitsSeed .hearth = false → exec (.authNonce (some m)) s =
      .next (s.enqueueSeed { who := .hearth, level := 2, blocks := 2 })) := by
  refine ⟨fun g r hg hr => ⟨?_, fun hs hb => ?_⟩, fun hg hok hw => ?_⟩
  · rw [hr]
    exact next_congr ((State.authNonce_admitted h3 h6 hf hm _ _).1 g hg)
  · rw [hr]
    refine next_congr ((State.lcService_of hs h6 _).trans ?_)
    rw [← hb]
    exact (State.authNonce_admitted h3 h6 hf hm _ _).1 g hg
  · exact next_congr ((State.authNonce_admitted h3 h6 hf hm _ _).2 hg hok hw)

theorem authNonce_refused (s : State) (m : BitVec 32) (hm : m &&& ~~~ s.scopeAdmitted ≠ 0) :
    exec (.authNonce (some m)) s = .next (s.jtag 0x05 (leBytes 2 0x0301)) ∧
    (s.serves 0x12 = true → s.lifeCode ≠ 6 → m = BitVec.ofNat 32 (leAt s.mbxBody 0 4) → exec (.authNonce none) s = .next s.mbxConflict) := by
  refine ⟨next_congr (State.authNonce_refused hm _ _), fun hs h6 hb => ?_⟩
  refine next_congr ((State.lcService_of hs h6 _).trans ?_)
  rw [← hb]
  exact State.authNonce_refused hm _ _

/-- The state with the nonce spent and its scope granted. -/
def State.scopeGranted (m : BitVec 32) (s : State) : State :=
  { s with life := { s.life with nonce := none, scope := s.life.scope ||| m, unsignedArm := s.life.unsignedArm || m.getLsbD 3 } }

/-- The state with the nonce spent and a mismatch counted and logged. -/
def State.mismatched (s : State) : State :=
  State.log 0x1001 0xF1 ((List.range 12).map (Config.eventByte 4550))
    { s with life := { s.life with nonce := none, authFails := satInc 8 s.life.authFails } }

theorem State.authResponse_of {s : State} {n : BitVec 256} {m : BitVec 32} {code : Bytes} (hn : s.life.nonce = some (n, m))
    (answer : Bytes → State → State) (refuse : Nat → State → State) :
    (fit 48 code = s.authCode n m → s.authResponse code answer refuse =
      if m.getLsbD 4 = true ∧ (answer (leBytes 4 (s.life.scope ||| m).toNat) (s.scopeGranted m)).vault.lcTarget = some 5 ∧
          (answer (leBytes 4 (s.life.scope ||| m).toNat) (s.scopeGranted m)).lifeCode = 4 then
        (answer (leBytes 4 (s.life.scope ||| m).toNat) (s.scopeGranted m)).transition 5 0
      else answer (leBytes 4 (s.life.scope ||| m).toNat) (s.scopeGranted m)) ∧
    (fit 48 code ≠ s.authCode n m → s.authResponse code answer refuse = refuse 0x0501 s.mismatched) := by
  unfold State.authResponse
  simp only [hn]
  exact ⟨fun h => if_pos h, fun h => if_neg h⟩

theorem beBytes_length (n v : Nat) : (beBytes n v).length = n := by
  unfold beBytes
  rw [List.length_reverse, leBytes_length]

theorem authResponse_grants (s : State) (n : BitVec 256) (m : BitVec 32) (v : BitVec 384) (hn : s.life.nonce = some (n, m))
    (hv : beBytes 48 v.toNat = s.authCode n m) (h4 : m.getLsbD 4 = false) : ∃ t, exec (.authResponse (some v)) s = .next t ∧
      t.life.nonce = none ∧ t.life.scope = s.life.scope ||| m ∧ t.life.unsignedArm = (s.life.unsignedArm || m.getLsbD 3) ∧
      t.life.stage = s.life.stage ∧ t.sent = .jtag (leBytes 4 t.life.scope.toNat) :: s.sent ∧
      t = { s with life := t.life, sent := t.sent, pins := { s.pins with jtagIr := 0x06 } } := by
  have hc : fit 48 (beBytes 48 v.toNat) = s.authCode n m := (fit_of_length (beBytes_length 48 _)).trans hv
  have hg : exec (.authResponse (some v)) s = .next ((s.scopeGranted m).jtag 0x06 (leBytes 4 (s.life.scope ||| m).toNat)) :=
    next_congr (((State.authResponse_of hn _ _).1 hc).trans (if_neg (fun h => Bool.noConfusion (h4.symm.trans h.1))))
  exact ⟨_, hg, rfl, rfl, rfl, rfl, rfl, rfl⟩

theorem authResponse_completes (s : State) (n : BitVec 256) (m : BitVec 32) (v : BitVec 384) (hn : s.life.nonce = some (n, m))
    (hv : beBytes 48 v.toNat = s.authCode n m) (h4 : m.getLsbD 4 = true) (hl : s.vault.lcTarget = some 5) (hc : s.lifeCode = 4) :
    exec (.authResponse (some v)) s =
      .next (State.transition 5 0 ((s.scopeGranted m).jtag 0x06 (leBytes 4 (s.life.scope ||| m).toNat))) := by
  have he : fit 48 (beBytes 48 v.toNat) = s.authCode n m := (fit_of_length (beBytes_length 48 _)).trans hv
  exact next_congr (((State.authResponse_of hn _ _).1 he).trans (if_pos ⟨h4, hl, hc⟩))

theorem authResponse_mailbox (s : State) (n : BitVec 256) (m : BitVec 32) (hs : s.serves 0x13 = true) (h6 : s.lifeCode ≠ 6)
    (hn : s.life.nonce = some (n, m)) (hv : s.mbxBody.take 48 = s.authCode n m) (h4 : m.getLsbD 4 = false) :
    exec (.authResponse none) s = .next ((s.scopeGranted m).mbxAnswer 0 0 (leBytes 4 (s.life.scope ||| m).toNat)) := by
  have hl : (s.mbxBody.take 48).length = 48 := by
    rw [List.length_take, State.mbxBody, fit_length]
    rfl
  refine next_congr ((State.lcService_of hs h6 _).trans ?_)
  exact ((State.authResponse_of hn _ _).1 ((fit_of_length hl).trans hv)).trans
    (if_neg (fun h => Bool.noConfusion (h4.symm.trans h.1)))

theorem authResponse_mismatch (s : State) (n : BitVec 256) (m : BitVec 32) (v : BitVec 384) (hn : s.life.nonce = some (n, m))
    (hv : beBytes 48 v.toNat ≠ s.authCode n m) : ∃ t, exec (.authResponse (some v)) s = .next t ∧ t.life.nonce = none ∧
      t.life.scope = s.life.scope ∧ t.life.authFails = satInc 8 s.life.authFails ∧ t.life.stage = s.life.stage ∧
      t.rack = s.rack ∧ t.crucible = s.crucible := by
  have hc : fit 48 (beBytes 48 v.toNat) ≠ s.authCode n m := (fit_of_length (beBytes_length 48 _)).symm ▸ hv
  refine ⟨s.mismatched.jtag 0x06 (leBytes 2 0x0501), next_congr ((State.authResponse_of hn _ _).2 hc), ?_⟩
  obtain ⟨q, l, d, hl⟩ := State.log_only 0x1001 0xF1 ((List.range 12).map (Config.eventByte 4550))
    { s with life := { s.life with nonce := none, authFails := satInc 8 s.life.authFails } }
  have hm : s.mismatched = _ := hl
  rw [hm]
  exact ⟨rfl, rfl, rfl, rfl, rfl, rfl⟩

theorem State.lcBody_fields (s : State) : s.lcBody.length = 24 ∧ s.lcBody.take 1 = leBytes 1 s.lifeCode := by
  unfold State.lcBody
  refine ⟨?_, ?_⟩
  · simp [leBytes_length, List.range_succ]
  · rfl

theorem State.scanOk_iff (s : State) : s.scanOk = true ↔ s.lifeCode = 1 ∨ s.lifeCode = 2 ∨
    ((s.lifeCode = 3 ∨ s.lifeCode = 5) ∧ s.life.scope.getLsbD 2 = true) := by
  unfold State.scanOk
  simp [or_assoc]

/-- Settles O35. A transition blows its bit, wipes and resets; the reset keeps what the wipe left. A scope's answers are one function
with two ways to answer, over JTAG and over the mailbox. -/
theorem lifeCycleAndDebug : Obligations.LifeCycleAndDebug := by
  refine ⟨⟨fun s => (lcAdvance_decides s).1, fun s => (lcAdvance_decides s).2.1, fun s => (lcAdvance_decides s).2.2.1,
      fun s => (lcAdvance_decides s).2.2.2, fun s n v h => next_congr (if_pos h), fun s n v h => next_congr (if_neg ?_),
      State.transition_stages, fun s n _ hq => s.transition_token n hq⟩,
    ⟨fun _ => rfl, fun _ => rfl, fun s l h => ⟨next_congr (if_pos h), next_congr (if_pos h)⟩, fun s l h => ?_, State.scanOk_iff⟩,
    authNonce_draws, authNonce_refused, authResponse_grants, authResponse_completes, authResponse_mailbox, authResponse_mismatch,
    fun _ => rfl, fun _ => rfl, fun s h => next_congr (State.service_of h _), State.lcBody_fields⟩
  · exact fun h' => Bool.noConfusion (h.symm.trans h')
  · have hn : ¬ s.scanOk = true := fun h' => Bool.noConfusion (h.symm.trans h')
    exact ⟨next_congr (if_neg hn), next_congr (if_neg hn)⟩

end Sys2Proof.Machine
end

section
/-!
PROOF of O36: image transfers, the owner key and DEVICE_RESTART.
-/
namespace Sys2Proof.Machine

theorem ChipState.admitsImages_of_ne_start {c : ChipState} (h : c ≠ .start) : c.admitsImages = true := bne_iff_ne.mpr h

/-! ### Image transfers (R456, R457) -/

theorem imageBegin_opens (s : State) (k : Nat) (hs : s.serves 0x18 = true) (h6 : s.lifeCode ≠ 6) (hst : s.chip.state ≠ .start)
    (ht : s.life.transfer = none) (hk : (byteAt s.mbxBody 0).toNat = k + 1) (h3 : k < 3) (h1 : byteAt s.mbxBody 1 = 0)
    (h2 : byteAt s.mbxBody 2 = 0) (h3' : byteAt s.mbxBody 3 = 0) (hl : leAt s.mbxBody 4 4 ≤ slotSize k) :
    exec .imageBegin s = .next (State.mbxAnswer 0 0 (leBytes 1 (s.spareSlot k))
      { s with life := { s.life with transfer := some (k, s.spareSlot k, leAt s.mbxBody 4 4, 0)
                                     flash := tset [] (2 * k + s.spareSlot k) [] s.life.flash } }) := by
  refine next_congr ((State.lcService_of hs h6 _).trans ((if_neg (fun h => h (ChipState.admitsImages_of_ne_start hst))).trans ?_))
  have hk' : (byteAt s.mbxBody 0).toNat - 1 = k := by omega
  have hsound : firstFault [(s.life.transfer.isSome || decide ((byteAt s.mbxBody 0).toNat = 0 ∨ 3 < (byteAt s.mbxBody 0).toNat), 0),
      (byteAt s.mbxBody 1 != 0, 1), (byteAt s.mbxBody 2 != 0, 2), (byteAt s.mbxBody 3 != 0, 3),
      (decide (slotSize k < leAt s.mbxBody 4 4), 4)] = none := by
    simp [firstFault, ht, hk, h1, h2, h3', Nat.not_lt.mpr hl]
    omega
  dsimp only
  rw [hk', hsound]

theorem imageData_extends (s : State) (k slot len next n : Nat) (hs : s.serves 0x19 = true) (h6 : s.lifeCode ≠ 6)
    (ht : s.life.transfer = some (k, slot, len, next)) (hn : n = min 240 s.mbxLen - 4) (ho : leAt s.mbxBody 0 4 = next) (h224 : n ≤ 224)
    (hlen : next + n ≤ len) : exec .imageData s = .next (State.mbxAnswer 0 0 [] { s with life := { s.life with
      transfer := some (k, slot, len, next + n)
      flash := tset [] (2 * k + slot) (s.imageAt k slot ++ slice s.mbxBody 4 n) s.life.flash } }) := by
  refine next_congr ((State.lcService_of hs h6 _).trans ?_)
  simp only [ht]
  rw [← hn]
  exact (if_neg (fun h => h ho)).trans (if_neg (by omega))

/-- The commit of a full transfer is judged by its image. -/
theorem imageCommit_judges (s : State) (k slot len next : Nat) (hs : s.serves 0x1A = true) (h6 : s.lifeCode ≠ 6)
    (ht : s.life.transfer = some (k, slot, len, next)) (hl : len ≤ next) (hu : s.HearthUnit) :
    (s.imageFault k (s.lifeCode == 2) (s.imageAt k slot) = 0 → exec .imageCommit s =
      .next (State.mbxAnswer 0 0 [0] { s.drewBlind shareBytes with
        life := { s.life with transfer := none, prefer := tset 0 k slot s.life.prefer } })) ∧
    (s.imageFault k (s.lifeCode == 2) (s.imageAt k slot) ≠ 0 → ∃ t, exec .imageCommit s = .next t ∧ t.life.transfer = none ∧
      t.life.prefer = s.life.prefer ∧ t.life.flash = s.life.flash) := by
  refine ⟨fun h => ?_, fun h => ⟨(State.logImage k slot (s.imageFault k (s.lifeCode == 2) (s.imageAt k slot))
      { s.drewBlind shareBytes with life := { s.life with transfer := none } }).mbxAnswer 0 0
      (leBytes 1 (s.imageFault k (s.lifeCode == 2) (s.imageAt k slot))), ?_, ?_⟩⟩
  · refine next_congr ((State.lcService_of hs h6 _).trans ?_)
    simp only [ht]
    refine (if_neg (Nat.not_lt.mpr hl)).trans ((State.hearthJob_of hu _ _).trans ?_)
    split
    · rfl
    · next hne => exact absurd h hne
  · refine next_congr ((State.lcService_of hs h6 _).trans ?_)
    simp only [ht]
    refine (if_neg (Nat.not_lt.mpr hl)).trans ((State.hearthJob_of hu _ _).trans ?_)
    split
    · next he => exact absurd he h
    · rfl
  · simp [State.logImage]

/-! ### The owner key and DEVICE_RESTART (R447, R462) -/

theorem ownerKeyFuse_fuses (s : State) (hs : s.serves 0x14 = true) (hc : s.lifeCode = 3 ∨ (s.lifeCode = 4 ∧ s.crucible.rootGen = 0))
    (ho : s.life.ownerHash = none) (hk : (Ecc.p384.decode (s.mbxBody.take 97)).isSome = true) :
    exec .ownerKeyFuse s = .next (State.mbxAnswer 0 0 (Sha.sha384 (s.mbxBody.take 97)) { s with life := { s.life with
      ownerHash := some (BitVec.ofNat 384 (beNat (Sha.sha384 (s.mbxBody.take 97)))), ownerKey := s.mbxBody.take 97 } }) := by
  refine next_congr ((State.lcService_of hs (by omega) _).trans ((if_neg ?_).trans (if_neg ?_)))
  · rintro (h | h)
    · rw [ho] at h
      exact Bool.noConfusion h
    · exact h hc
  · intro h
    rw [Option.isNone_iff_eq_none] at h
    rw [h] at hk
    exact Bool.noConfusion hk

theorem deviceRestart_resets (s : State) (hs : s.serves 0x1B = true) (h6 : s.lifeCode ≠ 6) (hst : s.chip.state ≠ .start)
    (hq : s.tamper.quench = false) : ∃ t, exec .deviceRestart s = .next t ∧ t.chip.state = .start ∧ t.chip.resetCause = 6 ∧
      t.rack = {} ∧ t.crucible = s.crucible ∧ t.life.stage = s.life.stage ∧ t.life.flash = s.life.flash := by
  have hq' : (s.mbxAnswer 0 0 []).tamper.quench = false := by simpa using hq
  obtain ⟨u, hu, -, hcru, hlife, -⟩ := State.chipReset_resets hq' 6
  refine ⟨_, next_congr ((State.lcService_of hs h6 _).trans ((if_neg (fun h => h (ChipState.admitsImages_of_ne_start hst))).trans hu)),
    rfl, rfl, rfl, hcru.trans (by simp), ?_, ?_⟩
  · exact (congrArg Life.stage hlife :).trans (by simp)
  · exact (congrArg Life.flash hlife :).trans (by simp)

/-- Settles O36. Each service is one branch under its conditions; a restart is the reset of the chip after the answer. -/
theorem imagesAndOwner : Obligations.ImagesAndOwner := by
  refine ⟨imageBegin_opens, imageData_extends, imageCommit_judges, ownerKeyFuse_fuses, fun s hs h6 ho => ?_, deviceRestart_resets⟩
  exact next_congr ((State.lcService_of hs h6 _).trans (if_pos (.inl (Option.isSome_iff_ne_none.mpr ho))))

end Sys2Proof.Machine
end

section
/-!
PROOF of O50 (R157, R545, R546, R549): the S, R and K commands of the legacy window.
-/
namespace Sys2Proof.Machine

/-! ### Commands that answer -/

/-- A command whose work is one answer to its fields gives it. -/
theorem answers_of_asked {s u : State} {c : Instr} {code status : String} {f out : List Bytes} {act : List Bytes → State → State}
    (hc : exec c s = .next (s.onLegacy code act)) (ha : s.Asked code f) (hu : s.OnTheWay u) (hact : act f s = u.legAnswer status out) :
    ∃ t, exec c s = .next t ∧ s.Answered t status out :=
  hu.answers (exec_of_asked hc ha hact)

theorem State.onTheWay_spend (n : Nat) (s : State) : s.OnTheWay (s.spend n) := ⟨rfl, rfl, rfl, rfl, rfl, rfl, rfl, rfl⟩

/-- R549: a command that draws while the source has failed answers S03. -/
theorem State.legDraw_of_failed {s : State} (h : s.bellows.given = none) (hb : s.bellows.state = .failed) (hr : s.bellows.retest = false)
    (n : Nat) (k : Bytes → State → State) : s.legDraw n k = s.legAnswer "S03" [] := by
  simp [State.legDraw, State.hearthDraw, State.request, h, hb, hr]

/-- A command's draw that has not been served is asked of Bellows. -/
theorem State.legDraw_asks {s : State} (h : s.bellows.given = none) (hb : s.bellows.state = .ok) (hw : s.waitsSeed .hearth = false)
    {n : Nat} (hn : 1 ≤ n) (k : Bytes → State → State) :
    s.legDraw n k = s.enqueueSeed { who := .hearth, level := 2, blocks := (n + 15) / 16 } := by
  have hblocks : (n + 15) / 16 ≠ 0 := by omega
  simp [State.legDraw, State.hearthDraw, State.request, h, hb, hw, hblocks]

/-- R545: a key field that does not open is answered K01. -/
theorem State.withKey_of_closed {s : State} (hs : s.LmkSound) {v : Nat} {field : Bytes} (hk : s.openKey v field = none)
    (k : Bytes → State → State) : s.withKey v field k = s.legAnswer "K01" [] := by
  simp only [State.withKey, State.withLmk_of_sound hs, hk]

/-- R545: what opens is the deciphered field, in odd parity. -/
theorem State.openKey_some {s : State} {v : Nat} {field key : Bytes} (h : s.openKey v field = some key) :
    key = Modes.ecb (Des.dec (typeKey s.lmkKey v)) 8 (hexOf (field.drop 1)) ∧ ∀ b ∈ key, Des.oddParity b = b := by
  unfold State.openKey at h
  obtain ⟨hodd, heq⟩ := Option.ite_none_right_eq_some.mp h
  obtain rfl := Option.some.inj heq
  exact ⟨rfl, fun b hb => eq_of_beq (List.all_eq_true.mp hodd b hb)⟩

/-! ### Commands under the LMK -/

/-- A key that KG or KX generates: the bytes drawn for its scheme, in odd parity. -/
theorem State.legDraw_key {s : State} {sch key g : Bytes} (hg : s.bellows.given = some g)
    (hkey : key = (g.take (if sch = [0x32] then 16 else 24)).map Des.oddParity) (k : Bytes → State → State) :
    s.legDraw (schemeLen sch) (fun b => k (b.map Des.oddParity)) = k key s.tookDraw := by
  rw [hkey]
  exact State.legDraw_of_given hg _ _

section
variable {s : State} {ty sch z zmk key g : Bytes} {v : Nat} (hs : s.LmkSound) (hv : legV ty = some v) (hg : s.bellows.given = some g)
  (hkey : key = (g.take (if sch = [0x32] then 16 else 24)).map Des.oddParity)
include hs hv hg hkey

theorem exec_legKg_of_given (ha : s.Asked "KG" [ty, sch]) :
    exec .legKg s = .next (s.tookDraw.legAnswer "A00" [s.underLmk v key, hexText (kcvOf (ch 'T') (key.length / 8) key)]) := by
  refine exec_of_asked rfl ha ((State.withLmk_of_sound hs _).trans ((State.legDraw_key hg hkey
    (fun key s => s.legAnswer "A00" [s.underLmk ((legV ty).getD 0) key, kcvText key])).trans ?_))
  rw [hv]
  rfl

/-- KX enciphers the key that it generated under the variant of its type and runs plan 0x0060 from there to the ZMK. -/
theorem exec_legKx_of_given (ha : s.Asked "KX" [ty, sch, z]) (hz : s.openKey 0 z = some zmk) :
    exec .legKx s = .next (s.tookDraw.legPlan 0x60
      (xlateTxn (typeKey s.lmkKey v) zmk (Modes.ecb (Des.enc (typeKey s.lmkKey v)) 8 key))
      fun e => [s.underLmk v key, keyText e.out, hexText (e.result.take 3)]) := by
  refine exec_of_asked rfl ha ((State.withKey_of_open hs hz _).trans ((State.legDraw_key hg hkey (fun key s =>
    s.legPlan 0x60 (xlateTxn (typeKey s.lmkKey ((legV ty).getD 0)) zmk (Modes.ecb (Des.enc (typeKey s.lmkKey ((legV ty).getD 0))) 8 key))
      fun e => [s.underLmk ((legV ty).getD 0) key, keyText e.out, endKcv e])).trans ?_))
  rw [hv]
  rfl

end

section
variable {s : State} {ty z y zmk : Bytes} {v : Nat} (hs : s.LmkSound) (hv : legV ty = some v) (hz : s.openKey 0 z = some zmk)
include hs hv hz

theorem exec_legKi_of_open (ha : s.Asked "KI" [ty, z, y]) :
    exec .legKi s = .next (s.legPlan 0x60 (xlateTxn zmk (typeKey s.lmkKey v) (hexOf (y.drop 1)))
      fun e => [keyText e.out, hexText (e.result.take 3)]) := by
  refine exec_of_asked rfl ha ((State.withKey_of_open hs hz _).trans ?_)
  simp only [fld, List.getD_cons_zero, List.getD_cons_succ, hv]
  rfl

theorem exec_legKe_of_open (ha : s.Asked "KE" [ty, z, y]) (hzm : ty ≠ ascii "ZM") (hbd : ty ≠ ascii "BD") :
    exec .legKe s = .next (s.legPlan 0x60 (xlateTxn (typeKey s.lmkKey v) zmk (hexOf (y.drop 1)))
      fun e => [keyText e.out, hexText (e.result.take 3)]) := by
  refine exec_of_asked rfl ha ((if_neg (not_or.mpr ⟨hzm, hbd⟩)).trans ((State.withKey_of_open hs hz _).trans ?_))
  simp only [fld, List.getD_cons_zero, List.getD_cons_succ, hv]
  rfl

end

/-- The key field of KC and KQ under the variant of its type. -/
theorem State.withTypeKey_of_open {s : State} (hs : s.LmkSound) {ty field key : Bytes} {v : Nat} (hv : legV ty = some v)
    (hk : s.openKey v field = some key) (k : Bytes → State → State) : s.withKey ((legV ty).getD 0) field k = k key s := by
  rw [hv]
  exact State.withKey_of_open hs hk k

/-! ### The clauses of O50 -/

/-- Settles O50: each command by the answer or the plan that its fields were shown to give. -/
theorem legacyServiceAndKeys : Obligations.LegacyServiceAndKeys := by
  unfold Obligations.LegacyServiceAndKeys
  refine ⟨fun s f ha => ?_, fun s f ha => ?_, fun s f ha => ?_, fun s f x ha hf => ?_, fun s f ha => ?_, fun s f ha => ?_,
    fun s f ha => ?_, fun s f ha => ?_, fun s f n g ha hf hg => ?_, fun s n ha hn h hb hw => ?_, fun s f ha h hb hr => ?_,
    fun s ty sch key g v ha hs hv hg hkey => ?_, fun s ty sch z zmk key g v ha hs hv hz hg hkey => ?_,
    fun s ty z y zmk v ha hs hv hz => ?_, fun s ty z y zmk v ha hs hv hzm hbd hz => ?_, fun s ty z y ha hty => ?_,
    fun s ty k key v ha hs hv hk => ?_, fun s ty k v ha hs hv hk => ?_, fun s ty k key x v ha hs hv hk => ?_,
    fun s v field key h => State.openKey_some h⟩
  · exact answers_of_asked rfl ha (.refl s) rfl
  · exact answers_of_asked rfl ha (.refl s) rfl
  · exact answers_of_asked rfl ha (.refl s) rfl
  · subst hf
    exact answers_of_asked rfl ha (.refl s) rfl
  · exact answers_of_asked rfl ha (.refl s) rfl
  · exact answers_of_asked rfl ha (.refl s) rfl
  · exact answers_of_asked rfl ha (.refl s) rfl
  · have hc := exec_of_asked (c := .legSa) rfl ha rfl
    cases hfree : Config.selfTest s.free with
    | false =>
      rw [hfree] at hc
      exact ⟨_, hc, .inl ((s.onTheWay_spend 1).answered ..)⟩
    | true =>
      rw [hfree] at hc
      exact ⟨_, hc, .inr ((s.onTheWay_spend 1).answered ..)⟩
  · subst hf
    exact answers_of_asked rfl ha s.onTheWay_tookDraw (State.legDraw_of_given hg _ _)
  · exact exec_of_asked rfl ha (State.legDraw_asks h hb hw hn _)
  · exact answers_of_asked rfl ha (.refl s) (State.legDraw_of_failed h hb hr _ _)
  · exact s.onTheWay_tookDraw.answers (exec_legKg_of_given hs hv hg hkey ha)
  · exact State.runsPlan_of_legPlan (exec_legKx_of_given hs hv hg hkey ha hz) s.onTheWay_tookDraw
  · exact State.runsPlan_of_legPlan (exec_legKi_of_open hs hv hz ha) (.refl s)
  · exact State.runsPlan_of_legPlan (exec_legKe_of_open hs hv hz ha hzm hbd) (.refl s)
  · exact answers_of_asked rfl ha (.refl s) (if_pos hty)
  · exact answers_of_asked rfl ha (.refl s) (State.withTypeKey_of_open hs hv hk _)
  · refine answers_of_asked rfl ha (.refl s) ?_
    simp only [fld, List.getD_cons_zero, List.getD_cons_succ, hv]
    exact State.withKey_of_closed hs hk _
  · exact answers_of_asked rfl ha (.refl s) (State.withTypeKey_of_open hs hv hk _)

end Sys2Proof.Machine
end

section
/-!
PROOF of O52 (R546, R549): the card verification, ARQC, MAC and cipher commands of the legacy window.
-/
namespace Sys2Proof.Machine

section
variable {s : State} (hs : s.LmkSound)
include hs

/-! ### What each family of commands comes to under its key -/

/-- A card verification value is generated by plan 0x0030 on the fields. -/
theorem State.legCvv_generate {a af ex sc n k : Bytes} (h : s.openKey 0x4B a = some k) :
    s.legCvv a af ex sc n none = s.legPlan 0x30
      { p := paramBlock (afParts af ++ [(48, hexOf ex), (50, Payment.ofNibs (digitsOf sc ++ [15])), (52, fmtByte n)] ++ [])
        k0 := scratchKey k } fun e => [e.result.take (decOf n)] :=
  State.withKey_of_open hs h _

/-- A card verification value is verified by plan 0x0031 on the fields and the value. -/
theorem State.legCvv_verify {a af ex sc n val k : Bytes} (h : s.openKey 0x4B a = some k) :
    s.legCvv a af ex sc n (some val) = s.legVerify 0x31
      { p := paramBlock (afParts af ++ [(48, hexOf ex), (50, Payment.ofNibs (digitsOf sc ++ [15])), (52, fmtByte n)] ++
          [(53, Payment.ofNibs (Payment.fill 6 15 (digitsOf val)))])
        k0 := scratchKey k } fun _ => [] :=
  State.withKey_of_open hs h _

/-- An ARQC without an answer is verified by plan 0x0040 on the fields. -/
theorem State.legArqc_verify {a af psn atc ac l k : Bytes} (h : s.openKey 0x87 a = some k) (session : Nat) :
    s.legArqc [a, af, psn, atc, ac, l] 0 session = s.legVerify 0x40
      { p := paramBlock (afParts af ++ [(15, hexOf psn), (64, hexOf atc), (48, hexOf ac), (62, [0, BitVec.ofNat 8 session])] ++ [])
        data := hexOf (l.drop 4), k0 := scratchKey k } fun _ => [] :=
  State.withKey_of_open hs h _

section
variable {a af psn atc ac l x k g : Bytes} (h : s.openKey 0x87 a = some k) (hg : s.bellows.given = some g) (session : Nat)
include h hg

/-- ARPC method 1: plan 0x0041 on the fields and the response code. -/
theorem State.legArqc_method1 :
    s.legArqc [a, af, psn, atc, ac, l, x] 1 session = s.tookDraw.legVerify 0x41
      { p := paramBlock (afParts af ++ [(15, hexOf psn), (64, hexOf atc), (48, hexOf ac), (62, [1, BitVec.ofNat 8 session])] ++
          [(56, hexOf x)])
        data := hexOf (l.drop 4), rnd := g.take 8, k0 := scratchKey k } fun e => [hexText e.out] :=
  (State.withKey_of_open hs h _).trans (State.legDraw_of_given hg 8 _)

/-- ARPC method 2: plan 0x0041 on the fields and the card status update. -/
theorem State.legArqc_method2 :
    s.legArqc [a, af, psn, atc, ac, l, x] 2 session = s.tookDraw.legVerify 0x41
      { p := paramBlock (afParts af ++ [(15, hexOf psn), (64, hexOf atc), (48, hexOf ac), (62, [2, BitVec.ofNat 8 session])] ++
          [(58, hexOf x)])
        data := hexOf (l.drop 4), rnd := g.take 8, k0 := scratchKey k } fun e => [hexText e.out] :=
  (State.withKey_of_open hs h _).trans (State.legDraw_of_given hg 8 _)

end

/-- A cipher command answers its data field under the data key. -/
theorem State.legCipher_of_open {a k : Bytes} (h : s.openKey 0x78 a = some k) (f : List Bytes) (i : Nat) (g : Bytes → Bytes → Bytes) :
    s.legCipher (a :: f) i g = s.legAnswer "A00" [dataText (g k (hexOf ((fld (a :: f) i).drop 4)))] :=
  State.withKey_of_open hs h _

end

/-- R269: the padding byte of a padding digit that the field check admits. -/
theorem padByte_of_digit {pd : Bytes} (h : pd = [0x31] ∨ pd = [0x32]) : padByte pd = if pd = [0x31] then 3 else 0 := by
  obtain rfl | rfl := h <;> rfl

section
variable {s : State} {a n pd l k : Bytes} (hs : s.LmkSound) (h : s.openKey 0x5A a = some k) (hpd : pd = [0x31] ∨ pd = [0x32])
include hs h hpd

theorem exec_legMg_of_open (ha : s.Asked "MG" [a, n, pd, l]) :
    exec .legMg s = .next (s.legPlan 0x50
      { p := paramBlock [(48, [BitVec.ofNat 8 (decOf n), if pd = [0x31] then 3 else 0])]
        data := hexOf (l.drop 4), k0 := scratchKey k } fun e => [hexText (e.result.take (decOf n))]) := by
  refine exec_of_asked rfl ha ((State.withKey_of_open hs h _).trans ?_)
  rw [← padByte_of_digit hpd]
  rfl

theorem exec_legMv_of_open {mac : Bytes} (ha : s.Asked "MV" [a, n, pd, l, mac]) :
    exec .legMv s = .next (s.legVerify 0x51
      { p := paramBlock [(48, [BitVec.ofNat 8 (decOf n), if pd = [0x31] then 3 else 0]), (56, hexOf mac)]
        data := hexOf (l.drop 4), k0 := scratchKey k } fun _ => []) := by
  refine exec_of_asked rfl ha ((State.withKey_of_open hs h _).trans ?_)
  rw [← padByte_of_digit hpd]
  rfl

end

/-! ### The clauses of O52 -/

/-- Settles O52: each command by the plan that its fields were shown to run, or by its answer. -/
theorem legacyCardsMacsAndCiphers : Obligations.LegacyCardsMacsAndCiphers := by
  unfold Obligations.LegacyCardsMacsAndCiphers
  refine ⟨fun s a af ex sc n k ha hs h => ?_, fun s a af ex sc n val k ha hs h => ?_, fun s a af ex n k ha hs h => ?_,
    fun s a af ex n val k ha hs h => ?_, fun s a af ex n k ha hs h => ?_, fun s a af ex n val k ha hs h => ?_,
    fun s a af psn atc ac l k ha hs h => ?_, fun s a af psn atc ac l x k g ha hs h hg => ?_,
    fun s a af psn atc ac l x k g ha hs h hg => ?_, fun s a af psn atc ac l k ha hs h => ?_,
    fun s a af psn atc ac l x k g ha hs h hg => ?_, fun s a af psn atc ac l x k g ha hs h hg => ?_,
    fun s a n pd l k ha hs h hpd => ?_, fun s a n pd l mac k ha hs h hpd => ?_,
    fun s a iv l k ha hs h => ?_, fun s a iv l k ha hs h => ?_, fun s a l k ha hs h => ?_, fun s a l k ha hs h => ?_⟩
  · exact State.runsPlan_of_legPlan (exec_of_asked rfl ha (State.legCvv_generate hs h)) (.refl s)
  · exact State.runsVerify_of_legVerify (exec_of_asked rfl ha (State.legCvv_verify hs h)) (.refl s)
  · exact State.runsPlan_of_legPlan (exec_of_asked rfl ha (State.legCvv_generate hs h)) (.refl s)
  · exact State.runsVerify_of_legVerify (exec_of_asked rfl ha (State.legCvv_verify hs h)) (.refl s)
  · exact State.runsPlan_of_legPlan (exec_of_asked rfl ha (State.legCvv_generate hs h)) (.refl s)
  · exact State.runsVerify_of_legVerify (exec_of_asked rfl ha (State.legCvv_verify hs h)) (.refl s)
  · exact State.runsVerify_of_legVerify (exec_of_asked rfl ha (State.legArqc_verify hs h 0)) (.refl s)
  · exact State.runsVerify_of_legVerify (exec_of_asked rfl ha (State.legArqc_method1 hs h hg 0)) s.onTheWay_tookDraw
  · exact State.runsVerify_of_legVerify (exec_of_asked rfl ha (State.legArqc_method2 hs h hg 0)) s.onTheWay_tookDraw
  · exact State.runsVerify_of_legVerify (exec_of_asked rfl ha (State.legArqc_verify hs h 1)) (.refl s)
  · exact State.runsVerify_of_legVerify (exec_of_asked rfl ha (State.legArqc_method1 hs h hg 1)) s.onTheWay_tookDraw
  · exact State.runsVerify_of_legVerify (exec_of_asked rfl ha (State.legArqc_method2 hs h hg 1)) s.onTheWay_tookDraw
  · exact State.runsPlan_of_legPlan (exec_legMg_of_open hs h hpd ha) (.refl s)
  · exact State.runsVerify_of_legVerify (exec_legMv_of_open hs h hpd ha) (.refl s)
  · exact answers_of_asked rfl ha (.refl s) (State.legCipher_of_open hs h _ 2 _)
  · exact answers_of_asked rfl ha (.refl s) (State.legCipher_of_open hs h _ 2 _)
  · exact answers_of_asked rfl ha (.refl s) (State.legCipher_of_open hs h _ 1 _)
  · exact answers_of_asked rfl ha (.refl s) (State.legCipher_of_open hs h _ 1 _)

end Sys2Proof.Machine
end

section
/-!
PROOF of O48 (R407 to R410, R413, R415 to R418, R420 to R422): the protection units, the copy engines and the debug master.
-/
namespace Sys2Proof.Machine

/-! ### A protection unit changes -/

@[simp] theorem State.mpuOf_modMpu (b : Bool) (g : Mpu → Mpu) (s : State) : (s.modMpu b g).mpuOf b = g (s.mpuOf b) := by
  cases b <;> rfl

@[simp] theorem State.mpuOf_not_modMpu (b : Bool) (g : Mpu → Mpu) (s : State) : (s.modMpu b g).mpuOf (!b) = s.mpuOf (!b) := by
  cases b <;> rfl

theorem State.modMpu_zwmOnly (b : Bool) (g : Mpu → Mpu) (s : State) : s.modMpu b g = { s with zwm := (s.modMpu b g).zwm } := by
  cases b <;> rfl

/-- Two changes that agree on the unit as it stands are one. -/
theorem State.modMpu_congr {b : Bool} {g g' : Mpu → Mpu} {s : State} (h : g (s.mpuOf b) = g' (s.mpuOf b)) :
    s.modMpu b g = s.modMpu b g' := by
  cases b with
  | false =>
    have h : g s.zwm.hearthMpu = g' s.zwm.hearthMpu := h
    simp only [State.modMpu, h, Bool.false_eq_true, if_false]
  | true =>
    have h : g s.zwm.benchMpu = g' s.zwm.benchMpu := h
    simp only [State.modMpu, h, if_true]

theorem State.modMpu_of_fixed {b : Bool} {g : Mpu → Mpu} {s : State} (h : g (s.mpuOf b) = s.mpuOf b) : s.modMpu b g = s :=
  (State.modMpu_congr (g' := fun m => m) h).trans (by cases b <;> rfl)

/-! ### Edits (R409, R413, R416, R417) -/

theorem State.heldEdit_of_unheld {b : Bool} {s : State} (h : (s.mpuOf b).holdAck = false) (g : Mpu → Mpu) :
    s.heldEdit b g = s.modMpu b fun m => { m with notHeld := true } :=
  State.modMpu_congr (if_neg (by simp [h]))

theorem State.heldEdit_of_held {b : Bool} {s : State} (h : (s.mpuOf b).holdAck = true) (g : Mpu → Mpu) :
    s.heldEdit b g = s.modMpu b g :=
  State.modMpu_congr (if_pos h)

/-- A write of the rule of slot `n`. -/
theorem State.mpuEdit_rule {n : Nat} (hn : n < 64) (b : Bool) (v : BitVec 32) (s : State) :
    s.mpuEdit b (BitVec.ofNat 16 (0x100 + 4 * n)).toNat v = s.heldEdit b (Mpu.writeRule n (s.owns b n && n != unitSlot b) v) := by
  have hoff : (BitVec.ofNat 16 (0x100 + 4 * n)).toNat = 0x100 + 4 * n := by
    rw [BitVec.toNat_ofNat]; omega
  have hidx : (0x100 + 4 * n - 0x100) / 4 = n := by omega
  unfold State.mpuEdit
  rw [hoff, if_neg (by omega), if_neg (by omega), if_neg (by omega), if_neg (by omega), if_neg (by omega), if_neg (by omega),
    if_pos (by omega), hidx]

/-- Every edit of a held register is dropped while the hold is not acknowledged. -/
theorem State.mpuEdit_of_unheld {b : Bool} {s : State} (h : (s.mpuOf b).holdAck = false) {off : Nat}
    (hoff : off = 8 ∨ off = 0xC ∨ (0x100 ≤ off ∧ off < 0x200)) (v : BitVec 32) :
    s.mpuEdit b off v = s.modMpu b fun m => { m with notHeld := true } := by
  obtain rfl | rfl | ⟨hlo, hhi⟩ := hoff
  · exact State.heldEdit_of_unheld h _
  · exact State.heldEdit_of_unheld h fun m => { m with debug := v.truncate 16 }
  · unfold State.mpuEdit
    rw [if_neg (by omega), if_neg (by omega), if_neg (by omega), if_neg (by omega), if_neg (by omega), if_neg (by omega),
      if_pos ⟨hlo, hhi⟩]
    exact State.heldEdit_of_unheld h _

theorem State.mpuEdit_secret {b : Bool} {s : State} (h : (s.mpuOf b).holdAck = true) (v : BitVec 32) :
    s.mpuEdit b 8 v = s.modMpu b (Mpu.writeSecret b (v.truncate 16)) :=
  State.heldEdit_of_held h _

/-- The rules of the slots after a rule of another slot than the unit's own was written. -/
theorem State.slotRule_writeRule {b : Bool} {n : Nat} {s : State} (hr : twf {} (s.mpuOf b).rules = true) (hn : n ≠ unitSlot b)
    (v : BitVec 32) :
    (s.modMpu b (Mpu.writeRule n true v)).slotRule b n =
        { colours := v.truncate 16, r := v.getLsbD 16, w := v.getLsbD 17, x := v.getLsbD 18 && n == 10 } ∧
      ∀ m, m ≠ n → (s.modMpu b (Mpu.writeRule n true v)).slotRule b m = s.slotRule b m := by
  unfold State.slotRule
  rw [State.mpuOf_modMpu]
  refine ⟨(if_neg hn).trans (tget_tset_same ({} : SlotRule) n _ hr), fun m hm => ?_⟩
  split
  · rfl
  · exact tget_tset_ne ({} : SlotRule) _ hm _

/-! ### Colouring runs (R416) -/

/-- What LINE_SET with GO does under an acknowledged hold with no run under way. -/
theorem Mpu.writeLineSet_of_go {b : Bool} {v : BitVec 32} {m : Mpu} (hgo : v.getLsbD 8 = true) (hack : m.holdAck = true)
    (hbusy : m.busy = false) : m.writeLineSet b v =
      if lineTotal b < m.lineBase + m.lineCount ∨ m.lineCount = 0 then { m with lineColour := v.truncate 4, range := true }
      else { m with lineColour := v.truncate 4, busy := true, run := some (m.lineBase, m.lineCount, v.truncate 4)
                    fixed := m.fixed || (!b && decide (8176 < m.lineBase + m.lineCount)) } := by
  unfold Mpu.writeLineSet
  rw [if_neg (by simp [hgo]), if_neg (by simp [hack]), if_neg (by simp [hbusy])]

theorem Mpu.writeLineSet_of_unheld {b : Bool} {v : BitVec 32} {m : Mpu} (hgo : v.getLsbD 8 = true) (hack : m.holdAck = false) :
    m.writeLineSet b v = { m with lineColour := v.truncate 4, notHeld := true } := by
  unfold Mpu.writeLineSet
  rw [if_neg (by simp [hgo]), if_pos (by simp [hack])]

theorem tget_append_of_left {α : Type} {d : α} {t u : List (Nat × α)} {k : Nat} (h : ∀ e ∈ u, e.1 ≠ k) :
    tget d (t ++ u) k = tget d t k := by
  induction t with
  | nil =>
    induction u with
    | nil => rfl
    | cons e u ih =>
      rw [List.forall_mem_cons] at h
      exact (if_neg h.1).trans (ih h.2)
  | cons e t ih => simp only [List.cons_append, tget, ih]

theorem tget_append_of_right {α : Type} {d : α} {t u : List (Nat × α)} {k : Nat} (h : ∀ e ∈ t, e.1 ≠ k) :
    tget d (t ++ u) k = tget d u k := by
  induction t with
  | nil => rfl
  | cons e t ih =>
    rw [List.forall_mem_cons] at h
    exact (if_neg h.1).trans (ih h.2)

/-- A run of keys that all have one value. -/
theorem tget_range_map {α : Type} {d x : α} {lo n k : Nat} (h : lo ≤ k ∧ k < lo + n) :
    tget d ((List.range n).map fun i => (lo + i, x)) k = x := by
  induction n with
  | zero => omega
  | succ n ih =>
    rw [List.range_succ, List.map_append]
    by_cases hk : k = lo + n
    · rw [tget_append_of_right (by simp; omega)]
      exact if_pos hk.symm
    · rw [tget_append_of_left (by simp; omega)]
      exact ih (by omega)

/-- A colouring run gives its lines its colour and leaves the others theirs. -/
theorem tget_setLines (lo n : Nat) (col : BitVec 4) (t : List (Nat × BitVec 4)) (l : Nat) :
    tget 0 (setLines lo n col t) l = if lo ≤ l ∧ l < lo + n then col else tget 0 t l := by
  have hlow := tget_filter_key 0 (fun k => decide (k < lo)) l t
  have hhigh := tget_filter_key 0 (fun k => decide (lo + n ≤ k)) l t
  have hmid : ∀ e ∈ (if col = 0 then [] else (List.range n).map fun i => (lo + i, col)), lo ≤ e.1 ∧ e.1 < lo + n := by
    intro e he
    split at he
    · cases he
    · obtain ⟨i, hi, rfl⟩ := List.mem_map.mp he
      have := List.mem_range.mp hi
      exact ⟨Nat.le_add_right _ _, by omega⟩
  unfold setLines
  by_cases hlo : l < lo
  · rw [tget_append_of_left, tget_append_of_left, hlow]
    · rw [if_neg (c := lo ≤ l ∧ l < lo + n) (by omega)]
      exact if_pos (by simpa using hlo)
    · intro e he h
      have := (hmid e he).1
      omega
    · intro e he h
      have := of_decide_eq_true (List.mem_filter.mp he).2
      omega
  · by_cases hhi : lo + n ≤ l
    · rw [tget_append_of_right, hhigh]
      · rw [if_neg (c := lo ≤ l ∧ l < lo + n) (by omega)]
        exact if_pos (by simpa using hhi)
      · intro e he h
        rcases List.mem_append.mp he with he | he
        · have := of_decide_eq_true (List.mem_filter.mp he).2
          omega
        · have := (hmid e he).2
          omega
    · rw [tget_append_of_left, tget_append_of_right]
      · rw [if_pos (c := lo ≤ l ∧ l < lo + n) (by omega)]
        split
        · next hc => exact hc.symm
        · exact tget_range_map ⟨by omega, by omega⟩
      · intro e he h
        have := of_decide_eq_true (List.mem_filter.mp he).2
        omega
      · intro e he h
        have := of_decide_eq_true (List.mem_filter.mp he).2
        omega

/-- The lines of a run as far as they are not the Hearth's fixed ones. -/
def runLines (b : Bool) (lo n : Nat) : Nat := if b then n else min n (8176 - lo)

theorem lt_runLines_iff {b : Bool} {lo n l : Nat} :
    (lo ≤ l ∧ l < lo + runLines b lo n) ↔ lo ≤ l ∧ l < lo + n ∧ (b = true ∨ l < 8176) := by
  unfold runLines
  cases b
  · simp only [Bool.false_eq_true, if_false, false_or]
    omega
  · simp

/-- R416: a run that nobody waits for ends. -/
theorem State.endRun_of {s : State} {b : Bool} {lo n : Nat} {col : BitVec 4} (h : (s.mpuOf b).run = some (lo, n, col))
    (hw : (s.mpuOf b).clearWait = false) : s.endRun b = s.modMpu b fun m => { m with
      busy := false, run := none, colours := setLines lo (runLines b lo n) col m.colours } := by
  simp only [State.endRun, h, hw, Bool.false_eq_true, if_false]
  rfl

/-! ### The debug master (R420 to R422) -/

section
variable {s : State} {r : DebugReq}

/-- R420: an access of another size than 4 and 8 bytes is refused without counting. -/
theorem State.debugStep_of_size (h4 : r.size ≠ 4) (h8 : r.size ≠ 8) : s.debugStep r = s.debugRefuse r false := by
  have h4 : r.size.toNat ≠ 4 := fun h => h4 (BitVec.eq_of_toNat_eq h)
  have h8 : r.size.toNat ≠ 8 := fun h => h8 (BitVec.eq_of_toNat_eq h)
  exact if_pos (.inl ⟨h4, h8⟩)

theorem State.debugRefuse_unprobed : s.debugRefuse r false =
    if r.write.isNone then State.emit (.debug true 0) { s with zwm := { s.zwm with dbgErr := true } }
    else { s with zwm := { s.zwm with dbgErr := true } } := by
  unfold State.debugRefuse
  exact if_pos Bool.false_ne_true

/-- R421: a stage without a debug scope lets no access pass. -/
theorem State.debugTarget_of_stage (h2 : s.lifeCode ≠ 2) (h3 : s.lifeCode ≠ 3) (h5 : s.lifeCode ≠ 5) : s.debugTarget r = none := by
  have hadmits : ∀ b, s.debugAdmits b = false := by simp [State.debugAdmits, h2, h3, h5]
  unfold State.debugTarget
  split
  · rfl
  · split
    · rfl
    · exact if_neg (by simp [hadmits])

end

/-- JTAG selects the debug access register. -/
def State.atDebug (s : State) : State := { s with pins := { s.pins with jtagIr := 0x10 } }

section
variable {s : State} {r : DebugReq}

/-- R418: an access to a world waits while that world's unit is held. -/
theorem exec_debugAccess_of_world {b : Bool} {a : Area} (h : s.debugWorld (locOf r.addr) = some (b, a)) :
    exec (.debugAccess r) s = .next (if (s.mpuOf b).hold then
      s.atDebug.modMpu b fun m => { m with waiting := m.waiting ++ [.debug r] } else s.atDebug.debugStep r) := by
  have h' : s.atDebug.debugWorld (locOf r.addr) = some (b, a) := h
  have hexec : exec (.debugAccess r) s = execDebugAccess r s := rfl
  rw [hexec]
  unfold execDebugAccess
  rw [← State.atDebug]
  simp only [h']
  rfl

theorem exec_debugAccess_of_nowhere (h : s.debugWorld (locOf r.addr) = none) :
    exec (.debugAccess r) s = .next (s.atDebug.debugStep r) := by
  have h' : s.atDebug.debugWorld (locOf r.addr) = none := h
  have hexec : exec (.debugAccess r) s = execDebugAccess r s := rfl
  rw [hexec]
  unfold execDebugAccess
  rw [← State.atDebug]
  simp only [h']

end

/-! ### The copy engines (R415) -/

section
variable {s : State} {p : CopyPiece} (hs : p.src.toNat % 64 + p.len.val ≤ 64) (hd : p.dst.toNat % 64 + p.len.val ≤ 64)
include hs hd

theorem exec_copyEnginePiece_of_held (h : (s.mpuOf p.bench).hold = true) :
    exec (.copyEnginePiece p) s = .next (s.modMpu p.bench fun m => { m with waiting := m.waiting ++ [.copy p] }) :=
  next_congr ((if_neg (by simp [pieceInLine, hs, hd])).trans (if_pos h))

theorem exec_copyEnginePiece_of_open (h : (s.mpuOf p.bench).hold = false) : exec (.copyEnginePiece p) s = .next (s.copyStep p) :=
  next_congr ((if_neg (by simp [pieceInLine, hs, hd])).trans (if_neg (by simp [h])))

end

theorem State.copyStep_of_move {s t : State} {p : CopyPiece} (h : s.copyMove p = .ok t) : s.copyStep p = t := by
  simp only [State.copyStep, h]

/-- A refused piece is kept with its offset. -/
theorem State.copyStep_of_fault {s : State} {p : CopyPiece} {code : Nat} {a : BitVec 64} (h : s.copyMove p = .error (.fault code a)) :
    (s.copyStep p).zwm = { s.zwm with copyErr := s.zwm.copyErr ++ [(if p.bench then 1 else 0, p.offset.toNat)] } := by
  simp only [State.copyStep, h]
  split
  · simp only [State.logOpen_frame]
  · rfl

/-! ### The decision on a data access (R395, R407 to R410) -/

section
variable {s : State} {b : Bool} {who : Option Nat} {a : BitVec 64} {n : Nat} {w sec : Bool}

theorem State.decideAccess_of_none (h59 : bits a 59 32 = 0) (hal : locOf a % n = 0) (h : areaOf b (locOf a) = none) :
    s.decideAccess b who a n w sec = .error (.fault 0x0E a) := by
  simp [State.decideAccess, h59, hal, h]

variable (hold : (s.mpuOf b).hold = false) (h59 : bits a 59 32 = 0) (hal : locOf a % n = 0)
include hold h59 hal

/-- A slot is reached where its owner and its rule let the access pass. -/
theorem State.decideAccess_of_slot {k : Nat} (h : areaOf b (locOf a) = some (.slot k)) :
    s.decideAccess b who a n w sec = (s.checkSlot b k a w sec).map fun _ => .slot k := by
  simp [State.decideAccess, State.checkHold, h59, hal, h, hold]

/-- A memory is reached in its line's colour; a secret is stored where that colour admits it. -/
theorem State.decideAccess_of_memory {area : Area} (h : areaOf b (locOf a) = some area) (hmem : ∀ k, area ≠ .slot k) :
    s.decideAccess b who a n w sec =
      if colourOf a ≠ s.lineColour area (locOf a) then .error (.fault 0x09 a)
      else if w ∧ sec ∧ ¬ s.secretOk b (s.lineColour area (locOf a)) then .error (.fault 0x06 a)
      else .ok area := by
  unfold State.decideAccess
  rw [if_neg (by simp [h59]), if_neg (by simp [hal]), h]
  dsimp only
  have hhold : s.checkHold b who area a = .ok () := by simp [State.checkHold, hold]
  rw [hhold]
  cases area with
  | slot k => exact absurd rfl (hmem k)
  | rom => rfl
  | sram => rfl
  | msg => rfl
  | bsram => rfl

end

/-- A slot that the world does not own, or whose rule has not the access colour, is refused. -/
theorem State.checkSlot_of_closed {s : State} {b : Bool} {k : Nat} {a : BitVec 64}
    (h : s.owns b k = false ∨ (s.slotRule b k).colours.getLsbD (colourOf a) = false) (w sec : Bool) :
    s.checkSlot b k a w sec = .error (.fault 0x0F a) := by
  refine if_pos ?_
  obtain h | h := h
  · exact .inl (by simp [h])
  · exact .inr (.inl (by simp [h]))

@[simp] theorem State.wordAt_countCorrected (b : Bool) (w : MWord) (s : State) (area : Area) (loc : Nat) :
    (s.countCorrected b w).wordAt area loc = s.wordAt area loc := by
  unfold State.countCorrected
  split
  · cases area <;> rfl
  · rfl

/-- An access that is admitted reaches the area of its address. -/
theorem State.areaOf_of_decideAccess {s : State} {b : Bool} {who : Option Nat} {a : BitVec 64} {n : Nat} {w sec : Bool} {area : Area}
    (h : s.decideAccess b who a n w sec = .ok area) : areaOf b (locOf a) = some area := by
  unfold State.decideAccess at h
  dsimp only at h
  split at h
  · cases h
  split at h
  · cases h
  cases hr : areaOf b (locOf a) with
  | none => rw [hr] at h; cases h
  | some r =>
    rw [hr] at h
    dsimp only at h
    split at h
    · cases h
    · cases r with
      | slot k =>
        dsimp only at h
        cases hc : s.checkSlot b k a w sec with
        | error e => rw [hc] at h; cases h
        | ok u => rw [hc] at h; exact congrArg some (Except.ok.inj h)
      | _ =>
        dsimp only at h
        split at h
        · cases h
        · split at h
          · cases h
          · exact congrArg some (Except.ok.inj h)

/-- What a store that passes leaves in the memory that it reaches. -/
theorem State.dataWrite_of_memory {s t : State} {b : Bool} {who : Option Nat} {a : BitVec 64} {n : Nat} {v : TWord} {area : Area}
    (hd : s.decideAccess b who a n true (v.tag == tSecret) = .ok area) (hmem : ∀ k, area ≠ .slot k)
    (h : s.dataWrite b who a n v = .ok t) :
    ∃ w, t = (if n = 8 then s else s.countCorrected b (s.wordAt area (locOf a))).putWord area (locOf a) w := by
  unfold State.dataWrite at h
  split at h
  · cases h
  · cases area with
    | slot k => exact absurd rfl (hmem k)
    | _ =>
      simp only [hd] at h
      split at h
      · cases h
      · split at h
        · cases h
        · exact ⟨_, (Except.ok.inj h).symm⟩

/-- R389: a store outside the slots puts one word into a memory; else only the count of corrected errors may change. -/
theorem State.dataWrite_memory {s t : State} {b : Bool} {who : Option Nat} {a : BitVec 64} {n : Nat} {v : TWord}
    (hmem : ∀ k, areaOf b (locOf a) ≠ some (.slot k)) (h : s.dataWrite b who a n v = .ok t) :
    ∃ area w, t = (if n = 8 then s else s.countCorrected b (s.wordAt area (locOf a))).putWord area (locOf a) w := by
  cases hd : s.decideAccess b who a n true (v.tag == tSecret) with
  | error e =>
    unfold State.dataWrite at h
    rw [hd] at h
    split at h <;> cases h
  | ok area => exact ⟨area, State.dataWrite_of_memory hd (fun k hk => hmem k (State.areaOf_of_decideAccess (hk ▸ hd))) h⟩

/-! ### The clauses of O48 -/

/-- Settles O48: each clause by what the change of the unit, the edit, the run or the decision was shown to do. -/
theorem protectionUnits : Obligations.ProtectionUnits := by
  unfold Obligations.ProtectionUnits
  refine ⟨fun s c => rfl, fun s b h => ?_, fun s b h => ⟨?_, ?_⟩, fun s b h hb => ?_, fun s b h hb => ?_, fun s b v hgo hack => ?_,
    fun s b v hgo hack hbusy hn hr => ?_, fun s b v hgo hack hbusy hr => ?_, fun s b lo n col hrun hw _ => ?_,
    fun s b off v hack hoff => ?_, fun s v hack => ?_, fun s v hack => ?_, fun s b v => ⟨rfl, rfl, rfl⟩,
    fun s b n v hn hack hwf ho hu => ?_, fun s b n v hn hack ho => ?_, fun s r b a hw h => ?_, fun s r b a hw h => ?_,
    fun s r hw => ?_, fun s r h4 h8 => ?_, fun s r b a h2 h3 h5 => ?_, fun s p hs hd h => exec_copyEnginePiece_of_held hs hd h,
    fun s t p hs hd h hm => ?_, fun s p code a hs hd h hm => ?_, fun s who b a n w sec hold hn h59 hal => ⟨?_, ?_, ?_, ?_⟩,
    fun s b who a n v t hmem h b' area loc harea hslot hloc => ?_⟩
  · exact next_congr (State.modMpu_congr (if_pos h))
  · exact next_congr (State.modMpu_of_fixed (if_neg (by simp [h])))
  · exact next_congr (if_pos (by simp [h]))
  · exact next_congr ((if_neg (by simp [h])).trans (if_pos hb))
  · exact next_congr ((if_neg (by simp [h])).trans (if_neg (by simp [hb])))
  · exact next_congr (State.modMpu_congr (Mpu.writeLineSet_of_unheld hgo hack))
  · have hset := (Mpu.writeLineSet_of_go (b := b) hgo hack hbusy).trans (if_neg (by simp only [lineTotal]; omega))
    have hc : exec (.lineSet b v) s = .next (s.modMpu b (Mpu.writeLineSet b v)) := rfl
    refine ⟨_, hc, ?_, ?_, ?_, State.mpuOf_not_modMpu .., State.modMpu_zwmOnly ..⟩ <;> rw [State.mpuOf_modMpu, hset]
  · exact next_congr (State.modMpu_congr ((Mpu.writeLineSet_of_go hgo hack hbusy).trans (if_pos (.inl hr))))
  · refine ⟨_, next_congr (State.endRun_of hrun hw), ?_, ?_, fun l => ?_, State.mpuOf_not_modMpu .., State.modMpu_zwmOnly ..⟩
    · rw [State.mpuOf_modMpu]
    · rw [State.mpuOf_modMpu]
    · rw [State.mpuOf_modMpu, tget_setLines]
      simp only [lt_runLines_iff]
  · refine next_congr (State.mpuEdit_of_unheld hack ?_ v)
    obtain rfl | rfl | h := hoff
    · exact .inl rfl
    · exact .inr (.inl rfl)
    · exact .inr (.inr h)
  · exact ⟨_, next_congr (State.mpuEdit_secret (b := false) hack v), rfl, rfl⟩
  · exact ⟨_, next_congr (State.mpuEdit_secret (b := true) hack v), rfl, rfl⟩
  · have hopen : (s.owns b n && n != unitSlot b) = true := by simpa [ho, unitSlot] using hu
    have hc := next_congr ((State.mpuEdit_rule hn b v s).trans (State.heldEdit_of_held hack _))
    rw [hopen] at hc
    obtain ⟨hsame, hother⟩ := State.slotRule_writeRule hwf hu v
    exact ⟨_, hc, hsame, hother, State.mpuOf_not_modMpu .., State.modMpu_zwmOnly ..⟩
  · refine next_congr ((State.mpuEdit_rule hn b v s).trans ((State.heldEdit_of_held hack _).trans (State.modMpu_congr ?_)))
    exact if_pos (by simp [ho])
  · exact (exec_debugAccess_of_world hw).trans (congrArg _ (if_pos h))
  · exact (exec_debugAccess_of_world hw).trans (congrArg _ (if_neg (by simp [h])))
  · exact exec_debugAccess_of_nowhere hw
  · rw [State.debugStep_of_size h4 h8, State.debugRefuse_unprobed]
    cases r.write <;> exact ⟨rfl, rfl, rfl⟩
  · rw [State.debugTarget_of_stage h2 h3 h5]
    exact Option.some_ne_none _ |>.symm
  · rw [exec_copyEnginePiece_of_open hs hd h, State.copyStep_of_move hm]
  · exact ⟨_, exec_copyEnginePiece_of_open hs hd h, State.copyStep_of_fault hm⟩
  · intro area h hmem hcol
    exact (State.decideAccess_of_memory hold h59 hal h hmem).trans (if_pos hcol)
  · intro area h hmem hcol hsec
    refine (State.decideAccess_of_memory hold h59 hal h hmem).trans ((if_neg (not_not.mpr hcol)).trans (if_neg ?_))
    rintro ⟨rfl, rfl, -⟩
    cases hsec
  · intro k h hclosed
    rw [State.decideAccess_of_slot hold h59 hal h, State.checkSlot_of_closed hclosed]
    rfl
  · exact State.decideAccess_of_none h59 hal
  · obtain ⟨area', x, rfl⟩ := State.dataWrite_memory hmem h
    rw [State.wordAt_putWord_ne _ _ _ _ _ _ hloc]
    split
    · rfl
    · exact State.wordAt_countCorrected ..

end Sys2Proof.Machine
end

section
/-!
SUPPORT for O46 and O47 (R368 to R372): the rings of the message memory. What a message leaves there, what the reader finds, what a tail
that is written does, and the handshake.
-/
namespace Sys2Proof.Machine

/-! ### Words and bytes -/

theorem leNat_lt (b : Bytes) : leNat b < 256 ^ b.length := by
  induction b with
  | nil => decide
  | cons x b ih =>
    have hx : x.toNat < 256 := x.isLt
    rw [leNat, List.length_cons, pow_succ]
    omega

theorem leBytes_leNat (b : Bytes) : leBytes b.length (leNat b) = b := by
  induction b with
  | nil => rfl
  | cons x b ih =>
    have hx : x.toNat < 256 := x.isLt
    rw [leNat, List.length_cons, leBytes]
    have hlow : BitVec.ofNat 8 (x.toNat + 256 * leNat b) = x := by
      apply BitVec.eq_of_toNat_eq
      rw [BitVec.toNat_ofNat]
      omega
    have hhigh : (x.toNat + 256 * leNat b) / 256 = leNat b := by omega
    rw [hlow, hhigh, ih]

/-- The eight bytes of a word that was made of eight bytes. -/
theorem leBytes_wordOf {b : Bytes} (h : b.length = 8) : leBytes 8 (wordOf b).toNat = b := by
  have hlt := leNat_lt b
  rw [h] at hlt
  rw [wordOf, BitVec.toNat_ofNat, Nat.mod_eq_of_lt (by omega)]
  conv_lhs => rw [← h]
  exact leBytes_leNat b

theorem chunksFuel_of_length (m : Nat) : ∀ (f : Nat) (b : Bytes), b.length = 8 * m → m ≤ f →
    chunksFuel 8 f b = (List.range m).map fun i => (b.drop (8 * i)).take 8 := by
  induction m with
  | zero =>
    intro f b hb _
    rw [List.length_eq_zero_iff.mp hb]
    cases f <;> rfl
  | succ m ih =>
    intro f b hb hf
    obtain ⟨f, rfl⟩ : ∃ g, f = g + 1 := ⟨f - 1, by omega⟩
    have hne : b ≠ [] := List.ne_nil_of_length_pos (by omega)
    have hdrop : (b.drop 8).length = 8 * m := by rw [List.length_drop]; omega
    rw [chunksFuel_cons 8 f hne, ih f (b.drop 8) hdrop (by omega), List.range_succ_eq_map, List.map_cons, List.map_map]
    refine congrArg₂ List.cons rfl (List.map_congr_left fun i _ => ?_)
    rw [List.drop_drop]
    exact congrArg (fun k => (b.drop k).take 8) (by simp only [Nat.succ_eq_add_one]; omega)

/-! ### A message in the message memory (R368, R369) -/

/-- Word `i` of a message as the memory holds it. -/
def msgWord (b : Bytes) (i : Nat) : MWord := mword (wordOf ((b.drop (8 * i)).take 8)) tInt

/-- The message memory with `m` words of a message from word `k` on. -/
def putMsg (k : Nat) (b : Bytes) (m : Nat) (t : List (Nat × MWord)) : List (Nat × MWord) :=
  (List.range m).foldl (fun t i => tset {} (k + i) (msgWord b i) t) t

theorem putMsg_succ (k : Nat) (b : Bytes) (m : Nat) (t : List (Nat × MWord)) :
    putMsg k b (m + 1) t = tset {} (k + m) (msgWord b m) (putMsg k b m t) := by
  simp only [putMsg, List.range_succ, List.foldl_append, List.foldl_cons, List.foldl_nil]

theorem twf_putMsg (k : Nat) (b : Bytes) (m : Nat) {t : List (Nat × MWord)} (h : twf {} t = true) : twf {} (putMsg k b m t) = true := by
  induction m with
  | zero => exact h
  | succ m ih =>
    rw [putMsg_succ]
    exact twf_tset _ _ _ ih

theorem tget_putMsg (k : Nat) (b : Bytes) (m : Nat) {t : List (Nat × MWord)} (h : twf {} t = true) {j : Nat} (hj : j < m) :
    tget {} (putMsg k b m t) (k + j) = msgWord b j := by
  induction m with
  | zero => omega
  | succ m ih =>
    rw [putMsg_succ]
    by_cases hjm : j = m
    · rw [hjm]
      exact tget_tset_same ({} : MWord) _ _ (twf_putMsg k b m h)
    · rw [tget_tset_ne ({} : MWord) _ (by omega)]
      exact ih (by omega)

theorem State.storeMsg_eq {k loc : Nat} (hloc : loc = 8 * k) {b : Bytes} {m : Nat} (hb : b.length = 8 * m) (s : State) :
    s.storeMsg loc b = { s with zwm := { s.zwm with msg := putMsg k b m s.zwm.msg } } := by
  have hchunks : (chunks 8 b).zipIdx = (List.range m).map fun i => ((b.drop (8 * i)).take 8, i) := by
    rw [chunks, chunksFuel_of_length m _ b hb (by omega)]
    apply List.ext_getElem
    · simp
    · intro i h1 h2
      simp
  rw [State.storeMsg, hchunks, List.foldl_map]
  clear hchunks hb
  induction m with
  | zero => rfl
  | succ m ih =>
    have hkey : (loc + 8 * m) / 8 = k + m := by omega
    rw [List.range_succ, List.foldl_append, ih, putMsg_succ]
    simp only [List.foldl_cons, List.foldl_nil, State.putWord, hkey, msgWord]

/-- R368: the reader finds the message that was stored. -/
theorem State.ringMsg_of_stored {s : State} {bench : Bool} {n : Nat} {b : Bytes} {t : List (Nat × MWord)} (hb : b.length = 256)
    (ht : twf {} t = true) (h : s.zwm.msg = putMsg (ringSlot bench n / 8) b 32 t) : s.ringMsg bench n = b := by
  have h8 : ringSlot bench n = 8 * (ringSlot bench n / 8) := by
    cases bench <;> simp only [ringSlot, ringBase] <;> simp only [Bool.false_eq_true, if_false, if_true] <;> omega
  apply List.ext_getElem
  · simp [State.ringMsg, hb]
  · intro i h1 h2
    have hi : i < 256 := hb ▸ h2
    have hword : (ringSlot bench n + i) / 8 = ringSlot bench n / 8 + i / 8 := by omega
    have hbyte : (ringSlot bench n + i) % 8 = i % 8 := by omega
    have hlen : ((b.drop (8 * (i / 8))).take 8).length = 8 := by rw [List.length_take, List.length_drop]; omega
    have hget : s.wordAt .msg (ringSlot bench n + i) = msgWord b (i / 8) := by
      rw [State.wordAt, h, hword]
      exact tget_putMsg _ b 32 ht (by omega)
    simp only [State.ringMsg, List.getElem_map, List.getElem_range, State.msgByte, hget, hbyte, msgWord, mword, leBytes_wordOf hlen]
    rw [byteAt, List.getD_eq_getElem _ _ (by omega), List.getElem_take, List.getElem_drop]
    exact getElem_congr_idx (by omega)

/-! ### Tails (R361, R368) -/

/-- The world with an interrupt line pending. -/
def World.pend (line : Nat) (w : World) : World := { w with irqs := (w.irqs.filter (· != line)) ++ [line] }

/-- The cores after a line of a world was raised: its cores wait no longer. -/
def wakeCores (bench : Bool) (t : List (Nat × Core)) : List (Nat × Core) :=
  tmap {} (fun c x => if isBench c = bench then { x with wfi := false } else x) t

theorem World.pend_irqs_ne_nil (line : Nat) (w : World) : (w.pend line).irqs ≠ [] := by simp [World.pend]

/-- The state after the Bench passed `k` slots to the Hearth. -/
def State.passedToHearth (k : Nat) (s : State) : State :=
  { s with
    worlds := { s.worlds with
      toHearth := { s.worlds.toHearth with tail := s.worlds.toHearth.tail + k }, hearth := s.worlds.hearth.pend 40
      pendingSvc := s.worlds.pendingSvc ++ (List.range k).map fun i => .ring (s.worlds.toHearth.tail + i) }
    zwm := { s.zwm with cores := wakeCores false s.zwm.cores } }

/-- The state after the Hearth passed `k` slots to the Bench. -/
def State.passedToBench (k : Nat) (s : State) : State :=
  { s with
    worlds := { s.worlds with
      toBench := { s.worlds.toBench with tail := s.worlds.toBench.tail + k }, bench := s.worlds.bench.pend 94 }
    zwm := { s.zwm with cores := wakeCores true s.zwm.cores } }

section
variable {s : State} {k : Nat} (hk : k ≠ 0)
include hk

theorem State.ringTail_toHearth (h : s.worlds.toHearth.tail + k - s.worlds.toHearth.head ≤ 16) : s.ringTail true k = s.passedToHearth k := by
  have hroom : ¬ (k = 0 ∨ 16 < s.worlds.toHearth.tail + k - s.worlds.toHearth.head) := not_or.mpr ⟨hk, Nat.not_lt.mpr h⟩
  simp only [State.ringTail, State.ringOf, Bool.not_true, Bool.false_eq_true, if_false, if_neg hroom, if_true, State.modRing,
    State.raiseLine, State.passedToHearth, wakeCores, World.pend, ringLine]

theorem State.ringTail_toBench (h : s.worlds.toBench.tail + k - s.worlds.toBench.head ≤ 16) : s.ringTail false k = s.passedToBench k := by
  have hroom : ¬ (k = 0 ∨ 16 < s.worlds.toBench.tail + k - s.worlds.toBench.head) := not_or.mpr ⟨hk, Nat.not_lt.mpr h⟩
  simp only [State.ringTail, State.ringOf, Bool.not_false, if_true, if_neg hroom, Bool.false_eq_true, if_false, State.modRing,
    State.raiseLine, State.passedToBench, wakeCores, World.pend, ringLine]

end

theorem State.ringTail_of_full {s : State} {bench : Bool} {k : Nat}
    (h : k = 0 ∨ 16 < (s.ringOf (!bench)).tail + k - (s.ringOf (!bench)).head) : s.ringTail bench k = s :=
  if_pos h

/-! ### Messages (R368, R370) -/

theorem length_fit (n : Nat) (b : Bytes) : (fit n b).length = n := by
  rw [fit, List.length_append, List.length_take, List.length_replicate]
  omega

/-- The state with a message in slot `n` of the ring that a world reads. -/
def State.stored (bench : Bool) (n : Nat) (msg : Bytes) (s : State) : State :=
  { s with zwm := { s.zwm with msg := putMsg (ringSlot bench n / 8) (fit 256 msg) 32 s.zwm.msg } }

theorem State.storeMsg_slot (bench : Bool) (n : Nat) (msg : Bytes) (s : State) :
    s.storeMsg (ringSlot bench n) (fit 256 msg) = s.stored bench n msg := by
  refine State.storeMsg_eq ?_ (m := 32) (length_fit 256 msg) s
  cases bench <;> simp only [ringSlot, ringBase] <;> simp only [Bool.false_eq_true, if_false, if_true] <;> omega

theorem Ring.full_eq_false {r : Ring} (h : r.tail - r.head < 16) : r.full = false := by simpa [Ring.full] using h

theorem State.ringSend_toHearth {s : State} (h : s.worlds.toHearth.tail - s.worlds.toHearth.head < 16) (msg : Bytes) :
    s.ringSend true msg = (s.stored false s.worlds.toHearth.tail msg).passedToHearth 1 := by
  refine (if_neg (ne_true_of_eq_false (Ring.full_eq_false h))).trans ((congrArg (State.ringTail true 1) (State.storeMsg_slot ..)).trans ?_)
  have hroom : s.worlds.toHearth.tail + 1 - s.worlds.toHearth.head ≤ 16 := by omega
  exact State.ringTail_toHearth (s := s.stored false s.worlds.toHearth.tail msg) one_ne_zero hroom

theorem State.ringSend_toBench {s : State} (h : s.worlds.toBench.tail - s.worlds.toBench.head < 16) (msg : Bytes) :
    s.ringSend false msg = (s.stored true s.worlds.toBench.tail msg).passedToBench 1 := by
  refine (if_neg (ne_true_of_eq_false (Ring.full_eq_false h))).trans ((congrArg (State.ringTail false 1) (State.storeMsg_slot ..)).trans ?_)
  have hroom : s.worlds.toBench.tail + 1 - s.worlds.toBench.head ≤ 16 := by omega
  exact State.ringTail_toBench (s := s.stored true s.worlds.toBench.tail msg) one_ne_zero hroom

/-! ### The handshake (R372, R373) -/

/-- The Bench's hello. -/
def State.hello (s : State) : Bytes :=
  ringMessage 1 0 0 (leBytes 2 s.worlds.bench.hbiMin.toNat ++ leBytes 2 s.worlds.bench.hbiMax.toNat)

theorem State.hello_eq (s : State) : s.hello = [1, 0, 0, 0, 4, 0, 0, 0, 0, 0, 0, 0, 0, 0, 0, 0] ++
    leBytes 2 s.worlds.bench.hbiMin.toNat ++ leBytes 2 s.worlds.bench.hbiMax.toNat := by
  have hhead : leBytes 2 1 ++ leBytes 2 0 ++ leBytes 2 (2 + 2) ++ leBytes 2 0 ++ List.replicate 8 0 =
    [1, 0, 0, 0, 4, 0, 0, 0, 0, 0, 0, 0, 0, 0, 0, 0] := by decide
  rw [State.hello, ringMessage, List.length_append, leBytes_length, leBytes_length, hhead, List.append_assoc]

/-- The state in which the Bench's hello stands in its next slot. -/
def State.helloSent (s : State) : State :=
  let t := (s.stored false s.worlds.toHearth.tail s.hello).passedToHearth 1
  { t with worlds := { t.worlds with helloOut := true } }

theorem State.sendHello_of_room {s : State} (h : s.worlds.toHearth.tail - s.worlds.toHearth.head < 16) : s.sendHello = s.helloSent := by
  refine (if_neg (ne_true_of_eq_false (Ring.full_eq_false h))).trans ?_
  have hsend := State.ringSend_toHearth h s.hello
  unfold State.hello at hsend
  dsimp only
  rw [hsend]
  rfl

theorem State.sendHello_of_full {s : State} (h : 16 ≤ s.worlds.toHearth.tail - s.worlds.toHearth.head) : s.sendHello = s :=
  if_pos (by simpa [Ring.full] using h)

/-- The reader of the ring finds the hello. -/
theorem State.ringMsg_helloSent {s : State} (hw : twf {} s.zwm.msg = true) :
    s.helloSent.ringMsg false s.worlds.toHearth.tail = fit 256 s.hello := by
  have hmsg : s.helloSent.zwm.msg = putMsg (ringSlot false s.worlds.toHearth.tail / 8) (fit 256 s.hello) 32 s.zwm.msg := by
    simp only [State.helloSent, State.passedToHearth, State.stored]
  exact State.ringMsg_of_stored (length_fit 256 _) hw hmsg

/-- The state with the oldest slot of the Hearth's ring free and its service done. -/
def State.freed (run : Option Service) (pend : List Service) (cores : List (Nat × Core)) (hmem : List (Nat × MWord)) (s : State) : State :=
  { s with
    worlds := { s.worlds with running := run, pendingSvc := pend, toHearth := Ring.free 1 s.worlds.toHearth }
    zwm := { s.zwm with cores := cores, hmem := hmem } }

theorem State.ringServed_freed (n : Nat) (s : State) :
    ∃ run pend cores hmem, s.ringServed n = s.freed run pend cores hmem ∧
      (s.worlds.running = none → run = none ∧ hmem = s.zwm.hmem) := by
  unfold State.ringServed
  dsimp only
  split
  · next h => exact ⟨_, _, _, _, rfl, fun hn => by rw [hn] at h; cases h⟩
  · exact ⟨_, _, _, _, rfl, fun hn => ⟨hn, rfl⟩⟩

/-- The state after the Hearth has answered the hello at the head of its ring, but for what it was serving. -/
structure State.HelloAnswered (s t : State) : Prop where
  only : t = { s with worlds := t.worlds, zwm := t.zwm, store := t.store }
  worlds : t.worlds = { s.worlds with
    toHearth := { s.worlds.toHearth with head := s.worlds.toHearth.head + 1 }
    toBench := { s.worlds.toBench with tail := s.worlds.toBench.tail + 1 }
    bench := s.worlds.bench.pend 94, hbi := s.chosen, helloOut := false, vaultUp := s.chosen != 0
    running := t.worlds.running, pendingSvc := t.worlds.pendingSvc }
  bmem : t.zwm.bmem = s.zwm.bmem
  hmem : s.worlds.running = none → t.zwm.hmem = s.zwm.hmem

/-- The versions settle the handshake, whatever the Hearth was serving and whatever message it sends. -/
theorem State.useChosen_answered {s : State} {run : Option Service} {pend : List Service} {cores : List (Nat × Core)}
    {hmem : List (Nat × MWord)} (hlt : s.worlds.toHearth.head < s.worlds.toHearth.tail)
    (hidle : s.worlds.running = none → run = none ∧ hmem = s.zwm.hmem) (msg : Bytes) :
    s.HelloAnswered (((s.freed run pend cores hmem).stored true s.worlds.toBench.tail msg).passedToBench 1).useChosen := by
  have hfree : Ring.free 1 s.worlds.toHearth = { s.worlds.toHearth with head := s.worlds.toHearth.head + 1 } := if_pos (by omega)
  unfold State.useChosen
  dsimp only
  obtain ⟨q, l, d, hlog⟩ := State.log_only 0x0C03 0xF2 _ _
  rw [hlog]
  refine ⟨rfl, ?_, rfl, fun hn => (hidle hn).2⟩
  rw [← hfree]
  rfl

theorem State.answerHello_of {s : State} (hw : s.helloWaits = true) (hroom : s.worlds.toBench.tail - s.worlds.toBench.head < 16) :
    s.HelloAnswered s.answerHello := by
  have hlt : s.worlds.toHearth.head < s.worlds.toHearth.tail := of_decide_eq_true (Bool.and_eq_true_iff.mp hw).1
  obtain ⟨run, pend, cores, hmem, hserved, hidle⟩ := State.ringServed_freed s.worlds.toHearth.head s
  unfold State.answerHello
  dsimp only
  rw [if_neg (by rw [hw, Ring.full_eq_false hroom]; simp), hserved, State.ringSend_toBench]
  · exact State.useChosen_answered hlt hidle _
  · exact hroom

/-- With no hello at the head of its ring, or no room for the answer, the Hearth answers nothing. -/
theorem State.answerHello_of_idle {s : State} (h : s.helloWaits = false ∨ 16 ≤ s.worlds.toBench.tail - s.worlds.toBench.head) :
    s.answerHello = s := by
  refine if_pos ?_
  obtain h | h := h
  · exact .inl (by simp [h])
  · exact .inr (by simpa [Ring.full] using h)

/-! ### The chosen version (R372) -/

theorem State.chosen_of_overlap {s : State} {v : BitVec 16} (h₁ : s.worlds.hearth.hbiMin.toNat ≤ v.toNat)
    (h₂ : v.toNat ≤ s.worlds.hearth.hbiMax.toNat) (h₃ : s.worlds.bench.hbiMin.toNat ≤ v.toNat)
    (h₄ : v.toNat ≤ s.worlds.bench.hbiMax.toNat) :
    s.chosen.toNat = min s.worlds.hearth.hbiMax.toNat s.worlds.bench.hbiMax.toNat := by
  have hlt := s.worlds.hearth.hbiMax.isLt
  unfold State.chosen
  dsimp only
  rw [if_pos (by omega), BitVec.toNat_ofNat]
  omega

theorem State.chosen_of_disjoint {s : State} (h : s.worlds.hearth.hbiMax.toNat < s.worlds.bench.hbiMin.toNat ∨
    s.worlds.bench.hbiMax.toNat < s.worlds.hearth.hbiMin.toNat) : s.chosen = 0 :=
  if_neg (by omega)

end Sys2Proof.Machine
end

section
/-!
PROOF of O46 (R361, R364, R365, R368, R370, R372 to R379): services, the mailbox, the rings and the handshake.
-/
namespace Sys2Proof.Machine

/-! ### The entry of a service (R364, R365) -/

/-- The Hearth's core at the entry of a service. -/
def Core.atEntry (s : State) (v : Service) (c : Core) : Core :=
  { c with
    regs := [(0, { val := s.entryA0 v, tag := tAddr }), (1, { val := s.entryA1 v, tag := tInt }),
      (2, { val := s.entryA2 v, tag := tAddr }), (15, { val := 0x00180000, tag := tAddr })]
    acc := 0, accTag := tPoison, fl := 0, pc := BitVec.ofNat 64 (hearthBase + v.entry), rep := none, wfi := false }

theorem State.enterService_eq (v : Service) (s : State) :
    s.enterService v = (s.modCore 0 (Core.atEntry s v)).spend (if v = .benchNotice then 3 else 0) := rfl

/-- The state in which the Hearth runs service `v`. -/
def State.startsService (v : Service) (s : State) : State :=
  { s with worlds := { s.worlds with running := some v, pendingSvc := s.worlds.pendingSvc.erase v } }

theorem Service.entry_le (v : Service) : v.entry ≤ 0x100 := by
  cases v <;> simp [Service.entry]

/-- The entry of a service is not the PC of a core at reset. -/
theorem Service.entry_ne_zero (v : Service) : BitVec.ofNat 64 (hearthBase + v.entry) ≠ 0 := by
  intro h
  have hle := v.entry_le
  have hval : (hearthBase + v.entry) % 2 ^ 64 = 0 := (BitVec.toNat_ofNat _ _).symm.trans (congrArg BitVec.toNat h)
  unfold hearthBase at hval
  omega

theorem State.coreOf_enterService (v : Service) (s : State) : (s.enterService v).coreOf 0 = Core.atEntry s v (s.coreOf 0) := by
  have hne : Core.atEntry s v (s.coreOf 0) ≠ {} := fun h => v.entry_ne_zero (congrArg Core.pc h)
  exact State.coreOf_modCore_of_ne_default 0 _ s hne

theorem State.coreOf_enterService_ne (v : Service) {k : Nat} (hk : k ≠ 0) (s : State) : (s.enterService v).coreOf k = s.coreOf k :=
  tget_tset_ne ({} : Core) _ hk _

theorem exec_serviceEntry_of {s : State} {v : Service} (h : s.worlds.running = none)
    (hf : s.worlds.pendingSvc.find? s.svcMayStart = some v) (hc : s.canServe = true) :
    exec .serviceEntry s = .next ((s.startsService v).enterService v) := by
  refine next_congr ?_
  rw [h, hf]
  exact if_pos hc

theorem exec_serviceEntry_of_running {s : State} {v : Service} (h : s.worlds.running = some v) : exec .serviceEntry s = .next s := by
  refine next_congr ?_
  rw [h]

/-! ### VAULTMBX (R373 to R378) -/

/-- A response that is not discarded is released as a whole. -/
theorem State.mbxAnswer_released {s : State} (h : s.worlds.discard = false) (status detail : Nat) (body : Bytes) :
    (s.mbxAnswer status detail body).worlds = { s.worlds with
      running := if s.worlds.running = some .mbx then none else s.worlds.running
      rsp := mbxResponse s.mbxCode (leAt s.worlds.snap 2 2) status detail body, go := false, done := true, snap := [] } := by
  unfold State.mbxAnswer State.mbxRelease
  dsimp only
  by_cases hr : s.worlds.running = some .mbx
  · simp [hr, h, State.serviceRegs]
  · simp [hr, h]

/-- The state in which the Hearth has the request. -/
def State.requested (s : State) : State := { s with worlds := { s.worlds with go := true, snap := fit 256 s.worlds.req } }

section
variable {s : State} (hp : s.pfOpen = true) (hgo : s.worlds.go = false)
include hp hgo

theorem exec_vaultmbxGo_of_idle : exec .vaultmbxGo s = .next s.requested.mbxSubmit :=
  next_congr ((State.onBar_of hp _).trans (if_neg (by simp [hgo])))

/-- R378: a Hearth that does not serve leaves the mailbox to answer. -/
theorem exec_vaultmbxGo_of_unserved (hst : s.chip.state ≠ .recovery) (hh : s.worlds.hearth.status ≠ 1) :
    exec .vaultmbxGo s = .next (s.requested.mbxAnswer 0x0302 0xFF []) := by
  refine (exec_vaultmbxGo_of_idle hp hgo).trans (congrArg _ (if_pos ⟨?_, hh⟩))
  have hst : s.requested.chip.state ≠ .recovery := hst
  simpa using hst

end

/-- A sound request to a serving Hearth is taken where its service is known. -/
theorem State.mbxSubmit_of_sound {s : State} (hst : s.chip.state ≠ .recovery) (hh : s.worlds.hearth.status = 1)
    (hhbi : s.worlds.hbi ≠ 0) (hf : mbxHeaderFault (fit 256 s.worlds.req) = none) : s.requested.mbxSubmit =
    if ¬ mbxCodes.contains (byteAt (fit 256 s.worlds.req) 0).toNat = true then
      s.requested.mbxAnswer 0x0101 (byteAt (fit 256 s.worlds.req) 0).toNat []
    else { s.requested with worlds := { s.requested.worlds with pendingSvc := s.worlds.pendingSvc ++ [.mbx] } } := by
  have hst : s.requested.chip.state ≠ .recovery := hst
  have hrom : ¬ (s.requested.chip.state == .recovery) = true := by simpa using hst
  have hf : mbxHeaderFault s.requested.worlds.snap = none := hf
  have hh : s.requested.worlds.hearth.status = 1 := hh
  have hhbi : s.requested.worlds.hbi ≠ 0 := hhbi
  unfold State.mbxSubmit
  dsimp only
  rw [if_neg (not_and.mpr fun _ => not_not.mpr hh), if_neg (not_and.mpr fun h => absurd h hrom),
    if_neg (not_and.mpr fun h => absurd h (not_or.mpr ⟨hrom, hhbi⟩)), hf]
  rfl

/-! ### The handshake (R372) -/

theorem State.helloSent_worlds (s : State) : s.helloSent.worlds = { s.worlds with
    toHearth := { s.worlds.toHearth with tail := s.worlds.toHearth.tail + 1 }, hearth := s.worlds.hearth.pend 40, helloOut := true
    pendingSvc := s.worlds.pendingSvc ++ [.ring s.worlds.toHearth.tail] } := by
  simp only [State.helloSent, State.passedToHearth, State.stored]
  rfl

theorem State.helloSent_only (s : State) : s.helloSent = { s with worlds := s.helloSent.worlds, zwm := s.helloSent.zwm } := by
  simp only [State.helloSent, State.passedToHearth, State.stored]

theorem exec_hello_of_serving {s : State} {c : Instr} (hc : c = .hbiHello ∨ (c = .hbiHelloRetry ∧ s.worlds.helloOut = true))
    (hb : s.worlds.bench.status = 1) : exec c s = .next s.sendHello := by
  obtain rfl | ⟨rfl, ho⟩ := hc
  · exact next_congr (if_pos hb)
  · exact next_congr (if_pos ⟨hb, ho⟩)

/-- A Bench that does not serve, or whose ring is full, sends no hello. -/
theorem exec_hello_of_waiting {s : State} {c : Instr} (hc : c = .hbiHello ∨ c = .hbiHelloRetry)
    (h : s.worlds.bench.status ≠ 1 ∨ 16 ≤ s.worlds.toHearth.tail - s.worlds.toHearth.head) : exec c s = .next s := by
  have hsend : s.worlds.bench.status = 1 → s.sendHello = s := fun hb =>
    State.sendHello_of_full (h.resolve_left (not_not.mpr hb))
  obtain rfl | rfl := hc <;> refine next_congr ?_
  · split
    · next hb => exact hsend hb
    · rfl
  · split
    · next hb => exact hsend hb.1
    · rfl

theorem State.helloWaits_iff (s : State) : s.helloWaits = true ↔
    s.worlds.toHearth.head < s.worlds.toHearth.tail ∧ leAt (s.ringMsg false s.worlds.toHearth.head) 0 2 = 1 := by
  simp [State.helloWaits]

/-- A Hearth that does not serve, has no hello or no room for its answer answers nothing. -/
theorem exec_hbiAck_of_waiting {s : State} (h : s.worlds.hearth.status ≠ 1 ∨ s.worlds.toHearth.tail ≤ s.worlds.toHearth.head ∨
    leAt (s.ringMsg false s.worlds.toHearth.head) 0 2 ≠ 1 ∨ 16 ≤ s.worlds.toBench.tail - s.worlds.toBench.head) :
    exec .hbiAck s = .next s := by
  refine next_congr ?_
  split
  · next hh =>
    refine State.answerHello_of_idle ?_
    obtain h | h | h | h := h
    · exact absurd hh h
    · exact .inl (Bool.eq_false_iff.mpr fun hw => by have := ((State.helloWaits_iff s).mp hw).1; omega)
    · exact .inl (Bool.eq_false_iff.mpr fun hw => h ((State.helloWaits_iff s).mp hw).2)
    · exact .inr h
  · rfl

/-- R379: a kick with another value changes none of the worlds. -/
theorem exec_wdogKick_of_other {s : State} {c : Fin 5} {v : BitVec 32} (h : v ≠ 0x4B49) :
    exec (.wdogKick c v) s = .next (s.logOpen 0x0C (if c.val = 0 then 0xF1 else 0xF2) 3790 [BitVec.ofNat 8 c.val]) :=
  next_congr (if_neg h)

/-! ### The clauses of O46 -/

/-- Settles O46: the entry of a service, the mailbox, the rings and the handshake by what each was shown to do. -/
theorem worldServices : Obligations.WorldServices := by
  unfold Obligations.WorldServices
  refine ⟨fun s v hr hf hc => ?_, fun s v h => exec_serviceEntry_of_running h, fun s hp hgo => ?_,
    fun s hp hgo hst hh hhbi hf hcode => ?_, fun s hp hgo hst hh hd hr => ?_, fun s hp hgo hst hh hhbi hd hr hf hcode => ?_,
    fun s status detail body hr hd => ?_, fun s k hk h => ?_, fun s k hk h => ?_, fun s k bench h => ?_, fun s n h => ?_,
    fun s n h => ?_, fun s c hc hb h hw => ?_, fun s c hc h => exec_hello_of_waiting hc h, fun s h => ?_,
    fun s hh hlt hm hroom => ?_, fun s h => exec_hbiAck_of_waiting h, fun s c => rfl, fun s c v h => ?_⟩
  · have hcore := State.coreOf_enterService v (s.startsService v)
    have hreg : ∀ r, ((s.startsService v).enterService v).reg 0 r =
        tget {} (Core.atEntry (s.startsService v) v ((s.startsService v).coreOf 0)).regs r := fun r => by rw [State.reg, hcore]
    refine ⟨_, exec_serviceEntry_of hr hf hc, rfl, ?_, ?_, ?_, ?_, ?_, ?_, ?_, ?_, ?_, ?_, ?_, ?_,
      fun k hk => State.coreOf_enterService_ne v hk _, rfl⟩
    · rw [hcore]
      cases v <;> rfl
    · rw [hreg]
      rfl
    · rw [hreg]
      rfl
    · rintro rfl
      rw [hreg]
      rfl
    · rintro n rfl
      rw [hreg]
      rfl
    · rintro id o rfl ho
      have ho : (s.startsService (.chan id)).opOf id = some o := ho
      rw [hreg]
      show 1 + 256 * BitVec.ofNat 64 ((((s.startsService (.chan id)).opOf id).map (·.fn)).getD 0) = _
      rw [ho]
      rfl
    · rw [hreg]
      rfl
    · rw [hreg]
      rfl
    · intro r h3 h14
      rw [hreg]
      simp only [Core.atEntry, tget]
      rw [if_neg (by omega), if_neg (by omega), if_neg (by omega), if_neg (by omega)]
      rfl
    · rw [hcore]
      rfl
    · rw [hcore]
      rfl
    · rw [hcore]
      rfl
  · exact next_congr ((State.onBar_of hp _).trans (if_pos hgo))
  · refine (exec_vaultmbxGo_of_idle hp hgo).trans (congrArg _ ((State.mbxSubmit_of_sound hst hh hhbi hf).trans ?_))
    exact if_neg (not_not.mpr hcode)
  · have hd : s.requested.worlds.discard = false := hd
    have hr : s.requested.worlds.running = none := hr
    refine ⟨_, exec_vaultmbxGo_of_unserved hp hgo hst hh, ?_, ?_, ?_, ?_⟩ <;> rw [State.mbxAnswer_released hd] <;> rfl
  · have hd : s.requested.worlds.discard = false := hd
    have hc := (exec_vaultmbxGo_of_idle hp hgo).trans (congrArg _ ((State.mbxSubmit_of_sound hst hh hhbi hf).trans
      (if_pos (ne_true_of_eq_false hcode))))
    refine ⟨_, hc, ?_, ?_, ?_, ?_⟩ <;> rw [State.mbxAnswer_released hd] <;> rfl
  · refine ⟨?_, ?_, ?_, ?_, ?_, ?_, ?_⟩
    · rw [State.mbxAnswer_released hd]
    · rw [State.mbxAnswer_released hd]
    · rw [State.mbxAnswer_released hd]
    · rw [State.mbxAnswer_released hd, hr]
      rfl
    · simp only [State.mbxAnswer_frame]
    · simp only [State.mbxAnswer_frame]
    · simp only [State.mbxAnswer_frame]
  · exact ⟨_, next_congr (State.ringTail_toHearth hk h), rfl, rfl, World.pend_irqs_ne_nil 40 s.worlds.hearth, rfl, rfl, rfl⟩
  · exact ⟨_, next_congr (State.ringTail_toBench hk h), rfl, rfl, rfl, rfl, World.pend_irqs_ne_nil 94 s.worlds.bench, rfl⟩
  · exact next_congr (State.ringTail_of_full h)
  · exact congrArg (fun r => Host.Outcome.next { s with worlds := { s.worlds with toBench := r } }) (if_pos h)
  · exact congrArg (fun r => Host.Outcome.next { s with worlds := { s.worlds with toHearth := r } }) (if_pos h)
  · have hmsg := State.ringMsg_helloSent hw
    rw [State.hello_eq] at hmsg
    refine ⟨_, (exec_hello_of_serving hc hb).trans (congrArg _ (State.sendHello_of_room h)), ?_, ?_, hmsg, ?_, s.helloSent_only⟩ <;>
      rw [State.helloSent_worlds]
  · exact next_congr (if_neg (by simp [h]))
  · have hans := State.answerHello_of ((State.helloWaits_iff s).mpr ⟨hlt, hm⟩) hroom
    obtain ⟨honly, hworlds, -, -⟩ := hans
    have hhbi : s.answerHello.worlds.hbi = s.chosen := (congrArg Worlds.hbi hworlds :)
    refine ⟨_, next_congr (if_pos hh), ?_, ?_, ?_, ?_, fun v h1 h2 h3 h4 => ?_, fun h => ?_, ?_, ?_⟩
    · exact (congrArg Worlds.helloOut hworlds :)
    · rw [hhbi]
      exact (congrArg Worlds.vaultUp hworlds :)
    · exact (congrArg Worlds.toHearth hworlds :)
    · exact (congrArg Worlds.toBench hworlds :)
    · rw [hhbi, State.chosen_of_overlap h1 h2 h3 h4]
      omega
    · rw [hhbi]
      exact State.chosen_of_disjoint h
    · exact (congrArg State.rack honly :)
    · exact (congrArg (fun t : State => t.engine.tasks) honly :)
  · refine ⟨_, exec_wdogKick_of_other h, ?_, ?_, ?_, ?_⟩ <;> simp only [State.logOpen_frame]

end Sys2Proof.Machine
end

section
/-!
SUPPORT for O47 (R118, R363, R378, R380): what ending operations keeps, and what a reset of the Hearth clears.
-/
namespace Sys2Proof.Machine

/-! ### What the end of an operation keeps (R118, R363) -/

/-- What ending operations, the card conversation, a ceremony and a request of the host keeps of the machine. -/
structure State.EndsKeep (s t : State) : Prop where
  slots : t.rack.slots = s.rack.slots
  crucible : t.crucible = s.crucible
  terms : t.routing.terms = s.routing.terms
  insts : t.bellows.insts = s.bellows.insts
  hearth : t.worlds.hearth = s.worlds.hearth
  bench : t.worlds.bench = s.worlds.bench
  vaultUp : t.worlds.vaultUp = s.worlds.vaultUp
  bmem : t.zwm.bmem = s.zwm.bmem
  hearthMpu : t.zwm.hearthMpu = s.zwm.hearthMpu
  benchMpu : t.zwm.benchMpu = s.zwm.benchMpu

theorem State.EndsKeep.refl (s : State) : s.EndsKeep s := ⟨rfl, rfl, rfl, rfl, rfl, rfl, rfl, rfl, rfl, rfl⟩

theorem State.EndsKeep.trans {s t u : State} (h : s.EndsKeep t) (k : t.EndsKeep u) : s.EndsKeep u :=
  ⟨k.slots.trans h.slots, k.crucible.trans h.crucible, k.terms.trans h.terms, k.insts.trans h.insts, k.hearth.trans h.hearth,
    k.bench.trans h.bench, k.vaultUp.trans h.vaultUp, k.bmem.trans h.bmem, k.hearthMpu.trans h.hearthMpu, k.benchMpu.trans h.benchMpu⟩

/-- What an operation's end leaves behind outside the operation and the blocks that held it. -/
structure State.FinishKeeps (s t : State) : Prop where
  ends : s.EndsKeep t
  rings : t.worlds.toBench = s.worlds.toBench ∧ t.worlds.toHearth = s.worlds.toHearth
  notice : Service.benchNotice ∈ s.worlds.pendingSvc → Service.benchNotice ∈ t.worlds.pendingSvc
  routing : t.routing = { s.routing with lookups := t.routing.lookups }
  power : t.power = s.power
  cores : ∀ k, k ≠ 0 → t.coreOf k = s.coreOf k

theorem State.FinishKeeps.refl (s : State) : s.FinishKeeps s := ⟨.refl s, ⟨rfl, rfl⟩, id, rfl, rfl, fun _ _ => rfl⟩

theorem State.FinishKeeps.trans {s t u : State} (h : s.FinishKeeps t) (k : t.FinishKeeps u) : s.FinishKeeps u := by
  refine ⟨h.ends.trans k.ends, ⟨k.rings.1.trans h.rings.1, k.rings.2.trans h.rings.2⟩, fun hn => k.notice (h.notice hn), ?_,
    k.power.trans h.power, fun j hj => (k.cores j hj).trans (h.cores j hj)⟩
  rw [k.routing, h.routing]

theorem Worlds.notice_leave {id : Nat} {w : Worlds} (h : Service.benchNotice ∈ w.pendingSvc) :
    Service.benchNotice ∈ (w.leave id).pendingSvc :=
  List.mem_append_left _ (List.mem_filter.mpr ⟨h, rfl⟩)

theorem State.releaseOp_finishKeeps (id : Nat) (s : State) : s.FinishKeeps (s.releaseOp id) :=
  ⟨⟨rfl, rfl, rfl, rfl, rfl, rfl, rfl, rfl, rfl, rfl⟩, ⟨rfl, rfl⟩, Worlds.notice_leave, rfl, rfl, fun _ _ => rfl⟩

theorem State.unreserve_finishKeeps (id : Nat) (s : State) : s.FinishKeeps (s.unreserve id) := by
  rw [State.unreserve_only id s]
  exact ⟨⟨rfl, rfl, rfl, rfl, rfl, rfl, rfl, rfl, rfl, rfl⟩, ⟨rfl, rfl⟩, fun h => h, rfl, rfl, fun _ _ => rfl⟩

theorem State.modOp_finishKeeps (id : Nat) (g : Op → Op) (s : State) : s.FinishKeeps (s.modOp id g) :=
  ⟨⟨rfl, rfl, rfl, rfl, rfl, rfl, rfl, rfl, rfl, rfl⟩, ⟨rfl, rfl⟩, fun h => h, rfl, rfl, fun _ _ => rfl⟩

theorem State.serviceRegs_finishKeeps (st d n : Nat) (s : State) : s.FinishKeeps (s.serviceRegs st d n) :=
  ⟨⟨rfl, rfl, rfl, rfl, rfl, rfl, rfl, rfl, rfl, rfl⟩, ⟨rfl, rfl⟩, id, rfl, rfl, fun _ hk => tget_tset_ne ({} : Core) _ hk _⟩

theorem State.finish_finishKeeps (id st d n : Nat) (r : Bytes) (s : State) : s.FinishKeeps (s.finish id st d n r) := by
  have hrel : s.FinishKeeps (((s.unreserve id).modOp id (Op.end_ st d n r)).releaseOp id) :=
    (s.unreserve_finishKeeps id).trans ((State.modOp_finishKeeps ..).trans (State.releaseOp_finishKeeps ..))
  unfold State.finish
  dsimp only
  split
  · exact hrel.trans (State.serviceRegs_finishKeeps ..)
  · exact hrel

/-- A relation that every failure keeps is kept by a list of them. -/
theorem State.foldl_fail_finishKeeps (st d : Nat) : ∀ (l : List Nat) (s : State),
    s.FinishKeeps (l.foldl (fun s id => s.fail id st d) s)
  | [], s => .refl s
  | id :: l, s => (State.finish_finishKeeps id st d 0 [] s).trans (State.foldl_fail_finishKeeps st d l _)

theorem State.fail_ended {s : State} {op : Nat} {o : Op} (h : s.opOf op = some o) (st d : Nat) : (s.fail op st d).Ended op st d 0 [] := by
  have hf := State.finish_ended h st d 0 []
  rwa [ite_self, ite_self] at hf

/-- An operation that has ended by a failure stays so while another, or it again, fails alike. -/
theorem State.Ended.fail {s : State} {op st d : Nat} (h : s.Ended op st d 0 []) (id : Nat) : (s.fail id st d).Ended op st d 0 [] := by
  obtain ⟨o, ho, hend⟩ := h
  by_cases hid : op = id
  · exact hid ▸ State.fail_ended ho st d
  · exact ⟨o, (State.opOf_finish_ne hid ..).trans ho, hend⟩

theorem State.Ended.foldl_fail {op st d : Nat} (l : List Nat) {s : State} (h : s.Ended op st d 0 []) :
    (l.foldl (fun s id => s.fail id st d) s).Ended op st d 0 [] := by
  induction l generalizing s with
  | nil => exact h
  | cons id l ih => exact ih (h.fail id)

/-- Every operation of a list of failures ends. -/
theorem State.ended_of_mem_foldl_fail {st d op : Nat} {l : List Nat} {s : State} {o : Op} (hmem : op ∈ l) (ho : s.opOf op = some o) :
    (l.foldl (fun s id => s.fail id st d) s).Ended op st d 0 [] := by
  induction l generalizing s with
  | nil => cases hmem
  | cons id l ih =>
    by_cases hid : op = id
    · subst hid
      exact (State.fail_ended ho st d).foldl_fail l
    · exact ih (List.mem_of_ne_of_mem hid hmem) ((State.opOf_finish_ne hid ..).trans ho)

/-- The operations of the backup port that remain after failures are those that did not fail. -/
theorem State.waiting_foldl_fail (st d : Nat) : ∀ (l : List Nat) (s : State),
    (l.foldl (fun s id => s.fail id st d) s).cards.sd.waiting = s.cards.sd.waiting.filter fun w => !l.contains w
  | [], s => by simp
  | id :: l, s => by
    have hone : (s.fail id st d).cards.sd.waiting = s.cards.sd.waiting.filter fun w => w != id := by
      have hu : (s.unreserve id).cards = s.cards := by simp only [State.unreserve_frame]
      unfold State.fail State.finish
      dsimp only
      split <;> exact congrArg (fun c : Cards => c.sd.waiting.filter fun w => w != id) hu
    rw [List.foldl_cons, State.waiting_foldl_fail st d l, hone, List.filter_filter]
    refine List.filter_congr fun w _ => ?_
    rw [List.contains_cons, Bool.not_or, Bool.and_comm]
    rfl

/-! ### Claims that are released (R380) -/

theorem State.unclaim_only (d idleUs : Nat) (s : State) : ∃ p, s.unclaim d idleUs = { s with
    zwm := { s.zwm with hclaim := s.zwm.hclaim &&& ~~~ BitVec.ofNat 30 (2 ^ d) }, power := p } := by
  unfold State.unclaim
  dsimp only
  split
  · exact ⟨_, rfl⟩
  · exact ⟨_, rfl⟩

/-- The claims that a list of releases leaves. -/
def claimsWithout (l : List Nat) (h : BitVec 30) : BitVec 30 := l.foldl (fun h d => h &&& ~~~ BitVec.ofNat 30 (2 ^ d)) h

theorem State.foldl_unclaim_only (idleUs : Nat) (l : List Nat) (s : State) : ∃ p,
    l.foldl (fun s d => s.unclaim d idleUs) s = { s with zwm := { s.zwm with hclaim := claimsWithout l s.zwm.hclaim }, power := p } := by
  induction l generalizing s with
  | nil => exact ⟨_, rfl⟩
  | cons d l ih =>
    obtain ⟨p, hp⟩ := s.unclaim_only d idleUs
    obtain ⟨q, hq⟩ := ih (s.unclaim d idleUs)
    refine ⟨q, hq.trans ?_⟩
    rw [hp]
    rfl

theorem getLsbD_claimsWithout (l : List Nat) (h : BitVec 30) {i : Nat} (hi : i < 30) :
    (claimsWithout l h).getLsbD i = (h.getLsbD i && !l.contains i) := by
  induction l generalizing h with
  | nil => simp [claimsWithout]
  | cons d l ih =>
    have hbit : (BitVec.ofNat 30 (2 ^ d)).getLsbD i = (i == d) := by
      rw [BitVec.getLsbD_ofNat, Nat.testBit_two_pow]
      rw [decide_eq_true hi, Bool.true_and, beq_eq_decide]
      exact decide_eq_decide.mpr eq_comm
    have hstep : (h &&& ~~~ BitVec.ofNat 30 (2 ^ d)).getLsbD i = (h.getLsbD i && !(i == d)) := by
      rw [BitVec.getLsbD_and, BitVec.getLsbD_not, hbit]
      simp [hi]
    have hih := ih (h &&& ~~~ BitVec.ofNat 30 (2 ^ d))
    rw [hstep] at hih
    rw [List.contains_cons, Bool.not_or, ← Bool.and_assoc]
    exact hih

/-- Every claim of the Hearth falls. -/
theorem State.unclaimAll_only (s : State) : ∃ p, s.unclaimAll = { s with zwm := { s.zwm with hclaim := 0 }, power := p } := by
  obtain ⟨p, hp⟩ := s.foldl_unclaim_only 65535 ((List.range 30).filter fun d => s.zwm.hclaim.getLsbD d || (s.domainOf d).st == .deferred)
  refine ⟨p, hp.trans ?_⟩
  have hzero : claimsWithout ((List.range 30).filter fun d => s.zwm.hclaim.getLsbD d || (s.domainOf d).st == .deferred)
      s.zwm.hclaim = 0 := by
    apply BitVec.eq_of_getLsbD_eq
    intro i hi
    rw [getLsbD_claimsWithout _ _ hi]
    cases hbit : s.zwm.hclaim.getLsbD i
    · simp
    · have hmem : i ∈ (List.range 30).filter fun d => s.zwm.hclaim.getLsbD d || (s.domainOf d).st == .deferred :=
        List.mem_filter.mpr ⟨List.mem_range.mpr hi, by rw [hbit]; rfl⟩
      rw [List.contains_iff_mem.mpr hmem]
      exact BitVec.getLsbD_zero.symm
  rw [hzero]

/-! ### The reset of the Hearth (R380) -/

/-- What `clearHearth` leaves of a machine with no access waiting at the Hearth's protection unit. -/
structure State.HearthCleared (s t : State) : Prop where
  keeps : t.rack = s.rack ∧ t.crucible = s.crucible ∧ t.routing = s.routing ∧ t.bellows.insts = s.bellows.insts ∧
    t.vault = s.vault ∧ t.legacy = s.legacy ∧ t.engine = s.engine ∧ t.zwm.bmem = s.zwm.bmem
  worlds : t.worlds = { s.worlds with
    pendingSvc := [], running := none, channel := [], chanWait := [], toBench := {}, toHearth := {}, helloOut := false }
  hmem : t.zwm.hmem = []
  hclaim : t.zwm.hclaim = 0

theorem State.resetUnit_of_none {s : State} {b : Bool} (h : (s.mpuOf b).waiting = []) : ∃ m, s.resetUnit b = s.modMpu b fun _ => m := by
  unfold State.resetUnit
  dsimp only
  rw [h]
  exact ⟨_, rfl⟩

theorem State.HearthCleared.resetUnit {s u : State} (hu : s.HearthCleared u) (h : u.zwm.hearthMpu.waiting = []) :
    s.HearthCleared (u.resetUnit false) := by
  obtain ⟨m, hm⟩ := State.resetUnit_of_none (b := false) h
  rw [hm]
  exact ⟨hu.keeps, hu.worlds, hu.hmem, hu.hclaim⟩

theorem State.clearHearth_cleared {s : State} (h : s.zwm.hearthMpu.waiting = []) : s.HearthCleared s.clearHearth := by
  obtain ⟨p, hp⟩ := s.dropHearthJob.unclaimAll_only
  unfold State.clearHearth
  dsimp only
  rw [hp]
  exact State.HearthCleared.resetUnit ⟨⟨rfl, rfl, rfl, rfl, rfl, rfl, rfl, rfl⟩, rfl, rfl, rfl⟩ h

/-! ### The Hearth stops (R380) -/

theorem State.EndsKeep.of_eqs {s t : State} (hr : t.rack = s.rack) (hc : t.crucible = s.crucible) (hro : t.routing = s.routing)
    (hb : t.bellows = s.bellows) (hh : t.worlds.hearth = s.worlds.hearth) (hbe : t.worlds.bench = s.worlds.bench)
    (hv : t.worlds.vaultUp = s.worlds.vaultUp) (hbm : t.zwm.bmem = s.zwm.bmem) (hm : t.zwm.hearthMpu = s.zwm.hearthMpu)
    (hm' : t.zwm.benchMpu = s.zwm.benchMpu) : s.EndsKeep t :=
  ⟨congrArg (·.slots) hr, hc, congrArg (·.terms) hro, congrArg (·.insts) hb, hh, hbe, hv, hbm, hm, hm'⟩

/-- A signal of a vector changes no world and no block. -/
theorem State.deviceEvent_endsKeep (s : State) : s.EndsKeep s.deviceEvent := by
  refine .of_eqs ?_ ?_ ?_ ?_ ?_ ?_ ?_ ?_ ?_ ?_ <;> simp only [State.deviceEvent_frame]

theorem State.endSession_endsKeep (s : State) : s.EndsKeep s.endSession := by
  refine .of_eqs ?_ ?_ ?_ ?_ ?_ ?_ ?_ ?_ ?_ ?_ <;> simp only [State.endSession_frame]

theorem State.loseCeremony_endsKeep (s : State) : s.EndsKeep s.loseCeremony := by
  rw [State.loseCeremony_only s]
  exact ⟨rfl, rfl, rfl, rfl, rfl, rfl, rfl, rfl, rfl, rfl⟩

theorem State.failChannel_finishKeeps (s : State) : s.FinishKeeps s.failChannel := State.foldl_fail_finishKeeps 0x0302 0xFF _ s

/-- The mailbox answers without a change but to its own words, the service and the Hearth's own registers. -/
theorem State.mbxAnswer_endsKeep (st d : Nat) (b : Bytes) (s : State) : s.EndsKeep (s.mbxAnswer st d b) := by
  have hsig : ∀ u : State, u.EndsKeep (u.signal 0 1) := fun u => by
    refine .of_eqs ?_ ?_ ?_ ?_ ?_ ?_ ?_ ?_ ?_ ?_ <;> simp only [State.signal_frame]
  have hrel : ∀ (u : State) (rsp : Bytes), u.EndsKeep (u.mbxRelease rsp) := fun u rsp => by
    unfold State.mbxRelease
    split
    · exact ⟨rfl, rfl, rfl, rfl, rfl, rfl, rfl, rfl, rfl, rfl⟩
    · refine State.EndsKeep.trans ?_ (hsig _)
      exact ⟨rfl, rfl, rfl, rfl, rfl, rfl, rfl, rfl, rfl, rfl⟩
  unfold State.mbxAnswer
  dsimp only
  split
  · refine State.EndsKeep.trans ?_ (hrel _ _)
    exact ⟨rfl, rfl, rfl, rfl, rfl, rfl, rfl, rfl, rfl, rfl⟩
  · exact hrel _ _

theorem State.mbxAnswer_go (st d : Nat) (b : Bytes) (s : State) : (s.mbxAnswer st d b).worlds.go = false := by
  have hrel : ∀ (u : State) (rsp : Bytes), (u.mbxRelease rsp).worlds.go = false := fun u rsp => by
    unfold State.mbxRelease
    split
    · rfl
    · simp only [State.signal_frame]
  exact hrel _ _

/-- R378: a request that the Hearth has is answered when it stops. -/
theorem State.mbxStops_stops (s : State) : s.EndsKeep s.mbxStops ∧ s.mbxStops.worlds.go = false := by
  unfold State.mbxStops
  split
  · exact ⟨State.mbxAnswer_endsKeep .., State.mbxAnswer_go ..⟩
  · next h => exact ⟨.refl s, Bool.eq_false_iff.mpr h⟩

theorem State.legacyRelease_endsKeep (rsp : Bytes) (s : State) : s.EndsKeep (s.legacyRelease rsp) := by
  refine .of_eqs ?_ ?_ ?_ ?_ ?_ ?_ ?_ ?_ ?_ ?_ <;> simp only [State.legacyRelease_frame]

theorem State.legacyRelease_busy (rsp : Bytes) (s : State) : (s.legacyRelease rsp).legacy.busy = false := by
  cases h : s.legacy.discard with
  | true => rw [State.legacyRelease_of_discard h]
  | false => rw [State.legacyRelease_legacy h, Legacy.released]

/-- R551: a command of the legacy window ends with the Hearth. -/
theorem State.legacyAbort_stops (status : String) (s : State) :
    s.EndsKeep (s.legacyAbort status) ∧ (s.legacyAbort status).legacy.busy = false ∧
      (s.legacyAbort status).worlds.go = s.worlds.go := by
  unfold State.legacyAbort
  split
  · refine ⟨State.EndsKeep.trans ?_ (State.legacyRelease_endsKeep ..), State.legacyRelease_busy .., ?_⟩
    · exact ⟨rfl, rfl, rfl, rfl, rfl, rfl, rfl, rfl, rfl, rfl⟩
    · simp only [State.legacyNow, State.legacyRelease_frame]
  · next h => exact ⟨.refl s, Bool.eq_false_iff.mpr h, rfl⟩

/-! ### The Hearth stops -/

/-- The Hearth as its stop with `cause` leaves it, its operations not yet ended. -/
def State.hearthStopping (cause : Nat) (s : State) : State :=
  State.deviceEvent { s with worlds := { s.worlds with hearth := s.stopped s.worlds.hearth cause, vaultUp := false } }

/-- The machine with everything ended that the Hearth had under way. -/
def State.hearthEnded (cause : Nat) (s : State) : State :=
  (((s.hearthStopping cause).endSession.failChannel.mbxStops).legacyAbort "S02").loseCeremony

theorem State.stopHearth_eq {s : State} (h : s.worlds.hearth.status < 2) (cause : Nat) :
    s.stopHearth cause = if (s.hearthEnded cause).clearHearth.worlds.hearth.status = 3 then
      (s.hearthEnded cause).clearHearth.log 0x0C04 0xF1 [0] else (s.hearthEnded cause).clearHearth :=
  if_neg (by omega)

theorem State.loseCeremony_cer (s : State) : s.loseCeremony.vault.cer = none := by
  unfold State.loseCeremony
  split
  · simp only [State.endSession_frame]
  · next h => exact h

/-- What the machine has kept when everything of the Hearth has ended. -/
theorem State.hearthEnded_ends (cause : Nat) (s : State) :
    (s.hearthStopping cause).EndsKeep (s.hearthEnded cause) ∧ (s.hearthEnded cause).worlds.go = false ∧
      (s.hearthEnded cause).legacy.busy = false ∧ (s.hearthEnded cause).vault.cer = none := by
  obtain ⟨hmbx, hgo⟩ := (s.hearthStopping cause).endSession.failChannel.mbxStops_stops
  obtain ⟨hleg, hbusy, hgo'⟩ := State.legacyAbort_stops "S02" (s.hearthStopping cause).endSession.failChannel.mbxStops
  have hlose := State.loseCeremony_only ((s.hearthStopping cause).endSession.failChannel.mbxStops.legacyAbort "S02")
  refine ⟨(State.endSession_endsKeep _).trans ((State.failChannel_finishKeeps _).ends.trans (hmbx.trans (hleg.trans
    (State.loseCeremony_endsKeep _)))), ?_, ?_, State.loseCeremony_cer _⟩
  · rw [State.hearthEnded, hlose]
    exact hgo'.trans hgo
  · rw [State.hearthEnded, hlose]
    exact hbusy

end Sys2Proof.Machine
end

section
/-!
PROOF of O47 (R118, R363, R378, R380, R382, R383): watchdogs and restarts of both worlds.
-/
namespace Sys2Proof.Machine

/-! ### The Hearth's watchdog (R378, R380, R383) -/

theorem State.stopHearth_of_stopped {s : State} (h : 2 ≤ s.worlds.hearth.status) (cause : Nat) : s.stopHearth cause = s := if_pos h

/-- The stop of the Hearth ends in what its reset clears, and a record. -/
theorem State.stopHearth_storeOnly {s : State} (h : s.worlds.hearth.status < 2) (cause : Nat) :
    (s.hearthEnded cause).clearHearth.StoreOnly (s.stopHearth cause) := by
  rw [State.stopHearth_eq h]
  split
  · exact State.log_storeOnly ..
  · rfl

theorem State.hearthStopping_worlds (cause : Nat) (s : State) : (s.hearthStopping cause).worlds =
    { s.worlds with hearth := s.stopped s.worlds.hearth cause, vaultUp := false } := by
  simp only [State.hearthStopping, State.deviceEvent_frame]

/-- What the stop keeps of the machine. -/
theorem State.hearthEnded_endsKeep (cause : Nat) (s : State) :
    State.EndsKeep { s with worlds := { s.worlds with hearth := s.stopped s.worlds.hearth cause, vaultUp := false } }
      (s.hearthEnded cause) :=
  (State.deviceEvent_endsKeep _).trans (s.hearthEnded_ends cause).1

/-- The machine after the stop of the Hearth with no access waiting at its protection unit. -/
theorem State.stopHearth_cleared {s : State} (h : s.worlds.hearth.status < 2) (hw : s.zwm.hearthMpu.waiting = []) (cause : Nat) :
    (s.hearthEnded cause).HearthCleared (s.stopHearth cause) := by
  have hc := State.clearHearth_cleared (s := s.hearthEnded cause) (by rw [(s.hearthEnded_endsKeep cause).hearthMpu]; exact hw)
  obtain ⟨⟨h1, h2, h3, h4, h5, h6, h7, h8⟩, hworlds, hhmem, hclaim⟩ := hc
  have hstore := State.stopHearth_storeOnly h cause
  unfold State.StoreOnly at hstore
  rw [hstore]
  exact ⟨⟨h1, h2, h3, h4, h5, h6, h7, h8⟩, hworlds, hhmem, hclaim⟩

/-- R118, R363: every operation that the channel holds, or that waits before it, ends. -/
theorem State.hearthEnded_ended {s : State} {op : Nat} {o : Op} (hmem : op ∈ s.worlds.channel ∨ op ∈ s.worlds.chanWait)
    (ho : s.opOf op = some o) (cause : Nat) : (s.hearthEnded cause).Ended op 0x0302 0xFF 0 [] := by
  have hchan : op ∈ (s.hearthStopping cause).endSession.worlds.channel ++ (s.hearthStopping cause).endSession.worlds.chanWait := by
    simp only [State.endSession_frame, State.hearthStopping_worlds]
    exact List.mem_append.mpr hmem
  have htasks : (s.hearthStopping cause).endSession.engine.tasks = s.engine.tasks := by
    simp only [State.endSession_frame, State.hearthStopping, State.deviceEvent_frame]
  have hend := State.ended_of_mem_foldl_fail (st := 0x0302) (d := 0xFF) hchan ((State.opOf_congr htasks op).trans ho)
  refine State.ended_congr (State.opOf_congr ?_ op) hend
  have hmbx : ∀ u : State, u.mbxStops.engine = u.engine := fun u => by
    unfold State.mbxStops
    split
    · simp only [State.mbxUnavailable_frame]
    · rfl
  rw [State.hearthEnded, State.loseCeremony_only]
  simp only [State.legacyAbort_frame, hmbx]
  rfl

/-! ### The handshake of a restart (R372) -/

/-- What a handshake keeps: all but the worlds' interrupts, rings and versions, the rings' memory and the records. -/
structure State.HandshakeKeeps (s t : State) : Prop where
  only : t = { s with worlds := t.worlds, zwm := t.zwm, store := t.store }
  hearth : t.worlds.hearth = { s.worlds.hearth with irqs := t.worlds.hearth.irqs }
  bench : t.worlds.bench = { s.worlds.bench with irqs := t.worlds.bench.irqs }
  bmem : t.zwm.bmem = s.zwm.bmem
  idle : s.worlds.running = none → t.zwm.hmem = s.zwm.hmem

theorem State.HandshakeKeeps.refl (s : State) : s.HandshakeKeeps s := ⟨rfl, rfl, rfl, rfl, fun _ => rfl⟩

theorem State.sendHello_keeps (s : State) : s.HandshakeKeeps s.sendHello ∧ s.sendHello.worlds.running = s.worlds.running := by
  by_cases h : s.worlds.toHearth.tail - s.worlds.toHearth.head < 16
  · rw [State.sendHello_of_room h]
    refine ⟨⟨?_, ?_, ?_, ?_, ?_⟩, ?_⟩
    · simp only [State.helloSent, State.passedToHearth, State.stored]
    · rw [State.helloSent_worlds]
      rfl
    · rw [State.helloSent_worlds]
    · simp only [State.helloSent, State.passedToHearth, State.stored]
    · simp only [State.helloSent, State.passedToHearth, State.stored, implies_true]
    · rw [State.helloSent_worlds]
  · rw [State.sendHello_of_full (by omega)]
    exact ⟨.refl s, rfl⟩

theorem State.answerHello_keeps (s : State) : s.HandshakeKeeps s.answerHello := by
  by_cases h : s.helloWaits = true ∧ s.worlds.toBench.tail - s.worlds.toBench.head < 16
  · obtain ⟨honly, hworlds, hbmem, hhmem⟩ := State.answerHello_of h.1 h.2
    refine ⟨honly, ?_, ?_, hbmem, hhmem⟩
    · rw [hworlds]
    · rw [hworlds]
      rfl
  · rw [State.answerHello_of_idle]
    · exact .refl s
    · by_cases hw : s.helloWaits = true
      · exact .inr (Nat.not_lt.mp fun hr => h ⟨hw, hr⟩)
      · exact .inl (Bool.eq_false_iff.mpr hw)

theorem State.handshake_keeps (s : State) : s.HandshakeKeeps s.handshake := by
  obtain ⟨⟨o1, h1, b1, m1, i1⟩, hrun⟩ := s.sendHello_keeps
  obtain ⟨o2, h2, b2, m2, i2⟩ := s.sendHello.answerHello_keeps
  refine ⟨?_, ?_, ?_, m2.trans m1, fun hr => (i2 (hrun.trans hr)).trans (i1 hr)⟩
  · unfold State.handshake
    rw [o2, o1]
  · exact h2.trans (by rw [h1]; rfl)
  · exact b2.trans (by rw [b1]; rfl)

/-- R370: the hello at the head of an empty ring is a hello. -/
theorem leAt_hello (s : State) : leAt (fit 256 s.hello) 0 2 = 1 := by
  have hlen : s.hello.length = 20 := by
    rw [State.hello_eq]
    simp [leBytes_length]
  have hfit : fit 256 s.hello = [1, 0, 0, 0, 4, 0, 0, 0, 0, 0, 0, 0, 0, 0, 0, 0] ++
      (leBytes 2 s.worlds.bench.hbiMin.toNat ++ leBytes 2 s.worlds.bench.hbiMax.toNat ++ List.replicate (256 - 20) 0) := by
    rw [fit, List.take_of_length_le (by omega), hlen, State.hello_eq]
    simp only [List.append_assoc]
  rw [hfit, leAt_append _ _ (by decide)]
  decide

/-- The handshake over empty rings is made in one exchange. -/
theorem State.handshake_of_empty {s : State} (hh : s.worlds.toHearth = {}) (hb : s.worlds.toBench = {}) (hw : twf {} s.zwm.msg = true) :
    s.handshake.worlds.toHearth = { head := 1, tail := 1 } ∧ s.handshake.worlds.toBench = { head := 0, tail := 1 } ∧
      s.handshake.worlds.hbi = s.chosen ∧ s.handshake.worlds.vaultUp = (s.chosen != 0) := by
  have hroom : s.worlds.toHearth.tail - s.worlds.toHearth.head < 16 := by rw [hh]; decide
  have hworlds := s.helloSent_worlds
  have hto : s.helloSent.worlds.toHearth = { head := 0, tail := 1 } := by rw [hworlds, hh]
  have hmsg : leAt (s.helloSent.ringMsg false s.helloSent.worlds.toHearth.head) 0 2 = 1 := by
    have hm := State.ringMsg_helloSent hw
    rw [hh] at hm
    rw [hto, hm]
    exact leAt_hello s
  have hwaits : s.helloSent.helloWaits = true := (State.helloWaits_iff _).mpr ⟨by rw [hto]; decide, hmsg⟩
  have hchosen : s.helloSent.chosen = s.chosen := by
    unfold State.chosen
    rw [hworlds]
    rfl
  have hbench : s.helloSent.worlds.toBench = {} := by rw [hworlds]; exact hb
  obtain ⟨-, hans, -, -⟩ := State.answerHello_of hwaits (by rw [hbench]; decide)
  rw [State.handshake, State.sendHello_of_room hroom]
  refine ⟨(congrArg Worlds.toHearth hans :).trans ?_, (congrArg Worlds.toBench hans :).trans ?_, (congrArg Worlds.hbi hans :).trans hchosen,
    (congrArg Worlds.vaultUp hans :).trans ?_⟩
  · rw [hto]
  · rw [hbench]
  · rw [hchosen]

/-! ### The Hearth's restart (R380) -/

/-- The Hearth's image is loaded, the quotas are persisted, and no version is in use. -/
def State.hearthLoaded (s : State) : State :=
  State.persistQuotas { s with
    worlds := { s.worlds with hbi := 0 }
    zwm := { s.zwm with hmem := imageWords hearthBase (imgBody (s.imageAt 0 (tget 3 s.life.boot 0))) } }

/-- The Hearth is marked as serving, and its restart counts. -/
def State.hearthUp (s : State) : State :=
  { s with worlds := { s.worlds with hearth := { s.worlds.hearth with
      status := 1, restarts := satInc 65535 s.worlds.hearth.restarts, restartAt := s.now :: s.recentRestarts s.worlds.hearth } } }

/-- The restart of the Hearth is signalled and recorded, and so is a ceremony that was lost. -/
def State.hearthServes (s : State) : State :=
  (s.hearthUp.deviceEvent.log 0x0C01 0xF1 (leBytes 1 s.worlds.hearth.cause ++ leBytes 2 (satInc 65535 s.worlds.hearth.restarts))).logLost

theorem State.persistQuotas_only (s : State) : ∃ kept dirty store, s.persistQuotas =
    { s with vault := { s.vault with kept := kept, quotaDirty := dirty }, store := store } := by
  unfold State.persistQuotas
  split
  · exact ⟨_, _, _, rfl⟩
  · exact ⟨_, _, _, rfl⟩

/-- `t` is `s` after signals to the host and records. -/
def State.Reported (s t : State) : Prop :=
  t = { s with fns := t.fns, sent := t.sent, legacy := t.legacy, store := t.store
               vault := { s.vault with cerLost := t.vault.cerLost } }

theorem State.Reported.trans {s t u : State} (h : s.Reported t) (k : t.Reported u) : s.Reported u := by
  unfold State.Reported at h k ⊢
  rw [h] at k
  exact k

theorem State.Reported.of_storeOnly {s t : State} (h : s.StoreOnly t) : s.Reported t := by
  unfold State.StoreOnly at h
  unfold State.Reported
  rw [h]

theorem State.logLost_reported (s : State) : s.Reported s.logLost := by
  unfold State.logLost
  split
  · next p _ =>
    have hlost : s.Reported { s with vault := { s.vault with cerLost := none } } := rfl
    exact hlost.trans (.of_storeOnly (State.appendRecord_storeOnly _ _))
  · rfl

theorem State.driveInta_only (before : Bool) (s : State) : s.driveInta before = { s with sent := (s.driveInta before).sent } := by
  unfold State.driveInta
  split <;> rfl

theorem State.legacyRise_only (s : State) : s.legacyRise = { s with sent := s.legacyRise.sent } := by
  unfold State.legacyRise
  split <;> rfl

/-- An event of the device signals the host and changes nothing else. -/
theorem State.deviceEvent_reported (s : State) : s.Reported s.deviceEvent := by
  have hlegacy : s.Reported s.legacyEvent := by
    unfold State.legacyEvent
    split
    · rfl
    · rw [State.legacyRise_only, State.driveInta_only]
      rfl
  unfold State.deviceEvent State.signal
  split
  · rw [if_pos ⟨rfl, rfl⟩]
    exact hlegacy
  · split
    · rfl
    · rfl

theorem State.hearthServes_reported (s : State) : s.hearthUp.Reported s.hearthServes :=
  (State.deviceEvent_reported _).trans ((State.Reported.of_storeOnly (State.log_storeOnly ..)).trans (State.logLost_reported _))

theorem exec_hearthRestart_of_sound {s : State} (h : s.worlds.hearth.status = 2)
    (hf : s.imageFault 0 s.unsignedOk (s.imageAt 0 (tget 3 s.life.boot 0)) = 0) : exec .hearthRestart s =
      .next (if s.hearthLoaded.worlds.bench.status = 1 then s.hearthLoaded.handshake else s.hearthLoaded).hearthServes :=
  next_congr ((if_neg (not_not.mpr h)).trans (if_neg fun hn => hn.1 hf))

theorem exec_hearthRestart_of_fault {s : State} (h : s.worlds.hearth.status = 2)
    (hf : ¬ s.imageFault 0 s.unsignedOk (s.imageAt 0 (tget 3 s.life.boot 0)) ∈ [0, 6]) : exec .hearthRestart s = .next s := by
  refine next_congr ((if_neg (not_not.mpr h)).trans (if_pos ?_))
  simpa using hf

theorem exec_hearthRestart_of_running {s : State} (h : s.worlds.hearth.status ≠ 2) : exec .hearthRestart s = .next s :=
  next_congr (if_pos h)

/-- What the Hearth's restart leaves, whether or not it makes a handshake. -/
structure State.HearthRestarted (s t : State) : Prop where
  hearth : t.worlds.hearth.status = 1 ∧ t.worlds.hearth.restarts = satInc 65535 s.worlds.hearth.restarts
  image : s.worlds.running = none → t.zwm.hmem = imageWords hearthBase (imgBody (s.imageAt 0 (tget 3 s.life.boot 0)))
  blocks : t.rack = s.rack ∧ t.crucible = s.crucible ∧ t.routing = s.routing ∧ t.bellows = s.bellows ∧ t.engine = s.engine
  tenants : t.vault.tenants = s.vault.tenants
  bench : t.worlds.bench = { s.worlds.bench with irqs := t.worlds.bench.irqs }
  bmem : t.zwm.bmem = s.zwm.bmem

theorem State.hearthLoaded_worlds (s : State) : s.hearthLoaded.worlds = { s.worlds with hbi := 0 } := by
  obtain ⟨kept, dirty, store, h⟩ := State.persistQuotas_only { s with
    worlds := { s.worlds with hbi := 0 }
    zwm := { s.zwm with hmem := imageWords hearthBase (imgBody (s.imageAt 0 (tget 3 s.life.boot 0))) } }
  exact (congrArg State.worlds h :)

theorem State.hearthLoaded_msg (s : State) : s.hearthLoaded.zwm.msg = s.zwm.msg := by
  obtain ⟨kept, dirty, store, h⟩ := State.persistQuotas_only { s with
    worlds := { s.worlds with hbi := 0 }
    zwm := { s.zwm with hmem := imageWords hearthBase (imgBody (s.imageAt 0 (tget 3 s.life.boot 0))) } }
  exact (congrArg (fun t : State => t.zwm.msg) h :)

/-- The restart from a loaded image, with `u` the state after the handshake, where one is made. -/
theorem State.hearthRestarted_of {s u : State} (hu : s.hearthLoaded.HandshakeKeeps u) : s.HearthRestarted u.hearthServes := by
  obtain ⟨kept, dirty, store, hq⟩ := State.persistQuotas_only { s with
    worlds := { s.worlds with hbi := 0 }
    zwm := { s.zwm with hmem := imageWords hearthBase (imgBody (s.imageAt 0 (tget 3 s.life.boot 0))) } }
  have hload : s.hearthLoaded = _ := hq
  obtain ⟨honly, hhearth, hbench, hbmem, hidle⟩ := hu
  have hrep := u.hearthServes_reported
  unfold State.Reported at hrep
  rw [hload] at honly hhearth hbench hbmem hidle
  have hworlds : u.hearthServes.worlds = u.hearthUp.worlds := (congrArg State.worlds hrep :)
  have hzwm : u.hearthServes.zwm = u.zwm := (congrArg State.zwm hrep :)
  refine ⟨⟨?_, ?_⟩, fun hr => ?_, ⟨?_, ?_, ?_, ?_, ?_⟩, ?_, ?_, ?_⟩
  · rw [hworlds]
    rfl
  · rw [hworlds]
    exact (congrArg (fun w : World => satInc 65535 w.restarts) hhearth :)
  · rw [hzwm]
    exact hidle hr
  · exact ((congrArg State.rack hrep :).trans (congrArg State.rack honly :))
  · exact ((congrArg State.crucible hrep :).trans (congrArg State.crucible honly :))
  · exact ((congrArg State.routing hrep :).trans (congrArg State.routing honly :))
  · exact ((congrArg State.bellows hrep :).trans (congrArg State.bellows honly :))
  · exact ((congrArg State.engine hrep :).trans (congrArg State.engine honly :))
  · exact ((congrArg (fun t : State => t.vault.tenants) hrep :).trans (congrArg (fun t : State => t.vault.tenants) honly :))
  · rw [hworlds]
    exact hbench
  · rw [hzwm]
    exact hbmem

/-- The words of the worlds that the start of the Hearth leaves as the handshake made them. -/
theorem State.hearthServes_worlds (s : State) : s.hearthServes.worlds = s.hearthUp.worlds := by
  have hrep := s.hearthServes_reported
  unfold State.Reported at hrep
  exact (congrArg State.worlds hrep :)

/-! ### The Bench's cores (R382, R391) -/

/-- The table of the cores with the Bench's cores in reset. -/
def coresRestarted (t : List (Nat × Core)) : List (Nat × Core) := t.filter (fun c : Nat × Core => c.1 == 0) ++ benchCores

theorem tget_benchCores {k : Nat} (h1 : 1 ≤ k) (h4 : k ≤ 4) : tget {} benchCores k = { pc := 0x400000 } := by
  obtain rfl | rfl | rfl | rfl : k = 1 ∨ k = 2 ∨ k = 3 ∨ k = 4 := by omega
  all_goals rfl

theorem tget_coresRestarted {k : Nat} (h1 : 1 ≤ k) (h4 : k ≤ 4) (t : List (Nat × Core)) :
    tget {} (coresRestarted t) k = { pc := 0x400000 } := by
  rw [coresRestarted, tget_append_of_right]
  · exact tget_benchCores h1 h4
  · intro e he hk
    have hzero : e.1 = 0 := eq_of_beq (List.mem_filter.mp he).2
    omega

theorem tmap_append {α : Type} [DecidableEq α] (d : α) (f : Nat → α → α) (t u : List (Nat × α)) :
    tmap d f (t ++ u) = tmap d f t ++ tmap d f u := by
  induction t with
  | nil => rfl
  | cons e t ih =>
    rw [List.cons_append, tmap, tmap, ih]
    split
    · rfl
    · rfl

theorem key_of_mem_tmap {α : Type} [DecidableEq α] {d : α} {f : Nat → α → α} {t : List (Nat × α)} {e : Nat × α} (h : e ∈ tmap d f t) :
    ∃ e' ∈ t, e'.1 = e.1 := by
  induction t with
  | nil => cases h
  | cons x t ih =>
    rw [tmap] at h
    have htail : e ∈ tmap d f t → ∃ e' ∈ x :: t, e'.1 = e.1 := fun h => by
      obtain ⟨e', he', hk⟩ := ih h
      exact ⟨e', List.mem_cons_of_mem _ he', hk⟩
    split at h
    · exact htail h
    · rcases List.mem_cons.mp h with rfl | h
      · exact ⟨x, List.mem_cons_self, rfl⟩
      · exact htail h

/-- A line of the Hearth wakes none of the Bench's cores. -/
theorem tget_wakeCores_restarted {k : Nat} (h1 : 1 ≤ k) (h4 : k ≤ 4) (t : List (Nat × Core)) :
    tget {} (wakeCores false (coresRestarted t)) k = { pc := 0x400000 } := by
  have hbench : wakeCores false benchCores = benchCores := by decide +kernel
  unfold coresRestarted
  rw [wakeCores, tmap_append, ← wakeCores, ← wakeCores, hbench, tget_append_of_right]
  · exact tget_benchCores h1 h4
  · intro e he hk
    obtain ⟨e', he', hkey⟩ := key_of_mem_tmap he
    have hzero : e'.1 = 0 := eq_of_beq (List.mem_filter.mp he').2
    omega

/-! ### The Bench's watchdog (R382, R383) -/

/-- The Bench as it stops, its four cores in reset, a build's result dropped. -/
def State.benchStopping (core : Nat) (s : State) : State :=
  let u := State.deviceEvent { s with worlds := { s.worlds with
    bench := s.stopped s.worlds.bench core, toBench := {}, toHearth := {}, helloOut := false
    pendingSvc := (s.worlds.pendingSvc.filter fun v => !v.ofRing) ++ (if s.worlds.hearth.status = 1 then [.benchNotice] else []) } }
  { u with
    zwm := { u.zwm with cores := coresRestarted u.zwm.cores }
    routing := { u.routing with
      built := none
      terms := tmap {} (fun _ t => { t with rehashing := false, spare := [], newSeed := 0, newMask := 0 }) u.routing.terms } }

/-- The Bench with the build of a halted Bench ended, and a store given up. -/
def State.benchStopped (core : Nat) (s : State) : State :=
  (if (s.benchStopping core).worlds.bench.status = 3 then (s.benchStopping core).endBuild else s.benchStopping core).abandonStore

/-- The Bench with the operations of the backup port ended. -/
def State.benchEnded (core : Nat) (s : State) : State :=
  s.cards.sd.waiting.foldl (fun s id => s.fail id 0x0302 0x14) (s.benchStopped core)

theorem State.endBuild_only (s : State) : s.endBuild = { s with routing := s.endBuild.routing } := by
  unfold State.endBuild
  dsimp only
  split <;> rfl

theorem State.abandonStore_storeOnly (s : State) : s.StoreOnly s.abandonStore := by
  unfold State.abandonStore
  split
  · exact (State.StoreOnly.of s _).trans (State.log_storeOnly ..)
  · rfl

/-- What the stop of the Bench changes before the operations end: the build, and the store. -/
theorem State.benchStopped_only (core : Nat) (s : State) :
    s.benchStopped core = { s.benchStopping core with routing := (s.benchStopped core).routing, store := (s.benchStopped core).store } := by
  have h := State.abandonStore_storeOnly
    (if (s.benchStopping core).worlds.bench.status = 3 then (s.benchStopping core).endBuild else s.benchStopping core)
  unfold State.StoreOnly at h
  unfold State.benchStopped
  rw [h]
  split
  · rw [State.endBuild_only]
  · rfl

theorem State.benchStopped_routing (core : Nat) (s : State) : (s.benchStopped core).routing =
    (if (s.benchStopping core).worlds.bench.status = 3 then (s.benchStopping core).endBuild else s.benchStopping core).routing := by
  have h := State.abandonStore_storeOnly
    (if (s.benchStopping core).worlds.bench.status = 3 then (s.benchStopping core).endBuild else s.benchStopping core)
  unfold State.StoreOnly at h
  exact (congrArg State.routing h :)

theorem State.stopBench_eq {s : State} (h : s.worlds.bench.status < 2) (core : Nat) :
    s.stopBench core = if ((s.benchEnded core).resetUnit true).worlds.bench.status = 3 then
      ((s.benchEnded core).resetUnit true).log 0x0C04 0xF2 [1] else (s.benchEnded core).resetUnit true := by
  have hstopping : (s.benchStopping core).cards = s.cards := by simp only [State.benchStopping, State.deviceEvent_frame]
  have hcards : (if (s.benchStopping core).worlds.bench.status = 3 then (s.benchStopping core).endBuild
      else s.benchStopping core).cards.sd.waiting = s.cards.sd.waiting := by
    split
    · rw [State.endBuild_only, hstopping]
    · rw [hstopping]
  refine (if_neg (by omega)).trans ?_
  rw [State.benchEnded, ← hcards]
  rfl

/-- What the Bench's stop leaves of the machine, up to the records. -/
structure State.BenchStopped (core : Nat) (s t : State) : Prop where
  status : t.worlds.bench = s.stopped s.worlds.bench core
  rings : t.worlds.toBench = {} ∧ t.worlds.toHearth = {}
  hearth : t.worlds.hearth = s.worlds.hearth
  notice : s.worlds.hearth.status = 1 → Service.benchNotice ∈ t.worlds.pendingSvc
  routing : t.routing = { (s.benchStopped core).routing with lookups := t.routing.lookups }
  waiting : t.cards.sd.waiting = []
  cores : ∀ k, 1 ≤ k → k ≤ 4 → t.coreOf k = { pc := 0x400000 }
  blocks : t.crucible = s.crucible ∧ t.rack.slots = s.rack.slots ∧ t.zwm.bmem = s.zwm.bmem ∧ t.power = s.power

theorem State.benchStopping_worlds (core : Nat) (s : State) : (s.benchStopping core).worlds = { s.worlds with
    bench := s.stopped s.worlds.bench core, toBench := {}, toHearth := {}, helloOut := false
    pendingSvc := (s.worlds.pendingSvc.filter fun v => !v.ofRing) ++ (if s.worlds.hearth.status = 1 then [.benchNotice] else []) } := by
  simp only [State.benchStopping, State.deviceEvent_frame]

theorem State.benchEnded_stopped (core : Nat) (s : State) : s.BenchStopped core (s.benchEnded core) := by
  have hkeep := State.foldl_fail_finishKeeps 0x0302 0x14 s.cards.sd.waiting (s.benchStopped core)
  have honly := s.benchStopped_only core
  have hworlds : (s.benchStopped core).worlds = _ := (congrArg State.worlds honly :).trans (s.benchStopping_worlds core)
  have hzwm : (s.benchStopped core).zwm = { s.zwm with cores := coresRestarted s.zwm.cores } := by
    rw [honly]
    simp only [State.benchStopping, State.deviceEvent_frame]
  have hrest : (s.benchStopped core).crucible = s.crucible ∧ (s.benchStopped core).rack = s.rack ∧
      (s.benchStopped core).power = s.power ∧ (s.benchStopped core).cards = s.cards := by
    rw [honly]
    simp only [State.benchStopping, State.deviceEvent_frame, and_self]
  obtain ⟨hcruc, hrack, hpower, hcards⟩ := hrest
  refine ⟨?_, ⟨?_, ?_⟩, ?_, fun hh => hkeep.notice ?_, hkeep.routing, ?_, fun k h1 h4 => ?_, ?_, ?_, ?_, ?_⟩
  · exact hkeep.ends.bench.trans (by rw [hworlds])
  · exact hkeep.rings.1.trans (by rw [hworlds])
  · exact hkeep.rings.2.trans (by rw [hworlds])
  · exact hkeep.ends.hearth.trans (by rw [hworlds])
  · rw [hworlds]
    exact List.mem_append_right _ (by rw [if_pos hh]; exact List.mem_singleton_self _)
  · rw [State.benchEnded, State.waiting_foldl_fail, hcards]
    exact List.filter_eq_nil_iff.mpr fun w hw => by simp [hw]
  · refine (hkeep.cores k (by omega)).trans ?_
    rw [State.coreOf, hzwm]
    exact tget_coresRestarted h1 h4 _
  · exact hkeep.ends.crucible.trans hcruc
  · exact hkeep.ends.slots.trans (congrArg (·.slots) hrack)
  · exact hkeep.ends.bmem.trans (by rw [hzwm])
  · exact hkeep.power.trans hpower

/-- R382: the Bench with no access waiting at its protection unit. -/
theorem State.stopBench_stopped {s : State} (h : s.worlds.bench.status < 2) (hw : s.zwm.benchMpu.waiting = []) (core : Nat) :
    s.BenchStopped core (s.stopBench core) := by
  have hstopped := s.benchEnded_stopped core
  have hmpu : ((s.benchEnded core).mpuOf true).waiting = [] := by
    have hkeep := State.foldl_fail_finishKeeps 0x0302 0x14 s.cards.sd.waiting (s.benchStopped core)
    have hsame : (s.benchStopped core).zwm.benchMpu = s.zwm.benchMpu := by
      rw [s.benchStopped_only core]
      simp only [State.benchStopping, State.deviceEvent_frame]
    exact (congrArg Mpu.waiting (hkeep.ends.benchMpu.trans hsame)).trans hw
  obtain ⟨m, hm⟩ := State.resetUnit_of_none hmpu
  have hreset : s.BenchStopped core ((s.benchEnded core).resetUnit true) := by
    rw [hm]
    exact ⟨hstopped.status, hstopped.rings, hstopped.hearth, hstopped.notice, hstopped.routing, hstopped.waiting, hstopped.cores,
      hstopped.blocks⟩
  rw [State.stopBench_eq h]
  split
  · obtain ⟨q, l, d, hlog⟩ := State.log_only 0x0C04 0xF2 [1] ((s.benchEnded core).resetUnit true)
    rw [hlog]
    exact ⟨hreset.status, hreset.rings, hreset.hearth, hreset.notice, hreset.routing, hreset.waiting, hreset.cores, hreset.blocks⟩
  · exact hreset

theorem State.stopBench_of_stopped {s : State} (h : 2 ≤ s.worlds.bench.status) (core : Nat) : s.stopBench core = s := if_pos h

theorem State.endBuild_of_idle {s : State} (h : s.routing.busy = false) : s.endBuild = s := if_neg (by simp [h])

theorem State.endBuild_of_busy {s : State} (h : s.routing.busy = true) : s.endBuild = { s with
    routing := { s.routing with busy := false, built := none, refused := true, cause := 9, entry := 0 } } := if_pos h

/-- R290, R382: what the Bench's stop does to a build. -/
theorem State.benchStopped_build (core : Nat) (s : State) :
    (s.benchStopped core).routing.built = none ∧
    ((s.stopped s.worlds.bench core).status = 3 → s.routing.busy = true → (s.benchStopped core).routing.busy = false ∧
      (s.benchStopped core).routing.refused = true ∧ (s.benchStopped core).routing.cause = 9) ∧
    ((s.stopped s.worlds.bench core).status = 2 → (s.benchStopped core).routing.busy = s.routing.busy) := by
  have hst : (s.benchStopping core).worlds.bench = s.stopped s.worlds.bench core := by rw [State.benchStopping_worlds]
  have hbusy : (s.benchStopping core).routing.busy = s.routing.busy := by simp only [State.benchStopping, State.deviceEvent_frame]
  have hbuilt : (s.benchStopping core).routing.built = none := rfl
  rw [State.benchStopped_routing, hst]
  refine ⟨?_, fun h hb => ?_, fun h => ?_⟩
  · split
    · cases hb : (s.benchStopping core).routing.busy with
      | false => rw [State.endBuild_of_idle hb, hbuilt]
      | true => rw [State.endBuild_of_busy hb]
    · exact hbuilt
  · rw [if_pos h, State.endBuild_of_busy (hbusy.trans hb)]
    exact ⟨rfl, rfl, rfl⟩
  · rw [if_neg (by omega)]
    exact hbusy

/-! ### The Bench's restart (R290, R382) -/

/-- The Bench serves again from its image, its cores at the image entry. -/
def State.benchUp (s : State) : State :=
  State.startBench { s.endBuild with
    worlds := { s.worlds with bench := { s.worlds.bench with
      status := 1, restarts := satInc 65535 s.worlds.bench.restarts, restartAt := s.now :: s.recentRestarts s.worlds.bench } }
    zwm := { s.zwm with bmem := imageWords benchBase (imgBody (s.imageAt 1 (tget 3 s.life.boot 1))) } }

/-- Its restart is recorded. -/
def State.benchRuns (s : State) : State :=
  s.benchUp.log 0x0C02 0xF2 (leBytes 1 s.worlds.bench.cause ++ leBytes 2 (satInc 65535 s.worlds.bench.restarts))

theorem exec_benchRestart_of_sound {s : State} (h : s.worlds.bench.status = 2)
    (hf : s.imageFault 1 s.unsignedOk (s.imageAt 1 (tget 3 s.life.boot 1)) = 0) :
    exec .benchRestart s = .next s.benchRuns.sendHello :=
  next_congr ((if_neg (not_not.mpr h)).trans (if_neg fun hn => hn.1 hf))

theorem exec_benchRestart_of_fault {s : State} (h : s.worlds.bench.status = 2)
    (hf : ¬ s.imageFault 1 s.unsignedOk (s.imageAt 1 (tget 3 s.life.boot 1)) ∈ [0, 6]) : exec .benchRestart s = .next s := by
  refine next_congr ((if_neg (not_not.mpr h)).trans (if_pos ?_))
  simpa using hf

theorem exec_benchRestart_of_running {s : State} (h : s.worlds.bench.status ≠ 2) : exec .benchRestart s = .next s :=
  next_congr (if_pos h)

/-- What the start of the Bench changes. -/
theorem State.benchRuns_only (s : State) : s.benchRuns = { s with
    worlds := { s.worlds with bench := { s.worlds.bench with
      status := 1, restarts := satInc 65535 s.worlds.bench.restarts, restartAt := s.now :: s.recentRestarts s.worlds.bench } }
    zwm := { s.zwm with cores := coresRestarted s.zwm.cores, bmem := imageWords benchBase (imgBody (s.imageAt 1 (tget 3 s.life.boot 1))) }
    routing := s.endBuild.routing, store := s.benchRuns.store } := by
  have hlog : s.benchUp.StoreOnly s.benchRuns := State.log_storeOnly ..
  unfold State.StoreOnly at hlog
  rw [hlog]
  obtain ⟨r, hr⟩ : ∃ r, s.endBuild = { s with routing := r } := ⟨_, State.endBuild_only s⟩
  rw [State.benchUp, hr]
  rfl

/-! ### The clauses of O47 -/

/-- Settles O47: what each watchdog ends and clears, and what each restart loads and offers. -/
theorem worldRestarts : Obligations.WorldRestarts := by
  unfold Obligations.WorldRestarts
  refine ⟨fun s h hw => ?_, fun s op o h hw hmem ho => ?_, fun s h => next_congr (State.stopHearth_of_stopped h 0),
    fun s h hr hf => ?_, fun s h hf => exec_hearthRestart_of_fault h hf, fun s h => exec_hearthRestart_of_running h,
    fun s c h hw => ?_, fun s c h => next_congr (State.stopBench_of_stopped h c.val), fun s h hto hf => ?_,
    fun s h hf => exec_benchRestart_of_fault h hf, fun s h => exec_benchRestart_of_running h⟩
  · obtain ⟨⟨hrack, hcruc, hrout, hinsts, hvault, hleg, -, hbmem⟩, hworlds, hhmem, hclaim⟩ := State.stopHearth_cleared h hw 0
    obtain ⟨-, hgo, hbusy, hcer⟩ := s.hearthEnded_ends 0
    have hkeep := s.hearthEnded_endsKeep 0
    refine ⟨_, rfl, ?_, ?_, ?_, ?_, ?_, ?_, ?_, ?_, ?_, ?_, hhmem, hclaim, ?_, hcruc.trans hkeep.crucible, ?_, hinsts.trans hkeep.insts,
      ?_, hbmem.trans hkeep.bmem, ?_⟩
    · rw [hworlds]
      exact (congrArg World.status hkeep.hearth :)
    · rw [hworlds]
      exact hkeep.vaultUp
    · rw [hworlds]
    · rw [hworlds]
    · rw [hworlds]
    · rw [hworlds]
    · rw [hworlds]
    · rw [hworlds]
    · rw [hworlds]
      exact hgo
    · rw [hvault]
      exact hcer
    · rw [hrack]
      exact hkeep.slots
    · rw [hrout]
      exact hkeep.terms
    · rw [hworlds]
      exact hkeep.bench
    · rw [hleg]
      exact hbusy
  · obtain ⟨⟨-, -, -, -, -, -, hengine, -⟩, -, -, -⟩ := State.stopHearth_cleared h hw 0
    refine ⟨_, rfl, State.ended_congr (State.opOf_congr ?_ op) (State.hearthEnded_ended hmem ho 0)⟩
    exact (congrArg (·.tasks) hengine :)
  · have hst : s.hearthLoaded.worlds.bench.status = s.worlds.bench.status := by rw [State.hearthLoaded_worlds]
    have hc := exec_hearthRestart_of_sound h hf
    rw [hst] at hc
    have hdone : s.HearthRestarted (if s.worlds.bench.status = 1 then s.hearthLoaded.handshake else s.hearthLoaded).hearthServes := by
      split
      · exact State.hearthRestarted_of (State.handshake_keeps _)
      · exact State.hearthRestarted_of (.refl _)
    obtain ⟨⟨hstatus, hcount⟩, himage, ⟨hrack, hcruc, hrout, hbell, heng⟩, hten, hbench, hbmem⟩ := hdone
    refine ⟨_, hc, hstatus, hcount, himage hr, hrack, hcruc, hrout, hbell, congrArg (·.tasks) heng, hten, hbench, hbmem, fun hb => ?_,
      fun hb hh hbe hwf => ?_⟩
    · rw [if_neg hb, State.hearthServes_worlds]
      refine ⟨?_, ?_⟩
      · exact (congrArg Worlds.hbi s.hearthLoaded_worlds :)
      · exact (congrArg Worlds.vaultUp s.hearthLoaded_worlds :)
    · have hload := s.hearthLoaded_worlds
      have hmsg := s.hearthLoaded_msg
      have hhs := State.handshake_of_empty (s := s.hearthLoaded) (by rw [hload]; exact hh) (by rw [hload]; exact hbe)
        (by rw [hmsg]; exact hwf)
      have hchosen : s.hearthLoaded.chosen = s.chosen := by
        unfold State.chosen
        rw [hload]
      rw [hchosen] at hhs
      rw [if_pos hb, State.hearthServes_worlds]
      exact hhs
  · have hstop := State.stopBench_stopped h hw c.val
    obtain ⟨hbuilt, hbusy3, hbusy2⟩ := s.benchStopped_build c.val
    refine ⟨_, rfl, ?_, ?_, hstop.rings.1, hstop.rings.2, hstop.notice, ?_, fun h3 hb => ?_, fun h2 => ?_, hstop.waiting, hstop.cores,
      hstop.blocks.1, hstop.blocks.2.1, hstop.hearth, hstop.blocks.2.2.1, hstop.blocks.2.2.2⟩
    · rw [hstop.status]
      rfl
    · rw [hstop.status]
      rfl
    · rw [hstop.routing]
      exact hbuilt
    · rw [hstop.status] at h3
      rw [hstop.routing]
      exact hbusy3 h3 hb
    · rw [hstop.status] at h2
      rw [hstop.routing]
      exact hbusy2 h2
  · have honly := s.benchRuns_only
    have hroom : s.benchRuns.worlds.toHearth.tail - s.benchRuns.worlds.toHearth.head < 16 := by
      rw [honly]
      show s.worlds.toHearth.tail - s.worlds.toHearth.head < 16
      rw [hto]
      decide
    have hc := (exec_benchRestart_of_sound h hf).trans (congrArg _ (State.sendHello_of_room hroom))
    have hworlds := s.benchRuns.helloSent_worlds
    have hsent := s.benchRuns.helloSent_only
    have hzwm : s.benchRuns.helloSent.zwm.bmem = s.benchRuns.zwm.bmem ∧ s.benchRuns.helloSent.zwm.hmem = s.benchRuns.zwm.hmem ∧
        s.benchRuns.helloSent.zwm.cores = wakeCores false s.benchRuns.zwm.cores := by
      simp only [State.helloSent, State.passedToHearth, State.stored, and_self]
    obtain ⟨hbmem, hhmem, hcores⟩ := hzwm
    have hroute : s.benchRuns.helloSent.routing = s.endBuild.routing :=
      (congrArg State.routing hsent :).trans (congrArg State.routing honly :)
    refine ⟨_, hc, ?_, ?_, ?_, ?_, fun k h1 h4 => ?_, ?_, ?_, ?_, ?_, ?_, fun hb => ?_, fun hb => ?_⟩
    · rw [hworlds, honly]
    · rw [hworlds, honly]
    · rw [hworlds]
    · rw [hworlds, honly]
      show s.worlds.toHearth.tail + 1 = 1
      rw [hto]
    · rw [State.coreOf, hcores, honly]
      exact tget_wakeCores_restarted h1 h4 _
    · rw [hbmem, honly]
      rfl
    · rw [hhmem, honly]
    · exact (congrArg State.rack hsent :).trans (congrArg State.rack honly :)
    · exact (congrArg State.crucible hsent :).trans (congrArg State.crucible honly :)
    · rw [hworlds, honly]
      rfl
    · rw [hroute, State.endBuild_of_idle hb]
    · rw [hroute, State.endBuild_of_busy hb]

end Sys2Proof.Machine
end

section
/-!
REFUTATION of O37: the clause for a card that is removed while an operation's conversation is on its port says that the Hearth's record of
tenants stays, and does not say that the operation holds no reservation of a key slot, which its end gives back.
-/
namespace Sys2Proof.Machine

/-- A card in port 0, whose conversation belongs to operation 1; the operation holds the one key slot that tenant 0 uses. -/
def reservedConversation : State :=
  { cards := { ports := [(0, { present := true })], session := some { port := 0, op := some 1 } }
    engine := { tasks := [{ id := 1, reserved := true }] }
    vault := { tenants := [(0, { slotsUsed := 1 })] } }

/-- The end of the operation gives the slot back to the tenant. -/
theorem reservedConversation_removed : ∃ t, exec (.cardRemoved 0 none) reservedConversation = .next t ∧
    (tget {} t.vault.tenants 0).slotsUsed = 0 :=
  ⟨_, rfl, by decide +kernel⟩

/-- Refutes O37: the removal of the card changes the slots that the tenant uses. -/
theorem not_cards : ¬ Obligations.Cards := by
  rintro ⟨⟨-, -, -, hremoved, -⟩, -⟩
  obtain ⟨t, ht, hused⟩ := reservedConversation_removed
  obtain ⟨u, hu, -, -, -, -, hvault, -⟩ := hremoved reservedConversation 0 none _ 1 _ (by decide) (by decide) rfl rfl rfl rfl
  rw [ht] at hu
  obtain rfl := Host.Outcome.next.inj hu
  rw [hvault] at hused
  exact absurd hused (by decide)

end Sys2Proof.Machine
end

section
/-!
REFUTATION of O38: the clause of ARCHIVE_FORMAT says that the Rack stays as it was, and does not say that no rewrap buffer of a lane holds
data of the operation, which its end releases.
-/
namespace Sys2Proof.Machine

/-- ARCHIVE_FORMAT as it waits for the card with its random bytes. -/
def formatting : Op := { id := 1, stage := .channel, desc := BitVec.ofNat 512 (0x464D5441 * 2 ^ 448 + 0x0704), seed := some [] }

/-- A ready card, both worlds up, and a rewrap buffer that bears the number of the operation. -/
def formatHoldsBuffer : State :=
  { engine := { tasks := [formatting] }
    cards := { sd := { present := true, state := 2, waiting := [1] } }
    worlds := { bench := { status := 1 }, vaultUp := true }
    rack := { rewraps := [(0, { op := 1, data := [7] })] } }

/-- The end of the operation clears the buffer. -/
theorem formatHoldsBuffer_clears : ∃ t, exec (.archiveFormat 1 {} .done) formatHoldsBuffer = .next t ∧ t.rack.rewraps = [] :=
  ⟨_, rfl, by decide +kernel⟩

/-- Refutes O38: ARCHIVE_FORMAT in `formatHoldsBuffer` changes a buffer of the Rack. -/
theorem not_archives : ¬ Obligations.Archives := by
  rintro ⟨hserved, -⟩
  obtain ⟨t, ht, hnil⟩ := formatHoldsBuffer_clears
  obtain ⟨-, -, -, -, -, -, -, hformat⟩ := hserved formatHoldsBuffer 1 formatting {} rfl rfl (by decide +kernel) (by decide +kernel)
    (by decide +kernel) rfl rfl
  obtain ⟨u, hu, -, -, -, -, hrack⟩ := hformat [] (by decide +kernel) rfl rfl (by decide +kernel) rfl
  rw [ht] at hu
  obtain rfl := Host.Outcome.next.inj hu
  rw [hrack] at hnil
  exact List.cons_ne_nil _ _ hnil

end Sys2Proof.Machine
end
